-- ==== Sys2Proof/Word.lean ====
section
/-! DEFINITION. Sys2Proof/Word.lean: the words the device moves, and their plainest arithmetic. -/

namespace Sys2Proof

/-- Eight bits: a mailbox payload byte, a byte of a line. -/
abbrev Byte := BitVec 8

/-- A register of BAR2 (R410: registers are read and written 4 bytes at a time). -/
abbrev Word := BitVec 32

/-- A 64 B line of memory, byte 0 in the low eight bits (R176). -/
abbrev Line := BitVec 512

/-- A mailbox payload or result, byte 0 first (R393). -/
abbrev Payload := List Byte

end Sys2Proof
end

