-- ==== Sys2Proof/Syntax.lean ====
section
/-! DEFINITION. Sys2Proof/Syntax.lean: the commands and events the device takes, one constructor for each row of
spec/opcode_table.json, and the plain data their operands carry. The table gives the rows no operands: an operand
here is what the rule of the row says reaches the device from outside (a pin level, a measured value, a message, a
register value, an address), or names the unit or the open transaction the event is about. `flips` are the bits of a line's words that
came back changed. An operand with a default says what reading found beyond the ordinary; left out, it found nothing. -/

namespace Sys2Proof

/-- The two host ports (R329). -/
inductive PortId where
  | a
  | b
  deriving DecidableEq, Repr

/-- The interfaces of Barista (R390): the mailboxes of Port A and Port B, and the MCTP CCI over SMBus. -/
inductive Iface where
  | portA
  | portB
  | mctp
  deriving DecidableEq, Repr

/-- The access sources of BAR2 (R409). -/
inductive Source where
  | portA
  | portB
  | mctp
  | barista
  deriving DecidableEq, Repr

/-- The supplies, in the row order of the table of R505. -/
inductive Rail where
  | vdd
  | vddSerdes
  | vddhSerdes
  | vddqDdr
  | vddStk
  | vppStk
  | vaux
  deriving DecidableEq, Repr

/-- The service classes (R289). -/
inductive Cls where
  | g
  | l
  | b
  | s
  deriving DecidableEq, Repr

/-- MetaValue, the Meta0-State a host requests or reports (R268). -/
inductive Meta where
  | invalid
  | shared
  | any
  deriving DecidableEq, Repr

/-- A far channel, 0 to 7 (R171). -/
abbrev FarCh := Fin 8

/-- A physical Crema channel, 0 to 31 (R94). -/
abbrev CremaCh := Fin 32

/-- What a reading of Crema lines found in error: the frame as 16 x set + way, the line, and the flipped bits of each of its words. -/
abbrev LineErrs := List ((Nat × Fin 64) × List (BitVec 80))

/-- A tenant, 0 to 31 (R81). -/
abbrev TenantId := Fin 32

/-- What the island measures of the inlet: INL_SENSEP, INL_VOUT and the gate above INL_VOUT in 10 mV, the current in
10 mA, and the FET temperature in degrees as the diode reads it (R510 to R514, R524). -/
structure InletMeas where
  vin : Nat
  vout : Nat
  iout : Nat
  gate : Nat
  tdiode : Nat
  deriving DecidableEq, Repr

/-- One temperature sensor's sample: quarters of a degree, and whether its self-check passed (R139, R141). -/
structure Reading where
  quarters : Int
  selfCheck : Bool
  deriving DecidableEq, Repr

/-- One DIMM as its SPD describes it (R72, R143, R144). Sizes are in 8 GiB units, `ranks` counts physical ranks and
`height` the chips of a 3DS stack; refresh timings are in tenths of a nanosecond, `rfm1024` is the module's RFM rate
in 1/1024 of the slots (R170), `raaimt` the activates of a bank after which its mode registers ask for refresh management, 0 for none
(R153). `speed` is the SPEED code of R171, `gib` the DIMM's capacity; 0 is an empty slot. -/
structure Dimm where
  buffered : Bool
  mrdimm : Bool
  speed : Nat
  x8 : Bool
  x16 : Bool
  ecc : Bool
  ranks : Nat
  height : Nat
  gib : Nat
  trfc : Nat
  trfcsb : Nat
  rfm1024 : Nat
  raaimt : Nat
  deriving DecidableEq, Repr

/-- What TSV training found of one channel (R127): the lanes of its 80 that failed the lane test, and whether impedance calibration,
deskew and eye centring passed. -/
structure TsvResult where
  lanes : BitVec 80
  impedance : Bool
  skew : Bool
  eye : Bool
  deriving DecidableEq, Repr

/-- What one physical rank's MR4 reports (R152): its rate, or the high-temperature flag at a rate of at most 2×. -/
inductive Mr4 where
  | x1
  | x2
  | above
  | hotFlag
  deriving DecidableEq, Repr

/-- An HDM decoder as the host writes it (R65, R338); `biEnabled` is whether the port's BI Decoder Capability is enabled then. -/
structure HdmCfg where
  base : Nat
  size : Nat
  skip : Nat
  ways : Nat
  gran : Nat
  bi : Bool
  biEnabled : Bool
  biId : Nat
  deriving DecidableEq, Repr

/-- The HALT causes 0x01 to 0x09 (R486). -/
inductive HaltCause where
  | farMac
  | treeTag
  | counterExhaustion
  | relayIntegrity
  | registerParity
  | seal
  | debug
  | chainHalt
  | fabricHeader
  deriving DecidableEq, Repr

/-- RESULT of a self-test (R498). -/
inductive BistResult where
  | pass
  | repairable
  | beyondSpares
  | windowLeft
  | aborted
  deriving DecidableEq, Repr

/-- The transports of the SPDM responder (R462). -/
inductive Transport where
  | doeA
  | doeB
  | mctp
  deriving DecidableEq, Repr

/-- Where a host request comes from and what it names: port, LD-ID, host physical address, and the host's own tag. -/
structure HostReq where
  port : PortId
  ld : Nat
  hpa : Nat
  tag : Nat
  deriving DecidableEq, Repr

/-- The AtomicOps of R282. -/
inductive AtomicKind where
  | fetchAdd
  | swap
  | cas
  deriving DecidableEq, Repr

/-- An AtomicOp's operands: its size in bytes (4, 8 or 16), the value, CAS's compare value, and the requester ID
(R282, R284). -/
structure AtomicArgs where
  kind : AtomicKind
  bytes : Nat
  operand : BitVec 128
  compare : BitVec 128
  requester : Nat
  deriving DecidableEq, Repr

/-- What the MAC, tag and metadata checks of a far line read meet after its ECC (R182 step 5, R217, R221, R257). The
comparison itself runs on values only the DIMM and the key registers hold, so its outcome is the event's operand. -/
inductive FarCheck where
  /-- every check passed -/
  | ok
  /-- the line's MAC does not match after a clean or corrected decode -/
  | macMismatch
  /-- a counter block's or node's tag does not match its verified parent -/
  | tagMismatch
  /-- the counter block is uncorrectable -/
  | counterUe
  /-- the MAC line is uncorrectable -/
  | macLineUe
  /-- one copy of a tree node is uncorrectable -/
  | nodeUe
  /-- both copies of the tree node at this level and index are uncorrectable -/
  | nodeBothUe (level : Nat) (index : Nat)
  /-- both copies of the page's map line are unreadable -/
  | mapUe
  deriving DecidableEq, Repr

/-- The on-die arrays with merge buffers (R179, R180, R491). -/
inductive Array64K where
  | directory
  | tagCache
  | metadataCache
  | pressSram
  | lineBufferPool
  | extentTable
  | eventRing
  deriving DecidableEq, Repr

/-- The four meshes (R312). -/
inductive Mesh where
  | req
  | rsp
  | snp
  | dat
  deriving DecidableEq, Repr

/-- The IDE streams of a port (R345). -/
inductive IdeStream where
  | link
  | cxlMem
  | sel (n : Fin 4)
  deriving DecidableEq, Repr

/-- How host link training ends (R331, R334): no x4 link, a PCIe link only, or CXL with a partner of 2.0 or of 3.x at
a width, a rate code (1 to 6 for 2.5 to 64 GT/s), and whether the partner is an MLD port and advertises the
latency-optimised flit. -/
inductive LinkResult where
  | noX4
  | pcieOnly (width : Nat) (rate : Nat)
  | cxl (gen3 : Bool) (width : Nat) (rate : Nat) (mld : Bool) (lopt : Bool)
  deriving DecidableEq, Repr

/-- Why the head finds a loss (R382). -/
inductive LossCause where
  | relayDown
  | linkBroken
  | holdOut
  | rollCall
  deriving DecidableEq, Repr

/-- A Relay message's header slot (R359). `line` is MA[47:6]. -/
structure RelayMsg where
  tag : Nat
  dest : Nat
  src : Nat
  cls : Cls
  tenant : TenantId
  sharer : Fin 16
  db : Bool
  comp : Bool
  poison : Bool
  dslots : Nat
  line : Nat
  opx : Nat
  hops : Nat
  deriving DecidableEq, Repr

/-- A Relay flit as it arrives (R356 to R358): whether the FEC decodes it and whether it corrected, then the decoded bytes by
field: header, 14 payload slots, TAG, PIGGY, CRC. Of what the device decrypts it holds whether the GCM tag matches, whether every
opcode is assigned, and the message slots by VC. -/
structure Flit where
  fecOk : Bool
  fecCorrected : Bool
  header : BitVec 16
  payload : List (BitVec 128)
  tag : BitVec 96
  piggy : BitVec 32
  crc : BitVec 64
  tagOk : Bool
  opcOk : Bool
  slots : List (Nat × BitVec 128)
  deriving DecidableEq, Repr

/-- A certificate of a chain (R461): the bytes its issuer signed, the composite public key that it holds, its composite signature. -/
structure Cert where
  body : Payload
  key : Payload
  signature : Payload
  deriving DecidableEq, Repr

/-- A chain member's record (R373). -/
structure MemberRec where
  id : Nat
  mode : Nat
  erasing : Bool
  x8 : Bool
  nearGib : Nat
  dataBlocks : Nat
  farFloor : Nat
  ident : BitVec 128
  deriving DecidableEq, Repr

/-- A ROLL message (R373). -/
structure Roll where
  ret : Bool
  epoch : Nat
  next : Nat
  confine : Bool
  brk : Bool
  overlong : Bool
  recs : List MemberRec
  deriving DecidableEq, Repr

/-- A 64 B ring record (R473, R548): `detail` holds its DETAIL words, trailing zero words left out. -/
structure EventRec where
  pour : BitVec 64
  cyc : Nat
  sev : Nat
  code : Nat
  chid : BitVec 16
  tenant : Option TenantId
  cls : Option Cls
  loss : Bool
  fromMember : Bool
  locator : BitVec 64
  rseq : Nat
  repeats : Nat
  detail : List Word
  deriving DecidableEq, Repr

/-- The commands and events of the device: the rows of spec/opcode_table.json in the order of the table. -/
inductive Instr where
  /-- VAUX_START (R507). VAUX reaches range; the always-on island leaves reset, samples SMB_ADDR, reads the Canister fault record and acts on it under R516. -/
  | vauxStart (smbAddr : BitVec 2) (prsntHigh : Bool) (perstLow : Bool)
  /-- VAUX_LOSS (R506). VAUX stays outside its dynamic range for 10 µs or longer; the island resets, both inlet gates go low and the device takes a cold reset. -/
  | vauxLoss
  /-- MAIN_RAIL_LOSS (R506). A supply monitor stays out of range for 10 µs or longer with VAUX present, which counts as loss of the main rail; the device takes a cold reset and records the first failing rail. -/
  | mainRailLoss (rail : Rail)
  /-- POWER_GOOD (R47). Every supply monitor reaches range; if PERST_A_N is already deasserted, the device goes from COLD to FILL. -/
  | powerGood
  /-- PERST_A_N_ASSERT (R61). PERST_A_N is asserted; within 1 µs the data and control planes are held in reset, work in flight is discarded and the device enters COLD. -/
  | perstANAssert
  /-- PERST_A_N_DEASSERT (R37). PERST_A_N is deasserted; PORT_MODE is sampled, and the device goes from COLD to FILL at the later of this edge and power-good; a glitch hold ends here after a full low-high cycle. -/
  | perstANDeassert (straps : BitVec 3)
  /-- PERST_B_N_ASSERT (R62). In the dual-headed mode, assertion of PERST_B_N is a link-down of Port B; in every other mode it is ignored. -/
  | perstBNAssert
  /-- PRSNT_N_HIGH (R519). PRSNT_N goes high; both inlet gates go low within 2 µs and the inlet enters OFF, with no fault recorded and FAILS kept. -/
  | prsntNHigh
  /-- PRSNT_N_LOW (R507). PRSNT_N goes low; once no OFF condition remains, the inlet leaves OFF for CHECK. -/
  | prsntNLow
  /-- THERMTRIP_N_ASSERT (R521). A sensor reaches 110 °C and the analogue comparator asserts THERMTRIP_N; the inlet gates go low and the inlet latches with cause 0x08. -/
  | thermtripNAssert (m : InletMeas)
  /-- THERMTRIP_RELEASE (R521). Both island sensors read below 90 °C and at least 1 s has passed; THERMTRIP_N is released. -/
  | thermtripRelease (island0 : Int) (island1 : Int)
  /-- GLITCH_DETECT (R466). A supply or clock glitch detector fires; internal PERST_A_N is asserted within 1 µs, the detection is recorded, and after four detections in 4 s the device is held in COLD. -/
  | glitchDetect (nowMs : Nat)
  /-- GLITCH_RESET_RELEASE (R466). The glitch condition has been clear for 1 ms; the internal reset deasserts and the device starts as from COLD. -/
  | glitchResetRelease
  /-- JTAG_DEBUG_INSTRUCTION (R467). In TEST or RMA, the first scan, memory-access or boundary-scan instruction zeroises the keys, enters HALT with cause debug access and sets JTAG_OPEN. -/
  | jtagDebugInstruction
  /-- CA_PARITY_ALERT (R481). A DDR5 module signals a command-address parity error; the device re-issues the affected command once, and CA_LIMIT alerts in one pour lose the channel. -/
  | caParityAlert (ch : FarCh) (txn : Option Nat) (again : Bool)
  /-- INLET_CHECK_PASS (R507). CHECK completes its 1 ms window; the inlet goes to WAIT, PRECHG or LATCHED. -/
  | inletCheckPass (m : InletMeas) (diode : Bool)
  /-- PRECHARGE_COMPLETE (R509). INL_VOUT exceeds 90 % of INL_SENSEP and RAMP begins. -/
  | prechargeComplete (m : InletMeas)
  /-- PRECHARGE_TIMEOUT (R509). PRE_T expires before the load charges; the attempt fails with cause 0x01. -/
  | prechargeTimeout (m : InletMeas)
  /-- RAMP_COMPLETE (R510). INL_VOUT is within 0.15 V of INL_SENSEP with sufficient gate drive; the inlet enters ON and writes a success entry. -/
  | rampComplete (m : InletMeas)
  /-- RAMP_NOT_TRACKING (R510). INL_VOUT lags its target by more than 0.6 V for 100 µs, or falls below 80 %; the attempt fails with cause 0x02. -/
  | rampNotTracking (m : InletMeas)
  /-- CURRENT_LIMIT_TIMEOUT (R511). The current has stayed at ILIM for more than 2 ms; fault with cause 0x03. -/
  | currentLimitTimeout (m : InletMeas)
  /-- OVERCURRENT_TRIP (R511). The comparator senses a current above 2 × ILIM; fault with cause 0x04. -/
  | overcurrentTrip (m : InletMeas)
  /-- FET_OVERTEMP (R511). The FET temperature reaches TMAX; fault with cause 0x05. -/
  | fetOvertemp (m : InletMeas)
  /-- POWER_GOOD_TIMEOUT (R511). Power-good has not been reached within 200 ms of ON entry; fault with cause 0x09. -/
  | powerGoodTimeout (m : InletMeas) (outOfOrder : Option Rail)
  /-- GATE_RISE_TIMEOUT (R513). The gate has not risen 2.5 V above INL_VOUT within 10 ms of RAMP entry; the inlet latches with cause 0x06. -/
  | gateRiseTimeout (m : InletMeas)
  /-- RETRY_WAIT_EXPIRY (R515). The 1 s or 2 s retry delay ends and a new attempt begins with PRECHG. -/
  | retryWaitExpiry
  /-- FAILS_CLEAR_TIMEOUT (R515). ON has held for 60 s without a fault; FAILS returns to 0 and a cleared entry is written. -/
  | failsClearTimeout
  /-- FET_MODEL_UPDATE (R512). Every 10 µs the FET energy model updates its temperature estimate. -/
  | fetModelUpdate (m : InletMeas)
  /-- XT_INLET_CLEAR (R517). The inlet clear command sets FAILS to 0, writes a cleared entry and schedules CHECK after 1 s, unless the last cause is a thermal trip that is still hot. -/
  | xtInletClear (i : Iface) (p : Payload)
  /-- INL_CLEAR (R517). A completed keyed pair of INL_CLEAR with 0x0000_0090 clears the inlet as XT_INLET_CLEAR does. -/
  | inlClear (src : Source) (key : Word)
  /-- CLEAR_DELAY_EXPIRY (R517). 1 s after a clear from LATCHED or WAIT, the inlet enters CHECK. -/
  | clearDelayExpiry
  /-- INL_OVERRIDE_OFF (R518). A keyed write with OFF = 1 takes both gates low within 2 µs, as an orderly shutdown. -/
  | inlOverrideOff (src : Source) (key : Word)
  /-- INL_OVERRIDE_ON (R518). A keyed write with OFF = 0 returns the inlet to CHECK. -/
  | inlOverrideOn (src : Source) (key : Word)
  /-- INL_OVERRIDE_MODEL (R518). A keyed write with MODEL = 1 selects the energy model in place of the diode. -/
  | inlOverrideModel (src : Source) (key : Word)
  /-- POWER_CAP_SAMPLE (R523). Each 4,096 pours, averaged board power is compared with CAP; above CAP, the base-die throttle is applied. -/
  | powerCapSample (deciWatts : Nat)
  /-- POWER_CAP_RELEASE (R523). The average has stayed below 95 % of CAP for 65,536 pours; the power-cap throttle releases. -/
  | powerCapRelease
  /-- POSTED_WRITE (R417). A write to an RWP register sets PEND and posts the value to the always-on domain, or is discarded with POSTDROP while PEND = 1. -/
  | postedWrite (src : Source) (off : Nat) (value : Word)
  /-- POSTING_COMPLETE (R417). A posting completes within 2 pours; PEND clears, and an invalid value is refused with CFGERR. -/
  | postingComplete (off : Nat)
  /-- CORE_CLOCK_LOCK (R22). The core clock locks in FILL, pour 0 begins, and the FILL sequence starts: key draw, TSV training, array fill and metadata fill. -/
  | coreClockLock (healthOk : Bool)
  /-- TSV_TRAINING_COMPLETE (R127). TSV training of the 32 Crema channels ends; failed channels are mapped under R95. -/
  | tsvTrainingComplete (results : List TsvResult)
  /-- FILL_COMPLETE (R38). The FILL sequence is complete and the device enters BOOT. -/
  | fillComplete (arraysOk : Bool)
  /-- BOOT_COMPLETE (R38). BOOT ends with firmware verified and settings applied, and the device enters TRAIN, or enters MAINT for recovery or a fatal FILL failure. -/
  | bootComplete (sigFailA : Option Nat) (sigFailB : Option Nat) (dimms : List (List Dimm))
  /-- TRAIN_COMPLETE (R38). DDR5 training ends; the device enters AWAIT if any far channel trained, otherwise MAINT. -/
  | trainComplete (failed : BitVec 8)
  /-- AWAIT_TRIGGER (R40). The trigger for the port mode takes effect, and the device leaves AWAIT for SERVE or DEGRADED. -/
  | awaitTrigger
  /-- HDM_DECODER_COMMIT (R338). A host commits an HDM decoder; the commit acts at the next pour boundary and may fail with Error Not Committed. -/
  | hdmDecoderCommit (port : PortId) (ld : Nat) (idx : Fin 8) (cfg : HdmCfg)
  /-- THERMAL_HOLD_END (R42). The wake condition for thermal DRAIN_DEST holds from the start of a thermal hold, and the stopped FILL, BOOT or TRAIN step runs again. -/
  | thermalHoldEnd
  /-- MODE_REQ_DRAIN_RESET (R44). A committed TARGET = 0x1 enters DRAIN with destination reset. -/
  | modeReqDrainReset
  /-- MODE_REQ_DRAIN_REMOVAL (R44). A committed TARGET = 0x2 enters DRAIN with destination removal. -/
  | modeReqDrainRemoval
  /-- MODE_REQ_DRAIN_HIBERNATE (R44). A committed TARGET = 0x3 enters DRAIN with destination HIBERNATE. -/
  | modeReqDrainHibernate
  /-- MODE_REQ_WAKE (R59). A committed TARGET = 0x4 wakes the device from software HIBERNATE. -/
  | modeReqWake
  /-- MODE_REQ_DRAIN_MAINT (R44). A committed TARGET = 0x5 enters DRAIN with destination MAINT. -/
  | modeReqDrainMaint
  /-- MODE_REQ_LEAVE_MAINT (R38). A committed TARGET = 0x6 leaves MAINT for AWAIT or TRAIN. -/
  | modeReqLeaveMaint
  /-- DRAIN_LAST_TRANSACTION_CLOSED (R55). The last open transaction in DRAIN closes; later requests are held, and the flush starts when required. -/
  | drainLastTransactionClosed
  /-- DRAIN_FLUSH_COMPLETE (R55). The writeback of dirty far-cache lines during DRAIN completes. -/
  | drainFlushComplete (errs : LineErrs := [])
  /-- DRAIN_PAUSE_BOUNDARY (R55). At the next boundary, patrol scrub and rekey pause and DRAINED is set. -/
  | drainPauseBoundary
  /-- DRAIN_DESTINATION_ACTION (R56). DRAIN ends with the destination action: wait for reset, removal to COLD, HIBERNATE or MAINT. -/
  | drainDestinationAction
  /-- THERMAL_WAKE_COUNT_EXPIRY (R59). Every sensor has stayed below the wake thresholds for 65,536 consecutive pours, and a thermal HIBERNATE wakes. -/
  | thermalWakeCountExpiry
  /-- WAKE_COMPLETE (R60). 196 pours after the wake trigger, the device returns to the mode held before DRAIN and returns CXL.mem credits. -/
  | wakeComplete
  /-- DROWSE_IDLE_EXPIRY (R52). An eligible far channel has had no request for IDLE pours; it enters self-refresh, and the device enters DROWSE. -/
  | drowseIdleExpiry (ch : FarCh)
  /-- CHANNEL_WAKE (R53). A request or writeback reaches a sleeping far channel, which leaves self-refresh within 8 pours; the device returns to SERVE when the last channel wakes. -/
  | channelWake (ch : FarCh)
  /-- UNIT_RESTORED (R483). At the first boundary at which no DEGRADED condition holds, the device returns to SERVE. -/
  | unitRestored
  /-- HALT_ENTRY (R487). A HALT cause is detected; ports and write queues stop, keys are zeroised, viral and HALT flits are sent, and outstanding requests complete. -/
  | haltEntry (cause : HaltCause) (chid : BitVec 16) (loc : BitVec 64)
  /-- HALT_BOUNDARY (R487). At the boundary after detection, MODE reads HALT, EVT_HALT is written, ALERT_N is asserted and DRAM enters self-refresh. -/
  | haltBoundary
  /-- HALT_RECORD_WRITE (R488). The island writes the 256 B HALT record to the Canister within 4 ms. -/
  | haltRecordWrite
  /-- POUR_BOUNDARY (R24). At each pour boundary, windows close, the pour counter increments, commits and hardware changes take effect, tables flip, budgets load and Barista steps are released. -/
  | pourBoundary
  /-- HOLD_EXPIRY (R276). At the second pour boundary after a MetaValue Any grant, the directory HOLD bit clears. -/
  | holdExpiry (line : Nat)
  /-- GUARANTEE_WINDOW_CHECK (R30). At the end of each window of 64 pours, delivered class-G lines are compared with each guarantee, and breach or short is raised. -/
  | guaranteeWindowCheck
  /-- STAGED_REGISTER_WRITE (R422). A write to an RWS field sets its pending entry, or is discarded when it comes from an interface that is not the staging owner. -/
  | stagedRegisterWrite (src : Source) (off : Nat) (value : Word)
  /-- XT_STAGE_CHECK (R423). The staging set is validated in code order within 64 pours, and CHECKED and the seal reference are set. -/
  | xtStageCheck (i : Iface) (p : Payload)
  /-- XT_STAGE_COMMIT (R425). The commit command requires CHECKED and schedules the commit for the next pour boundary. -/
  | xtStageCommit (i : Iface) (p : Payload)
  /-- COMMIT_TAKES_EFFECT (R425). At the commit boundary, four checks are re-evaluated and then every pending entry and staged command takes effect, or the commit returns Retry Required. -/
  | commitTakesEffect
  /-- XT_STAGE_ABORT (R426). Pending entries are reset to the committed values, staged commands are discarded and the owner is released. -/
  | xtStageAbort (i : Iface) (p : Payload)
  /-- REGISTER_WRITE (R412). A write to a register without a row of its own updates its writable fields, or is discarded for partial byte enables, the snapshot copy or a locked page. -/
  | registerWrite (src : Source) (off : Nat) (value : Word) (be : BitVec 4)
  /-- RC_READ (R413). A read of an RC field clears exactly the bits or count that it returns. -/
  | rcRead (src : Source) (off : Nat) (be : BitVec 4)
  /-- GLB_POUR_LO_READ (R31). A read of GLB_POUR_LO latches POUR_HI and CYC from the same core cycle. -/
  | glbPourLoRead (src : Source)
  /-- CRY_MAJOR_NEXT_LO_READ (R234). A read of CRY_MAJOR_NEXT_LO latches its HI word. -/
  | cryMajorNextLoRead (src : Source)
  /-- STG_COMMIT_POUR_LO_READ (R434). A read of STG_COMMIT_POUR_LO latches its HI word. -/
  | stgCommitPourLoRead (src : Source)
  /-- IND_DATA_ACCESS (R418). An access to IND_DATA acts at the offset held in IND_ADDR, which advances when AUTO is set. -/
  | indDataAccess (src : Source) (wr : Option Word)
  /-- SNAP_CTL_REQ (R427). A write of 1 to SNAP_CTL.REQ requests a snapshot at the next cycle 511. -/
  | snapCtlReq (src : Source)
  /-- KEYED_VALUE_WRITE (R414). A value write to an RWK register arms a keyed pair for its source. -/
  | keyedValueWrite (src : Source) (off : Nat) (value : Word)
  /-- KEYED_PAIR_TIMEOUT (R414). No KEY write arrives within 256 cycles of the value write; the value is discarded and GLB_KEYFAIL is set. -/
  | keyedPairTimeout (src : Source)
  /-- REGISTER_PARITY_ERROR (R429). A register parity mismatch is found on use; the register reloads from its committed entry, or the device halts if both copies are bad. -/
  | registerParityError (off : Nat) (regBad : Bool) (committedBad : Bool)
  /-- GLB_SEAL_CTL_OFF (R431). A keyed write of MODE = OFF clears SEALED and the reference. -/
  | glbSealCtlOff (src : Source) (key : Word)
  /-- GLB_SEAL_CTL_ENFORCE (R431). A keyed write of MODE = ENFORCE selects scans whose mismatch halts. -/
  | glbSealCtlEnforce (src : Source) (key : Word)
  /-- GLB_SEAL_CTL_REPORT (R431). A keyed write of MODE = REPORT is accepted only in TEST and makes a mismatch report only. -/
  | glbSealCtlReport (src : Source) (key : Word)
  /-- SEAL_COMMIT (R431). A write to SEAL_COMMIT with MODE not OFF starts a reference scan at the next boundary. -/
  | sealCommit (src : Source)
  /-- SEAL_REFERENCE_SCAN_COMPLETE (R431). The reference scan's CRC becomes the reference, and SEALED reads 1. -/
  | sealReferenceScanComplete
  /-- SEAL_SCAN_START (R431). While sealed, a scan starts every 4,096 pours. -/
  | sealScanStart
  /-- SEAL_SCAN_COMPLETE (R431). A completed scan is compared with the reference; a mismatch halts or is reported. -/
  | sealScanComplete (err : Word)
  /-- GLB_LC_ADV (R452). A keyed write of TARGET in MAINT starts a lifecycle fuse burn at the next boundary, or is refused. -/
  | glbLcAdv (src : Source) (key : Word)
  /-- LIFECYCLE_BURN_COMPLETE (R451). The lifecycle burn ends, and the effects of the state entered are applied. -/
  | lifecycleBurnComplete
  /-- IDENTITY_KEYGEN_COMPLETE (R459). Identity key generation in PROVISIONED finishes, and the wrapped keys are written to fuses. -/
  | identityKeygenComplete
  /-- CRY_REKEY_CTL (R223). A completed keyed pair with START = 1 requests a rekey, or changes RATE while one runs. -/
  | cryRekeyCtl (src : Source) (key : Word)
  /-- RAS_FUSE_LO (R501). A completed keyed pair of RAS_FUSE_LO starts a fuse repair burn for the locator. -/
  | rasFuseLo (src : Source) (key : Word)
  /-- FUSE_BURN_COMPLETE (R501). A repair fuse burn ends within 1 ms and its entry's valid fuse is set. -/
  | fuseBurnComplete
  /-- CAN_ERASE (R404). A completed keyed pair of CAN_ERASE erases the settings or log areas. -/
  | canErase (src : Source) (key : Word)
  /-- PMU_CTL_FREEZE (R440). Writing FREEZE holds the general counters from the next boundary. -/
  | pmuCtlFreeze (on : Bool)
  /-- PMU_CTL_CLR_GEN (R440). Writing CLR_GEN clears every general counter at the next boundary. -/
  | pmuCtlClrGen
  /-- PMU_CTL_CLR_OVF (R440). Writing CLR_OVF clears every OVF bit at the next boundary. -/
  | pmuCtlClrOvf
  /-- PMU_EVSEL_WRITE (R440). A new event selection takes effect at the next boundary, where the counter and its OVF bit clear. -/
  | pmuEvselWrite (n : Fin 64) (value : Word)
  /-- PMU_SCOPE_WRITE (R440). A new scope takes effect at the next boundary, where the counter and its OVF bit clear. -/
  | pmuScopeWrite (n : Fin 64) (value : Word)
  /-- PMU_HIST_CTL_WRITE (R448). A new histogram selection takes effect at the next boundary, where the histogram clears. -/
  | pmuHistCtlWrite (h : Fin 4) (value : Word)
  /-- PMU_HIST_CLR (R448). The named histograms clear at the next boundary. -/
  | pmuHistClr (mask : BitVec 4)
  /-- MGMT_REGISTER_READ (R420). An MCTP management register read message returns up to 16 dwords, or a STATUS error. -/
  | mgmtRegisterRead (count : Nat) (off : Nat)
  /-- MGMT_REGISTER_WRITE (R420). An MCTP management register write message writes up to 16 dwords, subject to mode and MCTP_RO. -/
  | mgmtRegisterWrite (count : Nat) (off : Nat) (data : List Word)
  /-- SMBUS_ALERT_RESPONSE (R478). The island answers the SMBus Alert Response Address with its own address while ALERT_N is asserted. -/
  | smbusAlertResponse
  /-- XT_IDENTIFY (R395). Returns the part, lifecycle, firmware, mode and capacity identification. -/
  | xtIdentify (i : Iface) (p : Payload)
  /-- XT_TENANT_CREATE (R82). Checks and stages a new tenant's extents and descriptor for the next commit. -/
  | xtTenantCreate (i : Iface) (p : Payload)
  /-- XT_TENANT_RESIZE (R82). Checks and stages a tenant resize for the next commit. -/
  | xtTenantResize (i : Iface) (p : Payload)
  /-- XT_TENANT_RESET (R85). Accepts a tenant reset, which starts at the next pour boundary. -/
  | xtTenantReset (i : Iface) (p : Payload)
  /-- XT_TENANT_DESTROY (R85). Accepts a tenant destroy, which starts at the next pour boundary. -/
  | xtTenantDestroy (i : Iface) (p : Payload)
  /-- TENANT_SEQUENCE_START (R85). At boundary r, the tenant enters RESETTING, DESTROYING or SANITISING, and requests not yet looked up complete at the port. -/
  | tenantSequenceStart (t : TenantId)
  /-- TENANT_SQUASH (R85). At r + 62, transactions still open are squashed and the directory walk begins. -/
  | tenantSquash (t : TenantId)
  /-- TENANT_SEQUENCE_END (R85). At r + 94, the tenant returns to ACTIVE or is freed, the event is written and the command completes; a port reset completes here. -/
  | tenantSequenceEnd (t : TenantId)
  /-- XT_REKEY_START (R223). Requests a rekey at RATE, or changes RATE while one runs, and wakes every sleeping channel. -/
  | xtRekeyStart (i : Iface) (p : Payload)
  /-- XT_REKEY_STATUS (R394). Returns the rekey status, lines remaining and pours remaining. -/
  | xtRekeyStatus (i : Iface) (p : Payload)
  /-- REKEY_START (R223). At boundary k, a new generation key is drawn, or the rekey is refused on a failed health test. -/
  | rekeyStart (healthOk : Bool)
  /-- SUBKEY_DERIVATION_DONE (R223). At k + 64, the new subkeys are in place and the walk begins. -/
  | subkeyDerivationDone
  /-- REKEY_PAGE_COMMIT (R225). All 64 lines of a far page are held, and the page is written under the new key. -/
  | rekeyPageCommit (ch : FarCh)
  /-- REKEY_PAGE_ADVANCE (R225). At the boundary after the last commit write, the stream boundary passes the page and tree tags are updated. -/
  | rekeyPageAdvance (ch : FarCh)
  /-- REKEY_DONE (R223). At the boundary after the last stream ends, the new key becomes the only key and the old key is zeroised. -/
  | rekeyDone
  /-- XT_BIST_RUN (R491). Starts a self-test of the named target kind and index as the foreground brew, or stages a rotation for kind 0x01. -/
  | xtBistRun (i : Iface) (p : Payload)
  /-- BIST_TEST_END (R498). A self-test ends with its RESULT and locators, and COLD_REQ is set for a destructive test. -/
  | bistTestEnd (result : BistResult) (locators : List (BitVec 64)) (pipes : List (Bool × Fin 66) := [])
  /-- XT_REPAIR_SOFT (R135). Applies a soft row repair or sPPR, or starts a rotation for a column repair, and adds it to the soft list. -/
  | xtRepairSoft (i : Iface) (p : Payload)
  /-- XT_REPAIR_FUSE (R501). Writes the locator through the keyed fuse register to burn a fuse repair, or queues a hard PPR. -/
  | xtRepairFuse (i : Iface) (p : Payload)
  /-- SOFT_REPAIR_ROW_SWAP (R135). At the boundary after the copy, the spare row replaces the faulty Crema row. -/
  | softRepairRowSwap (flips : List (List (BitVec 80)) := [])
  /-- XT_CANISTER_STORE (R403). Writes the committed settings and repair lists into the next settings copy, with GEN one higher. -/
  | xtCanisterStore (i : Iface) (p : Payload)
  /-- XT_CANISTER_LOAD (R403). Stages the settings of the newest valid copy. -/
  | xtCanisterLoad (i : Iface) (p : Payload)
  /-- XT_CANISTER_ERASE (R404). Erases the settings or log areas through the keyed CAN_ERASE. -/
  | xtCanisterErase (i : Iface) (p : Payload)
  /-- XT_CHAIN_ROLLCALL (R372). Starts a roll call on the head. -/
  | xtChainRollcall (i : Iface) (p : Payload)
  /-- XT_CHAIN_MAP (R394). Returns the head's view of every chain position. -/
  | xtChainMap (i : Iface) (p : Payload)
  /-- XT_CREMA_PIN (R118). Stages a pin or unpin of a DPA range, run as a brew from the commit. -/
  | xtCremaPin (i : Iface) (p : Payload)
  /-- XT_CREMA_FLUSH (R119). Stages a flush of a range or of the whole cache, run as a brew from the commit. -/
  | xtCremaFlush (i : Iface) (p : Payload)
  /-- XT_NEAR_SIZE (R120). Stages a near-region size change, run as a bypass walk from the commit. -/
  | xtNearSize (i : Iface) (p : Payload)
  /-- NEAR_SIZE_WALK_END (R120). At the boundary after the walk, the new NEAR and S take effect and the bypass ends. -/
  | nearSizeWalkEnd
  /-- XT_PRESS_POLICY (R260). Stages the creation, extension, exposure change or destruction of a pool. -/
  | xtPressPolicy (i : Iface) (p : Payload)
  /-- XT_PRESS_COMPACT (R254). Starts a compaction brew on a pool or on every pool. -/
  | xtPressCompact (i : Iface) (p : Payload)
  /-- XT_FW_STAGE (R400). Writes an image part to the slot not in force; the LAST part starts the verify brew. -/
  | xtFwStage (i : Iface) (p : Payload)
  /-- FIRMWARE_VERIFY_COMPLETE (R456). The verify brew ends, and the slot is marked valid or EVT_FW_VERIFY_FAIL is raised. -/
  | firmwareVerifyComplete (sigFail : Option Nat)
  /-- XT_FW_ACTIVATE (R401). Records the boot slot, and with the immediate option restarts Barista into it. -/
  | xtFwActivate (i : Iface) (p : Payload)
  /-- XT_BREW_ABORT (R399). Aborts the foreground brew at the end of its current step. -/
  | xtBrewAbort (i : Iface) (p : Payload)
  /-- BREW_STEP_END (R398). At a step boundary, Barista runs any waiting command and then starts the next step of a brew. -/
  | brewStepEnd (vddInWindow : Bool) (errs : LineErrs := [])
  /-- WATCHDOG_EXPIRY (R388). The Barista watchdog expires and a restart begins. -/
  | watchdogExpiry
  /-- LOCKSTEP_MISMATCH (R388). The lockstep comparator finds a mismatch and a restart begins. -/
  | lockstepMismatch
  /-- TCM_UNCORRECTABLE_FETCH (R186). An uncorrectable fetch from tightly coupled memory stops the cores and starts a restart. -/
  | tcmUncorrectableFetch
  /-- BARISTA_RESTART_COMPLETE (R388). The restart ends, internal brews resume and the mailboxes are ready again. -/
  | baristaRestartComplete (verifyOk : Bool)
  /-- RECORD_FORWARD (R477). Barista forwards a ring record to the CXL event logs and the Canister log, and advances TAIL. -/
  | recordForward
  /-- SANITIZE (R91). The standard Sanitize command runs as the foreground brew on the LD. -/
  | sanitize (i : Iface) (ld : Nat)
  /-- SECURE_ERASE (R91). The standard Secure Erase command runs as the foreground brew on the LD. -/
  | secureErase (i : Iface) (ld : Nat)
  /-- SCAN_MEDIA (R344). Scan Media reads the LD's capacity and rebuilds its poison list. -/
  | scanMedia (i : Iface) (ld : Nat)
  /-- INJECT_POISON (R189). Stores poison in the named line in every lifecycle state. -/
  | injectPoison (i : Iface) (ld : Nat) (dpa : Nat)
  /-- CLEAR_POISON (R189). Writes the line whole with the data given and removes it from the poison list. -/
  | clearPoison (i : Iface) (ld : Nat) (dpa : Nat) (data : Line)
  /-- GET_POISON_LIST (R344). Returns the LD's poison list with its overflow flag and timestamp. -/
  | getPoisonList (i : Iface) (ld : Nat)
  /-- REQUEST_ABORT_BACKGROUND_OPERATION (R399). The standard abort, equivalent to XT_BREW_ABORT on the foreground brew. -/
  | requestAbortBackgroundOperation (i : Iface)
  /-- GET_FW_INFO (R400). The standard firmware information command, acting on slots A and B. -/
  | getFwInfo (i : Iface)
  /-- TRANSFER_FW (R400). The standard firmware transfer command, following the rules of XT_FW_STAGE. -/
  | transferFw (i : Iface) (slot : Nat) (off : Nat) (last : Bool) (bytes : Payload)
  /-- ACTIVATE_FW (R400). The standard firmware activation command, following the rules of XT_FW_ACTIVATE. -/
  | activateFw (i : Iface) (slot : Nat) (now : Bool)
  /-- ADD_DYNAMIC_CAPACITY_RESPONSE (R89). The host's response makes accepted extents valid at the next boundary and returns declined ones to the free pool. -/
  | addDynamicCapacityResponse (port : PortId) (ld : Nat) (accepted : List Nat)
  /-- RELEASE_DYNAMIC_CAPACITY (R90). The host releases an extent; its entries become invalid at the next boundary and its blocks are then sanitised. -/
  | releaseDynamicCapacity (port : PortId) (ld : Nat) (blocks : List Nat)
  /-- INITIATE_DYNAMIC_CAPACITY_ADD (R89). The FM-API request allocates media blocks with PEND = 1 and raises Add Capacity. -/
  | initiateDynamicCapacityAdd (t : TenantId) (region : Fin 8) (count : Nat) (tag : Nat)
  /-- INITIATE_DYNAMIC_CAPACITY_RELEASE (R342). The FM-API request asks for capacity release, or forces its removal. -/
  | initiateDynamicCapacityRelease (t : TenantId) (blocks : List Nat) (forced : Bool)
  /-- SET_DC_REGION_CONFIGURATION (R342). The FM-API command configures dynamic-capacity regions, with 256 MiB blocks only. -/
  | setDcRegionConfiguration (t : TenantId) (region : Fin 8) (blockBytes : Nat) (len : Nat)
  /-- GET_DC_REGION_EXTENT_LISTS (R342). The FM-API command returns the extent lists of the dynamic-capacity regions. -/
  | getDcRegionExtentLists (t : TenantId)
  /-- GET_LD_ALLOCATIONS (R342). The FM-API command returns LD allocations in 256 MiB multiples. -/
  | getLdAllocations (port : PortId)
  /-- SET_LD_ALLOCATIONS (R342). The FM-API command, answered as unsupported. -/
  | setLdAllocations (port : PortId)
  /-- GET_QOS_STATUS (R342). The FM-API command reports the mean DevLoad of the last 64 pours. -/
  | getQosStatus (t : TenantId)
  /-- SET_QOS_CONTROL (R342). The FM-API command, accepted only with every control disabled. -/
  | setQosControl (controls : Byte)
  /-- SET_QOS_ALLOCATED_BW (R342). The FM-API command, answered as unsupported. -/
  | setQosAllocatedBw (port : PortId)
  /-- CXL_TABLE_ACCESS (R340). A DOE Table Access request returns the LD's CDAT. -/
  | cxlTableAccess (port : PortId) (ld : Nat)
  /-- GET_MEASUREMENTS (R463). The SPDM request returns measurement blocks 1 to 6, signed when the request asks for it. -/
  | getMeasurements (tr : Transport) (index : Byte) (signed : Bool)
  /-- GET_CSR (R461). In PROVISIONED, returns a certificate request for the composite key. -/
  | getCsr (tr : Transport)
  /-- SET_CERTIFICATE (R461). In PROVISIONED, installs and verifies the slot-0 certificate chain. -/
  | setCertificate (tr : Transport) (leaf : Cert) (issuers : List Cert)
  /-- NEGOTIATE_ALGORITHMS (R462). SPDM algorithm negotiation, which fails unless the composite algorithm is selected. -/
  | negotiateAlgorithms (tr : Transport) (composite : Bool)
  /-- KEY_EXCHANGE (R462). Opens an SPDM secured session with secp384r1 and AES-256-GCM. -/
  | keyExchange (tr : Transport) (secp384r1Aes256Gcm : Bool)
  /-- CHALLENGE (R462). SPDM challenge, answered with a composite signature. -/
  | challenge (tr : Transport)
  /-- SIGNATURE_COMPLETE (R464). The signing engine finishes a composite signature, taking at most 12 ms. -/
  | signatureComplete
  /-- MEMRD (R268). A CXL.mem MemRd reaches the port and is regulated, looked up, ordered at the home and served from Crema, the far tier or Relay. -/
  | memrd (r : HostReq) (md : Meta)
  /-- MEMRDDATA (R268). A CXL.mem MemRdData is served as a read that grants Shared. -/
  | memrddata (r : HostReq)
  /-- MEMINV (R268). A CXL.mem MemInv updates the directory without data. -/
  | meminv (r : HostReq) (md : Meta)
  /-- MEMWR (R268). A full-line CXL.mem MemWr is looked up, ordered and written, updating the directory. -/
  | memwr (r : HostReq) (md : Meta) (data : Line)
  /-- MEMWR_PARTIAL (R190). A masked CXL.mem write runs as a read-merge-write. -/
  | memwrPartial (r : HostReq) (md : Meta) (data : Line) (mask : BitVec 64)
  /-- MEMCLNEVCT (R268). A CXL.mem MemClnEvct frees the line's directory entry. -/
  | memclnevct (r : HostReq)
  /-- UIO_READ (R339). A UIO read is decoded as CXL.mem and snoops the host under R273. -/
  | uioRead (r : HostReq)
  /-- UIO_WRITE (R339). A UIO write, full or masked, is decoded and snoops with BISnpInv. -/
  | uioWrite (r : HostReq) (data : Line) (mask : BitVec 64)
  /-- ATOMICOP (R282). A PCIe AtomicOp through UIO runs near in the port's atomic unit or far at the home. -/
  | atomicop (r : HostReq) (a : AtomicArgs) (toBar : Bool)
  /-- BIRSPI (R273). A host BIRspI completes the snoop and sets the directory entry to Invalid. -/
  | birspi (port : PortId) (hpa : Nat)
  /-- BIRSPS (R273). A host BIRspS completes the snoop and sets the entry to Shared. -/
  | birsps (port : PortId) (hpa : Nat)
  /-- HOST_BICONFLICT (R274). A host BIConflict is answered with BIConflictAck according to arrival order. -/
  | hostBiconflict (port : PortId) (hpa : Nat) (tag : Nat)
  /-- HOLD_RELEASE (R293). A request held by regulation is released once its condition clears, and it is looked up again. -/
  | holdRelease (t : TenantId) (cls : Cls)
  /-- TAG_DECISION (R109). The Crema tag decision arrives and confirms or squashes the speculation, then hit, miss or fill proceeds. -/
  | tagDecision (txn : Nat)
  /-- SPECULATIVE_HOLD_EXPIRY (R109). HOLD cycles expire before the tag decision, and the speculative row is precharged. -/
  | speculativeHoldExpiry (txn : Nat)
  /-- RETRY_QUEUE_RETRY (R279). A request in the directory retry queue is retried when a way of its set becomes eligible. -/
  | retryQueueRetry (slice : Fin 16)
  /-- BISNP_TIMEOUT (R277). A BISnp without a BIRsp times out; the line is poisoned, the entry freed, the waiting transaction completed and the host marked suspect. -/
  | bisnpTimeout (line : Nat)
  /-- LEASE_IDLE_EXPIRY (R283). A near-atomic lease unused for IDLE × 8 cycles ends and its modified line is written back. -/
  | leaseIdleExpiry (line : Nat)
  /-- LEASE_MAX_EXPIRY (R283). A near-atomic lease reaches MAXP pours and ends. -/
  | leaseMaxExpiry (line : Nat)
  /-- CREMA_FILL_COMPLETE (R114). A whole-page fill of a compressed page ends, the frame becomes Valid and waiting requests are served. -/
  | cremaFillComplete (set : Nat) (way : Fin 16)
  /-- EVICTION_COMPLETE (R115). The last writeback of a victim frame is issued, and the frame takes the new page or becomes Invalid. -/
  | evictionComplete (set : Nat) (way : Fin 16) (errs : LineErrs := [])
  /-- FAR_LINE_READ_RETURN (R182). A far-tier line returns and is checked by ECC, poison, line state and MAC and tree. -/
  | farLineReadReturn (txn : Nat) (flips : List (BitVec 80)) (chk : FarCheck)
  /-- CREMA_LINE_READ_RETURN (R183). A Crema line returns and is checked by D-78 and the line check. -/
  | cremaLineReadReturn (txn : Nat) (flips : List (BitVec 80))
  /-- MERGE_BUFFER_RETIRE (R180). A merge-buffer entry retires when its word is full, after 16 cycles, or on a full buffer, and the word is rewritten. -/
  | mergeBufferRetire (arr : Array64K) (uncorrectable : Bool)
  /-- PATROL_SCRUB_READ (R192). At its interval, patrol scrub reads and checks the next line of a far channel or of Crema. -/
  | patrolScrubRead (ch : Option FarCh) (flips : List (BitVec 80)) (other : List (BitVec 80) := [])
  /-- SUBTREE_REINIT_END (R222). The reinit brew ends and the poisoned subtree is released at the next boundary. -/
  | subtreeReinitEnd
  /-- CRYPTO_PIPE_PARITY_MISMATCH (R232). A crypto pipeline fails its parity check; a spare takes over, or the device enters DEGRADED. -/
  | cryptoPipeParityMismatch (xts : Bool) (unit : Fin 64)
  /-- CREMA_REFRESH (R130). A Crema refresh command is issued at the fixed per-pseudo-channel rate. -/
  | cremaRefresh (pc : Fin 64)
  /-- TEMPERATURE_SAMPLE (R140). Every 16 pours, each sensor is sampled and the doubled refresh, throttle, thermal DRAIN or thermal hold actions apply. -/
  | temperatureSample (stack : List Reading) (die : List Reading)
  /-- DOUBLED_REFRESH_RELEASE (R140). All stack sensors have stayed at or below 83 °C for 4,096 pours, and doubled refresh ends. -/
  | doubledRefreshRelease
  /-- STACK_THROTTLE_RELEASE (R140). All stack sensors have stayed below 90 °C for 65,536 pours, and the Crema throttle ends. -/
  | stackThrottleRelease
  /-- DIE_THROTTLE_RELEASE (R140). All base-die sensors have stayed below 93 °C for 65,536 pours, and the die throttle ends. -/
  | dieThrottleRelease
  /-- CREMA_CHANNEL_LOSS (R122). At the boundary after a loss cause, the spare takes the logical channel, DEGRADED is entered and the rebuild walk begins. -/
  | cremaChannelLoss (c : CremaCh)
  /-- REBUILD_WALK_END (R123). The rebuild walk ends and EVT_CREMA_CH_LOST is raised at the next boundary. -/
  | rebuildWalkEnd
  /-- ROTATION_COPY_DONE (R137). At the boundary after the last frame is copied, the spare takes the source's logical number. -/
  | rotationCopyDone
  /-- ROTATION_SOURCE_DRAINED (R137). The source queue empties and the source becomes isolated for test. -/
  | rotationSourceDrained
  /-- ROTATION_TEST_DONE (R495). The six test passes on the isolated channel end and queued repairs are applied. -/
  | rotationTestDone (result : BistResult) (locators : List (BitVec 64))
  /-- ROTATION_RETRAIN_DONE (R137). TSV retraining of the tested channel ends. -/
  | rotationRetrainDone (ok : Bool)
  /-- ROTATION_FILL_DONE (R137). The check-bit fill ends and the channel returns as the spare. -/
  | rotationFillDone
  /-- REQUEST_PROMOTION (R149). A queued request passes the AGE bound and is promoted once. -/
  | requestPromotion (txn : Nat)
  /-- FAR_REFRESH (R151). At each tREFI, refresh commands are issued to each physical rank. -/
  | farRefresh (ch : FarCh) (sub : Bool)
  /-- MR4_READING (R152). Every 65,536 pours, MR4 is read and the channel's refresh mode and throttle are set. -/
  | mr4Reading (ch : FarCh) (ranks : List Mr4)
  /-- DIMM_HOT_DRAIN (R152). MR4 has reported above 2× for 65,536 consecutive pours, and DRAIN to thermal HIBERNATE starts. -/
  | dimmHotDrain (ch : FarCh)
  /-- DIST_WINDOW_END (R156). At each THROTTLE window boundary, counters clear and held requests are released. -/
  | distWindowEnd (ch : FarCh)
  /-- DQS_OSCILLATOR_READING (R159). At INTERVAL, DQS oscillators are read, and a drift beyond THRESH starts a re-centring step. -/
  | dqsOscillatorReading (ch : FarCh) (drifts : List Nat)
  /-- RECENTRING_STEP_END (R160). A re-centring step finds its edges, and the new centres take effect at the next boundary. -/
  | recentringStepEnd (ch : FarCh)
  /-- RECENTRING_FAIL (R161). A step finds a narrow eye or exceeds 4,096 pours; the third consecutive failure loses the channel. -/
  | recentringFail (ch : FarCh)
  /-- FAR_CHANNEL_LOSS (R480). A far channel is declared lost, its addresses are poisoned and its frames invalidated. -/
  | farChannelLoss (ch : FarCh)
  /-- SOFT_PPR_START (R165). A soft PPR starts at a boundary with buffers free and holds the bank. -/
  | softPprStart (ch : FarCh) (flips : List (List (BitVec 80)) := [])
  /-- SOFT_PPR_END (R165). At q + 48, the repaired row is written and the bank released. -/
  | softPprEnd (ch : FarCh)
  /-- HARD_PPR_COMPLETE (R502). A queued hard PPR finishes and releases its bank. -/
  | hardPprComplete (flips : List (List (BitVec 80)) := [])
  /-- PRESS_DECODE_COMPLETE (R248). An engine finishes decoding a page and checks the CRC, with one retry on another engine. -/
  | pressDecodeComplete (engine : Fin 4) (crcOk : Bool) (flips : List (List (BitVec 80)) := [])
  /-- PRESS_CODE_COMPLETE (R250). An engine finishes compressing a dirty frame, and its sectors are allocated and written. -/
  | pressCodeComplete (engine : Fin 4) (selfCheckOk : Bool)
  /-- SECTOR_RELEASE (R241). Sectors released by a map update become free at the boundary after the map-line write. -/
  | sectorRelease
  /-- PRESS_ENGINE_LOSS (R259). A faulty engine is mapped out at the next boundary, and DEGRADED follows if it was the last. -/
  | pressEngineLoss (engine : Fin 4)
  /-- FENCE_DRAIN_ACK (R325). A fenced domain holds no flit and every credit has returned. -/
  | fenceDrainAck (d : Fin 12)
  /-- FENCE_OFF (R325). At the boundary after the acknowledgement, the domain goes OFF. -/
  | fenceOff (d : Fin 12)
  /-- FENCE_STUCK (R325). A fence has no acknowledgement by f + 4, and the domain stays FENCING. -/
  | fenceStuck (d : Fin 12)
  /-- DOMAIN_POWER_ON_DONE (R326). At u + 16, a powering domain becomes ON. -/
  | domainPowerOnDone (d : Fin 12)
  /-- FABRIC_PARITY_ERROR (R482). A mesh flit fails parity; a DAT data error poisons the line, any other error halts the device. -/
  | fabricParityError (net : Mesh) (dataField : Bool) (txn : Nat)
  /-- DL_DOWN (R349). A host port's link goes down; the receive path closes and at d held writes are released and held reads completed. -/
  | dlDown (port : PortId)
  /-- LINK_DOWN_WRITES_CLOSED (R349). At r, every write of the port has closed and the port reset begins. -/
  | linkDownWritesClosed (port : PortId)
  /-- HOT_RESET (R337). A Hot Reset or Link Disable is a link-down that also clears the decoder commits at r + 94. -/
  | hotReset (port : PortId)
  /-- FLR (R337). A function-level reset resets the CXL.io state of one function. -/
  | flr (port : PortId) (ld : Nat)
  /-- CXL_RESET (R337). A CXL Reset runs the tenant reset sequence, with Secure Erase if Mem Clr is requested. -/
  | cxlReset (port : PortId) (ld : Nat) (memClr : Bool)
  /-- LINK_TRAINING_COMPLETE (R331). Host link training ends in L0, or fails below x4. -/
  | linkTrainingComplete (port : PortId) (res : LinkResult)
  /-- LINK_RECOVERY (R348). The link enters Recovery and returns without DL_Down, possibly at a new width or rate. -/
  | linkRecovery (port : PortId) (width : Nat) (rate : Nat) (replayed : Nat)
  /-- L0P_WIDTH_CHANGE (R332). A host-initiated L0p reduction lowers the port floor and rescales guarantees. -/
  | l0pWidthChange (port : PortId) (width : Nat)
  /-- IDE_INTEGRITY_FAILURE (R346). A flit fails its IDE check; the stream becomes Insecure and the link goes down. -/
  | ideIntegrityFailure (port : PortId) (stream : IdeStream)
  /-- IDE_KM (R345). IDE key management over DOE programs or refreshes stream keys and can resume CXL.mem service. -/
  | ideKm (port : PortId) (stream : IdeStream) (keys : Bool)
  /-- VIRAL_RECEIVED (R347). Viral arrives from the host, and the port enters viral containment from the next boundary. -/
  | viralReceived (port : PortId)
  /-- RELAY_LINK_TRAINED (R353). A Relay link negotiates Relay at 64 GT/s and enters AUTH, or fails. -/
  | relayLinkTrained (port : PortId) (offered : Bool) (rate64 : Bool) (width : Nat)
  /-- RELAY_AUTH_COMPLETE (R355). SPDM mutual authentication and key delivery end, and the link enters KEYED, or is refused. -/
  | relayAuthComplete (port : PortId) (ok : Bool) (peerLifecycle : Byte) (peerVcs : Nat) (startSeq : Nat)
  /-- DATA_FLIT (R361). A DATA flit is checked by FEC, CRC, tag and sequence and delivered, held or discarded. -/
  | dataFlit (port : PortId) (f : Flit)
  /-- ROLL_FLIT (R374). An outbound ROLL assigns an ID and is forwarded or returned; a return is passed up or ends the roll call at the head. -/
  | rollFlit (port : PortId) (f : Flit) (r : Roll)
  /-- ACK_FLIT (R366). An ACK flit frees replay entries up to ACKSEQ. -/
  | ackFlit (port : PortId) (f : Flit)
  /-- SNAK_FLIT (R365). A SNAK makes the sender retransmit the listed flits, or go back N. -/
  | snakFlit (port : PortId) (f : Flit) (gbn : Bool) (missing : List Nat)
  /-- CREDIT_FLIT (R370). A CREDIT flit reports credit counts and hold causes per VC. -/
  | creditFlit (port : PortId) (f : Flit) (vcs : List (Nat × Nat))
  /-- IDLE_FLIT (R366). An IDLE flit whose SEQ reveals a lost final flit. -/
  | idleFlit (port : PortId) (f : Flit)
  /-- HALT_FLIT (R383). A valid HALT flit halts the receiver under VIRAL, or breaks or cuts the link under CONFINE. -/
  | haltFlit (port : PortId) (f : Flit) (origin : Byte) (cause : Byte)
  /-- SNAK_REPEAT_TIMER (R365). A SNAK is repeated every 2 × RTT until the missing flits arrive. -/
  | snakRepeatTimer (port : PortId)
  /-- ACK_TIMER (R366). An ACK flit is sent 64 cycles after delivery when nothing else is sent. -/
  | ackTimer (port : PortId)
  /-- REPLAY_TIMEOUT (R366). ACKSEQ has not advanced for 4 × RTT + 256 cycles, and the sender retransmits from the oldest flit. -/
  | replayTimeout (port : PortId)
  /-- CREDIT_TIMEOUT (R370). No credit arrives for 391 pours with flits waiting, and the link breaks. -/
  | creditTimeout (port : PortId)
  /-- HOLD_LIMIT_EXPIRY (R370). A BUSY hold lasts 131,072 pours, and the link breaks. -/
  | holdLimitExpiry (port : PortId)
  /-- CREDIT_HOLD_REFRESH (R370). A withholding receiver sends a CREDIT flit with its hold cause at least every 16 pours. -/
  | creditHoldRefresh (port : PortId)
  /-- RTT_MEASUREMENT (R365). The link round trip is measured by an ACK echo every 65,536 pours. -/
  | rttMeasurement (port : PortId) (cycles : Nat)
  /-- RECOVERY_TIMEOUT (R367). Relay Recovery does not return to L0 within 4 ms, and the link is broken. -/
  | recoveryTimeout (port : PortId)
  /-- RELAY_RECOVERY_EXIT (R367). Recovery returns to L0 in time, and the sender retransmits from its oldest flit. -/
  | relayRecoveryExit (port : PortId) (width : Nat)
  /-- CUT_ERASE_END (R381). The erase after a cut ends, and the member sends READY. -/
  | cutEraseEnd
  /-- ROLL_CALL_WAIT_EXPIRY (R374). A member's wait for the roll-call return expires, and it returns as tail with BREAK. -/
  | rollCallWaitExpiry
  /-- ROLL_CALL_RETURN_TIMEOUT (R374). The head's 2,048-pour wait for a return expires; it retries once, then treats Relay-down as broken. -/
  | rollCallReturnTimeout
  /-- MEMBER_LOSS (R382). At the boundary after a loss at position k, the head completes, removes and poisons the lost members' ranges and starts a roll call. -/
  | memberLoss (k : Fin 8) (cause : LossCause)
  /-- CMD_RSP_TIMEOUT (R378). No CMD_RSP arrives within 65,536 pours, and the command completes with Internal Error. -/
  | cmdRspTimeout
  /-- MEM_RD (R377). A Relay MEM_RD is served locally or forwarded by DEST, or completes poisoned if misrouted. -/
  | memRd (m : RelayMsg)
  /-- MEM_RD_DATA (R377). A Relay MEM_RD_DATA request is routed and served as MEM_RD. -/
  | memRdData (m : RelayMsg)
  /-- MEM_INV (R377). A Relay MEM_INV request is routed and served. -/
  | memInv (m : RelayMsg)
  /-- MEM_WR (R377). A Relay full-line write is routed and served. -/
  | memWr (m : RelayMsg) (data : Line)
  /-- MEM_WR_PTL (R377). A Relay masked write is routed and served as a read-merge-write. -/
  | memWrPtl (m : RelayMsg) (data : Line) (mask : BitVec 64)
  /-- MEM_CLN_EVCT (R377). A Relay clean eviction is routed and frees the directory entry. -/
  | memClnEvct (m : RelayMsg)
  /-- UIO_RD (R377). A Relay UIO read is routed and served. -/
  | uioRd (m : RelayMsg)
  /-- UIO_WR (R377). A Relay UIO write is routed and served. -/
  | uioWr (m : RelayMsg) (data : Line)
  /-- UIO_WR_PTL (R377). A Relay UIO masked write is routed and served. -/
  | uioWrPtl (m : RelayMsg) (data : Line) (mask : BitVec 64)
  /-- UIO_ATOMIC (R286). A Relay atomic runs far at the member's home slice. -/
  | uioAtomic (m : RelayMsg) (a : AtomicArgs)
  /-- CMP (R377). A Relay completion travels up, with its HOPS checked at the head. -/
  | cmp (m : RelayMsg)
  /-- DATA (R377). A Relay data response travels up and completes its request. -/
  | data (m : RelayMsg) (data : Line)
  /-- ATOMIC_DATA (R377). A Relay atomic data response completes its atomic. -/
  | atomicData (m : RelayMsg) (data : BitVec 128)
  /-- BISNP_DATA (R285). A member's BISnpData is passed by the head to the host port that the sharer index names. -/
  | bisnpData (m : RelayMsg)
  /-- BISNP_INV (R285). A member's BISnpInv is passed by the head to the host port. -/
  | bisnpInv (m : RelayMsg)
  /-- BIRSP_I (R285). A host BIRspI is returned to the member on Relay. -/
  | birspI (m : RelayMsg)
  /-- BIRSP_S (R285). A host BIRspS is returned to the member on Relay. -/
  | birspS (m : RelayMsg)
  /-- BICONFLICT (R285). A host BIConflict is relayed to the member's home. -/
  | biconflict (m : RelayMsg)
  /-- BICONFLICT_ACK (R285). A member's BIConflictAck is relayed to the host. -/
  | biconflictAck (m : RelayMsg)
  /-- SPDM (R355). An SPDM message on the Relay MGMT VC carries link authentication. -/
  | spdm (m : RelayMsg) (port : PortId)
  /-- KEY_NEXT (R355). Delivers new link keys for the next epoch, switched at a named sequence number. -/
  | keyNext (m : RelayMsg) (port : PortId) (atSeq : Nat)
  /-- HELLO (R372). A member's Relay-down reached KEYED, and the head runs a roll call. -/
  | hello (m : RelayMsg)
  /-- MEMBER_STATE (R375). A member reports a change of MODE, FLAGS or FAR_FLOOR, updating the head's member state. -/
  | memberState (m : RelayMsg) (rec : MemberRec)
  /-- CUT (R381). A CUT received on Relay-up makes the member discard, clear, propagate and erase. -/
  | cut (m : RelayMsg)
  /-- PORT_RESET (R286). A member completes snoops to the named sharer indices and walks its directory. -/
  | portReset (m : RelayMsg) (sharers : BitVec 16)
  /-- VIRAL_ON (R347). A member drops writes forwarded from the named port. -/
  | viralOn (m : RelayMsg) (port : PortId)
  /-- VIRAL_OFF (R347). A member ends viral containment for the named port. -/
  | viralOff (m : RelayMsg) (port : PortId)
  /-- CMD (R378). A member's Barista runs a vendor command forwarded from the head. -/
  | cmd (m : RelayMsg) (opcode : BitVec 16) (p : Payload)
  /-- CMD_RSP (R378). The head completes the mailbox command with the member's response. -/
  | cmdRsp (m : RelayMsg) (rc : BitVec 16) (out : Payload)
  /-- EVENT (R378). A member event enters the head's event ring with FROM_MEMBER set. -/
  | event (m : RelayMsg) (record : EventRec)
  /-- LINK_BROKEN (R382). A member reports a broken link, and the head finds a loss at the next position. -/
  | linkBroken (m : RelayMsg) (reporter : Byte) (cause : Byte)
  /-- READY (R381). A member signals that its erase after a cut has ended. -/
  | ready (m : RelayMsg)
  /-- RELAY_RECOVERY_ENTRY (R354). The Relay port's LTSSM enters Recovery; the port state becomes RECOVERY and traffic stops, with sequence, replay and reorder state kept. -/
  | relayRecoveryEntry (port : PortId)
  /-- RELAY_LINK_DOWN (R367). The Relay port's LTSSM reaches Detect or Disabled, so the link is broken, the port enters BROKEN and the chain-loss rules apply. -/
  | relayLinkDown (port : PortId)
  /-- STAGE_CHECK_COMPLETE (R424). XT_STAGE_CHECK ends within 64 pours: CHECKED and STG_RESULT are set, and staged writes held during the check reach their shadows and clear CHECKED. -/
  | stageCheckComplete
  /-- CANISTER_STORE_COMPLETE (R403). A settings store ends its eMRAM writes with the CRC last, CAN_STS.STORE clears and the command returns GEN and the copy index. -/
  | canisterStoreComplete
  /-- CANISTER_ERASE_COMPLETE (R404). An erase of the settings or log area ends within 65,536 pours, CAN_STS.STORE clears, and the area is left with no valid copy or with NEXT = 0. -/
  | canisterEraseComplete
  /-- SMBUS_LOW_TIMEOUT (R539). The SMBus clock has been held low for 25 ms, and the device releases the bus. -/
  | smbusLowTimeout
  deriving DecidableEq, Repr

end Sys2Proof
end

