-- ==== Sys2Proof/Config.lean ====
section
/-! DEFINITION. Sys2Proof/Config.lean: what one part fixes and the spec leaves open, and the functions of other
standards that the spec names without giving them. Every constant here is opaque: nothing can be proved of its value. -/

namespace Sys2Proof.Config

/-- The silicon stepping (R433: reset value "Part"). -/
opaque stepping : BitVec 8

/-- The value of the DRBG's n-th draw since the model's start (R201). -/
opaque drbg : Nat → BitVec 256

/-- AES-256 of FIPS 197: key and block (R204, R210, R211). -/
opaque aes256 : BitVec 256 → BitVec 128 → BitVec 128

/-- GHASH of SP 800-38D: hash key and blocks (R211, R214). -/
opaque ghash : BitVec 128 → List (BitVec 128) → BitVec 128

/-- The KDF of SP 800-108 with HMAC-SHA-384 (R202): key, label, context, output bits as a number. -/
opaque kdf : BitVec 256 → Nat → Nat → Nat → Nat

/-- SHA-384 of FIPS 180-4, as a number (R456, R463). -/
opaque sha384 : Payload → Nat

/-- The FEC bytes of a flit (R356): the three-way interleaved code of the PCIe 6.0 256 B flit, over bytes 0 to 249. -/
opaque flitFec : Payload → BitVec 48

/-- The link key that the upstream end of a Relay link sends in the SPDM session (R355), by port, key epoch and direction
(0 downstream, 1 upstream). -/
opaque sessionKey : Nat → Nat → Nat → BitVec 256

/-- The 3,072-bit modulus of this device's RSA key and its public exponent's signature operation (R460): RSASSA-PSS with SHA-384, MGF1
with SHA-384 and a salt of 48 bytes, of a message. -/
opaque rsaModulus : BitVec 3072
opaque rsaPssSign : Payload → BitVec 3072

/-- This device's SLH-DSA-SHA2-192f public key, byte 0 in the low bits, and its signature of a message, pure form and empty context
(R460). -/
opaque slhPublic : BitVec 384
opaque slhSign : Payload → BitVec 285312

/-- The composite public key of the Ifenathen root (R461). -/
opaque vendorRoot : Payload

/-- Do the two signatures verify (R460): public key, message, signature? -/
opaque rsaPssVerify : Payload → Payload → Payload → Bool
opaque slhVerify : Payload → Payload → Payload → Bool

/-- The message that an SPDM signature signs: the transcript of the connection up to this response, by transport, response code and
the response's data (R460, R462). -/
opaque transcript : Nat → Nat → List Nat → Payload

/-- The SHA-384 digest of a 16 KiB settings copy, by the numbers it holds: the form of its repair entries is the device's own
(R403). -/
opaque copyDigest : List Nat → BitVec 384

/-- The SHA-384 digest of the mask ROM (R463, index 1). -/
opaque romDigest : BitVec 384

/-- The SHA-384 digest of this device's identity certificate chain, byte 0 in the low bits (R373, R452). -/
opaque certDigest : BitVec 384

/-- The n-th random draw of the PARA generators (R154): a number below 4,096. -/
opaque paraDraw : Nat → BitVec 12

/-- Does the bank of a speculative activate have a row open or stand within a timing constraint (R108)? By the count of
free values taken. -/
opaque bankBusy : Nat → Bool

/-- Is the express link busy in the cycle of a hint (R323)? By the count of free values taken. -/
opaque expressBusy : Nat → Bool

/-- The bank (0 to 63) of a Crema line in its pseudo-channel, by frame position and line: the fixed function that R96
names and does not give. -/
opaque cremaBank : Nat → Nat → BitVec 6

/-- The row of a Crema line, by frame position and line (R96). -/
opaque cremaRow : Nat → Nat → BitVec 15

/-- The route of the default route set (R321) by mesh, source and destination router. -/
opaque defaultRoute : Nat → Nat → Nat → BitVec 24

/-- The value of a result that the spec leaves open, by the count of free values taken. -/
opaque freeValue : Nat → BitVec 32

/-- A line that the spec leaves open, by the count of free values taken. -/
opaque freeLine : Nat → Line

/-- Did this step of a firmware image's own choosing take the branch named (readings the firmware makes)? -/
opaque freeBit : Nat → Bool

end Sys2Proof.Config
end

