-- ==== Sys2Proof/Machine/Sparse.lean ====
section
/-! DEFINITION. Sys2Proof/Machine/Sparse.lean: tables with a default entry, held as sorted lists that leave the default
out, and the bit-field helpers the other files share. -/

namespace Sys2Proof.Machine

/-- A table from numbers to values in which most entries hold one default: pairs in rising key order, default left out. -/
abbrev Sparse (α : Type) := List (Nat × α)

/-- The entry of key `k`, or the default `dflt` where none is listed. -/
def Sparse.get {α : Type} (dflt : α) : Sparse α → Nat → α
  | [], _ => dflt
  | (k', v) :: r, k => if k = k' then v else Sparse.get dflt r k

/-- The table without an entry at `k`. -/
def Sparse.erase {α : Type} : Sparse α → Nat → Sparse α
  | [], _ => []
  | (k', v) :: r, k => if k = k' then Sparse.erase r k else (k', v) :: Sparse.erase r k

/-- The table with `v` at `k`, in key order; an entry already at `k` is replaced. -/
def Sparse.insert {α : Type} : Sparse α → Nat → α → Sparse α
  | [], k, v => [(k, v)]
  | (k', v') :: r, k, v =>
    if k < k' then (k, v) :: (k', v') :: r
    else if k = k' then (k, v) :: r
    else (k', v') :: Sparse.insert r k v

/-- Writes `v` at `k`; writing the default takes the entry away, so equal tables are equal lists. -/
def Sparse.put {α : Type} [DecidableEq α] (dflt : α) (m : Sparse α) (k : Nat) (v : α) : Sparse α :=
  if v = dflt then Sparse.erase m k else Sparse.insert m k v

/-- The form a table is held in: keys strictly rising, and no entry equal to the default. -/
def Sparse.wf {α : Type} [DecidableEq α] (dflt : α) : Sparse α → Bool
  | [] => true
  | [(_, v)] => decide (v ≠ dflt)
  | (k, v) :: (k', v') :: r => decide (v ≠ dflt) && decide (k < k') && Sparse.wf dflt ((k', v') :: r)

/-- The keys listed, in rising order. -/
def Sparse.keys {α : Type} (m : Sparse α) : List Nat := m.map (fun e => e.1)

/-- Removes every entry whose key `p` picks. -/
def Sparse.drop {α : Type} (m : Sparse α) (p : Nat → Bool) : Sparse α := m.filter (fun e => !p e.1)

/-- A set of numbers, as a table of Booleans with default `false`. -/
abbrev NatSet := Sparse Bool

/-- Membership. -/
def NatSet.has (m : NatSet) (k : Nat) : Bool := Sparse.get false m k

/-- The set with `k` in it. -/
def NatSet.add (m : NatSet) (k : Nat) : NatSet := Sparse.put false m k true

/-- The set without `k`. -/
def NatSet.del (m : NatSet) (k : Nat) : NatSet := Sparse.put false m k false

/-- Bits [lo + w - 1 : lo] of a word, as a number (R9). -/
def fieldOf (x : Word) (lo w : Nat) : Nat := (x.toNat >>> lo) % 2 ^ w

/-- The word with bits [lo + w - 1 : lo] replaced by `v mod 2^w`. -/
def setFieldOf (x : Word) (lo w v : Nat) : Word :=
  (x &&& ~~~(BitVec.ofNat 32 ((2 ^ w - 1) <<< lo))) ||| BitVec.ofNat 32 ((v % 2 ^ w) <<< lo)

/-- The number as it saturates in `w` bits. -/
def satN (w n : Nat) : Nat := min n (2 ^ w - 1)

/-- A Boolean as a bit. -/
def bitOf (b : Bool) : Nat := if b then 1 else 0

/-- Bit `i` of a number. -/
def bitAt (n i : Nat) : Bool := n.testBit i

/-- Replaces entry `i` of a vector by `f` of it; an index outside changes nothing. -/
def vmod {α : Type} {n : Nat} (v : Vector α n) (i : Nat) (f : α → α) : Vector α n :=
  if h : i < n then v.set i (f v[i]) else v

/-- Every entry of a vector under `f`. -/
def vmap {α β : Type} {n : Nat} (v : Vector α n) (f : α → β) : Vector β n := Vector.ofFn (fun i => f v[i])

/-- Entry `i`, or `d` outside. -/
def vget {α : Type} {n : Nat} (d : α) (v : Vector α n) (i : Nat) : α := if h : i < n then v[i] else d

/-- The little-endian number that `n` bytes from position `at_` spell; bytes past the end read zero (R393). -/
def leNat (p : Payload) (at_ n : Nat) : Nat :=
  ((p.drop at_).take n).foldr (fun b acc => b.toNat + 256 * acc) 0

/-- `n` bytes of a number, byte 0 first. -/
def leBytes (n v : Nat) : Payload :=
  match n with
  | 0 => []
  | k + 1 => BitVec.ofNat 8 v :: leBytes k (v / 256)

/-- ⌈a / b⌉. -/
def ceilDiv (a b : Nat) : Nat := (a + b - 1) / b

/-- The positions 0 to n - 1 that `p` picks. -/
def rangeWhere (n : Nat) (p : Nat → Bool) : List Nat := (List.range n).filter p

end Sys2Proof.Machine
end

