-- ==== Sys2Proof/Machine/Codes.lean ====
section
/-! DEFINITION. Sys2Proof/Machine/Codes.lean: the codes of the spec as computations: DT-79 and D-78 (R174, R175), the
line check (R205), CRC-32 (R430), CRC-32C (R246, R403), CRC-64 (R356), and the KDF's labels (R202). -/

namespace Sys2Proof.Machine

/-- The generator of both BCH codes below its leading term: (x^7 + x^3 + 1)(x^7 + x^3 + x^2 + x + 1) without x^14
(R174). -/
def bchTail : BitVec 14 := 0x0377

/-- One step of the division by g(x): the next data bit enters at the top. -/
def bchStep (r : BitVec 14) (b : Bool) : BitVec 14 :=
  let top := r.getLsbD 13 != b
  if top then (r <<< 1) ^^^ bchTail else r <<< 1

/-- The 14 check bits of a data word: d(x) · x^14 mod g(x), d[63] first (R174). -/
def bch (x : BitVec 64) : BitVec 14 :=
  (List.range 64).foldl (fun r i => bchStep r (x.getLsbD (63 - i))) 0

/-- Parity of a number's low `n` bits. -/
def parityN (n : Nat) (x : Nat) : Bool := (List.range n).foldl (fun p i => p != x.testBit i) false

/-- The 15 check bits of DT-79: the even parity over data and check bits on top (R174). -/
def dt79 (x : BitVec 64) : BitVec 15 :=
  let c := bch x
  BitVec.ofBool (parityN 64 x.toNat != parityN 14 c.toNat) ++ c

/-- Which code a word is stored in (R173): DT-79 in the far tier, D-78 in Crema. -/
inductive Code where
  | dt79
  | d78
  deriving DecidableEq, Repr

/-- The poison pattern of a code (R175). -/
def Code.poison : Code → Nat
  | .dt79 => 0x5A3C
  | .d78 => 0x2B71

/-- Stored check bits of a code. -/
def Code.bits : Code → Nat
  | .dt79 => 15
  | .d78 => 14

/-- The check field of a data word, as a number. -/
def Code.check (c : Code) (x : BitVec 64) : Nat :=
  match c with
  | .dt79 => (Machine.dt79 x).toNat
  | .d78 => (bch x).toNat

/-- The syndrome of an error pattern over a stored word: 64 data bits low, then the side bits of R176. Both codes are
linear, so the pattern alone decides it. -/
def Code.syndrome (c : Code) (e : BitVec 80) : Nat :=
  c.check (e.setWidth 64) ^^^ (e.toNat >>> 64) % 2 ^ c.bits

/-- The syndromes of the single-bit errors with their patterns. -/
def Code.singles (c : Code) : List (Nat × Nat) :=
  (List.range (64 + c.bits)).map fun i => (c.syndrome (BitVec.ofNat 80 (2 ^ i)), 2 ^ i)

/-- What the decoder reports of a word (R175, R182): the residue is what stays wrong in the data bits. -/
inductive WordState where
  | clean
  | corrected (residue : BitVec 64)
  | poisoned
  | bad
  deriving DecidableEq, Repr

/-- The pattern the decoder takes a syndrome for: one or two bit errors. -/
def Code.locate (c : Code) (s : Nat) : Option Nat :=
  match c.singles.find? (fun p => p.1 == s) with
  | some p => some p.2
  | none => c.singles.findSome? fun p =>
      match c.singles.find? (fun q => q.1 == s ^^^ p.1) with
      | some q => some (p.2 ^^^ q.2)
      | none => none

/-- Decodes a word that was stored with or without poison and met the error pattern `e`: the poison test runs before
correction (R175). -/
def Code.decode (c : Code) (storedPoison : Bool) (e : BitVec 80) : WordState :=
  let s := c.syndrome e ^^^ (if storedPoison then c.poison else 0)
  if s == c.poison || (c.singles.any fun p => s == c.poison ^^^ p.1) then .poisoned
  else if s == 0 then (if e.setWidth 64 = 0 then .clean else .corrected (e.setWidth 64))
  else match c.locate s with
    | some p => .corrected ((e.setWidth 64) ^^^ (BitVec.ofNat 64 p))
    | none => .bad

/-- What the eight words of a line make of it (R182, R183). -/
inductive LineState where
  | good (corrected : Bool) (residue : Line)
  | poisoned
  | bad
  deriving DecidableEq, Repr

/-- Word `w`'s place in a line. -/
def wordAt (w : Nat) (x : BitVec 64) : Line := (x.setWidth 512) <<< (64 * w)

/-- Decodes a line's eight words under their error patterns; patterns not given are zero. -/
def Code.decodeLine (c : Code) (storedPoison : Bool) (flips : List (BitVec 80)) : LineState :=
  let ws := (List.range 8).map fun w => c.decode storedPoison (flips.getD w 0)
  if ws.any (fun w => w == .poisoned) then .poisoned
  else if ws.any (fun w => w == .bad) then .bad
  else
    let res : Line := (List.range 8).foldl (fun acc w =>
      acc ||| (match ws.getD w .clean with | .corrected r => wordAt w r | _ => 0)) 0
    .good (ws.any fun w => match w with | .corrected _ => true | _ => false) res

/-- A bitwise CRC of width `w`, most significant bit first, over the bits of `n` bytes. -/
def crcMsb (w poly : Nat) (init : Nat) (bytes : Payload) : Nat :=
  bytes.foldl (fun r b => (List.range 8).foldl (fun r i =>
    let top := (r >>> (w - 1)) % 2 == 1
    let inb := b.getLsbD (7 - i)
    let r' := (r <<< 1) % 2 ^ w
    if top != inb then r' ^^^ poly else r') r) init

/-- A reflected CRC of width 32 with initial value and final XOR all ones. -/
def crcRef (polyRev : Nat) (bytes : Payload) : Nat :=
  (bytes.foldl (fun r b => (List.range 8).foldl (fun r _ =>
    if r % 2 == 1 then (r >>> 1) ^^^ polyRev else r >>> 1) (r ^^^ b.toNat)) 0xFFFFFFFF) ^^^ 0xFFFFFFFF

/-- CRC-32 of polynomial 0x04C1_1DB7, reflected (R430). -/
def crc32 (bytes : Payload) : Word := BitVec.ofNat 32 (crcRef 0xEDB88320 bytes)

/-- CRC-32C (R246, R403). -/
def crc32c (bytes : Payload) : Word := BitVec.ofNat 32 (crcRef 0x82F63B78 bytes)

/-- CRC-64 of the ECMA-182 polynomial, not reflected, with initial value and final XOR all ones (R356). -/
def crc64 (bytes : Payload) : BitVec 64 :=
  BitVec.ofNat 64 (crcMsb 64 0x42F0E1EBA9EA3693 (2 ^ 64 - 1) bytes ^^^ (2 ^ 64 - 1))

/-- The ASCII bytes of a label as a number, first character most significant. -/
def labelNum (s : String) : Nat := s.toList.foldl (fun a c => a * 256 + c.toNat) 0

/-- The value of a key drawn. -/
def keyValue (draw : Nat) : BitVec 256 := Config.drbg draw

/-- The Relay key seed (R202). -/
def relaySeed (draw rekeys : Nat) : BitVec 256 := BitVec.ofNat 256 (Config.kdf (keyValue draw) (labelNum "XTP-RLY") rekeys 256)

/-- Byte `i` of a line. -/
def lineByte (l : Line) (i : Nat) : Byte := (l >>> (8 * i)).setWidth 8

/-- The bytes of a line, byte 0 first. -/
def lineBytes (l : Line) : Payload := (List.range 64).map (lineByte l)

/-- The line that bytes spell, byte 0 first; missing bytes are zero. -/
def lineOf (p : Payload) : Line :=
  (List.range 64).foldl (fun acc i => acc ||| ((p.getD i 0).setWidth 512) <<< (8 * i)) 0

/-- The line check: CRC-16 of polynomial 0x8BB7 over the ciphertext and the 16 tweak bytes, most significant byte first (R205). -/
def lineCheck (cipher : Line) (tweak : BitVec 128) : BitVec 16 :=
  BitVec.ofNat 16 (crcMsb 16 0x8BB7 0 (lineBytes cipher ++ (List.range 16).map fun i => (tweak >>> (8 * (15 - i))).setWidth 8))

/-- What error patterns leave of the line check after correction: it is linear, so residue and flipped check bits decide
(R176: word w carries bits 2w and 2w + 1 in side bits 14 and 15). -/
def lineCheckFails (residue : Line) (flips : List (BitVec 80)) : Bool :=
  let stored := (List.range 8).foldl (fun acc w =>
    acc + (((flips.getD w 0).toNat >>> 78) % 4) * 4 ^ w) 0
  decide ((lineCheck residue 0).toNat ≠ stored)

/-- Merges the bytes that the mask names. -/
def mergeLine (old new : Line) (mask : BitVec 64) : Line :=
  (List.range 64).foldl (fun acc i =>
    acc ||| ((if mask.getLsbD i then lineByte new i else lineByte old i).setWidth 512) <<< (8 * i)) 0

end Sys2Proof.Machine
end

