-- ==== Sys2Proof/Machine/RegMap.lean ====
section
/-! DEFINITION. Sys2Proof/Machine/RegMap.lean: the registers of BAR2 as the register tables of the spec lay them out:
each one's offset, its fields, and for each register its reset word and which of its bits carry which access code. -/

namespace Sys2Proof.Machine

/-- A field of a register: the BAR2 offset, the lowest bit and the width. -/
structure Fld where
  off : Nat
  lo : Nat
  w : Nat
  deriving DecidableEq, Repr

/-- One register table of the spec (R408, R411): base offset, stride and number of copies, reset word, and the masks
of its RW, RWS, RWK, RWP, RC and WO fields. Every other bit is RO or reserved. -/
structure RegDef where
  base : Nat
  stride : Nat
  count : Nat
  reset : Nat
  rw : Nat
  rws : Nat
  rwk : Nat
  rwp : Nat
  rc : Nat
  wo : Nat
  deriving DecidableEq, Repr

/-- `GLB_MODE_STS` (02, R43). -/
def Off.glbModeSts : Nat := 0x20
def Fld.glbModeSts_sleepCh : Fld := ⟨Off.glbModeSts, 24, 8⟩
def Fld.glbModeSts_drainDest : Fld := ⟨Off.glbModeSts, 18, 3⟩
def Fld.glbModeSts_drained : Fld := ⟨Off.glbModeSts, 17, 1⟩
def Fld.glbModeSts_recovery : Fld := ⟨Off.glbModeSts, 16, 1⟩
def Fld.glbModeSts_prevMode : Fld := ⟨Off.glbModeSts, 8, 4⟩
def Fld.glbModeSts_mode : Fld := ⟨Off.glbModeSts, 0, 4⟩
/-- `GLB_MODE_REQ` (02, R44). -/
def Off.glbModeReq : Nat := 0x24
def Fld.glbModeReq_flush : Fld := ⟨Off.glbModeReq, 8, 1⟩
def Fld.glbModeReq_target : Fld := ⟨Off.glbModeReq, 0, 4⟩
/-- `GLB_DROWSE_CTL` (02, R46). -/
def Off.glbDrowseCtl : Nat := 0x28
def Fld.glbDrowseCtl_en : Fld := ⟨Off.glbDrowseCtl, 31, 1⟩
def Fld.glbDrowseCtl_idle : Fld := ⟨Off.glbDrowseCtl, 0, 24⟩
/-- `GLB_POUR_LO` (01). -/
def Off.glbPourLo : Nat := 0x100
def Fld.glbPourLo_pourLo : Fld := ⟨Off.glbPourLo, 0, 32⟩
/-- `GLB_POUR_HI` (01). -/
def Off.glbPourHi : Nat := 0x104
def Fld.glbPourHi_pourHi : Fld := ⟨Off.glbPourHi, 0, 32⟩
/-- `GLB_POUR_CYC` (01). -/
def Off.glbPourCyc : Nat := 0x108
def Fld.glbPourCyc_cyc : Fld := ⟨Off.glbPourCyc, 0, 9⟩
/-- `GLB_OVR_STS` (01). -/
def Off.glbOvrSts : Nat := 0x10C
def Fld.glbOvrSts_gslot : Fld := ⟨Off.glbOvrSts, 6, 1⟩
def Fld.glbOvrSts_brew : Fld := ⟨Off.glbOvrSts, 5, 1⟩
def Fld.glbOvrSts_recentre : Fld := ⟨Off.glbOvrSts, 4, 1⟩
def Fld.glbOvrSts_rekey : Fld := ⟨Off.glbOvrSts, 3, 1⟩
def Fld.glbOvrSts_scrub : Fld := ⟨Off.glbOvrSts, 2, 1⟩
def Fld.glbOvrSts_nbr : Fld := ⟨Off.glbOvrSts, 1, 1⟩
def Fld.glbOvrSts_refresh : Fld := ⟨Off.glbOvrSts, 0, 1⟩
/-- `FAR_MAP_CTL` (03). -/
def Off.farMapCtl : Nat := 0x1A0000
def Fld.farMapCtl_dataBlocks : Fld := ⟨Off.farMapCtl, 16, 16⟩
def Fld.farMapCtl_chSet : Fld := ⟨Off.farMapCtl, 8, 4⟩
def Fld.farMapCtl_ord : Fld := ⟨Off.farMapCtl, 0, 2⟩
/-- `TNT_CTL` (03). -/
def Off.tntCtl (i : Nat) : Nat := 0x240000 + 32 * i
def Fld.tntCtl_en (i : Nat) : Fld := ⟨Off.tntCtl i, 31, 1⟩
def Fld.tntCtl_port (i : Nat) : Fld := ⟨Off.tntCtl i, 8, 1⟩
def Fld.tntCtl_ld (i : Nat) : Fld := ⟨Off.tntCtl i, 0, 4⟩
/-- `TNT_EXT_BASE` (03). -/
def Off.tntExtBase (i : Nat) : Nat := 0x240004 + 32 * i
def Fld.tntExtBase_base (i : Nat) : Fld := ⟨Off.tntExtBase i, 0, 18⟩
/-- `TNT_EXT_LEN` (03). -/
def Off.tntExtLen (i : Nat) : Nat := 0x240008 + 32 * i
def Fld.tntExtLen_len (i : Nat) : Fld := ⟨Off.tntExtLen i, 0, 19⟩
/-- `TNT_PART` (03). -/
def Off.tntPart (i : Nat) : Nat := 0x24000C + 32 * i
def Fld.tntPart_staticC (i : Nat) : Fld := ⟨Off.tntPart i, 27, 1⟩
def Fld.tntPart_staticBlk (i : Nat) : Fld := ⟨Off.tntPart i, 8, 19⟩
def Fld.tntPart_nearBlk (i : Nat) : Fld := ⟨Off.tntPart i, 0, 8⟩
/-- `TNT_STS` (03). -/
def Off.tntSts (i : Nat) : Nat := 0x240010 + 32 * i
def Fld.tntSts_squashed (i : Nat) : Fld := ⟨Off.tntSts i, 16, 16⟩
def Fld.tntSts_state (i : Nat) : Fld := ⟨Off.tntSts i, 0, 3⟩
/-- `CRM_CH_STS` (04). -/
def Off.crmChSts (i : Nat) : Nat := 0x100000 + 8192 * i
def Fld.crmChSts_logical (i : Nat) : Fld := ⟨Off.crmChSts i, 8, 5⟩
def Fld.crmChSts_role (i : Nat) : Fld := ⟨Off.crmChSts i, 0, 3⟩
/-- `CRM_CFG` (04). -/
def Off.crmCfg : Nat := 0x140000
def Fld.crmCfg_nearGib : Fld := ⟨Off.crmCfg, 20, 6⟩
def Fld.crmCfg_sets : Fld := ⟨Off.crmCfg, 0, 20⟩
/-- `CRM_STS` (04). -/
def Off.crmSts : Nat := 0x140004
def Fld.crmSts_bypass : Fld := ⟨Off.crmSts, 31, 1⟩
def Fld.crmSts_walk : Fld := ⟨Off.crmSts, 30, 1⟩
def Fld.crmSts_rebuild : Fld := ⟨Off.crmSts, 29, 1⟩
def Fld.crmSts_noSpare : Fld := ⟨Off.crmSts, 24, 1⟩
def Fld.crmSts_spare : Fld := ⟨Off.crmSts, 16, 5⟩
def Fld.crmSts_lost : Fld := ⟨Off.crmSts, 0, 8⟩
/-- `CRM_SPEC_CTL` (04). -/
def Off.crmSpecCtl : Nat := 0x140008
def Fld.crmSpecCtl_en : Fld := ⟨Off.crmSpecCtl, 31, 1⟩
def Fld.crmSpecCtl_confMin : Fld := ⟨Off.crmSpecCtl, 7, 2⟩
def Fld.crmSpecCtl_hold : Fld := ⟨Off.crmSpecCtl, 0, 7⟩
/-- `CRM_PIN_STS` (04). -/
def Off.crmPinSts : Nat := 0x14000C
def Fld.crmPinSts_pinned : Fld := ⟨Off.crmPinSts, 0, 24⟩
/-- `CRM_LMAP` (04). -/
def Off.crmLmap (i : Nat) : Nat := 0x140100 + 4 * i
def Fld.crmLmap_v (i : Nat) : Fld := ⟨Off.crmLmap i, 31, 1⟩
def Fld.crmLmap_phys (i : Nat) : Fld := ⟨Off.crmLmap i, 0, 5⟩
/-- `CRM_REF_CTL` (05). -/
def Off.crmRefCtl : Nat := 0x140010
def Fld.crmRefCtl_doubled : Fld := ⟨Off.crmRefCtl, 31, 1⟩
def Fld.crmRefCtl_nrt : Fld := ⟨Off.crmRefCtl, 0, 13⟩
/-- `CRM_THERM_CTL` (05). -/
def Off.crmThermCtl : Nat := 0x140014
def Fld.crmThermCtl_thr : Fld := ⟨Off.crmThermCtl, 0, 3⟩
/-- `CRM_THERM_STS` (05). -/
def Off.crmThermSts : Nat := 0x140018
def Fld.crmThermSts_throtStack : Fld := ⟨Off.crmThermSts, 31, 1⟩
def Fld.crmThermSts_throtDie : Fld := ⟨Off.crmThermSts, 30, 1⟩
def Fld.crmThermSts_failsafe : Fld := ⟨Off.crmThermSts, 29, 1⟩
def Fld.crmThermSts_hotDie : Fld := ⟨Off.crmThermSts, 16, 10⟩
def Fld.crmThermSts_hotStack : Fld := ⟨Off.crmThermSts, 0, 10⟩
/-- `CRM_REPAIR_STS` (05). -/
def Off.crmRepairSts : Nat := 0x14001C
def Fld.crmRepairSts_soft : Fld := ⟨Off.crmRepairSts, 20, 12⟩
def Fld.crmRepairSts_fuse : Fld := ⟨Off.crmRepairSts, 10, 10⟩
def Fld.crmRepairSts_dup : Fld := ⟨Off.crmRepairSts, 0, 10⟩
/-- `CRM_ROT_STS` (05). -/
def Off.crmRotSts : Nat := 0x140020
def Fld.crmRotSts_active : Fld := ⟨Off.crmRotSts, 31, 1⟩
def Fld.crmRotSts_source : Fld := ⟨Off.crmRotSts, 20, 5⟩
def Fld.crmRotSts_pointer : Fld := ⟨Off.crmRotSts, 0, 20⟩
/-- `FAR_CH_STS` (06). -/
def Off.farChSts (i : Nat) : Nat := 0x180000 + 16384 * i
def Fld.farChSts_state (i : Nat) : Fld := ⟨Off.farChSts i, 29, 3⟩
def Fld.farChSts_inSet (i : Nat) : Fld := ⟨Off.farChSts i, 28, 1⟩
def Fld.farChSts_doubled (i : Nat) : Fld := ⟨Off.farChSts i, 27, 1⟩
def Fld.farChSts_hot (i : Nat) : Fld := ⟨Off.farChSts i, 26, 1⟩
def Fld.farChSts_speed (i : Nat) : Fld := ⟨Off.farChSts i, 20, 4⟩
def Fld.farChSts_lrank (i : Nat) : Fld := ⟨Off.farChSts i, 12, 3⟩
def Fld.farChSts_dpc (i : Nat) : Fld := ⟨Off.farChSts i, 10, 2⟩
def Fld.farChSts_width (i : Nat) : Fld := ⟨Off.farChSts i, 8, 2⟩
def Fld.farChSts_raw (i : Nat) : Fld := ⟨Off.farChSts i, 0, 8⟩
/-- `FAR_CH_CFG` (06). -/
def Off.farChCfg (i : Nat) : Nat := 0x180004 + 16384 * i
def Fld.farChCfg_dist (i : Nat) : Fld := ⟨Off.farChCfg i, 30, 2⟩
def Fld.farChCfg_refmode (i : Nat) : Fld := ⟨Off.farChCfg i, 28, 2⟩
def Fld.farChCfg_paraK (i : Nat) : Fld := ⟨Off.farChCfg i, 24, 4⟩
/-- `FAR_DIST_CTL` (06). -/
def Off.farDistCtl (i : Nat) : Nat := 0x180008 + 16384 * i
def Fld.farDistCtl_limit (i : Nat) : Fld := ⟨Off.farDistCtl i, 16, 16⟩
def Fld.farDistCtl_win (i : Nat) : Fld := ⟨Off.farDistCtl i, 0, 4⟩
/-- `FAR_TRACK_STS` (06). -/
def Off.farTrackSts (i : Nat) : Nat := 0x18000C + 16384 * i
def Fld.farTrackSts_steps (i : Nat) : Fld := ⟨Off.farTrackSts i, 24, 8⟩
def Fld.farTrackSts_fails (i : Nat) : Fld := ⟨Off.farTrackSts i, 22, 2⟩
def Fld.farTrackSts_drift (i : Nat) : Fld := ⟨Off.farTrackSts i, 0, 7⟩
/-- `FAR_CH_DERATE` (06). -/
def Off.farChDerate (i : Nat) : Nat := 0x180010 + 16384 * i
def Fld.farChDerate_total (i : Nat) : Fld := ⟨Off.farChDerate i, 20, 10⟩
def Fld.farChDerate_dist (i : Nat) : Fld := ⟨Off.farChDerate i, 10, 10⟩
def Fld.farChDerate_ref (i : Nat) : Fld := ⟨Off.farChDerate i, 0, 10⟩
/-- `FAR_PPR_STS` (06). -/
def Off.farPprSts (i : Nat) : Nat := 0x180014 + 16384 * i
def Fld.farPprSts_hard (i : Nat) : Fld := ⟨Off.farPprSts i, 8, 8⟩
def Fld.farPprSts_soft (i : Nat) : Fld := ⟨Off.farPprSts i, 0, 8⟩
/-- `FAR_SCHED_CTL` (06). -/
def Off.farSchedCtl : Nat := 0x1A0004
def Fld.farSchedCtl_wqHi : Fld := ⟨Off.farSchedCtl, 22, 6⟩
def Fld.farSchedCtl_wqLo : Fld := ⟨Off.farSchedCtl, 16, 6⟩
def Fld.farSchedCtl_age : Fld := ⟨Off.farSchedCtl, 0, 10⟩
/-- `FAR_TRACK_CTL` (06). -/
def Off.farTrackCtl : Nat := 0x1A0008
def Fld.farTrackCtl_interval : Fld := ⟨Off.farTrackCtl, 8, 5⟩
def Fld.farTrackCtl_thresh : Fld := ⟨Off.farTrackCtl, 0, 7⟩
/-- `RAS_SCRUB_CTL` (07). -/
def Off.rasScrubCtl : Nat := 0x300400
def Fld.rasScrubCtl_farEn : Fld := ⟨Off.rasScrubCtl, 31, 1⟩
def Fld.rasScrubCtl_crmEn : Fld := ⟨Off.rasScrubCtl, 30, 1⟩
def Fld.rasScrubCtl_crmInt : Fld := ⟨Off.rasScrubCtl, 8, 8⟩
def Fld.rasScrubCtl_farInt : Fld := ⟨Off.rasScrubCtl, 0, 8⟩
/-- `RAS_SCRUB_STS` (07). -/
def Off.rasScrubSts : Nat := 0x300404
def Fld.rasScrubSts_farPasses : Fld := ⟨Off.rasScrubSts, 16, 16⟩
def Fld.rasScrubSts_crmPasses : Fld := ⟨Off.rasScrubSts, 0, 16⟩
/-- `RAS_ECC_CNT` (07). -/
def Off.rasEccCnt : Nat := 0x300408
def Fld.rasEccCnt_ue : Fld := ⟨Off.rasEccCnt, 16, 16⟩
def Fld.rasEccCnt_ce : Fld := ⟨Off.rasEccCnt, 0, 16⟩
/-- `RAS_CE_CTL` (07). -/
def Off.rasCeCtl : Nat := 0x30040C
def Fld.rasCeCtl_win : Fld := ⟨Off.rasCeCtl, 16, 4⟩
def Fld.rasCeCtl_thresh : Fld := ⟨Off.rasCeCtl, 0, 16⟩
/-- `CRY_STS` (08). -/
def Off.crySts : Nat := 0x200000
def Fld.crySts_keyValid : Fld := ⟨Off.crySts, 31, 1⟩
def Fld.crySts_rekey : Fld := ⟨Off.crySts, 30, 1⟩
def Fld.crySts_trngOk : Fld := ⟨Off.crySts, 29, 1⟩
def Fld.crySts_rekeys : Fld := ⟨Off.crySts, 8, 8⟩
/-- `CRY_REKEY_CTL` (08). -/
def Off.cryRekeyCtl : Nat := 0x200010
def Fld.cryRekeyCtl_start : Fld := ⟨Off.cryRekeyCtl, 31, 1⟩
def Fld.cryRekeyCtl_rate : Fld := ⟨Off.cryRekeyCtl, 0, 7⟩
/-- `CRY_REKEY_CTL_KEY` (08). -/
def Off.cryRekeyCtlKey : Nat := 0x200014
def Fld.cryRekeyCtlKey_key : Fld := ⟨Off.cryRekeyCtlKey, 0, 32⟩
/-- `CRY_REKEY_STS` (08). -/
def Off.cryRekeySts : Nat := 0x200018
def Fld.cryRekeySts_done : Fld := ⟨Off.cryRekeySts, 31, 1⟩
def Fld.cryRekeySts_refused : Fld := ⟨Off.cryRekeySts, 30, 1⟩
def Fld.cryRekeySts_paused : Fld := ⟨Off.cryRekeySts, 29, 1⟩
def Fld.cryRekeySts_auto : Fld := ⟨Off.cryRekeySts, 28, 1⟩
def Fld.cryRekeySts_pct : Fld := ⟨Off.cryRekeySts, 0, 7⟩
/-- `CRY_MAJOR_NEXT_LO` (08). -/
def Off.cryMajorNextLo : Nat := 0x200020
def Fld.cryMajorNextLo_lo : Fld := ⟨Off.cryMajorNextLo, 0, 32⟩
/-- `CRY_MAJOR_NEXT_HI` (08). -/
def Off.cryMajorNextHi : Nat := 0x200024
def Fld.cryMajorNextHi_hi : Fld := ⟨Off.cryMajorNextHi, 0, 25⟩
/-- `CRY_CRM_BOUND` (08). -/
def Off.cryCrmBound : Nat := 0x200030
def Fld.cryCrmBound_line : Fld := ⟨Off.cryCrmBound, 0, 30⟩
/-- `CRY_FAR_BOUND` (08). -/
def Off.cryFarBound (i : Nat) : Nat := 0x200040 + 4 * i
def Fld.cryFarBound_end (i : Nat) : Fld := ⟨Off.cryFarBound i, 31, 1⟩
def Fld.cryFarBound_page (i : Nat) : Fld := ⟨Off.cryFarBound i, 0, 28⟩
/-- `CRY_PIPE_STS` (08). -/
def Off.cryPipeSts : Nat := 0x200060
def Fld.cryPipeSts_xtsSpares : Fld := ⟨Off.cryPipeSts, 30, 2⟩
def Fld.cryPipeSts_ctrSpares : Fld := ⟨Off.cryPipeSts, 28, 2⟩
def Fld.cryPipeSts_xtsFail : Fld := ⟨Off.cryPipeSts, 16, 8⟩
def Fld.cryPipeSts_ctrFail : Fld := ⟨Off.cryPipeSts, 8, 8⟩
/-- `CRY_META_STS` (08). -/
def Off.cryMetaSts : Nat := 0x200064
def Fld.cryMetaSts_ctrblkUe : Fld := ⟨Off.cryMetaSts, 16, 16⟩
def Fld.cryMetaSts_nodeSingle : Fld := ⟨Off.cryMetaSts, 8, 8⟩
def Fld.cryMetaSts_subtree : Fld := ⟨Off.cryMetaSts, 0, 8⟩
/-- `PRS_STS` (09). -/
def Off.prsSts : Nat := 0x210000
def Fld.prsSts_engOk : Fld := ⟨Off.prsSts, 16, 4⟩
def Fld.prsSts_jobs : Fld := ⟨Off.prsSts, 8, 8⟩
def Fld.prsSts_compact : Fld := ⟨Off.prsSts, 0, 1⟩
/-- `PRS_POOL_CFG` (09). -/
def Off.prsPoolCfg (i : Nat) : Nat := 0x210100 + 32 * i
def Fld.prsPoolCfg_en (i : Nat) : Fld := ⟨Off.prsPoolCfg i, 31, 1⟩
def Fld.prsPoolCfg_mode (i : Nat) : Fld := ⟨Off.prsPoolCfg i, 30, 1⟩
def Fld.prsPoolCfg_storage (i : Nat) : Fld := ⟨Off.prsPoolCfg i, 0, 16⟩
/-- `PRS_POOL_EXP` (09). -/
def Off.prsPoolExp (i : Nat) : Nat := 0x210104 + 32 * i
def Fld.prsPoolExp_mapblk (i : Nat) : Fld := ⟨Off.prsPoolExp i, 16, 16⟩
def Fld.prsPoolExp_expose (i : Nat) : Fld := ⟨Off.prsPoolExp i, 0, 16⟩
/-- `PRS_POOL_FREE` (09). -/
def Off.prsPoolFree (i : Nat) : Nat := 0x210108 + 32 * i
def Fld.prsPoolFree_level (i : Nat) : Fld := ⟨Off.prsPoolFree i, 30, 2⟩
def Fld.prsPoolFree_ch (i : Nat) : Fld := ⟨Off.prsPoolFree i, 10, 3⟩
def Fld.prsPoolFree_freePm (i : Nat) : Fld := ⟨Off.prsPoolFree i, 0, 10⟩
/-- `PRS_POOL_CHAIN` (09). -/
def Off.prsPoolChain (i : Nat) : Nat := 0x21010C + 32 * i
def Fld.prsPoolChain_chained (i : Nat) : Fld := ⟨Off.prsPoolChain i, 0, 32⟩
/-- `PRS_POOL_LOSS` (09). -/
def Off.prsPoolLoss (i : Nat) : Nat := 0x210110 + 32 * i
def Fld.prsPoolLoss_lost (i : Nat) : Fld := ⟨Off.prsPoolLoss i, 0, 32⟩
/-- `PRS_SPARE_STS` (09). -/
def Off.prsSpareSts (i : Nat) : Nat := 0x210200 + 4 * i
def Fld.prsSpareSts_low (i : Nat) : Fld := ⟨Off.prsSpareSts i, 31, 1⟩
def Fld.prsSpareSts_free (i : Nat) : Fld := ⟨Off.prsSpareSts i, 0, 24⟩
/-- `COH_CTL` (10). -/
def Off.cohCtl : Nat := 0x220000
def Fld.cohCtl_timeout : Fld := ⟨Off.cohCtl, 0, 17⟩
/-- `COH_ATOM_CTL` (10). -/
def Off.cohAtomCtl : Nat := 0x220004
def Fld.cohAtomCtl_nearEn : Fld := ⟨Off.cohAtomCtl, 31, 1⟩
def Fld.cohAtomCtl_nearMin : Fld := ⟨Off.cohAtomCtl, 16, 3⟩
def Fld.cohAtomCtl_maxp : Fld := ⟨Off.cohAtomCtl, 12, 4⟩
def Fld.cohAtomCtl_idle : Fld := ⟨Off.cohAtomCtl, 0, 8⟩
/-- `COH_STS` (10). -/
def Off.cohSts : Nat := 0x220008
def Fld.cohSts_imprecise : Fld := ⟨Off.cohSts, 16, 16⟩
def Fld.cohSts_late : Fld := ⟨Off.cohSts, 0, 16⟩
/-- `COH_SUSPECT` (10). -/
def Off.cohSuspect : Nat := 0x22000C
def Fld.cohSuspect_host : Fld := ⟨Off.cohSuspect, 0, 16⟩
/-- `COH_RETRY_STS` (10). -/
def Off.cohRetrySts : Nat := 0x220010
def Fld.cohRetrySts_peak : Fld := ⟨Off.cohRetrySts, 24, 8⟩
def Fld.cohRetrySts_slice : Fld := ⟨Off.cohRetrySts, 20, 4⟩
def Fld.cohRetrySts_waits : Fld := ⟨Off.cohRetrySts, 0, 20⟩
/-- `COH_SHARER_MAP` (10). -/
def Off.cohSharerMap (i : Nat) : Nat := 0x220100 + 4 * i
def Fld.cohSharerMap_v (i : Nat) : Fld := ⟨Off.cohSharerMap i, 31, 1⟩
def Fld.cohSharerMap_port (i : Nat) : Fld := ⟨Off.cohSharerMap i, 16, 1⟩
def Fld.cohSharerMap_ld (i : Nat) : Fld := ⟨Off.cohSharerMap i, 12, 4⟩
def Fld.cohSharerMap_biId (i : Nat) : Fld := ⟨Off.cohSharerMap i, 0, 12⟩
/-- `SVC_FLOOR_CTL` (11). -/
def Off.svcFloorCtl : Nat := 0x230000
def Fld.svcFloorCtl_meta : Fld := ⟨Off.svcFloorCtl, 0, 4⟩
/-- `SVC_LBP_CTL` (11). -/
def Off.svcLbpCtl : Nat := 0x230004
def Fld.svcLbpCtl_gres : Fld := ⟨Off.svcLbpCtl, 16, 16⟩
def Fld.svcLbpCtl_sFloor : Fld := ⟨Off.svcLbpCtl, 0, 16⟩
/-- `SVC_SCALE_STS` (11). -/
def Off.svcScaleSts : Nat := 0x230008
def Fld.svcScaleSts_breach : Fld := ⟨Off.svcScaleSts, 31, 1⟩
def Fld.svcScaleSts_short : Fld := ⟨Off.svcScaleSts, 30, 1⟩
def Fld.svcScaleSts_resource : Fld := ⟨Off.svcScaleSts, 24, 3⟩
def Fld.svcScaleSts_factor : Fld := ⟨Off.svcScaleSts, 0, 17⟩
/-- `SVC_FLOOR_CRM` (11). -/
def Off.svcFloorCrm : Nat := 0x230010
def Fld.svcFloorCrm_charged : Fld := ⟨Off.svcFloorCrm, 16, 16⟩
def Fld.svcFloorCrm_floor : Fld := ⟨Off.svcFloorCrm, 0, 16⟩
/-- `SVC_FLOOR_FAR` (11). -/
def Off.svcFloorFar : Nat := 0x230014
def Fld.svcFloorFar_charged : Fld := ⟨Off.svcFloorFar, 16, 16⟩
def Fld.svcFloorFar_floor : Fld := ⟨Off.svcFloorFar, 0, 16⟩
/-- `SVC_FLOOR_PA` (11). -/
def Off.svcFloorPa : Nat := 0x230018
def Fld.svcFloorPa_charged : Fld := ⟨Off.svcFloorPa, 16, 16⟩
def Fld.svcFloorPa_floor : Fld := ⟨Off.svcFloorPa, 0, 16⟩
/-- `SVC_FLOOR_PB` (11). -/
def Off.svcFloorPb : Nat := 0x23001C
def Fld.svcFloorPb_charged : Fld := ⟨Off.svcFloorPb, 16, 16⟩
def Fld.svcFloorPb_floor : Fld := ⟨Off.svcFloorPb, 0, 16⟩
/-- `SVC_FLOOR_PRS` (11). -/
def Off.svcFloorPrs : Nat := 0x230020
def Fld.svcFloorPrs_charged : Fld := ⟨Off.svcFloorPrs, 16, 16⟩
def Fld.svcFloorPrs_floor : Fld := ⟨Off.svcFloorPrs, 0, 16⟩
/-- `SVC_FLOOR_RLY` (11). -/
def Off.svcFloorRly : Nat := 0x230024
def Fld.svcFloorRly_charged : Fld := ⟨Off.svcFloorRly, 16, 16⟩
def Fld.svcFloorRly_floor : Fld := ⟨Off.svcFloorRly, 0, 16⟩
/-- `SVC_TNT_CLASS` (11). -/
def Off.svcTntClass (i : Nat) : Nat := 0x231000 + 64 * i
def Fld.svcTntClass_dcr (i r : Nat) : Fld := ⟨Off.svcTntClass i, 2 * r + 4, 2⟩
def Fld.svcTntClass_static (i : Nat) : Fld := ⟨Off.svcTntClass i, 2, 2⟩
def Fld.svcTntClass_near (i : Nat) : Fld := ⟨Off.svcTntClass i, 0, 2⟩
/-- `SVC_TNT_OTL_GL` (11). -/
def Off.svcTntOtlGl (i : Nat) : Nat := 0x231004 + 64 * i
def Fld.svcTntOtlGl_l (i : Nat) : Fld := ⟨Off.svcTntOtlGl i, 16, 10⟩
def Fld.svcTntOtlGl_g (i : Nat) : Fld := ⟨Off.svcTntOtlGl i, 0, 10⟩
/-- `SVC_TNT_OTL_BS` (11). -/
def Off.svcTntOtlBs (i : Nat) : Nat := 0x231008 + 64 * i
def Fld.svcTntOtlBs_s (i : Nat) : Fld := ⟨Off.svcTntOtlBs i, 16, 10⟩
def Fld.svcTntOtlBs_b (i : Nat) : Fld := ⟨Off.svcTntOtlBs i, 0, 10⟩
/-- `SVC_TNT_GUAR` (11). -/
def Off.svcTntGuar (i : Nat) : Nat := 0x23100C + 64 * i
def Fld.svcTntGuar_spill (i : Nat) : Fld := ⟨Off.svcTntGuar i, 31, 1⟩
def Fld.svcTntGuar_guar (i : Nat) : Fld := ⟨Off.svcTntGuar i, 0, 11⟩
/-- `SVC_TNT_BW_G` (11). -/
def Off.svcTntBwG (i : Nat) : Nat := 0x231010 + 64 * i
def Fld.svcTntBwG_win (i : Nat) : Fld := ⟨Off.svcTntBwG i, 16, 16⟩
def Fld.svcTntBwG_pour (i : Nat) : Fld := ⟨Off.svcTntBwG i, 0, 9⟩
/-- `SVC_TNT_BW_L` (11). -/
def Off.svcTntBwL (i : Nat) : Nat := 0x231014 + 64 * i
def Fld.svcTntBwL_win (i : Nat) : Fld := ⟨Off.svcTntBwL i, 16, 16⟩
def Fld.svcTntBwL_pour (i : Nat) : Fld := ⟨Off.svcTntBwL i, 0, 9⟩
/-- `SVC_TNT_BW_B` (11). -/
def Off.svcTntBwB (i : Nat) : Nat := 0x231018 + 64 * i
def Fld.svcTntBwB_win (i : Nat) : Fld := ⟨Off.svcTntBwB i, 16, 16⟩
def Fld.svcTntBwB_pour (i : Nat) : Fld := ⟨Off.svcTntBwB i, 0, 9⟩
/-- `SVC_TNT_BW_S` (11). -/
def Off.svcTntBwS (i : Nat) : Nat := 0x23101C + 64 * i
def Fld.svcTntBwS_win (i : Nat) : Fld := ⟨Off.svcTntBwS i, 16, 16⟩
def Fld.svcTntBwS_pour (i : Nat) : Fld := ⟨Off.svcTntBwS i, 0, 9⟩
/-- `SVC_TNT_STS` (11). -/
def Off.svcTntSts (i : Nat) : Nat := 0x231020 + 64 * i
def Fld.svcTntSts_limit (i : Nat) : Fld := ⟨Off.svcTntSts i, 28, 4⟩
def Fld.svcTntSts_held (i : Nat) : Fld := ⟨Off.svcTntSts i, 0, 10⟩
/-- `NOC_STS` (12). -/
def Off.nocSts : Nat := 0x80000
def Fld.nocSts_bank : Fld := ⟨Off.nocSts, 31, 1⟩
def Fld.nocSts_dom : Fld := ⟨Off.nocSts, 0, 24⟩
/-- `NOC_FENCE_STS` (12). -/
def Off.nocFenceSts : Nat := 0x80004
def Fld.nocFenceSts_stuck : Fld := ⟨Off.nocFenceSts, 16, 12⟩
def Fld.nocFenceSts_retried : Fld := ⟨Off.nocFenceSts, 0, 12⟩
/-- `NOC_RT_SEL` (12). -/
def Off.nocRtSel : Nat := 0x80010
def Fld.nocRtSel_view : Fld := ⟨Off.nocRtSel, 31, 1⟩
def Fld.nocRtSel_net : Fld := ⟨Off.nocRtSel, 28, 2⟩
def Fld.nocRtSel_src : Fld := ⟨Off.nocRtSel, 16, 6⟩
def Fld.nocRtSel_dst : Fld := ⟨Off.nocRtSel, 0, 6⟩
/-- `NOC_RT_DATA` (12). -/
def Off.nocRtData : Nat := 0x80014
def Fld.nocRtData_v : Fld := ⟨Off.nocRtData, 31, 1⟩
def Fld.nocRtData_hops : Fld := ⟨Off.nocRtData, 0, 24⟩
/-- `NOC_SLOT_SEL` (12). -/
def Off.nocSlotSel : Nat := 0x80018
def Fld.nocSlotSel_view : Fld := ⟨Off.nocSlotSel, 31, 1⟩
def Fld.nocSlotSel_net : Fld := ⟨Off.nocSlotSel, 28, 2⟩
def Fld.nocSlotSel_router : Fld := ⟨Off.nocSlotSel, 16, 6⟩
def Fld.nocSlotSel_port : Fld := ⟨Off.nocSlotSel, 12, 3⟩
def Fld.nocSlotSel_entry : Fld := ⟨Off.nocSlotSel, 0, 9⟩
/-- `NOC_SLOT_DATA` (12). -/
def Off.nocSlotData : Nat := 0x8001C
def Fld.nocSlotData_v : Fld := ⟨Off.nocSlotData, 31, 1⟩
def Fld.nocSlotData_tenant : Fld := ⟨Off.nocSlotData, 0, 5⟩
/-- `GLB_PORT_MODE` (13). -/
def Off.glbPortMode : Nat := 0x2C
def Fld.glbPortMode_strap : Fld := ⟨Off.glbPortMode, 8, 3⟩
def Fld.glbPortMode_override : Fld := ⟨Off.glbPortMode, 7, 1⟩
def Fld.glbPortMode_mode : Fld := ⟨Off.glbPortMode, 0, 3⟩
/-- `PRT_LINK_STS` (13). -/
def Off.prtLinkSts (i : Nat) : Nat := 0x20000 + 65536 * i
def Fld.prtLinkSts_state (i : Nat) : Fld := ⟨Off.prtLinkSts i, 30, 2⟩
def Fld.prtLinkSts_flit (i : Nat) : Fld := ⟨Off.prtLinkSts i, 29, 1⟩
def Fld.prtLinkSts_lopt (i : Nat) : Fld := ⟨Off.prtLinkSts i, 28, 1⟩
def Fld.prtLinkSts_cxlver (i : Nat) : Fld := ⟨Off.prtLinkSts i, 26, 2⟩
def Fld.prtLinkSts_mld (i : Nat) : Fld := ⟨Off.prtLinkSts i, 25, 1⟩
def Fld.prtLinkSts_l0p (i : Nat) : Fld := ⟨Off.prtLinkSts i, 24, 1⟩
def Fld.prtLinkSts_width (i : Nat) : Fld := ⟨Off.prtLinkSts i, 16, 5⟩
def Fld.prtLinkSts_rate (i : Nat) : Fld := ⟨Off.prtLinkSts i, 8, 4⟩
def Fld.prtLinkSts_role (i : Nat) : Fld := ⟨Off.prtLinkSts i, 0, 4⟩
/-- `PRT_DOWN_STS` (13). -/
def Off.prtDownSts (i : Nat) : Nat := 0x20004 + 65536 * i
def Fld.prtDownSts_active (i : Nat) : Fld := ⟨Off.prtDownSts i, 31, 1⟩
def Fld.prtDownSts_downs (i : Nat) : Fld := ⟨Off.prtDownSts i, 16, 8⟩
def Fld.prtDownSts_unexec (i : Nat) : Fld := ⟨Off.prtDownSts i, 0, 16⟩
/-- `PRT_DOWN_CNT` (13). -/
def Off.prtDownCnt (i : Nat) : Nat := 0x20008 + 65536 * i
def Fld.prtDownCnt_writes (i : Nat) : Fld := ⟨Off.prtDownCnt i, 16, 16⟩
def Fld.prtDownCnt_reads (i : Nat) : Fld := ⟨Off.prtDownCnt i, 0, 16⟩
/-- `PRT_RETRY_CNT` (13). -/
def Off.prtRetryCnt (i : Nat) : Nat := 0x2000C + 65536 * i
def Fld.prtRetryCnt_replays (i : Nat) : Fld := ⟨Off.prtRetryCnt i, 16, 16⟩
def Fld.prtRetryCnt_recov (i : Nat) : Fld := ⟨Off.prtRetryCnt i, 0, 16⟩
/-- `PRT_VIRAL_STS` (13). -/
def Off.prtViralSts (i : Nat) : Nat := 0x20010 + 65536 * i
def Fld.prtViralSts_rx (i : Nat) : Fld := ⟨Off.prtViralSts i, 31, 1⟩
def Fld.prtViralSts_tx (i : Nat) : Fld := ⟨Off.prtViralSts i, 30, 1⟩
def Fld.prtViralSts_dropped (i : Nat) : Fld := ⟨Off.prtViralSts i, 0, 16⟩
/-- `PRT_IDE_STS` (13). -/
def Off.prtIdeSts (i : Nat) : Nat := 0x20014 + 65536 * i
def Fld.prtIdeSts_link (i : Nat) : Fld := ⟨Off.prtIdeSts i, 30, 2⟩
def Fld.prtIdeSts_cxl (i : Nat) : Fld := ⟨Off.prtIdeSts i, 28, 2⟩
def Fld.prtIdeSts_sel (i : Nat) : Fld := ⟨Off.prtIdeSts i, 24, 4⟩
def Fld.prtIdeSts_fails (i : Nat) : Fld := ⟨Off.prtIdeSts i, 0, 8⟩
/-- `PRT_POISON_OVF` (13). -/
def Off.prtPoisonOvf (i : Nat) : Nat := 0x20018 + 65536 * i
def Fld.prtPoisonOvf_ovf (i : Nat) : Fld := ⟨Off.prtPoisonOvf i, 0, 16⟩
/-- `RLY_LINK_STS` (14). -/
def Off.rlyLinkSts (i : Nat) : Nat := 0x40000 + 256 * i
def Fld.rlyLinkSts_state (i : Nat) : Fld := ⟨Off.rlyLinkSts i, 29, 3⟩
def Fld.rlyLinkSts_width (i : Nat) : Fld := ⟨Off.rlyLinkSts i, 24, 5⟩
def Fld.rlyLinkSts_vcs (i : Nat) : Fld := ⟨Off.rlyLinkSts i, 20, 4⟩
def Fld.rlyLinkSts_replay (i : Nat) : Fld := ⟨Off.rlyLinkSts i, 0, 11⟩
/-- `RLY_VC_CFG` (14). -/
def Off.rlyVcCfg (i : Nat) : Nat := 0x40004 + 256 * i
def Fld.rlyVcCfg_count (i : Nat) : Fld := ⟨Off.rlyVcCfg i, 0, 2⟩
/-- `RLY_ERR_CNT` (14). -/
def Off.rlyErrCnt (i : Nat) : Nat := 0x40008 + 256 * i
def Fld.rlyErrCnt_lost (i : Nat) : Fld := ⟨Off.rlyErrCnt i, 16, 16⟩
def Fld.rlyErrCnt_snak (i : Nat) : Fld := ⟨Off.rlyErrCnt i, 8, 8⟩
def Fld.rlyErrCnt_gbn (i : Nat) : Fld := ⟨Off.rlyErrCnt i, 0, 8⟩
/-- `RLY_FEC_CNT` (14). -/
def Off.rlyFecCnt (i : Nat) : Nat := 0x4000C + 256 * i
def Fld.rlyFecCnt_corr (i : Nat) : Fld := ⟨Off.rlyFecCnt i, 0, 32⟩
/-- `RLY_HOLD_STS` (14). -/
def Off.rlyHoldSts (i : Nat) : Nat := 0x40010 + 256 * i
def Fld.rlyHoldSts_peer (i : Nat) : Fld := ⟨Off.rlyHoldSts i, 24, 8⟩
def Fld.rlyHoldSts_own (i : Nat) : Fld := ⟨Off.rlyHoldSts i, 16, 8⟩
/-- `RLY_RTT` (14). -/
def Off.rlyRtt (i : Nat) : Nat := 0x40014 + 256 * i
def Fld.rlyRtt_rtt (i : Nat) : Fld := ⟨Off.rlyRtt i, 0, 16⟩
/-- `RLY_CHAIN_CTL` (14). -/
def Off.rlyChainCtl : Nat := 0x41000
def Fld.rlyChainCtl_policy : Fld := ⟨Off.rlyChainCtl, 31, 1⟩
def Fld.rlyChainCtl_auto : Fld := ⟨Off.rlyChainCtl, 30, 1⟩
def Fld.rlyChainCtl_autoTnt : Fld := ⟨Off.rlyChainCtl, 24, 5⟩
def Fld.rlyChainCtl_autoRegion : Fld := ⟨Off.rlyChainCtl, 16, 3⟩
/-- `RLY_CHAIN_STS` (14). -/
def Off.rlyChainSts : Nat := 0x41004
def Fld.rlyChainSts_idv : Fld := ⟨Off.rlyChainSts, 31, 1⟩
def Fld.rlyChainSts_id : Fld := ⟨Off.rlyChainSts, 28, 3⟩
def Fld.rlyChainSts_count : Fld := ⟨Off.rlyChainSts, 24, 4⟩
def Fld.rlyChainSts_epoch : Fld := ⟨Off.rlyChainSts, 16, 8⟩
def Fld.rlyChainSts_cut : Fld := ⟨Off.rlyChainSts, 15, 1⟩
def Fld.rlyChainSts_overlong : Fld := ⟨Off.rlyChainSts, 14, 1⟩
/-- `RLY_MEMBER` (14). -/
def Off.rlyMember (i : Nat) : Nat := 0x41100 + 4 * i
def Fld.rlyMember_state (i : Nat) : Fld := ⟨Off.rlyMember i, 29, 3⟩
def Fld.rlyMember_mode (i : Nat) : Fld := ⟨Off.rlyMember i, 25, 4⟩
def Fld.rlyMember_x8 (i : Nat) : Fld := ⟨Off.rlyMember i, 24, 1⟩
def Fld.rlyMember_near (i : Nat) : Fld := ⟨Off.rlyMember i, 16, 8⟩
def Fld.rlyMember_blocks (i : Nat) : Fld := ⟨Off.rlyMember i, 0, 16⟩
/-- `MBOX_RESULT_SEQ` (15). -/
def Off.mboxResultSeq (i : Nat) : Nat := 0x380000 + 16384 * i
def Fld.mboxResultSeq_seq (i : Nat) : Fld := ⟨Off.mboxResultSeq i, 0, 32⟩
/-- `MBOX_RESULT_HDR` (15). -/
def Off.mboxResultHdr (i : Nat) : Nat := 0x380004 + 16384 * i
def Fld.mboxResultHdr_rc (i : Nat) : Fld := ⟨Off.mboxResultHdr i, 16, 16⟩
def Fld.mboxResultHdr_opcode (i : Nat) : Fld := ⟨Off.mboxResultHdr i, 0, 16⟩
/-- `MBOX_RESULT_LEN` (15). -/
def Off.mboxResultLen (i : Nat) : Nat := 0x380008 + 16384 * i
def Fld.mboxResultLen_len (i : Nat) : Fld := ⟨Off.mboxResultLen i, 0, 14⟩
/-- `MBOX_CMD_STS` (15). -/
def Off.mboxCmdSts (i : Nat) : Nat := 0x38000C + 16384 * i
def Fld.mboxCmdSts_busy (i : Nat) : Fld := ⟨Off.mboxCmdSts i, 31, 1⟩
def Fld.mboxCmdSts_queued (i : Nat) : Fld := ⟨Off.mboxCmdSts i, 30, 1⟩
def Fld.mboxCmdSts_owner (i : Nat) : Fld := ⟨Off.mboxCmdSts i, 29, 1⟩
def Fld.mboxCmdSts_foreign (i : Nat) : Fld := ⟨Off.mboxCmdSts i, 16, 8⟩
def Fld.mboxCmdSts_opcode (i : Nat) : Fld := ⟨Off.mboxCmdSts i, 0, 16⟩
/-- `MBOX_BREW_STS` (15). -/
def Off.mboxBrewSts : Nat := 0x380010
def Fld.mboxBrewSts_kind : Fld := ⟨Off.mboxBrewSts, 24, 8⟩
def Fld.mboxBrewSts_pct : Fld := ⟨Off.mboxBrewSts, 17, 7⟩
def Fld.mboxBrewSts_internal : Fld := ⟨Off.mboxBrewSts, 0, 16⟩
/-- `MBOX_BARISTA_STS` (15). -/
def Off.mboxBaristaSts : Nat := 0x380014
def Fld.mboxBaristaSts_held : Fld := ⟨Off.mboxBaristaSts, 31, 1⟩
def Fld.mboxBaristaSts_slot : Fld := ⟨Off.mboxBaristaSts, 24, 2⟩
def Fld.mboxBaristaSts_cause : Fld := ⟨Off.mboxBaristaSts, 16, 8⟩
def Fld.mboxBaristaSts_restarts : Fld := ⟨Off.mboxBaristaSts, 0, 16⟩
/-- `CAN_STS` (15). -/
def Off.canSts : Nat := 0x330000
def Fld.canSts_aOk : Fld := ⟨Off.canSts, 31, 1⟩
def Fld.canSts_bOk : Fld := ⟨Off.canSts, 30, 1⟩
def Fld.canSts_bootSlot : Fld := ⟨Off.canSts, 29, 1⟩
def Fld.canSts_store : Fld := ⟨Off.canSts, 28, 1⟩
def Fld.canSts_copy : Fld := ⟨Off.canSts, 16, 4⟩
def Fld.canSts_genLo : Fld := ⟨Off.canSts, 0, 16⟩
/-- `CAN_ERASE` (15). -/
def Off.canErase : Nat := 0x330010
def Fld.canErase_area : Fld := ⟨Off.canErase, 0, 2⟩
/-- `CAN_ERASE_KEY` (15). -/
def Off.canEraseKey : Nat := 0x330014
def Fld.canEraseKey_key : Fld := ⟨Off.canEraseKey, 0, 32⟩
/-- `CAN_LOG_STS` (15). -/
def Off.canLogSts : Nat := 0x330018
def Fld.canLogSts_dropped : Fld := ⟨Off.canLogSts, 16, 16⟩
def Fld.canLogSts_next : Fld := ⟨Off.canLogSts, 0, 13⟩
/-- `GLB_ID` (16). -/
def Off.glbId : Nat := 0x0
def Fld.glbId_part : Fld := ⟨Off.glbId, 16, 16⟩
def Fld.glbId_stepping : Fld := ⟨Off.glbId, 8, 8⟩
def Fld.glbId_layout : Fld := ⟨Off.glbId, 0, 8⟩
/-- `GLB_KEYFAIL` (16). -/
def Off.glbKeyfail : Nat := 0x40
def Fld.glbKeyfail_fail : Fld := ⟨Off.glbKeyfail, 31, 1⟩
def Fld.glbKeyfail_cause : Fld := ⟨Off.glbKeyfail, 29, 2⟩
def Fld.glbKeyfail_offset : Fld := ⟨Off.glbKeyfail, 0, 25⟩
/-- `GLB_ACC_STS` (16). -/
def Off.glbAccSts : Nat := 0x44
def Fld.glbAccSts_reloads : Fld := ⟨Off.glbAccSts, 16, 16⟩
def Fld.glbAccSts_aliasWr : Fld := ⟨Off.glbAccSts, 4, 1⟩
def Fld.glbAccSts_postdrop : Fld := ⟨Off.glbAccSts, 3, 1⟩
def Fld.glbAccSts_locked : Fld := ⟨Off.glbAccSts, 2, 1⟩
def Fld.glbAccSts_size : Fld := ⟨Off.glbAccSts, 1, 1⟩
def Fld.glbAccSts_parity : Fld := ⟨Off.glbAccSts, 0, 1⟩
/-- `IND_ADDR` (16). -/
def Off.indAddr : Nat := 0x80
def Fld.indAddr_auto : Fld := ⟨Off.indAddr, 31, 1⟩
def Fld.indAddr_shadow : Fld := ⟨Off.indAddr, 30, 1⟩
def Fld.indAddr_offset : Fld := ⟨Off.indAddr, 2, 23⟩
/-- `IND_DATA` (16). -/
def Off.indData : Nat := 0x84
def Fld.indData_data : Fld := ⟨Off.indData, 0, 32⟩
/-- `SNAP_CTL` (16). -/
def Off.snapCtl : Nat := 0x90
def Fld.snapCtl_req : Fld := ⟨Off.snapCtl, 31, 1⟩
def Fld.snapCtl_pending : Fld := ⟨Off.snapCtl, 30, 1⟩
def Fld.snapCtl_seq : Fld := ⟨Off.snapCtl, 0, 16⟩
/-- `SNAP_POUR_LO` (16). -/
def Off.snapPourLo : Nat := 0x94
def Fld.snapPourLo_lo : Fld := ⟨Off.snapPourLo, 0, 32⟩
/-- `SNAP_POUR_HI` (16). -/
def Off.snapPourHi : Nat := 0x98
def Fld.snapPourHi_hi : Fld := ⟨Off.snapPourHi, 0, 32⟩
/-- `GLB_SEAL_CTL` (16). -/
def Off.glbSealCtl : Nat := 0xA0
def Fld.glbSealCtl_mode : Fld := ⟨Off.glbSealCtl, 0, 2⟩
/-- `GLB_SEAL_CTL_KEY` (16). -/
def Off.glbSealCtlKey : Nat := 0xA4
def Fld.glbSealCtlKey_key : Fld := ⟨Off.glbSealCtlKey, 0, 32⟩
/-- `SEAL_COMMIT` (16). -/
def Off.sealCommit : Nat := 0xA8
def Fld.sealCommit_commit : Fld := ⟨Off.sealCommit, 0, 1⟩
/-- `GLB_SEAL_STS` (16). -/
def Off.glbSealSts : Nat := 0xAC
def Fld.glbSealSts_sealed : Fld := ⟨Off.glbSealSts, 31, 1⟩
def Fld.glbSealSts_refscan : Fld := ⟨Off.glbSealSts, 30, 1⟩
def Fld.glbSealSts_mismatch : Fld := ⟨Off.glbSealSts, 29, 1⟩
def Fld.glbSealSts_scans : Fld := ⟨Off.glbSealSts, 0, 16⟩
/-- `GLB_SEAL_REF` (16). -/
def Off.glbSealRef : Nat := 0xB0
def Fld.glbSealRef_ref : Fld := ⟨Off.glbSealRef, 0, 32⟩
/-- `GLB_SEAL_LAST` (16). -/
def Off.glbSealLast : Nat := 0xB4
def Fld.glbSealLast_crc : Fld := ⟨Off.glbSealLast, 0, 32⟩
/-- `STG_STS` (16). -/
def Off.stgSts : Nat := 0x10000
def Fld.stgSts_dirty : Fld := ⟨Off.stgSts, 31, 1⟩
def Fld.stgSts_checked : Fld := ⟨Off.stgSts, 30, 1⟩
def Fld.stgSts_checking : Fld := ⟨Off.stgSts, 29, 1⟩
def Fld.stgSts_commitPend : Fld := ⟨Off.stgSts, 28, 1⟩
def Fld.stgSts_owner : Fld := ⟨Off.stgSts, 26, 2⟩
def Fld.stgSts_writes : Fld := ⟨Off.stgSts, 0, 16⟩
/-- `STG_RESULT` (16). -/
def Off.stgResult : Nat := 0x10004
def Fld.stgResult_pass : Fld := ⟨Off.stgResult, 31, 1⟩
def Fld.stgResult_valid : Fld := ⟨Off.stgResult, 30, 1⟩
def Fld.stgResult_resource : Fld := ⟨Off.stgResult, 27, 3⟩
def Fld.stgResult_code : Fld := ⟨Off.stgResult, 0, 16⟩
/-- `STG_FAIL_OFF` (16). -/
def Off.stgFailOff : Nat := 0x10008
def Fld.stgFailOff_offset : Fld := ⟨Off.stgFailOff, 0, 32⟩
/-- `STG_COMMIT_POUR_LO` (16). -/
def Off.stgCommitPourLo : Nat := 0x1000C
def Fld.stgCommitPourLo_lo : Fld := ⟨Off.stgCommitPourLo, 0, 32⟩
/-- `STG_COMMIT_POUR_HI` (16). -/
def Off.stgCommitPourHi : Nat := 0x10010
def Fld.stgCommitPourHi_hi : Fld := ⟨Off.stgCommitPourHi, 0, 32⟩
/-- `PMU_CTL` (17). -/
def Off.pmuCtl : Nat := 0x280000
def Fld.pmuCtl_freeze : Fld := ⟨Off.pmuCtl, 31, 1⟩
def Fld.pmuCtl_clrGen : Fld := ⟨Off.pmuCtl, 30, 1⟩
def Fld.pmuCtl_clrOvf : Fld := ⟨Off.pmuCtl, 29, 1⟩
/-- `PMU_USER_EN` (17). -/
def Off.pmuUserEn : Nat := 0x280004
def Fld.pmuUserEn_en : Fld := ⟨Off.pmuUserEn, 0, 7⟩
/-- `PMU_OVF_LO` (17). -/
def Off.pmuOvfLo : Nat := 0x280008
def Fld.pmuOvfLo_ovf : Fld := ⟨Off.pmuOvfLo, 0, 32⟩
/-- `PMU_OVF_HI` (17). -/
def Off.pmuOvfHi : Nat := 0x28000C
def Fld.pmuOvfHi_ovf : Fld := ⟨Off.pmuOvfHi, 0, 32⟩
/-- `PMU_HIST_CLR` (17). -/
def Off.pmuHistClr : Nat := 0x280010
def Fld.pmuHistClr_clr : Fld := ⟨Off.pmuHistClr, 0, 4⟩
/-- `PMU_EVSEL` (17). -/
def Off.pmuEvsel (i : Nat) : Nat := 0x280100 + 4 * i
def Fld.pmuEvsel_en (i : Nat) : Fld := ⟨Off.pmuEvsel i, 31, 1⟩
def Fld.pmuEvsel_tfilt (i : Nat) : Fld := ⟨Off.pmuEvsel i, 30, 1⟩
def Fld.pmuEvsel_cfilt (i : Nat) : Fld := ⟨Off.pmuEvsel i, 29, 1⟩
def Fld.pmuEvsel_class (i : Nat) : Fld := ⟨Off.pmuEvsel i, 27, 2⟩
def Fld.pmuEvsel_tenant (i : Nat) : Fld := ⟨Off.pmuEvsel i, 22, 5⟩
def Fld.pmuEvsel_sfilt (i : Nat) : Fld := ⟨Off.pmuEvsel i, 21, 1⟩
def Fld.pmuEvsel_event (i : Nat) : Fld := ⟨Off.pmuEvsel i, 0, 12⟩
/-- `PMU_SCOPE` (17). -/
def Off.pmuScope (i : Nat) : Nat := 0x280200 + 4 * i
def Fld.pmuScope_chid (i : Nat) : Fld := ⟨Off.pmuScope i, 0, 16⟩
/-- `PMU_HIST_CTL` (17). -/
def Off.pmuHistCtl (i : Nat) : Nat := 0x280400 + 4 * i
def Fld.pmuHistCtl_en (i : Nat) : Fld := ⟨Off.pmuHistCtl i, 31, 1⟩
def Fld.pmuHistCtl_start (i : Nat) : Fld := ⟨Off.pmuHistCtl i, 30, 1⟩
def Fld.pmuHistCtl_kind (i : Nat) : Fld := ⟨Off.pmuHistCtl i, 28, 2⟩
def Fld.pmuHistCtl_tier (i : Nat) : Fld := ⟨Off.pmuHistCtl i, 26, 2⟩
def Fld.pmuHistCtl_tfilt (i : Nat) : Fld := ⟨Off.pmuHistCtl i, 25, 1⟩
def Fld.pmuHistCtl_tenant (i : Nat) : Fld := ⟨Off.pmuHistCtl i, 20, 5⟩
def Fld.pmuHistCtl_cfilt (i : Nat) : Fld := ⟨Off.pmuHistCtl i, 19, 1⟩
def Fld.pmuHistCtl_class (i : Nat) : Fld := ⟨Off.pmuHistCtl i, 17, 2⟩
def Fld.pmuHistCtl_port (i : Nat) : Fld := ⟨Off.pmuHistCtl i, 15, 2⟩
def Fld.pmuHistCtl_base (i : Nat) : Fld := ⟨Off.pmuHistCtl i, 0, 12⟩
/-- `GLB_LC_ADV` (18). -/
def Off.glbLcAdv : Nat := 0xC0
def Fld.glbLcAdv_target : Fld := ⟨Off.glbLcAdv, 0, 3⟩
/-- `GLB_LC_ADV_KEY` (18). -/
def Off.glbLcAdvKey : Nat := 0xC4
def Fld.glbLcAdvKey_key : Fld := ⟨Off.glbLcAdvKey, 0, 32⟩
/-- `GLB_LC_STS` (18). -/
def Off.glbLcSts : Nat := 0xC8
def Fld.glbLcSts_keygen : Fld := ⟨Off.glbLcSts, 31, 1⟩
def Fld.glbLcSts_idOk : Fld := ⟨Off.glbLcSts, 30, 1⟩
def Fld.glbLcSts_certOk : Fld := ⟨Off.glbLcSts, 29, 1⟩
def Fld.glbLcSts_jtagOpen : Fld := ⟨Off.glbLcSts, 28, 1⟩
def Fld.glbLcSts_burn : Fld := ⟨Off.glbLcSts, 27, 1⟩
def Fld.glbLcSts_glitch : Fld := ⟨Off.glbLcSts, 16, 8⟩
def Fld.glbLcSts_svn : Fld := ⟨Off.glbLcSts, 8, 7⟩
def Fld.glbLcSts_state : Fld := ⟨Off.glbLcSts, 0, 3⟩
/-- `GLB_SEC_CTL` (18). -/
def Off.glbSecCtl : Nat := 0xCC
def Fld.glbSecCtl_mctpRo : Fld := ⟨Off.glbSecCtl, 31, 1⟩
/-- `RAS_RING_PTR` (19). -/
def Off.rasRingPtr : Nat := 0x300000
def Fld.rasRingPtr_head : Fld := ⟨Off.rasRingPtr, 16, 9⟩
def Fld.rasRingPtr_tail : Fld := ⟨Off.rasRingPtr, 0, 9⟩
/-- `RAS_RING_STS` (19). -/
def Off.rasRingSts : Nat := 0x300004
def Fld.rasRingSts_dropped : Fld := ⟨Off.rasRingSts, 16, 16⟩
def Fld.rasRingSts_free : Fld := ⟨Off.rasRingSts, 0, 10⟩
/-- `RAS_RING_SEQ` (19). -/
def Off.rasRingSeq : Nat := 0x300008
def Fld.rasRingSeq_rseq : Fld := ⟨Off.rasRingSeq, 0, 32⟩
/-- `RAS_ALERT_EN` (19). -/
def Off.rasAlertEn : Nat := 0x300010
def Fld.rasAlertEn_minSev : Fld := ⟨Off.rasAlertEn, 16, 2⟩
def Fld.rasAlertEn_en : Fld := ⟨Off.rasAlertEn, 0, 8⟩
/-- `RAS_ALERT_STS` (19). -/
def Off.rasAlertSts : Nat := 0x300014
def Fld.rasAlertSts_breach : Fld := ⟨Off.rasAlertSts, 7, 1⟩
def Fld.rasAlertSts_thermal : Fld := ⟨Off.rasAlertSts, 6, 1⟩
def Fld.rasAlertSts_inlet : Fld := ⟨Off.rasAlertSts, 5, 1⟩
def Fld.rasAlertSts_ringloss : Fld := ⟨Off.rasAlertSts, 4, 1⟩
def Fld.rasAlertSts_held : Fld := ⟨Off.rasAlertSts, 3, 1⟩
def Fld.rasAlertSts_halt : Fld := ⟨Off.rasAlertSts, 2, 1⟩
def Fld.rasAlertSts_degraded : Fld := ⟨Off.rasAlertSts, 1, 1⟩
def Fld.rasAlertSts_record : Fld := ⟨Off.rasAlertSts, 0, 1⟩
/-- `RAS_LOSS_CTL` (19). -/
def Off.rasLossCtl : Nat := 0x300020
def Fld.rasLossCtl_caLimit : Fld := ⟨Off.rasLossCtl, 24, 4⟩
def Fld.rasLossCtl_win : Fld := ⟨Off.rasLossCtl, 20, 4⟩
def Fld.rasLossCtl_ueLimit : Fld := ⟨Off.rasLossCtl, 0, 16⟩
/-- `RAS_HALT_CAUSE` (19). -/
def Off.rasHaltCause : Nat := 0x300100
def Fld.rasHaltCause_valid : Fld := ⟨Off.rasHaltCause, 31, 1⟩
def Fld.rasHaltCause_prev : Fld := ⟨Off.rasHaltCause, 30, 1⟩
def Fld.rasHaltCause_later : Fld := ⟨Off.rasHaltCause, 24, 6⟩
def Fld.rasHaltCause_origin : Fld := ⟨Off.rasHaltCause, 16, 8⟩
def Fld.rasHaltCause_mode : Fld := ⟨Off.rasHaltCause, 8, 8⟩
def Fld.rasHaltCause_cause : Fld := ⟨Off.rasHaltCause, 0, 8⟩
/-- `RAS_HALT_POUR_LO` (19). -/
def Off.rasHaltPourLo : Nat := 0x300104
def Fld.rasHaltPourLo_pour : Fld := ⟨Off.rasHaltPourLo, 0, 32⟩
/-- `RAS_HALT_POUR_HI` (19). -/
def Off.rasHaltPourHi : Nat := 0x300108
def Fld.rasHaltPourHi_pour : Fld := ⟨Off.rasHaltPourHi, 0, 32⟩
/-- `RAS_HALT_DETAIL` (19). -/
def Off.rasHaltDetail : Nat := 0x30010C
def Fld.rasHaltDetail_chid : Fld := ⟨Off.rasHaltDetail, 16, 16⟩
def Fld.rasHaltDetail_cyc : Fld := ⟨Off.rasHaltDetail, 0, 9⟩
/-- `RAS_HALT_LOC_LO` (19). -/
def Off.rasHaltLocLo : Nat := 0x300110
def Fld.rasHaltLocLo_loc : Fld := ⟨Off.rasHaltLocLo, 0, 32⟩
/-- `RAS_HALT_LOC_HI` (19). -/
def Off.rasHaltLocHi : Nat := 0x300114
def Fld.rasHaltLocHi_loc : Fld := ⟨Off.rasHaltLocHi, 0, 32⟩
/-- `RAS_FUSE_HI` (20). -/
def Off.rasFuseHi : Nat := 0x300800
def Fld.rasFuseHi_locHi : Fld := ⟨Off.rasFuseHi, 0, 32⟩
/-- `RAS_FUSE_LO` (20). -/
def Off.rasFuseLo : Nat := 0x300808
def Fld.rasFuseLo_locLo : Fld := ⟨Off.rasFuseLo, 0, 32⟩
/-- `RAS_FUSE_LO_KEY` (20). -/
def Off.rasFuseLoKey : Nat := 0x30080C
def Fld.rasFuseLoKey_key : Fld := ⟨Off.rasFuseLoKey, 0, 32⟩
/-- `RAS_FUSE_STS` (20). -/
def Off.rasFuseSts : Nat := 0x300810
def Fld.rasFuseSts_burn : Fld := ⟨Off.rasFuseSts, 31, 1⟩
def Fld.rasFuseSts_hpprQ : Fld := ⟨Off.rasFuseSts, 16, 5⟩
def Fld.rasFuseSts_free : Fld := ⟨Off.rasFuseSts, 0, 10⟩
/-- `RAS_BIST_STS` (20). -/
def Off.rasBistSts : Nat := 0x300820
def Fld.rasBistSts_run : Fld := ⟨Off.rasBistSts, 31, 1⟩
def Fld.rasBistSts_coldReq : Fld := ⟨Off.rasBistSts, 30, 1⟩
def Fld.rasBistSts_kind : Fld := ⟨Off.rasBistSts, 20, 4⟩
def Fld.rasBistSts_index : Fld := ⟨Off.rasBistSts, 15, 5⟩
def Fld.rasBistSts_result : Fld := ⟨Off.rasBistSts, 12, 3⟩
def Fld.rasBistSts_pending : Fld := ⟨Off.rasBistSts, 0, 12⟩
/-- `INL_CFG` (21). -/
def Off.inlCfg : Nat := 0x320000
def Fld.inlCfg_pend : Fld := ⟨Off.inlCfg, 31, 1⟩
def Fld.inlCfg_preT : Fld := ⟨Off.inlCfg, 24, 7⟩
def Fld.inlCfg_ilim : Fld := ⟨Off.inlCfg, 16, 8⟩
def Fld.inlCfg_dvdt : Fld := ⟨Off.inlCfg, 8, 8⟩
/-- `INL_FET` (21). -/
def Off.inlFet : Nat := 0x320004
def Fld.inlFet_pend : Fld := ⟨Off.inlFet, 31, 1⟩
def Fld.inlFet_tamb : Fld := ⟨Off.inlFet, 24, 7⟩
def Fld.inlFet_tmax : Fld := ⟨Off.inlFet, 16, 8⟩
def Fld.inlFet_rth : Fld := ⟨Off.inlFet, 8, 8⟩
def Fld.inlFet_tau : Fld := ⟨Off.inlFet, 0, 8⟩
/-- `INL_STS` (21). -/
def Off.inlSts : Nat := 0x320008
def Fld.inlSts_state : Fld := ⟨Off.inlSts, 28, 4⟩
def Fld.inlSts_fails : Fld := ⟨Off.inlSts, 26, 2⟩
def Fld.inlSts_diode : Fld := ⟨Off.inlSts, 25, 1⟩
def Fld.inlSts_cfgerr : Fld := ⟨Off.inlSts, 24, 1⟩
def Fld.inlSts_removal : Fld := ⟨Off.inlSts, 23, 1⟩
def Fld.inlSts_cause : Fld := ⟨Off.inlSts, 0, 8⟩
/-- `INL_MEAS` (21). -/
def Off.inlMeas : Nat := 0x32000C
def Fld.inlMeas_vout : Fld := ⟨Off.inlMeas, 16, 16⟩
def Fld.inlMeas_iout : Fld := ⟨Off.inlMeas, 0, 16⟩
/-- `INL_OVERRIDE` (21). -/
def Off.inlOverride : Nat := 0x320010
def Fld.inlOverride_model : Fld := ⟨Off.inlOverride, 1, 1⟩
def Fld.inlOverride_off : Fld := ⟨Off.inlOverride, 0, 1⟩
/-- `INL_OVERRIDE_KEY` (21). -/
def Off.inlOverrideKey : Nat := 0x320014
def Fld.inlOverrideKey_key : Fld := ⟨Off.inlOverrideKey, 0, 32⟩
/-- `INL_CLEAR` (21). -/
def Off.inlClear : Nat := 0x320018
def Fld.inlClear_clear : Fld := ⟨Off.inlClear, 0, 32⟩
/-- `INL_CLEAR_KEY` (21). -/
def Off.inlClearKey : Nat := 0x32001C
def Fld.inlClearKey_key : Fld := ⟨Off.inlClearKey, 0, 32⟩
/-- `INL_MEAS2` (21). -/
def Off.inlMeas2 : Nat := 0x320020
def Fld.inlMeas2_vin : Fld := ⟨Off.inlMeas2, 16, 16⟩
def Fld.inlMeas2_tfet : Fld := ⟨Off.inlMeas2, 0, 8⟩
/-- `INL_WAIT` (21). -/
def Off.inlWait : Nat := 0x320024
def Fld.inlWait_ms : Fld := ⟨Off.inlWait, 0, 12⟩
/-- `PWR_CAP` (21). -/
def Off.pwrCap : Nat := 0x310000
def Fld.pwrCap_pend : Fld := ⟨Off.pwrCap, 31, 1⟩
def Fld.pwrCap_en : Fld := ⟨Off.pwrCap, 30, 1⟩
def Fld.pwrCap_cap : Fld := ⟨Off.pwrCap, 0, 12⟩
/-- `PWR_STS` (21). -/
def Off.pwrSts : Nat := 0x310004
def Fld.pwrSts_capped : Fld := ⟨Off.pwrSts, 31, 1⟩
def Fld.pwrSts_cfgerr : Fld := ⟨Off.pwrSts, 30, 1⟩
def Fld.pwrSts_power : Fld := ⟨Off.pwrSts, 0, 16⟩
/-- `PWR_RAIL_STS` (21). -/
def Off.pwrRailSts : Nat := 0x310008
def Fld.pwrRailSts_first : Fld := ⟨Off.pwrRailSts, 8, 3⟩
def Fld.pwrRailSts_ok : Fld := ⟨Off.pwrRailSts, 0, 7⟩
/-- `THM_STS` (21). -/
def Off.thmSts : Nat := 0x310010
def Fld.thmSts_trip : Fld := ⟨Off.thmSts, 31, 1⟩
def Fld.thmSts_island : Fld := ⟨Off.thmSts, 16, 10⟩
def Fld.thmSts_hot : Fld := ⟨Off.thmSts, 0, 10⟩
/-- `THM_ALERT` (21). -/
def Off.thmAlert : Nat := 0x310014
def Fld.thmAlert_thermal : Fld := ⟨Off.thmAlert, 6, 1⟩
def Fld.thmAlert_inlet : Fld := ⟨Off.thmAlert, 5, 1⟩

/-- The registers of the Global page. -/
def regDefsGlobal : List RegDef := [
  -- GLB_MODE_STS
  ⟨0x20, 0, 1, 1, 0, 0, 0, 0, 0, 0⟩,
  -- GLB_MODE_REQ
  ⟨0x24, 0, 1, 0, 0, 0x10F, 0, 0, 0, 0⟩,
  -- GLB_DROWSE_CTL
  ⟨0x28, 0, 1, 0x10000, 0, 0x80FFFFFF, 0, 0, 0, 0⟩,
  -- GLB_ID
  ⟨0, 0, 1, 0x1, 0, 0, 0, 0, 0, 0⟩,
  -- GLB_PORT_MODE
  ⟨0x2C, 0, 1, 0, 0, 0x7, 0, 0, 0, 0⟩,
  -- GLB_KEYFAIL
  ⟨0x40, 0, 1, 0, 0, 0, 0, 0, 0x80000000, 0⟩,
  -- GLB_ACC_STS
  ⟨0x44, 0, 1, 0, 0, 0, 0, 0, 0x1F, 0⟩,
  -- IND_ADDR
  ⟨0x80, 0, 1, 0, 0xC1FFFFFC, 0, 0, 0, 0, 0⟩,
  -- IND_DATA
  ⟨0x84, 0, 1, 0, 0, 0, 0, 0, 0, 0⟩,
  -- SNAP_CTL
  ⟨0x90, 0, 1, 0, 0, 0, 0, 0, 0, 0x80000000⟩,
  -- SNAP_POUR_LO
  ⟨0x94, 0, 1, 0, 0, 0, 0, 0, 0, 0⟩,
  -- SNAP_POUR_HI
  ⟨0x98, 0, 1, 0, 0, 0, 0, 0, 0, 0⟩,
  -- GLB_SEAL_CTL
  ⟨0xA0, 0, 1, 0, 0, 0, 0x3, 0, 0, 0⟩,
  -- GLB_SEAL_CTL_KEY
  ⟨0xA4, 0, 1, 0, 0, 0, 0, 0, 0, 0xFFFFFFFF⟩,
  -- SEAL_COMMIT
  ⟨0xA8, 0, 1, 0, 0, 0, 0, 0, 0, 0x1⟩,
  -- GLB_SEAL_STS
  ⟨0xAC, 0, 1, 0, 0, 0, 0, 0, 0x20000000, 0⟩,
  -- GLB_SEAL_REF
  ⟨0xB0, 0, 1, 0, 0, 0, 0, 0, 0, 0⟩,
  -- GLB_SEAL_LAST
  ⟨0xB4, 0, 1, 0, 0, 0, 0, 0, 0, 0⟩,
  -- GLB_LC_ADV
  ⟨0xC0, 0, 1, 0, 0, 0, 0x7, 0, 0, 0⟩,
  -- GLB_LC_ADV_KEY
  ⟨0xC4, 0, 1, 0, 0, 0, 0, 0, 0, 0xFFFFFFFF⟩,
  -- GLB_LC_STS
  ⟨0xC8, 0, 1, 0, 0, 0, 0, 0, 0, 0⟩,
  -- GLB_SEC_CTL
  ⟨0xCC, 0, 1, 0, 0, 0x80000000, 0, 0, 0, 0⟩,
  -- GLB_POUR_LO
  ⟨0x100, 0, 1, 0, 0, 0, 0, 0, 0, 0⟩,
  -- GLB_POUR_HI
  ⟨0x104, 0, 1, 0, 0, 0, 0, 0, 0, 0⟩,
  -- GLB_POUR_CYC
  ⟨0x108, 0, 1, 0, 0, 0, 0, 0, 0, 0⟩,
  -- GLB_OVR_STS
  ⟨0x10C, 0, 1, 0, 0, 0, 0, 0, 0x7F, 0⟩
]

/-- The registers of the Far page. -/
def regDefsFar : List RegDef := [
  -- FAR_CH_STS
  ⟨0x180000, 16384, 8, 0, 0, 0, 0, 0, 0, 0⟩,
  -- FAR_CH_CFG
  ⟨0x180004, 16384, 8, 0x2A000000, 0, 0xFF000000, 0, 0, 0, 0⟩,
  -- FAR_DIST_CTL
  ⟨0x180008, 16384, 8, 0x400000C, 0, 0xFFFF000F, 0, 0, 0, 0⟩,
  -- FAR_TRACK_STS
  ⟨0x18000C, 16384, 8, 0, 0, 0, 0, 0, 0, 0⟩,
  -- FAR_CH_DERATE
  ⟨0x180010, 16384, 8, 0, 0, 0, 0, 0, 0, 0⟩,
  -- FAR_PPR_STS
  ⟨0x180014, 16384, 8, 0, 0, 0, 0, 0, 0, 0⟩,
  -- FAR_MAP_CTL
  ⟨0x1A0000, 0, 1, 0, 0, 0x3, 0, 0, 0, 0⟩,
  -- FAR_SCHED_CTL
  ⟨0x1A0004, 0, 1, 0xC1000FA, 0, 0xFFF03FF, 0, 0, 0, 0⟩,
  -- FAR_TRACK_CTL
  ⟨0x1A0008, 0, 1, 0x1010, 0, 0x1F7F, 0, 0, 0, 0⟩
]

/-- The registers of the Tenant page. -/
def regDefsTenant : List RegDef := [
  -- TNT_CTL
  ⟨0x240000, 32, 32, 0, 0, 0, 0, 0, 0, 0⟩,
  -- TNT_EXT_BASE
  ⟨0x240004, 32, 32, 0, 0, 0, 0, 0, 0, 0⟩,
  -- TNT_EXT_LEN
  ⟨0x240008, 32, 32, 0, 0, 0, 0, 0, 0, 0⟩,
  -- TNT_PART
  ⟨0x24000C, 32, 32, 0, 0, 0, 0, 0, 0, 0⟩,
  -- TNT_STS
  ⟨0x240010, 32, 32, 0, 0, 0, 0, 0, 0, 0⟩
]

/-- The registers of the Crema page. -/
def regDefsCrema : List RegDef := [
  -- CRM_CH_STS
  ⟨0x100000, 8192, 32, 0, 0, 0, 0, 0, 0, 0⟩,
  -- CRM_CFG
  ⟨0x140000, 0, 1, 0, 0, 0, 0, 0, 0, 0⟩,
  -- CRM_STS
  ⟨0x140004, 0, 1, 0x1F0000, 0, 0, 0, 0, 0, 0⟩,
  -- CRM_SPEC_CTL
  ⟨0x140008, 0, 1, 0x80000140, 0, 0x800001FF, 0, 0, 0, 0⟩,
  -- CRM_PIN_STS
  ⟨0x14000C, 0, 1, 0, 0, 0, 0, 0, 0, 0⟩,
  -- CRM_REF_CTL
  ⟨0x140010, 0, 1, 0x400, 0, 0x1FFF, 0, 0, 0, 0⟩,
  -- CRM_THERM_CTL
  ⟨0x140014, 0, 1, 0x4, 0, 0x7, 0, 0, 0, 0⟩,
  -- CRM_THERM_STS
  ⟨0x140018, 0, 1, 0, 0, 0, 0, 0, 0, 0⟩,
  -- CRM_REPAIR_STS
  ⟨0x14001C, 0, 1, 0, 0, 0, 0, 0, 0, 0⟩,
  -- CRM_ROT_STS
  ⟨0x140020, 0, 1, 0, 0, 0, 0, 0, 0, 0⟩,
  -- CRM_LMAP
  ⟨0x140100, 4, 31, 0x80000000, 0, 0, 0, 0, 0, 0⟩
]

/-- The registers of the Ras page. -/
def regDefsRas : List RegDef := [
  -- RAS_RING_PTR
  ⟨0x300000, 0, 1, 0, 0, 0, 0, 0, 0, 0⟩,
  -- RAS_RING_STS
  ⟨0x300004, 0, 1, 0x200, 0, 0, 0, 0, 0xFFFF0000, 0⟩,
  -- RAS_RING_SEQ
  ⟨0x300008, 0, 1, 0, 0, 0, 0, 0, 0, 0⟩,
  -- RAS_ALERT_EN
  ⟨0x300010, 0, 1, 0x200FF, 0x300FF, 0, 0, 0, 0, 0⟩,
  -- RAS_ALERT_STS
  ⟨0x300014, 0, 1, 0, 0, 0, 0, 0, 0xF3, 0⟩,
  -- RAS_LOSS_CTL
  ⟨0x300020, 0, 1, 0x8400040, 0, 0xFF0FFFF, 0, 0, 0, 0⟩,
  -- RAS_HALT_CAUSE
  ⟨0x300100, 0, 1, 0, 0, 0, 0, 0, 0, 0⟩,
  -- RAS_HALT_POUR_LO
  ⟨0x300104, 0, 1, 0, 0, 0, 0, 0, 0, 0⟩,
  -- RAS_HALT_POUR_HI
  ⟨0x300108, 0, 1, 0, 0, 0, 0, 0, 0, 0⟩,
  -- RAS_HALT_DETAIL
  ⟨0x30010C, 0, 1, 0, 0, 0, 0, 0, 0, 0⟩,
  -- RAS_HALT_LOC_LO
  ⟨0x300110, 0, 1, 0, 0, 0, 0, 0, 0, 0⟩,
  -- RAS_HALT_LOC_HI
  ⟨0x300114, 0, 1, 0, 0, 0, 0, 0, 0, 0⟩,
  -- RAS_SCRUB_CTL
  ⟨0x300400, 0, 1, 0xC0000D10, 0, 0xC000FFFF, 0, 0, 0, 0⟩,
  -- RAS_SCRUB_STS
  ⟨0x300404, 0, 1, 0, 0, 0, 0, 0, 0, 0⟩,
  -- RAS_ECC_CNT
  ⟨0x300408, 0, 1, 0, 0, 0, 0, 0, 0, 0⟩,
  -- RAS_CE_CTL
  ⟨0x30040C, 0, 1, 0x40010, 0, 0xFFFFF, 0, 0, 0, 0⟩,
  -- RAS_FUSE_HI
  ⟨0x300800, 0, 1, 0, 0xFFFFFFFF, 0, 0, 0, 0, 0⟩,
  -- RAS_FUSE_LO
  ⟨0x300808, 0, 1, 0, 0, 0, 0xFFFFFFFF, 0, 0, 0⟩,
  -- RAS_FUSE_LO_KEY
  ⟨0x30080C, 0, 1, 0, 0, 0, 0, 0, 0, 0xFFFFFFFF⟩,
  -- RAS_FUSE_STS
  ⟨0x300810, 0, 1, 0x200, 0, 0, 0, 0, 0, 0⟩,
  -- RAS_BIST_STS
  ⟨0x300820, 0, 1, 0, 0, 0, 0, 0, 0, 0⟩
]

/-- The registers of the Crypto page. -/
def regDefsCrypto : List RegDef := [
  -- CRY_STS
  ⟨0x200000, 0, 1, 0, 0, 0, 0, 0, 0, 0⟩,
  -- CRY_REKEY_CTL
  ⟨0x200010, 0, 1, 0x8, 0, 0, 0x8000007F, 0, 0, 0⟩,
  -- CRY_REKEY_CTL_KEY
  ⟨0x200014, 0, 1, 0, 0, 0, 0, 0, 0, 0xFFFFFFFF⟩,
  -- CRY_REKEY_STS
  ⟨0x200018, 0, 1, 0, 0, 0, 0, 0, 0xC0000000, 0⟩,
  -- CRY_MAJOR_NEXT_LO
  ⟨0x200020, 0, 1, 0, 0, 0, 0, 0, 0, 0⟩,
  -- CRY_MAJOR_NEXT_HI
  ⟨0x200024, 0, 1, 0, 0, 0, 0, 0, 0, 0⟩,
  -- CRY_CRM_BOUND
  ⟨0x200030, 0, 1, 0, 0, 0, 0, 0, 0, 0⟩,
  -- CRY_FAR_BOUND
  ⟨0x200040, 4, 8, 0, 0, 0, 0, 0, 0, 0⟩,
  -- CRY_PIPE_STS
  ⟨0x200060, 0, 1, 0x90000000, 0, 0, 0, 0, 0, 0⟩,
  -- CRY_META_STS
  ⟨0x200064, 0, 1, 0, 0, 0, 0, 0, 0, 0⟩
]

/-- The registers of the Press page. -/
def regDefsPress : List RegDef := [
  -- PRS_STS
  ⟨0x210000, 0, 1, 0xF0000, 0, 0, 0, 0, 0, 0⟩,
  -- PRS_POOL_CFG
  ⟨0x210100, 32, 8, 0, 0, 0, 0, 0, 0, 0⟩,
  -- PRS_POOL_EXP
  ⟨0x210104, 32, 8, 0, 0, 0, 0, 0, 0, 0⟩,
  -- PRS_POOL_FREE
  ⟨0x210108, 32, 8, 0, 0, 0, 0, 0, 0, 0⟩,
  -- PRS_POOL_CHAIN
  ⟨0x21010C, 32, 8, 0, 0, 0, 0, 0, 0, 0⟩,
  -- PRS_POOL_LOSS
  ⟨0x210110, 32, 8, 0, 0, 0, 0, 0, 0, 0⟩,
  -- PRS_SPARE_STS
  ⟨0x210200, 4, 8, 0, 0, 0, 0, 0, 0, 0⟩
]

/-- The registers of the Coh page. -/
def regDefsCoh : List RegDef := [
  -- COH_CTL
  ⟨0x220000, 0, 1, 0x1E85, 0, 0x1FFFF, 0, 0, 0, 0⟩,
  -- COH_ATOM_CTL
  ⟨0x220004, 0, 1, 0x80038020, 0, 0x8007F0FF, 0, 0, 0, 0⟩,
  -- COH_STS
  ⟨0x220008, 0, 1, 0, 0, 0, 0, 0, 0, 0⟩,
  -- COH_SUSPECT
  ⟨0x22000C, 0, 1, 0, 0, 0, 0, 0, 0xFFFF, 0⟩,
  -- COH_RETRY_STS
  ⟨0x220010, 0, 1, 0, 0, 0, 0, 0, 0, 0⟩,
  -- COH_SHARER_MAP
  ⟨0x220100, 4, 16, 0, 0, 0, 0, 0, 0, 0⟩
]

/-- The registers of the Svc page. -/
def regDefsSvc : List RegDef := [
  -- SVC_FLOOR_CTL
  ⟨0x230000, 0, 1, 0x4, 0, 0xF, 0, 0, 0, 0⟩,
  -- SVC_LBP_CTL
  ⟨0x230004, 0, 1, 0x8000400, 0, 0xFFFFFFFF, 0, 0, 0, 0⟩,
  -- SVC_SCALE_STS
  ⟨0x230008, 0, 1, 0x10000, 0, 0, 0, 0, 0xC0000000, 0⟩,
  -- SVC_FLOOR_CRM
  ⟨0x230010, 0, 1, 0, 0, 0, 0, 0, 0, 0⟩,
  -- SVC_FLOOR_FAR
  ⟨0x230014, 0, 1, 0, 0, 0, 0, 0, 0, 0⟩,
  -- SVC_FLOOR_PA
  ⟨0x230018, 0, 1, 0, 0, 0, 0, 0, 0, 0⟩,
  -- SVC_FLOOR_PB
  ⟨0x23001C, 0, 1, 0, 0, 0, 0, 0, 0, 0⟩,
  -- SVC_FLOOR_PRS
  ⟨0x230020, 0, 1, 0, 0, 0, 0, 0, 0, 0⟩,
  -- SVC_FLOOR_RLY
  ⟨0x230024, 0, 1, 0, 0, 0, 0, 0, 0, 0⟩,
  -- SVC_TNT_CLASS
  ⟨0x231000, 64, 32, 0xAAAAA, 0, 0xFFFFF, 0, 0, 0, 0⟩,
  -- SVC_TNT_OTL_GL
  ⟨0x231004, 64, 32, 0x400000, 0, 0x3FF03FF, 0, 0, 0, 0⟩,
  -- SVC_TNT_OTL_BS
  ⟨0x231008, 64, 32, 0x400100, 0, 0x3FF03FF, 0, 0, 0, 0⟩,
  -- SVC_TNT_GUAR
  ⟨0x23100C, 64, 32, 0, 0, 0x800007FF, 0, 0, 0, 0⟩,
  -- SVC_TNT_BW_G
  ⟨0x231010, 64, 32, 0, 0, 0, 0, 0, 0, 0⟩,
  -- SVC_TNT_BW_L
  ⟨0x231014, 64, 32, 0, 0, 0, 0, 0, 0, 0⟩,
  -- SVC_TNT_BW_B
  ⟨0x231018, 64, 32, 0, 0, 0, 0, 0, 0, 0⟩,
  -- SVC_TNT_BW_S
  ⟨0x23101C, 64, 32, 0, 0, 0, 0, 0, 0, 0⟩,
  -- SVC_TNT_STS
  ⟨0x231020, 64, 32, 0, 0, 0, 0, 0, 0, 0⟩
]

/-- The registers of the Noc page. -/
def regDefsNoc : List RegDef := [
  -- NOC_STS
  ⟨0x80000, 0, 1, 0, 0, 0, 0, 0, 0, 0⟩,
  -- NOC_FENCE_STS
  ⟨0x80004, 0, 1, 0, 0, 0, 0, 0, 0xFFF0FFF, 0⟩,
  -- NOC_RT_SEL
  ⟨0x80010, 0, 1, 0, 0xB03F003F, 0, 0, 0, 0, 0⟩,
  -- NOC_RT_DATA
  ⟨0x80014, 0, 1, 0, 0, 0, 0, 0, 0, 0⟩,
  -- NOC_SLOT_SEL
  ⟨0x80018, 0, 1, 0, 0xB03F71FF, 0, 0, 0, 0, 0⟩,
  -- NOC_SLOT_DATA
  ⟨0x8001C, 0, 1, 0, 0, 0, 0, 0, 0, 0⟩
]

/-- The registers of the Port page. -/
def regDefsPort : List RegDef := [
  -- PRT_LINK_STS
  ⟨0x20000, 65536, 2, 0, 0, 0, 0, 0, 0, 0⟩,
  -- PRT_DOWN_STS
  ⟨0x20004, 65536, 2, 0, 0, 0, 0, 0, 0, 0⟩,
  -- PRT_DOWN_CNT
  ⟨0x20008, 65536, 2, 0, 0, 0, 0, 0, 0, 0⟩,
  -- PRT_RETRY_CNT
  ⟨0x2000C, 65536, 2, 0, 0, 0, 0, 0, 0, 0⟩,
  -- PRT_VIRAL_STS
  ⟨0x20010, 65536, 2, 0, 0, 0, 0, 0, 0, 0⟩,
  -- PRT_IDE_STS
  ⟨0x20014, 65536, 2, 0, 0, 0, 0, 0, 0, 0⟩,
  -- PRT_POISON_OVF
  ⟨0x20018, 65536, 2, 0, 0, 0, 0, 0, 0, 0⟩
]

/-- The registers of the Relay page. -/
def regDefsRelay : List RegDef := [
  -- RLY_LINK_STS
  ⟨0x40000, 256, 2, 0, 0, 0, 0, 0, 0, 0⟩,
  -- RLY_VC_CFG
  ⟨0x40004, 256, 2, 0, 0, 0x3, 0, 0, 0, 0⟩,
  -- RLY_ERR_CNT
  ⟨0x40008, 256, 2, 0, 0, 0, 0, 0, 0, 0⟩,
  -- RLY_FEC_CNT
  ⟨0x4000C, 256, 2, 0, 0, 0, 0, 0, 0, 0⟩,
  -- RLY_HOLD_STS
  ⟨0x40010, 256, 2, 0, 0, 0, 0, 0, 0, 0⟩,
  -- RLY_RTT
  ⟨0x40014, 256, 2, 0, 0, 0, 0, 0, 0, 0⟩,
  -- RLY_CHAIN_CTL
  ⟨0x41000, 0, 1, 0, 0, 0xDF070000, 0, 0, 0, 0⟩,
  -- RLY_CHAIN_STS
  ⟨0x41004, 0, 1, 0, 0, 0, 0, 0, 0, 0⟩,
  -- RLY_MEMBER
  ⟨0x41104, 4, 7, 0, 0, 0, 0, 0, 0, 0⟩
]

/-- The registers of the Mbox page. -/
def regDefsMbox : List RegDef := [
  -- MBOX_RESULT_SEQ
  ⟨0x380000, 16384, 3, 0, 0, 0, 0, 0, 0, 0⟩,
  -- MBOX_RESULT_HDR
  ⟨0x380004, 16384, 3, 0, 0, 0, 0, 0, 0, 0⟩,
  -- MBOX_RESULT_LEN
  ⟨0x380008, 16384, 3, 0, 0, 0, 0, 0, 0, 0⟩,
  -- MBOX_CMD_STS
  ⟨0x38000C, 16384, 3, 0, 0, 0, 0, 0, 0xFF0000, 0⟩,
  -- MBOX_BREW_STS
  ⟨0x380010, 0, 1, 0, 0, 0, 0, 0, 0, 0⟩,
  -- MBOX_BARISTA_STS
  ⟨0x380014, 0, 1, 0, 0, 0, 0, 0, 0, 0⟩
]

/-- The registers of the Canister page. -/
def regDefsCanister : List RegDef := [
  -- CAN_STS
  ⟨0x330000, 0, 1, 0, 0, 0, 0, 0, 0, 0⟩,
  -- CAN_ERASE
  ⟨0x330010, 0, 1, 0, 0, 0, 0x3, 0, 0, 0⟩,
  -- CAN_ERASE_KEY
  ⟨0x330014, 0, 1, 0, 0, 0, 0, 0, 0, 0xFFFFFFFF⟩,
  -- CAN_LOG_STS
  ⟨0x330018, 0, 1, 0, 0, 0, 0, 0, 0, 0⟩
]

/-- The registers of the Staging page. -/
def regDefsStaging : List RegDef := [
  -- STG_STS
  ⟨0x10000, 0, 1, 0xC000000, 0, 0, 0, 0, 0, 0⟩,
  -- STG_RESULT
  ⟨0x10004, 0, 1, 0, 0, 0, 0, 0, 0, 0⟩,
  -- STG_FAIL_OFF
  ⟨0x10008, 0, 1, 0xFFFFFFFF, 0, 0, 0, 0, 0, 0⟩,
  -- STG_COMMIT_POUR_LO
  ⟨0x1000C, 0, 1, 0, 0, 0, 0, 0, 0, 0⟩,
  -- STG_COMMIT_POUR_HI
  ⟨0x10010, 0, 1, 0, 0, 0, 0, 0, 0, 0⟩
]

/-- The registers of the Pmu page. -/
def regDefsPmu : List RegDef := [
  -- PMU_CTL
  ⟨0x280000, 0, 1, 0, 0x80000000, 0, 0, 0, 0, 0x60000000⟩,
  -- PMU_USER_EN
  ⟨0x280004, 0, 1, 0, 0x7F, 0, 0, 0, 0, 0⟩,
  -- PMU_OVF_LO
  ⟨0x280008, 0, 1, 0, 0, 0, 0, 0, 0xFFFFFFFF, 0⟩,
  -- PMU_OVF_HI
  ⟨0x28000C, 0, 1, 0, 0, 0, 0, 0, 0xFFFFFFFF, 0⟩,
  -- PMU_HIST_CLR
  ⟨0x280010, 0, 1, 0, 0, 0, 0, 0, 0, 0xF⟩,
  -- PMU_EVSEL
  ⟨0x280100, 4, 64, 0, 0xFFE00FFF, 0, 0, 0, 0, 0⟩,
  -- PMU_SCOPE
  ⟨0x280200, 4, 64, 0, 0xFFFF, 0, 0, 0, 0, 0⟩,
  -- PMU_HIST_CTL
  ⟨0x280400, 4, 4, 0, 0xFFFF8FFF, 0, 0, 0, 0, 0⟩
]

/-- The registers of the Inlet page. -/
def regDefsInlet : List RegDef := [
  -- INL_CFG
  ⟨0x320000, 0, 1, 0x32280A00, 0, 0, 0, 0x7FFFFF00, 0, 0⟩,
  -- INL_FET
  ⟨0x320004, 0, 1, 0x3C96280A, 0, 0, 0, 0x7FFFFFFF, 0, 0⟩,
  -- INL_STS
  ⟨0x320008, 0, 1, 0, 0, 0, 0, 0, 0x1000000, 0⟩,
  -- INL_MEAS
  ⟨0x32000C, 0, 1, 0, 0, 0, 0, 0, 0, 0⟩,
  -- INL_OVERRIDE
  ⟨0x320010, 0, 1, 0, 0, 0, 0x3, 0, 0, 0⟩,
  -- INL_OVERRIDE_KEY
  ⟨0x320014, 0, 1, 0, 0, 0, 0, 0, 0, 0xFFFFFFFF⟩,
  -- INL_CLEAR
  ⟨0x320018, 0, 1, 0, 0, 0, 0xFFFFFFFF, 0, 0, 0⟩,
  -- INL_CLEAR_KEY
  ⟨0x32001C, 0, 1, 0, 0, 0, 0, 0, 0, 0xFFFFFFFF⟩,
  -- INL_MEAS2
  ⟨0x320020, 0, 1, 0, 0, 0, 0, 0, 0, 0⟩,
  -- INL_WAIT
  ⟨0x320024, 0, 1, 0, 0, 0, 0, 0, 0, 0⟩
]

/-- The registers of the Thermal page. -/
def regDefsThermal : List RegDef := [
  -- PWR_CAP
  ⟨0x310000, 0, 1, 0, 0, 0, 0, 0x40000FFF, 0, 0⟩,
  -- PWR_STS
  ⟨0x310004, 0, 1, 0, 0, 0, 0, 0, 0x40000000, 0⟩,
  -- PWR_RAIL_STS
  ⟨0x310008, 0, 1, 0, 0, 0, 0, 0, 0, 0⟩,
  -- THM_STS
  ⟨0x310010, 0, 1, 0, 0, 0, 0, 0, 0, 0⟩,
  -- THM_ALERT
  ⟨0x310014, 0, 1, 0, 0, 0, 0, 0, 0x60, 0⟩
]

/-- The registers of the page that offset `o` lies in (R408); a reserved range has none. -/
def regDefsAt (o : Nat) : List RegDef :=
  if o < 0x10000 then regDefsGlobal else
  if o < 0x20000 then regDefsStaging else
  if o < 0x40000 then regDefsPort else
  if o < 0x80000 then regDefsRelay else
  if o < 0x100000 then regDefsNoc else
  if o < 0x180000 then regDefsCrema else
  if o < 0x200000 then regDefsFar else
  if o < 0x210000 then regDefsCrypto else
  if o < 0x220000 then regDefsPress else
  if o < 0x230000 then regDefsCoh else
  if o < 0x240000 then regDefsSvc else
  if o < 0x280000 then regDefsTenant else
  if o < 0x300000 then regDefsPmu else
  if o < 0x310000 then regDefsRas else
  if o < 0x320000 then regDefsThermal else
  if o < 0x330000 then regDefsInlet else
  if o < 0x340000 then regDefsCanister else
  if o < 0x340000 then [] else if o < 0x380000 then [] else
  if o < 0x400000 then regDefsMbox else []

/-- Does the register table `r` cover offset `o`? -/
def RegDef.covers (r : RegDef) (o : Nat) : Bool :=
  if r.stride = 0 then o == r.base
  else decide (r.base ≤ o) && decide ((o - r.base) % r.stride = 0) && decide ((o - r.base) / r.stride < r.count)

/-- The register table of offset `o`, if one is there. -/
def regDef? (o : Nat) : Option RegDef := (regDefsAt o).find? (fun r => r.covers o)

/-- The reset word of the register at `o`; an unimplemented location reads zero (R412). -/
def resetWord (o : Nat) : Word :=
  match regDef? o with
  | some r =>
    -- the map of logical to physical channels resets to the identity (R125)
    if decide (0x140100 ≤ o) && decide (o < 0x14017C) then BitVec.ofNat 32 (r.reset + (o - 0x140100) / 4)
    else BitVec.ofNat 32 r.reset
  | none => 0

/-- Every offset that carries a register table. -/
def allRegDefs : List RegDef :=
  regDefsGlobal ++ regDefsFar ++ regDefsTenant ++ regDefsCrema ++ regDefsRas ++ regDefsCrypto ++ regDefsPress ++ regDefsCoh ++ regDefsSvc ++ regDefsNoc ++ regDefsPort ++ regDefsRelay ++ regDefsMbox ++ regDefsCanister ++ regDefsStaging ++ regDefsPmu ++ regDefsInlet ++ regDefsThermal

/-- The bits of the register at `o` that carry the access code `f` selects. -/
def accMask (f : RegDef → Nat) (o : Nat) : Word :=
  match regDef? o with
  | some r => BitVec.ofNat 32 (f r)
  | none => 0

/-- The offsets of the keyed registers (R416). -/
def keyedOffsets : List Nat :=
  [Off.glbSealCtl, Off.glbLcAdv, Off.cryRekeyCtl, Off.rasFuseLo, Off.inlOverride, Off.inlClear, Off.canErase]

end Sys2Proof.Machine
end

