-- ==== Sys2Proof/Machine/State.lean ====
section
/-! DEFINITION. Sys2Proof/Machine/State.lean: everything the spec says the device holds, as plain data, and the state
right after reset. A register that the register tables give lives in `Dev.regs` under its BAR2 offset, its reset word
coming from RegMap; what the rules hold beside the registers has a field of its own. -/

namespace Sys2Proof.Machine

/-- Why a step faults. No rule of the spec makes the device stop dead, so only the check below raises one. -/
inductive Fault where
  /-- no meaning raises it; kept for a place that the rules say does not exist. Safe: it only stops the model. -/
  | noSuchPlace
  deriving DecidableEq, Repr

/-- Why a step is refused. -/
inductive Refusal where
  /-- raised by an arm of exec for a command without a meaning. Safe: it only stops the model. -/
  | notModelled (mnemonic : String)
  deriving DecidableEq, Repr

/-- The two ordering variants (R1). -/
inductive Part where
  | xtp8640
  | xtp8632
  deriving DecidableEq, Repr

/-- The twelve modes (R35). -/
inductive Mode where
  | cold
  | fill
  | boot
  | train
  | await
  | serve
  | degraded
  | drowse
  | hibernate
  | drain
  | maint
  | halt
  deriving DecidableEq, Repr

/-- The lifecycle states (R450). -/
inductive Lifecycle where
  | blank
  | test
  | provisioned
  | production
  | rma
  | scrapped
  deriving DecidableEq, Repr

/-! ### Time, register access, staging (R22, R31, R414, R418, R422 to R427) -/

/-- A moment: pour and cycle (R23). -/
structure Stamp where
  pour : Nat
  cyc : Nat
  deriving DecidableEq, Repr

/-- The pour counter, the cycle within the pour and whether the core clock runs (R22). -/
structure Clock where
  running : Bool
  pour : BitVec 64
  cyc : Fin 512
  deriving DecidableEq, Repr

/-- A pair armed by a value write, awaiting its KEY write (R414). -/
structure Armed where
  off : Nat
  value : Word
  at_ : Stamp
  deriving DecidableEq, Repr

/-- What a staged command will do at the commit (R82, R118 to R120, R137, R260, R403). A tenant change holds the range, the
partition word, the pool of its static partition, the members it may take blocks of, medium and pool of each region, the table entries it has written and the
extents it takes away; a pool change the blocks it wants and those it found. -/
inductive StagedCmd where
  | tenant (create : Bool) (t : TenantId) (port : PortId) (ld : Nat) (base len : Nat) (part : Word) (pool members : Nat)
      (media : List (Nat × Nat)) (written : List Nat) (removed : List Word)
  | pin (port : PortId) (ld : Nat) (pin : Bool) (dpa len : Nat) (i : Iface)
  | flush (port : PortId) (ld : Nat) (whole inval : Bool) (dpa len : Nat) (i : Iface)
  | nearSize (gib : Nat) (i : Iface)
  | poolCreate (n : Fin 8) (overcommit : Bool) (want : Nat) (storage : List Nat) (expose : Nat)
  | poolAdd (n : Fin 8) (want : Nat) (storage : List Nat) (expose : Nat)
  | poolExpose (n : Fin 8) (expose : Nat)
  | poolDestroy (n : Fin 8)
  | rotation (c : CremaCh) (i : Iface)
  deriving DecidableEq, Repr

/-- The staging set beside the pending register entries (R391, R422 to R426). `heldWrites` are the owner's writes made
during a check; `sealNext` the reference the check computed; `retire` the table entries to free at the next boundary. -/
structure Staging where
  owner : Option Iface
  checked : Bool
  checking : Option Iface
  commitPend : Option Iface
  writes : Nat
  cmds : List StagedCmd
  heldWrites : List (Nat × Word)
  sealNext : Word
  commitPour : BitVec 64
  deriving DecidableEq, Repr

/-- Register access beside the registers themselves (R31, R409, R414, R418, R427). -/
structure Access where
  armed : Vector (Option Armed) 4
  ind : Vector Word 4
  snapReq : Bool
  snap : Sparse Word
  posting : Sparse Word
  deriving DecidableEq, Repr

/-! ### Power and inlet (R505 to R525, R466, R536) -/

/-- States of the inlet (R507). -/
inductive Inlet where
  | off
  | check
  | wait
  | prechg
  | ramp
  | on
  | latched
  deriving DecidableEq, Repr

/-- The island and the inlet. `modelTemp` is the energy model's FET temperature in 10⁻⁹ °C; `clearDue` a clear that schedules CHECK; `fetHot` that EVT_FET_HOT was raised; `capBelow` since when the board's power has lain below
95 % of CAP, `capNext` the pour from which the next average is due (R523). -/
structure Power where
  vaux : Bool
  smbAddr : BitVec 2
  straps : BitVec 3
  prsntLow : Bool
  perstALow : Bool
  perstLowSeen : Bool
  powerGood : Bool
  inlet : Inlet
  clearDue : Bool
  modelTemp : Nat
  fetHot : Bool
  thermtrip : Bool
  gates : Bool
  glitchReset : Bool
  glitchHold : Bool
  glitchTimes : List Nat
  islandTemp : Int
  mctpRo : Bool
  capBelow : Option Nat
  capNext : Nat
  deriving DecidableEq, Repr

/-! ### The Canister (R402 to R405, R508, R516, R488) -/

/-- An image header as R455 lays it out, with what the checks of R456 found in the rest of it. -/
structure Slot where
  bytes : Payload
  valid : Bool
  deriving DecidableEq, Repr

/-- A settings copy (R403). -/
structure Copy where
  gen : Nat
  regs : Sparse Word
  portMode : Nat
  near : Nat
  cremaRepairs : List (BitVec 64)
  farRepairs : List (BitVec 64)
  crcOk : Bool
  deriving DecidableEq, Repr

/-- The fault entry of the inlet (R514): the cause, the failure count, INL_SENSEP and INL_VOUT in 10 mV, the current in 10 mA and the FET
temperature in °C. -/
structure InletEntry where
  cause : Nat
  fails : Nat
  vin : Nat
  vout : Nat
  iout : Nat
  temp : Nat
  deriving DecidableEq, Repr

/-- The inlet's fault memory (R508, R514 to R516). -/
structure InletRec where
  fails : Nat
  cause : Nat
  latched : Bool
  marker : Bool
  cfg : Option Word
  fet : Option Word
  entry : Option InletEntry
  deriving DecidableEq, Repr

/-- The HALT record (R488). `newest` holds the three newest ring records before EVT_HALT. -/
structure HaltRec where
  cause : Nat
  origin : Nat
  mode : Nat
  later : Nat
  at_ : Stamp
  chid : BitVec 16
  loc : BitVec 64
  newest : List EventRec
  deriving DecidableEq, Repr

/-- The eMRAM. `atBoot` are the events the next BOOT raises from the record (number and detail, R526, R466). `storing`
is a store or erase under way: the interface, and the area mask of an erase. -/
structure Canister where
  slots : Vector Slot 2
  bootSlot : Fin 2
  copies : Vector (Option Copy) 16
  newest : Option (Fin 16)
  log : List EventRec
  logCount : Nat
  lastLog : Option Nat
  inlet : InletRec
  halt : Option HaltRec
  glitches : Nat
  glitchHold : Bool
  glitchNew : Nat
  atBoot : List (Nat × List Word)
  lcLog : List (Nat × Nat)
  cert : Bool
  storing : Option (Iface × Option Nat)
  deriving DecidableEq, Repr

/-! ### Lifecycle, identity, attestation (R450 to R464) -/

/-- The fuses: four bits per state from TEST (R451), the SVN thermometer, the identity bank, the repair entries of
the base-die map (R133), those of the on-die arrays (R500), and the hard repairs that the DIMMs' own fuses hold (R164). -/
structure Fuses where
  lc : BitVec 20
  svn : Nat
  identity : Bool
  idDisable : Bool
  repairs : List (BitVec 64)
  arrays : List (BitVec 64)
  hard : List (BitVec 64)
  deriving DecidableEq, Repr

/-- The lifecycle burn that starts at the next boundary, the lifecycle burn, key generation and repair burn under way (R452, R453, R501), whether
the signing engine holds the identity keys (R459), and the settings copy that BOOT applied (R463). -/
structure Secure where
  burnDue : Option Lifecycle
  burn : Option Lifecycle
  keygen : Bool
  fuseBurn : Option (BitVec 64 × Option Iface)
  signKeys : Bool
  bootCopy : Option Copy
  deriving DecidableEq, Repr

/-- One SPDM transport (R462). -/
structure SpdmConn where
  negotiated : Bool
  session : Bool
  deriving DecidableEq, Repr

/-! ### Barista, mailbox, brews (R387 to R401) -/

/-- What Barista is doing (R388, R389). -/
inductive BaristaState where
  | rom
  | running
  | restarting
  | held
  deriving DecidableEq, Repr

/-- What a brew works through. Positions count the units done. -/
inductive Work where
  | sanitise (t : TenantId) (secure : Bool) (started : Option Nat)
  | scanMedia (port : PortId) (ld : Nat)
  | pin (port : PortId) (ld : Nat) (pin : Bool) (dpa pages pinned refused : Nat)
  | flush (frames : List Nat) (inval : Bool) (lines : Nat)
  | nearSize (gib : Nat)
  | compact (pools : List Nat) (moved left : Nat)
  | test (kind index : Nat)
  | fwVerify (slot : Fin 2)
  | cutErase
  | blockSanitise (blocks : List (Nat × Nat))
  | subtreeReinit (ch : FarCh) (level index : Nat)
  deriving DecidableEq, Repr

/-- A brew (R398, R399): its kind, who started it, its work, units done and planned, whether it is
suspended (R56), and the far channels that it touches (R52). -/
structure Brew where
  kind : Nat
  iface : Option Iface
  work : Work
  done : Nat
  planned : Nat
  suspended : Bool
  touched : BitVec 8
  deriving DecidableEq, Repr

/-- The mailboxes and Barista (R387 to R401). A command that waits is held as the command itself; `waits` keeps the
order of the doorbells; `running` is a command that takes longer than its arrival. `stepAt` is the pour in which a brew step last started or ended (R27). `bg` is the last background status
(return code). -/
structure Mbox where
  state : BaristaState
  slot : Fin 2
  restarts : List Nat
  restartCause : Nat
  activating : Option (Iface × Nat × Fin 2 × Fin 2)
  waits : List (Iface × Instr)
  running : List (Iface × Nat)
  window : Vector Payload 3
  fg : Option Brew
  internal : List Brew
  turn : Nat
  stepDue : Bool
  stepAt : Option Nat
  bg : Nat
  softCrema : List (BitVec 64)
  softFar : List (BitVec 64)
  hppr : List (BitVec 64)
  fwNext : Vector Nat 2
  recovery : Bool
  deriving DecidableEq, Repr

/-! ### Address path and tenants (R64 to R93, R336 to R344) -/

/-- A committed HDM decoder (R65, R338, R551). -/
structure Hdm where
  cfg : HdmCfg
  position : Option Nat
  deriving DecidableEq, Repr

/-- The poison source codes of the standard that R343 uses. -/
inductive PoisonSrc where
  | internal
  | injected
  | vendor
  deriving DecidableEq, Repr

/-- A record of a poison list: lines `first` to `first + len - 1` of the LD's DPA (R343). -/
structure PoisonRec where
  first : Nat
  len : Nat
  src : PoisonSrc
  deriving DecidableEq, Repr

/-- One logical device of one port: its decoders with each one's Error Not Committed, poison list, CDAT as last built with its sequence, and event
logs (R65, R343, R340, R341, R477). -/
structure LdState where
  dec : Vector (Option Hdm) 8
  decPend : List (Fin 8 × HdmCfg)
  decError : BitVec 8
  poison : List PoisonRec
  poisonOvf : Bool
  ovfAt : Option Nat
  cdat : List (List Nat)
  cdatSeq : Nat
  cdatDue : Bool
  log : List EventRec
  deriving DecidableEq, Repr

/-- What a tenant's sequence of R85 ends in. -/
inductive SeqKind where
  | reset
  | destroy
  | sanitise
  | portReset
  deriving DecidableEq, Repr

/-- A sequence under way (R85): the boundary r, the kind, who waits for it, and the counts. -/
structure TenantSeq where
  r : Option Nat
  kind : SeqKind
  iface : Option Iface
  drained : Nat
  squashed : Nat
  deriving DecidableEq, Repr

/-- A dynamic-capacity region (R66, R88, R396): medium (0 none, 1 near, 2 far, 3 far compressed), pool, length in
blocks. -/
structure DcRegion where
  medium : Nat
  pool : Nat
  len : Nat
  deriving DecidableEq, Repr

/-- An offered or accepted dynamic-capacity extent: its first table entry, blocks, tag, and the answer that waits for
the next boundary (R89, R90). -/
structure DcExtent where
  entry : Nat
  region : Nat
  tag : Nat
  accepted : Bool
  answer : Option Bool
  deriving DecidableEq, Repr

/-- A tenant beside its registers: sequence, the pool of its static partition, the members whose far blocks it may take (R396), regions, extents, guarantee credit (R298), lines delivered in this pour and
this window per class, and the DevLoad samples of the last pours (R342). -/
structure Tenant where
  seq : Option TenantSeq
  staticPool : Nat
  members : Nat
  regions : Vector DcRegion 8
  dc : List DcExtent
  credit : Nat
  creditRem : Nat
  pourLines : Vector Nat 4
  winLines : Vector Nat 4
  waitPours : Nat
  heldSeen : BitVec 4
  devLoads : List Nat
  memClr : Bool
  deriving DecidableEq, Repr

/-! ### Memory (R67, R94 to R105, R166, R176) -/

/-- A frame's entry in the tags: the summary entry and the state entry of R103. -/
structure Frame where
  st : BitVec 2
  freq : Nat
  rrpv : Nat
  pin : Bool
  c : Bool
  tag : Nat
  valid : BitVec 64
  dirty : BitVec 64
  deriving DecidableEq, Repr

/-- The memories. `crema` and `far` hold the bytes that a read under the key in force returns: Crema by frame × 4096 +
byte, the far tier by (channel × 2^34 + channel line index) × 64 + byte. An unlisted byte is 0 (R93, R195). The sets
name lines that hold stored poison, far lines whose line-state holds FRESH (R177), far pages written in this start (bitmap, R98),
lost-fresh pages (R198; key 2^31 + c turns the listing of channel c round, R485), and `ctr` the counter blocks of R207 by channel × 2^28 + stored page. -/
structure Mem where
  crema : List Host.Cell
  far : List Host.Cell
  cremaPoison : NatSet
  farPoison : NatSet
  fresh : NatSet
  written : NatSet
  lostFresh : NatSet
  ctr : Sparse Line
  deriving DecidableEq, Repr

/-! ### Crema (R106, R107, R122, R131, R137, R140) -/

/-- A way-predictor entry (R107). -/
structure Pred where
  valid : Bool
  way : Nat
  conf : Nat
  deriving DecidableEq, Repr

/-- A rotation (R137): the source and where it stands; `since` is the pour at which the source was isolated. -/
structure Rotation where
  source : CremaCh
  phase : Nat
  pointer : Nat
  iface : Option Iface
  result : Nat
  locators : List (BitVec 64)
  since : Nat
  deriving DecidableEq, Repr

/-- A rebuild walk after a channel loss (R122): the physical and logical channel, next frame position, whether a spare
backs it, the counts, the lines (by line key) that a request reached before the walk, and the near blocks that were allocated when
the channel was lost and have not been wiped since (R122, R123). -/
structure Rebuild where
  phys : CremaCh
  logical : Nat
  pos : Nat
  backed : Bool
  dirtyLost : Nat
  nearLost : Nat
  seen : NatSet
  blocks : List Nat
  deriving DecidableEq, Repr

/-- A corrected-error entry (R185). -/
structure CeEntry where
  loc : BitVec 64
  count : Nat
  window : Nat
  deriving DecidableEq, Repr

/-- Error tracking of one channel: the CE entries, the locators whose storm was raised in a storm window, and the uncorrectable lines
of the loss window (R185, R479). -/
structure ErrTrack where
  ce : List CeEntry
  stormWin : Nat
  stormed : NatSet
  ueWindow : Nat
  ueCount : Nat
  warned : Bool
  deriving DecidableEq, Repr

/-- Crema beside its registers. `tagCache` is the on-die tag cache by set, the line used last first: set × 5, plus 0 for a summary
line and 1 to 4 for a state line (R106). Trackers are by (pseudo-channel × 64 + bank) (R131); `nbr` the neighbour-refresh queues
by pseudo-channel (R132); `refreshes` the refresh commands of the window by pseudo-channel (R130); `lossDue` losses that
wait for their boundary; `scrubNext` the pour from which the next scrub line is due (R192), `lanes` the failed TSV lanes of a channel that
its spare lanes 0, 1, 2, ... carry (R127); `evictFor` what an Evicting frame takes next (set × 16 + way: page × 4 + C × 2 + 1), and
`late` the lines of that page that have come from the far tier meanwhile, with their poison ((set × 16 + way) × 64 + line, R112). -/
structure Crema where
  tagCache : Sparse (List Nat)
  pred : Sparse Pred
  trackers : Sparse (List (Nat × Nat))
  nbr : Sparse (List (Nat × Nat))
  refreshes : Sparse Nat
  rot : Option Rotation
  rebuilds : List Rebuild
  lossDue : List CremaCh
  newNoSpare : Bool
  err : Vector ErrTrack 32
  unitPending : List (BitVec 64)
  heldWrites : List Nat
  scrubPos : Nat
  scrubCe : Nat
  scrubUe : Nat
  bypassWalk : Option (Nat × Nat × Nat)
  evictFor : Sparse Nat
  late : Sparse (Line × Bool)
  scrubNext : Nat
  lanes : Sparse (List Nat)
  deriving DecidableEq, Repr

/-- Thermal state (R139 to R141, R42, R59, R493): failed sensors, since when each release condition has held, a thermal hold,
whether the last sample lies in the test window, and the actions that begin at the next boundary (bit 0 doubled refresh, 1 stack
throttle, 2 base-die throttle); `nextSample` the pour from which the next sample is due (R139). -/
structure Thermal where
  stackFail : NatSet
  dieFail : NatSet
  cool83 : Option Nat
  cool90 : Option Nat
  cool93 : Option Nat
  wakeCool : Option Nat
  trip : Bool
  hold : Bool
  windowOk : Bool
  enter : BitVec 3
  nextSample : Nat
  deriving DecidableEq, Repr

/-! ### Far tier (R143 to R171, R222 to R225) -/

/-- A page in collection or commit on one channel (R225): the page, lines held as plaintext with their poison. -/
structure RekeyPage where
  page : Nat
  held : Sparse Line
  got : BitVec 64
  poison : BitVec 64
  committed : Bool
  deriving DecidableEq, Repr

/-- One far channel beside its registers: the modules fitted, slot by slot, and those in use. `recentre` is the start of a
re-centring step, `mr4` the refresh mode that begins at the next boundary (0 normal, 1 doubled, 2 hot), `nbr` the queue of
neighbour refreshes and RFM commands (bank, row, whether it is an RFM); `distIn` the tenants that the shared counter of each bank
counts (bank × 32 + tenant, R156), `subtrees` the poisoned subtrees by level and index, those of the spare tree with level + 16 (R222, R253), `pprBufs` the pool buffers that a soft repair holds (R165); `dqsNext`, `mr4Next` and `scrubNext` the pours from which the
next oscillator reading (R159), MR4 reading (R152) and scrub line (R192) are due, `reqs` the requests that have reached the channel. -/
structure FarChan where
  fitted : List Dimm
  dimms : List Dimm
  trained : Bool
  lastReq : Nat
  wakeBy : Option Nat
  recentre : Option Nat
  repeatDue : Bool
  dist : Sparse Nat
  distIn : NatSet
  distHeld : List Nat
  distShared : Bool
  raa : Sparse Nat
  nbr : List (Nat × Nat × Bool)
  caPour : Nat
  caCount : Nat
  hotSince : Option Nat
  mr4 : Option Nat
  ppr : Option (BitVec 64 × Nat × Bool)
  pprBufs : Nat
  pprWait : List (BitVec 64)
  err : ErrTrack
  scrubPos : Nat
  scrubCe : Nat
  scrubUe : Nat
  passes : Nat
  lossDue : Bool
  paraDraws : Nat
  subtrees : List (Nat × Nat)
  metaSingle : Bool
  dqsNext : Nat
  mr4Next : Nat
  scrubNext : Nat
  reqs : Nat
  deriving DecidableEq, Repr

/-! ### Crypto (R201 to R235) -/

/-- Where a rekey stands (R223). -/
inductive RekeyPhase where
  | requested
  | deriving_
  | walking
  deriving DecidableEq, Repr

/-- A rekey (R223 to R228): phase, boundary k, streams' ends, the stream whose turn it is, and the pages held. -/
structure Rekey where
  phase : RekeyPhase
  k : Nat
  next : Nat
  cremaEnd : Bool
  pages : Vector (Option RekeyPage) 8
  total : Nat
  walked : Nat
  deriving DecidableEq, Repr

/-- A line of a far channel's protection metadata (R166, R167, R253): a MAC line by its number, a counter block by its stored page, a
node of the data tree or of the spare tree by level and index. -/
inductive MetaRef where
  | mac (c i : Nat)
  | ctr (c pg : Nat)
  | node (c : Nat) (spare : Bool) (level index : Nat)
  deriving DecidableEq, Repr

/-- Keys and counters. A key is held as the draw that made it: the draw's value is `Config.drbg` of that number. `cache` is the on-die
metadata cache by set, the line used last first, each with whether it is dirty (R215); `spill` the clean counter blocks of the Crema
spill area by line, channel × 2^28 + stored page + 1 (R98, R99, R215). -/
structure Crypto where
  draws : Nat
  key : Option Nat
  oldKey : Option Nat
  rekeys : Nat
  majorNext : BitVec 57
  majorNextOld : BitVec 57
  rekey : Option Rekey
  rateNext : Option Nat
  xtsFailed : NatSet
  xtsShared : NatSet
  ctrFailed : NatSet
  cache : Sparse (List (MetaRef × Bool))
  spill : Sparse Nat
  deriving DecidableEq, Repr

/-! ### Press (R236 to R261) -/

/-- A compressed pool: storage blocks in the order taken (map blocks first of each taking, R237, R260), exposure. -/
structure Pool where
  used : Bool
  overcommit : Bool
  mapBlocks : List Nat
  dataBlocks : List Nat
  exposed : List Nat
  deriving DecidableEq, Repr

/-- A page job (R258): decode for a fill or coding for a writeback, of the frame or line it serves; the engines it has failed on, and its
class. -/
structure Job where
  decode : Bool
  page : Nat
  set : Nat
  way : Nat
  txn : Option Nat
  tries : List Nat
  cls : Cls
  deriving DecidableEq, Repr

/-- Press beside its registers. `taken` are the sectors in use, by channel × 2^31 + sector (spare ones by channel
sector too); `releasing` those that become free at the next boundary (R241); `mapCache` the map lines of the Crema page-map cache by
line, far line key + 1 (R98, R99). -/
structure Press where
  pools : Vector Pool 8
  jobs : List Job
  engines : Vector (Option Job) 4
  lossDue : List (Fin 4)
  underTest : Option (Fin 4)
  taken : NatSet
  releasing : List Nat
  mapCache : Sparse Nat
  deriving DecidableEq, Repr

/-! ### Home agent (R262 to R286) -/

/-- STATE of a directory entry (R267). -/
inductive DirState where
  | invalid
  | shared
  | exclusive
  deriving DecidableEq, Repr

/-- A directory entry (R267). -/
structure DirEntry where
  tag : Nat
  st : DirState
  sharers : BitVec 16
  lock : Bool
  hold : Bool
  age : Nat
  deriving DecidableEq, Repr

/-- An open snoop (R273): line key, sharer index, whether it is BISnpInv, when sent (none while HOLD defers it), the
transaction it serves (none for a directory victim's), whether it snoops an Exclusive entry. -/
structure Snoop where
  line : Nat
  sharer : Nat
  inv : Bool
  sent : Option Stamp
  txn : Option Nat
  excl : Bool
  deriving DecidableEq, Repr

/-- A near-atomic lease (R283). -/
structure Lease where
  line : Nat
  port : PortId
  txn : Nat
  data : Line
  dirty : Bool
  since : Nat
  lastUse : Stamp
  deriving DecidableEq, Repr

/-- A contention-predictor entry (R284). -/
structure AtomPred where
  valid : Bool
  tag : Nat
  requester : Nat
  score : Nat
  deriving DecidableEq, Repr

/-- The home agent. `dir` is by (slice × 16384 + set) × 16 + way; `holds` lists held lines with the grant's pour, and
`acksDue` the BIConflictAcks that wait for a transaction: its number, the port, the tag, the sharer (R274). -/
structure Home where
  dir : Sparse DirEntry
  holds : List (Nat × Nat)
  snoops : List Snoop
  acksDue : List (Nat × PortId × Nat × Nat)
  leases : List Lease
  atomPred : Sparse AtomPred
  imprecise : NatSet
  deriving DecidableEq, Repr

/-- Who sent a request. -/
inductive Origin where
  | host (port : PortId) (ld : Nat) (tag : Nat) (hpa : Nat)
  | relay (src : Nat) (tag : Nat)
  deriving DecidableEq, Repr

/-- What a request asks (R268, R282, R339). -/
inductive Op where
  | rd
  | rdData
  | inv
  | wr
  | wrPtl
  | clnEvct
  | uioRd
  | uioWr
  | uioWrPtl
  | atomic
  deriving DecidableEq, Repr

/-- Where a transaction stands. -/
inductive Phase where
  /-- at the port, not looked up: AWAIT, DRAIN or HIBERNATE (R549, R55, R58) -/
  | modeHeld
  /-- in the hold buffer (R293) -/
  | regHeld
  /-- waits behind an open transaction, a HOLD or a fill on its line or page (R270, R114) -/
  | ordered
  /-- waits for a snoop's answer (R273) -/
  | snooping
  /-- in the directory retry queue (R279) -/
  | retry
  /-- waits for the tag decision (R109) -/
  | tag
  /-- waits for a Crema line (R183) -/
  | crema
  /-- waits for a far line (R182) -/
  | far
  /-- waits for its page to fill or decode (R114, R247) -/
  | fill
  /-- a write held until a way or a writeback frees (R105, R115) -/
  | heldWrite
  /-- forwarded on Relay (R377) -/
  | relayed
  /-- looked up, waits at its network interface for a credit of a home slice that is full (R272) -/
  | credit
  /-- holds its line under a lease (R283) -/
  | leased
  deriving DecidableEq, Repr

/-- A transaction between its arrival and its completion (R11, R270). `route` is the network route that it is bound to (R11, R26);
`counted` whether its tag decision has counted as a hit or miss, and `bypass` whether it has counted as a bypass (R104, R105). -/
structure Txn where
  id : Nat
  org : Origin
  op : Op
  md : Meta
  tenant : Option TenantId
  cls : Cls
  sharer : Option Nat
  db : Bool
  comp : Bool
  dpa : Nat
  ma : Nat
  data : Line
  mask : BitVec 64
  atom : Option AtomicArgs
  phase : Phase
  arrived : Stamp
  looked : Option Stamp
  poisoned : Bool
  spec : Option Stamp
  snooped : Bool
  tier : Nat
  route : Nat
  counted : Bool
  bypass : Bool
  deriving DecidableEq, Repr

/-! ### Ports, Relay, network (R312 to R386) -/

/-- A link-down sequence (R349). -/
structure LinkDown where
  d : Option Nat
  r : Option Nat
  clearDecoders : Bool
  deriving DecidableEq, Repr

/-- A host port beside its registers: a link-down under way, the partner, and the width before an L0p reduction. -/
structure Port where
  down : Option LinkDown
  cxl2 : Bool
  mld : Bool
  holdFull : Bool
  viralDue : Bool
  fullWidth : Nat
  insecure : List IdeStream
  deriving DecidableEq, Repr

/-- A message that waits for credit on a Relay port: header, opcode, data slots; a ROLL message has opcode 0x100. -/
structure TxMsg where
  m : RelayMsg
  opc : Nat
  payload : List (BitVec 128)
  roll : Option Roll
  deriving DecidableEq, Repr

/-- A sequenced flit that waits for its acknowledgement: its extended sequence number, what it carries (R364), and its 256 bytes,
which a retransmission sends again bit for bit (R358). -/
structure TxFlit where
  seq : Nat
  msg : TxMsg
  wire : Payload
  deriving DecidableEq, Repr

/-- A sequenced flit held for order (R364): its extended number, slots by VC, and the ROLL message it carries. -/
structure RxFlit where
  seq : Nat
  slots : List (Nat × BitVec 128)
  roll : Option Roll
  deriving DecidableEq, Repr

/-- A Relay port beside its registers (R354 to R371). `txNext`/`rxNext` are extended sequence numbers, `ctrlTx`/`ctrlRx` the
control counters. Per VC: slots freed here and the count told to the peer, slots sent and the peer's count, HOLD causes of the
peer, the pour of its last credit; `shown` the count that the peer has last seen on the wire, `sinceCredit` the flits sent since the
last CREDIT flit, `ownHold` the HOLD cause announced (R370). `ackOwed` is when the oldest delivery without a flit behind it was made (R366),
`rttAt` the pour of the last measurement (R365). `queue` holds the messages that wait for credit or replay room. `keyEpoch`
with the sequence numbers at its start, and a switch that waits for its number; at the upstream end the draw and the rekey count of the
key seed in force and of the next (R355). `cvcNext` is the VC whose count the next flit carries (R358). `wasKeyed` is whether Recovery began in KEYED. -/
structure RelayPort where
  txNext : Nat
  rxNext : Nat
  queue : List TxMsg
  replay : List TxFlit
  reorder : List RxFlit
  missing : List Nat
  gbn : Bool
  ctrlTx : Nat
  ctrlRx : Option Nat
  freed : Vector Nat 8
  told : Vector Nat 8
  sent : Vector Nat 8
  ccum : Vector Nat 8
  peerHold : Vector Nat 8
  lastCredit : Vector Nat 8
  shown : Vector Nat 8
  sinceCredit : Nat
  ownHold : Nat
  ackOwed : Option Stamp
  rttAt : Option Nat
  lastSnak : Option Stamp
  lastAck : Stamp
  holdSince : Option Nat
  recoverySince : Option Nat
  wasKeyed : Bool
  keyEpoch : Nat
  keyTx : Nat
  keyRx : Nat
  keyNext : Option (Nat × Nat)
  seed : Option (Nat × Nat)
  seedNext : Option (Nat × Nat)
  cvcNext : Nat
  deriving DecidableEq, Repr

/-- The chain as this device knows it (R372 to R382): on the head the records of the last roll call, the lost-block list
(member, block), a loss that waits for its boundary, the roll call under way (its start, whether it is the repeat), a result that
waits for the boundary, positions whose capacity has not appeared yet, the XT_CHAIN_ROLLCALL and the forwarded command that wait
(interface; interface, opcode, pour). On a member the pour at which its wait for a return ends, the record last sent, and the
head's ports under viral containment. -/
structure Chain where
  members : Vector (Option MemberRec) 8
  lost : List (Nat × Nat)
  lossDue : Option (Nat × LossCause)
  rolling : Option (Nat × Bool)
  result : Option (List MemberRec)
  pendingUp : Vector Bool 8
  rollCmd : Option Iface
  cmd : Option (Iface × Nat × Nat)
  waiting : Option Nat
  stateSent : Option MemberRec
  viralPorts : BitVec 2
  deriving DecidableEq, Repr

/-- The network's tables: two banks of routes by (mesh × 36 + source) × 36 + destination, and of slots by ((mesh × 36 +
router) × 6 + output) × 512 + entry (tenant + 1); fences under way by domain, with f or u, and domains whose power-on waits for the
end of their fence (R317 to R327). -/
structure Noc where
  routes : Sparse Nat
  routesStaged : Sparse Nat
  slots : Sparse Nat
  slotsStaged : Sparse Nat
  fences : Sparse Nat
  acked : NatSet
  revive : NatSet
  powering : Sparse Nat
  deriving DecidableEq, Repr

/-! ### Telemetry, faults (R435 to R449, R471 to R490) -/

/-- One general counter: the selection and scope in force, its 48 bits and OVF (R439 to R441). -/
structure Ctr where
  sel : Word
  scope : Word
  val : Nat
  ovf : Bool
  deriving DecidableEq, Repr

/-- One histogram (R447). Times are in half nanoseconds. -/
structure Hist where
  ctl : Word
  bins : Sparse Nat
  under : Nat
  above : Nat
  count : Nat
  sum : Nat
  min : Nat
  max : Nat
  deriving DecidableEq, Repr

/-- A wasted charge still to place (R442): the number of its WASTE event, its slots, and whether it was carried (R28). -/
structure Charge where
  ev : Nat
  slots : Nat
  carried : Bool
  deriving DecidableEq, Repr

/-- One scheduler's slot counters, data beats still to place, those of class G apart, wasted charges still to place, and the refresh
commands it has issued in this pour, and how many of its queued neighbour refreshes were carried (R27, R28, R130, R151, R442). -/
structure Slots where
  retired : Nat
  wasted : Nat
  back : Nat
  front : Nat
  gBeats : Nat
  beats : Nat
  charges : List Charge
  refs : Nat
  late : Nat
  deriving DecidableEq, Repr

/-- The part of the line-buffer pool that a buffer comes from (R307). -/
inductive BufPart where
  | reserve
  | classG
  | shared
  deriving DecidableEq, Repr

/-- A request in a scheduler's queue (R146, R290): read or write, class, whether promoted (R149), when it was queued, the line (far:
channel line index; Crema: frame × 64 + line), whether its row stands open (R109), whose activate it counts as (R156), the transaction
that waits for it, and its line buffer, none while it waits at the ingress (R308). -/
structure Req where
  wr : Bool
  cls : Cls
  promoted : Bool
  queued : Stamp
  line : Nat
  opened : Bool
  tenant : Option TenantId
  relay : Bool
  txn : Option Nat
  buf : Option BufPart
  deriving DecidableEq, Repr

/-- An entry of an on-die array's merge buffer (R180): the 64-bit word, the bytes of it that are written, and when it was allocated. -/
structure MergeEntry where
  word : Nat
  bytes : BitVec 8
  since : Stamp
  deriving DecidableEq, Repr

/-- A scheduler's requests, oldest first, and whether it drains writes (R150). -/
structure Sched where
  reqs : List Req
  drain : Bool
  deriving DecidableEq, Repr

/-- The telemetry. `dirty` names the counters and histograms whose new selection waits for the boundary. -/
structure Pmu where
  ctrs : Sparse Ctr
  frozen : Bool
  clrGen : Bool
  clrOvf : Bool
  selDirty : NatSet
  hists : Vector Hist 4
  histDirty : BitVec 4
  slots : Sparse Slots
  lines : Sparse Nat
  deriving DecidableEq, Repr

/-- The event ring (R473 to R476): the records written, newest first, as far as the 512 entries hold them; counts of
records written, forwarded, and dropped since the last EVT_RING_LOSS. -/
structure Ras where
  recs : List EventRec
  written : Nat
  tail : Nat
  dropped : Nat
  lossFlag : Bool
  haltAt : Option (Stamp × Nat)
  haltBoundary : Bool
  later : Nat
  sealScan : Option (Word × Bool)
  deriving DecidableEq, Repr

/-- A self-test (R491 to R499) that runs, and the listed places of a rotation's test that await repair (R499). -/
structure Bist where
  run : Option (Nat × Nat × Option Iface)
  awaiting : List (BitVec 64)
  deriving DecidableEq, Repr

/-- A mode change or request that waits for its boundary (R15, R44). `target` is a committed TARGET with its FLUSH; `gslot` is
whether carried work took class-G slots in the window of 64 pours (R30); `modeAt` and `drainAt` are the pours of the last mode change
and of the last step of DRAIN (R37, R55), `checkedAt` that of the last check of a guarantee window (R30); `degrade` the event of a loss whose mode change waits (R37, R484); `memActive` is
Memory_Active (R36); `tsvDone` whether TSV training has ended in this start (R47). -/
structure Due where
  target : Option (Nat × Bool)
  thermal : Bool
  wake : Bool
  drainStep : Nat
  drainFlush : Bool
  returnMode : Mode
  wakeAt : Option Nat
  fatalFill : Bool
  fillFailed : BitVec 32
  degradeCause : Option Nat
  factorDirty : Bool
  rekeyPaused : Bool
  trained : Bool
  gslot : Bool
  modeAt : Option Nat
  drainAt : Nat
  checkedAt : Option Nat
  degrade : Option Nat
  memActive : Bool
  tsvDone : Bool
  deriving DecidableEq, Repr

/-- What leaves the device, newest first. It is the model's own record of the device's outputs; `dropped` is
the log of a dropped write for which the rules name no event (R124, R480). -/
inductive Out where
  | cxlData (port : PortId) (ld tag : Nat) (data : Line) (poison : Bool) (md : Meta) (devLoad : Nat)
  | cxlCmp (port : PortId) (ld tag : Nat) (md : Meta) (devLoad : Nat)
  | uioData (port : PortId) (ld tag : Nat) (data : Line) (poison : Bool)
  | uioCmp (port : PortId) (ld tag : Nat)
  | atomicData (port : PortId) (ld tag : Nat) (data : BitVec 128) (poison : Bool)
  | unsupported (port : PortId) (ld tag : Nat)
  | bisnp (port : PortId) (ld hpa : Nat) (inv : Bool)
  | biConflictAck (port : PortId) (tag : Nat)
  | viral (port : PortId)
  | relay (port : PortId) (m : RelayMsg) (opc : Nat) (payload : List (BitVec 128))
  | roll (port : PortId) (r : Roll)
  | ctrl (port : PortId) (kind : Nat) (words : List Nat)
  | halt (port : PortId) (origin cause : Nat)
  | word (src : Source) (w : Word)
  | abort (src : Source)
  | dropped (chid : BitVec 16) (ma : Nat)
  | mgmt (status : Nat) (data : List Word)
  | doeTable (port : PortId) (ld seq : Nat) (entries : List (List Nat))
  | fmapi (rc : Nat) (data : List Nat)
  | poisonList (i : Iface) (ovf : Bool) (ovfAt : Option Nat) (recs : List PoisonRec)
  | mbox (i : Iface) (rc opcode : Nat) (out : Payload)
  | spdm (tr : Transport) (kind : Nat) (data : List Nat)
  | signed (tr : Transport) (kind : Nat) (data : List Nat) (sig : Payload)
  | dcEvent (port : PortId) (ld : Nat) (kind : Nat) (blocks : List Nat)
  | generalMedia (port : PortId) (ld dpa kind : Nat)
  | alertResponse (addr : Nat)
  | smbusRelease
  | pcieRetry (port : PortId)
  deriving DecidableEq, Repr

/-- The device: everything but the queue of commands. `shown` holds the words, as of the last boundary, of the registers
that change only at boundaries (R126, R172, R200, R235, R261, R288, R351); `sched` the queues of the 80 schedulers (R146, R290); `merge`
the merge buffers of the on-die arrays, oldest entry first, and `arrayPoison` their words that are stored poisoned, by array × 2^32 + word
(R180, R181); `issued` the locators that the device has issued (R21); `wire` the Relay flits sent, newest first (R356). -/
structure Dev where
  part : Part
  mode : Mode
  clk : Clock
  regs : Sparse Word
  shadow : Sparse Word
  shown : Sparse Word
  acc : Access
  stg : Staging
  pwr : Power
  can : Canister
  fuses : Fuses
  sec : Secure
  spdm : Vector SpdmConn 3
  signQ : List (Transport × Nat)
  mb : Mbox
  bist : Bist
  due : Due
  ext : Sparse Word
  extRetire : List Nat
  lds : Vector LdState 32
  tenants : Vector Tenant 32
  mem : Mem
  frames : Sparse Frame
  crm : Crema
  thm : Thermal
  farCh : Vector FarChan 8
  cry : Crypto
  prs : Press
  home : Home
  txns : List Txn
  nextTxn : Nat
  ports : Vector Port 2
  rly : Vector RelayPort 2
  chain : Chain
  noc : Noc
  sched : Sparse Sched
  merge : Sparse (List MergeEntry)
  arrayPoison : NatSet
  issued : NatSet
  pmu : Pmu
  ras : Ras
  free : Nat
  out : List Out
  wire : List (PortId × Payload)
  deriving DecidableEq, Repr

/-- The device, and the commands that wait for it, first in first out. -/
structure State where
  dev : Dev
  pending : List Instr
  deriving DecidableEq, Repr

/-! ### The state right after reset. A value the spec gives is the spec's; every other one is zero, empty or off
(DESIGN CHOICE, log entry 4). -/

/-- No entry (R103). -/
def Frame.none : Frame := ⟨0, 0, 0, false, false, 0, 0, 0⟩

/-- No tracker entry. -/
def ErrTrack.reset : ErrTrack := ⟨[], 0, [], 0, 0, false⟩

/-- An unbound LD without decoders (R338). -/
def LdState.reset : LdState := ⟨Vector.replicate 8 none, [], 0, [], false, none, [], 0, false, []⟩

/-- A FREE tenant (R80). -/
def Tenant.reset : Tenant :=
  ⟨none, 0, 0, Vector.replicate 8 ⟨0, 0, 0⟩, [], 0, 0, Vector.replicate 4 0, Vector.replicate 4 0, 0, 0, [], false⟩

/-- A far channel without modules. -/
def FarChan.reset : FarChan :=
  { fitted := [], dimms := [], trained := false, lastReq := 0, wakeBy := none, recentre := none, repeatDue := false, dist := [],
    distIn := [], distHeld := [], distShared := false, raa := [], nbr := [], caPour := 0, caCount := 0, hotSince := none, mr4 := none,
    ppr := none, pprBufs := 0, pprWait := [], err := ErrTrack.reset, scrubPos := 0, scrubCe := 0, scrubUe := 0, passes := 0,
    lossDue := false, paraDraws := 0, subtrees := [], metaSingle := false, dqsNext := 0, mr4Next := 0, scrubNext := 0, reqs := 0 }

/-- A Relay port at sequence 0. -/
def RelayPort.reset : RelayPort :=
  let z : Vector Nat 8 := Vector.replicate 8 0
  { txNext := 0, rxNext := 0, queue := [], replay := [], reorder := [], missing := [], gbn := false, ctrlTx := 0, ctrlRx := none,
    freed := z, told := z, sent := z, ccum := z, peerHold := z, lastCredit := z, shown := z, sinceCredit := 0, ownHold := 0, ackOwed := none, rttAt := none, lastSnak := none,
    lastAck := ⟨0, 0⟩, holdSince := none, recoverySince := none, wasKeyed := false, keyEpoch := 0, keyTx := 0, keyRx := 0, seed := none, seedNext := none, cvcNext := 0,
    keyNext := none }

/-- An unused pool. -/
def Pool.reset : Pool := ⟨false, false, [], [], []⟩

/-- A cleared histogram (R448): MIN all ones, every other field 0. -/
def Hist.reset : Hist := ⟨0, [], 0, 0, 0, 0, 0xFFFFFFFF, 0⟩

/-- The island before VAUX. -/
def Power.reset : Power :=
  { vaux := false, smbAddr := 0, straps := 0, prsntLow := false, perstALow := true, perstLowSeen := false, powerGood := false,
    inlet := .off, clearDue := false, modelTemp := 0, fetHot := false, thermtrip := false, gates := false,
    glitchReset := false, glitchHold := false, glitchTimes := [], islandTemp := 0, mctpRo := false, capBelow := none, capNext := 0 }

/-- The Canister of a part that has stored nothing: no valid slot, no settings copy, no fault, and the identity
certificate installed as parts ship (R547). -/
def Canister.reset : Canister :=
  { slots := Vector.replicate 2 ⟨[], false⟩, bootSlot := 0, copies := Vector.replicate 16 none, newest := none, log := [],
    logCount := 0, lastLog := none, inlet := ⟨0, 0, false, false, none, none, none⟩, halt := none, glitches := 0,
    glitchHold := false, glitchNew := 0, atBoot := [], lcLog := [], cert := true, storing := none }

/-- The fuses as parts ship (R547, R451): TEST, PROVISIONED and PRODUCTION reached, identity keys present. -/
def Fuses.reset : Fuses := { lc := 0x00FFF, svn := 0, identity := true, idDisable := false, repairs := [], arrays := [], hard := [] }

/-- Barista before BOOT releases it (R47). -/
def Mbox.reset : Mbox :=
  { state := .rom, slot := 0, restarts := [], restartCause := 0, activating := none, waits := [], running := [],
    window := Vector.replicate 3 [], fg := none, internal := [], turn := 0, stepDue := false, stepAt := none, bg := 0, softCrema := [],
    softFar := [], hppr := [], fwNext := Vector.replicate 2 0, recovery := false }

/-- The device in COLD without VAUX, nothing stored. -/
def Dev.init : Dev :=
  { part := .xtp8640, mode := .cold, clk := ⟨false, 0, 0⟩, regs := [], shadow := [], shown := [],
    acc := ⟨Vector.replicate 4 none, Vector.replicate 4 0, false, [], []⟩,
    stg := ⟨none, false, none, none, 0, [], [], 0, 0⟩,
    pwr := Power.reset, can := Canister.reset, fuses := Fuses.reset, sec := ⟨none, none, false, none, false, none⟩,
    spdm := Vector.replicate 3 ⟨false, false⟩, signQ := [], mb := Mbox.reset, bist := ⟨none, []⟩,
    due := { target := none, thermal := false, wake := false, drainStep := 0,
             drainFlush := false, returnMode := .serve, wakeAt := none, fatalFill := false,
             fillFailed := 0, degradeCause := none, factorDirty := false, rekeyPaused := false,
             trained := false, gslot := false, modeAt := none, drainAt := 0, checkedAt := none, degrade := none, memActive := false,
             tsvDone := false },
    ext := [], extRetire := [], lds := Vector.replicate 32 LdState.reset, tenants := Vector.replicate 32 Tenant.reset,
    mem := ⟨[], [], [], [], [], [], [], []⟩, frames := [],
    crm := { tagCache := [], pred := [], trackers := [], nbr := [], refreshes := [], rot := none,
             rebuilds := [], lossDue := [], newNoSpare := false, err := Vector.replicate 32 ErrTrack.reset,
             unitPending := [], heldWrites := [], scrubPos := 0, scrubCe := 0, scrubUe := 0, bypassWalk := none,
             evictFor := [], late := [], scrubNext := 0, lanes := [] },
    thm := ⟨[], [], none, none, none, none, false, false, true, 0, 0⟩,
    farCh := Vector.replicate 8 FarChan.reset,
    cry := ⟨0, none, none, 0, 0, 0, none, none, [], [], [], [], []⟩,
    prs := ⟨Vector.replicate 8 Pool.reset, [], Vector.replicate 4 none, [], none, [], [], []⟩,
    home := ⟨[], [], [], [], [], [], []⟩, txns := [], nextTxn := 0,
    ports := Vector.replicate 2 ⟨none, false, false, false, false, 0, []⟩,
    rly := Vector.replicate 2 RelayPort.reset,
    chain := ⟨Vector.replicate 8 none, [], none, none, none, Vector.replicate 8 false, none, none, none, none, 0⟩,
    noc := ⟨[], [], [], [], [], [], [], []⟩, sched := [], merge := [], arrayPoison := [], issued := [],
    pmu := ⟨[], false, false, false, [], Vector.replicate 4 Hist.reset, 0, [], []⟩,
    ras := ⟨[], 0, 0, 0, false, none, false, 0, none⟩, free := 0, out := [], wire := [] }

/-- The state right after reset: the device in COLD (R35), no command waiting. -/
def State.reset : State := { dev := Dev.init, pending := [] }

end Sys2Proof.Machine
end

