-- ==== Sys2Proof/Machine/Ops.lean ====
section
/-! DEFINITION. Sys2Proof/Machine/Ops.lean: the operations every family shares: registers and their fields, time, events
and counters, modes, the cold reset, and the frame in which a command acts. -/

namespace Sys2Proof.Machine

/-! ### Registers -/

/-- The word held for the register at `o`: the committed value of a staged one. -/
def Dev.reg (d : Dev) (o : Nat) : Word := Sparse.get (resetWord o) d.regs o

/-- Writes the word of the register at `o`. -/
def Dev.setReg (d : Dev) (o : Nat) (w : Word) : Dev := { d with regs := Sparse.put (resetWord o) d.regs o w }

/-- A field of a register, as a number. -/
def Dev.fld (d : Dev) (f : Fld) : Nat := fieldOf (d.reg f.off) f.lo f.w

/-- Sets a field of a register, modulo its width. -/
def Dev.setFld (d : Dev) (f : Fld) (v : Nat) : Dev := d.setReg f.off (setFieldOf (d.reg f.off) f.lo f.w v)

/-- A one-bit field. -/
def Dev.flag (d : Dev) (f : Fld) : Bool := d.fld f == 1

/-- Sets a one-bit field. -/
def Dev.setFlag (d : Dev) (f : Fld) (b : Bool) : Dev := d.setFld f (bitOf b)

/-- Adds to a count field that saturates. -/
def Dev.bump (d : Dev) (f : Fld) (n : Nat) : Dev := d.setFld f (satN f.w (d.fld f + n))

/-- Sets bit `i` of a field that holds one bit per unit. -/
def Dev.setBit (d : Dev) (f : Fld) (i : Nat) (b : Bool) : Dev :=
  d.setFld f (if b then d.fld f ||| 2 ^ i else d.fld f &&& (2 ^ f.w - 1 - 2 ^ i))

/-- The pending entry of a staged register (R422): its committed word where none is listed. -/
def Dev.pendReg (d : Dev) (o : Nat) : Word := Sparse.get (d.reg o) d.shadow o

/-- Sets the pending entry of a staged register. -/
def Dev.setPend (d : Dev) (o : Nat) (w : Word) : Dev := { d with shadow := Sparse.put (d.reg o) d.shadow o w }

/-- A field of a pending entry. -/
def Dev.pendFld (d : Dev) (f : Fld) : Nat := fieldOf (d.pendReg f.off) f.lo f.w

/-! ### Time -/

/-- The pour (R22). -/
def Dev.now (d : Dev) : Nat := d.clk.pour.toNat

/-- The pour and cycle (R23). -/
def Dev.stamp (d : Dev) : Stamp := ⟨d.now, d.clk.cyc.val⟩

/-- Cycles from one moment to another. -/
def Stamp.cyclesTo (a b : Stamp) : Nat := (b.pour * 512 + b.cyc) - (a.pour * 512 + a.cyc)

/-- Takes one free value's number. -/
def Dev.takeFree (d : Dev) : Nat × Dev := (d.free, { d with free := d.free + 1 })

/-! ### Codes (R19, R35, R289, R450) -/

/-- The code of a mode (R35). -/
def Mode.code : Mode → Nat
  | .cold => 0
  | .fill => 1
  | .boot => 2
  | .train => 3
  | .await => 4
  | .serve => 5
  | .degraded => 6
  | .drowse => 7
  | .hibernate => 8
  | .drain => 9
  | .maint => 10
  | .halt => 11

/-- The code of a class in the class-field table (R310). -/
def clsCode : Cls → Nat
  | .g => 0
  | .l => 1
  | .b => 2
  | .s => 3

/-- The class of a class field. -/
def clsOf (n : Nat) : Cls :=
  match n % 4 with
  | 0 => .g
  | 1 => .l
  | 2 => .b
  | _ => .s

/-- Port A is 0, Port B is 1 (R548). -/
def portIdx : PortId → Nat
  | .a => 0
  | .b => 1

/-- The port of a number. -/
def portOf (n : Nat) : PortId := if n % 2 = 0 then .a else .b

/-- The interface number (R390). -/
def ifaceIdx : Iface → Nat
  | .portA => 0
  | .portB => 1
  | .mctp => 2

/-- The number of an access source. -/
def srcIdx : Source → Nat
  | .portA => 0
  | .portB => 1
  | .mctp => 2
  | .barista => 3

/-- The source that an interface's register accesses count as (R415). -/
def ifaceSource : Iface → Source
  | .portA => .portA
  | .portB => .portB
  | .mctp => .mctp

/-- The interface a register source belongs to (R391). -/
def sourceIface : Source → Option Iface
  | .portA => some .portA
  | .portB => some .portB
  | .mctp => some .mctp
  | .barista => none

/-- The lifecycle code (R450). -/
def Lifecycle.code : Lifecycle → Nat
  | .blank => 0
  | .test => 1
  | .provisioned => 2
  | .production => 3
  | .rma => 4
  | .scrapped => 5

/-- The state of a lifecycle code. -/
def Lifecycle.ofCode : Nat → Option Lifecycle
  | 0 => some .blank
  | 1 => some .test
  | 2 => some .provisioned
  | 3 => some .production
  | 4 => some .rma
  | 5 => some .scrapped
  | _ => none

/-- Is the state of fuse group `n` (TEST is 0) reached: at least two of its four bits blown (R451)? -/
def Fuses.reached (f : Fuses) (n : Nat) : Bool :=
  decide (2 ≤ (rangeWhere 4 (fun i => f.lc.getLsbD (4 * n + i))).length)

/-- The lifecycle state in force: the highest reached (R451). -/
def Fuses.state (f : Fuses) : Lifecycle :=
  if f.reached 4 then .scrapped else if f.reached 3 then .rma else if f.reached 2 then .production
  else if f.reached 1 then .provisioned else if f.reached 0 then .test else .blank

/-- The lifecycle state in force. -/
def Dev.lifecycle (d : Dev) : Lifecycle := d.fuses.state

/-- The chain ID, 0 where none is assigned (R352). -/
def Dev.chainId (d : Dev) : Nat := if d.flag Fld.rlyChainSts_idv then d.fld Fld.rlyChainSts_id else 0

/-- A channel identifier (R19): tier, scope and channel, with this device's chain ID. -/
def Dev.chid (d : Dev) (tier scope ch : Nat) : BitVec 16 :=
  BitVec.ofNat 16 (d.chainId * 2 ^ 13 + tier % 2 * 2 ^ 12 + scope % 4 * 2 ^ 10 + ch % 32)

/-- The channel identifier of a Crema channel. -/
def Dev.cremaChid (d : Dev) (c : Nat) : BitVec 16 := d.chid 0 2 c

/-- The channel identifier of a far channel. -/
def Dev.farChid (d : Dev) (c : Nat) : BitVec 16 := d.chid 1 2 c

/-! ### Merge buffers of the on-die arrays (R180, R181) -/

/-- The number of an array in locators and in `merge`, as XT_BIST_RUN numbers the groups (R491); the event ring follows. -/
def arrayIdx : Array64K → Nat
  | .directory => 0
  | .tagCache => 1
  | .metadataCache => 2
  | .pressSram => 3
  | .lineBufferPool => 4
  | .extentTable => 5
  | .eventRing => 6

/-- The name of a word of an array in `arrayPoison` (log entry 81). -/
def arrayWord (arr word : Nat) : Nat := arr * 2 ^ 32 + word % 2 ^ 32

/-- A write of some bytes of an array's word, narrower than the word: it merges with the entry of the word, or takes a new one, for which
the oldest of 16 retires. A full entry retires. What the arrays hold in the model is always the merged content. -/
def Dev.mergeWrite (d : Dev) (arr : Array64K) (word : Nat) (bytes : BitVec 8) : Dev :=
  let now := d.stamp
  let l := Sparse.get [] d.merge (arrayIdx arr)
  let l : List MergeEntry := match l.findIdx? (·.word == word) with
    | some i => l.modify i fun e => { e with bytes := e.bytes ||| bytes }
    | none => (if 16 ≤ l.length then l.drop 1 else l) ++ [⟨word, bytes, now⟩]
  { d with merge := Sparse.put [] d.merge (arrayIdx arr) (l.filter fun e => e.bytes != 0xFF) }

/-- A write of a whole word: no entry of it and no poison is left. -/
def Dev.wordWrite (d : Dev) (arr : Array64K) (word : Nat) : Dev :=
  let l := Sparse.get [] d.merge (arrayIdx arr)
  { d with merge := Sparse.put [] d.merge (arrayIdx arr) (l.filter fun e => e.word != word)
           arrayPoison := d.arrayPoison.del (arrayWord (arrayIdx arr) word) }

/-- Is a word of an array stored poisoned? -/
def Dev.wordBad (d : Dev) (arr : Array64K) (word : Nat) : Bool := d.arrayPoison.has (arrayWord (arrayIdx arr) word)

/-- Entries that were allocated 16 core cycles ago retire. -/
def Dev.retireAged (d : Dev) : Dev :=
  let now := d.stamp
  { d with merge := Sparse.keys d.merge |>.foldl (fun m k =>
      Sparse.put [] m k ((Sparse.get [] m k).filter fun e => decide (e.since.cyclesTo now < 16))) d.merge }

/-- Every word of an array is written anew: nothing is pending, nothing poisoned. -/
def Dev.arrayFilled (d : Dev) (arr : Array64K) : Dev :=
  let a := arrayIdx arr
  { d with merge := Sparse.put [] d.merge a [], arrayPoison := d.arrayPoison.drop fun k => k / 2 ^ 32 == a }

/-! ### Counters (R439 to R441) -/

/-- Does channel identifier `c` lie within the scope `s`? A device scope covers every tier and channel of its member; the
reserved SCOPE 11, for which R19 gives no meaning, counts as a channel scope (DESIGN CHOICE, log entry 88). -/
def scopeCovers (s c : BitVec 16) : Bool :=
  let sc := (s.toNat >>> 10) % 4
  decide (s.toNat >>> 13 = c.toNat >>> 13) &&
    (sc == 0 || ((s.toNat >>> 12) % 2 == (c.toNat >>> 12) % 2 && (sc == 1 || s.toNat % 32 == c.toNat % 32)))

/-- Does a general counter count an event with these attributes? An enabled filter without a value is not met. -/
def Ctr.counts (c : Ctr) (num : Nat) (chid : Option (BitVec 16)) (t : Option TenantId) (k : Option Cls) : Bool :=
  c.sel.getLsbD 31 && c.sel.toNat % 4096 == num &&
  (!c.sel.getLsbD 30 || (match t with | some x => x.val == (c.sel.toNat >>> 22) % 32 | none => false)) &&
  (!c.sel.getLsbD 29 || (match k with | some x => clsCode x == (c.sel.toNat >>> 27) % 4 | none => false)) &&
  (!c.sel.getLsbD 21 || (match chid with | some x => scopeCovers (c.scope.setWidth 16) x | none => false))

/-- A counter with `n` more: 48 bits that wrap and set OVF. -/
def Ctr.add (c : Ctr) (n : Nat) : Ctr :=
  { c with val := (c.val + n) % 2 ^ 48, ovf := c.ovf || decide (2 ^ 48 ≤ c.val + n) }

/-- Counts `n` units of event `num` in every general counter that selects it (R439). -/
def Dev.countAs (d : Dev) (num n : Nat) (chid : Option (BitVec 16)) (t : Option TenantId) (k : Option Cls) : Dev :=
  if d.pmu.frozen then d
  else { d with pmu := { d.pmu with ctrs := d.pmu.ctrs.map fun (i, c) =>
    (i, if c.counts num chid t k then c.add n else c) } }

/-- Counts `n` units of an event that carries no scope, tenant or class. -/
def Dev.count (d : Dev) (num n : Nat) : Dev := d.countAs num n none none none

/-! ### Events (R471 to R476, R548) -/

/-- An event to raise: number, scope, tenant, class, locator and DETAIL; `unit` marks the loss of the last Press engine. -/
structure Ev where
  num : Nat
  chid : Option (BitVec 16) := none
  tenant : Option TenantId := none
  cls : Option Cls := none
  loc : BitVec 64 := 0
  detail : List Word := []
  unit : Bool := false
  deriving DecidableEq, Repr

/-- The events of class Advisory (R471, R470, R504, R526). -/
def advisoryEvents : List Nat :=
  [0x142, 0x102, 0x104, 0x105, 0x106, 0x110, 0x115, 0x132, 0x131, 0x134, 0x121, 0x136, 0x157, 0x162, 0x161, 0x165, 0x170,
   0x181, 0x190, 0x1A0, 0x1A1, 0x1B0, 0x1B3, 0x1B4, 0x1C0, 0x1C2, 0x1F1, 0x1F3, 0x1F5, 0x1D6, 0x1D3, 0x1E5, 0x1E6, 0x1E7,
   0x1F9, 0x1FA]

/-- The events of classes Contained and Unit loss (R471, R526). -/
def failureEvents : List Nat :=
  [0x141, 0x143, 0x144, 0x147, 0x146, 0x151, 0x152, 0x153, 0x160, 0x163, 0x164, 0x171, 0x1D4, 0x191, 0x192, 0x193, 0x1A2,
   0x1A7, 0x1B1, 0x1C1, 0x120, 0x1D1, 0x158, 0x1E1, 0x1E2, 0x1E4]

/-- The severity of an event (R471, R473). -/
def Ev.severity (e : Ev) : Nat :=
  if e.num = 0x150 ∨ e.num = 0x1F4 ∨ e.num = 0x1D0 then 3
  else if e.unit ∨ e.num ∈ failureEvents then 2
  else if e.num ∈ advisoryEvents then 1 else 0

/-- Words of DETAIL without trailing zero words (R548). -/
def trimWords (l : List Word) : List Word :=
  (l.take 8).foldr (fun w acc => if w = 0 ∧ acc = [] then [] else w :: acc) []

/-- A value of more than 32 bits as two words, low word first (R548). -/
def words2 (n : Nat) : List Word := [BitVec.ofNat 32 n, BitVec.ofNat 32 (n / 2 ^ 32)]

/-- A count as one word, saturating (R548). -/
def word1 (n : Nat) : Word := BitVec.ofNat 32 (satN 32 n)

/-- Free entries of the ring (R475). -/
def Ras.freeEntries (r : Ras) : Nat := 512 - (r.written - r.tail)

/-- Does a record of this device repeat the event in this pour: CODE, CHID, TNT, LOCATOR and DETAIL word 0 agree (R474)? -/
def sameEvent (r : EventRec) (pour : BitVec 64) (e : Ev) : Bool :=
  !r.fromMember && r.pour == pour && r.code == 0x4000 + e.num && r.chid == e.chid.getD 0 && r.tenant == e.tenant && r.locator == e.loc &&
    r.detail.headD 0 == (trimWords e.detail).headD 0

/-- Raises REPEAT of the first record that repeats the event. -/
def bumpRepeat (pour : BitVec 64) (e : Ev) : List EventRec → List EventRec
  | [] => []
  | r :: rs => if sameEvent r pour e then { r with repeats := satN 16 (r.repeats + 1) } :: rs else r :: bumpRepeat pour e rs

/-- Sets a bit of `RAS_ALERT_STS`, and its mirror in `THM_ALERT` for INLET and THERMAL (R478, R525). -/
def Dev.alert (d : Dev) (bit : Nat) : Dev :=
  let d := d.setReg Off.rasAlertSts (d.reg Off.rasAlertSts ||| BitVec.ofNat 32 (2 ^ bit))
  if bit = 5 ∨ bit = 6 then d.setReg Off.thmAlert (d.reg Off.thmAlert ||| BitVec.ofNat 32 (2 ^ bit)) else d

/-- The record of an event of now (R473). -/
def Dev.recordOf (d : Dev) (e : Ev) : EventRec :=
  { pour := d.clk.pour, cyc := d.clk.cyc.val, sev := e.severity, code := 0x4000 + e.num, chid := e.chid.getD 0,
    tenant := e.tenant, cls := e.cls, loss := false, fromMember := false, locator := e.loc, rseq := 0, repeats := 0,
    detail := trimWords e.detail }

/-- The 64-bit word of the event ring that holds a record's REPEAT (R473). -/
def ringWordOf (r : EventRec) : Nat := r.rseq % 512 * 8 + 3

/-- Puts one record at HEAD, under the next record sequence number. -/
def Dev.pushRec (d : Dev) (r : EventRec) : Dev :=
  let r := { r with loss := r.loss || d.ras.lossFlag, rseq := d.ras.written }
  let d := d.wordWrite .eventRing (ringWordOf r)
  let d := { d with ras := { d.ras with recs := (r :: d.ras.recs).take 512, written := d.ras.written + 1,
                                         lossFlag := false } }
  if d.fld Fld.rasAlertEn_minSev ≤ r.sev then d.alert 0 else d

/-- Writes a record, or drops it for lack of room (R475). -/
def Dev.writeRec (d : Dev) (r : EventRec) : Dev :=
  let d := if 0 < d.ras.dropped ∧ 64 < d.ras.freeEntries then
      let n := d.ras.dropped
      let d := ({ d with ras := { d.ras with dropped := 0 } }).count 0x1D3 1
      d.pushRec (d.recordOf { num := 0x1D3, detail := [word1 n] })
    else d
  let free := d.ras.freeEntries
  if (if 2 ≤ r.sev then 0 < free else 64 < free) then d.pushRec r
  else
    let d := { d with ras := { d.ras with dropped := d.ras.dropped + 1, lossFlag := true } }
    (d.bump Fld.rasRingSts_dropped 1).alert 4

/-- A locator leaves the device, which accepts it from now on (R21). -/
def Dev.issueLoc (d : Dev) (l : BitVec 64) : Dev := if l = 0 then d else { d with issued := d.issued.add l.toNat }

/-- Raises a ring event: counted, then written or coalesced with its repeat in this pour (R439, R474, R475). -/
def Dev.raise (d : Dev) (e : Ev) : Dev :=
  let d := (d.issueLoc e.loc).countAs e.num 1 e.chid e.tenant e.cls
  let d := if e.num = 0x102 then d.alert 7 else d
  match d.ras.recs.find? (fun r => sameEvent r d.clk.pour e) with
  | some r => ({ d with ras := { d.ras with recs := bumpRepeat d.clk.pour e d.ras.recs } }).mergeWrite .eventRing (ringWordOf r) 0x30
  | none => d.writeRec (d.recordOf e)

/-- Raises a ring event with only a number and DETAIL. -/
def Dev.raiseN (d : Dev) (num : Nat) (detail : List Word) : Dev := d.raise { num := num, detail := detail }

/-- Sends something out of the device. -/
def Dev.emit (d : Dev) (o : Out) : Dev := { d with out := o :: d.out }

/-! ### Modes (R37, R38) -/

/-- The direct transitions of the table of R38. -/
def modeEdge : Mode → Mode → Bool
  | _, .cold => true
  | .cold, .fill => true
  | .fill, .boot => true
  | .boot, .train => true
  | .boot, .maint => true
  | .train, .await => true
  | .train, .maint => true
  | .await, .serve => true
  | .await, .degraded => true
  | .serve, .degraded => true
  | .degraded, .serve => true
  | .serve, .drowse => true
  | .drowse, .serve => true
  | .drowse, .degraded => true
  | .await, .drain => true
  | .serve, .drain => true
  | .degraded, .drain => true
  | .drowse, .drain => true
  | .maint, .drain => true
  | .drain, .hibernate => true
  | .drain, .maint => true
  | .hibernate, .await => true
  | .hibernate, .serve => true
  | .hibernate, .degraded => true
  | .hibernate, .maint => true
  | .maint, .await => true
  | .maint, .train => true
  | .cold, .halt => false
  | .fill, .halt => false
  | .halt, .halt => false
  | _, .halt => true
  | _, _ => false

/-- The cause word of EVT_MODE_CHANGE for a change that an event caused (R548). -/
def causeOf (num : Nat) : Nat := 0x4000 + num

/-- The modes that a DRAIN or HIBERNATE holds: leaving them clears DRAINED (R43). -/
def Mode.drains (m : Mode) : Bool := m == .drain || m == .hibernate

/-- Changes the mode along an edge of R38 and records the change (R37); `discard` is DETAIL word 3. -/
def Dev.enter (d : Dev) (m : Mode) (cause discard : Nat) : Dev :=
  if modeEdge d.mode m then
    let old := d.mode
    let now := d.now
    let d := { d with mode := m, due := { d.due with modeAt := some now, memActive := d.due.memActive || m == Mode.await } }
    let d := d.setFld Fld.glbModeSts_prevMode old.code
    let d := if old.drains && !m.drains then d.setFlag Fld.glbModeSts_drained false else d
    let d := if m = .degraded then d.alert 1 else d
    d.raiseN 0x100 [word1 old.code, word1 m.code, word1 cause, word1 discard]
  else d

/-- The TARGET that waits for its boundary, 0 for none (R44). -/
def Dev.discarded (d : Dev) : Nat := match d.due.target with | some (t, _) => t | none => 0

/-- Takes the committed request. -/
def Dev.takeTarget (d : Dev) : Dev := { d with due := { d.due with target := none } }

/-- A mode change that originates in hardware: it beats a request committed for the same boundary, which its record names (R15,
R45). -/
def Dev.hwEnter (d : Dev) (m : Mode) (cause : Nat) : Dev :=
  if modeEdge d.mode m then d.takeTarget.enter m cause d.discarded else d

/-- Is the device in one of the modes that serve CXL.mem in full (R35)? -/
def Dev.serving (d : Dev) : Bool := d.mode == .serve || d.mode == .degraded || d.mode == .drowse

/-- Has a HALT cause been detected (R487)? -/
def Dev.halted (d : Dev) : Bool := d.ras.haltAt.isSome || d.mode == .halt

/-- Do the core domain's units run: any mode but COLD, and no HALT (R51)? -/
def Dev.live (d : Dev) : Bool := d.mode != .cold && !d.halted

/-! ### What a mode shows (R35, R36, R51, R55, R58) -/

/-- Media Status of the CXL Memory Device Status register on the host ports (R35), none while the links are down. -/
def Dev.mediaStatus (d : Dev) : Option Nat :=
  match d.mode with
  | .cold | .fill => none
  | .boot | .train => some 0
  | .maint => some (if d.flag Fld.glbModeSts_recovery then 2 else 3)
  | .halt => some 2
  | _ => some 1

/-- Memory_Active (R36). -/
def Dev.memoryActive (d : Dev) : Bool := d.due.memActive

/-- Memory_Active_Timeout (R36): 4 s. -/
def memoryActiveTimeout : BitVec 3 := 1

/-- What the host and Relay SerDes do in a mode (R51). -/
inductive SerDes where
  | off
  | powered
  | training
  | cxlIoOnly
  | up
  /-- L1 where the host permits it, else L0 idle -/
  | resting
  /-- viral, then idle -/
  | viral
  deriving DecidableEq, Repr

/-- The SerDes column of R51. -/
def Mode.serdes : Mode → SerDes
  | .cold => .off
  | .fill => .powered
  | .boot => .training
  | .train => .cxlIoOnly
  | .hibernate => .resting
  | .halt => .viral
  | _ => .up

/-- Do host ports keep CXL.mem request credits back (R55, R58, R60)? -/
def Dev.creditsHeld (d : Dev) : Bool := d.mode.drains

/-- Is far-channel pair `p` gated: DROWSE, both its channels asleep (R51, R162)? -/
def Dev.pairGated (d : Dev) (p : Nat) : Bool :=
  d.mode == .drowse && bitAt (d.fld Fld.glbModeSts_sleepCh) (2 * p) && bitAt (d.fld Fld.glbModeSts_sleepCh) (2 * p + 1)

/-! ### Cold reset (R61, R411) -/

/-- The registers that the always-on island holds: the Thermal and power and Inlet pages, and two alert bits (R411). -/
def islandRegs (m : Sparse Word) : Sparse Word :=
  let kept := m.filter (fun e => decide (0x310000 ≤ e.1) && decide (e.1 < 0x330000))
  Sparse.put 0 kept Off.rasAlertSts (Sparse.get 0 m Off.rasAlertSts &&& 0x60)

/-- A cold reset: the data and control planes lose everything; the island, the Canister and the fuses keep theirs (R61).
The number of DRBG draws runs on, so the next start draws another key (R3); locators stay valid (R21). -/
def Dev.cold (d : Dev) : Dev :=
  { Dev.init with
    part := d.part, pwr := { d.pwr with capBelow := none, capNext := 0 }, can := { d.can with storing := none },
    acc := { Dev.init.acc with posting := d.acc.posting }, fuses := d.fuses, out := d.out, wire := d.wire, free := d.free, cry := { Dev.init.cry with draws := d.cry.draws },
    issued := d.issued, regs := islandRegs d.regs }

/-! ### The frame of a command -/

/-- What no command can undo: the part stays the part, a blown fuse stays blown (R451), and the mode moves only along the
edges of R38. -/
def settle (old new : Dev) : Dev :=
  { new with
    part := old.part
    fuses := { new.fuses with lc := old.fuses.lc ||| new.fuses.lc, svn := max old.fuses.svn new.fuses.svn,
                              idDisable := old.fuses.idDisable || new.fuses.idDisable }
    mode := if new.mode = old.mode ∨ modeEdge old.mode new.mode then new.mode else old.mode }

/-- A command's effect on everything but the queue. -/
def State.on (s : State) (f : Dev → Dev) : Host.Outcome State Fault Refusal :=
  .next { s with dev := settle s.dev (f s.dev) }

end Sys2Proof.Machine
end

