-- ==== Sys2Proof/Machine/Geometry.lean ====
section
/-! DEFINITION. Sys2Proof/Machine/Geometry.lean: where a line lies: the figures of the part, the frames and sets of
Crema (R94 to R102), the far mapping (R72 to R77), the carve-out (R166, R167), the line key (R266) and the locators. -/

namespace Sys2Proof.Machine

/-! ### The part (R1, R94, R97) -/

/-- Frames in service: 62 GiB or 31 GiB. -/
def Dev.frameCount (d : Dev) : Nat := match d.part with | .xtp8640 => 16252928 | .xtp8632 => 8126464

/-- The first frame of the metadata reserve (R97). -/
def Dev.metaFrame (d : Dev) : Nat := match d.part with | .xtp8640 => 15728640 | .xtp8632 => 7864320

/-- Frames of one half of the reserve (R99). -/
def Dev.halfFrames (d : Dev) : Nat := match d.part with | .xtp8640 => 262144 | .xtp8632 => 131072

/-- The largest NEAR (R100). -/
def Dev.maxNear (d : Dev) : Nat := match d.part with | .xtp8640 => 32 | .xtp8632 => 16

/-- Crema capacity for near region and cache, in GiB (R102). -/
def Dev.cacheGib (d : Dev) : Nat := match d.part with | .xtp8640 => 60 | .xtp8632 => 30

/-- NEAR in force. -/
def Dev.near (d : Dev) : Nat := d.fld Fld.crmCfg_nearGib

/-- S for a size of the near region (R102). -/
def Dev.setsFor (d : Dev) (near : Nat) : Nat := (d.cacheGib - near) * 16384

/-- S in force. -/
def Dev.sets (d : Dev) : Nat := d.fld Fld.crmCfg_sets

/-! ### Crema (R96, R102) -/

/-- h of R102 for a page number. -/
def pageHash (p : Nat) : Nat :=
  let h := (p * 0x9E3779B1) % 2 ^ 32
  h ^^^ (h >>> 15)

/-- The set of a far page (R102). -/
def Dev.setOf (d : Dev) (p : Nat) : Nat := if d.sets = 0 then 0 else pageHash p % d.sets

/-- The tag of a far page (R102). -/
def Dev.tagOf (d : Dev) (p : Nat) : Nat := if d.sets = 0 then 0 else pageHash p / d.sets

/-- Undoes h = h xor (h >> 15). -/
def unxor15 (h : Nat) : Nat := (h ^^^ (h >>> 15)) ^^^ (h >>> 30)

/-- The inverse of the odd multiplier modulo 2^32. -/
def mulInv : Nat := 0x0E8B2F51

/-- The frame of a way (R102). -/
def Dev.frameOf (d : Dev) (set way : Nat) : Nat := 262144 * d.near + set * 16 + way

/-- The logical channel of a frame (R96). -/
def frameChan (g : Nat) : Nat := g % 31

/-- The frame position in its channel (R96). -/
def framePos (g : Nat) : Nat := g / 31

/-- The physical channel that backs a logical one, if any (R95, R124). -/
def Dev.physOf (d : Dev) (k : Nat) : Option (Fin 32) :=
  if d.flag (Fld.crmLmap_v k) then some (Fin.ofNat 32 (d.fld (Fld.crmLmap_phys k))) else none

/-- The physical channel of a frame; for an unbacked logical channel, the one it last had. -/
def Dev.framePhys (d : Dev) (g : Nat) : Nat := d.fld (Fld.crmLmap_phys (frameChan g))

/-! ### Far tier (R72 to R77) -/

/-- The table of interleave widths (R72). -/
def interleave : Nat → List Nat
  | 8 => [0, 1, 2, 3, 4, 5, 6, 7]
  | 4 => [0, 2, 4, 6]
  | 2 => [0, 4]
  | 1 => [0]
  | _ => []

/-- N in force. -/
def Dev.ileave (d : Dev) : Nat := d.fld Fld.farMapCtl_chSet

/-- log₂ of an interleave width. -/
def log2n : Nat → Nat
  | 8 => 3
  | 4 => 2
  | 2 => 1
  | _ => 0

/-- A far channel with its channel line index. -/
structure FarLoc where
  ch : Nat
  cli : Nat
  deriving DecidableEq, Repr

/-- The channel and channel line index of a far-tier OFFSET (R74). -/
def Dev.farLoc (d : Dev) (f : Nat) : FarLoc :=
  let w := log2n d.ileave
  let p := f >>> 12
  let sel := (p % 2 ^ w) ^^^ ((p >>> w) % 2 ^ w)
  ⟨(interleave d.ileave).getD sel 0, ((p >>> w) <<< 6) ||| ((f >>> 6) % 64)⟩

/-- The interleave position of a channel. -/
def Dev.chPos (d : Dev) (c : Nat) : Nat := (interleave d.ileave).findIdx (· == c)

/-- The page number of a channel's page: the inverse of R74. -/
def Dev.pageAt (d : Dev) (c cpg : Nat) : Nat :=
  let w := log2n d.ileave
  (cpg <<< w) ||| ((d.chPos c) ^^^ (cpg % 2 ^ w))

/-- Lines L of a channel (R166). -/
def Dev.chLines (d : Dev) (c : Nat) : Nat := d.fld (Fld.farChSts_raw c) * 2 ^ 27

/-- Data lines of a channel: D ÷ 64 B (R73). -/
def Dev.dataLines (d : Dev) (c : Nat) : Nat :=
  let n := d.ileave
  if n = 0 then 0
  else
    let share := 2 ^ 22 / n
    (11 * d.chLines c / 12) / share * share

/-- First line of the MAC region (R166). -/
def Dev.macBase (d : Dev) (c : Nat) : Nat := 235 * d.chLines c / 256

/-- First line of the counter region (R166). -/
def Dev.ctrBase (d : Dev) (c : Nat) : Nat := 251 * d.chLines c / 256

/-- First line of the tree region (R166). -/
def Dev.treeBase (d : Dev) (c : Nat) : Nat := 255 * d.chLines c / 256

/-- Where the MAC of data line i lies: line and byte (R167). -/
def Dev.macPlace (d : Dev) (c i : Nat) : Nat × Nat := (d.macBase c + i / 16, i % 16 * 4)

/-- The line of the counter block of data line i (R167). -/
def Dev.ctrPlace (d : Dev) (c i : Nat) : Nat := d.ctrBase c + i / 64

/-- Nodes of the stored levels of an 8-ary tree over `n` children (R167): levels continue until one holds at most 8. -/
def treeLevels : Nat → Nat → List Nat
  | 0, _ => []
  | fuel + 1, n =>
    let m := ceilDiv n 8
    if m ≤ 8 then [m] else m :: treeLevels fuel m

/-- The stored levels of a channel's data tree, level 1 first. -/
def Dev.dataTree (d : Dev) (c : Nat) : List Nat := treeLevels 12 (d.dataLines c / 64)

/-- The neighbour of a channel (R168). -/
def Dev.neighbour (d : Dev) (c : Nat) : Nat :=
  let l := interleave d.ileave
  if l.length = 0 then c else l.getD ((d.chPos c + 1) % l.length) 0

/-- The channel whose neighbour is `c`. -/
def Dev.served (d : Dev) (c : Nat) : Nat :=
  let l := interleave d.ileave
  if l.length = 0 then c else l.getD ((d.chPos c + l.length - 1) % l.length) 0

/-- Where copy 1 of a tree node lies: line index within the channel (R167), level from 1. -/
def Dev.nodeCopy1 (d : Dev) (c level index : Nat) : Nat :=
  d.treeBase c + ((d.dataTree c).take (level - 1)).sum + index

/-- Training lines at the top of the remainder (R160): 16 per logical rank. -/
def Dev.trainLines (d : Dev) (c : Nat) : Nat := 16 * 2 ^ d.fld (Fld.farChSts_lrank c)

/-- The first training line of a channel: they end where the MAC region begins (R160, R166). -/
def Dev.trainBase (d : Dev) (c : Nat) : Nat := d.macBase c - d.trainLines c

/-- Where copy 2 lies in the neighbour (R166): level 1 at the top of its tree region, higher levels at the top of its remainder, below the
training lines. Within each region the levels and nodes ascend (log entry 77). -/
def Dev.nodeCopy2 (d : Dev) (c level index : Nat) : Nat :=
  let n := d.neighbour c
  let t := d.dataTree c
  if level ≤ 1 then d.chLines n - t.headD 0 + index
  else d.trainBase n - (t.drop 1).sum + ((t.drop 1).take (level - 2)).sum + index

/-- Spare sectors of a channel (R253): the remainder below the training lines and the tree copies, in sectors of 8
lines. -/
def Dev.spareSectors (d : Dev) (c : Nat) : Nat :=
  (d.macBase c - d.dataLines c - ((d.dataTree (d.served c)).drop 1).sum - d.trainLines c) / 8

/-- The stored levels of a channel's spare tree over the counter blocks of its spare-sector area (R253). -/
def Dev.spareTree (d : Dev) (c : Nat) : List Nat := treeLevels 12 (ceilDiv (8 * d.spareSectors c) 64)

/-- The levels of a channel's data tree or spare tree. -/
def Dev.treeOf (d : Dev) (c : Nat) (spare : Bool) : List Nat := if spare then d.spareTree c else d.dataTree c

/-- Where the spare tree of a channel ends: below copy 2 of the level-1 nodes that lie at the top of its tree region (R253). -/
def Dev.spareTop (d : Dev) (c : Nat) : Nat := d.chLines c - (d.dataTree (d.served c)).headD 0

/-- Channel and line of both copies of a node. The levels of a spare tree go downward, copy 1 from the channel's spare top, copy 2 from
below the neighbour's own spare tree (R166 to R168, R253). -/
def Dev.nodePlaces (d : Dev) (c : Nat) (spare : Bool) (level index : Nat) : List (Nat × Nat) :=
  let n := d.neighbour c
  if spare then
    let down := ((d.spareTree c).take level).sum
    [(c, d.spareTop c - down + index), (n, d.spareTop n - (d.spareTree n).sum - down + index)]
  else [(c, d.nodeCopy1 c level index), (n, d.nodeCopy2 c level index)]

/-- Channel and line of each copy of a metadata line. -/
def Dev.metaPlaces (d : Dev) : MetaRef → List (Nat × Nat)
  | .mac c i => [(c, d.macBase c + i)]
  | .ctr c pg => [(c, d.ctrBase c + pg)]
  | .node c spare level index => d.nodePlaces c spare level index

/-- The nodes of the trees on a channel, as runs of lines: first line, length, the channel whose tree it is, spare tree or not, and level.
A channel holds copy 1 of its own trees and copy 2 of those of the channel it serves. -/
def Dev.nodeRuns (d : Dev) (c : Nat) : List (Nat × Nat × Nat × Bool × Nat) :=
  let runs := fun (o copy : Nat) (spare : Bool) => (d.treeOf o spare).zipIdx.map fun (e : Nat × Nat) =>
    (((d.nodePlaces o spare (e.2 + 1) 0).getD copy (0, 0)).2, e.1, o, spare, e.2 + 1)
  let s := d.served c
  runs c 0 false ++ runs c 0 true ++ runs s 1 false ++ runs s 1 true

/-- The metadata line that lies at a channel line index, none for data, spare-sector, training and unused lines. -/
def Dev.metaAt (d : Dev) (c cli : Nat) : Option MetaRef :=
  if d.macBase c ≤ cli ∧ cli < d.ctrBase c then some (.mac c (cli - d.macBase c))
  else if d.ctrBase c ≤ cli ∧ cli < d.treeBase c then some (.ctr c (cli - d.ctrBase c))
  else ((d.nodeRuns c).find? fun r => r.1 ≤ cli && cli < r.1 + r.2.1).map fun r => .node r.2.2.1 r.2.2.2.1 r.2.2.2.2 (cli - r.1)

/-- Is a line one of the training lines (R160)? -/
def Dev.trainLine (d : Dev) (c cli : Nat) : Bool := decide (d.trainBase c ≤ cli ∧ cli < d.macBase c)

/-- The node that holds a metadata line's tag (R213): none for a MAC line, and none where the root on die does. -/
def Dev.metaParent (d : Dev) : MetaRef → Option MetaRef
  | .mac _ _ => none
  | .ctr c pg =>
    let n := d.dataLines c / 64
    some (if pg < n then .node c false 1 (pg / 8) else .node c true 1 ((pg - n) / 8))
  | .node c spare level index => if level < (d.treeOf c spare).length then some (.node c spare (level + 1) (index / 8)) else none

/-- Stored pages the rekey walks: the data pages and the spare-sector area (R225). -/
def Dev.storedPages (d : Dev) (c : Nat) : Nat := (d.dataLines c + 8 * d.spareSectors c) / 64

/-- The fields of a channel line index (R75, R76). -/
structure FarFields where
  sc : Nat
  bg : Nat
  bank : Nat
  col : Nat
  rank : Nat
  row : Nat
  deriving DecidableEq, Repr

/-- Cuts the low `w` bits off a number. -/
def cut (n w : Nat) : Nat × Nat := (n % 2 ^ w, n >>> w)

/-- The fields under a mapping order, `bg` as sent to the DIMM (R75 to R77). -/
def Dev.farFields (d : Dev) (c cli : Nat) : FarFields :=
  let colW := if d.fld (Fld.farChSts_width c) = 0 then 7 else 6
  let rankW := d.fld (Fld.farChSts_lrank c)
  let (sc, r) := cut cli 1
  let f : FarFields :=
    match d.fld Fld.farMapCtl_ord with
    | 1 =>
      let (bg, r) := cut r 3; let (bank, r) := cut r 2; let (rank, r) := cut r rankW; let (col, row) := cut r colW
      ⟨sc, bg, bank, col, rank, row⟩
    | 3 =>
      let (rank, r) := cut r rankW; let (bg, r) := cut r 3; let (bank, r) := cut r 2; let (col, row) := cut r colW
      ⟨sc, bg, bank, col, rank, row⟩
    | _ =>
      let (bg, r) := cut r 3; let (bank, r) := cut r 2; let (col, r) := cut r colW; let (rank, row) := cut r rankW
      ⟨sc, bg, bank, col, rank, row⟩
  if d.fld Fld.farMapCtl_ord = 2 then f else { f with bg := f.bg ^^^ (f.row % 8) }

/-- The bank index within a channel: rank, bank group and bank of a subchannel. -/
def FarFields.bankIdx (f : FarFields) : Nat := ((f.sc * 16 + f.rank) * 8 + f.bg) * 4 + f.bank

/-- What a DDR5 command names of a far line (R77): the DIMM slot, physical rank and 3DS chip ID that the logical rank splits into, and the
column address. -/
structure DramAddr where
  slot : Nat
  physRank : Nat
  chip : Nat
  bg : Nat
  bank : Nat
  row : Nat
  column : Nat
  deriving DecidableEq, Repr

/-- The DDR5 address of a line of a channel whose modules are `height` high with `ranks` physical ranks each (R77). -/
def FarFields.dram (f : FarFields) (height ranks : Nat) : DramAddr :=
  let (chip, r) := cut f.rank (log2n height)
  let (physRank, slot) := cut r (log2n ranks)
  ⟨slot, physRank, chip, f.bg, f.bank, f.row, 16 * f.col⟩

/-- The DDR5 address of a far line, by the modules in use: all of a channel are alike (R72). -/
def Dev.dramAddr (d : Dev) (c cli : Nat) : DramAddr :=
  let m := (vget FarChan.reset d.farCh c).dimms.headD ⟨true, false, 0, false, false, true, 1, 1, 0, 0, 0, 0, 0⟩
  (d.farFields c cli).dram m.height m.ranks

/-- Puts the fields back into a channel line index: the inverse of `farFields`. -/
def Dev.cliOf (d : Dev) (c : Nat) (f : FarFields) : Nat :=
  let colW := if d.fld (Fld.farChSts_width c) = 0 then 7 else 6
  let rankW := d.fld (Fld.farChSts_lrank c)
  let bg := if d.fld Fld.farMapCtl_ord = 2 then f.bg else f.bg ^^^ (f.row % 8)
  let join := fun (w v rest : Nat) => v % 2 ^ w + 2 ^ w * rest
  join 1 f.sc (match d.fld Fld.farMapCtl_ord with
    | 1 => join 3 bg (join 2 f.bank (join rankW f.rank (join colW f.col f.row)))
    | 3 => join rankW f.rank (join 3 bg (join 2 f.bank (join colW f.col f.row)))
    | _ => join 3 bg (join 2 f.bank (join colW f.col (join rankW f.rank f.row))))

/-- Lines of a row on one subchannel and rank: 128 for x4, 64 for x8 (R165). -/
def Dev.rowLines (d : Dev) (c : Nat) : Nat := if d.fld (Fld.farChSts_width c) = 0 then 128 else 64

/-- The fields that a bank index and a row name, at a column. -/
def fieldsOf (bankIdx row col : Nat) : FarFields :=
  ⟨bankIdx / 512, bankIdx / 4 % 8, bankIdx % 4, col, bankIdx / 32 % 16, row⟩

/-! ### The network (R313, R320, R324) -/

/-- A route of a bank (R320): the default set's where none is listed. -/
def routeIn (bank : Sparse Nat) (net src dst : Nat) : Nat :=
  Sparse.get (Config.defaultRoute net src dst).toNat bank ((net * 36 + src) * 36 + dst)

/-- The router of a port's upper attachment, and of a home slice (R313). -/
def portRouter (p : Nat) : Nat := if p = 0 then 12 else 17
def sliceRouter (s : Nat) : Nat := 6 * (s / 4 + 1) + (s % 4 + 1)

/-- The quadrant of a physical Crema channel (R313). -/
def quadrantOf (c : Nat) : Nat := 2 * (c / 2 / 4 / 2) + c / 2 % 4 / 2

/-- State of a domain: 0 ON, 1 FENCING, 2 OFF, 3 POWERING (R328). -/
def Dev.domState (d : Dev) (n : Nat) : Nat := fieldOf (d.reg Off.nocSts) (2 * n) 2

/-! ### Keys -/

/-- The key of a far line in `Mem`: channel and channel line index. -/
def farKey (c cli : Nat) : Nat := c * 2 ^ 34 + cli

/-- The key of a stored page. -/
def pageKey (c pg : Nat) : Nat := c * 2 ^ 28 + pg

/-- The key of a Crema line: global line number (R227). -/
def cremaKey (g l : Nat) : Nat := g * 64 + l

/-- MA bits (R67). -/
def maMember (ma : Nat) : Nat := (ma >>> 45) % 8
def maFar (ma : Nat) : Bool := (ma >>> 44) % 2 == 1
def maOff (ma : Nat) : Nat := ma % 2 ^ 44

/-- An MA of its fields. -/
def mkMa (member : Nat) (far : Bool) (off : Nat) : Nat := member % 8 * 2 ^ 45 + bitOf far * 2 ^ 44 + off % 2 ^ 44

/-- The line key k = ma[44:6] (R266). -/
def lineKey (ma : Nat) : Nat := (ma >>> 6) % 2 ^ 39

/-- The slice of a line key (R266). -/
def sliceOf (k : Nat) : Nat := (k % 16) ^^^ ((k >>> 10) % 16) ^^^ ((k >>> 20) % 16) ^^^ ((k >>> 30) % 16)

/-- The directory set of a line key (R266). -/
def dirSet (k : Nat) : Nat := ((k >>> 4) % 2 ^ 14) ^^^ ((k >>> 18) % 2 ^ 14)

/-- The directory tag of a line key (R266). -/
def dirTag (k : Nat) : Nat := k >>> 18

/-- The line key that tag, set and slice give back (R266). -/
def keyOf (slice set tag : Nat) : Nat :=
  let mid := set ^^^ (tag % 2 ^ 14)
  let hi := tag * 2 ^ 18 + mid * 16
  hi + (slice ^^^ ((hi >>> 10) % 16) ^^^ ((hi >>> 20) % 16) ^^^ ((hi >>> 30) % 16))

/-! ### Locators (R21). The device alone reads them; this is the model's layout (DESIGN CHOICE, log entry 12): bits
[63:60] kind, [59:57] chain member, [56:52] channel, then the place. -/

/-- A locator of its parts. -/
def mkLoc (kind member chan hi lo : Nat) : BitVec 64 :=
  BitVec.ofNat 64 (kind * 2 ^ 60 + member % 8 * 2 ^ 57 + chan % 32 * 2 ^ 52 + hi * 2 ^ 40 + lo)

/-- The row locator of a Crema line: pseudo-channel, bank with its stack ID, row. -/
def cremaRowLoc (member phys pc bank row : Nat) : BitVec 64 := mkLoc 1 member phys (pc * 2 ^ 11 + bank) row

/-- The row locator of a far line. -/
def farRowLoc (member c : Nat) (f : FarFields) : BitVec 64 := mkLoc 2 member c f.bankIdx f.row

/-- The bank locator of a far bank. -/
def farBankLoc (member c bank : Nat) : BitVec 64 := mkLoc 3 member c bank 0

/-- The locator of a Crema column group: channel, pseudo-channel, die, column group. -/
def cremaColLoc (member phys pc die col : Nat) : BitVec 64 := mkLoc 4 member phys (pc * 2 ^ 11 + die) col

/-- The locator of a word of an on-die array. -/
def arrayLoc (member arr word : Nat) : BitVec 64 := mkLoc 6 member arr 0 word

/-- Locator parts. -/
def locKind (l : BitVec 64) : Nat := l.toNat >>> 60
def locMember (l : BitVec 64) : Nat := (l.toNat >>> 57) % 8
def locChan (l : BitVec 64) : Nat := (l.toNat >>> 52) % 32
def locPc (l : BitVec 64) : Nat := (l.toNat >>> 51) % 2
def locHi (l : BitVec 64) : Nat := (l.toNat >>> 40) % 2 ^ 11
def locLo (l : BitVec 64) : Nat := l.toNat % 2 ^ 40

/-- Bank groups of a pseudo-channel (R129), and its banks: stack IDs × 4 bank groups × 4 banks (R94). -/
def Dev.bankGroups (d : Dev) : Nat := match d.part with | .xtp8640 => 16 | .xtp8632 => 8
def Dev.cremaBanks (d : Dev) : Nat := 4 * d.bankGroups

/-- The bank and row of a Crema line: the fixed function that R96 names. -/
def Dev.cremaBankOf (d : Dev) (g l : Nat) : Nat := (Config.cremaBank (framePos g) l).toNat % d.cremaBanks
def cremaRowOf (g l : Nat) : Nat := (Config.cremaRow (framePos g) l).toNat

/-- The row locator of a line of a Crema frame. -/
def Dev.cremaLoc (d : Dev) (g l : Nat) : BitVec 64 :=
  cremaRowLoc d.chainId (d.framePhys g) (l % 2) (d.cremaBankOf g l) (cremaRowOf g l)

/-- The row locator of a far line. -/
def Dev.farLocator (d : Dev) (c cli : Nat) : BitVec 64 := farRowLoc d.chainId c (d.farFields c cli)

end Sys2Proof.Machine
end

