-- ==== Sys2Proof/Machine/Address.lean ====
section
/-! DEFINITION. Sys2Proof/Machine/Address.lean: from a host physical address to a media address and back (R64 to R71,
R338, R551), and the poison lists (R343, R344). -/

namespace Sys2Proof.Machine

/-! ### Logical devices and tenants -/

/-- Position of an LD in the table of LDs. -/
def ldIdx (p : PortId) (ld : Nat) : Nat := portIdx p * 16 + ld

/-- An LD's record. An LD-ID above 15 has none (R336). -/
def Dev.ldOf (d : Dev) (p : PortId) (ld : Nat) : LdState :=
  if ld < 16 then vget LdState.reset d.lds (ldIdx p ld) else LdState.reset

/-- Changes an LD's record. -/
def Dev.modLd (d : Dev) (p : PortId) (ld : Nat) (f : LdState → LdState) : Dev :=
  if ld < 16 then { d with lds := vmod d.lds (ldIdx p ld) f } else d

/-- Changes a tenant's record. -/
def Dev.modTenant (d : Dev) (t : TenantId) (f : Tenant → Tenant) : Dev :=
  { d with tenants := vmod d.tenants t.val f }

/-- A tenant's record. -/
def Dev.tenant (d : Dev) (t : TenantId) : Tenant := d.tenants[t]

/-- All tenants. -/
def allTenants : List TenantId := List.finRange 32

/-- The port and LD a tenant is bound to. -/
def Dev.tntPort (d : Dev) (t : TenantId) : PortId := portOf (d.fld (Fld.tntCtl_port t.val))
def Dev.tntLd (d : Dev) (t : TenantId) : Nat := d.fld (Fld.tntCtl_ld t.val)

/-- STATE of a tenant (R80): 0 FREE to 4 SANITISING. -/
def Dev.tntState (d : Dev) (t : TenantId) : Nat := d.fld (Fld.tntSts_state t.val)

/-- The tenant that an LD is bound to (R79). -/
def Dev.tenantOf (d : Dev) (p : PortId) (ld : Nat) : Option TenantId :=
  allTenants.find? fun t => d.flag (Fld.tntCtl_en t.val) && d.tntPort t == p && d.tntLd t == ld

/-- R336's layout of port and LD in one DETAIL word. -/
def ldWord (p : PortId) (ld : Nat) : Word := BitVec.ofNat 32 (portIdx p * 2 ^ 16 + ld % 2 ^ 16)

/-- Role of a port: 0 off, 1 CXL-host, 2 Relay-up, 3 Relay-down (R351). -/
def Dev.role (d : Dev) (p : PortId) : Nat := d.fld (Fld.prtLinkSts_role (portIdx p))

/-- Is the port a CXL-host port? -/
def Dev.hostPort (d : Dev) (p : PortId) : Bool := d.role p == 1

/-- Relay-up and Relay-down (R329). -/
def Dev.relayUp (d : Dev) : Option PortId := [PortId.a, .b].find? fun p => d.role p == 2
def Dev.relayDown (d : Dev) : Option PortId := [PortId.a, .b].find? fun p => d.role p == 3

/-- The chain head (R329). -/
def Dev.isHead (d : Dev) : Bool := d.hostPort .a && d.relayDown.isSome

/-- A chain member or tail. -/
def Dev.isMember (d : Dev) : Bool := d.relayUp.isSome

/-! ### HDM decoders (R65, R338, R551) -/

/-- DPA where decoder `i`'s range begins: the decoders before it follow one another, each after its skip. -/
def decStart (l : LdState) (i : Nat) : Nat :=
  (List.range i).foldl (fun a j =>
    match vget none l.dec j with
    | some h => a + h.cfg.skip + h.cfg.size / max h.cfg.ways 1
    | none => a) 0 + (match vget none l.dec i with | some h => h.cfg.skip | none => 0)

/-- A decoded address: decoder, interleave position, DPA. -/
structure Decoded where
  dec : Nat
  pos : Nat
  dpa : Nat
  deriving DecidableEq, Repr

/-- What one decoder makes of an HPA. -/
def decodeBy (l : LdState) (i : Nat) (hpa : Nat) : Option Decoded :=
  match vget none l.dec i with
  | some h =>
    let c := h.cfg
    if c.base ≤ hpa ∧ hpa < c.base + c.size then
      let off := hpa - c.base
      let pos := off / c.gran % max c.ways 1
      match h.position with
      | some p => if p = pos then
          some ⟨i, pos, decStart l i + off / (c.gran * max c.ways 1) * c.gran + off % c.gran⟩ else none
      | none => some ⟨i, pos, decStart l i + off / (c.gran * max c.ways 1) * c.gran + off % c.gran⟩
    else none
  | none => none

/-- HDM decode of an LD. -/
def hdmDecode (l : LdState) (hpa : Nat) : Option Decoded := (List.range 8).findSome? fun i => decodeBy l i hpa

/-- The position a decoder takes from the first request it maps (R551). -/
def Dev.keepPosition (d : Dev) (p : PortId) (ld : Nat) (x : Decoded) : Dev :=
  d.modLd p ld fun l => { l with dec := vmod l.dec x.dec fun o => o.map fun h => { h with position := some (h.position.getD x.pos) } }

/-- The decoder of an LD that maps a DPA, with the HPA where its position is known (R551). -/
def hpaOf (l : LdState) (dpa : Nat) : Option (Hdm × Nat) :=
  (List.range 8).findSome? fun i =>
    match vget none l.dec i with
    | some h =>
      let c := h.cfg
      let s := decStart l i
      if s ≤ dpa ∧ dpa < s + c.size / max c.ways 1 then
        let o := dpa - s
        some (h, c.base + (o / c.gran * max c.ways 1 + h.position.getD 0) * c.gran + o % c.gran)
      else none
    | none => none

/-- Does a committed decoder of the LD map the DPA as HDM-DB? -/
def isDb (l : LdState) (dpa : Nat) : Bool := match hpaOf l dpa with | some (h, _) => h.cfg.bi | none => false

/-- Has any LD of the port a committed decoder? -/
def Dev.anyDecoder (d : Dev) (p : PortId) : Bool :=
  (List.range 16).any fun ld => (List.range 8).any fun i => (vget none (d.ldOf p ld).dec i).isSome

/-! ### Extents (R66, R69, R70) -/

/-- Fields of an extent entry (R69). -/
def extV (w : Word) : Bool := w.getLsbD 31
def extC (w : Word) : Bool := w.getLsbD 30
def extPend (w : Word) : Bool := w.getLsbD 29
def extMember (w : Word) : Nat := fieldOf w 17 3
def extFar (w : Word) : Bool := w.getLsbD 16
def extBlock (w : Word) : Nat := fieldOf w 0 16

/-- An extent entry of its fields. -/
def mkExt (v c pend : Bool) (member : Nat) (far : Bool) (block : Nat) : Word :=
  BitVec.ofNat 32 (bitOf v * 2 ^ 31 + bitOf c * 2 ^ 30 + bitOf pend * 2 ^ 29 + member % 8 * 2 ^ 17 + bitOf far * 2 ^ 16 +
    block % 2 ^ 16)

/-- Base and length of a tenant's range (R70). -/
def Dev.extBase (d : Dev) (t : TenantId) : Nat := d.fld (Fld.tntExtBase_base t.val)
def Dev.extLen (d : Dev) (t : TenantId) : Nat := d.fld (Fld.tntExtLen_len t.val)

/-- The word of an extent entry. -/
def Dev.extAt (d : Dev) (i : Nat) : Word := Sparse.get 0 d.ext i

/-- Writes an extent entry, 32 bits of its word (R180). -/
def Dev.setExt (d : Dev) (i : Nat) (w : Word) : Dev :=
  ({ d with ext := Sparse.put 0 d.ext i w }).mergeWrite .extentTable (i / 2) (if i % 2 = 0 then 0x0F else 0xF0)

/-- The entry of a tenant's DPA: outside the range it maps nothing. -/
def Dev.extOfDpa (d : Dev) (t : TenantId) (dpa : Nat) : Word :=
  if dpa >>> 28 < d.extLen t then d.extAt (d.extBase t + (dpa >>> 28)) else 0

/-- The MA of a DPA under an entry (R69). -/
def maOf (w : Word) (dpa : Nat) : Nat := mkMa (extMember w) (extFar w) (extBlock w * 2 ^ 28 + dpa % 2 ^ 28)

/-- The partition of a DPA block (R66): 0 near, 1 static far, 2 + r for region r. -/
def Dev.partition (d : Dev) (t : TenantId) (block : Nat) : Nat :=
  let near := d.fld (Fld.tntPart_nearBlk t.val)
  let st := d.fld (Fld.tntPart_staticBlk t.val)
  if block < near then 0 else if block < near + st then 1
  else
    let rs := (d.tenant t).regions
    let step := fun (acc : Nat × Option Nat) (r : Nat) =>
      let len := (vget ⟨0, 0, 0⟩ rs r).len
      match acc.2 with
      | some _ => acc
      | none => if block < acc.1 + len then (acc.1, some r) else (acc.1 + len, none)
    match ((List.range 8).foldl step (near + st, none)).2 with
    | some r => 2 + r
    | none => 1

/-- First DPA block of a region (R66). -/
def Dev.regionStart (d : Dev) (t : TenantId) (r : Nat) : Nat :=
  d.fld (Fld.tntPart_nearBlk t.val) + d.fld (Fld.tntPart_staticBlk t.val) +
    ((List.range r).map fun i => (vget ⟨0, 0, 0⟩ (d.tenant t).regions i).len).sum

/-- The class of a partition (R291). -/
def Dev.partClass (d : Dev) (t : TenantId) (part : Nat) : Cls :=
  clsOf (match part with
    | 0 => d.fld (Fld.svcTntClass_near t.val)
    | 1 => d.fld (Fld.svcTntClass_static t.val)
    | r + 2 => d.fld (Fld.svcTntClass_dcr t.val r))

/-- The tenant and DPA block that an extent entry serves. -/
def Dev.ownerOfEntry (d : Dev) (i : Nat) : Option (TenantId × Nat) :=
  (allTenants.find? fun t => d.flag (Fld.tntCtl_en t.val) && d.extBase t ≤ i && i < d.extBase t + d.extLen t).map
    fun t => (t, i - d.extBase t)

/-- Who reaches a media address with the compressed attribute `comp`: tenant and DPA. -/
def Dev.ownerOf (d : Dev) (ma : Nat) (comp : Bool) : Option (TenantId × Nat) :=
  d.ext.findSome? fun (i, w) =>
    if extV w && extC w == comp && extMember w == maMember ma && extFar w == maFar ma && extBlock w == maOff ma >>> 28 then
      (d.ownerOfEntry i).map fun (t, b) => (t, b * 2 ^ 28 + ma % 2 ^ 28)
    else none

/-- Is a media block of this member held by an extent, offered ones included? -/
def Dev.blockHeld (d : Dev) (far : Bool) (block : Nat) : Bool :=
  d.ext.any fun e => (extV e.2 || extPend e.2) && extMember e.2 == d.chainId && extFar e.2 == far && extBlock e.2 == block

/-! ### Poison lists (R343, R344) -/

/-- Does a list name the line? -/
def listed (l : List PoisonRec) (line : Nat) : Bool := l.any fun r => r.first ≤ line && line < r.first + r.len

/-- Puts one line into a list in DPA order, merged into an adjacent record of the same source. -/
def addRec : List PoisonRec → Nat → PoisonSrc → List PoisonRec
  | [], line, src => [⟨line, 1, src⟩]
  | r :: rs, line, src =>
    if r.first + r.len = line ∧ r.src = src then
      match rs with
      | r' :: rs' => if r'.first = line + 1 ∧ r'.src = src then ⟨r.first, r.len + 1 + r'.len, src⟩ :: rs'
                     else ⟨r.first, r.len + 1, src⟩ :: rs
      | [] => [⟨r.first, r.len + 1, src⟩]
    else if line + 1 = r.first ∧ r.src = src then ⟨line, r.len + 1, src⟩ :: rs
    else if line < r.first then ⟨line, 1, src⟩ :: r :: rs
    else r :: addRec rs line src

/-- Takes one line out; the record that holds it may split in two. -/
def delRec : List PoisonRec → Nat → List PoisonRec
  | [], _ => []
  | r :: rs, line =>
    if r.first ≤ line ∧ line < r.first + r.len then
      (if r.first < line then [⟨r.first, line - r.first, r.src⟩] else []) ++
      (if line + 1 < r.first + r.len then [⟨line + 1, r.first + r.len - (line + 1), r.src⟩] else []) ++ rs
    else r :: delRec rs line

/-- Drops the upper part of a split that finds the list full. -/
def dropUpper (line : Nat) (l : List PoisonRec) : List PoisonRec := l.filter fun r => r.first != line + 1

/-- Sets the overflow flag of an LD (R344). -/
def Dev.poisonOverflow (d : Dev) (p : PortId) (ld : Nat) : Dev :=
  if (d.ldOf p ld).poisonOvf then d
  else
    let d := d.modLd p ld fun l => { l with poisonOvf := true, ovfAt := some d.now }
    let d := d.setBit (Fld.prtPoisonOvf_ovf (portIdx p)) ld true
    d.raise { num := 0x147, tenant := d.tenantOf p ld }

/-- Adds a line to an LD's list, or overflows it. -/
def Dev.listPoison (d : Dev) (p : PortId) (ld line : Nat) (src : PoisonSrc) : Dev :=
  let l := (d.ldOf p ld).poison
  if listed l line then d
  else
    let l' := addRec l line src
    if l'.length ≤ 1024 then d.modLd p ld fun s => { s with poison := l' } else d.poisonOverflow p ld

/-- Takes a line off an LD's list (R189, R344). -/
def Dev.unlistPoison (d : Dev) (p : PortId) (ld line : Nat) : Dev :=
  let l := (d.ldOf p ld).poison
  if listed l line then
    let l' := delRec l line
    if l'.length ≤ 1024 then d.modLd p ld fun s => { s with poison := l' }
    else (d.modLd p ld fun s => { s with poison := dropUpper line l' }).poisonOverflow p ld
  else d

/-- The first storing of poison in a line (R188): recorded, and listed when the line lies in an extent, whose tenant and DPA are
`owner`. -/
def Dev.poisonFound (d : Dev) (owner : Option (TenantId × Nat)) (chid : BitVec 16) (loc : BitVec 64) (src : PoisonSrc) : Dev :=
  match owner with
  | some (t, dpa) =>
    let d := d.raise { num := 0x144, chid := some chid, tenant := some t, loc := loc,
                       detail := ldWord (d.tntPort t) (d.tntLd t) :: words2 dpa }
    d.listPoison (d.tntPort t) (d.tntLd t) (dpa / 64) src
  | none => d.raise { num := 0x144, chid := some chid, loc := loc }

/-- The first storing of poison in the line of a media address. -/
def Dev.firstPoison (d : Dev) (ma : Nat) (comp : Bool) (chid : BitVec 16) (loc : BitVec 64) (src : PoisonSrc) : Dev :=
  d.poisonFound (d.ownerOf ma comp) chid loc src

/-- Poison leaves a line (R189). -/
def Dev.poisonGone (d : Dev) (ma : Nat) (comp : Bool) : Dev :=
  match d.ownerOf ma comp with
  | some (t, dpa) => d.unlistPoison (d.tntPort t) (d.tntLd t) (dpa / 64)
  | none => d

end Sys2Proof.Machine
end

