-- ==== Sys2Proof/Machine/Flit.lean ====
section
/-! DEFINITION. Sys2Proof/Machine/Flit.lean: the 256 B Relay flit: its bytes and CRC (R356), the fields of a received flit (R357,
R358), the header slot (R359), the ROLL message (R373), and AES-256-GCM over a flit (R355, R362). Bytes stand in ascending order,
the low byte of a number first (log entry 84). -/

namespace Sys2Proof

/-- SEQ of the header (R356). -/
def Flit.seq (f : Flit) : Nat := f.header.toNat % 2 ^ 12

/-- TYPE of the header (R356). -/
def Flit.type (f : Flit) : Nat := f.header.toNat / 2 ^ 12

/-- ACKSEQ, CVC and CCUM of PIGGY (R358). -/
def Flit.ackSeq (f : Flit) : Nat := f.piggy.toNat % 2 ^ 12
def Flit.cvc (f : Flit) : Nat := f.piggy.toNat / 2 ^ 12 % 8
def Flit.ccum (f : Flit) : Nat := f.piggy.toNat / 2 ^ 16

/-- The control counter of an unsequenced flit: payload bytes 0 to 7 (R357). -/
def Flit.ctrl (f : Flit) : Nat := (f.payload.getD 0 0).toNat % 2 ^ 64

/-- Are TYPE and every opcode assigned (R357, R360)? -/
def Flit.typeOk (f : Flit) : Bool := decide (1 ≤ f.type) && decide (f.type ≤ 7) && f.opcOk

end Sys2Proof

namespace Sys2Proof.Machine

/-- The 16 bytes of a slot. -/
def slotBytes (x : BitVec 128) : Payload := (List.range 16).map fun i => (x >>> (8 * i)).setWidth 8

/-- The slot that bytes spell; missing bytes are zero. -/
def slotOf (p : Payload) : BitVec 128 := (List.range 16).foldl (fun acc i => acc ||| ((p.getD i 0).setWidth 128) <<< (8 * i)) 0

/-- Bytes as slots of 16. -/
def slotsOf (p : Payload) : List (BitVec 128) :=
  (List.range ((p.length + 15) / 16)).map fun i => slotOf ((p.drop (16 * i)).take 16)

/-- Bytes 0 to 241 of a flit: header, payload, TAG, PIGGY (R356). -/
def flitBody (header : BitVec 16) (payload : Payload) (tag : BitVec 96) (piggy : BitVec 32) : Payload :=
  leBytes 2 header.toNat ++ payload ++ leBytes 12 tag.toNat ++ leBytes 4 piggy.toNat

/-- A flit's 256 bytes: body, CRC-64 of it, FEC over both (R356). -/
def flitWire (header : BitVec 16) (payload : Payload) (tag : BitVec 96) (piggy : BitVec 32) : Payload :=
  let body := flitBody header payload tag piggy
  let crc := body ++ leBytes 8 (crc64 body).toNat
  crc ++ leBytes 6 (Config.flitFec crc).toNat

/-- The bytes under a received flit's CRC. -/
def flitBytes (f : Flit) : Payload := flitBody f.header (f.payload.flatMap slotBytes) f.tag f.piggy

end Sys2Proof.Machine

namespace Sys2Proof

/-- Does the CRC match (R356, R361)? -/
def Flit.crcOk (f : Flit) : Bool := f.crc == Machine.crc64 (Machine.flitBytes f)

end Sys2Proof

namespace Sys2Proof.Machine

/-! ### AES-256-GCM (R362) -/

/-- The IV (R362): direction (1 upstream), kind (1 unsequenced), extended sequence number or control counter. -/
def flitIv (upstream unsequenced : Bool) (n : Nat) : BitVec 96 :=
  BitVec.ofNat 96 (bitOf upstream * 2 ^ 95 + bitOf unsequenced * 2 ^ 94 + n % 2 ^ 64)

/-- Counter block `i` of an IV, `i` below 256: the IV, and a big-endian counter in bytes 12 to 15. -/
def gcmCounter (iv : BitVec 96) (i : Nat) : BitVec 128 := BitVec.ofNat 128 (iv.toNat + i * 2 ^ 120)

/-- The ciphertext of bytes. -/
def gcmCipher (key : BitVec 256) (iv : BitVec 96) (p : Payload) : Payload :=
  let stream := (List.range ((p.length + 15) / 16)).flatMap fun i => slotBytes (Config.aes256 key (gcmCounter iv (i + 2)))
  List.zipWith (· ^^^ ·) p stream

/-- The tag over authenticated bytes and ciphertext, cut to its first 96 bits. -/
def gcmTag (key : BitVec 256) (iv : BitVec 96) (aad cipher : Payload) : BitVec 96 :=
  let lens := slotOf ((leBytes 8 (8 * aad.length)).reverse ++ (leBytes 8 (8 * cipher.length)).reverse)
  (Config.ghash (Config.aes256 key 0) (slotsOf aad ++ slotsOf cipher ++ [lens]) ^^^ Config.aes256 key (gcmCounter iv 1)).setWidth 96

/-- A flit under a link key; without one (AUTH) in clear with a zero TAG (R354). The authenticated data are bytes 0, 1, PIGGY, and the
control counter of an unsequenced flit, which stays clear. -/
def sealFlit (key : Option (BitVec 256)) (upstream unsequenced : Bool) (n : Nat) (header : BitVec 16) (payload : Payload)
    (piggy : BitVec 32) : Payload :=
  match key with
  | none => flitWire header payload 0 piggy
  | some k =>
    let iv := flitIv upstream unsequenced n
    let clear := payload.take (if unsequenced then 8 else 0)
    let cipher := gcmCipher k iv (payload.drop clear.length)
    flitWire header (clear ++ cipher) (gcmTag k iv (leBytes 2 header.toNat ++ leBytes 4 piggy.toNat ++ clear) cipher) piggy

/-- A link key of the upstream end (R355): the KDF under its key seed, by direction and key epoch. -/
def relayKey (draw rekeys epoch : Nat) (upstream : Bool) : BitVec 256 :=
  BitVec.ofNat 256 (Config.kdf (relaySeed draw rekeys) (labelNum "XTP-RLY-LINK") (bitOf upstream + 2 * epoch) 256)

/-! ### Payloads -/

/-- The header slot (R359). -/
def relayHeader (opc : Nat) (m : RelayMsg) : BitVec 128 :=
  BitVec.ofNat 128 (opc % 256 + m.tag % 2 ^ 16 * 2 ^ 8 + m.dest % 8 * 2 ^ 24 + m.src % 8 * 2 ^ 27 + clsCode m.cls * 2 ^ 30 +
    m.tenant.val * 2 ^ 32 + m.sharer.val * 2 ^ 37 + bitOf m.db * 2 ^ 41 + bitOf m.comp * 2 ^ 42 + bitOf m.poison * 2 ^ 43 +
    m.dslots % 16 * 2 ^ 44 + m.line % 2 ^ 42 * 2 ^ 48 + m.opx % 2 ^ 35 * 2 ^ 90 + m.hops % 8 * 2 ^ 125)

/-- A member's record (R373). -/
def recordBytes (r : MemberRec) : Payload :=
  leBytes 4 (r.id % 256 + r.mode % 256 * 2 ^ 8 + (bitOf r.erasing + bitOf r.x8 * 2) * 2 ^ 16 + r.nearGib % 256 * 2 ^ 24) ++
    leBytes 2 r.dataBlocks ++ leBytes 2 r.farFloor ++ leBytes 16 r.ident.toNat

/-- A ROLL message (R373): record m stands at byte 24m − 16. -/
def rollBytes (r : Roll) : Payload :=
  let flags := bitOf r.confine + bitOf r.brk * 2 + bitOf r.overlong * 4
  leBytes 4 (bitOf r.ret + r.epoch % 256 * 2 ^ 8 + r.next % 256 * 2 ^ 16 + flags * 2 ^ 24) ++ leBytes 4 0 ++
    (List.range 7).flatMap fun i => match r.recs.find? fun (x : MemberRec) => x.id == i + 1 with
      | some x => recordBytes x
      | none => leBytes 24 0

/-- The payload of a message: its own slots in one flit, the rest zero (log entry 13). -/
def msgBytes (t : TxMsg) : Payload :=
  match t.roll with
  | some r => (rollBytes r ++ leBytes 224 0).take 224
  | none => (((relayHeader t.opc t.m :: t.payload).flatMap slotBytes) ++ leBytes 224 0).take 224

/-- The payload of a control flit of a kind (R357): control counter, then the kind's own bytes. -/
def ctrlBytes (kind ctrl : Nat) (words : List Nat) : Payload :=
  let own : Payload := match kind with
    | 4 => leBytes 1 (words.getD 0 0) ++ leBytes 1 (words.length - 1) ++ (words.drop 1).flatMap (leBytes 2)
    | 5 => words.flatMap (leBytes 4)
    | 7 => leBytes 1 (words.getD 0 0) ++ leBytes 1 (words.getD 1 0) ++ leBytes 6 0 ++ leBytes 8 (words.getD 2 0)
    | _ => []
  (leBytes 8 ctrl ++ own ++ leBytes 224 0).take 224

/-! ### A port's flits -/

/-- Changes a Relay port. -/
def Dev.modRly (d : Dev) (p : PortId) (f : RelayPort → RelayPort) : Dev := { d with rly := vmod d.rly (portIdx p) f }

/-- A Relay port. -/
def Dev.rlyOf (d : Dev) (p : PortId) : RelayPort := vget RelayPort.reset d.rly (portIdx p)

/-- STATE of a Relay link: 0 OFF, 1 TRAINING, 2 AUTH, 3 KEYED, 4 RECOVERY, 5 BROKEN (R354). -/
def Dev.rlyState (d : Dev) (p : PortId) : Nat := d.fld (Fld.rlyLinkSts_state (portIdx p))

/-- The key under which this end sends: in AUTH none; the upstream end derives it, the downstream end took it from the session
(R355). -/
def Dev.txKey (d : Dev) (p : PortId) : Option (BitVec 256) :=
  let r := d.rlyOf p
  if d.rlyState p = 2 then none
  else if d.role p = 2 then some (Config.sessionKey (portIdx p) r.keyEpoch 1)
  else r.seed.map fun x => relayKey x.1 x.2 r.keyEpoch false

/-- PIGGY of the next flit (R358): the last flit delivered in order, and the count told for the VC whose turn it is. -/
def Dev.txPiggy (d : Dev) (p : PortId) : BitVec 32 :=
  let r := d.rlyOf p
  BitVec.ofNat 32 ((r.rxNext + 4095) % 4096 + r.cvcNext % 8 * 2 ^ 12 + vget 0 r.told r.cvcNext % 65536 * 2 ^ 16)

/-- The bytes of the next flit: TYPE, SEQ, kind, the number under its IV, payload. -/
def Dev.flitFor (d : Dev) (p : PortId) (type : Nat) (unsequenced : Bool) (n : Nat) (payload : Payload) : Payload :=
  sealFlit (d.txKey p) (d.role p == 2) unsequenced n (BitVec.ofNat 16 ((d.rlyOf p).txNext % 4096 + type * 2 ^ 12)) payload (d.txPiggy p)

/-- Puts a flit on the wire, which shows the count of one VC; the turn passes to the next VC in force (R358). -/
def Dev.putFlit (d : Dev) (p : PortId) (w : Payload) : Dev :=
  let vcs := d.fld (Fld.rlyLinkSts_vcs (portIdx p))
  { d.modRly p fun r => { r with cvcNext := (r.cvcNext + 1) % max 1 vcs, sinceCredit := r.sinceCredit + 1, ackOwed := none,
                                 shown := vmod r.shown r.cvcNext fun _ => vget 0 r.told r.cvcNext }
    with wire := (p, w) :: d.wire }

end Sys2Proof.Machine
end

