-- ==== Sys2Proof/Machine/Respond.lean ====
section
/-! DEFINITION. Sys2Proof/Machine/Respond.lean: answers to hosts and along the chain, the counts they carry (R296, R299,
R446, R447), Relay messages (R359, R360), and HALT (R486, R487). -/

namespace Sys2Proof.Machine

/-! ### Relay messages -/

/-- Opcodes (R360). -/
def opcMemRd : Nat := 0x01
def opcCmp : Nat := 0x20
def opcData : Nat := 0x30
def opcAtomicData : Nat := 0x31

/-- The opcode of a request. -/
def Op.opc : Op → Nat
  | .rd => 0x01
  | .rdData => 0x02
  | .inv => 0x03
  | .wr => 0x04
  | .wrPtl => 0x05
  | .clnEvct => 0x06
  | .uioRd => 0x08
  | .uioWr => 0x09
  | .uioWrPtl => 0x0A
  | .atomic => 0x0B

/-- The code of a MetaValue in OPX[1:0]: the CXL encoding, 0 Invalid, 2 Any, 3 Shared. -/
def metaCode : Meta → Nat
  | .invalid => 0
  | .any => 2
  | .shared => 3

/-- The MetaValue of a code. -/
def metaOf (n : Nat) : Meta :=
  match n % 4 with
  | 2 => .any
  | 3 => .shared
  | _ => .invalid

/-- The four data slots of a line, in line order. -/
def lineSlots (l : Line) : List (BitVec 128) := (List.range 4).map fun i => (l >>> (128 * i)).setWidth 128

/-- The opcode the model gives a ROLL message in a port's queue. -/
def opcRoll : Nat := 0x100

/-- The VC of an opcode when `vcs` VCs are in force (R368). -/
def vcOf (vcs opc : Nat) (c : Cls) : Nat :=
  let g := c == .g
  let eight := if opc = opcRoll then 7 else if opc < 0x20 then (if g then 5 else 0) else if opc < 0x30 then 1
    else if opc < 0x40 then (if g then 6 else 3) else if opc < 0x60 then 2 else 4
  if vcs = 4 then ([0, 1, 2, 3, 2, 0, 3, 2]).getD eight 0
  else if vcs = 2 then ([0, 1, 1, 1, 1, 0, 1, 1]).getD eight 0
  else eight

/-- Buffer slots of a VC when `vcs` are in force (R368). -/
def vcSlots (vcs vc : Nat) : Nat :=
  if vcs = 4 then ([2048, 1024, 1024, 4096]).getD vc 0
  else if vcs = 2 then ([2048, 6144]).getD vc 0
  else ([1024, 512, 512, 3072, 256, 512, 2048, 256]).getD vc 0

/-- The VC of a message on a port. -/
def Dev.txVc (d : Dev) (p : PortId) (t : TxMsg) : Nat := vcOf (d.fld (Fld.rlyLinkSts_vcs (portIdx p))) t.opc t.m.cls

/-- Slots that a message spends (R369). -/
def TxMsg.slots (t : TxMsg) : Nat := if t.roll.isSome then 14 else 1 + t.payload.length

/-- The sender's free credit for a VC (R369). -/
def Dev.txCredit (d : Dev) (p : PortId) (vc : Nat) : Nat :=
  let r := d.rlyOf p
  vcSlots (d.fld (Fld.rlyLinkSts_vcs (portIdx p))) vc - (vget 0 r.sent vc + 65536 - vget 0 r.ccum vc % 65536) % 65536

/-- The order in which waiting messages fill flits (R371): ROLL, then G-REQ and G-DAT, SNP, RSP, DAT, REQ, MGMT. -/
def TxMsg.rank (t : TxMsg) : Nat :=
  if t.roll.isSome then 0
  else if t.opc < 0x20 then (if t.m.cls == .g then 1 else 5)
  else if t.opc < 0x30 then 3
  else if t.opc < 0x40 then (if t.m.cls == .g then 1 else 4)
  else if t.opc < 0x60 then 2 else 6

/-- The messages that stand first in their VC and hold credit. -/
def Dev.txReady (d : Dev) (p : PortId) : List TxMsg :=
  let q := (d.rlyOf p).queue
  q.zipIdx.filterMap fun (e : TxMsg × Nat) =>
    let vc := d.txVc p e.1
    if e.1.slots ≤ d.txCredit p vc && (q.take e.2).all fun u => d.txVc p u != vc then some e.1 else none

/-- The first message of lowest rank. -/
def bestTx : List TxMsg → Option TxMsg
  | [] => none
  | t :: l => match bestTx l with
    | some u => if t.rank ≤ u.rank then some t else some u
    | none => some t

/-- What a port may send next: in KEYED while the replay buffer of 1,024 flits has room; in AUTH, SPDM messages only (R354, R364).
In one DATA flit of 64, MGMT goes first. -/
def Dev.nextTx (d : Dev) (p : PortId) : Option TxMsg :=
  let l := d.txReady p
  let l := if d.rlyState p = 3 then l else if d.rlyState p = 2 then l.filter fun t => t.opc == 0x60 else []
  if 1024 ≤ (d.rlyOf p).replay.length then none
  else if (d.rlyOf p).txNext % 64 = 0 ∧ l.all (fun t => t.rank != 0) then
    (match l.find? fun t => t.rank == 6 with | some t => some t | none => bestTx l)
  else bestTx l

/-! ### Flits without a sequence number (R357) -/

/-- One control flit: control counter, SEQ of the next sequenced flit, ACKSEQ, and its payload. -/
def Dev.ctrlOut (d : Dev) (p : PortId) (kind : Nat) (words : List Nat) : Dev :=
  let d := d.modRly p fun r => { r with ctrlTx := r.ctrlTx + 1 }
  let r := d.rlyOf p
  let w := d.flitFor p kind true r.ctrlTx (ctrlBytes kind r.ctrlTx words)
  ((d.count 0x03C 1).putFlit p w).emit (.ctrl p kind ([r.ctrlTx, r.txNext % 4096, (r.rxNext + 4095) % 4096] ++ words))

/-- VCs that carry REQ and G-REQ with `vcs` in force (R368). -/
def reqVcs (vcs : Nat) : List Nat := if vcs = 8 then [0, 5] else [0]

/-- A CREDIT flit: per VC the count told to the peer, and the HOLD cause announced (R370). -/
def Dev.creditOut (d : Dev) (p : PortId) : Dev :=
  let vcs := d.fld (Fld.rlyLinkSts_vcs (portIdx p))
  let r := d.rlyOf p
  let d := d.ctrlOut p 5 ((List.range vcs).map fun v =>
    vget 0 r.told v % 65536 + (if (reqVcs vcs).contains v then r.ownHold else 0) * 65536)
  d.modRly p fun r => { r with shown := r.told, sinceCredit := 0 }

/-- Has a VC freed slots that no flit has reported, with 63 flits sent since the last CREDIT flit (R370)? -/
def Dev.creditDue (d : Dev) (p : PortId) : Bool :=
  let r := d.rlyOf p
  d.rlyState p == 3 && decide (63 ≤ r.sinceCredit) && r.shown != r.told

/-- The CREDIT flit that is due goes ahead of the next flit (R370, R371). -/
def Dev.creditFirst (d : Dev) (p : PortId) : Dev := if d.creditDue p then d.creditOut p else d

/-- Sends a control flit in AUTH or KEYED. -/
def Dev.sendCtrl (d : Dev) (p : PortId) (kind : Nat) (words : List Nat) : Dev :=
  if d.rlyState p = 2 ∨ d.rlyState p = 3 then (d.creditFirst p).ctrlOut p kind words else d

/-! ### Flits with a sequence number -/

/-- The flit of a message leaves. -/
def Dev.emitTx (d : Dev) (p : PortId) (t : TxMsg) (w : Payload) : Dev :=
  ((d.count 0x03C 1).putFlit p w).emit (match t.roll with | some r => .roll p r | none => .relay p t.m t.opc t.payload)

/-- Brings REPLAY up to date. -/
def Dev.syncReplay (d : Dev) (p : PortId) : Dev := d.setFld (Fld.rlyLinkSts_replay (portIdx p)) (d.rlyOf p).replay.length

/-- Sends one message: a sequenced flit of its slots, kept for replay, one message a flit (log entry 13). -/
def Dev.transmit (d : Dev) (p : PortId) (t : TxMsg) : Dev :=
  let d := d.creditFirst p
  let vc := d.txVc p t
  let w := d.flitFor p (if t.roll.isSome then 2 else 1) false (d.rlyOf p).txNext (msgBytes t)
  let d := d.modRly p fun r =>
    let next := r.txNext + 1
    let switch := match r.keyNext with | some k => d.role p == 3 && decide (k.2 ≤ next) | none => false
    { r with lastAck := if r.replay.isEmpty then d.stamp else r.lastAck, queue := r.queue.erase t, replay := r.replay ++ [⟨r.txNext, t, w⟩], txNext := next,
             sent := vmod r.sent vc (· + t.slots),
             keyEpoch := if switch then r.keyEpoch + 1 else r.keyEpoch, keyNext := if switch then none else r.keyNext,
             keyTx := if switch then next else r.keyTx, keyRx := if switch then r.rxNext else r.keyRx,
             seed := if switch then r.seedNext else r.seed }
  (d.syncReplay p).emitTx p t w

/-- Sends what may be sent, at most `n` messages. -/
def Dev.pumpTx (d : Dev) (p : PortId) : Nat → Dev
  | 0 => d
  | n + 1 => match d.nextTx p with
    | some t => Dev.pumpTx (d.transmit p t) p n
    | none => d

/-- Sends everything that credit and replay room allow. -/
def Dev.sendQueued (d : Dev) (p : PortId) : Dev := d.pumpTx p (d.rlyOf p).queue.length

/-- Hands a message to a port: it leaves, or waits for credit, room, or the end of Recovery. A link without traffic of its kind
takes nothing (R354). -/
def Dev.relayPut (d : Dev) (p : PortId) (t : TxMsg) : Dev :=
  let st := d.rlyState p
  if st = 3 ∨ st = 4 ∨ (st = 2 ∧ t.opc = 0x60) then
    let vc := d.txVc p t
    let now := d.now
    let first := (d.rlyOf p).queue.all fun u => d.txVc p u != vc
    (d.modRly p fun r => { r with queue := r.queue ++ [t],
                                  lastCredit := if first then vmod r.lastCredit vc fun _ => now else r.lastCredit }).sendQueued p
  else d

/-- Sends a message on a Relay port. -/
def Dev.relaySend (d : Dev) (p : PortId) (m : RelayMsg) (opc : Nat) (payload : List (BitVec 128)) : Dev :=
  d.relayPut p ⟨m, opc, payload, none⟩

/-- A message this device originates, of class L and without scope. -/
def Dev.mgmtMsg (d : Dev) (dest dslots : Nat) : RelayMsg :=
  { tag := 0, dest := dest, src := d.chainId, cls := .l, tenant := 0, sharer := 0, db := false, comp := false,
    poison := false, dslots := dslots, line := 0, opx := 0, hops := 0 }

/-- Sends a message towards the head. -/
def Dev.sendUp (d : Dev) (m : RelayMsg) (opc : Nat) (payload : List (BitVec 128)) : Dev :=
  match d.relayUp with
  | some p => d.relaySend p m opc payload
  | none => d

/-- Sends a message away from the head. -/
def Dev.sendDown (d : Dev) (m : RelayMsg) (opc : Nat) (payload : List (BitVec 128)) : Dev :=
  match d.relayDown with
  | some p => d.relaySend p m opc payload
  | none => d

/-- Sends a ROLL message on a port (R373). -/
def Dev.sendRoll (d : Dev) (p : PortId) (r : Roll) : Dev := d.relayPut p ⟨d.mgmtMsg 0 0, opcRoll, [], some r⟩

/-- A roll call ends at the head (R375): COUNT, OVERLONG and the event now, the positions at the next boundary. -/
def Dev.rollDone (d : Dev) (count : Nat) (tooMany : Bool) (recs : List MemberRec) : Dev :=
  let d := (d.setFld Fld.rlyChainSts_count count).setFlag Fld.rlyChainSts_overlong tooMany
  let d := { d with chain := { d.chain with rolling := none, result := some recs } }
  d.raiseN 0x1A4 [word1 (d.fld Fld.rlyChainSts_epoch), word1 count]

/-- The head starts a roll call (R372, R374); `again` marks the repeat. Without a KEYED Relay-down it serves as a chain of one
(R352). The head's own ID is 0. -/
def Dev.rollCall (d : Dev) (again : Bool) : Dev :=
  if !d.isHead then d
  else
    let e := (d.fld Fld.rlyChainSts_epoch + 1) % 256
    let d := (d.setFld Fld.rlyChainSts_epoch e).setFlag Fld.rlyChainSts_idv true
    match d.relayDown with
    | some p =>
      if d.rlyState p = 3 ∨ d.rlyState p = 4 then
        let now := d.now
        let d := { d with chain := { d.chain with rolling := some (now, again) } }
        d.sendRoll p ⟨false, e, 1, d.flag Fld.rlyChainCtl_policy, false, false, []⟩
      else d.rollDone 1 false []
    | none => d.rollDone 1 false []

/-- The draw and the rekey count of the key seed now (R202). -/
def Dev.keySeed (d : Dev) : Option (Nat × Nat) := d.cry.key.map fun k => (k, d.cry.rekeys)

/-- The upstream end names new link keys (R355): the next epoch from a sequence number that the message gives, 1,024 flits on (log
entry 39). -/
def Dev.newLinkKeys (d : Dev) : Dev :=
  match d.relayDown with
  | some p =>
    let r := d.rlyOf p
    if d.rlyState p = 3 && r.keyNext.isNone then
      let at_ := r.txNext + 1024
      let seed := d.keySeed
      let d := d.modRly p fun r => { r with keyNext := some (r.keyEpoch + 1, at_), seedNext := seed }
      d.relaySend p (d.mgmtMsg (d.chainId + 1) 1) 0x61 [BitVec.ofNat 128 at_]
    else d
  | none => d

/-! ### Transactions -/

/-- Kinds of request. -/
def Op.isRead : Op → Bool
  | .rd | .rdData | .uioRd => true
  | _ => false

def Op.isWrite : Op → Bool
  | .wr | .wrPtl | .uioWr | .uioWrPtl => true
  | _ => false

def Op.isUio : Op → Bool
  | .uioRd | .uioWr | .uioWrPtl | .atomic => true
  | _ => false

/-- Does a request write its line: a write or an atomic? -/
def Op.writes (o : Op) : Bool := o.isWrite || o == .atomic

/-- Is the write masked? -/
def Op.isMasked : Op → Bool
  | .wrPtl | .uioWrPtl => true
  | _ => false

/-- Has the transaction passed tenant lookup? -/
def Phase.looked : Phase → Bool
  | .modeHeld | .regHeld => false
  | _ => true

/-- The open transaction with a number. -/
def Dev.txn (d : Dev) (id : Nat) : Option Txn := d.txns.find? (·.id == id)

/-- Changes an open transaction. -/
def Dev.modTxn (d : Dev) (id : Nat) (f : Txn → Txn) : Dev :=
  { d with txns := d.txns.map fun x => if x.id == id then f x else x }

/-- Sets where a transaction stands. -/
def Dev.park (d : Dev) (id : Nat) (ph : Phase) : Dev := d.modTxn id fun x => { x with phase := ph }

/-- The port of a transaction that a host sent. -/
def Txn.port (x : Txn) : Option PortId := match x.org with | .host p _ _ _ => some p | .relay _ _ => none

/-- Transactions of a tenant and class that have passed lookup (R292). -/
def Dev.outstanding (d : Dev) (t : TenantId) (c : Cls) : Nat :=
  (d.txns.filter fun x => x.tenant == some t && x.cls == c && x.phase.looked && x.port.isSome).length

/-- Requests of a tenant held by regulation (R294). -/
def Dev.heldOf (d : Dev) (t : TenantId) : Nat := (d.txns.filter fun x => x.tenant == some t && x.phase == .regHeld).length

/-- A tenant's outstanding limit in a class (R292). -/
def Dev.otl (d : Dev) (t : TenantId) (c : Cls) : Nat :=
  match c with
  | .g => d.fld (Fld.svcTntOtlGl_g t.val)
  | .l => d.fld (Fld.svcTntOtlGl_l t.val)
  | .b => d.fld (Fld.svcTntOtlBs_b t.val)
  | .s => d.fld (Fld.svcTntOtlBs_s t.val)

/-- DevLoad of a tenant (R296). -/
def Dev.devLoad (d : Dev) (t : TenantId) : Nat :=
  let h := d.heldOf t
  if 32 ≤ h then 3 else if 0 < h then 2
  else if [Cls.g, .l, .b, .s].any (fun c => 0 < d.otl t c && d.otl t c ≤ 2 * d.outstanding t c) then 1 else 0

/-! ### Counts of a delivered line (R299, R446, R447) -/

/-- One sample of `half` half nanoseconds in a histogram. -/
def Hist.sample (h : Hist) (half : Nat) : Hist :=
  let base := fieldOf h.ctl 0 12
  let ns := half / 2
  let h := { h with count := h.count + 1, sum := h.sum + half, min := Nat.min h.min half, max := Nat.max h.max half }
  if ns < base then { h with under := satN 32 (h.under + 1) }
  else if base + 256 ≤ ns then { h with above := satN 32 (h.above + 1) }
  else { h with bins := Sparse.put 0 h.bins (ns - base) (satN 32 (Sparse.get 0 h.bins (ns - base) + 1)) }

/-- Does a histogram sample this transaction? -/
def Hist.takes (h : Hist) (x : Txn) : Bool :=
  let kind := fieldOf h.ctl 28 2
  let tier := fieldOf h.ctl 26 2
  let port := fieldOf h.ctl 15 2
  h.ctl.getLsbD 31 &&
  (kind == 3 || (kind == 0 && x.op.isRead) || (kind == 1 && x.op.isWrite) || (kind == 2 && x.op == .atomic)) &&
  (tier == 0 || tier == x.tier) &&
  (!h.ctl.getLsbD 25 || x.tenant.map (·.val) == some (fieldOf h.ctl 20 5)) &&
  (!h.ctl.getLsbD 19 || clsCode x.cls == fieldOf h.ctl 17 2) &&
  (port == 0 || (port != 3 && x.port.map portIdx == some (port - 1)))

/-- Samples a completed transaction in the histograms that take it. -/
def Dev.histogram (d : Dev) (x : Txn) : Dev :=
  let arrived := x.arrived
  let looked := x.looked.getD x.arrived
  let one := fun (h : Hist) =>
    if h.takes x then h.sample ((if h.ctl.getLsbD 30 then arrived else looked).cyclesTo d.stamp) else h
  { d with pmu := { d.pmu with hists := vmap d.pmu.hists one } }

/-- Counts a line delivered to a host (R299): reads, and writes with atomics. -/
def Dev.delivered (d : Dev) (x : Txn) : Dev :=
  match x.tenant with
  | none => d
  | some t =>
    if x.op == .inv || x.op == .clnEvct then d
    else
      let rd := x.op.isRead
      let k := clsCode x.cls
      let i := (t.val * 4 + k) * 2 + bitOf (!rd)
      let d := d.countAs (if rd then 0x020 else 0x021) 1 none (some t) (some x.cls)
      let d := { d with pmu := { d.pmu with lines := Sparse.put 0 d.pmu.lines i (Sparse.get 0 d.pmu.lines i + 1) } }
      d.modTenant t fun s => { s with pourLines := vmod s.pourLines k (· + 1), winLines := vmod s.winLines k (· + 1) }

/-! ### Answers -/

/-- What completes a request. -/
inductive Reply where
  | data (l : Line) (poison : Bool)
  | cmp
  | atomic (v : BitVec 128) (poison : Bool)
  | unsupported
  deriving DecidableEq, Repr

/-- The poisoned answer of a request: reads and atomics get poison, everything else completes. -/
def Op.poisonReply (o : Op) : Reply :=
  match o with
  | .rd | .rdData | .uioRd => .data 0 true
  | .atomic => .atomic 0 true
  | _ => .cmp

/-- An answer under viral containment (R347). -/
def Reply.viral : Reply → Reply
  | .data _ _ => .data 0 true
  | .atomic _ _ => .atomic 0 true
  | r => r

/-- Is the port's link down (R349)? -/
def Dev.isDown (d : Dev) (p : PortId) : Bool := (d.ports[portIdx p]?.bind (·.down)).isSome

/-- Sends an answer to the host port it belongs to; a port whose link is down discards it (R349). -/
def Dev.answerHost (d : Dev) (p : PortId) (ld tag : Nat) (uio : Bool) (md : Meta) (load : Nat) (r : Reply) : Dev :=
  if d.isDown p then d
  else
    let r := if d.flag (Fld.prtViralSts_rx (portIdx p)) then r.viral else r
    d.emit (match r with
      | .data l poison => if uio then .uioData p ld tag l poison else .cxlData p ld tag l poison md load
      | .cmp => if uio then .uioCmp p ld tag else .cxlCmp p ld tag md load
      | .atomic v poison => .atomicData p ld tag v poison
      | .unsupported => .unsupported p ld tag)

/-- The Relay message that answers a request of another member. -/
def Dev.answerRelay (d : Dev) (x : Txn) (src tag : Nat) (r : Reply) : Dev :=
  let m : RelayMsg :=
    { tag := tag, dest := src, src := d.chainId, cls := x.cls, tenant := x.tenant.getD 0, sharer := Fin.ofNat 16 (x.sharer.getD 0),
      db := x.db, comp := x.comp, poison := false, dslots := 0, line := x.ma / 64, opx := metaCode x.md, hops := 0 }
  match r with
  | .data l poison => d.sendUp { m with poison := poison, dslots := 4 } opcData (lineSlots l)
  | .atomic v poison => d.sendUp { m with poison := poison, dslots := 1 } opcAtomicData [v]
  | .cmp => d.sendUp m opcCmp []
  | .unsupported => d.sendUp { m with poison := true } opcCmp []

/-- A BIConflictAck leaves: to the host, or up the chain with the sharer's index. -/
def Dev.conflictAck (d : Dev) (port : PortId) (tag sharer : Nat) : Dev :=
  if d.isMember then d.sendUp { d.mgmtMsg 0 0 with tag := tag % 65536, sharer := Fin.ofNat 16 sharer } 0x45 []
  else d.emit (.biConflictAck port tag)

/-- Sends the BIConflictAcks that wait for a transaction's completion (R274): to the host, or up the chain. -/
def Dev.sendAcks (d : Dev) (id : Nat) : Dev :=
  let due := d.home.acksDue.filter fun (a : Nat × PortId × Nat × Nat) => a.1 == id
  if due.isEmpty then d
  else
    let d := { d with home := { d.home with acksDue := d.home.acksDue.filter fun (a : Nat × PortId × Nat × Nat) => a.1 != id } }
    due.foldl (fun d (a : Nat × PortId × Nat × Nat) => d.conflictAck a.2.1 a.2.2.1 a.2.2.2) d

/-- Completes a transaction: it leaves the table, its answer goes out, and what it delivered is counted. -/
def Dev.finish (d : Dev) (x : Txn) (r : Reply) : Dev :=
  let load := match x.tenant with | some t => d.devLoad t | none => 0
  let d := { d with txns := d.txns.filter (·.id != x.id) }
  let d := d.sendAcks x.id
  match x.org with
  | .host p ld tag _ =>
    let down := d.isDown p
    let rdLike := x.op.isRead || x.op == .inv
    let d := if down ∧ x.phase.looked then
        (if rdLike then d.bump (Fld.prtDownCnt_reads (portIdx p)) 1 else d.bump (Fld.prtDownCnt_writes (portIdx p)) 1) else d
    let d := d.answerHost p ld tag x.op.isUio x.md load r
    if x.looked.isSome ∧ ¬ down then (d.delivered x).histogram x else d
  | .relay src tag => d.answerRelay x src tag r

/-- Completes a transaction poisoned. -/
def Dev.finishPoisoned (d : Dev) (x : Txn) : Dev := d.finish x x.op.poisonReply

/-! ### HALT (R486, R487) -/

/-- The code of a HALT cause. -/
def haltCode : HaltCause → Nat
  | .farMac => 1
  | .treeTag => 2
  | .counterExhaustion => 3
  | .relayIntegrity => 4
  | .registerParity => 5
  | .seal => 6
  | .debug => 7
  | .chainHalt => 8
  | .fabricHeader => 9

/-- Zeroises the keys (R201, R487): no key, no subkey and no `CRY_MAJOR_NEXT` remains. -/
def Dev.zeroise (d : Dev) : Dev :=
  let d := { d with cry := { d.cry with key := none, oldKey := none, majorNext := 0, majorNextOld := 0 } }
  d.setFlag Fld.crySts_keyValid false

/-- Completes what is outstanding at a HALT: reads and atomics poisoned, everything else not at all. -/
def Dev.dropAll (d : Dev) : Dev :=
  let xs := d.txns
  let d := xs.foldl (fun d x => if x.op.isRead || x.op == .atomic then d.finishPoisoned x else d) d
  { d with txns := [] }

/-- The modes from which HALT is entered (R38): BOOT to MAINT. -/
def Mode.mayHalt : Mode → Bool
  | .cold | .fill | .halt => false
  | _ => true

/-- A HALT flit in KEYED: origin, cause and pour counter under the next control counter (R357, R383). It is sent over and over until
the cold reset; the model sends one. -/
def Dev.haltFlit (d : Dev) (p : PortId) (origin cause : Nat) : Dev :=
  if d.rlyState p = 3 then
    let n := (d.rlyOf p).ctrlTx + 1
    (d.modRly p fun r => { r with ctrlTx := n }).putFlit p (d.flitFor p 7 true n (ctrlBytes 7 n [origin, cause, d.now]))
  else d

/-- Sends viral and HALT flits (R347, R383). -/
def Dev.haltOut (d : Dev) (origin cause : Nat) : Dev :=
  [PortId.a, .b].foldl (fun d p =>
    match d.role p with
    | 1 => (d.setFlag (Fld.prtViralSts_tx (portIdx p)) true).emit (.viral p)
    | 2 => (d.haltFlit p origin cause).emit (.halt p origin cause)
    | 3 => (d.haltFlit p origin cause).emit (.halt p origin cause)
    | _ => d) d

/-- The HALT registers name a cause that this cycle has detected (R486, R490). -/
def Dev.recordHalt (d : Dev) (cause : HaltCause) (origin : Nat) (chid : BitVec 16) (loc : BitVec 64) : Dev :=
  let d := { d with ras := { d.ras with haltAt := some (d.stamp, haltCode cause), later := 0 } }
  let d := d.setReg Off.rasHaltCause (BitVec.ofNat 32 (2 ^ 31 + origin % 256 * 2 ^ 16 + d.mode.code * 2 ^ 8 + haltCode cause))
  let d := d.setReg Off.rasHaltPourLo (BitVec.ofNat 32 d.now)
  let d := d.setReg Off.rasHaltPourHi (BitVec.ofNat 32 (d.now / 2 ^ 32))
  let d := d.setReg Off.rasHaltDetail (BitVec.ofNat 32 (chid.toNat * 2 ^ 16 + d.clk.cyc.val))
  let d := d.setReg Off.rasHaltLocLo (loc.setWidth 32)
  d.setReg Off.rasHaltLocHi ((loc >>> 32).setWidth 32)

/-- Was the cause in force detected in this very cycle? -/
def Dev.haltNow (d : Dev) : Bool := match d.ras.haltAt with | some (t, _) => t == d.stamp && d.mode != .halt | none => false

/-- Detects a HALT cause in this cycle (R487). A later cause counts in LATER; of two in one cycle the lower code is recorded. -/
def Dev.haltFrom (d : Dev) (cause : HaltCause) (origin : Nat) (chid : BitVec 16) (loc : BitVec 64) : Dev :=
  if d.haltNow then
    match d.ras.haltAt with
    | some (_, code) => if haltCode cause < code then (d.recordHalt cause origin chid loc).haltOut origin (haltCode cause) else d
    | none => d
  else if d.halted then
    let d := { d with ras := { d.ras with later := satN 6 (d.ras.later + 1) } }
    d.setFld Fld.rasHaltCause_later d.ras.later
  else if d.mode.mayHalt then
    let d := d.recordHalt cause origin chid loc
    -- a Canister store under way is abandoned (R488)
    let d := { d with can := { d.can with storing := none } }
    let d := (d.setFlag Fld.canSts_store false).zeroise
    (d.haltOut origin (haltCode cause)).dropAll
  else d

/-- A HALT of this device's own cause. -/
def Dev.haltBy (d : Dev) (cause : HaltCause) (chid : BitVec 16) (loc : BitVec 64) : Dev :=
  d.haltFrom cause d.chainId chid loc

/-- An integrity failure (R218): recorded with the kind of check, then HALT. -/
def Dev.integrityFail (d : Dev) (cause : HaltCause) (chid : BitVec 16) (loc : BitVec 64) (detail : List Word) : Dev :=
  if d.halted && !d.haltNow then d.haltBy cause chid loc
  else (d.raise { num := 0x150, chid := some chid, loc := loc, detail := detail }).haltBy cause chid loc

end Sys2Proof.Machine
end

