-- ==== Sys2Proof/Machine/Crypto.lean ====
section
/-! DEFINITION. Sys2Proof/Machine/Crypto.lean: keys and subkeys (R201, R202), tweaks, nonces, keystream, MAC and tags
(R204, R205, R207, R210, R211, R214), the counters (R208, R209, R219, R220) and the key in force (R228). The device's
memories hold what a read under the key in force returns, so these functions say what stands on the DRAM pins. -/

namespace Sys2Proof.Machine

/-! ### Keys -/

/-- The Crema XTS key pair (R202): data key above, tweak key below. -/
def xtsKeys (draw rekeys : Nat) : BitVec 512 := BitVec.ofNat 512 (Config.kdf (keyValue draw) (labelNum "XTP-CRM") rekeys 512)
def xtsK1 (draw rekeys : Nat) : BitVec 256 := ((xtsKeys draw rekeys) >>> 256).setWidth 256
def xtsK2 (draw rekeys : Nat) : BitVec 256 := (xtsKeys draw rekeys).setWidth 256

/-- The far CTR key (R202). -/
def ctrKey (draw rekeys : Nat) : BitVec 256 := BitVec.ofNat 256 (Config.kdf (keyValue draw) (labelNum "XTP-CTR") rekeys 256)

/-- The far MAC key: pad key above, tree key below (R202). -/
def macKeys (draw rekeys : Nat) : BitVec 512 := BitVec.ofNat 512 (Config.kdf (keyValue draw) (labelNum "XTP-MAC") rekeys 512)
def padKey (draw rekeys : Nat) : BitVec 256 := ((macKeys draw rekeys) >>> 256).setWidth 256
def treeKey (draw rekeys : Nat) : BitVec 256 := (macKeys draw rekeys).setWidth 256

/-! ### Crema encryption (R204, R205) -/

/-- The tweak of a near or cached line: MA[44:6] with MEMBER 0. -/
def tweakOf (ma : Nat) : BitVec 128 := BitVec.ofNat 128 (lineKey ma)

/-- The tweak of a metadata-reserve line. -/
def metaTweak (frame line : Nat) : BitVec 128 := BitVec.ofNat 128 (2 ^ 127 + frame * 64 + line)

/-- Multiplication by α in GF(2^128) as XTS uses it: byte 0 least significant. -/
def xtsDouble (t : BitVec 128) : BitVec 128 := if t.getLsbD 127 then (t <<< 1) ^^^ 0x87 else t <<< 1

/-- Block `j` of a 64 B line under XTS-AES-256 of IEEE 1619. -/
def xtsBlock (k1 k2 : BitVec 256) (tweak : BitVec 128) (line : Line) (j : Nat) : BitVec 128 :=
  let t := (List.range j).foldl (fun t _ => xtsDouble t) (Config.aes256 k2 tweak)
  Config.aes256 k1 (((line >>> (128 * j)).setWidth 128) ^^^ t) ^^^ t

/-- A line's XTS ciphertext. -/
def xtsLine (k1 k2 : BitVec 256) (tweak : BitVec 128) (line : Line) : Line :=
  (List.range 4).foldl (fun acc j => acc ||| ((xtsBlock k1 k2 tweak line j).setWidth 512) <<< (128 * j)) 0

/-! ### Far-tier protection (R207, R210, R211, R214) -/

/-- MAJOR of a counter block (R207). -/
def ctrMajor (b : Line) : Nat := (b.setWidth 57).toNat

/-- MINOR j of a counter block (R207). -/
def ctrMinor (b : Line) (j : Nat) : Nat := ((b >>> (64 + 7 * j)).setWidth 7).toNat

/-- A counter block of its counters. -/
def mkCtr (major : Nat) (minor : Nat → Nat) : Line :=
  BitVec.ofNat 512 (major % 2 ^ 57 + ((List.range 64).foldl (fun a j => a + minor j % 128 * 2 ^ (64 + 7 * j)) 0))

/-- The nonce block (R210): domain 0 keystream, 1 MAC pad. -/
def nonce (domain c cli major minor b : Nat) : BitVec 128 :=
  BitVec.ofNat 128 (domain % 4 * 2 ^ 126 + c % 8 * 2 ^ 123 + cli % 2 ^ 34 * 2 ^ 89 + major % 2 ^ 57 * 2 ^ 32 +
    minor % 128 * 2 ^ 25 + b % 4)

/-- A far line's ciphertext: plaintext XOR keystream (R210). -/
def ctrLine (key : BitVec 256) (c cli major minor : Nat) (line : Line) : Line :=
  line ^^^ ((List.range 4).foldl (fun acc b =>
    acc ||| ((Config.aes256 key (nonce 0 c cli major minor b)).setWidth 512) <<< (128 * b)) 0)

/-- A line's four 16-byte blocks. -/
def lineBlocks (l : Line) : List (BitVec 128) := (List.range 4).map fun j => (l >>> (128 * j)).setWidth 128

/-- The line MAC (R211). -/
def lineMac (pad : BitVec 256) (c cli major minor : Nat) (cipher : Line) : BitVec 32 :=
  ((Config.ghash (Config.aes256 pad 0) (lineBlocks cipher)) ^^^ (Config.aes256 pad (nonce 1 c cli major minor 0))).setWidth 32

/-- The tag of a counter block (level 0) or tree node (R214). -/
def treeTagOf (key : BitVec 256) (c level index : Nat) (child : Line) : BitVec 64 :=
  let id : BitVec 128 := BitVec.ofNat 128 (2 * 2 ^ 126 + c % 8 * 2 ^ 123 + level % 16 * 2 ^ 119 + index % 2 ^ 34 * 2 ^ 85)
  (Config.aes256 key (Config.ghash (Config.aes256 key 0) (lineBlocks child ++ [id]))).setWidth 64

/-! ### The key in force (R228) -/

/-- Is a rekey walking? -/
def Dev.rekeying (d : Dev) : Bool := match d.cry.rekey with | some r => r.phase != .requested | none => false

/-- Has the rekey committed a page that the boundary has yet to pass? -/
def Dev.pageCommitted (d : Dev) (c pg : Nat) : Bool :=
  match d.cry.rekey with
  | some r => match vget none r.pages c with
    | some p => p.page == pg && p.committed
    | none => false
  | none => false

/-- Is a stored page of a channel under the new key? Without a rekey every page is under the only key. -/
def Dev.pageNew (d : Dev) (c pg : Nat) : Bool :=
  !d.rekeying || d.flag (Fld.cryFarBound_end c) || pg < d.fld (Fld.cryFarBound_page c) || d.pageCommitted c pg

/-- Is a Crema line under the new XTS key pair? -/
def Dev.cremaNew (d : Dev) (g l : Nat) : Bool :=
  match d.cry.rekey with
  | some r => r.phase == .requested || r.cremaEnd || cremaKey g l < d.fld Fld.cryCrmBound_line
  | none => true

/-- The draw and rekey count whose key is in force for a Crema line. -/
def Dev.cremaKeyOf (d : Dev) (g l : Nat) : Option Nat × Nat :=
  if d.cremaNew g l then (d.cry.key, d.cry.rekeys) else (d.cry.oldKey, d.cry.rekeys - 1)

/-- The draw and rekey count whose key is in force for a stored page. -/
def Dev.farKeyOf (d : Dev) (c pg : Nat) : Option Nat × Nat :=
  if d.pageNew c pg then (d.cry.key, d.cry.rekeys) else (d.cry.oldKey, d.cry.rekeys - 1)

/-- What stands in Crema for a line: ciphertext and line check, while a key is present. -/
def Dev.cremaStored (d : Dev) (g l : Nat) (tweak : BitVec 128) (plain : Line) : Option (Line × BitVec 16) :=
  match d.cremaKeyOf g l with
  | (some k, n) => let c := xtsLine (xtsK1 k n) (xtsK2 k n) tweak plain; some (c, lineCheck c tweak)
  | (none, _) => none

/-- What stands in the far tier for a line under a counter block: ciphertext and MAC, while a key is present. -/
def Dev.farStored (d : Dev) (c cli : Nat) (blk plain : Line) : Option (Line × BitVec 32) :=
  let j := cli % 64
  match d.farKeyOf c (cli / 64) with
  | (some k, n) =>
    let x := ctrLine (ctrKey k n) c cli (ctrMajor blk) (ctrMinor blk j) plain
    some (x, lineMac (padKey k n) c cli (ctrMajor blk) (ctrMinor blk j) x)
  | (none, _) => none

/-! ### Counters (R208, R209, R219, R220) -/

/-- The counter block of a stored page. -/
def Dev.ctrBlock (d : Dev) (c pg : Nat) : Line := Sparse.get 0 d.mem.ctr (pageKey c pg)

/-- Writes a counter block. -/
def Dev.setCtr (d : Dev) (c pg : Nat) (b : Line) : Dev :=
  { d with mem := { d.mem with ctr := Sparse.put 0 d.mem.ctr (pageKey c pg) b } }

/-- `CRY_MAJOR_NEXT` of the newest key, or of the old one. -/
def Dev.majorNext (d : Dev) (new : Bool) : Nat := if new then d.cry.majorNext.toNat else d.cry.majorNextOld.toNat

/-- Sets `CRY_MAJOR_NEXT` of a key in use. At 2^57 - 1 the device halts, at 2^56 of the key in force it starts a rekey
(R220). -/
def Dev.setMajorNext (d : Dev) (new : Bool) (n : Nat) : Dev :=
  let v := BitVec.ofNat 57 (min n (2 ^ 57 - 1))
  let d := if new then { d with cry := { d.cry with majorNext := v } } else { d with cry := { d.cry with majorNextOld := v } }
  if 2 ^ 57 - 1 ≤ n then d.integrityFail .counterExhaustion 0 0 [3]
  else if new && 2 ^ 56 ≤ n && d.cry.rekey.isNone then
    let d := { d with cry := { d.cry with rekey := some ⟨.requested, 0, 0, false, Vector.replicate 8 none, 0, 0⟩, rateNext := some 8 } }
    d.setFlag Fld.cryRekeySts_auto true
  else d

/-- A page's counters at initialisation or rekey (R208): MAJOR from `CRY_MAJOR_NEXT` of the key it takes, every MINOR 0. -/
def Dev.freshCtr (d : Dev) (c pg : Nat) (new : Bool) : Dev :=
  let m := d.majorNext new
  (d.setCtr c pg (mkCtr m fun _ => 0)).setMajorNext new (m + 1)

/-- The counters for new content of line j (R208); at MINOR 127 the page overflows (R219). -/
def Dev.countWrite (d : Dev) (c pg j : Nat) : Dev :=
  let b := d.ctrBlock c pg
  let new := d.pageNew c pg
  if ctrMinor b j < 127 then
    d.setCtr c pg (mkCtr (ctrMajor b) fun i => if i = j then ctrMinor b i + 1 else ctrMinor b i)
  else
    let m := ctrMajor b + 1
    let d := (d.setCtr c pg (mkCtr m fun _ => 0)).countAs 0x0C5 1 (some (d.farChid c)) none none
    if d.majorNext new < m + 1 then d.setMajorNext new (m + 1) else d

end Sys2Proof.Machine
end

