-- ==== Sys2Proof/Machine/Slots.lean ====
section
/-! DEFINITION. Sys2Proof/Machine/Slots.lean: the slot accounts of the schedulers (R442), refresh commands (R130, R151), what an activate
does in Crema (R131, R132) and in the far tier (R153 to R157), and the queues of the schedulers with their line buffers (R146 to R150,
R290, R307, R308). Every far access activates its bank (R146); for Crema the rules name no row policy, and the model takes the same
(log entry 36). -/

namespace Sys2Proof.Machine

/-- A far channel's record, and changing it. -/
def Dev.fch (d : Dev) (c : Nat) : FarChan := vget FarChan.reset d.farCh c
def Dev.modFch (d : Dev) (c : Nat) (f : FarChan → FarChan) : Dev := { d with farCh := vmod d.farCh c f }

/-- Data rate of a speed code in MT/s (R171). -/
def speedOf : Nat → Nat
  | 1 => 4800 | 2 => 5200 | 3 => 5600 | 4 => 6000 | 5 => 6400 | 6 => 7200 | 7 => 8000 | 8 => 8800 | _ => 0

/-! ### Scheduler slots (R442) -/

/-- No slots counted, nothing to place. -/
def Slots.none : Slots := ⟨0, 0, 0, 0, 0, 0, [], 0, 0⟩

/-- The slot set of a scheduler. -/
def Dev.slotSet (d : Dev) (s : Nat) : Slots := Sparse.get Slots.none d.pmu.slots s

/-- Changes a scheduler's slot set. -/
def Dev.modSlots (d : Dev) (s : Nat) (f : Slots → Slots) : Dev :=
  { d with pmu := { d.pmu with slots := Sparse.put Slots.none d.pmu.slots s (f (d.slotSet s)) } }

/-- Scheduler of a Crema line and of a far line (R449). -/
def Dev.crmSched (d : Dev) (g l : Nat) : Nat := 2 * d.framePhys g + l % 2
def farSched (c cli : Nat) : Nat := 64 + 2 * c + cli % 2

/-- Data beats to retire, class G apart, and a wasted charge of `n` slots under a WASTE event. -/
def Dev.beats (d : Dev) (s : Nat) (g : Bool) (n : Nat) : Dev :=
  d.modSlots s fun x => if g then { x with gBeats := x.gBeats + n } else { x with beats := x.beats + n }
def Dev.waste (d : Dev) (s ev n : Nat) : Dev :=
  if n = 0 then d else d.modSlots s fun x => { x with charges := x.charges ++ [⟨ev, n, false⟩] }

/-- Is a refresh command still to place? -/
def Slots.refreshing (x : Slots) : Bool := x.charges.any fun c => c.ev == 0x018

/-- Cycles that a far line takes on its subchannel (R145), a whole number rounded up (log entry 74). -/
def Dev.burst (d : Dev) (c : Nat) : Nat := ceilDiv 32000 (max 1 (speedOf (d.fld (Fld.farChSts_speed c))))

/-! ### Refresh commands (R27, R129 to R131, R151) -/

/-- ROLE of a physical Crema channel (R125): 0 active, 1 spare, 2 copied, 3 isolated, 4 lost. -/
def Dev.crmRole (d : Dev) (c : Nat) : Nat := d.fld (Fld.crmChSts_role c)

/-- Frames of one channel (R137). -/
def Dev.chFrames (d : Dev) : Nat := match d.part with | .xtp8640 => 524288 | .xtp8632 => 262144

/-- The next refresh command of a pseudo-channel: a row group of a bank group, the bank groups in turn (log entry 37), 8 wasted slots;
behind the last row group of a bank group's window, the trackers of its 4 banks clear. -/
def Dev.cremaRefreshCmd (d : Dev) (pc : Nat) : Dev :=
  let n := Sparse.get 0 d.crm.refreshes pc
  let groups := d.bankGroups
  let g := n % groups
  let tr := if n / groups == 4095 then d.crm.trackers.drop fun k => k / 64 == pc && k % 64 / 4 == g else d.crm.trackers
  let crm := { d.crm with trackers := tr, refreshes := Sparse.put 0 d.crm.refreshes pc ((n + 1) % (4096 * groups)) }
  (({ d with crm := crm }).modSlots pc fun x => { x with refs := x.refs + 1 }).waste pc 0x018 8

/-- A refresh command of a far subchannel. The rules give no slot cost for it: the charge is a free value (log entry 38). -/
def Dev.farRefreshCmd (d : Dev) (c sub : Nat) : Dev :=
  let s := 64 + 2 * c + sub
  let (n, d) := d.takeFree
  (d.modSlots s fun x => { x with refs := x.refs + 1 }).waste s 0x018 (Config.freeValue n).toNat

/-- What a rate of `n` in every `m` pours gives pour `p`: the doubled Crema rate falls as R130 places it, and the other rates spread
in the same way (log entry 75). -/
def perPour (n m p : Nat) : Nat := (p + 1) * n / m - p * n / m

/-- Refresh commands of a pseudo-channel in this pour (R130). -/
def Dev.cremaQuota (d : Dev) : Nat :=
  let rate := match d.part with | .xtp8640 => 17 | .xtp8632 => 9
  perPour (if d.flag Fld.crmRefCtl_doubled then 2 * rate else rate) 32 (d.now % 32)

/-- Physical ranks of a far channel. -/
def Dev.physRanks (d : Dev) (c : Nat) : Nat := ((d.fch c).dimms.map (·.ranks)).sum

/-- Does a channel refresh same-bank under its REFMODE? -/
def Dev.sameBank (d : Dev) (c : Nat) : Bool :=
  d.fld (Fld.farChCfg_refmode c) == 1 || (d.fld (Fld.farChCfg_refmode c) == 2 && d.physRanks c ≤ 2)

/-- Refresh commands of a far subchannel in this pour (R151): each physical rank once per tREFI of 15,625 ÷ 1,024 pours, with same-bank
refresh four times, at the doubled rate twice as many. -/
def Dev.farQuota (d : Dev) (c : Nat) : Nat :=
  let n := d.physRanks c * (if d.sameBank c then 4 else 1) * (if d.flag (Fld.farChSts_doubled c) then 2 else 1)
  perPour (1024 * n) 15625 d.now


/-! ### Activates of Crema (R131, R132) -/

/-- The key of a bank's tracker: pseudo-channel and bank. -/
def crmBankKey (pc bank : Nat) : Nat := 64 * pc + bank

/-- A tracker without room after an activate of an untracked row: every entry one lower; the row takes an entry that reaches 0. -/
def decayTracker (t : List (Nat × Nat)) (row : Nat) : List (Nat × Nat) :=
  let l := (t.map fun (e : Nat × Nat) => (e.1, e.2 - 1)).filter fun (e : Nat × Nat) => e.2 != 0
  if l.length < 16 then l ++ [(row, 1)] else l

/-- One activate of a row: counted by its bank's tracker. At NRT a targeted neighbour refresh is queued and the entry clears; while the
queue of 8 is full it stays due. A queue that becomes full counts (log entry 76). -/
def Dev.cremaActivate (d : Dev) (pc bank row : Nat) : Dev :=
  let key := crmBankKey pc bank
  let t := Sparse.get [] d.crm.trackers key
  let put := fun (d : Dev) (t : List (Nat × Nat)) => { d with crm := { d.crm with trackers := Sparse.put [] d.crm.trackers key t } }
  let n := match t.find? (fun (e : Nat × Nat) => e.1 == row) with | some e => e.2 + 1 | none => 1
  let q := Sparse.get [] d.crm.nbr pc
  if d.fld Fld.crmRefCtl_nrt ≤ n ∧ q.length < 8 then
    let d := put d (t.filter fun (x : Nat × Nat) => x.1 != row)
    let d := { d with crm := { d.crm with nbr := Sparse.put [] d.crm.nbr pc (q ++ [(bank, row)]) } }
    if q.length = 7 then d.countAs 0x0C3 1 (some (d.cremaChid (pc / 2))) none none else d
  else if 1 < n then put d (t.map fun (x : Nat × Nat) => if x.1 == row then (row, n) else x)
  else put d (if t.length < 16 then t ++ [(row, 1)] else decayTracker t row)

/-- The activate that an access to a Crema line makes at a pseudo-channel. -/
def Dev.activateCrema (d : Dev) (pc g l : Nat) : Dev := d.cremaActivate pc (d.cremaBankOf g l) (cremaRowOf g l)

/-! ### Activates of the far tier (R153 to R157) -/

/-- Is a subchannel's queue of 16 neighbour refreshes and RFM commands full? -/
def Dev.nbrFull (d : Dev) (c sub : Nat) : Bool :=
  decide (16 ≤ ((d.fch c).nbr.filter fun e => e.1 / 2 ^ 9 % 2 == sub).length)

/-- Puts an entry into a subchannel's queue of neighbour refreshes and RFM commands where it has room; a queue that becomes full
counts (R155, log entry 76). -/
def Dev.queueNbr (d : Dev) (c sub : Nat) (bank row : Nat) (rfm : Bool) : Dev :=
  if d.nbrFull c sub then d
  else
    let d := d.modFch c fun f => { f with nbr := f.nbr ++ [(bank, row, rfm)] }
    if d.nbrFull c sub then d.countAs 0x0C4 1 (some (d.farChid c)) none none else d

/-- The key of a THROTTLE counter: bank and tenant + 1, 0 for the shared one. -/
def distKey (bank slot : Nat) : Nat := bank * 64 + slot

/-- One activate in THROTTLE (R156, R157): the tenant's own counter, a free one, or the shared one. The shared counter at its limit
holds every tenant counted there, and a member's Relay-up port. -/
def Dev.countDist (d : Dev) (c bank : Nat) (t : Option TenantId) (relay : Bool) : Dev :=
  let tab := (d.fch c).dist
  let own := (List.range 32).filter fun i => 0 < Sparse.get 0 tab (distKey bank (i + 1))
  let slot := match t with
    | some t => if relay then 0 else if 0 < Sparse.get 0 tab (distKey bank (t.val + 1)) ∨ own.length < 4 then t.val + 1 else 0
    | none => 0
  let n := Sparse.get 0 tab (distKey bank slot) + 1
  let d := d.modFch c fun f =>
    { f with dist := Sparse.put 0 f.dist (distKey bank slot) n
             distIn := match t with
               | some t => if slot = 0 ∧ ¬ relay then f.distIn.add (bank * 32 + t.val) else f.distIn
               | none => f.distIn }
  if n = d.fld (Fld.farDistCtl_limit c) then
    let loc := farBankLoc d.chainId c bank
    let held := if slot = 0 then (List.range 32).filter fun i => (d.fch c).distIn.has (bank * 32 + i) else [slot - 1]
    let d := d.modFch c fun f => { f with distShared := f.distShared || slot == 0, distHeld := f.distHeld ++ held }
    d.raise { num := 0x132, chid := some (d.farChid c), tenant := t, loc := loc }
  else d

/-- The refresh-management threshold in force: the lowest that a module of the channel reports in its mode registers (R153), 0 where
none does. -/
def Dev.rfmThreshold (d : Dev) (c : Nat) : Nat :=
  match ((d.fch c).dimms.map (·.raaimt)).filter (0 < ·) with
  | [] => 0
  | m :: ms => ms.foldl min m

/-- One activate of a far bank: refresh management and the channel's disturbance mode (R153 to R157). An RFM that finds the queue full
stays due. -/
def Dev.activate (d : Dev) (c cli : Nat) (t : Option TenantId) (relay : Bool) : Dev :=
  let f := d.farFields c cli
  let bank := f.bankIdx
  let n := Sparse.get 0 (d.fch c).raa bank + 1
  let th := d.rfmThreshold c
  let due := decide (0 < th ∧ th ≤ n)
  let room := !d.nbrFull c f.sc
  let d := d.modFch c fun x => { x with raa := Sparse.put 0 x.raa bank (if due && room then 0 else n) }
  let d := if due then d.queueNbr c f.sc bank f.row true else d
  if d.fld (Fld.farChCfg_dist c) = 1 then d.countDist c bank t relay
  else
    let draw := (Config.paraDraw (d.fch c).paraDraws).toNat
    let d := d.modFch c fun x => { x with paraDraws := x.paraDraws + 1 }
    if draw % 2 ^ d.fld (Fld.farChCfg_paraK c) = 0 then d.queueNbr c f.sc bank f.row false else d

/-- A scrub read, or the writeback of a corrected line or of an uncorrectable line's stored poison (R184): it activates its row, and counts
as wasted slots under scrub. -/
def Dev.rewriteFar (d : Dev) (c cli : Nat) : Dev := (d.activate c cli none false).waste (farSched c cli) 0x01A (d.burst c)

/-- The same of a Crema line. -/
def Dev.rewriteCrema (d : Dev) (g l : Nat) : Dev := (d.activateCrema (d.crmSched g l) g l).waste (d.crmSched g l) 0x01A 4

/-! ### The queues (R146, R148 to R150, R290, R307, R308) -/

/-- What an access is: its class, whether it writes, whose activate it is, and the transaction that waits for it (R147). -/
structure Who where
  cls : Cls := .b
  wr : Bool := false
  tenant : Option TenantId := none
  relay : Bool := false
  txn : Option Nat := none
  opened : Bool := false
  deriving DecidableEq, Repr

/-- A scheduler's queue. -/
def Dev.schedOf (d : Dev) (s : Nat) : Sched := Sparse.get ⟨[], false⟩ d.sched s
def Dev.queueOf (d : Dev) (s : Nat) : List Req := (d.schedOf s).reqs

/-- Changes a scheduler's queue. -/
def Dev.modSched (d : Dev) (s : Nat) (f : Sched → Sched) : Dev :=
  { d with sched := Sparse.put ⟨[], false⟩ d.sched s (f (d.schedOf s)) }

/-- Buffers of a part that requests hold, of one scheduler or of all. -/
def heldBufs (p : BufPart) (l : List Req) : Nat := (l.filter fun r => r.buf == some p).length
def Dev.allBufs (d : Dev) (p : BufPart) : Nat := (d.sched.map fun (e : Nat × Sched) => heldBufs p e.2.reqs).sum

/-- Buffers that work without a scheduler draws from the shared part (R308): held writes and lines that a rekey collects. -/
def Dev.looseBufs (d : Dev) : Nat :=
  (d.txns.filter fun x => x.phase == .heldWrite).length +
  (match d.cry.rekey with
   | some r => (r.pages.toList.map fun o => match o with | some p => p.held.length | none => 0).sum
   | none => 0) +
  ((List.range 8).map fun c => (d.fch c).pprBufs).sum

/-- Free shared buffers (R307). -/
def Dev.sharedFree (d : Dev) : Nat := 16384 - 2560 - d.fld Fld.svcLbpCtl_gres - (d.allBufs .shared + d.looseBufs)

/-- The buffer that a request of a class takes at a scheduler (R308), none where it must wait. -/
def Dev.takeBuf (d : Dev) (s : Nat) (cls : Cls) : Option BufPart :=
  if heldBufs .reserve (d.queueOf s) < 32 then some .reserve
  else if cls = .g ∧ d.allBufs .classG < d.fld Fld.svcLbpCtl_gres then some .classG
  else if cls = .s then (if d.fld Fld.svcLbpCtl_sFloor < d.sharedFree then some .shared else none)
  else if 0 < d.sharedFree then some .shared else none

/-- Requests that wait at the ingress take the buffers that have come free, oldest first. -/
def Dev.fillBufs (d : Dev) (s : Nat) : Dev :=
  (List.range (d.queueOf s).length).foldl (fun d i =>
    match (d.queueOf s)[i]? with
    | some r => if r.buf.isNone then
        let b := d.takeBuf s r.cls
        d.modSched s fun q => { q with reqs := q.reqs.modify i fun x => { x with buf := b } } else d
    | none => d) d

/-- Does a far scheduler hold a write of the line (R150)? -/
def Dev.writeQueued (d : Dev) (s line : Nat) : Bool := 64 ≤ s && (d.queueOf s).any fun r => r.wr && r.line == line

/-- An access enters a scheduler's queue. In the far tier a write of a line whose write is queued takes that one's place, and a read of
one has its data from there (R150). -/
def Dev.enqueue (d : Dev) (s line : Nat) (w : Who) : Dev :=
  if d.writeQueued s line then d
  else
    let r : Req := { wr := w.wr, cls := w.cls, promoted := false, queued := d.stamp, line := line, opened := w.opened,
                     tenant := w.tenant, relay := w.relay, txn := w.txn, buf := d.takeBuf s w.cls }
    let d := d.modSched s fun q => { q with reqs := q.reqs ++ [r] }
    let writes := ((d.queueOf s).filter (·.wr)).length
    if 64 ≤ s ∧ d.fld Fld.farSchedCtl_wqHi ≤ writes then d.modSched s fun q => { q with drain := true } else d

/-- Has a request waited longer than the bound, so that it is promoted (R149)? -/
def Dev.aged (d : Dev) (r : Req) : Bool := r.cls != .g && decide (16 * d.fld Fld.farSchedCtl_age < r.queued.cyclesTo d.stamp)

/-- The rank of a request (R148, R149); rank 1 is carried work, which the slot accounts place (R29). -/
def Req.rank (r : Req) : Nat :=
  match r.cls, r.promoted with
  | .g, _ => 2
  | .l, true => 3
  | .l, false => 4
  | .b, true => 4
  | .b, false => 5
  | .s, true => 5
  | .s, false => 6

/-- Is the bank of a request held: by a full neighbour-refresh queue with an entry of it (R132, R155), or by a soft repair (R165)? -/
def Dev.bankHeld (d : Dev) (s : Nat) (r : Req) : Bool :=
  if s < 64 then
    let q := Sparse.get [] d.crm.nbr s
    decide (8 ≤ q.length) && q.any fun e => e.1 == d.cremaBankOf (r.line / 64) (r.line % 64)
  else
    let c := (s - 64) / 2
    let f := d.farFields c r.line
    (d.nbrFull c f.sc && (d.fch c).nbr.any fun e => e.1 == f.bankIdx) ||
    (match (d.fch c).ppr with | some (l, _, _) => locHi l == f.bankIdx | none => false)

/-- May a request issue now: it has a buffer, its bank is not held, its channel is awake? Bank, rank and bus timing is outside the
model (log entry 43). -/
def Dev.eligible (d : Dev) (s : Nat) (r : Req) : Bool :=
  r.buf.isSome && !d.bankHeld s r && (s < 64 || d.fld (Fld.farChSts_state ((s - 64) / 2)) != 3)

/-- The first of some requests by rank, the oldest of equals, a read before a write of its rank. -/
def bestReq : List Req → Option Req
  | [] => none
  | r :: l => match bestReq l with
    | none => some r
    | some b => if b.rank < r.rank ∨ (b.rank = r.rank ∧ r.wr = true ∧ b.wr = false) then some b else some r

/-- Promotes the requests of a scheduler whose bound has expired. -/
def Dev.promote (d : Dev) (s : Nat) : Dev :=
  d.modSched s fun q => { q with reqs := q.reqs.map fun r => { r with promoted := r.promoted || d.aged r } }

/-- The request that a scheduler issues next (R148, R150): of the 64 oldest reads and the 64 oldest writes those that are eligible, and
only writes while it drains them. -/
def Dev.nextReq (d : Dev) (s : Nat) : Option Req :=
  let q := d.schedOf s
  let ok := fun (l : List Req) => (if s < 64 then l else l.take 64).filter (d.eligible s)
  let rd := ok (q.reqs.filter fun r => !r.wr)
  let wr := ok (q.reqs.filter (·.wr))
  if q.drain && !wr.isEmpty then bestReq wr else bestReq (q.reqs.filter fun r => rd.contains r || wr.contains r)

/-- One request issues: its activate, its data beats, and its buffer returns. Draining ends at WQ_LO. -/
def Dev.issue (d : Dev) (s : Nat) (r : Req) : Dev :=
  let d := d.modSched s fun q => { q with reqs := q.reqs.erase r }
  let d := if s < 64 then
      (if r.opened then d else d.activateCrema s (r.line / 64) (r.line % 64)).beats s (r.cls == .g) 4
    else
      let c := (s - 64) / 2
      (d.activate c r.line r.tenant r.relay).beats s (r.cls == .g) (d.burst c)
  let writes := ((d.queueOf s).filter (·.wr)).length
  let d := if writes ≤ d.fld Fld.farSchedCtl_wqLo then d.modSched s fun q => { q with drain := false } else d
  if (d.queueOf s).any (·.buf.isNone) then d.fillBufs s else d

/-- Issues requests in order until `stop` says enough, at most `fuel`. -/
def Dev.issueWhile (d : Dev) (s : Nat) (more : Dev → Bool) : Nat → Dev
  | 0 => d
  | n + 1 =>
    let d := d.promote s
    if more d then (match d.nextReq s with | some r => Dev.issueWhile (d.issue s r) s more n | none => d) else d

/-- Does the request of a transaction still wait in a scheduler's queue? -/
def Dev.waitsAt (d : Dev) (s id : Nat) : Bool := (d.queueOf s).any fun r => r.txn == some id

/-- Issues what ranks before the request of a transaction, and that request. -/
def Dev.issueFor (d : Dev) (s id : Nat) : Dev := d.issueWhile s (fun d => d.waitsAt s id) (d.queueOf s).length

/-- A transfer of a Crema line enters its scheduler's queue. A write to a frame that a rotation has copied goes to the spare as well
(R137). -/
def Dev.cremaAccess (d : Dev) (g l : Nat) (w : Who) : Dev :=
  let both := w.wr && (match d.crm.rot with
    | some r => r.phase == 0 && r.source.val == d.framePhys g && decide (framePos g < r.pointer)
    | none => false)
  let d := d.enqueue (d.crmSched g l) (cremaKey g l) w
  if both then d.enqueue (2 * d.fld Fld.crmSts_spare + l % 2) (cremaKey g l) { w with txn := none } else d

/-- A request reaches a far channel: the idle count starts again, a sleeping channel is told to wake (R52, R53), and the access enters
its subchannel's queue (R146). -/
def Dev.farQueue (d : Dev) (c cli : Nat) (w : Who) : Dev :=
  let asleep := d.fld (Fld.farChSts_state c) == 3
  let now := d.now
  let d := d.modFch c fun f => { f with lastReq := now, wakeBy := if asleep && f.wakeBy.isNone then some (now + 8) else f.wakeBy, reqs := f.reqs + 1 }
  d.enqueue (farSched c cli) cli w

end Sys2Proof.Machine
end

