-- ==== Sys2Proof/Machine/Meta.lean ====
section
/-! DEFINITION. Sys2Proof/Machine/Meta.lean: the caches of metadata: the metadata cache with its spill area (R98, R99, R215), the tag
cache (R106), the page-map cache (R98, R99), and the tags of the counter trees (R213, R214, R226). What a cached line holds is a
function of the state, so the caches hold which lines they hold, and whether one is dirty. -/

namespace Sys2Proof.Machine

/-! ### Sets of a cache -/

/-- A line is used in a set of 16: it stands first, and a full set gives up the line used longest ago. -/
def useLine (l : List Nat) (x : Nat) : List Nat := x :: (l.filter (· != x)).take 15

/-- Sets of the metadata cache and of the tag cache: 8 MiB of 64 B lines, 16-way (R106, R215). -/
def cacheSets : Nat := 8192

/-! ### Places in the Crema metadata reserve (R98, R99) -/

/-- Lines of the areas of one half of the reserve: tags, bitmap, spill, page map. -/
def Dev.halfAreas (d : Dev) : List Nat :=
  (match d.part with | .xtp8640 => [300, 240, 256, 228] | .xtp8632 => [150, 240, 64, 58]).map (· * 16384)

/-- First line of an area within its half. -/
def Dev.areaBase (d : Dev) (area : Nat) : Nat := (d.halfAreas.take area).sum

/-- Lines of an area that both halves share: the spill area and the page-map cache. -/
def Dev.sharedLines (d : Dev) (area : Nat) : Nat := 2 * d.halfAreas.getD area 0

/-- Frame and line of a line of a half of the reserve. -/
def Dev.reserveLine (d : Dev) (half n : Nat) : Nat × Nat := (d.metaFrame + half * d.halfFrames + n / 64, n % 64)

/-- Frame and line of a slot of a shared area: the first half's slots, then the second's. -/
def Dev.sharedPlace (d : Dev) (area slot : Nat) : Nat × Nat :=
  let n := d.halfAreas.getD area 0
  d.reserveLine (slot / n) (d.areaBase area + slot % n)

/-- One access of a line of the reserve. -/
def Dev.reserveAccess (d : Dev) (w : Who) (p : Nat × Nat) : Dev := d.cremaAccess p.1 p.2 { w with txn := none, opened := false }

/-! ### The tag cache (R106) -/

/-- A lookup of a set needs its summary line and, with a way, the state line of that way; a line that the cache does not hold, or holds
with a poisoned word, is read from copy 1. -/
def Dev.tagLine (d : Dev) (w : Who) (n : Nat) : Dev :=
  let k := n % cacheSets
  let l := Sparse.get [] d.crm.tagCache k
  let bad := (List.range 8).any fun i => d.wordBad .tagCache (8 * n + i)
  let d := if l.contains n && !bad then d else d.reserveAccess { w with wr := false } (d.reserveLine 0 n)
  let d := if bad then (List.range 8).foldl (fun d i => d.wordWrite .tagCache (8 * n + i)) d else d
  { d with crm := { d.crm with tagCache := Sparse.put [] d.crm.tagCache k (useLine l n) } }

/-- The tag lines that a set's lookup needs. -/
def tagLines (set : Nat) (way : Option Nat) : List Nat :=
  (5 * set) :: (match way with | some x => [5 * set + 1 + x / 4] | none => [])

/-- A lookup of tags. -/
def Dev.tagRead (d : Dev) (w : Who) (set : Nat) (way : Option Nat) : Dev :=
  (tagLines set way).foldl (fun d n => d.tagLine w n) d

/-- An update of tags: each line is written through to both copies. The summary entry of a way is 32 bits of its word (R103, R180). -/
def Dev.tagWrite (d : Dev) (w : Who) (set : Nat) (way : Option Nat) : Dev :=
  let d := match way with
    | some x => d.mergeWrite .tagCache (8 * (5 * set) + x / 2) (if x % 2 = 0 then 0x0F else 0xF0)
    | none => d
  (tagLines set way).foldl (fun d n =>
    ((d.tagLine w n).reserveAccess { w with wr := true } (d.reserveLine 0 n)).reserveAccess { w with wr := true } (d.reserveLine 1 n)) d

/-- An update of the fresh-page bitmap for a page of a far channel: both copies are written (R99, R197). A line has 512 pages. -/
def Dev.bitmapWrite (d : Dev) (w : Who) (page : Nat) : Dev :=
  let n := d.areaBase 1 + page / 512
  (d.reserveAccess { w with wr := true } (d.reserveLine 0 n)).reserveAccess { w with wr := true } (d.reserveLine 1 n)

/-! ### The page-map cache -/

/-- A read of a line of a compressed pool's map: from the page-map cache, or from its far home, from where a copy enters the cache. -/
def Dev.mapRead (d : Dev) (w : Who) (c cli : Nat) (far : Dev → Dev) : Dev :=
  let k := farKey c cli
  let slot := k % max 1 (d.sharedLines 3)
  if Sparse.get 0 d.prs.mapCache slot = k + 1 then d.reserveAccess { w with wr := false } (d.sharedPlace 3 slot)
  else
    let d := (far d).reserveAccess { w with wr := true } (d.sharedPlace 3 slot)
    { d with prs := { d.prs with mapCache := Sparse.put 0 d.prs.mapCache slot (k + 1) } }

/-! ### The metadata cache (R215) -/

/-- Is a line a tree node of level 6 or above, which the cache pins? -/
def MetaRef.pinned : MetaRef → Bool
  | .node _ _ level _ => decide (6 ≤ level)
  | _ => false

/-- The set of a metadata line. -/
def Dev.metaSet (d : Dev) (r : MetaRef) : Nat :=
  match d.metaPlaces r with
  | (c, cli) :: _ => farKey c cli % cacheSets
  | [] => 0

/-- The line a counter block takes in the spill area, and its value there. -/
def Dev.spillSlot (d : Dev) (c pg : Nat) : Nat × Nat := (pageKey c pg % max 1 (d.sharedLines 2), pageKey c pg + 1)

/-- Reads or writes every copy of a metadata line on a far channel in service, or the first one only. -/
def Dev.metaCopies (d : Dev) (w : Who) (r : MetaRef) (all : Bool) : Dev :=
  let l := (d.metaPlaces r).filter fun p => d.fld (Fld.farChSts_state p.1) != 4
  (if all then l else l.take 1).foldl (fun d p => d.farQueue p.1 p.2 { w with txn := none, opened := false }) d

/-- What becomes of a line that leaves the cache, but for its parent's tag: a dirty one is written to the far tier, a counter block enters
the spill area as a clean line. -/
def Dev.metaEvict (d : Dev) (w : Who) (r : MetaRef) (dirty : Bool) : Dev :=
  let d := if dirty then d.metaCopies { w with wr := true } r true else d
  match r with
  | .ctr c pg =>
    let (slot, v) := d.spillSlot c pg
    let d := d.reserveAccess { w with wr := true } (d.sharedPlace 2 slot)
    { d with cry := { d.cry with spill := Sparse.put 0 d.cry.spill slot v } }
  | _ => d

/-- The use of a metadata line by an access: from the cache; from the spill area; or from the far tier, where a counter block or node is
verified against its parent, fetched in the same way. The line that it pushes out updates its tag in the parent. -/
def Dev.metaUse (d : Dev) (w : Who) (r : MetaRef) (dirty : Bool) : Nat → Dev
  | 0 => d
  | fuel + 1 =>
    if r.pinned then d
    else
      let k := d.metaSet r
      let set := fun (d : Dev) => Sparse.get [] d.cry.cache k
      let put := fun (d : Dev) (l : List (MetaRef × Bool)) => { d with cry := { d.cry with cache := Sparse.put [] d.cry.cache k l } }
      match (set d).find? (·.1 == r) with
      | some e => put d ((r, e.2 || dirty) :: (set d).filter (·.1 != r))
      | none =>
        let spilled := match r with | .ctr c pg => let (slot, v) := d.spillSlot c pg; Sparse.get 0 d.cry.spill slot == v | _ => false
        let d := if spilled then
            (match r with | .ctr c pg => d.reserveAccess { w with wr := false } (d.sharedPlace 2 (d.spillSlot c pg).1) | _ => d)
          else
            let d := d.metaCopies { w with wr := false } r false
            match d.metaParent r with | some p => Dev.metaUse d w p false fuel | none => d
        -- a write makes the spilled copy stale
        let d := match r with
          | .ctr c pg => let (slot, v) := d.spillSlot c pg
            if dirty && Sparse.get 0 d.cry.spill slot == v then { d with cry := { d.cry with spill := Sparse.put 0 d.cry.spill slot 0 } } else d
          | _ => d
        let l := set d
        let d := put d ((r, dirty) :: l.take 15)
        match l[15]? with
        | some (v, vd) =>
          let d := d.metaEvict w v vd
          if vd then (match d.metaParent v with | some p => Dev.metaUse d w p true fuel | none => d) else d
        | none => d

/-- The bytes of a counter block that hold the MINOR of line `l`, by word (R207). -/
def minorBytes (l : Nat) : List (Nat × BitVec 8) :=
  let (a, b) := ((64 + 7 * l) / 8, (64 + 7 * l + 6) / 8)
  let bit := fun (x : Nat) => (x / 8, BitVec.ofNat 8 (2 ^ (x % 8)))
  if a = b then [bit a] else [bit a, bit b]

/-- A new MINOR in the metadata cache, narrower than its words (R180). -/
def Dev.minorWrite (d : Dev) (c cli : Nat) : Dev :=
  (minorBytes (cli % 64)).foldl (fun d (e : Nat × BitVec 8) =>
    d.mergeWrite .metadataCache (8 * farKey c (d.ctrBase c + cli / 64) + e.1) e.2) d

/-- The metadata that an access to a data line or spare-sector line needs: its counter block and MAC line, in the class of the access
(R147). -/
def Dev.metaFor (d : Dev) (c cli : Nat) (w : Who) : Dev :=
  let d := (d.metaUse w (.ctr c (cli / 64)) w.wr 16).metaUse w (.mac c (cli / 16)) w.wr 16
  if w.wr then d.minorWrite c cli else d

/-- The lines of a stored page beside one of them. -/
def pageOthers (cli : Nat) : List Nat := ((List.range 64).filter (· != cli % 64)).map (cli / 64 * 64 + ·)

/-- Accesses to several lines of a channel, none of which a transaction waits for. -/
def Dev.farLines (d : Dev) (c : Nat) (l : List Nat) (w : Who) : Dev :=
  l.foldl (fun d x => d.farQueue c x { w with txn := none, opened := false }) d

/-- An access to a line of a far channel that the tree protects, with the metadata that it needs. A write to a fresh page writes the
whole page and the bitmap (R197); one at MINOR 127 reads and writes the whole page (R219). -/
def Dev.farAccess (d : Dev) (c cli : Nat) (w : Who) : Dev :=
  let pg := cli / 64
  let d := if w.wr then
      if !d.mem.written.has (pageKey c pg) then (d.farLines c (pageOthers cli) w).bitmapWrite w (d.pageAt c pg)
      else if 127 ≤ ctrMinor (d.ctrBlock c pg) (cli % 64) then
        (d.farLines c (pageOthers cli) { w with wr := false }).farLines c (pageOthers cli) w
      else d
    else d
  (d.farQueue c cli w).metaFor c cli w

/-! ### Tags (R213, R214, R226) -/

/-- The pages whose counter blocks lie beneath a node, as first page and count. -/
def Dev.pagesUnder (d : Dev) (c : Nat) (spare : Bool) (level index : Nat) : Nat × Nat :=
  ((if spare then d.dataLines c / 64 else 0) + index * 8 ^ level, 8 ^ level)

/-- Is the tag of a child computed under the new key: every counter block beneath it lies below the boundary (R226)? -/
def Dev.tagNew (d : Dev) (c : Nat) (spare : Bool) (level index : Nat) : Bool :=
  let (first, n) := d.pagesUnder c spare level index
  !d.rekeying || d.flag (Fld.cryFarBound_end c) || decide (min (first + n) (d.storedPages c) ≤ d.fld (Fld.cryFarBound_page c))

/-- The tree key of a tag: none while no generation key is held. -/
def Dev.tagKey (d : Dev) (new : Bool) : Option (BitVec 256) :=
  if new then d.cry.key.map fun k => treeKey k d.cry.rekeys else d.cry.oldKey.map fun k => treeKey k (d.cry.rekeys - 1)

/-- Children that a node of level `level` may have: the counter blocks, or the nodes of the level below. -/
def Dev.childCount (d : Dev) (c : Nat) (spare : Bool) (level : Nat) : Nat :=
  if level ≤ 1 then (if spare then ceilDiv (8 * d.spareSectors c) 64 else d.dataLines c / 64)
  else (d.treeOf c spare).getD (level - 2) 0

/-- What a counter block (level 0) or tree node holds (R207, R213): a node the tags of its children, each under its key (R226); a slot
beyond the last child holds zero. -/
def Dev.nodeLine (d : Dev) (c : Nat) (spare : Bool) : Nat → Nat → Line
  | 0, index => d.ctrBlock c ((d.pagesUnder c spare 0 index).1)
  | level + 1, index =>
    (List.range 8).foldl (fun acc k =>
      let i := 8 * index + k
      if i < d.childCount c spare (level + 1) then
        match d.tagKey (d.tagNew c spare level i) with
        | some key => acc ||| ((treeTagOf key c level i (Dev.nodeLine d c spare level i)).setWidth 512) <<< (64 * k)
        | none => acc
      else acc) 0

/-- The root registers of a tree: the tags of its highest stored level (R213). -/
def Dev.rootTags (d : Dev) (c : Nat) (spare : Bool) : List (BitVec 64) :=
  let top := (d.treeOf c spare).length
  (List.range ((d.treeOf c spare).getD (top - 1) 0)).map fun i =>
    match d.tagKey (d.tagNew c spare top i) with
    | some key => treeTagOf key c top i (d.nodeLine c spare top i)
    | none => 0

/-- The boundary passes stored page `pg`: every node whose last page it is takes its tag anew in its parent, up to the root (R226). -/
def Dev.retag (d : Dev) (w : Who) (r : MetaRef) : Nat → Dev
  | 0 => d
  | fuel + 1 =>
    let last : Bool := match r with
      | .ctr _ _ => true
      | .node c spare level index => let (first, n) := d.pagesUnder c spare level index
        d.flag (Fld.cryFarBound_end c) || decide (min (first + n) (d.storedPages c) ≤ d.fld (Fld.cryFarBound_page c))
      | .mac _ _ => false
    if last then (match d.metaParent r with
      | some p => Dev.retag (d.metaUse w p true 16) w p fuel
      | none => d)
    else d

end Sys2Proof.Machine
end

