-- ==== Sys2Proof/Machine/Memory.lean ====
section
/-! DEFINITION. Sys2Proof/Machine/Memory.lean: the bytes of Crema and of the far tier: reading and writing one line with
its poison, freshness, counters and rekey buffer (R93, R188, R189, R196 to R198, R222, R225, R480), and the cache frames
(R102 to R105). -/

namespace Sys2Proof.Machine

/-! ### Byte lists -/

/-- The form in which a byte list is held: addresses strictly rising, no entry of value 0. -/
def Memory.wf (m : List Host.Cell) : Bool := Sparse.wf (0 : BitVec 8) m

/-- The byte at an address; an unlisted one is 0. -/
def Memory.byte (m : List Host.Cell) (a : Nat) : Byte := Sparse.get (0 : BitVec 8) m a

/-- Writes one byte. -/
def Memory.setByte (m : List Host.Cell) (a : Nat) (b : Byte) : List Host.Cell := Sparse.put (0 : BitVec 8) m a b

/-- The line of 64 bytes with key `k`. -/
def Memory.line (m : List Host.Cell) (k : Nat) : Line :=
  (List.range 64).foldl (fun acc i => acc ||| ((Memory.byte m (k * 64 + i)).setWidth 512) <<< (8 * i)) 0

/-- Writes a line. -/
def Memory.setLine (m : List Host.Cell) (k : Nat) (l : Line) : List Host.Cell :=
  (List.range 64).foldl (fun m i => Memory.setByte m (k * 64 + i) (lineByte l i)) m

/-- The list without the bytes whose line key `p` picks. -/
def Memory.clear (m : List Host.Cell) (p : Nat → Bool) : List Host.Cell := m.filter fun e => !p (e.1 / 64)

/-- Where the bytes of each tier lie. -/
def Dev.putCrema (d : Dev) (k : Nat) (l : Line) : Dev := { d with mem := { d.mem with crema := Memory.setLine d.mem.crema k l } }
def Dev.putFar (d : Dev) (k : Nat) (l : Line) : Dev := { d with mem := { d.mem with far := Memory.setLine d.mem.far k l } }

/-! ### Media addresses of a channel's lines -/

/-- The MA of a far data line held uncompressed. -/
def Dev.farMa (d : Dev) (c cli : Nat) : Nat := mkMa d.chainId true (d.pageAt c (cli / 64) * 4096 + cli % 64 * 64)

/-- The MA of a near line. -/
def Dev.nearMa (d : Dev) (g l : Nat) : Nat := mkMa d.chainId false (g * 4096 + l * 64)

/-! ### Far lines -/

/-- Is the far channel lost? -/
def Dev.farLost (d : Dev) (c : Nat) : Bool := d.fld (Fld.farChSts_state c) == 4

/-- First page and page count of a poisoned subtree as `subtrees` lists it (R222): a node of level ℓ covers 8^ℓ pages, cut off at the end
of its tree. -/
def Dev.subtreePages (d : Dev) (c level index : Nat) : Nat × Nat :=
  let n := d.dataLines c / 64
  let w := 8 ^ (level % 16)
  if level < 16 then (index * w, min w (n - index * w)) else (n + index * w, min w (d.storedPages c - n - index * w))

/-- Does a stored page lie under a poisoned subtree (R222)? -/
def Dev.inSubtree (d : Dev) (c pg : Nat) : Bool :=
  (d.fch c).subtrees.any fun (lv, ix) => let (a, n) := d.subtreePages c lv ix; decide (a ≤ pg ∧ pg < a + n)

/-- The key in `lostFresh` that says that all of a channel's pages are lost-fresh but those it lists (R485). -/
def lostBase (c : Nat) : Nat := 8 * 2 ^ 28 + c

/-- Is a stored page lost-fresh (R198, R485)? -/
def Dev.lostPage (d : Dev) (c pg : Nat) : Bool :=
  d.mem.lostFresh.has (pageKey c pg) != d.mem.lostFresh.has (lostBase c)

/-- The set with a page made lost-fresh, or not. -/
def setLost (m : NatSet) (c pg : Nat) (b : Bool) : NatSet := Sparse.put false m (pageKey c pg) (b != m.has (lostBase c))

/-- Is a stored page fresh (R196)? -/
def Dev.farFresh (d : Dev) (c pg : Nat) : Bool := !d.mem.written.has (pageKey c pg) && !d.lostPage c pg

/-- The page that the rekey holds in collection on a channel (R225); a committed page stands in DRAM. -/
def Dev.heldPage (d : Dev) (c pg : Nat) : Option RekeyPage :=
  match d.cry.rekey with
  | some r => match vget none r.pages c with
    | some p => if p.page = pg && !p.committed then some p else none
    | none => none
  | none => none

/-- Changes the page held on a channel. -/
def Dev.modHeldPage (d : Dev) (c : Nat) (f : RekeyPage → RekeyPage) : Dev :=
  { d with cry := { d.cry with rekey := d.cry.rekey.map fun r => { r with pages := vmod r.pages c fun o => o.map f } } }

/-- A far line as its reader gets it: data, and whether it is poison. -/
def Dev.farView (d : Dev) (c cli : Nat) : Line × Bool :=
  let pg := cli / 64
  if d.farLost c then (0, true)
  else if d.farFresh c pg then (0, false)
  else if d.lostPage c pg || d.inSubtree c pg then (0, true)
  else match d.heldPage c pg with
    | some h =>
      if h.got.getLsbD (cli % 64) then
        if h.poison.getLsbD (cli % 64) then (0, true) else (Sparse.get 0 h.held (cli % 64), false)
      else if d.mem.farPoison.has (farKey c cli) then (0, true) else (Memory.line d.mem.far (farKey c cli), false)
    | none => if d.mem.farPoison.has (farKey c cli) then (0, true) else (Memory.line d.mem.far (farKey c cli), false)

/-- Marks a far line as holding poison. -/
def Dev.setFarPoison (d : Dev) (c cli : Nat) (b : Bool) : Dev :=
  { d with mem := { d.mem with farPoison := Sparse.put false d.mem.farPoison (farKey c cli) b } }

/-- Stores in the line-state of a far line whether it holds the zeros of page initialisation (R177). -/
def Dev.setFresh (d : Dev) (c cli : Nat) (b : Bool) : Dev :=
  { d with mem := { d.mem with fresh := Sparse.put false d.mem.fresh (farKey c cli) b } }

/-- Page initialisation (R197, R198) for a write of line `cli`: the counter block takes its start, every other line reads zero with
FRESH, or is stored poisoned on a lost-fresh page, which is a first storing (R188); the page is no longer fresh. -/
def Dev.initPage (d : Dev) (c cli : Nat) : Dev :=
  let pg := cli / 64
  let lost := d.lostPage c pg
  let d := d.freshCtr c pg (d.pageNew c pg)
  let mine := fun (k : Nat) => k / 64 == farKey c (pg * 64) / 64
  let d := { d with mem := { d.mem with
    far := Memory.clear d.mem.far mine
    farPoison := d.mem.farPoison.drop mine
    written := d.mem.written.add (pageKey c pg)
    lostFresh := setLost d.mem.lostFresh c pg false } }
  (pageOthers cli).foldl (fun d x =>
    if lost then
      let ma := d.farMa c x
      (d.setFarPoison c x true).firstPoison ma false (d.farChid c) (d.farLocator c x) .internal
    else d.setFresh c x true) d

/-- Marks a page fresh again (R91, R93). -/
def Dev.refreshPage (d : Dev) (c pg : Nat) : Dev :=
  { d with mem := { d.mem with
    far := Memory.clear d.mem.far (fun k => k / 64 == farKey c (pg * 64) / 64)
    farPoison := d.mem.farPoison.drop (fun k => k / 64 == farKey c (pg * 64) / 64)
    fresh := d.mem.fresh.drop (fun k => k / 64 == farKey c (pg * 64) / 64)
    written := d.mem.written.del (pageKey c pg)
    lostFresh := setLost d.mem.lostFresh c pg false } }

/-- Writes new content, or stored poison, to a far line. On a lost channel the write is dropped (R480); in a poisoned
subtree it is dropped and recorded (R222); a fresh page is initialised first (R197); a line held by the rekey is merged
there (R228); poison changes no counter (R208). -/
def Dev.farStore (d : Dev) (c cli : Nat) (data : Line) (poison : Bool) : Dev :=
  let pg := cli / 64
  if d.farLost c then d
  else if d.inSubtree c pg then d.raise { num := 0x153, chid := some (d.farChid c), loc := d.farLocator c cli }
  else
    let d := (if d.mem.written.has (pageKey c pg) then d else d.initPage c cli).setFresh c cli false
    match d.heldPage c pg with
    | some h =>
      if h.got.getLsbD (cli % 64) then
        d.modHeldPage c fun h => { h with
          held := Sparse.put 0 h.held (cli % 64) (if poison then 0 else data)
          poison := if poison then h.poison ||| BitVec.ofNat 64 (2 ^ (cli % 64)) else h.poison &&& ~~~(BitVec.ofNat 64 (2 ^ (cli % 64))) }
      else if poison then (d.setFarPoison c cli true).putFar (farKey c cli) 0
      else ((d.countWrite c pg (cli % 64)).setFarPoison c cli false).putFar (farKey c cli) data
    | none =>
      if poison then (d.setFarPoison c cli true).putFar (farKey c cli) 0
      else ((d.countWrite c pg (cli % 64)).setFarPoison c cli false).putFar (farKey c cli) data

/-! ### Crema lines -/

/-- A Crema line as its reader gets it. -/
def Dev.cremaView (d : Dev) (g l : Nat) : Line × Bool :=
  if d.mem.cremaPoison.has (cremaKey g l) then (0, true) else (Memory.line d.mem.crema (cremaKey g l), false)

/-- Writes a Crema line, or stored poison. -/
def Dev.cremaStore (d : Dev) (g l : Nat) (data : Line) (poison : Bool) : Dev :=
  let d := { d with mem := { d.mem with cremaPoison := Sparse.put false d.mem.cremaPoison (cremaKey g l) poison } }
  d.putCrema (cremaKey g l) (if poison then 0 else data)

/-- Drops a frame's bytes and poison. -/
def Dev.cremaDrop (d : Dev) (g : Nat) : Dev :=
  { d with mem := { d.mem with crema := Memory.clear d.mem.crema (fun k => k / 64 == g)
                               cremaPoison := d.mem.cremaPoison.drop (fun k => k / 64 == g) } }

/-! ### Cache frames (R102 to R105) -/

/-- The entry of a way. -/
def Dev.frame (d : Dev) (set way : Nat) : Frame := Sparse.get Frame.none d.frames (set * 16 + way)

/-- Sets the entry of a way. -/
def Dev.setFrame (d : Dev) (set way : Nat) (f : Frame) : Dev :=
  { d with frames := Sparse.put Frame.none d.frames (set * 16 + way) f }

/-- The far page number that a set and tag name (R102 backwards). -/
def Dev.pageOf (d : Dev) (set tag : Nat) : Nat := unxor15 (tag * d.sets + set) * mulInv % 2 ^ 32

/-- The way that caches a page with the compressed attribute `comp`, in whatever state but Invalid (R238). -/
def Dev.findWay (d : Dev) (p : Nat) (comp : Bool) : Option Nat :=
  let s := d.setOf p
  let t := d.tagOf p
  (List.range 16).find? fun w =>
    let f := d.frame s w
    f.st != 0 && f.tag == t && f.c == comp

/-- Is a way usable as a victim: Invalid or Valid, not pinned, on a backed channel, and not held by a store that waits
for compaction (R104, R124, R252)? -/
def Dev.wayEligible (d : Dev) (set way : Nat) : Bool :=
  let f := d.frame set way
  (f.st == 0 || f.st == 1) && !f.pin && d.flag (Fld.crmLmap_v (frameChan (d.frameOf set way))) &&
    !d.crm.heldWrites.contains (set * 16 + way)

/-- One round of ageing over the eligible ways (R104). -/
def Dev.ageWays (d : Dev) (set : Nat) (ways : List Nat) : Dev :=
  ways.foldl (fun d w =>
    let f := d.frame set w
    d.setFrame set w (if 0 < f.freq then { f with freq := f.freq - 1 } else { f with rrpv := f.rrpv + 1 })) d

/-- The search of R104: at most 11 rounds of ageing bring an eligible way to RRPV 3. -/
def Dev.victimIn (d : Dev) (set : Nat) (ways : List Nat) : Nat → Option (Nat × Dev)
  | 0 => none
  | fuel + 1 =>
    match ways.find? (fun w => (d.frame set w).st == 0) with
    | some w => some (w, d)
    | none => match ways.find? (fun w => (d.frame set w).rrpv == 3) with
      | some w => some (w, d)
      | none => Dev.victimIn (d.ageWays set ways) set ways fuel

/-- The victim of a set, with the set aged as the search ages it (R104). -/
def Dev.victim (d : Dev) (set : Nat) : Option (Nat × Dev) :=
  let ways := (List.range 16).filter (d.wayEligible set)
  if ways = [] then none else d.victimIn set ways 12

/-- Marks a hit (R104). -/
def Dev.touch (d : Dev) (set way : Nat) : Dev :=
  let f := d.frame set way
  d.setFrame set way { f with rrpv := 0, freq := min 7 (f.freq + 1) }

/-- Pinned frames change `CRM_PIN_STS`. -/
def Dev.countPinned (d : Dev) : Dev := d.setFld Fld.crmPinSts_pinned (d.frames.filter fun e => e.2.pin).length

/-- Makes a frame Invalid without writeback (R121). -/
def Dev.dropFrame (d : Dev) (set way : Nat) : Dev :=
  (((d.setFrame set way Frame.none).cremaDrop (d.frameOf set way)).tagWrite {} set (some way)).countPinned

/-- A page's place: OFFSET and line. -/
def offOf (p l : Nat) : Nat := p * 4096 + l * 64

/-- Is line l present in a frame (R103)? -/
def Frame.has (f : Frame) (l : Nat) : Bool := (f.st == 1 || f.st == 3) && f.valid.getLsbD l

/-- Sets valid and dirty bits of a line. -/
def Frame.mark (f : Frame) (l : Nat) (dirty : Bool) : Frame :=
  let b : BitVec 64 := BitVec.ofNat 64 (2 ^ l)
  { f with valid := f.valid ||| b, dirty := if dirty then f.dirty ||| b else f.dirty }

/-- Writes one dirty line of an uncompressed page to the far tier (R112, R187), in class `cls` (R147); the line stays present and
clean. -/
def Dev.writebackLine (d : Dev) (set way : Nat) (cls : Cls) (l : Nat) : Dev :=
  let f := d.frame set way
  if f.dirty.getLsbD l then
    let (data, poison) := d.cremaView (d.frameOf set way) l
    let x := d.farLoc (offOf (d.pageOf set f.tag) l)
    let d := (d.cremaAccess (d.frameOf set way) l { cls := cls }).farAccess x.ch x.cli { cls := cls, wr := true }
    let d := (d.farStore x.ch x.cli data poison).countAs 0x025 1 (some (d.farChid x.ch)) none none
    d.setFrame set way { f with dirty := f.dirty &&& ~~~(BitVec.ofNat 64 (2 ^ l)) }
  else d

/-- Writes every dirty line of an uncompressed frame back, in class `cls`. -/
def Dev.writebackFrame (d : Dev) (set way : Nat) (cls : Cls) : Dev :=
  if (d.frame set way).dirty = 0 then d
  else ((List.range 64).foldl (fun d l => d.writebackLine set way cls l) d).tagWrite { cls := cls } set (some way)

/-! ### Errors found on a channel (R182, R183, R185, R200, R479) -/

/-- Counts a corrected line or word. -/
def Dev.countCe (d : Dev) : Dev := d.bump Fld.rasEccCnt_ce 1

/-- Counts an uncorrectable line or word. -/
def Dev.countUe (d : Dev) : Dev := d.bump Fld.rasEccCnt_ue 1

/-- Number of the storm window of now (R185): windows begin at the multiples of their length (log entry 78). -/
def Dev.ceWindow (d : Dev) : Nat := d.now / 2 ^ (d.fld Fld.rasCeCtl_win + 12)

/-- Number of the loss window of now (R479): windows begin at the multiples of their length (log entry 78). -/
def Dev.ueWindow (d : Dev) : Nat := d.now / 2 ^ (d.fld Fld.rasLossCtl_win + 12)

/-- The entry to give up: the lowest count, the oldest of equals. -/
def lowestCe : List CeEntry → Option Nat
  | [] => none
  | l => let m := (l.map (·.count)).foldl min (2 ^ 64)
         some (l.findIdx (·.count == m))

/-- A correction counted under its locator (R185): the entry it is counted in. -/
def ErrTrack.addCe (t : ErrTrack) (loc : BitVec 64) (win : Nat) : ErrTrack :=
  match t.ce.findIdx? (·.loc == loc) with
  | some i => { t with ce := t.ce.modify i fun e =>
      if e.window = win then { e with count := e.count + 1 } else { e with count := 1, window := win } }
  | none =>
    let l := if t.ce.length < 32 then t.ce else match lowestCe t.ce with | some i => t.ce.eraseIdx i | none => t.ce
    { t with ce := l ++ [⟨loc, 1, win⟩] }

/-- Has a locator reached the threshold without a storm in this window? A storm is raised once per locator and window, even where the
locator has left the entries meanwhile. -/
def ErrTrack.storms (t : ErrTrack) (loc : BitVec 64) (win thresh : Nat) : Bool :=
  (t.stormWin != win || !t.stormed.has loc.toNat) && t.ce.any fun e => e.loc == loc && decide (thresh ≤ e.count)

/-- Marks the storm of a locator as raised in a window. -/
def ErrTrack.raised (t : ErrTrack) (loc : BitVec 64) (win : Nat) : ErrTrack :=
  { t with stormWin := win, stormed := (if t.stormWin = win then t.stormed else []).add loc.toNat }

/-- A corrected error on a far channel (tier 1) or Crema channel (tier 0). -/
def Dev.correctedOn (d : Dev) (far : Bool) (ch : Nat) (loc : BitVec 64) : Dev :=
  let d := d.countCe
  let chid := if far then d.farChid ch else d.cremaChid ch
  let d := d.raise { num := 0x140, chid := some chid, loc := loc }
  let t := (if far then (d.fch ch).err else vget ErrTrack.reset d.crm.err ch).addCe loc d.ceWindow
  let storm := t.storms loc d.ceWindow (d.fld Fld.rasCeCtl_thresh)
  let t := if storm then t.raised loc d.ceWindow else t
  let d := if far then d.modFch ch fun f => { f with err := t } else { d with crm := { d.crm with err := vmod d.crm.err ch fun _ => t } }
  if storm then d.raise { num := 0x142, chid := some chid, loc := loc } else d

/-- An uncorrectable line on a channel: counted towards the channel's limit; half the limit warns once a window, the
limit loses the channel at the next boundary (R479). -/
def Dev.ueOn (d : Dev) (far : Bool) (ch : Nat) : Dev :=
  let d := d.countUe
  let t := if far then (d.fch ch).err else vget ErrTrack.reset d.crm.err ch
  let win := d.ueWindow
  let t := if t.ueWindow = win then { t with ueCount := t.ueCount + 1 } else { t with ueWindow := win, ueCount := 1, warned := false }
  let lim := d.fld Fld.rasLossCtl_ueLimit
  let chid := if far then d.farChid ch else d.cremaChid ch
  let warn := !t.warned && lim ≤ 2 * t.ueCount
  let t := if warn then { t with warned := true } else t
  let lose := lim ≤ t.ueCount && !d.halted
  let d := if far then
      d.modFch ch fun f => { f with err := t, lossDue := f.lossDue || (lose && !d.farLost ch) }
    else { d with crm := { d.crm with err := vmod d.crm.err ch (fun _ => t)
                                      lossDue := if lose && !d.crm.lossDue.contains (Fin.ofNat 32 ch) && d.fld (Fld.crmChSts_role ch) != 4
                                                 then d.crm.lossDue ++ [Fin.ofNat 32 ch] else d.crm.lossDue } }
  if warn then d.raise { num := 0x1D6, chid := some chid } else d

/-- An uncorrectable data line: counted and recorded (R182 step 3). -/
def Dev.ueLine (d : Dev) (far : Bool) (ch : Nat) (loc : BitVec 64) : Dev :=
  let d := d.ueOn far ch
  d.raise { num := 0x141, chid := some (if far then d.farChid ch else d.cremaChid ch), loc := loc }

/-- Stores poison in a far line that did not hold it (R188). -/
def Dev.poisonFar (d : Dev) (c cli : Nat) (comp : Bool) (ma : Nat) (src : PoisonSrc) : Dev :=
  if (d.farView c cli).2 then d.farStore c cli 0 true
  else (d.farStore c cli 0 true).firstPoison ma comp (d.farChid c) (d.farLocator c cli) src

/-- Stores poison in a Crema line that did not hold it. -/
def Dev.poisonCrema (d : Dev) (g l : Nat) (comp : Bool) (ma : Nat) (src : PoisonSrc) : Dev :=
  if d.mem.cremaPoison.has (cremaKey g l) then d
  else (d.cremaStore g l 0 true).firstPoison ma comp (d.cremaChid (d.framePhys g)) (d.cremaLoc g l) src

end Sys2Proof.Machine
end

