-- ==== Sys2Proof/Machine/PressW.lean ====
section
/-! DEFINITION. Sys2Proof/Machine/PressW.lean: the Press-W coder and its stored page (R242 to R246), pools and their map
entries (R236 to R241), sectors and where a page is stored (R250 to R253, R255). -/

namespace Sys2Proof.Machine

/-! ### The coder (R242 to R245) -/

/-- The dictionary: 16 words and the replacement pointer. -/
structure Dict where
  words : List Word
  ptr : Nat
  deriving DecidableEq, Repr

/-- The dictionary at the start of a page. -/
def Dict.start : Dict := ⟨List.replicate 16 0, 0⟩

/-- Writes a decoded word into the entry at the pointer. -/
def Dict.push (d : Dict) (w : Word) : Dict := ⟨d.words.set d.ptr w, (d.ptr + 1) % 16⟩

/-- `n` bits of a number, least significant first. -/
def bitsOf (n v : Nat) : List Bool := (List.range n).map fun i => v.testBit i

/-- Length of the longest start of a list whose words all equal `w`, at most `k`. -/
def runLen (w : Word) : Nat → List Word → Nat
  | 0, _ => 0
  | _, [] => 0
  | k + 1, x :: xs => if x = w then runLen w k xs + 1 else 0

/-- The first token that applies at the current word (R244): its bits, the words it covers, the dictionary after it. -/
def codeToken (dict : Dict) (prev : Option Word) (ws : List Word) : List Bool × Nat × Dict :=
  match ws with
  | [] => ([], 0, dict)
  | w :: _ =>
    if w = 0 then let n := runLen 0 16 ws; ([false, false] ++ bitsOf 4 (n - 1), n, dict)
    else if prev = some w then let n := runLen w 16 ws; ([false, true, false] ++ bitsOf 4 (n - 1), n, dict)
    else match dict.words.findIdx? (· == w) with
      | some i => ([false, true, true] ++ bitsOf 4 i, 1, dict)
      | none =>
        if w.toNat < 256 then ([true, true, false] ++ bitsOf 8 w.toNat, 1, dict.push w)
        else match dict.words.findIdx? (fun (x : Word) => x >>> 8 == w >>> 8) with
          | some i => ([true, false, false] ++ bitsOf 4 i ++ bitsOf 8 (w.toNat % 256), 1, dict.push w)
          | none => match dict.words.findIdx? (fun (x : Word) => x >>> 16 == w >>> 16) with
            | some i => ([true, false, true] ++ bitsOf 4 i ++ bitsOf 16 (w.toNat % 65536), 1, dict.push w)
            | none => ([true, true, true] ++ bitsOf 32 w.toNat, 1, dict.push w)

/-- The stream of a list of words, as bits. -/
def codeWords : Nat → Dict → Option Word → List Word → List Bool
  | 0, _, _, _ => []
  | _, _, _, [] => []
  | fuel + 1, dict, prev, ws =>
    let (bits, n, dict') := codeToken dict prev ws
    bits ++ codeWords fuel dict' ((ws.take n).getLast?) (ws.drop n)

/-- A field of `n` bits at the front of a bit list, least significant first. -/
def takeBits (n : Nat) (bs : List Bool) : Option (Nat × List Bool) :=
  if bs.length < n then none
  else some ((bs.take n).foldr (fun b a => bitOf b + 2 * a) 0, bs.drop n)

/-- What one token decodes to: the words, the dictionary after it, the bits that follow. -/
def decodeToken (dict : Dict) (prev : Option Word) (bs : List Bool) : Option (List Word × Dict × List Bool) :=
  let entry := fun i => dict.words.getD i 0
  let one := fun (w : Word) (r : List Bool) => some ([w], dict.push w, r)
  match bs with
  | false :: false :: r => (takeBits 4 r).map fun (n, r) => (List.replicate (n + 1) 0, dict, r)
  | false :: true :: false :: r => (takeBits 4 r).bind fun (n, r) => prev.map fun w => (List.replicate (n + 1) w, dict, r)
  | false :: true :: true :: r => (takeBits 4 r).map fun (i, r) => ([entry i], dict, r)
  | true :: false :: false :: r => (takeBits 4 r).bind fun (i, r) => (takeBits 8 r).bind fun (v, r) =>
      one ((entry i &&& 0xFFFFFF00) ||| BitVec.ofNat 32 v) r
  | true :: false :: true :: r => (takeBits 4 r).bind fun (i, r) => (takeBits 16 r).bind fun (v, r) =>
      one ((entry i &&& 0xFFFF0000) ||| BitVec.ofNat 32 v) r
  | true :: true :: false :: r => (takeBits 8 r).bind fun (v, r) => one (BitVec.ofNat 32 v) r
  | true :: true :: true :: r => (takeBits 32 r).bind fun (v, r) => one (BitVec.ofNat 32 v) r
  | _ => none

/-- Decodes exactly `n` words; none where the stream ends before them or a run passes them. -/
def decodeWords : Nat → Nat → Dict → Option Word → List Bool → Option (List Word × List Bool)
  | 0, _, _, _, _ => none
  | _, 0, _, _, bs => some ([], bs)
  | fuel + 1, n, dict, prev, bs =>
    match decodeToken dict prev bs with
    | some (ws, dict', r) =>
      if ws.length ≤ n then (decodeWords fuel (n - ws.length) dict' ws.getLast? r).map fun (l, b) => (ws ++ l, b) else none
    | none => none

/-- The 1,024 words of a page's 64 lines. -/
def pageWords (lines : List Line) : List Word := lines.flatMap fun (l : Line) => (List.range 16).map fun i => BitVec.setWidth 32 (l >>> (32 * i))

/-- The bytes of words, least significant first. -/
def wordBytes (ws : List Word) : Payload := ws.flatMap fun w => leBytes 4 w.toNat

/-- Packs bits into bytes from bit 0 up, the last byte zero-filled (R245). -/
def packBits : Nat → List Bool → Payload
  | 0, _ => []
  | _, [] => []
  | fuel + 1, bs => BitVec.ofNat 8 ((bs.take 8).foldr (fun b a => bitOf b + 2 * a) 0) :: packBits fuel (bs.drop 8)

/-- The stream of a page. -/
def pressStream (lines : List Line) : Payload := packBits 5000 (codeWords 1024 Dict.start none (pageWords lines))

/-- The stored Compressed page: header, stream, zeros to whole sectors; none where it would take 8 sectors (R246). -/
def pressPage (lines : List Line) : Option Payload :=
  let st := pressStream lines
  if 3576 < st.length then none
  else
    let hdr := leBytes 4 (crc32c (wordBytes (pageWords lines))).toNat ++ leBytes 2 st.length ++ [1, 0]
    let k := ceilDiv (8 + st.length) 512
    some (hdr ++ st ++ List.replicate (512 * k - 8 - st.length) 0)

/-- Decodes a stored Compressed page and checks its CRC (R248). -/
def pressDecode (stored : Payload) : Option (List Line) :=
  let len := leNat stored 4 2
  if stored.getD 6 0 ≠ 1 ∨ len = 0 ∨ 3576 < len then none
  else
    let bits := ((stored.drop 8).take len).flatMap fun b => bitsOf 8 b.toNat
    match decodeWords 1024 1024 Dict.start none bits with
    | some (ws, _) =>
      let bytes := wordBytes ws
      if (crc32c bytes).toNat = leNat stored 0 4 then
        some ((List.range 64).map fun i => lineOf ((bytes.drop (64 * i)).take 64)) else none
    | none => none

/-! ### Pools (R236 to R239) -/

/-- M for P storage blocks (R237). -/
def mapBlocksFor (p : Nat) : Nat := ceilDiv p 241

/-- P of a pool. -/
def Pool.storage (p : Pool) : Nat := p.mapBlocks.length + p.dataBlocks.length

/-- A pool of the device. -/
def Dev.pool (d : Dev) (n : Nat) : Pool := vget Pool.reset d.prs.pools n
def Dev.modPool (d : Dev) (n : Nat) (f : Pool → Pool) : Dev := { d with prs := { d.prs with pools := vmod d.prs.pools n f } }

/-- The pool that exposes a block. -/
def Dev.poolOf (d : Dev) (block : Nat) : Option Nat :=
  (List.range 8).find? fun n => (d.pool n).used && (d.pool n).exposed.contains block

/-- Pages of a block on one channel. -/
def Dev.pagesPerShare (d : Dev) : Nat := 65536 / max d.ileave 1

/-- The map-entry index of an exposed page on its channel (R239). -/
def Dev.mapIndex (d : Dev) (p : Pool) (page : Nat) : Nat :=
  p.exposed.findIdx (· == page / 65536) * d.pagesPerShare + (page % 65536) >>> log2n d.ileave

/-- The line of a map entry on its channel, and the byte in it: the map blocks' shares follow one another. -/
def Dev.mapPlace (d : Dev) (p : Pool) (e : Nat) : Nat × Nat :=
  let share := d.pagesPerShare * 4096
  let b := p.mapBlocks.getD (e * 8 / share) 0
  let o := e * 8 % share
  (b * d.pagesPerShare * 64 + o / 64, o % 64)

/-- A map entry's fields (R240). -/
structure MapEntry where
  st : Nat
  homeLen : Nat
  ovfLen : Nat
  home : Nat
  ovf : Nat
  deriving DecidableEq, Repr

/-- The fields of a map word. -/
def MapEntry.ofNat (n : Nat) : MapEntry :=
  ⟨n / 2 ^ 61 % 8, n / 2 ^ 58 % 8, n / 2 ^ 55 % 8, n / 2 ^ 24 % 2 ^ 31, n % 2 ^ 24⟩

/-- The word of a map entry. -/
def MapEntry.toNat (m : MapEntry) : Nat :=
  m.st % 8 * 2 ^ 61 + m.homeLen % 8 * 2 ^ 58 + m.ovfLen % 8 * 2 ^ 55 + m.home % 2 ^ 31 * 2 ^ 24 + m.ovf % 2 ^ 24

/-- A page that holds no sectors. -/
def MapEntry.bare (st : Nat) : MapEntry := ⟨st, 0, 0, 0, 0⟩

/-- Home sectors held. -/
def MapEntry.homeSectors (m : MapEntry) : Nat := if m.st = 1 ∨ m.st = 2 then m.homeLen + 1 else 0

/-- Where a page stands: pool, channel, entry index. -/
structure PagePlace where
  pool : Nat
  ch : Nat
  e : Nat
  deriving DecidableEq, Repr

/-- The place of an exposed page. -/
def Dev.pagePlace (d : Dev) (page : Nat) : Option PagePlace :=
  (d.poolOf (page / 65536)).map fun n => ⟨n, (d.farLoc (page * 4096)).ch, d.mapIndex (d.pool n) page⟩

/-- The map entry of a page: none where its line is unreadable or its STATE reserved (R240, R257). -/
def Dev.mapEntry (d : Dev) (pl : PagePlace) : Option MapEntry :=
  let (cli, b) := d.mapPlace (d.pool pl.pool) pl.e
  let (l, poison) := d.farView pl.ch cli
  let m := MapEntry.ofNat (((l >>> (8 * b)).setWidth 64).toNat)
  if poison ∨ 3 < m.st then none else some m

/-- A lookup of a page's map entry: the map line comes from the page-map cache or from its far home (R99). -/
def Dev.mapLookup (d : Dev) (pl : PagePlace) (w : Who) : Dev :=
  let (cli, _) := d.mapPlace (d.pool pl.pool) pl.e
  d.mapRead { w with txn := none } pl.ch cli fun d => d.farAccess pl.ch cli { w with txn := none, wr := false }

/-- Writes a map entry: one line write, to the far home and to the copy in Crema (R99, R241). -/
def Dev.setMapEntry (d : Dev) (pl : PagePlace) (m : MapEntry) : Dev :=
  let (cli, b) := d.mapPlace (d.pool pl.pool) pl.e
  let d := (d.farAccess pl.ch cli { wr := true }).mapRead { wr := true } pl.ch cli id
  let (l, _) := d.farView pl.ch cli
  let mask : Line := (BitVec.ofNat 512 (2 ^ 64 - 1)) <<< (8 * b)
  d.farStore pl.ch cli ((l &&& ~~~mask) ||| (BitVec.ofNat 512 m.toNat) <<< (8 * b)) false

/-! ### Sectors (R251 to R253) -/

/-- The key of a sector. -/
def secKey (c s : Nat) : Nat := c * 2 ^ 31 + s

/-- Sectors of a block's share on a channel. -/
def Dev.secPerShare (d : Dev) : Nat := d.pagesPerShare * 8

/-- First sector of the spare area (R253). -/
def Dev.spareFirst (d : Dev) (c : Nat) : Nat := d.dataLines c / 8

/-- Is a sector free? -/
def Dev.secFree (d : Dev) (c s : Nat) : Bool := !d.prs.taken.has (secKey c s)

/-- The intervals of a pool's data sectors on a channel, adjoining blocks joined: first sector and length. -/
def joinRuns : List (Nat × Nat) → List (Nat × Nat)
  | [] => []
  | (a, n) :: r => match joinRuns r with
    | (b, m) :: r' => if a + n = b then (a, n + m) :: r' else (a, n) :: (b, m) :: r'
    | [] => [(a, n)]

/-- The data intervals of a pool on a channel. -/
def Dev.dataRuns (d : Dev) (p : Pool) : List (Nat × Nat) :=
  joinRuns (p.dataBlocks.map fun b => (b * d.secPerShare, d.secPerShare))

/-- Sectors taken within an interval of a channel, in rising order. -/
def Dev.takenIn (d : Dev) (c : Nat) (run : Nat × Nat) : List Nat :=
  (d.prs.taken.keys.filter fun k => secKey c run.1 ≤ k && k < secKey c (run.1 + run.2)).map (· - secKey c 0)

/-- The lowest free run of `k` sectors in an interval: it starts at the interval or just behind a taken sector. -/
def Dev.freeRunIn (d : Dev) (c k : Nat) (run : Nat × Nat) : Option Nat :=
  let t := d.takenIn c run
  (run.1 :: t.map (· + 1)).find? fun s => s + k ≤ run.1 + run.2 && t.all fun x => x < s || s + k ≤ x

/-- The lowest free run of `k` data sectors of a pool on a channel. -/
def Dev.freeRun (d : Dev) (p : Pool) (c k : Nat) : Option Nat := (d.dataRuns p).findSome? (d.freeRunIn c k)

/-- Free data sectors of a pool on a channel, and all of them. -/
def Dev.freeSectors (d : Dev) (p : Pool) (c : Nat) : Nat × Nat :=
  let total := p.dataBlocks.length * d.secPerShare
  (total - ((d.dataRuns p).map fun r => (d.takenIn c r).length).sum, total)

/-- Takes sectors, or puts them down for release at the next boundary (R241). -/
def Dev.takeSectors (d : Dev) (c s n : Nat) : Dev :=
  { d with prs := { d.prs with taken := (List.range n).foldl (fun t i => t.add (secKey c (s + i))) d.prs.taken } }
def Dev.releaseSectors (d : Dev) (c s n : Nat) : Dev :=
  { d with prs := { d.prs with releasing := d.prs.releasing ++ (List.range n).map fun i => secKey c (s + i) } }

/-- Releases every sector a map entry holds, in an OVERCOMMIT pool (R251: a DEFAULT pool never releases). -/
def Dev.releaseEntry (d : Dev) (pl : PagePlace) (m : MapEntry) : Dev :=
  if (d.pool pl.pool).overcommit then
    (d.releaseSectors pl.ch m.home m.homeSectors).releaseSectors pl.ch (d.spareFirst pl.ch + m.ovf) m.ovfLen
  else d

/-- The sectors of a page in order. -/
def Dev.pageSectors (d : Dev) (pl : PagePlace) (m : MapEntry) : List Nat :=
  (List.range m.homeSectors).map (m.home + ·) ++ (List.range m.ovfLen).map (d.spareFirst pl.ch + m.ovf + ·)

/-- The line of an exposed page that a stored line holds: that of a Raw page, whose sectors hold its lines in order (R246). A line of a
Compressed page or of a map holds none. -/
def Dev.rawLine (d : Dev) (c cli : Nat) : Option Nat :=
  (List.range 8).findSome? fun n =>
    let p := d.pool n
    if !p.used then none
    else (List.range (p.exposed.length * d.pagesPerShare)).findSome? fun e =>
      let pl : PagePlace := ⟨n, c, e⟩
      match d.mapEntry pl with
      | some m =>
        let secs := d.pageSectors pl m
        if m.st = 2 ∧ secs.contains (cli / 8) then
          (p.exposed[e / d.pagesPerShare]?).map fun b =>
            mkMa d.chainId true (offOf (d.pageAt c (b * d.pagesPerShare + e % d.pagesPerShare)) (8 * secs.findIdx (· == cli / 8) + cli % 8))
        else none
      | none => none

/-- The tenant and DPA whose line stands in a stored line of a far channel: an uncompressed one at its own media address, a sector line of
a pool as its page says. -/
def Dev.lineOwner (d : Dev) (c cli : Nat) : Option (TenantId × Nat) :=
  let block := cli / 64 / d.pagesPerShare
  let pooled := (List.range 8).any fun n => (d.pool n).used && ((d.pool n).dataBlocks.contains block || (d.pool n).mapBlocks.contains block)
  if cli < d.dataLines c ∧ ¬ pooled then d.ownerOf (d.farMa c cli) false
  else (d.rawLine c cli).bind fun ma => d.ownerOf ma true

/-- Stores poison in a stored line that did not hold it, found there (R188). -/
def Dev.poisonStored (d : Dev) (c cli : Nat) (src : PoisonSrc) : Dev :=
  if (d.farView c cli).2 then d.farStore c cli 0 true
  else (d.farStore c cli 0 true).poisonFound (d.lineOwner c cli) (d.farChid c) (d.farLocator c cli) src

/-- The lines of sectors, each with its poison. -/
def Dev.sectorLines (d : Dev) (c : Nat) (secs : List Nat) : List (Line × Bool) :=
  secs.flatMap fun s => (List.range 8).map fun i => d.farView c (8 * s + i)

/-- The 64 lines of a page as a fill gets them (R247): none where the map line is unreadable. -/
def Dev.pageLines (d : Dev) (page : Nat) : List (Line × Bool) :=
  let poisoned := List.replicate 64 ((0 : Line), true)
  match d.pagePlace page with
  | none => poisoned
  | some pl => match d.mapEntry pl with
    | none => poisoned
    | some m =>
      match m.st with
      | 0 => List.replicate 64 ((0 : Line), false)
      | 1 =>
        let ls := d.sectorLines pl.ch (d.pageSectors pl m)
        if ls.any (·.2) then poisoned
        else match pressDecode (ls.flatMap fun l => lineBytes l.1) with
          | some x => x.map fun l => (l, false)
          | none => poisoned
      | 2 => d.sectorLines pl.ch (d.pageSectors pl m)
      | _ => poisoned

/-- Writes lines into sectors, in order. -/
def Dev.writeSectors (d : Dev) (c : Nat) (secs : List Nat) (lines : List (Line × Bool)) : Dev :=
  let places := secs.flatMap fun s => (List.range 8).map fun i => 8 * s + i
  let d := (places.zip lines).foldl (fun d (cli, l, p) => d.farStore c cli l p) d
  d.countAs 0x02A secs.length (some (d.farChid c)) none none

/-- The transfers of whole sectors: each line's access of its channel. -/
def Dev.sectorAccess (d : Dev) (c : Nat) (secs : List Nat) (w : Who) : Dev :=
  (secs.flatMap fun s => (List.range 8).map fun i => 8 * s + i).foldl (fun d cli => d.farAccess c cli { w with txn := none }) d

/-- The activates of whole sectors whose slots are counted elsewhere. -/
def Dev.sectorActivates (d : Dev) (c : Nat) (secs : List Nat) : Dev :=
  (secs.flatMap fun s => (List.range 8).map fun i => 8 * s + i).foldl (fun d cli => d.activate c cli none false) d

/-- A page transfer into sectors. -/
def Dev.storeSectors (d : Dev) (c : Nat) (secs : List Nat) (lines : List (Line × Bool)) : Dev :=
  (d.sectorAccess c secs { wr := true }).writeSectors c secs lines

/-- The page transfer that reads a stored page, in the class of the miss (R147). -/
def Dev.readAccess (d : Dev) (page : Nat) (w : Who) : Dev :=
  match d.pagePlace page with
  | some pl =>
    let d := d.mapLookup pl w
    match d.mapEntry pl with
    | some m => d.sectorAccess pl.ch (d.pageSectors pl m) { w with wr := false }
    | none => d
  | none => d

/-- The locator of a compressed page (R248, R255): the row that holds the first line of its home run, or its map line where it has
none (log entry 12). -/
def Dev.pageLoc (d : Dev) (page : Nat) : BitVec 64 :=
  match d.pagePlace page with
  | some pl => match d.mapEntry pl with
    | some m => if m.homeSectors = 0 then d.farLocator pl.ch (d.mapPlace (d.pool pl.pool) pl.e).1 else d.farLocator pl.ch (8 * m.home)
    | none => d.farLocator pl.ch (d.mapPlace (d.pool pl.pool) pl.e).1
  | none => 0

/-- Adds the 64 lines of an exposed page to the poison list of the LD that reaches it (R188). -/
def Dev.listPage (d : Dev) (page : Nat) (src : PoisonSrc) : Dev :=
  (List.range 64).foldl (fun d l =>
    let ma := mkMa d.chainId true (offOf page l)
    let c := (d.farLoc (offOf page l)).ch
    d.firstPoison ma true (d.farChid c) (d.pageLoc page) src) d

/-- Poisons a page: STATE Poisoned, its sectors released, its lines listed (R247, R256). -/
def Dev.poisonPage (d : Dev) (page : Nat) (src : PoisonSrc) : Dev :=
  match d.pagePlace page with
  | none => d
  | some pl =>
    let old := (d.mapEntry pl).getD (MapEntry.bare 0)
    let d := (d.setMapEntry pl (MapEntry.bare 3)).releaseEntry pl old
    d.listPage page src

/-! ### Lines of a map (R239, R257) -/

/-- The pool whose map area a line of a channel lies in, and its place in that area. -/
def Dev.mapArea (d : Dev) (c cli : Nat) : Option (Nat × Nat) :=
  let share := d.pagesPerShare * 64
  if d.dataLines c ≤ cli then none
  else (List.range 8).findSome? fun n =>
    let p := d.pool n
    if p.used ∧ p.mapBlocks.contains (cli / share) then some (n, p.mapBlocks.findIdx (· == cli / share) * share + cli % share) else none

/-- Lines of entries in a map area: every page that the pool could expose at twice its data blocks (R239). -/
def Dev.entryLines (d : Dev) (p : Pool) : Nat := 2 * p.dataBlocks.length * d.pagesPerShare / 8

/-- The exposed page of a map entry, where there is one. -/
def Dev.entryPage (d : Dev) (pl : PagePlace) : Option Nat :=
  ((d.pool pl.pool).exposed[pl.e / d.pagesPerShare]?).map fun b => d.pageAt pl.ch (b * d.pagesPerShare + pl.e % d.pagesPerShare)

/-- Both copies of a line of map entries are unreadable: its 8 entries become Poisoned, their sectors stay taken, their pages are listed
(R257). -/
def Dev.entriesLost (d : Dev) (n c o : Nat) : Dev :=
  let places : List PagePlace := (List.range 8).map fun i => ⟨n, c, 8 * o + i⟩
  let d := places.foldl (fun d pl => d.setMapEntry pl (MapEntry.bare 3)) d
  let named := places.filterMap fun pl => d.entryPage pl
  let d := named.foldl (fun d g => d.listPage g .internal) d
  let loc := d.farLocator c (d.mapPlace (d.pool n) (8 * o)).1
  d.raise { num := 0x164, chid := some (d.farChid c), loc := loc, detail := [word1 n] }

/-- An unreadable line of a map area: the copy in the page-map cache serves where it is whole; else its entries are lost, or the 512
sectors of a line of the free-sector bitmap count as taken (R257). -/
def Dev.mapLineLost (d : Dev) (n c o : Nat) (both : Bool) : Dev :=
  let p := d.pool n
  let d := d.ueOn true c
  let share := d.pagesPerShare * 64
  let cli := p.mapBlocks.getD (o / share) 0 * share + o % share
  let k := farKey c cli
  let slot := k % max 1 (d.sharedLines 3)
  if !both && Sparse.get 0 d.prs.mapCache slot == k + 1 then (d.reserveAccess {} (d.sharedPlace 3 slot)).rewriteFar c cli
  else if o < d.entryLines p then d.entriesLost n c o
  else
    let per := d.secPerShare
    (List.range 512).foldl (fun d i =>
      let x := 512 * (o - d.entryLines p) + i
      match p.dataBlocks[x / per]? with
      | some b => d.takeSectors c (b * per + x % per) 1
      | none => d) d

/-- A lookup that finds a page's entry unreadable, because its line holds poison or its STATE is reserved (R240, R257). -/
def Dev.meetMap (d : Dev) (page : Nat) : Dev :=
  match d.pagePlace page with
  | none => d
  | some pl =>
    let cli := (d.mapPlace (d.pool pl.pool) pl.e).1
    if (d.mapEntry pl).isSome || d.farLost pl.ch || d.inSubtree pl.ch (cli / 64) then d
    else d.mapLineLost pl.pool pl.ch (pl.e / 8) true

/-! ### Levels (R253, R255) and the pool registers (R261) -/

/-- Thousandths free on a channel. -/
def Dev.freePm (d : Dev) (p : Pool) (c : Nat) : Nat :=
  let (f, t) := d.freeSectors p c
  if t = 0 then 1000 else f * 1000 / t

/-- The channel where the free fraction is lowest, and the fraction. -/
def Dev.lowestFree (d : Dev) (p : Pool) : Nat × Nat :=
  (interleave d.ileave).foldl (fun (c, f) x => if d.freePm p x < f then (x, d.freePm p x) else (c, f))
    ((interleave d.ileave).headD 0, 1001) |> fun (c, f) => (c, min f 1000)

/-- The level a free fraction has reached. -/
def levelOf (pm : Nat) : Nat := if pm ≤ 20 then 3 else if pm ≤ 50 then 2 else if pm ≤ 100 then 1 else 0

/-- The level that stays reached at a fraction: a level re-arms one percentage point above it. -/
def keptLevel (old pm : Nat) : Nat :=
  if 3 ≤ old ∧ pm ≤ 30 then 3 else if 2 ≤ old ∧ pm ≤ 60 then 2 else if 1 ≤ old ∧ pm ≤ 110 then 1 else 0

/-- Sectors that the pages of an exposed block hold on a channel. -/
def Dev.blockSectors (d : Dev) (b c : Nat) : Nat :=
  ((List.range 65536).map fun i => match d.pagePlace (b * 65536 + i) with
    | some pl => if pl.ch = c then (match d.mapEntry pl with | some m => m.homeSectors + m.ovfLen | none => 0) else 0
    | none => 0).sum

/-- Extents from the front of a list until what they hold covers `need`. -/
def coverNeed (size : Nat → Nat) : List (Nat × Nat) → Nat → List Nat
  | [], _ => []
  | (e, b) :: r, need => if need = 0 then [] else e :: coverNeed size r (need - size b)

/-- Release requests to each LD that holds dynamic-capacity extents in a pool: its extents newest first, until the sectors
they hold cover the shortfall below 10 % on the channel where the free fraction is lowest (R255). -/
def Dev.askRelease (d : Dev) (n : Nat) : Dev :=
  allTenants.foldl (fun d t =>
    let ext := ((d.tenant t).dc.filter fun x =>
      let w := d.extAt x.entry
      x.accepted && extV w && extC w && (d.pool n).exposed.contains (extBlock w)).reverse
    let c := (d.lowestFree (d.pool n)).1
    let (free, all) := d.freeSectors (d.pool n) c
    let need := max 1 (ceilDiv all 10 - free)
    let named := coverNeed (fun b => d.blockSectors b c) (ext.map fun x => (x.entry - d.extBase t, extBlock (d.extAt x.entry))) need
    if named.isEmpty then d else d.emit (.dcEvent (d.tntPort t) (d.tntLd t) 1 named)) d

/-- Brings a pool's registers up to date and raises the levels reached. -/
def Dev.syncPool (d : Dev) (n : Nat) : Dev :=
  let p := d.pool n
  let d := d.setReg (Off.prsPoolCfg n) (BitVec.ofNat 32 (if p.used then 2 ^ 31 + bitOf p.overcommit * 2 ^ 30 + p.storage % 65536 else 0))
  let d := d.setReg (Off.prsPoolExp n) (BitVec.ofNat 32 (if p.used then p.mapBlocks.length * 65536 + p.exposed.length else 0))
  if p.used ∧ p.overcommit then
    let (c, pm) := d.lowestFree p
    let old := d.fld (Fld.prsPoolFree_level n)
    let kept := keptLevel old pm
    let lv := max kept (levelOf pm)
    let d := d.setReg (Off.prsPoolFree n) (BitVec.ofNat 32 (lv * 2 ^ 30 + c * 2 ^ 10 + pm))
    (List.range 3).foldl (fun d i =>
      if kept < i + 1 ∧ i + 1 ≤ lv then
        let d := d.raise { num := 0x162, chid := some (d.farChid c), detail := [word1 n, word1 (i + 1)] }
        if 2 ≤ i + 1 then d.askRelease n else d
      else d) d
  else d

/-- Brings the spare-sector registers of a channel up to date (R253). -/
def Dev.syncSpare (d : Dev) (c : Nat) : Dev :=
  let total := d.spareSectors c
  let free := total - (d.takenIn c (d.spareFirst c, total)).length
  let low := decide (free * 8 < total)
  let was := d.flag (Fld.prsSpareSts_low c)
  let d := d.setReg (Off.prsSpareSts c) (BitVec.ofNat 32 (bitOf low * 2 ^ 31 + free % 2 ^ 24))
  if low ∧ ¬ was then d.raise { num := 0x161, chid := some (d.farChid c) } else d

/-- A pool's chained pages change by one chaining or unchaining. -/
def Dev.countChain (d : Dev) (n : Nat) (was is : Bool) : Dev :=
  let f := Fld.prsPoolChain_chained n
  if was == is then d else if is then d.setFld f (d.fld f + 1) else d.setFld f (d.fld f - 1)

/-! ### Storing a page (R250 to R252, R256) -/

/-- How a store ended. -/
inductive Stored where
  /-- the page is stored -/
  | done
  /-- free sectors but no run: the frame stays dirty until compaction (step 4) -/
  | wait
  /-- no free sector: the store is dropped (step 5) -/
  | lost
  deriving DecidableEq, Repr

/-- The sector lines that a page is stored in: Compressed with `some`, or Raw. -/
def storedLines (lines : List (Line × Bool)) (raw : Bool) : Bool × List (Line × Bool) :=
  match (if raw || lines.any (·.2) then none else pressPage (lines.map (·.1))) with
  | some b => (true, (List.range (b.length / 64)).map fun i => (lineOf ((b.drop (64 * i)).take 64), false))
  | none => (false, lines)

/-- Writes a page at its place (R250 steps 3 to 5). `raw` forces the Raw form. -/
def Dev.storePage (d : Dev) (page : Nat) (lines : List (Line × Bool)) (raw : Bool) : Stored × Dev :=
  match d.pagePlace page with
  | none => (.done, d)
  | some pl =>
    let p := d.pool pl.pool
    let old := (d.mapEntry pl).getD (MapEntry.bare 0)
    let (comp, ls) := storedLines lines raw
    let k := ls.length / 8
    let st := if comp then 1 else 2
    if ¬ p.overcommit then
      -- the page's own slab: sectors 8e to 8e + 7 of the data blocks' shares (R251)
      let b := p.dataBlocks.getD (8 * pl.e / d.secPerShare) 0
      let home := b * d.secPerShare + 8 * pl.e % d.secPerShare
      let d := d.storeSectors pl.ch ((List.range k).map (home + ·)) ls
      (.done, d.setMapEntry pl ⟨st, k - 1, 0, home, 0⟩)
    else
      let h := old.homeSectors
      let chained := decide (0 < old.ovfLen)
      if 0 < h ∧ k ≤ h then
        let d := d.storeSectors pl.ch ((List.range k).map (old.home + ·)) ls
        let d := d.setMapEntry pl ⟨st, k - 1, 0, old.home, 0⟩
        let d := (d.releaseSectors pl.ch (old.home + k) (h - k)).releaseSectors pl.ch (d.spareFirst pl.ch + old.ovf) old.ovfLen
        (.done, d.countChain pl.pool chained false)
      else
        let ovfRun := if h = 0 then none else d.freeRunIn pl.ch (k - h) (d.spareFirst pl.ch, d.spareSectors pl.ch)
        match ovfRun with
        | some s =>
          let d := d.takeSectors pl.ch s (k - h)
          let d := d.storeSectors pl.ch ((List.range h).map (old.home + ·) ++ (List.range (k - h)).map (s + ·)) ls
          let d := d.setMapEntry pl ⟨st, h - 1, k - h, old.home, s - d.spareFirst pl.ch⟩
          let d := d.releaseSectors pl.ch (d.spareFirst pl.ch + old.ovf) old.ovfLen
          (.done, d.countChain pl.pool chained true)
        | none => match d.freeRun p pl.ch k with
          | some s =>
            let d := d.takeSectors pl.ch s k
            let d := d.storeSectors pl.ch ((List.range k).map (s + ·)) ls
            let d := (d.setMapEntry pl ⟨st, k - 1, 0, s, 0⟩).releaseEntry pl old
            (.done, d.countChain pl.pool chained false)
          | none =>
            if 0 < (d.freeSectors p pl.ch).1 ∧ old.st ≠ 0 then (.wait, d)
            else
              -- the store is dropped (R256)
              let d := d.poisonPage page .vendor
              let d := d.countChain pl.pool chained false
              let d := d.bump (Fld.prsPoolLoss_lost pl.pool) 1
              (.lost, d.raise { num := 0x163, chid := some (d.farChid pl.ch), loc := d.pageLoc page,
                                detail := [word1 pl.pool] })

/-- A store without a frame to keep the page in: one that would have to wait for room is dropped like one without room. -/
def Dev.storeDirect (d : Dev) (page : Nat) (lines : List (Line × Bool)) : Dev :=
  match d.storePage page lines false with
  | (.wait, d) => d.poisonPage page .vendor
  | (_, d) => d

/-- Engines in service. -/
def Dev.enginesOk (d : Dev) : List Nat := rangeWhere 4 fun e => bitAt (d.fld Fld.prsSts_engOk) e

end Sys2Proof.Machine
end

