-- ==== Sys2Proof/Machine/Service.lean ====
section
/-! DEFINITION. Sys2Proof/Machine/Service.lean: floors, charges and FACTOR (R302 to R306), the credit of a guarantee
(R298), admission at the port (R293, R300), and the bandwidth windows (R30, R301, R310, R311). Bandwidths are in units of
0.1 GB/s. -/

namespace Sys2Proof.Machine

/-! ### Floors (R302, R305) -/

/-- Rate code in half GT/s (R351). -/
def rateOf : Nat → Nat
  | 1 => 5 | 2 => 10 | 3 => 16 | 4 => 32 | 5 => 64 | 6 => 128 | _ => 0

/-- Logical Crema channels that are backed. -/
def Dev.activeCrema (d : Dev) : Nat := (rangeWhere 31 fun k => d.flag (Fld.crmLmap_v k)).length

/-- Crema channels whose two pseudo-channels share one XTS pipeline (R233). -/
def Dev.sharedCrema (d : Dev) : Nat :=
  (rangeWhere 31 fun k => d.flag (Fld.crmLmap_v k) && d.cry.xtsShared.has (d.fld (Fld.crmLmap_phys k))).length

/-- The Crema floor without throttles (R302). -/
def Dev.floorCrema (d : Dev) : Nat := 19840 * (2 * d.activeCrema - d.sharedCrema) * 29736 / (62 * 31744)

/-- Is a channel of the interleave set in service? -/
def Dev.farServes (d : Dev) (c : Nat) : Bool :=
  d.flag (Fld.farChSts_inSet c) && (d.fld (Fld.farChSts_state c) == 2 || d.fld (Fld.farChSts_state c) == 3)

/-- CTR and MAC pipelines that have failed on a far channel without a spare (R233). -/
def Dev.ctrLost (d : Dev) (c : Nat) : Nat :=
  (d.cry.ctrFailed.keys.filter fun k => k / 4 == c).length

/-- One channel's part of the far floor, in 1/(1024 × 4 × 1000) units; `throttled` takes doubled refresh and the DIMM
throttle off (R305). -/
def Dev.farPart (d : Dev) (throttled : Bool) (c : Nat) : Nat :=
  let total := d.fld (Fld.farChDerate_total c) + (if throttled && d.flag (Fld.farChSts_doubled c) then d.fld (Fld.farChDerate_ref c) else 0)
  let full := speedOf (d.fld (Fld.farChSts_speed c)) * 80 * (1024 - total) * (4 - min 4 (d.ctrLost c))
  if throttled && d.flag (Fld.farChSts_hot c) then full * d.fld Fld.crmThermCtl_thr / 8 else full

/-- The far floor (R302). -/
def Dev.floorFar (d : Dev) (throttled : Bool) : Nat :=
  (((interleave d.ileave).filter d.farServes).map (d.farPart throttled)).sum / (1000 * 1024 * 4)

/-- A port's floor (R302). -/
def Dev.floorPort (d : Dev) (p : PortId) : Nat :=
  if d.hostPort p then
    1180 * d.fld (Fld.prtLinkSts_width (portIdx p)) * rateOf (d.fld (Fld.prtLinkSts_rate (portIdx p))) / (16 * 128) else 0

/-- The Press floor. -/
def Dev.floorPress (d : Dev) : Nat := 160 * d.enginesOk.length

/-- A member's reported far floor. -/
def Dev.floorMember (d : Dev) (m : Nat) : Nat := match vget none d.chain.members m with | some r => r.farFloor | none => 0

/-! ### Charges (R303) -/

/-- What a tenant's class-G partitions lie on. -/
structure GMedia where
  near : Bool
  far : Bool
  comp : Bool
  members : List Nat
  deriving DecidableEq, Repr

/-- The media of a tenant's class-G partitions, lost blocks left out (R382 step 5). -/
def Dev.gMedia (d : Dev) (t : TenantId) : GMedia :=
  let base := d.extBase t
  let es := d.ext.filter fun e => base ≤ e.1 && e.1 < base + d.extLen t && extV e.2 && d.partClass t (d.partition t (e.1 - base)) == .g &&
    !(extFar e.2 && d.chain.lost.contains (extMember e.2, extBlock e.2))
  let here := fun (w : Word) => extMember w == d.chainId
  { near := es.any fun e => here e.2 && !extFar e.2
    far := es.any fun e => here e.2 && extFar e.2
    comp := es.any fun e => here e.2 && extFar e.2 && extC e.2
    members := ((List.range 8).filter fun m => m != d.chainId && es.any fun e => extMember e.2 == m) }

/-- GUAR of a tenant in use. -/
def Dev.guar (d : Dev) (t : TenantId) : Nat := if d.flag (Fld.tntCtl_en t.val) then d.fld (Fld.svcTntGuar_guar t.val) else 0

/-- The farthest member that a class-G charge reaches, 0 for none. -/
def Dev.chargedMember (d : Dev) : Nat :=
  (allTenants.flatMap fun t => if d.guar t = 0 then [] else (d.gMedia t).members).foldl max 0

/-- Does link k of the chain, up to member k, run x8? -/
def Dev.linkX8 (d : Dev) (k : Nat) : Bool := match vget none d.chain.members k with | some r => r.x8 | none => false

/-- The Relay-down floor (R385): the lowest rate of the links that a class-G member charge crosses, of which the head's own is the
first. -/
def Dev.floorRelay (d : Dev) : Nat :=
  match d.relayDown with
  | some p =>
    let narrow := (List.range d.chargedMember).any fun k => 1 ≤ k && d.linkX8 (k + 1)
    let own := 882 * d.fld (Fld.rlyLinkSts_width (portIdx p)) / 16
    if narrow then min own 441 else own
  | none => 0

/-- Charges on one resource. -/
def Dev.sumCharges (d : Dev) (f : TenantId → GMedia → Nat → Nat) : Nat :=
  (allTenants.map fun t => let g := d.guar t; if g = 0 then 0 else f t (d.gMedia t) g).sum

/-- GUAR with the metadata charge, in eighths. -/
def Dev.withMeta (d : Dev) (g : Nat) : Nat := g * (8 + d.fld Fld.svcFloorCtl_meta)

/-- A resource: its code in RESOURCE, floor as it stands at a check, floor in force, and charges in eighths
of a unit, which keep the metadata charge exact. -/
structure Resource where
  code : Nat
  floor : Nat
  inForce : Nat
  charge8 : Nat
  deriving DecidableEq, Repr

/-- The resources in the order of the table of floors (R302). -/
def Dev.resources (d : Dev) : List Resource :=
  let thr := d.fld Fld.crmThermCtl_thr
  let stack := d.flag Fld.crmThermSts_throtStack
  let die := d.flag Fld.crmThermSts_throtDie || d.flag Fld.pwrSts_capped
  let crm := d.floorCrema
  let far := d.floorFar true
  [ ⟨1, crm, if stack || die then crm * thr / 8 else crm, d.sumCharges fun _ m g => if m.far then 16 * g else if m.near then 8 * g else 0⟩
  , ⟨2, d.floorFar false, if die then far * thr / 8 else far, d.sumCharges fun _ m g => if m.far then d.withMeta g else 0⟩
  , ⟨3, d.floorPort .a, d.floorPort .a, d.sumCharges fun t _ g => if d.tntPort t == .a then 8 * g else 0⟩
  , ⟨4, d.floorPort .b, d.floorPort .b, d.sumCharges fun t _ g => if d.tntPort t == .b then 8 * g else 0⟩
  , ⟨5, d.floorPress, d.floorPress, d.sumCharges fun _ m g => if m.comp then 8 * g else 0⟩
  , ⟨6, d.floorRelay, d.floorRelay, d.sumCharges fun _ m g => if m.members.isEmpty then 0 else 8 * g⟩ ] ++
  (List.range 7).map fun i => ⟨2, d.floorMember (i + 1), d.floorMember (i + 1),
    d.sumCharges fun _ m g => if m.members.contains (i + 1) then d.withMeta g else 0⟩

/-- The first resource whose charges exceed its floor (R304). -/
def Dev.overcharged (d : Dev) : Option Nat := (d.resources.find? fun r => 8 * r.floor < r.charge8).map (·.code)

/-- FACTOR and the resource that sets it (R305); of resources with the same lowest ratio the first in the order of the table of floors
(DESIGN CHOICE, log entry 93). -/
def Dev.factorOf (d : Dev) : Nat × Nat :=
  d.resources.foldl (fun (f, c) r =>
    if r.charge8 = 0 then (f, c) else let x := 65536 * 8 * r.inForce / r.charge8; if x < f then (x, r.code) else (f, c)) (65536, 0)

/-- Brings FACTOR, the floors and their registers up to date, with the events of R306. -/
def Dev.refactor (d : Dev) : Dev :=
  let offs := [Off.svcFloorCrm, Off.svcFloorFar, Off.svcFloorPa, Off.svcFloorPb, Off.svcFloorPrs, Off.svcFloorRly]
  let d := (offs.zip d.resources).foldl (fun d (o, r) =>
    d.setReg o (BitVec.ofNat 32 (satN 16 (r.charge8 / 8) * 65536 + satN 16 r.inForce))) d
  let old := d.fld Fld.svcScaleSts_factor
  let oldRes := d.fld Fld.svcScaleSts_resource
  let (f, c) := d.factorOf
  let d := (d.setFld Fld.svcScaleSts_factor f).setFld Fld.svcScaleSts_resource c
  if f < 65536 ∧ (f < old ∨ (old < 65536 ∧ c ≠ oldRes)) then
    (d.raiseN 0x102 ([word1 f, word1 c] ++ words2 d.now)).setFlag Fld.svcScaleSts_breach true
  else if f = 65536 ∧ old < 65536 then d.raiseN 0x103 []
  else d

/-- A floor or charge has changed: FACTOR moves at the next boundary. -/
def Dev.floorMoved (d : Dev) : Dev := { d with due := { d.due with factorDirty := true } }

/-! ### Credit (R298) and admission (R293, R300) -/

/-- One boundary's accrual of a tenant's credit, at FACTOR `f`. -/
def Tenant.accrue (t : Tenant) (guar f : Nat) : Tenant :=
  let n := 256 * guar * f + t.creditRem
  { t with credit := min t.credit 1280 + n / 65536, creditRem := n % 65536 }

/-- Accrual of every tenant that has a guarantee. -/
def Dev.accrueAll (d : Dev) : Dev :=
  let f := d.fld Fld.svcScaleSts_factor
  allTenants.foldl (fun d t => if 0 < d.guar t then d.modTenant t fun s => s.accrue (d.guar t) f else d) d

/-- How a request of a class enters: admitted in a class, or held. A class-G request without credit is admitted at once as class B
where SPILL is set (R300). -/
inductive Admit where
  | go (c : Cls) (pay : Bool)
  | hold
  deriving DecidableEq, Repr

/-- Has a class room under its outstanding limit? -/
def Dev.room (d : Dev) (t : TenantId) (c : Cls) : Bool := decide (d.outstanding t c < d.otl t c)

/-- Admission of a request. -/
def Dev.mayEnter (d : Dev) (t : TenantId) (c : Cls) : Admit :=
  match c with
  | .g =>
    if (d.tenant t).credit < 640 then
      if d.flag (Fld.svcTntGuar_spill t.val) then .go .b false else .hold
    else if d.room t .g then .go .g true else .hold
  | c => if d.room t c then .go c false else .hold

/-- Is a tenant held by THROTTLE on a far channel (R156)? -/
def Dev.throttled (d : Dev) (t : TenantId) (ch : Nat) : Bool := (d.fch ch).distHeld.contains t.val

/-! ### Windows (R30, R301, R311) -/

/-- Closes the pour's bandwidth counts, and at a pour count that is a multiple of 64 the window's (R24, R310, R311). -/
def Dev.closeCounts (d : Dev) : Dev :=
  let win := (d.now + 1) % 64 == 0
  allTenants.foldl (fun d t =>
    let s := d.tenant t
    let offs := [Off.svcTntBwG t.val, Off.svcTntBwL t.val, Off.svcTntBwB t.val, Off.svcTntBwS t.val]
    let d := (List.range 4).foldl (fun d k =>
      let o := offs.getD k 0
      let d := d.setReg o (setFieldOf (d.reg o) 0 9 (satN 9 (vget 0 s.pourLines k)))
      if win then d.setReg o (setFieldOf (d.reg o) 16 16 (satN 16 (vget 0 s.winLines k))) else d) d
    let held := d.heldOf t
    let now := (List.range 4).foldl (fun a k =>
      if d.txns.any (fun x => x.tenant == some t && clsCode x.cls == k && x.phase == .regHeld) then a + 2 ^ k else a) 0
    let d := d.setReg (Off.svcTntSts t.val) (BitVec.ofNat 32 ((s.heldSeen.toNat ||| now) * 2 ^ 28 + satN 10 held))
    d.modTenant t fun s => { s with pourLines := Vector.replicate 4 0, heldSeen := BitVec.ofNat 4 now
                                    winLines := if win then Vector.replicate 4 0 else s.winLines
                                    waitPours := if (s.heldSeen.toNat ||| now) % 2 == 1 then s.waitPours + 1 else 0 }) d

/-- The registers of a tenant that cycle 511 closes. -/
def bwRegs (t : Nat) : List Nat := [Off.svcTntBwG t, Off.svcTntBwL t, Off.svcTntBwB t, Off.svcTntBwS t, Off.svcTntSts t]

/-- Closes the counts; they read as closed from cycle 511 on, so that a snapshot of the pour holds them (R25). -/
def Dev.closeBw (d : Dev) : Dev :=
  let d := d.closeCounts
  let regs := d.regs
  { d with shown := (allTenants.flatMap fun t => bwRegs t.val).foldl (fun m o => Sparse.put 0 m o (Sparse.get 0 regs o)) d.shown }

/-- Class-G lines of the window that closed last. -/
def Dev.windowLines (d : Dev) (t : TenantId) : Nat := fieldOf (d.reg (Off.svcTntBwG t.val)) 16 16

/-- Do `got` lines in 64 pours fall short of a guarantee of `g` steps, 25.6 · g lines, by more than 0.1 % (R30)? -/
def belowBy0p1 (got g : Nat) : Bool := decide (10000 * got < 999 * 256 * g)

/-- Do they fall short by more than the tolerance of R299 at a FACTOR of 1.0: 0.1 % from 4.0 GB/s on, one line below? -/
def belowTolerance (got g : Nat) : Bool := if 40 ≤ g then belowBy0p1 got g else decide (10 * (got + 1) < 256 * g)

/-- The tenants that kept class-G requests waiting at their port through the window that closed last, and whose delivered lines fall
short; THROTTLE excuses (R301). -/
def Dev.shortTenants (d : Dev) (short : Nat → Nat → Bool) : List TenantId :=
  allTenants.filter fun t =>
    0 < d.guar t && 64 ≤ (d.tenant t).waitPours && !(List.range 8).any (d.throttled t) && short (d.windowLines t) (d.guar t)

end Sys2Proof.Machine
end

