-- ==== Sys2Proof/Machine/Home.lean ====
section
/-! DEFINITION. Sys2Proof/Machine/Home.lean: the directory (R265 to R269, R278, R280), the order at the home tracker
(R270), snoops (R273, R550), atomics (R282 to R284), and what a request does at Crema and the far tier (R104, R105, R109,
R112 to R115, R182, R183, R190, R191, R221). -/

namespace Sys2Proof.Machine

/-! ### Directory -/

/-- The entry with a number; slice, set and way together. -/
def DirEntry.none : DirEntry := ⟨0, .invalid, 0, false, false, 0⟩
def Dev.dirAt (d : Dev) (i : Nat) : DirEntry := Sparse.get DirEntry.none d.home.dir i
/-- Writes an entry, 48 bits of its word (R180). -/
def Dev.setDir (d : Dev) (i : Nat) (e : DirEntry) : Dev :=
  ({ d with home := { d.home with dir := Sparse.put DirEntry.none d.home.dir i e } }).mergeWrite .directory i 0x3F

/-- First entry of a line's set. -/
def dirBase (k : Nat) : Nat := (sliceOf k * 16384 + dirSet k) * 16

/-- The entry of a line, if it has one. -/
def Dev.dirFind (d : Dev) (k : Nat) : Option Nat :=
  ((List.range 16).find? fun w => let e := d.dirAt (dirBase k + w); e.tag == dirTag k && e.st != .invalid).map (dirBase k + ·)

/-- The entry that a transaction locked for a line it will grant. -/
def Dev.dirLocked (d : Dev) (k : Nat) : Option Nat :=
  ((List.range 16).find? fun w => let e := d.dirAt (dirBase k + w); e.tag == dirTag k && e.lock).map (dirBase k + ·)

/-- The line key of an entry (R266). -/
def Dev.dirKey (d : Dev) (i : Nat) : Nat := keyOf (i / 16 / 16384) (i / 16 % 16384) (d.dirAt i).tag

/-- Is the line's set imprecise (R280)? -/
def Dev.imprecise (d : Dev) (k : Nat) : Bool := d.home.imprecise.has (sliceOf k * 16384 + dirSet k)

/-- An uncorrectable word of a directory set (R280): its 16 ways become Invalid, and the set is imprecise. -/
def Dev.dirSetLost (d : Dev) (set : Nat) : Dev :=
  let mine := fun (i : Nat) => i / 16 == set
  let d := { d with home := { d.home with dir := d.home.dir.drop mine, imprecise := d.home.imprecise.add set } }
  let d := (List.range 16).foldl (fun d w => d.wordWrite .directory (set * 16 + w)) d
  (d.bump Fld.cohSts_imprecise 1).raise { num := 0x171, detail := [word1 (set / 16384), word1 (set % 16384)] }

/-- The directory lookup of a line: a poisoned word of its set is an uncorrectable one. -/
def Dev.dirLookup (d : Dev) (k : Nat) : Dev :=
  if (List.range 16).any fun w => d.wordBad .directory (dirBase k + w) then d.dirSetLost (dirBase k / 16) else d

/-- Is a line held (R276)? -/
def Dev.held (d : Dev) (k : Nat) : Bool := d.home.holds.any fun h => h.1 == k

/-- The sharer index of an LD (R264). -/
def Dev.sharerOf (d : Dev) (p : PortId) (ld : Nat) : Option Nat :=
  (List.range 16).find? fun i => d.flag (Fld.cohSharerMap_v i) && d.fld (Fld.cohSharerMap_port i) == portIdx p &&
    d.fld (Fld.cohSharerMap_ld i) == ld

/-- The port and LD of a sharer index. -/
def Dev.sharerLd (d : Dev) (i : Nat) : Option (PortId × Nat) :=
  if d.flag (Fld.cohSharerMap_v i) then some (portOf (d.fld (Fld.cohSharerMap_port i)), d.fld (Fld.cohSharerMap_ld i)) else none

/-- Does the request need an entry (R268)? -/
def Txn.needsEntry (x : Txn) : Bool :=
  x.db && x.sharer.isSome && (match x.op with
    | .rdData => true
    | .rd | .inv | .wr | .wrPtl => x.md != .invalid
    | _ => false)

/-- The directory after a request is answered (R268); a grant with MetaValue Any sets HOLD (R276). -/
def Dev.dirAfter (d : Dev) (x : Txn) : Dev :=
  let k := lineKey x.ma
  let i := match d.dirFind k with | some i => some i | none => d.dirLocked k
  match i, x.sharer with
  | some i, some sh =>
    let e := d.dirAt i
    if ¬ x.db then d.setDir i { e with lock := false }
    else
      let bit : BitVec 16 := BitVec.ofNat 16 (2 ^ sh)
      let give := fun (st : DirState) (hold : Bool) => d.setDir i { e with st := st, sharers := bit, lock := false, hold := hold || e.hold, age := 0 }
      match x.op, x.md with
      | .rdData, _ => give .shared false
      | .rd, .shared => give .shared false
      | .inv, .shared => give .shared false
      | .rd, .any => let d := give .exclusive true; { d with home := { d.home with holds := d.home.holds ++ [(k, d.now)] } }
      | .inv, .any => let d := give .exclusive true; { d with home := { d.home with holds := d.home.holds ++ [(k, d.now)] } }
      | .wr, .invalid => d.setDir i DirEntry.none
      | .wrPtl, .invalid => d.setDir i DirEntry.none
      | .wr, .shared => give .shared false
      | .wrPtl, .shared => give .shared false
      | .wr, .any => give .exclusive false
      | .wrPtl, .any => give .exclusive false
      | .clnEvct, _ => d.setDir i DirEntry.none
      | _, _ => if e.st == .invalid then d.setDir i DirEntry.none else d.setDir i { e with lock := false, age := 0 }
  | some i, none =>
    let e := d.dirAt i
    if e.st == .invalid then d.setDir i DirEntry.none else d.setDir i { e with lock := false }
  | none, _ => d

/-- Completes a transaction at its home: the directory takes its state, and the answer leaves. -/
def Dev.close (d : Dev) (x : Txn) (r : Reply) : Dev := (d.dirAfter x).finish x r

/-- Closes a transaction poisoned; what the directory grants stands. -/
def Dev.closePoisoned (d : Dev) (x : Txn) : Dev := d.close x x.op.poisonReply

/-! ### Snoops (R273, R277, R550) -/

/-- The HPA of a line for a sharer (R550). -/
def Dev.snoopHpa (d : Dev) (p : PortId) (ld ma : Nat) (comp : Bool) : Option Nat :=
  match d.ownerOf ma comp with
  | some (_, dpa) => (hpaOf (d.ldOf p ld) dpa).map (·.2)
  | none => none

/-- Sends a BISnp on its way: to the host port, or up the chain (R285). -/
def Dev.sendSnoop (d : Dev) (k sh : Nat) (inv : Bool) (comp : Bool) : Dev :=
  let ma := mkMa d.chainId false 0 + k * 64
  let d := d.count 0x030 1
  if d.isMember then
    let m := { d.mgmtMsg 0 0 with sharer := Fin.ofNat 16 sh, line := ma / 64, db := true, comp := comp }
    d.sendUp m (if inv then 0x41 else 0x40) []
  else match d.sharerLd sh with
    | some (p, ld) => match d.snoopHpa p ld ma comp with
      | some hpa => d.emit (.bisnp p ld hpa inv)
      | none => d
    | none => d

/-- Can the line's HPA be formed? A member leaves that to the head. -/
def Dev.snoopable (d : Dev) (k sh : Nat) (comp : Bool) : Bool :=
  d.isMember || (match d.sharerLd sh with
    | some (p, ld) => (d.snoopHpa p ld (mkMa d.chainId false 0 + k * 64) comp).isSome
    | none => false)

/-- Opens a snoop; while the line is held it is not sent yet (R276). -/
def Dev.openSnoop (d : Dev) (k sh : Nat) (inv : Bool) (id : Option Nat) (excl comp : Bool) : Dev :=
  let waits := d.held k
  let d := { d with home := { d.home with snoops := d.home.snoops ++
      [⟨k, sh, inv, if waits then none else some d.stamp, id, excl⟩] } }
  if waits then d else d.sendSnoop k sh inv comp

/-- The open snoop of a line. -/
def Dev.snoopOf (d : Dev) (k : Nat) : Option Snoop := d.home.snoops.find? (·.line == k)

/-- Takes a snoop off the list of open ones. -/
def Dev.dropSnoop (d : Dev) (k : Nat) : Dev :=
  { d with home := { d.home with snoops := d.home.snoops.filter (·.line != k) } }

/-- Frees the entry of a line, or keeps it Shared. -/
def Dev.dirAnswer (d : Dev) (k : Nat) (shared : Bool) : Dev :=
  match d.dirFind k with
  | some i => if shared then d.setDir i { d.dirAt i with st := .shared } else d.setDir i DirEntry.none
  | none => d

/-- The snoop a transaction needs (R273, R280): sharer, BISnpInv, and whether it snoops an Exclusive entry. -/
def Dev.snoopNeed (d : Dev) (x : Txn) : Option (Nat × Bool × Bool) :=
  if ¬ x.db ∨ ¬ x.op.isUio ∨ x.snooped then none
  else
    let k := lineKey x.ma
    match d.dirFind k with
    | some i =>
      let e := d.dirAt i
      let sh := (List.range 16).find? fun j => e.sharers.getLsbD j
      match sh, e.st with
      | some sh, .exclusive => some (sh, x.op != .uioRd, true)
      | some sh, .shared => if x.op == .uioRd then none else some (sh, true, false)
      | _, _ => none
    | none => if d.imprecise k then x.sharer.map fun sh => (sh, true, true) else none

/-! ### Writing and reading a line where it lives -/

/-- Frame number and line of a near MA; page number and line of a far one. -/
def maPage (ma : Nat) : Nat := maOff ma / 4096
def maLine (ma : Nat) : Nat := maOff ma / 64 % 64

/-- Is a Crema line lost and not yet reached by the rebuild walk (R122)? -/
def Dev.lostPending (d : Dev) (g l : Nat) : Bool :=
  d.crm.rebuilds.any fun r => r.logical == frameChan g && r.pos ≤ framePos g && !r.seen.has (cremaKey g l)

/-- Marks a line as reached before the walk. -/
def Dev.markSeen (d : Dev) (g l : Nat) : Dev :=
  { d with crm := { d.crm with rebuilds := d.crm.rebuilds.map fun r =>
      if r.logical == frameChan g then { r with seen := r.seen.add (cremaKey g l) } else r } }

/-- Counts a lost line for its rebuild walk (R123). -/
def Dev.countLost (d : Dev) (g : Nat) (near : Bool) : Dev :=
  { d with crm := { d.crm with rebuilds := d.crm.rebuilds.map fun (r : Rebuild) =>
      if r.logical == frameChan g then
        (if near then { r with nearLost := r.nearLost + 1 } else { r with dirtyLost := r.dirtyLost + 1 }) else r } }

/-- Did the near line of a lost channel lie in a block that was allocated at the loss (R122, R123)? -/
def Dev.nearHeld (d : Dev) (g : Nat) : Bool :=
  d.crm.rebuilds.any fun r => r.logical == frameChan g && r.blocks.contains (g / 65536)

/-- A near line reached before the walk (R122): an allocated one takes stored poison and is listed, another one zeros. -/
def Dev.settleNear (d : Dev) (g l : Nat) : Dev :=
  if d.lostPending g l then
    let d := d.markSeen g l
    if d.nearHeld g then
      let d := d.countLost g true
      if d.flag (Fld.crmLmap_v (frameChan g)) then
        d.poisonCrema g l false (d.nearMa g l) .internal
      else match d.ownerOf (d.nearMa g l) false with
        | some (t, dpa) => d.listPoison (d.tntPort t) (d.tntLd t) (dpa / 64) .internal
        | none => d
    else d.cremaStore g l 0 false
  else d

/-- A cached line reached before the walk: a clean one is absent again, a dirty one is lost and its far line takes stored
poison (R122). -/
def Dev.settleCached (d : Dev) (set way l : Nat) (page : Nat) : Dev :=
  let g := d.frameOf set way
  if d.lostPending g l then
    let d := d.markSeen g l
    let f := d.frame set way
    if f.has l then
      let b : BitVec 64 := ~~~(BitVec.ofNat 64 (2 ^ l))
      let dirty := f.dirty.getLsbD l
      let d := d.setFrame set way { f with valid := f.valid &&& b, dirty := f.dirty &&& b }
      if dirty then
        let d := d.countLost g false
        let ma := mkMa d.chainId true (offOf page l)
        if f.c then
          let lines := d.pageLines page
          if (lines.getD l (0, true)).2 then d
          else
            let c := (d.farLoc (offOf page l)).ch
            (d.storeDirect page (lines.set l (0, true))).firstPoison ma true (d.farChid c) (d.pageLoc page) .internal
        else let x := d.farLoc (offOf page l); d.poisonFar x.ch x.cli false ma .internal
      else d
    else d
  else d

/-- Settles every line of a frame before the frame's content is used (R122). -/
def Dev.settleFrame (d : Dev) (set way : Nat) : Dev :=
  if d.crm.rebuilds.any fun r => r.logical == frameChan (d.frameOf set way) then
    (List.range 64).foldl (fun d l => d.settleCached set way l (d.pageOf set (d.frame set way).tag)) d
  else d

/-- Writes a Crema line: one that was lost is so no longer (R122). -/
def Dev.cremaPut (d : Dev) (g l : Nat) (data : Line) (poison : Bool) : Dev :=
  (if d.lostPending g l then d.markSeen g l else d).cremaStore g l data poison

/-- Does an unbacked channel hold the frame (R124)? -/
def Dev.unbacked (d : Dev) (g : Nat) : Bool := !d.flag (Fld.crmLmap_v (frameChan g))

/-- A cache frame on an unbacked channel is given up: its lines are settled, and its way is Invalid and ineligible (R124). -/
def Dev.giveUpFrame (d : Dev) (set way : Nat) : Dev :=
  let p := d.pageOf set (d.frame set way).tag
  let d := ((List.range 64).foldl (fun d l => d.settleCached set way l p) d).dropFrame set way
  { d with crm := { d.crm with evictFor := Sparse.erase d.crm.evictFor (set * 16 + way) } }

/-- Is a write of a far line dropped: its channel lost (R480)? -/
def Dev.farGone (d : Dev) (ma : Nat) : Bool := d.farLost (d.farLoc (maOff ma)).ch

/-- A packet for a domain that is not on meets retry at its source's interface (R325). -/
def Dev.retry (d : Dev) (n : Nat) : Dev := if d.domState n = 0 then d else d.setBit Fld.nocFenceSts_retried n true

/-- The log of a dropped write. -/
def Dev.logDrop (d : Dev) (chid : BitVec 16) (ma : Nat) : Dev := d.emit (.dropped chid ma)

/-- The line under a media address as its reader gets it, wherever its current copy is. -/
def Dev.readLine (d : Dev) (ma : Nat) (comp : Bool) : Line × Bool :=
  let l := maLine ma
  if ¬ maFar ma then
    let g := maPage ma
    if d.unbacked g then (0, true)
    else if d.lostPending g l then (0, d.nearHeld g)
    else d.cremaView g l
  else if d.farGone ma then (0, true)
  else
    let p := maPage ma
    match d.findWay p comp with
    | some w =>
      let s := d.setOf p
      if (d.frame s w).has l ∧ ¬ d.lostPending (d.frameOf s w) l then d.cremaView (d.frameOf s w) l
      else if comp then (d.pageLines p).getD l (0, true) else let x := d.farLoc (maOff ma); d.farView x.ch x.cli
    | none => if comp then (d.pageLines p).getD l (0, true) else let x := d.farLoc (maOff ma); d.farView x.ch x.cli

/-- Does a write to a page with a frame go into the frame: Valid or Evicting, backed, and the cache not in bypass (R112, R115, R120)? A
writeback that is registered for the line then carries it. -/
def Dev.inFrame (d : Dev) (set way : Nat) : Bool :=
  let f := d.frame set way
  ((f.st == 1 && !d.flag Fld.crmSts_bypass) || f.st == 3) && !d.unbacked (d.frameOf set way)

/-- A write in bypass to a page with a Valid frame: it goes to the far tier, and a present line becomes Invalid (R120). -/
def Dev.writeBeside (d : Dev) (set way l : Nat) (data : Line) (poison : Bool) : Dev :=
  let f := d.frame set way
  let p := d.pageOf set f.tag
  let b : BitVec 64 := ~~~(BitVec.ofNat 64 (2 ^ l))
  let x := d.farLoc (offOf p l)
  let d := d.setFrame set way { f with valid := f.valid &&& b, dirty := f.dirty &&& b }
  if f.c then d.storeDirect p ((d.pageLines p).set l (data, poison)) else d.farStore x.ch x.cli data poison

/-- A line that came early for a frame still Evicting is stale once it is written (R112). -/
def Dev.dropLate (d : Dev) (p l : Nat) : Dev :=
  let set := d.setOf p
  { d with crm := { d.crm with late := d.crm.late.filter fun (e : Nat × Line × Bool) =>
      !(e.1 % 64 == l && e.1 / 1024 == set && Sparse.get 0 d.crm.evictFor (e.1 / 64) == p * 4 + 1) } }

/-- Writes a whole line, or stored poison, where its current copy lives: a present or cacheable line in Crema, any other
one in the far tier. The poison list follows (R188, R189). -/
def Dev.writeLine (d : Dev) (ma : Nat) (comp : Bool) (data : Line) (poison : Bool) (src : PoisonSrc) : Dev :=
  let l := maLine ma
  let p := maPage ma
  let was := (d.readLine ma comp).2
  if ¬ maFar ma then
    if d.unbacked p then d.logDrop (d.cremaChid (d.framePhys p)) ma
    else
      let d := d.cremaPut p l data poison
      if poison ∧ ¬ was then d.firstPoison ma false (d.cremaChid (d.framePhys p)) (d.cremaLoc p l) src
      else if ¬ poison then d.poisonGone ma false else d
  else if d.farGone ma then d.logDrop (d.farChid (d.farLoc (maOff ma)).ch) ma
  else
    let x := d.farLoc (maOff ma)
    let place := fun (d : Dev) =>
      match d.findWay p comp with
      | some w =>
        let s := d.setOf p
        let f := d.frame s w
        if d.inFrame s w then
          (d.cremaPut (d.frameOf s w) l data poison).setFrame s w (f.mark l true)
        else if f.st == 1 then d.writeBeside s w l data poison
        else if comp then d.storeDirect p ((d.pageLines p).set l (data, poison)) else d.farStore x.ch x.cli data poison
      | none => if comp then d.storeDirect p ((d.pageLines p).set l (data, poison)) else (d.dropLate p l).farStore x.ch x.cli data poison
    let d := place d
    if poison ∧ ¬ was then d.firstPoison ma comp (d.farChid x.ch) (d.farLocator x.ch x.cli) src
    else if ¬ poison then d.poisonGone ma comp else d

/-! ### Atomics (R282 to R284) -/

/-- The result of an atomic on the old value. -/
def atomicNew (a : AtomicArgs) (old : BitVec 128) : BitVec 128 :=
  let m : BitVec 128 := BitVec.ofNat 128 (2 ^ (8 * a.bytes) - 1)
  match a.kind with
  | .fetchAdd => (old + a.operand) &&& m
  | .swap => a.operand &&& m
  | .cas => if (old &&& m) = (a.compare &&& m) then a.operand &&& m else old &&& m

/-- The operand's value in a line. -/
def atomicOld (a : AtomicArgs) (l : Line) (off : Nat) : BitVec 128 :=
  (l >>> (8 * off)).setWidth 128 &&& BitVec.ofNat 128 (2 ^ (8 * a.bytes) - 1)

/-- The line after an atomic at byte `off`. -/
def atomicLine (a : AtomicArgs) (l : Line) (off : Nat) : Line :=
  let m : Line := (BitVec.ofNat 512 (2 ^ (8 * a.bytes) - 1)) <<< (8 * off)
  (l &&& ~~~m) ||| ((atomicNew a (atomicOld a l off)).setWidth 512) <<< (8 * off)

/-- Where in its line the transaction's address falls. -/
def Txn.byteOff (x : Txn) : Nat := x.ma % 64

/-- The contention predictor after an atomic, and the score it then has (R284). -/
def Dev.predictAtomic (d : Dev) (k req : Nat) : Nat × Dev :=
  let i := k % 1024
  let e := Sparse.get ⟨false, 0, 0, 0⟩ d.home.atomPred i
  let tag := k / 1024 % 4096
  let e' : AtomPred := if ¬ e.valid ∨ e.tag ≠ tag then ⟨true, tag, req, 0⟩
    else if e.requester = req then { e with score := min 7 (e.score + 1) } else { e with score := 0, requester := req }
  (e'.score, { d with home := { d.home with atomPred := Sparse.put ⟨false, 0, 0, 0⟩ d.home.atomPred i e' } })

/-- A recall sets the score of a line's entry to 0 (R284). -/
def Dev.predictRecall (d : Dev) (k : Nat) : Dev :=
  let i := k % 1024
  let e := Sparse.get ⟨false, 0, 0, 0⟩ d.home.atomPred i
  if e.valid ∧ e.tag = k / 1024 % 4096 then
    { d with home := { d.home with atomPred := Sparse.put ⟨false, 0, 0, 0⟩ d.home.atomPred i { e with score := 0 } } } else d

/-- The lease of a line. -/
def Dev.leaseOf (d : Dev) (k : Nat) : Option Lease := d.home.leases.find? (·.line == k)

/-- Ends a lease (R283): a modified line is written back through the home, and the lease's transaction closes. -/
def Dev.endLease (d : Dev) (l : Lease) : Dev :=
  let d := { d with home := { d.home with leases := d.home.leases.filter (·.line != l.line) } }
  match d.txn l.txn with
  | some x =>
    let d := if l.dirty then d.writeLine x.ma x.comp l.data false .internal else d
    let d := d.dirAfter { x with op := .atomic }
    { d with txns := d.txns.filter (·.id != x.id) }
  | none => d

/-- Runs an atomic on a lease it holds. -/
def Dev.atomicOnLease (d : Dev) (x : Txn) (a : AtomicArgs) (l : Lease) : Dev :=
  let l' := { l with data := atomicLine a l.data x.byteOff, dirty := true, lastUse := d.stamp }
  let d := { d with home := { d.home with leases := d.home.leases.map fun (y : Lease) => if y.line == l.line then l' else y } }
  (d.count 0x031 1).finish x (.atomic (atomicOld a l.data x.byteOff) false)

/-- Takes a line into a port's atomic unit and runs the atomic there; the transaction that took it stays open. -/
def Dev.acquireLease (d : Dev) (x : Txn) (a : AtomicArgs) (data : Line) (p : PortId) : Dev :=
  let id := d.nextTxn
  let old := atomicOld a data x.byteOff
  let hold : Txn := { x with id := id, phase := .leased }
  let d := { d with nextTxn := id + 1
                    home := { d.home with leases := d.home.leases ++
                      [(⟨lineKey x.ma, p, id, atomicLine a data x.byteOff, true, d.now, d.stamp⟩ : Lease)] } }
  let d := (d.count 0x031 1).finish x (.atomic old false)
  { d with txns := hold :: d.txns }

/-- Does an atomic run near (R283, R284, R286)? -/
def Dev.runsNear (d : Dev) (x : Txn) (score : Nat) : Option PortId :=
  match x.port with
  | some p =>
    if d.flag Fld.cohAtomCtl_nearEn ∧ d.fld Fld.cohAtomCtl_nearMin ≤ score ∧
        (d.home.leases.filter (·.port == p)).length < 64 then some p else none
  | none => none

/-! ### Completing an access with the line's data -/

/-- What an access of a transaction is to a scheduler (R147). A read has the transaction waiting for it. -/
def Txn.who (x : Txn) (wr : Bool) : Who :=
  { cls := x.cls, wr := wr, tenant := x.tenant, relay := x.port.isNone, txn := if wr then none else some x.id }

/-- The access that writes a line where its current copy lives. The whole-page write of a compressed page makes its own accesses. -/
def Dev.putAccess (d : Dev) (x : Txn) : Dev :=
  let l := maLine x.ma
  let p := maPage x.ma
  let far := fun (d : Dev) => if x.comp then d else let c := d.farLoc (maOff x.ma); d.farAccess c.ch c.cli (x.who true)
  if ¬ maFar x.ma then d.cremaAccess p l (x.who true)
  else match d.findWay p x.comp with
    | some w =>
      let s := d.setOf p
      if d.inFrame s w then (d.cremaAccess (d.frameOf s w) l (x.who true)).tagWrite (x.who true) s (some w) else far d
    | none => far d

/-- Writes a line of the transaction into a frame (dirty) or, without one, into the far tier; near lines into Crema. -/
def Dev.putTxn (d : Dev) (x : Txn) (data : Line) (poison : Bool) : Dev :=
  (d.putAccess x).writeLine x.ma x.comp data (poison || x.poisoned) .internal

/-- The line of the transaction has been read: a read returns it, a masked write merges it (R190, R191), an atomic
computes (R282). -/
def Dev.withData (d : Dev) (x : Txn) (data : Line) (poison : Bool) : Dev :=
  match x.op with
  | .atomic => match x.atom with
    | some a =>
      if poison then d.close x (.atomic 0 true)
      else
        match d.runsNear x (Sparse.get ⟨false, 0, 0, 0⟩ d.home.atomPred (lineKey x.ma % 1024)).score with
        | some p => d.acquireLease x a data p
        | none => ((d.count 0x032 1).putTxn x (atomicLine a data x.byteOff) false).close x (.atomic (atomicOld a data x.byteOff) false)
    | none => d.closePoisoned x
  | .wrPtl | .uioWrPtl =>
    let d := if poison then
        d.raise { num := 0x144, tenant := x.tenant, cls := some x.cls,
                  detail := (match x.org with | .host p ld _ _ => [ldWord p ld] | .relay _ _ => [0]) ++ words2 x.dpa }
      else d
    (d.putTxn x (mergeLine data x.data x.mask) poison).close x .cmp
  | .wr | .uioWr => (d.putTxn x x.data false).close x .cmp
  | _ => d.close x (.data data poison)

/-! ### Crema: the tag decision and after (R104, R105, R107, R109, R112 to R115, R120) -/

/-- The predictor entry of a page (R107). -/
def predIdx (p : Nat) : Nat := (p % 2 ^ 16) ^^^ (p / 2 ^ 16 % 2 ^ 16)
def Dev.predOf (d : Dev) (p : Nat) : Pred := Sparse.get ⟨false, 0, 0⟩ d.crm.pred (predIdx p)
def Dev.setPred (d : Dev) (p : Nat) (e : Pred) : Dev :=
  { d with crm := { d.crm with pred := Sparse.put ⟨false, 0, 0⟩ d.crm.pred (predIdx p) e } }

/-- The predictor after a tag decision that found a way. -/
def Dev.predFound (d : Dev) (p way : Nat) : Dev :=
  let e := d.predOf p
  d.setPred p (if e.valid ∧ e.way = way then { e with conf := min 3 (e.conf + 1) } else ⟨true, way, 1⟩)

/-- Sends a transaction to the far tier: the line is requested from its channel. -/
def Dev.toFar (d : Dev) (x : Txn) (cli : FarLoc) : Dev :=
  let d := d.farAccess cli.ch cli.cli (x.who false)
  d.modTxn x.id fun y => { y with phase := .far, tier := if y.tier = 3 then 3 else 2 }

/-- Has a speculative activate been held longer than HOLD (R109)? -/
def Dev.specLate (d : Dev) (x : Txn) : Bool :=
  match x.spec with | some t => decide (d.fld Fld.crmSpecCtl_hold < t.cyclesTo d.stamp) | none => false

/-- Sends a transaction to Crema for its line. A read whose row a confirmed speculation has opened needs no activate (R109). -/
def Dev.toCrema (d : Dev) (x : Txn) (g l : Nat) : Dev :=
  let opened := match d.txn x.id with | some y => y.spec.isSome | none => false
  (d.cremaAccess g l { x.who false with opened := opened }).modTxn x.id fun y =>
    { y with phase := .crema, tier := if y.tier = 3 then 3 else 1, spec := none }

/-- The first job of the best class (R148, R258). -/
def bestJob (l : List Job) : Option Job := [Cls.g, .l, .b, .s].findSome? fun c => l.find? (·.cls == c)

/-- Gives the jobs of Press's queue of 64 to idle engines, by class and age (R258); a job that failed on an engine takes another one
(R248). -/
def Dev.dispatchJobs (d : Dev) : Dev :=
  let d := (List.range 4).foldl (fun d e =>
    match vget none d.prs.engines e, bestJob ((d.prs.jobs.take 64).filter fun (j : Job) => !j.tries.contains e) with
    | none, some j => if d.enginesOk.contains e ∧ d.prs.underTest.map (·.val) ≠ some e then
        { d with prs := { d.prs with engines := vmod d.prs.engines e (fun _ => some j), jobs := d.prs.jobs.erase j } } else d
    | _, _ => d) d
  d.setFld Fld.prsSts_jobs (min 64 d.prs.jobs.length)

/-- Queues a page job. -/
def Dev.queueJob (d : Dev) (j : Job) : Dev := ({ d with prs := { d.prs with jobs := d.prs.jobs ++ [j] } }).dispatchJobs

/-- The writeback job of a frame takes the class of a held write that waits on it, where that ranks ahead (R147). -/
def Dev.jobClass (d : Dev) (set way : Nat) (c : Cls) : Dev :=
  let up := fun (j : Job) => if j.set == set && j.way == way && !j.decode && clsCode c < clsCode j.cls then { j with cls := c } else j
  { d with prs := { d.prs with jobs := d.prs.jobs.map up, engines := vmap d.prs.engines fun o => o.map up } }

/-- The class of the writeback of a page that is evicted (R147): B, or that of a held write which waits on it. -/
def Dev.evictClass (d : Dev) (page : Nat) : Cls :=
  let held := d.txns.filter fun (x : Txn) => x.phase == .heldWrite && maFar x.ma && maPage x.ma == page
  ([Cls.g, .l, .b].find? fun c => held.any fun (x : Txn) => x.cls == c).getD .b

/-- STATE of a page, 3 where it cannot be told. -/
def Dev.pageState (d : Dev) (page : Nat) : Nat :=
  match d.pagePlace page with
  | some pl => match d.mapEntry pl with | some m => m.st | none => 3
  | none => 3

/-- Starts the whole-page fill of a compressed page into a way: a Compressed page needs an engine, any other one fills as
it stands (R114, R247). The fill sets the way predictor (R107). -/
def Dev.startFill (d : Dev) (set way page : Nat) (pin : Bool) (c : Cls) : Dev :=
  let d := (d.setFrame set way { Frame.none with st := 2, rrpv := 2, pin := pin, c := true, tag := d.tagOf page }).tagWrite {} set (some way)
  let d := d.setPred page ⟨true, way, 2⟩
  if d.pageState page = 1 then d.queueJob ⟨true, page, set, way, none, [], c⟩ else d

/-- Installs a page of an uncompressed region in a way, without a valid line yet (R112). -/
def Dev.installFrame (d : Dev) (set way page : Nat) : Dev :=
  ((d.setFrame set way { Frame.none with st := 1, rrpv := 2, tag := d.tagOf page }).tagWrite {} set (some way)).setPred page ⟨true, way, 2⟩

/-- The 64 lines of a compressed page's frame: a line the frame does not hold comes from the stored page. -/
def Dev.frameLines (d : Dev) (set way : Nat) : List (Line × Bool) :=
  let f := d.frame set way
  let stored := d.pageLines (d.pageOf set f.tag)
  (List.range 64).map fun l => if f.has l then d.cremaView (d.frameOf set way) l else stored.getD l (0, true)

/-- Writes the frame of a compressed page back as one page transaction (R250), and marks a frame that waits for compaction
(R252 step 4). -/
def Dev.storeFrame (d : Dev) (set way : Nat) (raw : Bool) : Stored × Dev :=
  let d := d.settleFrame set way
  let f := d.frame set way
  let (st, d) := d.storePage (d.pageOf set f.tag) (d.frameLines set way) raw
  match st with
  | .wait =>
    let i := set * 16 + way
    let held := if d.crm.heldWrites.contains i then d.crm.heldWrites else d.crm.heldWrites ++ [i]
    (.wait, ({ d with crm := { d.crm with heldWrites := held } }).setFrame set way { f with st := 1 })
  | _ =>
    let d := { d with crm := { d.crm with heldWrites := d.crm.heldWrites.erase (set * 16 + way) } }
    (st, (d.count 0x025 ((List.range 64).filter fun l => f.dirty.getLsbD l).length).setFrame set way { f with dirty := 0 })

/-- Takes a way for a page. A victim with a dirty line is Evicting first and takes the page afterwards (R112, R115);
answers whether the frame is there at once. With no Press engine in service a compressed victim is stored Raw at once
(R259). -/
def Dev.takeWay (d : Dev) (set way page : Nat) (comp : Bool) (c : Cls) : Bool × Dev :=
  let d := d.settleFrame set way
  let f := d.frame set way
  let take := fun (d : Dev) =>
    let d := d.dropFrame set way
    (true, if comp then d.startFill set way page false c else d.installFrame set way page)
  if f.st == 1 && f.dirty != 0 then
    if f.c && d.enginesOk.isEmpty then
      match d.storeFrame set way true with
      | (.wait, d) => (false, d)
      | (_, d) => take d
    else
      let d := d.setFrame set way { f with st := 3 }
      let d := { d with crm := { d.crm with evictFor := Sparse.put 0 d.crm.evictFor (set * 16 + way) (page * 4 + bitOf comp * 2 + 1) } }
      let old := d.pageOf set f.tag
      (false, if f.c then d.queueJob ⟨false, old, set, way, none, [], .b⟩ else d)
  else take d

/-- Is a page stored Compressed with no engine left to decode it (R259)? -/
def Dev.noDecoder (d : Dev) (x : Txn) : Bool := x.comp && d.enginesOk.isEmpty && d.pageState (maPage x.ma) == 1

/-- Such a page reads as poison, its map entry unchanged; a write to it is dropped and logged (log entry 30). -/
def Dev.closeUndecoded (d : Dev) (x : Txn) : Dev :=
  let d := d.retry 10
  let d := if x.op.isWrite then d.logDrop (d.farChid (d.farLoc (maOff x.ma)).ch) x.ma else d
  d.closePoisoned x

/-- A write that finds no line to merge with: a full line is written, a masked one reads the line first. -/
def Dev.missWrite (d : Dev) (x : Txn) : Dev :=
  let loc := d.farLoc (maOff x.ma)
  if x.op.isMasked ∨ x.op == .atomic then
    if d.farFresh loc.ch (loc.cli / 64) then d.withData x 0 false else d.toFar x loc
  else (d.putTxn x x.data false).close x .cmp

/-- A bypass of the cache (R105, R120): served from the far tier without a fill. -/
def Dev.bypass (d : Dev) (x : Txn) : Dev :=
  let p := maPage x.ma
  if x.comp then
    if x.op.isRead then
      if d.pageState p = 1 then (d.park x.id .fill).queueJob ⟨true, p, 2 ^ 20, 0, some x.id, [], x.cls⟩
      else let (l, po) := (d.pageLines p).getD (maLine x.ma) (0, true); d.withData x l po
    else if d.flag Fld.crmSts_bypass then
      let (l, po) := (d.pageLines p).getD (maLine x.ma) (0, true)
      d.withData x l po
    else d.park x.id .heldWrite
  else
    let loc := d.farLoc (maOff x.ma)
    if x.op.isRead then (if d.farFresh loc.ch (loc.cli / 64) then d.withData x 0 false else d.toFar x loc)
    else d.missWrite x

/-- The way that takes a page once its eviction is complete (R115). -/
def Dev.claimed (d : Dev) (set page : Nat) (comp : Bool) : Option Nat :=
  (List.range 16).find? fun w => Sparse.get 0 d.crm.evictFor (set * 16 + w) == page * 4 + bitOf comp * 2 + 1

/-- Counts a tag decision once for its transaction: a hit, or a miss (R104). -/
def Dev.countTag (d : Dev) (x : Txn) (num : Nat) : Dev :=
  if x.counted then d
  else (d.countAs num 1 none x.tenant (some x.cls)).modTxn x.id fun y => { y with counted := true }

/-- A request whose page waits for a way: no way is ready, or none is eligible. -/
def Dev.waitWay (d : Dev) (x : Txn) (ready : Bool) : Dev :=
  if x.comp then d.park x.id (if ready || x.op.isRead then .fill else .heldWrite)
  else if x.op.isRead then d.toFar x (d.farLoc (maOff x.ma))
  else if ready then d.missWrite x
  else d.park x.id .heldWrite

/-- A request whose page has no frame (R104, R105, R112 to R114). -/
def Dev.missPage (d : Dev) (x : Txn) : Dev :=
  let p := maPage x.ma
  let set := d.setOf p
  let loc := d.farLoc (maOff x.ma)
  let d := (d.countTag x 0x023).setPred p { d.predOf p with valid := false }
  let d := if x.comp then d.meetMap p else d
  if ¬ x.comp ∧ x.op.isRead ∧ d.farFresh loc.ch (loc.cli / 64) then d.withData x 0 false
  else if d.noDecoder x then d.closeUndecoded x
  else if d.flag Fld.crmSts_bypass then d.bypass x
  else if (d.claimed set p x.comp).isSome then d.waitWay x false
  else match d.victim set with
    | none =>
      let d := if x.bypass then d
        else (d.countAs 0x0C0 1 none x.tenant (some x.cls)).modTxn x.id fun y => { y with bypass := true }
      d.bypass x
    | some (w, d) => let (ready, d) := d.takeWay set w p x.comp x.cls; d.waitWay x ready

/-- A request whose page's frame is Valid (R112, R120). In bypass a write to a line that the walk has yet to write back waits for it. -/
def Dev.hitPage (d : Dev) (x : Txn) (set way : Nat) : Dev :=
  let p := maPage x.ma
  let l := maLine x.ma
  let g := d.frameOf set way
  let loc := d.farLoc (maOff x.ma)
  let d := if x.counted then d else (((d.countTag x 0x022).touch set way).tagWrite (x.who true) set (some way)).predFound p way
  let full := x.op.isWrite && !x.op.isMasked
  let d := if full then d else d.settleCached set way l p
  let f := d.frame set way
  if d.flag Fld.crmSts_bypass && x.op.writes && f.dirty.getLsbD l && !d.lostPending g l then d.park x.id .heldWrite
  else if full then (d.putTxn x x.data false).close x .cmp
  else if f.has l then d.toCrema x g l
  else if x.comp then let (v, po) := (d.pageLines p).getD l (0, true); d.withData x v po
  else if d.farFresh loc.ch (loc.cli / 64) then d.withData x 0 false
  else d.toFar x loc

/-- A request whose page's frame is Evicting (R115). A line that is dirty there has its writeback registered, and a write to it waits;
another write is applied to Crema, and the writeback carries it. -/
def Dev.meetEviction (d : Dev) (x : Txn) (set way : Nat) : Dev :=
  let p := maPage x.ma
  let l := maLine x.ma
  let g := d.frameOf set way
  let loc := d.farLoc (maOff x.ma)
  let full := x.op.isWrite && !x.op.isMasked
  let d := if full then d else d.settleCached set way l p
  let f := d.frame set way
  if x.op.writes && f.dirty.getLsbD l && !d.lostPending g l then (d.park x.id .heldWrite).jobClass set way x.cls
  else if full then (d.putTxn x x.data false).close x .cmp
  else if f.has l then d.toCrema x g l
  else if x.comp then let (v, po) := (d.pageLines p).getD l (0, true); d.withData x v po
  else if d.farFresh loc.ch (loc.cli / 64) then d.withData x 0 false
  else d.toFar x loc

/-- The tag decision of a far-tier request (R106, R109, R112 to R115), or its retry after a wait. -/
def Dev.decideTag (d : Dev) (x : Txn) : Dev :=
  let p := maPage x.ma
  let set := d.setOf p
  if d.farGone x.ma then
    let d := d.retry (6 + (d.farLoc (maOff x.ma)).ch / 2)
    let d := if x.op.isWrite then d.logDrop (d.farChid (d.farLoc (maOff x.ma)).ch) x.ma else d
    d.closePoisoned x
  else
    let d := d.tagRead (x.who false) set (d.findWay p x.comp)
    match d.findWay p x.comp with
    | none => d.missPage x
    | some w =>
      if d.unbacked (d.frameOf set w) then (d.giveUpFrame set w).missPage x
      else match (d.frame set w).st with
        | 1 => d.hitPage x set w
        | 2 => d.park x.id .fill
        | _ => d.meetEviction x set w

/-! ### Speculation (R108, R109, R323) -/

/-- The frame whose row a speculation opens: the predicted way's, or the near line's own. -/
def Dev.specFrame (d : Dev) (x : Txn) : Nat :=
  let p := maPage x.ma
  if maFar x.ma then d.frameOf (d.setOf p) (d.predOf p).way else p

/-- Squashes a speculation: the activate and the precharge waste a slot each. -/
def Dev.squashSpec (d : Dev) (x : Txn) : Dev :=
  match x.spec with
  | none => d
  | some _ =>
    let d := (d.waste (d.crmSched (d.specFrame x) (maLine x.ma)) 0x01D 2).countAs 0x0C2 1 none x.tenant (some x.cls)
    d.modTxn x.id fun y => { y with spec := none }

/-- Launches a speculative activate for a class-L read of a host port, which takes the express lane (R322), where R108 lets it. -/
def Dev.speculate (d : Dev) (x : Txn) : Dev :=
  if x.op.isRead ∧ x.cls == .l ∧ x.port.isSome ∧ d.flag Fld.crmSpecCtl_en then
    let ok := !maFar x.ma || ((d.predOf (maPage x.ma)).valid && d.fld Fld.crmSpecCtl_confMin ≤ (d.predOf (maPage x.ma)).conf)
    if ok then
      let (n, d) := d.takeFree
      let on := (match x.port with | some p => d.domState (portIdx p) == 0 | none => false) &&
        d.domState (2 + quadrantOf (d.framePhys (d.specFrame x))) == 0
      if Config.bankBusy n || Config.expressBusy n || !on then d.countAs 0x0C1 1 none x.tenant (some x.cls)
      else ((d.activateCrema (d.crmSched (d.specFrame x) (maLine x.ma)) (d.specFrame x) (maLine x.ma)).countAs 0x026 1 none x.tenant (some x.cls)).modTxn x.id fun y => { y with spec := some d.stamp }
    else d
  else d

/-! ### The home tracker (R270) -/

/-- A near request at its Crema channel (R100, R122, R124). -/
def Dev.nearAccess (d : Dev) (x : Txn) : Dev :=
  let g := maPage x.ma
  let l := maLine x.ma
  let d := if x.op.isWrite ∧ ¬ x.op.isMasked ∧ ¬ d.unbacked g then d else d.settleNear g l
  if d.unbacked g then
    let d := d.retry (2 + quadrantOf (d.framePhys g))
    let d := if x.op.isWrite then d.logDrop (d.cremaChid (d.framePhys g)) x.ma else d
    d.closePoisoned x
  else if x.op.isWrite ∧ ¬ x.op.isMasked then (d.putTxn x x.data false).close x .cmp
  else d.toCrema x g l

/-- A request that has its turn at the home and holds what it needs in the directory. -/
def Dev.access (d : Dev) (x : Txn) : Dev :=
  match x.op with
  | .inv | .clnEvct => d.close x .cmp
  | _ =>
    let d := d.speculate x
    if maFar x.ma then d.park x.id .tag else d.nearAccess x

/-- Raises the age of the eligible ways of a set at an allocation (R278). -/
def Dev.ageSet (d : Dev) (base : Nat) : Dev :=
  (List.range 16).foldl (fun d w =>
    let e := d.dirAt (base + w)
    if ¬ e.lock ∧ ¬ e.hold ∧ e.st ≠ .invalid then d.setDir (base + w) { e with age := min 3 (e.age + 1) } else d) d

/-- The way a new entry takes (R278): an Invalid one, or the eligible one of the highest age. -/
def Dev.dirVictim (d : Dev) (k : Nat) : Option Nat :=
  let b := dirBase k
  let ok := (List.range 16).filter fun w => let e := d.dirAt (b + w); !e.lock && !e.hold
  match ok.find? fun w => (d.dirAt (b + w)).st == .invalid with
  | some w => some (b + w)
  | none =>
    let top := (ok.map fun w => (d.dirAt (b + w)).age).foldl max 0
    (ok.find? fun w => (d.dirAt (b + w)).age == top).map (b + ·)

/-- Puts a locked entry for a line into a way. -/
def Dev.lockEntry (d : Dev) (i k : Nat) : Dev :=
  (d.ageSet (i / 16 * 16)).setDir i { DirEntry.none with tag := dirTag k, lock := true }

/-- Notes the highest retry-queue occupancy (R287). -/
def Dev.notePeak (d : Dev) (slice : Nat) : Dev :=
  let n := (d.txns.filter fun y => y.phase == .retry && sliceOf (lineKey y.ma) == slice).length
  if d.fld Fld.cohRetrySts_peak < n then (d.setFld Fld.cohRetrySts_peak n).setFld Fld.cohRetrySts_slice slice else d

/-- Does a media address lie in exposure space? No exposed page shares its OFFSET with an uncompressed one (R238). -/
def Dev.maComp (d : Dev) (ma : Nat) : Bool := maFar ma && (d.poolOf (maOff ma >>> 28)).isSome

/-- A line key of this member as a media address. -/
def Dev.maOfKey (d : Dev) (k : Nat) : Nat := mkMa d.chainId false 0 + k * 64

/-- What a snoop's timeout does to its line and host (R277 steps 1, 2 and 4): poison stored, the entry freed, the host's
bit set, the event raised. -/
def Dev.biTimeout (d : Dev) (k sh : Nat) : Dev :=
  let ma := d.maOfKey k
  let comp := d.maComp ma
  let d := d.dirAnswer k false
  let d := d.writeLine ma comp 0 true .internal
  let d := d.setBit Fld.cohSuspect_host sh true
  let ld := match d.sharerLd sh with | some (p, l) => ldWord p l | none => 0
  match d.ownerOf ma comp with
  | some (t, dpa) => d.raise { num := 0x170, tenant := some t, detail := [word1 sh, ld] ++ words2 dpa }
  | none => d.raise { num := 0x170, detail := [word1 sh, ld] }

/-- A transaction's turn at the home: the snoop it needs, the entry it needs, then its access. -/
def Dev.homeStep (d : Dev) (x : Txn) : Dev :=
  let k := lineKey x.ma
  let d := d.dirLookup k
  match d.snoopNeed x with
  | some (sh, inv, excl) =>
    if d.snoopable k sh x.comp then (d.openSnoop k sh inv (some x.id) excl x.comp).park x.id .snooping
    else
      -- no decoder maps the line (R550): Shared ends as BIRspI, Exclusive as a timeout
      let d := d.modTxn x.id fun y => { y with snooped := true }
      if excl then d.biTimeout k sh else d.dirAnswer k false
  | none =>
    if x.needsEntry ∧ (d.dirFind k).isNone then
      match d.dirVictim k with
      | none =>
        let d := (d.park x.id .retry).count 0x034 1
        (d.bump Fld.cohRetrySts_waits 1).notePeak (sliceOf k)
      | some i =>
        let e := d.dirAt i
        match e.st, (List.range 16).find? fun j => e.sharers.getLsbD j with
        | .invalid, _ => (d.lockEntry i k).access x
        | _, some sh =>
          let vk := d.dirKey i
          let d := d.setDir i { e with lock := true }
          let vcomp := d.maComp (d.maOfKey vk)
          if d.snoopable vk sh vcomp then (d.openSnoop vk sh true (some x.id) (e.st == .exclusive) vcomp).park x.id .snooping
          else
            let d := if e.st == .exclusive then d.biTimeout vk sh else d
            (d.lockEntry i k).access x
        | _, none => (d.lockEntry i k).access x
    else
      let d := match d.dirFind k with | some i => d.setDir i { d.dirAt i with lock := true, age := 0 } | none => d
      d.access x

/-- Is a transaction at a home of this device? -/
def Txn.atHome (x : Txn) : Bool := x.phase.looked && x.phase != .relayed && x.phase != .credit

/-- Open transactions of a home slice: those in its retry queue, or those in its tracker. -/
def Dev.onSlice (d : Dev) (s : Nat) (retry : Bool) : Nat :=
  (d.txns.filter fun x => x.atHome && sliceOf (lineKey x.ma) == s && (x.phase == .retry) == retry).length

/-- Does a home slice return no REQ credit: its tracker of 256 entries or its retry queue of 128 is full (R270, R272, R279)? -/
def Dev.sliceFull (d : Dev) (s : Nat) : Bool := decide (256 ≤ d.onSlice s false) || decide (128 ≤ d.onSlice s true)

/-- A transaction is admitted to its home tracker; an atomic updates the contention predictor (R284). -/
def Dev.takeIn (d : Dev) (x : Txn) : Dev :=
  let d := d.modTxn x.id fun y => { y with phase := .ordered }
  match x.op, x.atom with
  | .atomic, some a => (d.predictAtomic (lineKey x.ma) a.requester).2
  | _, _ => d

/-- Does an earlier open transaction on its line keep this one waiting? -/
def Dev.blocked (d : Dev) (x : Txn) : Bool :=
  (d.txns.takeWhile (·.id != x.id)).any fun y => y.atHome && lineKey y.ma == lineKey x.ma

/-- One turn: the admission of a transaction to a slice that has room; a waiting transaction that no other one blocks; or the recall of a
lease that a waiting one meets. -/
def Dev.turn (d : Dev) : Option Dev :=
  match d.txns.find? fun x => x.phase == .credit && !d.sliceFull (sliceOf (lineKey x.ma)) with
  | some x => some (d.takeIn x)
  | none =>
  match d.txns.find? fun x => x.phase == .ordered && !d.blocked x with
  | some x => some (d.homeStep x)
  | none =>
    match d.txns.find? fun x => x.phase == .ordered && (d.leaseOf (lineKey x.ma)).isSome with
    | some x =>
      match d.leaseOf (lineKey x.ma) with
      | some l =>
        match x.op, x.atom with
        | .atomic, some a =>
          if x.port = some l.port then some (d.atomicOnLease x a l)
          else some (((d.count 0x033 1).predictRecall l.line).endLease l)
        | _, _ => some (((d.count 0x033 1).predictRecall l.line).endLease l)
      | none => none
    | none => none

/-- Lets every transaction that can move take its turn, at most `fuel` turns. -/
def Dev.pump (d : Dev) : Nat → Dev
  | 0 => d
  | fuel + 1 => match d.turn with
    | some d' => Dev.pump d' fuel
    | none => d

/-- Lets the home trackers work until nothing moves. -/
def Dev.run (d : Dev) : Dev := d.pump (6 * d.txns.length + 6)

end Sys2Proof.Machine
end

