-- ==== Sys2Proof/Machine/Flow.lean ====
section
/-! DEFINITION. Sys2Proof/Machine/Flow.lean: a host request from its arrival at the port to its home (R11, R71, R292 to
R295, R336, R377, R549, R552), the answers to snoops (R273, R274, R277), and the lines that come back from Crema and the
far tier (R182, R183, R191, R221). -/

namespace Sys2Proof.Machine

/-! ### Sending a request to another member -/

/-- Type and size of an AtomicOp in OPX[5:0], and its byte offset in OPX[11:6]: the rules give no encoding (DESIGN CHOICE,
log entry 16). -/
def atomicOpx (a : AtomicArgs) (off : Nat) : Nat :=
  (match a.kind with | .fetchAdd => 0 | .swap => 1 | .cas => 2) + a.bytes % 32 / 4 * 4 + off % 64 * 64

/-- The data slots of an AtomicOp (R360). -/
def atomicSlots (a : AtomicArgs) : List (BitVec 128) :=
  if a.kind = .cas ∧ a.bytes = 16 then [a.operand, a.compare]
  else [(a.operand &&& BitVec.ofNat 128 (2 ^ 64 - 1)) ||| (a.compare <<< 64)]

/-- The data slots of a request (R360). -/
def Txn.slots (x : Txn) : List (BitVec 128) :=
  match x.op, x.atom with
  | .wr, _ | .uioWr, _ => lineSlots x.data
  | .wrPtl, _ | .uioWrPtl, _ => (x.mask.setWidth 128) :: lineSlots x.data
  | .atomic, some a => atomicSlots a
  | _, _ => []

/-- Forwards a request that another member serves on Relay-down (R377). -/
def Dev.forward (d : Dev) (x : Txn) : Dev :=
  let m : RelayMsg :=
    { tag := x.id % 65536, dest := maMember x.ma, src := d.chainId, cls := x.cls, tenant := x.tenant.getD 0,
      sharer := Fin.ofNat 16 (x.sharer.getD 0), db := x.db, comp := x.comp, poison := false, dslots := x.slots.length,
      line := x.ma / 64, opx := (match x.atom with | some a => atomicOpx a x.byteOff | none => metaCode x.md), hops := 0 }
  d.sendDown m x.op.opc x.slots

/-- Is a member's block on the lost-block list (R382 step 3)? -/
def Dev.blockLost (d : Dev) (ma : Nat) : Bool := d.chain.lost.contains (maMember ma, ma / 2 ^ 28 % 2 ^ 17)

/-- Is a position absent or lost, so that no request reaches it? -/
def Dev.memberGone (d : Dev) (m : Nat) : Bool :=
  d.relayDown.isNone || d.fld (Fld.rlyMember_state m) == 0 || d.fld (Fld.rlyMember_state m) == 3

/-! ### At the port -/

/-- Does a host port take CXL.mem and UIO requests: up with CXL, in a mode with links, not stopped by an insecure stream
(R35, R346, R349)? -/
def Dev.portOpen (d : Dev) (p : PortId) : Bool :=
  d.live && d.mode != .fill && d.mode != .boot && d.mode != .train && d.hostPort p &&
    d.fld (Fld.prtLinkSts_state (portIdx p)) == 2 && !d.isDown p &&
    (vget (⟨none, false, false, false, false, 0, []⟩ : Port) d.ports (portIdx p)).insecure.isEmpty

/-- Has a CXL 2.0 partner trained to the port (R334)? -/
def Dev.oldPartner (d : Dev) (p : PortId) : Bool := d.fld (Fld.prtLinkSts_cxlver (portIdx p)) == 1

/-- Puts a transaction into the table, at its place if it is there, else behind the others. -/
def Dev.hold (d : Dev) (x : Txn) : Dev :=
  if (d.txn x.id).isSome then d.modTxn x.id fun _ => x
  else { d with txns := d.txns ++ [x], nextTxn := d.nextTxn + 1 }

/-- Entries of a port's hold buffer that requests of one tenant take from the shared part (R294). -/
def Dev.sharedHeld (d : Dev) (p : PortId) : Nat :=
  (allTenants.map fun t => if d.tntPort t == p then d.heldOf t - 32 else 0).sum

/-- Places a request in the hold buffer of its port (R293, R294). -/
def Dev.holdBack (d : Dev) (x : Txn) (p : PortId) (t : TenantId) : Dev :=
  if x.phase == .regHeld then d
  else
    let room := decide (d.heldOf t < 32) || decide (d.sharedHeld p < 512)
    let full := (vget (⟨none, false, false, false, false, 0, []⟩ : Port) d.ports (portIdx p)).holdFull
    let d := d.hold { x with phase := .regHeld }
    if room then
      d.countAs 0x038 1 none (some t) (some x.cls)
    else
      let d := { d with ports := vmod d.ports (portIdx p) fun q => { q with holdFull := true } }
      if full then d else d.raise { num := 0x105, tenant := some t }

/-- Gives a write that completes at once its frame, as its lookup would (R104, R112): a Valid one is hit, and a page without a frame
takes a way that is ready. -/
def Dev.placeWrite (d : Dev) (x : Txn) : Dev :=
  let p := maPage x.ma
  let set := d.setOf p
  if ¬ maFar x.ma ∨ d.farGone x.ma then d
  else match d.findWay p x.comp with
    | some w =>
      if (d.frame set w).st = 1 then (((d.countTag x 0x022).touch set w).tagWrite (x.who true) set (some w)).predFound p w else d
    | none =>
      let d := (d.countTag x 0x023).setPred p { d.predOf p with valid := false }
      if x.comp ∨ d.flag Fld.crmSts_bypass ∨ (d.claimed set p false).isSome then d
      else match d.victim set with
        | some (w, d') => if (d'.frame set w).dirty = 0 then (d'.takeWay set w p false x.cls).2 else d
        | none => d.countAs 0x0C0 1 none x.tenant (some x.cls)

/-- Accepts a host's write or clean eviction that meets an open snoop of its line at once (R274). -/
def Dev.meetSnoop (d : Dev) (x : Txn) : Option Dev :=
  match d.snoopOf (lineKey x.ma), x.sharer with
  | some s, some sh =>
    if s.sharer = sh then
      match x.op with
      | .wr => some (((d.placeWrite x).putTxn x x.data false).close x .cmp)
      | .wrPtl =>
        let (l, po) := d.readLine x.ma x.comp
        some ((d.placeWrite x).withData x l po)
      | .clnEvct => some (d.close x .cmp)
      | _ => none
    else none
  | _, _ => none

/-- Brings a request to its home slice (R270, R272): one that an open snoop lets through is accepted at once, any other one is admitted
once the slice has room. -/
def Dev.atHomeTracker (d : Dev) (x : Txn) : Dev :=
  let x := { x with phase := .credit }
  match (d.hold x).meetSnoop x with
  | some d => d.run
  | none => (d.hold x).run

/-- The word of the extent table's array that holds a DPA's entry. -/
def Dev.extWord (d : Dev) (t : TenantId) (dpa : Nat) : Nat := (d.extBase t + (dpa >>> 28)) / 2

/-- Tenant lookup (R11): the extent, the class, the sharer and the route are bound here. An uncorrectable word of the extent table reads
as an entry with V = 0, and is rewritten from Barista's master copy (R186). -/
def Dev.lookup (d : Dev) (x : Txn) (p : PortId) (ld : Nat) (t : TenantId) (db : Bool) : Dev :=
  let d := { d with txns := d.txns.filter (·.id != x.id) }
  let bad := d.wordBad .extentTable (d.extWord t x.dpa)
  let d := if bad then d.wordWrite .extentTable (d.extWord t x.dpa) else d
  let w := d.extOfDpa t x.dpa
  if bad ∨ ¬ extV w then
    (d.raise { num := 0x110, tenant := some t, cls := some x.cls, detail := ldWord p ld :: words2 x.dpa }).finishPoisoned x
  else
    let ma := maOf w x.dpa
    let x := { x with ma := ma, comp := extC w, db := db, sharer := if db then d.sharerOf p ld else none, looked := some d.stamp,
                      route := routeIn d.noc.routes 0 (portRouter (portIdx p)) (sliceRouter (sliceOf (lineKey ma))) }
    if extMember w = d.chainId then d.atHomeTracker x
    else if d.blockLost ma ∨ d.memberGone (maMember ma) then
      -- a lost member's block: reads poisoned, writes dropped and logged (R382 step 3)
      let d := if x.op.isWrite then d.logDrop (BitVec.ofNat 16 (maMember ma * 2 ^ 13)) ma else d
      d.finishPoisoned x
    else
      let x := { x with phase := .relayed, tier := 3 }
      (d.hold x).forward x

/-- The far channel that a DPA of a tenant lies on, where it lies on this device's far tier. -/
def Dev.channelOf (d : Dev) (t : TenantId) (dpa : Nat) : Option Nat :=
  let w := d.extOfDpa t dpa
  if extV w && extFar w && extMember w == d.chainId then some (d.farLoc (maOff (maOf w dpa))).ch else none

/-- Is a tenant's request held by THROTTLE (R156)? -/
def Dev.distHeld (d : Dev) (t : TenantId) (dpa : Nat) : Bool :=
  match d.channelOf t dpa with | some c => d.throttled t c | none => false

/-- Does an earlier held request of the same tenant and class wait for its turn (R293)? -/
def Dev.queuedBefore (d : Dev) (x : Txn) (t : TenantId) : Bool :=
  x.phase != .regHeld && d.txns.any fun y => y.phase == .regHeld && y.tenant == some t && y.cls == x.cls && !d.distHeld t y.dpa

/-- Regulation at the port (R156, R292 to R300), then lookup. What THROTTLE holds at its port takes the hold buffer as well (R156 does not
name its place; DESIGN CHOICE, log entry 94). -/
def Dev.regulate (d : Dev) (x : Txn) (p : PortId) (ld : Nat) (t : TenantId) (db : Bool) : Dev :=
  if d.distHeld t x.dpa ∨ d.queuedBefore x t then d.holdBack x p t
  else match d.mayEnter t x.cls with
    | .hold => d.holdBack x p t
    | .go c pay =>
      let d := if pay then d.modTenant t fun s => { s with credit := s.credit - 640 } else d
      d.lookup { x with cls := c } p ld t db

/-- Does the mode keep a request at its port, unexecuted (R549, R55, R58)? -/
def Dev.modeHolds (d : Dev) : Bool := d.mode == .await || d.mode == .hibernate || (d.mode == .drain && 2 ≤ d.due.drainStep)

/-- Does a chain head in DRAIN keep a member's request back (R57)? -/
def Dev.drainKeeps (d : Dev) (t : TenantId) (dpa : Nat) : Bool :=
  let w := d.extOfDpa t dpa
  d.mode == .drain && extV w && extMember w != d.chainId

/-- A request at its port, at arrival or released: the answers given there, the holds, then regulation. `free` lets a
link-down's released requests pass regulation (R349). -/
def Dev.ingress (d : Dev) (x : Txn) (p : PortId) (ld hpa : Nat) (free : Bool) : Dev :=
  let l := d.ldOf p ld
  let none_ : Reply := if x.op.isUio then .unsupported else x.op.poisonReply
  if x.op.isUio ∧ d.oldPartner p then d.finish x .unsupported
  else if d.flag (Fld.prtViralSts_rx (portIdx p)) then
    let d := if x.op.isWrite then d.bump (Fld.prtViralSts_dropped (portIdx p)) 1 else d
    d.finishPoisoned x
  else match (if ld < 16 then d.tenantOf p ld else none) with
    | none => (d.raise { num := 0x114, detail := [ldWord p ld, word1 x.op.opc] }).finish x none_
    | some t =>
      if d.tntState t ≠ 1 then
        (d.raise { num := 0x114, tenant := some t, detail := [ldWord p ld, word1 x.op.opc] }).finish x none_
      else match hdmDecode l hpa with
        | none =>
          (d.raise { num := 0x115, tenant := some t, detail := [ldWord p ld, word1 x.op.opc] ++ words2 hpa }).finish x none_
        | some dec =>
          let x := { x with tenant := some t, dpa := dec.dpa }
          if d.mode == .maint then
            let d := if x.op.isWrite then d.raise { num := 0x106, tenant := some t, detail := ldWord p ld :: words2 dec.dpa } else d
            d.finishPoisoned x
          else if d.modeHolds || d.drainKeeps t dec.dpa then
            -- a request wakes a software HIBERNATE (R59)
            let d := if d.mode == .hibernate ∧ d.fld Fld.glbModeSts_drainDest = 3 then { d with due := { d.due with wake := true } } else d
            d.hold { x with phase := .modeHeld }
          else
            let d := d.keepPosition p ld dec
            let db := match vget none l.dec dec.dec with | some h => h.cfg.bi | none => false
            let x := { x with cls := d.partClass t (d.partition t (dec.dpa >>> 28)) }
            if free then d.lookup x p ld t db else d.regulate x p ld t db

/-- A host's request reaches its port (R10, R11). -/
def Dev.arrive (d : Dev) (r : HostReq) (op : Op) (md : Meta) (data : Line) (mask : BitVec 64) (atom : Option AtomicArgs) : Dev :=
  if d.portOpen r.port then
    let x : Txn :=
      { id := d.nextTxn, org := .host r.port r.ld r.tag r.hpa, op := op, md := md, tenant := none, cls := .b, sharer := none,
        db := false, comp := false, dpa := 0, ma := 0, data := data, mask := mask, atom := atom, phase := .ordered,
        arrived := d.stamp, looked := none, poisoned := false, spec := none, snooped := false, tier := 0,
        route := 0, counted := false, bypass := false }
    d.ingress x r.port r.ld r.hpa false
  else d

/-- Runs a held request through its port again. -/
def Dev.reenter (d : Dev) (x : Txn) (free : Bool) : Dev :=
  match x.org with
  | .host p ld _ hpa => d.ingress x p ld hpa free
  | .relay _ _ => d.atHomeTracker x

/-- Takes up every request that the mode held, in arrival order (R40, R56, R60). -/
def Dev.releaseHeld (d : Dev) : Dev :=
  (d.txns.filter (·.phase == .modeHeld)).foldl (fun d x => d.reenter { x with phase := .ordered } false) d

/-! ### A request that a member serves -/

/-- A request that reaches its member over Relay is ordered at its home (R377). Under VIRAL_ON the writes of the head's port are
dropped (R347: a head has one host port); a mode that serves nothing holds the request, or poisons it, as at a host port; so does
an erase after a cut. -/
def Dev.serveRelay (d : Dev) (m : RelayMsg) (op : Op) (data : Line) (mask : BitVec 64) (atom : Option AtomicArgs) : Dev :=
  let off := match atom with | some _ => m.opx / 64 % 64 | none => 0
  let x : Txn :=
    { id := d.nextTxn, org := .relay m.src m.tag, op := op, md := metaOf m.opx, tenant := some m.tenant, cls := m.cls,
      sharer := if m.db then some m.sharer.val else none, db := m.db, comp := m.comp, dpa := 0, ma := m.line * 64 + off,
      data := data, mask := mask, atom := atom, phase := .ordered, arrived := d.stamp, looked := some d.stamp,
      poisoned := m.poison && op.isWrite, spec := none, snooped := false, tier := 0,
        route := 0, counted := false, bypass := false }
  if x.op.isWrite ∧ d.chain.viralPorts ≠ 0 then d.finish x .cmp
  else if d.mode == .maint ∨ d.flag Fld.rlyChainSts_cut then d.finishPoisoned x
  else if d.modeHolds then
    let d := if d.mode == .hibernate ∧ d.fld Fld.glbModeSts_drainDest = 3 then { d with due := { d.due with wake := true } } else d
    d.hold { x with phase := .modeHeld }
  else d.atHomeTracker x

/-! ### Answers to snoops -/

/-- Lets the transaction that a snoop served go on. -/
def Dev.afterSnoop (d : Dev) (s : Snoop) : Dev :=
  match s.txn with
  | some id => (d.modTxn id fun x =>
      if x.phase == .snooping then { x with phase := .ordered, snooped := x.snooped || lineKey x.ma == s.line } else x).run
  | none => d.run

/-- Does the snoop serve a directory victim, not the line that its transaction asks for? -/
def Dev.forVictim (d : Dev) (s : Snoop) : Bool :=
  match s.txn.bind d.txn with
  | some x => lineKey x.ma != s.line
  | none => true

/-- A BIRsp for a line (R273): BIRspS leaves the entry Shared, BIRspI frees it, as every answer for a victim does. One for
no open snoop is counted late. -/
def Dev.birsp (d : Dev) (k : Nat) (shared : Bool) : Dev :=
  match d.snoopOf k with
  | some s =>
    if s.sent.isSome then ((d.dropSnoop k).dirAnswer k (shared && !d.forVictim s)).afterSnoop s
    else d.bump Fld.cohSts_late 1
  | none => d.bump Fld.cohSts_late 1

/-- The timeout of a snoop (R277). -/
def Dev.snoopTimeout (d : Dev) (s : Snoop) : Dev := ((d.dropSnoop s.line).biTimeout s.line s.sharer).afterSnoop s

/-- A snoop ends at a port reset (R281): Exclusive as a timeout, Shared as BIRspI. -/
def Dev.snoopReset (d : Dev) (s : Snoop) : Dev :=
  if s.excl then d.snoopTimeout s else ((d.dropSnoop s.line).dirAnswer s.line false).afterSnoop s

/-- The media address of an HPA that a port's LD maps: the first LD whose decoder and extent reach it. -/
def Dev.maOfHpa (d : Dev) (p : PortId) (hpa : Nat) : Option Nat :=
  (List.range 16).findSome? fun ld =>
    match hdmDecode (d.ldOf p ld) hpa, d.tenantOf p ld with
    | some x, some t => let w := d.extOfDpa t x.dpa; if extV w then some (maOf w x.dpa) else none
    | _, _ => none

/-! ### Far lines that return -/

/-- The line-state bits that stand in DRAM for a far line, each field in both its copies (R177). -/
def Dev.lineState (d : Dev) (c cli : Nat) : BitVec 8 :=
  BitVec.ofNat 8 (17 * (bitOf (d.mem.farPoison.has (farKey c cli)) + 2 * bitOf (d.prs.taken.has (secKey c (cli / 8))) +
    4 * bitOf (d.mem.fresh.has (farKey c cli))))

/-- The line-state bits as a read finds them under an error pattern: word w carries bit w in side bit 15 (R176). -/
def readState (stored : BitVec 8) (flips : List (BitVec 80)) : BitVec 8 :=
  stored ^^^ BitVec.ofNat 8 (((List.range 8).map fun w => bitOf ((flips.getD w 0).getLsbD 79) * 2 ^ w).sum)

/-- Resolves the line-state bits that a read found (R178), `poison` being what the syndromes say and `comp` what the page map says: whether
a correction is due, and whether the line counts as one with FRESH. -/
def resolveState (read : BitVec 8) (poison comp : Bool) : Bool × Bool :=
  let both := fun (i : Nat) (b : Bool) => read.getLsbD i == b && read.getLsbD (i + 4) == b
  (!both 0 poison || !both 1 comp || read.getLsbD 2 != read.getLsbD 6, read.getLsbD 2 && read.getLsbD 6)

/-- The check of a far line's line-state bits: whether a correction is due; where FRESH's copies disagree the correction writes the line as
host data. -/
def Dev.checkState (d : Dev) (c cli : Nat) (flips : List (BitVec 80)) : Bool × Dev :=
  let st := d.lineState c cli
  let read := readState st flips
  let (hit, _) := resolveState read (st.getLsbD 0) (st.getLsbD 1)
  (hit, if read.getLsbD 2 != read.getLsbD 6 then d.setFresh c cli false else d)

/-- Waiting data of a far read: an uncompressed line that came back good fills its frame where it has one (R112, R113); where its frame is
still Evicting, it waits for it. -/
def Dev.fillLine (d : Dev) (x : Txn) (data : Line) (poison : Bool) : Dev :=
  let p := maPage x.ma
  let l := maLine x.ma
  if ¬ x.comp ∧ maFar x.ma then
    match d.findWay p false with
    | some w =>
      let s := d.setOf p
      let f := d.frame s w
      if f.st == 1 && !f.has l && !d.flag Fld.crmSts_bypass && !d.unbacked (d.frameOf s w) then
        let d := (d.cremaAccess (d.frameOf s w) l (x.who true)).tagWrite (x.who true) s (some w)
        ((d.cremaPut (d.frameOf s w) l data poison).setFrame s w (f.mark l false)).countAs 0x024 1 none x.tenant (some x.cls)
      else d
    | none =>
      match d.claimed (d.setOf p) p false with
      | some w =>
        let k := (d.setOf p * 16 + w) * 64 + l
        { d with crm := { d.crm with late := Sparse.put (0, false) d.crm.late k (data, poison) } }
      | none => d
  else d

/-- The 64 lines of a stored page become stored poison (R221); those in an extent are listed. -/
def Dev.poisonLines (d : Dev) (c : Nat) (lines : List Nat) : Dev :=
  lines.foldl (fun d cli => d.poisonStored c cli .internal) d

/-- An uncorrectable counter block: a new one, and the page's 64 lines become stored poison (R221). -/
def Dev.counterLost (d : Dev) (c pg : Nat) : Dev :=
  let d := d.freshCtr c pg (d.pageNew c pg)
  let d := { d with mem := { d.mem with written := d.mem.written.add (pageKey c pg) } }
  d.poisonLines c ((List.range 64).map (pg * 64 + ·))

/-- Starts an internal brew, if the same one does not run (R399). -/
def Dev.startInternal (d : Dev) (kind : Nat) (w : Work) (planned : Nat) : Dev :=
  if d.mb.internal.any (fun (b : Brew) => b.work == w) then d
  else ({ d with mb := { d.mb with internal := d.mb.internal ++ [(⟨kind, none, w, 0, planned, false, 0⟩ : Brew)] } }).setBit
    Fld.mboxBrewSts_internal (kind - 16) true

/-- Both copies of a tree node are uncorrectable: its subtree is poisoned, and its reinit starts (R221, R222). -/
def Dev.subtreeLost (d : Dev) (c cli : Nat) (spare : Bool) (level index : Nat) : Dev :=
  let key := (level + bitOf spare * 16, index)
  let d := d.modFch c fun f => { f with subtrees := if f.subtrees.contains key then f.subtrees else f.subtrees ++ [key] }
  let d := d.bump Fld.cryMetaSts_subtree 1
  let d := d.raise { num := 0x152, chid := some (d.farChid c), loc := d.farLocator c cli, detail := [word1 c, word1 level, word1 index] }
  d.startInternal 0x11 (.subtreeReinit (Fin.ofNat 8 c) key.1 index) (d.subtreePages c key.1 index).2

/-- What an uncorrectable metadata line of kind `chk` does (R221, R257); every one counts as an uncorrectable line. -/
def Dev.metaLost (d : Dev) (c cli : Nat) (chk : FarCheck) : Dev :=
  match chk with
  | .counterUe =>
    let d := ((d.ueOn true c).bump Fld.cryMetaSts_ctrblkUe 1).counterLost c (cli / 64)
    d.raise { num := 0x151, chid := some (d.farChid c), loc := d.farLocator c cli }
  | .macLineUe =>
    let d := (d.ueOn true c).poisonLines c ((List.range 16).map (cli / 16 * 16 + ·))
    d.raise { num := 0x151, chid := some (d.farChid c), loc := d.farLocator c cli }
  | .nodeUe => (d.ueOn true c).bump Fld.cryMetaSts_nodeSingle 1
  | .nodeBothUe level index => (d.ueOn true c).subtreeLost c cli (decide (d.dataLines c ≤ cli)) level index
  | _ => d

/-- What an uncorrectable far line does that is found outside a transaction (R165, R194, R221): a metadata line is handled as such, a data
line takes stored poison. `both` says that the other copy of a tree node, or of a map line, is uncorrectable too. -/
def Dev.lineLost (d : Dev) (c cli : Nat) (both : Bool) : Dev :=
  let d := d.rewriteFar c cli
  match d.metaAt c cli with
  | some (.ctr _ pg) => d.metaLost c (pg * 64) .counterUe
  | some (.mac _ i) => d.metaLost c (i * 16) .macLineUe
  | some (.node o spare level index) => if both then (d.ueOn true c).subtreeLost o cli spare level index else d.metaLost c cli .nodeUe
  | none =>
    if d.trainLine c cli then d.ueOn true c
    else match d.mapArea c cli with
    | some (n, o) => d.mapLineLost n c o both
    | none => (d.ueLine true c (d.farLocator c cli)).poisonStored c cli .internal

/-- An integrity failure found while a transaction was read (R218): the line's data go nowhere, and the device halts. The transaction is
outstanding still, so the HALT completes it like the others (R487). -/
def Dev.txnIntegrity (d : Dev) (cause : HaltCause) (chid : BitVec 16) (loc : BitVec 64) : Dev :=
  d.integrityFail cause chid loc [word1 (haltCode cause)]

/-- The far line of a transaction is uncorrectable (R182 step 3): counted, stored poison, and poison for its reader. -/
def Dev.farBad (d : Dev) (x : Txn) : Dev :=
  let f := d.farLoc (maOff x.ma)
  let d := (d.ueLine true f.ch (d.farLocator f.ch f.cli)).poisonFar f.ch f.cli x.comp (d.farMa f.ch f.cli) .internal
  (((d.rewriteFar f.ch f.cli).fillLine x 0 true).withData x 0 true).run

/-- The line that a transaction waits for comes back from the far tier (R182, R191, R221). -/
def Dev.farReturn (d : Dev) (x : Txn) (flips : List (BitVec 80)) (chk : FarCheck) : Dev :=
  let f := d.farLoc (maOff x.ma)
  let loc := d.farLocator f.ch f.cli
  let done := fun (d : Dev) (l : Line) (po : Bool) => ((d.fillLine x l po).withData x l po).run
  if d.farLost f.ch then done d 0 true
  else
    let (plain, po) := d.farView f.ch f.cli
    match Code.dt79.decodeLine po flips with
    | .poisoned => done d 0 true
    | .bad => d.farBad x
    | .good corrected residue =>
      let (hit, d) := d.checkState f.ch f.cli flips
      let d := if corrected || hit then (d.correctedOn true f.ch loc).rewriteFar f.ch f.cli else d
      match chk with
      | .macMismatch => d.txnIntegrity .farMac (d.farChid f.ch) loc
      | .tagMismatch => d.txnIntegrity .treeTag (d.farChid f.ch) loc
      | .ok => if residue = 0 then done d plain false else d.txnIntegrity .farMac (d.farChid f.ch) loc
      | .nodeUe => if residue = 0 then done (d.metaLost f.ch f.cli chk) plain false
                   else (d.metaLost f.ch f.cli chk).txnIntegrity .farMac (d.farChid f.ch) loc
      | _ => done (d.metaLost f.ch f.cli chk) 0 true

/-- Lists `len` lines from `first` on (R188, R480 step 5), as far as the list holds them. -/
def Dev.listLines (d : Dev) (p : PortId) (ld first len : Nat) (src : PoisonSrc) : Dev :=
  (List.range len).foldl (fun d i => d.listPoison p ld (first + i) src) d

/-- Both copies of a line of the fresh-page bitmap are uncorrectable (R198): its 512 pages are lost-fresh, which their LDs' lists name. -/
def Dev.bitmapLost (d : Dev) (n : Nat) : Dev :=
  let d := d.raise { num := 0x146, chid := some (d.chid 1 1 0), detail := words2 (n * 2 ^ 21) }
  (List.range 512).foldl (fun d i =>
    let page := n * 512 + i
    let x := d.farLoc (page * 4096)
    if d.storedPages x.ch ≤ x.cli / 64 ∨ d.farLost x.ch then d
    else
      let pg := x.cli / 64
      let d := { d with mem := { d.mem with written := d.mem.written.del (pageKey x.ch pg), lostFresh := setLost d.mem.lostFresh x.ch pg true } }
      let ma := mkMa d.chainId true (page * 4096)
      match d.ownerOf ma false with
      | some (t, dpa) => d.listLines (d.tntPort t) (d.tntLd t) (dpa / 64) 64 .internal
      | none => d) d

/-- Both copies of a tag line are uncorrectable, for which no rule gives an outcome (log entry 79): the frames of its ways become
Invalid, and their dirty lines are lost as on a lost channel. -/
def Dev.tagsLost (d : Dev) (n : Nat) : Dev :=
  let (set, part) := (n / 5, n % 5)
  let ways := if part = 0 then List.range 16 else (List.range 4).map (4 * (part - 1) + ·)
  (ways.foldl (fun d w =>
    let f := d.frame set w
    if f.st = 0 then d
    else
      let p := d.pageOf set f.tag
      let d := (List.range 64).foldl (fun d l =>
        if f.dirty.getLsbD l then
          let x := d.farLoc (offOf p l)
          let ma := mkMa d.chainId true (offOf p l)
          if f.c then (d.storeDirect p ((d.pageLines p).set l (0, true))).firstPoison ma true (d.farChid x.ch) (d.pageLoc p) .internal
          else d.poisonFar x.ch x.cli false ma .internal
        else d) d
      d.dropFrame set w) d)

/-- An uncorrectable line of the metadata reserve (R99): a tag or bitmap line is written again from its other copy, unless that is
uncorrectable too; a spill or page-map line is dropped. -/
def Dev.reserveLost (d : Dev) (g l : Nat) (both : Bool) : Dev :=
  let d := d.ueOn false (d.framePhys g)
  let (half, n) := ((g - d.metaFrame) / d.halfFrames, (g - d.metaFrame) % d.halfFrames * 64 + l)
  if n < d.areaBase 2 then
    if both then (if n < d.areaBase 1 then d.tagsLost n else d.bitmapLost (n - d.areaBase 1))
    else ((d.reserveAccess {} (d.reserveLine (1 - half) n)).reserveAccess { wr := true } (d.reserveLine half n))
  else if n < d.areaBase 3 then
    { d with cry := { d.cry with spill := Sparse.erase d.cry.spill (half * d.halfAreas.getD 2 0 + (n - d.areaBase 2)) } }
  else { d with prs := { d.prs with mapCache := Sparse.erase d.prs.mapCache (half * d.halfAreas.getD 3 0 + (n - d.areaBase 3)) } }

/-- What an uncorrectable Crema line does that is found outside a transaction (R99, R135, R183, R194). -/
def Dev.cremaLineLost (d : Dev) (g l : Nat) (both : Bool) : Dev :=
  let near := 262144 * d.near
  let ch := d.framePhys g
  let loc := d.cremaLoc g l
  if d.metaFrame ≤ g then d.reserveLost g l both
  else if g < near then ((d.ueLine false ch loc).poisonCrema g l false (d.nearMa g l) .internal).rewriteCrema g l
  else
    let (set, way) := ((g - near) / 16, (g - near) % 16)
    let fr := d.frame set way
    if ¬ fr.has l then d
    else if fr.dirty.getLsbD l then
      ((d.ueLine false ch loc).poisonCrema g l fr.c (mkMa d.chainId true (offOf (d.pageOf set fr.tag) l)) .internal).rewriteCrema g l
    else
      let d := (d.ueOn false ch).raise { num := 0x140, chid := some (d.cremaChid ch), loc := loc }
      d.setFrame set way { fr with valid := fr.valid &&& ~~~(BitVec.ofNat 64 (2 ^ l)) }

/-- A Crema line read outside a transaction, with the flipped bits of its words (R183, R184): good, corrected, or lost. -/
def Dev.checkCremaLine (d : Dev) (g l : Nat) (flips : List (BitVec 80)) : Dev :=
  let stored := d.mem.cremaPoison.has (cremaKey g l)
  match Code.d78.decodeLine stored flips with
  | .poisoned => if stored || decide (d.metaFrame ≤ g) then d else d.cremaStore g l 0 true
  | .bad => d.cremaLineLost g l false
  | .good corrected residue =>
    if lineCheckFails residue flips then d.cremaLineLost g l false
    else if corrected then d.correctedOn false (d.framePhys g) (d.cremaLoc g l) else d

/-- What a writeback finds in the dirty lines that it reads, of the frames that `reads` names (R183): a lost line is stored poison in
Crema before the writeback carries it to the far tier (R187). -/
def Dev.foundDirty (d : Dev) (reads : Nat → Bool) (errs : LineErrs) : Dev :=
  errs.foldl (fun d e =>
    let (set, way) := (e.1.1 / 16, e.1.1 % 16)
    let d := d.settleFrame set way
    let f := d.frame set way
    if reads e.1.1 && f.has e.1.2.val && f.dirty.getLsbD e.1.2.val then d.checkCremaLine (d.frameOf set way) e.1.2.val e.2 else d) d

/-- A Crema line that a transaction waits for comes back (R183, R205). -/
def Dev.cremaReturn (d : Dev) (x : Txn) (flips : List (BitVec 80)) : Dev :=
  let l := maLine x.ma
  let place : Option (Nat × Option (Nat × Nat)) :=
    if maFar x.ma then
      match d.findWay (maPage x.ma) x.comp with
      | some w => let s := d.setOf (maPage x.ma); if (d.frame s w).has l then some (d.frameOf s w, some (s, w)) else none
      | none => none
    else some (maPage x.ma, none)
  match place with
  | none => (d.modTxn x.id fun y => { y with phase := .tag }).run
  | some (g, way) =>
    let ch := d.framePhys g
    let loc := d.cremaLoc g l
    let (plain, po) := d.cremaView g l
    let dirty := match way with | some (s, w) => (d.frame s w).dirty.getLsbD l | none => true
    let lost := fun (d : Dev) =>
      if dirty then ((((d.ueLine false ch loc).poisonCrema g l x.comp x.ma .internal).rewriteCrema g l).withData x 0 true).run
      else match way with
        | some (s, w) =>
          let d := (d.ueOn false ch).raise { num := 0x140, chid := some (d.cremaChid ch), loc := loc }
          let fr := d.frame s w
          let d := d.setFrame s w { fr with valid := fr.valid &&& ~~~(BitVec.ofNat 64 (2 ^ l)) }
          if x.comp then let (v, p) := (d.pageLines (maPage x.ma)).getD l (0, true); (d.withData x v p).run
          else d.toFar x (d.farLoc (maOff x.ma))
        | none => d
    match Code.d78.decodeLine po flips with
    | .poisoned => (d.withData x 0 true).run
    | .bad => lost d
    | .good corrected residue =>
      if lineCheckFails residue flips then lost d
      else
        let d := if corrected then (d.correctedOn false ch loc).rewriteCrema g l else d
        -- an error that decode and line check both pass decrypts to a line that the rules do not give (log entry 17)
        let (n, d) := if residue = 0 then (0, d) else d.takeFree
        (d.withData x (if residue = 0 then plain else Config.freeLine n) false).run

end Sys2Proof.Machine
end

