-- ==== Sys2Proof/Machine/Access.lean ====
section
/-! DEFINITION. Sys2Proof/Machine/Access.lean: keyed pairs (R414, R415), the mailbox around every command (R387 to R394,
R397, R378), the staging owner (R391, R422), and the order in which Barista takes commands (R398). -/

namespace Sys2Proof.Machine

/-! ### Keyed pairs (R414, R415) -/

/-- The word of `GLB_KEYFAIL`: valid, CAUSE in bits 30 and 29, the register's offset below. -/
def keyfailWord (cause off : Nat) : Word :=
  0x80000000#32 ||| (BitVec.ofNat 2 cause).setWidth 32 <<< 29 ||| (BitVec.ofNat 25 off).setWidth 32

/-- Records a keyed-pair failure: cause and register. -/
def Dev.keyFail (d : Dev) (cause off : Nat) : Dev := d.setReg Off.glbKeyfail (keyfailWord cause off)

/-- The pair a source has armed. -/
def Dev.armedBy (d : Dev) (src : Source) : Option Armed := vget none d.acc.armed (srcIdx src)

/-- Changes the pair a source has armed. -/
def Dev.setArmed (d : Dev) (src : Source) (a : Option Armed) : Dev :=
  { d with acc := { d.acc with armed := vmod d.acc.armed (srcIdx src) fun _ => a } }

/-- A value write to an RWK register arms a pair; another pair that the source had armed fails. -/
def Dev.arm (d : Dev) (src : Source) (off : Nat) (value : Word) : Dev :=
  let d := match d.armedBy src with | some a => d.keyFail 0 a.off | none => d
  d.setArmed src (some ⟨off, value, d.stamp⟩)

/-- The KEY write of a pair. `act` applies the value, or refuses it with none. -/
def Dev.keyWrite (d : Dev) (src : Source) (off : Nat) (key : Word) (act : Word → Dev → Option Dev) : Dev :=
  match d.armedBy src with
  | some a =>
    if a.off = off then
      let d := d.setArmed src none
      if 256 < a.at_.cyclesTo d.stamp then d.keyFail 0 off
      else if key ≠ ~~~a.value then d.keyFail 1 off
      else match act a.value d with
        | some d' => d'
        | none => d.keyFail 3 off
    else d.keyFail 2 off
  | none => d.keyFail 2 off

/-- Barista drives a pair for a command, with CONFIRM as the KEY (R415, R394): the device, and whether CONFIRM was right and
the value taken. -/
def Dev.drivePair (d : Dev) (i : Iface) (off : Nat) (value confirm : Word) (act : Word → Dev → Option Dev) : Dev × Bool × Bool :=
  let src := ifaceSource i
  let d := (d.arm src off value).setArmed src none
  if confirm ≠ ~~~value then (d.keyFail 1 off, false, false)
  else match act value d with
    | some d' => (d', true, true)
    | none => (d.keyFail 3 off, true, false)

/-! ### Return codes (CXL 3.1; PRESUMED, log entry 18) -/

def rcSuccess : Nat := 0x00
def rcBackground : Nat := 0x01
def rcInvalidInput : Nat := 0x02
def rcUnsupported : Nat := 0x03
def rcInternal : Nat := 0x04
def rcRetry : Nat := 0x05
def rcBusy : Nat := 0x06
def rcMediaDisabled : Nat := 0x07
def rcFwOrder : Nat := 0x09
def rcFwVerify : Nat := 0x0A
def rcInvalidSlot : Nat := 0x0B
def rcInvalidPa : Nat := 0x0F
def rcPermanent : Nat := 0x11
def rcAborted : Nat := 0x12
def rcSecurity : Nat := 0x13
def rcInjectLimit : Nat := 0x10
def rcResources : Nat := 0x1D
def rcExtents : Nat := 0x1E

/-! ### The mailbox (R390 to R394, R397) -/

/-- Interface of a number. -/
def ifaceOf (n : Nat) : Iface := if n = 0 then .portA else if n = 1 then .portB else .mctp

/-- Brings BUSY, QUEUED, OWNER and OPCODE of the three interfaces up to date (R406). -/
def Dev.syncCmd (d : Dev) (opcodeOf : Instr → Nat) : Dev :=
  [Iface.portA, .portB, .mctp].foldl (fun d i =>
    let n := ifaceIdx i
    let run := d.mb.running.find? fun (r : Iface × Nat) => r.1 == i
    let wait := d.mb.waits.find? fun (r : Iface × Instr) => r.1 == i
    let d := d.setFlag (Fld.mboxCmdSts_busy n) run.isSome
    let d := d.setFlag (Fld.mboxCmdSts_queued n) wait.isSome
    let d := d.setFlag (Fld.mboxCmdSts_owner n) (d.stg.owner == some i)
    d.setFld (Fld.mboxCmdSts_opcode n) (match run, wait with
      | some r, _ => r.2
      | none, some w => opcodeOf w.2
      | none, none => 0)) d

/-- Slots of bytes: 16 to a slot, the first byte least significant. -/
def byteSlots (p : Payload) : List (BitVec 128) :=
  (List.range (ceilDiv p.length 16)).map fun i => BitVec.ofNat 128 (leNat p (16 * i) 16)

/-- The interface no longer runs this command (R406). -/
def Dev.freeIface (d : Dev) (i : Iface) (opcode : Nat) : Dev :=
  let n := ifaceIdx i
  let d := { d with mb := { d.mb with running := d.mb.running.filter fun (r : Iface × Nat) => !(r.1 == i && r.2 == opcode) } }
  if d.mb.running.any (fun r => r.1 == i) then d
  else (d.setFlag (Fld.mboxCmdSts_busy n) false).setFld (Fld.mboxCmdSts_opcode n) 0

/-- Result registers, window and sequence number change together (R397). A member answers a command that the head forwarded
with CMD_RSP; it runs as interface 0, which a member does not have (log entry 19). -/
def Dev.putAnswer (d : Dev) (i : Iface) (opcode rc : Nat) (out : Payload) : Dev :=
  let n := ifaceIdx i
  if d.isMember ∧ i = .portA then
    let body := leBytes 2 rc ++ out
    (d.sendUp (d.mgmtMsg 0 (ceilDiv body.length 16)) 0x69 (byteSlots body)).emit (.mbox i rc opcode out)
  else
    let d := { d with mb := { d.mb with window := vmod d.mb.window n fun _ => out } }
    let d := d.setReg (Off.mboxResultSeq n) (d.reg (Off.mboxResultSeq n) + 1)
    let d := d.setReg (Off.mboxResultHdr n) (BitVec.ofNat 32 (rc % 65536 * 65536 + opcode % 65536))
    let d := d.setReg (Off.mboxResultLen n) (BitVec.ofNat 32 out.length)
    d.emit (.mbox i rc opcode out)

/-- Completes a command (R397); the result holds at most 8 KiB. -/
def Dev.complete (d : Dev) (i : Iface) (opcode rc : Nat) (out : Payload) : Dev :=
  (d.freeIface i opcode).putAnswer i opcode rc (out.take 8192)

/-- A command takes longer than its arrival: it runs until a later event completes it. -/
def Dev.longRun (d : Dev) (i : Iface) (opcode : Nat) : Dev :=
  let d := { d with mb := { d.mb with running := d.mb.running ++ [(i, opcode)] } }
  (d.setFlag (Fld.mboxCmdSts_busy (ifaceIdx i)) true).setFld (Fld.mboxCmdSts_opcode (ifaceIdx i)) opcode

/-- Does an interface hold a command already? -/
def Dev.ifaceBusy (d : Dev) (i : Iface) : Bool := d.mb.running.any (fun r => r.1 == i) || d.mb.waits.any (fun r => r.1 == i)

/-- Is Barista free to take a command: no command running, none waiting, no brew step under way (R390, R398)? -/
def Dev.baristaFree (d : Dev) : Bool := d.mb.running.isEmpty && d.mb.waits.isEmpty && !d.mb.stepDue

/-- Commands that the recovery MAINT accepts (R392). -/
def recoveryOps : List Nat := [0xC000, 0xC0A0, 0xC0A1, 0xC051, 0xC0F0, 0x0005, 0x0200, 0x0201, 0x0202]

/-- Commands that HALT accepts (R392). -/
def haltOps : List Nat := [0xC000, 0xC061, 0xC090]

/-- How an interface takes a command in the present mode (R392): drop it (mailbox not ready), answer it, or take it. -/
inductive Gate where
  | drop
  | answer (rc : Nat)
  | island
  | take
  deriving DecidableEq, Repr

/-- Commands that change no state, and XT_INLET_CLEAR: MCTP_RO leaves them open to MCTP (R468). -/
def quietOps : List Nat := [0xC000, 0xC031, 0xC061, 0xC090, 0x0200, 0x4300]

/-- The gate of R388, R389, R392 and R468. The island serves its two commands in every mode, also while Barista restarts (log entry 87). -/
def Dev.gate (d : Dev) (i : Iface) (opcode : Nat) : Gate :=
  let island := i == .mctp && (opcode == 0xC000 || opcode == 0xC090)
  let early := d.mode == .cold || d.mode == .fill || d.mode == .boot
  if i = .mctp ∧ ¬ d.pwr.vaux then .drop
  else if island then .island
  else if early ∨ d.mb.state == .held then (if i = .mctp then .answer rcBusy else .drop)
  else if d.mb.state ≠ .running then (if i = .mctp then .answer rcBusy else .drop)
  else if i ≠ .mctp ∧ ¬ (d.hostPort (if i = .portA then .a else .b) ∨ (d.isMember ∧ i = .portA)) then .drop
  else if i == .mctp && d.flag Fld.glbSecCtl_mctpRo && !quietOps.contains opcode then .answer rcSecurity
  else if d.mode == .halt then (if haltOps.contains opcode then .take else .answer rcMediaDisabled)
  else if d.mode == .maint && d.flag Fld.glbModeSts_recovery then
    (if recoveryOps.contains opcode then .take else .answer rcSecurity)
  else .take

/-- A command reaches an interface: gated, run at once when Barista is free, else waiting in doorbell order (R390, R398). A
command on an interface that holds one is answered Busy on MCTP and is no doorbell on a mailbox. -/
def Dev.mailbox (d : Dev) (i : Iface) (c : Instr) (opcode : Nat) (body : Dev → Dev) : Dev :=
  match d.gate i opcode with
  | .drop => d
  | .answer rc => d.complete i opcode rc []
  | .island => body d
  | .take =>
    if d.ifaceBusy i then (if i = .mctp then d.emit (.mbox i rcBusy opcode []) else d)
    else if d.baristaFree then body d
    else
      let d := { d with mb := { d.mb with waits := d.mb.waits ++ [(i, c)] } }
      (d.setFlag (Fld.mboxCmdSts_queued (ifaceIdx i)) true).setFld (Fld.mboxCmdSts_opcode (ifaceIdx i)) opcode

/-! ### Vendor payloads (R393, R378) -/

/-- A byte of a payload, 0 past its end. -/
def byteAt (p : Payload) (i : Nat) : Nat := (p.getD i 0).toNat

/-- Are `n` bytes from `at_` zero? -/
def zeroBytes (p : Payload) (at_ n : Nat) : Bool := (List.range n).all fun i => byteAt p (at_ + i) == 0

/-- Is a chain member up and serving (R380)? -/
def Dev.memberServing (d : Dev) (m : Nat) : Bool := 1 ≤ m && m ≤ 7 && d.fld (Fld.rlyMember_state m) == 2

/-- The body of a vendor command: bad headers and short payloads are Invalid Input, another member's command is forwarded on
Relay (R378), and the rest runs on the bytes behind the header. -/
def Dev.vendor (d : Dev) (i : Iface) (opcode : Nat) (p : Payload) (len : Nat) (run : Payload → Dev → Dev) : Dev :=
  let m := byteAt p 0
  if p.length < 8 + len ∨ ¬ zeroBytes p 1 7 then d.complete i opcode rcInvalidInput []
  else if m = d.chainId then run (p.drop 8) d
  else if d.isHead ∧ d.memberServing m then
    let body := leBytes 2 opcode ++ p
    let d := d.sendDown (d.mgmtMsg m (ceilDiv body.length 16)) 0x68 (byteSlots body)
    ({ d with chain := { d.chain with cmd := some (i, opcode, d.now) } }).longRun i opcode
  else d.complete i opcode rcInvalidInput []

/-! ### Staging (R391, R422) -/

/-- The staging owner, made this interface where there is none. -/
def Dev.ownStaging (d : Dev) (i : Iface) : Dev :=
  let d := { d with stg := { d.stg with owner := some i } }
  (d.setFld Fld.stgSts_owner (ifaceIdx i)).setFlag (Fld.mboxCmdSts_owner (ifaceIdx i)) true

/-- May the interface stage? -/
def Dev.mayStage (d : Dev) (i : Iface) : Bool := d.stg.owner == none || d.stg.owner == some i

/-- Brings DIRTY, CHECKED and WRITES up to date. -/
def Dev.syncStaging (d : Dev) : Dev :=
  let dirty := !d.shadow.isEmpty || !d.stg.cmds.isEmpty || d.noc.routesStaged != d.noc.routes || d.noc.slotsStaged != d.noc.slots
  (((d.setFlag Fld.stgSts_dirty dirty).setFlag Fld.stgSts_checked d.stg.checked).setFld Fld.stgSts_writes (satN 16 d.stg.writes)).setFlag
    Fld.stgSts_checking d.stg.checking.isSome

/-- A staged change: one more write, CHECKED clears. -/
def Dev.staged (d : Dev) (i : Iface) : Dev :=
  let d := d.ownStaging i
  ({ d with stg := { d.stg with checked := false, writes := d.stg.writes + 1 } }).syncStaging

/-- Stages a command for the next commit. -/
def Dev.stage (d : Dev) (i : Iface) (c : StagedCmd) : Dev :=
  ({ d with stg := { d.stg with cmds := d.stg.cmds ++ [c] } }).staged i

/-! ### Who reaches the registers (R35, R409, R420, R487) -/

/-- Does a source reach the registers now? A host needs its port's link and function 0 outside an MLD; the core domain
answers from TRAIN on; Barista needs its cores. -/
def Dev.reaches (d : Dev) (src : Source) : Bool :=
  let up := d.mode != .cold && d.mode != .fill && d.mode != .boot
  let host := fun (p : PortId) =>
    up && !d.halted && d.hostPort p && 2 ≤ d.fld (Fld.prtLinkSts_state (portIdx p)) && !d.flag (Fld.prtLinkSts_mld (portIdx p))
  match src with
  | .portA => host .a
  | .portB => host .b
  | .mctp => d.pwr.vaux
  | .barista => d.mode != .cold && d.mode != .fill && d.mb.state == .running

/-- The pages that the always-on island serves by itself (R420). -/
def islandPage (o : Nat) : Bool := o == Off.glbId || decide (0x310000 ≤ o) && decide (o < 0x340000)

/-- Does only the island answer MCTP now? -/
def Dev.islandOnly (d : Dev) : Bool :=
  d.mode == .cold || d.mode == .fill || d.mode == .boot || d.mb.state == .held

/-- May a source access an offset in this mode? -/
def Dev.canAccess (d : Dev) (src : Source) (o : Nat) : Bool :=
  d.reaches src && !(src == .mctp && d.islandOnly && !islandPage o)

end Sys2Proof.Machine
end

