-- ==== Sys2Proof/Machine/Power.lean ====
section
/-! DEFINITION. Sys2Proof/Machine/Power.lean: supplies, presence and reset pins, the inlet, glitch detection, the power cap
and posted writes (R47, R61, R329, R417, R466, R505 to R526). -/

namespace Sys2Proof.Machine

/-! ### The island and the inlet -/

/-- STATE of the inlet (R507). -/
def Inlet.code : Inlet → Nat
  | .off => 0 | .check => 1 | .wait => 2 | .prechg => 3 | .ramp => 4 | .on => 5 | .latched => 6

/-- Sets the inlet's state; the gates are driven in PRECHG, RAMP and ON. -/
def Dev.setInlet (d : Dev) (s : Inlet) : Dev :=
  let driven := s == .prechg || s == .ramp || s == .on
  ({ d with pwr := { d.pwr with inlet := s, gates := driven } }).setFld Fld.inlSts_state s.code

/-- Changes the Canister's record of the inlet. -/
def Dev.modRecord (d : Dev) (f : InletRec → InletRec) : Dev := { d with can := { d.can with inlet := f d.can.inlet } }

/-- Queues an event for the next BOOT (R526). -/
def Dev.atBoot (d : Dev) (num : Nat) (detail : List Word) : Dev :=
  { d with can := { d.can with atBoot := d.can.atBoot ++ [(num, detail)] } }

/-- Raises an event, or keeps it for the next BOOT while the ring is unpowered. -/
def Dev.raiseOrKeep (d : Dev) (num : Nat) (detail : List Word) : Dev :=
  if d.mode == .cold then d.atBoot num detail else d.raiseN num detail

/-- FAILS, in the register and the record. -/
def Dev.setFails (d : Dev) (n : Nat) : Dev := (d.setFld Fld.inlSts_fails n).modRecord fun r => { r with fails := n }

/-- Does an OFF condition hold (R507)? -/
def Dev.inletOff (d : Dev) : Bool := !d.pwr.prsntLow || d.flag Fld.inlSts_removal || d.flag Fld.inlOverride_off

/-- The main rail is gone: power-good falls and the device takes a cold reset (R61). -/
def Dev.mainGone (d : Dev) : Dev :=
  if d.pwr.powerGood then
    ({ d with pwr := { d.pwr with powerGood := false } }.setFld Fld.pwrRailSts_ok 0x40).cold
  else d.setFld Fld.pwrRailSts_ok 0x40

/-- The FET temperature in °C: the diode, or the energy model (R512). -/
def Dev.fetTemp (d : Dev) (m : InletMeas) : Nat :=
  if d.flag Fld.inlSts_diode && !d.flag Fld.inlOverride_model then m.tdiode else d.pwr.modelTemp / 10 ^ 9

/-- Shows what the island measured (R524). -/
def Dev.measure (d : Dev) (m : InletMeas) : Dev :=
  let d := (d.setFld Fld.inlMeas_vout (satN 16 m.vout)).setFld Fld.inlMeas_iout (satN 16 m.iout)
  (d.setFld Fld.inlMeas2_vin (satN 16 m.vin)).setFld Fld.inlMeas2_tfet (satN 8 (d.fetTemp m))

/-- An attempt begins: the marker is written, then PRECHG (R507, R508). -/
def Dev.attempt (d : Dev) : Dev :=
  ((d.modRecord fun r => { r with marker := true }).setFld Fld.inlWait_ms 0).setInlet .prechg

/-- WAIT for the delay that the number of failures gives, or LATCHED at three (R515). -/
def Dev.afterFail (d : Dev) (fails : Nat) : Dev :=
  if 3 ≤ fails then ((d.modRecord fun r => { r with latched := true }).setInlet .latched).atBoot 0x1E2 []
  else (d.setFld Fld.inlWait_ms (1000 * fails)).setInlet .wait

/-- A fault of the inlet (R514, R515): gates low, INL_FAULT_N, the alert, the Canister entry, and WAIT or LATCHED; in ON the
main rail goes and the device enters COLD. -/
def Dev.inletFault (d : Dev) (cause : Nat) (m : InletMeas) : Dev :=
  let d := ((d.measure m).setFld Fld.inlSts_cause cause).alert 5
  let d := (d.modRecord fun r => { r with cause := cause, marker := false }).atBoot 0x1E1 []
  let d := if cause = 6 ∨ cause = 7 ∨ cause = 8 then
      ((d.modRecord fun r => { r with latched := true }).setInlet .latched).atBoot 0x1E2 []
    else
      let n := min 3 (d.fld Fld.inlSts_fails + 1)
      (d.setFails n).afterFail n
  let e : InletEntry := { cause := cause, fails := d.fld Fld.inlSts_fails, vin := m.vin, vout := m.vout, iout := m.iout, temp := d.fetTemp m }
  (d.modRecord fun r => { r with entry := some e }).mainGone

/-- Is the inlet in one of these states? -/
def Dev.inletIn (d : Dev) (l : List Inlet) : Bool := d.pwr.vaux && l.contains d.pwr.inlet

/-! ### Start from COLD -/

/-- Sets the port roles of a port mode (R329); a port with a Relay role is in TRAINING, one without in OFF (R354). -/
def Dev.setRoles (d : Dev) (mode : Nat) : Dev :=
  let (a, b) := match mode with
    | 0 => (1, 0) | 1 => (1, 1) | 2 => (1, 3) | 3 => (2, 3) | 4 => (2, 0) | _ => (1, 0)
  let rly := fun (d : Dev) (n role : Nat) =>
    let st := d.fld (Fld.rlyLinkSts_state n)
    d.setFld (Fld.rlyLinkSts_state n) (if 2 ≤ role then (if st = 0 then 1 else st) else 0)
  rly (rly ((d.setFld (Fld.prtLinkSts_role 0) a).setFld (Fld.prtLinkSts_role 1) b) 0 a) 1 b

/-- The port mode of the straps: a reserved value runs as single host (R329). -/
def strapMode (s : BitVec 3) : Nat := if s.toNat ≤ 4 then s.toNat else 0

/-- Enters FILL when power is good and no reset holds the device (R37, R38, R466). -/
def Dev.tryStart (d : Dev) : Dev :=
  if d.mode == .cold && d.pwr.powerGood && !d.pwr.perstALow && !d.pwr.glitchReset && !d.pwr.glitchHold then
    let d := { d with mode := .fill }
    let d := (d.setFld Fld.glbPortMode_strap d.pwr.straps.toNat).setFld Fld.glbPortMode_mode (strapMode d.pwr.straps)
    d.setRoles (strapMode d.pwr.straps)
  else d

/-- VAUX_START (R507, R508, R516): the island leaves reset, reads the Canister's record and acts on it. -/
def execVauxStart (smbAddr : BitVec 2) (prsntHigh perstLow : Bool) (s : State) : Host.Outcome State Fault Refusal :=
  s.on fun d =>
    if d.pwr.vaux then d
    else
      let r := d.can.inlet
      let d := { d with regs := [], pwr := { Power.reset with
        vaux := true, smbAddr := smbAddr, prsntLow := !prsntHigh, perstALow := perstLow, perstLowSeen := perstLow,
        glitchHold := d.can.glitchHold, glitchTimes := d.pwr.glitchTimes } }
      let d := match r.cfg with | some w => d.setReg Off.inlCfg w | none => d
      let d := match r.fet with | some w => d.setReg Off.inlFet w | none => d
      let d := d.setFld Fld.pwrRailSts_ok 0x40
      let d := { d with pwr := { d.pwr with modelTemp := d.fld Fld.inlFet_tamb * 10 ^ 9 } }
      let fails := if r.marker then min 3 (r.fails + 1) else r.fails
      let cause := if r.marker then 0x0A else r.cause
      let d := (d.setFld Fld.inlSts_cause cause).setFails fails
      let d := if r.marker then ((d.modRecord fun r => { r with marker := false, cause := cause }).alert 5).atBoot 0x1E1 [] else d
      if r.latched then d.setInlet .latched
      else if 0 < fails then
        ({ d with pwr := { d.pwr with modelTemp := d.fld Fld.inlFet_tmax * 10 ^ 9 } }).afterFail fails
      else d.setInlet (if d.inletOff then .off else .check)

/-- VAUX_LOSS (R506): the island resets, the gates go low, the device takes a cold reset. -/
def execVauxLoss (s : State) : Host.Outcome State Fault Refusal :=
  s.on fun d =>
    if d.pwr.vaux then
      let times := d.pwr.glitchTimes
      let d := ({ d with pwr := { d.pwr with powerGood := false } }).cold
      { d with regs := [], pwr := { Power.reset with glitchTimes := times }, acc := Dev.init.acc }
    else d

/-- A number with one bit taken out. -/
def clearBit (n k : Nat) : Nat := if n.testBit k then n - 2 ^ k else n

/-- MAIN_RAIL_LOSS (R506): a cold reset; the first failing rail is recorded, and the next BOOT raises EVT_RAIL_FAULT. -/
def execMainRailLoss (rail : Rail) (s : State) : Host.Outcome State Fault Refusal :=
  s.on fun d =>
    let n := match rail with
      | .vdd => 0 | .vddSerdes => 1 | .vddhSerdes => 2 | .vddqDdr => 3 | .vddStk => 4 | .vppStk => 5 | .vaux => 6
    let ok := clearBit (d.fld Fld.pwrRailSts_ok) n
    if d.pwr.vaux && d.pwr.powerGood && n != 6 then
      (((d.setFld Fld.pwrRailSts_first n).atBoot 0x1E7 []).mainGone).setFld Fld.pwrRailSts_ok ok
    else d

/-- POWER_GOOD (R47, R541): every rail in range; FILL starts if PERST_A_N is deasserted. -/
def execPowerGood (s : State) : Host.Outcome State Fault Refusal :=
  s.on fun d =>
    if d.inletIn [.on] && !d.pwr.powerGood then
      ({ d with pwr := { d.pwr with powerGood := true } }.setFld Fld.pwrRailSts_ok 0x7F).tryStart
    else d

/-- PERST_A_N_ASSERT (R61): the planes are held in reset and the device enters COLD. -/
def execPerstANAssert (s : State) : Host.Outcome State Fault Refusal :=
  s.on fun d => ({ d with pwr := { d.pwr with perstALow := true, perstLowSeen := true } }).cold

/-- PERST_A_N_DEASSERT (R37, R329, R466): PORT_MODE is sampled, a glitch hold ends, FILL starts at power-good. -/
def execPerstANDeassert (straps : BitVec 3) (s : State) : Host.Outcome State Fault Refusal :=
  s.on fun d =>
    let ends := d.pwr.perstLowSeen
    let d := { d with pwr := { d.pwr with perstALow := false, perstLowSeen := false, straps := straps,
                                           glitchHold := d.pwr.glitchHold && !ends }
                      can := { d.can with glitchHold := d.can.glitchHold && !ends } }
    d.tryStart

/-- PRSNT_N_HIGH (R519): gates low and OFF, no fault, FAILS kept. A retry delay and a latched fault stay (log entry 20). -/
def execPrsntNHigh (s : State) : Host.Outcome State Fault Refusal :=
  s.on fun d =>
    let d := { d with pwr := { d.pwr with prsntLow := false } }
    if d.inletIn [.check, .prechg, .ramp, .on] then
      ((d.modRecord fun r => { r with marker := false }).setInlet .off).mainGone
    else d

/-- PRSNT_N_LOW (R507, R56): the inlet leaves OFF for CHECK once no condition remains; a removal hold ends with the high and
low of PRSNT_N. -/
def execPrsntNLow (s : State) : Host.Outcome State Fault Refusal :=
  s.on fun d =>
    let was := d.pwr.prsntLow
    let d := { d with pwr := { d.pwr with prsntLow := true } }
    let d := if was then d else d.setFlag Fld.inlSts_removal false
    if d.inletIn [.off] && !d.inletOff then d.setInlet .check else d

/-- THERMTRIP_N_ASSERT (R521): the inlet latches with cause 0x08, and THERMTRIP_N is held. -/
def execThermtripNAssert (m : InletMeas) (s : State) : Host.Outcome State Fault Refusal :=
  s.on fun d =>
    if d.pwr.vaux then
      let d := ({ d with pwr := { d.pwr with thermtrip := true } }).setFlag Fld.thmSts_trip true
      ((d.alert 6).atBoot 0x1E4 []).inletFault 8 m
    else d

/-- The hottest island sensor (R525). -/
def Dev.islandReads (d : Dev) (a b : Int) : Dev :=
  let t := max a b
  ({ d with pwr := { d.pwr with islandTemp := t } }).setFld Fld.thmSts_island (satN 10 (4 * t).toNat)

/-- THERMTRIP_RELEASE (R521): both island sensors read below 90 °C. -/
def execThermtripRelease (island0 island1 : Int) (s : State) : Host.Outcome State Fault Refusal :=
  s.on fun d =>
    if d.pwr.vaux then
      let d := d.islandReads island0 island1
      if d.pwr.thermtrip && island0 < 90 && island1 < 90 then
        ({ d with pwr := { d.pwr with thermtrip := false } }).setFlag Fld.thmSts_trip false
      else d
    else d

/-- GLITCH_DETECT (R466): internal reset, the detection recorded, a hold at the fourth within 4 s. -/
def execGlitchDetect (nowMs : Nat) (s : State) : Host.Outcome State Fault Refusal :=
  s.on fun d =>
    if d.pwr.vaux then
      let times := (nowMs :: d.pwr.glitchTimes.filter fun t => nowMs ≤ t + 4000).take 4
      let hold := d.pwr.glitchHold || decide (4 ≤ times.length)
      let d := { d with
        pwr := { d.pwr with glitchReset := true, glitchHold := hold, glitchTimes := times,
                            perstLowSeen := if hold && !d.pwr.glitchHold then d.pwr.perstALow else d.pwr.perstLowSeen }
        can := { d.can with glitches := d.can.glitches + 1, glitchNew := d.can.glitchNew + 1, glitchHold := hold } }
      d.cold
    else d

/-- GLITCH_RESET_RELEASE (R466): the internal reset ends and the device starts as from COLD. -/
def execGlitchResetRelease (s : State) : Host.Outcome State Fault Refusal :=
  s.on fun d =>
    if d.pwr.glitchReset then ({ d with pwr := { d.pwr with glitchReset := false } }).tryStart else d

/-- INLET_CHECK_PASS (R507, R513): the diode is detected; a live output latches, a present supply begins an attempt. -/
def execInletCheckPass (m : InletMeas) (diode : Bool) (s : State) : Host.Outcome State Fault Refusal :=
  s.on fun d =>
    if d.inletIn [.check] then
      let d := (d.setFlag Fld.inlSts_diode diode).measure m
      if m.vin < 10 * m.vout then d.inletFault 7 m
      else if m.vin < 1080 then d
      else d.attempt
    else d

/-- PRECHARGE_COMPLETE (R509). -/
def execPrechargeComplete (m : InletMeas) (s : State) : Host.Outcome State Fault Refusal :=
  s.on fun d =>
    if d.inletIn [.prechg] then
      let d := d.measure m
      if 9 * m.vin < 10 * m.vout then d.setInlet .ramp else d
    else d

/-- PRECHARGE_TIMEOUT (R509): cause 0x01. -/
def execPrechargeTimeout (m : InletMeas) (s : State) : Host.Outcome State Fault Refusal :=
  s.on fun d => if d.inletIn [.prechg] then d.inletFault 1 m else d

/-- RAMP_COMPLETE (R510): within 0.15 V and with 8 V of gate drive, the inlet enters ON and writes a success entry. -/
def execRampComplete (m : InletMeas) (s : State) : Host.Outcome State Fault Refusal :=
  s.on fun d =>
    if d.inletIn [.ramp] then
      let d := d.measure m
      if m.vin ≤ m.vout + 15 ∧ m.vout ≤ m.vin + 15 ∧ 800 ≤ m.gate then
        ((d.modRecord fun r => { r with marker := false }).setInlet .on).atBoot 0x1E0 []
      else d
    else d

/-- RAMP_NOT_TRACKING (R510): cause 0x02. -/
def execRampNotTracking (m : InletMeas) (s : State) : Host.Outcome State Fault Refusal :=
  s.on fun d => if d.inletIn [.ramp] then d.inletFault 2 m else d

/-- CURRENT_LIMIT_TIMEOUT (R510, R511): cause 0x03. -/
def execCurrentLimitTimeout (m : InletMeas) (s : State) : Host.Outcome State Fault Refusal :=
  s.on fun d => if d.inletIn [.ramp, .on] then d.inletFault 3 m else d

/-- OVERCURRENT_TRIP (R511): a current above 2 × ILIM, cause 0x04. -/
def execOvercurrentTrip (m : InletMeas) (s : State) : Host.Outcome State Fault Refusal :=
  s.on fun d =>
    if d.inletIn [.ramp, .on] && decide (200 * d.fld Fld.inlCfg_ilim < m.iout) then d.inletFault 4 m else d

/-- FET_OVERTEMP (R511): the FET at TMAX, cause 0x05. -/
def execFetOvertemp (m : InletMeas) (s : State) : Host.Outcome State Fault Refusal :=
  s.on fun d =>
    if d.inletIn [.ramp, .on] && decide (d.fld Fld.inlFet_tmax ≤ d.fetTemp m) then d.inletFault 5 m else d

/-- POWER_GOOD_TIMEOUT (R511, R542): no power-good within 200 ms of ON entry, cause 0x09; FIRST names a rail that rose out
of order. -/
def execPowerGoodTimeout (m : InletMeas) (outOfOrder : Option Rail) (s : State) : Host.Outcome State Fault Refusal :=
  s.on fun d =>
    if d.inletIn [.on] && !d.pwr.powerGood then
      let d := match outOfOrder with
        | some .vddStk => d.setFld Fld.pwrRailSts_first 4
        | some .vddhSerdes => d.setFld Fld.pwrRailSts_first 2
        | _ => d
      d.inletFault 9 m
    else d

/-- GATE_RISE_TIMEOUT (R513): the gate has not risen 2.5 V above INL_VOUT; cause 0x06 latches. -/
def execGateRiseTimeout (m : InletMeas) (s : State) : Host.Outcome State Fault Refusal :=
  s.on fun d => if d.inletIn [.ramp] && decide (m.gate < 250) then d.inletFault 6 m else d

/-- RETRY_WAIT_EXPIRY (R515): the delay ends and an attempt begins, unless a clear is running or the inlet is held off. -/
def execRetryWaitExpiry (s : State) : Host.Outcome State Fault Refusal :=
  s.on fun d =>
    if d.inletIn [.wait] && !d.pwr.clearDue then (if d.inletOff then d.setInlet .off else d.attempt) else d

/-- FAILS_CLEAR_TIMEOUT (R515): ON has held for 60 s. -/
def execFailsClearTimeout (s : State) : Host.Outcome State Fault Refusal :=
  s.on fun d =>
    if d.inletIn [.on] then (d.setFails 0).modRecord fun r => { r with cause := 0, latched := false } else d

/-- FET_MODEL_UPDATE (R512): one step of the energy model, in 10⁻⁹ °C (log entry 21); EVT_FET_HOT at TMAX - 20 °C. TAU = 0
has no stated result: the temperature is then a free value. -/
def execFetModelUpdate (m : InletMeas) (s : State) : Host.Outcome State Fault Refusal :=
  s.on fun d =>
    if d.pwr.vaux then
      let tau := d.fld Fld.inlFet_tau
      let p : Int := (m.iout : Int) * ((m.vin : Int) - m.vout) * (d.fld Fld.inlFet_rth : Int) * 25000
      let t : Int := d.pwr.modelTemp
      let (n, d) := if tau = 0 then d.takeFree else (0, d)
      let t' : Nat := if tau = 0 then (Config.freeValue n).toNat
        else (t + (p - (t - (d.fld Fld.inlFet_tamb : Int) * 10 ^ 9)) / ((1000 * tau : Nat) : Int)).toNat
      let d := ({ d with pwr := { d.pwr with modelTemp := t' } }).measure m
      let hot := decide (d.fld Fld.inlFet_tmax ≤ d.fetTemp m + 20)
      let was := d.pwr.fetHot
      let d := { d with pwr := { d.pwr with fetHot := hot } }
      if hot && !was then d.raiseOrKeep 0x1E6 [] else d
    else d

/-- The clear of R517: refused for another value, and while a thermal trip is still hot. -/
def inletClear (v : Word) (d : Dev) : Option Dev :=
  if v ≠ 0x90 then none
  else if d.fld Fld.inlSts_cause = 8 ∧ 60 ≤ d.pwr.islandTemp then none
  else
    let d := (d.setReg Off.inlClear v).setFails 0
    let d := d.modRecord fun r => { r with fails := 0, cause := 0, latched := false }
    let d := d.raiseOrKeep 0x1E3 []
    some (if d.inletIn [.wait, .latched] then { d with pwr := { d.pwr with clearDue := true } } else d)

/-- The body of XT_INLET_CLEAR (R394, R517). -/
def bodyInletClear (i : Iface) (p : Payload) (d : Dev) : Dev :=
  d.vendor i 0xC090 p 4 fun b d =>
    let (d, okKey, ok) := d.drivePair i Off.inlClear 0x90 (BitVec.ofNat 32 (leNat b 0 4)) inletClear
    d.complete i 0xC090 (if ¬ okKey then rcInvalidInput else if ok then rcSuccess else rcRetry) []

/-- XT_INLET_CLEAR (R517, R392). -/
def execXtInletClear (i : Iface) (p : Payload) (s : State) : Host.Outcome State Fault Refusal :=
  s.on fun d => d.mailbox i (.xtInletClear i p) 0xC090 (bodyInletClear i p)

/-- INL_CLEAR (R517): the KEY write of the pair. -/
def execInlClear (src : Source) (key : Word) (s : State) : Host.Outcome State Fault Refusal :=
  s.on fun d => if d.canAccess src Off.inlClear then d.keyWrite src Off.inlClear key inletClear else d

/-- CLEAR_DELAY_EXPIRY (R517): 1 s after a clear, the inlet enters CHECK. -/
def execClearDelayExpiry (s : State) : Host.Outcome State Fault Refusal :=
  s.on fun d =>
    if d.pwr.clearDue then
      let d := { d with pwr := { d.pwr with clearDue := false } }
      if d.inletIn [.wait, .latched] then (d.setFld Fld.inlWait_ms 0).setInlet (if d.inletOff then .off else .check) else d
    else d

/-- What a completed pair of INL_OVERRIDE does (R518, R519): OFF holds the inlet off, OFF = 0 returns it to CHECK, MODEL is
kept. -/
def inletOverride (v : Word) (d : Dev) : Option Dev :=
  let d := d.setReg Off.inlOverride (v &&& 3)
  some (if v.getLsbD 0 then
      (if d.inletIn [.check, .prechg, .ramp, .on] then
        ((d.modRecord fun r => { r with marker := false }).setInlet .off).mainGone else d)
    else if d.inletIn [.off] && !d.inletOff then d.setInlet .check else d)

/-- INL_OVERRIDE_OFF (R518). -/
def execInlOverrideOff (src : Source) (key : Word) (s : State) : Host.Outcome State Fault Refusal :=
  s.on fun d => if d.canAccess src Off.inlOverride then d.keyWrite src Off.inlOverride key inletOverride else d

/-- INL_OVERRIDE_ON (R518). -/
def execInlOverrideOn (src : Source) (key : Word) (s : State) : Host.Outcome State Fault Refusal :=
  s.on fun d => if d.canAccess src Off.inlOverride then d.keyWrite src Off.inlOverride key inletOverride else d

/-- INL_OVERRIDE_MODEL (R518). -/
def execInlOverrideModel (src : Source) (key : Word) (s : State) : Host.Outcome State Fault Refusal :=
  s.on fun d => if d.canAccess src Off.inlOverride then d.keyWrite src Off.inlOverride key inletOverride else d

/-! ### The power cap (R523) -/

/-- The power-cap throttle ends. -/
def Dev.uncap (d : Dev) : Dev :=
  (({ d with pwr := { d.pwr with capBelow := none } }).setFlag Fld.pwrSts_capped false |>.raiseOrKeep 0x1E5 []).floorMoved

/-- POWER_CAP_SAMPLE (R523), 4,096 pours behind the one before it: the average is compared with CAP. With EN = 0 nothing is compared, and a throttle left over ends
(log entry 22). -/
def Dev.edgePowerCapSample (deciWatts : Nat) (d : Dev) : Dev :=
    if d.live && decide (d.pwr.capNext ≤ d.now) then
      let next := d.now + 4096
      let d := ({ d with pwr := { d.pwr with capNext := next } }).setFld Fld.pwrSts_power (satN 16 deciWatts)
      let cap := d.fld Fld.pwrCap_cap * 10
      if ¬ d.flag Fld.pwrCap_en then (if d.flag Fld.pwrSts_capped then d.uncap else d)
      else if cap < deciWatts ∧ ¬ d.flag Fld.pwrSts_capped then
        ((d.setFlag Fld.pwrSts_capped true).raiseN 0x1E5 []).floorMoved
      else if d.flag Fld.pwrSts_capped then
        let now := d.now
        { d with pwr := { d.pwr with capBelow := if 100 * deciWatts < 95 * cap then some (d.pwr.capBelow.getD now) else none } }
      else d
    else d

/-- POWER_CAP_RELEASE (R523): below 95 % of CAP for 65,536 pours. -/
def Dev.edgePowerCapRelease (d : Dev) : Dev :=
    match d.pwr.capBelow with
    | some p => if d.live && d.flag Fld.pwrSts_capped && decide (p + 65536 ≤ d.now) then d.uncap else d
    | none => d

/-! ### Posted writes (R417, R524, R525) -/

/-- The value an RWP register takes: its RWP bits from the value. -/
def Dev.rwpBits (o : Nat) (old value : Word) : Word :=
  let m := accMask (·.rwp) o
  (old &&& ~~~m) ||| (value &&& m)

/-- A write to an RWP register: posted, or dropped while a posting runs. -/
def Dev.post (d : Dev) (off : Nat) (value : Word) : Dev :=
  if accMask (·.rwp) off = 0 then d
  else if (d.reg off).getLsbD 31 then d.setFlag Fld.glbAccSts_postdrop true
  else ({ d with acc := { d.acc with posting := Sparse.insert d.acc.posting off value } }).setReg off (d.reg off ||| 0x80000000)

/-- POSTED_WRITE (R417). -/
def execPostedWrite (src : Source) (off : Nat) (value : Word) (s : State) : Host.Outcome State Fault Refusal :=
  s.on fun d => if d.canAccess src off then d.post off value else d

/-- Is a posted value acceptable (R524, R525)? -/
def postingOk (off : Nat) (v : Word) : Bool :=
  if off = Off.inlCfg then
    decide (fieldOf v 24 7 ≠ 0) && decide (10 ≤ fieldOf v 16 8) && decide (fieldOf v 16 8 ≤ 80) && decide (fieldOf v 8 8 ≠ 0)
  else if off = Off.pwrCap then !v.getLsbD 30 || decide (100 ≤ fieldOf v 0 12)
  else true

/-- POSTING_COMPLETE (R417): PEND clears; an invalid value changes nothing and sets CFGERR; the inlet's registers go to the
Canister (R516). -/
def execPostingComplete (off : Nat) (s : State) : Host.Outcome State Fault Refusal :=
  s.on fun d =>
    match d.acc.posting.find? (fun (e : Nat × Word) => e.1 == off) with
    | none => d
    | some (_, v) =>
      let d := { d with acc := { d.acc with posting := Sparse.erase d.acc.posting off } }
      let old := d.reg off &&& 0x7FFFFFFF
      if postingOk off v then
        let w := Dev.rwpBits off old v
        let d := d.setReg off w
        if off = Off.inlCfg then d.modRecord fun r => { r with cfg := some w }
        else if off = Off.inlFet then d.modRecord fun r => { r with fet := some w }
        else d
      else
        let d := d.setReg off old
        if off = Off.pwrCap then d.setFlag Fld.pwrSts_cfgerr true else d.setFlag Fld.inlSts_cfgerr true

end Sys2Proof.Machine
end

