-- ==== Sys2Proof/Machine/Noc.lean ====
section
/-! DEFINITION. Sys2Proof/Machine/Noc.lean: the power domains of the network: fencing, switching off and powering on (R324 to
R326), and a mesh flit that fails its parity (R482). -/

namespace Sys2Proof.Machine

/-- Changes a domain's state and raises EVT_NOC_FENCE (R326). -/
def Dev.setDom (d : Dev) (n st : Nat) : Dev :=
  (d.setReg Off.nocSts (setFieldOf (d.reg Off.nocSts) (2 * n) 2 st)).raiseN 0x180 [word1 n, word1 st]

/-- A fence takes effect at this boundary (R325), also on a domain that powers on (log entry 86). -/
def Dev.fence (d : Dev) (n : Nat) : Dev :=
  let d := { d with noc := { d.noc with revive := d.noc.revive.del n } }
  if d.domState n = 0 ∨ d.domState n = 3 then
    let now := d.now
    ({ d with noc := { d.noc with
        fences := Sparse.put 0 d.noc.fences n (now + 1), acked := d.noc.acked.del n, powering := Sparse.erase d.noc.powering n } }).setDom n 1
  else d

/-- Power-on of a domain starts at this boundary (R326); of one still FENCING, once it is OFF (log entry 86). -/
def Dev.powerOn (d : Dev) (n : Nat) : Dev :=
  if d.domState n = 2 then
    let now := d.now
    ({ d with noc := { d.noc with powering := Sparse.put 0 d.noc.powering n (now + 1) } }).setDom n 3
  else if d.domState n = 1 then { d with noc := { d.noc with revive := d.noc.revive.add n } }
  else d

/-- FENCE_DRAIN_ACK (R325): the domain holds no flit and every credit has returned. -/
def execFenceDrainAck (n : Fin 12) (s : State) : Host.Outcome State Fault Refusal :=
  s.on fun d => if d.live && d.domState n.val == 1 then { d with noc := { d.noc with acked := d.noc.acked.add n.val } } else d

/-- FENCE_OFF (R325): at the boundary after the acknowledgement. -/
def Dev.edgeFenceOff (n : Fin 12) (d : Dev) : Dev :=
    if d.live && d.domState n.val == 1 && d.noc.acked.has n.val then
      let again := d.noc.revive.has n.val
      let d := ({ d with noc := { d.noc with acked := d.noc.acked.del n.val, fences := Sparse.erase d.noc.fences n.val, revive := d.noc.revive.del n.val } }).setDom n.val 2
      if again then d.powerOn n.val else d
    else d

/-- FENCE_STUCK (R325): no acknowledgement by f + 4; the domain stays FENCING. -/
def Dev.edgeFenceStuck (n : Fin 12) (d : Dev) : Dev :=
    let f := Sparse.get 0 d.noc.fences n.val
    let known := bitAt (d.fld Fld.nocFenceSts_stuck) n.val
    if d.live && d.domState n.val == 1 && !d.noc.acked.has n.val && !known && decide (0 < f ∧ f - 1 + 4 ≤ d.now) then
      (d.setBit Fld.nocFenceSts_stuck n.val true).raiseN 0x181 [word1 n.val]
    else d

/-- DOMAIN_POWER_ON_DONE (R326): at u + 16 the domain is ON. -/
def Dev.edgeDomainPowerOnDone (n : Fin 12) (d : Dev) : Dev :=
    let u := Sparse.get 0 d.noc.powering n.val
    if d.live && d.domState n.val == 3 && decide (0 < u ∧ u - 1 + 16 ≤ d.now) then
      ({ d with noc := { d.noc with powering := Sparse.erase d.noc.powering n.val } }).setDom n.val 0
    else d

/-- FABRIC_PARITY_ERROR (R482): a DAT data field delivers its line with poison; any other error cannot be contained. -/
def execFabricParityError (net : Mesh) (dataField : Bool) (txn : Nat) (s : State) : Host.Outcome State Fault Refusal :=
  s.on fun d =>
    if ¬ d.live then d
    else if net = .dat ∧ dataField then
      let d := match d.txn txn with
        | some x => if x.op.isWrite then ((d.putTxn x 0 true).close x .cmp).run else (d.closePoisoned x).run
        | none => d
      d.raiseN 0x1D4 []
    else d.haltBy .fabricHeader 0 0

end Sys2Proof.Machine
end

