-- ==== Sys2Proof/Machine/Checks.lean ====
section
/-! DEFINITION. Sys2Proof/Machine/Checks.lean: check 0x0001 of XT_STAGE_CHECK: which values the register tables accept
(R423 and the tables it names). -/

namespace Sys2Proof.Machine

/-- The copy of a strided register that an offset names. -/
def copyOf (f : Nat → Nat) (n o : Nat) : Option Nat := (List.range n).find? fun i => f i == o

/-- Does check 0x0001 accept the word for the staged register at `o`? A register without a limit accepts every word. -/
def Dev.fieldOk (d : Dev) (o : Nat) (w : Word) : Bool :=
  let f := fun (x : Fld) => fieldOf w x.lo x.w
  if o = Off.glbModeReq then f Fld.glbModeReq_target ≤ 6
  else if o = Off.glbDrowseCtl then 256 ≤ f Fld.glbDrowseCtl_idle
  else if o = Off.crmSpecCtl then f Fld.crmSpecCtl_confMin != 0 && 16 ≤ f Fld.crmSpecCtl_hold
  else if o = Off.crmRefCtl then 256 ≤ f Fld.crmRefCtl_nrt && f Fld.crmRefCtl_nrt ≤ 4096
  else if o = Off.crmThermCtl then f Fld.crmThermCtl_thr != 0
  else if o = Off.farSchedCtl then
    f Fld.farSchedCtl_wqLo < f Fld.farSchedCtl_wqHi && f Fld.farSchedCtl_wqHi ≤ 60 && 16 ≤ f Fld.farSchedCtl_age
  else if o = Off.farTrackCtl then
    12 ≤ f Fld.farTrackCtl_interval && f Fld.farTrackCtl_interval ≤ 18 && 4 ≤ f Fld.farTrackCtl_thresh &&
      f Fld.farTrackCtl_thresh ≤ 32
  else if o = Off.rasScrubCtl then f Fld.rasScrubCtl_crmInt != 0 && f Fld.rasScrubCtl_farInt != 0
  else if o = Off.rasCeCtl then f Fld.rasCeCtl_win ≤ 8 && f Fld.rasCeCtl_thresh != 0
  else if o = Off.rasLossCtl then f Fld.rasLossCtl_caLimit != 0 && f Fld.rasLossCtl_win ≤ 8 && 8 ≤ f Fld.rasLossCtl_ueLimit
  else if o = Off.cohCtl then 500 ≤ fieldOf w 0 17 && fieldOf w 0 17 ≤ 125000
  else if o = Off.cohAtomCtl then fieldOf w 16 3 != 0 && fieldOf w 12 4 != 0 && fieldOf w 0 8 != 0
  else if o = Off.svcFloorCtl then f Fld.svcFloorCtl_meta ≤ 8
  else if o = Off.glbPortMode then f Fld.glbPortMode_mode ≤ 4
  else match copyOf Off.farChCfg 8 o with
    | some c =>
      fieldOf w 30 2 ≤ 1 && fieldOf w 28 2 != 3 && (fieldOf w 28 2 != 1 || d.physRanks c ≤ 2) &&
        6 ≤ fieldOf w 24 4 && fieldOf w 24 4 ≤ 12
    | none => match copyOf Off.farDistCtl 8 o with
      | some _ => 64 ≤ fieldOf w 16 16 && 8 ≤ fieldOf w 0 4
      | none => match copyOf Off.svcTntGuar 32 o with
        | some _ => fieldOf w 0 11 ≤ 1180
        | none => match copyOf Off.rlyVcCfg 2 o with
          | some _ => fieldOf w 0 2 != 3
          | none => true

end Sys2Proof.Machine
end

