-- ==== Sys2Proof/Machine/Units.lean ====
section
/-! DEFINITION. Sys2Proof/Machine/Units.lean: loss of a far channel (R168, R479, R480), of a Crema channel and its rebuild walk
(R122 to R124, R138), the conditions of DEGRADED and the way into it (R41, R483, R484), and a far channel's overhead (R170). -/

namespace Sys2Proof.Machine

/-! ### DEGRADED (R41, R483, R484) -/

/-- Does a pool exist? -/
def Dev.anyPool (d : Dev) : Bool := (List.range 8).any fun n => (d.pool n).used

/-- Does a condition of R483 hold? -/
def Dev.unitLost (d : Dev) : Bool :=
  (d.flag Fld.crmSts_noSpare && (List.range 32).any fun c => d.crmRole c == 4) ||
  (List.range 31).any (fun k => !d.flag (Fld.crmLmap_v k)) ||
  (List.range 8).any (fun c => d.flag (Fld.farChSts_inSet c) && d.farLost c) ||
  !d.cry.xtsShared.isEmpty || !d.cry.ctrFailed.isEmpty || (d.enginesOk.isEmpty && d.anyPool)

/-- The lowest event number among the losses that fall due together (R484). -/
def Dev.lossCauseOf (d : Dev) (num : Nat) : Nat := if d.crm.lossDue.isEmpty then num else min num 0x120

/-- Tells every sleeping far channel to wake within so many pours. -/
def Dev.wakeAll (d : Dev) (pours : Nat) : Dev :=
  let now := d.now
  (List.range 8).foldl (fun d c =>
    if d.fld (Fld.farChSts_state c) = 3 then d.modFch c fun f => { f with wakeBy := some (min (f.wakeBy.getD (now + pours)) (now + pours)) } else d) d

/-- What a loss under event `num` does to the mode: SERVE becomes DEGRADED, DROWSE wakes its channels first (R41), a held
return mode of SERVE or DROWSE becomes DEGRADED (R484). -/
def Dev.degrade (d : Dev) (num : Nat) : Dev :=
  let cause := causeOf (d.lossCauseOf num)
  match d.mode with
  | .serve => d.hwEnter .degraded cause
  | .drowse => ({ d with due := { d.due with degradeCause := some (d.due.degradeCause.getD cause) } }).wakeAll 8
  | .drain | .hibernate | .maint =>
    if d.due.returnMode = .serve ∨ d.due.returnMode = .drowse then { d with due := { d.due with returnMode := .degraded } } else d
  | _ => d

/-! ### Ranges of lost lines -/

/-- Far blocks of this device that extents hold, in rising order. -/
def Dev.farBlocks (d : Dev) : List Nat :=
  (d.ext.foldl (fun (s : NatSet) e =>
    if extV e.2 && extMember e.2 == d.chainId && extFar e.2 then s.add (extBlock e.2) else s) ([] : NatSet)).keys

/-- Lists the lines that extents hold on a far channel, page by page in ascending OFFSET, until a list overflows. -/
def Dev.listChannel (d : Dev) (c : Nat) : Dev :=
  d.farBlocks.foldl (fun d b =>
    (List.range 65536).foldl (fun d i =>
      let off := b * 2 ^ 28 + i * 4096
      if (d.farLoc off).ch = c then
        let ma := mkMa d.chainId true off
        match d.ownerOf ma (d.maComp ma) with
        | some (t, dpa) =>
          if (d.ldOf (d.tntPort t) (d.tntLd t)).poisonOvf then d else d.listLines (d.tntPort t) (d.tntLd t) (dpa / 64) 64 .internal
        | none => d
      else d) d) d

/-! ### Loss of a far channel (R480) -/

/-- Bits set in a word of 64. -/
def ones (x : BitVec 64) : Nat := (rangeWhere 64 fun i => x.getLsbD i).length

/-- The channel of a far transaction of this device. -/
def Dev.txnChannel (d : Dev) (x : Txn) : Option Nat :=
  if maFar x.ma && x.atHome then some (d.farLoc (maOff x.ma)).ch else none

/-- Completes what waits for lines of the channel: reads poisoned, writes dropped and logged; counts the writes. -/
def Dev.dropInFlight (d : Dev) (c : Nat) : Nat × Dev :=
  (d.txns.filter fun x => d.txnChannel x == some c &&
      (x.phase == .far || x.phase == .fill || x.phase == .heldWrite || x.phase == .crema)).foldl (fun (n, d) x =>
    if x.op.isWrite then (n + 1, (d.logDrop (d.farChid c) x.ma).closePoisoned x) else (n, d.closePoisoned x)) (0, d)

/-- Invalidates without writeback every frame that caches a page of the channel; counts the dirty lines. -/
def Dev.dropFrames (d : Dev) (c : Nat) : Nat × Dev :=
  d.frames.foldl (fun (n, d) (e : Nat × Frame) =>
    let (set, way) := (e.1 / 16, e.1 % 16)
    if e.2.st ≠ 0 ∧ (d.farLoc (d.pageOf set e.2.tag * 4096)).ch = c then
      (n + ones e.2.dirty, { d.dropFrame set way with crm := { d.crm with evictFor := Sparse.erase d.crm.evictFor e.1 } })
    else (n, d)) (0, d)

/-- Drops the Press jobs of the channel's pages. -/
def Dev.dropJobs (d : Dev) (c : Nat) : Dev :=
  let keep := fun (j : Job) => (d.farLoc (j.page * 4096)).ch != c
  ({ d with prs := { d.prs with
      jobs := d.prs.jobs.filter keep
      engines := vmap d.prs.engines fun o => o.filter keep } }).dispatchJobs

/-- The schedulers of a channel hold no request any more. -/
def Dev.dropQueues (d : Dev) (s : Nat) : Dev := { d with sched := Sparse.erase (Sparse.erase d.sched s) (s + 1) }

/-- The page-map cache keeps no line of a far channel (R480). -/
def Dev.dropMaps (d : Dev) (c : Nat) : Dev :=
  { d with prs := { d.prs with mapCache := d.prs.mapCache.filter fun e => (e.2 - 1) / 2 ^ 34 != c } }

/-- A far channel is lost (R480). -/
def Dev.loseFar (d : Dev) (c : Nat) : Dev :=
  if d.farLost c then d
  else
    let d := (d.setFld (Fld.farChSts_state c) 4).modFch c fun f =>
      { f with lossDue := false, wakeBy := none, recentre := none, repeatDue := false, ppr := none, pprBufs := 0, pprWait := [], nbr := [] }
    let d := d.setBit Fld.glbModeSts_sleepCh c false
    let pair := c / 2 * 2
    let d := if d.farLost pair && d.farLost (pair + 1) then d.fence (6 + c / 2) else d
    let (writes, d) := d.dropInFlight c
    let (dirty, d) := d.dropFrames c
    let d := (((d.dropJobs c).dropQueues (64 + 2 * c)).dropMaps c).countPinned
    let d := d.listChannel c
    let d := if d.rekeying then
        let d := d.setFlag (Fld.cryFarBound_end c) true
        { d with cry := { d.cry with rekey := d.cry.rekey.map fun r => { r with pages := vmod r.pages c fun _ => none } } }
      else d
    let s := d.served c
    let d := if s ≠ c ∧ ¬ d.farLost s then
        (d.modFch s fun f => { f with metaSingle := true }).raise { num := 0x136, chid := some (d.farChid s) } else d
    let d := d.raise { num := 0x1D1, chid := some (d.farChid c),
                       detail := [word1 d.ileave, word1 (d.chPos c), word1 dirty, word1 writes] }
    (d.floorMoved.degrade 0x1D1).run

/-! ### Loss of a Crema channel (R122 to R124, R138) -/

/-- Sets ROLE and LOGICAL of a physical channel. -/
def Dev.setRole (d : Dev) (c role logical : Nat) : Dev :=
  (d.setFld (Fld.crmChSts_role c) role).setFld (Fld.crmChSts_logical c) logical

/-- Fences a quadrant whose eight channels are all lost (R324). -/
def Dev.fenceQuadrant (d : Dev) (c : Nat) : Dev :=
  if (rangeWhere 32 fun i => quadrantOf i == quadrantOf c).all fun i => d.crmRole i == 4 then d.fence (2 + quadrantOf c) else d

/-- The rotation ends with no effect on the map: the source is active again (R138). -/
def Dev.dropRotation (d : Dev) : Dev :=
  match d.crm.rot with
  | some r =>
    let d := { d with crm := { d.crm with rot := none } }
    let d := d.setReg Off.crmRotSts 0
    if d.crmRole r.source.val = 2 then d.setFld (Fld.crmChSts_role r.source.val) 0 else d
  | none => d

/-- Completes the reads in flight to a logical channel poisoned. -/
def Dev.dropCrema (d : Dev) (k : Nat) : Dev :=
  (d.txns.filter fun x => x.phase == .crema).foldl (fun d x =>
    let g := if maFar x.ma then
        (match d.findWay (maPage x.ma) x.comp with | some w => some (d.frameOf (d.setOf (maPage x.ma)) w) | none => none)
      else some (maPage x.ma)
    match g with
    | some g => if frameChan g = k then d.withData x 0 true else d
    | none => d) d

/-- Near blocks that a tenant or an extent holds, or that a compressed pool has (R122). -/
def Dev.nearBlocksHeld (d : Dev) : List Nat := rangeWhere (4 * d.near) fun b => d.blockHeld false b

/-- The spill area and the page-map cache keep no line of a logical channel: it is fetched again on its next use (R122). -/
def Dev.dropReserve (d : Dev) (k : Nat) : Dev :=
  let keep := fun (area : Nat) (e : Nat × Nat) => frameChan (d.sharedPlace area e.1).1 != k
  { d with cry := { d.cry with spill := d.cry.spill.filter (keep 2) }, prs := { d.prs with mapCache := d.prs.mapCache.filter (keep 3) } }

/-- A Crema channel is lost. -/
def Dev.loseCrema (d : Dev) (c : Nat) : Dev :=
  let role := d.crmRole c
  let d := { d with crm := { d.crm with lossDue := d.crm.lossDue.filter (·.val != c) } }
  if role = 4 then d
  else
    let d := d.bump Fld.crmSts_lost 1
    -- a source whose logical number the spare has taken holds nothing that the spare lacks
    let moved : Bool := match d.crm.rot with | some r => r.source.val == c && r.phase != 0 | none => false
    if role == 0 || (role == 2 && !moved) then
      let k := d.fld (Fld.crmChSts_logical c)
      let start := match d.crm.rot with | some r => if r.source.val = c ∧ r.phase = 0 then r.pointer else 0 | none => 0
      let d := if role = 2 then d.dropRotation else d
      let backed := !d.flag Fld.crmSts_noSpare
      let s := d.fld Fld.crmSts_spare
      let d := d.setRole c 4 0
      let d := if backed then
          ((d.setFld (Fld.crmLmap_phys k) s).setRole s 0 k).setFlag Fld.crmSts_noSpare true
        else ((d.setFlag (Fld.crmLmap_v k) false).raise { num := 0x121, chid := some (d.cremaChid c) })
      let d := { d with crm := { d.crm with rebuilds := d.crm.rebuilds ++
          [(⟨Fin.ofNat 32 c, k, start, backed, 0, 0, [], d.nearBlocksHeld⟩ : Rebuild)] } }
      let d := (d.setFlag Fld.crmSts_rebuild true).fenceQuadrant c
      let d := (((d.dropCrema k).dropQueues (2 * c)).dropReserve k).floorMoved
      (d.degrade 0x120).run
    else
      -- the spare or an isolated channel: no line is lost, and nothing is rebuilt (R138)
      let d := if role = 1 then d.dropRotation else ({ d with crm := { d.crm with rot := none } }).setReg Off.crmRotSts 0
      let d := (((d.setRole c 4 0).setFlag Fld.crmSts_noSpare true).dropQueues (2 * c)).fenceQuadrant c
      let d := d.raise { num := 0x120, chid := some (d.cremaChid c), detail := [0, 0] }
      d.degrade 0x120

/-- One frame of the walk (R122): a near frame's lines, then a cache frame's. -/
def Dev.rebuildFrame (d : Dev) (g : Nat) : Dev :=
  if g < 262144 * d.near then (List.range 64).foldl (fun d l => d.settleNear g l) d
  else if g < d.metaFrame then
    let i := g - 262144 * d.near
    let f := d.frame (i / 16) (i % 16)
    if f.st = 0 then d
    else if d.unbacked g then d.giveUpFrame (i / 16) (i % 16)
    else (List.range 64).foldl (fun d l => d.settleCached (i / 16) (i % 16) l (d.pageOf (i / 16) f.tag)) d
  else d

/-- The walk of a rebuild passes one frame. -/
def Dev.rebuildStep (d : Dev) (r : Rebuild) : Dev :=
  if r.pos < d.chFrames then
    let d := d.rebuildFrame (r.pos * 31 + r.logical)
    { d with crm := { d.crm with rebuilds := d.crm.rebuilds.map fun (x : Rebuild) =>
        if x.phys = r.phys then { x with pos := r.pos + 1 } else x } }
  else d

/-- The frames of the walk still to come that hold anything: cache frames in use, and near frames of held blocks. -/
def Dev.rebuildRest (d : Dev) (r : Rebuild) : List Nat :=
  let cached := d.frames.filterMap fun (e : Nat × Frame) => if e.2.st = 0 then none else some (262144 * d.near + e.1)
  let near := r.blocks.flatMap fun b => (List.range 65536).map (b * 65536 + ·)
  (near ++ cached).filter fun g => frameChan g == r.logical && r.pos ≤ framePos g

/-- The walk ends: what is left of it is done, the record is written (R123). -/
def Dev.rebuildEnd (d : Dev) (r : Rebuild) : Dev :=
  let d := (d.rebuildRest r).foldl (fun d g => d.rebuildFrame g) d
  match d.crm.rebuilds.find? fun (x : Rebuild) => x.phys == r.phys with
  | some r =>
    let d := { d with crm := { d.crm with rebuilds := d.crm.rebuilds.filter fun (x : Rebuild) => x.phys != r.phys } }
    let d := d.setFlag Fld.crmSts_rebuild (!d.crm.rebuilds.isEmpty)
    d.raise { num := 0x120, chid := some (d.cremaChid r.phys.val), detail := [word1 r.dirtyLost, word1 r.nearLost] }
  | none => d

/-! ### Overhead of a far channel (R151, R170, R230) -/

/-- A fraction n ÷ m in units of 1/1,024, rounded up. -/
def upTo1024 (n m : Nat) : Nat := if m = 0 then 0 else min 1023 (ceilDiv (1024 * n) m)

/-- The overhead of a channel, over the common denominator speed × 2^K × 39,062.5 × 1,024 × N: refresh at tREFI = 3,906.25 ns,
PARA 16 · 2^-K per burst of 32,000 ÷ speed cycles, the RFM rate, one scrubbed line of 1,024 slots a pour, rekey's 138 line
transfers over the set, and 10 of 512 slots. -/
def Dev.derate (d : Dev) (c : Nat) : Dev :=
  let ms := (d.fch c).dimms
  let speed := max 1 (speedOf (d.fld (Fld.farChSts_speed c)))
  let n := max 1 d.ileave
  let t := if d.sameBank c then (ms.map (·.trfcsb)).foldl max 0 else (ms.map (·.trfc)).foldl max 0
  let rfm := (ms.map (·.rfm1024)).foldl max 0
  let k := 2 ^ d.fld (Fld.farChCfg_paraK c)
  let para := d.fld (Fld.farChCfg_dist c) = 0
  -- refresh: t tenths of a nanosecond over 3,906.25 ns = 20 t ÷ 781,250
  let refN := 20 * t
  -- disturbance: 16 speed ÷ (32,000 K) + rfm ÷ 1,024
  let distN := (if para then 16 * speed * 1024 else 0) + rfm * 32000 * k
  let distM := 32000 * k * 1024
  -- scrub and rekey: (1 + 138 ÷ N) × 32,000 ÷ (1,024 speed)
  let lineN := (n + 138) * 32000
  let lineM := n * 1024 * speed
  let den := 781250 * distM * lineM * 512
  let tot := refN * distM * lineM * 512 + distN * 781250 * lineM * 512 + lineN * 781250 * distM * 512 + 10 * 781250 * distM * lineM
  d.setReg (Off.farChDerate c) (BitVec.ofNat 32
    (upTo1024 tot den * 2 ^ 20 + upTo1024 distN distM * 2 ^ 10 + upTo1024 refN 781250))

/-- The overhead of every channel of the set. -/
def Dev.derateAll (d : Dev) : Dev := (interleave d.ileave).foldl (fun d c => d.derate c) d

end Sys2Proof.Machine
end

