-- ==== Sys2Proof/Machine/Startup.lean ====
section
/-! DEFINITION. Sys2Proof/Machine/Startup.lean: FILL, BOOT and TRAIN, the AWAIT trigger, HDM decoder commits and the end of a
thermal hold (R22, R36 to R50, R72, R73, R95, R143, R144, R201, R264, R338, R401, R403, R455 to R458, R488). -/

namespace Sys2Proof.Machine

/-! ### FILL -/

/-- A step that ends during a thermal hold is discarded and runs again (R42). -/
def Dev.inMode (d : Dev) (m : Mode) : Bool := d.mode == m && !d.halted && !d.thm.hold

/-- CORE_CLOCK_LOCK (R22, R201, R203): pour 0 begins and the generation key is drawn; a failed health test is a fatal FILL
failure. -/
def execCoreClockLock (healthOk : Bool) (s : State) : Host.Outcome State Fault Refusal :=
  s.on fun d =>
    if d.mode == .fill && !d.clk.running then
      let d := { d with clk := ⟨true, 0, 0⟩ }
      if healthOk then
        let d := { d with cry := { d.cry with key := some d.cry.draws, draws := d.cry.draws + 1, majorNext := 0 } }
        (d.setFlag Fld.crySts_trngOk true).setFlag Fld.crySts_keyValid true
      else { d with due := { d.due with fatalFill := true } }
    else d

/-- The map of R95 and R39 after training failed these channels; each one is a channel loss without a line to lose (R479, R123). -/
def Dev.mapTrained (d : Dev) (failed : BitVec 32) : Dev :=
  let bad := rangeWhere 32 fun c => failed.getLsbD c
  let low := bad.filter (· < 31)
  let d := (List.range 31).foldl (fun d k => d.setRole k (if failed.getLsbD k then 4 else 0) k) d
  let d := d.setRole 31 (if failed.getLsbD 31 then 4 else 1) 0
  let d := d.bump Fld.crmSts_lost bad.length
  let covered := if failed.getLsbD 31 then [] else low.take 1
  let d := covered.foldl (fun d k => (d.setFld (Fld.crmLmap_phys k) 31).setRole 31 0 k) d
  let d := (low.filter fun k => !covered.contains k).foldl (fun d k =>
    (d.setFlag (Fld.crmLmap_v k) false).raise { num := 0x121, chid := some (d.cremaChid k) }) d
  let d := low.foldl (fun d k => d.setRole k 4 0) d
  let d := d.setFlag Fld.crmSts_noSpare (!bad.isEmpty)
  bad.foldl (fun d c => d.raise { num := 0x120, chid := some (d.cremaChid c), detail := [0, 0] }) d

/-- The lanes of a channel that failed the lane test, ascending: spare lane `i` carries the `i`-th of them (R127). -/
def failedLanes (r : TsvResult) : List Nat := rangeWhere 80 fun i => r.lanes.getLsbD i

/-- Has a channel failed training (R127): more than 4 failed lanes, or step 1, 3 or 4? -/
def tsvFails (r : TsvResult) : Bool := decide (4 < (failedLanes r).length) || !r.impedance || !r.skew || !r.eye

/-- The channels that failed, by their results; a channel that is given none has passed. -/
def tsvFailed (results : List TsvResult) : BitVec 32 :=
  BitVec.ofNat 32 (((List.range 32).map fun c => match results[c]? with | some r => bitOf (tsvFails r) * 2 ^ c | none => 0).sum)

/-- The spare lanes in use after training. -/
def tsvLanes (results : List TsvResult) : Sparse (List Nat) :=
  (List.range 32).foldl (fun m c => match results[c]? with
    | some r => if tsvFails r then m else Sparse.put [] m c (failedLanes r)
    | none => m) []

/-- TSV_TRAINING_COMPLETE (R127, R39, R95, R133): fuse repairs are in force, failed channels are mapped; more than two are fatal. -/
def execTsvTrainingComplete (results : List TsvResult) (s : State) : Host.Outcome State Fault Refusal :=
  s.on fun d =>
    if d.inMode .fill && d.clk.running && !d.due.tsvDone then
      let failed := tsvFailed results
      let n := (rangeWhere 32 fun c => failed.getLsbD c).length
      let d := { d with due := { d.due with fillFailed := failed, fatalFill := d.due.fatalFill || decide (2 < n), tsvDone := true }
                        crm := { d.crm with lanes := tsvLanes results } }
      (d.mapTrained failed).setFld Fld.crmRepairSts_fuse (d.fuses.repairs.filter fun l => locKind l == 1 || locKind l == 4).length
    else d

/-- The power domains of the ports follow the port mode (R324). -/
def Dev.portDomains (d : Dev) : Dev :=
  [PortId.a, .b].foldl (fun d p => if d.role p = 0 then d.fence (portIdx p) else d.powerOn (portIdx p)) d

/-- FILL_COMPLETE (R37, R38, R47, R329): TSV training has ended, arrays and metadata are filled, the change from COLD is recorded under pour 0, the
device enters BOOT and the ports that are off are fenced. -/
def Dev.edgeFillComplete (arraysOk : Bool) (d : Dev) : Dev :=
    if d.inMode .fill && d.clk.running && d.due.tsvDone then
      let d := { d with due := { d.due with fatalFill := d.due.fatalFill || !arraysOk } }
      let clk := d.clk
      let d := ({ d with clk := ⟨true, 0, 0⟩ }).raiseN 0x100 [0, 1, 0, 0]
      let d := { d with clk := clk }
      let d := if 4 < d.pwr.straps.toNat then d.raiseN 0x101 [] else d
      (d.enter .boot 0 0).portDomains
    else d

/-! ### BOOT -/

/-- The first check of R456 that an image of one of `types` fails: steps 1 to 3 read the header, `sig` is the first of steps 4
to 7 that fails. -/
def Dev.verifyImage (d : Dev) (types : List Nat) (b : Payload) (sig : Option Nat) : Option Nat :=
  if leNat b 0 4 ≠ 0x46505458 ∨ !types.contains (byteAt b 12) then some 1
  else if d.lifecycle = .scrapped ∨ ¬ (byteAt b 13).testBit d.lifecycle.code then some 2
  else if byteAt b 15 < d.fuses.svn then some 3
  else sig.map fun n => max 4 (min n 7)

/-- The checks of a firmware image, which BOOT and an activation run. -/
def Dev.verifyStep (d : Dev) (b : Payload) (sig : Option Nat) : Option Nat := d.verifyImage [1] b sig

/-- A slot's bytes. -/
def Dev.slotBytes (d : Dev) (n : Fin 2) : Payload := (d.can.slots[n]).bytes

/-- Tries one slot. -/
def Dev.trySlot (d : Dev) (n : Fin 2) (sig : Option Nat) : Bool × Dev :=
  match d.verifyStep (d.slotBytes n) sig with
  | none => (true, d)
  | some k => (false, d.raiseN 0x1F1 [word1 n.val, word1 k])

/-- Brings CAN_STS up to date (R407). -/
def Dev.syncCanister (d : Dev) : Dev :=
  let d := (d.setFlag Fld.canSts_aOk (d.can.slots[0]).valid).setFlag Fld.canSts_bOk (d.can.slots[1]).valid
  let d := d.setFld Fld.canSts_bootSlot d.can.bootSlot.val
  let d := d.setFld Fld.canLogSts_next (d.can.logCount % 8192)
  match d.can.newest with
  | some i => match d.can.copies[i] with
    | some c => (d.setFld Fld.canSts_copy i.val).setFld Fld.canSts_genLo (c.gen % 65536)
    | none => d
  | none => (d.setFld Fld.canSts_copy 0).setFld Fld.canSts_genLo 0

/-- The newest settings copy whose CRC is right (R403). -/
def Dev.newestCopy (d : Dev) : Option Copy :=
  d.can.copies.toList.foldl (fun best o => match o, best with
    | some c, some b => if c.crcOk ∧ b.gen < c.gen then some c else some b
    | some c, none => if c.crcOk then some c else none
    | none, b => b) none

/-- Sets NEAR and the S it gives (R100, R102). -/
def Dev.setNear (d : Dev) (gib : Nat) : Dev :=
  (d.setFld Fld.crmCfg_nearGib gib).setFld Fld.crmCfg_sets (d.setsFor gib)

/-- Soft repairs in force, and their counts. -/
def Dev.syncRepairs (d : Dev) : Dev :=
  let d := d.setFld Fld.rasFuseSts_free (512 - d.fuses.repairs.length)
  let d := d.setFld Fld.crmRepairSts_soft (d.mb.softCrema.filter fun l => !d.crm.unitPending.contains l).length
  (List.range 8).foldl (fun d c =>
    d.setFld (Fld.farPprSts_soft c) (satN 8 (d.mb.softFar.filter fun l => locChan l == c && !(d.fch c).pprWait.contains l &&
      (d.fch c).ppr.all fun x => x.1 != l).length)) d

/-- Applies a settings copy (R403, R330, R134): each value that check 0x0001 accepts, the port mode in place of the strap, NEAR
within the variant's range, and the soft repairs that no fuse repair already makes. -/
def Dev.applyCopy (d : Dev) (c : Copy) : Dev :=
  let d := c.regs.foldl (fun d (e : Nat × Word) => if d.fieldOk e.1 e.2 then
    let m := accMask (·.rws) e.1
    d.setReg e.1 ((d.reg e.1 &&& ~~~m) ||| (e.2 &&& m)) else d) d
  let d := if c.portMode ≤ 4 then
      ((d.setFld Fld.glbPortMode_mode c.portMode).setFlag Fld.glbPortMode_override true).setRoles c.portMode
    else d
  let d := d.setNear (if c.near ≤ d.maxNear then c.near else 0)
  let dup := c.cremaRepairs.filter fun l => d.fuses.repairs.contains l
  let d := { d with mb := { d.mb with softCrema := c.cremaRepairs.filter (fun l => !d.fuses.repairs.contains l), softFar := c.farRepairs } }
  (d.setFld Fld.crmRepairSts_dup dup.length).syncRepairs

/-- Loads the HALT record of an earlier start (R488). -/
def Dev.loadHalt (d : Dev) : Dev :=
  match d.can.halt with
  | some r =>
    let d := d.setReg Off.rasHaltCause (BitVec.ofNat 32
      (3 * 2 ^ 30 + r.later % 64 * 2 ^ 24 + r.origin % 256 * 2 ^ 16 + r.mode * 2 ^ 8 + r.cause))
    let d := d.setReg Off.rasHaltPourLo (BitVec.ofNat 32 r.at_.pour)
    let d := d.setReg Off.rasHaltPourHi (BitVec.ofNat 32 (r.at_.pour / 2 ^ 32))
    let d := d.setReg Off.rasHaltDetail (BitVec.ofNat 32 (r.chid.toNat * 2 ^ 16 + r.at_.cyc))
    let d := d.setReg Off.rasHaltLocLo (r.loc.setWidth 32)
    d.setReg Off.rasHaltLocHi ((r.loc >>> 32).setWidth 32)
  | none => d

/-- The events that the last start could not raise (R466, R526). -/
def Dev.bootEvents (d : Dev) : Dev :=
  let d := d.can.atBoot.foldl (fun d (e : Nat × List Word) => d.raiseN e.1 e.2) d
  let d := if 0 < d.can.glitchNew then d.raiseN 0x1F3 [word1 d.can.glitchNew] else d
  { d with can := { d.can with atBoot := [], glitchNew := 0 } }

/-! ### The DIMM population (R72, R73, R143, R144) -/

/-- Is a module one that R143 supports in this slot? -/
def dimmSupported (m : Dimm) (slot : Nat) : Bool :=
  m.buffered && m.ecc && !m.x16 && (m.ranks == 1 || m.ranks == 2) && 0 < m.gib && m.gib ≤ 64 &&
  (if m.mrdimm then slot == 0 && 6 ≤ m.speed && m.speed ≤ 8 && !m.x8 && [1, 2, 4].contains m.height
   else slot < 2 && 1 ≤ m.speed && m.speed ≤ 5 && [1, 2, 4, 8].contains m.height)

/-- The modules of a channel that R143 and R144 keep. -/
def keptDimms (l : List Dimm) : List Dimm :=
  let ok := (l.zipIdx.filter fun (e : Dimm × Nat) => dimmSupported e.1 e.2).map (·.1)
  if 16 < (ok.map fun m => m.ranks * m.height).sum then ok.take 1 else ok

/-- Modules of a channel, without the empty slots. -/
def presentDimms (l : List Dimm) : List Dimm := l.filter fun m => 0 < m.gib

/-- Do two modules have the same geometry? -/
def dimmAlike (a b : Dimm) : Bool :=
  a.mrdimm == b.mrdimm && a.x8 == b.x8 && a.ranks == b.ranks && a.height == b.height && a.gib == b.gib

/-- N of R72; 0, an empty set of channels, where no width qualifies (R72 gives no N for that; DESIGN CHOICE, log entry 90). -/
def widthFor (kept : List (List Dimm)) : Nat :=
  match (kept.getD 0 []) with
  | [] => 0
  | m :: ms =>
    (([8, 4, 2, 1] : List Nat).find? fun n => (interleave n).all fun c =>
      (kept.getD c []).length == ms.length + 1 && (kept.getD c []).all (dimmAlike m)).getD 0

/-- log₂ of a power of two up to 16. -/
def log16 (n : Nat) : Nat := if n < 2 then 0 else if n < 4 then 1 else if n < 8 then 2 else if n < 16 then 3 else 4

/-- What the board has fitted, channel by channel. -/
def Dev.fit (d : Dev) (dimms : List (List Dimm)) : Dev :=
  (List.range 8).foldl (fun d c => d.modFch c fun f => { f with fitted := dimms.getD c [] }) d

/-- TRAIN begins: the SPDs are read and the interleave is set. -/
def Dev.populate (d : Dev) : Dev :=
  let dimms := (List.range 8).map fun c => (d.fch c).fitted
  let kept := (List.range 8).map fun c => keptDimms (dimms.getD c [])
  let n := widthFor kept
  let set := interleave n
  let speed := ((set.flatMap fun c => (kept.getD c []).map (·.speed))).foldl min 8
  let d := (List.range 8).foldl (fun d c =>
    let here := if set.contains c then kept.getD c [] else []
    let lost := (presentDimms (dimms.getD c [])).length - here.length
    let d := (List.range lost).foldl (fun d _ => d.raise { num := 0x130, chid := some (d.farChid c) }) d
    let d := d.modFch c fun f => { FarChan.reset with fitted := f.fitted, dimms := here }
    if here.isEmpty then d
    else d.setReg (Off.farChSts c) (BitVec.ofNat 32
      (1 * 2 ^ 29 + 2 ^ 28 + speed * 2 ^ 20 + log16 ((here.map fun m => m.ranks * m.height).sum) * 2 ^ 12 + here.length * 2 ^ 10 +
        (if here.any (·.x8) then 2 ^ 8 else 0) + (here.map (·.gib)).sum % 256))) d
  let d := d.setFld Fld.farMapCtl_chSet n
  d.setFld Fld.farMapCtl_dataBlocks (n * d.dataLines 0 / 2 ^ 22)

/-- The image that brings the device into TRAIN advances the SVN fuses (R457). -/
def Dev.advanceSvn (d : Dev) (n : Fin 2) : Dev :=
  let b := d.slotBytes n
  let svn := min 64 (byteAt b 15)
  if (byteAt b 14).testBit 1 ∧ d.fuses.svn < svn then
    ({ d with fuses := { d.fuses with svn := svn } }).raiseN 0x1F2 [word1 svn]
  else d

/-- BOOT with a verified image in slot `n`. -/
def Dev.bootVerified (d : Dev) (n : Fin 2) : Dev :=
  let d := { d with mb := { d.mb with state := .running, slot := n } }
  let d := d.setFld Fld.mboxBaristaSts_slot n.val
  let d := match d.newestCopy with
    | some c => { (d.applyCopy c).portDomains with sec := { d.sec with bootCopy := some c } }
    | none => (d.setNear 0).raiseN 0x1B2 []
  let d := ({ d with pwr := { d.pwr with mctpRo := d.flag Fld.glbSecCtl_mctpRo } }).floorMoved
  if d.due.fatalFill then d.enter .maint 0 0
  else ((d.advanceSvn n).enter .train 0 0).populate

/-- In BOOT the signing engine unwraps the identity keys, where the fuses hold usable ones, and the slot-0 chain is read
(R459, R461, R469). -/
def Dev.unwrapKeys (d : Dev) : Dev :=
  let usable := d.fuses.identity && !d.fuses.idDisable && (d.lifecycle == .provisioned || d.lifecycle == .production)
  ({ d with sec := { d.sec with signKeys := usable } }).setFlag Fld.glbLcSts_certOk d.can.cert

/-- BOOT_COMPLETE (R38, R47, R401, R458): the boot slot is tried, then the other; recovery where both fail. -/
def Dev.edgeBootComplete (sigFailA sigFailB : Option Nat) (dimms : List (List Dimm)) (d : Dev) : Dev :=
    if d.inMode .boot then
      let d := ((d.bootEvents.loadHalt.fit dimms).syncCanister).unwrapKeys
      let sig := fun (n : Fin 2) => if n = 0 then sigFailA else sigFailB
      let first := d.can.bootSlot
      let second : Fin 2 := if first = 0 then 1 else 0
      let (ok, d) := d.trySlot first (sig first)
      if ok then d.bootVerified first
      else
        let (ok, d) := d.trySlot second (sig second)
        if ok then d.bootVerified second
        else
          let d := { d with mb := { d.mb with state := .running, recovery := true }, pwr := { d.pwr with mctpRo := false } }
          (d.setFlag Fld.glbModeSts_recovery true).enter .maint 0 0
    else d

/-! ### TRAIN and AWAIT -/

/-- What AWAIT entry does beside the mode (R36, R324, R372): far pairs outside the set, and Press without a pool, are fenced; a head
runs its roll call. -/
def Dev.atAwait (d : Dev) : Dev :=
  let d := (List.range 4).foldl (fun d p =>
    if d.flag (Fld.farChSts_inSet (2 * p)) || d.flag (Fld.farChSts_inSet (2 * p + 1)) then d else d.fence (6 + p)) d
  let d := if d.anyPool then d else d.fence 10
  d.rollCall false

/-- TRAIN_COMPLETE (R38, R50, R158, R170): channels that failed are lost; AWAIT if any trained, else MAINT. -/
def Dev.edgeTrainComplete (failed : BitVec 8) (d : Dev) : Dev :=
    if d.inMode .train then
      let set := interleave d.ileave
      let d := set.foldl (fun d c =>
        let now := d.now
        (d.setFld (Fld.farChSts_state c) 2).modFch c fun f =>
          { f with trained := !failed.getLsbD c, lastReq := now }) d
      let d := d.derateAll
      let d := (set.filter fun c => failed.getLsbD c).foldl (fun d c => d.loseFar c) d
      let d := set.foldl (fun d c => d.syncSpare c) d
      let d := d.syncRepairs.floorMoved
      if set.any fun c => !failed.getLsbD c then
        (({ d with due := { d.due with trained := true } }).enter .await 0 0).atAwait
      else d.enter .maint 0 0
    else d

/-- The AWAIT trigger of the port mode, if it holds (R40). -/
def Dev.triggered (d : Dev) : Bool :=
  if d.isMember then d.flag Fld.rlyChainSts_idv
  else if d.relayDown.isSome then d.anyDecoder .a
  else [PortId.a, .b].any fun p => d.hostPort p && d.anyDecoder p

/-- AWAIT_TRIGGER (R40, R38): the device serves, DEGRADED where a unit is lost; held requests are looked up (R549). -/
def Dev.edgeAwaitTrigger (d : Dev) : Dev :=
    if d.inMode .await && d.triggered then
      (d.enter (if d.unitLost then .degraded else .serve) 0 0).releaseHeld
    else d

/-! ### HDM decoder commits (R65, R264, R338) -/

/-- Partitions that a DPA range of blocks touches. -/
def Dev.partsOf (d : Dev) (t : TenantId) (first len : Nat) : List Nat :=
  (List.range len).foldl (fun a i => let p := d.partition t (first + i); if a.contains p then a else a ++ [p]) []

/-- May the decoder commit (R65, R338)? -/
def Dev.decoderOk (d : Dev) (p : PortId) (ld : Nat) (i : Fin 8) (c : HdmCfg) : Bool :=
  let blk := 2 ^ 28
  let l := d.ldOf p ld
  let start := (List.range i.val).foldl (fun a j => match vget none l.dec j with
    | some h => a + h.cfg.skip + h.cfg.size / max h.cfg.ways 1
    | none => a) 0 + c.skip
  let len := c.size / max c.ways 1
  ld < 16 && c.base % blk == 0 && c.size % blk == 0 && c.skip % blk == 0 &&
  [1, 2, 4, 8, 16, 3, 6, 12].contains c.ways && [256, 512, 1024, 2048, 4096, 8192, 16384].contains c.gran &&
  (match d.tenantOf p ld with
   | none => false
   | some t =>
     start + len ≤ d.extLen t * blk &&
     (let mine := d.partsOf t (start / blk) (ceilDiv len blk)
      (List.range 8).all fun j => j == i.val || (match vget none l.dec j with
        | some h => h.cfg.bi == c.bi ||
            (let theirs := d.partsOf t (decStart l j / blk) (ceilDiv (h.cfg.size / max h.cfg.ways 1) blk)
             mine.all fun x => !theirs.contains x)
        | none => true))) &&
  (!c.bi || (c.biEnabled && !d.oldPartner p))

/-- The sharer index for an HDM-DB decoder of an LD: its own, or the lowest free one (R264). -/
def Dev.indexFor (d : Dev) (p : PortId) (ld : Nat) : Option Nat :=
  match d.sharerOf p ld with
  | some i => some i
  | none => (List.range 16).find? fun i => !d.flag (Fld.cohSharerMap_v i)

/-- One commit takes effect, or fails with Error Not Committed. -/
def Dev.commitDecoder (d : Dev) (p : PortId) (ld : Nat) (i : Fin 8) (c : HdmCfg) : Dev :=
  let fail := d.modLd p ld fun l => { l with decError := l.decError ||| BitVec.ofNat 8 (2 ^ i.val) }
  let take := fun (d : Dev) => d.modLd p ld fun l => { l with dec := vmod l.dec i.val fun _ => some ⟨c, none⟩ }
  if ¬ d.decoderOk p ld i c then fail
  else if c.bi then match d.indexFor p ld with
    | none => fail
    | some j =>
      take (d.setReg (Off.cohSharerMap j) (BitVec.ofNat 32 (2 ^ 31 + portIdx p * 2 ^ 16 + ld % 16 * 2 ^ 12 + c.biId % 2 ^ 12)))
  else take d

/-- The commits that fall due at a boundary. -/
def Dev.commitDecoders (d : Dev) : Dev :=
  [PortId.a, .b].foldl (fun d p => (List.range 16).foldl (fun d ld =>
    let due := (d.ldOf p ld).decPend
    let d := d.modLd p ld fun l => { l with decPend := [] }
    due.foldl (fun d (e : Fin 8 × HdmCfg) => d.commitDecoder p ld e.1 e.2) d) d) d

/-- HDM_DECODER_COMMIT (R338): acts at the next pour boundary. Hosts reach the registers from TRAIN on. -/
def execHdmDecoderCommit (port : PortId) (ld : Nat) (idx : Fin 8) (cfg : HdmCfg) (s : State) :
    Host.Outcome State Fault Refusal :=
  s.on fun d =>
    if d.live && d.mode != .fill && d.mode != .boot && d.hostPort port && d.fld (Fld.prtLinkSts_state (portIdx port)) == 2 then
      d.modLd port ld fun l => { l with
        decError := l.decError &&& ~~~(BitVec.ofNat 8 (2 ^ idx.val)), decPend := l.decPend.filter (·.1 != idx) ++ [(idx, cfg)] }
    else d

/-- THERMAL_HOLD_END (R42, R59): the wake condition has held for 65,536 pours. The release has its event (R140). -/
def Dev.edgeThermalHoldEnd (d : Dev) : Dev :=
    match d.thm.wakeCool with
    | some p =>
      if d.thm.hold && decide (p + 65536 ≤ d.now) then ({ d with thm := { d.thm with hold := false, wakeCool := none } }).raiseN 0x1C1 [] else d
    | none => d

end Sys2Proof.Machine
end

