-- ==== Sys2Proof/Machine/Brew.lean ====
section
/-! DEFINITION. Sys2Proof/Machine/Brew.lean: starting and ending brews, what an abort keeps (R399, R92, R120, R138, R254, R492),
and the sanitise of a block (R91, R93, R121). -/

namespace Sys2Proof.Machine

/-! ### The foreground brew (R398, R399, R406) -/

/-- The opcode behind a brew, 0 for one whose completion only the background status shows. -/
def workOpcode : Work → Nat
  | .pin _ _ _ _ _ _ _ => 0xC070
  | .flush _ _ _ => 0xC071
  | .nearSize _ => 0xC072
  | .compact _ _ _ => 0xC081
  | .test _ _ => 0xC040
  | _ => 0

/-- Brings MBOX_BREW_STS up to date: the kind, and the steps done against the steps planned. -/
def Dev.syncBrew (d : Dev) : Dev :=
  let d := match d.mb.fg with
    | some b => (d.setFld Fld.mboxBrewSts_kind b.kind).setFld Fld.mboxBrewSts_pct
        (if b.planned = 0 then 0 else min 100 (100 * b.done / b.planned))
    | none => (d.setFld Fld.mboxBrewSts_kind 0).setFld Fld.mboxBrewSts_pct 0
  let rekey : Bool := match d.cry.rekey with | some r => r.phase != .requested | none => false
  let bits := (d.mb.internal.map fun (b : Brew) => 2 ^ (b.kind - 0x10)).foldl (· ||| ·) (if rekey = true then 4 else 0)
  d.setFld Fld.mboxBrewSts_internal bits

/-- Starts the foreground brew. -/
def Dev.startFg (d : Dev) (kind : Nat) (i : Option Iface) (w : Work) (planned : Nat) : Dev :=
  ({ d with mb := { d.mb with fg := some ⟨kind, i, w, 0, planned, false, 0⟩, bg := 0 } }).syncBrew

/-- Ends the foreground brew: the background status takes the code, and its command's output is delivered. -/
def Dev.endFg (d : Dev) (rc : Nat) (out : Payload) : Dev :=
  match d.mb.fg with
  | none => d
  | some b =>
    let d := ({ d with mb := { d.mb with fg := none, bg := rc } }).syncBrew
    match b.iface with
    | some i => if workOpcode b.work = 0 then d else d.complete i (workOpcode b.work) rc out
    | none => d

/-- A number put into a rising list. -/
def insertAsc (n : Nat) : List Nat → List Nat
  | [] => [n]
  | x :: xs => if n ≤ x then n :: x :: xs else x :: insertAsc n xs

/-- A list of numbers in rising order. -/
def sortAsc (l : List Nat) : List Nat := l.foldr insertAsc []

/-- The locators that a result lists (R498): ascending, at most 1,023. -/
def listedLocs (locs : List (BitVec 64)) : List (BitVec 64) := ((sortAsc (locs.map BitVec.toNat)).map (BitVec.ofNat 64)).take 1023

/-- The output of XT_BIST_RUN (R498). -/
def bistOut (result : Nat) (locs : List (BitVec 64)) : Payload :=
  let n := min 1023 locs.length
  [BitVec.ofNat 8 result, if 1023 < locs.length then 1 else 0] ++ leBytes 2 n ++
    (listedLocs locs).flatMap fun l => leBytes 8 l.toNat

/-- RESULT, RUN and the event of a test that ends (R498, R504); the device issues the locators of the failing places (R21). -/
def Dev.bistResult (d : Dev) (result : Nat) (locs : List (BitVec 64)) : Dev :=
  let d := locs.foldl Dev.issueLoc { d with bist := { d.bist with run := none } }
  let d := (d.setFlag Fld.rasBistSts_run false).setFld Fld.rasBistSts_result result
  d.raiseN (if result = 1 ∨ result = 2 then 0x1F9 else if result = 3 then 0x1FA else 0x1F8) []

/-- A test's unit returns: an engine under test serves again, a far channel stays as its test found it. -/
def Dev.returnUnit (d : Dev) : Dev :=
  match d.prs.underTest with
  | some e => ({ d with prs := { d.prs with underTest := none } }.setBit Fld.prsSts_engOk e.val true).dispatchJobs
  | none => d

/-- The far channel that a test has overwritten (R485, R496): on a pass Active, every stored page lost-fresh; on a failure Lost. -/
def Dev.farTested (d : Dev) (c : Nat) (pass : Bool) : Dev :=
  let mine := fun (k : Nat) => k / 2 ^ 34 == c
  let page := fun (k : Nat) => decide (k < 2 ^ 31) && k / 2 ^ 28 == c
  let lost := Sparse.put false (d.mem.lostFresh.drop page) (lostBase c) true
  let d := { d with mem := { d.mem with
    far := Memory.clear d.mem.far mine, farPoison := d.mem.farPoison.drop mine, written := d.mem.written.drop page,
    lostFresh := lost, ctr := d.mem.ctr.drop page } }
  let d := d.modFch c fun f => { f with subtrees := [], scrubPos := 0, err := ErrTrack.reset }
  if pass then
    let d := d.setFld (Fld.farChSts_state c) 2
    let now := d.now
    -- the neighbour whose second copies this channel holds, and the one that holds its own (R168, R485)
    let alone := (interleave d.ileave).any fun x => x != c && d.served x == c && d.farLost x
    let d := d.modFch c fun f => { f with trained := true, lastReq := now, lossDue := false, metaSingle := alone }
    -- the pair's domain powers up again (R324)
    ((d.modFch (d.served c) fun f => { f with metaSingle := false }).powerOn (6 + c / 2)).floorMoved
  else if d.farLost c then d else d.loseFar c

/-- The arrays of a group after their test: filled with valid check bits, their contents lost (R497). -/
def Dev.arraysCleared (d : Dev) (index : Nat) : Dev :=
  match index with
  | 0 => ({ d with home := { d.home with dir := [], imprecise := [] } }).arrayFilled .directory
  | 1 => ({ d with crm := { d.crm with tagCache := [], pred := [] } }).arrayFilled .tagCache
  | 2 => ({ d with cry := { d.cry with cache := [] } }).arrayFilled .metadataCache
  | 3 => ({ d with prs := { d.prs with jobs := [], engines := Vector.replicate 4 none } }).arrayFilled .pressSram
  | 4 => ({ d with sched := [] }).arrayFilled .lineBufferPool
  | 5 => ({ d with ext := [] }).arrayFilled .extentTable
  | _ => d

/-- The channels of a quadrant after their test (R497): frames empty, lines zero. -/
def Dev.quadrantCleared (d : Dev) (q : Nat) : Dev :=
  let mine := fun (g : Nat) => decide (quadrantOf (d.framePhys g) = q)
  let frames := d.frames.filter fun (e : Nat × Frame) => !mine (262144 * d.near + e.1)
  ({ d with frames := frames, mem := { d.mem with
      crema := Memory.clear d.mem.crema (fun k => mine (k / 64)), cremaPoison := d.mem.cremaPoison.drop (fun k => mine (k / 64)) } }).countPinned

/-- What a test kind other than a rotation leaves behind when it ends before its last pass (R493, R496, R497): what it has
overwritten is lost, and what it fenced powers up again. -/
def Dev.abandonTest (d : Dev) (kind index : Nat) : Dev :=
  if kind = 2 then (d.quadrantCleared index).powerOn (2 + index)
  else if kind = 3 then d.farTested index false
  else if kind = 4 then (if index = 1 then d.powerOn 11 else d)
  else if kind = 5 then d.returnUnit
  else d.arraysCleared index

/-- A test ends before its last pass with a result: 3 the window left (R493), 4 aborted. -/
def Dev.stopTest (d : Dev) (kind index result : Nat) : Dev :=
  let d := if kind = 1 then
      match d.crm.rot with
      | some r =>
        if r.phase = 0 then d.dropRotation
        else { d with crm := { d.crm with rot := some { r with phase := max 3 r.phase, result := result } } }
      | none => d
    else d.abandonTest kind index
  d.bistResult result []

/-- A sanitise that ends before its boundary r has not taken effect (R92). -/
def Dev.dropSanitise (d : Dev) (t : TenantId) : Dev :=
  d.modTenant t fun s => { s with seq := s.seq.filter fun (q : TenantSeq) => q.r.isSome || q.kind != SeqKind.sanitise }

/-- What an abort of a brew does beyond ending it (R399). -/
def Dev.abortWork (d : Dev) (w : Work) : Dev :=
  match w with
  | .sanitise t _ _ => d.dropSanitise t
  | .nearSize _ =>
    let d := { d with crm := { d.crm with bypassWalk := none } }
    (d.setFlag Fld.crmSts_bypass false).setFlag Fld.crmSts_walk false
  | .test kind index => d.stopTest kind index 4
  | .compact _ _ _ => d.setFlag Fld.prsSts_compact false
  | .fwVerify n =>
    ({ d with can := { d.can with slots := vmod d.can.slots n.val fun (x : Slot) => { x with valid := false } } }).syncCanister
  | _ => d

/-- Output of a brew that stops where it is. -/
def workOut : Work → Payload
  | .pin _ _ _ _ _ pinned refused => leBytes 4 pinned ++ leBytes 4 refused
  | .flush _ _ lines => leBytes 8 lines
  | .compact _ moved left => leBytes 4 moved ++ leBytes 4 left
  | .test _ _ => bistOut 4 []
  | _ => []

/-- Aborts the foreground brew. -/
def Dev.abortFg (d : Dev) (rc : Nat) : Dev :=
  match d.mb.fg with
  | some b => (d.abortWork b.work).endFg rc (workOut b.work)
  | none => d

/-- Is the brew a test or repair brew (R56)? -/
def isTest : Work → Bool
  | .test _ _ => true
  | _ => false

/-! ### Taking content out of a block (R91, R93, R121) -/

/-- The block of a far stored page. -/
def Dev.blockOfPage (d : Dev) (cpg : Nat) : Nat := cpg / d.pagesPerShare

/-- Cuts a range of lines out of a poison list. -/
def cutRecs (first len : Nat) (l : List PoisonRec) : List PoisonRec :=
  l.flatMap fun (r : PoisonRec) =>
    if r.first + r.len ≤ first ∨ first + len ≤ r.first then [r]
    else
      (if r.first < first then [(⟨r.first, first - r.first, r.src⟩ : PoisonRec)] else []) ++
      (if first + len < r.first + r.len then [(⟨first + len, r.first + r.len - (first + len), r.src⟩ : PoisonRec)] else [])

/-- The records of a DPA block leave the list of the LD that reaches it (R344). -/
def Dev.unlistBlock (d : Dev) (t : TenantId) (dpaBlock : Nat) : Dev :=
  d.modLd (d.tntPort t) (d.tntLd t) fun l => { l with poison := cutRecs (dpaBlock * 2 ^ 22) (2 ^ 22) l.poison }

/-- Invalidates without writeback the frames that cache pages of a far block. -/
def Dev.dropBlockFrames (d : Dev) (b : Nat) (comp : Bool) : Dev :=
  let d := d.frames.foldl (fun d (e : Nat × Frame) =>
    let (set, way) := (e.1 / 16, e.1 % 16)
    if e.2.st ≠ 0 ∧ e.2.c = comp ∧ d.pageOf set e.2.tag / 65536 = b then d.dropFrame set way else d) d
  { d with prs := { d.prs with jobs := d.prs.jobs.filter fun j => !(comp && j.page / 65536 == b) } }

/-- Marks every page of an uncompressed far block fresh. -/
def Dev.freshBlock (d : Dev) (b : Nat) : Dev :=
  let mine := fun (cli : Nat) => d.blockOfPage (cli % 2 ^ 34 / 64) == b
  let page := fun (k : Nat) => decide (k < 2 ^ 31) && d.blockOfPage (k % 2 ^ 28) == b
  let lost := ((interleave d.ileave).filter fun c => d.mem.lostFresh.has (lostBase c)).foldl (fun (m : NatSet) c =>
    (List.range d.pagesPerShare).foldl (fun (m : NatSet) i => setLost m c (b * d.pagesPerShare + i) false) m)
    (d.mem.lostFresh.drop page)
  { d with mem := { d.mem with
      far := Memory.clear d.mem.far mine
      farPoison := d.mem.farPoison.drop mine
      written := d.mem.written.drop page
      lostFresh := lost } }

/-- Writes zeros over a near block. A line of it that a channel loss took is lost no longer (R122). -/
def Dev.zeroNear (d : Dev) (b : Nat) : Dev :=
  { d with
    mem := { d.mem with
      crema := Memory.clear d.mem.crema (fun k => k / 64 / 65536 == b)
      cremaPoison := d.mem.cremaPoison.drop (fun k => k / 64 / 65536 == b) }
    crm := { d.crm with rebuilds := d.crm.rebuilds.map fun (r : Rebuild) => { r with blocks := r.blocks.erase b } } }

/-- Overwrites sectors of a channel with zeros. -/
def Dev.zeroSectors (d : Dev) (c s n : Nat) : Dev :=
  let mine := fun (k : Nat) => decide (farKey c (8 * s) ≤ k) && decide (k < farKey c (8 * s) + 8 * n)
  { d with mem := { d.mem with far := Memory.clear d.mem.far mine, farPoison := d.mem.farPoison.drop mine } }

/-- Releases every page of an exposed block: entries bare, sectors freed, and overwritten with zeros where `zero` says so (R91). -/
def Dev.releaseExposed (d : Dev) (b : Nat) (zero : Bool) : Dev :=
  let d := (List.range 65536).foldl (fun d i =>
    match d.pagePlace (b * 65536 + i) with
    | some pl => match d.mapEntry pl with
      | some m => if m.st = 0 then d else
          let d := d.countChain pl.pool (decide (0 < m.ovfLen)) false
          let d := if zero then (d.zeroSectors pl.ch m.home m.homeSectors).zeroSectors pl.ch (d.spareFirst pl.ch + m.ovf) m.ovfLen else d
          (d.setMapEntry pl (MapEntry.bare 0)).releaseEntry pl m
      | none => d.setMapEntry pl (MapEntry.bare 0)
    | none => d) d
  match d.poolOf b with | some n => d.syncPool n | none => d

/-- Secure Erase of one media block of this member, or its Sanitize, which overwrites freed sectors as well (R91). -/
def Dev.wipeBlock (d : Dev) (far comp zero : Bool) (b : Nat) : Dev :=
  if ¬ far then d.zeroNear b
  else
    let d := d.dropBlockFrames b comp
    (if comp then d.releaseExposed b zero else d.freshBlock b).countPinned

/-- Takes the content out of a far block of another member, which holds uncompressed blocks only: every line is written with zeros over
Relay, as no message marks a page fresh there (log entry 83). A member that does not serve has nothing left to wipe: it erases itself
(R381). -/
def Dev.wipeRemote (d : Dev) (m b : Nat) : Dev :=
  if d.memberServing m then
    (List.range (2 ^ 22)).foldl (fun d k =>
      let tag := d.nextTxn
      let msg : RelayMsg := { d.mgmtMsg m 4 with tag := tag % 65536, line := mkMa m true (b * 2 ^ 28) / 64 + k }
      ({ d with nextTxn := tag + 1 }).sendDown msg Op.wr.opc (lineSlots 0)) d
  else d

/-- The DPA blocks of a tenant that an extent maps, in ascending order. -/
def Dev.mappedBlocks (d : Dev) (t : TenantId) : List Nat :=
  rangeWhere (d.extLen t) fun b => extV (d.extAt (d.extBase t + b))

/-- Queues media blocks for the internal block sanitise, each as medium + 4 × member, and block (R83, R86, R90, R399). -/
def Dev.queueWipe (d : Dev) (blocks : List (Nat × Nat)) : Dev :=
  if blocks.isEmpty then d
  else
    let old := d.mb.internal.findSome? fun (b : Brew) => match b.work with | .blockSanitise l => some l | _ => none
    match old with
    | some l =>
      ({ d with mb := { d.mb with internal := d.mb.internal.map fun (b : Brew) => match b.work with
          | .blockSanitise _ => { b with work := .blockSanitise (l ++ blocks), planned := b.planned + blocks.length }
          | _ => b } }).syncBrew
    | none => (d.startInternal 0x10 (.blockSanitise blocks) blocks.length).syncBrew

/-- Medium code of an extent: 0 near, 1 far, 2 far compressed. -/
def extMedium (w : Word) : Nat := if ¬ extFar w then 0 else if extC w then 2 else 1

end Sys2Proof.Machine
end

