-- ==== Sys2Proof/Machine/Modes.lean ====
section
/-! DEFINITION. Sys2Proof/Machine/Modes.lean: mode requests, DRAIN, HIBERNATE, DROWSE, DEGRADED and HALT (R38, R41, R42, R44, R45,
R52 to R60, R483, R487, R488). -/

namespace Sys2Proof.Machine

/-! ### Requests -/

/-- Are both the mode and the committed TARGET those of a request (R44)? -/
def Dev.requested (d : Dev) (target : Nat) (modes : List Mode) : Bool :=
  !d.halted && modes.contains d.mode && (match d.due.target with | some (t, _) => t == target | none => false)

/-- The modes in which a DRAIN may be requested. -/
def drainModes : List Mode := [.await, .serve, .degraded, .drowse]

/-- The FLUSH of a committed request. -/
def Dev.targetFlush (d : Dev) : Bool := match d.due.target with | some (_, f) => f | none => false

/-- DRAIN begins (R55): the mode held is kept, and a rotation's copy is abandoned unless HIBERNATE follows (R138). -/
def Dev.startDrain (d : Dev) (dest : Nat) (flush : Bool) (cause discard : Nat) : Dev :=
  let old := d.mode
  let d := d.enter .drain cause discard
  let d := (d.setFld Fld.glbModeSts_drainDest dest).setFlag Fld.glbModeSts_drained false
  let now := d.now
  let d := { d with due := { d.due with drainStep := 1, drainAt := now, drainFlush := flush, returnMode := old } }
  -- DRAIN ends a test of a crypto pipeline or an engine, and of a rotation that does not wait for HIBERNATE (R494, R138)
  match d.mb.fg with
  | some b => match b.work with
    | .test kind _ =>
      if kind = 4 ∨ kind = 5 ∨ (kind = 1 ∧ dest ≠ 3 ∧ dest ≠ 4) then d.abortFg rcAborted else d
    | _ => d
  | none => d

/-- MODE_REQ_DRAIN_RESET (R44). -/
def Dev.edgeModeReqDrainReset (d : Dev) : Dev :=
  if d.requested 1 drainModes then d.takeTarget.startDrain 1 d.targetFlush 1 0 else d

/-- MODE_REQ_DRAIN_REMOVAL (R44). -/
def Dev.edgeModeReqDrainRemoval (d : Dev) : Dev :=
  if d.requested 2 drainModes then d.takeTarget.startDrain 2 d.targetFlush 1 0 else d

/-- MODE_REQ_DRAIN_HIBERNATE (R44). -/
def Dev.edgeModeReqDrainHibernate (d : Dev) : Dev :=
  if d.requested 3 [.serve, .degraded, .drowse] then d.takeTarget.startDrain 3 d.targetFlush 1 0 else d

/-- MODE_REQ_DRAIN_MAINT (R44). -/
def Dev.edgeModeReqDrainMaint (d : Dev) : Dev :=
  if d.requested 5 drainModes then d.takeTarget.startDrain 5 d.targetFlush 1 0 else d

/-- MODE_REQ_WAKE (R59, R60): the wake from software HIBERNATE begins at this boundary. -/
def Dev.edgeModeReqWake (d : Dev) : Dev :=
    if d.requested 4 [.hibernate] && d.fld Fld.glbModeSts_drainDest == 3 then
      let now := d.now
      let d := d.takeTarget
      { d with due := { d.due with wakeAt := some (d.due.wakeAt.getD now) } }
    else d

/-- Scrub and rekey resume at their kept positions (R55, R60). -/
def Dev.resumeBackground (d : Dev) : Dev :=
  ({ d with due := { d.due with rekeyPaused := false } }).setFlag Fld.cryRekeySts_paused false

/-- Is a lifecycle burn due or under way, or are identity keys generated (R452, R453)? -/
def Dev.advancing (d : Dev) : Bool := d.sec.burnDue.isSome || d.sec.burn.isSome || d.sec.keygen

/-- MODE_REQ_LEAVE_MAINT (R38, R44): to AWAIT once the far tier has trained since the last cold reset, else to TRAIN. What an
advance of the lifecycle does, it does before (R453). -/
def Dev.edgeModeReqLeaveMaint (d : Dev) : Dev :=
    if d.requested 6 [.maint] && !d.flag Fld.rasBistSts_coldReq && !d.advancing then
      let d := d.takeTarget.resumeBackground
      if d.due.trained then (d.enter .await 1 0).atAwait else (d.enter .train 1 0).populate
    else d

/-! ### DRAIN (R55, R56) -/

/-- DRAIN_LAST_TRANSACTION_CLOSED (R55): requests that come later are held; the flush starts where it is asked for and the
destination is not thermal HIBERNATE. -/
def Dev.edgeDrainLastTransactionClosed (d : Dev) : Dev :=
    if d.mode == .drain && !d.halted && d.due.drainStep == 1 && d.txns.all (fun x => x.phase == .modeHeld) then
      let flush := d.due.drainFlush && d.fld Fld.glbModeSts_drainDest != 4
      let now := d.now
      { d with due := { d.due with drainStep := if flush then 2 else 3, drainAt := now } }
    else d

/-- Writes every dirty line of the cache to the far tier (R119). -/
def Dev.flushFrame (d : Dev) (i : Nat) : Nat × Dev :=
  let (set, way) := (i / 16, i % 16)
  let f := d.frame set way
  if f.st = 1 ∧ f.dirty ≠ 0 then
    if f.c then
      match d.storeFrame set way d.enginesOk.isEmpty with
      | (.wait, d) => (0, d)
      | (_, d) => (ones f.dirty, d)
    else (ones f.dirty, (d.settleFrame set way).writebackFrame set way .b)
  else (0, d)

/-- Flushes frames, counting the lines written back. -/
def Dev.flushFrames (d : Dev) (l : List Nat) : Nat × Dev :=
  l.foldl (fun (n, d) i => let (m, d) := d.flushFrame i; (n + m, d)) (0, d)

/-- Is a dirty line left in the cache? -/
def Dev.anyDirty (d : Dev) : Bool := d.frames.any fun (e : Nat × Frame) => e.2.st != 0 && e.2.dirty != 0

/-- DRAIN_FLUSH_COMPLETE (R55): the step goes on while a compressed store waits for a sector or an engine. -/
def execDrainFlushComplete (s : State) (errs : LineErrs := []) : Host.Outcome State Fault Refusal :=
  s.on fun d =>
    if d.mode == .drain && !d.halted && d.due.drainStep == 2 then
      let d := d.foundDirty (fun _ => true) errs
      let (_, d) := d.flushFrames (Sparse.keys d.frames)
      let now := d.now
      if d.anyDirty then d else { d with due := { d.due with drainStep := 3, drainAt := now } }
    else d

/-- DRAIN_PAUSE_BOUNDARY (R55): patrol scrub and rekey pause; DRAINED is set. -/
def Dev.edgeDrainPauseBoundary (d : Dev) : Dev :=
    if d.mode == .drain && !d.halted && d.due.drainStep == 3 then
      let now := d.now
      let d := { d with due := { d.due with drainStep := 4, drainAt := now, rekeyPaused := true } }
      (d.setFlag Fld.cryRekeySts_paused d.cry.rekey.isSome).setFlag Fld.glbModeSts_drained true
    else d

/-- A channel enters self-refresh (R162). -/
def Dev.sleepChannel (d : Dev) (c : Nat) : Dev :=
  ((d.setFld (Fld.farChSts_state c) 3).setBit Fld.glbModeSts_sleepCh c true).modFch c fun f => { f with wakeBy := none }

/-- A channel leaves self-refresh (R163): each physical rank is refreshed on both subchannels before any activate, and the MR4 and
oscillator readings of its first 16 pours are due. -/
def Dev.wakeChannel (d : Dev) (c : Nat) : Dev :=
  let now := d.now
  let d := (d.setFld (Fld.farChSts_state c) 2).setBit Fld.glbModeSts_sleepCh c false
  let d := d.modFch c fun f => { f with wakeBy := none, lastReq := now, dqsNext := now, mr4Next := now }
  (List.range (d.physRanks c)).foldl (fun d _ => (d.farRefreshCmd c 0).farRefreshCmd c 1) d

/-- Every channel of the set enters self-refresh, or those asleep leave it (R58, R60). -/
def Dev.allSleep (d : Dev) (on : Bool) : Dev :=
  (interleave d.ileave).foldl (fun d c =>
    if d.farLost c then d
    else if on then d.sleepChannel c
    else if d.fld (Fld.farChSts_state c) = 3 then d.wakeChannel c else d) d

/-- Has a far channel no request, re-centring step, repair, refresh or neighbour refresh outstanding (R160, R162)? -/
def Dev.farQuiet (d : Dev) (c : Nat) : Bool :=
  (d.fch c).recentre.isNone && (d.fch c).ppr.isNone && (d.fch c).nbr.isEmpty && (d.queueOf (64 + 2 * c)).isEmpty &&
  (d.queueOf (65 + 2 * c)).isEmpty && !(d.slotSet (64 + 2 * c)).refreshing && !(d.slotSet (65 + 2 * c)).refreshing

/-- May the whole far tier enter self-refresh? -/
def Dev.allQuiet (d : Dev) : Bool := (interleave d.ileave).all fun c => d.farLost c || d.farQuiet c

/-- Suspends the foreground brew, or lets it go on (R56). -/
def Dev.suspendFg (d : Dev) (on : Bool) : Dev :=
  { d with mb := { d.mb with fg := d.mb.fg.map fun b => { b with suspended := on } } }

/-- A queued hard PPR list is applied at MAINT entry (R502): each repair begins when its channel is free. -/
def Dev.startHppr (d : Dev) : Dev :=
  match d.mb.hppr with
  | [] => d
  | l :: _ =>
    let c := locChan l
    if (d.fch c).ppr.isSome then d
    else
      let now := d.now
      let n := d.rowLines c
      d.modFch c fun f => { f with ppr := some (l, now, true), pprBufs := n }

/-- MAINT is entered: held requests complete under R549, queued hard repairs begin. -/
def Dev.atMaint (d : Dev) : Dev := d.releaseHeld.startHppr

/-- DRAIN ends in removal (R56): the removal hold is set, the gates go low and the main rail with them. -/
def Dev.leaveForRemoval (d : Dev) : Dev :=
  let d := d.abortFg rcAborted
  let d := (d.setFlag Fld.inlSts_removal true).modRecord fun r => { r with marker := false }
  (d.setInlet .off).mainGone

/-- DRAIN ends in HIBERNATE (R56, R58): the foreground brew is suspended, the channels sleep; a request held at the entry
wakes a software HIBERNATE (R59). -/
def Dev.leaveForSleep (d : Dev) : Dev :=
  let d := (d.suspendFg true).allSleep true
  let d := d.enter .hibernate 0 0
  let d := { d with thm := { d.thm with wakeCool := none } }
  let wake := d.fld Fld.glbModeSts_drainDest == 3 && d.txns.any fun x => x.phase == .modeHeld
  { d with due := { d.due with wake := d.due.wake || wake } }

/-- DRAIN_DESTINATION_ACTION (R56). HIBERNATE waits until every channel may sleep (R162). -/
def Dev.edgeDrainDestinationAction (d : Dev) : Dev :=
    if d.mode == .drain && !d.halted && d.due.drainStep == 4 then
      let dest := d.fld Fld.glbModeSts_drainDest
      let sleep := dest == 3 || dest == 4
      let d := if sleep && !d.allQuiet then d else { d with due := { d.due with drainStep := 5 } }
      if d.due.drainStep = 4 then d
      else if dest = 1 then d.abortFg rcAborted
      else if dest = 2 then d.leaveForRemoval
      else if dest = 5 then
        let test := match d.mb.fg with | some b => isTest b.work | none => true
        let d := if test then d else d.abortFg rcAborted
        (d.enter .maint 0 0).atMaint
      else d.leaveForSleep
    else d

/-! ### The thermal trip (R42) -/

/-- Records a change that keeps the mode. -/
def Dev.sameMode (d : Dev) (cause discard : Nat) : Dev :=
  d.raiseN 0x100 [word1 d.mode.code, word1 d.mode.code, word1 cause, word1 discard]

/-- The thermal trip threshold acts at this boundary; a request committed for the same boundary is discarded (R45). -/
def Dev.thermalTrip (d : Dev) : Dev :=
  let cause := causeOf 0x1C1
  let discard := d.discarded
  let dest := d.fld Fld.glbModeSts_drainDest
  match d.mode with
  | .fill | .boot | .train =>
    if d.thm.hold then d
    else ({ d with thm := { d.thm with hold := true, wakeCool := none } }.raiseN 0x1C1 []).alert 6
  | .await | .serve | .degraded | .drowse | .maint =>
    ((d.takeTarget.startDrain 4 false cause discard).raiseN 0x1C1 []).alert 6
  | .drain =>
    if dest = 4 then d
    else
      let d := d.setFld Fld.glbModeSts_drainDest 4
      let n := d.due.drainStep
      let step := if n = 2 then 3 else if n = 5 then 4 else n
      let d := { d with due := { d.due with drainStep := step, drainFlush := false } }
      ((d.takeTarget.sameMode cause (discard + dest * 16)).raiseN 0x1C1 []).alert 6
  | .hibernate =>
    let woke := d.due.wakeAt.isSome
    let d := { d with due := { d.due with wakeAt := none, wake := false }, thm := { d.thm with wakeCool := none } }
    let d := if woke then { d.allSleep true with due := { d.due with rekeyPaused := true } } else d
    if dest = 4 then d
    else
      let d := (d.setFld Fld.glbModeSts_drainDest 4).takeTarget
      ((d.sameMode cause (discard + dest * 16)).raiseN 0x1C1 []).alert 6
  | _ => d

/-! ### HIBERNATE (R59, R60) -/

/-- THERMAL_WAKE_COUNT_EXPIRY (R59). -/
def Dev.edgeThermalWakeCountExpiry (d : Dev) : Dev :=
    match d.thm.wakeCool with
    | some p =>
      if d.mode == .hibernate && !d.halted && d.fld Fld.glbModeSts_drainDest == 4 && decide (p + 65536 ≤ d.now) then
        let now := d.now
        { d with due := { d.due with wakeAt := some (d.due.wakeAt.getD now) } }
      else d
    | none => d

/-- Pours since the trigger of a wake under way (R60). -/
def Dev.wokenFor (d : Dev) : Option Nat := if d.mode = .hibernate then d.due.wakeAt.map fun t => d.now - t else none

/-- What a wake does before its end (R60): at pour 64 every channel leaves self-refresh, at pour 180 scrub and rekey resume, unless
MAINT is the mode to return to. -/
def Dev.wakeStep (d : Dev) : Dev :=
  match d.wokenFor with
  | some n =>
    if n = 64 then d.allSleep false
    else if n = 180 ∧ d.due.returnMode ≠ .maint then d.resumeBackground else d
  | none => d

/-- WAKE_COMPLETE (R60, R42): 196 pours after the trigger the mode held before DRAIN returns. -/
def Dev.edgeWakeComplete (d : Dev) : Dev :=
    match d.due.wakeAt with
    | some t =>
      if d.mode == .hibernate && !d.halted && decide (t + 196 ≤ d.now) then
        let back := if d.due.returnMode = .drowse then .serve else d.due.returnMode
        let thermal := d.fld Fld.glbModeSts_drainDest == 4
        let d := { d with due := { d.due with wakeAt := none, wake := false, drainStep := 0 } }
        -- the release of a thermal action has its event too (R140)
        let d := if thermal then d.raiseN 0x1C1 [] else d
        let d := d.allSleep false
        let d := if back = .maint then d else d.resumeBackground
        let d := (d.hwEnter back 0).suspendFg false
        if back = .maint then d.atMaint else if back = .await then d else d.releaseHeld
      else d
    | none => d

/-! ### DROWSE (R52, R53, R41) -/

/-- Does a running brew touch a far channel (R52): one that its reads and writes have reached, or that it tests? -/
def Dev.brewTouches (d : Dev) (c : Nat) : Bool :=
  let one := fun (b : Brew) => !b.suspended && (b.touched.getLsbD c || (match b.work with
    | .test kind i => kind == 3 && i == c
    | _ => false))
  (match d.mb.fg with | some b => one b | none => false) || d.mb.internal.any one

/-- Does a tenant with a guarantee hold a far block of this device? Every block lies on every channel of the set. -/
def Dev.guaranteeFar (d : Dev) : Bool :=
  allTenants.any fun t => 0 < d.guar t && d.ext.any fun e =>
    extV e.2 && extFar e.2 && extMember e.2 == d.chainId && d.extBase t ≤ e.1 && e.1 < d.extBase t + d.extLen t

/-- May a far channel sleep (R52, R160, R162)? Its idle pours count as log entry 95 says. -/
def Dev.maySleep (d : Dev) (c : Nat) : Bool :=
  d.flag Fld.glbDrowseCtl_en && d.fld (Fld.farChSts_state c) == 2 && (d.fch c).lastReq + d.fld Fld.glbDrowseCtl_idle ≤ d.now &&
  !d.guaranteeFar && d.cry.rekey.isNone && !d.brewTouches c && d.farQuiet c && d.txns.all fun x => !(x.phase == .far && d.txnChannel x == some c)

/-- Does the device lose a unit while channels sleep (R41)? Then none falls asleep any more. -/
def Dev.degrading (d : Dev) : Bool := d.due.degradeCause.isSome || d.due.degrade.isSome

/-- No channel sleeps any more (R52, R41): SERVE at this boundary, or DEGRADED where a unit was lost meanwhile. -/
def Dev.leaveDrowse (d : Dev) : Dev :=
  if d.mode == .drowse && d.fld Fld.glbModeSts_sleepCh == 0 then
    match d.due.degradeCause with
    | some c => ({ d with due := { d.due with degradeCause := none } }).hwEnter .degraded c
    | none => d.hwEnter .serve 0
  else d

/-- DROWSE_IDLE_EXPIRY (R52). -/
def Dev.edgeDrowseIdleExpiry (ch : FarCh) (d : Dev) : Dev :=
    if (d.mode == .serve || d.mode == .drowse) && !d.halted && !d.degrading && d.maySleep ch.val then
      let d := d.sleepChannel ch.val
      if d.mode = .serve then d.hwEnter .drowse 0 else d
    else d

/-- CHANNEL_WAKE (R53, R52, R41): the channel leaves self-refresh. The boundary at which the last one wakes is SERVE; after a loss
the next boundary is DEGRADED. -/
def Dev.edgeChannelWake (ch : FarCh) (d : Dev) : Dev :=
  let c := ch.val
  if d.live && d.mode != .hibernate && d.fld (Fld.farChSts_state c) == 3 && (d.fch c).wakeBy.isSome then
    let d := d.wakeChannel c
    if d.due.degradeCause.isSome then d else d.leaveDrowse
  else d

/-- UNIT_RESTORED (R483). -/
def Dev.edgeUnitRestored (d : Dev) : Dev :=
    if d.mode == .degraded && !d.halted && !d.unitLost then (d.raiseN 0x1D2 []).hwEnter .serve (causeOf 0x1D2) else d

/-! ### HALT (R486 to R488) -/

/-- HALT_ENTRY (R487): a cause is detected. The causes with an event of their own record it first (R218, R363, R467). -/
def execHaltEntry (cause : HaltCause) (chid : BitVec 16) (loc : BitVec 64) (s : State) : Host.Outcome State Fault Refusal :=
  s.on fun d =>
    match cause with
    | .farMac | .treeTag | .counterExhaustion | .relayIntegrity =>
      if d.mode.mayHalt || d.mode == .halt then d.integrityFail cause chid loc [word1 (haltCode cause)] else d
    | .debug =>
      if d.mode.mayHalt && (!d.halted || d.haltNow) then (d.raise { num := 0x1F4, chid := some chid, loc := loc }).haltBy cause chid loc
      else d.haltBy cause chid loc
    | _ => d.haltBy cause chid loc

/-- The event that caused a HALT: its own one, or EVT_HALT (R548). -/
def haltEvent (code : Nat) : Nat :=
  if code ≤ 4 then 0x150 else if code = 7 then 0x1F4 else 0x1D0

/-- In HALT no brew takes another step, and the commands in progress end with the answer that HALT gives them (R392, log entry 82). -/
def Dev.haltCommands (d : Dev) : Dev :=
  let run := d.mb.running
  run.foldl (fun d (r : Iface × Nat) => d.complete r.1 r.2 rcMediaDisabled []) { d with mb := { d.mb with stepDue := false } }

/-- HALT_BOUNDARY (R487): MODE reads HALT, the records are written, ALERT_N is asserted, DRAM enters self-refresh. -/
def Dev.edgeHaltBoundary (d : Dev) : Dev :=
    match d.ras.haltAt with
    | some (_, code) =>
      if d.mode != .halt && d.mode.mayHalt then
        let d := d.enter .halt (causeOf (haltEvent code)) 0
        let d := d.raise { num := 0x1D0, chid := some (BitVec.ofNat 16 (d.fld Fld.rasHaltDetail_chid)),
                           loc := BitVec.ofNat 64 (d.fld Fld.rasHaltLocLo_loc + d.fld Fld.rasHaltLocHi_loc * 2 ^ 32),
                           detail := [word1 code] }
        let d := ((d.alert 2).allSleep true).haltCommands
        { d with ras := { d.ras with haltBoundary := true } }
      else d
    | none => d

/-- HALT_RECORD_WRITE (R488). -/
def execHaltRecordWrite (s : State) : Host.Outcome State Fault Refusal :=
  s.on fun d =>
    match d.ras.haltAt with
    | some (t, code) =>
      if d.mode == .halt && d.pwr.vaux then
        let before := (d.ras.recs.dropWhile fun r => r.code != 0x41D0).drop 1
        let r : HaltRec :=
          { cause := code, origin := d.fld Fld.rasHaltCause_origin, mode := d.fld Fld.rasHaltCause_mode, later := d.ras.later,
            at_ := t, chid := BitVec.ofNat 16 (d.fld Fld.rasHaltDetail_chid),
            loc := BitVec.ofNat 64 (d.fld Fld.rasHaltLocLo_loc + d.fld Fld.rasHaltLocHi_loc * 2 ^ 32),
            newest := before.take 3 }
        { d with can := { d.can with halt := some r } }
      else d
    | none => d

end Sys2Proof.Machine
end

