-- ==== Sys2Proof/Machine/Regs.lean ====
section
/-! DEFINITION. Sys2Proof/Machine/Regs.lean: what a read of BAR2 returns and clears, the windows, the snapshot, and who
reaches the registers (R409 to R413, R418 to R421, R427, R445, R449, R473, R490). -/

namespace Sys2Proof.Machine

/-! ### Words that are views -/

/-- HI word of a 48-bit counter: bits [47:32], and OVF in bit 31 (R449). -/
def hiWord (v : Nat) (ovf : Bool) : Word := BitVec.ofNat 32 (v / 2 ^ 32 % 65536 + bitOf ovf * 2 ^ 31)

/-- LO or HI word of a count that shows OVF once it has passed 48 bits. -/
def countWord (v : Nat) (hi : Bool) : Word := if hi then hiWord v (decide (2 ^ 48 ≤ v)) else BitVec.ofNat 32 v

/-- A general counter without a selection. -/
def Ctr.none : Ctr := ⟨0, 0, 0, false⟩

/-- General counter `n`. -/
def Dev.ctr (d : Dev) (n : Nat) : Ctr :=
  match d.pmu.ctrs.find? fun (e : Nat × Ctr) => e.1 == n with
  | some e => e.2
  | none => Ctr.none

/-- The OVF bits of 32 general counters from `first` on. -/
def Dev.ovfBits (d : Dev) (first : Nat) : Word :=
  (List.range 32).foldl (fun (w : Word) i => if (d.ctr (first + i)).ovf then w ||| BitVec.ofNat 32 (2 ^ i) else w) 0

/-- A word of the PMU pages behind the control page, at its offset in the page (R449). -/
def Dev.pmuWord (d : Dev) (o : Nat) : Word :=
  let r := o % 0x1000
  let hi := decide (o / 4 % 2 = 1)
  if o < 0x1000 then 0
  else if o < 0x2000 then
    if 0x200 ≤ r then 0 else (let c := d.ctr (r / 8); if hi then hiWord c.val c.ovf else BitVec.ofNat 32 c.val)
  else if o < 0x3000 then
    let s := Sparse.get Slots.none d.pmu.slots (r / 0x20)
    if 0xA00 ≤ r then 0
    else
      let k := r % 0x20 / 8
      countWord (if k = 0 then s.retired else if k = 1 then s.wasted else if k = 2 then s.back else s.front) hi
  else if o < 0x4000 then
    if 0x800 ≤ r then 0
    else countWord (Sparse.get 0 d.pmu.lines (r / 0x40 * 8 + r % 0x40 / 0x10 * 2 + r % 0x10 / 8)) hi
  else if o < 0x8000 then
    let h := vget Hist.reset d.pmu.hists ((o - 0x4000) / 0x1000)
    if r < 0x400 then BitVec.ofNat 32 (Sparse.get 0 h.bins (r / 4))
    else if r = 0x400 then BitVec.ofNat 32 h.under
    else if r = 0x404 then BitVec.ofNat 32 h.above
    else if r = 0x408 then BitVec.ofNat 32 h.min
    else if r = 0x40C then BitVec.ofNat 32 h.max
    else if r = 0x410 ∨ r = 0x414 then countWord h.count hi
    else if r = 0x418 ∨ r = 0x41C then countWord h.sum hi
    else 0
  else 0

/-- A word at a user alias: its page's word while its bit of `PMU_USER_EN` is 1 (R445). -/
def Dev.aliasWord (d : Dev) (o : Nat) : Word :=
  let p := o - 0x40000
  let bit := if p < 0x2000 then 0 else if p < 0x3000 then 1 else if p < 0x4000 then 2 else 3 + (p - 0x4000) / 0x1000
  if 0x1000 ≤ p ∧ p < 0x8000 ∧ bitAt (d.fld Fld.pmuUserEn_en) bit then d.pmuWord p else 0

/-- The 16 words of a ring record (R473). -/
def recWords (r : EventRec) : List Word :=
  let tnt := match r.tenant with | some t => 128 + t.val | none => 0
  let flags := (match r.cls with | some c => 1 + 2 * clsCode c | none => 0) + 8 * bitOf r.loss + 16 * bitOf r.fromMember
  [r.pour.setWidth 32, (r.pour >>> 32).setWidth 32,
   BitVec.ofNat 32 (r.cyc % 512 + r.sev % 16 * 2 ^ 12 + r.code % 65536 * 65536),
   BitVec.ofNat 32 (r.chid.toNat + tnt * 65536 + flags * 2 ^ 24),
   r.locator.setWidth 32, (r.locator >>> 32).setWidth 32, BitVec.ofNat 32 r.rseq, BitVec.ofNat 32 (satN 16 r.repeats)]
  ++ r.detail.take 8

/-- A word of the ring window (R490): the record that stands at a ring index. -/
def Dev.ringWord (d : Dev) (o : Nat) : Word :=
  match d.ras.recs.find? fun (r : EventRec) => r.rseq % 512 == o / 64 with
  | some r => (recWords r).getD (o % 64 / 4) 0
  | none => 0

/-- Does an offset of the ring window lie in a word that is stored poisoned (R181, R186)? -/
def Dev.ringBad (d : Dev) (o : Nat) : Bool :=
  decide (0x308000 ≤ o ∧ o < 0x310000) && d.wordBad .eventRing ((o - 0x308000) / 8)

/-- `NOC_RT_DATA` under its selection (R328). -/
def Dev.routeWord (d : Dev) : Word :=
  let bank := if d.flag Fld.nocRtSel_view then d.noc.routesStaged else d.noc.routes
  let (src, dst) := (d.fld Fld.nocRtSel_src, d.fld Fld.nocRtSel_dst)
  if 36 ≤ src ∨ 36 ≤ dst then 0 else BitVec.ofNat 32 (2 ^ 31 + routeIn bank (d.fld Fld.nocRtSel_net) src dst)

/-- The key of a slot entry. -/
def slotKey (net router out entry : Nat) : Nat := ((net * 36 + router) * 6 + out) * 512 + entry

/-- `NOC_SLOT_DATA` under its selection. -/
def Dev.slotWord (d : Dev) : Word :=
  let bank := if d.flag Fld.nocSlotSel_view then d.noc.slotsStaged else d.noc.slots
  let (r, p) := (d.fld Fld.nocSlotSel_router, d.fld Fld.nocSlotSel_port)
  if 36 ≤ r ∨ 6 ≤ p then 0
  else
    let v := Sparse.get 0 bank (slotKey (d.fld Fld.nocSlotSel_net) r p (d.fld Fld.nocSlotSel_entry))
    if v = 0 then 0 else BitVec.ofNat 32 (2 ^ 31 + (v - 1))

/-! ### Registers that change only at boundaries -/

/-- The registers whose words change only at pour boundaries (R126, R172, R200, R235, R261, R288, R310, R351, R386). -/
def boundaryReg (o : Nat) : Bool :=
  decide (0x20000 ≤ o) && decide (o < 0x48000) ||
  decide (0x100000 ≤ o) && decide (o < 0x140000) || o == Off.crmSts || decide (0x140100 ≤ o) && decide (o < 0x140180) ||
  decide (0x180000 ≤ o) && decide (o < 0x1A0000) && (o % 0x4000 == 0 || o % 0x4000 == 0xC) ||
  o == Off.rasScrubSts || o == Off.rasEccCnt ||
  decide (0x200000 ≤ o) && decide (o < 0x200070) && o != Off.cryCrmBound && o != Off.cryRekeySts ||
  decide (0x210000 ≤ o) && decide (o < 0x220000) ||
  o == Off.cohSts || o == Off.cohRetrySts || decide (0x220100 ≤ o) && decide (o < 0x220140) ||
  decide (0x230000 ≤ o) && decide (o < 0x240000)

/-- Takes the words that the rest of the pour shows: they stand from cycle 1 on as they are in cycle 0. -/
def Dev.show (d : Dev) : Dev := { d with shown := d.regs.filter fun (e : Nat × Word) => boundaryReg e.1 }

/-- The word of a plain register as it reads now: within a pour, a boundary register reads as in its cycle 0. -/
def Dev.shownWord (d : Dev) (o : Nat) : Word :=
  if boundaryReg o && d.clk.cyc.val != 0 then Sparse.get (resetWord o) d.shown o else d.reg o

/-! ### Reading -/

/-- `GLB_LC_STS` (R469). -/
def Dev.lcWord (d : Dev) : Word :=
  let okay := d.fuses.identity && !d.fuses.idDisable && (d.lifecycle == .provisioned || d.lifecycle == .production)
  BitVec.ofNat 32 (bitOf d.sec.keygen * 2 ^ 31 + bitOf okay * 2 ^ 30 + bitOf (d.flag Fld.glbLcSts_certOk) * 2 ^ 29 +
    bitOf (d.flag Fld.glbLcSts_jtagOpen) * 2 ^ 28 + bitOf d.sec.burn.isSome * 2 ^ 27 + satN 8 d.can.glitches * 65536 +
    d.fuses.svn % 128 * 256 + d.lifecycle.code)

/-- The word that a 4-byte read at `o` of the register pages finds, without its effects. -/
def Dev.view (d : Dev) (o : Nat) : Word :=
  let o := o / 4 * 4
  if 0x1400000 ≤ o then 0
  else if 0x1000000 ≤ o then Sparse.get 0 d.acc.snap (o - 0x1000000)
  else if 0x400000 ≤ o then 0
  else if 0x380000 ≤ o then
    let (i, r) := ((o - 0x380000) / 0x4000, (o - 0x380000) % 0x4000)
    if i < 3 ∧ 0x1000 ≤ r ∧ r < 0x3000 then BitVec.ofNat 32 (leNat (vget [] d.mb.window i) (r - 0x1000) 4)
    else d.shownWord o
  else if 0x308000 ≤ o ∧ o < 0x310000 then d.ringWord (o - 0x308000)
  else if 0x2C0000 ≤ o ∧ o < 0x300000 then d.aliasWord (o - 0x280000)
  else if 0x281000 ≤ o ∧ o < 0x2C0000 then d.pmuWord (o - 0x280000)
  else if o = Off.glbId then
    BitVec.ofNat 32 ((match d.part with | .xtp8640 => 0x8640 | .xtp8632 => 0x8632) * 65536 + Config.stepping.toNat * 256 + 1)
  else if o = Off.glbPourLo then d.clk.pour.setWidth 32
  else if o = Off.glbModeSts then setFieldOf (d.reg o) Fld.glbModeSts_mode.lo Fld.glbModeSts_mode.w d.mode.code
  else if o = Off.cryMajorNextLo then d.cry.majorNext.setWidth 32
  else if o = Off.stgCommitPourLo then d.stg.commitPour.setWidth 32
  else if o = Off.glbLcAdv then BitVec.ofNat 32 d.lifecycle.code
  else if o = Off.glbLcSts then d.lcWord
  else if o = Off.rasRingPtr then BitVec.ofNat 32 (d.ras.written % 512 * 65536 + d.ras.tail % 512)
  else if o = Off.rasRingSts then setFieldOf (d.reg o) Fld.rasRingSts_free.lo Fld.rasRingSts_free.w d.ras.freeEntries
  else if o = Off.rasRingSeq then BitVec.ofNat 32 (d.ras.written - 1)
  else if o = Off.pmuOvfLo then d.ovfBits 0
  else if o = Off.pmuOvfHi then d.ovfBits 32
  else if o = 0x80014 then d.routeWord
  else if o = 0x8001C then d.slotWord
  else if o = Off.snapCtl then setFieldOf (d.reg o) Fld.snapCtl_pending.lo 1 (bitOf d.acc.snapReq)
  else if o = Off.indAddr ∨ o = Off.indData then 0
  else d.shownWord o

/-- The bytes that a byte-enable picks. -/
def beMask (be : BitVec 4) : Word :=
  (List.range 4).foldl (fun (w : Word) i => if be.getLsbD i then w ||| BitVec.ofNat 32 (255 * 256 ^ i) else w) 0

/-- Clears what a read returned of RC fields: the bits it returned as 1, and from a count the value it returned (R413). -/
def Dev.readClear (d : Dev) (o : Nat) (returned : Word) : Dev :=
  if o = Off.pmuOvfLo ∨ o = Off.pmuOvfHi then
    let first := if o = Off.pmuOvfLo then 0 else 32
    { d with pmu := { d.pmu with ctrs := d.pmu.ctrs.map fun (e : Nat × Ctr) =>
        if first ≤ e.1 ∧ e.1 < first + 32 ∧ returned.getLsbD (e.1 - first) then (e.1, { e.2 with ovf := false }) else e } }
  else
    let w := returned &&& accMask (·.rc) o
    if w = 0 then d
    else
      let d := d.setReg o (d.reg o - w)
      let d := { d with shown := Sparse.put (resetWord o) d.shown o (Sparse.get (resetWord o) d.shown o - w) }
      -- INLET and THERMAL stand in both alert registers (R478, R525)
      if o = Off.rasAlertSts then d.setReg Off.thmAlert (d.reg Off.thmAlert &&& ~~~(w &&& 0x60))
      else if o = Off.thmAlert then d.setReg Off.rasAlertSts (d.reg Off.rasAlertSts &&& ~~~(w &&& 0x60))
      else d

/-- Is the Test and BIST page open (R421, R454)? -/
def Dev.testOpen (d : Dev) : Bool := d.lifecycle == .test || d.lifecycle == .rma

/-- A 4-byte read at `o`: the word, and the device after the read's effects. -/
def Dev.readWord (d : Dev) (o : Nat) (be : BitVec 4) : Word × Dev :=
  let o := o / 4 * 4
  let w := d.view o &&& beMask be
  if 0x400000 ≤ o ∧ o < 0x1000000 then (0, if d.testOpen then d else d.setFlag Fld.glbAccSts_locked true)
  else if 0x1000000 ≤ o then (w, d)
  else if o = Off.glbPourLo then
    (w, (d.setReg Off.glbPourHi ((d.clk.pour >>> 32).setWidth 32)).setReg Off.glbPourCyc (BitVec.ofNat 32 d.clk.cyc.val))
  else if o = Off.cryMajorNextLo then (w, d.setReg Off.cryMajorNextHi ((d.cry.majorNext >>> 32).setWidth 32))
  else if o = Off.stgCommitPourLo then (w, d.setReg Off.stgCommitPourHi ((d.stg.commitPour >>> 32).setWidth 32))
  else (w, d.readClear o w)

/-- The staged shadow of a register, as the window with SHADOW = 1 reads it: its RWS fields from the pending entry (R418). -/
def Dev.shadowWord (d : Dev) (o : Nat) : Word :=
  let m := accMask (·.rws) o
  (d.view o &&& ~~~m) ||| (d.pendReg o &&& m)

/-! ### The indirect window (R418) -/

/-- A source's `IND_ADDR`. -/
def Dev.indAddrOf (d : Dev) (src : Source) : Word := vget 0 d.acc.ind (srcIdx src)

/-- Changes a source's `IND_ADDR`: AUTO, SHADOW and OFFSET. -/
def Dev.setInd (d : Dev) (src : Source) (w : Word) : Dev :=
  { d with acc := { d.acc with ind := vmod d.acc.ind (srcIdx src) fun _ => w &&& 0xC1FFFFFC } }

/-- The BAR2 offset a window stands at. -/
def indOffset (w : Word) : Nat := fieldOf w 2 23 * 4

/-- After an access: with AUTO, OFFSET advances by 4 and wraps behind 0x01FF_FFFC. -/
def Dev.indStep (d : Dev) (src : Source) : Dev :=
  let a := d.indAddrOf src
  if a.getLsbD 31 then d.setInd src (setFieldOf a 2 23 (fieldOf a 2 23 + 1)) else d

/-- A read at `o` by a source. A window that stands at the window registers reads zero there (log entry 23). -/
def Dev.busRead (d : Dev) (src : Source) (o : Nat) (be : BitVec 4) : Word × Dev :=
  let a := d.indAddrOf src
  if o = Off.indAddr then (a &&& beMask be, d)
  else if o = Off.indData then
    let t := indOffset a
    let (w, d') := d.readWord t be
    let w := if a.getLsbD 30 ∧ t < 0x400000 then d.shadowWord t &&& beMask be else w
    (w, d'.indStep src)
  else d.readWord o be

/-! ### The snapshot (R427) -/

/-- The offsets of every register table. -/
def regOffsets : List Nat := allRegDefs.flatMap fun r => (List.range (max 1 r.count)).map fun i => r.base + r.stride * i

/-- The offsets of the windows and counters that no register table gives. -/
def viewOffsets : List Nat :=
  (List.range 0x1C00).map (fun i => 0x281000 + 4 * i) ++ (List.range 0x1C00).map (fun i => 0x2C1000 + 4 * i) ++
  (List.range 0x2000).map (fun i => 0x308000 + 4 * i) ++
  (List.range 3).flatMap (fun i => (List.range 0x800).map fun k => 0x381000 + 0x4000 * i + 4 * k)

/-- The copy that a snapshot takes: every register's word, as it stands in cycle 511. -/
def Dev.snapWords (d : Dev) : Sparse Word :=
  (regOffsets ++ viewOffsets).foldl (fun (m : Sparse Word) o => Sparse.put 0 m o (d.view o)) []

/-- Takes the snapshot that was requested. -/
def Dev.snapshot (d : Dev) : Dev :=
  if d.acc.snapReq then
    let copy := d.snapWords
    let d := { d with acc := { d.acc with snapReq := false, snap := copy } }
    let d := d.setFld Fld.snapCtl_seq (d.fld Fld.snapCtl_seq + 1)
    (d.setReg Off.snapPourLo (d.clk.pour.setWidth 32)).setReg Off.snapPourHi ((d.clk.pour >>> 32).setWidth 32)
  else d

end Sys2Proof.Machine
end

