-- ==== Sys2Proof/Machine/Repair.lean ====
section
/-! DEFINITION. Sys2Proof/Machine/Repair.lean: self-test (R491 to R499), repair by locator (R133 to R136, R164, R165, R500 to
R502), and spare rotation (R137, R138). -/

namespace Sys2Proof.Machine

/-! ### Locators (R21, log entry 12) -/

/-- Dies of the stack (R1). -/
def Dev.dies (d : Dev) : Nat := match d.part with | .xtp8640 => 16 | .xtp8632 => 8

/-- Has this device issued the locator, and does it name a place that can be repaired? A locator of another member is none that this
device has issued. -/
def Dev.locOk (d : Dev) (l : BitVec 64) : Bool :=
  d.issued.has l.toNat && (match locKind l with
    | 1 => decide (locHi l < d.cremaBanks)
    | 2 => decide (locChan l < 8)
    | 4 => decide (locHi l < d.dies)
    | 6 => true
    | _ => false)

/-- The spare resource that a repair draws on, and how many it holds (R133, R164): rows of a bank, column groups of a die's
pseudo-channel, one row of a far bank group. -/
def spareGroup (l : BitVec 64) : Nat := if locKind l = 2 then l.toNat / 2 ^ 42 else l.toNat / 2 ^ 40
def spareCount (l : BitVec 64) : Nat := if locKind l = 1 then 8 else if locKind l = 4 then 2 else 1

/-- Every place that is repaired or queued for its repair, each once. -/
def Dev.repairs (d : Dev) : List (BitVec 64) :=
  (d.fuses.repairs ++ d.fuses.hard ++ d.mb.hppr ++ d.mb.softCrema ++ d.mb.softFar).eraseDups

/-- Spares left of the resource that a locator draws on. -/
def Dev.sparesLeft (d : Dev) (l : BitVec 64) : Nat :=
  spareCount l - (d.repairs.filter fun x => locKind x == locKind l && spareGroup x == spareGroup l).length

/-- Is a place repaired already? -/
def Dev.repaired (d : Dev) (l : BitVec 64) : Bool := d.repairs.contains l

/-- Lines of the row that a Crema row locator names, as frame and line, in ascending order (R96, R135). -/
def Dev.cremaRowLines (d : Dev) (l : BitVec 64) : List (Nat × Nat) :=
  (List.range 31).flatMap fun k =>
    if d.physOf k = some (Fin.ofNat 32 (locChan l)) then
      (List.range d.chFrames).flatMap fun pos =>
        let g := pos * 31 + k
        ((List.range 32).map fun i => (g, 2 * i + locPc l)).filter fun x =>
          d.cremaBankOf g x.2 == locHi l && cremaRowOf g x.2 == locLo l
    else []

/-- Lines of the row that a far row locator names, on its subchannel and rank, by column (R165). -/
def Dev.farRowLines (d : Dev) (l : BitVec 64) : List Nat :=
  let c := locChan l
  (List.range (d.rowLines c)).map fun col => d.cliOf c (fieldsOf (locHi l) (locLo l) col)

/-! ### Soft repair (R133, R135, R164, R499) -/

/-- A soft repair takes effect. -/
def Dev.repairDone (d : Dev) (l : BitVec 64) : Dev :=
  let chid := if locKind l = 2 then d.farChid (locChan l) else d.cremaChid (locChan l)
  d.syncRepairs.raise { num := 0x1FB, chid := some chid, loc := l }

/-- One place fewer awaits repair after a test (R499): with none left, NO_SPARE clears at the next boundary. -/
def Dev.placeRepaired (d : Dev) (l : BitVec 64) : Dev :=
  if d.bist.awaiting.contains l then
    let left := d.bist.awaiting.filter (· != l)
    let d := ({ d with bist := { d.bist with awaiting := left } }).setFld Fld.rasBistSts_pending left.length
    if left.isEmpty then { d with crm := { d.crm with newNoSpare := true } } else d
  else d

/-- May a rotation of a channel start (R137)? -/
def Dev.canRotate (d : Dev) (c : Nat) : Bool :=
  !d.flag Fld.crmSts_noSpare && !d.flag Fld.crmSts_bypass && !d.flag Fld.crmSts_walk && !d.flag Fld.crmSts_rebuild &&
    d.crmRole c == 0 && d.crm.rot.isNone

/-- The steps planned for a rotation: the copy at 256 frames a step, and six passes of 135,168 pours (R137, R495). -/
def Dev.rotationSteps (d : Dev) : Nat := d.chFrames / 256 + 6 * 528

/-- A rotation starts at this boundary (R137), as the foreground brew of kind 0x07. -/
def Dev.startRotation (d : Dev) (c : CremaCh) (i : Option Iface) : Dev :=
  let d := { d with crm := { d.crm with rot := some ⟨c, 0, 0, i, 0, [], 0⟩ }, bist := { d.bist with run := some (1, c.val, i) } }
  let d := d.setFld (Fld.crmChSts_role c.val) 2
  let d := ((d.setFlag Fld.crmRotSts_active true).setFld Fld.crmRotSts_source c.val).setFld Fld.crmRotSts_pointer 0
  let d := ((d.setFlag Fld.rasBistSts_run true).setFld Fld.rasBistSts_kind 1).setFld Fld.rasBistSts_index c.val
  d.startFg 7 i (.test 1 c.val) d.rotationSteps

/-- A repair of a Crema place is applied: at once on the spare or a lost channel, else queued for its row's copy or its channel's
isolation (R135, R495, R499). A column of a channel in service asks for a rotation. -/
def Dev.applyCrema (d : Dev) (l : BitVec 64) : Dev :=
  let role := d.crmRole (locChan l)
  if role = 1 ∨ role = 4 then (d.repairDone l).placeRepaired l
  else
    let d := ({ d with crm := { d.crm with unitPending := d.crm.unitPending ++ [l] } }).syncRepairs
    if locKind l = 4 ∧ d.canRotate (locChan l) ∧ d.mb.fg.isNone then d.startRotation (Fin.ofNat 32 (locChan l)) none else d

/-- A soft repair of a Crema place enters the list and is applied. -/
def Dev.repairCrema (d : Dev) (l : BitVec 64) : Dev :=
  ({ d with mb := { d.mb with softCrema := d.mb.softCrema ++ [l] } }).applyCrema l

/-- A soft repair of a far row enters the list and waits for the next boundary. -/
def Dev.repairFar (d : Dev) (l : BitVec 64) : Dev :=
  let d := ({ d with mb := { d.mb with softFar := d.mb.softFar ++ [l] } }).syncRepairs
  if d.farLost (locChan l) then d else d.modFch (locChan l) fun f => { f with pprWait := f.pprWait ++ [l] }

/-- The code with which XT_REPAIR_SOFT refuses a locator, if it does (R136, R164, R500). -/
def Dev.softRefusal (d : Dev) (l : BitVec 64) : Option Nat :=
  if ¬ d.locOk l then some rcInvalidInput
  else if d.repaired l then none
  else match locKind l with
    | 1 => if d.sparesLeft l = 0 ∨ 2048 ≤ d.mb.softCrema.length then some rcResources else none
    | 4 =>
      if d.sparesLeft l = 0 ∨ 2048 ≤ d.mb.softCrema.length then some rcResources
      else if d.crmRole (locChan l) = 0 ∨ d.crmRole (locChan l) = 2 then
        (if d.crmRole (locChan l) = 2 then none else if d.mb.fg.isSome then some rcBusy
         else if d.canRotate (locChan l) then none else some rcInvalidInput)
      else none
    | 2 =>
      if d.mode == .await || d.mode == .serve || d.mode == .degraded || d.mode == .maint then
        (if d.sparesLeft l = 0 ∨ 512 ≤ d.mb.softFar.length then some rcResources else none)
      else some rcInvalidInput
    | _ => some rcInvalidInput

/-- Applies a soft repair that was not refused. -/
def Dev.repairSoft (d : Dev) (l : BitVec 64) : Dev :=
  if d.repaired l then d.placeRepaired l else if locKind l = 2 then d.repairFar l else d.repairCrema l

/-- The locator at the start of a payload. -/
def locAt (p : Payload) : BitVec 64 := BitVec.ofNat 64 (leNat p 0 8)

/-- The body of XT_REPAIR_SOFT. -/
def bodyRepairSoft (i : Iface) (p : Payload) (d : Dev) : Dev :=
  d.vendor i 0xC041 p 8 fun q d =>
    let l := locAt q
    match d.softRefusal l with
    | some rc => d.complete i 0xC041 rc []
    | none =>
      let d := d.repairSoft l
      d.complete i 0xC041 rcSuccess (leBytes 2 (d.sparesLeft l))

/-- XT_REPAIR_SOFT (R135, R164, R500). -/
def execXtRepairSoft (i : Iface) (p : Payload) (s : State) : Host.Outcome State Fault Refusal :=
  s.on fun d => d.mailbox i (.xtRepairSoft i p) 0xC041 (bodyRepairSoft i p)

/-- The copy of one line of a row to its spare row (R135): read, corrected, written; an uncorrectable line takes stored poison. The traffic
is that of class B (log entry 54). -/
def Dev.copyCremaLine (d : Dev) (g l : Nat) (flips : List (BitVec 80)) : Dev :=
  ((d.cremaAccess g l {}).cremaAccess g l { wr := true }).checkCremaLine g l flips

/-- SOFT_REPAIR_ROW_SWAP (R135): the 16 lines of the oldest row that waits on a channel in service are copied, and at the boundary the
spare row replaces the faulty one. `flips` are the error patterns of the lines, in ascending order. -/
def Dev.edgeSoftRepairRowSwap (flips : List (List (BitVec 80))) (d : Dev) : Dev :=
    match d.crm.unitPending.find? fun l => locKind l == 1 && d.crmRole (locChan l) != 3 with
    | some l =>
      if d.live then
        let d := (d.cremaRowLines l).zipIdx.foldl (fun d (e : (Nat × Nat) × Nat) => d.copyCremaLine e.1.1 e.1.2 (flips.getD e.2 [])) d
        ({ d with crm := { d.crm with unitPending := d.crm.unitPending.erase l } }).repairDone l
      else d
    | none => d

/-! ### Fuse repair (R136, R500 to R502) -/

/-- May fuses be burnt in this lifecycle state (R454)? -/
def Dev.fuseLife (d : Dev) : Bool := d.lifecycle == .test || d.lifecycle == .provisioned || d.lifecycle == .rma

/-- The code with which a fuse repair is refused, if it is. -/
def Dev.fuseRefusal (d : Dev) (l : BitVec 64) : Option Nat :=
  if ¬ d.fuseLife then some rcSecurity
  else if ¬ d.locOk l then some rcInvalidInput
  else match locKind l with
    | 2 => if 16 ≤ d.mb.hppr.length ∨ (d.sparesLeft l = 0 ∧ ¬ d.repaired l) then some rcResources else none
    | 6 => if ¬ d.testOpen then some rcSecurity else if d.sec.fuseBurn.isSome then some rcBusy else none
    | _ =>
      if d.sec.fuseBurn.isSome then some rcBusy
      else if 512 ≤ d.fuses.repairs.length then some rcResources
      else if d.sparesLeft l = 0 ∧ ¬ d.repaired l then some rcResources
      else none

/-- The soft repair that comes with a fuse repair of a Crema place (R136): it acts at once, and takes an entry of the soft list where
the list has one. A place that is repaired already needs none. -/
def Dev.repairWithFuse (d : Dev) (l : BitVec 64) : Dev :=
  if d.repaired l then d.placeRepaired l
  else if d.mb.softCrema.length < 2048 then d.repairCrema l else d.applyCrema l

/-- What the completed pair of RAS_FUSE_LO does: a burn of a base-die or array fuse, or a place in the hard PPR queue. -/
def fuseAct (v : Word) (d : Dev) : Option Dev :=
  let l : BitVec 64 := BitVec.ofNat 64 (v.toNat + (d.reg Off.rasFuseHi).toNat * 2 ^ 32)
  match d.fuseRefusal l with
  | some _ => none
  | none =>
    let d := d.setReg Off.rasFuseLo v
    if locKind l = 2 then
      let d := { d with mb := { d.mb with hppr := d.mb.hppr ++ [l] } }
      let d := d.setFld Fld.rasFuseSts_hpprQ d.mb.hppr.length
      some (if d.mode = .maint then d.startHppr else d)
    else
      let d := ({ d with sec := { d.sec with fuseBurn := some (l, none) } }).setFlag Fld.rasFuseSts_burn true
      some (if locKind l = 6 then d else d.repairWithFuse l)

/-- What a source that writes the pair itself may do: only in TEST and RMA (R501). -/
def fuseActDirect (v : Word) (d : Dev) : Option Dev := if d.testOpen then fuseAct v d else none

/-- The body of XT_REPAIR_FUSE. -/
def bodyRepairFuse (i : Iface) (p : Payload) (d : Dev) : Dev :=
  d.vendor i 0xC042 p 12 fun q d =>
    let l := locAt q
    match d.fuseRefusal l with
    | some rc => d.complete i 0xC042 rc []
    | none =>
      let d := d.setReg Off.rasFuseHi (BitVec.ofNat 32 (leNat q 4 4))
      let (d, confirmed, taken) :=
        d.drivePair i Off.rasFuseLo (BitVec.ofNat 32 (leNat q 0 4)) (BitVec.ofNat 32 (leNat q 8 4)) fuseAct
      if confirmed && taken then d.complete i 0xC042 rcSuccess (leBytes 2 (d.sparesLeft l))
      else d.complete i 0xC042 rcInvalidInput []

/-- XT_REPAIR_FUSE (R136, R501). -/
def execXtRepairFuse (i : Iface) (p : Payload) (s : State) : Host.Outcome State Fault Refusal :=
  s.on fun d => d.mailbox i (.xtRepairFuse i p) 0xC042 (bodyRepairFuse i p)

/-- RAS_FUSE_LO (R501): the KEY write of the pair. -/
def execRasFuseLo (src : Source) (key : Word) (s : State) : Host.Outcome State Fault Refusal :=
  s.on fun d => if d.canAccess src Off.rasFuseLo then d.keyWrite src Off.rasFuseLo key fuseActDirect else d

/-- FUSE_BURN_COMPLETE (R501): the entry's valid fuse is set. -/
def execFuseBurnComplete (s : State) : Host.Outcome State Fault Refusal :=
  s.on fun d =>
    match d.sec.fuseBurn with
    | some (l, _) =>
      let f := if locKind l = 6 then { d.fuses with arrays := d.fuses.arrays ++ [l] } else { d.fuses with repairs := d.fuses.repairs ++ [l] }
      let d := { d with sec := { d.sec with fuseBurn := none }, fuses := f }
      ((d.setFlag Fld.rasFuseSts_burn false).syncRepairs).raise { num := 0x1FC, loc := l }
    | none => d

/-! ### Post-package repair (R165, R502) -/

/-- The repair of a far row moves one line (R165): read, corrected as ciphertext, written to the repaired row; an uncorrectable line is
written with stored poison, or handled as metadata. -/
def Dev.copyFarLine (d : Dev) (c cli : Nat) (flips : List (BitVec 80)) : Dev :=
  let stored := d.mem.farPoison.has (farKey c cli)
  match Code.dt79.decodeLine stored flips with
  | .poisoned => if (d.metaAt c cli).isSome then d.lineLost c cli false else if stored then d else d.farStore c cli 0 true
  | .bad => d.lineLost c cli false
  | .good corrected _ =>
    let (hit, d) := d.checkState c cli flips
    if corrected || hit then d.correctedOn true c (d.farLocator c cli) else d

/-- A repair activates the row that it reads or writes (R154, R165). -/
def Dev.activateRow (d : Dev) (l : BitVec 64) : Dev :=
  match d.farRowLines l with | x :: _ => d.activate (locChan l) x none false | [] => d

/-- The lines of a row under repair. -/
def Dev.copyFarRow (d : Dev) (l : BitVec 64) (flips : List (List (BitVec 80))) : Dev :=
  let d := d.activateRow l
  (d.farRowLines l).zipIdx.foldl (fun d (e : Nat × Nat) => d.copyFarLine (locChan l) e.1 (flips.getD e.2 [])) d

/-- SOFT_PPR_START (R165): at boundary q, the oldest repair that waits on the channel begins, once the pool has a buffer for each line of
the row. Its bank is held until the end. `flips` are the error patterns of the lines, by column. -/
def Dev.edgeSoftPprStart (ch : FarCh) (flips : List (List (BitVec 80))) (d : Dev) : Dev :=
    let c := ch.val
    match (d.fch c).pprWait with
    | l :: rest =>
      if d.live && (d.fch c).ppr.isNone && d.fld (Fld.farChSts_state c) == 2 && decide (d.rowLines c ≤ d.sharedFree) then
        let now := d.now
        let n := d.rowLines c
        (d.modFch c fun f => { f with ppr := some (l, now, false), pprWait := rest, pprBufs := n }).copyFarRow l flips
      else d
    | [] => d

/-- SOFT_PPR_END (R165): at q + 48 the bank is released. -/
def Dev.edgeSoftPprEnd (ch : FarCh) (d : Dev) : Dev :=
    match (d.fch ch.val).ppr with
    | some (l, q, false) =>
      if d.live && decide (q + 48 ≤ d.now) then
        let d := (d.activateRow l).modFch ch.val fun f => { f with ppr := none, pprBufs := 0 }
        let d := (d.raise { num := 0x135, chid := some (d.farChid ch.val), loc := l }).repairDone l
        if d.mode = .maint then d.startHppr else d
      else d
    | _ => d

/-- The hard repair at the head of the queue is done: its place is in the DIMM's fuses, its bank released. -/
def Dev.hardDone (d : Dev) (l : BitVec 64) (rest : List (BitVec 64)) : Dev :=
  let c := locChan l
  let d := (d.modFch c fun f => { f with ppr := none, pprBufs := 0 }).bump (Fld.farPprSts_hard c) 1
  let d := { d with mb := { d.mb with hppr := rest }, fuses := { d.fuses with hard := d.fuses.hard ++ [l] } }
  let d := d.setFld Fld.rasFuseSts_hpprQ rest.length
  let d := d.raise { num := 0x135, chid := some (d.farChid c), loc := l }
  d.raise { num := 0x1FC, chid := some (d.farChid c), loc := l }

/-- HARD_PPR_COMPLETE (R502): the repair at the head of the queue has run the sequence of R165, and the next one begins. -/
def execHardPprComplete (s : State) (flips : List (List (BitVec 80)) := []) : Host.Outcome State Fault Refusal :=
  s.on fun d =>
    match d.mb.hppr with
    | l :: rest =>
      let c := locChan l
      match (d.fch c).ppr with
      | some (_, _, true) =>
        if d.live then
          let d := ((d.copyFarRow l flips).activateRow l).hardDone l rest
          if d.mode = .maint then d.startHppr else d
        else d
      | _ => d
    | [] => d

/-! ### Spare rotation (R137, R138, R499) -/

/-- Is a rotation in this phase? -/
def Dev.rotIn (d : Dev) (phase : Nat) : Bool := d.live && (match d.crm.rot with | some r => r.phase == phase | none => false)

/-- Changes the rotation. -/
def Dev.modRot (d : Dev) (f : Rotation → Rotation) : Dev := { d with crm := { d.crm with rot := d.crm.rot.map f } }

/-- ROTATION_COPY_DONE (R137): at the boundary after the last frame the spare takes the source's logical number; no spare is left until the source returns. -/
def Dev.edgeRotationCopyDone (d : Dev) : Dev :=
    match d.crm.rot with
    | some r =>
      if d.rotIn 0 && r.pointer == d.chFrames then
        let k := d.fld (Fld.crmChSts_logical r.source.val)
        let sp := d.fld Fld.crmSts_spare
        let d := ((d.setFld (Fld.crmLmap_phys k) sp).setRole sp 0 k).setFlag Fld.crmSts_noSpare true
        d.modRot fun r => { r with phase := 1 }
      else d
    | none => d

/-- The source of a rotation is isolated once the spare has its number and its queue is empty. -/
def Dev.sourceDrained (d : Dev) : Dev :=
  match d.crm.rot with
  | some r =>
    let empty := (d.queueOf (2 * r.source.val)).isEmpty && (d.queueOf (2 * r.source.val + 1)).isEmpty
    let now := d.now
    if d.rotIn 1 && empty then (d.setRole r.source.val 3 0).modRot fun r => { r with phase := 2, since := now } else d
  | none => d

/-- ROTATION_SOURCE_DRAINED (R137). -/
def execRotationSourceDrained (s : State) : Host.Outcome State Fault Refusal := s.on Dev.sourceDrained

/-- RESULT's code (R498). -/
def bistCode : BistResult → Nat
  | .pass => 0
  | .repairable => 1
  | .beyondSpares => 2
  | .windowLeft => 3
  | .aborted => 4

/-- Applies the repairs that wait for a channel's isolation (R495). -/
def Dev.applyQueued (d : Dev) (c : Nat) : Dev :=
  let mine := d.crm.unitPending.filter fun l => locChan l == c
  let d := ({ d with crm := { d.crm with unitPending := d.crm.unitPending.filter fun l => locChan l != c } }).syncRepairs
  mine.foldl (fun d l => d.repairDone l) d

/-- Ends the foreground brew of a rotation, if it still runs. -/
def Dev.endRotationBrew (d : Dev) (result : Nat) (locs : List (BitVec 64)) : Dev :=
  match d.mb.fg with
  | some b => match b.work with
    | .test 1 _ => (d.bistResult result locs).endFg (if result = 4 then rcAborted else rcSuccess) (bistOut result locs)
    | _ => d
  | none => d

/-- The pours of the six passes over a channel (R495). -/
def sixPasses : Nat := 6 * 135168

/-- Have the six passes over the isolated source ended? -/
def Dev.passesDone (d : Dev) : Bool := match d.crm.rot with | some r => decide (r.since + sixPasses ≤ d.now) | none => false

/-- ROTATION_TEST_DONE (R137, R138, R495, R499): after six passes of 135,168 pours each the queued repairs are applied; a channel beyond
repair is lost. -/
def execRotationTestDone (result : BistResult) (locators : List (BitVec 64)) (s : State) :
    Host.Outcome State Fault Refusal :=
  s.on fun d =>
    match d.crm.rot with
    | some r =>
      if d.rotIn 2 && d.passesDone then
        let c := r.source.val
        let d := d.applyQueued c
        let left := locators.filter fun l => !d.repaired l
        if result = .beyondSpares then
          ((d.loseCrema c).setReg Off.crmRotSts 0).endRotationBrew 2 left
        else
          let code := if result = .repairable ∧ left.isEmpty then 0 else (bistCode result)
          d.modRot fun r => { r with phase := 3, result := code, locators := left }
      else d
    | none => d

/-- ROTATION_RETRAIN_DONE (R137, R479): a channel that fails its training is lost. -/
def execRotationRetrainDone (ok : Bool) (s : State) : Host.Outcome State Fault Refusal :=
  s.on fun d =>
    match d.crm.rot with
    | some r =>
      if d.rotIn 3 then
        if ok then (d.applyQueued r.source.val).modRot fun r => { r with phase := 4 }
        else ((d.loseCrema r.source.val).setReg Off.crmRotSts 0).endRotationBrew 2 r.locators
      else d
    | none => d

/-- ROTATION_FILL_DONE (R137, R499): the source returns as the spare; with places still to repair, NO_SPARE stays 1. -/
def execRotationFillDone (s : State) : Host.Outcome State Fault Refusal :=
  s.on fun d =>
    match d.crm.rot with
    | some r =>
      if d.rotIn 4 then
        let c := r.source.val
        let d := d.applyQueued c
        let left := if r.result = 1 then (listedLocs r.locators).filter (fun l => !d.repaired l) else []
        let pending := left.length
        let d := { d with crm := { d.crm with rot := none }, bist := { d.bist with awaiting := left } }
        let d := ((d.setRole c 1 0).setFld Fld.crmSts_spare c).setReg Off.crmRotSts 0
        let d := (d.setFlag Fld.crmSts_noSpare (0 < pending)).setFld Fld.rasBistSts_pending pending
        (d.endRotationBrew r.result r.locators).floorMoved
      else d
    | none => d

/-! ### Crypto pipelines (R232, R233, R496) -/

/-- A pipeline of Crema fails without a spare (R233): its pseudo-channel shares the other's pipeline. With both gone no rule gives
the channel a pipeline, and it is lost at the next boundary (log entry 35). -/
def Dev.loseXts (d : Dev) (unit : Nat) : Dev :=
  let other := if unit % 2 = 0 then unit + 1 else unit - 1
  let ch := unit / 2
  let both := d.cry.xtsFailed.has other
  let d := { d with cry := { d.cry with xtsFailed := d.cry.xtsFailed.add unit, xtsShared := d.cry.xtsShared.add ch } }
  if both && !d.crm.lossDue.contains (Fin.ofNat 32 ch) && d.crmRole ch != 4 then
    { d with crm := { d.crm with lossDue := d.crm.lossDue ++ [Fin.ofNat 32 ch] } }
  else d

/-- A CTR and MAC pipeline fails without a spare (R233): a subchannel with none left is lost as its channel is. -/
def Dev.loseCtr (d : Dev) (unit : Nat) : Dev :=
  let other := if unit % 2 = 0 then unit + 1 else unit - 1
  let both := d.cry.ctrFailed.has other
  let d := { d with cry := { d.cry with ctrFailed := d.cry.ctrFailed.add unit } }
  if both && !d.farLost (unit / 4) then d.modFch (unit / 4) fun f => { f with lossDue := true } else d

/-- The count of spares of a kind of pipeline, and that of its failures. -/
def pipeSpares (xts : Bool) : Fld := if xts then Fld.cryPipeSts_xtsSpares else Fld.cryPipeSts_ctrSpares
def pipeFailures (xts : Bool) : Fld := if xts then Fld.cryPipeSts_xtsFail else Fld.cryPipeSts_ctrFail

/-- A pipeline fails (R232, R233): a spare takes over, or the bandwidth is lost and the device enters DEGRADED at the next boundary
(R37). Units are the pseudo-channels, or the 32 CTR and MAC pipelines four to a channel. -/
def Dev.pipeFails (d : Dev) (xts : Bool) (unit : Fin 64) : Dev :=
  let n := unit.val
  let gone := if xts then d.cry.xtsFailed.has n else d.cry.ctrFailed.has n
  if gone || (!xts && 32 ≤ n) then d
  else
    let left := d.fld (pipeSpares xts)
    let d := d.bump (pipeFailures xts) 1
    let chid := if xts then d.cremaChid (n / 2) else d.farChid (n / 4)
    if 0 < left then (d.setFld (pipeSpares xts) (left - 1)).raise { num := 0x157, chid := some chid }
    else
      let d := d.raise { num := 0x158, chid := some chid }
      let d := if xts then d.loseXts n else d.loseCtr n
      ({ d with due := { d.due with degrade := some (d.due.degrade.getD 0x158) } }).floorMoved

/-- A spare fails its test: it is mapped out. -/
def Dev.spareFails (d : Dev) (xts : Bool) : Dev :=
  let left := d.fld (pipeSpares xts)
  if left = 0 then d else (d.setFld (pipeSpares xts) (left - 1)).bump (pipeFailures xts) 1

/-! ### Self-tests (R491 to R498) -/

/-- The test of an engine stops (R494): aborted, the engine serves again at once. -/
def Dev.stopEngineTest (d : Dev) : Dev :=
  match d.mb.fg with
  | some b => match b.work with
    | .test 5 _ => d.abortFg rcAborted
    | _ => d
  | none => d

/-- Is a combination of kind, index and option one that R491 lists? -/
def bistListed (kind index option : Nat) : Bool :=
  match kind with
  | 1 => decide (index < 32) && option == 0
  | 2 => decide (index < 4) && option == 1
  | 3 => decide (index < 8) && option == 1
  | 4 => (index == 0 && option == 0) || (index == 1 && option == 1)
  | 5 => decide (index < 4) && option == 0
  | 6 => decide (index < 6) && option == 1
  | _ => false

/-- Charges on Press, in eighths (R303). -/
def Dev.pressCharge8 (d : Dev) : Nat := ((d.resources.find? fun (r : Resource) => r.code == 5).map (·.charge8)).getD 0

/-- The code with which XT_BIST_RUN is refused, if it is (R491, R492, R494). -/
def Dev.bistRefusal (d : Dev) (kind index option : Nat) : Option Nat :=
  let life := d.lifecycle == .test || d.lifecycle == .provisioned || d.lifecycle == .production || d.lifecycle == .rma
  let inService := d.mode == .serve || d.mode == .degraded || d.mode == .drowse
  let others := (d.enginesOk.filter (· != index)).length
  if ¬ bistListed kind index option then some rcInvalidInput
  else if ¬ life then some rcSecurity
  else if (if option = 0 then !inService else !(d.mode == .maint && !d.flag Fld.glbModeSts_recovery)) then some rcInvalidInput
  else if kind = 5 ∧ (others = 0 ∨ ¬ d.enginesOk.contains index ∨ 160 * 8 * (d.enginesOk.length - 1) < d.pressCharge8) then
    some rcInvalidInput
  else if kind ≠ 1 ∧ d.mb.fg.isSome then some rcBusy
  else none

/-- BISnpInv to every host that the directory names (R497). -/
def Dev.snoopAll (d : Dev) : Dev :=
  d.home.dir.foldl (fun d (e : Nat × DirEntry) =>
    let k := d.dirKey e.1
    ((List.range 16).filter fun i => e.2.sharers.getLsbD i).foldl (fun d sh =>
      d.openSnoop k sh true none (e.2.st == .exclusive) (d.maComp (d.maOfKey k))) d) d

/-- What a test does to its target when it starts: quadrant and crypto domain are fenced, the engine takes no further job, hosts are
snooped before a destructive test. -/
def Dev.bistPrepare (d : Dev) (kind index : Nat) : Dev :=
  if kind = 2 then (d.snoopAll.fence (2 + index)).setFlag Fld.rasBistSts_coldReq true
  else if kind = 6 then d.snoopAll.setFlag Fld.rasBistSts_coldReq true
  else if kind = 4 then (if index = 1 then d.fence 11 else d)
  else if kind = 5 then { d with prs := { d.prs with underTest := some (Fin.ofNat 4 index) } }
  else d

/-- The engine under test is mapped out at the boundary at which its test starts, and its job runs again on another one (R494). With no
other engine left the test stops, and the engine stays. -/
def Dev.mapTested (d : Dev) : Dev :=
  match d.prs.underTest with
  | some e =>
    if !d.enginesOk.contains e.val then d
    else if d.enginesOk.all (· == e.val) then d.stopEngineTest
    else
      let d := d.setBit Fld.prsSts_engOk e.val false
      match vget none d.prs.engines e.val with
      | some (j : Job) =>
        ({ d with prs := { d.prs with engines := vmod d.prs.engines e.val fun _ => none, jobs := j :: d.prs.jobs } }).dispatchJobs
      | none => d
  | none => d

/-- A test other than a rotation starts, as the foreground brew of kind 0x07. -/
def Dev.startTest (d : Dev) (kind index : Nat) (i : Iface) : Dev :=
  let d := { d with bist := { d.bist with run := some (kind, index, some i) } }
  let d := ((d.setFlag Fld.rasBistSts_run true).setFld Fld.rasBistSts_kind kind).setFld Fld.rasBistSts_index index
  (d.bistPrepare kind index).startFg 7 (some i) (.test kind index) (if kind = 2 ∨ kind = 3 then 6 * 528 else 1)

/-- The body of XT_BIST_RUN. -/
def bodyBistRun (i : Iface) (p : Payload) (d : Dev) : Dev :=
  d.vendor i 0xC040 p 3 fun q d =>
    let (kind, index, option) := (byteAt q 0, byteAt q 1, byteAt q 2)
    match d.bistRefusal kind index option with
    | some rc => d.complete i 0xC040 rc []
    | none =>
      if kind = 1 then
        if d.mayStage i then (d.stage i (.rotation (Fin.ofNat 32 index) i)).complete i 0xC040 rcSuccess []
        else d.complete i 0xC040 rcBusy []
      else (d.complete i 0xC040 rcBackground []).startTest kind index i

/-- XT_BIST_RUN (R491, R492). -/
def execXtBistRun (i : Iface) (p : Payload) (s : State) : Host.Outcome State Fault Refusal :=
  s.on fun d => d.mailbox i (.xtBistRun i p) 0xC040 (bodyBistRun i p)

/-- Pipelines that a test of the crypto block found failing (R496): spares are mapped out first, then the working ones under R233. Units
from 64 on (XTS) and from 32 on (CTR and MAC) are the spares. A test of the spares alone finds spares. -/
def Dev.mapOutPipes (d : Dev) (all : Bool) (pipes : List (Bool × Fin 66)) : Dev :=
  let spare := fun (x : Bool × Fin 66) => decide ((if x.1 then 64 else 32) ≤ x.2.val)
  let d := (pipes.filter spare).foldl (fun d x => d.spareFails x.1) d
  if all then (pipes.filter fun x => !spare x).foldl (fun d x => d.pipeFails x.1 (Fin.ofNat 64 x.2.val)) d else d

/-- BIST_TEST_END (R494 to R498): a test other than a rotation ends with its result. One that hosts are snooped for waits until they have
answered (R497). -/
def execBistTestEnd (result : BistResult) (locators : List (BitVec 64)) (s : State) (pipes : List (Bool × Fin 66) := []) : Host.Outcome State Fault Refusal :=
  s.on fun d =>
    match d.mb.fg with
    | some b => match b.work with
      | .test kind index =>
        if kind = 1 ∨ ¬ d.live ∨ ((kind = 2 ∨ kind = 6) ∧ ¬ d.home.snoops.isEmpty) then d
        else
          let fail := result = .repairable ∨ result = .beyondSpares
          let d :=
            if kind = 2 then
              let d := (d.quadrantCleared index).powerOn (2 + index)
              if result = .beyondSpares then
                ((List.range 32).filter fun i => quadrantOf i == index && locators.any fun l => locChan l == i).foldl
                  (fun d i => d.loseCrema i) d
              else d
            else if kind = 3 then d.farTested index (result = .pass)
            else if kind = 4 then
              let d := if fail then d.mapOutPipes (index == 1) pipes else d
              if index = 1 then d.powerOn 11 else d
            else if kind = 5 then
              if fail then { d with prs := { d.prs with underTest := none, lossDue := d.prs.lossDue ++ [Fin.ofNat 4 index] } }
              else d.returnUnit
            else d.arraysCleared index
          let locs := if kind = 4 ∨ kind = 5 then [] else locators
          (d.bistResult (bistCode result) locs).endFg (if result = .aborted then rcAborted else rcSuccess) (bistOut (bistCode result) locs)
      | _ => d
    | none => d

end Sys2Proof.Machine
end

