-- ==== Sys2Proof/Machine/Secure.lean ====
section
/-! DEFINITION. Sys2Proof/Machine/Secure.lean: the seal (R430 to R432), register parity (R429), the lifecycle and debug access
(R450 to R453, R459, R467), and the Canister's settings area and erase (R402 to R404). -/

namespace Sys2Proof.Machine

/-! ### The seal (R430, R431) -/

/-- The offsets of the registers that hold RWS fields, ascending. -/
def rwsOffsets : List Nat :=
  ((regOffsets.filter fun o => accMask (·.rws) o != 0).foldl (fun (m : NatSet) o => m.add o) []).keys

/-- The RWS bits of a register in the configuration set: `GLB_MODE_REQ`.TARGET is left out. -/
def sealMask (o : Nat) : Word := if o = Off.glbModeReq then accMask (·.rws) o &&& 0xFFFFFFF0 else accMask (·.rws) o

/-- The CRC of a configuration set (R430): RWS registers, routes, slots. A route and a slot entry stand in 4 bytes as their
data registers show them (DEDUCED, log entry 24). -/
def configBytes (word : Nat → Word) (routes slots : Sparse Nat) : Payload :=
  let regs := rwsOffsets.flatMap fun o => leBytes 4 (word o &&& sealMask o).toNat
  let rts := (List.range 4).flatMap fun n => (List.range 36).flatMap fun s => (List.range 36).flatMap fun t =>
    leBytes 4 (2 ^ 31 + routeIn routes n s t)
  let sls := (List.range (4 * 36 * 6 * 512)).flatMap fun k =>
    let v := Sparse.get 0 slots k
    leBytes 4 (if v = 0 then 0 else 2 ^ 31 + (v - 1))
  regs ++ rts ++ sls

/-- The CRC of a configuration set. -/
def crcOf (word : Nat → Word) (routes slots : Sparse Nat) : Word := crc32 (configBytes word routes slots)

/-- The CRC of the configuration in force. -/
def Dev.configCrc (d : Dev) : Word := crcOf d.reg d.noc.routes d.noc.slots

/-- The CRC of the configuration as it will stand after the commit of what is staged (R423). -/
def Dev.nextCrc (d : Dev) : Word := crcOf d.pendReg d.noc.routesStaged d.noc.slotsStaged

/-- What a completed pair of `GLB_SEAL_CTL` does (R431): REPORT only in TEST, the reserved mode not at all. -/
def sealAct (v : Word) (d : Dev) : Option Dev :=
  let m := fieldOf v 0 2
  if m = 3 ∨ (m = 2 ∧ d.lifecycle ≠ .test) then none
  else
    let d := d.setFld Fld.glbSealCtl_mode m
    if m = 0 then
      let d := { d with ras := { d.ras with sealScan := none } }
      some (((d.setFlag Fld.glbSealSts_sealed false).setFlag Fld.glbSealSts_refscan false).setReg Off.glbSealRef 0)
    else some d

/-- GLB_SEAL_CTL_OFF (R431): the KEY write of the pair whose value is OFF. -/
def execGlbSealCtlOff (src : Source) (key : Word) (s : State) : Host.Outcome State Fault Refusal :=
  s.on fun d => if d.canAccess src Off.glbSealCtl then d.keyWrite src Off.glbSealCtl key sealAct else d

/-- GLB_SEAL_CTL_ENFORCE (R431). -/
def execGlbSealCtlEnforce (src : Source) (key : Word) (s : State) : Host.Outcome State Fault Refusal :=
  s.on fun d => if d.canAccess src Off.glbSealCtl then d.keyWrite src Off.glbSealCtl key sealAct else d

/-- GLB_SEAL_CTL_REPORT (R431). -/
def execGlbSealCtlReport (src : Source) (key : Word) (s : State) : Host.Outcome State Fault Refusal :=
  s.on fun d => if d.canAccess src Off.glbSealCtl then d.keyWrite src Off.glbSealCtl key sealAct else d

/-- A write of 1 to `SEAL_COMMIT`: a reference scan is due at the next boundary, unless the seal is OFF. -/
def Dev.askReference (d : Dev) : Dev :=
  if d.fld Fld.glbSealCtl_mode = 0 then d else { d with ras := { d.ras with sealScan := some (0, true) } }

/-- SEAL_COMMIT (R431). -/
def execSealCommit (src : Source) (s : State) : Host.Outcome State Fault Refusal :=
  s.on fun d => if d.canAccess src Off.sealCommit then d.askReference else d

/-- SEAL_REFERENCE_SCAN_COMPLETE (R431): the scan's CRC becomes the reference. -/
def execSealReferenceScanComplete (s : State) : Host.Outcome State Fault Refusal :=
  s.on fun d =>
    match d.ras.sealScan with
    | some (_, true) =>
      if d.live && d.flag Fld.glbSealSts_refscan then
        let crc := d.configCrc
        let d := { d with ras := { d.ras with sealScan := none } }
        let d := (d.setFlag Fld.glbSealSts_sealed true).setFlag Fld.glbSealSts_refscan false
        (d.setReg Off.glbSealRef crc).setReg Off.glbSealLast crc
      else d
    | _ => d

/-- SEAL_SCAN_START (R431): every 4,096 pours while SEALED is 1. -/
def Dev.edgeSealScanStart (d : Dev) : Dev :=
    if d.live && d.flag Fld.glbSealSts_sealed && d.ras.sealScan.isNone && decide (d.now % 4096 = 0) then
      { d with ras := { d.ras with sealScan := some (0, false) } }
    else d

/-- SEAL_SCAN_COMPLETE (R431): the scan reads the configuration set with the error `err`, zero where nothing disturbs it. -/
def execSealScanComplete (err : Word) (s : State) : Host.Outcome State Fault Refusal :=
  s.on fun d =>
    match d.ras.sealScan with
    | some (_, false) =>
      if d.live then
        let crc := d.configCrc ^^^ err
        let d := ({ d with ras := { d.ras with sealScan := none } }).setReg Off.glbSealLast crc
        if crc = d.reg Off.glbSealRef then d.bump Fld.glbSealSts_scans 1
        else if d.fld Fld.glbSealCtl_mode = 2 then (d.setFlag Fld.glbSealSts_mismatch true).raiseN 0x1B4 []
        else d.haltBy .seal 0 0
      else d
    | _ => d

/-! ### Parity (R429) -/

/-- REGISTER_PARITY_ERROR (R429): a register reloads from its committed entry, or the entry from the register; where both
are bad the device halts. -/
def execRegisterParityError (off : Nat) (regBad committedBad : Bool) (s : State) : Host.Outcome State Fault Refusal :=
  s.on fun d =>
    if ¬ d.live then d
    else if regBad && committedBad then d.haltBy .registerParity 0 0
    else if regBad then
      ((d.bump Fld.glbAccSts_reloads 1).setFlag Fld.glbAccSts_parity true).raiseN 0x1B3 [word1 off]
    else d

/-! ### The lifecycle (R450 to R453) -/

/-- Does an advance stand in the lifecycle table (R450)? -/
def lcEdge : Lifecycle → Lifecycle → Bool
  | .scrapped, _ => false
  | _, .scrapped => true
  | .blank, .test => true
  | .test, .provisioned => true
  | .provisioned, .production => true
  | .provisioned, .rma => true
  | .production, .rma => true
  | _, _ => false

/-- Does the slot not in force hold a valid RMA authorisation for this device (R452, R455)? -/
def Dev.rmaAuthorised (d : Dev) : Bool :=
  let n : Fin 2 := if d.mb.slot = 0 then 1 else 0
  let b := d.slotBytes n
  (vget ⟨[], false⟩ d.can.slots n.val).valid && byteAt b 12 == 2 && leNat b 16 48 == Config.certDigest.toNat

/-- Is the condition of an advance met (R452)? -/
def Dev.lcCondition (d : Dev) (t : Lifecycle) : Bool :=
  match t with
  | .production => d.flag Fld.glbLcSts_certOk
  | .rma => d.rmaAuthorised
  | _ => true

/-- What a completed pair of `GLB_LC_ADV` does: the burn is due at the next boundary, or the pair is refused. -/
def lcAct (v : Word) (d : Dev) : Option Dev :=
  match Lifecycle.ofCode (fieldOf v 0 3) with
  | some t =>
    if d.mode == .maint && !d.halted && lcEdge d.lifecycle t && !d.advancing && d.lcCondition t then
      some { d with sec := { d.sec with burnDue := some t } }
    else none
  | none => none

/-- GLB_LC_ADV (R452). -/
def execGlbLcAdv (src : Source) (key : Word) (s : State) : Host.Outcome State Fault Refusal :=
  s.on fun d => if d.canAccess src Off.glbLcAdv then d.keyWrite src Off.glbLcAdv key lcAct else d

/-- Brings CAN_LOG_STS.NEXT up to date. -/
def Dev.syncLog (d : Dev) : Dev := d.setFld Fld.canLogSts_next (d.can.logCount % 8192)

/-- Erases the areas of a mask (R404): bit 0 the settings, bit 1 the log. -/
def Dev.eraseAreas (d : Dev) (area : Nat) : Dev :=
  let d := if bitAt area 0 then { d with can := { d.can with copies := Vector.replicate 16 none, newest := none } } else d
  let d := if bitAt area 1 then { d with can := { d.can with log := [], logCount := 0 } } else d
  d.syncCanister.syncLog

/-- The four fuse bits of a state from TEST on (R451). -/
def lcFuses (t : Lifecycle) : BitVec 20 := if t.code = 0 then 0 else BitVec.ofNat 20 (15 * 16 ^ (t.code - 1))

/-- The burn that is due starts at this boundary (R452). -/
def Dev.startBurn (d : Dev) : Dev :=
  match d.sec.burnDue with
  | some t => { d with sec := { d.sec with burnDue := none, burn := some t } }
  | none => d

/-- LIFECYCLE_BURN_COMPLETE (R451 to R453). -/
def execLifecycleBurnComplete (s : State) : Host.Outcome State Fault Refusal :=
  s.on fun d =>
    match d.sec.burn with
    | some t =>
      if d.mode == .maint && !d.halted then
        let old := d.lifecycle.code
        let d := { d with sec := { d.sec with burn := none }, fuses := { d.fuses with lc := d.fuses.lc ||| lcFuses t },
                          can := { d.can with lcLog := (old, t.code) :: d.can.lcLog } }
        let d := d.raiseN 0x1F0 [word1 old, word1 t.code]
        match t with
        | .provisioned => { d with sec := { d.sec with keygen := true } }
        | .rma => ({ d with fuses := { d.fuses with idDisable := true }, sec := { d.sec with signKeys := false } }).eraseAreas 3
        | .scrapped => { d with fuses := { d.fuses with identity := false }, sec := { d.sec with signKeys := false } }
        | _ => d
      else d
    | none => d

/-- IDENTITY_KEYGEN_COMPLETE (R453, R459). -/
def execIdentityKeygenComplete (s : State) : Host.Outcome State Fault Refusal :=
  s.on fun d =>
    if d.sec.keygen && d.mode == .maint && !d.halted then
      { d with sec := { d.sec with keygen := false, signKeys := true }, fuses := { d.fuses with identity := true } }
    else d

/-- JTAG_DEBUG_INSTRUCTION (R467): the first one zeroises the keys and halts the device; outside TEST and RMA the TAP treats
it as BYPASS. -/
def execJtagDebugInstruction (s : State) : Host.Outcome State Fault Refusal :=
  s.on fun d =>
    if d.testOpen && d.mode != .cold && !d.flag Fld.glbLcSts_jtagOpen then
      let d := d.zeroise.setFlag Fld.glbLcSts_jtagOpen true
      let d := ({ d with sec := { d.sec with signKeys := false } }).raiseN 0x1F4 []
      d.haltBy .debug 0 0
    else d

/-! ### The settings area and its erase (R402 to R404) -/

/-- What a completed pair of `CAN_ERASE` does: an erase begins, refused while a store or erase runs. -/
def eraseAct (v : Word) (d : Dev) : Option Dev :=
  if d.can.storing.isSome then none
  else
    let d := d.setFld Fld.canErase_area (fieldOf v 0 2)
    some (({ d with can := { d.can with storing := some (.mctp, some (fieldOf v 0 2)) } }).setFlag Fld.canSts_store true)

/-- CAN_ERASE (R404, R416): the KEY write of the pair. -/
def execCanErase (src : Source) (key : Word) (s : State) : Host.Outcome State Fault Refusal :=
  s.on fun d => if d.canAccess src Off.canErase then d.keyWrite src Off.canErase key eraseAct else d

/-- The body of XT_CANISTER_ERASE (R394, R404). -/
def bodyCanisterErase (i : Iface) (p : Payload) (d : Dev) : Dev :=
  d.vendor i 0xC052 p 5 fun q d =>
    if 4 ≤ byteAt q 0 then d.complete i 0xC052 rcInvalidInput []
    else if d.can.storing.isSome then d.complete i 0xC052 rcBusy []
    else
      let (d, ok, _) := d.drivePair i Off.canErase (BitVec.ofNat 32 (byteAt q 0)) (BitVec.ofNat 32 (leNat q 1 4)) eraseAct
      if ok then d.longRun i 0xC052 else d.complete i 0xC052 rcInvalidInput []

/-- XT_CANISTER_ERASE (R404). -/
def execXtCanisterErase (i : Iface) (p : Payload) (s : State) : Host.Outcome State Fault Refusal :=
  s.on fun d => d.mailbox i (.xtCanisterErase i p) 0xC052 (bodyCanisterErase i p)

/-- Completes the command with an opcode that runs, if one does. -/
def Dev.completeRunning (d : Dev) (opcode rc : Nat) (out : Payload) : Dev :=
  match d.mb.running.find? fun (r : Iface × Nat) => r.2 == opcode with
  | some r => d.complete r.1 opcode rc out
  | none => d

/-- CANISTER_ERASE_COMPLETE (R404). -/
def execCanisterEraseComplete (s : State) : Host.Outcome State Fault Refusal :=
  s.on fun d =>
    match d.can.storing with
    | some (_, some area) =>
      let d := { d with can := { d.can with storing := none } }
      ((d.setFlag Fld.canSts_store false).eraseAreas area).completeRunning 0xC052 rcSuccess []
    | _ => d

/-- The committed settings as a store writes them. -/
def Dev.settings (d : Dev) : Sparse Word := rwsOffsets.map fun o => (o, d.reg o &&& sealMask o)

/-- The index and generation of the next store (R403). -/
def Dev.nextCopy (d : Dev) : Fin 16 × Nat :=
  match d.can.newest with
  | some n => match vget none d.can.copies n.val with
    | some (c : Copy) => (n + 1, c.gen + 1)
    | none => (0, 1)
  | none => (0, 1)

/-- The body of XT_CANISTER_STORE: the copy stands without its CRC until the store ends. -/
def bodyCanisterStore (i : Iface) (p : Payload) (d : Dev) : Dev :=
  d.vendor i 0xC050 p 0 fun _ d =>
    if d.can.storing.isSome then d.complete i 0xC050 rcBusy []
    else
      let (n, gen) := d.nextCopy
      let c : Copy := { gen := gen, regs := d.settings, portMode := d.fld Fld.glbPortMode_mode, near := d.near,
                        cremaRepairs := d.mb.softCrema, farRepairs := d.mb.softFar, crcOk := false }
      let d := { d with can := { d.can with copies := vmod d.can.copies n.val fun _ => some c, storing := some (i, none) } }
      (d.setFlag Fld.canSts_store true).longRun i 0xC050

/-- XT_CANISTER_STORE (R403). -/
def execXtCanisterStore (i : Iface) (p : Payload) (s : State) : Host.Outcome State Fault Refusal :=
  s.on fun d => d.mailbox i (.xtCanisterStore i p) 0xC050 (bodyCanisterStore i p)

/-- CANISTER_STORE_COMPLETE (R403): the CRC is written last. -/
def execCanisterStoreComplete (s : State) : Host.Outcome State Fault Refusal :=
  s.on fun d =>
    match d.can.storing with
    | some (_, none) =>
      let (n, gen) := d.nextCopy
      let d := { d with can := { d.can with
        storing := none, newest := some n,
        copies := vmod d.can.copies n.val fun c => c.map fun (x : Copy) => { x with crcOk := true } } }
      ((d.setFlag Fld.canSts_store false).syncCanister).completeRunning 0xC050 rcSuccess (leBytes 8 gen ++ [BitVec.ofNat 8 n.val])
    | _ => d

end Sys2Proof.Machine
end

