-- ==== Sys2Proof/Machine/Rekey.lean ====
section
/-! DEFINITION. Sys2Proof/Machine/Rekey.lean: the rekey (R220, R223 to R229) and its commands. -/

namespace Sys2Proof.Machine

/-! ### Start (R223, R234) -/

/-- Is RATE within 1 to 64? -/
def rateOk (r : Nat) : Bool := decide (1 ≤ r) && decide (r ≤ 64)

/-- A start at a rate: while a rekey runs it changes only RATE, from the next boundary; otherwise it waits for a boundary at
which every far channel is awake. -/
def Dev.askRekey (d : Dev) (rate : Nat) : Dev :=
  match d.cry.rekey with
  | some _ => { d with cry := { d.cry with rateNext := some rate } }
  | none =>
    let d := { d with cry := { d.cry with rekey := some ⟨.requested, 0, 0, false, Vector.replicate 8 none, 0, 0⟩ } }
    ((d.setFld Fld.cryRekeyCtl_rate rate).setFlag Fld.cryRekeySts_auto false).wakeAll 1

/-- What a completed pair of `CRY_REKEY_CTL` does: RATE outside 1 to 64 is refused. -/
def rekeyAct (v : Word) (d : Dev) : Option Dev :=
  let rate := fieldOf v 0 7
  if ¬ rateOk rate then none
  else if v.getLsbD 31 then some (d.askRekey rate)
  else match d.cry.rekey with
    | some _ => some { d with cry := { d.cry with rateNext := some rate } }
    | none => some (d.setFld Fld.cryRekeyCtl_rate rate)

/-- The KEY write of the pair: a value it refuses also sets REFUSED. -/
def Dev.rekeyKey (d : Dev) (src : Source) (key : Word) : Dev :=
  let refused := match d.armedBy src with
    | some a => a.off == Off.cryRekeyCtl && key == ~~~a.value && decide (a.at_.cyclesTo d.stamp ≤ 256) && !rateOk (fieldOf a.value 0 7)
    | none => false
  let d := d.keyWrite src Off.cryRekeyCtl key rekeyAct
  if refused = true then d.setFlag Fld.cryRekeySts_refused true else d

/-- CRY_REKEY_CTL (R223, R234). -/
def execCryRekeyCtl (src : Source) (key : Word) (s : State) : Host.Outcome State Fault Refusal :=
  s.on fun d => if d.canAccess src Off.cryRekeyCtl then d.rekeyKey src key else d

/-- The body of XT_REKEY_START. -/
def bodyRekeyStart (i : Iface) (p : Payload) (d : Dev) : Dev :=
  d.vendor i 0xC030 p 1 fun q d =>
    if rateOk (byteAt q 0) then (d.askRekey (byteAt q 0)).complete i 0xC030 rcSuccess []
    else (d.setFlag Fld.cryRekeySts_refused true).complete i 0xC030 rcInvalidInput []

/-- XT_REKEY_START (R223, R394). -/
def execXtRekeyStart (i : Iface) (p : Payload) (s : State) : Host.Outcome State Fault Refusal :=
  s.on fun d => d.mailbox i (.xtRekeyStart i p) 0xC030 (bodyRekeyStart i p)

/-! ### The walk (R224, R225, R227) -/

/-- The first stored page of a channel from `p` on that is not fresh. -/
def Dev.nextPage (d : Dev) (c p : Nat) : Option Nat :=
  let last := pageKey c (d.storedPages c)
  (d.mem.written.find? fun (e : Nat × Bool) => decide (pageKey c p ≤ e.1) && decide (e.1 < last)).map fun e => e.1 % 2 ^ 28

/-- The first line of the Crema stream from `k` on: near lines, present cache lines, metadata lines. -/
def Dev.cremaLineFrom (d : Dev) (k : Nat) : Option Nat :=
  let near := 64 * 262144 * d.near
  if k < near then some k
  else
    let cached := d.frames.findSome? fun (e : Nat × Frame) =>
      let g := d.frameOf (e.1 / 16) (e.1 % 16)
      if e.2.st = 0 then none
      else ((rangeWhere 64 fun l => e.2.valid.getLsbD l && decide (k ≤ cremaKey g l)).head?).map fun l => cremaKey g l
    match cached with
    | some x => some x
    | none =>
      let x := max k (64 * d.metaFrame)
      if x < 64 * d.frameCount then some x else none

/-- The first such line on a channel in service: the spare and an isolated channel are not walked (R227). Of 31 frames in a row each
lies on another channel. -/
def Dev.nextCremaLine (d : Dev) (k : Nat) : Nat → Option Nat
  | 0 => none
  | fuel + 1 => match d.cremaLineFrom k with
    | some x => if d.unbacked (x / 64) then Dev.nextCremaLine d ((x / 64 + 1) * 64) fuel else some x
    | none => none

/-- Lines that the walk counts: those of written far pages, and those of the Crema stream. -/
def Dev.rekeyTotal (d : Dev) : Nat :=
  let far := (interleave d.ileave).foldl (fun n c =>
    n + 64 * (d.mem.written.filter fun (e : Nat × Bool) => e.1 / 2 ^ 28 == c).length) 0
  let cached := d.frames.foldl (fun n (e : Nat × Frame) => if e.2.st = 0 then n else n + ones e.2.valid) 0
  far + 64 * 262144 * d.near + cached + 64 * (d.frameCount - d.metaFrame)

/-- Brings PCT up to date. -/
def Dev.syncRekey (d : Dev) : Dev :=
  match d.cry.rekey with
  | some r => d.setFld Fld.cryRekeySts_pct (if r.total = 0 then 0 else min 100 (100 * r.walked / r.total))
  | none => d

/-- Changes the rekey. -/
def Dev.modRekey (d : Dev) (f : Rekey → Rekey) : Dev := { d with cry := { d.cry with rekey := d.cry.rekey.map f } }

/-- Is a line of this member open at its home? -/
def Dev.lineOpen (d : Dev) (ma : Nat) : Bool := d.txns.any fun x => x.atHome && lineKey x.ma == lineKey ma

/-- The boundary of a channel passes the fresh pages before `pg`, or with `none` all that are left: the nodes that it has now passed take
their tags anew (R226). -/
def Dev.skipFresh (d : Dev) (c : Nat) (pg : Option Nat) : Dev :=
  let from_ := d.fld (Fld.cryFarBound_page c)
  if pg = some from_ then d
  else
    let d := match pg with | some p => d.setFld (Fld.cryFarBound_page c) p | none => d.setFlag (Fld.cryFarBound_end c) true
    match (d.mem.written.filter fun (e : Nat × Bool) => decide (pageKey c 0 ≤ e.1) && decide (e.1 < pageKey c from_)).getLast? with
    | some e => d.retag {} (.ctr c (e.1 % 2 ^ 28)) 16
    | none => d

/-- One budget unit of a far stream: the next line of the page in collection, or the first of the next page; answers whether it read a
line. A line waits behind an open transaction on it, a page for 64 free line buffers, and one whose lines are all held for its commit. -/
def Dev.farUnit (d : Dev) (c : Nat) : Bool × Dev :=
  let held := match d.cry.rekey with | some r => vget none r.pages c | none => none
  let read := fun (d : Dev) (p : RekeyPage) =>
    let j := ones p.got
    let cli := p.page * 64 + j
    let (x, poison) := d.farView c cli
    let d := ((d.activate c cli none false).waste (farSched c cli) 0x01B (d.burst c)).metaFor c cli {}
    let p := { p with held := Sparse.put 0 p.held j x, got := p.got ||| BitVec.ofNat 64 (2 ^ j),
                      poison := if poison then p.poison ||| BitVec.ofNat 64 (2 ^ j) else p.poison }
    d.modRekey fun r => { r with pages := vmod r.pages c fun _ => some p, walked := r.walked + 1 }
  if d.flag (Fld.cryFarBound_end c) then (false, d)
  else match held with
    | some p => if p.got = BitVec.allOnes 64 || d.lineOpen (d.farMa c (p.page * 64 + ones p.got)) then (false, d) else (true, read d p)
    | none => match d.nextPage c (d.fld (Fld.cryFarBound_page c)) with
      | some pg =>
        if d.sharedFree < 64 || d.lineOpen (d.farMa c (pg * 64)) then (false, d)
        else (true, read (d.skipFresh c (some pg)) ⟨pg, [], 0, 0, false⟩)
      | none => (false, d.skipFresh c none)

/-- The media address of what a Crema line holds: a near line, or the far line of a cache frame; none for the reserve. -/
def Dev.cremaMa (d : Dev) (g l : Nat) : Option Nat :=
  let near := 262144 * d.near
  if g < near then some (d.nearMa g l)
  else if g < d.metaFrame then
    let (set, way) := ((g - near) / 16, (g - near) % 16)
    some (mkMa d.chainId true (offOf (d.pageOf set (d.frame set way).tag) l))
  else none

/-- One budget unit of the Crema stream: the line waits behind an open transaction on it, and the boundary passes it as its write is
issued. -/
def Dev.cremaUnit (d : Dev) : Bool × Dev :=
  match d.cry.rekey with
  | some r =>
    if r.cremaEnd then (false, d)
    else match d.nextCremaLine (d.fld Fld.cryCrmBound_line) 62 with
      | some k =>
        if (d.cremaMa (k / 64) (k % 64)).any d.lineOpen then (false, d)
        else
        let s := d.crmSched (k / 64) (k % 64)
        let d := (d.activateCrema s (k / 64) (k % 64)).waste s 0x01B 8
        (true, (d.setFld Fld.cryCrmBound_line (k + 1)).modRekey fun r => { r with walked := r.walked + 1 })
      | none => (false, d.modRekey fun r => { r with cremaEnd := true })
  | none => (false, d)

/-- Gives one unit to the first stream, from the one whose turn it is, that takes it; `n` streams are tried (R224). -/
def Dev.rekeyTurn (d : Dev) : Nat → Bool × Dev
  | 0 => (false, d)
  | n + 1 =>
    match d.cry.rekey with
    | some r =>
      let d := d.modRekey fun r => { r with next := (r.next + 1) % 9 }
      let (took, d) := if r.next < 8 then d.farUnit r.next else d.cremaUnit
      if took then (true, d) else Dev.rekeyTurn d n
    | none => (false, d)

/-- Hands out units while a stream takes them. -/
def Dev.rekeyUnits (d : Dev) : Nat → Dev
  | 0 => d
  | n + 1 => match d.rekeyTurn 9 with
    | (true, d) => Dev.rekeyUnits d n
    | (false, d) => d

/-- One pour of the walk, at the RATE in force (R223, R224); DRAIN and HIBERNATE pause it. -/
def Dev.rekeyPour (d : Dev) : Dev :=
  let d := match d.cry.rateNext with
    | some n => ({ d with cry := { d.cry with rateNext := none } }).setFld Fld.cryRekeyCtl_rate n
    | none => d
  match d.cry.rekey with
  | some r =>
    if r.phase == .walking && !d.due.rekeyPaused && d.live then (d.rekeyUnits (d.fld Fld.cryRekeyCtl_rate)).syncRekey else d
  | none => d

/-- May a requested rekey start: outside DRAIN, HIBERNATE and MAINT, every far channel awake? -/
def Dev.rekeyReady (d : Dev) : Bool :=
  d.live && d.clk.running && d.mode != .drain && d.mode != .hibernate && d.mode != .maint &&
    (List.range 8).all fun c => d.fld (Fld.farChSts_state c) != 3

/-- REKEY_START (R223): boundary k. A failed health test refuses it and changes nothing else. -/
def Dev.edgeRekeyStart (healthOk : Bool) (d : Dev) : Dev :=
    match d.cry.rekey with
    | some r =>
      if r.phase == .requested && d.rekeyReady then
        if healthOk then
          let now := d.now
          let d := { d with cry := { d.cry with
            oldKey := d.cry.key, key := some d.cry.draws, draws := d.cry.draws + 1, rekeys := d.cry.rekeys + 1,
            majorNextOld := d.cry.majorNext, majorNext := 0,
            rekey := some { r with phase := .deriving_, k := now, next := 0, cremaEnd := false, walked := 0 } } }
          let d := ((d.setFlag Fld.crySts_rekey true).setFld Fld.cryCrmBound_line 0).setFld Fld.cryRekeySts_pct 0
          let d := d.setFlag Fld.cryRekeyCtl_start true
          let d := (List.range 8).foldl (fun d c =>
            d.setReg (Off.cryFarBound c) (if (interleave d.ileave).contains c && !d.farLost c then 0 else 0x80000000)) d
          (d.raiseN 0x154 []).syncBrew
        else
          let d := { d with cry := { d.cry with rekey := none, rateNext := none } }
          let d := (d.setFlag Fld.cryRekeySts_refused true).setFlag Fld.cryRekeyCtl_start false
          (d.setFlag Fld.crySts_trngOk false).raiseN 0x156 []
      else d
    | none => d

/-- SUBKEY_DERIVATION_DONE (R223): from k + 64 on the walk runs. -/
def Dev.edgeSubkeyDerivationDone (d : Dev) : Dev :=
    match d.cry.rekey with
    | some r =>
      if r.phase == .deriving_ && d.live && decide (r.k + 64 ≤ d.now) then
        let n := d.rekeyTotal
        d.modRekey fun r => { r with phase := .walking, total := n }
      else d
    | none => d

/-- The page held on a channel, if the walk runs. -/
def Dev.rekeyPage (d : Dev) (c : Nat) : Option RekeyPage :=
  match d.cry.rekey with
  | some r => if r.phase == .walking && d.live then vget none r.pages c else none
  | none => none

/-- One line that a commit writes: its activate and its slots (R229). -/
def Dev.rekeyWrite (d : Dev) (c cli : Nat) : Dev := (d.activate c cli none false).waste (farSched c cli) 0x01B (d.burst c)

/-- REKEY_PAGE_COMMIT (R225): a new counter block, the 64 lines under the new key, and the 4 MAC lines. -/
def execRekeyPageCommit (ch : FarCh) (s : State) : Host.Outcome State Fault Refusal :=
  s.on fun d =>
    match d.rekeyPage ch.val with
    | some p =>
      if p.got == BitVec.allOnes 64 && !p.committed then
        let c := ch.val
        let d := d.freshCtr c p.page true
        let d := ((d.ctrBase c + p.page) :: (List.range 4).map (d.macBase c + 4 * p.page + ·)).foldl (fun d x => d.rekeyWrite c x) d
        let d := (List.range 64).foldl (fun d j =>
          let cli := p.page * 64 + j
          let bad := p.poison.getLsbD j
          ((d.rekeyWrite c cli).setFarPoison c cli bad).putFar (farKey c cli) (if bad then 0 else Sparse.get 0 p.held j)) d
        d.modRekey fun r => { r with pages := vmod r.pages c fun o => o.map fun (x : RekeyPage) => { x with committed := true } }
      else d
    | none => d

/-- REKEY_PAGE_ADVANCE (R225, R226): the boundary passes the page, and the nodes above it take their tags anew. -/
def Dev.edgeRekeyPageAdvance (ch : FarCh) (d : Dev) : Dev :=
    match d.rekeyPage ch.val with
    | some p =>
      if p.committed then
        ((d.setFld (Fld.cryFarBound_page ch.val) (p.page + 1)).retag {} (.ctr ch.val p.page) 16).modRekey fun r =>
          { r with pages := vmod r.pages ch.val fun _ => none }
      else d
    | none => d

/-- REKEY_DONE (R223): every stream has ended; the new key becomes the only one. -/
def Dev.edgeRekeyDone (d : Dev) : Dev :=
    match d.cry.rekey with
    | some r =>
      if r.phase == .walking && d.live && r.cremaEnd && ((List.range 8).all fun c => d.flag (Fld.cryFarBound_end c)) then
        let d := { d with cry := { d.cry with rekey := none, rateNext := none, oldKey := none, majorNextOld := 0 } }
        let d := (d.setFlag Fld.crySts_rekey false).bump Fld.crySts_rekeys 1
        let d := ((d.setFlag Fld.cryRekeySts_done true).setFld Fld.cryRekeySts_pct 100).setFlag Fld.cryRekeyCtl_start false
        (d.raiseN 0x155 []).syncBrew.newLinkKeys
      else d
    | none => d

/-- The body of XT_REKEY_STATUS: the register, the lines left, and the pours they take at RATE. -/
def bodyRekeyStatus (i : Iface) (p : Payload) (d : Dev) : Dev :=
  d.vendor i 0xC031 p 0 fun _ d =>
    let left := match d.cry.rekey with | some r => r.total - r.walked | none => 0
    let rate := max 1 (d.fld Fld.cryRekeyCtl_rate)
    d.complete i 0xC031 rcSuccess (leBytes 4 (d.reg Off.cryRekeySts).toNat ++ leBytes 8 left ++ leBytes 8 (ceilDiv left rate))

/-- XT_REKEY_STATUS (R394). -/
def execXtRekeyStatus (i : Iface) (p : Payload) (s : State) : Host.Outcome State Fault Refusal :=
  s.on fun d => d.mailbox i (.xtRekeyStatus i p) 0xC031 (bodyRekeyStatus i p)

end Sys2Proof.Machine
end

