-- ==== Sys2Proof/Machine/Bus.lean ====
section
/-! DEFINITION. Sys2Proof/Machine/Bus.lean: register accesses: writes of every access code, the reads with effects, the
window, the PMU's controls, and the management register messages over MCTP (R410 to R422, R427, R440, R448, R468, R478). -/

namespace Sys2Proof.Machine

/-! ### Staged writes (R391, R422, R424) -/

/-- The pending entry of a staged register takes the RWS bits of a value. -/
def Dev.pendWrite (d : Dev) (o : Nat) (value : Word) : Dev :=
  let m := accMask (·.rws) o
  d.setPend o ((d.pendReg o &&& ~~~m) ||| (value &&& m))

/-- A staged register write: another interface than the owner's is counted and dropped; while a check runs, the owner's
writes are held. -/
def Dev.stageWrite (d : Dev) (src : Source) (o : Nat) (value : Word) : Dev :=
  match sourceIface src with
  | none => d
  | some i =>
    if !d.mayStage i then d.bump (Fld.mboxCmdSts_foreign (ifaceIdx i)) 1
    else if d.stg.checking.isSome then { d with stg := { d.stg with heldWrites := d.stg.heldWrites ++ [(o, value)] } }
    else (d.pendWrite o value).staged i

/-- Does the register at an offset hold a staged field? -/
def isStaged (o : Nat) : Bool := accMask (·.rws) o != 0

/-- STAGED_REGISTER_WRITE (R422, R391). -/
def execStagedRegisterWrite (src : Source) (off : Nat) (value : Word) (s : State) : Host.Outcome State Fault Refusal :=
  s.on fun d => if d.canAccess src off && isStaged off then d.stageWrite src off value else d

/-! ### Keyed pairs (R414, R416) -/

/-- What the value of a keyed register does once its pair is complete. -/
def keyedAct (o : Nat) : Word → Dev → Option Dev :=
  if o = Off.glbSealCtl then sealAct
  else if o = Off.glbLcAdv then lcAct
  else if o = Off.rasFuseLo then fuseActDirect
  else if o = Off.inlOverride then inletOverride
  else if o = Off.inlClear then inletClear
  else if o = Off.canErase then eraseAct
  else fun _ _ => none

/-- A KEY write for the keyed register at `o`. -/
def Dev.keyTwin (d : Dev) (src : Source) (o : Nat) (key : Word) : Dev :=
  if o = Off.cryRekeyCtl then d.rekeyKey src key else d.keyWrite src o key (keyedAct o)

/-- KEYED_VALUE_WRITE (R414). -/
def execKeyedValueWrite (src : Source) (off : Nat) (value : Word) (s : State) : Host.Outcome State Fault Refusal :=
  s.on fun d => if d.canAccess src off && keyedOffsets.contains off then d.arm src off value else d

/-- KEYED_PAIR_TIMEOUT (R414): 256 cycles have passed without a KEY write. -/
def execKeyedPairTimeout (src : Source) (s : State) : Host.Outcome State Fault Refusal :=
  s.on fun d =>
    match d.armedBy src with
    | some a => if 256 < a.at_.cyclesTo d.stamp then (d.setArmed src none).keyFail 0 a.off else d
    | none => d

/-! ### The PMU's controls (R440, R448) -/

/-- A write of general counter `n`'s selection: shown at once, counted from the next boundary. -/
def Dev.pmuSelect (d : Dev) (o n : Nat) (value : Word) : Dev :=
  let m := accMask (·.rw) o
  ({ d with pmu := { d.pmu with selDirty := d.pmu.selDirty.add n } }).setReg o (value &&& m)

/-- A write of histogram `h`'s control. -/
def Dev.histSelect (d : Dev) (h : Nat) (value : Word) : Dev :=
  let o := Off.pmuHistCtl h
  ({ d with pmu := { d.pmu with histDirty := d.pmu.histDirty ||| BitVec.ofNat 4 (2 ^ h) } }).setReg o (value &&& accMask (·.rw) o)

/-- A write of `PMU_CTL`: FREEZE is shown at once; all three act at the next boundary. -/
def Dev.pmuControl (d : Dev) (value : Word) : Dev :=
  let d := d.setFlag Fld.pmuCtl_freeze (value.getLsbD 31)
  { d with pmu := { d.pmu with clrGen := d.pmu.clrGen || value.getLsbD 30, clrOvf := d.pmu.clrOvf || value.getLsbD 29 } }

/-- PMU_CTL_FREEZE (R440). -/
def execPmuCtlFreeze (on : Bool) (s : State) : Host.Outcome State Fault Refusal :=
  s.on fun d => if d.mode == .cold then d else d.setFlag Fld.pmuCtl_freeze on

/-- PMU_CTL_CLR_GEN (R440). -/
def execPmuCtlClrGen (s : State) : Host.Outcome State Fault Refusal :=
  s.on fun d => if d.mode == .cold then d else { d with pmu := { d.pmu with clrGen := true } }

/-- PMU_CTL_CLR_OVF (R440). -/
def execPmuCtlClrOvf (s : State) : Host.Outcome State Fault Refusal :=
  s.on fun d => if d.mode == .cold then d else { d with pmu := { d.pmu with clrOvf := true } }

/-- PMU_EVSEL_WRITE (R440). -/
def execPmuEvselWrite (n : Fin 64) (value : Word) (s : State) : Host.Outcome State Fault Refusal :=
  s.on fun d => if d.mode == .cold then d else d.pmuSelect (Off.pmuEvsel n.val) n.val value

/-- PMU_SCOPE_WRITE (R440). -/
def execPmuScopeWrite (n : Fin 64) (value : Word) (s : State) : Host.Outcome State Fault Refusal :=
  s.on fun d => if d.mode == .cold then d else d.pmuSelect (Off.pmuScope n.val) n.val value

/-- PMU_HIST_CTL_WRITE (R448). -/
def execPmuHistCtlWrite (h : Fin 4) (value : Word) (s : State) : Host.Outcome State Fault Refusal :=
  s.on fun d => if d.mode == .cold then d else d.histSelect h.val value

/-- PMU_HIST_CLR (R448): the named histograms clear at the next boundary. -/
def execPmuHistClr (mask : BitVec 4) (s : State) : Host.Outcome State Fault Refusal :=
  s.on fun d => if d.mode == .cold then d else { d with pmu := { d.pmu with histDirty := d.pmu.histDirty ||| mask } }

/-! ### Writes -/

/-- A 4-byte write to a register page, by what the access codes of its fields say (R411, R412). -/
def Dev.regWrite (d : Dev) (src : Source) (o : Nat) (v : Word) : Dev :=
  if o = Off.snapCtl then (if v.getLsbD 31 then { d with acc := { d.acc with snapReq := true } } else d)
  else if o = Off.sealCommit then (if v.getLsbD 0 then d.askReference else d)
  else if o = Off.pmuCtl then d.pmuControl v
  else if o = Off.pmuHistClr then { d with pmu := { d.pmu with histDirty := d.pmu.histDirty ||| v.setWidth 4 } }
  else if 0x280100 ≤ o ∧ o < 0x280200 then d.pmuSelect o ((o - 0x280100) / 4) v
  else if 0x280200 ≤ o ∧ o < 0x280300 then d.pmuSelect o ((o - 0x280200) / 4) v
  else if 0x280400 ≤ o ∧ o < 0x280410 then d.histSelect ((o - 0x280400) / 4) v
  else if keyedOffsets.contains o then d.arm src o v
  else if 4 ≤ o ∧ keyedOffsets.contains (o - 4) then d.keyTwin src (o - 4) v
  else if accMask (·.rwp) o ≠ 0 then d.post o v
  else
    let m := accMask (·.rw) o
    let d := if m = 0 then d else d.setReg o ((d.reg o &&& ~~~m) ||| (v &&& m))
    if isStaged o then d.stageWrite src o v else d

/-- A 4-byte write at an offset of BAR2 that is not the window's own. -/
def Dev.writeAt (d : Dev) (src : Source) (o : Nat) (v : Word) : Dev :=
  if 0x400000 ≤ o ∧ o < 0x1000000 then (if d.testOpen then d else d.setFlag Fld.glbAccSts_locked true)
  else if 0x1000000 ≤ o ∧ o < 0x1400000 then d.setFlag Fld.glbAccSts_aliasWr true
  else if 0x1400000 ≤ o then d
  else d.regWrite src o v

/-- A write by a source. A window that stands at the window registers drops the write there (log entry 23). -/
def Dev.busWrite (d : Dev) (src : Source) (o : Nat) (v : Word) (be : BitVec 4) : Dev :=
  let o := o / 4 * 4
  if be ≠ 15 then d.setFlag Fld.glbAccSts_size true
  else if o = Off.indAddr then d.setInd src v
  else if o = Off.indData then
    let t := indOffset (d.indAddrOf src)
    let d := if t = Off.indAddr ∨ t = Off.indData then d else d.writeAt src t v
    d.indStep src
  else d.writeAt src o v

/-- REGISTER_WRITE (R410 to R412). -/
def execRegisterWrite (src : Source) (off : Nat) (value : Word) (be : BitVec 4) (s : State) : Host.Outcome State Fault Refusal :=
  s.on fun d => if d.canAccess src off then d.busWrite src off value be else d

/-- SNAP_CTL_REQ (R427). -/
def execSnapCtlReq (src : Source) (s : State) : Host.Outcome State Fault Refusal :=
  s.on fun d => if d.canAccess src Off.snapCtl then d.busWrite src Off.snapCtl 0x80000000 15 else d

/-! ### Reads -/

/-- A read: the word leaves with its source; the read finds nobody, or an uncorrectable word, and is aborted (R186). -/
def Dev.readOut (d : Dev) (src : Source) (o : Nat) (be : BitVec 4) : Dev :=
  if d.canAccess src o && !d.ringBad o then
    let (w, d) := d.busRead src o be
    d.emit (.word src w)
  else d.emit (.abort src)

/-- RC_READ (R413): a read of any register, which clears what its RC fields return. -/
def execRcRead (src : Source) (off : Nat) (be : BitVec 4) (s : State) : Host.Outcome State Fault Refusal :=
  s.on fun d => d.readOut src off be

/-- GLB_POUR_LO_READ (R31): latches the high word and the cycle. -/
def execGlbPourLoRead (src : Source) (s : State) : Host.Outcome State Fault Refusal :=
  s.on fun d => d.readOut src Off.glbPourLo 15

/-- CRY_MAJOR_NEXT_LO_READ (R234): latches the high word. -/
def execCryMajorNextLoRead (src : Source) (s : State) : Host.Outcome State Fault Refusal :=
  s.on fun d => d.readOut src Off.cryMajorNextLo 15

/-- STG_COMMIT_POUR_LO_READ (R433): latches the high word. -/
def execStgCommitPourLoRead (src : Source) (s : State) : Host.Outcome State Fault Refusal :=
  s.on fun d => d.readOut src Off.stgCommitPourLo 15

/-- IND_DATA_ACCESS (R418): a read, or a write of the word given, through the source's window. -/
def execIndDataAccess (src : Source) (wr : Option Word) (s : State) : Host.Outcome State Fault Refusal :=
  s.on fun d =>
    match wr with
    | none => d.readOut src Off.indData 15
    | some w => if d.canAccess src Off.indData then d.busWrite src Off.indData w 15 else d

/-! ### Management register messages (R420, R468) and the SMBus (R478, R539) -/

/-- `MCTP_RO` as it applies now: the island keeps the value of the last BOOT while it serves alone. -/
def Dev.readOnly (d : Dev) : Bool := if d.islandOnly then d.pwr.mctpRo else d.flag Fld.glbSecCtl_mctpRo

/-- The STATUS that refuses a management register message, if one does. -/
def Dev.mgmtRefusal (d : Dev) (count off : Nat) (wr : Bool) : Option Nat :=
  let offs := (List.range count).map fun i => off + 4 * i
  if off % 4 ≠ 0 ∨ count = 0 ∨ 16 < count ∨ 0x2000000 < off + 4 * count then some 3
  else if !offs.all (fun o => d.canAccess .mctp o) then some 1
  else if !d.testOpen && offs.any (fun o => decide (0x400000 ≤ o) && decide (o < 0x1000000)) then some 2
  else if wr && d.readOnly && !offs.all (fun o => decide (0x310000 ≤ o) && decide (o < 0x330000)) then some 2
  else none

/-- Does a refused message touch the locked Test page (R421)? -/
def Dev.mgmtLocked (d : Dev) (st off : Nat) : Dev :=
  if st = 2 ∧ 0x400000 ≤ off + 60 ∧ off < 0x1000000 then d.setFlag Fld.glbAccSts_locked true else d

/-- Reads dwords at ascending offsets. -/
def Dev.mgmtReads (d : Dev) (off : Nat) : Nat → List Word × Dev
  | 0 => ([], d)
  | n + 1 =>
    let (w, d) := d.busRead .mctp off 15
    let (ws, d) := d.mgmtReads (off + 4) n
    (w :: ws, d)

/-- Writes dwords at ascending offsets. -/
def Dev.mgmtWrites (d : Dev) (off : Nat) : List Word → Dev
  | [] => d
  | w :: ws => (d.busWrite .mctp off w 15).mgmtWrites (off + 4) ws

/-- MGMT_REGISTER_READ (R420). -/
def execMgmtRegisterRead (count off : Nat) (s : State) : Host.Outcome State Fault Refusal :=
  s.on fun d =>
    if !d.pwr.vaux then d
    else match d.mgmtRefusal count off false with
      | some st => (d.mgmtLocked st off).emit (.mgmt st [])
      | none =>
        let (ws, d) := d.mgmtReads off count
        d.emit (.mgmt 0 ws)

/-- MGMT_REGISTER_WRITE (R420, R468). Missing data words are zero. -/
def execMgmtRegisterWrite (count off : Nat) (data : List Word) (s : State) : Host.Outcome State Fault Refusal :=
  s.on fun d =>
    if !d.pwr.vaux then d
    else match d.mgmtRefusal count off true with
      | some st => (d.mgmtLocked st off).emit (.mgmt st [])
      | none => (d.mgmtWrites off ((List.range count).map fun i => data.getD i 0)).emit (.mgmt 0 [])

/-- Is ALERT_N asserted: an enabled cause, or HALT or HELD (R478)? -/
def Dev.alertN (d : Dev) : Bool :=
  (d.reg Off.rasAlertSts &&& (BitVec.ofNat 32 (d.fld Fld.rasAlertEn_en) ||| 0xC)) != 0

/-- SMBUS_ALERT_RESPONSE (R478, R530): the island answers with its own address while ALERT_N is asserted. -/
def execSmbusAlertResponse (s : State) : Host.Outcome State Fault Refusal :=
  s.on fun d => if d.pwr.vaux && d.alertN then d.emit (.alertResponse (0x58 + d.pwr.smbAddr.toNat)) else d

/-- SMBUS_LOW_TIMEOUT (R539): after 25 ms of a low clock the device releases the bus. -/
def execSmbusLowTimeout (s : State) : Host.Outcome State Fault Refusal :=
  s.on fun d => if d.pwr.vaux then d.emit .smbusRelease else d

end Sys2Proof.Machine
end

