-- ==== Sys2Proof/Machine/Tenants.lean ====
section
/-! DEFINITION. Sys2Proof/Machine/Tenants.lean: XT_IDENTIFY (R395), which media blocks and table entries are free (R68, R70, R237,
R238), creating, resizing, resetting and destroying tenants (R82 to R87, R92, R396), and the sequence of R85. -/

namespace Sys2Proof.Machine

/-! ### XT_IDENTIFY (R395) -/

/-- The firmware version of a slot: 0 when the slot is invalid. -/
def Dev.slotVersion (d : Dev) (n : Nat) : Nat :=
  let s := vget (⟨[], false⟩ : Slot) d.can.slots n
  if s.valid then leNat s.bytes 4 4 else 0

/-- The output of XT_IDENTIFY. -/
def Dev.identity (d : Dev) : Payload :=
  let run := d.mb.state == .running && !d.mb.recovery
  leBytes 2 (match d.part with | .xtp8640 => 0x8640 | .xtp8632 => 0x8632) ++ leBytes 1 Config.stepping.toNat ++
  leBytes 1 d.lifecycle.code ++ leBytes 4 (if run then d.slotVersion d.mb.slot.val else 0) ++
  leBytes 4 (d.slotVersion 0) ++ leBytes 4 (d.slotVersion 1) ++ leBytes 1 (d.mb.slot.val + 4 * d.can.bootSlot.val) ++
  leBytes 1 (d.fld Fld.glbPortMode_mode) ++ leBytes 1 d.mode.code ++
  leBytes 1 (if d.flag Fld.rlyChainSts_idv then d.chainId else 0xFF) ++ leBytes 2 d.cacheGib ++
  leBytes 2 (d.fld Fld.farMapCtl_dataBlocks) ++ leBytes 8 d.now

/-- The body of XT_IDENTIFY. -/
def bodyIdentify (i : Iface) (p : Payload) (d : Dev) : Dev :=
  d.vendor i 0xC000 p 0 fun _ d => d.complete i 0xC000 rcSuccess d.identity

/-- XT_IDENTIFY (R395). -/
def execXtIdentify (i : Iface) (p : Payload) (s : State) : Host.Outcome State Fault Refusal :=
  s.on fun d => d.mailbox i (.xtIdentify i p) 0xC000 (bodyIdentify i p)

/-! ### Free blocks (R83, R86, R237, R238) -/

/-- The media blocks of a member that wait for their sanitise, as medium and block. -/
def Dev.wiping (d : Dev) (m : Nat) : List (Nat × Nat) :=
  d.mb.internal.flatMap fun (b : Brew) => match b.work with
    | .blockSanitise l => (l.filter fun (x : Nat × Nat) => x.1 / 4 == m).map fun (x : Nat × Nat) => (x.1 % 4, x.2)
    | _ => []

/-- Is a far block storage of a pool, or taken for one by a staged command? -/
def Dev.storageBlock (d : Dev) (b : Nat) : Bool :=
  (List.range 8).any (fun n => (d.pool n).mapBlocks.contains b || (d.pool n).dataBlocks.contains b) ||
  d.stg.cmds.any fun c => match c with
    | .poolCreate _ _ _ l _ => l.contains b
    | .poolAdd _ _ l _ => l.contains b
    | _ => false

/-- Is a block of a member held by an extent? -/
def Dev.heldOn (d : Dev) (m : Nat) (far : Bool) (b : Nat) : Bool :=
  d.ext.any fun (e : Nat × Word) =>
    (extV e.2 || extPend e.2) && extMember e.2 == m && extFar e.2 == far && extBlock e.2 == b

/-- Free far blocks of this device, ascending. -/
def Dev.freeFar (d : Dev) : List Nat :=
  let wiping := d.wiping d.chainId
  rangeWhere (d.fld Fld.farMapCtl_dataBlocks) fun b =>
    !d.heldOn d.chainId true b && !d.storageBlock b && !wiping.contains (1, b) && !wiping.contains (2, b)

/-- Free near blocks of this device, ascending. -/
def Dev.freeNear (d : Dev) : List Nat :=
  let wiping := d.wiping d.chainId
  rangeWhere (4 * d.near) fun b => !d.heldOn d.chainId false b && !wiping.contains (0, b)

/-- Free exposure blocks of a pool, in exposure order. -/
def Dev.freeExposed (d : Dev) (n : Nat) : List Nat :=
  let wiping := d.wiping d.chainId
  (d.pool n).exposed.filter fun b => !d.heldOn d.chainId true b && !wiping.contains (2, b)

/-- Free far blocks of another member, by its record. -/
def Dev.freeMember (d : Dev) (m : Nat) : List Nat :=
  match vget none d.chain.members m with
  | some r =>
    let wiping := d.wiping m
    rangeWhere r.dataBlocks fun b => !d.heldOn m true b && !d.chain.lost.contains (m, b) && !wiping.contains (1, b)
  | none => []

/-- Extent words for far blocks of the members that a mask allows, lowest ID first. -/
def Dev.farWords (d : Dev) (mask : Nat) : List Word :=
  (List.range 8).flatMap fun m =>
    if !bitAt mask m then []
    else if m = d.chainId then d.freeFar.map fun b => mkExt true false false m true b
    else if d.memberServing m then (d.freeMember m).map fun b => mkExt true false false m true b
    else []

/-- Extent words for exposure blocks of a pool. -/
def Dev.poolWords (d : Dev) (n : Nat) : List Word := (d.freeExposed n).map fun b => mkExt true true false d.chainId true b

/-- Extent words for near blocks of this device. -/
def Dev.nearWords (d : Dev) : List Word := d.freeNear.map fun b => mkExt true false false d.chainId false b

/-! ### Free table entries (R70, R83) -/

/-- The ranges in use: of tenants, of staged tenants, and of entries that wait for the next boundary. -/
def Dev.usedRanges (d : Dev) : List (Nat × Nat) :=
  ((allTenants.filter fun t => d.flag (Fld.tntCtl_en t.val)).map fun t => (d.extBase t, d.extLen t)) ++
  (d.stg.cmds.filterMap fun c => match c with | .tenant _ _ _ _ b n _ _ _ _ _ _ => some (b, n) | _ => none) ++
  d.extRetire.map fun e => (e, 1)

/-- Is a range of entries unused, and inside the table? -/
def Dev.rangeFree (d : Dev) (base len : Nat) : Bool :=
  decide (base + len ≤ 262144) && d.usedRanges.all fun (r : Nat × Nat) => decide (r.1 + r.2 ≤ base ∨ base + len ≤ r.1)

/-- The lowest base of an unused range. -/
def Dev.findRange (d : Dev) (len : Nat) : Option Nat :=
  let starts := 0 :: d.usedRanges.map fun (r : Nat × Nat) => r.1 + r.2
  (starts.filter fun b => d.rangeFree b len).foldl (fun (m : Option Nat) b =>
    match m with | some x => some (min x b) | none => some b) none

/-! ### Create and resize (R82, R83, R396) -/

/-- The fields of the body of R396. -/
structure TenantBody where
  t : Nat
  port : Nat
  ld : Nat
  near : Nat
  stat : Nat
  comp : Bool
  pool : Nat
  members : Nat
  media : List (Nat × Nat)
  ok : Bool
  deriving DecidableEq, Repr

/-- Reads the body; `ok` is false where a field is out of range or a reserved byte is not zero. -/
def tenantBody (b : Payload) : TenantBody :=
  let stat := leNat b 4 4
  let media := (List.range 8).map fun r => (byteAt b (10 + r) % 4, byteAt b (10 + r) / 4 % 8)
  { t := byteAt b 0, port := byteAt b 1, ld := byteAt b 2, near := byteAt b 3, stat := stat % 2 ^ 19, comp := bitAt (byteAt b 8) 0,
    pool := byteAt b 8 / 2 % 8, members := byteAt b 9, media := media,
    ok := decide (byteAt b 0 < 32) && decide (byteAt b 1 < 2) && decide (byteAt b 2 < 16) && decide (byteAt b 3 ≤ 128) &&
          decide (stat < 2 ^ 19) && zeroBytes b 18 6 }

/-- The tenant of a number below 32. -/
def tenantId (n : Nat) : TenantId := ⟨n % 32, Nat.mod_lt _ (by decide)⟩

/-- Does an uncommitted create or resize name the tenant? -/
def Dev.stagedTenant (d : Dev) (t : TenantId) : Bool :=
  d.stg.cmds.any fun c => match c with | .tenant _ t' _ _ _ _ _ _ _ _ _ _ => t' == t | _ => false

/-- Do the pools that a body names for compressed capacity exist? -/
def Dev.poolsExist (d : Dev) (comp : Bool) (pool : Nat) (media : List (Nat × Nat)) : Bool :=
  (!comp || (d.pool pool).used) && media.all fun (m : Nat × Nat) => m.1 != 3 || (d.pool m.2).used

/-- `TNT_PART` of its fields. -/
def partWord (near stat : Nat) (comp : Bool) : Word := BitVec.ofNat 32 (near % 256 + stat % 2 ^ 19 * 256 + bitOf comp * 2 ^ 27)

/-- Stages a tenant's new range: the entries are written, the descriptor waits for the commit. -/
def Dev.stageTenant (d : Dev) (i : Iface) (opcode : Nat) (c : StagedCmd) (base : Nat) (from_ : Nat) (words : List Word) : Dev :=
  let d := ((List.range words.length).drop from_).foldl (fun d k => d.setExt (base + k) (words.getD k 0)) d
  (d.stage i c).complete i opcode rcSuccess (leBytes 4 base ++ leBytes 4 words.length)

/-- The body of XT_TENANT_CREATE. -/
def bodyTenantCreate (i : Iface) (p : Payload) (d : Dev) : Dev :=
  d.vendor i 0xC020 p 24 fun q d =>
    let b := tenantBody q
    let t := tenantId b.t
    let port := portOf b.port
    if !d.mayStage i || (b.ok && d.stagedTenant t) then d.complete i 0xC020 rcBusy []
    else if !b.ok || !d.hostPort port || (d.tenantOf port b.ld).isSome || d.tntState t != 0 || d.flag (Fld.tntCtl_en t.val) ||
        !d.poolsExist b.comp b.pool b.media ||
        d.stg.cmds.any (fun c => match c with | .tenant true _ p' l _ _ _ _ _ _ _ _ => p' == port && l == b.ld | _ => false) then
      d.complete i 0xC020 rcInvalidInput []
    else
      let near := d.nearWords.take b.near
      let far := (if b.comp then d.poolWords b.pool else d.farWords b.members).take b.stat
      let words := near ++ far
      if near.length < b.near then d.complete i 0xC020 rcInvalidInput []
      else if far.length < b.stat then d.complete i 0xC020 rcResources []
      else match d.findRange words.length with
        | none => d.complete i 0xC020 rcResources []
        | some base =>
          let written := (List.range words.length).map fun k => base + k
          d.stageTenant i 0xC020
            (.tenant true t port b.ld base words.length (partWord b.near b.stat b.comp) b.pool b.members b.media written []) base 0 words

/-- XT_TENANT_CREATE (R82, R396). -/
def execXtTenantCreate (i : Iface) (p : Payload) (s : State) : Host.Outcome State Fault Refusal :=
  s.on fun d => d.mailbox i (.xtTenantCreate i p) 0xC020 (bodyTenantCreate i p)

/-- Does a committed decoder of an LD map a DPA block? -/
def Dev.decodedBlock (d : Dev) (p : PortId) (ld block : Nat) : Bool :=
  let l := d.ldOf p ld
  (List.range 8).any fun i => match vget none l.dec i with
    | some h =>
      let lo := decStart l i
      let hi := lo + h.cfg.size / (max 1 h.cfg.ways)
      decide (lo < (block + 1) * 2 ^ 28 ∧ block * 2 ^ 28 < hi)
    | none => false

/-- Does a region hold an extent, offered ones included? -/
def Dev.regionHolds (d : Dev) (t : TenantId) (r : Nat) : Bool := (d.tenant t).dc.any fun (e : DcExtent) => e.region == r

/-- The words of a tenant's table range. -/
def Dev.extWords (d : Dev) (t : TenantId) : List Word := (List.range (d.extLen t)).map fun k => d.extAt (d.extBase t + k)

/-- Does a DPA block keep its place when the near and static partitions change their lengths from `n0` and `s0` to `n1` and `s1` (R66,
R82)? -/
def samePlace (n0 s0 n1 s1 k : Nat) : Bool :=
  if k < n0 then decide (k < n1)
  else if k < n0 + s0 then n0 == n1 && decide (k < n1 + s1)
  else n0 + s0 == n1 + s1

/-- The body of XT_TENANT_RESIZE. -/
def bodyTenantResize (i : Iface) (p : Payload) (d : Dev) : Dev :=
  d.vendor i 0xC021 p 24 fun q d =>
    let b := tenantBody q
    let t := tenantId b.t
    let ok := decide (b.t < 32) && decide (b.near ≤ 128) && decide (leNat q 4 4 < 2 ^ 19) && zeroBytes q 18 6
    let old := d.tenant t
    let medium := fun (r : Nat) => vget (⟨0, 0, 0⟩ : DcRegion) old.regions r
    if !d.mayStage i || (ok && d.stagedTenant t) then d.complete i 0xC021 rcBusy []
    else if !ok || d.tntState t != 1 || !d.poolsExist false 0 b.media ||
        (List.range 8).any (fun r => d.regionHolds t r && (b.media.getD r (0, 0)) != ((medium r).medium, (medium r).pool)) then
      d.complete i 0xC021 rcInvalidInput []
    else
      let comp := d.flag (Fld.tntPart_staticC t.val)
      let near0 := d.fld (Fld.tntPart_nearBlk t.val)
      let stat0 := d.fld (Fld.tntPart_staticBlk t.val)
      let ws := d.extWords t
      let near := ((ws.take near0).take b.near) ++ d.nearWords.take (b.near - near0)
      let fresh := if comp then d.poolWords old.staticPool else d.farWords b.members
      let far := (((ws.drop near0).take stat0).take b.stat) ++ fresh.take (b.stat - stat0)
      let words := near ++ far ++ ws.drop (near0 + stat0)
      let gone := rangeWhere ws.length fun k => !samePlace near0 stat0 b.near b.stat k || ws.getD k 0 != words.getD k 0
      let removed := ((ws.take near0).drop b.near ++ ((ws.drop near0).take stat0).drop b.stat).filter extV
      let port := d.tntPort t
      let ld := d.tntLd t
      let base0 := d.extBase t
      let part := partWord b.near b.stat comp
      if near.length < b.near then d.complete i 0xC021 rcInvalidInput []
      else if gone.any (fun k => d.decodedBlock port ld k) then d.complete i 0xC021 rcInvalidInput []
      else if far.length < b.stat then d.complete i 0xC021 rcResources []
      else if words.take ws.length == ws && d.rangeFree (base0 + ws.length) (words.length - ws.length) then
        let written := (List.range (words.length - ws.length)).map fun k => base0 + ws.length + k
        d.stageTenant i 0xC021 (.tenant false t port ld base0 words.length part old.staticPool b.members b.media written removed)
          base0 ws.length words
      else match d.findRange words.length with
        | none => d.complete i 0xC021 rcResources []
        | some base =>
          let written := (List.range words.length).map fun k => base + k
          d.stageTenant i 0xC021 (.tenant false t port ld base words.length part old.staticPool b.members b.media written removed) base 0 words

/-- XT_TENANT_RESIZE (R82, R83, R396). -/
def execXtTenantResize (i : Iface) (p : Payload) (s : State) : Host.Outcome State Fault Refusal :=
  s.on fun d => d.mailbox i (.xtTenantResize i p) 0xC021 (bodyTenantResize i p)

/-- The CDAT of an LD is rebuilt at the next boundary (R341). -/
def Dev.cdatChanged (d : Dev) (p : PortId) (ld : Nat) : Dev := d.modLd p ld fun l => { l with cdatDue := true }

/-- The media blocks of extents, as `queueWipe` names them. -/
def mediaBlocks (ws : List Word) : List (Nat × Nat) :=
  (ws.filter extV).map fun w => (extMedium w + 4 * extMember w, extBlock w)

/-- The capacity of an LD that Identify Memory Device reports, in blocks of 256 MiB (R84). -/
def Dev.ldCapacity (d : Dev) (p : PortId) (ld : Nat) : Nat := match d.tenantOf p ld with | some t => d.extLen t | none => 0

/-- A create or resize takes effect (R82 to R84): the descriptor, the regions, the extents that went. Extents of
dynamic-capacity regions keep their place in the region. -/
def Dev.commitTenant (d : Dev) (create : Bool) (t : TenantId) (port : PortId) (ld base len : Nat) (part : Word) (pool members : Nat)
    (media : List (Nat × Nat)) (removed : List Word) : Dev :=
  let base0 := d.extBase t
  let len0 := d.extLen t
  let start0 := fun (r : Nat) => base0 + d.regionStart t r
  let old := d.tenant t
  let cdat0 := d.regionStart t 0
  let d := d.setReg (Off.tntPart t.val) part
  let d := d.modTenant t fun s => { s with
    staticPool := pool
    members := members
    regions := Vector.ofFn fun (r : Fin 8) =>
      (⟨(media.getD r.val (0, 0)).1, (media.getD r.val (0, 0)).2, (vget (⟨0, 0, 0⟩ : DcRegion) s.regions r.val).len⟩ : DcRegion) }
  let d := if create then
      ((d.setReg (Off.tntCtl t.val) (BitVec.ofNat 32 (2 ^ 31 + portIdx port * 256 + ld % 16))).setFld (Fld.tntSts_state t.val) 1)
    else d
  let d := (d.setFld (Fld.tntExtBase_base t.val) base).setFld (Fld.tntExtLen_len t.val) len
  -- the regions' entries as they stand now follow to their new places
  let start1 := fun (r : Nat) => base + d.regionStart t r
  let moved := !create && !(base == base0 && cdat0 == d.regionStart t 0)
  let d := if moved then
      let words := (List.range 8).flatMap fun r =>
        (List.range (vget (⟨0, 0, 0⟩ : DcRegion) old.regions r).len).map fun k => (start1 r + k, d.extAt (start0 r + k))
      let d := words.foldl (fun d (e : Nat × Word) => d.setExt e.1 e.2) d
      d.modTenant t fun s => { s with dc := s.dc.map fun (e : DcExtent) => { e with entry := e.entry - start0 e.region + start1 e.region } }
    else d
  -- entries of the old range that the new one leaves free return at the next boundary
  let left := ((List.range len0).map fun k => base0 + k).filter fun e => decide (e < base ∨ base + len ≤ e)
  let d := { d with extRetire := d.extRetire ++ (if create then [] else left) }
  let d := d.queueWipe (mediaBlocks removed)
  let d := d.cdatChanged port ld
  if len = (if create then 0 else len0) then d else d.raise { num := 0x111, tenant := some t }

/-! ### Reset and destroy (R85 to R87, R281) -/

/-- Does a staged setting name the tenant: a create or resize, a pin or flush of its LD, or a changed register of its own
in the class settings? -/
def Dev.namesTenant (d : Dev) (t : TenantId) : Bool :=
  let ofLd := fun (p : PortId) (ld : Nat) => d.tenantOf p ld == some t
  d.stg.cmds.any (fun c => match c with
    | .tenant _ t' _ _ _ _ _ _ _ _ _ _ => t' == t
    | .pin p ld _ _ _ _ => ofLd p ld
    | .flush p ld whole _ _ _ _ => !whole && ofLd p ld
    | _ => false) ||
  [Off.svcTntClass t.val, Off.svcTntOtlGl t.val, Off.svcTntOtlBs t.val, Off.svcTntGuar t.val].any fun o => d.pendReg o != d.reg o

/-- Does a foreground brew sanitise the tenant? -/
def Dev.sanitising (d : Dev) (t : TenantId) : Bool :=
  match d.mb.fg with
  | some b => match b.work with | .sanitise t' _ _ => t' == t | _ => false
  | none => false

/-- Does a sequence of R85 run or wait? That of a sanitise that was aborted gives way to another one (R87, R91). -/
def Dev.sequenceRuns (d : Dev) (t : TenantId) : Bool :=
  match (d.tenant t).seq with
  | some q => q.kind != SeqKind.sanitise || d.sanitising t
  | none => false

/-- A sequence of R85 is due at the next boundary. -/
def Dev.askSequence (d : Dev) (t : TenantId) (k : SeqKind) (i : Option Iface) : Dev :=
  d.modTenant t fun s => { s with seq := some ⟨none, k, i, 0, 0⟩ }

/-- The body of XT_TENANT_RESET and XT_TENANT_DESTROY. -/
def bodyTenantEnd (destroy : Bool) (i : Iface) (p : Payload) (d : Dev) : Dev :=
  let opcode := if destroy then 0xC023 else 0xC022
  d.vendor i opcode p 1 fun q d =>
    let n := byteAt q 0
    let t := tenantId n
    let st := d.tntState t
    if 32 ≤ n then d.complete i opcode rcInvalidInput []
    else if d.namesTenant t || d.sequenceRuns t || st == 2 || st == 3 || (st == 4 && d.sanitising t) then
      d.complete i opcode rcBusy []
    else if st == 0 || (st == 4 && !destroy) then d.complete i opcode rcInvalidInput []
    else (d.askSequence t (if destroy then .destroy else .reset) (some i)).longRun i opcode

/-- XT_TENANT_RESET (R85, R87). -/
def execXtTenantReset (i : Iface) (p : Payload) (s : State) : Host.Outcome State Fault Refusal :=
  s.on fun d => d.mailbox i (.xtTenantReset i p) 0xC022 (bodyTenantEnd false i p)

/-- XT_TENANT_DESTROY (R85 to R87). -/
def execXtTenantDestroy (i : Iface) (p : Payload) (s : State) : Host.Outcome State Fault Refusal :=
  s.on fun d => d.mailbox i (.xtTenantDestroy i p) 0xC023 (bodyTenantEnd true i p)

/-- A Sanitize or Secure Erase of a tenant starts as the foreground brew; its sequence is due at the next boundary (R91,
R92). -/
def Dev.startSanitise (d : Dev) (t : TenantId) (secure : Bool) (i : Option Iface) : Dev :=
  let n := (d.mappedBlocks t).length
  (d.startFg 0x01 i (.sanitise t secure none) n).askSequence t .sanitise none

/-- Starts the Secure Erase that a CXL Reset with Mem Clr asked for, once no foreground brew runs (R337). -/
def Dev.clearAfterReset (d : Dev) (t : TenantId) : Dev :=
  if (d.tenant t).memClr && (d.tenant t).seq.isNone && d.mb.fg.isNone && (d.tntState t == 1 || d.tntState t == 4) then
    (d.modTenant t fun s => { s with memClr := false }).startSanitise t true none
  else d

/-- The open transactions of a tenant that have passed lookup. -/
def Dev.openOf (d : Dev) (t : TenantId) : List Txn := d.txns.filter fun x => x.tenant == some t && x.phase.looked

/-- Pour r of R85: the state changes, and what has not passed lookup completes at the port. A host's snoop at a port reset
ends as R281 says. -/
def Dev.startSequence (d : Dev) (t : TenantId) (q : TenantSeq) : Dev :=
  let was := d.tntState t
  let st := match q.kind with
    | .reset => 2
    | .portReset => if was = 1 then 2 else was
    | .destroy => 3
    | .sanitise => 4
  let d := d.setFld (Fld.tntSts_state t.val) st
  let now := d.now
  let held := d.txns.filter fun x => x.tenant == some t && !x.phase.looked
  let d := held.foldl (fun d x => d.reenter x false) d
  let d := if q.kind = .portReset then
      match d.sharerOf (d.tntPort t) (d.tntLd t) with
      | some sh => ((d.home.snoops.filter fun (s : Snoop) => s.sharer == sh).foldl (fun d s => d.snoopReset s) d).run
      | none => d
    else d
  let n := (d.openOf t).length
  d.modTenant t fun s => { s with seq := some { q with r := some now, drained := n } }

/-- TENANT_SEQUENCE_START (R85): boundary r of a sequence that waits. -/
def Dev.edgeTenantSequenceStart (t : TenantId) (d : Dev) : Dev :=
    match (d.tenant t).seq with
    | some q => if d.live && q.r.isNone then d.startSequence t q else d
    | none => d

/-- Squashes one open transaction (R85): its snoop ends with it, a lease is ended with its write, a write is logged. -/
def Dev.squash (d : Dev) (x : Txn) : Dev :=
  let d := { d with home := { d.home with snoops := d.home.snoops.filter (fun (s : Snoop) => s.txn != some x.id) } }
  if x.phase = .leased then
    match d.home.leases.find? fun (l : Lease) => l.txn == x.id with
    | some l => d.endLease l
    | none => d.closePoisoned x
  else
    let d := if x.op.isWrite ∨ x.op = .atomic then d.logDrop 0 x.ma else d
    d.closePoisoned x

/-- TENANT_SQUASH (R85): at r + 62, what is still open is squashed. -/
def Dev.edgeTenantSquash (t : TenantId) (d : Dev) : Dev :=
    match (d.tenant t).seq with
    | some q =>
      match q.r with
      | some r =>
        if d.live && decide (r + 62 ≤ d.now) then
          let xs := d.openOf t
          let d := (xs.foldl (fun d x => d.squash x) d).run
          d.modTenant t fun s => { s with seq := some { q with drained := q.drained - xs.length, squashed := q.squashed + xs.length } }
        else d
      | none => d
    | none => d

/-- The directory walk of R85: an LD's sharer bit leaves every entry; an entry without a sharer frees. -/
def Dev.walkDirectory (d : Dev) (sh : Nat) : Dev :=
  let strip := fun (e : DirEntry) => { e with sharers := e.sharers &&& ~~~(BitVec.ofNat 16 (2 ^ sh)) }
  let left := (d.home.dir.map fun (e : Nat × DirEntry) => (e.1, strip e.2)).filter fun (e : Nat × DirEntry) =>
    e.2.sharers != 0 || e.2.lock
  { d with home := { d.home with dir := left } }

/-- The descriptor, capacity and settings of a destroyed tenant go (R86, R264, R344, R446). -/
def Dev.clearTenant (d : Dev) (t : TenantId) : Dev :=
  let p := d.tntPort t
  let ld := d.tntLd t
  let ws := d.extWords t
  let base := d.extBase t
  let d := d.queueWipe (mediaBlocks ws)
  let d := (List.range ws.length).foldl (fun d k => d.setExt (base + k) 0) d
  let d := match d.sharerOf p ld with
    | some sh => d.setFlag (Fld.cohSharerMap_v sh) false
    | none => d
  let d := d.modLd p ld fun l => { l with poison := [], poisonOvf := false, ovfAt := none }
  let d := d.setBit (Fld.prtPoisonOvf_ovf (portIdx p)) ld false
  let d := [Off.tntCtl t.val, Off.tntExtBase t.val, Off.tntExtLen t.val, Off.tntPart t.val, Off.tntSts t.val].foldl
    (fun d o => d.setReg o 0) d
  let d := d.modTenant t fun _ => Tenant.reset
  let d := { d with pmu := { d.pmu with lines := d.pmu.lines.drop (fun (k : Nat) => k / 8 == t.val) } }
  (d.cdatChanged p ld).floorMoved

/-- The media work of a tenant's sanitise may begin (R92): every frame that caches its far pages goes without a writeback. -/
def Dev.sanitiseReady (d : Dev) (t : TenantId) : Dev :=
  match d.mb.fg with
  | some b => match b.work with
    | .sanitise t' sec _ =>
      if t' = t then
        let far := (d.extWords t).filter fun w => extV w && extFar w && extMember w == d.chainId
        let d := (far.foldl (fun d w => d.dropBlockFrames (extBlock w) (extC w)) d).countPinned
        let fg : Brew := { b with work := .sanitise t sec (some d.now) }
        { d with mb := { d.mb with fg := some fg } }
      else d
    | _ => d
  | none => d

/-- The end of a reset at r + 94. -/
def Dev.endReset (d : Dev) (t : TenantId) (q : TenantSeq) : Dev :=
  let d := if d.tntState t == 2 then d.setFld (Fld.tntSts_state t.val) 1 else d
  let d := d.setFld (Fld.tntSts_squashed t.val) (satN 16 q.squashed)
  let d := d.raise { num := 0x112, tenant := some t, detail := [word1 q.drained, word1 q.squashed] }
  let d := match q.iface with
    | some i => d.complete i 0xC022 rcSuccess (leBytes 4 q.drained ++ leBytes 4 q.squashed)
    | none => d
  d.clearAfterReset t

/-- The end of a destroy at r + 94. -/
def Dev.endDestroy (d : Dev) (t : TenantId) (q : TenantSeq) : Dev :=
  let d := (d.clearTenant t).raise { num := 0x113, tenant := some t, detail := [word1 q.drained, word1 q.squashed] }
  match q.iface with
  | some i => d.complete i 0xC023 rcSuccess (leBytes 4 q.drained ++ leBytes 4 q.squashed)
  | none => d

/-- The end of a sequence at r + 94. -/
def Dev.endSequence (d : Dev) (t : TenantId) (q : TenantSeq) : Dev :=
  let d := match d.sharerOf (d.tntPort t) (d.tntLd t) with | some sh => d.walkDirectory sh | none => d
  let d := d.modTenant t fun s => { s with seq := none }
  match q.kind with
  | .sanitise => d.sanitiseReady t
  | .destroy => d.endDestroy t q
  | .reset => d.endReset t q
  | .portReset => d.endReset t q

/-- TENANT_SEQUENCE_END (R85): r + 94. -/
def Dev.edgeTenantSequenceEnd (t : TenantId) (d : Dev) : Dev :=
    match (d.tenant t).seq with
    | some q =>
      match q.r with
      | some r => if d.live && decide (r + 94 ≤ d.now) then d.endSequence t q else d
      | none => d
    | none => d

end Sys2Proof.Machine
end

