-- ==== Sys2Proof/Machine/Ports.lean ====
section
/-! DEFINITION. Sys2Proof/Machine/Ports.lean: the host ports' links: training, recovery, L0p, link-down and the resets that reach a
port (R331 to R337, R346 to R350), viral containment (R347), IDE (R345, R346), PERST_B_N (R62). -/

namespace Sys2Proof.Machine

/-- Changes a port's record. -/
def Dev.modPort (d : Dev) (p : PortId) (f : Port → Port) : Dev := { d with ports := vmod d.ports (portIdx p) f }

/-- A port's record. -/
def Dev.port (d : Dev) (p : PortId) : Port := vget ⟨none, false, false, false, false, 0, []⟩ d.ports (portIdx p)

/-- The tenants bound to a port. -/
def Dev.portTenants (d : Dev) (p : PortId) : List TenantId :=
  allTenants.filter fun t => d.flag (Fld.tntCtl_en t.val) && d.tntPort t == p

/-- The CDAT of every LD of a port is rebuilt at the next boundary (R341). -/
def Dev.cdatPort (d : Dev) (p : PortId) : Dev := (List.range 16).foldl (fun d ld => d.cdatChanged p ld) d

/-- May a host port's link act: from BOOT on, where it trains, and no HALT (R35, R47, R63)? -/
def Dev.linkOpen (d : Dev) (p : PortId) : Bool := d.live && d.mode != .fill && d.hostPort p

/-- Is a host port's link up? -/
def Dev.linkUp (d : Dev) (p : PortId) : Bool := d.linkOpen p && 2 ≤ d.fld (Fld.prtLinkSts_state (portIdx p)) && !d.isDown p

/-- A message of the head to every member that serves or is present, with one data slot. -/
def Dev.tellMembers (d : Dev) (opc : Nat) (slot : BitVec 128) : Dev :=
  if d.isHead then
    ((List.range 8).filter fun m => (vget none d.chain.members m).isSome).foldl
      (fun d m => d.sendDown (d.mgmtMsg m 1) opc [slot]) d
  else d

/-! ### Link-down (R337, R349, R62) -/

/-- DL_Down of a port: the receive path closes, and from the next boundary d on its sequence runs. -/
def Dev.linkDown (d : Dev) (p : PortId) (clearDecoders : Bool) : Dev :=
  if !d.linkUp p then d
  else
    let n := portIdx p
    let d := d.modPort p fun s => { s with down := some ⟨none, none, clearDecoders⟩, fullWidth := 0 }
    let d := d.setReg (Off.prtLinkSts n) (d.reg (Off.prtLinkSts n) &&& 0xF)
    let d := (d.setFlag (Fld.prtDownSts_active n) true).bump (Fld.prtDownSts_downs n) 1
    let d := (d.setFld (Fld.prtDownSts_unexec n) 0).setReg (Off.prtDownCnt n) 0
    d.floorMoved

/-- Boundary d: held writes and atomics are released outside limits and credit; held reads complete unexecuted. -/
def Dev.linkDownStart (d : Dev) (p : PortId) : Dev :=
  match (d.port p).down with
  | some l =>
    if l.d.isSome then d
    else
      let now := d.now
      let d := d.modPort p fun s => { s with down := some { l with d := some now } }
      let held := d.txns.filter fun x => x.port == some p && !x.phase.looked
      (held.foldl (fun d x =>
        if x.op.isRead || x.op == .inv then (d.bump (Fld.prtDownSts_unexec (portIdx p)) 1).finishPoisoned x
        else d.reenter x true) d).run
  | none => d

/-- Has every write and atomic of a port closed? -/
def Dev.portClosed (d : Dev) (p : PortId) : Bool :=
  !d.txns.any fun x => x.port == some p && !(x.op.isRead || x.op == .inv) && x.phase != .leased

/-- Boundary r: the port reset starts for every tenant of the port; a head tells its members the sharer indices (R286). -/
def Dev.portReset (d : Dev) (p : PortId) : Dev :=
  let shs := (d.portTenants p).filterMap fun t => d.sharerOf p (d.tntLd t)
  let mask := shs.foldl (fun (m : Nat) sh => m ||| 2 ^ sh) 0
  let d := (d.portTenants p).foldl (fun d t =>
    if (d.tenant t).seq.isSome then d else d.startSequence t ⟨none, .portReset, none, 0, 0⟩) d
  d.tellMembers 0x65 (BitVec.ofNat 128 mask)

/-- DL_DOWN (R349). -/
def execDlDown (port : PortId) (s : State) : Host.Outcome State Fault Refusal :=
  s.on fun d => d.linkDown port false

/-- HOT_RESET or Link Disable (R337): a link-down that clears the port's decoder commits at its end. -/
def execHotReset (port : PortId) (s : State) : Host.Outcome State Fault Refusal :=
  s.on fun d => d.linkDown port true

/-- PERST_B_N_ASSERT (R62): a link-down of Port B in the dual-headed mode, nothing elsewhere. -/
def execPerstBNAssert (s : State) : Host.Outcome State Fault Refusal :=
  s.on fun d => if d.fld Fld.glbPortMode_mode = 1 then d.linkDown .b false else d

/-- LINK_DOWN_WRITES_CLOSED (R349): boundary r, at most `COH_CTL`.TIMEOUT + 66 pours behind d. -/
def Dev.edgeLinkDownWritesClosed (port : PortId) (d : Dev) : Dev :=
    match (d.port port).down with
    | some l =>
      match l.d, l.r with
      | some dd, none =>
        if d.live && (d.portClosed port || decide (dd + d.fld Fld.cohCtl_timeout + 66 ≤ d.now)) then
          let now := d.now
          (d.modPort port fun s => { s with down := some { l with r := some now } }).portReset port
        else d
      | _, _ => d
    | none => d

/-- Viral containment of a port ends (R347). -/
def Dev.viralEnd (d : Dev) (p : PortId) : Dev :=
  if d.flag (Fld.prtViralSts_rx (portIdx p)) then
    (d.setFlag (Fld.prtViralSts_rx (portIdx p)) false).tellMembers 0x67 (BitVec.ofNat 128 (portIdx p))
  else d

/-- The sharer indices of a port lose their bits in `COH_SUSPECT` (R281). -/
def Dev.clearSuspects (d : Dev) (p : PortId) : Dev :=
  (List.range 16).foldl (fun d i => match d.sharerLd i with
    | some (p', _) => if p' = p then d.setBit Fld.cohSuspect_host i false else d
    | none => d) d

/-- Boundary r + 94 of a link-down: what is left of the port reset ends, the sequence is complete, the link may train. -/
def Dev.linkDownEnd (d : Dev) (p : PortId) : Dev :=
  match (d.port p).down with
  | some l =>
    match l.r with
    | some r =>
      if r + 94 ≤ d.now then
        let n := portIdx p
        let d := (d.portTenants p).foldl (fun d t =>
          match (d.tenant t).seq with
          | some q => if q.kind = .portReset ∧ q.r.isSome then d.endSequence t q else d
          | none => d) d
        let d := d.clearSuspects p
        let d := if l.clearDecoders then
            (List.range 16).foldl (fun d ld => d.modLd p ld fun l => { l with dec := Vector.replicate 8 none, decPend := [] }) d
          else d
        let d := d.viralEnd p
        let d := (d.modPort p fun s => { s with down := none, viralDue := false }).setFlag (Fld.prtDownSts_active n) false
        d.raiseN 0x191 [word1 (d.fld (Fld.prtDownCnt_writes n)), word1 (d.fld (Fld.prtDownCnt_reads n))]
      else d
    | none => d
  | none => d

/-! ### Resets of an LD (R337) -/

/-- FLR (R337): only CXL.io state of the function, of which the rules name none. -/
def execFlr (_port : PortId) (_ld : Nat) (s : State) : Host.Outcome State Fault Refusal := s.on fun d => d

/-- CXL_RESET (R337): the tenant's reset sequence, and with Mem Clr a Secure Erase behind it. -/
def execCxlReset (port : PortId) (ld : Nat) (memClr : Bool) (s : State) : Host.Outcome State Fault Refusal :=
  s.on fun d =>
    match (if d.linkUp port then d.tenantOf port ld else none) with
    | some t =>
      if d.tntState t = 1 ∧ (d.tenant t).seq = none then
        (d.modTenant t fun s => { s with memClr := memClr }).askSequence t .reset none
      else d
    | none => d

/-! ### Training, recovery, width (R331 to R334, R341, R348) -/

/-- Is it a width the port forms (R331)? -/
def widthOk (w : Nat) : Bool := w == 4 || w == 8 || w == 16

/-- Sets width and rate; a change moves the floor and the CDAT. -/
def Dev.setLink (d : Dev) (p : PortId) (width rate : Nat) : Dev :=
  let n := portIdx p
  if width = d.fld (Fld.prtLinkSts_width n) ∧ rate = d.fld (Fld.prtLinkSts_rate n) then d
  else (((d.setFld (Fld.prtLinkSts_width n) width).setFld (Fld.prtLinkSts_rate n) rate).floorMoved).cdatPort p

/-- LINK_TRAINING_COMPLETE (R331, R334): the link stays in Detect.Quiet while a link-down sequence runs. -/
def execLinkTrainingComplete (port : PortId) (res : LinkResult) (s : State) : Host.Outcome State Fault Refusal :=
  s.on fun d =>
    let n := portIdx port
    if !d.linkOpen port || d.isDown port || 2 ≤ d.fld (Fld.prtLinkSts_state n) then d
    else
      let fail := (d.setFld (Fld.prtLinkSts_state n) 1).raiseN 0x190 []
      match res with
      | .noX4 => fail
      | .pcieOnly width rate =>
        if !widthOk width || rate == 0 || 6 < rate then fail
        else
          let d := (d.setLink port width rate).modPort port fun s => { s with cxl2 := false, mld := false, fullWidth := width }
          (d.setFld (Fld.prtLinkSts_state n) 3).setFlag (Fld.prtLinkSts_flit n) (rate == 6)
      | .cxl gen3 width rate mld lopt =>
        if !widthOk width || rate == 0 || 6 < rate then fail
        else
          let rate := if gen3 then rate else min 5 rate
          let d := (d.setLink port width rate).modPort port fun s => { s with cxl2 := !gen3, mld := mld, fullWidth := width }
          let d := ((d.setFld (Fld.prtLinkSts_state n) 2).setFlag (Fld.prtLinkSts_flit n) gen3).setFlag (Fld.prtLinkSts_lopt n)
            (gen3 && lopt)
          (d.setFld (Fld.prtLinkSts_cxlver n) (if gen3 then 2 else 1)).setFlag (Fld.prtLinkSts_mld n) mld

/-- LINK_RECOVERY (R348): Recovery that returns to L0; replayed flits and the entry are counted. Another width than before is the link's
full width from then on. -/
def execLinkRecovery (port : PortId) (width rate replayed : Nat) (s : State) : Host.Outcome State Fault Refusal :=
  s.on fun d =>
    let n := portIdx port
    if d.linkUp port && widthOk width && rate != 0 && rate ≤ 6 then
      let d := (d.bump (Fld.prtRetryCnt_recov n) 1).bump (Fld.prtRetryCnt_replays n) replayed
      let d := if width = d.fld (Fld.prtLinkSts_width n) then d
        else (d.modPort port fun s => { s with fullWidth := width }).setFlag (Fld.prtLinkSts_l0p n) false
      d.setLink port width (if (d.port port).cxl2 then min 5 rate else rate)
    else d

/-- L0P_WIDTH_CHANGE (R332). The device starts none of its own: every change is the host's. -/
def execL0pWidthChange (port : PortId) (width : Nat) (s : State) : Host.Outcome State Fault Refusal :=
  s.on fun d =>
    if d.linkUp port && widthOk width && width ≤ (d.port port).fullWidth then
      (d.setLink port width (d.fld (Fld.prtLinkSts_rate (portIdx port)))).setFlag (Fld.prtLinkSts_l0p (portIdx port))
        (decide (width < (d.port port).fullWidth))
    else d

/-! ### IDE and viral (R345 to R347) -/

/-- Sets the state of a stream: 0 not configured, 1 secure, 2 insecure. A selective stream shows only whether it is
secure. -/
def Dev.setStream (d : Dev) (p : PortId) (st : IdeStream) (v : Nat) : Dev :=
  let n := portIdx p
  let d := d.modPort p fun s =>
    { s with insecure := (s.insecure.filter fun x => x != st) ++ (if v = 2 then [st] else []) }
  match st with
  | .link => d.setFld (Fld.prtIdeSts_link n) v
  | .cxlMem => d.setFld (Fld.prtIdeSts_cxl n) v
  | .sel k => d.setBit (Fld.prtIdeSts_sel n) k.val (v == 1)

/-- IDE_INTEGRITY_FAILURE (R346): the stream becomes insecure and the port takes the link down. -/
def execIdeIntegrityFailure (port : PortId) (stream : IdeStream) (s : State) : Host.Outcome State Fault Refusal :=
  s.on fun d =>
    if d.linkUp port then
      let d := (d.setStream port stream 2).bump (Fld.prtIdeSts_fails (portIdx port)) 1
      (d.raiseN 0x192 []).linkDown port false
    else d

/-- IDE_KM (R345, R346): new keys make a stream secure; taken out of use, it is not configured. -/
def execIdeKm (port : PortId) (stream : IdeStream) (keys : Bool) (s : State) : Host.Outcome State Fault Refusal :=
  s.on fun d => if d.linkUp port then d.setStream port stream (if keys then 1 else 0) else d

/-- VIRAL_RECEIVED (R347): containment from the next boundary on; a head tells its members. -/
def execViralReceived (port : PortId) (s : State) : Host.Outcome State Fault Refusal :=
  s.on fun d =>
    if d.linkUp port && !d.flag (Fld.prtViralSts_rx (portIdx port)) && !(d.port port).viralDue then
      let d := (d.modPort port fun s => { s with viralDue := true }).raiseN 0x193 []
      d.tellMembers 0x66 (BitVec.ofNat 128 (portIdx port))
    else d

/-- What a boundary does for a port: a viral containment takes force, a link-down goes on. -/
def Dev.portBoundary (d : Dev) (p : PortId) : Dev :=
  let d := if (d.port p).viralDue then
      (d.modPort p fun s => { s with viralDue := false }).setFlag (Fld.prtViralSts_rx (portIdx p)) true
    else d
  (d.linkDownEnd p).linkDownStart p

end Sys2Proof.Machine
end

