-- ==== Sys2Proof/Machine/Pools.lean ====
section
/-! DEFINITION. Sys2Proof/Machine/Pools.lean: compressed pools and their policy (R237, R238, R260), the ends of fills and
evictions (R114, R115), Press's decoding and coding (R247, R248, R250), its engines (R258, R259), and compaction (R254). -/

namespace Sys2Proof.Machine

/-! ### Policy (R237, R238, R260) -/

/-- Free extension numbers, ascending: at or above DATA_BLOCKS and of no pool. -/
def Dev.freeExtension (d : Dev) (n : Nat) : List Nat :=
  let first := d.fld Fld.farMapCtl_dataBlocks
  let used := (List.range 8).flatMap fun k => (d.pool k).exposed
  ((List.range (n + used.length)).map (first + ·)).filter (!used.contains ·) |>.take n

/-- The exposure list of a pool at a new exposure (R238): what is exposed keeps its place in the order; growth takes the
pool's own storage numbers, then extension numbers; a decrease gives up the last ones. -/
def Dev.exposeTo (d : Dev) (p : Pool) (e : Nat) : List Nat :=
  let own := (sortAsc (p.mapBlocks ++ p.dataBlocks)).filter (!p.exposed.contains ·)
  let want := e - p.exposed.length
  (p.exposed ++ (own ++ d.freeExtension want).take want).take e

/-- Is an exposure within the range of its mode (R237)? -/
def exposureOk (overcommit : Bool) (p e : Nat) : Bool :=
  let data := p - mapBlocksFor p
  if overcommit then decide (data ≤ e ∧ e ≤ 2 * data) else e == data

/-- The pool that a staged command changes. -/
def poolNamed : StagedCmd → Option (Fin 8)
  | .poolCreate n _ _ _ _ => some n
  | .poolAdd n _ _ _ => some n
  | .poolExpose n _ => some n
  | .poolDestroy n => some n
  | _ => none

/-- The body of XT_PRESS_POLICY. The output gives M and E as they will stand. A field that the OP does not use must be 0 (R394 says so of
byte 3 only; DESIGN CHOICE, log entry 92). -/
def bodyPressPolicy (i : Iface) (p : Payload) (d : Dev) : Dev :=
  d.vendor i 0xC080 p 12 fun q d =>
    let op := byteAt q 0
    let n := Fin.ofNat 8 (byteAt q 1)
    let mode := byteAt q 2
    let take := leNat q 4 4
    let e := leNat q 8 4
    let pl := d.pool n.val
    let plain := (op == 0 || mode == 0) && (op < 2 || take == 0) && (op == 0 || op == 2 || e == 0)
    if decide (3 < op ∨ 7 < byteAt q 1 ∨ 1 < mode ∨ byteAt q 3 ≠ 0) || !plain || pl.used == (op == 0) then
      d.complete i 0xC080 rcInvalidInput []
    else if !d.mayStage i || d.stg.cmds.any (fun c => poolNamed c == some n) then d.complete i 0xC080 rcBusy []
    else
      let blocks := d.freeFar.take take
      let out := fun (storage e : Nat) => leBytes 4 (mapBlocksFor storage) ++ leBytes 4 e
      let total := pl.storage + take
      let grown := if pl.overcommit then pl.exposed.length else total - mapBlocksFor total
      if op = 0 then (d.stage i (.poolCreate n (mode == 1) take blocks e)).complete i 0xC080 rcSuccess (out take e)
      else if op = 1 then (d.stage i (.poolAdd n take blocks grown)).complete i 0xC080 rcSuccess (out total grown)
      else if op = 2 then (d.stage i (.poolExpose n e)).complete i 0xC080 rcSuccess (out pl.storage e)
      else (d.stage i (.poolDestroy n)).complete i 0xC080 rcSuccess (out 0 0)

/-- XT_PRESS_POLICY (R260, R394). -/
def execXtPressPolicy (i : Iface) (p : Payload) (s : State) : Host.Outcome State Fault Refusal :=
  s.on fun d => d.mailbox i (.xtPressPolicy i p) 0xC080 (bodyPressPolicy i p)

/-- A pool takes effect anew: its exposure and its registers. -/
def Dev.setPool (d : Dev) (n : Nat) (p : Pool) (e : Nat) : Dev :=
  let d := d.modPool n fun _ => p
  let ex := d.exposeTo p e
  ((d.modPool n fun p => { p with exposed := ex }).syncPool n).floorMoved

/-- A new pool (R237): its lowest storage blocks are map blocks. The first pool powers Press's domain on (R324). -/
def Dev.createPool (d : Dev) (n : Nat) (overcommit : Bool) (storage : List Nat) (e : Nat) : Dev :=
  let d := if d.anyPool || d.enginesOk.isEmpty then d else d.powerOn 10
  let m := mapBlocksFor storage.length
  d.setPool n ⟨true, overcommit, storage.take m, storage.drop m, []⟩ e

/-- Added storage (R260): new map blocks come from the added blocks, since entries do not move. -/
def Dev.growPool (d : Dev) (n : Nat) (storage : List Nat) (e : Nat) : Dev :=
  let p := d.pool n
  let m := mapBlocksFor (p.storage + storage.length) - p.mapBlocks.length
  d.setPool n { p with mapBlocks := p.mapBlocks ++ storage.take m, dataBlocks := p.dataBlocks ++ storage.drop m } e

/-- A pool goes (R260): exposed blocks that still wait for their sanitise give their sectors back, and the storage is
sanitised. Without a pool Press's domain is fenced (R324). -/
def Dev.destroyPool (d : Dev) (n : Nat) : Dev :=
  let d := ((d.wiping d.chainId).filter fun (b : Nat × Nat) => b.1 == 2 && (d.pool n).exposed.contains b.2).foldl (fun d b => d.releaseExposed b.2 false) d
  let p := d.pool n
  let runs := d.dataRuns p
  let inPool := fun (k : Nat) => runs.any fun (r : Nat × Nat) => decide (r.1 ≤ k % 2 ^ 31 ∧ k % 2 ^ 31 < r.1 + r.2)
  let d := { d with prs := { d.prs with taken := d.prs.taken.drop inPool, releasing := d.prs.releasing.filter (!inPool ·) } }
  let d := d.modPool n fun _ => Pool.reset
  let d := ((d.syncPool n).setReg (Off.prsPoolFree n) 0).setReg (Off.prsPoolChain n) 0
  let d := d.queueWipe ((sortAsc (p.mapBlocks ++ p.dataBlocks)).map fun b => (1 + 4 * d.chainId, b))
  (if d.anyPool then d else d.fence 10).floorMoved

/-! ### Waiting requests -/

/-- Does a page job serve a transaction? -/
def Dev.jobFor (d : Dev) (id : Nat) : Bool :=
  d.prs.jobs.any (fun (j : Job) => j.txn == some id) ||
  (List.range 4).any fun e => match vget none d.prs.engines e with | some (j : Job) => j.txn == some id | none => false

/-- Does a page job work on a frame? -/
def Dev.jobOn (d : Dev) (set way : Nat) : Bool :=
  let on := fun (j : Job) => j.set == set && j.way == way && j.txn.isNone
  d.prs.jobs.any on || (List.range 4).any fun e => match vget none d.prs.engines e with | some j => on j | none => false

/-- Requests that wait for a frame of a set try again, in arrival order (R105, R114, R115). -/
def Dev.wakeSet (d : Dev) (set : Nat) : Dev :=
  let waiting := fun (d : Dev) (x : Txn) => (x.phase == .fill || x.phase == .heldWrite) && maFar x.ma &&
    d.setOf (maPage x.ma) == set && !d.jobFor x.id
  let l := d.txns.filter (waiting d)
  (l.foldl (fun d (x : Txn) => match d.txn x.id with
    | some y => if waiting d y then d.decideTag y else d
    | none => d) d).run

/-- Requests that wait for a frame of any set. -/
def Dev.wakeSets (d : Dev) (sets : List Nat) : Dev := sets.foldl (fun d s => d.wakeSet s) d

/-! ### Compaction (R252, R254) -/

/-- Starts compaction as the foreground brew. -/
def Dev.startCompaction (d : Dev) (i : Option Iface) (pools : List Nat) : Dev :=
  (d.startFg 0x06 i (.compact pools 0 0) (pools.length * (interleave d.ileave).length)).setFlag Fld.prsSts_compact true

/-- A store that waits starts compaction once no foreground brew runs (R252 step 4). -/
def Dev.askCompaction (d : Dev) : Dev :=
  if d.crm.heldWrites.isEmpty || d.mb.fg.isSome then d
  else
    let pools := (List.range 8).filter fun n => (d.pool n).used && (d.pool n).overcommit
    if pools.isEmpty then d else d.startCompaction none pools

/-- The places of a pool's pages on a channel, in the order of their map entries. -/
def Dev.poolPlaces (d : Dev) (n c : Nat) : List PagePlace :=
  (List.range ((d.pool n).exposed.length * d.pagesPerShare)).map fun e => ⟨n, c, e⟩

/-- The sectors that map entries of a channel hold. -/
def Dev.heldSectors (d : Dev) (c : Nat) : NatSet :=
  (List.range 8).foldl (fun (t : NatSet) n =>
    if (d.pool n).used && (d.pool n).overcommit then
      (d.poolPlaces n c).foldl (fun (t : NatSet) pl => match d.mapEntry pl with
        | some m => (d.pageSectors pl m).foldl (fun (t : NatSet) s => t.add (secKey c s)) t
        | none => t) t
    else t) ([] : NatSet)

/-- The bitmap of a channel counted anew (R254 step 1): sectors of no entry become free, but those that wait for their
boundary. -/
def Dev.recount (d : Dev) (c : Nat) : Dev :=
  let held := d.heldSectors c
  let keep := fun (k : Nat) => held.has k || d.prs.releasing.contains k
  let other := d.prs.taken.drop fun k => k / 2 ^ 31 == c && !keep k
  { d with prs := { d.prs with taken := held.keys.foldl (fun (t : NatSet) k => t.add k) other } }

/-- Moves a page to a new home run (R254). -/
def Dev.movePage (d : Dev) (pl : PagePlace) (m : MapEntry) (s : Nat) : Dev :=
  let secs := d.pageSectors pl m
  let k := secs.length
  let lines := d.sectorLines pl.ch secs
  let d := (d.takeSectors pl.ch s k).sectorActivates pl.ch (secs ++ (List.range k).map (s + ·))
  let d := d.writeSectors pl.ch ((List.range k).map (s + ·)) lines
  let d := (d.setMapEntry pl ⟨m.st, k - 1, 0, s, 0⟩).releaseEntry pl m
  let d := d.countChain pl.pool (decide (0 < m.ovfLen)) false
  let n := 4 * k * d.burst pl.ch
  (d.waste (farSched pl.ch 0) 0x01E (2 * n)).waste (farSched pl.ch 1) 0x01E (2 * n)

/-- One channel of a pool: the pages moved and those left chained. -/
def Dev.compactChannel (d : Dev) (n c : Nat) : Nat × Nat × Dev :=
  let d := d.recount c
  let p := d.pool n
  let first := (d.poolPlaces n c).foldl (fun (a : Nat × Nat × Dev) pl =>
    let (moved, left, d) := a
    match d.mapEntry pl with
    | some m =>
      if m.ovfLen = 0 then a
      else match d.freeRun p c (m.homeSectors + m.ovfLen) with
        | some s => (moved + 1, left, d.movePage pl m s)
        | none => (moved, left + 1, d)
    | none => a) (0, 0, d)
  (d.poolPlaces n c).foldl (fun (a : Nat × Nat × Dev) pl =>
    let (moved, left, d) := a
    match d.mapEntry pl with
    | some m =>
      if m.homeSectors = 0 || 0 < m.ovfLen then a
      else match d.freeRun p c m.homeSectors with
        | some s => if s < m.home then (moved + 1, left, d.movePage pl m s) else a
        | none => a
    | none => a) first

/-- Stores that wait for room are tried again (R252 step 4). -/
def Dev.retryStores (d : Dev) : Dev :=
  let held := d.crm.heldWrites
  let raw := d.enginesOk.isEmpty
  let d := held.foldl (fun d i =>
    match d.storeFrame (i / 16) (i % 16) raw with
    | (.lost, d) => d.dropFrame (i / 16) (i % 16)
    | (_, d) => d) d
  d.wakeSets ((held.filter fun i => !d.crm.heldWrites.contains i).map (· / 16))

/-- One step of compaction: one channel of one pool. Answers whether more is to do. -/
def Dev.compactStep (d : Dev) (pools : List Nat) (moved left done : Nat) : Work × Bool × Dev :=
  let chans := interleave d.ileave
  let n := pools.getD (done / max 1 chans.length) 0
  let c := chans.getD (done % max 1 chans.length) 0
  let (m, l, d) := if (d.pool n).overcommit then d.compactChannel n c else (0, 0, d)
  let d := ((d.syncPool n).syncSpare c).retryStores
  (.compact pools (moved + m) (left + l), decide (done + 1 < pools.length * chans.length), d)

/-- The body of XT_PRESS_COMPACT. -/
def bodyPressCompact (i : Iface) (p : Payload) (d : Dev) : Dev :=
  d.vendor i 0xC081 p 1 fun q d =>
    let n := byteAt q 0
    if n ≠ 0xFF && !(decide (n < 8) && (d.pool n).used) then d.complete i 0xC081 rcInvalidInput []
    else if d.mb.fg.isSome then d.complete i 0xC081 rcBusy []
    else
      let pools := (if n = 0xFF then List.range 8 else [n]).filter fun k => (d.pool k).used && (d.pool k).overcommit
      let d := (d.startCompaction (some i) pools).complete i 0xC081 rcBackground []
      if pools.isEmpty then (d.setFlag Fld.prsSts_compact false).endFg rcSuccess (workOut (.compact [] 0 0)) else d

/-- XT_PRESS_COMPACT (R254). -/
def execXtPressCompact (i : Iface) (p : Payload) (s : State) : Host.Outcome State Fault Refusal :=
  s.on fun d => d.mailbox i (.xtPressCompact i p) 0xC081 (bodyPressCompact i p)

/-! ### Fills and evictions (R114, R115, R250) -/

/-- The class of a page's fill: that of the first request which waits for it (R147). -/
def Dev.fillClass (d : Dev) (page : Nat) : Cls :=
  match d.txns.find? fun (x : Txn) => x.phase == .fill && maFar x.ma && maPage x.ma == page with
  | some x => x.cls
  | none => .b

/-- Puts 64 lines into a frame that fills, in class `c`. -/
def Dev.fillFrame (d : Dev) (set way : Nat) (lines : List (Line × Bool)) (c : Cls) : Dev :=
  let g := d.frameOf set way
  let d := (List.range 64).foldl (fun d l =>
    let (v, p) := lines.getD l (0, true)
    (d.cremaAccess g l { cls := c, wr := true }).cremaPut g l v p) d
  ((d.count 0x024 64).setFrame set way { d.frame set way with valid := ~~~0, dirty := 0 }).tagWrite { cls := c } set (some way)

/-- CREMA_FILL_COMPLETE (R114): the frame becomes Valid and the requests that waited are served. A page that needs no engine
is read here; a Compressed one comes from PRESS_DECODE_COMPLETE. -/
def execCremaFillComplete (set : Nat) (way : Fin 16) (s : State) : Host.Outcome State Fault Refusal :=
  s.on fun d =>
    let f := d.frame set way.val
    let page := d.pageOf set f.tag
    if d.live && f.st == 2 && !d.jobOn set way.val && (f.valid != 0 || d.pageState page != 1) then
      let c := d.fillClass page
      let d := if f.valid == 0 then (d.readAccess page { cls := c }).fillFrame set way.val (d.pageLines page) c else d
      ((d.setFrame set way.val { d.frame set way.val with st := 1 }).countPinned).wakeSet set
    else d

/-- The lines that came from the far tier while the frame was Evicting become present and clean (R112). -/
def Dev.takeLate (d : Dev) (set way : Nat) : Dev :=
  let i := set * 16 + way
  let l := d.crm.late.filter fun (e : Nat × Line × Bool) => e.1 / 64 == i
  let d := { d with crm := { d.crm with late := d.crm.late.filter fun (e : Nat × Line × Bool) => e.1 / 64 != i } }
  l.foldl (fun d (e : Nat × Line × Bool) =>
    let g := d.frameOf set way
    let d := (d.cremaAccess g (e.1 % 64) { wr := true }).cremaPut g (e.1 % 64) e.2.1 e.2.2
    (d.setFrame set way ((d.frame set way).mark (e.1 % 64) false)).count 0x024 1) d

/-- The lines that wait for an Evicting frame go with the allocation that they were for. -/
def Dev.dropLates (d : Dev) (set way : Nat) : Dev :=
  { d with crm := { d.crm with late := d.crm.late.filter fun (e : Nat × Line × Bool) => e.1 / 64 != set * 16 + way } }

/-- An Evicting frame is free: it takes the page that waits for it, or becomes Invalid. -/
def Dev.evicted (d : Dev) (set way : Nat) : Dev :=
  let i := set * 16 + way
  let next := Sparse.get 0 d.crm.evictFor i
  let d := ({ d with crm := { d.crm with evictFor := Sparse.erase d.crm.evictFor i } }).dropFrame set way
  let page := next / 4
  let d := if next = 0 || (d.findWay page (next / 2 % 2 == 1)).isSome || d.unbacked (d.frameOf set way) then d.dropLates set way
    else if next / 2 % 2 = 1 then d.startFill set way page false (d.fillClass page)
    else (d.installFrame set way page).takeLate set way
  d.wakeSet set

/-- EVICTION_COMPLETE (R115): the last writeback of the victim has been issued. -/
def execEvictionComplete (set : Nat) (way : Fin 16) (s : State) (errs : LineErrs := []) : Host.Outcome State Fault Refusal :=
  s.on fun d =>
    let f := d.frame set way.val
    if d.live && f.st == 3 && !d.jobOn set way.val && (!f.c || f.dirty == 0) then
      (if f.c then d else ((d.settleFrame set way.val).foundDirty (· == set * 16 + way.val) errs).writebackFrame set way.val (d.evictClass (d.pageOf set f.tag))).evicted set way.val
    else d

/-! ### Press jobs (R247, R248, R250) -/

/-- Frees an engine, whose job has ended. -/
def Dev.freeEngine (d : Dev) (e : Nat) : Dev :=
  { d with prs := { d.prs with engines := vmod d.prs.engines e fun _ => none } }

/-- An engine found faulty is mapped out at the next boundary (R259). -/
def Dev.engineFaulty (d : Dev) (e : Nat) : Dev :=
  if d.prs.lossDue.contains (Fin.ofNat 4 e) then d else { d with prs := { d.prs with lossDue := d.prs.lossDue ++ [Fin.ofNat 4 e] } }

/-- What a decode job delivers: the 64 lines into the frame that fills, or the requested line to a bypass read. -/
def Dev.deliverPage (d : Dev) (j : Job) (lines : List (Line × Bool)) : Dev :=
  match j.txn with
  | some id => match d.txn id with
    | some x => if x.phase == .fill then let (v, p) := lines.getD (maLine x.ma) (0, true); (d.withData x v p).run else d
    | none => d
  | none => if (d.frame j.set j.way).st == 2 then d.fillFrame j.set j.way lines j.cls else d

/-- A page that cannot be decoded (R247, R248): poisoned, and delivered so. -/
def Dev.decodeLost (d : Dev) (j : Job) : Dev := (d.poisonPage j.page .internal).deliverPage j (List.replicate 64 (0, true))

/-- The lines that the engine returns where its checks pass, none where a sector line is poison. -/
def Dev.decoded (d : Dev) (page : Nat) : Option (List (Line × Bool)) :=
  let ls := d.pageLines page
  if d.pageState page == 1 && ls.any (·.2) then none else some ls

/-- The checks of a Compressed page's sector lines under their error patterns, in the page's order (R182, R247): a corrected line is
counted, an uncorrectable one recorded and stored poisoned. -/
def Dev.checkSectors (d : Dev) (page : Nat) (flips : List (List (BitVec 80))) : Dev :=
  match d.pagePlace page with
  | none => d
  | some pl => match d.mapEntry pl with
    | none => d
    | some m =>
      let lines := (d.pageSectors pl m).flatMap fun s => (List.range 8).map fun i => 8 * s + i
      (lines.zip flips).foldl (fun d (e : Nat × List (BitVec 80)) =>
        let loc := d.farLocator pl.ch e.1
        match Code.dt79.decodeLine (d.farView pl.ch e.1).2 e.2 with
        | .poisoned => d
        | .bad => (d.ueLine true pl.ch loc).farStore pl.ch e.1 0 true
        | .good corrected _ =>
          let (hit, d) := d.checkState pl.ch e.1 e.2
          if corrected || hit then d.correctedOn true pl.ch loc else d) d

/-- PRESS_DECODE_COMPLETE (R247, R248): the data is used once the check passes. A mismatch tries another engine once; the
first engine is mapped out if that one passes. -/
def execPressDecodeComplete (engine : Fin 4) (crcOk : Bool) (s : State) (flips : List (List (BitVec 80)) := []) : Host.Outcome State Fault Refusal :=
  s.on fun d =>
    match vget none d.prs.engines engine.val with
    | some j =>
      if d.live && j.decode then
        let d := ((d.freeEngine engine.val).count 0x028 1).readAccess j.page { cls := j.cls }
        let d := if d.pageState j.page == 1 then d.checkSectors j.page flips else d
        let others := d.enginesOk.filter fun e => e != engine.val && d.prs.underTest.map (·.val) != some e
        let d := match d.decoded j.page with
          | none => d.decodeLost j
          | some ls =>
            if crcOk then (match j.tries with | e :: _ => d.engineFaulty e | [] => d).deliverPage j ls
            else if j.tries.isEmpty && !others.isEmpty then
              { d with prs := { d.prs with jobs := { j with tries := [engine.val] } :: d.prs.jobs } }
            else
              let c := (d.farLoc (j.page * 4096)).ch
              (d.decodeLost j).raise { num := 0x160, chid := some (d.farChid c), loc := d.pageLoc j.page }
        d.dispatchJobs
      else d
    | none => d

/-- A coded frame has been stored, waits for room, or is lost. -/
def Dev.codeFrame (d : Dev) (set way : Nat) (raw : Bool) : Dev :=
  match d.storeFrame set way raw with
  | (.wait, d) =>
    let d := ({ d with crm := { d.crm with evictFor := Sparse.erase d.crm.evictFor (set * 16 + way) } }).dropLates set way
    (d.wakeSet set).askCompaction
  | (_, d) => d

/-- A pool page's pool and channel registers follow a store. -/
def Dev.syncPlace (d : Dev) (page : Nat) : Dev :=
  match d.pagePlace page with
  | some pl => if (d.pool pl.pool).overcommit then (d.syncPool pl.pool).syncSpare pl.ch else d
  | none => d

/-- PRESS_CODE_COMPLETE (R250): the page is stored; a self-check mismatch stores it Raw and maps the engine out. -/
def execPressCodeComplete (engine : Fin 4) (selfCheckOk : Bool) (s : State) : Host.Outcome State Fault Refusal :=
  s.on fun d =>
    match vget none d.prs.engines engine.val with
    | some j =>
      if d.live && !j.decode then
        let d := (d.freeEngine engine.val).count 0x029 1
        let d := if selfCheckOk then d else d.engineFaulty engine.val
        let d := if (d.frame j.set j.way).st == 3 then d.codeFrame j.set j.way (!selfCheckOk) else d
        (d.syncPlace j.page).dispatchJobs
      else d
    | none => d

/-- Sectors that updates released become free (R241). -/
def Dev.releaseDue (d : Dev) : Dev :=
  if d.prs.releasing.isEmpty then d
  else
    let rel := d.prs.releasing
    let d := { d with prs := { d.prs with taken := rel.foldl (fun (t : NatSet) k => t.del k) d.prs.taken, releasing := [] } }
    let d := (List.range 8).foldl (fun d n => if (d.pool n).used && (d.pool n).overcommit then d.syncPool n else d) d
    (interleave d.ileave).foldl (fun d c => d.syncSpare c) d

/-- SECTOR_RELEASE (R241): the boundary after the map-line write. -/
def Dev.edgeSectorRelease (d : Dev) : Dev :=
  if d.live then d.releaseDue else d

/-- What waits for Press when its last engine goes (R259): fills end, their requests find no decoder; coded frames are stored
Raw. -/
def Dev.withoutEngines (d : Dev) : Dev :=
  let jobs := d.prs.jobs
  let d := { d with prs := { d.prs with jobs := [] } }
  jobs.foldl (fun d (j : Job) =>
    match j.decode, j.txn with
    | true, some id => match d.txn id with
      | some x => d.closeUndecoded x
      | none => d
    | true, none => if (d.frame j.set j.way).st == 2 then (d.dropFrame j.set j.way).wakeSet j.set else d
    | false, _ => if (d.frame j.set j.way).st == 3 then (d.codeFrame j.set j.way true).syncPlace j.page else d) d

/-- PRESS_ENGINE_LOSS (R259): at the boundary a faulty engine is mapped out, its job runs on another one; with the last one
the device is DEGRADED. -/
def Dev.edgePressEngineLoss (engine : Fin 4) (d : Dev) : Dev :=
    if d.live && d.prs.lossDue.contains engine then
      let d := { d with prs := { d.prs with lossDue := d.prs.lossDue.filter (· != engine) } }
      let d := d.setBit Fld.prsSts_engOk engine.val false
      let d := if d.enginesOk.isEmpty then d.stopEngineTest else d
      let last := d.enginesOk.isEmpty
      let d := d.raise { num := 0x165, unit := last }
      let d := match vget none d.prs.engines engine.val with
        | some j => { d.freeEngine engine.val with prs := { (d.freeEngine engine.val).prs with jobs := j :: d.prs.jobs } }
        | none => d
      let d := d.floorMoved
      let d := if last then ((d.withoutEngines.run).fence 10).degrade 0x165 else d
      d.dispatchJobs
    else d

end Sys2Proof.Machine
end

