-- ==== Sys2Proof/Machine/CremaOps.lean ====
section
/-! DEFINITION. Sys2Proof/Machine/CremaOps.lean: pinning, flushing and sizing the near region (R118 to R120). -/

namespace Sys2Proof.Machine

/-! ### The commands -/

/-- The LD and range of a pin or flush body, and whether the body is well formed: port, LD, option byte, zeros, DPA, length. -/
def rangeBody (q : Payload) (options : Nat) : Bool :=
  decide (byteAt q 0 < 2) && decide (byteAt q 1 < 16) && decide (byteAt q 2 ≤ options) && zeroBytes q 3 5

/-- The body of XT_CREMA_PIN. -/
def bodyCremaPin (i : Iface) (p : Payload) (d : Dev) : Dev :=
  d.vendor i 0xC070 p 24 fun q d =>
    let port := portOf (byteAt q 0)
    let ld := byteAt q 1
    let dpa := leNat q 8 8
    let len := leNat q 16 8
    if !rangeBody q 1 || dpa % 4096 != 0 || len % 4096 != 0 || (d.tenantOf port ld).isNone then d.complete i 0xC070 rcInvalidInput []
    else if !d.mayStage i then d.complete i 0xC070 rcBusy []
    else (d.stage i (.pin port ld (byteAt q 2 == 1) dpa len i)).complete i 0xC070 rcSuccess []

/-- XT_CREMA_PIN (R118). -/
def execXtCremaPin (i : Iface) (p : Payload) (s : State) : Host.Outcome State Fault Refusal :=
  s.on fun d => d.mailbox i (.xtCremaPin i p) 0xC070 (bodyCremaPin i p)

/-- The body of XT_CREMA_FLUSH. -/
def bodyCremaFlush (i : Iface) (p : Payload) (d : Dev) : Dev :=
  d.vendor i 0xC071 p 24 fun q d =>
    let port := portOf (byteAt q 0)
    let ld := byteAt q 1
    let whole := bitAt (byteAt q 2) 0
    if !rangeBody q 3 || (!whole && (d.tenantOf port ld).isNone) then d.complete i 0xC071 rcInvalidInput []
    else if !d.mayStage i then d.complete i 0xC071 rcBusy []
    else
      (d.stage i (.flush port ld whole (bitAt (byteAt q 2) 1) (leNat q 8 8) (leNat q 16 8) i)).complete i 0xC071 rcSuccess []

/-- XT_CREMA_FLUSH (R119). -/
def execXtCremaFlush (i : Iface) (p : Payload) (s : State) : Host.Outcome State Fault Refusal :=
  s.on fun d => d.mailbox i (.xtCremaFlush i p) 0xC071 (bodyCremaFlush i p)

/-- The body of XT_NEAR_SIZE. -/
def bodyNearSize (i : Iface) (p : Payload) (d : Dev) : Dev :=
  d.vendor i 0xC072 p 1 fun q d =>
    if !d.mayStage i then d.complete i 0xC072 rcBusy []
    else (d.stage i (.nearSize (byteAt q 0) i)).complete i 0xC072 rcSuccess []

/-- XT_NEAR_SIZE (R120). The size is checked by XT_STAGE_CHECK. -/
def execXtNearSize (i : Iface) (p : Payload) (s : State) : Host.Outcome State Fault Refusal :=
  s.on fun d => d.mailbox i (.xtNearSize i p) 0xC072 (bodyNearSize i p)

/-! ### Starting the brews at the commit -/

/-- Pages per step of a pin, and frames or sets per step of a flush or a walk: a step ends within 256 pours (log entry 31). -/
def stepUnits : Nat := 256

/-- A staged pin or unpin starts. -/
def Dev.startPin (d : Dev) (port : PortId) (ld : Nat) (pin : Bool) (dpa len : Nat) (i : Iface) : Dev :=
  if d.mb.fg.isSome then d.complete i 0xC070 rcBusy []
  else d.startFg 0x03 (some i) (.pin port ld pin dpa (len / 4096) 0 0) (ceilDiv (len / 4096) stepUnits)

/-- The pages with a frame that a flush covers, by page × 2 + C. -/
def Dev.flushRange (d : Dev) (port : PortId) (ld : Nat) (whole : Bool) (dpa len : Nat) : List Nat :=
  d.frames.filterMap fun (e : Nat × Frame) =>
    let page := d.pageOf (e.1 / 16) e.2.tag
    let inside := match d.ownerOf (mkMa d.chainId true (page * 4096)) e.2.c with
      | some (t, a) => d.tenantOf port ld == some t && decide (a + 4096 > dpa ∧ a < dpa + len)
      | none => false
    if e.2.st != 0 && (whole || inside) then some (page * 2 + bitOf e.2.c) else none

/-- A staged flush starts. -/
def Dev.startFlush (d : Dev) (port : PortId) (ld : Nat) (whole inval : Bool) (dpa len : Nat) (i : Iface) : Dev :=
  if d.mb.fg.isSome then d.complete i 0xC071 rcBusy []
  else
    let l := d.flushRange port ld whole dpa len
    d.startFg 0x04 (some i) (.flush l inval 0) (ceilDiv l.length stepUnits)

/-- A staged change of NEAR starts: the cache enters bypass and the walk begins (R120). -/
def Dev.startNearSize (d : Dev) (gib : Nat) (i : Iface) : Dev :=
  if d.mb.fg.isSome then d.complete i 0xC072 rcBusy []
  else
    let d := { d with crm := { d.crm with bypassWalk := some (gib, 0, ifaceIdx i) } }
    let d := (d.setFlag Fld.crmSts_bypass true).setFlag Fld.crmSts_walk true
    d.startFg 0x05 (some i) (.nearSize gib) (ceilDiv d.sets stepUnits)

/-! ### The steps -/

/-- A page that is leaving keeps its frame: its writeback job and the allocation that waited for the frame go. -/
def Dev.keepFrame (d : Dev) (set way : Nat) : Dev :=
  let mine := fun (j : Job) => j.set == set && j.way == way && !j.decode
  let d := { d with
    prs := { d.prs with jobs := d.prs.jobs.filter (!mine ·), engines := vmap d.prs.engines fun o => o.filter (!mine ·) }
    crm := { d.crm with evictFor := Sparse.erase d.crm.evictFor (set * 16 + way) } }
  (d.setFrame set way { d.frame set way with st := 1 }).wakeSet set

/-- Fills the absent lines of an uncompressed page's frame. -/
def Dev.fillAbsent (d : Dev) (set way page : Nat) : Dev :=
  (List.range 64).foldl (fun d l =>
    let d := d.settleCached set way l page
    if (d.frame set way).has l then d
    else
      let x := d.farLoc (offOf page l)
      let (v, p) := d.farView x.ch x.cli
      let d := if d.farFresh x.ch (x.cli / 64) then d else d.farAccess x.ch x.cli {}
      let d := d.cremaAccess (d.frameOf set way) l { wr := true }
      ((d.cremaPut (d.frameOf set way) l v p).setFrame set way ((d.frame set way).mark l false)).count 0x024 1) d

/-- Frees a way for a page at once: the victim is written back first. -/
def Dev.freeWay (d : Dev) (set : Nat) : Option (Nat × Dev) :=
  match d.victim set with
  | none => none
  | some (w, d) =>
    let d := d.settleFrame set w
    let f := d.frame set w
    if f.st == 0 || f.dirty == 0 then some (w, d.dropFrame set w)
    else if f.c then
      match d.storeFrame set w d.enginesOk.isEmpty with
      | (.wait, _) => none
      | (_, d) => some (w, d.dropFrame set w)
    else some (w, (d.writebackFrame set w .b).dropFrame set w)

/-- Pins one page: answers whether it is pinned now. A page that finds no eligible way in a set with fewer than 12 pinned frames stays
unpinned and counts with the pages over the limit (R118 does not say; DESIGN CHOICE, log entry 91). -/
def Dev.pinPage (d : Dev) (page : Nat) (comp : Bool) : Bool × Dev :=
  let set := d.setOf page
  let full := decide (12 ≤ ((List.range 16).filter fun w => (d.frame set w).pin).length)
  let mark := fun (d : Dev) (w : Nat) => (d.setFrame set w { d.frame set w with pin := true }).countPinned
  match d.findWay page comp with
  | some w =>
    if (d.frame set w).pin then (true, d)
    else if full then (false, d)
    else
      let d := if (d.frame set w).st == 3 then d.keepFrame set w else d
      let d := if comp || (d.frame set w).st == 2 then d else d.fillAbsent set w page
      (true, mark d w)
  | none =>
    if full then (false, d)
    else match d.freeWay set with
      | none => (false, d)
      | some (w, d) =>
        if comp then
          let (ls, d) := match d.decoded page with
            | some ls => (ls, d)
            | none => (List.replicate 64 (0, true), d.poisonPage page .internal)
          let d := (d.readAccess page {}).setFrame set w { Frame.none with st := 1, rrpv := 2, c := true, tag := d.tagOf page }
          (true, mark ((d.setPred page ⟨true, w, 2⟩).fillFrame set w ls .b) w)
        else (true, mark ((d.installFrame set w page).fillAbsent set w page) w)

/-- One page of a pin's range: the page is skipped where the DPA lies in no far extent of this device or on a lost channel. -/
def Dev.pinOne (d : Dev) (port : PortId) (ld : Nat) (pin : Bool) (dpa : Nat) : Nat × Nat × Dev :=
  match d.tenantOf port ld with
  | none => (0, 0, d)
  | some t =>
    let w := d.extOfDpa t dpa
    let ma := maOf w dpa
    if !extV w || !extFar w || extMember w != d.chainId || d.farGone ma then (0, 0, d)
    else
      let page := maPage ma
      if pin then
        match d.pinPage page (extC w) with
        | (true, d) => (1, 0, d)
        | (false, d) => (0, 1, d)
      else match d.findWay page (extC w) with
        | some y =>
          let set := d.setOf page
          if (d.frame set y).pin then (0, 0, ((d.setFrame set y { d.frame set y with pin := false }).countPinned).wakeSet set)
          else (0, 0, d)
        | none => (0, 0, d)

/-- One step of a pin: the work left, whether more is to do. -/
def Dev.pinStep (d : Dev) (port : PortId) (ld : Nat) (pin : Bool) (dpa pages pinned refused : Nat) : Work × Bool × Dev :=
  let n := min stepUnits pages
  let (a, b, d) := (List.range n).foldl (fun (x : Nat × Nat × Dev) k =>
    let (a, b, d) := x
    let (a', b', d) := d.pinOne port ld pin (dpa + k * 4096)
    (a + a', b + b', d)) (pinned, refused, d)
  (.pin port ld pin (dpa + n * 4096) (pages - n) a b, decide (n < pages), d)

/-- The flush of one page (R119): the lines written, and whether the page stays on the list. A page that fills, is evicted or waits to be
stored stays until its frame can be emptied; with the invalidate option a clean frame becomes Invalid. -/
def Dev.flushPage (d : Dev) (k : Nat) (inval : Bool) : Nat × Bool × Dev :=
  let page := k / 2
  match d.findWay page (k % 2 == 1) with
  | none => (0, false, d)
  | some w =>
    let set := d.setOf page
    if (d.frame set w).st = 1 then
      let (n, d) := d.flushFrame (set * 16 + w)
      if (d.frame set w).dirty ≠ 0 then (n, true, d)
      else (n, false, if inval then (d.dropFrame set w).wakeSet set else d)
    else (0, inval || (d.frame set w).st == 3, d)

/-- One step of a flush. -/
def Dev.flushStep (d : Dev) (frames : List Nat) (inval : Bool) (lines : Nat) : Work × Bool × Dev :=
  let (n, kept, d) := (frames.take stepUnits).foldl (fun (a : Nat × List Nat × Dev) k =>
    let (n, kept, d) := a
    let (m, stays, d) := d.flushPage k inval
    (n + m, if stays then kept ++ [k] else kept, d)) (0, [], d)
  let rest := frames.drop stepUnits ++ kept
  (.flush rest inval (lines + n), !rest.isEmpty, d)

/-- Empties one frame in the walk of R120: dirty lines are written back, waiting fills and evictions end. -/
def Dev.emptyFrame (d : Dev) (i : Nat) : Dev :=
  let set := i / 16
  let way := i % 16
  let mine := fun (j : Job) => j.set == set && j.way == way && j.txn.isNone
  let d := { d with
    prs := { d.prs with jobs := d.prs.jobs.filter (!mine ·), engines := vmap d.prs.engines fun o => o.filter (!mine ·) }
    crm := { d.crm with evictFor := Sparse.erase d.crm.evictFor i, heldWrites := d.crm.heldWrites.erase i } }
  let d := d.settleFrame set way
  let f := d.frame set way
  let d := if f.dirty == 0 || f.st == 0 then d
    else if f.c then
      let ls := d.frameLines set way
      (d.count 0x025 (ones f.dirty)).storeDirect (d.pageOf set f.tag) ls
    else d.writebackFrame set way .b
  (d.dropFrame set way).wakeSet set

/-- One step of the near-size walk: 256 sets. -/
def Dev.walkStep (d : Dev) (gib : Nat) : Work × Bool × Dev :=
  match d.crm.bypassWalk with
  | none => (.nearSize gib, false, d)
  | some (g, next, i) =>
    let stop := min d.sets (next + stepUnits)
    let mine := (Sparse.keys d.frames).filter fun k => next ≤ k / 16 && k / 16 < stop
    let d := mine.foldl (fun d k => d.emptyFrame k) d
    let sets := d.sets
    let d := { d with crm := { d.crm with bypassWalk := some (g, stop, i) } }
    (.nearSize gib, decide (stop < sets), d)

/-- The new NEAR and S take effect (R120): new near blocks are zeroed, the cache leaves bypass. -/
def Dev.nearDone (d : Dev) (gib : Nat) : Dev :=
  let old := d.near
  let d := { d with crm := { d.crm with bypassWalk := none, tagCache := [] } }
  let d := (d.setNear gib).floorMoved
  let d := ((List.range (4 * gib)).drop (4 * old)).foldl (fun d b => d.zeroNear b) d
  let d := (d.setFlag Fld.crmSts_bypass false).setFlag Fld.crmSts_walk false
  let waiting := d.txns.filter fun x => (x.phase == .fill || x.phase == .heldWrite) && maFar x.ma
  d.wakeSets ((waiting.map fun x => d.setOf (maPage x.ma)).eraseDups)

/-- NEAR_SIZE_WALK_END (R120): the boundary after the walk, which ends with what is left of it. -/
def execNearSizeWalkEnd (s : State) : Host.Outcome State Fault Refusal :=
  s.on fun d =>
    match d.crm.bypassWalk with
    | some (gib, next, _) =>
      if d.live then
        let d := ((Sparse.keys d.frames).filter fun k => next ≤ k / 16).foldl (fun d k => d.emptyFrame k) d
        let d := d.nearDone gib
        match d.mb.fg with
        | some b => (match b.work with | .nearSize _ => d.endFg rcSuccess [] | _ => d)
        | none => d
      else d
    | none => d

end Sys2Proof.Machine
end

