-- ==== Sys2Proof/Machine/Staging.lean ====
section
/-! DEFINITION. Sys2Proof/Machine/Staging.lean: what a commit applies, the checks of XT_STAGE_CHECK, the commit and the abort
(R391, R422 to R426), the time-slot bookings and route checks they cover (R317 to R321, R327), and XT_CANISTER_LOAD (R403). -/

namespace Sys2Proof.Machine

/-! ### Applying the staging set (R425) -/

/-- The pending entries take force: each register's RWS bits; TARGET is a request and reads 0 again (R44). -/
def Dev.applyRegs (d : Dev) : Dev :=
  let d := d.shadow.foldl (fun d (e : Nat × Word) =>
    let m := accMask (·.rws) e.1
    d.setReg e.1 ((d.reg e.1 &&& ~~~m) ||| (e.2 &&& m))) d
  ({ d with shadow := [] }).setFld Fld.glbModeReq_target 0

/-- The staged tenant and pool changes take force. -/
def Dev.applyMedia (d : Dev) : Dev :=
  d.stg.cmds.foldl (fun d c => match c with
    | .tenant create t port ld base len part pool members media _ removed =>
      d.commitTenant create t port ld base len part pool members media removed
    | .poolCreate n oc _ storage e => d.createPool n.val oc storage e
    | .poolAdd n _ storage e => d.growPool n.val storage e
    | .poolExpose n e => d.setPool n.val (d.pool n.val) e
    | .poolDestroy n => d.destroyPool n.val
    | _ => d) d

/-- The staged brews start. -/
def Dev.applyBrews (d : Dev) (cmds : List StagedCmd) : Dev :=
  cmds.foldl (fun d c => match c with
    | .pin port ld pin dpa len i => d.startPin port ld pin dpa len i
    | .flush port ld whole inval dpa len i => d.startFlush port ld whole inval dpa len i
    | .nearSize gib i => d.startNearSize gib i
    | .rotation c i =>
      if d.mb.fg.isSome then d.complete i 0xC040 rcBusy []
      else if d.canRotate c.val then d.startRotation c (some i) else d
    | _ => d) d

/-- The configuration as it will stand: what the checks of tenants, classes and floors look at. -/
def Dev.planned (d : Dev) : Dev := d.applyRegs.applyMedia

/-! ### Time-slot bookings (R317, R318) -/

/-- Entries that a guarantee books on each link: ⌈0.4 × GUAR⌉ + 1. -/
def bookedEntries (guar : Nat) : Nat := ceilDiv (4 * guar) 10 + 1

/-- A link: mesh (0 REQ, 3 DAT), router, output. -/
def linkKey (net router out : Nat) : Nat := (net * 36 + router) * 6 + out

/-- One move of a route field from a router, as column and row: none for an eject, a reserved field, or a move off the edge. -/
def routeMove (f r : Nat) : Option Nat :=
  if f = 1 then (if 6 ≤ r then some (r - 6) else none)
  else if f = 2 then (if r % 6 < 5 then some (r + 1) else none)
  else if f = 3 then (if r < 30 then some (r + 6) else none)
  else if f = 4 then (if 0 < r % 6 then some (r - 1) else none)
  else none

/-- The moves of a route from a router: the outputs taken in order with the router each leaves, and the router reached. None
for a reserved field or a move off the edge (R320). -/
def walkRoute : Nat → Nat → Nat → Option (List (Nat × Nat) × Nat)
  | 0, _, r => some ([], r)
  | n + 1, hops, r =>
    let f := hops % 8
    if f = 0 then some ([], r)
    else match routeMove f r with
      | none => none
      | some r' => match walkRoute n (hops / 8) r' with
        | some (l, e) => some ((r, f) :: l, e)
        | none => none

/-- The links that a route crosses: injection, every hop, ejection (R317). -/
def routeLinks (net src hops : Nat) : List Nat :=
  match walkRoute 8 hops src with
  | some (l, e) => linkKey net src 5 :: (l.map fun h => linkKey net h.1 h.2) ++ [linkKey net e 0]
  | none => []

/-- The routers of endpoints (R313). -/
def portTiles : PortId → List Nat
  | .a => [12, 18]
  | .b => [17, 23]
def innerTiles : List Nat := [7, 8, 9, 10, 13, 14, 15, 16, 19, 20, 21, 22, 25, 26, 27, 28]
def farTile (c : Nat) : Nat := if c < 4 then c + 1 else 30 + (c - 3)
def pressTiles : List Nat := [6, 24]

/-- The mesh, source and destination of the routes that a tenant's class-G traffic takes (log entry 32): requests from the
port's attachments to the homes and on to the tenant's media, data back to the attachments and to the homes. -/
def Dev.guardedRoutes (d : Dev) (t : TenantId) : List (Nat × Nat × Nat) :=
  let m := d.gMedia t
  let att := portTiles (d.tntPort t)
  let far := if m.far then (interleave d.ileave).map farTile else []
  let prs := if m.comp then pressTiles else []
  let relay := if m.members.isEmpty then [] else match d.relayDown with | some p => portTiles p | none => []
  let media := far ++ prs ++ relay
  let pairs := fun (net : Nat) (a b : List Nat) => a.flatMap fun s => b.map fun e => (net, s, e)
  pairs 0 att innerTiles ++ pairs 0 innerTiles media ++ pairs 3 att innerTiles ++ pairs 3 innerTiles (att ++ media) ++
    pairs 3 media (att ++ innerTiles)

/-- The links on which a tenant books entries. -/
def Dev.bookedLinks (d : Dev) (t : TenantId) : List Nat :=
  if d.guar t = 0 then []
  else
    ((d.guardedRoutes t).foldl (fun (s : NatSet) (r : Nat × Nat × Nat) =>
      if r.2.1 = r.2.2 then s
      else (routeLinks r.1 r.2.1 (routeIn d.noc.routesStaged r.1 r.2.1 r.2.2)).foldl (fun (s : NatSet) k => s.add k) s)
      ([] : NatSet)).keys

/-- Does every link keep 16 entries of the pour free (R318)? -/
def Dev.bookingsFit (d : Dev) : Bool :=
  let per := allTenants.flatMap fun t => (d.bookedLinks t).map fun k => (k, bookedEntries (d.guar t))
  let sums := per.foldl (fun (m : Sparse Nat) (e : Nat × Nat) => Sparse.put 0 m e.1 (Sparse.get 0 m e.1 + e.2)) []
  sums.all fun (e : Nat × Nat) => decide (e.2 ≤ 496)

/-- The first entry of a link at or behind a position, round the pour, that nobody has booked. -/
def freeEntry (slots : Sparse Nat) (link pos : Nat) : Option Nat :=
  ((List.range 512).map fun k => (pos + k) % 512).find? fun n => Sparse.get 0 slots (link * 512 + n) == 0

/-- A tenant's entries on one link, spread evenly from ⌊512 j ÷ n⌋ and shifted past booked ones (R318). -/
def bookLink (slots : Sparse Nat) (link n tenant : Nat) : Sparse Nat :=
  (List.range n).foldl (fun (m : Sparse Nat) j => match freeEntry m link (512 * j / n) with
    | some e => Sparse.put 0 m (link * 512 + e) (tenant + 1)
    | none => m) slots

/-- The slot tables of a configuration: every tenant with a guarantee, lowest number first (log entry 32). -/
def Dev.bookings (d : Dev) : Sparse Nat :=
  allTenants.foldl (fun (m : Sparse Nat) t =>
    (d.bookedLinks t).foldl (fun (m : Sparse Nat) k => bookLink m k (bookedEntries (d.guar t)) t.val) m) []

/-! ### Routes (R320, R321) -/

/-- The switchable domain of a router, if it has one (R313): none for the core's. -/
def routerDomain (r : Nat) : Option Nat :=
  let x := r % 6
  let y := r / 6
  if y = 0 then (if x = 1 || x = 2 then some 6 else if x = 3 || x = 4 then some 7 else none)
  else if y = 5 then (if x = 1 || x = 2 then some 8 else if x = 3 || x = 4 then some 9 else none)
  else if x = 0 then (if y = 1 || y = 4 then some 10 else some 0)
  else if x = 5 then (if y = 1 || y = 4 then some 11 else some 1)
  else none

/-- The domains that a commit fences: those of ports that its port mode switches off. -/
def Dev.fencedByCommit (d : Dev) : List Nat :=
  let roles := fun (m : Nat) => if m = 1 || m = 2 || m = 3 then [] else [1]
  if d.pendFld Fld.glbPortMode_mode = d.fld Fld.glbPortMode_mode then [] else roles (d.pendFld Fld.glbPortMode_mode)

/-- Is one route in order: it reaches its destination, passes no switchable domain on the way, and neither end lies in a
domain that is not on? -/
def Dev.routeOk (d : Dev) (net src dst : Nat) : Bool :=
  let closed := fun (r : Nat) => match routerDomain r with
    | some n => d.domState n != 0 || d.fencedByCommit.contains n
    | none => false
  match walkRoute 8 (routeIn d.noc.routesStaged net src dst) src with
  | some (l, e) =>
    e == dst && !closed src && !closed dst && (l.drop 1).all fun (h : Nat × Nat) => (routerDomain h.1).isNone || h.1 == src
  | none => false

/-- Consecutive links of a mesh's routes: the channel-dependency graph. -/
def Dev.dependencies (d : Dev) (net : Nat) : List (Nat × Nat) :=
  (List.range 36).flatMap fun s => (List.range 36).flatMap fun e =>
    let l := routeLinks net s (routeIn d.noc.routesStaged net s e)
    l.zip (l.drop 1)

/-- Has a graph no cycle: taking away, `n` times, what nothing leads to leaves nothing? -/
def acyclic : Nat → List (Nat × Nat) → Bool
  | 0, l => l.isEmpty
  | n + 1, l => acyclic n (l.filter fun e => l.any fun f => f.2 == e.1)

/-- Is the staged route set in order (R321)? A set that equals the one in force is not staged. -/
def Dev.routesOk (d : Dev) : Bool :=
  d.noc.routesStaged == d.noc.routes ||
  (List.range 4).all fun net =>
    ((List.range 36).all fun s => (List.range 36).all fun e => d.routeOk net s e) && acyclic (36 * 6) (d.dependencies net)

/-! ### The checks (R423) -/

/-- What a failing check reports: its code, the register it names, and the resource of code 0x000B. -/
structure CheckFail where
  code : Nat
  off : Nat
  resource : Nat
  deriving DecidableEq, Repr

/-- A failure that names no register. -/
def noReg : Nat := 0xFFFFFFFF

/-- A check's failure where a condition does not hold. -/
def failIf (bad : Bool) (code off : Nat) : Option CheckFail := if bad then some ⟨code, off, 0⟩ else none

/-- Is a TARGET legal in the present mode (R44)? -/
def Dev.targetOk (d : Dev) (t : Nat) : Bool :=
  let m := d.mode
  let four := m == .await || m == .serve || m == .degraded || m == .drowse
  if t = 0 then true
  else if t = 1 || t = 2 || t = 5 then four
  else if t = 3 then m == .serve || m == .degraded || m == .drowse
  else if t = 4 then m == .hibernate && d.fld Fld.glbModeSts_drainDest == 3
  else t == 6 && m == .maint

/-- Check 0x0001: the first staged register, by offset, whose value its table does not accept. -/
def Dev.checkFields (d : Dev) : Option CheckFail :=
  (d.shadow.find? fun (e : Nat × Word) => !d.fieldOk e.1 e.2).map fun e => ⟨1, e.1, 0⟩

/-- Check 0x0002. -/
def Dev.checkMode (d : Dev) : Option CheckFail := failIf (!d.targetOk (d.pendFld Fld.glbModeReq_target)) 2 Off.glbModeReq

/-- Check 0x0003 (R330): outside MAINT a port mode changes only in AWAIT, with no decoder committed and no tenant ACTIVE. -/
def Dev.checkPortMode (d : Dev) : Option CheckFail :=
  let change := d.pendFld Fld.glbPortMode_mode != d.fld Fld.glbPortMode_mode
  let idle := d.mode == .await && !d.anyDecoder .a && !d.anyDecoder .b && allTenants.all fun t => d.tntState t != 1
  failIf (change && !(d.mode == .maint || idle)) 3 Off.glbPortMode

/-- Check 0x0004 (R87): a staged setting names a tenant in RESETTING, DESTROYING or SANITISING. -/
def Dev.checkTenants (d : Dev) : Option CheckFail :=
  failIf (allTenants.any fun t => decide (2 ≤ d.tntState t) && d.namesTenant t) 4 noReg

/-- Does a staged resize take away a block inside a committed decoder's range (R82)? -/
def Dev.resizeCuts (d : Dev) (t : TenantId) (base len : Nat) (part : Word) : Bool :=
  let old := d.extWords t
  (List.range old.length).any fun k =>
    let same := samePlace (d.fld (Fld.tntPart_nearBlk t.val)) (d.fld (Fld.tntPart_staticBlk t.val)) (fieldOf part 0 8) (fieldOf part 8 19) k
    let kept := k < d.regionStart t 0 && d.extAt (base + k) == old.getD k 0 && decide (k < len)
    let gone := !same || !(kept || d.regionStart t 0 ≤ k)
    gone && d.decodedBlock (d.tntPort t) (d.tntLd t) k

/-- Is a staged create or resize still in order (R82)? -/
def Dev.tenantOk (d : Dev) : StagedCmd → Bool
  | .tenant create t port ld base len part pool _ media _ _ =>
    let comp := part.getLsbD 27
    if create then
      d.hostPort port && (d.tenantOf port ld).isNone && d.tntState t == 0 && d.poolsExist comp pool media && decide (base + len ≤ 262144)
    else d.tntState t == 1 && d.poolsExist false 0 media && !d.resizeCuts t base len part
  | _ => true

/-- Check 0x0005. -/
def Dev.checkExtents (d : Dev) : Option CheckFail := failIf (!d.stg.cmds.all d.tenantOk) 5 noReg

/-- Check 0x0006 (R78): ORD changes only while no extent holds a far block of this device, offered ones included. -/
def Dev.checkOrder (d : Dev) : Option CheckFail :=
  let held := d.ext.any fun (e : Nat × Word) => (extV e.2 || extPend e.2) && extMember e.2 == d.chainId && extFar e.2
  failIf (d.pendFld Fld.farMapCtl_ord != d.fld Fld.farMapCtl_ord && held) 6 Off.farMapCtl

/-- Check 0x0007 (R120). -/
def Dev.checkNear (d : Dev) : Option CheckFail :=
  failIf (d.stg.cmds.any fun c => match c with
    | .nearSize gib _ => decide (d.maxNear < gib) || d.ext.any fun (e : Nat × Word) =>
        (extV e.2 || extPend e.2) && extMember e.2 == d.chainId && !extFar e.2 && decide (4 * gib ≤ extBlock e.2)
    | _ => false) 7 Off.crmCfg

/-- Check 0x0008 (R137). -/
def Dev.checkRotation (d : Dev) : Option CheckFail :=
  failIf (d.stg.cmds.any fun c => match c with | .rotation c _ => !d.canRotate c.val | _ => false) 8 noReg

/-- Is a staged pool change in order (R260)? -/
def Dev.poolOk (d : Dev) : StagedCmd → Bool
  | .poolCreate n oc want storage e =>
    let own := storage.length
    !(d.pool n.val).used && 0 < want && own == want && exposureOk oc own e && decide (e - own ≤ 65536 - d.fld Fld.farMapCtl_dataBlocks)
  | .poolAdd n want storage _ => (d.pool n.val).used && 0 < want && storage.length == want
  | .poolExpose n e =>
    let p := d.pool n.val
    p.used && p.overcommit && exposureOk true p.storage e && (p.exposed.drop e).all fun b =>
      !d.heldOn d.chainId true b && !(d.wiping d.chainId).contains (2, b)
  | .poolDestroy n => (d.pool n.val).used && (d.pool n.val).exposed.all fun b => !d.heldOn d.chainId true b
  | _ => true

/-- Check 0x0009. -/
def Dev.checkPools (d : Dev) : Option CheckFail := failIf (!d.stg.cmds.all d.poolOk) 9 noReg

/-- The class fields of a tenant: near, static, regions (R291). -/
def Dev.classFields (d : Dev) (t : Nat) : List Nat := (List.range 10).map fun k => fieldOf (d.reg (Off.svcTntClass t)) (2 * k) 2

/-- A tenant's outstanding limit by class code, whoever is bound. -/
def Dev.limitOf (d : Dev) (t k : Nat) : Nat :=
  if k = 0 then d.fld (Fld.svcTntOtlGl_g t) else if k = 1 then d.fld (Fld.svcTntOtlGl_l t)
  else if k = 2 then d.fld (Fld.svcTntOtlBs_b t) else d.fld (Fld.svcTntOtlBs_s t)

/-- Check 0x000A of one tenant (R292, R297): the register it fails on. -/
def Dev.classFail (d : Dev) (t : Nat) : Option Nat :=
  let cls := d.classFields t
  let g := d.fld (Fld.svcTntGuar_guar t)
  if cls.any fun k => d.limitOf t k == 0 then some (Off.svcTntClass t)
  else if g != 0 && !cls.contains 0 then some (Off.svcTntGuar t)
  else if g == 0 && cls.contains 0 then some (Off.svcTntClass t)
  else if d.limitOf t 0 < ceilDiv (8 * g) 10 then some (Off.svcTntOtlGl t)
  else none

/-- Check 0x000A, on the configuration as it will stand. -/
def Dev.checkClasses (h : Dev) : Option CheckFail := ((List.range 32).findSome? h.classFail).map fun o => ⟨10, o, 0⟩

/-- Check 0x000B (R304). -/
def Dev.checkFloors (h : Dev) : Option CheckFail := h.overcharged.map fun r => ⟨11, noReg, r⟩

/-- Check 0x000C (R309). -/
def Dev.checkReserve (h : Dev) : Option CheckFail :=
  let sum := ((List.range 32).map fun t => h.fld (Fld.svcTntGuar_guar t)).sum
  let gres := h.fld Fld.svcLbpCtl_gres
  failIf (decide (10 * gres < 8 * sum) || decide (12800 < gres)) 12 Off.svcLbpCtl

/-- Check 0x000D. -/
def Dev.checkRoutes (d : Dev) : Option CheckFail := failIf (!d.routesOk) 13 noReg

/-- Check 0x000E. -/
def Dev.checkSlots (h : Dev) : Option CheckFail := failIf (!h.bookingsFit) 14 noReg

/-- Check 0x000F (R157, R368, R386): THROTTLE on a member, VC counts, class G over a link with fewer than 8 VCs, and chain
control on a device that is no head. -/
def Dev.checkRelay (d h : Dev) : Option CheckFail :=
  let port := h.fld Fld.glbPortMode_mode
  let member := if port = d.fld Fld.glbPortMode_mode then d.isMember else port == 3 || port == 4
  let throttle := (List.range 8).find? fun c => member && h.fld (Fld.farChCfg_dist c) == 1
  let early := d.mode == .maint || (d.mode == .await && d.fld Fld.rlyChainSts_count == 0)
  let vc := (List.range 2).find? fun p => h.fld (Fld.rlyVcCfg_count p) != d.fld (Fld.rlyVcCfg_count p) && !early
  let short := match d.relayDown with
    | some p => d.fld (Fld.rlyLinkSts_vcs (portIdx p)) != 8 && allTenants.any fun t => h.guar t != 0 && !(h.gMedia t).members.isEmpty
    | none => false
  let ctl := !d.isHead && (h.fld Fld.rlyChainCtl_policy != d.fld Fld.rlyChainCtl_policy || h.fld Fld.rlyChainCtl_auto != d.fld Fld.rlyChainCtl_auto)
  match throttle with
  | some c => some ⟨15, Off.farChCfg c, 0⟩
  | none => match vc with
    | some p => some ⟨15, Off.rlyVcCfg p, 0⟩
    | none => if short then some ⟨15, noReg, 0⟩ else failIf ctl 15 Off.rlyChainCtl

/-- Check 0x0010 (R192): each far channel within 24 h, Crema within 1 h, in pours. -/
def Dev.checkScrub (h : Dev) : Option CheckFail :=
  let far := (interleave h.ileave).any fun c => decide (337500000000 < h.chLines c * h.fld Fld.rasScrubCtl_farInt)
  let crm := decide (14062500000 < h.frameCount * 64 * h.fld Fld.rasScrubCtl_crmInt)
  failIf (far || crm) 16 Off.rasScrubCtl

/-- The first check that fails, in ascending code order. -/
def Dev.runChecks (d : Dev) : Option CheckFail :=
  let h := d.planned
  d.checkFields <|> d.checkMode <|> d.checkPortMode <|> d.checkTenants <|> d.checkExtents <|> d.checkOrder <|> d.checkNear <|>
    d.checkRotation <|> d.checkPools <|> h.checkClasses <|> h.checkFloors <|> h.checkReserve <|> d.checkRoutes <|> h.checkSlots <|>
    d.checkRelay h <|> h.checkScrub

/-- The checks that a commit evaluates again (R425). -/
def Dev.runRechecks (d : Dev) : Option CheckFail := d.checkMode <|> d.checkTenants <|> d.checkRotation <|> d.checkRoutes

/-! ### XT_STAGE_CHECK (R423, R424) -/

/-- The body of XT_STAGE_CHECK. -/
def bodyStageCheck (i : Iface) (p : Payload) (d : Dev) : Dev :=
  d.vendor i 0xC010 p 0 fun _ d =>
    if !d.mayStage i || d.stg.checking.isSome || d.stg.commitPend.isSome then d.complete i 0xC010 rcBusy []
    else
      let d := d.ownStaging i
      (({ d with stg := { d.stg with checking := some i, checked := false } }).syncStaging).longRun i 0xC010

/-- XT_STAGE_CHECK (R423). -/
def execXtStageCheck (i : Iface) (p : Payload) (s : State) : Host.Outcome State Fault Refusal :=
  s.on fun d => d.mailbox i (.xtStageCheck i p) 0xC010 (bodyStageCheck i p)

/-- The result of a check, in its registers. -/
def Dev.checkResult (d : Dev) (f : CheckFail) (pass : Bool) : Dev :=
  (d.setReg Off.stgResult (BitVec.ofNat 32 (bitOf pass * 2 ^ 31 + 2 ^ 30 + f.resource * 2 ^ 27 + f.code))).setReg Off.stgFailOff
    (BitVec.ofNat 32 f.off)

/-- Writes that a check held reach their shadows (R424). -/
def Dev.landHeld (d : Dev) : Dev :=
  let held := d.stg.heldWrites
  let d := { d with stg := { d.stg with heldWrites := [] } }
  match d.stg.owner with
  | some i => held.foldl (fun d (e : Nat × Word) => (d.pendWrite e.1 e.2).staged i) d
  | none => d

/-- STAGE_CHECK_COMPLETE (R424): the result stands, a check that passes sets CHECKED and computes the seal reference, and held
writes land. -/
def execStageCheckComplete (s : State) : Host.Outcome State Fault Refusal :=
  s.on fun d =>
    match d.stg.checking with
    | some _ =>
      if d.live then
        let slots := d.planned.bookings
        let d := { d with noc := { d.noc with slotsStaged := slots } }
        let r := d.runChecks
        let f := r.getD ⟨0, noReg, 0⟩
        let ref := d.nextCrc
        let d := { d with stg := { d.stg with checking := none, checked := r.isNone, sealNext := if r.isNone then ref else d.stg.sealNext } }
        let d := (d.syncStaging.checkResult f r.isNone).landHeld
        d.completeRunning 0xC010 rcSuccess
          ([BitVec.ofNat 8 (bitOf r.isNone), BitVec.ofNat 8 f.resource, 0, 0] ++ leBytes 4 f.code ++ leBytes 4 f.off)
      else d
    | none => d

/-! ### XT_STAGE_COMMIT (R425) -/

/-- The body of XT_STAGE_COMMIT. A running reference scan makes it Busy (R431). -/
def bodyStageCommit (i : Iface) (p : Payload) (d : Dev) : Dev :=
  d.vendor i 0xC011 p 0 fun _ d =>
    if !d.mayStage i || d.stg.checking.isSome || d.stg.commitPend.isSome || d.flag Fld.glbSealSts_refscan then
      d.complete i 0xC011 rcBusy []
    else if !d.stg.checked then d.complete i 0xC011 rcInvalidInput []
    else
      let d := { d with stg := { d.stg with commitPend := some i } }
      (d.setFlag Fld.stgSts_commitPend true).longRun i 0xC011

/-- XT_STAGE_COMMIT (R425). -/
def execXtStageCommit (i : Iface) (p : Payload) (s : State) : Host.Outcome State Fault Refusal :=
  s.on fun d => d.mailbox i (.xtStageCommit i p) 0xC011 (bodyStageCommit i p)

/-- The staging set is empty and has no owner. -/
def Dev.emptyStaging (d : Dev) : Dev :=
  let d := match d.stg.owner with | some i => d.setFlag (Fld.mboxCmdSts_owner (ifaceIdx i)) false | none => d
  let d := { d with shadow := [], stg := { d.stg with owner := none, checked := false, writes := 0, cmds := [], heldWrites := [] } }
  (d.setFld Fld.stgSts_owner 3).syncStaging

/-- A port's decoder commits go. -/
def Dev.dropDecoders (d : Dev) (p : PortId) : Dev :=
  (List.range 16).foldl (fun d ld => d.modLd p ld fun l => { l with dec := Vector.replicate 8 none, decPend := [] }) d

/-- The port mode of a commit (R330): a port that leaves the CXL-host role runs its link-down and loses its decoder commits, a
Relay port its link; a port switched off is fenced, one switched on powers up (R324). -/
def Dev.changePorts (d : Dev) (old new : Nat) : Dev :=
  if old = new then d
  else
    let was := fun (p : PortId) => d.role p
    let next := d.setRoles new
    let moved := [PortId.a, .b].filter fun p => was p != next.role p
    let d := moved.foldl (fun d p =>
      if was p = 1 then (if d.linkUp p then d.linkDown p true else d.dropDecoders p)
      else if 2 ≤ was p then (d.modRly p fun _ => RelayPort.reset).setReg (Off.rlyLinkSts (portIdx p)) 0
      else d) d
    let d := d.setRoles new
    let d := moved.foldl (fun d p => if d.role p = 0 then d.fence (portIdx p) else if was p = 0 then d.powerOn (portIdx p) else d) d
    d.floorMoved

/-- Far channels whose disturbance mode changes start with empty counters (R153, R156). -/
def Dev.clearDist (d : Dev) (old : Dev) : Dev :=
  (List.range 8).foldl (fun d c =>
    if d.fld (Fld.farChCfg_dist c) = old.fld (Fld.farChCfg_dist c) then d
    else d.modFch c fun f => { f with dist := [], distIn := [], distHeld := [], distShared := false }) d

/-- Everything staged takes effect at cycle 0 of this boundary (R24, R425, R327). -/
def Dev.applyCommit (d : Dev) : Dev :=
  let old := d
  let target := d.pendFld Fld.glbModeReq_target
  let flush := d.pendFld Fld.glbModeReq_flush == 1
  let cmds := d.stg.cmds
  let flip := d.noc.routesStaged != d.noc.routes || d.noc.slotsStaged != d.noc.slots
  let ref := d.stg.sealNext
  let d := d.applyRegs.applyMedia
  let d := { d with
    noc := { d.noc with routes := d.noc.routesStaged, slots := d.noc.slotsStaged }
    due := { d.due with target := if target = 0 then d.due.target else some (target, flush) } }
  let d := if flip then d.setFlag Fld.nocSts_bank (!d.flag Fld.nocSts_bank) else d
  let d := d.changePorts (old.fld Fld.glbPortMode_mode) (d.fld Fld.glbPortMode_mode)
  let d := (d.clearDist old).derateAll.floorMoved
  let d := d.emptyStaging.applyBrews cmds
  if d.flag Fld.glbSealSts_sealed then
    let d := { d with ras := { d.ras with sealScan := match d.ras.sealScan with | some (_, false) => none | x => x } }
    d.setReg Off.glbSealRef ref
  else d

/-- COMMIT_TAKES_EFFECT (R425): four checks run again at the boundary; then everything staged takes effect, or nothing. -/
def Dev.edgeCommitTakesEffect (d : Dev) : Dev :=
    match d.stg.commitPend with
    | some _ =>
      if d.live then
        let d := ({ d with stg := { d.stg with commitPend := none } }).setFlag Fld.stgSts_commitPend false
        match d.runRechecks with
        | some _ => (({ d with stg := { d.stg with checked := false } }).syncStaging).completeRunning 0xC011 rcRetry []
        | none =>
          let now := d.now
          let d := d.applyCommit
          let d := { d with stg := { d.stg with commitPour := BitVec.ofNat 64 now } }
          let d := (d.setReg Off.stgCommitPourLo (BitVec.ofNat 32 now)).setFlag Fld.stgResult_valid false
          d.completeRunning 0xC011 rcSuccess (leBytes 8 now)
      else d
    | none => d

/-! ### XT_STAGE_ABORT (R426) -/

/-- The body of XT_STAGE_ABORT: entries that staged tenants wrote return at the next boundary. -/
def bodyStageAbort (i : Iface) (p : Payload) (d : Dev) : Dev :=
  d.vendor i 0xC012 p 0 fun _ d =>
    if !d.mayStage i || d.stg.checking.isSome || d.stg.commitPend.isSome then d.complete i 0xC012 rcBusy []
    else
      let written := d.stg.cmds.flatMap fun c => match c with | .tenant _ _ _ _ _ _ _ _ _ _ w _ => w | _ => []
      let d := { d with extRetire := d.extRetire ++ written
                        noc := { d.noc with routesStaged := d.noc.routes, slotsStaged := d.noc.slots } }
      (d.emptyStaging.setFlag Fld.stgResult_valid false).complete i 0xC012 rcSuccess []

/-- XT_STAGE_ABORT (R426). -/
def execXtStageAbort (i : Iface) (p : Payload) (s : State) : Host.Outcome State Fault Refusal :=
  s.on fun d => d.mailbox i (.xtStageAbort i p) 0xC012 (bodyStageAbort i p)

/-! ### XT_CANISTER_LOAD (R403) -/

/-- Stages the settings of a copy as if software had written them: its registers, its port mode, and NEAR where it differs. -/
def Dev.stageCopy (d : Dev) (i : Iface) (c : Copy) : Dev :=
  let d := c.regs.foldl (fun d (e : Nat × Word) => (d.pendWrite e.1 e.2).staged i) d
  let d := (d.setPend Off.glbPortMode (setFieldOf (d.pendReg Off.glbPortMode) 0 3 c.portMode)).staged i
  if c.near = d.near then d else d.stage i (.nearSize c.near i)

/-- The body of XT_CANISTER_LOAD. Without a valid copy there is nothing to load: Invalid Input. -/
def bodyCanisterLoad (i : Iface) (p : Payload) (d : Dev) : Dev :=
  d.vendor i 0xC051 p 0 fun _ d =>
    if !d.mayStage i || d.stg.checking.isSome then d.complete i 0xC051 rcBusy []
    else match d.newestCopy with
      | none => d.complete i 0xC051 rcInvalidInput []
      | some c => (d.stageCopy i c).complete i 0xC051 rcSuccess (leBytes 8 c.gen)

/-- XT_CANISTER_LOAD (R403). -/
def execXtCanisterLoad (i : Iface) (p : Payload) (s : State) : Host.Outcome State Fault Refusal :=
  s.on fun d => d.mailbox i (.xtCanisterLoad i p) 0xC051 (bodyCanisterLoad i p)

end Sys2Proof.Machine
end

