-- ==== Sys2Proof/Machine/Firmware.lean ====
section
/-! DEFINITION. Sys2Proof/Machine/Firmware.lean: firmware slots and their verification (R400, R401, R455, R456), Barista's restarts
(R388, R389), and the forwarding of ring records (R405, R475, R477). -/

namespace Sys2Proof.Machine

/-! ### Staging an image (R400) -/

/-- Bytes of a firmware slot (R402). -/
def slotSize : Nat := 1572864

/-- Is a slot in force? In the recovery state no image is. -/
def Dev.inForce (d : Dev) (n : Fin 2) : Bool := !d.mb.recovery && d.mb.slot == n

/-- Does the verify brew run on a slot? -/
def Dev.verifying (d : Dev) (n : Fin 2) : Bool :=
  match d.mb.fg with
  | some b => (match b.work with | .fwVerify m => m == n | _ => false)
  | none => false

/-- Takes one part of an image (R400). The last part starts the verify brew. -/
def Dev.takePart (d : Dev) (i : Iface) (opcode : Nat) (n : Fin 2) (off : Nat) (last : Bool) (bytes : Payload) : Dev :=
  let next := d.mb.fwNext[n]
  if d.inForce n || (off != 0 && (next == 0 || off != next)) || decide (slotSize < off + bytes.length) then
    d.complete i opcode rcInvalidInput []
  else if (last && d.mb.fg.isSome) || d.verifying n then d.complete i opcode rcBusy []
  else
    let old := if off = 0 then [] else d.slotBytes n
    let slot : Slot := ⟨old ++ bytes, false⟩
    let after := if last then 0 else off + bytes.length
    let d := ({ d with can := { d.can with slots := vmod d.can.slots n.val fun _ => slot }
                       mb := { d.mb with fwNext := vmod d.mb.fwNext n.val fun _ => after } }).syncCanister
    if last then (d.startFg 0x08 (some i) (.fwVerify n) 1).complete i opcode rcBackground []
    else d.complete i opcode rcSuccess []

/-- The body of XT_FW_STAGE. -/
def bodyFwStage (i : Iface) (p : Payload) (d : Dev) : Dev :=
  d.vendor i 0xC0A0 p 24 fun q d =>
    let n := leNat q 8 4
    if decide (1 < byteAt q 0 ∨ 1 < byteAt q 1 ∨ q.length < 24 + n) || !zeroBytes q 2 2 || !zeroBytes q 12 12 then
      d.complete i 0xC0A0 rcInvalidInput []
    else d.takePart i 0xC0A0 (Fin.ofNat 2 (byteAt q 0)) (leNat q 4 4) (byteAt q 1 == 1) ((q.drop 24).take n)

/-- XT_FW_STAGE (R400). -/
def execXtFwStage (i : Iface) (p : Payload) (s : State) : Host.Outcome State Fault Refusal :=
  s.on fun d => d.mailbox i (.xtFwStage i p) 0xC0A0 (bodyFwStage i p)

/-- The body of Transfer FW: slot 1 is A, slot 2 is B. -/
def bodyTransferFw (i : Iface) (slot off : Nat) (last : Bool) (bytes : Payload) (d : Dev) : Dev :=
  if slot = 1 ∨ slot = 2 then d.takePart i 0x0201 (Fin.ofNat 2 (slot - 1)) off last bytes
  else d.complete i 0x0201 rcInvalidInput []

/-- TRANSFER_FW (R400). -/
def execTransferFw (i : Iface) (slot off : Nat) (last : Bool) (bytes : Payload) (s : State) : Host.Outcome State Fault Refusal :=
  s.on fun d => d.mailbox i (.transferFw i slot off last bytes) 0x0201 (bodyTransferFw i slot off last bytes)

/-- FIRMWARE_VERIFY_COMPLETE (R456): the slot is valid when every check passes; `sigFail` is the first of steps 4 to 7 that
fails. -/
def execFirmwareVerifyComplete (sigFail : Option Nat) (s : State) : Host.Outcome State Fault Refusal :=
  s.on fun d =>
    match d.mb.fg with
    | some b =>
      match b.work with
      | .fwVerify n =>
        if d.live then
          match d.verifyImage [1, 2] (d.slotBytes n) sigFail with
          | none =>
            let d := ({ d with can := { d.can with slots := vmod d.can.slots n.val fun (x : Slot) => { x with valid := true } } }).syncCanister
            d.endFg rcSuccess []
          | some k => (d.raiseN 0x1F1 [word1 n.val, word1 k]).endFg rcFwVerify []
        else d
      | _ => d
    | none => d

/-! ### Restarts of Barista (R388, R389) -/

/-- Ends what Barista had in progress with Internal Error: the running commands, a check, a commit, the foreground brew. -/
def Dev.dropCommands (d : Dev) : Dev :=
  let run := d.mb.running
  let d := { d with
    stg := { d.stg with checking := none, commitPend := none }
    chain := { d.chain with cmd := none }
    tenants := vmap d.tenants fun (t : Tenant) => { t with seq := t.seq.map fun (q : TenantSeq) => { q with iface := none } } }
  let d := (d.setFlag Fld.stgSts_commitPend false).syncStaging
  let d := run.foldl (fun d (r : Iface × Nat) => d.complete r.1 r.2 rcInternal []) d
  (d.abortFg rcInternal).landHeld

/-- A restart begins: 1 watchdog, 2 lockstep, 3 memory error, 4 activation. -/
def Dev.restart (d : Dev) (cause : Nat) : Dev :=
  let d := d.dropCommands
  let d := { d with mb := { d.mb with state := .restarting, restartCause := cause, stepDue := false } }
  (d.setFld Fld.mboxBaristaSts_cause cause).bump Fld.mboxBaristaSts_restarts 1

/-- A restart that is a failure: the fourth within 2^24 pours of the first of three earlier ones leaves Barista held. -/
def Dev.failRestart (d : Dev) (cause : Nat) : Dev :=
  if d.live && d.mb.state == .running then
    let now := d.now
    let recent := d.mb.restarts.filter fun p => decide (now ≤ p + 2 ^ 24)
    let d := d.restart cause
    let d := { d with mb := { d.mb with restarts := now :: recent } }
    if 3 ≤ recent.length then
      let d := { d with mb := { d.mb with state := .held } }
      ((d.setFlag Fld.mboxBaristaSts_held true).alert 3).raiseN 0x1B1 []
    else d
  else d

/-- WATCHDOG_EXPIRY (R388, R389). -/
def execWatchdogExpiry (s : State) : Host.Outcome State Fault Refusal := s.on fun d => d.failRestart 1

/-- LOCKSTEP_MISMATCH (R388, R389). -/
def execLockstepMismatch (s : State) : Host.Outcome State Fault Refusal := s.on fun d => d.failRestart 2

/-- TCM_UNCORRECTABLE_FETCH (R186, R388): the memory's error also counts as an uncorrectable word. -/
def execTcmUncorrectableFetch (s : State) : Host.Outcome State Fault Refusal := s.on fun d => d.failRestart 3

/-- The step of R456 that an activation's image fails: of the header as it stands, of the signatures one of 4 to 7 that the
event does not name. -/
def Dev.failedStep (d : Dev) (n : Fin 2) : Nat × Dev :=
  match d.verifyStep (d.slotBytes n) none with
  | some k => (k, d)
  | none => let (f, d) := d.takeFree; (4 + (Config.freeValue f).toNat % 4, d)

/-- BARISTA_RESTART_COMPLETE (R388, R401): internal brews resume and the mailboxes are ready. An activation's image that fails
verification brings the earlier slot back. Without a verified image Barista stays in reset (log entry 33). -/
def execBaristaRestartComplete (verifyOk : Bool) (s : State) : Host.Outcome State Fault Refusal :=
  s.on fun d =>
    if d.live && d.mb.state == .restarting then
      match d.mb.activating with
      | some (i, op, old, new) =>
        let d := { d with mb := { d.mb with activating := none, state := .running, recovery := d.mb.recovery && !verifyOk } }
        if verifyOk then
          let d := ({ d with mb := { d.mb with slot := new } }).setFlag Fld.glbModeSts_recovery false
          (d.setFld Fld.mboxBaristaSts_slot new.val).complete i op rcSuccess (leBytes 1 new.val)
        else
          let (k, d) := d.failedStep new
          let d := ({ d with can := { d.can with bootSlot := old } }).syncCanister
          (d.raiseN 0x1F1 [word1 new.val, word1 k]).complete i op rcInternal []
      | none =>
        if verifyOk then
          let cause := d.mb.restartCause
          ({ d with mb := { d.mb with state := .running } }).raiseN 0x1B0 [word1 cause]
        else d
    else d

/-! ### Activation (R401) -/

/-- Activates a slot: recorded as the boot slot, and with the immediate option Barista restarts into it. -/
def Dev.activateSlot (d : Dev) (i : Iface) (opcode : Nat) (n : Fin 2) (now : Bool) : Dev :=
  let b := d.slotBytes n
  let valid := (d.can.slots[n]).valid && (d.verifyStep b none).isNone
  if !valid || (now && (byteAt b 14).testBit 0 && d.mode != .maint) then d.complete i opcode rcInvalidInput []
  else if now && d.mb.fg.isSome then d.complete i opcode rcBusy []
  else
    let old := d.can.bootSlot
    let force := d.mb.slot
    let d := ({ d with can := { d.can with bootSlot := n } }).syncCanister
    if now then
      let d := d.restart 4
      ({ d with mb := { d.mb with activating := some (i, opcode, old, n) } }).longRun i opcode
    else d.complete i opcode rcSuccess (leBytes 1 force.val)

/-- The body of XT_FW_ACTIVATE. -/
def bodyFwActivate (i : Iface) (p : Payload) (d : Dev) : Dev :=
  d.vendor i 0xC0A1 p 2 fun q d =>
    if 1 < byteAt q 0 ∨ 1 < byteAt q 1 then d.complete i 0xC0A1 rcInvalidInput []
    else d.activateSlot i 0xC0A1 (Fin.ofNat 2 (byteAt q 0)) (byteAt q 1 == 1)

/-- XT_FW_ACTIVATE (R401). -/
def execXtFwActivate (i : Iface) (p : Payload) (s : State) : Host.Outcome State Fault Refusal :=
  s.on fun d => d.mailbox i (.xtFwActivate i p) 0xC0A1 (bodyFwActivate i p)

/-- The body of Activate FW. -/
def bodyActivateFw (i : Iface) (slot : Nat) (now : Bool) (d : Dev) : Dev :=
  if slot = 1 ∨ slot = 2 then d.activateSlot i 0x0202 (Fin.ofNat 2 (slot - 1)) now else d.complete i 0x0202 rcInvalidInput []

/-- ACTIVATE_FW (R400, R401). -/
def execActivateFw (i : Iface) (slot : Nat) (now : Bool) (s : State) : Host.Outcome State Fault Refusal :=
  s.on fun d => d.mailbox i (.activateFw i slot now) 0x0202 (bodyActivateFw i slot now)

/-- The body of Get FW Info: the slots, the one in force and the boot slot, and their versions (the layout is the standard's,
log entry 18). -/
def bodyGetFwInfo (i : Iface) (d : Dev) : Dev :=
  let force := if d.mb.recovery then 0 else d.mb.slot.val + 1
  let info := [2, BitVec.ofNat 8 (force + 8 * (d.can.bootSlot.val + 1)), 1] ++ List.replicate 13 (0 : Byte)
  let version := fun (n : Nat) => leBytes 16 (d.slotVersion n)
  d.complete i 0x0200 rcSuccess (info ++ version 0 ++ version 1)

/-- GET_FW_INFO (R400). -/
def execGetFwInfo (i : Iface) (s : State) : Host.Outcome State Fault Refusal :=
  s.on fun d => d.mailbox i (.getFwInfo i) 0x0200 (bodyGetFwInfo i)

/-! ### Forwarding ring records (R405, R475, R477) -/

/-- The DPA that a record names, and its transaction type in the standard's General Media Event Record (log entry 18). -/
def recordDpa (r : EventRec) : Option (Nat × Nat) :=
  let at_ := fun (k : Nat) => (r.detail.getD k 0).toNat + 2 ^ 32 * (r.detail.getD (k + 1) 0).toNat
  if r.code = 0x4144 then some (at_ 1, 0)
  else if r.code = 0x4106 then some (at_ 1, 2)
  else if r.code = 0x4170 then some (at_ 2, 0)
  else none

/-- The LDs that a record concerns: its tenant's, or every bound one. -/
def Dev.concerned (d : Dev) (r : EventRec) : List (PortId × Nat) :=
  match r.tenant with
  | some t => if d.flag (Fld.tntCtl_en t.val) then [(d.tntPort t, d.tntLd t)] else []
  | none => (allTenants.filter fun t => d.flag (Fld.tntCtl_en t.val)).map fun t => (d.tntPort t, d.tntLd t)

/-- The Canister's log entry of a record: at most one every 4,096 pours (R405). -/
def Dev.logRecord (d : Dev) (r : EventRec) : Dev :=
  let now := d.now
  let due := match d.can.lastLog with | some p => decide (p + 4096 ≤ now) | none => true
  if r.sev = 0 then d
  else if due then
    ({ d with can := { d.can with log := (r :: d.can.log).take 8192, logCount := d.can.logCount + 1, lastLog := some now } }).syncCanister
  else d.bump Fld.canLogSts_dropped 1

/-- The 64 bytes of a record as four slots. -/
def recordSlots (r : EventRec) : List (BitVec 128) :=
  byteSlots ((recWords r).flatMap fun w => leBytes 4 w.toNat)

/-- Has the pour of the record at TAIL closed (R474)? -/
def Dev.tailClosed (d : Dev) : Bool :=
  match d.ras.recs.find? fun (r : EventRec) => r.rseq == d.ras.tail with
  | some r => r.fromMember || r.pour != d.clk.pour
  | none => true

/-- RECORD_FORWARD (R477): the record at TAIL, when its pour has closed, goes to the event logs of the LDs it concerns and to the Canister's log; a chain
member sends it to the head (R378). -/
def execRecordForward (s : State) : Host.Outcome State Fault Refusal :=
  s.on fun d =>
    if d.mode != .cold && d.mb.state == .running && decide (d.ras.tail < d.ras.written) && d.tailClosed then
      let n := d.ras.tail
      let d := { d with ras := { d.ras with tail := n + 1 } }
      match d.ras.recs.find? fun (r : EventRec) => r.rseq == n with
      | some r =>
        let lds := d.concerned r
        let d := lds.foldl (fun d (l : PortId × Nat) => d.modLd l.1 l.2 fun x => { x with log := x.log ++ [r] }) d
        let d := match recordDpa r, lds with
          | some (dpa, k), l :: _ => d.emit (.generalMedia l.1 l.2 dpa k)
          | _, _ => d
        let d := d.logRecord r
        if d.isMember && !r.fromMember then d.sendUp (d.mgmtMsg 0 4) 0x6A (recordSlots r) else d
      | none => d
    else d

end Sys2Proof.Machine
end

