-- ==== Sys2Proof/Machine/Brews.lean ====
section
/-! DEFINITION. Sys2Proof/Machine/Brews.lean: the standard commands over media and poison lists, the abort of a brew, and the
steps of the foreground and internal brews (R91, R92, R188, R189, R222, R343, R344, R398, R399, R493). -/

namespace Sys2Proof.Machine

/-- The port whose LDs a standard command of an interface addresses: MCTP speaks for Port A (log entry 18). -/
def ifacePort : Iface → PortId
  | .portB => .b
  | _ => .a

/-! ### Aborts (R399) -/

/-- Aborts the foreground brew for a command, which runs between two steps: an internal kind, the erase after a cut, or another
kind than the running one is Invalid Input. `kind` is none for the standard command, which names none. -/
def Dev.abortBrew (d : Dev) (i : Iface) (opcode : Nat) (kind : Option Nat) : Dev :=
  match d.mb.fg with
  | some b =>
    let other := match kind with | some k => k != b.kind | none => false
    if b.kind == 9 || other then d.complete i opcode rcInvalidInput []
    else (d.abortFg rcAborted).complete i opcode rcSuccess (if kind.isSome then leBytes 4 b.done else [])
  | none => d.complete i opcode rcInvalidInput []

/-- The body of XT_BREW_ABORT. -/
def bodyBrewAbort (i : Iface) (p : Payload) (d : Dev) : Dev :=
  d.vendor i 0xC0F0 p 1 fun q d => d.abortBrew i 0xC0F0 (some (byteAt q 0))

/-- XT_BREW_ABORT (R399). -/
def execXtBrewAbort (i : Iface) (p : Payload) (s : State) : Host.Outcome State Fault Refusal :=
  s.on fun d => d.mailbox i (.xtBrewAbort i p) 0xC0F0 (bodyBrewAbort i p)

/-- The body of Request Abort Background Operation. -/
def bodyRequestAbort (i : Iface) (d : Dev) : Dev := d.abortBrew i 0x0005 none

/-- REQUEST_ABORT_BACKGROUND_OPERATION (R399). -/
def execRequestAbortBackgroundOperation (i : Iface) (s : State) : Host.Outcome State Fault Refusal :=
  s.on fun d => d.mailbox i (.requestAbortBackgroundOperation i) 0x0005 (bodyRequestAbort i)

/-! ### Sanitize and Secure Erase (R91, R92) -/

/-- The body of Sanitize and Secure Erase. -/
def Dev.sanitiseLd (d : Dev) (i : Iface) (opcode ld : Nat) (secure : Bool) : Dev :=
  match d.tenantOf (ifacePort i) ld with
  | none => d.complete i opcode rcInvalidInput []
  | some t =>
    let st := d.tntState t
    if st == 2 || st == 3 || d.sequenceRuns t || d.mb.fg.isSome then d.complete i opcode rcBusy []
    else (d.complete i opcode rcBackground []).startSanitise t secure (some i)

/-- The body of Sanitize. -/
def bodySanitize (i : Iface) (ld : Nat) (d : Dev) : Dev := d.sanitiseLd i 0x4400 ld false

/-- SANITIZE (R91, R92). -/
def execSanitize (i : Iface) (ld : Nat) (s : State) : Host.Outcome State Fault Refusal :=
  s.on fun d => d.mailbox i (.sanitize i ld) 0x4400 (bodySanitize i ld)

/-- The body of Secure Erase. -/
def bodySecureErase (i : Iface) (ld : Nat) (d : Dev) : Dev := d.sanitiseLd i 0x4401 ld true

/-- SECURE_ERASE (R91, R92). -/
def execSecureErase (i : Iface) (ld : Nat) (s : State) : Host.Outcome State Fault Refusal :=
  s.on fun d => d.mailbox i (.secureErase i ld) 0x4401 (bodySecureErase i ld)

/-! ### The poison list by command (R188, R189, R343, R344) -/

/-- The body of Scan Media. -/
def bodyScanMedia (i : Iface) (ld : Nat) (d : Dev) : Dev :=
  match d.tenantOf (ifacePort i) ld with
  | none => d.complete i 0x4304 rcInvalidInput []
  | some t =>
    if d.mb.fg.isSome then d.complete i 0x4304 rcBusy []
    else (d.complete i 0x4304 rcBackground []).startFg 0x02 (some i) (.scanMedia (ifacePort i) ld) (d.mappedBlocks t).length

/-- SCAN_MEDIA (R344). -/
def execScanMedia (i : Iface) (ld : Nat) (s : State) : Host.Outcome State Fault Refusal :=
  s.on fun d => d.mailbox i (.scanMedia i ld) 0x4304 (bodyScanMedia i ld)

/-- The media address that a DPA of an LD names, with the compressed attribute. -/
def Dev.dpaMa (d : Dev) (p : PortId) (ld dpa : Nat) : Option (Nat × Bool) :=
  match d.tenantOf p ld with
  | some t =>
    let w := d.extOfDpa t dpa
    if extV w && !extPend w then some (maOf w dpa, extC w) else none
  | none => none

/-- Writes a line of an LD for a standard command, or stores poison in it. A line of another member is written there by a
Relay write, and listed here, where the LD's list is (log entry 34). -/
def Dev.writeDpa (d : Dev) (p : PortId) (ld dpa : Nat) (ma : Nat) (comp : Bool) (data : Line) (poison : Bool) : Dev :=
  if maMember ma = d.chainId then d.writeLine ma comp data poison .injected
  else
    let tag := d.nextTxn
    let m : RelayMsg := { d.mgmtMsg (maMember ma) 4 with
      tag := tag % 65536, tenant := (d.tenantOf p ld).getD 0, comp := comp, poison := poison, line := ma / 64 }
    let d := ({ d with nextTxn := tag + 1 }).sendDown m Op.wr.opc (lineSlots data)
    if poison then d.listPoison p ld (dpa / 64) .injected else d.unlistPoison p ld (dpa / 64)

/-- The body of Inject Poison: accepted in every lifecycle state. -/
def bodyInjectPoison (i : Iface) (ld dpa : Nat) (d : Dev) : Dev :=
  if dpa % 64 ≠ 0 then d.complete i 0x4301 rcInvalidInput []
  else match d.dpaMa (ifacePort i) ld dpa with
    | none => d.complete i 0x4301 rcInvalidPa []
    | some (ma, comp) => (d.writeDpa (ifacePort i) ld dpa ma comp 0 true).complete i 0x4301 rcSuccess []

/-- INJECT_POISON (R188, R189). -/
def execInjectPoison (i : Iface) (ld dpa : Nat) (s : State) : Host.Outcome State Fault Refusal :=
  s.on fun d => d.mailbox i (.injectPoison i ld dpa) 0x4301 (bodyInjectPoison i ld dpa)

/-- The body of Clear Poison: the whole line is written with the data given. -/
def bodyClearPoison (i : Iface) (ld dpa : Nat) (data : Line) (d : Dev) : Dev :=
  if dpa % 64 ≠ 0 then d.complete i 0x4302 rcInvalidInput []
  else match d.dpaMa (ifacePort i) ld dpa with
    | none => d.complete i 0x4302 rcInvalidPa []
    | some (ma, comp) => (d.writeDpa (ifacePort i) ld dpa ma comp data false).complete i 0x4302 rcSuccess []

/-- CLEAR_POISON (R189). -/
def execClearPoison (i : Iface) (ld dpa : Nat) (data : Line) (s : State) : Host.Outcome State Fault Refusal :=
  s.on fun d => d.mailbox i (.clearPoison i ld dpa data) 0x4302 (bodyClearPoison i ld dpa data)

/-- The body of Get Poison List: the list, its overflow flag and the overflow's pour. -/
def bodyGetPoisonList (i : Iface) (ld : Nat) (d : Dev) : Dev :=
  if 16 ≤ ld then d.complete i 0x4300 rcInvalidInput []
  else
    let l := d.ldOf (ifacePort i) ld
    (d.emit (.poisonList i l.poisonOvf l.ovfAt l.poison)).complete i 0x4300 rcSuccess []

/-- GET_POISON_LIST (R343, R344). -/
def execGetPoisonList (i : Iface) (ld : Nat) (s : State) : Host.Outcome State Fault Refusal :=
  s.on fun d => d.mailbox i (.getPoisonList i ld) 0x4300 (bodyGetPoisonList i ld)

/-! ### Scan Media's list (R343, R344) -/

/-- The source of the record of a list that holds a line. -/
def sourceIn (l : List PoisonRec) (line : Nat) : Option PoisonSrc :=
  (l.find? fun (r : PoisonRec) => decide (r.first ≤ line) && decide (line < r.first + r.len)).map (·.src)

/-- Does a line of an LD read as poison, and under which source if no record listed it before? Lines of another member that
is not lost are known here only by their records. -/
def Dev.scanned (d : Dev) (t : TenantId) (old : List PoisonRec) (line : Nat) : Option PoisonSrc :=
  let dpa := line * 64
  let w := d.extOfDpa t dpa
  let ma := maOf w dpa
  if !extV w then none
  else if extMember w ≠ d.chainId then
    if d.blockLost ma then some .vendor else sourceIn old line
  else if (d.readLine ma (extC w)).2 then
    let dropped := extC w && (match d.poolOf (maPage ma / 65536) with
      | some n => (d.pool n).overcommit && d.pageState (maPage ma) == 3
      | none => false)
    some (if dropped then .vendor else .internal)
  else none

/-- The list rebuilt: every line that reads as poison, in DPA order, under its old record's source where it had one. -/
def Dev.rebuildList (d : Dev) (p : PortId) (ld : Nat) : Dev :=
  match d.tenantOf p ld with
  | none => d
  | some t =>
    let old := (d.ldOf p ld).poison
    let block := fun (l : List PoisonRec) (b : Nat) =>
      (List.range (2 ^ 22)).foldl (fun (l : List PoisonRec) k =>
        let line := b * 2 ^ 22 + k
        match d.scanned t old line with
        | some src => addRec l line ((sourceIn old line).getD src)
        | none => l) l
    let all := (d.mappedBlocks t).foldl block []
    let d := d.modLd p ld fun s => { s with poison := all.take 1024 }
    if all.length ≤ 1024 then
      (d.modLd p ld fun s => { s with poisonOvf := false, ovfAt := none }).setBit (Fld.prtPoisonOvf_ovf (portIdx p)) ld false
    else d.poisonOverflow p ld

/-! ### Steps (R398, R399) -/

/-- What a step of the foreground brew leaves: its work, one more unit done, and its end when nothing is left. -/
def Dev.fgWorked (d : Dev) (w : Work) (more : Bool) : Dev :=
  let fg := d.mb.fg.map fun (b : Brew) => { b with work := w, done := b.done + 1 }
  let d := ({ d with mb := { d.mb with fg := fg } }).syncBrew
  if more then d else d.endFg rcSuccess (workOut w)

/-- Takes the content out of a media block of this member or another one, named as `queueWipe` names it. -/
def Dev.wipeAny (d : Dev) (x : Nat × Nat) (zero : Bool) : Dev :=
  if x.1 / 4 = d.chainId then d.wipeBlock (x.1 % 4 != 0) (x.1 % 4 == 2) zero x.2 else d.wipeRemote (x.1 / 4) x.2

/-- One block of a sanitise, in ascending DPA order (R92). -/
def Dev.sanitiseStep (d : Dev) (t : TenantId) (secure : Bool) (w : Work) (done : Nat) : Dev :=
  let blocks := d.mappedBlocks t
  let d := match blocks[done]? with
    | some b =>
      let x := d.extAt (d.extBase t + b)
      let d := d.wipeAny (extMedium x + 4 * extMember x, extBlock x) (!secure)
      d.unlistBlock t b
    | none => d
  if done + 1 < blocks.length then d.fgWorked w true
  else (d.setFld (Fld.tntSts_state t.val) 1).fgWorked w false

/-- A step of a test brew: outside the test window it ends the test (R493). The copy of a rotation is no test step. -/
def Dev.testStep (d : Dev) (w : Work) (kind index : Nat) (window : Bool) : Dev :=
  let outside := !(window && d.thm.windowOk)
  if kind = 1 then
    match d.crm.rot with
    | none => (d.bistResult 4 []).endFg rcAborted (bistOut 4 [])
    | some r => if outside && r.phase == 2 then (d.stopTest 1 index 3).endFg rcSuccess (bistOut 3 []) else d.fgWorked w true
  else if outside then (d.stopTest kind index 3).endFg rcSuccess (bistOut 3 [])
  else d.fgWorked w true

/-- Does a step of this work write dirty Crema lines back (R118, R119, R120)? -/
def Work.writesBack : Work → Bool
  | .pin .. => true
  | .flush .. => true
  | .nearSize _ => true
  | _ => false

/-- One step of the foreground brew. The walk of a near-size change, a firmware verify, the erase after a cut and a test
end at their own events. -/
def Dev.fgStep (d : Dev) (b : Brew) (window : Bool) : Dev :=
  match b.work with
  | .sanitise t secure _ => d.sanitiseStep t secure b.work b.done
  | .scanMedia port ld =>
    if b.done + 1 < b.planned then d.fgWorked b.work true else (d.rebuildList port ld).fgWorked b.work false
  | .pin port ld pin dpa pages pinned refused =>
    let (w, more, d) := d.pinStep port ld pin dpa pages pinned refused
    d.fgWorked w more
  | .flush frames inval lines =>
    let (w, more, d) := d.flushStep frames inval lines
    d.fgWorked w more
  | .nearSize gib =>
    let (w, _, d) := d.walkStep gib
    d.fgWorked w true
  | .compact pools moved left =>
    let (w, more, d) := d.compactStep pools moved left b.done
    (if more then d else d.setFlag Fld.prsSts_compact false).fgWorked w more
  | .test kind index => d.testStep b.work kind index window
  | _ => d.fgWorked b.work true

/-- Does no request that was looked up still work on a media block (R90)? -/
def Dev.blockIdle (d : Dev) (x : Nat × Nat) : Bool :=
  !(d.txns.any fun (t : Txn) => t.phase.looked && maMember t.ma == x.1 / 4 && maFar t.ma == (x.1 % 4 != 0) &&
    maOff t.ma / 2 ^ 28 == x.2 && t.comp == (x.1 % 4 == 2))

/-- Takes an internal brew away. -/
def Dev.endInternal (d : Dev) (w : Work) : Dev :=
  ({ d with mb := { d.mb with internal := d.mb.internal.filter fun (b : Brew) => b.work != w } }).syncBrew

/-- Changes an internal brew's work, with `n` more units done. -/
def Dev.internalWorked (d : Dev) (old new : Work) (n : Nat) : Dev :=
  { d with mb := { d.mb with internal := d.mb.internal.map fun (b : Brew) =>
      if b.work == old then { b with work := new, done := b.done + n } else b } }

/-- One block of the internal block sanitise: the first that no request works on (R83, R86, R90). -/
def Dev.blockStep (d : Dev) (blocks : List (Nat × Nat)) : Dev :=
  match blocks.find? d.blockIdle with
  | none => d
  | some x =>
    let d := d.wipeAny x false
    let rest := blocks.erase x
    if rest.isEmpty then d.endInternal (.blockSanitise blocks)
    else d.internalWorked (.blockSanitise blocks) (.blockSanitise rest) 1

/-- The reinit of one stored page of a poisoned subtree (R222): a page that is not fresh takes a new counter block and stored
poison in its 64 lines; a fresh page stays fresh. -/
def Dev.reinitPage (d : Dev) (c pg : Nat) : Dev :=
  if d.farFresh c pg then d
  else
    let d := d.freshCtr c pg (d.pageNew c pg)
    let d := { d with mem := { d.mem with written := d.mem.written.add (pageKey c pg)
                                          lostFresh := setLost d.mem.lostFresh c pg false } }
    let meta_ := (d.ctrBase c + pg) :: (List.range 4).map (d.macBase c + 4 * pg + ·)
    let d := d.farLines c ((List.range 64).map (pg * 64 + ·) ++ meta_) { cls := .s, wr := true }
    (List.range 64).foldl (fun d j =>
      let cli := pg * 64 + j
      if d.mem.farPoison.has (farKey c cli) then d
      else
        ((d.setFarPoison c cli true).putFar (farKey c cli) 0).poisonFound (d.lineOwner c cli) (d.farChid c) (d.farLocator c cli)
          .internal) d

/-- One step of a subtree's reinit, in ascending order: the pages that RATE lines in each of a step's 256 pours make (R222). -/
def Dev.reinitStep (d : Dev) (w : Work) (ch : FarCh) (level index done : Nat) : Dev :=
  let (first, all) := d.subtreePages ch.val level index
  let n := min (4 * d.fld Fld.cryRekeyCtl_rate) (all - done)
  let d := (List.range n).foldl (fun d i => d.reinitPage ch.val (first + done + i)) d
  d.internalWorked w w n

/-- One step of an internal brew. -/
def Dev.internalStep (d : Dev) (b : Brew) : Dev :=
  match b.work with
  | .blockSanitise blocks => d.blockStep blocks
  | .subtreeReinit ch level index => d.reinitStep b.work ch level index b.done
  | _ => d

/-- May the foreground brew take a step: not suspended, outside DRAIN and HIBERNATE (R55), its media work begun (R92)? -/
def Dev.fgReady (d : Dev) (b : Brew) : Bool :=
  !b.suspended && d.mode != .drain && d.mode != .hibernate &&
    (match b.work with
     | .sanitise _ _ started => started.isSome
     | .nearSize _ => (match d.crm.bypassWalk with | some (_, next, _) => decide (next < d.sets) | none => false)
     | _ => true)

/-- May an internal brew take a step? A subtree's reinit waits while a rekey runs (R222). -/
def Dev.internalReady (d : Dev) (b : Brew) : Bool :=
  d.mode != .hibernate &&
    (match b.work with
     | .blockSanitise blocks => blocks.any d.blockIdle
     | .subtreeReinit _ _ _ => !d.rekeying && decide (b.done < b.planned)
     | _ => false)

/-- The brews that may take a step, the foreground brew first. -/
def Dev.readyBrews (d : Dev) : List (Bool × Brew) :=
  (match d.mb.fg with | some b => if d.fgReady b then [(true, b)] else [] | none => []) ++
    (d.mb.internal.filter d.internalReady).map fun b => (false, b)

/-- A step starts at a boundary (R398): Barista runs, no command runs or waits, and a brew is ready. -/
def Dev.startStep (d : Dev) : Dev :=
  if d.live && d.mb.state == .running && d.baristaFree && !d.readyBrews.isEmpty then
    let now := d.now
    { d with mb := { d.mb with stepDue := true, stepAt := some now } }
  else d

/-- Does a brew walk media blocks, which lie on every channel of the set (R52)? -/
def Work.walksBlocks : Work → Bool
  | .sanitise _ _ _ | .scanMedia _ _ | .blockSanitise _ | .cutErase => true
  | _ => false

/-- A brew that walks media blocks reaches every channel: one that sleeps is told to wake (R52, R53). -/
def Dev.reachAll (d : Dev) : Dev :=
  let now := d.now
  (interleave d.ileave).foldl (fun d c =>
    let asleep := d.fld (Fld.farChSts_state c) == 3
    d.modFch c fun f => { f with reqs := f.reqs + 1, wakeBy := if asleep && f.wakeBy.isNone then some (now + 8) else f.wakeBy }) d

/-- Notes the channels that a step of a brew has reached: those with another count of requests than before (R52). -/
def Dev.noteTouched (d : Dev) (before : List Nat) (b : Brew) : Dev :=
  let t := BitVec.ofNat 8 (((List.range 8).map fun c => bitOf ((d.fch c).reqs != before.getD c 0) * 2 ^ c).sum)
  let mark := fun (x : Brew) => if x.kind == b.kind then { x with touched := x.touched ||| t } else x
  { d with mb := { d.mb with fg := d.mb.fg.map mark, internal := d.mb.internal.map mark } }

/-- The end of a step: one unit of the brew whose turn it is; `errs` is what its writebacks found. -/
def Dev.endStep (d : Dev) (window : Bool) (errs : LineErrs) : Dev :=
  let turn := d.mb.turn
  let ready := d.readyBrews
  let now := d.now
  let d := { d with mb := { d.mb with stepDue := false, stepAt := some now, turn := turn + 1 } }
  match ready[turn % max 1 ready.length]? with
  | some (fg, b) =>
    let before := (List.range 8).map fun c => (d.fch c).reqs
    let d := if b.work.walksBlocks then d.reachAll else d
    let d := if b.work.writesBack then d.foundDirty (fun _ => true) errs else d
    (if fg then d.fgStep b window else d.internalStep b).noteTouched before b
  | none => d

/-- SUBTREE_REINIT_END (R222): the boundary after the last write of a subtree's reinit. What is left of it is done, and the
subtree is released. -/
def Dev.edgeSubtreeReinitEnd (d : Dev) : Dev :=
    let mine := d.mb.internal.find? fun (b : Brew) => match b.work with | .subtreeReinit _ _ _ => true | _ => false
    match mine with
    | some b => match b.work with
      | .subtreeReinit ch level index =>
        if d.live && !d.rekeying then
          let (first, all) := d.subtreePages ch.val level index
          let d := ((List.range all).drop b.done).foldl (fun d i => d.reinitPage ch.val (first + i)) d
          (d.modFch ch.val fun f => { f with subtrees := f.subtrees.erase (level, index) }).endInternal b.work
        else d
      | _ => d
    | none => d

end Sys2Proof.Machine
end

