-- ==== Sys2Proof/Machine/Fm.lean ====
section
/-! DEFINITION. Sys2Proof/Machine/Fm.lean: dynamic capacity (R88 to R90), the other commands of the fabric manager (R342), and
the CDAT (R340, R341). -/

namespace Sys2Proof.Machine

/-! ### Dynamic capacity (R88 to R90) -/

/-- A command of the fabric manager reaches Barista (R342, R389, R392): nobody answers before TRAIN or while Barista does not
run; HALT answers Media Disabled, and the recovery MAINT Invalid Security State. -/
def Dev.fmCommand (d : Dev) (run : Dev → Dev) : Dev :=
  let early := d.mode == .cold || d.mode == .fill || d.mode == .boot
  if early || d.mb.state != .running then d
  else if d.mode == .halt || d.halted then d.emit (.fmapi rcMediaDisabled [])
  else if d.mode == .maint && d.flag Fld.glbModeSts_recovery then d.emit (.fmapi rcSecurity [])
  else run d

/-- A command of the fabric manager that changes state: refused too where MCTP is limited (R468). -/
def Dev.fmChange (d : Dev) (run : Dev → Dev) : Dev :=
  d.fmCommand fun d => if d.flag Fld.glbSecCtl_mctpRo then d.emit (.fmapi rcSecurity []) else run d

/-- The DPA block of a dynamic-capacity extent. -/
def Dev.dcBlock (d : Dev) (t : TenantId) (e : DcExtent) : Nat := e.entry - d.extBase t

/-- The words of free blocks of a region's medium, in the order in which they are taken; `mask` the members allowed. -/
def Dev.regionWords (d : Dev) (r : DcRegion) (mask : Nat) : List Word :=
  match r.medium with
  | 1 => d.nearWords
  | 2 => d.farWords mask
  | 3 => if (d.pool r.pool).used then d.poolWords r.pool else []
  | _ => []

/-- The table entries of a region that hold no extent, in ascending order. -/
def Dev.freeRegionEntries (d : Dev) (t : TenantId) (region : Nat) : List Nat :=
  let first := d.extBase t + d.regionStart t region
  ((List.range (vget (⟨0, 0, 0⟩ : DcRegion) (d.tenant t).regions region).len).map (first + ·)).filter fun e => d.extAt e == 0

/-- Offers blocks to a tenant's host in a region: PEND = 1 and V = 0 in the entries, and the Add Capacity event (R89 step 1). -/
def Dev.offer (d : Dev) (t : TenantId) (region tag : Nat) (entries : List Nat) (words : List Word) : Dev :=
  let pairs := entries.zip words
  let d := pairs.foldl (fun d (x : Nat × Word) =>
    d.setExt x.1 (mkExt false (extC x.2) true (extMember x.2) (extFar x.2) (extBlock x.2))) d
  let base := d.extBase t
  let d := d.modTenant t fun s => { s with dc := s.dc ++ pairs.map fun (x : Nat × Word) => (⟨x.1, region, tag, false, none⟩ : DcExtent) }
  d.emit (.dcEvent (d.tntPort t) (d.tntLd t) 0 (pairs.map fun (x : Nat × Word) => x.1 - base))

/-- INITIATE_DYNAMIC_CAPACITY_ADD (R89). -/
def execInitiateDynamicCapacityAdd (t : TenantId) (region : Fin 8) (count tag : Nat) (s : State) :
    Host.Outcome State Fault Refusal :=
  s.on fun d => d.fmChange fun d =>
    let r := vget (⟨0, 0, 0⟩ : DcRegion) (d.tenant t).regions region.val
    if d.tntState t ≠ 1 ∨ r.medium = 0 ∨ count = 0 then d.emit (.fmapi rcInvalidInput [])
    else if d.stagedTenant t then d.emit (.fmapi rcBusy [])
    else
      let entries := (d.freeRegionEntries t region.val).take count
      let words := (d.regionWords r (d.tenant t).members).take count
      if entries.length < count ∨ words.length < count then d.emit (.fmapi rcResources [])
      else (d.offer t region.val tag entries words).emit (.fmapi rcSuccess [])

/-- Sets the answer that waits for the next boundary in the extents that `pick` names. -/
def Dev.answerDc (d : Dev) (t : TenantId) (pick : DcExtent → Option Bool) : Dev :=
  let set := fun (e : DcExtent) => match pick e with | some a => { e with answer := some a } | none => e
  d.modTenant t fun s => { s with dc := s.dc.map set }

/-- The interface that a port's own mailbox is. -/
def portIface : PortId → Iface
  | .a => .portA
  | .b => .portB

/-- The body of Add Dynamic Capacity Response: every offered extent is accepted or, where the response does not name it, declined
(R89 does not say; DESIGN CHOICE, log entry 89); a block that is not offered makes the list invalid. -/
def bodyAddResponse (port : PortId) (ld : Nat) (accepted : List Nat) (d : Dev) : Dev :=
  let i := portIface port
  match d.tenantOf port ld with
  | none => d.complete i 0x4802 rcInvalidInput []
  | some t =>
    let offered := (d.tenant t).dc.filter fun (e : DcExtent) => !e.accepted && e.answer.isNone
    if accepted.all fun b => offered.any fun (e : DcExtent) => d.dcBlock t e == b then
      let base := d.extBase t
      (d.answerDc t (fun (e : DcExtent) =>
        if !e.accepted && e.answer.isNone then some (accepted.contains (e.entry - base)) else none)).complete i
        0x4802 rcSuccess []
    else d.complete i 0x4802 rcExtents []

/-- ADD_DYNAMIC_CAPACITY_RESPONSE (R89 steps 2 and 3): the answers take effect at the next boundary. -/
def execAddDynamicCapacityResponse (port : PortId) (ld : Nat) (accepted : List Nat) (s : State) :
    Host.Outcome State Fault Refusal :=
  s.on fun d => d.mailbox (portIface port) (.addDynamicCapacityResponse port ld accepted) 0x4802 (bodyAddResponse port ld accepted)

/-- The body of Release Dynamic Capacity. -/
def bodyReleaseDc (port : PortId) (ld : Nat) (blocks : List Nat) (d : Dev) : Dev :=
  let i := portIface port
  match d.tenantOf port ld with
  | none => d.complete i 0x4803 rcInvalidInput []
  | some t =>
    let held := (d.tenant t).dc.filter fun (e : DcExtent) => e.accepted
    if blocks.all fun b => held.any fun (e : DcExtent) => d.dcBlock t e == b then
      let base := d.extBase t
      (d.answerDc t fun e => if e.accepted && blocks.contains (e.entry - base) then some false else none).complete i 0x4803 rcSuccess []
    else d.complete i 0x4803 rcExtents []

/-- RELEASE_DYNAMIC_CAPACITY (R90): the entries become invalid at the next boundary. -/
def execReleaseDynamicCapacity (port : PortId) (ld : Nat) (blocks : List Nat) (s : State) :
    Host.Outcome State Fault Refusal :=
  s.on fun d => d.mailbox (portIface port) (.releaseDynamicCapacity port ld blocks) 0x4803 (bodyReleaseDc port ld blocks)

/-- The directory walk of a released extent (R281): the tenant's sharer bit leaves the entries of its lines. -/
def Dev.walkBlock (d : Dev) (t : TenantId) (w : Word) : Dev :=
  match d.sharerOf (d.tntPort t) (d.tntLd t) with
  | none => d
  | some sh =>
    let first := lineKey (maOf w 0)
    let mine := fun (i : Nat) => let k := d.dirKey i; decide (first ≤ k) && decide (k < first + 2 ^ 22)
    let strip := fun (x : Nat × DirEntry) =>
      if mine x.1 then (x.1, { x.2 with sharers := x.2.sharers &&& ~~~(BitVec.ofNat 16 (2 ^ sh)) }) else x
    let left := (d.home.dir.map strip).filter fun (x : Nat × DirEntry) => x.2.sharers != 0 || x.2.lock
    { d with home := { d.home with dir := left } }

/-- An extent goes (R90): its entry is cleared, its records leave the poison list, its media block waits for its sanitise. An
offered extent has held no content: it only returns to the free pool. -/
def Dev.dropExtent (d : Dev) (t : TenantId) (e : DcExtent) : Dev :=
  let w := d.extAt e.entry
  let d := if e.accepted then
      let d := (d.walkBlock t w).unlistBlock t (d.dcBlock t e)
      d.queueWipe (mediaBlocks [w])
    else d
  (d.setExt e.entry 0).modTenant t fun s => { s with dc := s.dc.erase e }

/-- What a boundary does for dynamic capacity (R89, R90): accepted extents become valid, declined, withdrawn and released ones
go. -/
def Dev.dcBoundary (d : Dev) : Dev :=
  allTenants.foldl (fun d t =>
    (d.tenant t).dc.foldl (fun d (e : DcExtent) =>
      match e.answer with
      | none => d
      | some true =>
        let w := d.extAt e.entry
        let d := d.setExt e.entry (mkExt true (extC w) false (extMember w) (extFar w) (extBlock w))
        (d.modTenant t fun s => { s with dc := s.dc.map fun (x : DcExtent) =>
          if x == e then { x with accepted := true, answer := none } else x }).floorMoved
      | some false => (d.dropExtent t e).floorMoved) d) d

/-- INITIATE_DYNAMIC_CAPACITY_RELEASE (R342, R89, R90): a request withdraws extents that wait for acceptance and asks the host for
accepted ones; a forced removal clears V at once. -/
def execInitiateDynamicCapacityRelease (t : TenantId) (blocks : List Nat) (forced : Bool) (s : State) :
    Host.Outcome State Fault Refusal :=
  s.on fun d => d.fmChange fun d =>
    let named := (d.tenant t).dc.filter fun (e : DcExtent) => blocks.contains (d.dcBlock t e)
    let known := blocks.all fun b => named.any fun (e : DcExtent) => d.dcBlock t e == b
    if d.tntState t = 0 ∨ !known then d.emit (.fmapi rcExtents [])
    else
      let (port, ld) := (d.tntPort t, d.tntLd t)
      if forced then
        let d := named.foldl (fun d e => d.dropExtent t e) d
        ((d.emit (.dcEvent port ld 2 blocks)).floorMoved).emit (.fmapi rcSuccess [])
      else
        let ask := (named.filter fun (e : DcExtent) => e.accepted).map (d.dcBlock t)
        let base := d.extBase t
        let d := d.answerDc t fun e => if !e.accepted && blocks.contains (e.entry - base) then some false else none
        (if ask.isEmpty then d else d.emit (.dcEvent port ld 1 ask)).emit (.fmapi rcSuccess [])

/-! ### Regions (R66, R88, R342) -/

/-- Gives a tenant's table range a new length: in place where the entries behind it are free, else in a new range; the old
one returns at the next boundary (R83). None where no range is free. -/
def Dev.resizeRange (d : Dev) (t : TenantId) (len : Nat) : Option Dev :=
  let base := d.extBase t
  let old := d.extLen t
  if len ≤ old then
    let gone := ((List.range old).drop len).map (base + ·)
    some ({ d with extRetire := d.extRetire ++ gone }.setFld (Fld.tntExtLen_len t.val) len)
  else if d.rangeFree (base + old) (len - old) then some (d.setFld (Fld.tntExtLen_len t.val) len)
  else match d.findRange len with
    | none => none
    | some new =>
      let words := d.extWords t
      let d := (List.range old).foldl (fun d k => d.setExt (new + k) (words.getD k 0)) d
      let d := { d with extRetire := d.extRetire ++ (List.range old).map (base + ·) }
      let d := d.modTenant t fun s => { s with dc := s.dc.map fun (e : DcExtent) => { e with entry := e.entry - base + new } }
      some ((d.setFld (Fld.tntExtBase_base t.val) new).setFld (Fld.tntExtLen_len t.val) len)

/-- SET_DC_REGION_CONFIGURATION (R88, R342): the length of a region, in blocks of 256 MiB. A region without a medium, and a
change that would move or cut an extent, are Invalid Input. -/
def execSetDcRegionConfiguration (t : TenantId) (region : Fin 8) (blockBytes len : Nat) (s : State) :
    Host.Outcome State Fault Refusal :=
  s.on fun d => d.fmChange fun d =>
    let r := vget (⟨0, 0, 0⟩ : DcRegion) (d.tenant t).regions region.val
    let holds := (d.tenant t).dc.any fun (e : DcExtent) => decide (region.val ≤ e.region)
    if d.tntState t ≠ 1 ∨ r.medium = 0 ∨ blockBytes ≠ 2 ^ 28 ∨ holds then d.emit (.fmapi rcInvalidInput [])
    else if d.stagedTenant t then d.emit (.fmapi rcBusy [])
    else match d.resizeRange t (d.extLen t - r.len + len) with
      | none => d.emit (.fmapi rcResources [])
      | some d =>
        let d := d.modTenant t fun s => { s with regions := vmod s.regions region.val fun (r : DcRegion) => { r with len := len } }
        (d.cdatChanged (d.tntPort t) (d.tntLd t)).emit (.fmapi rcSuccess [])

/-- GET_DC_REGION_EXTENT_LISTS (R342, R88): region, DPA block and tag of each accepted extent. -/
def execGetDcRegionExtentLists (t : TenantId) (s : State) : Host.Outcome State Fault Refusal :=
  s.on fun d => d.fmCommand fun d =>
    let held := (d.tenant t).dc.filter fun (e : DcExtent) => e.accepted
    d.emit (.fmapi rcSuccess (held.flatMap fun (e : DcExtent) => [e.region, d.dcBlock t e, e.tag]))

/-! ### The other FM-API commands (R342) -/

/-- GET_LD_ALLOCATIONS (R342): the 256 MiB blocks allocated to each LD of a port. -/
def execGetLdAllocations (port : PortId) (s : State) : Host.Outcome State Fault Refusal :=
  s.on fun d => d.fmCommand fun d =>
    d.emit (.fmapi rcSuccess ((List.range 16).map fun ld =>
      match d.tenantOf port ld with | some t => (d.mappedBlocks t).length | none => 0))

/-- SET_LD_ALLOCATIONS (R342): unsupported. -/
def execSetLdAllocations (_port : PortId) (s : State) : Host.Outcome State Fault Refusal :=
  s.on fun d => d.fmCommand fun d => d.emit (.fmapi rcUnsupported [])

/-- GET_QOS_STATUS (R342): the mean DevLoad of the last 64 pours, rounded down. -/
def execGetQosStatus (t : TenantId) (s : State) : Host.Outcome State Fault Refusal :=
  s.on fun d => d.fmCommand fun d =>
    let l := (d.tenant t).devLoads
    d.emit (.fmapi rcSuccess [if l.isEmpty then d.devLoad t else l.sum / l.length])

/-- SET_QOS_CONTROL (R342): accepted only with every control disabled. -/
def execSetQosControl (controls : Byte) (s : State) : Host.Outcome State Fault Refusal :=
  s.on fun d => d.fmCommand fun d => d.emit (.fmapi (if controls = 0 then rcSuccess else rcUnsupported) [])

/-- SET_QOS_ALLOCATED_BW (R342): unsupported. -/
def execSetQosAllocatedBw (_port : PortId) (s : State) : Host.Outcome State Fault Refusal :=
  s.on fun d => d.fmCommand fun d => d.emit (.fmapi rcUnsupported [])

/-! ### CDAT (R340, R341) -/

/-- The most hops away that a block of a DPA range lies. -/
def Dev.hopsOf (d : Dev) (t : TenantId) (first len : Nat) : Nat :=
  ((List.range len).map fun k =>
    let w := d.extAt (d.extBase t + first + k)
    if extV w then extMember w - d.chainId else 0).foldl max 0

/-- The EFI memory type that every DSEMTS gives, as CDAT codes it: conventional, specific-purpose. -/
def efiSpecific : Nat := 1

/-- One partition's entries: of its DSMAS the handle, first block and length in blocks; its DSEMTS; of its four DSLBIS the read and write
latency in ns, and the read and write bandwidth in 100 MB/s. `medium` is 1 near, 2 far, 3 far compressed. -/
def Dev.cdatEntry (d : Dev) (t : TenantId) (handle first len medium : Nat) : List (List Nat) :=
  if len = 0 then []
  else
    let h := d.hopsOf t first len
    let b := d.floorPort (d.tntPort t)
    let b := if medium = 3 then min b 640 else b
    let b := if h = 0 then b else min b d.floorRelay
    let rd := if medium = 1 then 54 else if medium = 2 then 96 else 372
    let wr := if medium = 1 then 48 else 58
    [[handle, first, len, efiSpecific, rd + 38 * h, wr + 38 * h, b, b]]

/-- The CDAT of a tenant's LD. -/
def Dev.cdat (d : Dev) (t : TenantId) : List (List Nat) :=
  let near := d.fld (Fld.tntPart_nearBlk t.val)
  let st := d.fld (Fld.tntPart_staticBlk t.val)
  let comp := d.flag (Fld.tntPart_staticC t.val)
  d.cdatEntry t 0 0 near 1 ++ d.cdatEntry t 1 near st (if comp then 3 else 2) ++
    (List.range 8).flatMap fun r =>
      let g := vget (⟨0, 0, 0⟩ : DcRegion) (d.tenant t).regions r
      d.cdatEntry t (2 + r) (d.regionStart t r) g.len g.medium

/-- The CDATs that are due are rebuilt, each with its Sequence field one higher (R341). -/
def Dev.cdatBoundary (d : Dev) : Dev :=
  [PortId.a, .b].foldl (fun d p => (List.range 16).foldl (fun d ld =>
    if (d.ldOf p ld).cdatDue then
      let table := match d.tenantOf p ld with | some t => d.cdat t | none => []
      d.modLd p ld fun l => { l with cdatDue := false, cdat := table, cdatSeq := (l.cdatSeq + 1) % 2 ^ 32 }
    else d) d) d

/-- CXL_TABLE_ACCESS (R340): the CDAT of an LD with its Sequence field. An unbound LD answers Unsupported Request (R336). -/
def execCxlTableAccess (port : PortId) (ld : Nat) (s : State) : Host.Outcome State Fault Refusal :=
  s.on fun d =>
    if !(d.hostPort port && d.linkUp port) then d
    else match d.tenantOf port ld with
      | some _ => d.emit (.doeTable port ld (d.ldOf port ld).cdatSeq (d.ldOf port ld).cdat)
      | none => d.emit (.unsupported port ld 0)

end Sys2Proof.Machine
end

