-- ==== Sys2Proof/Machine/Spdm.lean ====
section
/-! DEFINITION. Sys2Proof/Machine/Spdm.lean: the SPDM responder, its measurements, the composite identity and the signing engine
(R459 to R464). Response and error codes are those of the SPDM standard (log entry 18); the two signature algorithms are opaque
functions of Config (log entry 66). -/

namespace Sys2Proof.Machine

/-! ### The composite identity (R460) -/

/-- The bytes of a number, most significant first. -/
def beBytes (n v : Nat) : Payload := (leBytes n v).reverse

/-- The composite public key, 432 B: RSA modulus, big-endian, then the SLH-DSA public key. -/
def compositeKey : Payload := beBytes 384 Config.rsaModulus.toNat ++ leBytes 48 Config.slhPublic.toNat

/-- The composite signature of a message, 36,048 B: RSASSA-PSS, then SLH-DSA, both of the same message. -/
def compositeSign (msg : Payload) : Payload :=
  beBytes 384 (Config.rsaPssSign msg).toNat ++ leBytes 35664 (Config.slhSign msg).toNat

/-- A composite signature is valid when both parts verify. -/
def compositeValid (key msg sig : Payload) : Bool :=
  Config.rsaPssVerify (key.take 384) msg (sig.take 384) && Config.slhVerify (key.drop 384) msg (sig.drop 384)

/-- The number of a transport. -/
def transportIdx : Transport → Nat
  | .doeA => 0
  | .doeB => 1
  | .mctp => 2

/-- A transport's connection. -/
def Dev.conn (d : Dev) (tr : Transport) : SpdmConn := vget ⟨false, false⟩ d.spdm (transportIdx tr)

/-- Changes a transport's connection. -/
def Dev.modConn (d : Dev) (tr : Transport) (f : SpdmConn → SpdmConn) : Dev := { d with spdm := vmod d.spdm (transportIdx tr) f }

/-- Is a transport served (R462, R464): from TRAIN on, HALT included, over DOE on a CXL-host port with its link up, or over
MCTP? -/
def Dev.spdmOpen (d : Dev) (tr : Transport) : Bool :=
  let port := fun (p : PortId) => d.hostPort p && 2 ≤ d.fld (Fld.prtLinkSts_state (portIdx p)) && !d.isDown p
  let reached := match tr with | .doeA => port .a | .doeB => port .b | .mctp => d.pwr.vaux
  d.mode != .cold && d.mode != .fill && d.mode != .boot && d.mb.state == .running && reached

/-- An ERROR response: 0x01 InvalidRequest, 0x04 UnexpectedRequest, 0x07 UnsupportedRequest, 0x42 ResponseNotReady. -/
def Dev.spdmError (d : Dev) (tr : Transport) (l : List Nat) : Dev := d.emit (.spdm tr 0x7F l)

/-- A request for a signature: refused without the keys (R453, R454), else signed in arrival order; one that finds the engine
busy is told so with RDTExponent 14 (R464). -/
def Dev.askSignature (d : Dev) (tr : Transport) (code : Nat) : Dev :=
  if !d.sec.signKeys then d.spdmError tr [7]
  else
    let d' := { d with signQ := d.signQ ++ [(tr, code)] }
    if d.signQ.isEmpty then d' else d'.spdmError tr [0x42, 14]

/-- A measurement block (R463). -/
def Dev.measurement (d : Dev) (index : Nat) : List Nat :=
  let rec_ := d.mb.recovery
  match index with
  | 1 => [Config.romDigest.toNat]
  | 2 => [if rec_ then 0 else Config.sha384 (d.slotBytes d.mb.slot)]
  | 3 => [if rec_ then 0 else byteAt (d.slotBytes d.mb.slot) 15, d.fuses.svn, d.lifecycle.code, d.mb.slot.val, bitOf rec_]
  | 4 => [match d.sec.bootCopy with
      | some c => (Config.copyDigest ([c.gen, c.portMode, c.near] ++ (c.regs.flatMap fun (x : Nat × Word) => [x.1, x.2.toNat]) ++
          c.cremaRepairs.map (·.toNat) ++ c.farRepairs.map (·.toNat))).toNat
      | none => 0]
  | 5 => [if rec_ then 0 else Config.sha384 (configBytes d.reg d.noc.routes d.noc.slots)]
  | 6 => [d.fld Fld.glbPortMode_mode, d.chainId, d.fld Fld.rlyChainSts_count, d.fld Fld.rlyChainSts_epoch]
  | _ => []

/-- The record of a measurement request: index 0 asks for the number of blocks, 0xFF for all of them. -/
def Dev.measurements (d : Dev) (index : Nat) : List Nat :=
  if index = 0 then [6]
  else if index = 0xFF then (List.range 6).flatMap fun k => d.measurement (k + 1)
  else d.measurement index

/-- GET_MEASUREMENTS (R463). -/
def execGetMeasurements (tr : Transport) (index : Byte) (signed : Bool) (s : State) : Host.Outcome State Fault Refusal :=
  s.on fun d =>
    let n := index.toNat
    if !d.spdmOpen tr then d
    else if !(d.conn tr).negotiated then d.spdmError tr [4]
    else if 6 < n ∧ n ≠ 0xFF then d.spdmError tr [1]
    else if signed then d.askSignature tr (0x60 * 256 + n)
    else d.emit (.spdm tr 0x60 (d.measurements n))

/-- GET_CSR (R461, R454): only in PROVISIONED, signed. -/
def execGetCsr (tr : Transport) (s : State) : Host.Outcome State Fault Refusal :=
  s.on fun d =>
    if !d.spdmOpen tr then d
    else if d.lifecycle ≠ .provisioned then d.spdmError tr [7]
    else if !(d.conn tr).negotiated then d.spdmError tr [4]
    else d.askSignature tr (0x6D * 256)

/-- Does every certificate verify: the first under the Ifenathen root, each other one under the key of the one before (R461)? -/
def chainVerifies (key : Payload) : List Cert → Bool
  | [] => true
  | c :: l => compositeValid key c.body c.signature && chainVerifies c.key l

/-- Is a chain one that the device stores (R461): its leaf holds the device's composite key, and every certificate verifies? -/
def chainAccepted (leaf : Cert) (issuers : List Cert) : Bool :=
  leaf.key == compositeKey && chainVerifies Config.vendorRoot (issuers ++ [leaf])

/-- SET_CERTIFICATE (R461): the chain is stored where its leaf holds the device's key and every certificate verifies. -/
def execSetCertificate (tr : Transport) (leaf : Cert) (issuers : List Cert) (s : State) : Host.Outcome State Fault Refusal :=
  s.on fun d =>
    if !d.spdmOpen tr then d
    else if d.lifecycle ≠ .provisioned then d.spdmError tr [7]
    else if !(d.conn tr).negotiated then d.spdmError tr [4]
    else if chainAccepted leaf issuers then
      (({ d with can := { d.can with cert := true } }).setFlag Fld.glbLcSts_certOk true).emit (.spdm tr 0x6E [])
    else d.spdmError tr [1]

/-- NEGOTIATE_ALGORITHMS (R462): fails without the composite algorithm. A new negotiation starts the connection anew. -/
def execNegotiateAlgorithms (tr : Transport) (composite : Bool) (s : State) : Host.Outcome State Fault Refusal :=
  s.on fun d =>
    if !d.spdmOpen tr then d
    else
      let d := d.modConn tr fun _ => ⟨composite, false⟩
      if composite then d.emit (.spdm tr 0x63 [1]) else d.spdmError tr [1]

/-- KEY_EXCHANGE (R462): the session opens with the signed response. -/
def execKeyExchange (tr : Transport) (secp384r1Aes256Gcm : Bool) (s : State) : Host.Outcome State Fault Refusal :=
  s.on fun d =>
    if !d.spdmOpen tr then d
    else if !(d.conn tr).negotiated then d.spdmError tr [4]
    else if !secp384r1Aes256Gcm then d.spdmError tr [1]
    else d.askSignature tr (0x64 * 256)

/-- CHALLENGE (R462). -/
def execChallenge (tr : Transport) (s : State) : Host.Outcome State Fault Refusal :=
  s.on fun d =>
    if !d.spdmOpen tr then d
    else if !(d.conn tr).negotiated then d.spdmError tr [4]
    else d.askSignature tr (0x03 * 256)

/-- What a signed response carries beside its signature: the measurements, read when they are signed; in a certificate request the
composite public key (R461). -/
def Dev.signedData (d : Dev) (code : Nat) : List Nat :=
  if code / 256 = 0x60 then d.measurements (code % 256)
  else if code / 256 = 0x6D then compositeKey.map (·.toNat)
  else []

/-- SIGNATURE_COMPLETE (R460, R464): the oldest signed response leaves, with the composite signature of its message. -/
def execSignatureComplete (s : State) : Host.Outcome State Fault Refusal :=
  s.on fun d =>
    match d.signQ with
    | (tr, code) :: rest =>
      let d := { d with signQ := rest }
      let kind := code / 256
      let d := if kind = 0x64 then d.modConn tr fun c => { c with session := true } else d
      let data := d.signedData code
      d.emit (.signed tr kind data (compositeSign (Config.transcript (transportIdx tr) kind data)))
    | [] => d

end Sys2Proof.Machine
end

