-- ==== Sys2Proof/Machine/Mem.lean ====
section
/-! DEFINITION. Sys2Proof/Machine/Mem.lean: the requests and answers that hosts send (R190, R268, R273, R274, R282, R339), and what
the home agent, the tag decision and the returning lines do on their own (R109, R182, R183, R276 to R279, R283, R293). -/

namespace Sys2Proof.Machine

/-! ### Host requests (R10, R11, R268, R339) -/

/-- A MemWr supplies every byte; a read none. -/
def allBytes : BitVec 64 := BitVec.allOnes 64

/-- MEMRD (R268). -/
def execMemrd (r : HostReq) (md : Meta) (s : State) : Host.Outcome State Fault Refusal :=
  s.on fun d => d.arrive r .rd md 0 0 none

/-- MEMRDDATA (R268): a read that grants Shared. -/
def execMemrddata (r : HostReq) (s : State) : Host.Outcome State Fault Refusal :=
  s.on fun d => d.arrive r .rdData .shared 0 0 none

/-- MEMINV (R268). -/
def execMeminv (r : HostReq) (md : Meta) (s : State) : Host.Outcome State Fault Refusal :=
  s.on fun d => d.arrive r .inv md 0 0 none

/-- MEMWR (R268). -/
def execMemwr (r : HostReq) (md : Meta) (data : Line) (s : State) : Host.Outcome State Fault Refusal :=
  s.on fun d => d.arrive r .wr md data allBytes none

/-- MEMWR_PARTIAL (R190). -/
def execMemwrPartial (r : HostReq) (md : Meta) (data : Line) (mask : BitVec 64) (s : State) : Host.Outcome State Fault Refusal :=
  s.on fun d => d.arrive r .wrPtl md data mask none

/-- MEMCLNEVCT (R268). -/
def execMemclnevct (r : HostReq) (s : State) : Host.Outcome State Fault Refusal :=
  s.on fun d => d.arrive r .clnEvct .invalid 0 0 none

/-- UIO_READ (R339). -/
def execUioRead (r : HostReq) (s : State) : Host.Outcome State Fault Refusal :=
  s.on fun d => d.arrive r .uioRd .invalid 0 0 none

/-- UIO_WRITE (R339): full, or masked where a byte is left out. -/
def execUioWrite (r : HostReq) (data : Line) (mask : BitVec 64) (s : State) : Host.Outcome State Fault Refusal :=
  s.on fun d => d.arrive r (if mask = allBytes then .uioWr else .uioWrPtl) .invalid data mask none

/-- Operand sizes of R282, naturally aligned. -/
def atomicOk (a : AtomicArgs) (addr : Nat) : Bool :=
  (a.bytes == 4 || a.bytes == 8 || (a.bytes == 16 && a.kind == .cas)) && addr % (max 1 a.bytes) == 0

/-- ATOMICOP (R282, R339): one that reaches a BAR, or has operands that R282 does not list, completes with Unsupported Request. -/
def execAtomicop (r : HostReq) (a : AtomicArgs) (toBar : Bool) (s : State) : Host.Outcome State Fault Refusal :=
  s.on fun d =>
    if !d.portOpen r.port then d
    else if toBar || !atomicOk a r.hpa then d.emit (.unsupported r.port r.ld r.tag)
    else d.arrive r .atomic .invalid 0 0 (some a)

/-! ### Answers to snoops (R273, R274, R285) -/

/-- A message about a member's line on its way to the member. -/
def Dev.snoopMsg (d : Dev) (ma tag : Nat) : RelayMsg :=
  { d.mgmtMsg (maMember ma) 0 with tag := tag % 65536, db := true, line := ma / 64 }

/-- A host's BIRsp: for a line of this device it completes its snoop, for a member's it travels on; one whose HPA nothing maps is
late. -/
def Dev.hostBirsp (d : Dev) (port : PortId) (hpa : Nat) (shared : Bool) : Dev :=
  if !d.linkUp port then d
  else match d.maOfHpa port hpa with
    | none => d.bump Fld.cohSts_late 1
    | some ma =>
      if maMember ma = d.chainId then d.birsp (lineKey ma) shared
      else d.sendDown (d.snoopMsg ma 0) (if shared then 0x43 else 0x42) []

/-- BIRSPI (R273). -/
def execBirspi (port : PortId) (hpa : Nat) (s : State) : Host.Outcome State Fault Refusal :=
  s.on fun d => d.hostBirsp port hpa false

/-- BIRSPS (R273). -/
def execBirsps (port : PortId) (hpa : Nat) (s : State) : Host.Outcome State Fault Refusal :=
  s.on fun d => d.hostBirsp port hpa true

/-- The request of a sharer's host that stands on a line ahead of the transaction a snoop serves. -/
def Dev.earlierRequest (d : Dev) (s : Snoop) (mine : Txn → Bool) : Option Txn :=
  let ahead := match s.txn with
    | some id => d.txns.takeWhile fun (x : Txn) => x.id != id
    | none => d.txns
  ahead.find? fun x => x.phase.looked && lineKey x.ma == s.line && mine x

/-- A BIConflict (R274): answered at once, or after the completion of a request that came before the snoop's transaction. -/
def Dev.conflict (d : Dev) (k : Nat) (port : PortId) (tag sharer : Nat) (mine : Txn → Bool) : Dev :=
  let now := d.conflictAck port tag sharer
  match d.snoopOf k with
  | some s => match d.earlierRequest s mine with
    | some x => { d with home := { d.home with acksDue := d.home.acksDue ++ [(x.id, port, tag, sharer)] } }
    | none => now
  | none => now

/-- HOST_BICONFLICT (R274). A member's line is the member's to order (R285). -/
def execHostBiconflict (port : PortId) (hpa tag : Nat) (s : State) : Host.Outcome State Fault Refusal :=
  s.on fun d =>
    if !d.linkUp port then d
    else match d.maOfHpa port hpa with
      | none => d.emit (.biConflictAck port tag)
      | some ma =>
        if maMember ma = d.chainId then d.conflict (lineKey ma) port tag 0 fun x => x.port == some port
        else
          let sh := (d.ownerOf ma false).bind fun (t, _) => d.sharerOf (d.tntPort t) (d.tntLd t)
          d.sendDown { d.snoopMsg ma tag with sharer := Fin.ofNat 16 (sh.getD 0) } 0x44 []

/-! ### Regulation (R293, R294) -/

/-- HOLD_RELEASE (R293): requests of a tenant and class that regulation held try again, in arrival order. -/
def execHoldRelease (t : TenantId) (cls : Cls) (s : State) : Host.Outcome State Fault Refusal :=
  s.on fun d =>
    if !d.live then d
    else
      let held := d.txns.filter fun x => x.phase == .regHeld && x.tenant == some t && x.cls == cls
      let d := held.foldl (fun d x => d.reenter x false) d
      let p := d.tntPort t
      let full := decide (512 ≤ d.sharedHeld p)
      d.modPort p fun q => { q with holdFull := q.holdFull && full }

/-! ### Tags and speculation (R108, R109) -/

/-- Does the tag decision confirm the predicted way with the line present? -/
def Dev.confirmed (d : Dev) (x : Txn) : Bool :=
  let p := maPage x.ma
  match d.findWay p x.comp with
  | some w => (d.predOf p).valid && (d.predOf p).way == w && (d.frame (d.setOf p) w).st == 1 && (d.frame (d.setOf p) w).has (maLine x.ma)
  | none => false

/-- TAG_DECISION (R109, R112 to R115). -/
def execTagDecision (txn : Nat) (s : State) : Host.Outcome State Fault Refusal :=
  s.on fun d =>
    match d.txn txn with
    | some x =>
      if d.live && x.phase == .tag then
        let d := if x.spec.isSome && (d.specLate x || !d.confirmed x) then d.squashSpec x else d
        (d.decideTag x).run
      else d
    | none => d

/-- SPECULATIVE_HOLD_EXPIRY (R109): HOLD cycles have passed, and the row is precharged before the decision. -/
def execSpeculativeHoldExpiry (txn : Nat) (s : State) : Host.Outcome State Fault Refusal :=
  s.on fun d =>
    match d.txn txn with
    | some x => match x.spec with
      | some t => if d.live && x.phase == .tag && decide (d.fld Fld.crmSpecCtl_hold ≤ t.cyclesTo d.stamp) then d.squashSpec x else d
      | none => d
    | none => d

/-! ### The home agent on its own (R276, R277, R279, R283) -/

/-- RETRY_QUEUE_RETRY (R279): requests of a slice's retry queue whose set has an eligible way try again, in arrival order. -/
def execRetryQueueRetry (slice : Fin 16) (s : State) : Host.Outcome State Fault Refusal :=
  s.on fun d =>
    if !d.live then d
    else
      let waiting := d.txns.filter fun x => x.phase == .retry && sliceOf (lineKey x.ma) == slice.val
      waiting.foldl (fun d x =>
        let k := lineKey x.ma
        if (d.dirVictim k).isSome || (d.dirFind k).isSome then (d.park x.id .ordered).run else d) d

/-- BISNP_TIMEOUT (R277): at the first boundary at least TIMEOUT pours behind the snoop's issue. -/
def execBisnpTimeout (line : Nat) (s : State) : Host.Outcome State Fault Refusal :=
  s.on fun d =>
    match d.snoopOf line with
    | some sn => match sn.sent with
      | some t => if d.live && decide (t.pour + d.fld Fld.cohCtl_timeout ≤ d.now) then d.snoopTimeout sn else d
      | none => d
    | none => d

/-- LEASE_IDLE_EXPIRY (R283): no atomic has used the line for IDLE × 8 cycles. -/
def execLeaseIdleExpiry (line : Nat) (s : State) : Host.Outcome State Fault Refusal :=
  s.on fun d =>
    match d.leaseOf line with
    | some l => if d.live && decide (8 * d.fld Fld.cohAtomCtl_idle ≤ l.lastUse.cyclesTo d.stamp) then (d.endLease l).run else d
    | none => d

/-- LEASE_MAX_EXPIRY (R283): the lease has lasted MAXP pours. -/
def execLeaseMaxExpiry (line : Nat) (s : State) : Host.Outcome State Fault Refusal :=
  s.on fun d =>
    match d.leaseOf line with
    | some l => if d.live && decide (l.since + d.fld Fld.cohAtomCtl_maxp ≤ d.now) then (d.endLease l).run else d
    | none => d

/-- HOLD of a line clears, unless a later grant holds it; a snoop that it deferred is sent (R276). -/
def Dev.clearHold (d : Dev) (k : Nat) : Dev :=
  let now := d.now
  let d := { d with home := { d.home with holds := d.home.holds.filter fun (h : Nat × Nat) => h.1 != k || now < h.2 + 2 } }
  if d.held k then d else
  let d := match d.dirFind k with | some i => d.setDir i { d.dirAt i with hold := false } | none => d
  match d.snoopOf k with
  | some sn =>
    if sn.sent.isSome then d
    else
      let now := some d.stamp
      let sent := fun (x : Snoop) => if x.line == k then { x with sent := now } else x
      ({ d with home := { d.home with snoops := d.home.snoops.map sent } }).sendSnoop k sn.sharer sn.inv (d.maComp (d.maOfKey k))
  | none => d

/-- HOLD_EXPIRY (R276): the second pour boundary after the grant. -/
def Dev.edgeHoldExpiry (line : Nat) (d : Dev) : Dev :=
    let due := d.home.holds.any fun (h : Nat × Nat) => h.1 == line && decide (h.2 + 2 ≤ d.now)
    if d.live && due then d.clearHold line else d

/-! ### Lines that return (R148, R182, R183, R290) -/

/-- The scheduler in whose queue the request of a transaction waits. -/
def Dev.schedWith (d : Dev) (id : Nat) : Option Nat :=
  (d.sched.find? fun (e : Nat × Sched) => e.2.reqs.any fun r => r.txn == some id).map (·.1)

/-- A line can come back once its request has issued: what its scheduler ranks before it issues first, then it does. None while it is not
eligible. -/
def Dev.reach (d : Dev) (id : Nat) : Option Dev :=
  match d.schedWith id with
  | none => some d
  | some s => let d := d.issueFor s id; if d.waitsAt s id then none else some d

/-- FAR_LINE_READ_RETURN (R182). -/
def execFarLineReadReturn (txn : Nat) (flips : List (BitVec 80)) (chk : FarCheck) (s : State) :
    Host.Outcome State Fault Refusal :=
  s.on fun d =>
    match d.txn txn with
    | some x =>
      if d.live && x.phase == .far then
        match d.reach txn with
        | some d => d.farReturn x flips chk
        | none => d
      else d
    | none => d

/-- CREMA_LINE_READ_RETURN (R183). -/
def execCremaLineReadReturn (txn : Nat) (flips : List (BitVec 80)) (s : State) : Host.Outcome State Fault Refusal :=
  s.on fun d =>
    match d.txn txn with
    | some x =>
      if d.live && x.phase == .crema then
        match d.reach txn with
        | some d => d.cremaReturn x flips
        | none => d
      else d
    | none => d

end Sys2Proof.Machine
end

