-- ==== Sys2Proof/Machine/Errors.lean ====
section
/-! DEFINITION. Sys2Proof/Machine/Errors.lean: uncorrectable array words, patrol scrub, and failing crypto pipelines (R179 to
R181, R192 to R194, R232, R233, R280). -/

namespace Sys2Proof.Machine

/-! ### On-die arrays (R180, R181, R186) -/

/-- A word of the metadata cache is uncorrectable: its line leaves the cache, and a dirty one is lost as R221 says of its kind. -/
def Dev.cacheWordLost (d : Dev) (word : Nat) : Dev :=
  let d := d.wordWrite .metadataCache word
  let hit := d.cry.cache.findSome? fun (e : Nat × List (MetaRef × Bool)) =>
    (e.2.find? fun x => (d.metaPlaces x.1).any fun p => farKey p.1 p.2 == word / 8).map fun x => (e.1, x)
  match hit with
  | none => d
  | some (k, r, dirty) =>
    let d := { d with cry := { d.cry with cache := Sparse.put [] d.cry.cache k ((Sparse.get [] d.cry.cache k).filter (·.1 != r)) } }
    if !dirty then d
    else match r with
      | .ctr c pg => d.metaLost c (pg * 64) .counterUe
      | .mac c i => d.metaLost c (i * 16) .macLineUe
      | .node c spare level index => d.subtreeLost c (word / 8 % 2 ^ 34) spare level index

/-- MERGE_BUFFER_RETIRE (R180, R181): the oldest entry of an array's merge buffer retires. Where it finds its word uncorrectable, the merged
word is stored poisoned and recorded; whoever reads it meets that (R186, R280), and the metadata cache does at once (log entry 81). -/
def execMergeBufferRetire (arr : Array64K) (uncorrectable : Bool) (s : State) : Host.Outcome State Fault Refusal :=
  s.on fun d =>
    if !d.live then d
    else match Sparse.get [] d.merge (arrayIdx arr) with
      | [] => d
      | e :: rest =>
        let d := { d with merge := Sparse.put [] d.merge (arrayIdx arr) rest }
        if !uncorrectable then d
        else
          let d := { d with arrayPoison := d.arrayPoison.add (arrayWord (arrayIdx arr) e.word) }
          let d := d.countUe.raise { num := 0x143, loc := arrayLoc d.chainId (arrayIdx arr) e.word, detail := [word1 (arrayIdx arr)] }
          if arr = .metadataCache then d.cacheWordLost e.word else d

/-! ### Patrol scrub (R192 to R194) -/

/-- Does patrol scrub run in the present mode (R192, R55, R60)? -/
def Dev.scrubs (d : Dev) : Bool :=
  d.live && (d.mode == .await || d.mode == .serve || d.mode == .degraded || d.mode == .drowse ||
    (d.mode == .drain && d.due.drainStep < 4))

/-- Does a far line hold something written in this start (R193)? A tree node does once a page under it does; training lines and unused
ones never do. -/
def Dev.scrubbed (d : Dev) (c cli : Nat) : Bool :=
  match d.metaAt c cli with
  | some (.mac _ i) => d.mem.written.has (pageKey c (i / 4))
  | some (.ctr _ pg) => d.mem.written.has (pageKey c pg)
  | some (.node o spare level index) =>
    let (first, n) := d.pagesUnder o spare level index
    (Sparse.keys d.mem.written).any fun k => decide (pageKey o first ≤ k ∧ k < pageKey o first + n)
  | none => d.mem.written.has (pageKey c (cli / 64)) && decide (cli / 64 < d.storedPages c)

/-- Is a copy of metadata under an error pattern of no use: uncorrectable, or with the poison pattern, which no metadata holds (R221)? -/
def unreadable (c : Code) (flips : List (BitVec 80)) : Bool :=
  match c.decodeLine false flips with | .good _ _ => false | _ => true

/-- The scrub of one far line under an error pattern; `other` is that of a tree node's other copy. -/
def Dev.scrubFar (d : Dev) (c cli : Nat) (flips other : List (BitVec 80)) : Dev :=
  if !d.scrubbed c cli then d
  else
    let d := d.rewriteFar c cli
    let isMeta := (d.metaAt c cli).isSome
    let lost := fun (d : Dev) => (d.modFch c fun f => { f with scrubUe := f.scrubUe + 1 }).lineLost c cli (unreadable .dt79 other)
    match Code.dt79.decodeLine (d.mem.farPoison.has (farKey c cli)) flips with
    | .poisoned => if isMeta then lost d else d
    | .bad => lost d
    | .good corrected _ =>
      let (hit, d) := if isMeta then (false, d) else d.checkState c cli flips
      if corrected || hit then
        ((d.correctedOn true c (d.farLocator c cli)).rewriteFar c cli).modFch c fun f => { f with scrubCe := f.scrubCe + 1 }
      else d

/-- The end of a scrub pass (R194): EVT_SCRUB_PASS with the tier and the counts. -/
def Dev.scrubPass (d : Dev) (far : Bool) (chid : BitVec 16) (ce ue : Nat) : Dev :=
  d.raise { num := 0x145, chid := some chid, detail := [word1 (bitOf far), word1 ce, word1 ue] }

/-- A far channel's scrub goes on to the next line; behind the last one a pass ends. -/
def Dev.advanceFar (d : Dev) (c : Nat) : Dev :=
  let f := d.fch c
  if f.scrubPos + 1 < d.chLines c then d.modFch c fun f => { f with scrubPos := f.scrubPos + 1 }
  else
    let d := d.scrubPass true (d.farChid c) f.scrubCe f.scrubUe
    let d := d.modFch c fun f => { f with scrubPos := 0, scrubCe := 0, scrubUe := 0, passes := f.passes + 1 }
    let slowest := ((interleave d.ileave).map fun k => (d.fch k).passes).foldl min (d.fch c).passes
    d.setFld Fld.rasScrubSts_farPasses (satN 16 slowest)

/-- Does a Crema line hold content: a near line, a present line of a cache frame, or a line of the metadata reserve? -/
def Dev.cremaHeld (d : Dev) (g l : Nat) : Bool :=
  let near := 262144 * d.near
  if g < near ∨ d.metaFrame ≤ g then true
  else let i := g - near; (d.frame (i / 16) (i % 16)).has l

/-- The scrub of one Crema line under an error pattern (R99, R183, R192, R194); `other` is that of the other copy of a line of the
metadata reserve. -/
def Dev.scrubCrema (d : Dev) (g l : Nat) (flips other : List (BitVec 80)) : Dev :=
  if d.unbacked g || !d.cremaHeld g l || d.lostPending g l then d
  else
    let d := d.rewriteCrema g l
    let lost := fun (d : Dev) =>
      ({ d with crm := { d.crm with scrubUe := d.crm.scrubUe + 1 } }).cremaLineLost g l (unreadable .d78 other)
    match Code.d78.decodeLine (d.mem.cremaPoison.has (cremaKey g l)) flips with
    | .poisoned => if d.metaFrame ≤ g then lost d else d
    | .bad => lost d
    | .good corrected residue =>
      if lineCheckFails residue flips then lost d
      else if corrected then
        let d := { d with crm := { d.crm with scrubCe := d.crm.scrubCe + 1 } }
        (d.correctedOn false (d.framePhys g) (d.cremaLoc g l)).rewriteCrema g l
      else d

/-- Crema's scrub goes on to the next line. -/
def Dev.advanceCrema (d : Dev) : Dev :=
  if d.crm.scrubPos + 1 < 64 * d.frameCount then { d with crm := { d.crm with scrubPos := d.crm.scrubPos + 1 } }
  else
    let d := d.scrubPass false (d.chid 0 1 0) d.crm.scrubCe d.crm.scrubUe
    ({ d with crm := { d.crm with scrubPos := 0, scrubCe := 0, scrubUe := 0 } }).bump Fld.rasScrubSts_crmPasses 1

/-- PATROL_SCRUB_READ (R192 to R194): the next line of a far channel, FAR_INT pours behind the one before it, or of Crema, CRM_INT pours
behind. A channel that sleeps is skipped (R54). -/
def execPatrolScrubRead (ch : Option FarCh) (flips : List (BitVec 80)) (s : State)
    (other : List (BitVec 80) := []) : Host.Outcome State Fault Refusal :=
  s.on fun d =>
    let now := d.now
    if !d.scrubs then d
    else match ch with
      | some c =>
        if d.flag Fld.rasScrubCtl_farEn && d.farServes c.val && d.fld (Fld.farChSts_state c.val) != 3 &&
            decide ((d.fch c.val).scrubNext ≤ now) then
          let next := now + d.fld Fld.rasScrubCtl_farInt
          ((d.scrubFar c.val (d.fch c.val).scrubPos flips other).advanceFar c.val).modFch c.val fun f => { f with scrubNext := next }
        else d
      | none =>
        if d.flag Fld.rasScrubCtl_crmEn && decide (d.crm.scrubNext ≤ now) then
          let next := now + d.fld Fld.rasScrubCtl_crmInt
          let d := (d.scrubCrema (d.crm.scrubPos / 64) (d.crm.scrubPos % 64) flips other).advanceCrema
          { d with crm := { d.crm with scrubNext := next } }
        else d

/-! ### Crypto pipelines (R232, R233, R494) -/

/-- CRYPTO_PIPE_PARITY_MISMATCH (R232, R233): a pipeline stops before a faulty result leaves it. A test of the spares ends with the
failure (R494). -/
def execCryptoPipeParityMismatch (xts : Bool) (unit : Fin 64) (s : State) : Host.Outcome State Fault Refusal :=
  s.on fun d =>
    let n := unit.val
    let gone := if xts then d.cry.xtsFailed.has n else d.cry.ctrFailed.has n
    if !d.live || gone || (!xts && 32 ≤ n) then d
    else
      let d := match d.mb.fg with
        | some b => if b.work == Work.test 4 0 then d.abortFg rcAborted else d
        | none => d
      d.pipeFails xts unit

end Sys2Proof.Machine
end

