-- ==== Sys2Proof/Machine/CremaHw.lean ====
section
/-! DEFINITION. Sys2Proof/Machine/CremaHw.lean: what the stack does by itself: refresh (R129 to R131), the loss of a channel
and its rebuild (R122, R123), and temperature (R139 to R141). -/

namespace Sys2Proof.Machine

/-! ### Refresh -/

/-- May a Crema channel be refreshed: it serves, mirrors or stands by (R137)? -/
def Dev.cremaRefreshes (d : Dev) (c : Nat) : Bool := d.live && d.mode != .fill && d.mode != .hibernate && decide (d.crmRole c ≤ 2)

/-- CREMA_REFRESH (R129 to R131): the pseudo-channel's next refresh command, of those that its rate gives this pour (R130). Those that no
command has brought by the pour's last cycle, that cycle issues (log entry 75). -/
def execCremaRefresh (pc : Fin 64) (s : State) : Host.Outcome State Fault Refusal :=
  s.on fun d =>
    if d.cremaRefreshes (pc.val / 2) && decide ((d.slotSet pc.val).refs < d.cremaQuota) then d.cremaRefreshCmd pc.val else d

/-! ### Channel loss -/

/-- CREMA_CHANNEL_LOSS (R122, R124): the boundary after a channel was declared lost (R479). -/
def Dev.edgeCremaChannelLoss (c : CremaCh) (d : Dev) : Dev :=
  if d.live && d.crm.lossDue.contains c then d.loseCrema c.val else d

/-- REBUILD_WALK_END (R123): the boundary after a rebuild walk, the oldest one's; what is left of the walk is done. -/
def Dev.edgeRebuildWalkEnd (d : Dev) : Dev :=
    match d.crm.rebuilds with
    | r :: _ => if d.live then (d.rebuildEnd r).floorMoved.run else d
    | [] => d

/-! ### Temperature (R139 to R141). Readings are quarters of a degree. -/

/-- Is a reading in range, its self-check passed? -/
def readingGood (r : Reading) : Bool := r.selfCheck && decide (-160 ≤ r.quarters) && decide (r.quarters ≤ 600)

/-- The sensors, by number, that fail in this sample. -/
def failingIn (n : Nat) (l : List Reading) : List Nat :=
  rangeWhere n fun i => match l[i]? with | some r => !readingGood r | none => false

/-- The valid readings of a sample, given the sensors that count as failed. -/
def validIn (n : Nat) (failed : NatSet) (l : List Reading) : List Int :=
  ((l.take n).zipIdx.filter fun (e : Reading × Nat) => !failed.has e.2).map fun (e : Reading × Nat) => e.1.quarters

/-- The hottest of some readings. -/
def hottest : List Int → Option Int
  | [] => none
  | x :: xs => match hottest xs with | some y => some (max x y) | none => some x

/-- A °C × 4 field: readings below 0 °C show as 0 (R141). -/
def tempField (t : Option Int) : Nat := match t with | some t => satN 10 t.toNat | none => 0

/-- One group of sensors loses those that fail now; each is recorded once (R141). -/
def Dev.failSensors (d : Dev) (die : Bool) (n : Nat) (l : List Reading) : Dev :=
  (failingIn n l).foldl (fun d i =>
    let known := if die then d.thm.dieFail else d.thm.stackFail
    if known.has i then d
    else
      let d := if die then { d with thm := { d.thm with dieFail := known.add i } }
               else { d with thm := { d.thm with stackFail := known.add i } }
      d.raiseN 0x1C2 []) d

/-- Since when a release condition has held: it starts with the first sample that meets it. -/
def since (now : Nat) (old : Option Nat) (ok : Bool) : Option Nat := if ok then some (old.getD now) else none

/-- TEMPERATURE_SAMPLE (R139 to R141, R42, R59, R493), 16 pours behind the one before it. The two island sensors are the last of the base die's twelve (R34).
Actions begin at the next boundary. -/
def execTemperatureSample (stack die : List Reading) (s : State) : Host.Outcome State Fault Refusal :=
  s.on fun d =>
    if !d.live || decide (d.now < d.thm.nextSample) then d
    else
      let next := d.now + 16
      let d := (d.failSensors false d.dies stack).failSensors true 12 die
      let st := hottest (validIn d.dies d.thm.stackFail stack)
      let di := hottest (validIn 12 d.thm.dieFail die)
      let island := hottest (validIn 12 d.thm.dieFail die |>.drop (10 - (rangeWhere 10 fun i => d.thm.dieFail.has i).length))
      let below := fun (t : Option Int) (lim : Int) => match t with | some x => decide (x < lim) | none => true
      let safe := decide (4 < d.thm.stackFail.keys.length)
      let now := d.now
      let wake := d.thm.hold || (d.mode == .hibernate && d.fld Fld.glbModeSts_drainDest == 4)
      let doubled := (safe || !below st 341) && !d.flag Fld.crmRefCtl_doubled
      let throtS := !below st 368 && !d.flag Fld.crmThermSts_throtStack
      let throtD := !below di 380 && !d.flag Fld.crmThermSts_throtDie
      let trip := !below st 388 || !below di 400
      let enter := BitVec.ofNat 3 (bitOf doubled + 2 * bitOf throtS + 4 * bitOf throtD)
      let thm := { d.thm with
        cool83 := since now d.thm.cool83 (below st 333)
        cool90 := since now d.thm.cool90 (below st 360)
        cool93 := since now d.thm.cool93 (below di 372)
        wakeCool := since now d.thm.wakeCool (wake && below st 368 && below di 380)
        windowOk := below st 341 && below di 380
        enter := enter
        nextSample := next }
      let due := { d.due with thermal := d.due.thermal || trip }
      let d := { d with thm := thm, due := due }
      let d := (d.setFld Fld.crmThermSts_hotStack (tempField st)).setFld Fld.crmThermSts_hotDie (tempField di)
      let d := if safe then d.setFlag Fld.crmThermSts_failsafe true else d
      let all := hottest ((match st with | some x => [x] | none => []) ++ (match di with | some x => [x] | none => []))
      (d.setFld Fld.thmSts_hot (tempField all)).setFld Fld.thmSts_island (tempField island)

/-- What a boundary begins of the thermal actions (R15, R140): doubled refresh and the throttles, each with its event. -/
def Dev.thermalBoundary (d : Dev) : Dev :=
  let e := d.thm.enter
  let d := { d with thm := { d.thm with enter := 0 } }
  let begin := fun (d : Dev) (on : Bool) (f : Fld) => if on then ((d.setFlag f true).raiseN 0x1C0 []).floorMoved else d
  let d := begin d (e.getLsbD 0) Fld.crmRefCtl_doubled
  let d := begin d (e.getLsbD 1) Fld.crmThermSts_throtStack
  let d := begin d (e.getLsbD 2) Fld.crmThermSts_throtDie
  if e.getLsbD 1 || e.getLsbD 2 then d.alert 6 else d

/-- A thermal action ends once its condition has held for so many pours. -/
def Dev.thermalRelease (d : Dev) (f : Fld) (held : Option Nat) (pours : Nat) (keep : Bool) : Dev :=
  match held with
  | some p => if d.live && d.flag f && !keep && decide (p + pours ≤ d.now) then ((d.setFlag f false).raiseN 0x1C0 []).floorMoved else d
  | none => d

/-- DOUBLED_REFRESH_RELEASE (R140, R141): 4,096 pours at or below 83 °C; FAILSAFE holds it until the next cold reset. -/
def Dev.edgeDoubledRefreshRelease (d : Dev) : Dev :=
  d.thermalRelease Fld.crmRefCtl_doubled d.thm.cool83 4096 (d.flag Fld.crmThermSts_failsafe)

/-- STACK_THROTTLE_RELEASE (R140): 65,536 pours below 90 °C. -/
def Dev.edgeStackThrottleRelease (d : Dev) : Dev :=
  d.thermalRelease Fld.crmThermSts_throtStack d.thm.cool90 65536 false

/-- DIE_THROTTLE_RELEASE (R140): 65,536 pours below 93 °C. -/
def Dev.edgeDieThrottleRelease (d : Dev) : Dev :=
  d.thermalRelease Fld.crmThermSts_throtDie d.thm.cool93 65536 false

end Sys2Proof.Machine
end

