-- ==== Sys2Proof/Machine/Far.lean ====
section
/-! DEFINITION. Sys2Proof/Machine/Far.lean: what the far tier does by itself: promotion (R149), refresh and MR4 (R151, R152),
disturbance windows (R156), re-centring (R159 to R161), command-address parity (R481), channel loss (R480). -/

namespace Sys2Proof.Machine

/-- Is a far channel in service and awake: in a wake from HIBERNATE from pour 80 on (R60)? -/
def Dev.farAwake (d : Dev) (c : Nat) : Bool :=
  d.live && d.flag (Fld.farChSts_inSet c) && d.fld (Fld.farChSts_state c) == 2 &&
    (d.mode != .hibernate || (match d.wokenFor with | some n => decide (80 ≤ n) | none => false))

/-- REQUEST_PROMOTION (R149, R290): a request of class L, B or S that has waited in its scheduler's queue longer than AGE × 16 cycles is
promoted once. -/
def execRequestPromotion (txn : Nat) (s : State) : Host.Outcome State Fault Refusal :=
  s.on fun d =>
    let up := fun (r : Req) => if r.txn == some txn then { r with promoted := r.promoted || d.aged r } else r
    if !d.live then d
    else match d.schedWith txn with
      | some n => d.modSched n fun q => { q with reqs := q.reqs.map up }
      | none => d

/-- FAR_REFRESH (R151): the subchannel's next refresh command, of those that its interval gives this pour. Those that no command has
brought by the pour's last cycle, that cycle issues (log entry 75). -/
def execFarRefresh (ch : FarCh) (sub : Bool) (s : State) : Host.Outcome State Fault Refusal :=
  s.on fun d =>
    if d.farAwake ch.val && decide ((d.slotSet (64 + 2 * ch.val + bitOf sub)).refs < d.farQuota ch.val) then
      d.farRefreshCmd ch.val (bitOf sub)
    else d

/-! ### MR4 (R152) -/

/-- Does a rank report a rate above 2×, or the high-temperature flag? -/
def mr4Hot : Mr4 → Bool
  | .above | .hotFlag => true
  | _ => false

/-- The refresh mode that the hottest rank asks for. -/
def mr4Mode (ranks : List Mr4) : Nat :=
  if ranks.any mr4Hot then 2 else if ranks.contains .x2 then 1 else 0

/-- MR4_READING (R152), 65,536 pours behind the one before it, or after a self-refresh exit: the mode changes at the next boundary (R15);
a hot rank raises EVT_FAR_DIMM_HOT. The count to the DRAIN runs while a rank stands above 2×. -/
def execMr4Reading (ch : FarCh) (ranks : List Mr4) (s : State) : Host.Outcome State Fault Refusal :=
  s.on fun d =>
    let now := d.now
    if d.farAwake ch.val && !ranks.isEmpty && decide ((d.fch ch.val).mr4Next ≤ now) then
      let m := mr4Mode ranks
      let d := d.modFch ch.val fun f => { f with mr4 := some m, hotSince := since now f.hotSince (ranks.contains .above), mr4Next := now + 65536 }
      if m = 2 then d.raise { num := 0x131, chid := some (d.farChid ch.val) } else d
    else d

/-- What a boundary changes of the channels' refresh modes. -/
def Dev.mr4Boundary (d : Dev) : Dev :=
  (List.range 8).foldl (fun d c =>
    match (d.fch c).mr4 with
    | some m =>
      let d := d.modFch c fun f => { f with mr4 := none }
      let was := bitOf (d.flag (Fld.farChSts_doubled c)) + bitOf (d.flag (Fld.farChSts_hot c))
      if was = m then d
      else ((d.setFlag (Fld.farChSts_doubled c) (m != 0)).setFlag (Fld.farChSts_hot c) (m == 2)).floorMoved
    | none => d) d

/-- DIMM_HOT_DRAIN (R152): 65,536 consecutive pours above 2×: DRAIN with DRAIN_DEST = 100. -/
def Dev.edgeDimmHotDrain (ch : FarCh) (d : Dev) : Dev :=
    match (d.fch ch.val).hotSince with
    | some p =>
      let modes : List Mode := [.await, .serve, .degraded, .drowse, .maint]
      if d.live && modes.contains d.mode && decide (p + 65536 ≤ d.now) then
        let discard := match d.due.target with | some (t, _) => t | none => 0
        let d := d.takeTarget.startDrain 4 false (causeOf 0x131) discard
        (d.raise { num := 0x131, chid := some (d.farChid ch.val) }).alert 6
      else d
    | none => d

/-! ### Disturbance windows (R156, R157) -/

/-- DIST_WINDOW_END (R156): at the multiples of 2^WIN pours (log entry 78) the counters clear, and what THROTTLE held is released in
arrival order. -/
def Dev.edgeDistWindowEnd (ch : FarCh) (d : Dev) : Dev :=
    let c := ch.val
    if d.live && d.fld (Fld.farChCfg_dist c) == 1 && decide (d.now % 2 ^ d.fld (Fld.farDistCtl_win c) = 0) then
      let held := d.txns.filter fun x => x.phase == .regHeld && (match x.tenant with
        | some t => d.channelOf t x.dpa == some c && d.throttled t c
        | none => false)
      let d := d.modFch c fun f => { f with dist := [], distIn := [], distHeld := [], distShared := false }
      held.foldl (fun d x => d.reenter x false) d
    else d

/-! ### Re-centring (R159 to R161) -/

/-- DQS_OSCILLATOR_READING (R159, R161), 2^INTERVAL pours behind the one before it, or after a self-refresh exit: the drifts since the last centring, in 1/128 UI; one above THRESH, or a failed step to
repeat, starts a step. -/
def execDqsOscillatorReading (ch : FarCh) (drifts : List Nat) (s : State) : Host.Outcome State Fault Refusal :=
  s.on fun d =>
    let c := ch.val
    let now := d.now
    if d.farAwake c && decide ((d.fch c).dqsNext ≤ now) then
      let top := drifts.foldl max 0
      let next := now + 2 ^ d.fld Fld.farTrackCtl_interval
      let d := d.modFch c fun f => { f with dqsNext := next }
      let d := d.setFld (Fld.farTrackSts_drift c) (satN 7 top)
      let start := (decide (d.fld Fld.farTrackCtl_thresh < top) || (d.fch c).repeatDue) && (d.fch c).recentre.isNone
      if start then
        d.modFch c fun f => { f with recentre := some now, repeatDue := false }
      else d
    else d

/-- RECENTRING_STEP_END (R160, R161): the step succeeds; the new centres are the PHY's, which the rules give no state. -/
def Dev.edgeRecentringStepEnd (ch : FarCh) (d : Dev) : Dev :=
    let c := ch.val
    match (d.fch c).recentre with
    | some p =>
      if d.live && decide (d.now ≤ p + 4096) then
        let d := d.modFch c fun f => { f with recentre := none }
        let d := (d.bump (Fld.farTrackSts_steps c) 1).setFld (Fld.farTrackSts_fails c) 0
        d.raise { num := 0x133, chid := some (d.farChid c) }
      else d
    | none => d

/-- A re-centring step fails (R161): it applies nothing; the third consecutive failure loses the channel. -/
def Dev.recentreFail (d : Dev) (c : Nat) : Dev :=
  let d := d.bump (Fld.farTrackSts_fails c) 1
  let third := decide (3 ≤ d.fld (Fld.farTrackSts_fails c))
  let d := d.modFch c fun f => { f with recentre := none, repeatDue := true, lossDue := f.lossDue || third }
  d.raise { num := 0x134, chid := some (d.farChid c) }

/-- RECENTRING_FAIL (R161). -/
def execRecentringFail (ch : FarCh) (s : State) : Host.Outcome State Fault Refusal :=
  s.on fun d => if d.live && (d.fch ch.val).recentre.isSome then d.recentreFail ch.val else d

/-- A step that has not ended within 4,096 pours fails (R161). -/
def Dev.recentreLate (d : Dev) (c : Nat) : Dev :=
  match (d.fch c).recentre with
  | some p => if decide (p + 4096 < d.now) then d.recentreFail c else d
  | none => d

/-! ### Parity and loss -/

/-- CA_PARITY_ALERT (R481): the command is issued again; a read that fails `again` completes as an uncorrectable line.
CA_LIMIT alerts in one pour lose the channel. -/
def execCaParityAlert (ch : FarCh) (txn : Option Nat) (again : Bool) (s : State) : Host.Outcome State Fault Refusal :=
  s.on fun d =>
    let c := ch.val
    if !d.farAwake c then d
    else
      let d := d.raise { num := 0x1D5, chid := some (d.farChid c) }
      let now := d.now
      let n := if (d.fch c).caPour = now then (d.fch c).caCount + 1 else 1
      let limit := d.fld Fld.rasLossCtl_caLimit
      let lost := limit != 0 && decide (limit ≤ n)
      let d := d.modFch c fun f => { f with caPour := now, caCount := n, lossDue := f.lossDue || lost }
      match (txn.bind fun id => d.txn id) with
      | some x => if again && x.phase == .far && d.txnChannel x == some c then d.farBad x else d
      | none => d

/-- FAR_CHANNEL_LOSS (R480): the boundary after a channel was declared lost (R479). -/
def Dev.edgeFarChannelLoss (ch : FarCh) (d : Dev) : Dev :=
  if d.live && (d.fch ch.val).lossDue then d.loseFar ch.val else d

end Sys2Proof.Machine
end

