-- ==== Sys2Proof/Machine/Relay.lean ====
section
/-! DEFINITION. Sys2Proof/Machine/Relay.lean: the Relay link (R353 to R371): its states, what a flit's arrival does to sequence,
replay and credit, its timers, and how it breaks; the response of a member that is cut off (R381); HALT flits (R383). The
messages that a flit carries are commands of their own (log entry 40). -/

namespace Sys2Proof.Machine

/-! ### Loss at the head (R382) -/

/-- The head finds a loss at position k; it acts at the next boundary, at the lowest position found. -/
def Dev.findLoss (d : Dev) (k : Nat) (cause : LossCause) : Dev :=
  let due := match d.chain.lossDue with
    | some (k', c') => if k' ≤ k then (k', c') else (k, cause)
    | none => (k, cause)
  { d with chain := { d.chain with lossDue := some due } }

/-! ### The response to a cut (R381) -/

/-- Discards all work from upstream; no answer leaves. -/
def Dev.dropUpstream (d : Dev) : Dev :=
  let gone := fun (x : Txn) => match x.org with | .relay _ _ => true | .host _ _ _ _ => false
  let ids := (d.txns.filter gone).map fun (x : Txn) => x.id
  let d := { d with txns := d.txns.filter fun x => !gone x }
  { d with home := { d.home with
      dir := [], holds := [], snoops := [], acksDue := [], imprecise := []
      leases := d.home.leases.filter fun (l : Lease) => !ids.contains l.txn } }

/-- A member is cut off: it discards, clears its directory, sends CUT down and erases itself as the foreground brew. A brew that
runs ends aborted. While the erase runs, another cut changes nothing. -/
def Dev.cutResponse (d : Dev) : Dev :=
  if d.flag Fld.rlyChainSts_cut then d
  else
    let d := d.dropUpstream
    let d := match d.relayUp with
      | some p => d.modRly p fun r => { r with queue := [] }
      | none => d
    let d := d.sendDown (d.mgmtMsg (d.chainId + 1) 0) 0x64 []
    let d := d.abortFg rcAborted
    (d.startFg 0x09 none .cutErase 1).setFlag Fld.rlyChainSts_cut true

/-- What the erase leaves: the whole far tier fresh, Press sectors free, no Crema frame, and zeros in the near region. -/
def Dev.eraseAll (d : Dev) : Dev :=
  let keep := fun (c : Nat) => !d.farLost c
  let d := { d with
    mem := { d.mem with
      crema := [], cremaPoison := []
      far := Memory.clear d.mem.far fun k => keep (k / 2 ^ 34)
      farPoison := d.mem.farPoison.drop fun k => keep (k / 2 ^ 34)
      written := d.mem.written.drop fun k => keep (k / 2 ^ 28)
      lostFresh := d.mem.lostFresh.drop fun k => keep (if k < 2 ^ 31 then k / 2 ^ 28 else k % 8) }
    frames := []
    crm := { d.crm with evictFor := [], heldWrites := [], pred := [] }
    prs := { d.prs with jobs := [], engines := Vector.replicate 4 none, taken := [], releasing := [] } }
  let d := ((List.range 8).filter fun n => (d.pool n).used).foldl (fun d n => d.syncPool n) d
  let d := ((List.range 8).filter fun c => d.flag (Fld.farChSts_inSet c)).foldl (fun d c => d.syncSpare c) d
  d.countPinned

/-- CUT_ERASE_END (R381): CUT clears and READY goes up. -/
def execCutEraseEnd (s : State) : Host.Outcome State Fault Refusal :=
  s.on fun d =>
    match d.mb.fg with
    | some b =>
      if d.live && b.work == .cutErase then
        let d := (d.eraseAll.endFg rcSuccess []).setFlag Fld.rlyChainSts_cut false
        d.sendUp (d.mgmtMsg 0 0) 0x6C []
      else d
    | none => d

/-! ### How a link breaks (R367) -/

/-- A link breaks: BROKEN, and the rules of chain loss. A member whose Relay-up breaks is cut off; one whose Relay-down breaks
reports it up with its own ID and `cause`, 0 for a break of the link itself; the head loses position 1. -/
def Dev.breakLink (d : Dev) (p : PortId) (cause : Nat) : Dev :=
  let st := d.rlyState p
  if st < 2 ∨ st = 5 then d
  else
    let d := d.modRly p fun _ => RelayPort.reset
    let d := (d.setReg (Off.rlyLinkSts (portIdx p)) 0).setFld (Fld.rlyLinkSts_state (portIdx p)) 5
    let d := (d.setReg (Off.rlyHoldSts (portIdx p)) 0).raiseN 0x1A2 []
    let d := d.floorMoved
    if d.role p = 2 then d.cutResponse
    else if d.isHead then d.findLoss 1 .relayDown
    else d.sendUp (d.mgmtMsg 0 1) 0x6B [BitVec.ofNat 128 (d.chainId + cause % 256 * 256)]

/-! ### Flits that this device sends without a sequence number (R357) -/

/-- Sends a SNAK that lists missing flits, or names E under go-back-N. -/
def Dev.sendSnak (d : Dev) (p : PortId) (gbn : Bool) (missing : List Nat) : Dev :=
  let now := d.stamp
  let d := (d.modRly p fun r => { r with lastSnak := some now }).bump (Fld.rlyErrCnt_snak (portIdx p)) 1
  d.sendCtrl p 4 (bitOf gbn :: missing.map (· % 4096))

/-- Falls back to go-back-N: the reorder buffer empties, and a SNAK names E. -/
def Dev.goBack (d : Dev) (p : PortId) : Dev :=
  if (d.rlyOf p).gbn then d
  else
    let d := d.modRly p fun r => { r with reorder := [], missing := [], gbn := true }
    (d.bump (Fld.rlyErrCnt_gbn (portIdx p)) 1).sendSnak p true [(d.rlyOf p).rxNext]

/-- The device cannot leave sequence numbers from E up to `top` out: they are listed for a SNAK, at most eight at once. -/
def Dev.listMissing (d : Dev) (p : PortId) (top : Nat) : Dev :=
  let r := d.rlyOf p
  let missing := ((List.range (top - r.rxNext)).map (r.rxNext + ·)).filter fun n => !r.reorder.any fun x => x.seq == n
  if 8 < missing.length then d.goBack p
  else
    let fresh := missing.filter fun n => !r.missing.contains n
    let d := d.modRly p fun r => { r with missing := missing }
    if fresh.isEmpty then d else d.sendSnak p false fresh

/-! ### Holds (R370) -/

/-- Is a home tracker or retry queue of this device full (R272)? -/
def Dev.trackerFull (d : Dev) : Bool :=
  (List.range 16).any d.sliceFull

/-- The HOLD cause for which the device withholds REQ and G-REQ credits on Relay-up, 0 for none. MAINT counts as QUIESCE, since a
member outside SERVE, DEGRADED and DROWSE lets the head's requests wait on their credits (R379). -/
def Dev.holdCause (d : Dev) (p : PortId) : Nat :=
  if d.role p ≠ 2 ∨ d.rlyState p ≠ 3 then 0
  else
    let dest := d.fld Fld.glbModeSts_drainDest
    if d.mode == .drain && (dest == 1 || dest == 2) then 3
    else if d.mode == .drain || d.mode == .hibernate || d.mode == .maint then 2
    else if ((List.range 8).any fun c => (d.fch c).distShared) || d.trackerFull then 1
    else 0

/-- Frees slots of delivered flits: what the peer may be told follows, but for a VC whose credits the device withholds. -/
def Dev.tellFreed (d : Dev) (p : PortId) : Dev :=
  let held := if (d.rlyOf p).ownHold = 0 then [] else reqVcs (d.fld (Fld.rlyLinkSts_vcs (portIdx p)))
  d.modRly p fun r => { r with told := Vector.ofFn fun (v : Fin 8) => if held.contains v.val then r.told[v] else r.freed[v] }

/-- Sends a CREDIT flit where the link runs. -/
def Dev.sendCredit (d : Dev) (p : PortId) : Dev := if d.rlyState p = 2 ∨ d.rlyState p = 3 then d.creditOut p else d

/-- What a boundary does for the holds of a port: the device withholds for the cause that stands, OWN follows it, and a hold that begins,
changes or ends sends a CREDIT flit. -/
def Dev.holdBoundary (d : Dev) (p : PortId) : Dev :=
  if d.rlyState p = 3 then
    let vcs := d.fld (Fld.rlyLinkSts_vcs (portIdx p))
    let cause := d.holdCause p
    let moved := (d.rlyOf p).ownHold != cause
    let mask := if cause = 0 then 0 else ((reqVcs vcs).map fun v => 2 ^ v).sum
    let d := ((d.modRly p fun r => { r with ownHold := cause }).tellFreed p).setFld (Fld.rlyHoldSts_own (portIdx p)) mask
    if moved then d.sendCredit p else d
  else d

/-- CREDIT_HOLD_REFRESH (R370). -/
def execCreditHoldRefresh (port : PortId) (s : State) : Host.Outcome State Fault Refusal :=
  s.on fun d => if d.live && (d.rlyOf port).ownHold != 0 then d.sendCredit port else d

/-! ### Roll calls on a link (R373, R374) -/

/-- This device's record (R373). -/
def Dev.ownRecord (d : Dev) : MemberRec :=
  let x8 := match d.relayUp with | some p => d.fld (Fld.rlyLinkSts_width (portIdx p)) == 8 | none => false
  { id := d.chainId, mode := d.mode.code, erasing := d.flag Fld.rlyChainSts_cut, x8 := x8, nearGib := d.near,
    dataBlocks := d.fld Fld.farMapCtl_dataBlocks
    farFloor := match d.resources[1]? with | some r => r.inForce | none => 0
    ident := Config.certDigest.setWidth 128 }

/-- Ends the head's roll call and the XT_CHAIN_ROLLCALL that waits for it. -/
def Dev.endRoll (d : Dev) : Dev :=
  if d.chain.rolling.isSome then d
  else match d.chain.rollCmd with
    | some i =>
      let d := { d with chain := { d.chain with rollCmd := none } }
      d.complete i 0xC060 rcSuccess
        [BitVec.ofNat 8 (d.fld Fld.rlyChainSts_epoch), BitVec.ofNat 8 (d.fld Fld.rlyChainSts_count)]
    | none => d

/-- Returns a ROLL up the chain, with this device's record in front. -/
def Dev.returnRoll (d : Dev) (r : Roll) : Dev :=
  let me := d.ownRecord
  let d := { d with chain := { d.chain with waiting := none, stateSent := some me } }
  match d.relayUp with
  | some p => d.sendRoll p { r with ret := true, recs := me :: r.recs }
  | none => d

/-- An outbound ROLL on Relay-up (R374). -/
def Dev.outboundRoll (d : Dev) (p : PortId) (r : Roll) : Dev :=
  if r.next = 8 then
    let d := (d.setFlag Fld.rlyChainSts_idv false).raiseN 0x1A5 []
    d.sendRoll p { r with ret := true, overlong := true, recs := [] }
  else if 1 ≤ r.next ∧ r.next ≤ 7 then
    let d := ((d.setFlag Fld.rlyChainSts_idv true).setFld Fld.rlyChainSts_id r.next).setFld Fld.rlyChainSts_epoch r.epoch
    let d := d.setFlag Fld.rlyChainCtl_policy r.confine
    match (d.relayDown.filter fun q => d.rlyState q == 3) with
    | some q =>
      let d := { d with chain := { d.chain with waiting := some (d.now + (8 - r.next) * 256) } }
      d.sendRoll q { r with next := r.next + 1 }
    | none => d.returnRoll { r with next := r.next + 1, brk := false, overlong := false, recs := [] }
  else d

/-- A ROLL in its place in the sequence: outbound on Relay-up, a return on Relay-down. A return that nothing waits for, or of
another EPOCH, is dropped. -/
def Dev.takeRoll (d : Dev) (p : PortId) (r : Roll) : Dev :=
  if d.role p = 2 ∧ ¬ r.ret then d.outboundRoll p r
  else if d.role p = 3 ∧ r.ret ∧ r.epoch = d.fld Fld.rlyChainSts_epoch then
    if d.isHead then (if d.chain.rolling.isSome then (d.rollDone r.next r.overlong r.recs).endRoll else d)
    else if d.chain.waiting.isSome then d.returnRoll r else d
  else d

/-! ### A flit arrives (R361 to R366) -/

/-- Adds a flit's slots to the counts of what it freed. -/
def addSlots (freed : Vector Nat 8) (slots : List (Nat × BitVec 128)) : Vector Nat 8 :=
  slots.foldl (fun v (x : Nat × BitVec 128) => vmod v x.1 (· + 1)) freed

/-- Delivers the flit with number E. On Relay-up a named switch of keys falls due with it (R355). -/
def Dev.deliver (d : Dev) (p : PortId) (x : RxFlit) : Dev :=
  let up := d.role p == 2
  let stamp := d.stamp
  let d := d.modRly p fun r =>
    let next := r.rxNext + 1
    let switch := match r.keyNext with | some k => up && decide (k.2 ≤ next) | none => false
    { r with rxNext := next, ackOwed := some (r.ackOwed.getD stamp), gbn := false, missing := r.missing.filter (· != x.seq),
             freed := addSlots r.freed x.slots,
             keyEpoch := if switch then r.keyEpoch + 1 else r.keyEpoch, keyNext := if switch then none else r.keyNext,
             keyTx := if switch then r.txNext else r.keyTx, keyRx := if switch then next else r.keyRx }
  let d := d.tellFreed p
  -- a request wakes a software HIBERNATE or a DRAIN towards it (R59, R370)
  let vcs := d.fld (Fld.rlyLinkSts_vcs (portIdx p))
  let req := x.slots.any fun (y : Nat × BitVec 128) => (reqVcs vcs).contains y.1
  let sleeps := (d.mode == .hibernate || d.mode == .drain) && d.fld Fld.glbModeSts_drainDest == 3
  let d := if up && req && sleeps then { d with due := { d.due with wake := true } } else d
  match x.roll with
  | some r => d.takeRoll p r
  | none => d

/-- Delivers held flits while the next one is among them. -/
def Dev.deliverHeld (d : Dev) (p : PortId) : Nat → Dev
  | 0 => d
  | n + 1 =>
    let r := d.rlyOf p
    match r.reorder.find? fun (x : RxFlit) => x.seq == r.rxNext with
    | some x =>
      let d := d.modRly p fun r => { r with reorder := r.reorder.filter fun (y : RxFlit) => y.seq != x.seq }
      Dev.deliverHeld (d.deliver p x) p n
    | none => d

/-- A sequenced flit that passed its checks (R364). -/
def Dev.sequenced (d : Dev) (p : PortId) (seq : Nat) (slots : List (Nat × BitVec 128)) (roll : Option Roll) : Dev :=
  let r := d.rlyOf p
  let o := (seq % 4096 + 4096 - r.rxNext % 4096) % 4096
  let x : RxFlit := ⟨r.rxNext + o, slots, roll⟩
  if o = 0 then (d.deliver p x).deliverHeld p 65
  else if r.gbn then d
  else if o ≤ 64 then
    if r.reorder.any fun (y : RxFlit) => y.seq == x.seq then d
    else (d.modRly p fun r => { r with reorder := r.reorder ++ [x] }).listMissing p x.seq
  else if o < 1024 then d.goBack p
  else if o < 2048 then d.breakLink p 0
  else d.sendCtrl p 3 []

/-- The PIGGY field of a flit (R358, R366): acknowledged flits leave the replay buffer, credit comes back. -/
def Dev.piggy (d : Dev) (p : PortId) (f : Flit) : Dev :=
  let r := d.rlyOf p
  let keep := r.replay.filter fun (x : TxFlit) => !decide ((f.ackSeq % 4096 + 4096 - x.seq % 4096) % 4096 < 2048)
  let moved := keep.length != r.replay.length
  let credit := vget 0 r.ccum f.cvc != f.ccum
  let stamp := d.stamp
  let now := d.now
  let d := d.modRly p fun r =>
    { r with replay := keep, lastAck := if moved then stamp else r.lastAck, ccum := vmod r.ccum f.cvc fun _ => f.ccum,
             lastCredit := if credit then vmod r.lastCredit f.cvc fun _ => now else r.lastCredit }
  (d.syncReplay p).sendQueued p

/-- The checks of every flit in their order (R361): `none` where the flit is lost, halts the device or breaks the link. -/
def Dev.flitChecks (d : Dev) (p : PortId) (f : Flit) : Dev × Bool :=
  let n := portIdx p
  let st := d.rlyState p
  if !d.live || !(st == 2 || st == 3) then (d, false)
  else if !f.fecOk then (d.bump (Fld.rlyErrCnt_lost n) 1, false)
  else
    let d := if f.fecCorrected then d.bump (Fld.rlyFecCnt_corr n) 1 else d
    if !f.crcOk then (d.bump (Fld.rlyErrCnt_lost n) 1, false)
    else if st == 3 && !f.tagOk then
      (d.integrityFail .relayIntegrity (d.chid 0 0 0) 0 [word1 (haltCode .relayIntegrity), word1 n], false)
    else (d, true)

/-- A sequenced flit arrives. -/
def Dev.seqFlit (d : Dev) (p : PortId) (f : Flit) (roll : Option Roll) (slots : List (Nat × BitVec 128)) : Dev :=
  let (d, ok) := d.flitChecks p f
  if !ok then d
  else if !f.typeOk then d.breakLink p 0
  else (d.piggy p f).sequenced p f.seq slots roll

/-- An unsequenced flit arrives: it is taken when its control counter is newer than the last one taken; `act` is its own part. A
SEQ ahead of E shows flits that were lost (R357, R366). -/
def Dev.ctrlFlit (d : Dev) (p : PortId) (f : Flit) (act : Dev → Dev) : Dev :=
  let (d, ok) := d.flitChecks p f
  let newer := match (d.rlyOf p).ctrlRx with | some c => decide (c < f.ctrl) | none => true
  if !ok || !newer then d
  else
    let d := (d.modRly p fun r => { r with ctrlRx := some f.ctrl }).piggy p f
    let r := d.rlyOf p
    let o := (f.seq % 4096 + 4096 - r.rxNext % 4096) % 4096
    let d := if o = 0 ∨ 1024 ≤ o ∨ r.gbn then d else if 64 < o then d.goBack p else d.listMissing p (r.rxNext + o)
    act d

/-- DATA_FLIT (R361): its messages are commands of their own; here it moves sequence, replay and credit. -/
def execDataFlit (port : PortId) (f : Flit) (s : State) : Host.Outcome State Fault Refusal :=
  s.on fun d => d.seqFlit port f none f.slots

/-- ROLL_FLIT (R374): acts when its number is delivered; it spends 14 slots of the VC of ROLL. -/
def execRollFlit (port : PortId) (f : Flit) (r : Roll) (s : State) : Host.Outcome State Fault Refusal :=
  s.on fun d =>
    let vc := vcOf (d.fld (Fld.rlyLinkSts_vcs (portIdx port))) opcRoll .l
    d.seqFlit port f (some r) (List.replicate 14 (vc, 0))

/-- ACK_FLIT (R366). -/
def execAckFlit (port : PortId) (f : Flit) (s : State) : Host.Outcome State Fault Refusal :=
  s.on fun d => d.ctrlFlit port f id

/-- IDLE_FLIT (R366). -/
def execIdleFlit (port : PortId) (f : Flit) (s : State) : Host.Outcome State Fault Refusal :=
  s.on fun d => d.ctrlFlit port f id

/-- Sends flits of the replay buffer again, bit for bit, oldest first. -/
def Dev.resend (d : Dev) (p : PortId) (l : List TxFlit) : Dev :=
  l.foldl (fun d (x : TxFlit) => ((d.creditFirst p).count 0x03D 1).emitTx p x.msg x.wire) d

/-- SNAK_FLIT (R365): the listed flits again, or from the named one on under go-back-N. -/
def execSnakFlit (port : PortId) (f : Flit) (gbn : Bool) (missing : List Nat) (s : State) : Host.Outcome State Fault Refusal :=
  s.on fun d => d.ctrlFlit port f fun d =>
    let replay := (d.rlyOf port).replay
    let named := fun (x : TxFlit) => missing.any fun n => n % 4096 == x.seq % 4096
    d.resend port (if gbn then replay.dropWhile fun x => !named x else replay.filter named)

/-- The counts and HOLD causes of a CREDIT flit, VC by VC (R370). -/
def Dev.takeCredit (d : Dev) (p : PortId) (vcs : List (Nat × Nat)) : Dev :=
  let now := d.now
  let was := d.rlyOf p
  let one := fun (r : RelayPort) (e : (Nat × Nat) × Nat) =>
    let (c, h) := e.1
    let v := e.2
    let new := vget 0 r.ccum v != c || vget 0 r.peerHold v != h
    { r with ccum := vmod r.ccum v fun _ => c, peerHold := vmod r.peerHold v fun _ => h,
             lastCredit := if new then vmod r.lastCredit v fun _ => now else r.lastCredit }
  let d := d.modRly p fun r => vcs.zipIdx.foldl one r
  let r := d.rlyOf p
  let busy := (List.range 8).any fun v => vget 0 r.peerHold v == 1
  let d := d.modRly p fun r => { r with holdSince := if busy then some (was.holdSince.getD now) else none }
  let mask := ((List.range 8).map fun v => if vget 0 r.peerHold v = 0 then 0 else 2 ^ v).sum
  let d := d.setFld (Fld.rlyHoldSts_peer (portIdx p)) mask
  let out := (List.range 8).any fun v => vget 0 r.peerHold v == 3
  let d := if out && d.isHead && d.role p == 3 then d.findLoss 1 .holdOut else d
  d.sendQueued p

/-- CREDIT_FLIT (R370). -/
def execCreditFlit (port : PortId) (f : Flit) (vcs : List (Nat × Nat)) (s : State) : Host.Outcome State Fault Refusal :=
  s.on fun d => d.ctrlFlit port f fun d => d.takeCredit port vcs

/-- HALT_FLIT (R383): taken in KEYED only. Under VIRAL the device halts; under CONFINE its Relay-down breaks, or it is cut off. -/
def execHaltFlit (port : PortId) (f : Flit) (origin cause : Byte) (s : State) : Host.Outcome State Fault Refusal :=
  s.on fun d => d.ctrlFlit port f fun d =>
    if d.rlyState port ≠ 3 then d
    else if !d.flag Fld.rlyChainCtl_policy then d.haltFrom .chainHalt origin.toNat (d.chid 0 0 0) 0
    else if d.role port = 2 then d.cutResponse
    else d.breakLink port cause.toNat

/-! ### Timers (R365, R366, R370) -/

/-- RTT of a port in core cycles. -/
def Dev.rtt (d : Dev) (p : PortId) : Nat := d.fld (Fld.rlyRtt_rtt (portIdx p))

/-- Does a port run its traffic: KEYED, and no HALT? -/
def Dev.keyed (d : Dev) (p : PortId) : Bool := d.live && d.rlyState p == 3

/-- SNAK_REPEAT_TIMER (R365): every 2 × RTT, and at least every 128 cycles, until what is missing has arrived. -/
def execSnakRepeatTimer (port : PortId) (s : State) : Host.Outcome State Fault Refusal :=
  s.on fun d =>
    let r := d.rlyOf port
    match r.lastSnak with
    | some t =>
      if d.keyed port && (r.gbn || !r.missing.isEmpty) && decide (min (2 * d.rtt port) 128 ≤ t.cyclesTo d.stamp) then
        d.sendSnak port r.gbn (if r.gbn then [r.rxNext] else r.missing)
      else d
    | none => d

/-- ACK_TIMER (R366): 64 cycles behind a delivery with nothing else sent. -/
def execAckTimer (port : PortId) (s : State) : Host.Outcome State Fault Refusal :=
  s.on fun d =>
    match (d.rlyOf port).ackOwed with
    | some t => if d.keyed port && decide (64 ≤ t.cyclesTo d.stamp) then d.sendCtrl port 3 [] else d
    | none => d

/-- REPLAY_TIMEOUT (R366): in order from the oldest unacknowledged flit. -/
def execReplayTimeout (port : PortId) (s : State) : Host.Outcome State Fault Refusal :=
  s.on fun d =>
    let r := d.rlyOf port
    if d.keyed port && !r.replay.isEmpty && decide (4 * d.rtt port + 256 ≤ r.lastAck.cyclesTo d.stamp) then
      let now := d.stamp
      (d.modRly port fun r => { r with lastAck := now }).resend port r.replay
    else d

/-- Is a message waiting in a VC without the credit it needs, for which the peer reports no hold and has given no credit for 391
pours? -/
def Dev.creditLate (d : Dev) (p : PortId) : Bool :=
  let r := d.rlyOf p
  r.queue.any fun t =>
    let v := d.txVc p t
    vget 0 r.peerHold v == 0 && decide (d.txCredit p v < t.slots) && decide (vget 0 r.lastCredit v + 391 ≤ d.now)

/-- CREDIT_TIMEOUT (R370). -/
def execCreditTimeout (port : PortId) (s : State) : Host.Outcome State Fault Refusal :=
  s.on fun d => if d.keyed port && d.creditLate port then d.breakLink port 0 else d

/-- HOLD_LIMIT_EXPIRY (R370): 131,072 pours of continuous BUSY. -/
def execHoldLimitExpiry (port : PortId) (s : State) : Host.Outcome State Fault Refusal :=
  s.on fun d =>
    match (d.rlyOf port).holdSince with
    | some t => if d.keyed port && decide (t + 131072 ≤ d.now) then d.breakLink port 0 else d
    | none => d

/-- Is a measurement of the round trip due: at KEYED entry and every 65,536 pours (R365)? -/
def Dev.rttDue (d : Dev) (p : PortId) : Bool :=
  match (d.rlyOf p).rttAt with | some t => decide (t + 65536 ≤ d.now) | none => true

/-- RTT_MEASUREMENT (R365): the echo gives the round trip in core cycles. -/
def execRttMeasurement (port : PortId) (cycles : Nat) (s : State) : Host.Outcome State Fault Refusal :=
  s.on fun d =>
    if d.keyed port && d.rttDue port then
      let now := d.now
      (d.modRly port fun r => { r with rttAt := some now }).setFld (Fld.rlyRtt_rtt (portIdx port)) (satN 16 cycles)
    else d

/-! ### Training, authentication, Recovery (R353 to R355, R367) -/

/-- May a Relay link act: a Relay role, past BOOT, and no HALT? -/
def Dev.relayOpen (d : Dev) (p : PortId) : Bool := d.live && d.mode != .fill && d.mode != .boot && 2 ≤ d.role p

/-- VCs of a COUNT (R368). -/
def vcCount (n : Nat) : Nat := match n with | 1 => 4 | 2 => 2 | _ => 8

/-- RELAY_LINK_TRAINED (R353): a partner that offers Relay at 64 GT/s and x8 or x16 takes the port to AUTH; another one keeps
the link out of L0. -/
def execRelayLinkTrained (port : PortId) (offered rate64 : Bool) (width : Nat) (s : State) : Host.Outcome State Fault Refusal :=
  s.on fun d =>
    let n := portIdx port
    if d.relayOpen port && (d.rlyState port == 1 || d.rlyState port == 5) then
      let d := d.setFld (Fld.rlyLinkSts_state n) 1
      if offered && rate64 && (width == 8 || width == 16) then
        let d := d.modRly port fun _ => RelayPort.reset
        ((d.setFld (Fld.rlyLinkSts_state n) 2).setFld (Fld.rlyLinkSts_width n) width).setFld (Fld.rlyLinkSts_vcs n)
          (vcCount (d.fld (Fld.rlyVcCfg_count n)))
      else d.raiseN 0x1A0 []
    else d

/-- What reaching KEYED starts (R372): a roll call at the head, a HELLO from a member whose Relay-down it is. -/
def Dev.keyedStarts (d : Dev) (p : PortId) : Dev :=
  if d.role p ≠ 3 then d
  else if d.isHead then (d.rollCall false).endRoll
  else d.sendUp (d.mgmtMsg 0 0) 0x62 []

/-- RELAY_AUTH_COMPLETE (R355, R368): the link is KEYED from the named sequence number on. A failure, or being refused, keeps AUTH
under EVT_RLY_AUTH_FAIL; a part in PRODUCTION refuses a peer that is not, under EVT_SPDM_REFUSED. -/
def execRelayAuthComplete (port : PortId) (ok : Bool) (peerLifecycle : Byte) (peerVcs startSeq : Nat) (s : State) :
    Host.Outcome State Fault Refusal :=
  s.on fun d =>
    let n := portIdx port
    if !(d.relayOpen port && d.rlyState port == 2) then d
    else if !ok then d.raiseN 0x1A1 []
    else if d.lifecycle == .production && peerLifecycle.toNat != Lifecycle.production.code then d.raiseN 0x1F5 []
    else
      let now := d.now
      let stamp := d.stamp
      let seed := d.keySeed
      let d := d.modRly port fun _ => { RelayPort.reset with
        seed := if d.role port = 3 then seed else none
        txNext := startSeq, rxNext := startSeq, keyTx := startSeq, keyRx := startSeq, lastCredit := Vector.replicate 8 now, lastAck := stamp }
      let d := (d.setFld (Fld.rlyLinkSts_state n) 3).setFld (Fld.rlyLinkSts_vcs n)
        (min (d.fld (Fld.rlyLinkSts_vcs n)) (if peerVcs = 2 ∨ peerVcs = 4 then peerVcs else 8))
      (d.syncReplay port).floorMoved.keyedStarts port

/-- RELAY_RECOVERY_ENTRY (R354): traffic stops; sequence, replay and reorder state stay. -/
def execRelayRecoveryEntry (port : PortId) (s : State) : Host.Outcome State Fault Refusal :=
  s.on fun d =>
    let st := d.rlyState port
    if d.live && (st == 2 || st == 3) then
      let now := d.now
      (d.modRly port fun r => { r with recoverySince := some now, wasKeyed := st == 3 }).setFld
        (Fld.rlyLinkSts_state (portIdx port)) 4
    else d

/-- Has Recovery lasted longer than a link may? -/
def Dev.recoveryLate (d : Dev) (p : PortId) : Bool :=
  match (d.rlyOf p).recoverySince with | some t => decide (t + 15625 ≤ d.now) | none => false

/-- RECOVERY_TIMEOUT (R367): 15,625 pours without L0. -/
def execRecoveryTimeout (port : PortId) (s : State) : Host.Outcome State Fault Refusal :=
  s.on fun d => if d.live && d.rlyState port == 4 && d.recoveryLate port then d.breakLink port 0 else d

/-- RELAY_RECOVERY_EXIT (R367, R353): back in L0 in time, the sender resumes from its oldest unacknowledged flit; a link below x8
is broken. -/
def execRelayRecoveryExit (port : PortId) (width : Nat) (s : State) : Host.Outcome State Fault Refusal :=
  s.on fun d =>
    let n := portIdx port
    if !(d.live && d.rlyState port == 4) then d
    else if width ≠ 8 ∧ width ≠ 16 then d.breakLink port 0
    else if d.recoveryLate port then d.breakLink port 0
    else
      let st := if (d.rlyOf port).wasKeyed then 3 else 2
      let moved := d.fld (Fld.rlyLinkSts_width n) != width
      let stamp := d.stamp
      let d := d.modRly port fun r => { r with recoverySince := none, lastAck := stamp }
      let d := (d.setFld (Fld.rlyLinkSts_state n) st).setFld (Fld.rlyLinkSts_width n) width
      let d := (d.resend port (d.rlyOf port).replay).sendQueued port
      if moved then (if d.isHead then d.floorMoved.cdatPort .a else d.floorMoved) else d

/-- RELAY_LINK_DOWN (R367): the LTSSM reaches Detect or Disabled. -/
def execRelayLinkDown (port : PortId) (s : State) : Host.Outcome State Fault Refusal :=
  s.on fun d => if d.live then d.breakLink port 0 else d

end Sys2Proof.Machine
end

