-- ==== Sys2Proof/Machine/Chain.lean ====
section
/-! DEFINITION. Sys2Proof/Machine/Chain.lean: the messages of the chain (R359, R360, R377): requests that a member serves or
forwards, answers and snoops on their way up, the messages of the MGMT class; roll calls and their waits (R372 to R376), and
members that appear and are lost (R378 to R382). -/

namespace Sys2Proof.Machine

/-! ### Routing (R377) -/

/-- Does Relay-up bring messages: KEYED, and no HALT? -/
def Dev.upBrings (d : Dev) : Bool := match d.relayUp with | some p => d.keyed p | none => false

/-- Does Relay-down bring messages? -/
def Dev.downBrings (d : Dev) : Bool := match d.relayDown with | some p => d.keyed p | none => false

/-- A message from the head on Relay-up: `serve` at the member it names, forwarded with one more HOP to a later one; `wrong` where
it is misrouted. -/
def Dev.fromUp (d : Dev) (m : RelayMsg) (opc : Nat) (payload : List (BitVec 128)) (wrong serve : Dev → Dev) : Dev :=
  let id := d.chainId
  let down := match d.relayDown with
    | some p => if d.rlyState p = 3 ∨ d.rlyState p = 4 then some p else none
    | none => none
  if !d.upBrings then d
  else if m.hops + 1 ≠ id ∨ m.dest < id then wrong (d.raiseN 0x1A3 [])
  else if m.dest = id then serve d
  else match down with
    | some p => d.relaySend p { m with hops := m.hops + 1 } opc payload
    | none => wrong (d.raiseN 0x1A3 [])

/-- A message on Relay-down travels up: a member passes it on with one more HOP; at the head `take`, or `wrong` where its HOPS
disagree with its sender's position. -/
def Dev.fromDown (d : Dev) (m : RelayMsg) (opc : Nat) (payload : List (BitVec 128)) (wrong take : Dev → Dev) : Dev :=
  if !d.downBrings then d
  else if !d.isHead then d.sendUp { m with hops := m.hops + 1 } opc payload
  else if m.hops + 1 ≠ m.src then wrong (d.raiseN 0x1A3 [])
  else take d

/-! ### Requests (R377) -/

/-- A request arrives: served at its member's home, forwarded, or completed poisoned when misrouted. -/
def Dev.relayRequest (d : Dev) (m : RelayMsg) (op : Op) (data : Line) (mask : BitVec 64) (atom : Option AtomicArgs)
    (payload : List (BitVec 128)) : Dev :=
  let x : Txn :=
    { id := d.nextTxn, org := .relay m.src m.tag, op := op, md := Sys2Proof.Machine.metaOf m.opx, tenant := some m.tenant, cls := m.cls,
      sharer := none, db := m.db, comp := m.comp, dpa := 0, ma := m.line * 64, data := data, mask := mask, atom := atom,
      phase := .ordered, arrived := d.stamp, looked := none, poisoned := false, spec := none,
      snooped := false, tier := 0, route := 0, counted := false, bypass := false }
  d.fromUp m op.opc payload (fun d => d.answerRelay x m.src m.tag op.poisonReply) fun d => d.serveRelay m op data mask atom

/-- MEM_RD (R377). -/
def execMemRd (m : RelayMsg) (s : State) : Host.Outcome State Fault Refusal :=
  s.on fun d => d.relayRequest m .rd 0 0 none []

/-- MEM_RD_DATA (R377). -/
def execMemRdData (m : RelayMsg) (s : State) : Host.Outcome State Fault Refusal :=
  s.on fun d => d.relayRequest m .rdData 0 0 none []

/-- MEM_INV (R377). -/
def execMemInv (m : RelayMsg) (s : State) : Host.Outcome State Fault Refusal :=
  s.on fun d => d.relayRequest m .inv 0 0 none []

/-- MEM_WR (R377). -/
def execMemWr (m : RelayMsg) (data : Line) (s : State) : Host.Outcome State Fault Refusal :=
  s.on fun d => d.relayRequest m .wr data allBytes none (lineSlots data)

/-- MEM_WR_PTL (R377). -/
def execMemWrPtl (m : RelayMsg) (data : Line) (mask : BitVec 64) (s : State) : Host.Outcome State Fault Refusal :=
  s.on fun d => d.relayRequest m .wrPtl data mask none (mask.setWidth 128 :: lineSlots data)

/-- MEM_CLN_EVCT (R377). -/
def execMemClnEvct (m : RelayMsg) (s : State) : Host.Outcome State Fault Refusal :=
  s.on fun d => d.relayRequest m .clnEvct 0 0 none []

/-- UIO_RD (R377). -/
def execUioRd (m : RelayMsg) (s : State) : Host.Outcome State Fault Refusal :=
  s.on fun d => d.relayRequest m .uioRd 0 0 none []

/-- UIO_WR (R377). -/
def execUioWr (m : RelayMsg) (data : Line) (s : State) : Host.Outcome State Fault Refusal :=
  s.on fun d => d.relayRequest m .uioWr data allBytes none (lineSlots data)

/-- UIO_WR_PTL (R377). -/
def execUioWrPtl (m : RelayMsg) (data : Line) (mask : BitVec 64) (s : State) : Host.Outcome State Fault Refusal :=
  s.on fun d => d.relayRequest m .uioWrPtl data mask none (mask.setWidth 128 :: lineSlots data)

/-- UIO_ATOMIC (R286, R377): a member's atomics run far. -/
def execUioAtomic (m : RelayMsg) (a : AtomicArgs) (s : State) : Host.Outcome State Fault Refusal :=
  s.on fun d => d.relayRequest m .atomic 0 0 (some a) (atomicSlots a)

/-! ### Answers (R377) -/

/-- What an answer tells of poison on a member, whose lines the head's lists hold (R188, R189): a poisoned line joins its LD's list, a
line written whole leaves it (log entry 85). -/
def Dev.memberPoison (d : Dev) (x : Txn) (r : Reply) : Dev :=
  match x.tenant with
  | none => d
  | some t =>
    let line := x.dpa / 64
    match r with
    | .data _ true | .atomic _ true => d.listPoison (d.tntPort t) (d.tntLd t) line .internal
    | .cmp => if x.op.isWrite && !x.op.isMasked then d.unlistPoison (d.tntPort t) (d.tntLd t) line else d
    | _ => d

/-- An answer reaches the head: it completes the request of its tag that went to its sender. With the wrong HOPS it is dropped, and
the request of its tag completes poisoned. -/
def Dev.relayAnswer (d : Dev) (m : RelayMsg) (opc : Nat) (payload : List (BitVec 128)) (r : Reply) : Dev :=
  let tagged := fun (d : Dev) => d.txns.find? fun x => x.phase == .relayed && x.id % 65536 == m.tag % 65536
  d.fromDown m opc payload
    (fun d => match tagged d with | some x => d.finishPoisoned x | none => d)
    fun d => match tagged d with
      | some x => if maMember x.ma = m.src then (d.memberPoison x r).finish x r else d
      | none => d

/-- CMP (R377). -/
def execCmp (m : RelayMsg) (s : State) : Host.Outcome State Fault Refusal :=
  s.on fun d => d.relayAnswer m opcCmp [] (if m.poison then .unsupported else .cmp)

/-- DATA (R377). -/
def execData (m : RelayMsg) (data : Line) (s : State) : Host.Outcome State Fault Refusal :=
  s.on fun d => d.relayAnswer m opcData (lineSlots data) (.data data m.poison)

/-- ATOMIC_DATA (R377). -/
def execAtomicData (m : RelayMsg) (data : BitVec 128) (s : State) : Host.Outcome State Fault Refusal :=
  s.on fun d => d.relayAnswer m opcAtomicData [data] (.atomic data m.poison)

/-! ### Snoops (R285, R382 step 4) -/

/-- A member's BISnp goes to the host port that the sharer index names; one from a lost member is dropped. -/
def Dev.relaySnoop (d : Dev) (m : RelayMsg) (inv : Bool) : Dev :=
  d.fromDown m (if inv then 0x41 else 0x40) [] id fun d =>
    if d.memberGone m.src then d
    else match d.sharerLd m.sharer.val with
      | some (p, ld) => match d.snoopHpa p ld (m.line * 64) m.comp with
        | some hpa => d.emit (.bisnp p ld hpa inv)
        | none => d
      | none => d

/-- BISNP_DATA (R285). -/
def execBisnpData (m : RelayMsg) (s : State) : Host.Outcome State Fault Refusal := s.on fun d => d.relaySnoop m false

/-- BISNP_INV (R285). -/
def execBisnpInv (m : RelayMsg) (s : State) : Host.Outcome State Fault Refusal := s.on fun d => d.relaySnoop m true

/-- BIRSP_I (R285). -/
def execBirspI (m : RelayMsg) (s : State) : Host.Outcome State Fault Refusal :=
  s.on fun d => d.fromUp m 0x42 [] id fun d => d.birsp (lineKey (m.line * 64)) false

/-- BIRSP_S (R285). -/
def execBirspS (m : RelayMsg) (s : State) : Host.Outcome State Fault Refusal :=
  s.on fun d => d.fromUp m 0x43 [] id fun d => d.birsp (lineKey (m.line * 64)) true

/-- BICONFLICT (R274, R285): the member orders it among the requests of the same sharer. -/
def execBiconflict (m : RelayMsg) (s : State) : Host.Outcome State Fault Refusal :=
  s.on fun d => d.fromUp m 0x44 [] id fun d =>
    d.conflict (lineKey (m.line * 64)) .a m.tag m.sharer.val fun x => x.port.isNone && x.sharer == some m.sharer.val

/-- BICONFLICT_ACK (R274, R285). -/
def execBiconflictAck (m : RelayMsg) (s : State) : Host.Outcome State Fault Refusal :=
  s.on fun d => d.fromDown m 0x45 [] id fun d =>
    d.emit (.biConflictAck (match d.sharerLd m.sharer.val with | some (p, _) => p | none => .a) m.tag)

/-! ### Link keys (R355) -/

/-- SPDM (R355): a message of the link's authentication, or of its session. What it leads to is RELAY_AUTH_COMPLETE. -/
def execSpdm (_m : RelayMsg) (_port : PortId) (s : State) : Host.Outcome State Fault Refusal := s.on fun d => d

/-- KEY_NEXT (R355): the next epoch's keys, for the named sequence number on. -/
def execKeyNext (_m : RelayMsg) (port : PortId) (atSeq : Nat) (s : State) : Host.Outcome State Fault Refusal :=
  s.on fun d =>
    if d.keyed port && d.role port == 2 then
      d.modRly port fun r => { r with keyNext := some (r.keyEpoch + 1, atSeq) }
    else d

/-! ### Roll calls (R372 to R376) -/

/-- HELLO (R372): a member's Relay-down reached KEYED. -/
def execHello (m : RelayMsg) (s : State) : Host.Outcome State Fault Refusal :=
  s.on fun d => d.fromDown m 0x62 [] id fun d => (d.rollCall false).endRoll

/-- ROLL_CALL_WAIT_EXPIRY (R374): the member returns as tail, with BREAK. -/
def execRollCallWaitExpiry (s : State) : Host.Outcome State Fault Refusal :=
  s.on fun d =>
    match d.chain.waiting with
    | some t =>
      if d.live && decide (t ≤ d.now) then
        d.returnRoll ⟨true, d.fld Fld.rlyChainSts_epoch, d.chainId + 1, d.flag Fld.rlyChainCtl_policy, true, false, []⟩
      else d
    | none => d

/-- ROLL_CALL_RETURN_TIMEOUT (R374): once again, then Relay-down counts as broken. -/
def execRollCallReturnTimeout (s : State) : Host.Outcome State Fault Refusal :=
  s.on fun d =>
    match d.chain.rolling with
    | some (t, again) =>
      if d.live && decide (t + 2048 ≤ d.now) then
        if !again then (d.rollCall true).endRoll
        else
          let d := { d with chain := { d.chain with rolling := none } }
          let d := match d.chain.rollCmd with
            | some i => ({ d with chain := { d.chain with rollCmd := none } }).complete i 0xC060 rcInternal []
            | none => d
          match d.relayDown with | some p => d.breakLink p 0 | none => d
      else d
    | none => d

/-- The body of XT_CHAIN_ROLLCALL. -/
def bodyChainRollcall (i : Iface) (p : Payload) (d : Dev) : Dev :=
  d.vendor i 0xC060 p 0 fun _ d =>
    if !d.isHead then d.complete i 0xC060 rcInvalidInput []
    else if d.chain.rollCmd.isSome then d.complete i 0xC060 rcBusy []
    else (({ d with chain := { d.chain with rollCmd := some i } }).longRun i 0xC060).rollCall false |>.endRoll

/-- XT_CHAIN_ROLLCALL (R372, R394). -/
def execXtChainRollcall (i : Iface) (p : Payload) (s : State) : Host.Outcome State Fault Refusal :=
  s.on fun d => d.mailbox i (.xtChainRollcall i p) 0xC060 (bodyChainRollcall i p)

/-- A member record's 24 bytes (R373). -/
def memberBytes (r : MemberRec) : Payload :=
  [BitVec.ofNat 8 r.id, BitVec.ofNat 8 r.mode, BitVec.ofNat 8 (bitOf r.erasing + 2 * bitOf r.x8), BitVec.ofNat 8 r.nearGib] ++
    leBytes 2 r.dataBlocks ++ leBytes 2 r.farFloor ++ leBytes 16 r.ident.toNat

/-- The body of XT_CHAIN_MAP: 32 bytes for every position from 1 to 7. -/
def bodyChainMap (i : Iface) (p : Payload) (d : Dev) : Dev :=
  d.vendor i 0xC061 p 0 fun _ d =>
    d.complete i 0xC061 rcSuccess ((List.range 7).flatMap fun k =>
      BitVec.ofNat 8 (d.fld (Fld.rlyMember_state (k + 1))) :: List.replicate 7 0 ++
        (match vget none d.chain.members (k + 1) with
          | some r => memberBytes r
          | none => List.replicate 24 0))

/-- XT_CHAIN_MAP (R378, R394). -/
def execXtChainMap (i : Iface) (p : Payload) (s : State) : Host.Outcome State Fault Refusal :=
  s.on fun d => d.mailbox i (.xtChainMap i p) 0xC061 (bodyChainMap i p)

/-! ### Other messages of class MGMT -/

/-- MEMBER_STATE (R375): the record takes the place of the last one; what follows happens at the boundary (R379). -/
def execMemberState (m : RelayMsg) (rec : MemberRec) (s : State) : Host.Outcome State Fault Refusal :=
  s.on fun d => d.fromDown m 0x63 (byteSlots (memberBytes rec)) id fun d =>
    match vget none d.chain.members m.src with
    | some r =>
      let new := { r with mode := rec.mode, erasing := rec.erasing, x8 := rec.x8, farFloor := rec.farFloor }
      ({ d with chain := { d.chain with members := vmod d.chain.members m.src fun _ => some new } }).floorMoved
    | none => d

/-- CUT (R381): on Relay-up, whatever the policy (log entry 41). -/
def execCut (_m : RelayMsg) (s : State) : Host.Outcome State Fault Refusal :=
  s.on fun d => if d.upBrings then d.cutResponse else d

/-- READY (R381): the erase after a cut has ended. -/
def execReady (m : RelayMsg) (s : State) : Host.Outcome State Fault Refusal :=
  s.on fun d => d.fromDown m 0x6C [] id fun d =>
    { d with chain := { d.chain with
        members := vmod d.chain.members m.src fun o => o.map fun (r : MemberRec) => { r with erasing := false } } }

/-- PORT_RESET (R281, R286): open snoops to the named sharers end, and the directory is walked for each. -/
def execPortReset (m : RelayMsg) (sharers : BitVec 16) (s : State) : Host.Outcome State Fault Refusal :=
  s.on fun d => d.fromUp m 0x65 [sharers.setWidth 128] id fun d =>
    ((List.range 16).filter fun i => sharers.getLsbD i).foldl (fun d sh =>
      ((d.home.snoops.filter fun (n : Snoop) => n.sharer == sh).foldl (fun d n => d.snoopReset n) d).walkDirectory sh) d

/-- VIRAL_ON (R347). -/
def execViralOn (m : RelayMsg) (port : PortId) (s : State) : Host.Outcome State Fault Refusal :=
  s.on fun d => d.fromUp m 0x66 [BitVec.ofNat 128 (portIdx port)] id fun d =>
    { d with chain := { d.chain with viralPorts := d.chain.viralPorts ||| BitVec.ofNat 2 (2 ^ portIdx port) } }

/-- VIRAL_OFF (R347). -/
def execViralOff (m : RelayMsg) (port : PortId) (s : State) : Host.Outcome State Fault Refusal :=
  s.on fun d => d.fromUp m 0x67 [BitVec.ofNat 128 (portIdx port)] id fun d =>
    { d with chain := { d.chain with viralPorts := d.chain.viralPorts &&& ~~~(BitVec.ofNat 2 (2 ^ portIdx port)) } }

/-- CMD_RSP (R378): the head completes the command that waits. -/
def execCmdRsp (m : RelayMsg) (rc : BitVec 16) (out : Payload) (s : State) : Host.Outcome State Fault Refusal :=
  s.on fun d => d.fromDown m 0x69 (byteSlots (leBytes 2 rc.toNat ++ out)) id fun d =>
    match d.chain.cmd with
    | some (i, opcode, _) => ({ d with chain := { d.chain with cmd := none } }).complete i opcode rc.toNat out
    | none => d

/-- CMD_RSP_TIMEOUT (R378): 65,536 pours without an answer. -/
def execCmdRspTimeout (s : State) : Host.Outcome State Fault Refusal :=
  s.on fun d =>
    match d.chain.cmd with
    | some (i, opcode, t) =>
      if d.live && decide (t + 65536 ≤ d.now) then
        ({ d with chain := { d.chain with cmd := none } }).complete i opcode rcInternal []
      else d
    | none => d

/-- EVENT (R378, R473): a member's record enters the head's ring with FROM_MEMBER set. -/
def execEvent (m : RelayMsg) (record : EventRec) (s : State) : Host.Outcome State Fault Refusal :=
  s.on fun d => d.fromDown m 0x6A (recordSlots record) id fun d => d.writeRec { record with fromMember := true }

/-- LINK_BROKEN (R382): the position behind the reporting member is lost. -/
def execLinkBroken (m : RelayMsg) (reporter cause : Byte) (s : State) : Host.Outcome State Fault Refusal :=
  s.on fun d => d.fromDown m 0x6B [BitVec.ofNat 128 (reporter.toNat + cause.toNat * 256)] id fun d =>
    d.findLoss (reporter.toNat + 1) .linkBroken

/-! ### Appearance (R379, R380) -/

/-- Sets the member register of a position from its record. -/
def Dev.showMember (d : Dev) (m : Nat) (r : MemberRec) : Dev :=
  (((d.setFld (Fld.rlyMember_mode m) r.mode).setFlag (Fld.rlyMember_x8 m) r.x8).setFld (Fld.rlyMember_near m) r.nearGib).setFld
    (Fld.rlyMember_blocks m) r.dataBlocks

/-- What a roll call found at a position (R375, R379): a device appears where none was, or where the last one was lost; a missing
or other one is a loss. -/
def Dev.rollPosition (d : Dev) (recs : List MemberRec) (m : Nat) : Dev :=
  let found := recs.find? fun (r : MemberRec) => r.id == m
  let st := d.fld (Fld.rlyMember_state m)
  let old := vget none d.chain.members m
  let present := fun (d : Dev) (r : MemberRec) (new : Bool) =>
    let up := if new then vmod d.chain.pendingUp m fun _ => true else d.chain.pendingUp
    let d := { d with chain := { d.chain with members := vmod d.chain.members m fun _ => some r, pendingUp := up } }
    d.floorMoved.showMember m r
  match found with
  | some r =>
    if st = 0 ∨ st = 3 then (present d r true).setFld (Fld.rlyMember_state m) 1
    else if old.map (·.ident) == some r.ident then present d r false
    else d.findLoss m .rollCall
  | none => if st = 3 then d.setFld (Fld.rlyMember_state m) 0 else if st = 0 then d else d.findLoss m .rollCall

/-- A member's capacity appears (R380): the event, the CDAT, and the automatic offer where it is asked for and the region takes it. -/
def Dev.appear (d : Dev) (m : Nat) : Dev :=
  let t := tenantId (d.fld Fld.rlyChainCtl_autoTnt)
  let region := d.fld Fld.rlyChainCtl_autoRegion
  let auto := d.flag Fld.rlyChainCtl_auto
  let fits := (vget (⟨0, 0, 0⟩ : DcRegion) (d.tenant t).regions region).medium == 2 && d.tntState t == 1
  let d := { d with chain := { d.chain with pendingUp := vmod d.chain.pendingUp m fun _ => false } }
  let d := d.raiseN 0x1A6 [word1 m, word1 (bitOf (auto && !fits))]
  let d := d.floorMoved.cdatPort .a
  if auto && fits then
    let words := (d.freeMember m).map fun b => mkExt true false false m true b
    let entries := d.freeRegionEntries t region
    let n := min entries.length words.length
    if n = 0 then d else d.offer t region 0 (entries.take n) (words.take n)
  else d

/-- What a boundary does for a position: serving or not by its record. -/
def Dev.memberBoundary (d : Dev) (m : Nat) : Dev :=
  match vget none d.chain.members m with
  | none => d
  | some r =>
    let d := d.showMember m r
    let st := d.fld (Fld.rlyMember_state m)
    let serves := !r.erasing && (r.mode == 5 || r.mode == 6)
    if st = 1 ∧ serves then
      let d := d.setFld (Fld.rlyMember_state m) 2
      if vget false d.chain.pendingUp m then d.appear m else d
    else if st = 2 ∧ ¬ serves ∧ ¬ (r.mode = 7 ∧ r.erasing = false) then d.setFld (Fld.rlyMember_state m) 1
    else d

/-- The result of a roll call, at the boundary behind it. -/
def Dev.rollResult (d : Dev) : Dev :=
  match d.chain.result with
  | some recs =>
    let d := { d with chain := { d.chain with result := none } }
    (List.range 7).foldl (fun d k => d.rollPosition recs (k + 1)) d
  | none => d

/-- A member reports a change of MODE, FLAGS or FAR_FLOOR (R375). -/
def Dev.reportState (d : Dev) : Dev :=
  match d.chain.stateSent with
  | some o =>
    let me := d.ownRecord
    if d.isMember && d.flag Fld.rlyChainSts_idv &&
        (me.mode != o.mode || me.erasing != o.erasing || me.x8 != o.x8 || me.farFloor != o.farFloor) then
      ({ d with chain := { d.chain with stateSent := some me } }).sendUp (d.mgmtMsg 0 2) 0x63 (byteSlots (memberBytes me))
    else d
  | none => d

/-- Lost blocks leave the list once no table entry names them (R379). -/
def Dev.pruneLost (d : Dev) : Dev :=
  if d.chain.lost.isEmpty then d
  else
    let named := fun (b : Nat × Nat) => d.ext.any fun (e : Nat × Word) =>
      !d.extRetire.contains e.1 && extFar e.2 && extMember e.2 == b.1 && extBlock e.2 == b.2
    { d with chain := { d.chain with lost := d.chain.lost.filter named } }

/-- New link keys are due after 2³² flits in either direction (R355). -/
def Dev.keysDue (d : Dev) : Dev :=
  match d.relayDown with
  | some p =>
    let r := d.rlyOf p
    if 2 ^ 32 ≤ r.txNext - r.keyTx ∨ 2 ^ 32 ≤ r.rxNext - r.keyRx then d.newLinkKeys else d
  | none => d

/-- What a boundary does for the chain. -/
def Dev.relayBoundary (d : Dev) : Dev :=
  let d := (d.holdBoundary .a).holdBoundary .b
  if !d.live then d
  else
    let d := if d.isHead then (List.range 7).foldl (fun d k => d.memberBoundary (k + 1)) d.rollResult else d
    (d.reportState.pruneLost).keysDue

/-! ### Loss (R382) -/

/-- The code of a loss's cause in the event. -/
def lossCode : LossCause → Nat
  | .relayDown => 0
  | .linkBroken => 1
  | .holdOut => 2
  | .rollCall => 3

/-- Completes what was forwarded to members from position k on; counts reads with atomics, and dropped writes. -/
def Dev.dropForwarded (d : Dev) (k : Nat) : Nat × Nat × Dev :=
  (d.txns.filter fun x => x.phase == .relayed && decide (k ≤ maMember x.ma)).foldl (fun (r, w, d) x =>
    if x.op.isWrite then (r, w + 1, (d.logDrop (BitVec.ofNat 16 (maMember x.ma * 2 ^ 13)) x.ma).finish x .cmp)
    else (r + 1, w, d.finishPoisoned x)) (0, 0, d)

/-- Removes the dynamic-capacity extents on members from position k on; counts them. -/
def Dev.dropMemberExtents (d : Dev) (k : Nat) : Nat × Dev :=
  allTenants.foldl (fun (n, d) t =>
    let gone := (d.tenant t).dc.filter fun (e : DcExtent) => decide (k ≤ extMember (d.extAt e.entry))
    let blocks := gone.map (d.dcBlock t)
    let d := gone.foldl (fun d e => d.dropExtent t e) d
    (n + gone.length, if gone.isEmpty then d else d.emit (.dcEvent (d.tntPort t) (d.tntLd t) 2 blocks))) (0, d)

/-- Puts the static blocks on members from position k on into the lost-block list, and their DPA ranges into the poison lists;
counts the blocks. -/
def Dev.loseStatic (d : Dev) (k : Nat) : Nat × Dev :=
  allTenants.foldl (fun (n, d) t =>
    let words := (d.extWords t).zipIdx.filter fun (e : Word × Nat) =>
      extV e.1 && extFar e.1 && decide (k ≤ extMember e.1) && !d.chain.lost.contains (extMember e.1, extBlock e.1)
    words.foldl (fun (n, d) (e : Word × Nat) =>
      let d := { d with chain := { d.chain with lost := d.chain.lost ++ [(extMember e.1, extBlock e.1)] } }
      (n + 1, d.listLines (d.tntPort t) (d.tntLd t) (e.2 * 2 ^ 22) (2 ^ 22) .vendor)) (n, d)) (0, d)

/-- MEMBER_LOSS (R382): the boundary behind the loss that was found. -/
def Dev.edgeMemberLoss (k : Fin 8) (cause : LossCause) (d : Dev) : Dev :=
    if d.live && d.isHead && d.chain.lossDue == some (k.val, cause) then
      let gone := (List.range 8).filter fun m => decide (k.val ≤ m ∧ 1 ≤ m) && d.fld (Fld.rlyMember_state m) != 0
      let d := { d with chain := { d.chain with lossDue := none } }
      let (reads, writes, d) := d.dropForwarded (max 1 k.val)
      let (exts, d) := d.dropMemberExtents (max 1 k.val)
      let (blocks, d) := d.loseStatic (max 1 k.val)
      let d := gone.foldl (fun d m => d.setFld (Fld.rlyMember_state m) 3) d
      let d := { d with chain := { d.chain with
        members := Vector.ofFn fun (m : Fin 8) => if gone.contains m.val then none else d.chain.members[m]
        pendingUp := Vector.ofFn fun (m : Fin 8) => if gone.contains m.val then false else d.chain.pendingUp[m] } }
      let d := if gone.isEmpty then d else
        d.raiseN 0x1A7 [word1 k.val, word1 (lossCode cause), word1 reads, word1 writes, word1 exts, word1 blocks]
      ((d.floorMoved.cdatPort .a).rollCall false).endRoll
    else d

end Sys2Proof.Machine
end

