-- ==== Sys2Proof/Machine/Time.lean ====
section
/-! DEFINITION. Sys2Proof/Machine/Time.lean: the last cycle of a pour and the pour boundary (R14, R15, R24 to R30, R298, R305), slot
accounts (R442, R443), the window of guarantees (R30, R301), the steps of Barista with the commands that wait (R398), a member's
forwarded command (R378), and one core cycle (log entry 2). -/

namespace Sys2Proof.Machine

/-! ### Commands that wait (R390, R398) -/

/-- The body of a mailbox command. -/
def runCmd (c : Instr) (d : Dev) : Dev :=
  match c with
  | .xtIdentify i p => bodyIdentify i p d
  | .xtStageCheck i p => bodyStageCheck i p d
  | .xtStageCommit i p => bodyStageCommit i p d
  | .xtStageAbort i p => bodyStageAbort i p d
  | .xtTenantCreate i p => bodyTenantCreate i p d
  | .xtTenantResize i p => bodyTenantResize i p d
  | .xtTenantReset i p => bodyTenantEnd false i p d
  | .xtTenantDestroy i p => bodyTenantEnd true i p d
  | .xtRekeyStart i p => bodyRekeyStart i p d
  | .xtRekeyStatus i p => bodyRekeyStatus i p d
  | .xtBistRun i p => bodyBistRun i p d
  | .xtRepairSoft i p => bodyRepairSoft i p d
  | .xtRepairFuse i p => bodyRepairFuse i p d
  | .xtCanisterStore i p => bodyCanisterStore i p d
  | .xtCanisterLoad i p => bodyCanisterLoad i p d
  | .xtCanisterErase i p => bodyCanisterErase i p d
  | .xtChainRollcall i p => bodyChainRollcall i p d
  | .xtChainMap i p => bodyChainMap i p d
  | .xtCremaPin i p => bodyCremaPin i p d
  | .xtCremaFlush i p => bodyCremaFlush i p d
  | .xtNearSize i p => bodyNearSize i p d
  | .xtPressPolicy i p => bodyPressPolicy i p d
  | .xtPressCompact i p => bodyPressCompact i p d
  | .xtInletClear i p => bodyInletClear i p d
  | .xtFwStage i p => bodyFwStage i p d
  | .xtFwActivate i p => bodyFwActivate i p d
  | .xtBrewAbort i p => bodyBrewAbort i p d
  | .sanitize i ld => bodySanitize i ld d
  | .secureErase i ld => bodySecureErase i ld d
  | .scanMedia i ld => bodyScanMedia i ld d
  | .injectPoison i ld dpa => bodyInjectPoison i ld dpa d
  | .clearPoison i ld dpa data => bodyClearPoison i ld dpa data d
  | .getPoisonList i ld => bodyGetPoisonList i ld d
  | .requestAbortBackgroundOperation i => bodyRequestAbort i d
  | .getFwInfo i => bodyGetFwInfo i d
  | .transferFw i slot off last bytes => bodyTransferFw i slot off last bytes d
  | .activateFw i slot now => bodyActivateFw i slot now d
  | .addDynamicCapacityResponse port ld accepted => bodyAddResponse port ld accepted d
  | .releaseDynamicCapacity port ld blocks => bodyReleaseDc port ld blocks d
  | _ => d

/-- The vendor command of an opcode (R394). -/
def vendorCmd (opcode : Nat) (i : Iface) (p : Payload) : Option Instr :=
  match opcode with
  | 0xC000 => some (.xtIdentify i p)
  | 0xC010 => some (.xtStageCheck i p)
  | 0xC011 => some (.xtStageCommit i p)
  | 0xC012 => some (.xtStageAbort i p)
  | 0xC020 => some (.xtTenantCreate i p)
  | 0xC021 => some (.xtTenantResize i p)
  | 0xC022 => some (.xtTenantReset i p)
  | 0xC023 => some (.xtTenantDestroy i p)
  | 0xC030 => some (.xtRekeyStart i p)
  | 0xC031 => some (.xtRekeyStatus i p)
  | 0xC040 => some (.xtBistRun i p)
  | 0xC041 => some (.xtRepairSoft i p)
  | 0xC042 => some (.xtRepairFuse i p)
  | 0xC050 => some (.xtCanisterStore i p)
  | 0xC051 => some (.xtCanisterLoad i p)
  | 0xC052 => some (.xtCanisterErase i p)
  | 0xC060 => some (.xtChainRollcall i p)
  | 0xC061 => some (.xtChainMap i p)
  | 0xC070 => some (.xtCremaPin i p)
  | 0xC071 => some (.xtCremaFlush i p)
  | 0xC072 => some (.xtNearSize i p)
  | 0xC080 => some (.xtPressPolicy i p)
  | 0xC081 => some (.xtPressCompact i p)
  | 0xC090 => some (.xtInletClear i p)
  | 0xC0A0 => some (.xtFwStage i p)
  | 0xC0A1 => some (.xtFwActivate i p)
  | 0xC0F0 => some (.xtBrewAbort i p)
  | _ => none

/-- Runs commands that wait, in doorbell order, while Barista is free for one; at most `n`. HALT answers those that it does not accept
(R392). -/
def Dev.runWaits (d : Dev) : Nat → Dev
  | 0 => d
  | n + 1 =>
    match d.mb.waits with
    | [] => d
    | (i, c) :: rest =>
      if d.mb.running.isEmpty && !d.mb.stepDue && d.mb.state == .running && (d.live || d.mode == .halt) then
        let op := d.fld (Fld.mboxCmdSts_opcode (ifaceIdx i))
        let d := ({ d with mb := { d.mb with waits := rest } }).setFlag (Fld.mboxCmdSts_queued (ifaceIdx i)) false
        let d := if d.mode == .halt && !haltOps.contains op then d.complete i op rcMediaDisabled [] else runCmd c d
        Dev.runWaits d n
      else d

/-- CMD (R378): the member's Barista runs a vendor command, as interface 0 (log entry 19). -/
def execCmd (m : RelayMsg) (opcode : BitVec 16) (p : Payload) (s : State) : Host.Outcome State Fault Refusal :=
  s.on fun d => d.fromUp m 0x68 (byteSlots (leBytes 2 opcode.toNat ++ p)) id fun d =>
    match vendorCmd opcode.toNat .portA p with
    | some c => d.mailbox .portA c opcode.toNat (runCmd c)
    | none => d.complete .portA opcode.toNat rcUnsupported []

/-! ### Slot accounts (R140, R152, R442, R443, R523) -/

/-- Is a scheduler's clock running? -/
def Dev.slotClocked (d : Dev) (s : Nat) : Bool :=
  if d.mode == .hibernate && d.wokenFor.isNone then false
  else if s < 64 then decide (d.crmRole (s / 2) ≤ 2) && d.domState (2 + quadrantOf (s / 2)) != 2
  else
    let c := (s - 64) / 2
    let st := d.fld (Fld.farChSts_state c)
    d.flag (Fld.farChSts_inSet c) && st != 3 && st != 4 && d.domState (6 + c / 2) != 2

/-- The slots of a pour in which a scheduler may retire data: THR eighths under a throttle that reaches it. -/
def Dev.dataSlots (d : Dev) (s : Nat) : Nat :=
  let both := d.flag Fld.crmThermSts_throtDie || d.flag Fld.pwrSts_capped
  let own := if s < 64 then d.flag Fld.crmThermSts_throtStack else d.flag (Fld.farChSts_hot ((s - 64) / 2))
  if both || own then min 512 (64 * d.fld Fld.crmThermCtl_thr) else 512

/-- Places the charges that `p` picks into `room` slots, in order: what was placed by WASTE event, what is left, and the room left. -/
def placeCharges (p : Charge → Bool) : Nat → List Charge → List (Nat × Nat) × List Charge × Nat
  | room, [] => ([], [], room)
  | room, c :: rest =>
    let n := if p c then min room c.slots else 0
    let (a, b, r) := placeCharges p (room - n) rest
    (if n = 0 then a else (c.ev, n) :: a, if p c && n == c.slots then b else { c with slots := c.slots - n } :: b, r)

/-- Carried refresh and neighbour refresh, which go ahead of all traffic (R29). -/
def Charge.urgent (c : Charge) : Bool := c.carried && (c.ev == 0x018 || c.ev == 0x019)

/-- Notes `n` overruns of a kind: its bit of `GLB_OVR_STS` and its event (R28, R31). -/
def Dev.overrun (d : Dev) (bit n : Nat) : Dev :=
  if n = 0 then d else (d.setReg Off.glbOvrSts (d.reg Off.glbOvrSts ||| BitVec.ofNat 32 (2 ^ bit))).count (0x040 + bit) n

/-- One pour of a scheduler's 512 slots. Carried refresh takes its slots first, then class G, then other carried work, then the other
classes (R29); every other charge takes what is left of the data (R442). What is left then is back-stalled while something waits,
else front-starved. -/
def Dev.slotPour (d : Dev) (s : Nat) : Dev :=
  let x := d.slotSet s
  if !d.slotClocked s then (if x.refs = 0 then d else d.modSlots s fun y => { y with refs := 0 })
  else
    let limit := d.dataSlots s
    let (a, left, room) := placeCharges Charge.urgent 512 x.charges
    let g := min x.gBeats (min room limit)
    let (b, left, room) := placeCharges (·.carried) (room - g) left
    let r := min x.beats (min room (limit - g))
    let (c, left, room) := placeCharges (fun _ => true) (room - r) left
    let placed := a ++ b ++ c
    let w := (placed.map (·.2)).sum
    let queue := d.queueOf s
    let back := if queue.isEmpty && decide (x.gBeats + x.beats ≤ g + r) then 0 else room
    let d := d.modSlots s fun y =>
      { y with retired := y.retired + (g + r), wasted := y.wasted + w, back := y.back + back, front := y.front + (room - back),
               gBeats := y.gBeats - g, beats := y.beats - r, charges := left, refs := 0 }
    let chid := some (if s < 64 then d.cremaChid (s / 2) else d.farChid ((s - 64) / 2))
    let d := d.countAs 0x010 (g + r) chid none none
    let d := d.countAs 0x011 w chid none none
    let d := d.countAs 0x012 (room - back) chid none none
    let d := d.countAs 0x013 back chid none none
    let d := placed.foldl (fun d (e : Nat × Nat) => d.countAs e.1 e.2 chid none none) d
    if !a.isEmpty && (decide (0 < x.gBeats) || queue.any (·.cls == .g)) then
      ({ d with due := { d.due with gslot := true } }).overrun 6 1
    else d

/-! ### What a pour gives background work and traffic by its end (R27, R130, R132, R137, R151, R155, R160) -/

/-- The refresh commands of the pour that none has brought yet. -/
def Dev.issueRefresh (d : Dev) : Dev :=
  let d := (List.range 64).foldl (fun d pc =>
    if d.cremaRefreshes (pc / 2) then
      (List.range (d.cremaQuota - (d.slotSet pc).refs)).foldl (fun d _ => d.cremaRefreshCmd pc) d
    else d) d
  (List.range 16).foldl (fun d i =>
    let (c, sub) := (i / 2, i % 2)
    if d.farAwake c then
      (List.range (d.farQuota c - (d.slotSet (64 + i)).refs)).foldl (fun d _ => d.farRefreshCmd c sub) d
    else d) d

/-- Puts the charge of one neighbour refresh; one that was carried stays ahead of all traffic. -/
def Dev.wasteNbr (d : Dev) (s n : Nat) : Dev :=
  d.modSlots s fun x => { x with charges := x.charges ++ [⟨0x019, n, decide (0 < x.late)⟩], late := x.late - 1 }

/-- Serves one neighbour refresh of a pseudo-channel. -/
def Dev.serveCremaNbr (d : Dev) (pc : Nat) : Dev :=
  match Sparse.get [] d.crm.nbr pc with
  | [] => d
  | _ :: rest =>
    let d := { d with crm := { d.crm with nbr := Sparse.put [] d.crm.nbr pc rest } }
    (d.wasteNbr pc 8).modSlots pc fun x => { x with late := rest.length }

/-- Serves two neighbour refreshes or RFM commands of a far subchannel. -/
def Dev.serveFarNbr (d : Dev) (c sub : Nat) : Dev :=
  let mine := fun (e : Nat × Nat × Bool) => e.1 / 2 ^ 9 % 2 == sub
  let q := (d.fch c).nbr.filter mine
  if q.isEmpty then d
  else
    let d := d.modFch c fun f => { f with nbr := f.nbr.filter (fun e => !mine e) ++ q.drop 2 }
    let s := 64 + 2 * c + sub
    let d := (q.take 2).foldl (fun d (e : Nat × Nat × Bool) => d.wasteNbr s (if e.2.2 then 8 else 16)) d
    d.modSlots s fun x => { x with late := q.length - 2 }

/-- Neighbour refreshes of the pour, and the slots of a re-centring step. -/
def Dev.backgroundPour (d : Dev) : Dev :=
  let d := d.crm.nbr.keys.foldl (fun d pc => d.serveCremaNbr pc) d
  (List.range 8).foldl (fun d c =>
    let d := (d.serveFarNbr c 0).serveFarNbr c 1
    if (d.fch c).recentre.isSome then (d.waste (64 + 2 * c) 0x01C 5).waste (65 + 2 * c) 0x01C 5 else d) d

/-- Has a scheduler slots left for data in this pour? -/
def Dev.hasSlots (d : Dev) (s n : Nat) : Bool :=
  let x := d.slotSet s
  d.slotClocked s && decide (x.gBeats + x.beats + n ≤ d.dataSlots s)

/-- The schedulers issue what waits, in their order, while the pour has slots for it. -/
def Dev.issueAll (d : Dev) : Dev :=
  d.sched.keys.foldl (fun d s => d.issueWhile s (fun d => d.hasSlots s 4) (d.queueOf s).length) d

/-- The banks and rows of a frame's lines on one pseudo-channel, each once. -/
def Dev.frameRows (d : Dev) (g half : Nat) : List (Nat × Nat) :=
  (List.range 32).foldl (fun (a : List (Nat × Nat)) i =>
    let l := 2 * i + half
    let r := (d.cremaBankOf g l, cremaRowOf g l)
    if a.contains r then a else a ++ [r]) []

/-- One frame of a rotation's copy (R137), of class S: it yields to whatever waits on one of the four schedulers. It pauses while a
DRAIN leads to HIBERNATE, and in HIBERNATE (R138). -/
def Dev.copyFrame (d : Dev) : Dev :=
  match d.crm.rot with
  | some r =>
    let dest := d.fld Fld.glbModeSts_drainDest
    let paused := d.mode == .hibernate || d.mode == .drain && (dest == 3 || dest == 4)
    let src := r.source.val
    let sp := d.fld Fld.crmSts_spare
    let pcs := [(src, 0), (src, 1), (sp, 0), (sp, 1)]
    if r.phase == 0 && decide (r.pointer < d.chFrames) && !paused &&
        pcs.all (fun p => let s := 2 * p.1 + p.2; (d.queueOf s).isEmpty && d.hasSlots s 128) then
      let g := r.pointer * 31 + d.fld (Fld.crmChSts_logical src)
      let d := pcs.foldl (fun d p =>
        let s := 2 * p.1 + p.2
        ((d.frameRows g p.2).foldl (fun d (x : Nat × Nat) => d.cremaActivate s x.1 x.2) d).beats s false 128) d
      let n := r.pointer + 1
      (d.modRot fun r => { r with pointer := n }).setFld Fld.crmRotSts_pointer n
    else d
  | none => d

/-- Cycle 511: what the pour still owes is issued, its slots are counted, the windows close, and a snapshot that was asked for is taken
(R24, R25, R427). After a HALT only the counters go on (R487). -/
def Dev.lastCycle (d : Dev) : Dev :=
  let d := if d.live && d.mode != .hibernate then d.issueRefresh.backgroundPour.issueAll.copyFrame else d
  let d := if d.live then (List.range 80).foldl (fun d s => d.slotPour s) d else d
  ((d.count 0x000 512).count 0x001 1).closeBw.snapshot

/-! ### The PMU at a boundary (R440, R441, R448) -/

/-- A new selection of a general counter takes force: the counter and its OVF clear. -/
def Dev.selectCtr (d : Dev) (n : Nat) : Dev :=
  let c : Ctr := { sel := d.reg (Off.pmuEvsel n), scope := d.reg (Off.pmuScope n), val := 0, ovf := false }
  { d with pmu := { d.pmu with ctrs := Sparse.put Ctr.none d.pmu.ctrs n c } }

/-- Takes OVF off a count that has passed 48 bits. -/
def Slots.noOvf (s : Slots) : Slots :=
  { s with retired := s.retired % 2 ^ 48, wasted := s.wasted % 2 ^ 48, back := s.back % 2 ^ 48, front := s.front % 2 ^ 48 }

/-- What a boundary does for the PMU. -/
def Dev.pmuBoundary (d : Dev) : Dev :=
  let d := d.pmu.selDirty.keys.foldl (fun d n => d.selectCtr n) d
  let gen := d.pmu.clrGen
  let ovf := d.pmu.clrOvf
  let dirty := d.pmu.histDirty
  let one := fun (c : Ctr) => { c with val := if gen then 0 else c.val, ovf := c.ovf && !ovf }
  let frozen := d.flag Fld.pmuCtl_freeze
  let ctl := fun (h : Nat) => d.reg (Off.pmuHistCtl h)
  let hist := fun (i : Fin 4) (h : Hist) =>
    if dirty.getLsbD i.val then { Hist.reset with ctl := ctl i.val }
    else if ovf then { h with count := h.count % 2 ^ 48, sum := h.sum % 2 ^ 48 } else h
  let hists := Vector.ofFn fun (i : Fin 4) => hist i d.pmu.hists[i]
  { d with pmu := { d.pmu with
      ctrs := d.pmu.ctrs.map fun (e : Nat × Ctr) => (e.1, one e.2)
      frozen := frozen, clrGen := false, clrOvf := false, selDirty := [], histDirty := 0, hists := hists
      slots := if ovf then d.pmu.slots.map fun (e : Nat × Slots) => (e.1, e.2.noOvf) else d.pmu.slots
      lines := if ovf then d.pmu.lines.map fun (e : Nat × Nat) => (e.1, e.2 % 2 ^ 48) else d.pmu.lines } }

/-! ### The boundary (R14, R15, R24, R28) -/

/-- Work that the pour has not done is carried (R28): every charge left, and the neighbour refreshes left in the queues. -/
def Dev.carryAt (d : Dev) (s : Nat) : Dev :=
  let x := d.slotSet s
  if !d.slotClocked s || (x.charges.isEmpty && x.late == 0) then d
  else
    let d := d.modSlots s fun y => { y with charges := y.charges.map fun c => { c with carried := true } }
    (List.range 5).foldl (fun d i =>
      d.overrun i ((x.charges.filter fun c => c.ev == 0x018 + i).length + if i = 1 then x.late else 0)) d

/-- Work carried into the pour that begins. -/
def Dev.carry (d : Dev) : Dev := d.pmu.slots.keys.foldl (fun d s => d.carryAt s) d

/-- A mode change that falls due here, unless this boundary has changed the mode. -/
def Dev.unlessMoved (d : Dev) (f : Dev → Dev) : Dev := if d.due.modeAt = some d.now then d else f d

/-- Losses that fall due together, the one with the lowest event number first (R484). -/
def Dev.losses (d : Dev) : Dev :=
  let d := d.crm.lossDue.foldl (fun d c => d.edgeCremaChannelLoss c) d
  let d := match d.due.degrade with
    | some n => ({ d with due := { d.due with degrade := none } }).degrade n
    | none => d
  let d := d.prs.lossDue.foldl (fun d e => d.edgePressEngineLoss e) d
  (List.range 8).foldl (fun d c => d.edgeFarChannelLoss (Fin.ofNat 8 c)) d

/-- The step of DRAIN that follows, at a boundary behind the last one (R55). -/
def Dev.drainStepDue (d : Dev) : Dev :=
  if d.mode == .drain && decide (d.due.drainAt < d.now) then
    match d.due.drainStep with
    | 1 => d.edgeDrainLastTransactionClosed
    | 3 => d.edgeDrainPauseBoundary
    | 4 => d.edgeDrainDestinationAction
    | _ => d
  else d

/-- Channels that wake, or fall asleep, here (R41, R52, R53). A rekey that waits wakes every channel. -/
def Dev.sleepChanges (d : Dev) : Dev :=
  let d := match d.cry.rekey with | some r => if r.phase == RekeyPhase.requested then d.wakeAll 1 else d | none => d
  let d := d.unlessMoved Dev.leaveDrowse
  (List.range 8).foldl (fun d c =>
    let due := match (d.fch c).wakeBy with | some p => decide (p ≤ d.now) | none => false
    let d := if due then d.edgeChannelWake (Fin.ofNat 8 c) else d
    d.unlessMoved fun d => d.edgeDrowseIdleExpiry (Fin.ofNat 8 c)) d

/-- The wake from HIBERNATE (R59, R60). -/
def Dev.wakeChanges (d : Dev) : Dev :=
  let d := if d.due.wake && d.mode == .hibernate && d.fld Fld.glbModeSts_drainDest == 3 then
      let now := d.now
      { d with due := { d.due with wake := false, wakeAt := some (d.due.wakeAt.getD now) } }
    else d
  d.edgeThermalWakeCountExpiry.wakeStep.edgeWakeComplete

/-- Changes that originate in hardware take effect (R15, R24): decoder commits, temperature, refresh modes, losses, and the changes of
mode that need no software. -/
def Dev.hardwareChanges (d : Dev) : Dev :=
  let d := d.commitDecoders.thermalBoundary.mr4Boundary
  let d := d.edgeDoubledRefreshRelease.edgeStackThrottleRelease.edgeDieThrottleRelease.edgePowerCapRelease
  let d := d.losses
  let d := if d.due.thermal then d.unlessMoved fun d => ({ d with due := { d.due with thermal := false } }).thermalTrip else d
  let d := (List.range 8).foldl (fun d c => d.unlessMoved fun d => d.edgeDimmHotDrain (Fin.ofNat 8 c)) d
  let d := (((d.unlessMoved Dev.drainStepDue).unlessMoved Dev.wakeChanges).edgeThermalHoldEnd).sleepChanges
  let d := (List.range 8).foldl (fun d c => d.recentreLate c) d
  ((d.unlessMoved Dev.edgeUnitRestored).unlessMoved Dev.edgeAwaitTrigger)

/-- The committed TARGET acts, unless a change from hardware has come first (R15, R45). -/
def Dev.modeRequests (d : Dev) : Dev :=
  let d := d.unlessMoved fun d =>
    d.edgeModeReqDrainReset.edgeModeReqDrainRemoval.edgeModeReqDrainHibernate.edgeModeReqWake.edgeModeReqDrainMaint.edgeModeReqLeaveMaint
  if d.advancing then d else d.takeTarget

/-- Ports, chain, dynamic capacity and retired table entries. -/
def Dev.linkChanges (d : Dev) : Dev :=
  let d := ((d.portBoundary .a).portBoundary .b).dcBoundary
  let d := ({ (d.extRetire.foldl (fun (d : Dev) i => d.setExt i 0) d) with extRetire := [] }).relayBoundary
  let d := (d.edgeLinkDownWritesClosed .a).edgeLinkDownWritesClosed .b
  match d.chain.lossDue with
  | some (k, cause) => d.edgeMemberLoss (Fin.ofNat 8 k) cause
  | none => d

/-- FACTOR, where a floor or the charges moved, and the credit of every guarantee (R298, R305). -/
def Dev.serviceChanges (d : Dev) : Dev :=
  let d := if d.due.factorDirty then ({ d with due := { d.due with factorDirty := false } }).refactor else d
  d.accrueAll

/-- The walks that a pour moves on: rekey (R223 to R226), rebuild (R122, R123), and where a rotation stands (R137). -/
def Dev.walks (d : Dev) : Dev :=
  let d := (List.range 8).foldl (fun d c => d.edgeRekeyPageAdvance (Fin.ofNat 8 c)) d
  let d := d.edgeRekeyDone.edgeSubkeyDerivationDone.rekeyPour
  let ended := match d.crm.rebuilds with | r :: _ => decide (d.chFrames ≤ r.pos) | [] => false
  let d := if ended then d.edgeRebuildWalkEnd else d
  let d := d.crm.rebuilds.foldl (fun d r => d.rebuildStep r) d
  d.sourceDrained.edgeRotationCopyDone

/-- The steps of R85 that fall due, tenant by tenant. -/
def Dev.sequences (d : Dev) : Dev :=
  allTenants.foldl (fun d t =>
    if (d.tenant t).seq.isNone then d else ((d.edgeTenantSequenceEnd t).edgeTenantSquash t).edgeTenantSequenceStart t) d

/-- What else waits for a boundary: NO_SPARE (R499), a reference scan and the seal's scan (R431, R432), a reset's erase (R337), DevLoad
(R342), compaction (R252), sequences (R85), holds (R276), disturbance windows (R156), soft repairs (R165), power domains (R325, R326),
sectors (R241), a lifecycle burn (R452). -/
def Dev.otherChanges (d : Dev) : Dev :=
  let d := if d.crm.newNoSpare then
      ({ d with crm := { d.crm with newNoSpare := false } }).setFlag Fld.crmSts_noSpare false else d
  let d := match d.ras.sealScan with
    | some (_, true) => d.setFlag Fld.glbSealSts_refscan true
    | _ => d
  let d := d.sequences
  let d := allTenants.foldl (fun d t =>
    let d := d.clearAfterReset t
    if d.tntState t = 0 then d
    else
      let load := d.devLoad t
      d.modTenant t fun s => { s with devLoads := (load :: s.devLoads).take 64 }) d
  let d := d.home.holds.foldl (fun d (h : Nat × Nat) => d.edgeHoldExpiry h.1) d
  let d := (List.range 8).foldl (fun d c => (d.edgeDistWindowEnd (Fin.ofNat 8 c)).edgeSoftPprEnd (Fin.ofNat 8 c)) d
  let d := (List.range 12).foldl (fun d n =>
    ((d.edgeFenceOff (Fin.ofNat 12 n)).edgeFenceStuck (Fin.ofNat 12 n)).edgeDomainPowerOnDone (Fin.ofNat 12 n)) d
  d.edgeSectorRelease.edgeSealScanStart.askCompaction.startBurn.mapTested

/-! ### Guarantees over a window (R30, R301) -/

/-- Does one tenant receive a lower fraction of its guarantee than another? -/
def Dev.lowerFraction (d : Dev) (a b : TenantId) : Bool :=
  decide (d.windowLines a * d.guar b < d.windowLines b * d.guar a)

/-- The tenant with the lowest delivered fraction. -/
def Dev.lowest (d : Dev) : List TenantId → Option TenantId
  | [] => none
  | t :: l => match Dev.lowest d l with
    | some u => if d.lowerFraction u t then some u else some t
    | none => some t

/-- EVT_GUARANTEE_BREACH for carried work (R30, R306): resource 111, the FACTOR in force, the tenant with the lowest fraction. -/
def Dev.overrunBreach (d : Dev) : Dev :=
  match d.lowest (d.shortTenants belowBy0p1) with
  | some t =>
    let d := d.raise { num := 0x102, tenant := some t, detail := [word1 (d.fld Fld.svcScaleSts_factor), word1 7] ++ words2 d.now }
    (d.setFlag Fld.svcScaleSts_breach true).setFld Fld.svcScaleSts_resource 7
  | none => d

/-- EVT_GUARANTEE_SHORT for each tenant that falls short (R301). -/
def Dev.reportShort (d : Dev) : Dev :=
  (d.shortTenants belowTolerance).foldl (fun d t =>
    (d.raise { num := 0x104, tenant := some t, detail := [word1 (d.windowLines t)] }).setFlag Fld.svcScaleSts_short true) d

/-- The check of the window that closed last, once, at a pour count that is a multiple of 64 (log entry 78): a shortfall in a window in
which carried work took class-G slots is a breach (R30); one without, at a FACTOR of 1.0, is reported (R301). -/
def Dev.edgeGuaranteeWindowCheck (d : Dev) : Dev :=
  let now := d.now
  if d.live && d.clk.running && decide (now % 64 = 0) && decide (0 < now) && d.due.checkedAt != some now then
    let taken := d.due.gslot
    let d := { d with due := { d.due with gslot := false, checkedAt := some now } }
    if taken then d.overrunBreach
    else if d.fld Fld.svcScaleSts_factor = 65536 then d.reportShort
    else d
  else d

/-! ### Barista's steps (R27, R398) -/

/-- The commands that wait run, then the next step of a brew starts. One step starts or ends in a pour: a start that exceeds this is
carried (R27, R28). -/
def Dev.stepEdge (d : Dev) : Dev :=
  let d := d.runWaits d.mb.waits.length
  let e := d.startStep
  if !d.mb.stepDue && e.mb.stepDue && d.mb.stepAt == some d.now then d.overrun 5 1 else e

/-- The step that runs ends here (R398, R493). -/
def Dev.edgeBrewStepEnd (vddInWindow : Bool) (errs : LineErrs) (d : Dev) : Dev :=
  if d.live && d.mb.state == .running && d.mb.stepDue then (d.endStep vddInWindow errs).stepEdge else d

/-- Cycle 0 of the next pour (R24): the counter moves; what the last pour has left is carried and the CDATs
follow its changes (R341); the commit, `hw`, and the changes from
hardware take effect together, those that need evidence from outside the block as `hw` (log entry 2); then Barista's steps. After a
HALT only its boundary and the counters are left (R487). -/
def Dev.boundary (hw : Dev → Dev) (d : Dev) : Dev :=
  let d := { d with clk := { d.clk with pour := d.clk.pour + 1, cyc := 0 } }
  if !d.live then
    let d := (hw d.pmuBoundary).edgeHaltBoundary
    d.runWaits d.mb.waits.length
  else
    let d := hw d.carry.pmuBoundary.cdatBoundary.edgeCommitTakesEffect
    let d := d.hardwareChanges.modeRequests.linkChanges.serviceChanges
    d.walks.otherChanges.edgeGuaranteeWindowCheck.stepEdge

/-- The rest of the pour passes, up to its last cycle. -/
def Dev.toLast (d : Dev) : Dev :=
  if d.clk.cyc = 511 then d
  else
    let d := if d.clk.cyc = 0 then d.show else d
    (({ d with clk := { d.clk with cyc := 511 } }).retireAged).lastCycle

/-- The rest of the pour passes, and the boundary, at which `hw` takes effect. -/
def Dev.passPour (hw : Dev → Dev) (d : Dev) : Dev := if d.clk.running then d.toLast.boundary hw else d

/-- A change that takes effect at a pour boundary: at the one that the device stands at, or at the next (R14, R24). -/
def Dev.atEdge (f : Dev → Dev) (d : Dev) : Dev := if !d.clk.running || d.clk.cyc == 0 then f d else d.passPour f

/-- The same for a change that falls due at a boundary behind pour `p`. -/
def Dev.atEdgeAfter (p : Nat) (f : Dev → Dev) (d : Dev) : Dev := if p < d.now then d.atEdge f else d.passPour f

/-- The same for a committed TARGET, behind which changes from hardware come first (R15). -/
def Dev.atRequest (f : Dev → Dev) (d : Dev) : Dev := if !d.clk.running || d.clk.cyc == 0 then f d else d.passPour id

/-- POUR_BOUNDARY (R24). -/
def execPourBoundary (s : State) : Host.Outcome State Fault Refusal := s.on fun d => d.passPour id

/-- BREW_STEP_END (R398, R493): the running step ends at a boundary behind the one at which it started. -/
def execBrewStepEnd (vddInWindow : Bool) (s : State) (errs : LineErrs := []) : Host.Outcome State Fault Refusal :=
  s.on fun d =>
    let f := Dev.edgeBrewStepEnd vddInWindow errs
    if !d.mb.stepDue then d else match d.mb.stepAt with
      | some p => d.atEdgeAfter p f
      | none => d.atEdge f

/-- GUARANTEE_WINDOW_CHECK (R30, R301). -/
def execGuaranteeWindowCheck (s : State) : Host.Outcome State Fault Refusal :=
  s.on fun d => d.atEdge Dev.edgeGuaranteeWindowCheck

/-- One core cycle, which passes while no command waits (log entry 2). -/
def Dev.tick (d : Dev) : Dev :=
  if !d.clk.running then d
  else if d.clk.cyc = 511 then d.boundary id
  else
    let d := if d.clk.cyc = 0 then d.show else d
    let d := ({ d with clk := { d.clk with cyc := d.clk.cyc + 1 } }).retireAged
    if d.clk.cyc = 511 then d.lastCycle else d

end Sys2Proof.Machine
end

