-- ==== Sys2Proof/Machine/Edges.lean ====
section
/-! DEFINITION. Sys2Proof/Machine/Edges.lean: the commands that name a change at a pour boundary (R14, R24). Each takes effect at the
boundary that the device stands at, in cycle 0 of a pour; within a pour the rest of the pour passes first, and the change is part of the
boundary (log entry 2). The changes themselves stand with their chapters. -/

namespace Sys2Proof.Machine

/-- FILL_COMPLETE (R37, R38, R47, R329). -/
def execFillComplete (arraysOk : Bool) (s : State) : Host.Outcome State Fault Refusal :=
  s.on (Dev.atEdge (Dev.edgeFillComplete arraysOk))

/-- BOOT_COMPLETE (R38, R47, R401, R458). -/
def execBootComplete (sigFailA sigFailB : Option Nat) (dimms : List (List Dimm)) (s : State) : Host.Outcome State Fault Refusal :=
  s.on (Dev.atEdge (Dev.edgeBootComplete sigFailA sigFailB dimms))

/-- TRAIN_COMPLETE (R38, R50, R158, R170). -/
def execTrainComplete (failed : BitVec 8) (s : State) : Host.Outcome State Fault Refusal :=
  s.on (Dev.atEdge (Dev.edgeTrainComplete failed))

/-- AWAIT_TRIGGER (R40, R38). -/
def execAwaitTrigger (s : State) : Host.Outcome State Fault Refusal :=
  s.on fun d => match d.due.modeAt with
    | some p => d.atEdgeAfter p Dev.edgeAwaitTrigger
    | none => d.atEdge Dev.edgeAwaitTrigger

/-- THERMAL_HOLD_END (R42, R59). -/
def execThermalHoldEnd (s : State) : Host.Outcome State Fault Refusal :=
  s.on (Dev.atEdge Dev.edgeThermalHoldEnd)

/-- MODE_REQ_DRAIN_RESET (R44). -/
def execModeReqDrainReset (s : State) : Host.Outcome State Fault Refusal :=
  s.on (Dev.atRequest Dev.edgeModeReqDrainReset)

/-- MODE_REQ_DRAIN_REMOVAL (R44). -/
def execModeReqDrainRemoval (s : State) : Host.Outcome State Fault Refusal :=
  s.on (Dev.atRequest Dev.edgeModeReqDrainRemoval)

/-- MODE_REQ_DRAIN_HIBERNATE (R44). -/
def execModeReqDrainHibernate (s : State) : Host.Outcome State Fault Refusal :=
  s.on (Dev.atRequest Dev.edgeModeReqDrainHibernate)

/-- MODE_REQ_WAKE (R59, R60). -/
def execModeReqWake (s : State) : Host.Outcome State Fault Refusal :=
  s.on (Dev.atRequest Dev.edgeModeReqWake)

/-- MODE_REQ_DRAIN_MAINT (R44). -/
def execModeReqDrainMaint (s : State) : Host.Outcome State Fault Refusal :=
  s.on (Dev.atRequest Dev.edgeModeReqDrainMaint)

/-- MODE_REQ_LEAVE_MAINT (R38, R44). -/
def execModeReqLeaveMaint (s : State) : Host.Outcome State Fault Refusal :=
  s.on (Dev.atRequest Dev.edgeModeReqLeaveMaint)

/-- DRAIN_LAST_TRANSACTION_CLOSED (R55). -/
def execDrainLastTransactionClosed (s : State) : Host.Outcome State Fault Refusal :=
  s.on fun d => d.atEdgeAfter d.due.drainAt Dev.edgeDrainLastTransactionClosed

/-- DRAIN_PAUSE_BOUNDARY (R55). -/
def execDrainPauseBoundary (s : State) : Host.Outcome State Fault Refusal :=
  s.on fun d => d.atEdgeAfter d.due.drainAt Dev.edgeDrainPauseBoundary

/-- DRAIN_DESTINATION_ACTION (R56). -/
def execDrainDestinationAction (s : State) : Host.Outcome State Fault Refusal :=
  s.on fun d => d.atEdgeAfter d.due.drainAt Dev.edgeDrainDestinationAction

/-- THERMAL_WAKE_COUNT_EXPIRY (R59). -/
def execThermalWakeCountExpiry (s : State) : Host.Outcome State Fault Refusal :=
  s.on (Dev.atEdge Dev.edgeThermalWakeCountExpiry)

/-- WAKE_COMPLETE (R60, R42). -/
def execWakeComplete (s : State) : Host.Outcome State Fault Refusal :=
  s.on (Dev.atEdge Dev.edgeWakeComplete)

/-- DROWSE_IDLE_EXPIRY (R52). -/
def execDrowseIdleExpiry (ch : FarCh) (s : State) : Host.Outcome State Fault Refusal :=
  s.on (Dev.atEdge (Dev.edgeDrowseIdleExpiry ch))

/-- CHANNEL_WAKE (R53, R52, R41). -/
def execChannelWake (ch : FarCh) (s : State) : Host.Outcome State Fault Refusal :=
  s.on (Dev.atEdge (Dev.edgeChannelWake ch))

/-- UNIT_RESTORED (R483). -/
def execUnitRestored (s : State) : Host.Outcome State Fault Refusal :=
  s.on (Dev.atEdge Dev.edgeUnitRestored)

/-- HALT_BOUNDARY (R487). -/
def execHaltBoundary (s : State) : Host.Outcome State Fault Refusal :=
  s.on fun d => match d.ras.haltAt with
    | some (t, _) => d.atEdgeAfter t.pour Dev.edgeHaltBoundary
    | none => d

/-- HOLD_EXPIRY (R276). -/
def execHoldExpiry (line : Nat) (s : State) : Host.Outcome State Fault Refusal :=
  s.on (Dev.atEdge (Dev.edgeHoldExpiry line))

/-- COMMIT_TAKES_EFFECT (R425). -/
def execCommitTakesEffect (s : State) : Host.Outcome State Fault Refusal :=
  s.on fun d => if d.stg.commitPend.isNone then d else if d.clk.running then d.passPour id else d.edgeCommitTakesEffect

/-- TENANT_SEQUENCE_START (R85). -/
def execTenantSequenceStart (t : TenantId) (s : State) : Host.Outcome State Fault Refusal :=
  s.on (Dev.atEdge (Dev.edgeTenantSequenceStart t))

/-- TENANT_SQUASH (R85). -/
def execTenantSquash (t : TenantId) (s : State) : Host.Outcome State Fault Refusal :=
  s.on (Dev.atEdge (Dev.edgeTenantSquash t))

/-- TENANT_SEQUENCE_END (R85). -/
def execTenantSequenceEnd (t : TenantId) (s : State) : Host.Outcome State Fault Refusal :=
  s.on (Dev.atEdge (Dev.edgeTenantSequenceEnd t))

/-- REKEY_START (R223). -/
def execRekeyStart (healthOk : Bool) (s : State) : Host.Outcome State Fault Refusal :=
  s.on (Dev.atEdge (Dev.edgeRekeyStart healthOk))

/-- SUBKEY_DERIVATION_DONE (R223). -/
def execSubkeyDerivationDone (s : State) : Host.Outcome State Fault Refusal :=
  s.on (Dev.atEdge Dev.edgeSubkeyDerivationDone)

/-- REKEY_PAGE_ADVANCE (R225). -/
def execRekeyPageAdvance (ch : FarCh) (s : State) : Host.Outcome State Fault Refusal :=
  s.on (Dev.atEdge (Dev.edgeRekeyPageAdvance ch))

/-- REKEY_DONE (R223). -/
def execRekeyDone (s : State) : Host.Outcome State Fault Refusal :=
  s.on (Dev.atEdge Dev.edgeRekeyDone)

/-- SOFT_REPAIR_ROW_SWAP (R135). -/
def execSoftRepairRowSwap (s : State) (flips : List (List (BitVec 80)) := []) : Host.Outcome State Fault Refusal :=
  s.on (Dev.atEdge (Dev.edgeSoftRepairRowSwap flips))

/-- CREMA_CHANNEL_LOSS (R122, R124). -/
def execCremaChannelLoss (c : CremaCh) (s : State) : Host.Outcome State Fault Refusal :=
  s.on (Dev.atEdge (Dev.edgeCremaChannelLoss c))

/-- REBUILD_WALK_END (R123). -/
def execRebuildWalkEnd (s : State) : Host.Outcome State Fault Refusal :=
  s.on (Dev.atEdge Dev.edgeRebuildWalkEnd)

/-- ROTATION_COPY_DONE (R137). -/
def execRotationCopyDone (s : State) : Host.Outcome State Fault Refusal :=
  s.on (Dev.atEdge Dev.edgeRotationCopyDone)

/-- SUBTREE_REINIT_END (R222). -/
def execSubtreeReinitEnd (s : State) : Host.Outcome State Fault Refusal :=
  s.on (Dev.atEdge Dev.edgeSubtreeReinitEnd)

/-- DOUBLED_REFRESH_RELEASE (R140, R141). -/
def execDoubledRefreshRelease (s : State) : Host.Outcome State Fault Refusal :=
  s.on (Dev.atEdge Dev.edgeDoubledRefreshRelease)

/-- STACK_THROTTLE_RELEASE (R140). -/
def execStackThrottleRelease (s : State) : Host.Outcome State Fault Refusal :=
  s.on (Dev.atEdge Dev.edgeStackThrottleRelease)

/-- DIE_THROTTLE_RELEASE (R140). -/
def execDieThrottleRelease (s : State) : Host.Outcome State Fault Refusal :=
  s.on (Dev.atEdge Dev.edgeDieThrottleRelease)

/-- DIMM_HOT_DRAIN (R152). -/
def execDimmHotDrain (ch : FarCh) (s : State) : Host.Outcome State Fault Refusal :=
  s.on (Dev.atEdge (Dev.edgeDimmHotDrain ch))

/-- DIST_WINDOW_END (R156). -/
def execDistWindowEnd (ch : FarCh) (s : State) : Host.Outcome State Fault Refusal :=
  s.on (Dev.atEdge (Dev.edgeDistWindowEnd ch))

/-- RECENTRING_STEP_END (R160, R161). -/
def execRecentringStepEnd (ch : FarCh) (s : State) : Host.Outcome State Fault Refusal :=
  s.on (Dev.atEdge (Dev.edgeRecentringStepEnd ch))

/-- FAR_CHANNEL_LOSS (R480). -/
def execFarChannelLoss (ch : FarCh) (s : State) : Host.Outcome State Fault Refusal :=
  s.on (Dev.atEdge (Dev.edgeFarChannelLoss ch))

/-- SOFT_PPR_START (R165). -/
def execSoftPprStart (ch : FarCh) (s : State) (flips : List (List (BitVec 80)) := []) : Host.Outcome State Fault Refusal :=
  s.on (Dev.atEdge (Dev.edgeSoftPprStart ch flips))

/-- SOFT_PPR_END (R165). -/
def execSoftPprEnd (ch : FarCh) (s : State) : Host.Outcome State Fault Refusal :=
  s.on (Dev.atEdge (Dev.edgeSoftPprEnd ch))

/-- SECTOR_RELEASE (R241). -/
def execSectorRelease (s : State) : Host.Outcome State Fault Refusal :=
  s.on (Dev.atEdge Dev.edgeSectorRelease)

/-- PRESS_ENGINE_LOSS (R259). -/
def execPressEngineLoss (engine : Fin 4) (s : State) : Host.Outcome State Fault Refusal :=
  s.on (Dev.atEdge (Dev.edgePressEngineLoss engine))

/-- FENCE_OFF (R325). -/
def execFenceOff (n : Fin 12) (s : State) : Host.Outcome State Fault Refusal :=
  s.on (Dev.atEdge (Dev.edgeFenceOff n))

/-- FENCE_STUCK (R325). -/
def execFenceStuck (n : Fin 12) (s : State) : Host.Outcome State Fault Refusal :=
  s.on (Dev.atEdge (Dev.edgeFenceStuck n))

/-- DOMAIN_POWER_ON_DONE (R326). -/
def execDomainPowerOnDone (n : Fin 12) (s : State) : Host.Outcome State Fault Refusal :=
  s.on (Dev.atEdge (Dev.edgeDomainPowerOnDone n))

/-- LINK_DOWN_WRITES_CLOSED (R349). -/
def execLinkDownWritesClosed (port : PortId) (s : State) : Host.Outcome State Fault Refusal :=
  s.on (Dev.atEdge (Dev.edgeLinkDownWritesClosed port))

/-- MEMBER_LOSS (R382). -/
def execMemberLoss (k : Fin 8) (cause : LossCause) (s : State) : Host.Outcome State Fault Refusal :=
  s.on (Dev.atEdge (Dev.edgeMemberLoss k cause))

/-- SEAL_SCAN_START (R431). -/
def execSealScanStart (s : State) : Host.Outcome State Fault Refusal :=
  s.on (Dev.atEdge Dev.edgeSealScanStart)

/-- POWER_CAP_SAMPLE (R523). -/
def execPowerCapSample (deciWatts : Nat) (s : State) : Host.Outcome State Fault Refusal :=
  s.on (Dev.atEdge (Dev.edgePowerCapSample deciWatts))

/-- POWER_CAP_RELEASE (R523). -/
def execPowerCapRelease (s : State) : Host.Outcome State Fault Refusal :=
  s.on (Dev.atEdge Dev.edgePowerCapRelease)

end Sys2Proof.Machine
end

