-- ==== Sys2Proof/Machine/Dispatch.lean ====
section
/-! DEFINITION. Sys2Proof/Machine/Dispatch.lean: the one dispatch from a command to its meaning. -/

namespace Sys2Proof.Machine

def exec (i : Instr) (s : State) : Host.Outcome State Fault Refusal :=
  match i with
  | .vauxStart smbAddr prsntHigh perstLow => Sys2Proof.Machine.execVauxStart smbAddr prsntHigh perstLow s
  | .vauxLoss => Sys2Proof.Machine.execVauxLoss s
  | .mainRailLoss rail => Sys2Proof.Machine.execMainRailLoss rail s
  | .powerGood => Sys2Proof.Machine.execPowerGood s
  | .perstANAssert => Sys2Proof.Machine.execPerstANAssert s
  | .perstANDeassert straps => Sys2Proof.Machine.execPerstANDeassert straps s
  | .perstBNAssert => Sys2Proof.Machine.execPerstBNAssert s
  | .prsntNHigh => Sys2Proof.Machine.execPrsntNHigh s
  | .prsntNLow => Sys2Proof.Machine.execPrsntNLow s
  | .thermtripNAssert m => Sys2Proof.Machine.execThermtripNAssert m s
  | .thermtripRelease island0 island1 => Sys2Proof.Machine.execThermtripRelease island0 island1 s
  | .glitchDetect nowMs => Sys2Proof.Machine.execGlitchDetect nowMs s
  | .glitchResetRelease => Sys2Proof.Machine.execGlitchResetRelease s
  | .jtagDebugInstruction => Sys2Proof.Machine.execJtagDebugInstruction s
  | .caParityAlert ch txn again => Sys2Proof.Machine.execCaParityAlert ch txn again s
  | .inletCheckPass m diode => Sys2Proof.Machine.execInletCheckPass m diode s
  | .prechargeComplete m => Sys2Proof.Machine.execPrechargeComplete m s
  | .prechargeTimeout m => Sys2Proof.Machine.execPrechargeTimeout m s
  | .rampComplete m => Sys2Proof.Machine.execRampComplete m s
  | .rampNotTracking m => Sys2Proof.Machine.execRampNotTracking m s
  | .currentLimitTimeout m => Sys2Proof.Machine.execCurrentLimitTimeout m s
  | .overcurrentTrip m => Sys2Proof.Machine.execOvercurrentTrip m s
  | .fetOvertemp m => Sys2Proof.Machine.execFetOvertemp m s
  | .powerGoodTimeout m outOfOrder => Sys2Proof.Machine.execPowerGoodTimeout m outOfOrder s
  | .gateRiseTimeout m => Sys2Proof.Machine.execGateRiseTimeout m s
  | .retryWaitExpiry => Sys2Proof.Machine.execRetryWaitExpiry s
  | .failsClearTimeout => Sys2Proof.Machine.execFailsClearTimeout s
  | .fetModelUpdate m => Sys2Proof.Machine.execFetModelUpdate m s
  | .xtInletClear fc p => Sys2Proof.Machine.execXtInletClear fc p s
  | .inlClear src key => Sys2Proof.Machine.execInlClear src key s
  | .clearDelayExpiry => Sys2Proof.Machine.execClearDelayExpiry s
  | .inlOverrideOff src key => Sys2Proof.Machine.execInlOverrideOff src key s
  | .inlOverrideOn src key => Sys2Proof.Machine.execInlOverrideOn src key s
  | .inlOverrideModel src key => Sys2Proof.Machine.execInlOverrideModel src key s
  | .powerCapSample deciWatts => Sys2Proof.Machine.execPowerCapSample deciWatts s
  | .powerCapRelease => Sys2Proof.Machine.execPowerCapRelease s
  | .postedWrite src off value => Sys2Proof.Machine.execPostedWrite src off value s
  | .postingComplete off => Sys2Proof.Machine.execPostingComplete off s
  | .coreClockLock healthOk => Sys2Proof.Machine.execCoreClockLock healthOk s
  | .tsvTrainingComplete results => Sys2Proof.Machine.execTsvTrainingComplete results s
  | .fillComplete arraysOk => Sys2Proof.Machine.execFillComplete arraysOk s
  | .bootComplete sigFailA sigFailB dimms => Sys2Proof.Machine.execBootComplete sigFailA sigFailB dimms s
  | .trainComplete failed => Sys2Proof.Machine.execTrainComplete failed s
  | .awaitTrigger => Sys2Proof.Machine.execAwaitTrigger s
  | .hdmDecoderCommit port ld idx cfg => Sys2Proof.Machine.execHdmDecoderCommit port ld idx cfg s
  | .thermalHoldEnd => Sys2Proof.Machine.execThermalHoldEnd s
  | .modeReqDrainReset => Sys2Proof.Machine.execModeReqDrainReset s
  | .modeReqDrainRemoval => Sys2Proof.Machine.execModeReqDrainRemoval s
  | .modeReqDrainHibernate => Sys2Proof.Machine.execModeReqDrainHibernate s
  | .modeReqWake => Sys2Proof.Machine.execModeReqWake s
  | .modeReqDrainMaint => Sys2Proof.Machine.execModeReqDrainMaint s
  | .modeReqLeaveMaint => Sys2Proof.Machine.execModeReqLeaveMaint s
  | .drainLastTransactionClosed => Sys2Proof.Machine.execDrainLastTransactionClosed s
  | .drainFlushComplete errs => Sys2Proof.Machine.execDrainFlushComplete s errs
  | .drainPauseBoundary => Sys2Proof.Machine.execDrainPauseBoundary s
  | .drainDestinationAction => Sys2Proof.Machine.execDrainDestinationAction s
  | .thermalWakeCountExpiry => Sys2Proof.Machine.execThermalWakeCountExpiry s
  | .wakeComplete => Sys2Proof.Machine.execWakeComplete s
  | .drowseIdleExpiry ch => Sys2Proof.Machine.execDrowseIdleExpiry ch s
  | .channelWake ch => Sys2Proof.Machine.execChannelWake ch s
  | .unitRestored => Sys2Proof.Machine.execUnitRestored s
  | .haltEntry cause chid loc => Sys2Proof.Machine.execHaltEntry cause chid loc s
  | .haltBoundary => Sys2Proof.Machine.execHaltBoundary s
  | .haltRecordWrite => Sys2Proof.Machine.execHaltRecordWrite s
  | .pourBoundary => Sys2Proof.Machine.execPourBoundary s
  | .holdExpiry line => Sys2Proof.Machine.execHoldExpiry line s
  | .guaranteeWindowCheck => Sys2Proof.Machine.execGuaranteeWindowCheck s
  | .stagedRegisterWrite src off value => Sys2Proof.Machine.execStagedRegisterWrite src off value s
  | .xtStageCheck fc p => Sys2Proof.Machine.execXtStageCheck fc p s
  | .xtStageCommit fc p => Sys2Proof.Machine.execXtStageCommit fc p s
  | .commitTakesEffect => Sys2Proof.Machine.execCommitTakesEffect s
  | .xtStageAbort fc p => Sys2Proof.Machine.execXtStageAbort fc p s
  | .registerWrite src off value be => Sys2Proof.Machine.execRegisterWrite src off value be s
  | .rcRead src off be => Sys2Proof.Machine.execRcRead src off be s
  | .glbPourLoRead src => Sys2Proof.Machine.execGlbPourLoRead src s
  | .cryMajorNextLoRead src => Sys2Proof.Machine.execCryMajorNextLoRead src s
  | .stgCommitPourLoRead src => Sys2Proof.Machine.execStgCommitPourLoRead src s
  | .indDataAccess src wr => Sys2Proof.Machine.execIndDataAccess src wr s
  | .snapCtlReq src => Sys2Proof.Machine.execSnapCtlReq src s
  | .keyedValueWrite src off value => Sys2Proof.Machine.execKeyedValueWrite src off value s
  | .keyedPairTimeout src => Sys2Proof.Machine.execKeyedPairTimeout src s
  | .registerParityError off regBad committedBad => Sys2Proof.Machine.execRegisterParityError off regBad committedBad s
  | .glbSealCtlOff src key => Sys2Proof.Machine.execGlbSealCtlOff src key s
  | .glbSealCtlEnforce src key => Sys2Proof.Machine.execGlbSealCtlEnforce src key s
  | .glbSealCtlReport src key => Sys2Proof.Machine.execGlbSealCtlReport src key s
  | .sealCommit src => Sys2Proof.Machine.execSealCommit src s
  | .sealReferenceScanComplete => Sys2Proof.Machine.execSealReferenceScanComplete s
  | .sealScanStart => Sys2Proof.Machine.execSealScanStart s
  | .sealScanComplete err => Sys2Proof.Machine.execSealScanComplete err s
  | .glbLcAdv src key => Sys2Proof.Machine.execGlbLcAdv src key s
  | .lifecycleBurnComplete => Sys2Proof.Machine.execLifecycleBurnComplete s
  | .identityKeygenComplete => Sys2Proof.Machine.execIdentityKeygenComplete s
  | .cryRekeyCtl src key => Sys2Proof.Machine.execCryRekeyCtl src key s
  | .rasFuseLo src key => Sys2Proof.Machine.execRasFuseLo src key s
  | .fuseBurnComplete => Sys2Proof.Machine.execFuseBurnComplete s
  | .canErase src key => Sys2Proof.Machine.execCanErase src key s
  | .pmuCtlFreeze on => Sys2Proof.Machine.execPmuCtlFreeze on s
  | .pmuCtlClrGen => Sys2Proof.Machine.execPmuCtlClrGen s
  | .pmuCtlClrOvf => Sys2Proof.Machine.execPmuCtlClrOvf s
  | .pmuEvselWrite n value => Sys2Proof.Machine.execPmuEvselWrite n value s
  | .pmuScopeWrite n value => Sys2Proof.Machine.execPmuScopeWrite n value s
  | .pmuHistCtlWrite h value => Sys2Proof.Machine.execPmuHistCtlWrite h value s
  | .pmuHistClr mask => Sys2Proof.Machine.execPmuHistClr mask s
  | .mgmtRegisterRead count off => Sys2Proof.Machine.execMgmtRegisterRead count off s
  | .mgmtRegisterWrite count off data => Sys2Proof.Machine.execMgmtRegisterWrite count off data s
  | .smbusAlertResponse => Sys2Proof.Machine.execSmbusAlertResponse s
  | .xtIdentify fc p => Sys2Proof.Machine.execXtIdentify fc p s
  | .xtTenantCreate fc p => Sys2Proof.Machine.execXtTenantCreate fc p s
  | .xtTenantResize fc p => Sys2Proof.Machine.execXtTenantResize fc p s
  | .xtTenantReset fc p => Sys2Proof.Machine.execXtTenantReset fc p s
  | .xtTenantDestroy fc p => Sys2Proof.Machine.execXtTenantDestroy fc p s
  | .tenantSequenceStart t => Sys2Proof.Machine.execTenantSequenceStart t s
  | .tenantSquash t => Sys2Proof.Machine.execTenantSquash t s
  | .tenantSequenceEnd t => Sys2Proof.Machine.execTenantSequenceEnd t s
  | .xtRekeyStart fc p => Sys2Proof.Machine.execXtRekeyStart fc p s
  | .xtRekeyStatus fc p => Sys2Proof.Machine.execXtRekeyStatus fc p s
  | .rekeyStart healthOk => Sys2Proof.Machine.execRekeyStart healthOk s
  | .subkeyDerivationDone => Sys2Proof.Machine.execSubkeyDerivationDone s
  | .rekeyPageCommit ch => Sys2Proof.Machine.execRekeyPageCommit ch s
  | .rekeyPageAdvance ch => Sys2Proof.Machine.execRekeyPageAdvance ch s
  | .rekeyDone => Sys2Proof.Machine.execRekeyDone s
  | .xtBistRun fc p => Sys2Proof.Machine.execXtBistRun fc p s
  | .bistTestEnd result locators pipes => Sys2Proof.Machine.execBistTestEnd result locators s pipes
  | .xtRepairSoft fc p => Sys2Proof.Machine.execXtRepairSoft fc p s
  | .xtRepairFuse fc p => Sys2Proof.Machine.execXtRepairFuse fc p s
  | .softRepairRowSwap flips => Sys2Proof.Machine.execSoftRepairRowSwap s flips
  | .xtCanisterStore fc p => Sys2Proof.Machine.execXtCanisterStore fc p s
  | .xtCanisterLoad fc p => Sys2Proof.Machine.execXtCanisterLoad fc p s
  | .xtCanisterErase fc p => Sys2Proof.Machine.execXtCanisterErase fc p s
  | .xtChainRollcall fc p => Sys2Proof.Machine.execXtChainRollcall fc p s
  | .xtChainMap fc p => Sys2Proof.Machine.execXtChainMap fc p s
  | .xtCremaPin fc p => Sys2Proof.Machine.execXtCremaPin fc p s
  | .xtCremaFlush fc p => Sys2Proof.Machine.execXtCremaFlush fc p s
  | .xtNearSize fc p => Sys2Proof.Machine.execXtNearSize fc p s
  | .nearSizeWalkEnd => Sys2Proof.Machine.execNearSizeWalkEnd s
  | .xtPressPolicy fc p => Sys2Proof.Machine.execXtPressPolicy fc p s
  | .xtPressCompact fc p => Sys2Proof.Machine.execXtPressCompact fc p s
  | .xtFwStage fc p => Sys2Proof.Machine.execXtFwStage fc p s
  | .firmwareVerifyComplete sigFail => Sys2Proof.Machine.execFirmwareVerifyComplete sigFail s
  | .xtFwActivate fc p => Sys2Proof.Machine.execXtFwActivate fc p s
  | .xtBrewAbort fc p => Sys2Proof.Machine.execXtBrewAbort fc p s
  | .brewStepEnd vddInWindow errs => Sys2Proof.Machine.execBrewStepEnd vddInWindow s errs
  | .watchdogExpiry => Sys2Proof.Machine.execWatchdogExpiry s
  | .lockstepMismatch => Sys2Proof.Machine.execLockstepMismatch s
  | .tcmUncorrectableFetch => Sys2Proof.Machine.execTcmUncorrectableFetch s
  | .baristaRestartComplete verifyOk => Sys2Proof.Machine.execBaristaRestartComplete verifyOk s
  | .recordForward => Sys2Proof.Machine.execRecordForward s
  | .sanitize fc ld => Sys2Proof.Machine.execSanitize fc ld s
  | .secureErase fc ld => Sys2Proof.Machine.execSecureErase fc ld s
  | .scanMedia fc ld => Sys2Proof.Machine.execScanMedia fc ld s
  | .injectPoison fc ld dpa => Sys2Proof.Machine.execInjectPoison fc ld dpa s
  | .clearPoison fc ld dpa data => Sys2Proof.Machine.execClearPoison fc ld dpa data s
  | .getPoisonList fc ld => Sys2Proof.Machine.execGetPoisonList fc ld s
  | .requestAbortBackgroundOperation fc => Sys2Proof.Machine.execRequestAbortBackgroundOperation fc s
  | .getFwInfo fc => Sys2Proof.Machine.execGetFwInfo fc s
  | .transferFw fc slot off last bytes => Sys2Proof.Machine.execTransferFw fc slot off last bytes s
  | .activateFw fc slot now => Sys2Proof.Machine.execActivateFw fc slot now s
  | .addDynamicCapacityResponse port ld accepted => Sys2Proof.Machine.execAddDynamicCapacityResponse port ld accepted s
  | .releaseDynamicCapacity port ld blocks => Sys2Proof.Machine.execReleaseDynamicCapacity port ld blocks s
  | .initiateDynamicCapacityAdd t region count tag => Sys2Proof.Machine.execInitiateDynamicCapacityAdd t region count tag s
  | .initiateDynamicCapacityRelease t blocks forced => Sys2Proof.Machine.execInitiateDynamicCapacityRelease t blocks forced s
  | .setDcRegionConfiguration t region blockBytes len => Sys2Proof.Machine.execSetDcRegionConfiguration t region blockBytes len s
  | .getDcRegionExtentLists t => Sys2Proof.Machine.execGetDcRegionExtentLists t s
  | .getLdAllocations port => Sys2Proof.Machine.execGetLdAllocations port s
  | .setLdAllocations port => Sys2Proof.Machine.execSetLdAllocations port s
  | .getQosStatus t => Sys2Proof.Machine.execGetQosStatus t s
  | .setQosControl controls => Sys2Proof.Machine.execSetQosControl controls s
  | .setQosAllocatedBw port => Sys2Proof.Machine.execSetQosAllocatedBw port s
  | .cxlTableAccess port ld => Sys2Proof.Machine.execCxlTableAccess port ld s
  | .getMeasurements tr index signed => Sys2Proof.Machine.execGetMeasurements tr index signed s
  | .getCsr tr => Sys2Proof.Machine.execGetCsr tr s
  | .setCertificate tr leaf issuers => Sys2Proof.Machine.execSetCertificate tr leaf issuers s
  | .negotiateAlgorithms tr composite => Sys2Proof.Machine.execNegotiateAlgorithms tr composite s
  | .keyExchange tr secp384r1Aes256Gcm => Sys2Proof.Machine.execKeyExchange tr secp384r1Aes256Gcm s
  | .challenge tr => Sys2Proof.Machine.execChallenge tr s
  | .signatureComplete => Sys2Proof.Machine.execSignatureComplete s
  | .memrd r md => Sys2Proof.Machine.execMemrd r md s
  | .memrddata r => Sys2Proof.Machine.execMemrddata r s
  | .meminv r md => Sys2Proof.Machine.execMeminv r md s
  | .memwr r md data => Sys2Proof.Machine.execMemwr r md data s
  | .memwrPartial r md data mask => Sys2Proof.Machine.execMemwrPartial r md data mask s
  | .memclnevct r => Sys2Proof.Machine.execMemclnevct r s
  | .uioRead r => Sys2Proof.Machine.execUioRead r s
  | .uioWrite r data mask => Sys2Proof.Machine.execUioWrite r data mask s
  | .atomicop r a toBar => Sys2Proof.Machine.execAtomicop r a toBar s
  | .birspi port hpa => Sys2Proof.Machine.execBirspi port hpa s
  | .birsps port hpa => Sys2Proof.Machine.execBirsps port hpa s
  | .hostBiconflict port hpa tag => Sys2Proof.Machine.execHostBiconflict port hpa tag s
  | .holdRelease t cls => Sys2Proof.Machine.execHoldRelease t cls s
  | .tagDecision txn => Sys2Proof.Machine.execTagDecision txn s
  | .speculativeHoldExpiry txn => Sys2Proof.Machine.execSpeculativeHoldExpiry txn s
  | .retryQueueRetry slice => Sys2Proof.Machine.execRetryQueueRetry slice s
  | .bisnpTimeout line => Sys2Proof.Machine.execBisnpTimeout line s
  | .leaseIdleExpiry line => Sys2Proof.Machine.execLeaseIdleExpiry line s
  | .leaseMaxExpiry line => Sys2Proof.Machine.execLeaseMaxExpiry line s
  | .cremaFillComplete set way => Sys2Proof.Machine.execCremaFillComplete set way s
  | .evictionComplete set way errs => Sys2Proof.Machine.execEvictionComplete set way s errs
  | .farLineReadReturn txn flips chk => Sys2Proof.Machine.execFarLineReadReturn txn flips chk s
  | .cremaLineReadReturn txn flips => Sys2Proof.Machine.execCremaLineReadReturn txn flips s
  | .mergeBufferRetire arr uncorrectable => Sys2Proof.Machine.execMergeBufferRetire arr uncorrectable s
  | .patrolScrubRead ch flips other => Sys2Proof.Machine.execPatrolScrubRead ch flips s other
  | .subtreeReinitEnd => Sys2Proof.Machine.execSubtreeReinitEnd s
  | .cryptoPipeParityMismatch xts unit => Sys2Proof.Machine.execCryptoPipeParityMismatch xts unit s
  | .cremaRefresh pc => Sys2Proof.Machine.execCremaRefresh pc s
  | .temperatureSample stack die => Sys2Proof.Machine.execTemperatureSample stack die s
  | .doubledRefreshRelease => Sys2Proof.Machine.execDoubledRefreshRelease s
  | .stackThrottleRelease => Sys2Proof.Machine.execStackThrottleRelease s
  | .dieThrottleRelease => Sys2Proof.Machine.execDieThrottleRelease s
  | .cremaChannelLoss c => Sys2Proof.Machine.execCremaChannelLoss c s
  | .rebuildWalkEnd => Sys2Proof.Machine.execRebuildWalkEnd s
  | .rotationCopyDone => Sys2Proof.Machine.execRotationCopyDone s
  | .rotationSourceDrained => Sys2Proof.Machine.execRotationSourceDrained s
  | .rotationTestDone result locators => Sys2Proof.Machine.execRotationTestDone result locators s
  | .rotationRetrainDone ok => Sys2Proof.Machine.execRotationRetrainDone ok s
  | .rotationFillDone => Sys2Proof.Machine.execRotationFillDone s
  | .requestPromotion txn => Sys2Proof.Machine.execRequestPromotion txn s
  | .farRefresh ch sub => Sys2Proof.Machine.execFarRefresh ch sub s
  | .mr4Reading ch ranks => Sys2Proof.Machine.execMr4Reading ch ranks s
  | .dimmHotDrain ch => Sys2Proof.Machine.execDimmHotDrain ch s
  | .distWindowEnd ch => Sys2Proof.Machine.execDistWindowEnd ch s
  | .dqsOscillatorReading ch drifts => Sys2Proof.Machine.execDqsOscillatorReading ch drifts s
  | .recentringStepEnd ch => Sys2Proof.Machine.execRecentringStepEnd ch s
  | .recentringFail ch => Sys2Proof.Machine.execRecentringFail ch s
  | .farChannelLoss ch => Sys2Proof.Machine.execFarChannelLoss ch s
  | .softPprStart ch flips => Sys2Proof.Machine.execSoftPprStart ch s flips
  | .softPprEnd ch => Sys2Proof.Machine.execSoftPprEnd ch s
  | .hardPprComplete flips => Sys2Proof.Machine.execHardPprComplete s flips
  | .pressDecodeComplete engine crcOk flips => Sys2Proof.Machine.execPressDecodeComplete engine crcOk s flips
  | .pressCodeComplete engine selfCheckOk => Sys2Proof.Machine.execPressCodeComplete engine selfCheckOk s
  | .sectorRelease => Sys2Proof.Machine.execSectorRelease s
  | .pressEngineLoss engine => Sys2Proof.Machine.execPressEngineLoss engine s
  | .fenceDrainAck d => Sys2Proof.Machine.execFenceDrainAck d s
  | .fenceOff d => Sys2Proof.Machine.execFenceOff d s
  | .fenceStuck d => Sys2Proof.Machine.execFenceStuck d s
  | .domainPowerOnDone d => Sys2Proof.Machine.execDomainPowerOnDone d s
  | .fabricParityError net dataField txn => Sys2Proof.Machine.execFabricParityError net dataField txn s
  | .dlDown port => Sys2Proof.Machine.execDlDown port s
  | .linkDownWritesClosed port => Sys2Proof.Machine.execLinkDownWritesClosed port s
  | .hotReset port => Sys2Proof.Machine.execHotReset port s
  | .flr port ld => Sys2Proof.Machine.execFlr port ld s
  | .cxlReset port ld memClr => Sys2Proof.Machine.execCxlReset port ld memClr s
  | .linkTrainingComplete port res => Sys2Proof.Machine.execLinkTrainingComplete port res s
  | .linkRecovery port width rate replayed => Sys2Proof.Machine.execLinkRecovery port width rate replayed s
  | .l0pWidthChange port width => Sys2Proof.Machine.execL0pWidthChange port width s
  | .ideIntegrityFailure port stream => Sys2Proof.Machine.execIdeIntegrityFailure port stream s
  | .ideKm port stream keys => Sys2Proof.Machine.execIdeKm port stream keys s
  | .viralReceived port => Sys2Proof.Machine.execViralReceived port s
  | .relayLinkTrained port offered rate64 width => Sys2Proof.Machine.execRelayLinkTrained port offered rate64 width s
  | .relayAuthComplete port ok peerLifecycle peerVcs startSeq => Sys2Proof.Machine.execRelayAuthComplete port ok peerLifecycle peerVcs startSeq s
  | .dataFlit port f => Sys2Proof.Machine.execDataFlit port f s
  | .rollFlit port f r => Sys2Proof.Machine.execRollFlit port f r s
  | .ackFlit port f => Sys2Proof.Machine.execAckFlit port f s
  | .snakFlit port f gbn missing => Sys2Proof.Machine.execSnakFlit port f gbn missing s
  | .creditFlit port f vcs => Sys2Proof.Machine.execCreditFlit port f vcs s
  | .idleFlit port f => Sys2Proof.Machine.execIdleFlit port f s
  | .haltFlit port f origin cause => Sys2Proof.Machine.execHaltFlit port f origin cause s
  | .snakRepeatTimer port => Sys2Proof.Machine.execSnakRepeatTimer port s
  | .ackTimer port => Sys2Proof.Machine.execAckTimer port s
  | .replayTimeout port => Sys2Proof.Machine.execReplayTimeout port s
  | .creditTimeout port => Sys2Proof.Machine.execCreditTimeout port s
  | .holdLimitExpiry port => Sys2Proof.Machine.execHoldLimitExpiry port s
  | .creditHoldRefresh port => Sys2Proof.Machine.execCreditHoldRefresh port s
  | .rttMeasurement port cycles => Sys2Proof.Machine.execRttMeasurement port cycles s
  | .recoveryTimeout port => Sys2Proof.Machine.execRecoveryTimeout port s
  | .relayRecoveryExit port width => Sys2Proof.Machine.execRelayRecoveryExit port width s
  | .cutEraseEnd => Sys2Proof.Machine.execCutEraseEnd s
  | .rollCallWaitExpiry => Sys2Proof.Machine.execRollCallWaitExpiry s
  | .rollCallReturnTimeout => Sys2Proof.Machine.execRollCallReturnTimeout s
  | .memberLoss k cause => Sys2Proof.Machine.execMemberLoss k cause s
  | .cmdRspTimeout => Sys2Proof.Machine.execCmdRspTimeout s
  | .memRd m => Sys2Proof.Machine.execMemRd m s
  | .memRdData m => Sys2Proof.Machine.execMemRdData m s
  | .memInv m => Sys2Proof.Machine.execMemInv m s
  | .memWr m data => Sys2Proof.Machine.execMemWr m data s
  | .memWrPtl m data mask => Sys2Proof.Machine.execMemWrPtl m data mask s
  | .memClnEvct m => Sys2Proof.Machine.execMemClnEvct m s
  | .uioRd m => Sys2Proof.Machine.execUioRd m s
  | .uioWr m data => Sys2Proof.Machine.execUioWr m data s
  | .uioWrPtl m data mask => Sys2Proof.Machine.execUioWrPtl m data mask s
  | .uioAtomic m a => Sys2Proof.Machine.execUioAtomic m a s
  | .cmp m => Sys2Proof.Machine.execCmp m s
  | .data m data => Sys2Proof.Machine.execData m data s
  | .atomicData m data => Sys2Proof.Machine.execAtomicData m data s
  | .bisnpData m => Sys2Proof.Machine.execBisnpData m s
  | .bisnpInv m => Sys2Proof.Machine.execBisnpInv m s
  | .birspI m => Sys2Proof.Machine.execBirspI m s
  | .birspS m => Sys2Proof.Machine.execBirspS m s
  | .biconflict m => Sys2Proof.Machine.execBiconflict m s
  | .biconflictAck m => Sys2Proof.Machine.execBiconflictAck m s
  | .spdm m port => Sys2Proof.Machine.execSpdm m port s
  | .keyNext m port atSeq => Sys2Proof.Machine.execKeyNext m port atSeq s
  | .hello m => Sys2Proof.Machine.execHello m s
  | .memberState m rec => Sys2Proof.Machine.execMemberState m rec s
  | .cut m => Sys2Proof.Machine.execCut m s
  | .portReset m sharers => Sys2Proof.Machine.execPortReset m sharers s
  | .viralOn m port => Sys2Proof.Machine.execViralOn m port s
  | .viralOff m port => Sys2Proof.Machine.execViralOff m port s
  | .cmd m opcode p => Sys2Proof.Machine.execCmd m opcode p s
  | .cmdRsp m rc out => Sys2Proof.Machine.execCmdRsp m rc out s
  | .event m record => Sys2Proof.Machine.execEvent m record s
  | .linkBroken m reporter cause => Sys2Proof.Machine.execLinkBroken m reporter cause s
  | .ready m => Sys2Proof.Machine.execReady m s
  | .relayRecoveryEntry port => Sys2Proof.Machine.execRelayRecoveryEntry port s
  | .relayLinkDown port => Sys2Proof.Machine.execRelayLinkDown port s
  | .stageCheckComplete => Sys2Proof.Machine.execStageCheckComplete s
  | .canisterStoreComplete => Sys2Proof.Machine.execCanisterStoreComplete s
  | .canisterEraseComplete => Sys2Proof.Machine.execCanisterEraseComplete s
  | .smbusLowTimeout => Sys2Proof.Machine.execSmbusLowTimeout s

end Sys2Proof.Machine
end

