-- ==== Sys2Proof/Machine/Step.lean ====
section
/-! DEFINITION. Sys2Proof/Machine/Step.lean: one step: the command at the front of the queue, or one core cycle. -/

namespace Sys2Proof.Machine

/-- One step: the command at the front runs with the rest of the queue; on an empty queue one core cycle passes (the
model's choice, log entry 2). -/
def step (s : State) : Host.Outcome State Fault Refusal :=
  match s.pending with
  | [] => s.on Dev.tick
  | c :: r => exec c { s with pending := r }

/-- `s` with the command that the word spells in front of its queue. No row of the table has bits, so no word spells a
command and `s` stays as it is. -/
def State.withFetchWord (s : State) (nbits w : Nat) : State :=
  match Sys2Proof.decodeTableWord nbits w with
  | some c => { s with pending := c :: s.pending }
  | none => s

end Sys2Proof.Machine
end

