-- ==== Sys2Proof/Safety.lean ====
section
/-! DEFINITION. Sys2Proof/Safety.lean: the terms in which the claims speak: a command that completes, the conditions under
which a mailbox command or a keyed pair acts at once, and what no run undoes. -/

namespace Sys2Proof.Machine

/-- The command completes: exec answers a next state, with the queue as it was, and `P` holds of the device then. -/
def Completes (c : Instr) (s : State) (P : Dev → Prop) : Prop :=
  ∃ t, exec c s = .next t ∧ t.pending = s.pending ∧ P t.dev

/-! ### Commands of the interfaces (R390 to R393) -/

/-- The interface takes a command of this opcode and Barista runs it now: the mode and the settings let it through, the
interface holds no command, and Barista is free (R388 to R392, R398). -/
abbrev Dev.takesNow (d : Dev) (i : Iface) (opcode : Nat) : Prop :=
  d.gate i opcode = .take ∧ d.ifaceBusy i = false ∧ d.baristaFree = true

/-- The same of XT_IDENTIFY and XT_INLET_CLEAR, which the island serves by itself over MCTP under VAUX (R392). -/
abbrev Dev.servesNow (d : Dev) (i : Iface) (opcode : Nat) : Prop := d.gate i opcode = .island ∨ d.takesNow i opcode

/-- The payload of a vendor command for this device: its own chain ID, a clean header, and all of its fields (R393). -/
abbrev Dev.ownPayload (d : Dev) (p : Payload) (len : Nat) : Prop :=
  8 + len ≤ p.length ∧ zeroBytes p 1 7 = true ∧ byteAt p 0 = d.chainId

/-- The last thing that left the device is this answer on an interface. -/
abbrev Dev.answered (d : Dev) (i : Iface) (rc opcode : Nat) (out : Payload) : Prop :=
  d.out.head? = some (.mbox i rc opcode out)

/-! ### Keyed pairs (R414) -/

/-- The source has armed the register at `off` with `v`, at most 256 cycles ago, and `key` is the inverse of `v` (R414). -/
abbrev Dev.pairReady (d : Dev) (src : Source) (off : Nat) (v key : Word) : Prop :=
  ∃ a ∈ d.armedBy src, a.off = off ∧ a.value = v ∧ a.at_.cyclesTo d.stamp ≤ 256 ∧ key = ~~~v

/-! ### What no run undoes -/

/-- The fuses blown in `a` are blown in `b` (R451): the lifecycle bits, the security version count, the disable fuse. -/
abbrev Fuses.keptBy (a b : Fuses) : Prop :=
  a.lc ||| b.lc = b.lc ∧ a.svn ≤ b.svn ∧ (a.idDisable = true → b.idDisable = true)

end Sys2Proof.Machine
end

