-- ==== Sys2Proof/WellFormed.lean ====
section
/-! DEFINITION. Sys2Proof/WellFormed.lean: which operands a command can carry: the ranges that the field widths and
address spaces of the spec give the numbers that Syntax keeps as plain numbers. The meanings are total and need none of
these checks. -/

namespace Sys2Proof

/-- A BAR2 offset: a multiple of 4 below 32 MiB (R408, R410). -/
def offOk (o : Nat) : Bool := decide (o < 2 ^ 25) && decide (o % 4 = 0)

/-- A link width of a port: x16, x8 or x4 (R331). -/
def widthOk (w : Nat) : Bool := w == 16 || w == 8 || w == 4

/-- A rate code, 2.5 to 64 GT/s (R331). -/
def rateOk (r : Nat) : Bool := decide (1 ≤ r) && decide (r ≤ 6)

/-- A host request: an LD-ID of 4 bits, a 52-bit host address, a 16-bit tag. -/
def HostReq.wf (r : HostReq) : Bool := decide (r.ld < 16) && decide (r.hpa < 2 ^ 52) && decide (r.tag < 2 ^ 16)

/-- An AtomicOp: 4, 8 or 16 bytes, and 16 bytes for CAS alone (R282). -/
def AtomicArgs.wf (a : AtomicArgs) : Bool :=
  (a.bytes == 4 || a.bytes == 8 || (a.bytes == 16 && a.kind == .cas)) && decide (a.requester < 2 ^ 16)

/-- A header slot's fields in their widths (R359); a message takes at most 13 data slots. -/
def RelayMsg.wf (m : RelayMsg) : Bool :=
  decide (m.tag < 2 ^ 16) && decide (m.dest < 8) && decide (m.src < 8) && decide (m.dslots ≤ 13) &&
    decide (m.line < 2 ^ 42) && decide (m.opx < 2 ^ 35) && decide (m.hops < 8)

/-- A flit: 14 payload slots (R356), at most 14 message slots, of VC 0 to 7. -/
def Flit.wf (f : Flit) : Bool :=
  decide (f.payload.length = 14) && decide (f.slots.length ≤ 14) && f.slots.all (fun p => decide (p.1 < 8))

/-- A flit whose TYPE is the row's own (R357). -/
def Flit.wfAs (f : Flit) (type : Nat) : Bool := f.wf && decide (f.header.toNat / 2 ^ 12 = type)

/-- A sequenced DATA flit, or a flit of a TYPE that no row has (R357). -/
def Flit.wfData (f : Flit) : Bool :=
  f.wf && (decide (f.header.toNat / 2 ^ 12 ≤ 1) || decide (8 ≤ f.header.toNat / 2 ^ 12))

/-- A member's record in the widths of R373. -/
def MemberRec.wf (r : MemberRec) : Bool := decide (r.id < 8) && decide (r.mode < 12)

/-- A ROLL message: at most 8 records. -/
def Roll.wf (r : Roll) : Bool := decide (r.recs.length ≤ 8) && r.recs.all MemberRec.wf

/-- A ring record in the widths of R473: at most 8 DETAIL words. -/
def EventRec.wf (r : EventRec) : Bool :=
  decide (r.cyc < 512) && decide (r.sev < 4) && decide (r.code < 2 ^ 16) && decide (r.detail.length ≤ 8)

/-- An HDM decoder: base, size and skip in units of 256 MiB, 1 to 16 ways. -/
def HdmCfg.wf (h : HdmCfg) : Bool :=
  decide (h.base % 2 ^ 28 = 0) && decide (h.size % 2 ^ 28 = 0) && decide (h.base + h.size ≤ 2 ^ 52) &&
    decide (1 ≤ h.ways) && decide (h.ways ≤ 16)

/-- A training result: a width and a rate that the port has. -/
def LinkResult.wf : LinkResult → Bool
  | .noX4 => true
  | .pcieOnly w r => widthOk w && rateOk r
  | .cxl _ w r _ _ => widthOk w && rateOk r

/-- Are the command's operands in range? -/
def Instr.wf : Instr → Bool
  | .vauxStart _ _ _ => true
  | .vauxLoss => true
  | .mainRailLoss _ => true
  | .powerGood => true
  | .perstANAssert => true
  | .perstANDeassert _ => true
  | .perstBNAssert => true
  | .prsntNHigh => true
  | .prsntNLow => true
  | .thermtripNAssert _ => true
  | .thermtripRelease _ _ => true
  | .glitchDetect _ => true
  | .glitchResetRelease => true
  | .jtagDebugInstruction => true
  | .caParityAlert _ _ _ => true
  | .inletCheckPass _ _ => true
  | .prechargeComplete _ => true
  | .prechargeTimeout _ => true
  | .rampComplete _ => true
  | .rampNotTracking _ => true
  | .currentLimitTimeout _ => true
  | .overcurrentTrip _ => true
  | .fetOvertemp _ => true
  | .powerGoodTimeout _ _ => true
  | .gateRiseTimeout _ => true
  | .retryWaitExpiry => true
  | .failsClearTimeout => true
  | .fetModelUpdate _ => true
  | .xtInletClear _ _ => true
  | .inlClear _ _ => true
  | .clearDelayExpiry => true
  | .inlOverrideOff _ _ => true
  | .inlOverrideOn _ _ => true
  | .inlOverrideModel _ _ => true
  | .powerCapSample _ => true
  | .powerCapRelease => true
  | .postedWrite _ off _ => offOk off
  | .postingComplete off => offOk off
  | .coreClockLock _ => true
  | .tsvTrainingComplete _ => true
  | .fillComplete _ => true
  | .bootComplete _ _ _ => true
  | .trainComplete _ => true
  | .awaitTrigger => true
  | .hdmDecoderCommit _ ld _ cfg => decide (ld < 16) && cfg.wf
  | .thermalHoldEnd => true
  | .modeReqDrainReset => true
  | .modeReqDrainRemoval => true
  | .modeReqDrainHibernate => true
  | .modeReqWake => true
  | .modeReqDrainMaint => true
  | .modeReqLeaveMaint => true
  | .drainLastTransactionClosed => true
  | .drainFlushComplete _ => true
  | .drainPauseBoundary => true
  | .drainDestinationAction => true
  | .thermalWakeCountExpiry => true
  | .wakeComplete => true
  | .drowseIdleExpiry _ => true
  | .channelWake _ => true
  | .unitRestored => true
  | .haltEntry _ _ _ => true
  | .haltBoundary => true
  | .haltRecordWrite => true
  | .pourBoundary => true
  | .holdExpiry _ => true
  | .guaranteeWindowCheck => true
  | .stagedRegisterWrite _ off _ => offOk off
  | .xtStageCheck _ _ => true
  | .xtStageCommit _ _ => true
  | .commitTakesEffect => true
  | .xtStageAbort _ _ => true
  | .registerWrite _ off _ _ => offOk off
  | .rcRead _ off _ => offOk off
  | .glbPourLoRead _ => true
  | .cryMajorNextLoRead _ => true
  | .stgCommitPourLoRead _ => true
  | .indDataAccess _ _ => true
  | .snapCtlReq _ => true
  | .keyedValueWrite _ off _ => offOk off
  | .keyedPairTimeout _ => true
  | .registerParityError off _ _ => offOk off
  | .glbSealCtlOff _ _ => true
  | .glbSealCtlEnforce _ _ => true
  | .glbSealCtlReport _ _ => true
  | .sealCommit _ => true
  | .sealReferenceScanComplete => true
  | .sealScanStart => true
  | .sealScanComplete _ => true
  | .glbLcAdv _ _ => true
  | .lifecycleBurnComplete => true
  | .identityKeygenComplete => true
  | .cryRekeyCtl _ _ => true
  | .rasFuseLo _ _ => true
  | .fuseBurnComplete => true
  | .canErase _ _ => true
  | .pmuCtlFreeze _ => true
  | .pmuCtlClrGen => true
  | .pmuCtlClrOvf => true
  | .pmuEvselWrite _ _ => true
  | .pmuScopeWrite _ _ => true
  | .pmuHistCtlWrite _ _ => true
  | .pmuHistClr _ => true
  | .mgmtRegisterRead count off => decide (count < 2 ^ 16) && decide (off < 2 ^ 32)
  | .mgmtRegisterWrite count off _ => decide (count < 2 ^ 16) && decide (off < 2 ^ 32)
  | .smbusAlertResponse => true
  | .xtIdentify _ _ => true
  | .xtTenantCreate _ _ => true
  | .xtTenantResize _ _ => true
  | .xtTenantReset _ _ => true
  | .xtTenantDestroy _ _ => true
  | .tenantSequenceStart _ => true
  | .tenantSquash _ => true
  | .tenantSequenceEnd _ => true
  | .xtRekeyStart _ _ => true
  | .xtRekeyStatus _ _ => true
  | .rekeyStart _ => true
  | .subkeyDerivationDone => true
  | .rekeyPageCommit _ => true
  | .rekeyPageAdvance _ => true
  | .rekeyDone => true
  | .xtBistRun _ _ => true
  | .bistTestEnd _ _ _ => true
  | .xtRepairSoft _ _ => true
  | .xtRepairFuse _ _ => true
  | .softRepairRowSwap _ => true
  | .xtCanisterStore _ _ => true
  | .xtCanisterLoad _ _ => true
  | .xtCanisterErase _ _ => true
  | .xtChainRollcall _ _ => true
  | .xtChainMap _ _ => true
  | .xtCremaPin _ _ => true
  | .xtCremaFlush _ _ => true
  | .xtNearSize _ _ => true
  | .nearSizeWalkEnd => true
  | .xtPressPolicy _ _ => true
  | .xtPressCompact _ _ => true
  | .xtFwStage _ _ => true
  | .firmwareVerifyComplete _ => true
  | .xtFwActivate _ _ => true
  | .xtBrewAbort _ _ => true
  | .brewStepEnd _ _ => true
  | .watchdogExpiry => true
  | .lockstepMismatch => true
  | .tcmUncorrectableFetch => true
  | .baristaRestartComplete _ => true
  | .recordForward => true
  | .sanitize _ ld => decide (ld < 16)
  | .secureErase _ ld => decide (ld < 16)
  | .scanMedia _ ld => decide (ld < 16)
  | .injectPoison _ ld dpa => decide (ld < 16) && decide (dpa < 2 ^ 48)
  | .clearPoison _ ld dpa _ => decide (ld < 16) && decide (dpa < 2 ^ 48)
  | .getPoisonList _ ld => decide (ld < 16)
  | .requestAbortBackgroundOperation _ => true
  | .getFwInfo _ => true
  | .transferFw _ _ _ _ _ => true
  | .activateFw _ _ _ => true
  | .addDynamicCapacityResponse _ ld _ => decide (ld < 16)
  | .releaseDynamicCapacity _ ld _ => decide (ld < 16)
  | .initiateDynamicCapacityAdd _ _ count _ => decide (count < 2 ^ 16)
  | .initiateDynamicCapacityRelease _ _ _ => true
  | .setDcRegionConfiguration _ _ _ _ => true
  | .getDcRegionExtentLists _ => true
  | .getLdAllocations _ => true
  | .setLdAllocations _ => true
  | .getQosStatus _ => true
  | .setQosControl _ => true
  | .setQosAllocatedBw _ => true
  | .cxlTableAccess _ ld => decide (ld < 16)
  | .getMeasurements _ _ _ => true
  | .getCsr _ => true
  | .setCertificate _ _ _ => true
  | .negotiateAlgorithms _ _ => true
  | .keyExchange _ _ => true
  | .challenge _ => true
  | .signatureComplete => true
  | .memrd r _ => r.wf
  | .memrddata r => r.wf
  | .meminv r _ => r.wf
  | .memwr r _ _ => r.wf
  | .memwrPartial r _ _ _ => r.wf
  | .memclnevct r => r.wf
  | .uioRead r => r.wf
  | .uioWrite r _ _ => r.wf
  | .atomicop r a _ => r.wf && a.wf
  | .birspi _ hpa => decide (hpa < 2 ^ 52)
  | .birsps _ hpa => decide (hpa < 2 ^ 52)
  | .hostBiconflict _ hpa _ => decide (hpa < 2 ^ 52)
  | .holdRelease _ _ => true
  | .tagDecision _ => true
  | .speculativeHoldExpiry _ => true
  | .retryQueueRetry _ => true
  | .bisnpTimeout _ => true
  | .leaseIdleExpiry _ => true
  | .leaseMaxExpiry _ => true
  | .cremaFillComplete _ _ => true
  | .evictionComplete _ _ _ => true
  | .farLineReadReturn _ _ _ => true
  | .cremaLineReadReturn _ _ => true
  | .mergeBufferRetire _ _ => true
  | .patrolScrubRead _ _ _ => true
  | .subtreeReinitEnd => true
  | .cryptoPipeParityMismatch _ _ => true
  | .cremaRefresh _ => true
  | .temperatureSample _ _ => true
  | .doubledRefreshRelease => true
  | .stackThrottleRelease => true
  | .dieThrottleRelease => true
  | .cremaChannelLoss _ => true
  | .rebuildWalkEnd => true
  | .rotationCopyDone => true
  | .rotationSourceDrained => true
  | .rotationTestDone _ _ => true
  | .rotationRetrainDone _ => true
  | .rotationFillDone => true
  | .requestPromotion _ => true
  | .farRefresh _ _ => true
  | .mr4Reading _ _ => true
  | .dimmHotDrain _ => true
  | .distWindowEnd _ => true
  | .dqsOscillatorReading _ _ => true
  | .recentringStepEnd _ => true
  | .recentringFail _ => true
  | .farChannelLoss _ => true
  | .softPprStart _ _ => true
  | .softPprEnd _ => true
  | .hardPprComplete _ => true
  | .pressDecodeComplete _ _ _ => true
  | .pressCodeComplete _ _ => true
  | .sectorRelease => true
  | .pressEngineLoss _ => true
  | .fenceDrainAck _ => true
  | .fenceOff _ => true
  | .fenceStuck _ => true
  | .domainPowerOnDone _ => true
  | .fabricParityError _ _ _ => true
  | .dlDown _ => true
  | .linkDownWritesClosed _ => true
  | .hotReset _ => true
  | .flr _ ld => decide (ld < 16)
  | .cxlReset _ ld _ => decide (ld < 16)
  | .linkTrainingComplete _ res => res.wf
  | .linkRecovery _ width rate _ => widthOk width && rateOk rate
  | .l0pWidthChange _ width => widthOk width
  | .ideIntegrityFailure _ _ => true
  | .ideKm _ _ _ => true
  | .viralReceived _ => true
  | .relayLinkTrained _ _ _ width => widthOk width
  | .relayAuthComplete _ _ _ _ startSeq => decide (startSeq < 2 ^ 12)
  | .dataFlit _ f => f.wfData
  | .rollFlit _ f r => f.wfAs 2 && r.wf
  | .ackFlit _ f => f.wfAs 3
  | .snakFlit _ f _ _ => f.wfAs 4
  | .creditFlit _ f _ => f.wfAs 5
  | .idleFlit _ f => f.wfAs 6
  | .haltFlit _ f _ _ => f.wfAs 7
  | .snakRepeatTimer _ => true
  | .ackTimer _ => true
  | .replayTimeout _ => true
  | .creditTimeout _ => true
  | .holdLimitExpiry _ => true
  | .creditHoldRefresh _ => true
  | .rttMeasurement _ _ => true
  | .recoveryTimeout _ => true
  | .relayRecoveryExit _ width => widthOk width
  | .cutEraseEnd => true
  | .rollCallWaitExpiry => true
  | .rollCallReturnTimeout => true
  | .memberLoss _ _ => true
  | .cmdRspTimeout => true
  | .memRd m => m.wf
  | .memRdData m => m.wf
  | .memInv m => m.wf
  | .memWr m _ => m.wf
  | .memWrPtl m _ _ => m.wf
  | .memClnEvct m => m.wf
  | .uioRd m => m.wf
  | .uioWr m _ => m.wf
  | .uioWrPtl m _ _ => m.wf
  | .uioAtomic m a => m.wf && a.wf
  | .cmp m => m.wf
  | .data m _ => m.wf
  | .atomicData m _ => m.wf
  | .bisnpData m => m.wf
  | .bisnpInv m => m.wf
  | .birspI m => m.wf
  | .birspS m => m.wf
  | .biconflict m => m.wf
  | .biconflictAck m => m.wf
  | .spdm m _ => m.wf
  | .keyNext m _ atSeq => m.wf && decide (atSeq < 2 ^ 128)
  | .hello m => m.wf
  | .memberState m rec => m.wf && rec.wf
  | .cut m => m.wf
  | .portReset m _ => m.wf
  | .viralOn m _ => m.wf
  | .viralOff m _ => m.wf
  | .cmd m _ _ => m.wf
  | .cmdRsp m _ _ => m.wf
  | .event m record => m.wf && record.wf
  | .linkBroken m _ _ => m.wf
  | .ready m => m.wf
  | .relayRecoveryEntry _ => true
  | .relayLinkDown _ => true
  | .stageCheckComplete => true
  | .canisterStoreComplete => true
  | .canisterEraseComplete => true
  | .smbusLowTimeout => true

end Sys2Proof
end

