-- ==== Sys2Proof/Certificates/Slice0/Obligations.lean ====
section
/-! DEFINITION. Sys2Proof/Certificates/Slice0/Obligations.lean: the statements for the provers. `Completes c s P` says that
the command answers a next state, with the queue as it was, of which `P` holds. -/

open Sys2Proof Sys2Proof.Machine

/-- A fault with a cause of the retried kind ended an attempt or the ON state (R514, R515): the gates are low, the main rail
is gone, the record holds cause and failure count with the marker closed, and the inlet waits, or is latched at the third. -/
abbrev Failed (a d : Dev) (cause : Nat) : Prop :=
  d.pwr.gates = false ∧ d.pwr.powerGood = false ∧ d.can.inlet.cause = cause ∧ d.can.inlet.marker = false ∧
    d.can.inlet.fails = min 3 (a.fld Fld.inlSts_fails + 1) ∧
    d.pwr.inlet = (if 3 ≤ a.fld Fld.inlSts_fails + 1 then .latched else .wait) ∧
    (a.pwr.powerGood = true → d.mode = .cold)

/-- A fault with one of the causes 0x06 to 0x08 (R513, R515, R521): latched at once, FAILS kept. -/
abbrev Latched (a d : Dev) (cause : Nat) : Prop :=
  d.pwr.gates = false ∧ d.pwr.powerGood = false ∧ d.can.inlet.cause = cause ∧ d.can.inlet.marker = false ∧
    d.can.inlet.fails = a.can.inlet.fails ∧ d.can.inlet.latched = true ∧ d.pwr.inlet = .latched ∧
    (a.pwr.powerGood = true → d.mode = .cold)

/-- No pour is under way, or the device stands at a pour's boundary: its cycle 0 (R24). -/
abbrev AtBoundary (d : Dev) : Prop := d.clk.running = true → d.clk.cyc = 0

/-- A clear of the inlet acts (R517): FAILS and the record are cleared, the inlet stays, a delay starts in WAIT and LATCHED. -/
abbrev Cleared (a d : Dev) : Prop :=
  d.can.inlet.fails = 0 ∧ d.can.inlet.cause = 0 ∧ d.can.inlet.latched = false ∧ d.fld Fld.inlSts_fails = 0 ∧
    d.pwr = { a.pwr with clearDue := a.pwr.clearDue || a.inletIn [.wait, .latched] } ∧
    (a.mode = .cold → d.can.atBoot = a.can.atBoot ++ [(0x1E3, [])])

/-- What a completed pair of INL_OVERRIDE with value `v` does (R518): OFF ends an attempt or the ON state without a fault, OFF = 0
brings a present board back to CHECK, and in every other state the inlet stays. -/
abbrev Overridden (a d : Dev) (v : Word) : Prop :=
  d.reg Off.inlOverride = v &&& 3 ∧
    (v.getLsbD 0 = true → a.inletIn [.check, .prechg, .ramp, .on] = true →
      d.pwr.inlet = .off ∧ d.pwr.gates = false ∧ d.pwr.powerGood = false ∧ d.can.inlet = { a.can.inlet with marker := false } ∧
        d.can.atBoot = a.can.atBoot ∧ (a.pwr.powerGood = true → d.mode = .cold)) ∧
    (v.getLsbD 0 = true → a.inletIn [.check, .prechg, .ramp, .on] = false → d.pwr = a.pwr ∧ d.can = a.can) ∧
    (v.getLsbD 0 = false → a.inletIn [.off] = true → a.pwr.prsntLow = true → a.flag Fld.inlSts_removal = false →
      d.pwr = { a.pwr with inlet := .check, gates := false } ∧ d.can = a.can) ∧
    (v.getLsbD 0 = false → (a.inletIn [.off] = false ∨ a.pwr.prsntLow = false ∨ a.flag Fld.inlSts_removal = true) →
      d.pwr = a.pwr ∧ d.can = a.can)

/-- The device is in mode `m`, no HALT is detected and no thermal hold runs: a step of the start-up sequence may end (R42). -/
abbrev InStep (d : Dev) (m : Mode) : Prop := d.mode = m ∧ d.ras.haltAt = none ∧ d.thm.hold = false

/-- A software request to DRAIN is committed, in one of the modes in which R44 lets it stand. -/
abbrev DrainAsked (d : Dev) (target : Nat) (flush : Bool) : Prop :=
  (d.mode = .serve ∨ d.mode = .degraded ∨ d.mode = .drowse ∨ (d.mode = .await ∧ target ≠ 3)) ∧ d.ras.haltAt = none ∧
    d.due.target = some (target, flush)

/-- DRAIN has begun towards `dest` (R55). -/
abbrev Draining (a d : Dev) (dest : Nat) (flush : Bool) : Prop :=
  d.mode = .drain ∧ d.fld Fld.glbModeSts_drainDest = dest ∧ d.flag Fld.glbModeSts_drained = false ∧
    d.fld Fld.glbModeSts_prevMode = a.mode.code ∧ d.due.drainStep = 1 ∧ d.due.drainFlush = flush ∧
    d.due.returnMode = a.mode ∧ d.due.target = none

/-- No HALT cause is detected, in one of the modes in which units work. -/
abbrev Live (d : Dev) : Prop := d.mode ≠ .cold ∧ d.mode ≠ .halt ∧ d.ras.haltAt = none

/-- A HALT cause has been detected at this moment (R487): the keys are gone, nothing is outstanding, the registers name it. -/
abbrev HaltDetected (a d : Dev) (code : Nat) : Prop :=
  d.ras.haltAt = some (a.stamp, code) ∧ d.cry.key = none ∧ d.cry.oldKey = none ∧ d.cry.majorNext = 0 ∧ d.txns = [] ∧
    d.fld Fld.rasHaltCause_cause = code ∧ d.fld Fld.rasHaltCause_mode = a.mode.code ∧ d.flag Fld.rasHaltCause_valid = true ∧
    d.mode = a.mode ∧ d.mem = a.mem ∧ d.can.storing = none

/-- An offset of the register pages whose read has no effect of its own beyond clearing what its RC fields return. -/
abbrev PlainRead (off : Nat) : Prop :=
  off % 4 = 0 ∧ off < 0x400000 ∧
    off ∉ [Off.glbPourLo, Off.cryMajorNextLo, Off.stgCommitPourLo, Off.indAddr, Off.indData, Off.pmuOvfLo, Off.pmuOvfHi]

/-- An offset of the register pages where a write changes RW fields and nothing else: no window, no control that acts at a
boundary, no keyed pair, no posting, no staged field. -/
abbrev PlainWrite (off : Nat) : Prop :=
  off % 4 = 0 ∧ off < 0x400000 ∧ off ∉ [Off.indAddr, Off.indData, Off.snapCtl, Off.sealCommit, Off.pmuCtl, Off.pmuHistClr] ∧
    ¬ (0x280100 ≤ off ∧ off < 0x280300) ∧ ¬ (0x280400 ≤ off ∧ off < 0x280410) ∧ keyedOffsets.contains off = false ∧
    keyedOffsets.contains (off - 4) = false ∧ accMask (·.rwp) off = 0 ∧ isStaged off = false

/-- The register after a write of `v` to its RW fields (R411, R412). -/
def rwWord (d : Dev) (off : Nat) (v : Word) : Word := (d.reg off &&& ~~~(accMask (·.rw) off)) ||| (v &&& accMask (·.rw) off)

/-- The window's register after one access (R418): with AUTO the offset moves on by 4 and wraps. -/
def indNext (a : Word) : Word := if a.getLsbD 31 then setFieldOf a 2 23 (fieldOf a 2 23 + 1) &&& 0xC1FFFFFC else a

/-- No transaction waits its turn at the home: whatever the device does next, only it moves. -/
abbrev Quiet (d : Dev) : Prop := ∀ x ∈ d.txns, x.phase ≠ .ordered

/-- The words of a tenant's table range when a resize has taken effect: what stays of the near partition and what is added, the
same of the static far partition, and the regions' entries behind them (R82, R83). -/
def resizeWords (d : Dev) (t : TenantId) (b : TenantBody) : List Word :=
  let ws := d.extWords t
  let (near, stat) := (d.fld (Fld.tntPart_nearBlk t.val), d.fld (Fld.tntPart_staticBlk t.val))
  let fresh := if d.flag (Fld.tntPart_staticC t.val) then d.poolWords (d.tenant t).staticPool else d.farWords b.members
  (ws.take near).take b.near ++ d.nearWords.take (b.near - near) ++ ((ws.drop near).take stat).take b.stat ++
    fresh.take (b.stat - stat) ++ ws.drop (near + stat)

/-- The first check that a check of the staging set now reports (R423): the bookings of the planned guarantees are staged first. -/
def checkOutcome (d : Dev) : Option CheckFail :=
  ({ d with noc := { d.noc with slotsStaged := d.planned.bookings } } : Dev).runChecks

/-- The static far partition of a create: blocks of the pool, or of the members it allows. -/
def createWords (d : Dev) (b : TenantBody) : List Word :=
  d.nearWords.take b.near ++ (if b.comp then d.poolWords b.pool else d.farWords b.members).take b.stat

/-- A staged create that binds an LD. -/
def StagedLd (p : PortId) (ld : Nat) (c : StagedCmd) : Bool :=
  match c with | .tenant true _ p' l _ _ _ _ _ _ _ _ => p' == p && l == ld | _ => false

/-- A near line of this device that stands in a channel in service. -/
abbrev NearLine (d : Dev) (ma : Nat) : Prop :=
  maMember ma = d.chainId ∧ maFar ma = false ∧ d.unbacked (maPage ma) = false ∧ d.lostPending (maPage ma) (maLine ma) = false

/-- A far line of this device in a channel in service, outside every poisoned subtree, whose page no frame holds. -/
abbrev FarLine (d : Dev) (ma : Nat) : Prop :=
  maMember ma = d.chainId ∧ maFar ma = true ∧ d.farGone ma = false ∧ d.findWay (maPage ma) false = none ∧
    d.inSubtree (d.farLoc (maOff ma)).ch ((d.farLoc (maOff ma)).cli / 64) = false

/-- Barista takes commands of the fabric manager: the media serve, Barista runs, no recovery. -/
abbrev FmTaken (d : Dev) : Prop :=
  d.mode ≠ .cold ∧ d.mode ≠ .fill ∧ d.mode ≠ .boot ∧ d.mode ≠ .halt ∧ d.halted = false ∧ d.mb.state = .running ∧
    d.flag Fld.glbModeSts_recovery = false

/-- A region of a tenant. -/
def dcRegion (d : Dev) (t : TenantId) (r : Nat) : DcRegion := vget (⟨0, 0, 0⟩ : DcRegion) (d.tenant t).regions r

/-- Does a host reach the line through a decoder that it shares with the device's own coherence (HDM-DB)? -/
def viaDb (d : Dev) (r : HostReq) (x : Decoded) : Bool :=
  match vget none (d.ldOf r.port r.ld).dec x.dec with | some h => h.cfg.bi | none => false

/-- No host holds the line, and the set of its directory entry has a free way. -/
abbrev Unshared (d : Dev) (k : Nat) : Prop :=
  d.dirFind k = none ∧ d.imprecise k = false ∧ ∃ i ∈ (d.dirVictim k).toList, (d.dirAt i).st = .invalid

/-- A host's request reaches the line at `ma` of this device at once: its port serves, its LD is bound to the ACTIVE tenant `t`, a
decoder and an extent map its address, the mode and regulation let it pass, and nothing else is open on the device. -/
abbrev Reaches (d : Dev) (r : HostReq) (t : TenantId) (x : Decoded) (ma : Nat) : Prop :=
  d.portOpen r.port = true ∧ d.oldPartner r.port = false ∧ d.flag (Fld.prtViralSts_rx (portIdx r.port)) = false ∧ r.ld < 16 ∧
    d.tenantOf r.port r.ld = some t ∧ d.tntState t = 1 ∧ hdmDecode (d.ldOf r.port r.ld) r.hpa = some x ∧
    (d.mode = .serve ∨ d.mode = .degraded ∨ d.mode = .drowse) ∧ d.distHeld t x.dpa = false ∧
    d.mayEnter t (d.partClass t (d.partition t (x.dpa >>> 28))) ≠ .hold ∧ extV (d.extOfDpa t x.dpa) = true ∧
    extMember (d.extOfDpa t x.dpa) = d.chainId ∧ ma = maOf (d.extOfDpa t x.dpa) x.dpa ∧ d.txns = [] ∧
    d.leaseOf (lineKey ma) = none ∧ d.snoopOf (lineKey ma) = none ∧
    (viaDb d r x = true → Unshared d (lineKey ma))

/-- The one open transaction: a host's request that waits for its Crema line, or of a far line for its tag decision. -/
abbrev Waits (d s : Dev) (r : HostReq) (op : Op) (ma : Nat) : Prop :=
  (d.txns.map fun y => (y.id, y.org, y.op, y.ma, y.phase)) =
    [(s.nextTxn, .host r.port r.ld r.tag r.hpa, op, ma, if maFar ma then .tag else .crema)]

/-- The last thing that left is the completion of a host's request without data. -/
def cmpTo (d : Dev) (r : HostReq) (md : Meta) : Bool :=
  match d.out.head? with | some (.cxlCmp p ld tag m _) => p == r.port && ld == r.ld && tag == r.tag && m == md | _ => false

/-- Do flipped bits of its words make a Crema line lost or stored poison to its reader (R183)? -/
def readsLost (flips : List (BitVec 80)) : Bool :=
  match Code.d78.decodeLine false flips with
  | .good _ residue => lineCheckFails residue flips
  | _ => true

/-- The last thing that left is the data of a host's read, with its poison. -/
def dataTo (d : Dev) (x : Txn) (l : Line) (po : Bool) : Bool :=
  match d.out.head?, x.org with
  | some (.cxlData p ld tag v q md _), .host p' ld' tag' _ => p == p' && ld == ld' && tag == tag' && v == l && q == po && md == x.md
  | some (.uioData p ld tag v q), .host p' ld' tag' _ => p == p' && ld == ld' && tag == tag' && v == l && q == po && x.op == .uioRd
  | _, _ => false

/-- Transaction `x` of a host is the only one open, in a phase, and its port's link is up and not viral. -/
abbrev Only (d : Dev) (x : Txn) (ph : Phase) : Prop :=
  d.live = true ∧ d.txns = [x] ∧ x.phase = ph ∧ x.port.isSome = true ∧
    ∀ p ∈ x.port.toList, d.isDown p = false ∧ d.flag (Fld.prtViralSts_rx (portIdx p)) = false

/-- What is open now: one transaction, in a phase. -/
abbrev Now (d : Dev) (x : Txn) (ph : Phase) : Prop := (d.txns.map fun y => (y.id, y.op, y.ma, y.phase)) = [(x.id, x.op, x.ma, ph)]

/-- The link of a port takes one message of this opcode and class at once: KEYED, nothing queued, room for replay, credit. -/
abbrev Room (d : Dev) (p : PortId) (opc : Nat) (c : Cls) : Prop :=
  d.rlyState p = 3 ∧ (d.rlyOf p).queue = [] ∧ (d.rlyOf p).replay.length < 1024 ∧
    16 ≤ d.txCredit p (vcOf (d.fld (Fld.rlyLinkSts_vcs (portIdx p))) opc c)

/-- The last thing that left is this message on a Relay port. -/
abbrev Sent (d : Dev) (p : PortId) (m : RelayMsg) (opc : Nat) (payload : List (BitVec 128)) : Prop :=
  d.out.head? = some (.relay p m opc payload)

/-- No test brew runs, whose abort would leave its arrays untold. -/
abbrev NoTest (d : Dev) : Prop := ∀ b ∈ d.mb.fg.toList, isTest b.work = false

/-- Nothing that a host stored has changed: contents, open transactions, tenants, and the mode. -/
abbrev Undisturbed (d s : Dev) : Prop := d.mem = s.mem ∧ d.txns = s.txns ∧ d.tenants = s.tenants ∧ d.mode = s.mode

/-- A flit that passes every check, with nothing missing before it, on a link that is KEYED. -/
abbrev InOrder (d : Dev) (p : PortId) (f : Flit) : Prop :=
  d.keyed p = true ∧ f.fecOk = true ∧ f.crcOk = true ∧ f.tagOk = true ∧ f.seq % 4096 = (d.rlyOf p).rxNext % 4096

/-- The control counter of the flit is newer than the last one taken. -/
abbrev Newer (d : Dev) (p : PortId) (f : Flit) : Prop := ∀ c ∈ (d.rlyOf p).ctrlRx.toList, c < f.ctrl

/-- Flits with a sequence number that have left. -/
def dataOut (d : Dev) : Nat := (d.out.filter fun o => match o with | .ctrl _ _ _ => false | _ => true).length

/-- The replay buffer without the flits that this flit acknowledges (R366). -/
def unacked (d : Dev) (p : PortId) (f : Flit) : List TxFlit :=
  (d.rlyOf p).replay.filter fun x => !decide ((f.ackSeq % 4096 + 4096 - x.seq % 4096) % 4096 < 2048)

/-- A message on Relay-up for this member, with the HOPS that its position demands (R377). -/
abbrev ForMe (d : Dev) (m : RelayMsg) : Prop := d.upBrings = true ∧ m.hops + 1 = d.chainId ∧ m.dest = d.chainId

/-- A message on Relay-up for a later member, whose link has room. -/
abbrev Onward (d : Dev) (m : RelayMsg) (q : PortId) (opc : Nat) : Prop :=
  d.upBrings = true ∧ m.hops + 1 = d.chainId ∧ d.chainId < m.dest ∧ d.relayDown = some q ∧ Room d q opc m.cls

/-- A message of a member at the head, with the HOPS of its sender's position (R377). -/
abbrev AtHead (d : Dev) (m : RelayMsg) : Prop := d.downBrings = true ∧ d.isHead = true ∧ m.hops + 1 = m.src

/-- A message from further down the chain on its way to the head, through a member whose Relay-up has room. -/
abbrev Upward (d : Dev) (m : RelayMsg) (q : PortId) (opc : Nat) : Prop :=
  d.downBrings = true ∧ d.isHead = false ∧ d.relayUp = some q ∧ Room d q opc m.cls

/-- A request for the idle line at `ma` of this member, which serves and which no VIRAL_ON or cut concerns. -/
abbrev Asks (d : Dev) (m : RelayMsg) (ma : Nat) : Prop :=
  ForMe d m ∧ ma / 64 = m.line ∧ d.modeHolds = false ∧ d.mode ≠ .maint ∧ d.flag Fld.rlyChainSts_cut = false ∧ d.chain.viralPorts = 0 ∧
    m.poison = false ∧ d.txns = [] ∧ d.home.acksDue = [] ∧ d.leaseOf (lineKey ma) = none ∧ d.snoopOf (lineKey ma) = none ∧ (m.db = true → Unshared d (lineKey ma))

/-- The one open transaction: a request of the head that waits for its Crema line, or of a far line for its tag decision. -/
abbrev WaitsUp (d s : Dev) (m : RelayMsg) (op : Op) (ma : Nat) : Prop :=
  (d.txns.map fun y => (y.id, y.org, y.op, y.ma, y.phase)) = [(s.nextTxn, .relay m.src m.tag, op, ma, if maFar ma then .tag else .crema)]

/-- The answer of this member to a request (R377). -/
def replyTo (d : Dev) (m : RelayMsg) (poison : Bool) (dslots : Nat) : RelayMsg :=
  { tag := m.tag, dest := m.src, src := d.chainId, cls := m.cls, tenant := m.tenant, sharer := if m.db then m.sharer else 0, db := m.db,
    comp := m.comp, poison := poison, dslots := dslots, line := m.line, opx := metaCode (metaOf m.opx), hops := 0 }

/-- The members that are present from position k on. -/
def presentFrom (d : Dev) (k : Nat) : List Nat := (List.range 8).filter fun m => decide (k ≤ m ∧ 1 ≤ m) && d.fld (Fld.rlyMember_state m) != 0

/-- A roll call is under way at the head: EPOCH is one more, its start is noted, and its ROLL waits or has left. -/
abbrev Rolling (d s : Dev) (again : Bool) : Prop :=
  d.fld Fld.rlyChainSts_epoch = (s.fld Fld.rlyChainSts_epoch + 1) % 256 ∧ d.chain.rolling = some (s.now, again)

/-- The Relay-down link of a head is KEYED. -/
abbrev DownKeyed (d : Dev) : Prop := d.isHead = true ∧ ∃ p ∈ d.relayDown.toList, d.rlyState p = 3

/-- The change that a command names for a pour boundary, where it is one of these (R14, R15). -/
def boundaryChange : Instr → Option (Dev → Dev)
  | .fillComplete arraysOk => some (Dev.edgeFillComplete arraysOk)
  | .bootComplete sigFailA sigFailB dimms => some (Dev.edgeBootComplete sigFailA sigFailB dimms)
  | .trainComplete failed => some (Dev.edgeTrainComplete failed)
  | .awaitTrigger => some (Dev.edgeAwaitTrigger)
  | .thermalHoldEnd => some (Dev.edgeThermalHoldEnd)
  | .drainLastTransactionClosed => some (Dev.edgeDrainLastTransactionClosed)
  | .drainPauseBoundary => some (Dev.edgeDrainPauseBoundary)
  | .drainDestinationAction => some (Dev.edgeDrainDestinationAction)
  | .thermalWakeCountExpiry => some (Dev.edgeThermalWakeCountExpiry)
  | .wakeComplete => some (Dev.edgeWakeComplete)
  | .drowseIdleExpiry ch => some (Dev.edgeDrowseIdleExpiry ch)
  | .channelWake ch => some (Dev.edgeChannelWake ch)
  | .unitRestored => some (Dev.edgeUnitRestored)
  | .holdExpiry line => some (Dev.edgeHoldExpiry line)
  | .tenantSequenceStart t => some (Dev.edgeTenantSequenceStart t)
  | .tenantSquash t => some (Dev.edgeTenantSquash t)
  | .tenantSequenceEnd t => some (Dev.edgeTenantSequenceEnd t)
  | .rekeyStart healthOk => some (Dev.edgeRekeyStart healthOk)
  | .subkeyDerivationDone => some (Dev.edgeSubkeyDerivationDone)
  | .rekeyPageAdvance ch => some (Dev.edgeRekeyPageAdvance ch)
  | .rekeyDone => some (Dev.edgeRekeyDone)
  | .softRepairRowSwap flips => some (Dev.edgeSoftRepairRowSwap flips)
  | .cremaChannelLoss c => some (Dev.edgeCremaChannelLoss c)
  | .rebuildWalkEnd => some (Dev.edgeRebuildWalkEnd)
  | .rotationCopyDone => some (Dev.edgeRotationCopyDone)
  | .subtreeReinitEnd => some (Dev.edgeSubtreeReinitEnd)
  | .doubledRefreshRelease => some (Dev.edgeDoubledRefreshRelease)
  | .stackThrottleRelease => some (Dev.edgeStackThrottleRelease)
  | .dieThrottleRelease => some (Dev.edgeDieThrottleRelease)
  | .dimmHotDrain ch => some (Dev.edgeDimmHotDrain ch)
  | .distWindowEnd ch => some (Dev.edgeDistWindowEnd ch)
  | .recentringStepEnd ch => some (Dev.edgeRecentringStepEnd ch)
  | .farChannelLoss ch => some (Dev.edgeFarChannelLoss ch)
  | .softPprStart ch flips => some (Dev.edgeSoftPprStart ch flips)
  | .softPprEnd ch => some (Dev.edgeSoftPprEnd ch)
  | .sectorRelease => some (Dev.edgeSectorRelease)
  | .pressEngineLoss engine => some (Dev.edgePressEngineLoss engine)
  | .fenceOff n => some (Dev.edgeFenceOff n)
  | .fenceStuck n => some (Dev.edgeFenceStuck n)
  | .domainPowerOnDone n => some (Dev.edgeDomainPowerOnDone n)
  | .linkDownWritesClosed port => some (Dev.edgeLinkDownWritesClosed port)
  | .memberLoss k cause => some (Dev.edgeMemberLoss k cause)
  | .sealScanStart => some (Dev.edgeSealScanStart)
  | .powerCapSample deciWatts => some (Dev.edgePowerCapSample deciWatts)
  | .powerCapRelease => some (Dev.edgePowerCapRelease)
  | .guaranteeWindowCheck => some Dev.edgeGuaranteeWindowCheck
  | _ => none

/-- A committed TARGET's own commands: behind changes from hardware (R15, R45). -/
def requestRow : Instr → Bool
  | .modeReqDrainReset | .modeReqDrainRemoval | .modeReqDrainHibernate | .modeReqWake | .modeReqDrainMaint | .modeReqLeaveMaint => true
  | _ => false

/-- A pour has ended: the counter is one on and stands in cycle 0. -/
abbrev NextPour (d s : Dev) : Prop := d.clk = ⟨true, s.clk.pour + 1, 0⟩

/-- The pairs of the mode table of R38, but for those that end in COLD or in HALT. -/
def modeTable : List (Mode × Mode) :=
  [(.cold, .fill), (.fill, .boot), (.boot, .train), (.boot, .maint), (.train, .await), (.train, .maint), (.await, .serve),
   (.await, .degraded), (.serve, .degraded), (.degraded, .serve), (.serve, .drowse), (.drowse, .serve), (.drowse, .degraded),
   (.await, .drain), (.serve, .drain), (.degraded, .drain), (.drowse, .drain), (.maint, .drain), (.drain, .hibernate),
   (.drain, .maint), (.hibernate, .await), (.hibernate, .serve), (.hibernate, .degraded), (.hibernate, .maint), (.maint, .await),
   (.maint, .train)]

/-- What the rest of the device keeps while only registers, records, pins or links move. -/
abbrev MediaKept (d s : Dev) : Prop :=
  d.mem = s.mem ∧ d.frames = s.frames ∧ d.txns = s.txns ∧ d.home = s.home ∧ d.tenants = s.tenants ∧ d.ext = s.ext ∧ d.crm = s.crm ∧ d.prs = s.prs

/-- The inlet goes from OFF through CHECK, PRECHG and RAMP to ON, and back to OFF without a fault -/
def Obligations.InletAttemptReachesOn : Prop :=
  (∀ s : State, s.dev.pwr.vaux = true → s.dev.pwr.inlet = .off → s.dev.pwr.prsntLow = false → s.dev.flag Fld.inlOverride_off = false →
    Completes .prsntNLow s fun d => d.pwr.inlet = .check ∧ d.pwr.prsntLow = true ∧ d.pwr.gates = false ∧
      d.can = s.dev.can ∧ d.pwr.powerGood = s.dev.pwr.powerGood) ∧
  (∀ (s : State) (m : InletMeas) (diode : Bool), s.dev.pwr.vaux = true → s.dev.pwr.inlet = .check → 10 * m.vout ≤ m.vin → 1080 ≤ m.vin →
    Completes (.inletCheckPass m diode) s fun d => d.pwr.inlet = .prechg ∧ d.pwr.gates = true ∧
      d.can.inlet = { s.dev.can.inlet with marker := true } ∧ d.can.atBoot = s.dev.can.atBoot ∧
      d.pwr.powerGood = s.dev.pwr.powerGood) ∧
  (∀ (s : State) (m : InletMeas), s.dev.pwr.vaux = true → s.dev.pwr.inlet = .prechg → 9 * m.vin < 10 * m.vout →
    Completes (.prechargeComplete m) s fun d => d.pwr.inlet = .ramp ∧ d.pwr.gates = true ∧ d.can = s.dev.can ∧
      d.pwr.powerGood = s.dev.pwr.powerGood) ∧
  (∀ (s : State) (m : InletMeas), s.dev.pwr.vaux = true → s.dev.pwr.inlet = .ramp → m.vin ≤ m.vout + 15 → m.vout ≤ m.vin + 15 → 800 ≤ m.gate →
    Completes (.rampComplete m) s fun d => d.pwr.inlet = .on ∧ d.pwr.gates = true ∧
      d.can.inlet = { s.dev.can.inlet with marker := false } ∧ d.can.atBoot = s.dev.can.atBoot ++ [(0x1E0, [])] ∧
      d.pwr.powerGood = s.dev.pwr.powerGood) ∧
  (∀ s : State, s.dev.pwr.vaux = true → s.dev.pwr.inlet = .wait → s.dev.pwr.clearDue = false → s.dev.inletOff = false →
    Completes .retryWaitExpiry s fun d => d.pwr.inlet = .prechg ∧ d.pwr.gates = true ∧
      d.can.inlet = { s.dev.can.inlet with marker := true } ∧ d.pwr.powerGood = s.dev.pwr.powerGood) ∧
  (∀ s : State, s.dev.pwr.vaux = true → (s.dev.pwr.inlet = .wait ∨ s.dev.pwr.inlet = .latched) → s.dev.pwr.clearDue = true →
    s.dev.inletOff = false →
    Completes .clearDelayExpiry s fun d => d.pwr.inlet = .check ∧ d.pwr.clearDue = false ∧ d.pwr.gates = false ∧
      d.can = s.dev.can ∧ d.pwr.powerGood = s.dev.pwr.powerGood) ∧
  (∀ s : State, s.dev.pwr.vaux = true → s.dev.pwr.inlet = .on →
    Completes .failsClearTimeout s fun d => d.can.inlet.fails = 0 ∧ d.fld Fld.inlSts_fails = 0 ∧ d.pwr = s.dev.pwr) ∧
  (∀ s : State, s.dev.pwr.vaux = true →
    (s.dev.pwr.inlet = .check ∨ s.dev.pwr.inlet = .prechg ∨ s.dev.pwr.inlet = .ramp ∨ s.dev.pwr.inlet = .on) →
    Completes .prsntNHigh s fun d => d.pwr.inlet = .off ∧ d.pwr.gates = false ∧ d.pwr.prsntLow = false ∧
      d.can.inlet = { s.dev.can.inlet with marker := false } ∧ d.can.atBoot = s.dev.can.atBoot ∧ d.pwr.powerGood = false)

/-- Every inlet fault takes the gates low, records its cause, and waits or latches by FAILS; causes 0x06 and 0x08 latch at once -/
def Obligations.InletFaultsRetryOrLatch : Prop :=
  (∀ (s : State) (m : InletMeas), s.dev.pwr.vaux = true → s.dev.pwr.inlet = .prechg →
    Completes (.prechargeTimeout m) s fun d =>
      Failed s.dev d 1) ∧
  (∀ (s : State) (m : InletMeas), s.dev.pwr.vaux = true → s.dev.pwr.inlet = .ramp →
    Completes (.rampNotTracking m) s fun d =>
      Failed s.dev d 2) ∧
  (∀ (s : State) (m : InletMeas), s.dev.pwr.vaux = true → (s.dev.pwr.inlet = .ramp ∨ s.dev.pwr.inlet = .on) →
    Completes (.currentLimitTimeout m) s fun d =>
      Failed s.dev d 3) ∧
  (∀ (s : State) (m : InletMeas), s.dev.pwr.vaux = true → (s.dev.pwr.inlet = .ramp ∨ s.dev.pwr.inlet = .on) →
    200 * s.dev.fld Fld.inlCfg_ilim < m.iout →
    Completes (.overcurrentTrip m) s fun d =>
      Failed s.dev d 4) ∧
  (∀ (s : State) (m : InletMeas), s.dev.pwr.vaux = true → (s.dev.pwr.inlet = .ramp ∨ s.dev.pwr.inlet = .on) →
    s.dev.fld Fld.inlFet_tmax ≤ s.dev.fetTemp m →
    Completes (.fetOvertemp m) s fun d =>
      Failed s.dev d 5) ∧
  (∀ (s : State) (m : InletMeas) (r : Option Rail), s.dev.pwr.vaux = true → s.dev.pwr.inlet = .on → s.dev.pwr.powerGood = false →
    Completes (.powerGoodTimeout m r) s fun d =>
      Failed s.dev d 9) ∧
  (∀ (s : State) (m : InletMeas), s.dev.pwr.vaux = true → s.dev.pwr.inlet = .ramp → m.gate < 250 →
    Completes (.gateRiseTimeout m) s fun d => Latched s.dev d 6) ∧
  (∀ (s : State) (m : InletMeas), s.dev.pwr.vaux = true →
    Completes (.thermtripNAssert m) s fun d => Latched s.dev d 8 ∧ d.pwr.thermtrip = true)

/-- Supplies, PERST_A_N and glitch resets start the device into FILL or take it to COLD -/
def Obligations.PowerAndResetPinsStartAndStop : Prop :=
  (∀ (s : State) (a : BitVec 2) (high low : Bool), s.dev.pwr.vaux = false →
    Completes (.vauxStart a high low) s fun d => d.pwr.vaux = true ∧ d.pwr.smbAddr = a ∧ d.pwr.prsntLow = !high ∧
      d.pwr.powerGood = false ∧ d.can.inlet.marker = false ∧
      (s.dev.can.inlet.latched = true → d.pwr.inlet = .latched ∧ d.pwr.gates = false) ∧
      (s.dev.can.inlet.marker = true → d.can.inlet.cause = 0x0A ∧ d.can.inlet.fails = min 3 (s.dev.can.inlet.fails + 1)) ∧
      (s.dev.can.inlet.latched = false → s.dev.can.inlet.marker = false → s.dev.can.inlet.fails = 0 →
        d.pwr.inlet = if high then .off else .check)) ∧
  (∀ s : State, s.dev.pwr.vaux = true →
    Completes .vauxLoss s fun d => d.pwr.vaux = false ∧ d.pwr.gates = false ∧ d.pwr.inlet = .off ∧ d.mode = .cold ∧
      d.can.inlet = s.dev.can.inlet) ∧
  (∀ (s : State) (r : Rail), s.dev.pwr.vaux = true → s.dev.pwr.powerGood = true → r ≠ .vaux →
    Completes (.mainRailLoss r) s fun d => d.mode = .cold ∧ d.pwr.powerGood = false ∧ d.pwr.inlet = s.dev.pwr.inlet ∧
      d.can.atBoot = s.dev.can.atBoot ++ [(0x1E7, [])]) ∧
  (∀ s : State, s.dev.pwr.vaux = true → s.dev.pwr.inlet = .on → s.dev.pwr.powerGood = false → s.dev.mode = .cold →
    s.dev.pwr.glitchReset = false → s.dev.pwr.glitchHold = false →
    Completes .powerGood s fun d => d.pwr.powerGood = true ∧ d.mode = if s.dev.pwr.perstALow then .cold else .fill) ∧
  (∀ s : State,
    Completes .perstANAssert s fun d => d.mode = .cold ∧ d.pwr.perstALow = true ∧ d.mem = Dev.init.mem ∧ d.txns = [] ∧
      d.pwr.inlet = s.dev.pwr.inlet ∧ d.can.inlet = s.dev.can.inlet ∧ d.fuses.lc = s.dev.fuses.lc) ∧
  (∀ (s : State) (x : BitVec 3), s.dev.mode = .cold → s.dev.pwr.powerGood = true → s.dev.pwr.glitchReset = false →
    s.dev.pwr.glitchHold = false →
    Completes (.perstANDeassert x) s fun d => d.mode = .fill ∧ d.pwr.perstALow = false ∧ d.pwr.straps = x ∧
      d.fld Fld.glbPortMode_mode = strapMode x) ∧
  (∀ (s : State) (ms : Nat), s.dev.pwr.vaux = true →
    Completes (.glitchDetect ms) s fun d => d.mode = .cold ∧ d.pwr.glitchReset = true ∧
      d.can.glitches = s.dev.can.glitches + 1 ∧ (s.dev.pwr.glitchHold = true → d.pwr.glitchHold = true)) ∧
  (∀ s : State, s.dev.pwr.glitchReset = true → s.dev.mode = .cold → s.dev.pwr.powerGood = true → s.dev.pwr.perstALow = false →
    s.dev.pwr.glitchHold = false → Completes .glitchResetRelease s fun d => d.pwr.glitchReset = false ∧ d.mode = .fill) ∧
  (∀ (s : State) (x y : Int), s.dev.pwr.vaux = true → s.dev.pwr.thermtrip = true → x < 90 → y < 90 →
    Completes (.thermtripRelease x y) s fun d => d.pwr.thermtrip = false ∧ d.pwr.inlet = s.dev.pwr.inlet)

/-- The keyed pairs of INL_CLEAR and INL_OVERRIDE, and XT_INLET_CLEAR, clear, stop and restart the inlet, or are refused -/
def Obligations.InletClearsAndOverridesAct : Prop :=
  (∀ (s : State) (src : Source) (key : Word), s.dev.canAccess src Off.inlClear = true → s.dev.pairReady src Off.inlClear 0x90 key →
    (s.dev.fld Fld.inlSts_cause ≠ 8 ∨ s.dev.pwr.islandTemp < 60) →
    Completes (.inlClear src key) s fun d => Cleared s.dev d ∧ d.armedBy src = none) ∧
  (∀ (s : State) (src : Source) (v key : Word), s.dev.canAccess src Off.inlClear = true → s.dev.pairReady src Off.inlClear v key →
    (v ≠ 0x90 ∨ (s.dev.fld Fld.inlSts_cause = 8 ∧ 60 ≤ s.dev.pwr.islandTemp)) →
    Completes (.inlClear src key) s fun d => d.reg Off.glbKeyfail = keyfailWord 3 Off.inlClear ∧ d.can = s.dev.can ∧ d.pwr = s.dev.pwr ∧
      d.fld Fld.inlSts_fails = s.dev.fld Fld.inlSts_fails ∧ d.armedBy src = none) ∧
  (∀ (s : State) (i : Iface) (p : Payload), s.dev.servesNow i 0xC090 → s.dev.ownPayload p 4 → leNat p 8 4 = 0xFFFFFF6F →
    (s.dev.fld Fld.inlSts_cause ≠ 8 ∨ s.dev.pwr.islandTemp < 60) →
    Completes (.xtInletClear i p) s fun d => Cleared s.dev d ∧ d.answered i rcSuccess 0xC090 []) ∧
  (∀ (s : State) (i : Iface) (p : Payload), s.dev.servesNow i 0xC090 → s.dev.ownPayload p 4 → leNat p 8 4 = 0xFFFFFF6F →
    s.dev.fld Fld.inlSts_cause = 8 → 60 ≤ s.dev.pwr.islandTemp →
    Completes (.xtInletClear i p) s fun d => d.reg Off.glbKeyfail = keyfailWord 3 Off.inlClear ∧ d.can = s.dev.can ∧ d.pwr = s.dev.pwr ∧
      d.answered i rcRetry 0xC090 []) ∧
  (∀ (s : State) (i : Iface) (p : Payload), s.dev.servesNow i 0xC090 → s.dev.ownPayload p 4 → leNat p 8 4 ≠ 0xFFFFFF6F →
    Completes (.xtInletClear i p) s fun d => d.reg Off.glbKeyfail = keyfailWord 1 Off.inlClear ∧ d.can = s.dev.can ∧ d.pwr = s.dev.pwr ∧
      d.answered i rcInvalidInput 0xC090 []) ∧
  (∀ (s : State) (src : Source) (v key : Word), s.dev.canAccess src Off.inlOverride = true → s.dev.pairReady src Off.inlOverride v key →
    Completes (.inlOverrideOff src key) s fun d => Overridden s.dev d v ∧ d.armedBy src = none) ∧
  (∀ (s : State) (src : Source) (v key : Word), s.dev.canAccess src Off.inlOverride = true → s.dev.pairReady src Off.inlOverride v key →
    Completes (.inlOverrideOn src key) s fun d => Overridden s.dev d v ∧ d.armedBy src = none) ∧
  (∀ (s : State) (src : Source) (v key : Word), s.dev.canAccess src Off.inlOverride = true → s.dev.pairReady src Off.inlOverride v key →
    Completes (.inlOverrideModel src key) s fun d => Overridden s.dev d v ∧ d.armedBy src = none)

/-- Posted writes set PEND and take their value at completion; the power cap sets and releases CAPPED; the FET model steps -/
def Obligations.PostedWritesPowerCapAndFetModel : Prop :=
  (∀ (s : State) (src : Source) (off : Nat) (v : Word), s.dev.canAccess src off = true → accMask (·.rwp) off ≠ 0 →
    (s.dev.reg off).getLsbD 31 = false →
    Completes (.postedWrite src off v) s fun d => d.reg off = s.dev.reg off ||| 0x80000000 ∧
      Sparse.get 0 d.acc.posting off = v) ∧
  (∀ (s : State) (src : Source) (off : Nat) (v : Word), s.dev.canAccess src off = true → accMask (·.rwp) off ≠ 0 →
    (s.dev.reg off).getLsbD 31 = true →
    Completes (.postedWrite src off v) s fun d => d.reg off = s.dev.reg off ∧ d.flag Fld.glbAccSts_postdrop = true ∧ d.acc = s.dev.acc) ∧
  (∀ (s : State) (src : Source) (off : Nat) (v : Word), (s.dev.canAccess src off = false ∨ accMask (·.rwp) off = 0) →
    Completes (.postedWrite src off v) s fun d => d = s.dev) ∧
  (∀ (s : State) (off : Nat) (v : Word), s.dev.acc.posting.find? (fun e => e.1 == off) = some (off, v) → postingOk off v = true →
    Completes (.postingComplete off) s fun d => d.reg off = ((s.dev.reg off &&& 0x7FFFFFFF) &&& ~~~(accMask (·.rwp) off)) ||| (v &&& accMask (·.rwp) off) ∧
      d.acc.posting = Sparse.erase s.dev.acc.posting off ∧
      d.can.inlet.cfg = (if off = Off.inlCfg then some (((s.dev.reg off &&& 0x7FFFFFFF) &&& ~~~(accMask (·.rwp) off)) ||| (v &&& accMask (·.rwp) off)) else s.dev.can.inlet.cfg) ∧
      d.can.inlet.fet = (if off = Off.inlFet then some (((s.dev.reg off &&& 0x7FFFFFFF) &&& ~~~(accMask (·.rwp) off)) ||| (v &&& accMask (·.rwp) off)) else s.dev.can.inlet.fet)) ∧
  (∀ (s : State) (v : Word), s.dev.acc.posting.find? (fun e => e.1 == Off.inlCfg) = some (Off.inlCfg, v) →
    postingOk Off.inlCfg v = false →
    Completes (.postingComplete Off.inlCfg) s fun d => d.reg Off.inlCfg = s.dev.reg Off.inlCfg &&& 0x7FFFFFFF ∧
      d.flag Fld.inlSts_cfgerr = true ∧ d.can = s.dev.can ∧ d.acc.posting = Sparse.erase s.dev.acc.posting Off.inlCfg) ∧
  (∀ (s : State) (v : Word), s.dev.acc.posting.find? (fun e => e.1 == Off.pwrCap) = some (Off.pwrCap, v) →
    postingOk Off.pwrCap v = false →
    Completes (.postingComplete Off.pwrCap) s fun d => d.reg Off.pwrCap = s.dev.reg Off.pwrCap &&& 0x7FFFFFFF ∧
      d.flag Fld.pwrSts_cfgerr = true ∧ d.can = s.dev.can ∧ d.acc.posting = Sparse.erase s.dev.acc.posting Off.pwrCap) ∧
  (∀ (s : State) (off : Nat), s.dev.acc.posting.find? (fun e => e.1 == off) = none →
    Completes (.postingComplete off) s fun d => d = s.dev) ∧
  (∀ (s : State) (w : Nat), AtBoundary s.dev → s.dev.live = true → s.dev.pwr.capNext ≤ s.dev.now → s.dev.flag Fld.pwrCap_en = true →
    s.dev.flag Fld.pwrSts_capped = false → s.dev.fld Fld.pwrCap_cap * 10 < w →
    Completes (.powerCapSample w) s fun d => d.flag Fld.pwrSts_capped = true ∧ d.due.factorDirty = true ∧ d.fld Fld.pwrSts_power = satN 16 w) ∧
  (∀ (s : State) (w : Nat), AtBoundary s.dev → s.dev.live = true → s.dev.pwr.capNext ≤ s.dev.now → s.dev.flag Fld.pwrCap_en = true →
    s.dev.flag Fld.pwrSts_capped = false → w ≤ s.dev.fld Fld.pwrCap_cap * 10 →
    Completes (.powerCapSample w) s fun d => d.flag Fld.pwrSts_capped = false ∧ d.due = s.dev.due ∧ d.fld Fld.pwrSts_power = satN 16 w) ∧
  (∀ (s : State) (w : Nat), AtBoundary s.dev → s.dev.live = true → s.dev.pwr.capNext ≤ s.dev.now → s.dev.flag Fld.pwrCap_en = true →
    s.dev.flag Fld.pwrSts_capped = true →
    Completes (.powerCapSample w) s fun d => d.flag Fld.pwrSts_capped = true ∧ d.due = s.dev.due ∧ d.fld Fld.pwrSts_power = satN 16 w ∧
      d.pwr.capBelow = if 100 * w < 95 * (s.dev.fld Fld.pwrCap_cap * 10) then some (s.dev.pwr.capBelow.getD s.dev.now) else none) ∧
  (∀ (s : State) (w : Nat), AtBoundary s.dev → s.dev.live = true → s.dev.pwr.capNext ≤ s.dev.now → s.dev.flag Fld.pwrCap_en = false →
    Completes (.powerCapSample w) s fun d => d.flag Fld.pwrSts_capped = false ∧ d.fld Fld.pwrSts_power = satN 16 w ∧
      d.due.factorDirty = (s.dev.due.factorDirty || s.dev.flag Fld.pwrSts_capped)) ∧
  (∀ (s : State) (w : Nat), AtBoundary s.dev → (s.dev.live = false ∨ s.dev.now < s.dev.pwr.capNext) →
    Completes (.powerCapSample w) s fun d => d = s.dev) ∧
  (∀ (s : State) (p : Nat), AtBoundary s.dev → s.dev.live = true → s.dev.flag Fld.pwrSts_capped = true → s.dev.pwr.capBelow = some p →
    p + 65536 ≤ s.dev.now →
    Completes .powerCapRelease s fun d => d.flag Fld.pwrSts_capped = false ∧ d.due.factorDirty = true ∧ d.pwr.capBelow = none) ∧
  (∀ s : State, AtBoundary s.dev → (s.dev.live = false ∨ s.dev.flag Fld.pwrSts_capped = false ∨ ∀ p ∈ s.dev.pwr.capBelow.toList, s.dev.now < p + 65536) →
    Completes .powerCapRelease s fun d => d = s.dev) ∧
  (∀ (s : State) (m : InletMeas), s.dev.pwr.vaux = true → s.dev.fld Fld.inlFet_tau ≠ 0 →
    Completes (.fetModelUpdate m) s fun d => d.pwr.inlet = s.dev.pwr.inlet ∧ d.pwr.gates = s.dev.pwr.gates ∧
      d.pwr.modelTemp = ((s.dev.pwr.modelTemp : Int) +
        ((m.iout : Int) * ((m.vin : Int) - m.vout) * (s.dev.fld Fld.inlFet_rth : Int) * 25000 -
          ((s.dev.pwr.modelTemp : Int) - (s.dev.fld Fld.inlFet_tamb : Int) * 10 ^ 9)) /
          ((1000 * s.dev.fld Fld.inlFet_tau : Nat) : Int)).toNat ∧
      d.pwr.fetHot = decide (s.dev.fld Fld.inlFet_tmax ≤ d.fetTemp m + 20)) ∧
  (∀ (s : State) (m : InletMeas), s.dev.pwr.vaux = true → s.dev.fld Fld.inlFet_tau = 0 →
    Completes (.fetModelUpdate m) s fun d => d.pwr.inlet = s.dev.pwr.inlet ∧ d.pwr.gates = s.dev.pwr.gates ∧
      d.pwr.modelTemp = (Config.freeValue s.dev.free).toNat ∧ d.free = s.dev.free + 1 ∧
      d.pwr.fetHot = decide (s.dev.fld Fld.inlFet_tmax ≤ d.fetTemp m + 20)) ∧
  (∀ (s : State) (m : InletMeas), s.dev.pwr.vaux = false → Completes (.fetModelUpdate m) s fun d => d = s.dev)

/-- FILL, BOOT and TRAIN run their steps and end in the mode R38 gives: BOOT, TRAIN or MAINT, AWAIT or MAINT -/
def Obligations.StartUpSequenceReachesAwait : Prop :=
  (∀ (s : State) (ok : Bool), s.dev.mode = .fill → s.dev.clk.running = false →
    Completes (.coreClockLock ok) s fun d => d.clk = ⟨true, 0, 0⟩ ∧ d.mode = .fill ∧
      (ok = true → d.cry.key = some s.dev.cry.draws ∧ d.cry.draws = s.dev.cry.draws + 1 ∧ d.cry.majorNext = 0 ∧
        d.flag Fld.crySts_keyValid = true ∧ d.due = s.dev.due) ∧
      (ok = false → d.due.fatalFill = true ∧ d.cry = s.dev.cry)) ∧
  (∀ (s : State) (r : List TsvResult), InStep s.dev .fill → s.dev.clk.running = true → s.dev.due.tsvDone = false →
    Completes (.tsvTrainingComplete r) s fun d => d.due.fillFailed = tsvFailed r ∧ d.crm.lanes = tsvLanes r ∧ d.mode = .fill ∧
      d.due.tsvDone = true ∧
      d.due.fatalFill = (s.dev.due.fatalFill || decide (2 < (rangeWhere 32 fun c => (tsvFailed r).getLsbD c).length))) ∧
  (∀ (s : State) (r : List TsvResult), s.dev.due.tsvDone = true → Completes (.tsvTrainingComplete r) s fun d => d = s.dev) ∧
  (∀ (s : State) (ok : Bool), AtBoundary s.dev → s.dev.due.tsvDone = false → Completes (.fillComplete ok) s fun d => d = s.dev) ∧
  (∀ (s : State) (ok : Bool), AtBoundary s.dev → InStep s.dev .fill → s.dev.clk.running = true → s.dev.due.tsvDone = true →
    Completes (.fillComplete ok) s fun d => d.mode = .boot ∧ d.clk = s.dev.clk ∧ d.due.fatalFill = (s.dev.due.fatalFill || !ok)) ∧
  (∀ (s : State) (sigA sigB : Option Nat) (l : List (List Dimm)), AtBoundary s.dev → InStep s.dev .boot →
    s.dev.verifyStep (s.dev.slotBytes s.dev.can.bootSlot) (if s.dev.can.bootSlot = 0 then sigA else sigB) = none →
    Completes (.bootComplete sigA sigB l) s fun d => d.mb.state = .running ∧ d.mb.slot = s.dev.can.bootSlot ∧
      d.mode = if s.dev.due.fatalFill then .maint else .train) ∧
  (∀ (s : State) (sigA sigB : Option Nat) (l : List (List Dimm)), AtBoundary s.dev → InStep s.dev .boot →
    s.dev.verifyStep (s.dev.slotBytes s.dev.can.bootSlot) (if s.dev.can.bootSlot = 0 then sigA else sigB) ≠ none →
    s.dev.verifyStep (s.dev.slotBytes (if s.dev.can.bootSlot = 0 then 1 else 0)) (if s.dev.can.bootSlot = 0 then sigB else sigA) = none →
    Completes (.bootComplete sigA sigB l) s fun d => d.mb.state = .running ∧ d.mb.slot = (if s.dev.can.bootSlot = 0 then 1 else 0) ∧
      d.mode = if s.dev.due.fatalFill then .maint else .train) ∧
  (∀ (s : State) (sigA sigB : Option Nat) (l : List (List Dimm)), AtBoundary s.dev → InStep s.dev .boot →
    s.dev.verifyStep (s.dev.slotBytes 0) sigA ≠ none → s.dev.verifyStep (s.dev.slotBytes 1) sigB ≠ none →
    Completes (.bootComplete sigA sigB l) s fun d => d.mode = .maint ∧ d.flag Fld.glbModeSts_recovery = true ∧
      d.mb.recovery = true) ∧
  (∀ (s : State) (failed : BitVec 8), AtBoundary s.dev → InStep s.dev .train →
    Completes (.trainComplete failed) s fun d =>
      d.mode = if (interleave s.dev.ileave).any (fun c => !failed.getLsbD c) then .await else .maint) ∧
  (∀ s : State, AtBoundary s.dev → (∀ q ∈ s.dev.due.modeAt.toList, q < s.dev.now) → InStep s.dev .await → s.dev.triggered = true →
    Completes .awaitTrigger s fun d => d.mode = if s.dev.unitLost then .degraded else .serve) ∧
  (∀ (s : State) (p : Nat), AtBoundary s.dev → s.dev.thm.hold = true → s.dev.thm.wakeCool = some p → p + 65536 ≤ s.dev.now →
    Completes .thermalHoldEnd s fun d => d.thm.hold = false ∧ d.mode = s.dev.mode ∧ d.due = s.dev.due ∧ d.mem = s.dev.mem ∧ d.thm = { s.dev.thm with hold := false, wakeCool := none })

/-- Committed mode requests start DRAIN with their destination, drain it step by step, and wake or leave MAINT again -/
def Obligations.ModeRequestsDrainAndReturn : Prop :=
  (∀ (s : State) (flush : Bool), AtBoundary s.dev → DrainAsked s.dev 1 flush →
    Completes .modeReqDrainReset s fun d => Draining s.dev d 1 flush ∧ (s.dev.mb.fg = none → d.mem = s.dev.mem)) ∧
  (∀ (s : State) (flush : Bool), AtBoundary s.dev → DrainAsked s.dev 2 flush →
    Completes .modeReqDrainRemoval s fun d => Draining s.dev d 2 flush ∧ (s.dev.mb.fg = none → d.mem = s.dev.mem)) ∧
  (∀ (s : State) (flush : Bool), AtBoundary s.dev → DrainAsked s.dev 3 flush →
    Completes .modeReqDrainHibernate s fun d => Draining s.dev d 3 flush ∧ (s.dev.mb.fg = none → d.mem = s.dev.mem)) ∧
  (∀ (s : State) (flush : Bool), AtBoundary s.dev → DrainAsked s.dev 5 flush →
    Completes .modeReqDrainMaint s fun d => Draining s.dev d 5 flush ∧ (s.dev.mb.fg = none → d.mem = s.dev.mem)) ∧
  (∀ s : State, AtBoundary s.dev → s.dev.due.drainAt < s.dev.now → s.dev.mode = .drain → s.dev.ras.haltAt = none → s.dev.due.drainStep = 1 → (∀ x ∈ s.dev.txns, x.phase = .modeHeld) →
    Completes .drainLastTransactionClosed s fun d => d.mode = .drain ∧ d.mem = s.dev.mem ∧
      d.due.drainStep = if s.dev.due.drainFlush = true ∧ s.dev.fld Fld.glbModeSts_drainDest ≠ 4 then 2 else 3) ∧
  (∀ (s : State) (errs : LineErrs), s.dev.mode = .drain → s.dev.ras.haltAt = none → s.dev.due.drainStep = 2 →
    Completes (.drainFlushComplete errs) s fun d => d.mode = .drain ∧ d.due.drainStep = if d.anyDirty then 2 else 3) ∧
  (∀ s : State, AtBoundary s.dev → s.dev.due.drainAt < s.dev.now → s.dev.mode = .drain → s.dev.ras.haltAt = none → s.dev.due.drainStep = 3 →
    Completes .drainPauseBoundary s fun d => d.mode = .drain ∧ d.due.drainStep = 4 ∧ d.due.rekeyPaused = true ∧
      d.flag Fld.glbModeSts_drained = true ∧ d.mem = s.dev.mem) ∧
  (∀ s : State, AtBoundary s.dev → s.dev.due.drainAt < s.dev.now → s.dev.mode = .drain → s.dev.ras.haltAt = none → s.dev.due.drainStep = 4 →
    Completes .drainDestinationAction s fun d =>
      (s.dev.fld Fld.glbModeSts_drainDest = 5 → d.mode = .maint ∧ d.flag Fld.glbModeSts_drained = false) ∧
      (s.dev.fld Fld.glbModeSts_drainDest = 3 ∨ s.dev.fld Fld.glbModeSts_drainDest = 4 →
        if s.dev.allQuiet then d.mode = .hibernate ∧ d.mem = s.dev.mem else d = s.dev) ∧
      (s.dev.fld Fld.glbModeSts_drainDest = 1 → d.mode = .drain ∧ d.due.drainStep = 5) ∧
      (s.dev.fld Fld.glbModeSts_drainDest = 2 → s.dev.pwr.powerGood = true →
        d.mode = .cold ∧ d.pwr.gates = false ∧ d.pwr.inlet = .off ∧ d.flag Fld.inlSts_removal = true)) ∧
  (∀ (s : State) (flush : Bool), AtBoundary s.dev → s.dev.mode = .hibernate → s.dev.ras.haltAt = none → s.dev.due.target = some (4, flush) →
    s.dev.fld Fld.glbModeSts_drainDest = 3 →
    Completes .modeReqWake s fun d => d.due.wakeAt = some (s.dev.due.wakeAt.getD s.dev.now) ∧ d.due.target = none ∧
      d.mode = .hibernate) ∧
  (∀ (s : State) (p : Nat), AtBoundary s.dev → s.dev.mode = .hibernate → s.dev.ras.haltAt = none → s.dev.fld Fld.glbModeSts_drainDest = 4 →
    s.dev.thm.wakeCool = some p → p + 65536 ≤ s.dev.now →
    Completes .thermalWakeCountExpiry s fun d => d.due.wakeAt = some (s.dev.due.wakeAt.getD s.dev.now) ∧ d.mode = .hibernate) ∧
  (∀ (s : State) (w : Nat), AtBoundary s.dev → s.dev.mode = .hibernate → s.dev.ras.haltAt = none → s.dev.due.wakeAt = some w → w + 196 ≤ s.dev.now →
    s.dev.due.returnMode ∈ ([.await, .serve, .degraded, .drowse, .maint] : List Mode) →
    Completes .wakeComplete s fun d => d.mode = (if s.dev.due.returnMode = .drowse then .serve else s.dev.due.returnMode) ∧
      d.flag Fld.glbModeSts_drained = false ∧ d.due.wakeAt = none) ∧
  (∀ (s : State) (flush : Bool), AtBoundary s.dev → s.dev.mode = .maint → s.dev.ras.haltAt = none → s.dev.due.target = some (6, flush) →
    s.dev.flag Fld.rasBistSts_coldReq = false → s.dev.advancing = false →
    Completes .modeReqLeaveMaint s fun d => d.mode = (if s.dev.due.trained then .await else .train) ∧ d.due.target = none) ∧
  (∀ s : State, AtBoundary s.dev → (s.dev.flag Fld.rasBistSts_coldReq = true ∨ s.dev.advancing = true) →
    Completes .modeReqLeaveMaint s fun d => d = s.dev)

/-- Far channels sleep and wake with DROWSE, a restored device serves again, and parity alerts count towards a loss -/
def Obligations.DrowseAndDegradedFollowTheUnits : Prop :=
  (∀ (s : State) (ch : FarCh), AtBoundary s.dev → (s.dev.mode = .serve ∨ s.dev.mode = .drowse) → s.dev.ras.haltAt = none → s.dev.degrading = false → s.dev.maySleep ch.val = true →
    Completes (.drowseIdleExpiry ch) s fun d => d.mode = .drowse ∧ d.fld (Fld.farChSts_state ch.val) = 3 ∧
      d.fld Fld.glbModeSts_sleepCh = s.dev.fld Fld.glbModeSts_sleepCh ||| 2 ^ ch.val ∧ d.mem = s.dev.mem ∧ d.txns = s.dev.txns) ∧
  (∀ (s : State) (ch : FarCh), AtBoundary s.dev → (s.dev.degrading = true ∨ s.dev.maySleep ch.val = false) →
    Completes (.drowseIdleExpiry ch) s fun d => d = s.dev) ∧
  (∀ (s : State) (ch : FarCh), AtBoundary s.dev → Live s.dev → s.dev.mode ≠ .hibernate → s.dev.fld (Fld.farChSts_state ch.val) = 3 →
    (s.dev.fch ch.val).wakeBy.isSome = true →
    Completes (.channelWake ch) s fun d => d.fld (Fld.farChSts_state ch.val) = 2 ∧ (d.fch ch.val).wakeBy = none ∧
      d.fld Fld.glbModeSts_sleepCh = s.dev.fld Fld.glbModeSts_sleepCh &&& (255 - 2 ^ ch.val) ∧ d.mem = s.dev.mem ∧
      d.mode = if s.dev.mode = .drowse ∧ s.dev.fld Fld.glbModeSts_sleepCh &&& (255 - 2 ^ ch.val) = 0 ∧ s.dev.due.degradeCause = none
        then .serve else s.dev.mode) ∧
  (∀ s : State, AtBoundary s.dev → s.dev.mode = .degraded → s.dev.ras.haltAt = none → s.dev.unitLost = false →
    Completes .unitRestored s fun d => d.mode = .serve ∧ d.mem = s.dev.mem ∧ d.txns = s.dev.txns) ∧
  (∀ (s : State) (ch : FarCh), s.dev.farAwake ch.val = true →
    Completes (.caParityAlert ch none false) s fun d => d.txns = s.dev.txns ∧ d.mem = s.dev.mem ∧ d.mode = s.dev.mode ∧
      (d.fch ch.val).caCount = (if (s.dev.fch ch.val).caPour = s.dev.now then (s.dev.fch ch.val).caCount + 1 else 1) ∧
      (d.fch ch.val).lossDue = ((s.dev.fch ch.val).lossDue || (decide (s.dev.fld Fld.rasLossCtl_caLimit ≠ 0) &&
        decide (s.dev.fld Fld.rasLossCtl_caLimit ≤ (d.fch ch.val).caCount))))

/-- A HALT cause zeroises the keys at once, a later one only counts, MODE reads HALT at the boundary, the Canister gets the record -/
def Obligations.HaltZeroisesAndRecords : Prop :=
  (∀ (s : State) (cause : HaltCause) (chid : BitVec 16) (loc : BitVec 64), s.dev.mode.mayHalt = true → s.dev.ras.haltAt = none →
    Completes (.haltEntry cause chid loc) s fun d => HaltDetected s.dev d (haltCode cause)) ∧
  (∀ (s : State) (cause : HaltCause) (chid : BitVec 16) (loc : BitVec 64), s.dev.mode ≠ .cold → s.dev.mode ≠ .fill → s.dev.ras.haltAt.isSome = true → s.dev.haltNow = false →
    Completes (.haltEntry cause chid loc) s fun d => d.ras.later = min 63 (s.dev.ras.later + 1) ∧ d.ras.haltAt = s.dev.ras.haltAt ∧
      d.mem = s.dev.mem ∧ d.mode = s.dev.mode ∧ d.txns = s.dev.txns) ∧
  (∀ (s : State) (cause : HaltCause) (chid : BitVec 16) (loc : BitVec 64) (code : Nat), s.dev.mode.mayHalt = true → s.dev.ras.haltAt = some (s.dev.stamp, code) →
    Completes (.haltEntry cause chid loc) s fun d => d.ras.haltAt = some (s.dev.stamp, min code (haltCode cause)) ∧ d.ras.later = (if haltCode cause < code then 0 else s.dev.ras.later) ∧
      (haltCode cause < code → d.fld Fld.rasHaltCause_cause = haltCode cause) ∧ d.mem = s.dev.mem ∧ d.mode = s.dev.mode ∧ d.txns = s.dev.txns) ∧
  (∀ (s : State) (cause : HaltCause) (chid : BitVec 16) (loc : BitVec 64), (s.dev.mode = .cold ∨ s.dev.mode = .fill) → s.dev.ras.haltAt = none →
    Completes (.haltEntry cause chid loc) s fun d => d.ras = s.dev.ras ∧ d.mode = s.dev.mode ∧ d.cry = s.dev.cry ∧ d.txns = s.dev.txns ∧ d.mem = s.dev.mem) ∧
  (∀ (s : State) (off : Nat), Live s.dev → s.dev.mode.mayHalt = true →
    Completes (.registerParityError off true true) s fun d => HaltDetected s.dev d 5) ∧
  (∀ (s : State) (off : Nat), Live s.dev →
    Completes (.registerParityError off true false) s fun d => d.flag Fld.glbAccSts_parity = true ∧
      d.fld Fld.glbAccSts_reloads = min 65535 (s.dev.fld Fld.glbAccSts_reloads + 1) ∧ d.ras.haltAt = none ∧ d.mem = s.dev.mem) ∧
  (∀ (s : State) (off : Nat) (x : Bool), Completes (.registerParityError off false x) s fun d => d = s.dev) ∧
  (∀ s : State, s.dev.testOpen = false → Completes .jtagDebugInstruction s fun d => d = s.dev) ∧
  (∀ s : State, s.dev.testOpen = true → s.dev.mode.mayHalt = true → s.dev.ras.haltAt = none → s.dev.flag Fld.glbLcSts_jtagOpen = false →
    Completes .jtagDebugInstruction s fun d => HaltDetected s.dev d 7 ∧ d.flag Fld.glbLcSts_jtagOpen = true ∧
      d.sec.signKeys = false) ∧
  (∀ (s : State) (t : Stamp) (code : Nat), AtBoundary s.dev → s.dev.mode.mayHalt = true → s.dev.ras.haltAt = some (t, code) → t.pour < s.dev.now →
    Completes .haltBoundary s fun d => d.mode = .halt ∧ d.ras.haltBoundary = true ∧ d.fld Fld.glbModeSts_prevMode = s.dev.mode.code ∧
      d.mem = s.dev.mem ∧ d.ras.haltAt = s.dev.ras.haltAt) ∧
  (∀ (s : State) (t : Stamp) (code : Nat), s.dev.mode = .halt → s.dev.ras.haltAt = some (t, code) → s.dev.pwr.vaux = true →
    Completes .haltRecordWrite s fun d => ∃ r, d.can.halt = some r ∧ r.cause = code ∧ r.at_ = t ∧ r.later = s.dev.ras.later ∧
      r.mode = s.dev.fld Fld.rasHaltCause_mode ∧ r.origin = s.dev.fld Fld.rasHaltCause_origin ∧ r.newest.length ≤ 3)

/-- Reads return the register, clear what RC fields returned, latch the wide counters and move the window; the SMBus is answered -/
def Obligations.ReadsReturnAndClear : Prop :=
  (∀ (s : State) (src : Source) (off : Nat) (be : BitVec 4), s.dev.canAccess src off = true → PlainRead off →
    Completes (.rcRead src off be) s fun d => d.out.head? = some (.word src (s.dev.view off &&& beMask be)) ∧
      d.reg off = s.dev.reg off - (s.dev.view off &&& beMask be &&& accMask (·.rc) off) ∧ d.mem = s.dev.mem ∧ d.mode = s.dev.mode) ∧
  (∀ (s : State) (src : Source) (off : Nat) (be : BitVec 4), s.dev.canAccess src off = false →
    Completes (.rcRead src off be) s fun d => d.out.head? = some (.abort src) ∧ d.regs = s.dev.regs) ∧
  (∀ (s : State) (src : Source), s.dev.canAccess src Off.glbPourLo = true →
    Completes (.glbPourLoRead src) s fun d => d.out.head? = some (.word src (s.dev.clk.pour.setWidth 32 &&& beMask 15)) ∧
      d.reg Off.glbPourHi = (s.dev.clk.pour >>> 32).setWidth 32 ∧ d.reg Off.glbPourCyc = BitVec.ofNat 32 s.dev.clk.cyc.val) ∧
  (∀ (s : State) (src : Source), s.dev.canAccess src Off.cryMajorNextLo = true →
    Completes (.cryMajorNextLoRead src) s fun d => d.out.head? = some (.word src (s.dev.cry.majorNext.setWidth 32 &&& beMask 15)) ∧
      d.reg Off.cryMajorNextHi = (s.dev.cry.majorNext >>> 32).setWidth 32) ∧
  (∀ (s : State) (src : Source), s.dev.canAccess src Off.stgCommitPourLo = true →
    Completes (.stgCommitPourLoRead src) s fun d => d.out.head? = some (.word src (s.dev.stg.commitPour.setWidth 32 &&& beMask 15)) ∧
      d.reg Off.stgCommitPourHi = (s.dev.stg.commitPour >>> 32).setWidth 32) ∧
  (∀ (s : State) (src : Source) (a : Word), s.dev.canAccess src Off.indData = true → s.dev.indAddrOf src = a → a.getLsbD 30 = false →
    PlainRead (indOffset a) →
    Completes (.indDataAccess src none) s fun d => d.out.head? = some (.word src (s.dev.view (indOffset a) &&& beMask 15)) ∧
      d.indAddrOf src = indNext a ∧ d.mem = s.dev.mem) ∧
  (∀ (s : State) (src : Source) (a v : Word), s.dev.canAccess src Off.indData = true → s.dev.indAddrOf src = a →
    PlainWrite (indOffset a) →
    Completes (.indDataAccess src (some v)) s fun d => d.reg (indOffset a) = rwWord s.dev (indOffset a) v ∧
      d.indAddrOf src = indNext a ∧ d.mem = s.dev.mem ∧ d.out = s.dev.out) ∧
  (∀ (s : State) (count off : Nat), s.dev.pwr.vaux = true → s.dev.mgmtRefusal count off false = none →
    Completes (.mgmtRegisterRead count off) s fun d => d.out.head? = some (.mgmt 0 (s.dev.mgmtReads off count).1) ∧
      (s.dev.mgmtReads off count).1.length = count ∧
      (PlainRead off → (s.dev.mgmtReads off count).1.head? = some (s.dev.view off &&& beMask 15))) ∧
  (∀ (s : State) (count off st : Nat), s.dev.pwr.vaux = true → s.dev.mgmtRefusal count off false = some st →
    Completes (.mgmtRegisterRead count off) s fun d => d.out.head? = some (.mgmt st []) ∧ d.mem = s.dev.mem) ∧
  (∀ s : State, s.dev.pwr.vaux = true → s.dev.alertN = true →
    Completes .smbusAlertResponse s fun d => d = { s.dev with out := .alertResponse (0x58 + s.dev.pwr.smbAddr.toNat) :: s.dev.out }) ∧
  (∀ s : State, s.dev.pwr.vaux = true →
    Completes .smbusLowTimeout s fun d => d = { s.dev with out := .smbusRelease :: s.dev.out })

/-- Writes change RW fields at once, stage RWS fields for the owner, arm keyed pairs, and ask for snapshots -/
def Obligations.WritesFollowTheAccessCodes : Prop :=
  (∀ (s : State) (src : Source) (off : Nat) (v : Word), s.dev.canAccess src off = true → PlainWrite off →
    Completes (.registerWrite src off v 15) s fun d => d.reg off = rwWord s.dev off v ∧ (∀ o, o ≠ off → d.reg o = s.dev.reg o) ∧
      d.mem = s.dev.mem ∧ d.mode = s.dev.mode ∧ d.shadow = s.dev.shadow ∧ d.out = s.dev.out) ∧
  (∀ (s : State) (src : Source) (off : Nat) (v : Word) (be : BitVec 4), s.dev.canAccess src off = true → be ≠ 15 →
    Completes (.registerWrite src off v be) s fun d => d = s.dev.setFlag Fld.glbAccSts_size true ∧ d.flag Fld.glbAccSts_size = true) ∧
  (∀ (s : State) (src : Source) (i : Iface) (off : Nat) (v : Word), s.dev.canAccess src off = true → isStaged off = true →
    sourceIface src = some i → s.dev.mayStage i = true → s.dev.stg.checking = none →
    Completes (.stagedRegisterWrite src off v) s fun d =>
      d.pendReg off = ((s.dev.pendReg off &&& ~~~(accMask (·.rws) off)) ||| (v &&& accMask (·.rws) off)) ∧
      d.reg off = s.dev.reg off ∧ d.stg.owner = some i ∧ d.stg.checked = false ∧ d.stg.writes = s.dev.stg.writes + 1 ∧
      d.flag Fld.stgSts_checked = false ∧ d.mem = s.dev.mem) ∧
  (∀ (s : State) (src : Source) (i : Iface) (off : Nat) (v : Word), s.dev.canAccess src off = true → isStaged off = true →
    sourceIface src = some i → s.dev.mayStage i = false →
    Completes (.stagedRegisterWrite src off v) s fun d => d.shadow = s.dev.shadow ∧ d.stg = s.dev.stg ∧
      d.fld (Fld.mboxCmdSts_foreign (ifaceIdx i)) =
        min (2 ^ (Fld.mboxCmdSts_foreign (ifaceIdx i)).w - 1) (s.dev.fld (Fld.mboxCmdSts_foreign (ifaceIdx i)) + 1)) ∧
  (∀ (s : State) (src : Source) (i : Iface) (off : Nat) (v : Word), s.dev.canAccess src off = true → isStaged off = true →
    sourceIface src = some i → s.dev.mayStage i = true → s.dev.stg.checking.isSome = true →
    Completes (.stagedRegisterWrite src off v) s fun d => d.stg.heldWrites = s.dev.stg.heldWrites ++ [(off, v)] ∧
      d.shadow = s.dev.shadow ∧ d.regs = s.dev.regs) ∧
  (∀ (s : State) (src : Source) (off : Nat) (v : Word), s.dev.canAccess src off = true → off % 4 = 0 → keyedOffsets.contains off = true →
    Completes (.registerWrite src off v 15) s fun d => exec (.keyedValueWrite src off v) s = .next { s with dev := d }) ∧
  (∀ (s : State) (src : Source), s.dev.canAccess src Off.snapCtl = true →
    Completes (.snapCtlReq src) s fun d => d = { s.dev with acc := { s.dev.acc with snapReq := true } }) ∧
  (∀ (s : State) (count off : Nat) (data : List Word), s.dev.pwr.vaux = true → s.dev.mgmtRefusal count off true = none →
    Completes (.mgmtRegisterWrite count off data) s fun d => d.out.head? = some (.mgmt 0 []) ∧
      (count = 1 → PlainWrite off → d.reg off = rwWord s.dev off (data.getD 0 0))) ∧
  (∀ (s : State) (count off st : Nat) (data : List Word), s.dev.pwr.vaux = true → s.dev.mgmtRefusal count off true = some st →
    Completes (.mgmtRegisterWrite count off data) s fun d => d.out.head? = some (.mgmt st []) ∧ d.mem = s.dev.mem) ∧
  (∀ (s : State) (src : Source) (off : Nat) (v : Word), s.dev.canAccess src off = true → keyedOffsets.contains off = true →
    Completes (.keyedValueWrite src off v) s fun d => d.armedBy src = some ⟨off, v, s.dev.stamp⟩ ∧
      (∀ o, o ≠ Off.glbKeyfail → d.reg o = s.dev.reg o) ∧ d.reg Off.glbKeyfail = (match s.dev.armedBy src with
        | some a => keyfailWord 0 a.off
        | none => s.dev.reg Off.glbKeyfail)) ∧
  (∀ (s : State) (src : Source) (a : Armed), s.dev.armedBy src = some a → 256 < a.at_.cyclesTo s.dev.stamp →
    Completes (.keyedPairTimeout src) s fun d => d.armedBy src = none ∧ d.reg Off.glbKeyfail = keyfailWord 0 a.off ∧
      (∀ o, o ≠ Off.glbKeyfail → d.reg o = s.dev.reg o))

/-- PMU selections show at once; FREEZE, clears and selections act on the counters at the next pour boundary only -/
def Obligations.PmuControlsActAtTheBoundary : Prop :=
  (∀ (s : State) (on : Bool), s.dev.mode ≠ .cold →
    Completes (.pmuCtlFreeze on) s fun d => d.flag Fld.pmuCtl_freeze = on ∧ d.pmu = s.dev.pmu) ∧
  (∀ s : State, s.dev.mode ≠ .cold →
    Completes .pmuCtlClrGen s fun d => d = { s.dev with pmu := { s.dev.pmu with clrGen := true } }) ∧
  (∀ s : State, s.dev.mode ≠ .cold →
    Completes .pmuCtlClrOvf s fun d => d = { s.dev with pmu := { s.dev.pmu with clrOvf := true } }) ∧
  (∀ (s : State) (n : Fin 64) (v : Word), s.dev.mode ≠ .cold →
    Completes (.pmuEvselWrite n v) s fun d => d.reg (Off.pmuEvsel n.val) = v &&& accMask (·.rw) (Off.pmuEvsel n.val) ∧
      d.pmu = { s.dev.pmu with selDirty := s.dev.pmu.selDirty.add n.val } ∧ d.pmu.selDirty.has n.val = true) ∧
  (∀ (s : State) (n : Fin 64) (v : Word), s.dev.mode ≠ .cold →
    Completes (.pmuScopeWrite n v) s fun d => d.reg (Off.pmuScope n.val) = v &&& accMask (·.rw) (Off.pmuScope n.val) ∧
      d.pmu = { s.dev.pmu with selDirty := s.dev.pmu.selDirty.add n.val } ∧ d.pmu.selDirty.has n.val = true) ∧
  (∀ (s : State) (h : Fin 4) (v : Word), s.dev.mode ≠ .cold →
    Completes (.pmuHistCtlWrite h v) s fun d => d.reg (Off.pmuHistCtl h.val) = v &&& accMask (·.rw) (Off.pmuHistCtl h.val) ∧
      d.pmu.hists = s.dev.pmu.hists ∧ d.pmu.histDirty = s.dev.pmu.histDirty ||| BitVec.ofNat 4 (2 ^ h.val)) ∧
  (∀ (s : State) (mask : BitVec 4), s.dev.mode ≠ .cold →
    Completes (.pmuHistClr mask) s fun d => d = { s.dev with pmu := { s.dev.pmu with histDirty := s.dev.pmu.histDirty ||| mask } }) ∧
  (∀ (s : State) (h : Fin 4), s.dev.live = false → s.dev.clk.running = true → s.dev.acc.snapReq = false →
    Completes .pourBoundary s fun d => d.clk = ⟨true, s.dev.clk.pour + 1, 0⟩ ∧ d.pmu.frozen = s.dev.flag Fld.pmuCtl_freeze ∧
      d.pmu.clrGen = false ∧ d.pmu.clrOvf = false ∧ d.pmu.selDirty = [] ∧ d.pmu.histDirty = 0 ∧ d.mem = s.dev.mem ∧ d.txns = s.dev.txns ∧
      (s.dev.pmu.histDirty.getLsbD h.val = true → d.pmu.hists[h] = { Hist.reset with ctl := s.dev.reg (Off.pmuHistCtl h.val) }))

/-- The seal obeys its keyed pairs; a reference scan seals, a check scan counts, reports or halts on a mismatch -/
def Obligations.SealFollowsItsPairsAndScans : Prop :=
  (∀ (s : State) (src : Source) (v key : Word), s.dev.canAccess src Off.glbSealCtl = true → s.dev.pairReady src Off.glbSealCtl v key → fieldOf v 0 2 = 0 →
    Completes (.glbSealCtlOff src key) s fun d => d.fld Fld.glbSealCtl_mode = 0 ∧ d.flag Fld.glbSealSts_sealed = false ∧
      d.flag Fld.glbSealSts_refscan = false ∧ d.reg Off.glbSealRef = 0 ∧ d.ras.sealScan = none ∧ d.armedBy src = none) ∧
  (∀ (s : State) (src : Source) (v key : Word), s.dev.canAccess src Off.glbSealCtl = true → s.dev.pairReady src Off.glbSealCtl v key → fieldOf v 0 2 = 1 →
    Completes (.glbSealCtlEnforce src key) s fun d => d.fld Fld.glbSealCtl_mode = 1 ∧ d.armedBy src = none ∧ d.ras = s.dev.ras ∧
      d.reg Off.glbSealRef = s.dev.reg Off.glbSealRef ∧ d.reg Off.glbSealSts = s.dev.reg Off.glbSealSts) ∧
  (∀ (s : State) (src : Source) (v key : Word), s.dev.canAccess src Off.glbSealCtl = true → s.dev.pairReady src Off.glbSealCtl v key → fieldOf v 0 2 = 2 →
    Completes (.glbSealCtlReport src key) s fun d => d.armedBy src = none ∧
      (s.dev.lifecycle = .test → d.fld Fld.glbSealCtl_mode = 2 ∧ d.reg Off.glbKeyfail = s.dev.reg Off.glbKeyfail) ∧
      (s.dev.lifecycle ≠ .test → d.fld Fld.glbSealCtl_mode = s.dev.fld Fld.glbSealCtl_mode ∧
        d.reg Off.glbKeyfail = keyfailWord 3 Off.glbSealCtl)) ∧
  (∀ (s : State) (src : Source), s.dev.canAccess src Off.sealCommit = true →
    Completes (.sealCommit src) s fun d => d.regs = s.dev.regs ∧
      d.ras.sealScan = if s.dev.fld Fld.glbSealCtl_mode = 0 then s.dev.ras.sealScan else some (0, true)) ∧
  (∀ (s : State) (w : Word), s.dev.live = true → s.dev.ras.sealScan = some (w, true) → s.dev.flag Fld.glbSealSts_refscan = true →
    Completes .sealReferenceScanComplete s fun d => d.flag Fld.glbSealSts_sealed = true ∧ d.flag Fld.glbSealSts_refscan = false ∧
      d.reg Off.glbSealRef = s.dev.configCrc ∧ d.reg Off.glbSealLast = s.dev.configCrc ∧ d.ras.sealScan = none) ∧
  (∀ s : State, AtBoundary s.dev → s.dev.live = true → s.dev.flag Fld.glbSealSts_sealed = true → s.dev.ras.sealScan = none → s.dev.now % 4096 = 0 →
    Completes .sealScanStart s fun d => d.ras.sealScan = some (0, false) ∧ d.regs = s.dev.regs) ∧
  (∀ (s : State) (w err : Word), s.dev.live = true → s.dev.mode.mayHalt = true → s.dev.ras.sealScan = some (w, false) →
    Completes (.sealScanComplete err) s fun d => d.ras.sealScan = none ∧ d.reg Off.glbSealLast = s.dev.configCrc ^^^ err ∧
      (s.dev.configCrc ^^^ err = s.dev.reg Off.glbSealRef → d.fld Fld.glbSealSts_scans =
          min (2 ^ Fld.glbSealSts_scans.w - 1) (s.dev.fld Fld.glbSealSts_scans + 1) ∧ d.ras.haltAt = none) ∧
      (s.dev.configCrc ^^^ err ≠ s.dev.reg Off.glbSealRef → s.dev.fld Fld.glbSealCtl_mode = 2 →
          d.flag Fld.glbSealSts_mismatch = true ∧ d.ras.haltAt = none) ∧
      (s.dev.configCrc ^^^ err ≠ s.dev.reg Off.glbSealRef → s.dev.fld Fld.glbSealCtl_mode ≠ 2 → HaltDetected s.dev d 6))

/-- The lifecycle advances by a pair taken in MAINT and a burn that only adds fuses; repair fuses and hard PPR start by their pair -/
def Obligations.LifecycleAndRepairFusesBurn : Prop :=
  (∀ (s : State) (src : Source) (v key : Word) (t : Lifecycle), s.dev.canAccess src Off.glbLcAdv = true → s.dev.pairReady src Off.glbLcAdv v key → Lifecycle.ofCode (fieldOf v 0 3) = some t → s.dev.mode = .maint → s.dev.ras.haltAt = none →
    lcEdge s.dev.lifecycle t = true → s.dev.advancing = false → s.dev.lcCondition t = true →
    Completes (.glbLcAdv src key) s fun d => d.sec = { s.dev.sec with burnDue := some t } ∧ d.fuses = s.dev.fuses ∧ d.regs = s.dev.regs ∧ d.armedBy src = none) ∧
  (∀ (s : State) (src : Source) (v key : Word), s.dev.canAccess src Off.glbLcAdv = true → s.dev.pairReady src Off.glbLcAdv v key → (s.dev.mode ≠ .maint ∨ s.dev.ras.haltAt.isSome = true ∨ s.dev.advancing = true ∨
      ∀ t ∈ (Lifecycle.ofCode (fieldOf v 0 3)).toList, lcEdge s.dev.lifecycle t = false ∨ s.dev.lcCondition t = false) →
    Completes (.glbLcAdv src key) s fun d => d.sec = s.dev.sec ∧ d.fuses = s.dev.fuses ∧ d.reg Off.glbKeyfail = keyfailWord 3 Off.glbLcAdv) ∧
  (∀ (s : State) (t : Lifecycle), s.dev.sec.burn = some t → s.dev.mode = .maint → s.dev.ras.haltAt = none →
    lcEdge s.dev.lifecycle t = true →
    Completes .lifecycleBurnComplete s fun d => d.fuses.lc = s.dev.fuses.lc ||| lcFuses t ∧ d.lifecycle = t ∧ d.sec.burn = none ∧
      d.can.lcLog = (s.dev.lifecycle.code, t.code) :: s.dev.can.lcLog ∧
      (t = .provisioned → d.sec.keygen = true) ∧
      (t = .rma → d.fuses.idDisable = true ∧ d.can.newest = none ∧ d.can.log = [] ∧ d.fuses.svn = s.dev.fuses.svn) ∧
      (t = .scrapped → d.fuses.identity = false ∧ d.sec.signKeys = false)) ∧
  (∀ s : State, s.dev.sec.keygen = true → s.dev.mode = .maint → s.dev.ras.haltAt = none →
    Completes .identityKeygenComplete s fun d => d.sec.keygen = false ∧ d.sec.signKeys = true ∧ d.fuses.identity = true ∧
      d.fuses.lc = s.dev.fuses.lc) ∧
  (∀ (s : State) (src : Source) (v key : Word) (l : BitVec 64), s.dev.canAccess src Off.rasFuseLo = true → s.dev.pairReady src Off.rasFuseLo v key →
    l = BitVec.ofNat 64 (v.toNat + (s.dev.reg Off.rasFuseHi).toNat * 2 ^ 32) → s.dev.testOpen = true → s.dev.fuseRefusal l = none →
    Completes (.rasFuseLo src key) s fun d => d.reg Off.rasFuseLo = v ∧ d.fuses = s.dev.fuses ∧
      (locKind l = 2 → d.mb.hppr = s.dev.mb.hppr ++ [l] ∧ d.sec.fuseBurn = s.dev.sec.fuseBurn) ∧
      (locKind l ≠ 2 → d.sec.fuseBurn = some (l, none) ∧ d.flag Fld.rasFuseSts_burn = true ∧ d.mb.hppr = s.dev.mb.hppr)) ∧
  (∀ (s : State) (src : Source) (v key : Word), s.dev.canAccess src Off.rasFuseLo = true → s.dev.pairReady src Off.rasFuseLo v key → (s.dev.testOpen = false ∨ (s.dev.fuseRefusal (BitVec.ofNat 64 (v.toNat + (s.dev.reg Off.rasFuseHi).toNat * 2 ^ 32))).isSome = true) →
    Completes (.rasFuseLo src key) s fun d => d.sec = s.dev.sec ∧ d.mb = s.dev.mb ∧ d.fuses = s.dev.fuses ∧
      d.reg Off.glbKeyfail = keyfailWord 3 Off.rasFuseLo) ∧
  (∀ (s : State) (l : BitVec 64) (x : Option Iface), s.dev.sec.fuseBurn = some (l, x) →
    Completes .fuseBurnComplete s fun d => d.fuses = (if locKind l = 6 then { s.dev.fuses with arrays := s.dev.fuses.arrays ++ [l] }
        else { s.dev.fuses with repairs := s.dev.fuses.repairs ++ [l] }) ∧ d.sec.fuseBurn = none ∧
      d.flag Fld.rasFuseSts_burn = false)

/-- The settings area stores into the next copy, validates it last, loads it as staged settings, and is erased by area -/
def Obligations.CanisterStoresLoadsAndErases : Prop :=
  (∀ (s : State) (i : Iface) (p : Payload), s.dev.takesNow i 0xC050 → s.dev.ownPayload p 0 → s.dev.can.storing = none →
    Completes (.xtCanisterStore i p) s fun d => d.can.storing = some (i, none) ∧ d.can.newest = s.dev.can.newest ∧
      vget none d.can.copies s.dev.nextCopy.1.val = some
        { gen := s.dev.nextCopy.2, regs := s.dev.settings, portMode := s.dev.fld Fld.glbPortMode_mode, near := s.dev.near,
          cremaRepairs := s.dev.mb.softCrema, farRepairs := s.dev.mb.softFar, crcOk := false } ∧
      d.mb.running = s.dev.mb.running ++ [(i, 0xC050)]) ∧
  (∀ (s : State) (i : Iface) (p : Payload), s.dev.takesNow i 0xC050 → s.dev.ownPayload p 0 → s.dev.can.storing.isSome = true →
    Completes (.xtCanisterStore i p) s fun d => d.answered i rcBusy 0xC050 [] ∧ d.can = s.dev.can) ∧
  (∀ (s : State) (i : Iface), s.dev.can.storing = some (i, none) →
    Completes .canisterStoreComplete s fun d => d.can.storing = none ∧ d.can.newest = some s.dev.nextCopy.1 ∧
      vget none d.can.copies s.dev.nextCopy.1.val =
        (vget none s.dev.can.copies s.dev.nextCopy.1.val).map fun c => { c with crcOk := true }) ∧
  (∀ (s : State) (c : Copy) (i : Iface) (p : Payload), s.dev.takesNow i 0xC051 → s.dev.ownPayload p 0 → s.dev.mayStage i = true → s.dev.stg.checking = none → s.dev.newestCopy = some c →
    Completes (.xtCanisterLoad i p) s fun d => d.answered i rcSuccess 0xC051 (leBytes 8 c.gen) ∧ d.stg.owner = some i ∧
      d.stg.checked = false ∧ d.can = s.dev.can ∧ d.mb.softCrema = s.dev.mb.softCrema ∧ d.mb.softFar = s.dev.mb.softFar ∧
      d.reg Off.glbPortMode = s.dev.reg Off.glbPortMode) ∧
  (∀ (s : State) (i : Iface) (p : Payload), s.dev.takesNow i 0xC051 → s.dev.ownPayload p 0 → s.dev.mayStage i = true → s.dev.stg.checking = none → s.dev.newestCopy = none →
    Completes (.xtCanisterLoad i p) s fun d => d.answered i rcInvalidInput 0xC051 [] ∧ d.stg = s.dev.stg ∧ d.shadow = s.dev.shadow) ∧
  (∀ (s : State) (src : Source) (v key : Word), s.dev.canAccess src Off.canErase = true → s.dev.pairReady src Off.canErase v key → s.dev.can.storing = none →
    Completes (.canErase src key) s fun d => d.can = { s.dev.can with storing := some (.mctp, some (fieldOf v 0 2)) } ∧
      d.fld Fld.canErase_area = fieldOf v 0 2 ∧ d.flag Fld.canSts_store = true) ∧
  (∀ (s : State) (i : Iface) (p : Payload), s.dev.takesNow i 0xC052 → s.dev.ownPayload p 5 → byteAt (p.drop 8) 0 < 4 → s.dev.can.storing = none →
    leNat (p.drop 8) 1 4 = 2 ^ 32 - 1 - byteAt (p.drop 8) 0 →
    Completes (.xtCanisterErase i p) s fun d => d.can = { s.dev.can with storing := some (.mctp, some (byteAt (p.drop 8) 0)) } ∧
      d.mb.running = s.dev.mb.running ++ [(i, 0xC052)]) ∧
  (∀ (s : State) (src : Source) (v key : Word), s.dev.canAccess src Off.canErase = true → s.dev.pairReady src Off.canErase v key → s.dev.can.storing.isSome = true →
    Completes (.canErase src key) s fun d => d.can = s.dev.can ∧ d.reg Off.glbKeyfail = keyfailWord 3 Off.canErase) ∧
  (∀ (s : State) (i : Iface) (p : Payload), s.dev.takesNow i 0xC052 → s.dev.ownPayload p 5 → byteAt (p.drop 8) 0 < 4 → s.dev.can.storing.isSome = true →
    Completes (.xtCanisterErase i p) s fun d => d.answered i rcBusy 0xC052 [] ∧ d.can = s.dev.can) ∧
  (∀ (s : State) (i : Iface) (p : Payload), s.dev.takesNow i 0xC052 → s.dev.ownPayload p 5 → (4 ≤ byteAt (p.drop 8) 0 ∨ s.dev.can.storing = none) →
    leNat (p.drop 8) 1 4 ≠ 2 ^ 32 - 1 - byteAt (p.drop 8) 0 →
    Completes (.xtCanisterErase i p) s fun d => d.answered i rcInvalidInput 0xC052 [] ∧ d.can = s.dev.can) ∧
  (∀ (s : State) (i : Iface) (area : Nat), s.dev.can.storing = some (i, some area) →
    Completes .canisterEraseComplete s fun d => d.can.storing = none ∧ d.can.slots = s.dev.can.slots ∧ d.can.lcLog = s.dev.can.lcLog ∧
      d.can.halt = s.dev.can.halt ∧ d.mb.softCrema = s.dev.mb.softCrema ∧
      (bitAt area 0 = true → d.can.copies = Vector.replicate 16 none ∧ d.can.newest = none) ∧
      (bitAt area 1 = true → d.can.log = [] ∧ d.can.logCount = 0 ∧ d.fld Fld.canLogSts_next = 0))

/-- Soft repairs, fuse repairs by command and post-package repairs enter their lists, run and end -/
def Obligations.RepairsTakeEffect : Prop :=
  (∀ (s : State) (i : Iface) (p : Payload), s.dev.takesNow i 0xC041 → s.dev.ownPayload p 8 → s.dev.softRefusal (locAt (p.drop 8)) = none →
    Completes (.xtRepairSoft i p) s fun d => d.repaired (locAt (p.drop 8)) = true ∧ d.mem = s.dev.mem ∧
      d.answered i rcSuccess 0xC041 (leBytes 2 (d.sparesLeft (locAt (p.drop 8))))) ∧
  (∀ (s : State) (rc : Nat) (i : Iface) (p : Payload), s.dev.takesNow i 0xC041 → s.dev.ownPayload p 8 → s.dev.softRefusal (locAt (p.drop 8)) = some rc →
    Completes (.xtRepairSoft i p) s fun d => d.mb.softCrema = s.dev.mb.softCrema ∧ d.mb.softFar = s.dev.mb.softFar ∧ d.mem = s.dev.mem ∧
      d.answered i rc 0xC041 []) ∧
  (∀ (s : State) (i : Iface) (p : Payload), s.dev.takesNow i 0xC042 → s.dev.ownPayload p 12 → s.dev.fuseRefusal (locAt (p.drop 8)) = none → leNat (p.drop 8) 8 4 = 2 ^ 32 - 1 - leNat (p.drop 8) 0 4 →
    Completes (.xtRepairFuse i p) s fun d => d.mem = s.dev.mem ∧ d.reg Off.rasFuseHi = BitVec.ofNat 32 (leNat (p.drop 8) 4 4) ∧
      d.answered i rcSuccess 0xC042 (leBytes 2 (d.sparesLeft (locAt (p.drop 8)))) ∧
      (locKind (locAt (p.drop 8)) = 2 → d.mb.hppr = s.dev.mb.hppr ++ [locAt (p.drop 8)]) ∧
      (locKind (locAt (p.drop 8)) ≠ 2 → d.sec.fuseBurn = some (locAt (p.drop 8), none))) ∧
  (∀ (s : State) (l : BitVec 64) (flips : List (List (BitVec 80))), AtBoundary s.dev → s.dev.live = true →
    s.dev.crm.unitPending.find? (fun l => locKind l == 1 && s.dev.crmRole (locChan l) != 3) = some l →
    Completes (.softRepairRowSwap flips) s fun d => d.crm.unitPending = s.dev.crm.unitPending.erase l ∧ (flips = [] → d.mem = s.dev.mem)) ∧
  (∀ (s : State) (ch : FarCh) (l : BitVec 64) (rest : List (BitVec 64)) (flips : List (List (BitVec 80))), AtBoundary s.dev → s.dev.live = true → (s.dev.fch ch.val).pprWait = l :: rest →
    (s.dev.fch ch.val).ppr = none → s.dev.fld (Fld.farChSts_state ch.val) = 2 → s.dev.rowLines ch.val ≤ s.dev.sharedFree →
    Completes (.softPprStart ch flips) s fun d => (d.fch ch.val).ppr = some (l, s.dev.now, false) ∧ (d.fch ch.val).pprWait = rest ∧
      (d.fch ch.val).pprBufs = s.dev.rowLines ch.val ∧ (flips = [] → s.dev.mem.farPoison = [] → d.mem = s.dev.mem)) ∧
  (∀ (s : State) (ch : FarCh) (flips : List (List (BitVec 80))), AtBoundary s.dev → s.dev.sharedFree < s.dev.rowLines ch.val →
    Completes (.softPprStart ch flips) s fun d => d = s.dev) ∧
  (∀ (s : State) (ch : FarCh) (l : BitVec 64) (q : Nat), AtBoundary s.dev → s.dev.live = true → (s.dev.fch ch.val).ppr = some (l, q, false) → q + 48 ≤ s.dev.now →
    Completes (.softPprEnd ch) s fun d => (s.dev.mode ≠ .maint ∨ s.dev.mb.hppr = [] → (d.fch ch.val).ppr = none ∧ (d.fch ch.val).pprBufs = 0) ∧ (d.fch ch.val).pprWait = (s.dev.fch ch.val).pprWait ∧ d.mem = s.dev.mem) ∧
  (∀ (s : State) (l x : BitVec 64) (rest : List (BitVec 64)) (q : Nat) (flips : List (List (BitVec 80))), s.dev.live = true → s.dev.mb.hppr = l :: rest →
    (s.dev.fch (locChan l)).ppr = some (x, q, true) →
    Completes (.hardPprComplete flips) s fun d => d.mb.hppr = rest ∧ d.fuses = { s.dev.fuses with hard := s.dev.fuses.hard ++ [l] } ∧ d.fld Fld.rasFuseSts_hpprQ = rest.length % 2 ^ Fld.rasFuseSts_hpprQ.w ∧
      (flips = [] → s.dev.mem.farPoison = [] → d.mem = s.dev.mem) ∧ (s.dev.mode ≠ .maint ∨ rest = [] → (d.fch (locChan l)).ppr = none) ∧
      d.fld (Fld.farPprSts_hard (locChan l)) = min (2 ^ (Fld.farPprSts_hard (locChan l)).w - 1) (s.dev.fld (Fld.farPprSts_hard (locChan l)) + 1))

/-- A rotation goes through copy, drain, test, training and fill; other self-tests start as the foreground brew and end with a result -/
def Obligations.RotationAndSelfTestsRun : Prop :=
  (∀ (s : State) (r : Rotation), AtBoundary s.dev → s.dev.live = true → s.dev.crm.rot = some r → r.phase = 0 → r.pointer = s.dev.chFrames → s.dev.fld Fld.crmSts_spare ≠ r.source.val →
    Completes .rotationCopyDone s fun d => d.crm.rot = some { r with phase := 1 } ∧
      d.fld (Fld.crmLmap_phys (s.dev.fld (Fld.crmChSts_logical r.source.val))) = s.dev.fld Fld.crmSts_spare ∧
      d.flag Fld.crmSts_noSpare = true ∧ d.mem = s.dev.mem) ∧
  (∀ (s : State) (r : Rotation), AtBoundary s.dev → s.dev.live = true → s.dev.crm.rot = some r → r.phase = 0 → r.pointer ≠ s.dev.chFrames → Completes .rotationCopyDone s fun d => d = s.dev) ∧
  (∀ (s : State) (r : Rotation), s.dev.live = true → s.dev.crm.rot = some r → r.phase = 1 → s.dev.queueOf (2 * r.source.val) = [] → s.dev.queueOf (2 * r.source.val + 1) = [] →
    Completes .rotationSourceDrained s fun d => d.crm.rot = some { r with phase := 2, since := s.dev.now } ∧ d.crmRole r.source.val = 3 ∧
      d.mem = s.dev.mem) ∧
  (∀ (s : State) (r : Rotation), s.dev.live = true → s.dev.crm.rot = some r → r.phase = 1 → (s.dev.queueOf (2 * r.source.val) ≠ [] ∨ s.dev.queueOf (2 * r.source.val + 1) ≠ []) →
    Completes .rotationSourceDrained s fun d => d = s.dev) ∧
  (∀ (s : State) (r : Rotation) (result : BistResult) (l : List (BitVec 64)), s.dev.live = true → s.dev.crm.rot = some r → r.phase = 2 → s.dev.now < r.since + sixPasses →
    Completes (.rotationTestDone result l) s fun d => d = s.dev) ∧
  (∀ (s : State) (r : Rotation) (result : BistResult) (l : List (BitVec 64)), s.dev.live = true → s.dev.crm.rot = some r → r.phase = 2 → r.since + sixPasses ≤ s.dev.now → result ≠ .beyondSpares →
    Completes (.rotationTestDone result l) s fun d => (d.crm.rot.map (·.phase)) = some 3 ∧
      (d.crm.unitPending = s.dev.crm.unitPending.filter fun x => locChan x != r.source.val) ∧ d.mem = s.dev.mem) ∧
  (∀ (s : State) (r : Rotation) (l : List (BitVec 64)), s.dev.live = true → s.dev.crm.rot = some r → r.phase = 2 → r.since + sixPasses ≤ s.dev.now → s.dev.crmRole r.source.val = 3 →
    Completes (.rotationTestDone .beyondSpares l) s fun d => d.crm.rot = none ∧ d.reg Off.crmRotSts = 0 ∧ d.crmRole r.source.val = 4) ∧
  (∀ (s : State) (r : Rotation), s.dev.live = true → s.dev.crm.rot = some r → r.phase = 3 →
    Completes (.rotationRetrainDone true) s fun d => d.crm.rot = some { r with phase := 4 } ∧ d.mem = s.dev.mem) ∧
  (∀ (s : State) (r : Rotation), s.dev.live = true → s.dev.crm.rot = some r → r.phase = 3 → s.dev.crmRole r.source.val = 3 →
    Completes (.rotationRetrainDone false) s fun d => d.crm.rot = none ∧ d.reg Off.crmRotSts = 0 ∧ d.crmRole r.source.val = 4) ∧
  (∀ (s : State) (r : Rotation), s.dev.live = true → s.dev.crm.rot = some r → r.phase = 4 →
    Completes .rotationFillDone s fun d => d.crm.rot = none ∧ d.crmRole r.source.val = 1 ∧ d.fld Fld.crmSts_spare = r.source.val ∧
      d.reg Off.crmRotSts = 0 ∧ d.mem = s.dev.mem ∧ d.flag Fld.crmSts_noSpare = !d.bist.awaiting.isEmpty ∧
      d.bist.awaiting = if r.result = 1 then (listedLocs r.locators).filter fun l => !s.dev.repaired l else []) ∧
  (∀ (s : State) (i : Iface) (p : Payload), s.dev.takesNow i 0xC040 → s.dev.ownPayload p 3 → byteAt (p.drop 8) 0 = 1 → s.dev.bistRefusal 1 (byteAt (p.drop 8) 1) (byteAt (p.drop 8) 2) = none →
    s.dev.mayStage i = true →
    Completes (.xtBistRun i p) s fun d => d.answered i rcSuccess 0xC040 [] ∧ d.mb.fg = s.dev.mb.fg ∧ d.crm = s.dev.crm ∧
      d.stg.cmds = s.dev.stg.cmds ++ [.rotation (Fin.ofNat 32 (byteAt (p.drop 8) 1)) i]) ∧
  (∀ (s : State) (k x : Nat) (i : Iface) (p : Payload), s.dev.takesNow i 0xC040 → s.dev.ownPayload p 3 → k = byteAt (p.drop 8) 0 → x = byteAt (p.drop 8) 1 → k ≠ 1 →
    s.dev.bistRefusal k x (byteAt (p.drop 8) 2) = none →
    Completes (.xtBistRun i p) s fun d => d.bist.run = some (k, x, some i) ∧ d.flag Fld.rasBistSts_run = true ∧
      d.fld Fld.rasBistSts_kind = k ∧ d.fld Fld.rasBistSts_index = x ∧
      d.mb.fg = some ⟨7, some i, .test k x, 0, if k = 2 ∨ k = 3 then 6 * 528 else 1, false, 0⟩) ∧
  (∀ (s : State) (rc : Nat) (i : Iface) (p : Payload), s.dev.takesNow i 0xC040 → s.dev.ownPayload p 3 → s.dev.bistRefusal (byteAt (p.drop 8) 0) (byteAt (p.drop 8) 1) (byteAt (p.drop 8) 2) = some rc →
    Completes (.xtBistRun i p) s fun d => d.answered i rc 0xC040 [] ∧ d.bist = s.dev.bist ∧ d.mb.fg = s.dev.mb.fg) ∧
  (∀ (s : State) (b : Brew) (k x : Nat) (result : BistResult) (l : List (BitVec 64)) (pipes : List (Bool × Fin 66)), s.dev.live = true → s.dev.mb.fg = some b →
    b.work = .test k x → (k = 3 ∨ (k = 4 ∧ x = 0) ∨ (k = 5 ∧ result = .repairable)) →
    Completes (.bistTestEnd result l pipes) s fun d => d.mb.fg = none ∧ d.bist.run = none ∧ d.flag Fld.rasBistSts_run = false ∧
      d.fld Fld.rasBistSts_result = bistCode result ∧
      (k = 3 → x < 8 → d.fld (Fld.farChSts_state x) = if result = .pass then 2 else 4) ∧
      (k = 5 → d.prs.lossDue = s.dev.prs.lossDue ++ [Fin.ofNat 4 x]))

/-- Staging is checked, committed at a boundary, or aborted, by its owner -/
def Obligations.StagingChecksCommitsAndAborts : Prop :=
  (∀ (s : State) (i : Iface) (p : Payload), s.dev.takesNow i 0xC010 → s.dev.ownPayload p 0 → s.dev.mayStage i = true → s.dev.stg.checking = none → s.dev.stg.commitPend = none →
    Completes (.xtStageCheck i p) s fun d => d.stg.checking = some i ∧ d.stg.owner = some i ∧ d.stg.checked = false ∧
      d.mb.running = s.dev.mb.running ++ [(i, 0xC010)] ∧ d.shadow = s.dev.shadow) ∧
  (∀ (s : State) (i : Iface) (p : Payload), s.dev.takesNow i 0xC010 → s.dev.ownPayload p 0 → (s.dev.mayStage i = false ∨ s.dev.stg.checking.isSome = true ∨ s.dev.stg.commitPend.isSome = true) →
    Completes (.xtStageCheck i p) s fun d => d.answered i rcBusy 0xC010 [] ∧ d.stg = s.dev.stg ∧ d.shadow = s.dev.shadow) ∧
  (∀ (s : State) (i : Iface), s.dev.live = true → s.dev.stg.checking = some i → s.dev.stg.heldWrites = [] →
    Completes .stageCheckComplete s fun d => d.stg.checking = none ∧ d.stg.checked = (checkOutcome s.dev).isNone ∧ d.flag Fld.stgSts_checked = (checkOutcome s.dev).isNone ∧
      d.flag Fld.stgResult_valid = true ∧ d.shadow = s.dev.shadow ∧ d.stg.owner = s.dev.stg.owner ∧
      d.reg Off.stgFailOff = BitVec.ofNat 32 (match checkOutcome s.dev with | some f => f.off | none => noReg)) ∧
  (∀ (s : State) (i : Iface) (p : Payload), s.dev.takesNow i 0xC011 → s.dev.ownPayload p 0 → s.dev.mayStage i = true → s.dev.stg.checking = none → s.dev.stg.commitPend = none →
    s.dev.flag Fld.glbSealSts_refscan = false → s.dev.stg.checked = true →
    Completes (.xtStageCommit i p) s fun d => d.stg.commitPend = some i ∧ d.flag Fld.stgSts_commitPend = true ∧
      d.mb.running = s.dev.mb.running ++ [(i, 0xC011)] ∧ d.shadow = s.dev.shadow) ∧
  (∀ (s : State) (i : Iface) (p : Payload), s.dev.takesNow i 0xC011 → s.dev.ownPayload p 0 → s.dev.mayStage i = true → s.dev.stg.checking = none → s.dev.stg.commitPend = none →
    s.dev.flag Fld.glbSealSts_refscan = false → s.dev.stg.checked = false →
    Completes (.xtStageCommit i p) s fun d => d.answered i rcInvalidInput 0xC011 [] ∧ d.stg = s.dev.stg ∧ d.shadow = s.dev.shadow) ∧
  (∀ s : State, s.dev.stg.commitPend.isSome = true → s.dev.clk.running = true →
    Completes .commitTakesEffect s fun d => exec .pourBoundary s = .next { s with dev := d }) ∧
  (∀ s : State, s.dev.stg.commitPend = none → Completes .commitTakesEffect s fun d => d = s.dev) ∧
  (∀ (s : State) (i : Iface) (f : CheckFail), s.dev.clk.running = false → s.dev.live = true → s.dev.stg.commitPend = some i →
    (({ s.dev with stg := { s.dev.stg with commitPend := none } } : Dev).setFlag Fld.stgSts_commitPend false).runRechecks = some f →
    Completes .commitTakesEffect s fun d => d.stg = { s.dev.stg with commitPend := none, checked := false } ∧ d.shadow = s.dev.shadow ∧
      d.noc = s.dev.noc ∧ d.mem = s.dev.mem ∧ d.tenants = s.dev.tenants ∧ d.flag Fld.stgSts_checked = false) ∧
  (∀ (s : State) (i : Iface) (off : Nat) (w : Word), s.dev.clk.running = false → s.dev.live = true → s.dev.stg.commitPend = some i →
    (({ s.dev with stg := { s.dev.stg with commitPend := none } } : Dev).setFlag Fld.stgSts_commitPend false).runRechecks = none →
    s.dev.stg.cmds = [] → s.dev.shadow = [(off, w)] → isStaged off = true → off ≠ Off.glbPortMode → s.dev.flag Fld.glbSealSts_sealed = false →
    Completes .commitTakesEffect s fun d => d.shadow = [] ∧ d.stg.owner = none ∧ d.stg.checked = false ∧ d.stg.writes = 0 ∧
      d.stg.commitPour = BitVec.ofNat 64 s.dev.now ∧ d.noc.routes = s.dev.noc.routesStaged ∧ d.noc.slots = s.dev.noc.slotsStaged ∧
      (off ≠ Off.glbModeReq → d.reg off &&& accMask (·.rws) off = w &&& accMask (·.rws) off) ∧
      (off = Off.glbModeReq → fieldOf w 0 4 ≠ 0 →
        d.due.target = some (fieldOf w 0 4, fieldOf w Fld.glbModeReq_flush.lo 1 == 1) ∧ d.fld Fld.glbModeReq_target = 0) ∧
      (∀ o, o ≠ off → o ≠ Off.glbModeReq → isStaged o = true → d.reg o = s.dev.reg o)) ∧
  (∀ (s : State) (i : Iface) (p : Payload), s.dev.takesNow i 0xC012 → s.dev.ownPayload p 0 → s.dev.mayStage i = true → s.dev.stg.checking = none → s.dev.stg.commitPend = none →
    Completes (.xtStageAbort i p) s fun d => d.shadow = [] ∧ d.stg.cmds = [] ∧ d.stg.owner = none ∧ d.stg.checked = false ∧
      d.noc.routesStaged = s.dev.noc.routes ∧ d.noc.slotsStaged = s.dev.noc.slots ∧ d.flag Fld.stgResult_valid = false ∧
      d.extRetire = s.dev.extRetire ++ (s.dev.stg.cmds.flatMap fun c =>
        match c with | .tenant _ _ _ _ _ _ _ _ _ _ w _ => w | _ => []) ∧ d.answered i rcSuccess 0xC012 [])

/-- While a reference scan runs, XT_STAGE_COMMIT returns Busy -/
def Obligations.ReferenceScanMakesCommitBusy : Prop :=
  (∀ (s : State) (i : Iface) (p : Payload), s.dev.takesNow i 0xC011 → s.dev.ownPayload p 0 → s.dev.flag Fld.glbSealSts_refscan = true →
    Completes (.xtStageCommit i p) s fun d => d.answered i rcBusy 0xC011 [] ∧ d.stg = s.dev.stg ∧ d.shadow = s.dev.shadow ∧
      (∀ o, isStaged o = true → d.reg o = s.dev.reg o))

/-- XT_IDENTIFY answers; create and resize write their entries and stage; reset and destroy run their sequence -/
def Obligations.TenantsAreIdentifiedStagedAndEnded : Prop :=
  (∀ (s : State) (i : Iface) (p : Payload), s.dev.servesNow i 0xC000 → s.dev.ownPayload p 0 →
    Completes (.xtIdentify i p) s fun d => d.answered i rcSuccess 0xC000 (s.dev.identity.take 8192) ∧ d.mem = s.dev.mem ∧ d.ext = s.dev.ext) ∧
  (∀ (s : State) (b : TenantBody) (t : TenantId) (base : Nat) (i : Iface) (p : Payload), s.dev.takesNow i 0xC020 → s.dev.ownPayload p 24 → b = tenantBody (p.drop 8) → t = tenantId b.t → b.ok = true →
    s.dev.mayStage i = true → s.dev.stagedTenant t = false → s.dev.hostPort (portOf b.port) = true →
    s.dev.tenantOf (portOf b.port) b.ld = none → s.dev.tntState t = 0 → s.dev.flag (Fld.tntCtl_en t.val) = false →
    s.dev.poolsExist b.comp b.pool b.media = true → (∀ c ∈ s.dev.stg.cmds, StagedLd (portOf b.port) b.ld c = false) →
    (createWords s.dev b).length = b.near + b.stat → s.dev.findRange (b.near + b.stat) = some base →
    Completes (.xtTenantCreate i p) s fun d => d.answered i rcSuccess 0xC020 (leBytes 4 base ++ leBytes 4 (b.near + b.stat)) ∧
      d.stg.cmds = s.dev.stg.cmds ++ [.tenant true t (portOf b.port) b.ld base (b.near + b.stat) (partWord b.near b.stat b.comp) b.pool
        b.members b.media ((List.range (b.near + b.stat)).map fun k => base + k) []] ∧ d.tntState t = 0 ∧ d.stg.checked = false ∧
      (∀ k ∈ List.range (b.near + b.stat), d.extAt (base + k) = (createWords s.dev b).getD k 0) ∧ d.mem = s.dev.mem) ∧
  (∀ (s : State) (b : TenantBody) (t : TenantId) (ws : List Word) (base : Nat) (i : Iface) (p : Payload), s.dev.takesNow i 0xC021 → s.dev.ownPayload p 24 → b = tenantBody (p.drop 8) → t = tenantId b.t → ws = resizeWords s.dev t b →
    b.t < 32 → b.near ≤ 128 → leNat (p.drop 8) 4 4 < 2 ^ 19 → zeroBytes (p.drop 8) 18 6 = true →
    s.dev.mayStage i = true → s.dev.stagedTenant t = false → s.dev.tntState t = 1 → s.dev.poolsExist false 0 b.media = true →
    (∀ r ∈ List.range 8, s.dev.regionHolds t r = true →
      b.media.getD r (0, 0) = ((vget (⟨0, 0, 0⟩ : DcRegion) (s.dev.tenant t).regions r).medium,
        (vget (⟨0, 0, 0⟩ : DcRegion) (s.dev.tenant t).regions r).pool)) →
    ws.length = b.near + b.stat + (s.dev.extWords t).length - s.dev.fld (Fld.tntPart_nearBlk t.val) - s.dev.fld (Fld.tntPart_staticBlk t.val) →
    s.dev.fld (Fld.tntPart_nearBlk t.val) + s.dev.fld (Fld.tntPart_staticBlk t.val) ≤ s.dev.extLen t →
    (∀ k ∈ List.range (s.dev.extLen t), extV ((s.dev.extWords t).getD k 0) = true → (s.dev.extWords t).getD k 0 ≠ ws.getD k 0 →
      s.dev.decodedBlock (s.dev.tntPort t) (s.dev.tntLd t) k = false) →
    (if ws.take (s.dev.extLen t) = s.dev.extWords t ∧ s.dev.rangeFree (s.dev.extBase t + s.dev.extLen t) (ws.length - s.dev.extLen t) = true
      then some (s.dev.extBase t) else s.dev.findRange ws.length) = some base →
    Completes (.xtTenantResize i p) s fun d => d.answered i rcSuccess 0xC021 (leBytes 4 base ++ leBytes 4 ws.length) ∧
      d.stg.cmds.length = s.dev.stg.cmds.length + 1 ∧ d.stg.checked = false ∧ d.tntState t = 1 ∧ d.extBase t = s.dev.extBase t ∧
      d.extLen t = s.dev.extLen t ∧ d.mem = s.dev.mem) ∧
  (∀ (s : State) (t : TenantId) (i : Iface) (p : Payload), s.dev.takesNow i 0xC022 → s.dev.ownPayload p 1 → byteAt (p.drop 8) 0 = t.val → s.dev.namesTenant t = false → (s.dev.tenant t).seq = none →
    s.dev.tntState t = 1 →
    Completes (.xtTenantReset i p) s fun d => (d.tenant t).seq = some ⟨none, .reset, some i, 0, 0⟩ ∧ d.tntState t = 1 ∧ d.mem = s.dev.mem ∧
      d.mb.running = s.dev.mb.running ++ [(i, 0xC022)]) ∧
  (∀ (s : State) (t : TenantId) (i : Iface) (p : Payload), s.dev.takesNow i 0xC023 → s.dev.ownPayload p 1 → byteAt (p.drop 8) 0 = t.val → s.dev.namesTenant t = false → (s.dev.tenant t).seq = none →
    (s.dev.tntState t = 1 ∨ (s.dev.tntState t = 4 ∧ s.dev.sanitising t = false)) →
    Completes (.xtTenantDestroy i p) s fun d => (d.tenant t).seq = some ⟨none, .destroy, some i, 0, 0⟩ ∧ d.tntState t = s.dev.tntState t ∧
      d.mem = s.dev.mem ∧ d.mb.running = s.dev.mb.running ++ [(i, 0xC023)]) ∧
  (∀ (s : State) (t : TenantId) (q : TenantSeq), AtBoundary s.dev → s.dev.live = true → (s.dev.tenant t).seq = some q → q.r = none → q.kind ≠ .portReset →
    (∀ x ∈ s.dev.txns, x.tenant = some t → x.phase.looked = true) →
    Completes (.tenantSequenceStart t) s fun d => d.mem = s.dev.mem ∧ d.txns = s.dev.txns ∧
      (d.tenant t).seq = some { q with r := some s.dev.now, drained := (s.dev.openOf t).length } ∧
      d.tntState t = (match q.kind with | .reset => 2 | .destroy => 3 | _ => 4)) ∧
  (∀ (s : State) (t : TenantId) (q : TenantSeq) (r : Nat), AtBoundary s.dev → s.dev.live = true → (s.dev.tenant t).seq = some q → q.r = some r →
    r + 62 ≤ s.dev.now → s.dev.openOf t = [] → Quiet s.dev →
    Completes (.tenantSquash t) s fun d => d = s.dev) ∧
  (∀ (s : State) (t : TenantId) (q : TenantSeq) (r : Nat) (x : Txn) (port : PortId) (ld tag hpa : Nat), AtBoundary s.dev → s.dev.live = true →
    (s.dev.tenant t).seq = some q → q.r = some r → r + 62 ≤ s.dev.now → s.dev.txns = [x] → x.tenant = some t → x.phase = .far → x.op = .rd →
    x.org = .host port ld tag hpa → s.dev.isDown port = false →
    Completes (.tenantSquash t) s fun d => d.txns = [] ∧ d.mem.far = s.dev.mem.far ∧ d.mem.crema = s.dev.mem.crema ∧
      (d.tenant t).seq = some { q with drained := q.drained - 1, squashed := q.squashed + 1 } ∧
      (d.out.any fun o => match o with | .cxlData p' l' t' _ poison _ _ => p' == port && l' == ld && t' == tag && poison | _ => false) = true) ∧
  (∀ (s : State) (t : TenantId) (q : TenantSeq) (r : Nat), AtBoundary s.dev → s.dev.live = true → (s.dev.tenant t).seq = some q → q.r = some r →
    r + 94 ≤ s.dev.now → q.kind = .reset → s.dev.tntState t = 2 → (s.dev.tenant t).memClr = false →
    Completes (.tenantSequenceEnd t) s fun d => (d.tenant t).seq = none ∧ d.tntState t = 1 ∧ d.mem = s.dev.mem ∧ d.ext = s.dev.ext ∧
      d.fld (Fld.tntSts_squashed t.val) = min 65535 q.squashed) ∧
  (∀ (s : State) (t : TenantId) (q : TenantSeq) (r : Nat), AtBoundary s.dev → s.dev.live = true → (s.dev.tenant t).seq = some q → q.r = some r →
    r + 94 ≤ s.dev.now → q.kind = .destroy →
    Completes (.tenantSequenceEnd t) s fun d => d.tenant t = Tenant.reset ∧ d.tntState t = 0 ∧ d.reg (Off.tntCtl t.val) = 0 ∧
      d.extLen t = 0 ∧ d.mem = s.dev.mem ∧ (∀ k ∈ List.range (s.dev.extLen t), d.extAt (s.dev.extBase t + k) = 0))

/-- A rekey is asked for, starts with a new key at its boundary, walks, commits and passes pages, and ends with one key -/
def Obligations.RekeyStartsAndSteps : Prop :=
  (∀ (s : State) (src : Source) (v key : Word), s.dev.canAccess src Off.cryRekeyCtl = true → s.dev.pairReady src Off.cryRekeyCtl v key → Machine.rateOk (fieldOf v 0 7) = true → v.getLsbD 31 = true → s.dev.cry.rekey = none →
    Completes (.cryRekeyCtl src key) s fun d => (d.cry.rekey.map (·.phase)) = some .requested ∧ d.fld Fld.cryRekeyCtl_rate = fieldOf v 0 7 ∧
      d.cry.key = s.dev.cry.key ∧ d.mem = s.dev.mem) ∧
  (∀ (s : State) (src : Source) (v key : Word), s.dev.canAccess src Off.cryRekeyCtl = true → s.dev.pairReady src Off.cryRekeyCtl v key → Machine.rateOk (fieldOf v 0 7) = true → v.getLsbD 31 = false → s.dev.cry.rekey = none →
    Completes (.cryRekeyCtl src key) s fun d => d.cry = s.dev.cry ∧ d.fld Fld.cryRekeyCtl_rate = fieldOf v 0 7 ∧ d.mem = s.dev.mem) ∧
  (∀ (s : State) (r : Rekey) (src : Source) (v key : Word), s.dev.canAccess src Off.cryRekeyCtl = true → s.dev.pairReady src Off.cryRekeyCtl v key → Machine.rateOk (fieldOf v 0 7) = true → s.dev.cry.rekey = some r →
    Completes (.cryRekeyCtl src key) s fun d => d.cry = { s.dev.cry with rateNext := some (fieldOf v 0 7) } ∧ d.regs = s.dev.regs) ∧
  (∀ (s : State) (src : Source) (v key : Word), s.dev.canAccess src Off.cryRekeyCtl = true → s.dev.pairReady src Off.cryRekeyCtl v key → Machine.rateOk (fieldOf v 0 7) = false →
    Completes (.cryRekeyCtl src key) s fun d => d.cry = s.dev.cry ∧ d.flag Fld.cryRekeySts_refused = true ∧
      d.reg Off.glbKeyfail = keyfailWord 3 Off.cryRekeyCtl) ∧
  (∀ (s : State) (i : Iface) (p : Payload), s.dev.takesNow i 0xC030 → s.dev.ownPayload p 1 → Machine.rateOk (byteAt (p.drop 8) 0) = true → s.dev.cry.rekey = none →
    Completes (.xtRekeyStart i p) s fun d => (d.cry.rekey.map (·.phase)) = some .requested ∧
      d.fld Fld.cryRekeyCtl_rate = byteAt (p.drop 8) 0 ∧ d.answered i rcSuccess 0xC030 []) ∧
  (∀ (s : State) (i : Iface) (p : Payload), s.dev.takesNow i 0xC030 → s.dev.ownPayload p 1 → Machine.rateOk (byteAt (p.drop 8) 0) = false →
    Completes (.xtRekeyStart i p) s fun d => d.cry = s.dev.cry ∧ d.flag Fld.cryRekeySts_refused = true ∧
      d.answered i rcInvalidInput 0xC030 []) ∧
  (∀ (s : State) (r : Rekey) (i : Iface) (p : Payload), s.dev.takesNow i 0xC031 → s.dev.ownPayload p 0 → s.dev.cry.rekey = some r →
    Completes (.xtRekeyStatus i p) s fun d => d.cry = s.dev.cry ∧ d.reg Off.cryRekeySts = s.dev.reg Off.cryRekeySts ∧
      d.answered i rcSuccess 0xC031 (leBytes 4 (s.dev.reg Off.cryRekeySts).toNat ++ leBytes 8 (r.total - r.walked) ++
        leBytes 8 (ceilDiv (r.total - r.walked) (max 1 (s.dev.fld Fld.cryRekeyCtl_rate))))) ∧
  (∀ (s : State) (r : Rekey), AtBoundary s.dev → s.dev.cry.rekey = some r → r.phase = .requested → s.dev.rekeyReady = true →
    Completes (.rekeyStart true) s fun d => d.cry.key = some s.dev.cry.draws ∧ d.cry.oldKey = s.dev.cry.key ∧ d.cry.majorNext = 0 ∧
      d.cry.majorNextOld = s.dev.cry.majorNext ∧ d.cry.draws = s.dev.cry.draws + 1 ∧ d.flag Fld.crySts_rekey = true ∧
      d.fld Fld.cryCrmBound_line = 0 ∧ (d.cry.rekey.map fun x => (x.phase, x.k)) = some (.deriving_, s.dev.now) ∧ d.mem = s.dev.mem ∧
      (∀ c ∈ List.range 8, d.fld (Fld.cryFarBound_page c) = 0)) ∧
  (∀ (s : State) (r : Rekey), AtBoundary s.dev → s.dev.cry.rekey = some r → r.phase = .requested → s.dev.rekeyReady = true →
    Completes (.rekeyStart false) s fun d => d.cry.rekey = none ∧ d.cry.key = s.dev.cry.key ∧ d.cry.majorNext = s.dev.cry.majorNext ∧
      d.flag Fld.cryRekeySts_refused = true ∧ d.mem = s.dev.mem ∧
      (∀ c ∈ List.range 8, d.reg (Off.cryFarBound c) = s.dev.reg (Off.cryFarBound c))) ∧
  (∀ (s : State) (r : Rekey), AtBoundary s.dev → s.dev.live = true → s.dev.cry.rekey = some r → r.phase = .deriving_ → r.k + 64 ≤ s.dev.now →
    Completes .subkeyDerivationDone s fun d => d.cry.rekey = some { r with phase := .walking, total := s.dev.rekeyTotal } ∧ d.mem = s.dev.mem) ∧
  (∀ (s : State) (ch : FarCh) (x : RekeyPage), s.dev.rekeyPage ch.val = some x → x.got = BitVec.allOnes 64 → x.committed = false →
    Completes (.rekeyPageCommit ch) s fun d =>
      (d.cry.rekey.bind fun r => vget none r.pages ch.val) = some { x with committed := true } ∧
      (∀ j ∈ List.range 64, d.mem.farPoison.has (farKey ch.val (x.page * 64 + j)) = x.poison.getLsbD j ∧
        Memory.line d.mem.far (farKey ch.val (x.page * 64 + j)) = if x.poison.getLsbD j then 0 else Sparse.get 0 x.held j)) ∧
  (∀ (s : State) (ch : FarCh) (x : RekeyPage), AtBoundary s.dev → s.dev.rekeyPage ch.val = some x → x.committed = true →
    Completes (.rekeyPageAdvance ch) s fun d => d.fld (Fld.cryFarBound_page ch.val) = (x.page + 1) % 2 ^ (Fld.cryFarBound_page ch.val).w ∧
      (d.cry.rekey.bind fun r => vget none r.pages ch.val) = none ∧ d.mem = s.dev.mem) ∧
  (∀ (s : State) (r : Rekey), AtBoundary s.dev → s.dev.live = true → s.dev.cry.rekey = some r → r.phase = .walking → r.cremaEnd = true →
    (∀ c ∈ List.range 8, s.dev.flag (Fld.cryFarBound_end c) = true) →
    Completes .rekeyDone s fun d => d.cry.rekey = none ∧ d.cry.oldKey = none ∧ d.cry.key = s.dev.cry.key ∧ d.cry.majorNextOld = 0 ∧
      d.flag Fld.cryRekeySts_done = true ∧ d.flag Fld.crySts_rekey = false ∧ d.mem = s.dev.mem)

/-- Parts of an image fill the slot not in force; its verify marks it valid; a valid slot becomes the boot slot or is restarted into -/
def Obligations.FirmwareIsStagedVerifiedAndActivated : Prop :=
  (∀ (s : State) (n : Fin 2) (i : Iface) (p : Payload), s.dev.takesNow i 0xC0A0 → s.dev.ownPayload p 24 → byteAt p 8 = n.val → byteAt p 9 = 0 → zeroBytes p 10 2 = true → zeroBytes p 20 12 = true →
    32 + leNat p 16 4 ≤ p.length → s.dev.inForce n = false → s.dev.verifying n = false →
    (leNat p 12 4 = 0 ∨ (s.dev.mb.fwNext[n] ≠ 0 ∧ leNat p 12 4 = s.dev.mb.fwNext[n])) → leNat p 12 4 + leNat p 16 4 ≤ 1572864 →
    Completes (.xtFwStage i p) s fun d => d.slotBytes n = (if leNat p 12 4 = 0 then [] else s.dev.slotBytes n) ++ (p.drop 32).take (leNat p 16 4) ∧
      (d.can.slots[n]).valid = false ∧ d.mb.fwNext[n] = leNat p 12 4 + leNat p 16 4 ∧ d.mb.fg = s.dev.mb.fg ∧
      d.answered i rcSuccess 0xC0A0 []) ∧
  (∀ (s : State) (n : Fin 2) (i : Iface) (off : Nat) (b : Payload), s.dev.takesNow i 0x0201 → s.dev.inForce n = false → s.dev.verifying n = false →
    (off = 0 ∨ (s.dev.mb.fwNext[n] ≠ 0 ∧ off = s.dev.mb.fwNext[n])) → off + b.length ≤ 1572864 →
    Completes (.transferFw i (n.val + 1) off false b) s fun d => d.slotBytes n = (if off = 0 then [] else s.dev.slotBytes n) ++ b ∧
      (d.can.slots[n]).valid = false ∧ d.mb.fwNext[n] = off + b.length ∧ d.mb.fg = s.dev.mb.fg ∧ d.answered i rcSuccess 0x0201 []) ∧
  (∀ (s : State) (n : Fin 2) (i : Iface) (off : Nat) (b : Payload), s.dev.takesNow i 0x0201 → s.dev.inForce n = false → s.dev.mb.fg = none →
    (off = 0 ∨ (s.dev.mb.fwNext[n] ≠ 0 ∧ off = s.dev.mb.fwNext[n])) → off + b.length ≤ 1572864 →
    Completes (.transferFw i (n.val + 1) off true b) s fun d => d.slotBytes n = (if off = 0 then [] else s.dev.slotBytes n) ++ b ∧
      (d.can.slots[n]).valid = false ∧ d.mb.fg = some ⟨8, some i, .fwVerify n, 0, 1, false, 0⟩ ∧ d.fld Fld.mboxBrewSts_kind = 8 ∧
      d.answered i rcBackground 0x0201 []) ∧
  (∀ (s : State) (n : Fin 2) (i : Iface) (off : Nat) (last : Bool) (b : Payload), s.dev.takesNow i 0x0201 →
    (s.dev.inForce n = true ∨ (off ≠ 0 ∧ (s.dev.mb.fwNext[n] = 0 ∨ off ≠ s.dev.mb.fwNext[n])) ∨ 1572864 < off + b.length) →
    Completes (.transferFw i (n.val + 1) off last b) s fun d => d.answered i rcInvalidInput 0x0201 [] ∧ d.can = s.dev.can ∧
      d.mb.fwNext = s.dev.mb.fwNext ∧ d.mb.fg = s.dev.mb.fg) ∧
  (∀ (s : State) (f : Brew) (n : Fin 2), s.dev.live = true → s.dev.mb.fg = some f → f.work = .fwVerify n →
    s.dev.verifyImage [1, 2] (s.dev.slotBytes n) none = none →
    Completes (.firmwareVerifyComplete none) s fun d => (d.can.slots[n]).valid = true ∧ d.slotBytes n = s.dev.slotBytes n ∧ d.mb.fg = none ∧
      d.mb.bg = rcSuccess ∧ d.mb.slot = s.dev.mb.slot) ∧
  (∀ (s : State) (f : Brew) (n : Fin 2) (sig : Option Nat), s.dev.live = true → s.dev.mb.fg = some f → f.work = .fwVerify n →
    s.dev.verifyImage [1, 2] (s.dev.slotBytes n) sig ≠ none →
    Completes (.firmwareVerifyComplete sig) s fun d => d.can.slots = s.dev.can.slots ∧ d.mb.fg = none ∧ d.mb.bg = rcFwVerify ∧
      d.mb.slot = s.dev.mb.slot) ∧
  (∀ (s : State) (n : Fin 2) (i : Iface) (p : Payload), s.dev.takesNow i 0xC0A1 → s.dev.ownPayload p 2 → byteAt p 8 = n.val → byteAt p 9 = 0 → (s.dev.can.slots[n]).valid = true →
    s.dev.verifyImage [1] (s.dev.slotBytes n) none = none →
    Completes (.xtFwActivate i p) s fun d => d.can.bootSlot = n ∧ d.mb.state = s.dev.mb.state ∧
      d.answered i rcSuccess 0xC0A1 (leBytes 1 s.dev.mb.slot.val)) ∧
  (∀ (s : State) (n : Fin 2) (i : Iface) (p : Payload), s.dev.takesNow i 0xC0A1 → s.dev.ownPayload p 2 → byteAt p 8 = n.val → byteAt p 9 = 1 → (s.dev.can.slots[n]).valid = true →
    s.dev.verifyImage [1] (s.dev.slotBytes n) none = none → s.dev.mode = .maint → s.dev.mb.fg = none →
    Completes (.xtFwActivate i p) s fun d => d.can.bootSlot = n ∧ d.mb.state = .restarting ∧ d.mb.activating = some (i, 0xC0A1, s.dev.can.bootSlot, n) ∧
      d.mb.slot = s.dev.mb.slot ∧ d.mb.restarts = s.dev.mb.restarts) ∧
  (∀ (s : State) (n : Fin 2) (i : Iface) (now : Bool), s.dev.takesNow i 0x0202 →
    (s.dev.can.slots[n]).valid = false →
    Completes (.activateFw i (n.val + 1) now) s fun d => d.answered i rcInvalidInput 0x0202 [] ∧ d.can = s.dev.can ∧ d.mb.state = s.dev.mb.state) ∧
  (∀ (s : State) (n : Fin 2) (i : Iface), s.dev.takesNow i 0x0202 → (s.dev.can.slots[n]).valid = true →
    s.dev.verifyImage [1] (s.dev.slotBytes n) none = none →
    Completes (.activateFw i (n.val + 1) false) s fun d => d.can.bootSlot = n ∧ d.can.slots = s.dev.can.slots ∧ d.mb.slot = s.dev.mb.slot ∧
      d.mb.state = s.dev.mb.state ∧ d.answered i rcSuccess 0x0202 (leBytes 1 s.dev.mb.slot.val)) ∧
  (∀ (s : State) (i : Iface), s.dev.takesNow i 0x0200 →
    Completes (.getFwInfo i) s fun d => d.can = s.dev.can ∧ d.mem = s.dev.mem ∧ d.shadow = s.dev.shadow ∧ d.tenants = s.dev.tenants ∧
      d.answered i rcSuccess 0x0200 ([2, BitVec.ofNat 8 ((if s.dev.mb.recovery then 0 else s.dev.mb.slot.val + 1) + 8 * (s.dev.can.bootSlot.val + 1)), 1] ++
        List.replicate 13 0 ++ leBytes 16 (s.dev.slotVersion 0) ++ leBytes 16 (s.dev.slotVersion 1)))

/-- A failed Barista restarts, the fourth time in 2^24 pours it is held; the restart ends in the verified image; records are forwarded in order -/
def Obligations.BaristaRestartsAndForwards : Prop :=
  (∀ (s : State), s.dev.live = true → s.dev.mb.state = .running → (s.dev.mb.restarts.filter fun q => decide (s.dev.now ≤ q + 2 ^ 24)).length < 3 →
    Completes .watchdogExpiry s fun d => d.mb.state = .restarting ∧ d.fld Fld.mboxBaristaSts_cause = 1 ∧ s.dev.now ∈ d.mb.restarts ∧
      d.mb.running = [] ∧ d.mb.fg = none ∧ d.flag Fld.mboxBaristaSts_held = s.dev.flag Fld.mboxBaristaSts_held ∧ d.mode = s.dev.mode ∧
      d.mem = s.dev.mem) ∧
  (∀ (s : State), s.dev.live = true → s.dev.mb.state = .running → 3 ≤ (s.dev.mb.restarts.filter fun q => decide (s.dev.now ≤ q + 2 ^ 24)).length →
    Completes .watchdogExpiry s fun d => d.mb.state = .held ∧ d.flag Fld.mboxBaristaSts_held = true ∧ d.alertN = true ∧ d.mode = s.dev.mode ∧ d.mem = s.dev.mem) ∧
  (∀ (s : State), s.dev.live = true → s.dev.mb.state = .running → (s.dev.mb.restarts.filter fun q => decide (s.dev.now ≤ q + 2 ^ 24)).length < 3 →
    Completes .lockstepMismatch s fun d => d.mb.state = .restarting ∧ d.fld Fld.mboxBaristaSts_cause = 2 ∧ s.dev.now ∈ d.mb.restarts ∧
      d.mb.running = [] ∧ d.mb.fg = none ∧ d.flag Fld.mboxBaristaSts_held = s.dev.flag Fld.mboxBaristaSts_held ∧ d.mode = s.dev.mode ∧
      d.mem = s.dev.mem) ∧
  (∀ (s : State), s.dev.live = true → s.dev.mb.state = .running → 3 ≤ (s.dev.mb.restarts.filter fun q => decide (s.dev.now ≤ q + 2 ^ 24)).length →
    Completes .lockstepMismatch s fun d => d.mb.state = .held ∧ d.flag Fld.mboxBaristaSts_held = true ∧ d.alertN = true ∧ d.mode = s.dev.mode ∧ d.mem = s.dev.mem) ∧
  (∀ (s : State), s.dev.live = true → s.dev.mb.state = .running → (s.dev.mb.restarts.filter fun q => decide (s.dev.now ≤ q + 2 ^ 24)).length < 3 →
    Completes .tcmUncorrectableFetch s fun d => d.mb.state = .restarting ∧ d.fld Fld.mboxBaristaSts_cause = 3 ∧ s.dev.now ∈ d.mb.restarts ∧
      d.mb.running = [] ∧ d.mb.fg = none ∧ d.flag Fld.mboxBaristaSts_held = s.dev.flag Fld.mboxBaristaSts_held ∧ d.mode = s.dev.mode ∧
      d.mem = s.dev.mem) ∧
  (∀ (s : State), s.dev.live = true → s.dev.mb.state = .running → 3 ≤ (s.dev.mb.restarts.filter fun q => decide (s.dev.now ≤ q + 2 ^ 24)).length →
    Completes .tcmUncorrectableFetch s fun d => d.mb.state = .held ∧ d.flag Fld.mboxBaristaSts_held = true ∧ d.alertN = true ∧ d.mode = s.dev.mode ∧ d.mem = s.dev.mem) ∧
  (∀ (s : State), s.dev.live = true → s.dev.mb.state = .restarting → s.dev.mb.activating = none →
    Completes (.baristaRestartComplete true) s fun d => d.mb.state = .running ∧ d.mb.slot = s.dev.mb.slot ∧ d.mem = s.dev.mem ∧ d.can.bootSlot = s.dev.can.bootSlot) ∧
  (∀ (s : State) (i : Iface) (op : Nat) (old new : Fin 2), s.dev.live = true → s.dev.mb.state = .restarting → s.dev.mb.activating = some (i, op, old, new) →
    s.dev.mb.waits = [] →
    Completes (.baristaRestartComplete true) s fun d => d.mb.state = .running ∧ d.mb.slot = new ∧ d.mb.activating = none ∧
      d.mb.restarts = s.dev.mb.restarts ∧ d.fld Fld.mboxBaristaSts_slot = new.val ∧ d.answered i rcSuccess op (leBytes 1 new.val)) ∧
  (∀ (s : State) (i : Iface) (op : Nat) (old new : Fin 2), s.dev.live = true → s.dev.mb.state = .restarting → s.dev.mb.activating = some (i, op, old, new) →
    s.dev.mb.waits = [] →
    Completes (.baristaRestartComplete false) s fun d => d.mb.state = .running ∧ d.mb.slot = s.dev.mb.slot ∧ d.can.bootSlot = old ∧
      d.mb.activating = none ∧ d.answered i rcInternal op []) ∧
  (∀ (s : State) (r : EventRec) (t : TenantId), s.dev.mode ≠ .cold → s.dev.mb.state = .running → s.dev.ras.tail < s.dev.ras.written →
    (s.dev.ras.recs.find? fun (x : EventRec) => x.rseq == s.dev.ras.tail) = some r → (r.fromMember = true ∨ r.pour ≠ s.dev.clk.pour) → r.tenant = some t →
    s.dev.flag (Fld.tntCtl_en t.val) = true →
    Completes .recordForward s fun d => d.ras.tail = s.dev.ras.tail + 1 ∧ d.ras.recs = s.dev.ras.recs ∧
      (d.ldOf (s.dev.tntPort t) (s.dev.tntLd t)).log = (s.dev.ldOf (s.dev.tntPort t) (s.dev.tntLd t)).log ++ [r] ∧
      d.mem = s.dev.mem ∧ d.tenants = s.dev.tenants) ∧
  (∀ (s : State) (r : EventRec), (s.dev.ras.recs.find? fun (x : EventRec) => x.rseq == s.dev.ras.tail) = some r → r.fromMember = false →
    r.pour = s.dev.clk.pour → Completes .recordForward s fun d => d = s.dev)

/-- An abort ends the foreground brew, sanitise and scan start one, a step does one unit, a reinit ends with its subtree released -/
def Obligations.BrewsStepAndAbort : Prop :=
  (∀ (s : State) (b : Brew) (i : Iface) (p : Payload), s.dev.takesNow i 0xC0F0 → s.dev.ownPayload p 1 → s.dev.mb.fg = some b → b.kind = byteAt p 8 → b.kind ≠ 9 →
    Completes (.xtBrewAbort i p) s fun d => d.mb.fg = none ∧ d.mb.bg = rcAborted ∧ d.answered i rcSuccess 0xC0F0 (leBytes 4 b.done) ∧
      d.tenants = s.dev.tenants ∧ (∀ t : TenantId, d.tntState t = s.dev.tntState t)) ∧
  (∀ (s : State) (i : Iface) (p : Payload), s.dev.takesNow i 0xC0F0 → s.dev.ownPayload p 1 → (∀ b ∈ s.dev.mb.fg.toList, b.kind = 9 ∨ b.kind ≠ byteAt p 8) →
    Completes (.xtBrewAbort i p) s fun d => d.mb.fg = s.dev.mb.fg ∧ d.mb.bg = s.dev.mb.bg ∧ d.answered i rcInvalidInput 0xC0F0 []) ∧
  (∀ (s : State) (b : Brew) (i : Iface), s.dev.takesNow i 0x0005 → s.dev.mb.fg = some b → b.kind ≠ 9 →
    Completes (.requestAbortBackgroundOperation i) s fun d => d.mb.fg = none ∧ d.mb.bg = rcAborted ∧ d.answered i rcSuccess 0x0005 [] ∧
      d.tenants = s.dev.tenants ∧ (∀ t : TenantId, d.tntState t = s.dev.tntState t)) ∧
  (∀ (s : State) (i : Iface) (ld : Nat) (t : TenantId), s.dev.takesNow i 0x4400 → s.dev.tenantOf (ifacePort i) ld = some t → s.dev.tntState t ≠ 2 → s.dev.tntState t ≠ 3 →
    (s.dev.tenant t).seq = none → s.dev.mb.fg = none →
    Completes (.sanitize i ld) s fun d => d.mb.fg = some ⟨1, some i, .sanitise t false none, 0, (s.dev.mappedBlocks t).length, false, 0⟩ ∧
      (d.tenant t).seq = some ⟨none, .sanitise, none, 0, 0⟩ ∧ d.mem = s.dev.mem ∧ d.answered i rcBackground 0x4400 []) ∧
  (∀ (s : State) (i : Iface) (ld : Nat) (t : TenantId), s.dev.takesNow i 0x4400 → s.dev.tenantOf (ifacePort i) ld = some t →
    (s.dev.tntState t = 2 ∨ s.dev.tntState t = 3 ∨ s.dev.sequenceRuns t = true ∨ s.dev.mb.fg.isSome = true) →
    Completes (.sanitize i ld) s fun d => d.answered i rcBusy 0x4400 [] ∧ d.mb.fg = s.dev.mb.fg ∧ d.tenants = s.dev.tenants) ∧
  (∀ (s : State) (i : Iface) (ld : Nat), s.dev.takesNow i 0x4400 → s.dev.tenantOf (ifacePort i) ld = none →
    Completes (.sanitize i ld) s fun d => d.mb.fg = s.dev.mb.fg ∧ d.mem = s.dev.mem ∧ d.tenants = s.dev.tenants ∧ d.answered i rcInvalidInput 0x4400 []) ∧
  (∀ (s : State) (i : Iface) (ld : Nat) (t : TenantId), s.dev.takesNow i 0x4401 → s.dev.tenantOf (ifacePort i) ld = some t → s.dev.tntState t ≠ 2 → s.dev.tntState t ≠ 3 →
    (s.dev.tenant t).seq = none → s.dev.mb.fg = none →
    Completes (.secureErase i ld) s fun d => d.mb.fg = some ⟨1, some i, .sanitise t true none, 0, (s.dev.mappedBlocks t).length, false, 0⟩ ∧
      (d.tenant t).seq = some ⟨none, .sanitise, none, 0, 0⟩ ∧ d.mem = s.dev.mem ∧ d.answered i rcBackground 0x4401 []) ∧
  (∀ (s : State) (i : Iface) (ld : Nat) (t : TenantId), s.dev.takesNow i 0x4401 → s.dev.tenantOf (ifacePort i) ld = some t →
    (s.dev.tntState t = 2 ∨ s.dev.tntState t = 3 ∨ s.dev.sequenceRuns t = true ∨ s.dev.mb.fg.isSome = true) →
    Completes (.secureErase i ld) s fun d => d.answered i rcBusy 0x4401 [] ∧ d.mb.fg = s.dev.mb.fg ∧ d.tenants = s.dev.tenants) ∧
  (∀ (s : State) (i : Iface) (ld : Nat), s.dev.takesNow i 0x4401 → s.dev.tenantOf (ifacePort i) ld = none →
    Completes (.secureErase i ld) s fun d => d.mb.fg = s.dev.mb.fg ∧ d.mem = s.dev.mem ∧ d.tenants = s.dev.tenants ∧ d.answered i rcInvalidInput 0x4401 []) ∧
  (∀ (s : State) (i : Iface) (ld : Nat) (t : TenantId), s.dev.takesNow i 0x4304 → s.dev.tenantOf (ifacePort i) ld = some t → s.dev.mb.fg = none →
    Completes (.scanMedia i ld) s fun d => d.mb.fg = some ⟨2, some i, .scanMedia (ifacePort i) ld, 0, (s.dev.mappedBlocks t).length, false, 0⟩ ∧
      d.lds = s.dev.lds ∧ d.mem = s.dev.mem ∧ d.answered i rcBackground 0x4304 []) ∧
  (∀ (s : State) (i : Iface) (ld : Nat) (t : TenantId), s.dev.takesNow i 0x4304 → s.dev.tenantOf (ifacePort i) ld = some t → s.dev.mb.fg.isSome = true →
    Completes (.scanMedia i ld) s fun d => d.mb.fg = s.dev.mb.fg ∧ d.lds = s.dev.lds ∧ d.answered i rcBusy 0x4304 []) ∧
  (∀ (s : State) (w : Bool) (errs : LineErrs) (b : Brew) (t : TenantId) (sec : Bool) (r : Nat), AtBoundary s.dev → s.dev.live = true → s.dev.mb.state = .running → s.dev.mb.stepDue = true →
    (∀ q ∈ s.dev.mb.stepAt.toList, q < s.dev.now) →
    s.dev.mb.waits = [] → s.dev.mb.internal = [] → s.dev.mb.fg = some b → b.work = .sanitise t sec (some r) → b.suspended = false →
    s.dev.mode ≠ .drain → s.dev.mode ≠ .hibernate → (s.dev.mappedBlocks t).length ≤ b.done + 1 →
    Completes (.brewStepEnd w errs) s fun d => d.mb.fg = none ∧ d.mb.bg = rcSuccess ∧ d.mb.stepDue = false ∧ d.tntState t = 1) ∧
  (∀ (s : State) (w : Bool) (errs : LineErrs) (b : Brew) (p : PortId) (ld : Nat), AtBoundary s.dev → s.dev.live = true → s.dev.mb.state = .running → s.dev.mb.stepDue = true →
    (∀ q ∈ s.dev.mb.stepAt.toList, q < s.dev.now) →
    s.dev.mb.waits = [] → s.dev.mb.internal = [] → s.dev.mb.fg = some b → b.work = .scanMedia p ld → b.suspended = false →
    s.dev.mode ≠ .drain → s.dev.mode ≠ .hibernate → b.done + 1 < b.planned →
    Completes (.brewStepEnd w errs) s fun d => d.mb.fg = some { b with done := b.done + 1 } ∧ d.lds = s.dev.lds ∧ d.mem = s.dev.mem) ∧
  (∀ (s : State) (w : Bool) (errs : LineErrs) (b : Brew) (n : Nat), AtBoundary s.dev → s.dev.live = true → s.dev.mb.state = .running → s.dev.mb.stepDue = true →
    (∀ q ∈ s.dev.mb.stepAt.toList, q < s.dev.now) →
    s.dev.mb.waits = [] → s.dev.mb.fg = none → s.dev.mb.internal = [b] → b.work = .blockSanitise [(0, n)] → s.dev.blockIdle (0, n) = true →
    s.dev.mode ≠ .hibernate →
    Completes (.brewStepEnd w errs) s fun d => d.mb.internal = [] ∧ d.mem.far = s.dev.mem.far ∧
      (∀ k ∈ List.range (2 ^ 22), d.cremaView (n * 2 ^ 16 + k / 64) (k % 64) = (0, false))) ∧
  (∀ (s : State) (b : Brew) (ch : FarCh) (level index : Nat), AtBoundary s.dev → s.dev.live = true → s.dev.rekeying = false →
    s.dev.mb.internal = [b] → b.work = .subtreeReinit ch level index → b.done = 8 ^ level →
    Completes .subtreeReinitEnd s fun d => (d.fch ch.val).subtrees = (s.dev.fch ch.val).subtrees.erase (level, index) ∧ d.mb.internal = [] ∧
      d.mem = s.dev.mem)

/-- Inject Poison and Clear Poison write the line a DPA names, Get Poison List answers the list of its LD -/
def Obligations.PoisonIsInjectedClearedAndListed : Prop :=
  (∀ (s : State) (i : Iface) (ld dpa : Nat)  (ma : Nat), s.dev.takesNow i 0x4301 → dpa % 64 = 0 → s.dev.dpaMa (ifacePort i) ld dpa = some (ma, false) → NearLine s.dev ma →
    Completes (.injectPoison i ld dpa) s fun d => d.readLine ma false = (0, true) ∧ d.answered i rcSuccess 0x4301 []) ∧
  (∀ (s : State) (i : Iface) (ld dpa : Nat)  (ma : Nat), s.dev.takesNow i 0x4301 → dpa % 64 = 0 → s.dev.dpaMa (ifacePort i) ld dpa = some (ma, false) → FarLine s.dev ma →
    Completes (.injectPoison i ld dpa) s fun d => d.readLine ma false = (0, true) ∧ d.answered i rcSuccess 0x4301 []) ∧
  (∀ (s : State) (i : Iface) (ld dpa : Nat) (data : Line) (ma : Nat), s.dev.takesNow i 0x4302 → dpa % 64 = 0 → s.dev.dpaMa (ifacePort i) ld dpa = some (ma, false) → NearLine s.dev ma →
    Completes (.clearPoison i ld dpa data) s fun d => d.readLine ma false = (data, false) ∧ d.answered i rcSuccess 0x4302 []) ∧
  (∀ (s : State) (i : Iface) (ld dpa : Nat) (data : Line) (ma : Nat), s.dev.takesNow i 0x4302 → dpa % 64 = 0 → s.dev.dpaMa (ifacePort i) ld dpa = some (ma, false) → FarLine s.dev ma →
    Completes (.clearPoison i ld dpa data) s fun d => d.readLine ma false = (data, false) ∧ d.answered i rcSuccess 0x4302 []) ∧
  (∀ (s : State) (i : Iface) (ld dpa : Nat), s.dev.takesNow i 0x4301 → (dpa % 64 ≠ 0 ∨ s.dev.dpaMa (ifacePort i) ld dpa = none) →
    Completes (.injectPoison i ld dpa) s fun d => d.mem = s.dev.mem ∧ d.lds = s.dev.lds ∧ d.frames = s.dev.frames ∧
      d.answered i (if dpa % 64 ≠ 0 then rcInvalidInput else rcInvalidPa) 0x4301 []) ∧
  (∀ (s : State) (i : Iface) (ld dpa : Nat) (data : Line), s.dev.takesNow i 0x4302 → (dpa % 64 ≠ 0 ∨ s.dev.dpaMa (ifacePort i) ld dpa = none) →
    Completes (.clearPoison i ld dpa data) s fun d => d.mem = s.dev.mem ∧ d.lds = s.dev.lds ∧ d.frames = s.dev.frames ∧
      d.answered i (if dpa % 64 ≠ 0 then rcInvalidInput else rcInvalidPa) 0x4302 []) ∧
  (∀ (s : State) (i : Iface) (ld : Nat), s.dev.takesNow i 0x4300 → ld < 16 →
    Completes (.getPoisonList i ld) s fun d => d.mem = s.dev.mem ∧ d.lds = s.dev.lds ∧ d.answered i rcSuccess 0x4300 [] ∧
      .poisonList i (s.dev.ldOf (ifacePort i) ld).poisonOvf (s.dev.ldOf (ifacePort i) ld).ovfAt (s.dev.ldOf (ifacePort i) ld).poison ∈ d.out)

/-- Capacity is offered, accepted or declined by its host, released or withdrawn; a region without extents takes a new length -/
def Obligations.DynamicCapacityIsOfferedAndReleased : Prop :=
  (∀ (s : State) (t : TenantId) (r : Fin 8) (n tag : Nat) (es : List Nat) (ws : List Word), FmTaken s.dev → s.dev.flag Fld.glbSecCtl_mctpRo = false → s.dev.tntState t = 1 →
    (dcRegion s.dev t r.val).medium ≠ 0 → n ≠ 0 → s.dev.stagedTenant t = false → es = (s.dev.freeRegionEntries t r.val).take n →
    ws = (s.dev.regionWords (dcRegion s.dev t r.val) (s.dev.tenant t).members).take n → es.length = n → ws.length = n →
    Completes (.initiateDynamicCapacityAdd t r n tag) s fun d => d.out.head? = some (.fmapi rcSuccess []) ∧
      (d.tenant t).dc = (s.dev.tenant t).dc ++ es.map (fun e => (⟨e, r.val, tag, false, none⟩ : DcExtent)) ∧
      .dcEvent (s.dev.tntPort t) (s.dev.tntLd t) 0 (es.map fun e => e - s.dev.extBase t) ∈ d.out ∧
      (∀ k ∈ List.range n, extV (d.extAt (es.getD k 0)) = false ∧ extPend (d.extAt (es.getD k 0)) = true ∧
        extBlock (d.extAt (es.getD k 0)) = extBlock (ws.getD k 0)) ∧ d.mem = s.dev.mem) ∧
  (∀ (s : State) (t : TenantId) (r : Fin 8) (n tag : Nat), FmTaken s.dev → s.dev.flag Fld.glbSecCtl_mctpRo = false → s.dev.tntState t = 1 →
    (dcRegion s.dev t r.val).medium ≠ 0 → s.dev.stagedTenant t = false →
    ((s.dev.freeRegionEntries t r.val).length < n ∨ (s.dev.regionWords (dcRegion s.dev t r.val) (s.dev.tenant t).members).length < n) →
    Completes (.initiateDynamicCapacityAdd t r n tag) s fun d => d.out.head? = some (.fmapi rcResources []) ∧ d.tenants = s.dev.tenants ∧ d.ext = s.dev.ext) ∧
  (∀ (s : State) (p : PortId) (ld : Nat) (acc : List Nat) (t : TenantId), s.dev.takesNow (portIface p) 0x4802 → s.dev.tenantOf p ld = some t →
    (∀ b ∈ acc, ∃ e ∈ (s.dev.tenant t).dc, e.accepted = false ∧ e.answer = none ∧ s.dev.dcBlock t e = b) →
    Completes (.addDynamicCapacityResponse p ld acc) s fun d => d.answered (portIface p) rcSuccess 0x4802 [] ∧ d.ext = s.dev.ext ∧
      (d.tenant t).dc = (s.dev.tenant t).dc.map fun e =>
        if e.accepted = false ∧ e.answer = none then { e with answer := some (acc.contains (s.dev.dcBlock t e)) } else e) ∧
  (∀ (s : State) (p : PortId) (ld b : Nat) (acc : List Nat) (t : TenantId), s.dev.takesNow (portIface p) 0x4802 → s.dev.tenantOf p ld = some t →
    b ∈ acc → (∀ e ∈ (s.dev.tenant t).dc, e.accepted = false → e.answer = none → s.dev.dcBlock t e ≠ b) →
    Completes (.addDynamicCapacityResponse p ld acc) s fun d => d.answered (portIface p) rcExtents 0x4802 [] ∧ d.ext = s.dev.ext ∧
      d.tenants = s.dev.tenants) ∧
  (∀ (s : State) (p : PortId) (ld : Nat) (bs : List Nat) (t : TenantId), s.dev.takesNow (portIface p) 0x4803 → s.dev.tenantOf p ld = some t →
    (∀ b ∈ bs, ∃ e ∈ (s.dev.tenant t).dc, e.accepted = true ∧ s.dev.dcBlock t e = b) →
    Completes (.releaseDynamicCapacity p ld bs) s fun d => d.answered (portIface p) rcSuccess 0x4803 [] ∧ d.ext = s.dev.ext ∧
      (d.tenant t).dc = (s.dev.tenant t).dc.map fun e =>
        if e.accepted = true ∧ s.dev.dcBlock t e ∈ bs then { e with answer := some false } else e) ∧
  (∀ (s : State) (p : PortId) (ld b : Nat) (bs : List Nat) (t : TenantId), s.dev.takesNow (portIface p) 0x4803 → s.dev.tenantOf p ld = some t →
    b ∈ bs → (∀ e ∈ (s.dev.tenant t).dc, e.accepted = true → s.dev.dcBlock t e ≠ b) →
    Completes (.releaseDynamicCapacity p ld bs) s fun d => d.answered (portIface p) rcExtents 0x4803 [] ∧ d.ext = s.dev.ext ∧ d.tenants = s.dev.tenants) ∧
  (∀ (s : State) (t : TenantId) (bs : List Nat), FmTaken s.dev → s.dev.flag Fld.glbSecCtl_mctpRo = false → s.dev.tntState t ≠ 0 →
    (∀ b ∈ bs, ∃ e ∈ (s.dev.tenant t).dc, s.dev.dcBlock t e = b) →
    Completes (.initiateDynamicCapacityRelease t bs false) s fun d => d.out.head? = some (.fmapi rcSuccess []) ∧ d.ext = s.dev.ext ∧
      (d.tenant t).dc = (s.dev.tenant t).dc.map fun e =>
        if e.accepted = false ∧ s.dev.dcBlock t e ∈ bs then { e with answer := some false } else e) ∧
  (∀ (s : State) (t : TenantId) (b : Nat) (bs : List Nat) (forced : Bool), FmTaken s.dev → s.dev.flag Fld.glbSecCtl_mctpRo = false → b ∈ bs →
    (∀ e ∈ (s.dev.tenant t).dc, s.dev.dcBlock t e ≠ b) →
    Completes (.initiateDynamicCapacityRelease t bs forced) s fun d => d.out.head? = some (.fmapi rcExtents []) ∧ d.ext = s.dev.ext ∧ d.tenants = s.dev.tenants) ∧
  (∀ (s : State) (t : TenantId) (r : Fin 8) (n : Nat), FmTaken s.dev → s.dev.flag Fld.glbSecCtl_mctpRo = false → s.dev.tntState t = 1 → (dcRegion s.dev t r.val).medium ≠ 0 →
    (∀ e ∈ (s.dev.tenant t).dc, e.region < r.val) → s.dev.stagedTenant t = false → n ≤ (dcRegion s.dev t r.val).len →
    (dcRegion s.dev t r.val).len ≤ s.dev.extLen t →
    Completes (.setDcRegionConfiguration t r (2 ^ 28) n) s fun d => d.out.head? = some (.fmapi rcSuccess []) ∧ (dcRegion d t r.val).len = n ∧
      d.extLen t = s.dev.extLen t - (dcRegion s.dev t r.val).len + n ∧ d.extBase t = s.dev.extBase t) ∧
  (∀ (s : State) (t : TenantId) (r : Fin 8) (n tag : Nat), FmTaken s.dev → s.dev.flag Fld.glbSecCtl_mctpRo = true →
    Completes (.initiateDynamicCapacityAdd t r n tag) s fun d => d.out.head? = some (.fmapi rcSecurity []) ∧ d.tenants = s.dev.tenants ∧ d.ext = s.dev.ext ∧ d.regs = s.dev.regs) ∧
  (∀ (s : State) (t : TenantId) (bs : List Nat) (forced : Bool), FmTaken s.dev → s.dev.flag Fld.glbSecCtl_mctpRo = true →
    Completes (.initiateDynamicCapacityRelease t bs forced) s fun d => d.out.head? = some (.fmapi rcSecurity []) ∧ d.tenants = s.dev.tenants ∧ d.ext = s.dev.ext ∧ d.regs = s.dev.regs) ∧
  (∀ (s : State) (t : TenantId) (r : Fin 8) (n tag : Nat), FmTaken s.dev → s.dev.flag Fld.glbSecCtl_mctpRo = true →
    Completes (.setDcRegionConfiguration t r n tag) s fun d => d.out.head? = some (.fmapi rcSecurity []) ∧ d.tenants = s.dev.tenants ∧ d.ext = s.dev.ext ∧ d.regs = s.dev.regs) ∧
  (∀ (s : State) (t : TenantId), FmTaken s.dev →
    Completes (.getDcRegionExtentLists t) s fun d => d.tenants = s.dev.tenants ∧
      d.out.head? = some (.fmapi rcSuccess (((s.dev.tenant t).dc.filter fun e => e.accepted).flatMap fun e => [e.region, s.dev.dcBlock t e, e.tag])))

/-- The other commands of the fabric manager answer as R342 says and change nothing, and the CDAT is read -/
def Obligations.FabricManagerAndTableReadsAnswer : Prop :=
  (∀ (s : State) (p : PortId), FmTaken s.dev →
    Completes (.getLdAllocations p) s fun d => d.regs = s.dev.regs ∧ d.tenants = s.dev.tenants ∧ d.mem = s.dev.mem ∧
      d.out.head? = some (.fmapi rcSuccess ((List.range 16).map fun ld => ((s.dev.tenantOf p ld).map fun t => (s.dev.mappedBlocks t).length).getD 0))) ∧
  (∀ (s : State) (t : TenantId), FmTaken s.dev →
    Completes (.getQosStatus t) s fun d => d.regs = s.dev.regs ∧ d.tenants = s.dev.tenants ∧ d.mem = s.dev.mem ∧
      d.out.head? = some (.fmapi rcSuccess [if (s.dev.tenant t).devLoads = [] then s.dev.devLoad t else (s.dev.tenant t).devLoads.sum / (s.dev.tenant t).devLoads.length])) ∧
  (∀ (s : State) (c : Byte), FmTaken s.dev →
    Completes (.setQosControl c) s fun d => d.regs = s.dev.regs ∧ d.tenants = s.dev.tenants ∧ d.mem = s.dev.mem ∧
      d.out.head? = some (.fmapi (if c = 0 then rcSuccess else rcUnsupported) [])) ∧
  (∀ (s : State) (p : PortId), FmTaken s.dev →
    Completes (.setLdAllocations p) s fun d => d.regs = s.dev.regs ∧ d.tenants = s.dev.tenants ∧ d.mem = s.dev.mem ∧ d.out.head? = some (.fmapi rcUnsupported [])) ∧
  (∀ (s : State) (p : PortId), FmTaken s.dev →
    Completes (.setQosAllocatedBw p) s fun d => d.regs = s.dev.regs ∧ d.tenants = s.dev.tenants ∧ d.mem = s.dev.mem ∧ d.out.head? = some (.fmapi rcUnsupported [])) ∧
  (∀ (s : State) (p : PortId) (ld : Nat) (t : TenantId), s.dev.hostPort p = true → s.dev.linkUp p = true → s.dev.tenantOf p ld = some t →
    Completes (.cxlTableAccess p ld) s fun d => d.lds = s.dev.lds ∧ d.regs = s.dev.regs ∧ d.mem = s.dev.mem ∧
      d.out.head? = some (.doeTable p ld (s.dev.ldOf p ld).cdatSeq (s.dev.ldOf p ld).cdat)) ∧
  (∀ (s : State) (p : PortId) (ld : Nat), s.dev.hostPort p = true → s.dev.linkUp p = true → s.dev.tenantOf p ld = none →
    Completes (.cxlTableAccess p ld) s fun d => d.lds = s.dev.lds ∧ d.regs = s.dev.regs ∧ d.mem = s.dev.mem ∧
      d.out.head? = some (.unsupported p ld 0))

/-- The SPDM responder negotiates, measures, signs in arrival order, and takes a certificate chain only in PROVISIONED -/
def Obligations.AttestationAnswersAndSigns : Prop :=
  (∀ (s : State) (tr : Transport) (c : Bool), s.dev.spdmOpen tr = true →
    Completes (.negotiateAlgorithms tr c) s fun d => d.conn tr = ⟨c, false⟩ ∧ d.signQ = s.dev.signQ ∧ d.mem = s.dev.mem ∧ d.regs = s.dev.regs ∧
      d.out.head? = some (.spdm tr (if c then 0x63 else 0x7F) [1])) ∧
  (∀ (s : State) (tr : Transport) (n : Byte), s.dev.spdmOpen tr = true → (s.dev.conn tr).negotiated = true → (n.toNat ≤ 6 ∨ n.toNat = 255) →
    Completes (.getMeasurements tr n false) s fun d => d.out.head? = some (.spdm tr 0x60 (s.dev.measurements n.toNat)) ∧ d.signQ = s.dev.signQ ∧
      d.mem = s.dev.mem ∧ d.regs = s.dev.regs) ∧
  (∀ (s : State) (tr : Transport) (n : Byte), s.dev.spdmOpen tr = true → (s.dev.conn tr).negotiated = true → (n.toNat ≤ 6 ∨ n.toNat = 255) → s.dev.sec.signKeys = true →
    Completes (.getMeasurements tr n true) s fun d => d.signQ = s.dev.signQ ++ [(tr, 0x6000 + n.toNat)] ∧ d.mem = s.dev.mem ∧ d.regs = s.dev.regs) ∧
  (∀ (s : State) (tr : Transport), s.dev.spdmOpen tr = true → (s.dev.conn tr).negotiated = true → s.dev.sec.signKeys = true →
    Completes (.challenge tr) s fun d => d.signQ = s.dev.signQ ++ [(tr, 0x300)] ∧ d.mem = s.dev.mem ∧ d.regs = s.dev.regs) ∧
  (∀ (s : State) (tr : Transport), s.dev.spdmOpen tr = true → (s.dev.conn tr).negotiated = true → s.dev.sec.signKeys = true →
    Completes (.keyExchange tr true) s fun d => d.signQ = s.dev.signQ ++ [(tr, 0x6400)] ∧ d.conn tr = s.dev.conn tr ∧ d.mem = s.dev.mem ∧ d.regs = s.dev.regs) ∧
  (∀ (s : State) (tr : Transport), s.dev.spdmOpen tr = true → (s.dev.conn tr).negotiated = true → s.dev.sec.signKeys = true → s.dev.lifecycle = .provisioned →
    Completes (.getCsr tr) s fun d => d.signQ = s.dev.signQ ++ [(tr, 0x6D00)] ∧ d.mem = s.dev.mem ∧ d.regs = s.dev.regs) ∧
  (∀ (s : State) (tr : Transport) (leaf : Cert) (issuers : List Cert), s.dev.spdmOpen tr = true → (s.dev.conn tr).negotiated = true → s.dev.lifecycle = .provisioned →
    Completes (.setCertificate tr leaf issuers) s fun d => d.can = { s.dev.can with cert := s.dev.can.cert || chainAccepted leaf issuers } ∧
      d.flag Fld.glbLcSts_certOk = (s.dev.flag Fld.glbLcSts_certOk || chainAccepted leaf issuers) ∧ d.mem = s.dev.mem ∧
      d.out.head? = some (if chainAccepted leaf issuers then .spdm tr 0x6E [] else .spdm tr 0x7F [1])) ∧
  (∀ (s : State) (tr : Transport) (leaf : Cert) (issuers : List Cert), s.dev.spdmOpen tr = true → s.dev.lifecycle ≠ .provisioned →
    Completes (.setCertificate tr leaf issuers) s fun d => d.can = s.dev.can ∧ d.regs = s.dev.regs ∧ d.mem = s.dev.mem ∧
      d.out.head? = some (.spdm tr 0x7F [7])) ∧
  (∀ (s : State) (tr : Transport) (k : Nat) (rest : List (Transport × Nat)) (data : List Nat), s.dev.signQ = (tr, k) :: rest →
    data = (if k / 256 = 0x60 then s.dev.measurements (k % 256) else if k / 256 = 0x6D then compositeKey.map (·.toNat) else []) →
    Completes .signatureComplete s fun d => d.signQ = rest ∧ d.mem = s.dev.mem ∧ d.regs = s.dev.regs ∧
      d.out.head? = some (.signed tr (k / 256) data (compositeSign (Config.transcript (transportIdx tr) (k / 256) data))) ∧
      (k / 256 = 0x64 → (d.conn tr).session = true) ∧ (k / 256 ≠ 0x64 → d.spdm = s.dev.spdm))

/-- A host request that reaches an idle device waits for its line, or is stored and completed at once -/
def Obligations.HostRequestsReachTheirLine : Prop :=
  (∀ (s : State) (r : HostReq) (t : TenantId) (x : Decoded) (ma : Nat) (md : Meta), Reaches s.dev r t x ma → (maFar ma = true ∨ NearLine s.dev ma) → 
    Completes (.memrd r md) s fun d => Waits d s.dev r .rd ma ∧ d.mem = s.dev.mem ∧ d.out = s.dev.out) ∧
  (∀ (s : State) (r : HostReq) (t : TenantId) (x : Decoded) (ma : Nat), Reaches s.dev r t x ma → (maFar ma = true ∨ NearLine s.dev ma) → 
    Completes (.memrddata r) s fun d => Waits d s.dev r .rdData ma ∧ d.mem = s.dev.mem ∧ d.out = s.dev.out) ∧
  (∀ (s : State) (r : HostReq) (t : TenantId) (x : Decoded) (ma : Nat) (md : Meta) (v : Line) (m : BitVec 64), Reaches s.dev r t x ma → (maFar ma = true ∨ NearLine s.dev ma) → 
    Completes (.memwrPartial r md v m) s fun d => Waits d s.dev r .wrPtl ma ∧ d.mem = s.dev.mem ∧ d.out = s.dev.out) ∧
  (∀ (s : State) (r : HostReq) (t : TenantId) (x : Decoded) (ma : Nat), Reaches s.dev r t x ma → (maFar ma = true ∨ NearLine s.dev ma) → 
    Completes (.uioRead r) s fun d => Waits d s.dev r .uioRd ma ∧ d.mem = s.dev.mem ∧ d.out = s.dev.out) ∧
  (∀ (s : State) (r : HostReq) (t : TenantId) (x : Decoded) (ma : Nat) (v : Line) (m : BitVec 64), Reaches s.dev r t x ma → (maFar ma = true ∨ NearLine s.dev ma) → m ≠ allBytes →
    Completes (.uioWrite r v m) s fun d => Waits d s.dev r .uioWrPtl ma ∧ d.mem = s.dev.mem ∧ d.out = s.dev.out) ∧
  (∀ (s : State) (r : HostReq) (t : TenantId) (x : Decoded) (ma : Nat) (a : AtomicArgs), Reaches s.dev r t x ma → (maFar ma = true ∨ NearLine s.dev ma) → atomicOk a r.hpa = true →
    Completes (.atomicop r a false) s fun d => Waits d s.dev r .atomic ma ∧ d.mem = s.dev.mem ∧ d.out = s.dev.out) ∧
  (∀ (s : State) (r : HostReq) (t : TenantId) (x : Decoded) (ma : Nat) (md : Meta) (v : Line), Reaches s.dev r t x ma → maFar ma = true → 
    Completes (.memwr r md v) s fun d => Waits d s.dev r .wr ma ∧ d.mem = s.dev.mem ∧ d.out = s.dev.out) ∧
  (∀ (s : State) (r : HostReq) (t : TenantId) (x : Decoded) (ma : Nat) (v : Line), Reaches s.dev r t x ma → maFar ma = true → 
    Completes (.uioWrite r v allBytes) s fun d => Waits d s.dev r .uioWr ma ∧ d.mem = s.dev.mem ∧ d.out = s.dev.out) ∧
  (∀ (s : State) (r : HostReq) (t : TenantId) (x : Decoded) (ma : Nat) (md : Meta) (v : Line), Reaches s.dev r t x ma → NearLine s.dev ma →
    Completes (.memwr r md v) s fun d => d.txns = [] ∧ d.readLine ma false = (v, false) ∧ cmpTo d r md = true ∧ d.mem.far = s.dev.mem.far) ∧
  (∀ (s : State) (r : HostReq) (t : TenantId) (x : Decoded) (ma : Nat) (v : Line), Reaches s.dev r t x ma → NearLine s.dev ma →
    Completes (.uioWrite r v allBytes) s fun d => d.txns = [] ∧ d.readLine ma false = (v, false) ∧
      d.out.head? = some (.uioCmp r.port r.ld r.tag) ∧ d.mem.far = s.dev.mem.far) ∧
  (∀ (s : State) (r : HostReq) (t : TenantId) (x : Decoded) (ma : Nat) (md : Meta), Reaches s.dev r t x ma → 
    Completes (.meminv r md) s fun d => d.txns = [] ∧ cmpTo d r md = true ∧ d.mem = s.dev.mem) ∧
  (∀ (s : State) (r : HostReq) (t : TenantId) (x : Decoded) (ma : Nat), Reaches s.dev r t x ma → 
    Completes (.memclnevct r) s fun d => d.txns = [] ∧ cmpTo d r .invalid = true ∧ d.mem = s.dev.mem) ∧
  (∀ (s : State) (r : HostReq) (a : AtomicArgs) (bar : Bool), s.dev.portOpen r.port = true → (bar = true ∨ atomicOk a r.hpa = false) →
    Completes (.atomicop r a bar) s fun d => d.out.head? = some (.unsupported r.port r.ld r.tag) ∧ d.txns = s.dev.txns ∧ d.mem = s.dev.mem) ∧
  (∀ (s : State) (r : HostReq) (t : TenantId) (x : Decoded) (ma : Nat) (sh : Nat), Reaches s.dev r t x ma → viaDb s.dev r x = true → s.dev.sharerOf r.port r.ld = some sh →
    Completes (.meminv r .any) s fun d => ((d.dirFind (lineKey ma)).map fun i => ((d.dirAt i).st, (d.dirAt i).sharers, (d.dirAt i).hold)) =
      some (.exclusive, BitVec.ofNat 16 (2 ^ sh), true) ∧ d.held (lineKey ma) = true)

/-- Tag decisions send a read to its line, returned lines answer reads, merge writes and run atomics, fills and evictions end -/
def Obligations.LinesReturnToTheirRequests : Prop :=
  (∀ (s : State) (x : Txn), Only s.dev x .tag → x.op.isRead = true → FarLine s.dev x.ma → x.comp = false → x.spec = none →
    s.dev.farFresh (s.dev.farLoc (maOff x.ma)).ch ((s.dev.farLoc (maOff x.ma)).cli / 64) = true →
    Completes (.tagDecision x.id) s fun d => d.txns = [] ∧ dataTo d x 0 false = true ∧ d.mem = s.dev.mem) ∧
  (∀ (s : State) (x : Txn), Only s.dev x .tag → x.op.isRead = true → FarLine s.dev x.ma → x.comp = false → x.spec = none →
    s.dev.farFresh (s.dev.farLoc (maOff x.ma)).ch ((s.dev.farLoc (maOff x.ma)).cli / 64) = false →
    Completes (.tagDecision x.id) s fun d => Now d x .far ∧ d.out = s.dev.out) ∧
  (∀ (s : State) (x : Txn) (w : Nat), Only s.dev x .tag → x.op.isRead = true → maFar x.ma = true → s.dev.farGone x.ma = false → x.spec = none →
    s.dev.findWay (maPage x.ma) x.comp = some w → (s.dev.frame (s.dev.setOf (maPage x.ma)) w).st = 1 →
    (s.dev.frame (s.dev.setOf (maPage x.ma)) w).has (maLine x.ma) = true →
    s.dev.lostPending (s.dev.frameOf (s.dev.setOf (maPage x.ma)) w) (maLine x.ma) = false →
    Completes (.tagDecision x.id) s fun d => Now d x .crema ∧ d.out = s.dev.out ∧ d.mem = s.dev.mem) ∧
  (∀ (s : State) (x : Txn) (t : Stamp), Only s.dev x .tag → x.spec = some t → s.dev.fld Fld.crmSpecCtl_hold ≤ t.cyclesTo s.dev.stamp →
    Completes (.speculativeHoldExpiry x.id) s fun d => d.txns = [{ x with spec := none }] ∧ d.out = s.dev.out ∧ d.mem = s.dev.mem) ∧
  (∀ (s : State) (id n : Nat), s.dev.live = true → s.dev.schedWith id = some n →
    Completes (.requestPromotion id) s fun d => 
      d.schedOf n = { s.dev.schedOf n with
        reqs := (s.dev.schedOf n).reqs.map fun r => if r.txn = some id then { r with promoted := r.promoted || (r.cls != .g && decide (16 * s.dev.fld Fld.farSchedCtl_age < r.queued.cyclesTo s.dev.stamp)) } else r } ∧
      (∀ m ∈ List.range 80, m ≠ n → d.schedOf m = s.dev.schedOf m) ∧ d.txns = s.dev.txns ∧ d.out = s.dev.out ∧ d.mem = s.dev.mem) ∧
  (∀ (s : State) (x : Txn), Only s.dev x .far → x.op.isRead = true → FarLine s.dev x.ma → x.comp = false →
    Completes (.farLineReadReturn x.id [] .ok) s fun d => d.txns = [] ∧
      dataTo d x (s.dev.farView (s.dev.farLoc (maOff x.ma)).ch (s.dev.farLoc (maOff x.ma)).cli).1
        (s.dev.farView (s.dev.farLoc (maOff x.ma)).ch (s.dev.farLoc (maOff x.ma)).cli).2 = true) ∧
  (∀ (s : State) (x : Txn), Only s.dev x .far → FarLine s.dev x.ma → s.dev.halted = false → s.dev.mode.mayHalt = true →
    (s.dev.farView (s.dev.farLoc (maOff x.ma)).ch (s.dev.farLoc (maOff x.ma)).cli).2 = false →
    Completes (.farLineReadReturn x.id [] .macMismatch) s fun d => d.txns = [] ∧ d.ras.haltAt = some (s.dev.stamp, 1) ∧ d.cry.key = none ∧
      dataTo d x (s.dev.farView (s.dev.farLoc (maOff x.ma)).ch (s.dev.farLoc (maOff x.ma)).cli).1 false = false ∧
      (x.op.isRead = true → dataTo d x 0 true = true)) ∧
  (∀ (s : State) (x : Txn), Only s.dev x .crema → x.op.isRead = true → NearLine s.dev x.ma →
    Completes (.cremaLineReadReturn x.id []) s fun d => d.txns = [] ∧
      dataTo d x (s.dev.readLine x.ma false).1 (s.dev.readLine x.ma false).2 = true ∧ d.mem = s.dev.mem) ∧
  (∀ (s : State) (x : Txn), Only s.dev x .crema → x.op.isMasked = true → x.poisoned = false → NearLine s.dev x.ma → (s.dev.readLine x.ma false).2 = false →
    Completes (.cremaLineReadReturn x.id []) s fun d => d.txns = [] ∧
      d.readLine x.ma false = (mergeLine (s.dev.readLine x.ma false).1 x.data x.mask, false)) ∧
  (∀ (s : State) (x : Txn) (a : AtomicArgs) (p : PortId) (ld tag hpa : Nat), Only s.dev x .crema → x.op = .atomic → x.atom = some a → x.poisoned = false →
    x.org = .host p ld tag hpa → NearLine s.dev x.ma → s.dev.flag Fld.cohAtomCtl_nearEn = false → (s.dev.readLine x.ma false).2 = false →
    Completes (.cremaLineReadReturn x.id []) s fun d => d.txns = [] ∧
      d.readLine x.ma false = (atomicLine a (s.dev.readLine x.ma false).1 (x.ma % 64), false) ∧
      d.out.head? = some (.atomicData p ld tag (atomicOld a (s.dev.readLine x.ma false).1 (x.ma % 64)) false)) ∧
  (∀ (s : State) (set : Nat) (w : Fin 16), s.dev.live = true → s.dev.txns = [] → (s.dev.frame set w.val).st = 2 → s.dev.jobOn set w.val = false →
    (s.dev.frame set w.val).valid ≠ 0 →
    Completes (.cremaFillComplete set w) s fun d => d.frame set w.val = { s.dev.frame set w.val with st := 1 } ∧ d.mem = s.dev.mem) ∧
  (∀ (s : State) (set : Nat) (w : Fin 16) (errs : LineErrs) (x : FarLoc), s.dev.live = true → s.dev.txns = [] → (s.dev.frame set w.val).st = 3 →
    (s.dev.frame set w.val).c = false → s.dev.jobOn set w.val = false → Sparse.get 0 s.dev.crm.evictFor (set * 16 + w.val) = 0 →
    s.dev.crm.rebuilds = [] → s.dev.cry.rekey = none → x = s.dev.farLoc (offOf (s.dev.pageOf set (s.dev.frame set w.val).tag) 0) →
    s.dev.farLost x.ch = false → s.dev.inSubtree x.ch (x.cli / 64) = false →
    (errs = [] ∨ s.dev.frameOf set w.val < s.dev.metaFrame) →
    Completes (.evictionComplete set w errs) s fun d => d.frame set w.val = Frame.none ∧
      (∀ l ∈ List.range 64, (s.dev.frame set w.val).has l = true → (s.dev.frame set w.val).dirty.getLsbD l = true →
        d.farView x.ch (x.cli + l) =
          if errs.any (fun e => e.1.1 == set * 16 + w.val && e.1.2.val == l && readsLost e.2) then (0, true)
          else s.dev.cremaView (s.dev.frameOf set w.val) l))

/-- Snoop answers, conflicts, timeouts, hold and lease expiries, retries and releases let the home go on -/
def Obligations.CoherenceMovesOn : Prop :=
  (∀ (s : State) (p : PortId) (hpa ma i : Nat) (sn : Snoop) (x : Txn), s.dev.linkUp p = true → s.dev.maOfHpa p hpa = some ma → maMember ma = s.dev.chainId → maFar ma = true →
    s.dev.home.snoops = [sn] → sn.line = lineKey ma → sn.sent.isSome = true → sn.txn = some x.id → s.dev.txns = [x] → x.phase = .snooping → x.op.isUio = true →
    lineKey x.ma = sn.line → maFar x.ma = true → s.dev.dirFind (lineKey ma) = some i → s.dev.leaseOf (lineKey ma) = none →
    Completes (.birspi p hpa) s fun d => d.home.snoops = [] ∧ (d.dirAt i).st = .invalid ∧ Now d x .tag ∧ d.fld Fld.cohSts_late = s.dev.fld Fld.cohSts_late) ∧
  (∀ (s : State) (p : PortId) (hpa : Nat), s.dev.linkUp p = true → (∀ ma ∈ (s.dev.maOfHpa p hpa).toList, maMember ma = s.dev.chainId ∧ s.dev.snoopOf (lineKey ma) = none) →
    Completes (.birspi p hpa) s fun d => d.home = s.dev.home ∧ d.txns = s.dev.txns ∧ d.fld Fld.cohSts_late = satN 16 (s.dev.fld Fld.cohSts_late + 1)) ∧
  (∀ (s : State) (p : PortId) (hpa ma i : Nat) (sn : Snoop) (x : Txn), s.dev.linkUp p = true → s.dev.maOfHpa p hpa = some ma → maMember ma = s.dev.chainId → maFar ma = true →
    s.dev.home.snoops = [sn] → sn.line = lineKey ma → sn.sent.isSome = true → sn.txn = some x.id → s.dev.txns = [x] → x.phase = .snooping → x.op.isUio = true →
    lineKey x.ma = sn.line → maFar x.ma = true → s.dev.dirFind (lineKey ma) = some i → s.dev.leaseOf (lineKey ma) = none →
    Completes (.birsps p hpa) s fun d => d.home.snoops = [] ∧ (d.dirAt i).st = .shared ∧ Now d x .tag ∧ d.fld Fld.cohSts_late = s.dev.fld Fld.cohSts_late) ∧
  (∀ (s : State) (p : PortId) (hpa : Nat), s.dev.linkUp p = true → (∀ ma ∈ (s.dev.maOfHpa p hpa).toList, maMember ma = s.dev.chainId ∧ s.dev.snoopOf (lineKey ma) = none) →
    Completes (.birsps p hpa) s fun d => d.home = s.dev.home ∧ d.txns = s.dev.txns ∧ d.fld Fld.cohSts_late = satN 16 (s.dev.fld Fld.cohSts_late + 1)) ∧
  (∀ (s : State) (p : PortId) (hpa tag : Nat), s.dev.linkUp p = true → s.dev.isMember = false →
    (∀ ma ∈ (s.dev.maOfHpa p hpa).toList, maMember ma = s.dev.chainId ∧ s.dev.snoopOf (lineKey ma) = none) →
    Completes (.hostBiconflict p hpa tag) s fun d => d.out.head? = some (.biConflictAck p tag) ∧ d.home = s.dev.home ∧ d.txns = s.dev.txns ∧ d.mem = s.dev.mem) ∧
  (∀ (s : State) (sn : Snoop) (t : Stamp) (i : Nat), s.dev.live = true → s.dev.home.snoops = [sn] → sn.sent = some t → t.pour + s.dev.fld Fld.cohCtl_timeout ≤ s.dev.now →
    sn.txn = none → s.dev.txns = [] → s.dev.dirFind sn.line = some i → NearLine s.dev (s.dev.maOfKey sn.line) → sn.sharer < 16 →
    Completes (.bisnpTimeout sn.line) s fun d => d.home.snoops = [] ∧ d.dirAt i = DirEntry.none ∧ d.readLine (s.dev.maOfKey sn.line) false = (0, true) ∧
      (d.fld Fld.cohSuspect_host).testBit sn.sharer = true) ∧
  (∀ (s : State) (k p : Nat), AtBoundary s.dev → s.dev.live = true → s.dev.home.holds = [(k, p)] → p + 2 ≤ s.dev.now → s.dev.snoopOf k = none →
    Completes (.holdExpiry k) s fun d => d.home.holds = [] ∧ d.mem = s.dev.mem ∧ d.txns = s.dev.txns ∧
      (∀ i ∈ (s.dev.dirFind k).toList, d.dirAt i = { s.dev.dirAt i with hold := false })) ∧
  (∀ (s : State) (x : Txn) (sl : Fin 16), s.dev.live = true → s.dev.txns = [x] → x.phase = .retry → sliceOf (lineKey x.ma) = sl.val → x.op = .rd →
    maFar x.ma = true → Unshared s.dev (lineKey x.ma) → s.dev.leaseOf (lineKey x.ma) = none →
    Completes (.retryQueueRetry sl) s fun d => Now d x .tag ∧ d.mem = s.dev.mem ∧ d.out = s.dev.out) ∧
  (∀ (s : State) (l : Lease) (x : Txn), s.dev.live = true → s.dev.home.leases = [l] → s.dev.txns = [x] → x.id = l.txn → x.phase = .leased → l.dirty = true →
    NearLine s.dev x.ma → 8 * s.dev.fld Fld.cohAtomCtl_idle ≤ l.lastUse.cyclesTo s.dev.stamp →
    Completes (.leaseIdleExpiry l.line) s fun d => d.home.leases = [] ∧ d.txns = [] ∧ d.readLine x.ma false = (l.data, false) ∧ d.out = s.dev.out) ∧
  (∀ (s : State) (l : Lease) (x : Txn), s.dev.live = true → s.dev.home.leases = [l] → s.dev.txns = [x] → x.id = l.txn → x.phase = .leased → l.dirty = true →
    NearLine s.dev x.ma → l.since + s.dev.fld Fld.cohAtomCtl_maxp ≤ s.dev.now →
    Completes (.leaseMaxExpiry l.line) s fun d => d.home.leases = [] ∧ d.txns = [] ∧ d.readLine x.ma false = (l.data, false) ∧ d.out = s.dev.out) ∧
  (∀ (s : State) (r : HostReq) (t : TenantId) (y : Decoded) (ma : Nat) (x : Txn), s.dev.txns = [x] → x.phase = .regHeld → x.tenant = some t →
    x.org = .host r.port r.ld r.tag r.hpa → x.op = .rd → Reaches ({ s.dev with txns := [] } : Dev) r t y ma → (maFar ma = true ∨ NearLine s.dev ma) →
    Completes (.holdRelease t x.cls) s fun d => d.mem = s.dev.mem ∧ d.out = s.dev.out ∧
      (d.txns.map fun z => (z.id, z.org, z.op, z.ma, z.phase)) = [(x.id, x.org, .rd, ma, if maFar ma then .tag else .crema)])

/-- Uncorrectable array words count, patrol scrub walks and poisons what it cannot correct, crypto pipelines fail over or degrade -/
def Obligations.ArraysScrubAndPipelinesReport : Prop :=
  (∀ (s : State) (a : Array64K) (e : MergeEntry) (rest : List MergeEntry), s.dev.live = true → Sparse.get [] s.dev.merge (arrayIdx a) = e :: rest → a ≠ .metadataCache →
    Completes (.mergeBufferRetire a true) s fun d => Sparse.get [] d.merge (arrayIdx a) = rest ∧
      d.fld Fld.rasEccCnt_ue = satN Fld.rasEccCnt_ue.w (s.dev.fld Fld.rasEccCnt_ue + 1) ∧ d.arrayPoison = s.dev.arrayPoison.add (arrayWord (arrayIdx a) e.word) ∧
      d.mem = s.dev.mem ∧ d.home = s.dev.home ∧ d.crm = s.dev.crm ∧ d.cry = s.dev.cry) ∧
  (∀ (s : State) (a : Array64K) (e : MergeEntry) (rest : List MergeEntry), s.dev.live = true → Sparse.get [] s.dev.merge (arrayIdx a) = e :: rest →
    Completes (.mergeBufferRetire a false) s fun d => Sparse.get [] d.merge (arrayIdx a) = rest ∧ d.regs = s.dev.regs ∧ d.mem = s.dev.mem ∧ d.arrayPoison = s.dev.arrayPoison ∧
      d.home = s.dev.home ∧ d.crm = s.dev.crm ∧ d.cry = s.dev.cry) ∧
  (∀ (s : State) (a : Array64K) (u : Bool), (s.dev.live = false ∨ Sparse.get [] s.dev.merge (arrayIdx a) = []) →
    Completes (.mergeBufferRetire a u) s fun d => d = s.dev) ∧
  (∀ (s : State) (c : FarCh), s.dev.scrubs = true → s.dev.flag Fld.rasScrubCtl_farEn = true → s.dev.farServes c.val = true → s.dev.fld (Fld.farChSts_state c.val) ≠ 3 →
    (s.dev.fch c.val).scrubNext ≤ s.dev.now → s.dev.mem.farPoison = [] →
    Completes (.patrolScrubRead (some c) [] []) s fun d => d.mem = s.dev.mem ∧ (d.fch c.val).scrubNext = s.dev.now + s.dev.fld Fld.rasScrubCtl_farInt ∧
      (d.fch c.val).scrubPos = if (s.dev.fch c.val).scrubPos + 1 < s.dev.chLines c.val then (s.dev.fch c.val).scrubPos + 1 else 0) ∧
  (∀ (s : State) (c : FarCh) (flips other : List (BitVec 80)), s.dev.scrubs = true → s.dev.flag Fld.rasScrubCtl_farEn = true → s.dev.farServes c.val = true →
    s.dev.fld (Fld.farChSts_state c.val) ≠ 3 → (s.dev.fch c.val).scrubNext ≤ s.dev.now → s.dev.metaAt c.val (s.dev.fch c.val).scrubPos = none →
    s.dev.mem.written.has (pageKey c.val ((s.dev.fch c.val).scrubPos / 64)) = true → s.dev.cry.rekey = none →
    Code.dt79.decodeLine (s.dev.mem.farPoison.has (farKey c.val (s.dev.fch c.val).scrubPos)) flips = .bad →
    Completes (.patrolScrubRead (some c) flips other) s fun d => (d.farView c.val (s.dev.fch c.val).scrubPos).2 = true) ∧
  (∀ (s : State), s.dev.scrubs = true → s.dev.flag Fld.rasScrubCtl_crmEn = true → s.dev.crm.scrubNext ≤ s.dev.now → s.dev.mem.cremaPoison = [] →
    Completes (.patrolScrubRead none [] []) s fun d => d.mem = s.dev.mem ∧ d.crm.scrubNext = s.dev.now + s.dev.fld Fld.rasScrubCtl_crmInt ∧
      d.crm.scrubPos = if s.dev.crm.scrubPos + 1 < 64 * s.dev.frameCount then s.dev.crm.scrubPos + 1 else 0) ∧
  (∀ (s : State) (u : Fin 64), s.dev.live = true → s.dev.cry.xtsFailed.has u.val = false → s.dev.mb.fg = none → 0 < s.dev.fld Fld.cryPipeSts_xtsSpares →
    Completes (.cryptoPipeParityMismatch true u) s fun d => d.fld Fld.cryPipeSts_xtsSpares = s.dev.fld Fld.cryPipeSts_xtsSpares - 1 ∧
      d.fld Fld.cryPipeSts_xtsFail = satN Fld.cryPipeSts_xtsFail.w (s.dev.fld Fld.cryPipeSts_xtsFail + 1) ∧ d.mode = s.dev.mode ∧ d.cry = s.dev.cry ∧ d.mem = s.dev.mem) ∧
  (∀ (s : State) (u : Fin 64), s.dev.live = true → s.dev.cry.xtsFailed.has u.val = false → s.dev.mb.fg = none → s.dev.fld Fld.cryPipeSts_xtsSpares = 0 → s.dev.due.degrade = none →
    Completes (.cryptoPipeParityMismatch true u) s fun d => d.due.degrade = some 0x158 ∧ d.mode = s.dev.mode ∧ d.cry.xtsFailed.has u.val = true ∧ d.cry.key = s.dev.cry.key ∧ d.mem = s.dev.mem) ∧
  (∀ (s : State) (u : Fin 64), s.dev.live = true → s.dev.cry.ctrFailed.has u.val = false → s.dev.mb.fg = none → u.val < 32 → 0 < s.dev.fld Fld.cryPipeSts_ctrSpares →
    Completes (.cryptoPipeParityMismatch false u) s fun d => d.fld Fld.cryPipeSts_ctrSpares = s.dev.fld Fld.cryPipeSts_ctrSpares - 1 ∧
      d.fld Fld.cryPipeSts_ctrFail = satN Fld.cryPipeSts_ctrFail.w (s.dev.fld Fld.cryPipeSts_ctrFail + 1) ∧ d.mode = s.dev.mode ∧ d.cry = s.dev.cry ∧ d.mem = s.dev.mem) ∧
  (∀ (s : State) (u : Fin 64), s.dev.live = true → s.dev.cry.ctrFailed.has u.val = false → s.dev.mb.fg = none → u.val < 32 → s.dev.fld Fld.cryPipeSts_ctrSpares = 0 → s.dev.due.degrade = none →
    Completes (.cryptoPipeParityMismatch false u) s fun d => d.due.degrade = some 0x158 ∧ d.mode = s.dev.mode ∧ d.cry.ctrFailed.has u.val = true ∧ d.cry.key = s.dev.cry.key ∧ d.mem = s.dev.mem)

/-- Refreshes charge their slots, MR4 readings ask for a refresh mode, the guarantee check reports a breach or a short delivery -/
def Obligations.RefreshAndGuaranteeChecksCharge : Prop :=
  (∀ (s : State) (pc : Fin 64), s.dev.cremaRefreshes (pc.val / 2) = true → (s.dev.slotSet pc.val).refs < s.dev.cremaQuota →
    Completes (.cremaRefresh pc) s fun d => Sparse.get 0 d.crm.refreshes pc.val = (Sparse.get 0 s.dev.crm.refreshes pc.val + 1) % (4096 * s.dev.bankGroups) ∧
      (d.slotSet pc.val).charges = (s.dev.slotSet pc.val).charges ++ [⟨0x018, 8, false⟩] ∧ (d.slotSet pc.val).refs = (s.dev.slotSet pc.val).refs + 1 ∧ d.mem = s.dev.mem) ∧
  (∀ (s : State) (ch : FarCh) (sub : Bool) (k : Nat), s.dev.farAwake ch.val = true → k = 64 + 2 * ch.val + bitOf sub → (s.dev.slotSet k).refs < s.dev.farQuota ch.val →
    Completes (.farRefresh ch sub) s fun d => (d.slotSet k).charges = (s.dev.slotSet k).charges ++ (if (Config.freeValue s.dev.free).toNat = 0 then [] else [⟨0x018, (Config.freeValue s.dev.free).toNat, false⟩]) ∧
      (d.slotSet k).refs = (s.dev.slotSet k).refs + 1 ∧
      d.regs = s.dev.regs ∧ d.mem = s.dev.mem) ∧
  (∀ (s : State) (pc : Fin 64), s.dev.cremaQuota ≤ (s.dev.slotSet pc.val).refs → Completes (.cremaRefresh pc) s fun d => d = s.dev) ∧
  (∀ (s : State) (ch : FarCh) (sub : Bool), s.dev.farQuota ch.val ≤ (s.dev.slotSet (64 + 2 * ch.val + bitOf sub)).refs →
    Completes (.farRefresh ch sub) s fun d => d = s.dev) ∧
  (∀ (s : State) (ch : FarCh) (rs : List Mr4), s.dev.farAwake ch.val = true → rs ≠ [] → (s.dev.fch ch.val).mr4Next ≤ s.dev.now →
    Completes (.mr4Reading ch rs) s fun d => (d.fch ch.val).mr4Next = s.dev.now + 65536 ∧ (d.fch ch.val).mr4 = some (if .above ∈ rs ∨ .hotFlag ∈ rs then 2 else if .x2 ∈ rs then 1 else 0) ∧
      (d.fch ch.val).hotSince = (if .above ∈ rs then some ((s.dev.fch ch.val).hotSince.getD s.dev.now) else none) ∧
      d.reg (Off.farChSts ch.val) = s.dev.reg (Off.farChSts ch.val) ∧ d.mem = s.dev.mem) ∧
  (∀ (s : State), AtBoundary s.dev → s.dev.live = true → s.dev.clk.running = true → s.dev.now % 64 = 0 → 0 < s.dev.now → s.dev.due.checkedAt ≠ some s.dev.now → s.dev.shortTenants belowBy0p1 ≠ [] → s.dev.due.gslot = true →
    Completes .guaranteeWindowCheck s fun d => d.flag Fld.svcScaleSts_breach = true ∧ d.fld Fld.svcScaleSts_resource = 7 ∧ d.due.gslot = false ∧ d.mem = s.dev.mem) ∧
  (∀ (s : State), AtBoundary s.dev → s.dev.live = true → s.dev.clk.running = true → s.dev.now % 64 = 0 → 0 < s.dev.now → s.dev.due.checkedAt ≠ some s.dev.now → s.dev.shortTenants belowTolerance ≠ [] → s.dev.due.gslot = false →
    s.dev.fld Fld.svcScaleSts_factor = 65536 →
    Completes .guaranteeWindowCheck s fun d => d.flag Fld.svcScaleSts_short = true ∧ d.flag Fld.svcScaleSts_breach = s.dev.flag Fld.svcScaleSts_breach ∧ d.mem = s.dev.mem)

/-- A temperature sample sets what the next boundary begins; each action is released after its cool time; a hot DIMM drains -/
def Obligations.TemperatureActsAndReleases : Prop :=
  (∀ (s : State) (st di : List Reading) (hs hd : Int), s.dev.live = true → s.dev.thm.nextSample ≤ s.dev.now → s.dev.thm.stackFail = [] → s.dev.thm.dieFail = [] → st.length = s.dev.dies → di.length = 12 →
    (∀ r ∈ st ++ di, readingGood r = true) → hottest (st.map (·.quarters)) = some hs → hottest (di.map (·.quarters)) = some hd →
    Completes (.temperatureSample st di) s fun d => d.fld Fld.crmThermSts_hotStack = satN 10 hs.toNat ∧ d.fld Fld.crmThermSts_hotDie = satN 10 hd.toNat ∧
      d.thm.enter.getLsbD 0 = (decide (341 ≤ hs) && !s.dev.flag Fld.crmRefCtl_doubled) ∧
      d.thm.enter.getLsbD 1 = (decide (368 ≤ hs) && !s.dev.flag Fld.crmThermSts_throtStack) ∧
      d.thm.enter.getLsbD 2 = (decide (380 ≤ hd) && !s.dev.flag Fld.crmThermSts_throtDie) ∧
      d.due.thermal = (s.dev.due.thermal || decide (388 ≤ hs) || decide (400 ≤ hd)) ∧ d.thm.nextSample = s.dev.now + 16 ∧ d.mode = s.dev.mode ∧ d.mem = s.dev.mem ∧
      d.flag Fld.crmRefCtl_doubled = s.dev.flag Fld.crmRefCtl_doubled) ∧
  (∀ (s : State) (st di : List Reading), s.dev.now < s.dev.thm.nextSample → Completes (.temperatureSample st di) s fun d => d = s.dev) ∧
  (∀ (s : State) (p : Nat), AtBoundary s.dev → s.dev.live = true → s.dev.flag Fld.crmRefCtl_doubled = true → s.dev.thm.cool83 = some p → p + 4096 ≤ s.dev.now → s.dev.flag Fld.crmThermSts_failsafe = false →
    Completes .doubledRefreshRelease s fun d => d.flag Fld.crmRefCtl_doubled = false ∧ d.mode = s.dev.mode ∧ d.mem = s.dev.mem) ∧
  (∀ (s : State) (p : Nat), AtBoundary s.dev → s.dev.live = true → s.dev.flag Fld.crmThermSts_throtStack = true → s.dev.thm.cool90 = some p → p + 65536 ≤ s.dev.now →
    Completes .stackThrottleRelease s fun d => d.flag Fld.crmThermSts_throtStack = false ∧ d.mode = s.dev.mode ∧ d.mem = s.dev.mem) ∧
  (∀ (s : State) (p : Nat), AtBoundary s.dev → s.dev.live = true → s.dev.flag Fld.crmThermSts_throtDie = true → s.dev.thm.cool93 = some p → p + 65536 ≤ s.dev.now →
    Completes .dieThrottleRelease s fun d => d.flag Fld.crmThermSts_throtDie = false ∧ d.mode = s.dev.mode ∧ d.mem = s.dev.mem) ∧
  (∀ (s : State) (ch : FarCh) (p : Nat), AtBoundary s.dev → s.dev.live = true → (s.dev.mode = .await ∨ s.dev.mode = .serve ∨ s.dev.mode = .degraded ∨ s.dev.mode = .drowse ∨ s.dev.mode = .maint) →
    (s.dev.fch ch.val).hotSince = some p → p + 65536 ≤ s.dev.now →
    Completes (.dimmHotDrain ch) s fun d => d.mode = .drain ∧ d.fld Fld.glbModeSts_drainDest = 4 ∧ d.mem = s.dev.mem)

/-- A disturbance window ends with its counters clear; oscillator readings start a re-centring step, which succeeds or fails -/
def Obligations.DisturbanceAndRecentringStep : Prop :=
  (∀ (s : State) (ch : FarCh), AtBoundary s.dev → s.dev.live = true → s.dev.fld (Fld.farChCfg_dist ch.val) = 1 → s.dev.now % 2 ^ s.dev.fld (Fld.farDistCtl_win ch.val) = 0 → s.dev.txns = [] →
    Completes (.distWindowEnd ch) s fun d => (d.fch ch.val).dist = [] ∧ (d.fch ch.val).distIn = [] ∧ (d.fch ch.val).distHeld = [] ∧ (d.fch ch.val).distShared = false ∧ d.mem = s.dev.mem) ∧
  (∀ (s : State) (ch : FarCh) (l : List Nat), s.dev.farAwake ch.val = true → (s.dev.fch ch.val).dqsNext ≤ s.dev.now →
    Completes (.dqsOscillatorReading ch l) s fun d => d.fld (Fld.farTrackSts_drift ch.val) = satN 7 (l.foldl max 0) ∧ d.mem = s.dev.mem ∧
      (d.fch ch.val).dqsNext = s.dev.now + 2 ^ s.dev.fld Fld.farTrackCtl_interval ∧
      (d.fch ch.val).recentre = (if s.dev.fld Fld.farTrackCtl_thresh < l.foldl max 0 ∨ (s.dev.fch ch.val).repeatDue = true then
        some ((s.dev.fch ch.val).recentre.getD s.dev.now) else (s.dev.fch ch.val).recentre)) ∧
  (∀ (s : State) (ch : FarCh) (p : Nat), AtBoundary s.dev → s.dev.live = true → (s.dev.fch ch.val).recentre = some p → s.dev.now ≤ p + 4096 →
    Completes (.recentringStepEnd ch) s fun d => (d.fch ch.val).recentre = none ∧ d.fld (Fld.farTrackSts_fails ch.val) = 0 ∧
      d.fld (Fld.farTrackSts_steps ch.val) = satN (Fld.farTrackSts_steps ch.val).w (s.dev.fld (Fld.farTrackSts_steps ch.val) + 1) ∧ d.mem = s.dev.mem) ∧
  (∀ (s : State) (ch : FarCh), s.dev.live = true → (s.dev.fch ch.val).recentre.isSome = true →
    Completes (.recentringFail ch) s fun d => (d.fch ch.val).recentre = none ∧ (d.fch ch.val).repeatDue = true ∧
      d.fld (Fld.farTrackSts_fails ch.val) = satN (Fld.farTrackSts_fails ch.val).w (s.dev.fld (Fld.farTrackSts_fails ch.val) + 1) ∧
      (d.fch ch.val).lossDue = ((s.dev.fch ch.val).lossDue || decide (3 ≤ d.fld (Fld.farTrackSts_fails ch.val))) ∧ d.mem = s.dev.mem)

/-- Pins, flushes and near sizes are staged; a walk ends with the new size; lost channels take the spare or degrade the device -/
def Obligations.CremaChannelsAndFramesAreManaged : Prop :=
  (∀ (s : State) (i : Iface) (p : Payload), s.dev.takesNow i 0xC070 → s.dev.ownPayload p 24 → rangeBody (p.drop 8) 1 = true → leNat p 16 8 % 4096 = 0 → leNat p 24 8 % 4096 = 0 → (s.dev.tenantOf (portOf (byteAt p 8)) (byteAt p 9)).isSome = true → s.dev.mayStage i = true →
    Completes (.xtCremaPin i p) s fun d => d.stg.cmds = s.dev.stg.cmds ++ [.pin (portOf (byteAt p 8)) (byteAt p 9) (byteAt p 10 == 1) (leNat p 16 8) (leNat p 24 8) i] ∧ d.stg.owner = some i ∧ d.stg.checked = false ∧ d.frames = s.dev.frames ∧
      d.mem = s.dev.mem ∧ d.near = s.dev.near ∧ d.answered i rcSuccess 0xC070 []) ∧
  (∀ (s : State) (i : Iface) (p : Payload), s.dev.takesNow i 0xC070 → s.dev.ownPayload p 24 → (leNat p 16 8 % 4096 ≠ 0 ∨ leNat p 24 8 % 4096 ≠ 0) →
    Completes (.xtCremaPin i p) s fun d => d.stg = s.dev.stg ∧ d.frames = s.dev.frames ∧ d.answered i rcInvalidInput 0xC070 []) ∧
  (∀ (s : State) (i : Iface) (p : Payload), s.dev.takesNow i 0xC071 → s.dev.ownPayload p 24 → rangeBody (p.drop 8) 3 = true → ((byteAt p 10).testBit 0 = true ∨ (s.dev.tenantOf (portOf (byteAt p 8)) (byteAt p 9)).isSome = true) → s.dev.mayStage i = true →
    Completes (.xtCremaFlush i p) s fun d => d.stg.cmds = s.dev.stg.cmds ++ [.flush (portOf (byteAt p 8)) (byteAt p 9) ((byteAt p 10).testBit 0) ((byteAt p 10).testBit 1) (leNat p 16 8) (leNat p 24 8) i] ∧ d.stg.owner = some i ∧ d.stg.checked = false ∧ d.frames = s.dev.frames ∧
      d.mem = s.dev.mem ∧ d.near = s.dev.near ∧ d.answered i rcSuccess 0xC071 []) ∧
  (∀ (s : State) (i : Iface) (p : Payload), s.dev.takesNow i 0xC072 → s.dev.ownPayload p 1 → s.dev.mayStage i = true →
    Completes (.xtNearSize i p) s fun d => d.stg.cmds = s.dev.stg.cmds ++ [.nearSize (byteAt p 8) i] ∧ d.stg.owner = some i ∧ d.stg.checked = false ∧ d.frames = s.dev.frames ∧
      d.mem = s.dev.mem ∧ d.near = s.dev.near ∧ d.answered i rcSuccess 0xC072 []) ∧
  (∀ (s : State) (b : Brew) (gib next i g0 : Nat), s.dev.live = true → s.dev.crm.bypassWalk = some (gib, next, i) → s.dev.frames = [] → s.dev.txns = [] → s.dev.mb.fg = some b →
    b.work = .nearSize g0 → gib ≤ s.dev.maxNear →
    Completes .nearSizeWalkEnd s fun d => d.near = gib ∧ d.sets = s.dev.setsFor gib ∧ d.flag Fld.crmSts_bypass = false ∧ d.flag Fld.crmSts_walk = false ∧
      d.crm.bypassWalk = none ∧ d.mb.fg = none ∧ d.mb.bg = rcSuccess ∧
      (∀ k ∈ (List.range (2 ^ 24 * gib)).drop (2 ^ 24 * s.dev.near), d.cremaView (k / 64) (k % 64) = (0, false))) ∧
  (∀ (s : State) (c : CremaCh) (k sp : Nat), AtBoundary s.dev → s.dev.live = true → s.dev.crm.lossDue = [c] → s.dev.crmRole c.val = 0 → s.dev.crm.rot = none → s.dev.mode = .serve → s.dev.txns = [] →
    k = s.dev.fld (Fld.crmChSts_logical c.val) → sp = s.dev.fld Fld.crmSts_spare → sp ≠ c.val → s.dev.flag Fld.crmSts_noSpare = false →
    Completes (.cremaChannelLoss c) s fun d => d.crmRole c.val = 4 ∧ d.crmRole sp = 0 ∧ d.fld (Fld.crmChSts_logical sp) = k ∧ d.fld (Fld.crmLmap_phys k) = sp ∧
      d.flag Fld.crmSts_noSpare = true ∧ d.flag Fld.crmSts_rebuild = true ∧ d.mode = .degraded ∧ d.crm.lossDue = [] ∧
      d.crm.rebuilds = s.dev.crm.rebuilds ++ [⟨c, k, 0, true, 0, 0, [], []⟩] ∧ d.mem = s.dev.mem) ∧
  (∀ (s : State) (c : CremaCh) (k : Nat), AtBoundary s.dev → s.dev.live = true → s.dev.crm.lossDue = [c] → s.dev.crmRole c.val = 0 → s.dev.crm.rot = none → s.dev.mode = .serve → s.dev.txns = [] →
    k = s.dev.fld (Fld.crmChSts_logical c.val) → s.dev.flag Fld.crmSts_noSpare = true →
    Completes (.cremaChannelLoss c) s fun d => d.crmRole c.val = 4 ∧ d.flag (Fld.crmLmap_v k) = false ∧ d.flag Fld.crmSts_rebuild = true ∧ d.mode = .degraded ∧
      d.crm.rebuilds = s.dev.crm.rebuilds ++ [⟨c, k, 0, false, 0, 0, [], []⟩] ∧ d.mem = s.dev.mem) ∧
  (∀ (s : State) (r : Rebuild), AtBoundary s.dev → s.dev.live = true → s.dev.crm.rebuilds = [r] → s.dev.txns = [] →
    Completes .rebuildWalkEnd s fun d => d.crm.rebuilds = [] ∧ d.flag Fld.crmSts_rebuild = false ∧ d.mode = s.dev.mode) ∧
  (∀ (s : State) (ch : FarCh), AtBoundary s.dev → s.dev.live = true → (s.dev.fch ch.val).lossDue = true → s.dev.farLost ch.val = false → s.dev.mode = .serve → s.dev.txns = [] →
    Completes (.farChannelLoss ch) s fun d => d.farLost ch.val = true ∧ (d.fch ch.val).lossDue = false ∧ d.mode = .degraded ∧
      (∀ cli ∈ List.range (2 ^ 34), d.farView ch.val cli = (0, true)))

/-- Pool changes are staged, compaction starts, jobs end at their engine, released sectors are free, a faulty engine is mapped out -/
def Obligations.PressPoolsJobsAndEngines : Prop :=
  (∀ (s : State) (n : Fin 8) (i : Iface) (p : Payload), s.dev.takesNow i 0xC080 → s.dev.ownPayload p 12 → byteAt p 8 = 0 → byteAt p 9 = n.val → byteAt p 11 = 0 → byteAt p 10 ≤ 1 → (s.dev.pool n.val).used = false → s.dev.mayStage i = true → (∀ c ∈ s.dev.stg.cmds, poolNamed c ≠ some n) →
    Completes (.xtPressPolicy i p) s fun d => d.stg.cmds = s.dev.stg.cmds ++ [.poolCreate n (byteAt p 10 == 1) (leNat p 12 4) (s.dev.freeFar.take (leNat p 12 4)) (leNat p 16 4)] ∧ d.stg.checked = false ∧ d.prs = s.dev.prs ∧ d.mem = s.dev.mem ∧
      d.answered i rcSuccess 0xC080 (leBytes 4 (mapBlocksFor (leNat p 12 4)) ++ leBytes 4 (leNat p 16 4))) ∧
  (∀ (s : State) (n : Fin 8) (i : Iface) (p : Payload), s.dev.takesNow i 0xC080 → s.dev.ownPayload p 12 → byteAt p 8 = 1 → byteAt p 9 = n.val → byteAt p 11 = 0 → byteAt p 10 = 0 → (s.dev.pool n.val).used = true → leNat p 16 4 = 0 → s.dev.mayStage i = true → (∀ c ∈ s.dev.stg.cmds, poolNamed c ≠ some n) →
    Completes (.xtPressPolicy i p) s fun d => d.stg.cmds = s.dev.stg.cmds ++ [.poolAdd n (leNat p 12 4) (s.dev.freeFar.take (leNat p 12 4)) (if (s.dev.pool n.val).overcommit then (s.dev.pool n.val).exposed.length else (s.dev.pool n.val).storage + leNat p 12 4 - mapBlocksFor ((s.dev.pool n.val).storage + leNat p 12 4))] ∧ d.stg.checked = false ∧ d.prs = s.dev.prs ∧ d.mem = s.dev.mem ∧
      d.answered i rcSuccess 0xC080 (leBytes 4 (mapBlocksFor ((s.dev.pool n.val).storage + leNat p 12 4)) ++ leBytes 4 (if (s.dev.pool n.val).overcommit then (s.dev.pool n.val).exposed.length else (s.dev.pool n.val).storage + leNat p 12 4 - mapBlocksFor ((s.dev.pool n.val).storage + leNat p 12 4)))) ∧
  (∀ (s : State) (n : Fin 8) (i : Iface) (p : Payload), s.dev.takesNow i 0xC080 → s.dev.ownPayload p 12 → byteAt p 8 = 2 → byteAt p 9 = n.val → byteAt p 11 = 0 → byteAt p 10 = 0 → (s.dev.pool n.val).used = true → leNat p 12 4 = 0 → s.dev.mayStage i = true → (∀ c ∈ s.dev.stg.cmds, poolNamed c ≠ some n) →
    Completes (.xtPressPolicy i p) s fun d => d.stg.cmds = s.dev.stg.cmds ++ [.poolExpose n (leNat p 16 4)] ∧ d.stg.checked = false ∧ d.prs = s.dev.prs ∧ d.mem = s.dev.mem ∧
      d.answered i rcSuccess 0xC080 (leBytes 4 (mapBlocksFor (s.dev.pool n.val).storage) ++ leBytes 4 (leNat p 16 4))) ∧
  (∀ (s : State) (n : Fin 8) (i : Iface) (p : Payload), s.dev.takesNow i 0xC080 → s.dev.ownPayload p 12 → byteAt p 8 = 3 → byteAt p 9 = n.val → byteAt p 11 = 0 → byteAt p 10 = 0 → (s.dev.pool n.val).used = true → leNat p 12 4 = 0 → leNat p 16 4 = 0 → s.dev.mayStage i = true → (∀ c ∈ s.dev.stg.cmds, poolNamed c ≠ some n) →
    Completes (.xtPressPolicy i p) s fun d => d.stg.cmds = s.dev.stg.cmds ++ [.poolDestroy n] ∧ d.stg.checked = false ∧ d.prs = s.dev.prs ∧ d.mem = s.dev.mem ∧
      d.answered i rcSuccess 0xC080 (leBytes 4 (mapBlocksFor 0) ++ leBytes 4 0)) ∧
  (∀ (s : State) (ks : List Nat) (i : Iface) (p : Payload), s.dev.takesNow i 0xC081 → s.dev.ownPayload p 1 → s.dev.mb.fg = none → (byteAt p 8 = 0xFF ∨ (byteAt p 8 < 8 ∧ (s.dev.pool (byteAt p 8)).used = true)) →
    ks = ((if byteAt p 8 = 0xFF then List.range 8 else [byteAt p 8]).filter fun k => (s.dev.pool k).used && (s.dev.pool k).overcommit) → ks ≠ [] →
    Completes (.xtPressCompact i p) s fun d => d.mb.fg = some ⟨6, some i, .compact ks 0 0, 0, ks.length * (interleave s.dev.ileave).length, false, 0⟩ ∧
      d.flag Fld.prsSts_compact = true ∧ d.prs = s.dev.prs ∧ d.mem = s.dev.mem ∧ d.answered i rcBackground 0xC081 []) ∧
  (∀ (s : State) (e : Fin 4) (j : Job) (ls : List (Line × Bool)), s.dev.live = true → vget none s.dev.prs.engines e.val = some j → j.decode = true → j.txn = none → j.tries = [] →
    s.dev.prs.jobs = [] → (s.dev.frame j.set j.way).st = 2 → s.dev.decoded j.page = some ls → ls.length = 64 → j.way < 16 →
    Completes (.pressDecodeComplete e true []) s fun d => vget none d.prs.engines e.val = none ∧ (d.frame j.set j.way).st = 2 ∧ (d.frame j.set j.way).valid = BitVec.allOnes 64 ∧
      (∀ l ∈ List.range 64, d.cremaView (d.frameOf j.set j.way) l = if (ls.getD l (0, true)).2 then (0, true) else ls.getD l (0, true))) ∧
  (∀ (s : State) (e : Fin 4) (j : Job), s.dev.live = true → vget none s.dev.prs.engines e.val = some j → j.decode = false →
    s.dev.prs.jobs = [] → (s.dev.frame j.set j.way).st = 3 → (s.dev.storeFrame j.set j.way false).1 ≠ .wait →
    Completes (.pressCodeComplete e true) s fun d => vget none d.prs.engines e.val = none ∧ (d.frame j.set j.way).dirty = 0) ∧
  (∀ (s : State), AtBoundary s.dev → s.dev.live = true →
    Completes .sectorRelease s fun d => d.prs.releasing = [] ∧ (∀ k ∈ s.dev.prs.releasing, d.prs.taken.has k = false) ∧ d.prs.pools = s.dev.prs.pools ∧ d.mem = s.dev.mem) ∧
  (∀ (s : State) (e : Fin 4), AtBoundary s.dev → s.dev.live = true → e ∈ s.dev.prs.lossDue → s.dev.mode = .serve → s.dev.txns = [] → s.dev.prs.jobs = [] →
    Completes (.pressEngineLoss e) s fun d => e.val ∉ d.enginesOk ∧ e ∉ d.prs.lossDue ∧ d.mode = if s.dev.enginesOk.filter (· != e.val) = [] then .degraded else .serve)

/-- A fencing domain drains, goes off or is stuck, a powering one comes on; a mesh parity error poisons its line or halts -/
def Obligations.DomainsFenceAndMeshErrorsStop : Prop :=
  (∀ (s : State) (n : Fin 12), s.dev.live = true → s.dev.domState n.val = 1 →
    Completes (.fenceDrainAck n) s fun d => d.noc.acked.has n.val = true ∧ d.regs = s.dev.regs ∧ d.mem = s.dev.mem) ∧
  (∀ (s : State) (n : Fin 12), AtBoundary s.dev → s.dev.live = true → s.dev.domState n.val = 1 → s.dev.noc.acked.has n.val = true →
    Completes (.fenceOff n) s fun d => d.domState n.val = 2 ∧ d.mem = s.dev.mem ∧ (∀ m ∈ List.range 12, m ≠ n.val → d.domState m = s.dev.domState m)) ∧
  (∀ (s : State) (n : Fin 12) (f : Nat), AtBoundary s.dev → s.dev.live = true → s.dev.domState n.val = 1 → s.dev.noc.acked.has n.val = false → Sparse.get 0 s.dev.noc.fences n.val = f + 1 → f + 4 ≤ s.dev.now →
    Completes (.fenceStuck n) s fun d => (d.fld Fld.nocFenceSts_stuck).testBit n.val = true ∧ d.mem = s.dev.mem ∧ (∀ m ∈ List.range 12, d.domState m = s.dev.domState m)) ∧
  (∀ (s : State) (n : Fin 12) (u : Nat), AtBoundary s.dev → s.dev.live = true → s.dev.domState n.val = 3 → Sparse.get 0 s.dev.noc.powering n.val = u + 1 → u + 16 ≤ s.dev.now →
    Completes (.domainPowerOnDone n) s fun d => d.domState n.val = 0 ∧ d.mem = s.dev.mem ∧ (∀ m ∈ List.range 12, m ≠ n.val → d.domState m = s.dev.domState m)) ∧
  (∀ (s : State) (x : Txn), s.dev.live = true → s.dev.txns = [x] → x.op.isRead = true → (∀ p ∈ x.port.toList, s.dev.isDown p = false) → x.port.isSome = true →
    Completes (.fabricParityError .dat true x.id) s fun d => d.txns = [] ∧ dataTo d x 0 true = true ∧ d.mem = s.dev.mem) ∧
  (∀ (s : State) (net : Mesh) (f : Bool) (k : Nat), s.dev.live = true → (net ≠ .dat ∨ f = false) → s.dev.halted = false → s.dev.mode.mayHalt = true →
    Completes (.fabricParityError net f k) s fun d => d.ras.haltAt = some (s.dev.stamp, 9) ∧ d.cry.key = none ∧ d.cry.oldKey = none ∧ d.txns = [])

/-- DL_Down, hot reset, PERST_B_N and an IDE failure start a link-down; its writes closed, the port reset starts; CXL Reset and FLR act on an LD -/
def Obligations.LinksGoDownAndReset : Prop :=
  (∀ (s : State) (p : PortId), s.dev.linkUp p = true →
    Completes (.dlDown p) s fun d => (d.port p).down = some ⟨none, none, false⟩ ∧ d.fld (Fld.prtLinkSts_state (portIdx p)) = 0 ∧ d.flag (Fld.prtDownSts_active (portIdx p)) = true ∧
      d.fld (Fld.prtDownSts_downs (portIdx p)) = satN (Fld.prtDownSts_downs (portIdx p)).w (s.dev.fld (Fld.prtDownSts_downs (portIdx p)) + 1) ∧ d.mode = s.dev.mode ∧ d.mem = s.dev.mem ∧ d.txns = s.dev.txns) ∧
  (∀ (s : State) (p : PortId), s.dev.linkUp p = true →
    Completes (.hotReset p) s fun d => (d.port p).down = some ⟨none, none, true⟩ ∧ d.fld (Fld.prtLinkSts_state (portIdx p)) = 0 ∧ d.flag (Fld.prtDownSts_active (portIdx p)) = true ∧
      d.fld (Fld.prtDownSts_downs (portIdx p)) = satN (Fld.prtDownSts_downs (portIdx p)).w (s.dev.fld (Fld.prtDownSts_downs (portIdx p)) + 1) ∧ d.mode = s.dev.mode ∧ d.mem = s.dev.mem ∧ d.txns = s.dev.txns) ∧
  (∀ (s : State), s.dev.fld Fld.glbPortMode_mode = 1 → s.dev.linkUp .b = true →
    Completes .perstBNAssert s fun d => (d.port .b).down = some ⟨none, none, false⟩ ∧ d.fld (Fld.prtLinkSts_state (portIdx .b)) = 0 ∧ d.flag (Fld.prtDownSts_active (portIdx .b)) = true ∧
      d.fld (Fld.prtDownSts_downs (portIdx .b)) = satN (Fld.prtDownSts_downs (portIdx .b)).w (s.dev.fld (Fld.prtDownSts_downs (portIdx .b)) + 1) ∧ d.mode = s.dev.mode ∧ d.mem = s.dev.mem ∧ d.txns = s.dev.txns) ∧
  (∀ (s : State), s.dev.fld Fld.glbPortMode_mode ≠ 1 →
    Completes .perstBNAssert s fun d => d.regs = s.dev.regs ∧ d.ports = s.dev.ports ∧ d.mem = s.dev.mem) ∧
  (∀ (s : State) (p : PortId) (st : IdeStream), s.dev.linkUp p = true →
    Completes (.ideIntegrityFailure p st) s fun d => st ∈ (d.port p).insecure ∧
      d.fld (Fld.prtIdeSts_fails (portIdx p)) = satN (Fld.prtIdeSts_fails (portIdx p)).w (s.dev.fld (Fld.prtIdeSts_fails (portIdx p)) + 1) ∧ (d.port p).down = some ⟨none, none, false⟩ ∧ d.fld (Fld.prtLinkSts_state (portIdx p)) = 0 ∧ d.flag (Fld.prtDownSts_active (portIdx p)) = true ∧
      d.fld (Fld.prtDownSts_downs (portIdx p)) = satN (Fld.prtDownSts_downs (portIdx p)).w (s.dev.fld (Fld.prtDownSts_downs (portIdx p)) + 1) ∧ d.mode = s.dev.mode ∧ d.mem = s.dev.mem ∧ d.txns = s.dev.txns) ∧
  (∀ (s : State) (p : PortId) (l : LinkDown) (dd : Nat), AtBoundary s.dev → s.dev.live = true → (s.dev.port p).down = some l → l.d = some dd → l.r = none → s.dev.txns = [] → s.dev.home.snoops = [] →
    Completes (.linkDownWritesClosed p) s fun d => (d.port p).down = some { l with r := some s.dev.now } ∧ d.mem = s.dev.mem ∧
      (∀ t ∈ s.dev.portTenants p, s.dev.tntState t = 1 → (s.dev.tenant t).seq = none →
        d.tntState t = 2 ∧ ((d.tenant t).seq.map (·.kind)) = some .portReset)) ∧
  (∀ (s : State) (p : PortId) (ld : Nat) (clr : Bool) (t : TenantId), s.dev.linkUp p = true → s.dev.tenantOf p ld = some t → s.dev.tntState t = 1 → (s.dev.tenant t).seq = none →
    Completes (.cxlReset p ld clr) s fun d => (d.tenant t).seq = some ⟨none, .reset, none, 0, 0⟩ ∧ (d.tenant t).memClr = clr ∧ d.tntState t = 1 ∧ d.regs = s.dev.regs ∧ d.mem = s.dev.mem) ∧
  (∀ (s : State) (p : PortId) (ld : Nat),
    Completes (.flr p ld) s fun d => d.regs = s.dev.regs ∧ d.tenants = s.dev.tenants ∧ d.mem = s.dev.mem ∧ d.txns = s.dev.txns ∧ d.lds = s.dev.lds)

/-- Training ends in a CXL link, a PCIe link or a failure; recovery, L0p, IDE keys, viral and decoder commits are noted -/
def Obligations.LinksTrainAndCarryTheirModes : Prop :=
  (∀ (s : State) (p : PortId) (g3 : Bool) (w r : Nat) (mld lo : Bool), s.dev.linkOpen p = true → s.dev.isDown p = false → s.dev.fld (Fld.prtLinkSts_state (portIdx p)) < 2 →
    Machine.widthOk w = true → 1 ≤ r → r ≤ 6 →
    Completes (.linkTrainingComplete p (.cxl g3 w r mld lo)) s fun d => d.fld (Fld.prtLinkSts_state (portIdx p)) = 2 ∧ d.fld (Fld.prtLinkSts_width (portIdx p)) = w ∧ d.fld (Fld.prtLinkSts_rate (portIdx p)) = (if g3 then r else min 5 r) ∧
      d.fld (Fld.prtLinkSts_cxlver (portIdx p)) = (if g3 then 2 else 1) ∧ d.flag (Fld.prtLinkSts_mld (portIdx p)) = mld ∧ d.flag (Fld.prtLinkSts_flit (portIdx p)) = g3 ∧ (d.port p).cxl2 = !g3 ∧ d.mem = s.dev.mem) ∧
  (∀ (s : State) (p : PortId) (w r : Nat), s.dev.linkOpen p = true → s.dev.isDown p = false → s.dev.fld (Fld.prtLinkSts_state (portIdx p)) < 2 →
    Machine.widthOk w = true → 1 ≤ r → r ≤ 6 →
    Completes (.linkTrainingComplete p (.pcieOnly w r)) s fun d => d.fld (Fld.prtLinkSts_state (portIdx p)) = 3 ∧ d.fld (Fld.prtLinkSts_width (portIdx p)) = w ∧ d.fld (Fld.prtLinkSts_rate (portIdx p)) = r ∧ d.mem = s.dev.mem) ∧
  (∀ (s : State) (p : PortId), s.dev.linkOpen p = true → s.dev.isDown p = false → s.dev.fld (Fld.prtLinkSts_state (portIdx p)) < 2 →
    Completes (.linkTrainingComplete p .noX4) s fun d => d.fld (Fld.prtLinkSts_state (portIdx p)) = 1 ∧ d.mem = s.dev.mem) ∧
  (∀ (s : State) (p : PortId) (w r n : Nat), s.dev.linkUp p = true → Machine.widthOk w = true → 1 ≤ r → r ≤ 6 → (s.dev.port p).cxl2 = false →
    Completes (.linkRecovery p w r n) s fun d => d.fld (Fld.prtLinkSts_width (portIdx p)) = w ∧ d.fld (Fld.prtLinkSts_rate (portIdx p)) = r ∧ d.fld (Fld.prtLinkSts_state (portIdx p)) = s.dev.fld (Fld.prtLinkSts_state (portIdx p)) ∧ d.mem = s.dev.mem ∧
      d.fld (Fld.prtRetryCnt_recov (portIdx p)) = satN (Fld.prtRetryCnt_recov (portIdx p)).w (s.dev.fld (Fld.prtRetryCnt_recov (portIdx p)) + 1) ∧
      d.fld (Fld.prtRetryCnt_replays (portIdx p)) = satN (Fld.prtRetryCnt_replays (portIdx p)).w (s.dev.fld (Fld.prtRetryCnt_replays (portIdx p)) + n)) ∧
  (∀ (s : State) (p : PortId) (w : Nat), s.dev.linkUp p = true → Machine.widthOk w = true → w ≤ (s.dev.port p).fullWidth →
    Completes (.l0pWidthChange p w) s fun d => d.fld (Fld.prtLinkSts_width (portIdx p)) = w ∧ d.flag (Fld.prtLinkSts_l0p (portIdx p)) = decide (w < (s.dev.port p).fullWidth) ∧
      d.fld (Fld.prtLinkSts_rate (portIdx p)) = s.dev.fld (Fld.prtLinkSts_rate (portIdx p)) ∧ d.mem = s.dev.mem) ∧
  (∀ (s : State) (p : PortId) (k : Bool), s.dev.linkUp p = true →
    Completes (.ideKm p .cxlMem k) s fun d => d.fld (Fld.prtIdeSts_cxl (portIdx p)) = (if k then 1 else 0) ∧ .cxlMem ∉ (d.port p).insecure ∧ d.mem = s.dev.mem) ∧
  (∀ (s : State) (p : PortId) (k : Bool), s.dev.linkUp p = true →
    Completes (.ideKm p .link k) s fun d => d.fld (Fld.prtIdeSts_link (portIdx p)) = (if k then 1 else 0) ∧ .link ∉ (d.port p).insecure ∧ d.mem = s.dev.mem) ∧
  (∀ (s : State) (p : PortId) (n : Fin 4) (k : Bool), s.dev.linkUp p = true →
    Completes (.ideKm p (.sel n) k) s fun d => (d.fld (Fld.prtIdeSts_sel (portIdx p))).testBit n.val = k ∧ .sel n ∉ (d.port p).insecure ∧ d.mem = s.dev.mem) ∧
  (∀ (s : State) (p : PortId), s.dev.linkUp p = true → s.dev.flag (Fld.prtViralSts_rx (portIdx p)) = false → (s.dev.port p).viralDue = false →
    Completes (.viralReceived p) s fun d => (d.port p).viralDue = true ∧ d.flag (Fld.prtViralSts_rx (portIdx p)) = false ∧ d.mode = s.dev.mode ∧ d.mem = s.dev.mem) ∧
  (∀ (s : State) (p : PortId) (ld : Nat) (i : Fin 8) (c : HdmCfg), s.dev.live = true → s.dev.mode ≠ .fill → s.dev.mode ≠ .boot → s.dev.hostPort p = true →
    s.dev.fld (Fld.prtLinkSts_state (portIdx p)) = 2 → ld < 16 →
    Completes (.hdmDecoderCommit p ld i c) s fun d => (d.ldOf p ld).decPend = (s.dev.ldOf p ld).decPend.filter (·.1 != i) ++ [(i, c)] ∧ (d.ldOf p ld).dec = (s.dev.ldOf p ld).dec ∧
      (d.ldOf p ld).decError.getLsbD i.val = false ∧ (∀ j ∈ List.range 8, j ≠ i.val → (d.ldOf p ld).decError.getLsbD j = (s.dev.ldOf p ld).decError.getLsbD j) ∧ d.regs = s.dev.regs ∧ d.mem = s.dev.mem)

/-- A Relay link trains to AUTH, becomes KEYED, goes through Recovery and back, or breaks -/
def Obligations.RelayLinksTrainKeyAndRecover : Prop :=
  (∀ (s : State) (p : PortId) (w : Nat), s.dev.relayOpen p = true → (s.dev.rlyState p = 1 ∨ s.dev.rlyState p = 5) → (w = 8 ∨ w = 16) →
    Completes (.relayLinkTrained p true true w) s fun d => d.rlyState p = 2 ∧ d.fld (Fld.rlyLinkSts_width (portIdx p)) = w ∧ d.fld (Fld.rlyLinkSts_vcs (portIdx p)) = vcCount (s.dev.fld (Fld.rlyVcCfg_count (portIdx p))) ∧
      d.rlyOf p = RelayPort.reset ∧ Undisturbed d s.dev ∧ d.chain = s.dev.chain) ∧
  (∀ (s : State) (p : PortId) (offered rate64 : Bool) (w : Nat), s.dev.relayOpen p = true → (s.dev.rlyState p = 1 ∨ s.dev.rlyState p = 5) →
    (offered = false ∨ rate64 = false ∨ w ≠ 8 ∧ w ≠ 16) →
    Completes (.relayLinkTrained p offered rate64 w) s fun d => d.rlyState p = 1 ∧ d.rly = s.dev.rly ∧ Undisturbed d s.dev) ∧
  (∀ (s : State) (p : PortId) (l : Byte) (v q : Nat), s.dev.relayOpen p = true → s.dev.rlyState p = 2 → (s.dev.lifecycle ≠ .production ∨ l.toNat = Lifecycle.production.code) →
    Completes (.relayAuthComplete p true l v q) s fun d => d.rlyState p = 3 ∧ (d.rlyOf p).rxNext = q ∧ (d.rlyOf p).keyEpoch = 0 ∧
      d.fld (Fld.rlyLinkSts_vcs (portIdx p)) = min (vcCount (s.dev.fld (Fld.rlyVcCfg_count (portIdx p)))) (if v = 2 ∨ v = 4 then v else 8) ∧ Undisturbed d s.dev) ∧
  (∀ (s : State) (p : PortId) (l : Byte) (v q : Nat), s.dev.relayOpen p = true → s.dev.rlyState p = 2 →
    Completes (.relayAuthComplete p false l v q) s fun d => d.rlyState p = 2 ∧ d.rly = s.dev.rly ∧ Undisturbed d s.dev) ∧
  (∀ (s : State) (p : PortId), s.dev.live = true → (s.dev.rlyState p = 2 ∨ s.dev.rlyState p = 3) →
    Completes (.relayRecoveryEntry p) s fun d => d.rlyState p = 4 ∧ Undisturbed d s.dev ∧ d.out = s.dev.out ∧
      d.rlyOf p = { s.dev.rlyOf p with recoverySince := some s.dev.now, wasKeyed := s.dev.rlyState p == 3 }) ∧
  (∀ (s : State) (p : PortId) (w : Nat), s.dev.live = true → s.dev.rlyState p = 4 → (w = 8 ∨ w = 16) → s.dev.recoveryLate p = false →
    Completes (.relayRecoveryExit p w) s fun d => d.rlyState p = (if (s.dev.rlyOf p).wasKeyed then 3 else 2) ∧ d.fld (Fld.rlyLinkSts_width (portIdx p)) = w ∧ (d.rlyOf p).recoverySince = none ∧
      (d.rlyOf p).rxNext = (s.dev.rlyOf p).rxNext ∧ (d.rlyOf p).reorder = (s.dev.rlyOf p).reorder ∧ Undisturbed d s.dev) ∧
  (∀ (s : State) (p : PortId) (w : Nat), s.dev.live = true → s.dev.rlyState p = 4 → (w ≠ 8 ∧ w ≠ 16 ∨ s.dev.recoveryLate p = true) →
    Completes (.relayRecoveryExit p w) s fun d => d.rlyState p = 5 ∧ d.rlyOf p = RelayPort.reset ∧ (NoTest s.dev → d.mem = s.dev.mem) ∧ (s.dev.isHead = true → s.dev.role p = 3 → ∃ x ∈ d.chain.lossDue.toList, x.1 ≤ 1)) ∧
  (∀ (s : State) (p : PortId), s.dev.live = true → s.dev.rlyState p = 4 → s.dev.recoveryLate p = true →
    Completes (.recoveryTimeout p) s fun d => d.rlyState p = 5 ∧ d.rlyOf p = RelayPort.reset ∧ (NoTest s.dev → d.mem = s.dev.mem) ∧ (s.dev.isHead = true → s.dev.role p = 3 → ∃ x ∈ d.chain.lossDue.toList, x.1 ≤ 1)) ∧
  (∀ (s : State) (p : PortId), s.dev.live = true → 2 ≤ s.dev.rlyState p → s.dev.rlyState p ≤ 4 →
    Completes (.relayLinkDown p) s fun d => d.rlyState p = 5 ∧ d.rlyOf p = RelayPort.reset ∧ (NoTest s.dev → d.mem = s.dev.mem) ∧ (s.dev.isHead = true → s.dev.role p = 3 → ∃ x ∈ d.chain.lossDue.toList, x.1 ≤ 1)) ∧
  (∀ (s : State) (p : PortId) (c : Nat), s.dev.keyed p = true → s.dev.rttDue p = true →
    Completes (.rttMeasurement p c) s fun d => d.fld (Fld.rlyRtt_rtt (portIdx p)) = min c 65535 ∧ Undisturbed d s.dev ∧ d.rlyOf p = { s.dev.rlyOf p with rttAt := some s.dev.now }) ∧
  (∀ (s : State) (p : PortId) (c : Nat), s.dev.rttDue p = false → Completes (.rttMeasurement p c) s fun d => d = s.dev) ∧
  (∀ (s : State) (m : RelayMsg) (p : PortId) (n : Nat), s.dev.keyed p = true → s.dev.role p = 2 →
    Completes (.keyNext m p n) s fun d => d.rlyOf p = { s.dev.rlyOf p with keyNext := some ((s.dev.rlyOf p).keyEpoch + 1, n) } ∧ d.regs = s.dev.regs ∧ Undisturbed d s.dev) ∧
  (∀ (s : State) (m : RelayMsg) (p : PortId), Completes (.spdm m p) s fun d => d = s.dev)

/-- Flits arrive in order, held, lost or tampered; acknowledgements, SNAKs, credit, roll calls and HALT act -/
def Obligations.RelayFlitsKeepOrderAndCredit : Prop :=
  (∀ (s : State) (p : PortId) (f : Flit), InOrder s.dev p f → f.typeOk = true → (s.dev.rlyOf p).reorder = [] →
    Completes (.dataFlit p f) s fun d => (d.rlyOf p).rxNext = (s.dev.rlyOf p).rxNext + 1 ∧ (d.rlyOf p).ackOwed = some ((s.dev.rlyOf p).ackOwed.getD s.dev.stamp) ∧ (d.rlyOf p).gbn = false ∧
      (d.rlyOf p).freed = addSlots (s.dev.rlyOf p).freed f.slots ∧ d.rlyState p = 3 ∧ Undisturbed d s.dev ∧ d.chain = s.dev.chain) ∧
  (∀ (s : State) (p : PortId) (f : Flit) (o : Nat), s.dev.keyed p = true → f.fecOk = true → f.crcOk = true → f.tagOk = true → f.typeOk = true →
    1 ≤ o → o ≤ 8 → f.seq % 4096 = ((s.dev.rlyOf p).rxNext + o) % 4096 → (s.dev.rlyOf p).reorder = [] → (s.dev.rlyOf p).gbn = false →
    Completes (.dataFlit p f) s fun d => (d.rlyOf p).rxNext = (s.dev.rlyOf p).rxNext ∧ (d.rlyOf p).reorder = [⟨(s.dev.rlyOf p).rxNext + o, f.slots, none⟩] ∧
      (d.rlyOf p).missing = (List.range o).map ((s.dev.rlyOf p).rxNext + ·) ∧ Undisturbed d s.dev) ∧
  (∀ (s : State) (p : PortId) (f : Flit), s.dev.keyed p = true → (f.fecOk = false ∨ f.crcOk = false) →
    Completes (.dataFlit p f) s fun d => d.fld (Fld.rlyErrCnt_lost (portIdx p)) = satN 16 (s.dev.fld (Fld.rlyErrCnt_lost (portIdx p)) + 1) ∧ d.rly = s.dev.rly ∧ Undisturbed d s.dev) ∧
  (∀ (s : State) (p : PortId) (f : Flit), s.dev.keyed p = true → s.dev.mode.mayHalt = true → f.fecOk = true → f.crcOk = true → f.tagOk = false →
    Completes (.dataFlit p f) s fun d => d.ras.haltAt = some (s.dev.stamp, 4) ∧ d.txns = [] ∧ d.mem = s.dev.mem ∧ d.mode = s.dev.mode) ∧
  (∀ (s : State) (p : PortId) (f : Flit) (r : Roll), InOrder s.dev p f → f.typeOk = true → (s.dev.rlyOf p).reorder = [] → s.dev.role p = 2 → r.ret = false → 1 ≤ r.next → r.next ≤ 7 → r.epoch < 256 →
    Completes (.rollFlit p f r) s fun d => d.chainId = r.next ∧ d.fld Fld.rlyChainSts_epoch = r.epoch ∧ d.flag Fld.rlyChainCtl_policy = r.confine ∧ Undisturbed d s.dev ∧
      (∀ q ∈ s.dev.relayDown.toList, s.dev.rlyState q = 3 → d.chain.waiting = some (s.dev.now + (8 - r.next) * 256))) ∧
  (∀ (s : State) (p : PortId) (f : Flit) (r : Roll) (x : Nat × Bool), InOrder s.dev p f → f.typeOk = true → (s.dev.rlyOf p).reorder = [] → s.dev.role p = 3 → s.dev.isHead = true → r.ret = true →
    r.epoch = s.dev.fld Fld.rlyChainSts_epoch → r.next ≤ 8 → s.dev.chain.rolling = some x →
    Completes (.rollFlit p f r) s fun d => d.chain.rolling = none ∧ d.chain.result = some r.recs ∧ d.fld Fld.rlyChainSts_count = r.next ∧ Undisturbed d s.dev) ∧
  (∀ (s : State) (p : PortId) (f : Flit), InOrder s.dev p f → Newer s.dev p f → (s.dev.rlyOf p).queue = [] →
    Completes (.ackFlit p f) s fun d => (d.rlyOf p).replay = unacked s.dev p f ∧ (d.rlyOf p).ctrlRx = some f.ctrl ∧ (d.rlyOf p).rxNext = (s.dev.rlyOf p).rxNext ∧ (d.rlyOf p).txNext = (s.dev.rlyOf p).txNext ∧ d.out = s.dev.out ∧ Undisturbed d s.dev) ∧
  (∀ (s : State) (p : PortId) (f : Flit), InOrder s.dev p f → Newer s.dev p f → (s.dev.rlyOf p).queue = [] →
    Completes (.idleFlit p f) s fun d => (d.rlyOf p).replay = unacked s.dev p f ∧ (d.rlyOf p).ctrlRx = some f.ctrl ∧ (d.rlyOf p).rxNext = (s.dev.rlyOf p).rxNext ∧ (d.rlyOf p).txNext = (s.dev.rlyOf p).txNext ∧ d.out = s.dev.out ∧ Undisturbed d s.dev) ∧
  (∀ (s : State) (p : PortId) (f : Flit) (l : List Nat), InOrder s.dev p f → Newer s.dev p f → (s.dev.rlyOf p).queue = [] →
    Completes (.snakFlit p f false l) s fun d => (d.rlyOf p).replay = unacked s.dev p f ∧ (d.rlyOf p).ctrlRx = some f.ctrl ∧ (d.rlyOf p).rxNext = (s.dev.rlyOf p).rxNext ∧ (d.rlyOf p).txNext = (s.dev.rlyOf p).txNext ∧ Undisturbed d s.dev ∧
      dataOut d = dataOut s.dev + ((unacked s.dev p f).filter fun x => l.any fun n => n % 4096 == x.seq % 4096).length) ∧
  (∀ (s : State) (p : PortId) (f : Flit) (n : Nat), InOrder s.dev p f → Newer s.dev p f → (s.dev.rlyOf p).queue = [] →
    Completes (.snakFlit p f true [n]) s fun d => (d.rlyOf p).replay = unacked s.dev p f ∧ (d.rlyOf p).ctrlRx = some f.ctrl ∧ (d.rlyOf p).rxNext = (s.dev.rlyOf p).rxNext ∧ (d.rlyOf p).txNext = (s.dev.rlyOf p).txNext ∧ Undisturbed d s.dev ∧
      dataOut d = dataOut s.dev + ((unacked s.dev p f).dropWhile fun x => n % 4096 != x.seq % 4096).length) ∧
  (∀ (s : State) (p : PortId) (f : Flit) (l : List (Nat × Nat)), InOrder s.dev p f → Newer s.dev p f → (s.dev.rlyOf p).queue = [] → l.length ≤ 8 →
    Completes (.creditFlit p f l) s fun d => (d.rlyOf p).replay = unacked s.dev p f ∧ (d.rlyOf p).ctrlRx = some f.ctrl ∧ (d.rlyOf p).rxNext = (s.dev.rlyOf p).rxNext ∧ (d.rlyOf p).txNext = (s.dev.rlyOf p).txNext ∧ Undisturbed d s.dev ∧
      (∀ v ∈ List.range l.length, vget 0 (d.rlyOf p).ccum v = (l.getD v (0, 0)).1 ∧ vget 0 (d.rlyOf p).peerHold v = (l.getD v (0, 0)).2)) ∧
  (∀ (s : State) (p : PortId) (f : Flit) (o c : Byte), InOrder s.dev p f → Newer s.dev p f → (s.dev.rlyOf p).queue = [] → s.dev.mode.mayHalt = true → s.dev.flag Fld.rlyChainCtl_policy = false →
    Completes (.haltFlit p f o c) s fun d => d.ras.haltAt = some (s.dev.stamp, haltCode .chainHalt) ∧ d.fld Fld.rasHaltCause_origin = o.toNat ∧ d.txns = [] ∧ d.mem = s.dev.mem) ∧
  (∀ (s : State) (p : PortId) (f : Flit) (o c : Byte), InOrder s.dev p f → Newer s.dev p f → (s.dev.rlyOf p).queue = [] → s.dev.flag Fld.rlyChainCtl_policy = true → s.dev.role p = 2 →
    Completes (.haltFlit p f o c) s fun d => d.flag Fld.rlyChainSts_cut = true ∧ d.ras.haltAt = none ∧ (NoTest s.dev → d.mem = s.dev.mem)) ∧
  (∀ (s : State) (p : PortId) (f : Flit) (o c : Byte), InOrder s.dev p f → Newer s.dev p f → (s.dev.rlyOf p).queue = [] → s.dev.flag Fld.rlyChainCtl_policy = true → s.dev.role p = 3 →
    Completes (.haltFlit p f o c) s fun d => d.rlyState p = 5 ∧ d.rlyOf p = RelayPort.reset ∧ (NoTest s.dev → d.mem = s.dev.mem) ∧ (s.dev.isHead = true → s.dev.role p = 3 → ∃ x ∈ d.chain.lossDue.toList, x.1 ≤ 1))

/-- SNAK repeat, ACK, replay and credit timers, the hold limit and the hold refresh act when they are due, and change nothing before -/
def Obligations.RelayTimersAct : Prop :=
  (∀ (s : State) (p : PortId) (t : Stamp), s.dev.keyed p = true → ((s.dev.rlyOf p).gbn = true ∨ (s.dev.rlyOf p).missing ≠ []) → (s.dev.rlyOf p).lastSnak = some t →
    min (2 * s.dev.rtt p) 128 ≤ t.cyclesTo s.dev.stamp → s.dev.creditDue p = false →
    Completes (.snakRepeatTimer p) s fun d => (d.rlyOf p).lastSnak = some s.dev.stamp ∧ (d.rlyOf p).missing = (s.dev.rlyOf p).missing ∧
      d.fld (Fld.rlyErrCnt_snak (portIdx p)) = satN 8 (s.dev.fld (Fld.rlyErrCnt_snak (portIdx p)) + 1) ∧ Undisturbed d s.dev ∧
      d.out = .ctrl p 4 ([(s.dev.rlyOf p).ctrlTx + 1, (s.dev.rlyOf p).txNext % 4096, ((s.dev.rlyOf p).rxNext + 4095) % 4096, bitOf (s.dev.rlyOf p).gbn] ++
        (if (s.dev.rlyOf p).gbn then [(s.dev.rlyOf p).rxNext % 4096] else (s.dev.rlyOf p).missing.map (· % 4096))) :: s.dev.out) ∧
  (∀ (s : State) (p : PortId), (s.dev.rlyOf p).gbn = false → (s.dev.rlyOf p).missing = [] → Completes (.snakRepeatTimer p) s fun d => d = s.dev) ∧
  (∀ (s : State) (p : PortId) (t : Stamp), s.dev.keyed p = true → (s.dev.rlyOf p).ackOwed = some t → 64 ≤ t.cyclesTo s.dev.stamp → s.dev.creditDue p = false →
    Completes (.ackTimer p) s fun d => (d.rlyOf p).ctrlTx = (s.dev.rlyOf p).ctrlTx + 1 ∧ (d.rlyOf p).ackOwed = none ∧ (d.rlyOf p).queue = (s.dev.rlyOf p).queue ∧ (d.rlyOf p).replay = (s.dev.rlyOf p).replay ∧
      (d.rlyOf p).rxNext = (s.dev.rlyOf p).rxNext ∧ (d.rlyOf p).txNext = (s.dev.rlyOf p).txNext ∧ Undisturbed d s.dev ∧
      d.out = .ctrl p 3 [(s.dev.rlyOf p).ctrlTx + 1, (s.dev.rlyOf p).txNext % 4096, ((s.dev.rlyOf p).rxNext + 4095) % 4096] :: s.dev.out) ∧
  (∀ (s : State) (p : PortId), (∀ t ∈ (s.dev.rlyOf p).ackOwed.toList, t.cyclesTo s.dev.stamp < 64) → Completes (.ackTimer p) s fun d => d = s.dev) ∧
  (∀ (s : State) (p : PortId), s.dev.keyed p = true → (s.dev.rlyOf p).replay ≠ [] → 4 * s.dev.rtt p + 256 ≤ (s.dev.rlyOf p).lastAck.cyclesTo s.dev.stamp →
    Completes (.replayTimeout p) s fun d => (d.rlyOf p).lastAck = s.dev.stamp ∧ (d.rlyOf p).replay = (s.dev.rlyOf p).replay ∧ (d.rlyOf p).txNext = (s.dev.rlyOf p).txNext ∧
      (d.rlyOf p).rxNext = (s.dev.rlyOf p).rxNext ∧ dataOut d = dataOut s.dev + (s.dev.rlyOf p).replay.length ∧ Undisturbed d s.dev) ∧
  (∀ (s : State) (p : PortId), (s.dev.rlyOf p).replay = [] → Completes (.replayTimeout p) s fun d => d = s.dev) ∧
  (∀ (s : State) (p : PortId) (t : TxMsg), s.dev.keyed p = true → t ∈ (s.dev.rlyOf p).queue → vget 0 (s.dev.rlyOf p).peerHold (s.dev.txVc p t) = 0 → s.dev.txCredit p (s.dev.txVc p t) < t.slots →
    vget 0 (s.dev.rlyOf p).lastCredit (s.dev.txVc p t) + 391 ≤ s.dev.now →
    Completes (.creditTimeout p) s fun d => d.rlyState p = 5 ∧ d.rlyOf p = RelayPort.reset ∧ (NoTest s.dev → d.mem = s.dev.mem) ∧ (s.dev.isHead = true → s.dev.role p = 3 → ∃ x ∈ d.chain.lossDue.toList, x.1 ≤ 1)) ∧
  (∀ (s : State) (p : PortId), (s.dev.rlyOf p).queue = [] → Completes (.creditTimeout p) s fun d => d = s.dev) ∧
  (∀ (s : State) (p : PortId) (t : Nat), s.dev.keyed p = true → (s.dev.rlyOf p).holdSince = some t → t + 131072 ≤ s.dev.now →
    Completes (.holdLimitExpiry p) s fun d => d.rlyState p = 5 ∧ d.rlyOf p = RelayPort.reset ∧ (NoTest s.dev → d.mem = s.dev.mem) ∧ (s.dev.isHead = true → s.dev.role p = 3 → ∃ x ∈ d.chain.lossDue.toList, x.1 ≤ 1)) ∧
  (∀ (s : State) (p : PortId), (s.dev.rlyOf p).holdSince = none → Completes (.holdLimitExpiry p) s fun d => d = s.dev) ∧
  (∀ (s : State) (p : PortId), s.dev.live = true → (s.dev.rlyOf p).ownHold ≠ 0 → (s.dev.rlyState p = 2 ∨ s.dev.rlyState p = 3) →
    Completes (.creditHoldRefresh p) s fun d => (d.rlyOf p).ctrlTx = (s.dev.rlyOf p).ctrlTx + 1 ∧ (d.rlyOf p).ackOwed = none ∧ (d.rlyOf p).queue = (s.dev.rlyOf p).queue ∧ (d.rlyOf p).replay = (s.dev.rlyOf p).replay ∧
      (d.rlyOf p).rxNext = (s.dev.rlyOf p).rxNext ∧ (d.rlyOf p).txNext = (s.dev.rlyOf p).txNext ∧ (d.rlyOf p).shown = (s.dev.rlyOf p).told ∧ (d.rlyOf p).sinceCredit = 0 ∧
      d.out.length = s.dev.out.length + 1 ∧ Undisturbed d s.dev) ∧
  (∀ (s : State) (p : PortId), (s.dev.rlyOf p).ownHold = 0 → Completes (.creditHoldRefresh p) s fun d => d = s.dev)

/-- A request on Relay-up is served at the member it names, forwarded to a later one, or answered poisoned where it is misrouted -/
def Obligations.MembersServeAndForwardRequests : Prop :=
  (∀ (s : State) (m : RelayMsg) (ma : Nat), Asks s.dev m ma → ma = m.line * 64 → (maFar ma = true ∨ NearLine s.dev ma) →
    Completes (.memRd m) s fun d => WaitsUp d s.dev m .rd ma ∧ d.mem = s.dev.mem ∧ d.out = s.dev.out ∧ d.tenants = s.dev.tenants) ∧
  (∀ (s : State) (m : RelayMsg) (ma : Nat), Asks s.dev m ma → ma = m.line * 64 → (maFar ma = true ∨ NearLine s.dev ma) →
    Completes (.memRdData m) s fun d => WaitsUp d s.dev m .rdData ma ∧ d.mem = s.dev.mem ∧ d.out = s.dev.out ∧ d.tenants = s.dev.tenants) ∧
  (∀ (s : State) (m : RelayMsg) (ma : Nat) (v : Line) (k : BitVec 64), Asks s.dev m ma → ma = m.line * 64 → (maFar ma = true ∨ NearLine s.dev ma) →
    Completes (.memWrPtl m v k) s fun d => WaitsUp d s.dev m .wrPtl ma ∧ d.mem = s.dev.mem ∧ d.out = s.dev.out ∧ d.tenants = s.dev.tenants) ∧
  (∀ (s : State) (m : RelayMsg) (ma : Nat), Asks s.dev m ma → ma = m.line * 64 → (maFar ma = true ∨ NearLine s.dev ma) →
    Completes (.uioRd m) s fun d => WaitsUp d s.dev m .uioRd ma ∧ d.mem = s.dev.mem ∧ d.out = s.dev.out ∧ d.tenants = s.dev.tenants) ∧
  (∀ (s : State) (m : RelayMsg) (ma : Nat) (v : Line) (k : BitVec 64), Asks s.dev m ma → ma = m.line * 64 → (maFar ma = true ∨ NearLine s.dev ma) →
    Completes (.uioWrPtl m v k) s fun d => WaitsUp d s.dev m .uioWrPtl ma ∧ d.mem = s.dev.mem ∧ d.out = s.dev.out ∧ d.tenants = s.dev.tenants) ∧
  (∀ (s : State) (m : RelayMsg) (ma : Nat) (a : AtomicArgs), Asks s.dev m ma → ma = m.line * 64 + m.opx / 64 % 64 → (maFar ma = true ∨ NearLine s.dev ma) →
    Completes (.uioAtomic m a) s fun d => WaitsUp d s.dev m .atomic ma ∧ d.mem = s.dev.mem ∧ d.out = s.dev.out ∧ d.tenants = s.dev.tenants) ∧
  (∀ (s : State) (m : RelayMsg) (ma : Nat) (v : Line), Asks s.dev m ma → ma = m.line * 64 → maFar ma = true →
    Completes (.memWr m v) s fun d => WaitsUp d s.dev m .wr ma ∧ d.mem = s.dev.mem ∧ d.out = s.dev.out ∧ d.tenants = s.dev.tenants) ∧
  (∀ (s : State) (m : RelayMsg) (ma : Nat) (v : Line), Asks s.dev m ma → ma = m.line * 64 → maFar ma = true →
    Completes (.uioWr m v) s fun d => WaitsUp d s.dev m .uioWr ma ∧ d.mem = s.dev.mem ∧ d.out = s.dev.out ∧ d.tenants = s.dev.tenants) ∧
  (∀ (s : State) (m : RelayMsg) (ma : Nat) (v : Line) (q : PortId), Asks s.dev m ma → ma = m.line * 64 → m.comp = false → NearLine s.dev ma → s.dev.relayUp = some q → Room s.dev q opcCmp m.cls →
    Completes (.memWr m v) s fun d => d.txns = [] ∧ d.readLine ma false = (v, false) ∧ d.mem.far = s.dev.mem.far ∧ Sent d q (replyTo s.dev m false 0) opcCmp []) ∧
  (∀ (s : State) (m : RelayMsg) (ma : Nat) (v : Line) (q : PortId), Asks s.dev m ma → ma = m.line * 64 → m.comp = false → NearLine s.dev ma → s.dev.relayUp = some q → Room s.dev q opcCmp m.cls →
    Completes (.uioWr m v) s fun d => d.txns = [] ∧ d.readLine ma false = (v, false) ∧ d.mem.far = s.dev.mem.far ∧ Sent d q (replyTo s.dev m false 0) opcCmp []) ∧
  (∀ (s : State) (m : RelayMsg) (ma : Nat) (q : PortId), Asks s.dev m ma → ma = m.line * 64 → s.dev.relayUp = some q → Room s.dev q opcCmp m.cls →
    Completes (.memInv m) s fun d => d.txns = [] ∧ d.mem = s.dev.mem ∧ Sent d q (replyTo s.dev m false 0) opcCmp []) ∧
  (∀ (s : State) (m : RelayMsg) (ma : Nat) (q : PortId), Asks s.dev m ma → ma = m.line * 64 → s.dev.relayUp = some q → Room s.dev q opcCmp m.cls →
    Completes (.memClnEvct m) s fun d => d.txns = [] ∧ d.mem = s.dev.mem ∧ Sent d q (replyTo s.dev m false 0) opcCmp []) ∧
  (∀ (s : State) (m : RelayMsg) (q : PortId), Onward s.dev m q 0x01 →
    Completes (.memRd m) s fun d => Sent d q { m with hops := m.hops + 1 } 0x01 [] ∧ Undisturbed d s.dev) ∧
  (∀ (s : State) (m : RelayMsg) (q : PortId), Onward s.dev m q 0x02 →
    Completes (.memRdData m) s fun d => Sent d q { m with hops := m.hops + 1 } 0x02 [] ∧ Undisturbed d s.dev) ∧
  (∀ (s : State) (m : RelayMsg) (q : PortId), Onward s.dev m q 0x03 →
    Completes (.memInv m) s fun d => Sent d q { m with hops := m.hops + 1 } 0x03 [] ∧ Undisturbed d s.dev) ∧
  (∀ (s : State) (m : RelayMsg) (v : Line) (q : PortId), Onward s.dev m q 0x04 →
    Completes (.memWr m v) s fun d => Sent d q { m with hops := m.hops + 1 } 0x04 (lineSlots v) ∧ Undisturbed d s.dev) ∧
  (∀ (s : State) (m : RelayMsg) (v : Line) (k : BitVec 64) (q : PortId), Onward s.dev m q 0x05 →
    Completes (.memWrPtl m v k) s fun d => Sent d q { m with hops := m.hops + 1 } 0x05 (k.setWidth 128 :: lineSlots v) ∧ Undisturbed d s.dev) ∧
  (∀ (s : State) (m : RelayMsg) (q : PortId), Onward s.dev m q 0x06 →
    Completes (.memClnEvct m) s fun d => Sent d q { m with hops := m.hops + 1 } 0x06 [] ∧ Undisturbed d s.dev) ∧
  (∀ (s : State) (m : RelayMsg) (q : PortId), Onward s.dev m q 0x08 →
    Completes (.uioRd m) s fun d => Sent d q { m with hops := m.hops + 1 } 0x08 [] ∧ Undisturbed d s.dev) ∧
  (∀ (s : State) (m : RelayMsg) (v : Line) (q : PortId), Onward s.dev m q 0x09 →
    Completes (.uioWr m v) s fun d => Sent d q { m with hops := m.hops + 1 } 0x09 (lineSlots v) ∧ Undisturbed d s.dev) ∧
  (∀ (s : State) (m : RelayMsg) (v : Line) (k : BitVec 64) (q : PortId), Onward s.dev m q 0x0A →
    Completes (.uioWrPtl m v k) s fun d => Sent d q { m with hops := m.hops + 1 } 0x0A (k.setWidth 128 :: lineSlots v) ∧ Undisturbed d s.dev) ∧
  (∀ (s : State) (m : RelayMsg) (a : AtomicArgs) (q : PortId), Onward s.dev m q 0x0B →
    Completes (.uioAtomic m a) s fun d => Sent d q { m with hops := m.hops + 1 } 0x0B (atomicSlots a) ∧ Undisturbed d s.dev) ∧
  (∀ (s : State) (m : RelayMsg) (q : PortId), s.dev.upBrings = true → m.hops + 1 ≠ s.dev.chainId → s.dev.relayUp = some q → Room s.dev q opcData m.cls →
    Completes (.memRd m) s fun d => Undisturbed d s.dev ∧ d.chain = s.dev.chain ∧
      (∃ x ∈ d.out.head?.toList, x = .relay q { replyTo s.dev m true 4 with sharer := 0 } opcData (lineSlots 0))) ∧
  (∀ (s : State) (m : RelayMsg) (v : Line), s.dev.upBrings = true → m.hops + 1 ≠ s.dev.chainId →
    Completes (.memWr m v) s fun d => Undisturbed d s.dev ∧ d.chain = s.dev.chain) ∧
  (∀ (s : State) (m : RelayMsg) (v : Line) (q : PortId), ForMe s.dev m → s.dev.chain.viralPorts ≠ 0 → s.dev.home.acksDue = [] → s.dev.relayUp = some q → Room s.dev q opcCmp m.cls → s.dev.txns = [] →
    Completes (.memWr m v) s fun d => d.txns = [] ∧ d.mem = s.dev.mem ∧ Sent d q (replyTo s.dev m false 0) opcCmp [])

/-- CMP, DATA and ATOMIC_DATA complete the request of their tag at the head; snoops reach the host and their answers the member -/
def Obligations.AnswersAndSnoopsTravelTheChain : Prop :=
  (∀ (s : State) (m : RelayMsg) (x : Txn) (p : PortId) (ld : Nat) (tag hpa : Nat), AtHead s.dev m → s.dev.txns = [x] → x.phase = .relayed → x.id % 65536 = m.tag % 65536 → maMember x.ma = m.src → x.org = .host p ld tag hpa → s.dev.isDown p = false → s.dev.flag (Fld.prtViralSts_rx (portIdx p)) = false → m.poison = false → x.op = .wr →
    Completes (.cmp m) s fun d => d.txns = [] ∧ cmpTo d ⟨p, ld, hpa, tag⟩ x.md = true ∧ d.mem = s.dev.mem) ∧
  (∀ (s : State) (m : RelayMsg) (x : Txn) (p : PortId) (ld : Nat) (tag hpa : Nat), AtHead s.dev m → s.dev.txns = [x] → x.phase = .relayed → x.id % 65536 = m.tag % 65536 → maMember x.ma = m.src → x.org = .host p ld tag hpa → s.dev.isDown p = false → s.dev.flag (Fld.prtViralSts_rx (portIdx p)) = false → m.poison = true →
    Completes (.cmp m) s fun d => d.txns = [] ∧ d.out.head? = some (.unsupported p ld tag) ∧ d.mem = s.dev.mem) ∧
  (∀ (s : State) (m : RelayMsg) (x : Txn) (p : PortId) (ld : Nat) (tag hpa : Nat) (v : Line), AtHead s.dev m → s.dev.txns = [x] → x.phase = .relayed → x.id % 65536 = m.tag % 65536 → maMember x.ma = m.src → x.org = .host p ld tag hpa → s.dev.isDown p = false → s.dev.flag (Fld.prtViralSts_rx (portIdx p)) = false → x.op.isRead = true →
    Completes (.data m v) s fun d => d.txns = [] ∧ dataTo d x v m.poison = true ∧ d.mem = s.dev.mem) ∧
  (∀ (s : State) (m : RelayMsg) (x : Txn) (p : PortId) (ld : Nat) (tag hpa : Nat) (v : BitVec 128), AtHead s.dev m → s.dev.txns = [x] → x.phase = .relayed → x.id % 65536 = m.tag % 65536 → maMember x.ma = m.src → x.org = .host p ld tag hpa → s.dev.isDown p = false → s.dev.flag (Fld.prtViralSts_rx (portIdx p)) = false → x.op = .atomic →
    Completes (.atomicData m v) s fun d => d.txns = [] ∧ d.out.head? = some (.atomicData p ld tag v m.poison) ∧ d.mem = s.dev.mem) ∧
  (∀ (s : State) (m : RelayMsg) (p : PortId) (ld hpa : Nat), AtHead s.dev m → s.dev.memberGone m.src = false → s.dev.sharerLd m.sharer.val = some (p, ld) →
    s.dev.snoopHpa p ld (m.line * 64) m.comp = some hpa →
    Completes (.bisnpData m) s fun d => d.out = .bisnp p ld hpa false :: s.dev.out ∧ Undisturbed d s.dev ∧ d.home = s.dev.home ∧ d.regs = s.dev.regs) ∧
  (∀ (s : State) (m : RelayMsg), AtHead s.dev m → s.dev.memberGone m.src = true → Completes (.bisnpData m) s fun d => d = s.dev) ∧
  (∀ (s : State) (m : RelayMsg) (p : PortId) (ld hpa : Nat), AtHead s.dev m → s.dev.memberGone m.src = false → s.dev.sharerLd m.sharer.val = some (p, ld) →
    s.dev.snoopHpa p ld (m.line * 64) m.comp = some hpa →
    Completes (.bisnpInv m) s fun d => d.out = .bisnp p ld hpa true :: s.dev.out ∧ Undisturbed d s.dev ∧ d.home = s.dev.home ∧ d.regs = s.dev.regs) ∧
  (∀ (s : State) (m : RelayMsg), AtHead s.dev m → s.dev.memberGone m.src = true → Completes (.bisnpInv m) s fun d => d = s.dev) ∧
  (∀ (s : State) (m : RelayMsg) (p : PortId) (ld : Nat), AtHead s.dev m → s.dev.sharerLd m.sharer.val = some (p, ld) →
    Completes (.biconflictAck m) s fun d => d.out = .biConflictAck p m.tag :: s.dev.out ∧ Undisturbed d s.dev ∧ d.home = s.dev.home ∧ d.regs = s.dev.regs) ∧
  (∀ (s : State) (m : RelayMsg) (q : PortId), Upward s.dev m q opcCmp →
    Completes (.cmp m) s fun d => Sent d q { m with hops := m.hops + 1 } opcCmp [] ∧ Undisturbed d s.dev ∧ d.home = s.dev.home) ∧
  (∀ (s : State) (m : RelayMsg) (v : Line) (q : PortId), Upward s.dev m q opcData →
    Completes (.data m v) s fun d => Sent d q { m with hops := m.hops + 1 } opcData (lineSlots v) ∧ Undisturbed d s.dev ∧ d.home = s.dev.home) ∧
  (∀ (s : State) (m : RelayMsg) (v : BitVec 128) (q : PortId), Upward s.dev m q opcAtomicData →
    Completes (.atomicData m v) s fun d => Sent d q { m with hops := m.hops + 1 } opcAtomicData [v] ∧ Undisturbed d s.dev ∧ d.home = s.dev.home) ∧
  (∀ (s : State) (m : RelayMsg) (q : PortId), Upward s.dev m q 0x41 →
    Completes (.bisnpInv m) s fun d => Sent d q { m with hops := m.hops + 1 } 0x41 [] ∧ Undisturbed d s.dev ∧ d.home = s.dev.home) ∧
  (∀ (s : State) (m : RelayMsg) (i : Nat) (sn : Snoop), ForMe s.dev m → s.dev.home.snoops = [sn] → sn.line = lineKey (m.line * 64) → sn.sent.isSome = true →
    sn.txn = none → s.dev.txns = [] → s.dev.dirFind sn.line = some i →
    Completes (.birspI m) s fun d => d.home.snoops = [] ∧ d.dirAt i = DirEntry.none ∧ d.fld Fld.cohSts_late = s.dev.fld Fld.cohSts_late ∧ d.mem = s.dev.mem) ∧
  (∀ (s : State) (m : RelayMsg) (x : Txn) (i : Nat) (sn : Snoop), ForMe s.dev m → s.dev.home.snoops = [sn] → sn.line = lineKey (m.line * 64) → sn.sent.isSome = true →
    sn.txn = some x.id → s.dev.txns = [x] → x.phase = .snooping → x.op.isUio = true → lineKey x.ma = sn.line → maFar x.ma = true →
    s.dev.dirFind sn.line = some i → s.dev.leaseOf sn.line = none →
    Completes (.birspI m) s fun d => d.home.snoops = [] ∧ (d.dirAt i).st = .invalid ∧ Now d x .tag ∧ d.mem = s.dev.mem) ∧
  (∀ (s : State) (m : RelayMsg), ForMe s.dev m → s.dev.snoopOf (lineKey (m.line * 64)) = none →
    Completes (.birspI m) s fun d => d.home = s.dev.home ∧ d.txns = s.dev.txns ∧ d.fld Fld.cohSts_late = satN 16 (s.dev.fld Fld.cohSts_late + 1)) ∧
  (∀ (s : State) (m : RelayMsg) (i : Nat) (sn : Snoop), ForMe s.dev m → s.dev.home.snoops = [sn] → sn.line = lineKey (m.line * 64) → sn.sent.isSome = true →
    sn.txn = none → s.dev.txns = [] → s.dev.dirFind sn.line = some i →
    Completes (.birspS m) s fun d => d.home.snoops = [] ∧ d.dirAt i = DirEntry.none ∧ d.fld Fld.cohSts_late = s.dev.fld Fld.cohSts_late ∧ d.mem = s.dev.mem) ∧
  (∀ (s : State) (m : RelayMsg) (x : Txn) (i : Nat) (sn : Snoop), ForMe s.dev m → s.dev.home.snoops = [sn] → sn.line = lineKey (m.line * 64) → sn.sent.isSome = true →
    sn.txn = some x.id → s.dev.txns = [x] → x.phase = .snooping → x.op.isUio = true → lineKey x.ma = sn.line → maFar x.ma = true →
    s.dev.dirFind sn.line = some i → s.dev.leaseOf sn.line = none →
    Completes (.birspS m) s fun d => d.home.snoops = [] ∧ (d.dirAt i).st = .shared ∧ Now d x .tag ∧ d.mem = s.dev.mem) ∧
  (∀ (s : State) (m : RelayMsg), ForMe s.dev m → s.dev.snoopOf (lineKey (m.line * 64)) = none →
    Completes (.birspS m) s fun d => d.home = s.dev.home ∧ d.txns = s.dev.txns ∧ d.fld Fld.cohSts_late = satN 16 (s.dev.fld Fld.cohSts_late + 1)) ∧
  (∀ (s : State) (m : RelayMsg) (q : PortId), ForMe s.dev m → s.dev.snoopOf (lineKey (m.line * 64)) = none → s.dev.relayUp = some q → Room s.dev q 0x45 .l →
    Completes (.biconflict m) s fun d => Undisturbed d s.dev ∧ d.home = s.dev.home ∧
      Sent d q { s.dev.mgmtMsg 0 0 with tag := m.tag % 65536, sharer := m.sharer } 0x45 [])

/-- HELLO, MEMBER_STATE, READY, LINK_BROKEN, EVENT and CMD_RSP act at the head; CUT, PORT_RESET, VIRAL and CMD at a member -/
def Obligations.ChainManagementMessagesAct : Prop :=
  (∀ (s : State) (m : RelayMsg), AtHead s.dev m → Completes (.hello m) s fun d => Rolling d s.dev false ∧ Undisturbed d s.dev) ∧
  (∀ (s : State) (m : RelayMsg) (r o : MemberRec), AtHead s.dev m → m.src < 8 → vget none s.dev.chain.members m.src = some o →
    Completes (.memberState m r) s fun d => vget none d.chain.members m.src = some { o with mode := r.mode, erasing := r.erasing, x8 := r.x8, farFloor := r.farFloor } ∧
      Undisturbed d s.dev ∧ d.regs = s.dev.regs ∧ d.out = s.dev.out) ∧
  (∀ (s : State) (m : RelayMsg) (o : MemberRec), AtHead s.dev m → m.src < 8 → vget none s.dev.chain.members m.src = some o →
    Completes (.ready m) s fun d => vget none d.chain.members m.src = some { o with erasing := false } ∧ Undisturbed d s.dev ∧ d.regs = s.dev.regs ∧ d.out = s.dev.out) ∧
  (∀ (s : State) (m : RelayMsg) (rep c : Byte), AtHead s.dev m →
    Completes (.linkBroken m rep c) s fun d => (∃ x ∈ d.chain.lossDue.toList, x.1 ≤ rep.toNat + 1) ∧ Undisturbed d s.dev ∧ d.regs = s.dev.regs ∧ d.out = s.dev.out) ∧
  (∀ (s : State) (m : RelayMsg) (e : EventRec), AtHead s.dev m → 64 < s.dev.ras.freeEntries → s.dev.ras.dropped = 0 →
    Completes (.event m e) s fun d => (∃ r ∈ d.ras.recs, r.fromMember = true ∧ r.code = e.code ∧ r.detail = e.detail) ∧ d.ras.recs.length = s.dev.ras.recs.length + 1 ∧ Undisturbed d s.dev) ∧
  (∀ (s : State) (m : RelayMsg) (rc : BitVec 16) (out : Payload) (i : Iface) (o t : Nat), AtHead s.dev m → s.dev.chain.cmd = some (i, o, t) →
    Completes (.cmdRsp m rc out) s fun d => d.chain.cmd = none ∧ d.answered i rc.toNat o (out.take 8192) ∧ Undisturbed d s.dev) ∧
  (∀ (s : State) (i : Iface) (o t : Nat), s.dev.live = true → s.dev.chain.cmd = some (i, o, t) → t + 65536 ≤ s.dev.now →
    Completes .cmdRspTimeout s fun d => d.chain.cmd = none ∧ d.answered i rcInternal o [] ∧ Undisturbed d s.dev) ∧
  (∀ (s : State), (∀ x ∈ s.dev.chain.cmd.toList, s.dev.now < x.2.2 + 65536) → Completes .cmdRspTimeout s fun d => d = s.dev) ∧
  (∀ (s : State) (m : RelayMsg), s.dev.upBrings = true → s.dev.flag Fld.rlyChainSts_cut = false → NoTest s.dev →
    Completes (.cut m) s fun d => d.flag Fld.rlyChainSts_cut = true ∧ (d.mb.fg.map fun b => (b.kind, b.work)) = some (0x09, .cutErase) ∧ d.mb.bg = 0 ∧
      d.home.dir = [] ∧ d.home.snoops = [] ∧ d.home.holds = [] ∧ d.mem = s.dev.mem ∧ d.mode = s.dev.mode ∧
      d.txns = s.dev.txns.filter fun x => (match x.org with | .relay _ _ => false | .host _ _ _ _ => true)) ∧
  (∀ (s : State) (b : Brew), s.dev.live = true → s.dev.mb.fg = some b → b.work = .cutErase →
    Completes .cutEraseEnd s fun d => d.flag Fld.rlyChainSts_cut = false ∧ d.mb.fg = none ∧ d.frames = [] ∧ d.mem.crema = [] ∧ d.mem.cremaPoison = [] ∧
      d.mem.far = Memory.clear s.dev.mem.far (fun k => !s.dev.farLost (k / 2 ^ 34)) ∧
      d.mem.farPoison = s.dev.mem.farPoison.drop (fun k => !s.dev.farLost (k / 2 ^ 34)) ∧ d.mode = s.dev.mode) ∧
  (∀ (s : State) (m : RelayMsg) (sh : BitVec 16), ForMe s.dev m → s.dev.home.snoops = [] →
    Completes (.portReset m sh) s fun d => Undisturbed d s.dev ∧ d.regs = s.dev.regs ∧ d.out = s.dev.out ∧
      (∀ e ∈ d.home.dir, e.2.sharers &&& sh = 0 ∧ (sh = 0 ∨ e.2.sharers ≠ 0 ∨ e.2.lock = true))) ∧
  (∀ (s : State) (m : RelayMsg) (p : PortId), ForMe s.dev m →
    Completes (.viralOn m p) s fun d => d.chain.viralPorts = s.dev.chain.viralPorts ||| BitVec.ofNat 2 (2 ^ portIdx p) ∧ Undisturbed d s.dev ∧ d.regs = s.dev.regs) ∧
  (∀ (s : State) (m : RelayMsg) (p : PortId), ForMe s.dev m →
    Completes (.viralOff m p) s fun d => d.chain.viralPorts = s.dev.chain.viralPorts &&& ~~~(BitVec.ofNat 2 (2 ^ portIdx p)) ∧ Undisturbed d s.dev ∧ d.regs = s.dev.regs) ∧
  (∀ (s : State) (m : RelayMsg) (o : BitVec 16) (p : Payload), ForMe s.dev m → vendorCmd o.toNat .portA p = none →
    Completes (.cmd m o p) s fun d => d.answered .portA rcUnsupported o.toNat [] ∧ Undisturbed d s.dev) ∧
  (∀ (s : State) (m : RelayMsg) (p : Payload), ForMe s.dev m → s.dev.takesNow .portA 0xC031 → s.dev.ownPayload p 0 → s.dev.cry.rekey = none →
    Completes (.cmd m 0xC031 p) s fun d => d.answered .portA rcSuccess 0xC031 (leBytes 4 (s.dev.reg Off.cryRekeySts).toNat ++ List.replicate 16 0) ∧ Undisturbed d s.dev)

/-- XT_CHAIN_ROLLCALL, XT_CHAIN_MAP, the waits of a roll call, and MEMBER_LOSS -/
def Obligations.RollCallsAndLossesMoveTheChain : Prop :=
  (∀ (s : State) (i : Iface) (p : Payload), s.dev.takesNow i 0xC060 → s.dev.ownPayload p 0 → s.dev.isHead = false →
    Completes (.xtChainRollcall i p) s fun d => d.answered i rcInvalidInput 0xC060 [] ∧ Undisturbed d s.dev) ∧
  (∀ (s : State) (i : Iface) (p : Payload) (q : PortId), s.dev.takesNow i 0xC060 → s.dev.ownPayload p 0 → s.dev.isHead = true → s.dev.chain.rollCmd = none → s.dev.chain.rolling = none → s.dev.relayDown = some q → s.dev.rlyState q ≠ 3 → s.dev.rlyState q ≠ 4 →
    Completes (.xtChainRollcall i p) s fun d => d.answered i rcSuccess 0xC060 [BitVec.ofNat 8 (s.dev.fld Fld.rlyChainSts_epoch + 1), 1] ∧ d.fld Fld.rlyChainSts_count = 1 ∧
      d.chain.result = some [] ∧ Undisturbed d s.dev) ∧
  (∀ (s : State) (i : Iface) (p : Payload), s.dev.takesNow i 0xC060 → s.dev.ownPayload p 0 → DownKeyed s.dev → s.dev.chain.rollCmd = none →
    Completes (.xtChainRollcall i p) s fun d => Rolling d s.dev false ∧ d.chain.rollCmd = some i ∧ (i, 0xC060) ∈ d.mb.running ∧ Undisturbed d s.dev) ∧
  (∀ (s : State) (i : Iface) (p : Payload), s.dev.takesNow i 0xC061 → s.dev.ownPayload p 0 →
    Completes (.xtChainMap i p) s fun d => Undisturbed d s.dev ∧ d.chain = s.dev.chain ∧ (∃ out ∈ (d.out.head?.toList.map fun o => match o with | .mbox j rc op l => if j = i ∧ rc = rcSuccess ∧ op = 0xC061 then l else [] | _ => []),
      out.length = 224 ∧ (∀ k ∈ List.range 7, out.getD (32 * k) 0 = BitVec.ofNat 8 (s.dev.fld (Fld.rlyMember_state (k + 1)))))) ∧
  (∀ (s : State) (t : Nat), s.dev.live = true → s.dev.chain.waiting = some t → t ≤ s.dev.now →
    Completes .rollCallWaitExpiry s fun d => d.chain.waiting = none ∧ d.chain.stateSent = some s.dev.ownRecord ∧ Undisturbed d s.dev) ∧
  (∀ (s : State), (∀ t ∈ s.dev.chain.waiting.toList, s.dev.now < t) → Completes .rollCallWaitExpiry s fun d => d = s.dev) ∧
  (∀ (s : State) (t : Nat), s.dev.live = true → DownKeyed s.dev → s.dev.chain.rolling = some (t, false) → t + 2048 ≤ s.dev.now →
    Completes .rollCallReturnTimeout s fun d => Rolling d s.dev true ∧ Undisturbed d s.dev) ∧
  (∀ (s : State) (t : Nat), s.dev.live = true → DownKeyed s.dev → s.dev.chain.rolling = some (t, true) → t + 2048 ≤ s.dev.now →
    Completes .rollCallReturnTimeout s fun d => d.chain.rolling = none ∧ d.chain.rollCmd = none ∧ (∃ x ∈ d.chain.lossDue.toList, x.1 ≤ 1) ∧ Undisturbed d s.dev ∧
      (∀ q ∈ s.dev.relayDown.toList, d.rlyState q = 5 ∧ d.rlyOf q = RelayPort.reset)) ∧
  (∀ (s : State), (∀ x ∈ s.dev.chain.rolling.toList, s.dev.now < x.1 + 2048) → Completes .rollCallReturnTimeout s fun d => d = s.dev) ∧
  (∀ (s : State) (k : Fin 8) (c : LossCause), AtBoundary s.dev → s.dev.live = true → DownKeyed s.dev → s.dev.chain.lossDue = some (k.val, c) →
    Completes (.memberLoss k c) s fun d => d.chain.lossDue = none ∧ Rolling d s.dev false ∧ d.mem = s.dev.mem ∧ d.mode = s.dev.mode ∧
      (∀ x ∈ d.txns, ¬ (x.phase = .relayed ∧ max 1 k.val ≤ maMember x.ma)) ∧
      (∀ m ∈ List.range 8, if m ∈ presentFrom s.dev k.val then d.fld (Fld.rlyMember_state m) = 3 ∧ vget none d.chain.members m = none
        else d.fld (Fld.rlyMember_state m) = s.dev.fld (Fld.rlyMember_state m) ∧ vget none d.chain.members m = vget none s.dev.chain.members m)) ∧
  (∀ (s : State) (k : Fin 8) (c : LossCause), AtBoundary s.dev → s.dev.chain.lossDue ≠ some (k.val, c) → Completes (.memberLoss k c) s fun d => d = s.dev)

/-- A step with a command at the front of the queue is exec of that command with the rest of the queue -/
def Obligations.AStepRunsTheCommandInFront : Prop :=
  ∀ (s : State) (c : Instr) (r : List Instr), Machine.step { s with pending := c :: r } = exec c { s with pending := r }

/-- With no command waiting a step is one core cycle where the clock runs (the model's choice, log entry 2), else nothing changes -/
def Obligations.AnEmptyQueueLetsOneCycleEnd : Prop :=
  (∀ s : State, s.pending = [] → s.dev.clk.running = false → Machine.step s = .next s) ∧
  (∀ s : State, s.pending = [] → s.dev.clk.running = true → s.dev.clk.cyc.val < 511 →
    ∃ t, Machine.step s = .next t ∧ t.pending = [] ∧ t.dev.clk.pour = s.dev.clk.pour ∧ t.dev.clk.cyc.val = s.dev.clk.cyc.val + 1 ∧
      (s.dev.clk.cyc.val < 510 → { t.dev with clk := s.dev.clk, shown := s.dev.shown, merge := s.dev.merge } = s.dev ∧ (s.dev.merge = [] → t.dev.merge = []))) ∧
  (∀ s : State, s.pending = [] → s.dev.clk.running = true → s.dev.clk.cyc.val = 511 →
    ∃ t, Machine.step s = .next t ∧ t.pending = [] ∧ (NextPour t.dev s.dev ∨ s.dev.mode = .drain ∧ t.dev.mode = .cold)) ∧
  (∀ s : State, s.dev.clk.running = true →
    Completes .pourBoundary s fun d => NextPour d s.dev ∨ s.dev.mode = .drain ∧ d.mode = .cold) ∧
  (∀ (s : State) (c : Instr) (f : Dev → Dev), boundaryChange c = some f → s.dev.clk.running = true → s.dev.clk.cyc ≠ 0 →
    Completes c s fun d => d = settle s.dev (s.dev.passPour f)) ∧
  (∀ (s : State) (c : Instr), requestRow c = true → s.dev.clk.running = true → s.dev.clk.cyc ≠ 0 →
    Completes c s fun d => d = settle s.dev (s.dev.passPour id))

/-- After reset the device is in COLD, without power, clock, key, open work or content, and the invariants of the model hold -/
def Obligations.ResetIsAColdDevice : Prop :=
  State.reset.pending = [] ∧ State.reset.dev.mode = .cold ∧ State.reset.dev.pwr.vaux = false ∧ State.reset.dev.pwr.gates = false ∧
  State.reset.dev.pwr.powerGood = false ∧ State.reset.dev.clk = ⟨false, 0, 0⟩ ∧ State.reset.dev.cry.key = none ∧ State.reset.dev.txns = [] ∧
  State.reset.dev.ext = [] ∧ State.reset.dev.mem.crema = [] ∧ State.reset.dev.mem.far = [] ∧
  Memory.wf State.reset.dev.mem.crema = true ∧ Memory.wf State.reset.dev.mem.far = true ∧
  State.reset.dev.reg Off.glbPourLo = 0 ∧ State.reset.dev.reg Off.glbPourHi = 0 ∧ State.reset.dev.reg Off.glbPourCyc = 0 ∧
  (∀ a : Nat, Memory.byte State.reset.dev.mem.far a = 0 ∧ Memory.byte State.reset.dev.mem.crema a = 0) ∧ State.reset.dev.fuses.keptBy State.reset.dev.fuses

/-- No step unblows a fuse, lowers the security version or changes the part, whatever command runs -/
def Obligations.RunsKeepFusesAndPart : Prop :=
  (∀ (a : Dev) (s t : State), s.dev.part = a.part → a.fuses.keptBy s.dev.fuses → Machine.step s = .next t →
    t.dev.part = a.part ∧ a.fuses.keptBy t.dev.fuses) ∧
  (∀ (a : Dev) (n : Nat) (s t : State), s.dev.part = a.part → a.fuses.keptBy s.dev.fuses → core.run n s = .next t →
    t.dev.part = a.part ∧ a.fuses.keptBy t.dev.fuses)

/-- In every step the mode stays or moves along one pair of the mode table; HALT is left only to COLD -/
def Obligations.ModesMoveAlongTheTable : Prop :=
  ∀ s t : State, Machine.step s = .next t →
    (t.dev.mode = s.dev.mode ∨ t.dev.mode = .cold ∨ (t.dev.mode = .halt ∧ s.dev.mode ≠ .cold ∧ s.dev.mode ≠ .fill) ∨
      (s.dev.mode, t.dev.mode) ∈ modeTable) ∧
    (s.dev.mode = .halt → t.dev.mode = .halt ∨ t.dev.mode = .cold) ∧ (s.dev.mode = .cold → t.dev.mode = .cold ∨ t.dev.mode = .fill)

/-- Every queue of commands runs to its end: after as many steps as commands wait, none waits, and none has stopped -/
def Obligations.EveryQueueDrains : Prop :=
  (∀ s : State, ∃ t, core.run s.pending.length s = .next t ∧ t.pending = []) ∧
  (∀ (s : State) (a b : List Instr), s.pending = a ++ b → ∃ t, core.run a.length s = .next t ∧ t.pending = b)

/-- A vendor command is dropped, answered, answered Busy, or waits, as its interface, the mode and Barista stand -/
def Obligations.VendorCommandsAreGatedAndWait : Prop :=
  (∀ (s : State) (i : Iface) (p : Payload) (o : Nat) (c : Instr), vendorCmd o i p = some c → s.dev.gate i o = .drop →
    Completes c s fun d => d = s.dev) ∧
  (∀ (s : State) (i : Iface) (p : Payload) (o : Nat) (c : Instr) (rc : Nat), vendorCmd o i p = some c → s.dev.gate i o = .answer rc →
    Completes c s fun d => d.answered i rc o [] ∧ Undisturbed d s.dev ∧ d.stg = s.dev.stg) ∧
  (∀ (s : State) (p : Payload) (o : Nat) (c : Instr), vendorCmd o .mctp p = some c → s.dev.gate .mctp o = .take → s.dev.ifaceBusy .mctp = true →
    Completes c s fun d => d.out = .mbox .mctp rcBusy o [] :: s.dev.out ∧ d.regs = s.dev.regs ∧ d.mb = s.dev.mb ∧ Undisturbed d s.dev) ∧
  (∀ (s : State) (i : Iface) (p : Payload) (o : Nat) (c : Instr), vendorCmd o i p = some c → s.dev.gate i o = .take → i ≠ .mctp → s.dev.ifaceBusy i = true →
    Completes c s fun d => d = s.dev) ∧
  (∀ (s : State) (i : Iface) (p : Payload) (o : Nat) (c : Instr), vendorCmd o i p = some c → s.dev.gate i o = .take → s.dev.ifaceBusy i = false → s.dev.baristaFree = false →
    Completes c s fun d => d.mb.waits = s.dev.mb.waits ++ [(i, c)] ∧ d.flag (Fld.mboxCmdSts_queued (ifaceIdx i)) = true ∧
      d.fld (Fld.mboxCmdSts_opcode (ifaceIdx i)) = o ∧ d.mb.running = s.dev.mb.running ∧ d.out = s.dev.out ∧ d.stg = s.dev.stg ∧ Undisturbed d s.dev)

/-- Inlet, presence, posting and temperature events leave contents, requests, tenants and caches alone -/
def Obligations.PinPowerAndHeatEventsKeepTheMedia : Prop :=
  (∀ (s : State) (smbAddr : BitVec 2) (prsntHigh : Bool) (perstLow : Bool), Completes (.vauxStart smbAddr prsntHigh perstLow) s fun d => MediaKept d s.dev) ∧
  (∀ (s : State), Completes .powerGood s fun d => MediaKept d s.dev) ∧
  (∀ (s : State) (straps : BitVec 3), Completes (.perstANDeassert straps) s fun d => MediaKept d s.dev) ∧
  (∀ (s : State), Completes .prsntNLow s fun d => MediaKept d s.dev) ∧
  (∀ (s : State) (island0 : Int) (island1 : Int), Completes (.thermtripRelease island0 island1) s fun d => MediaKept d s.dev) ∧
  (∀ (s : State), Completes .glitchResetRelease s fun d => MediaKept d s.dev) ∧
  (∀ (s : State) (m : InletMeas), Completes (.prechargeComplete m) s fun d => MediaKept d s.dev) ∧
  (∀ (s : State) (m : InletMeas), Completes (.rampComplete m) s fun d => MediaKept d s.dev) ∧
  (∀ (s : State), Completes .retryWaitExpiry s fun d => MediaKept d s.dev) ∧
  (∀ (s : State), Completes .failsClearTimeout s fun d => MediaKept d s.dev) ∧
  (∀ (s : State) (m : InletMeas), Completes (.fetModelUpdate m) s fun d => MediaKept d s.dev) ∧
  (∀ (s : State) (src : Source) (key : Word), Completes (.inlClear src key) s fun d => MediaKept d s.dev) ∧
  (∀ (s : State), Completes .clearDelayExpiry s fun d => MediaKept d s.dev) ∧
  (∀ (s : State) (deciWatts : Nat), AtBoundary s.dev → Completes (.powerCapSample deciWatts) s fun d => MediaKept d s.dev) ∧
  (∀ (s : State), AtBoundary s.dev → Completes .powerCapRelease s fun d => MediaKept d s.dev) ∧
  (∀ (s : State) (src : Source) (off : Nat) (value : Word), Completes (.postedWrite src off value) s fun d => MediaKept d s.dev) ∧
  (∀ (s : State) (off : Nat), Completes (.postingComplete off) s fun d => MediaKept d s.dev) ∧
  (∀ (s : State), AtBoundary s.dev → Completes .thermalHoldEnd s fun d => MediaKept d s.dev) ∧
  (∀ (s : State), AtBoundary s.dev → Completes .thermalWakeCountExpiry s fun d => MediaKept d s.dev) ∧
  (∀ (s : State) (stack : List Reading) (die : List Reading), Completes (.temperatureSample stack die) s fun d => MediaKept d s.dev) ∧
  (∀ (s : State), AtBoundary s.dev → Completes .doubledRefreshRelease s fun d => MediaKept d s.dev) ∧
  (∀ (s : State), AtBoundary s.dev → Completes .stackThrottleRelease s fun d => MediaKept d s.dev) ∧
  (∀ (s : State), AtBoundary s.dev → Completes .dieThrottleRelease s fun d => MediaKept d s.dev) ∧
  (∀ (s : State) (ch : FarCh) (ranks : List Mr4), Completes (.mr4Reading ch ranks) s fun d => MediaKept d s.dev) ∧
  (∀ (s : State) (ch : FarCh) (drifts : List Nat), Completes (.dqsOscillatorReading ch drifts) s fun d => MediaKept d s.dev) ∧
  (∀ (s : State) (ch : FarCh), Completes (.recentringFail ch) s fun d => MediaKept d s.dev)

/-- Register reads, staged and keyed writes, counters, seals, lifecycle and SPDM leave contents and requests alone -/
def Obligations.RegisterAndSecurityCommandsKeepTheMedia : Prop :=
  (∀ (s : State) (src : Source) (off : Nat) (value : Word), Completes (.stagedRegisterWrite src off value) s fun d => MediaKept d s.dev) ∧
  (∀ (s : State) (src : Source) (off : Nat) (be : BitVec 4), Completes (.rcRead src off be) s fun d => MediaKept d s.dev) ∧
  (∀ (s : State) (src : Source), Completes (.glbPourLoRead src) s fun d => MediaKept d s.dev) ∧
  (∀ (s : State) (src : Source), Completes (.cryMajorNextLoRead src) s fun d => MediaKept d s.dev) ∧
  (∀ (s : State) (src : Source), Completes (.stgCommitPourLoRead src) s fun d => MediaKept d s.dev) ∧
  (∀ (s : State) (src : Source) (off : Nat) (value : Word), Completes (.keyedValueWrite src off value) s fun d => MediaKept d s.dev) ∧
  (∀ (s : State) (src : Source), Completes (.keyedPairTimeout src) s fun d => MediaKept d s.dev) ∧
  (∀ (s : State) (src : Source) (key : Word), Completes (.glbSealCtlOff src key) s fun d => MediaKept d s.dev) ∧
  (∀ (s : State) (src : Source) (key : Word), Completes (.glbSealCtlEnforce src key) s fun d => MediaKept d s.dev) ∧
  (∀ (s : State) (src : Source) (key : Word), Completes (.glbSealCtlReport src key) s fun d => MediaKept d s.dev) ∧
  (∀ (s : State) (src : Source), Completes (.sealCommit src) s fun d => MediaKept d s.dev) ∧
  (∀ (s : State), Completes .sealReferenceScanComplete s fun d => MediaKept d s.dev) ∧
  (∀ (s : State), AtBoundary s.dev → Completes .sealScanStart s fun d => MediaKept d s.dev) ∧
  (∀ (s : State) (src : Source) (key : Word), Completes (.glbLcAdv src key) s fun d => MediaKept d s.dev) ∧
  (∀ (s : State), Completes .lifecycleBurnComplete s fun d => MediaKept d s.dev) ∧
  (∀ (s : State), Completes .identityKeygenComplete s fun d => MediaKept d s.dev) ∧
  (∀ (s : State) (src : Source) (key : Word), Completes (.cryRekeyCtl src key) s fun d => MediaKept d s.dev) ∧
  (∀ (s : State), Completes .fuseBurnComplete s fun d => MediaKept d s.dev) ∧
  (∀ (s : State) (src : Source) (key : Word), Completes (.canErase src key) s fun d => MediaKept d s.dev) ∧
  (∀ (s : State) (on : Bool), Completes (.pmuCtlFreeze on) s fun d => MediaKept d s.dev) ∧
  (∀ (s : State), Completes .pmuCtlClrGen s fun d => MediaKept d s.dev) ∧
  (∀ (s : State), Completes .pmuCtlClrOvf s fun d => MediaKept d s.dev) ∧
  (∀ (s : State) (n : Fin 64) (value : Word), Completes (.pmuEvselWrite n value) s fun d => MediaKept d s.dev) ∧
  (∀ (s : State) (n : Fin 64) (value : Word), Completes (.pmuScopeWrite n value) s fun d => MediaKept d s.dev) ∧
  (∀ (s : State) (h : Fin 4) (value : Word), Completes (.pmuHistCtlWrite h value) s fun d => MediaKept d s.dev) ∧
  (∀ (s : State) (mask : BitVec 4), Completes (.pmuHistClr mask) s fun d => MediaKept d s.dev) ∧
  (∀ (s : State) (count : Nat) (off : Nat), Completes (.mgmtRegisterRead count off) s fun d => MediaKept d s.dev) ∧
  (∀ (s : State), Completes .smbusAlertResponse s fun d => MediaKept d s.dev) ∧
  (∀ (s : State), Completes .smbusLowTimeout s fun d => MediaKept d s.dev) ∧
  (∀ (s : State), AtBoundary s.dev → Completes .subkeyDerivationDone s fun d => MediaKept d s.dev) ∧
  (∀ (s : State), Completes .haltRecordWrite s fun d => MediaKept d s.dev) ∧
  (∀ (s : State) (tr : Transport) (index : Byte) (signed : Bool), Completes (.getMeasurements tr index signed) s fun d => MediaKept d s.dev) ∧
  (∀ (s : State) (tr : Transport), Completes (.getCsr tr) s fun d => MediaKept d s.dev) ∧
  (∀ (s : State) (tr : Transport) (leaf : Cert) (issuers : List Cert), Completes (.setCertificate tr leaf issuers) s fun d => MediaKept d s.dev) ∧
  (∀ (s : State) (tr : Transport) (composite : Bool), Completes (.negotiateAlgorithms tr composite) s fun d => MediaKept d s.dev) ∧
  (∀ (s : State) (tr : Transport) (secp384r1Aes256Gcm : Bool), Completes (.keyExchange tr secp384r1Aes256Gcm) s fun d => MediaKept d s.dev) ∧
  (∀ (s : State) (tr : Transport), Completes (.challenge tr) s fun d => MediaKept d s.dev) ∧
  (∀ (s : State), Completes .signatureComplete s fun d => MediaKept d s.dev)

/-- Link events, decoder commits, fabric fences and the queries of a fabric manager leave contents and requests alone -/
def Obligations.LinkAndFabricCommandsKeepTheMedia : Prop :=
  (∀ (s : State) (port : PortId) (ld : Nat) (idx : Fin 8) (cfg : HdmCfg), Completes (.hdmDecoderCommit port ld idx cfg) s fun d => MediaKept d s.dev) ∧
  (∀ (s : State), Completes .perstBNAssert s fun d => MediaKept d s.dev) ∧
  (∀ (s : State) (port : PortId), Completes (.dlDown port) s fun d => MediaKept d s.dev) ∧
  (∀ (s : State) (port : PortId), Completes (.hotReset port) s fun d => MediaKept d s.dev) ∧
  (∀ (s : State) (port : PortId) (ld : Nat), Completes (.flr port ld) s fun d => MediaKept d s.dev) ∧
  (∀ (s : State) (port : PortId) (res : LinkResult), Completes (.linkTrainingComplete port res) s fun d => MediaKept d s.dev) ∧
  (∀ (s : State) (port : PortId) (width : Nat) (rate : Nat) (replayed : Nat), Completes (.linkRecovery port width rate replayed) s fun d => MediaKept d s.dev) ∧
  (∀ (s : State) (port : PortId) (width : Nat), Completes (.l0pWidthChange port width) s fun d => MediaKept d s.dev) ∧
  (∀ (s : State) (port : PortId) (stream : IdeStream), Completes (.ideIntegrityFailure port stream) s fun d => MediaKept d s.dev) ∧
  (∀ (s : State) (port : PortId) (stream : IdeStream) (keys : Bool), Completes (.ideKm port stream keys) s fun d => MediaKept d s.dev) ∧
  (∀ (s : State) (port : PortId) (cycles : Nat), Completes (.rttMeasurement port cycles) s fun d => MediaKept d s.dev) ∧
  (∀ (s : State) (m : RelayMsg) (port : PortId), Completes (.spdm m port) s fun d => MediaKept d s.dev) ∧
  (∀ (s : State) (x : Fin 12), Completes (.fenceDrainAck x) s fun d => MediaKept d s.dev) ∧
  (∀ (s : State) (x : Fin 12), AtBoundary s.dev → Completes (.fenceOff x) s fun d => MediaKept d s.dev) ∧
  (∀ (s : State) (x : Fin 12), AtBoundary s.dev → Completes (.fenceStuck x) s fun d => MediaKept d s.dev) ∧
  (∀ (s : State) (x : Fin 12), AtBoundary s.dev → Completes (.domainPowerOnDone x) s fun d => MediaKept d s.dev) ∧
  (∀ (s : State) (ch : FarCh), AtBoundary s.dev → Completes (.recentringStepEnd ch) s fun d => MediaKept d s.dev) ∧
  (∀ (s : State), AtBoundary s.dev → Completes .modeReqWake s fun d => MediaKept d s.dev) ∧
  (∀ (s : State), AtBoundary s.dev → s.dev.due.drainAt < s.dev.now → Completes .drainLastTransactionClosed s fun d => MediaKept d s.dev) ∧
  (∀ (s : State), AtBoundary s.dev → s.dev.due.drainAt < s.dev.now → Completes .drainPauseBoundary s fun d => MediaKept d s.dev) ∧
  (∀ (s : State) (ch : FarCh), AtBoundary s.dev → Completes (.drowseIdleExpiry ch) s fun d => MediaKept d s.dev) ∧
  (∀ (s : State), AtBoundary s.dev → Completes .guaranteeWindowCheck s fun d => MediaKept d s.dev) ∧
  (∀ (s : State) (t : TenantId), Completes (.getDcRegionExtentLists t) s fun d => MediaKept d s.dev) ∧
  (∀ (s : State) (port : PortId), Completes (.getLdAllocations port) s fun d => MediaKept d s.dev) ∧
  (∀ (s : State) (port : PortId), Completes (.setLdAllocations port) s fun d => MediaKept d s.dev) ∧
  (∀ (s : State) (t : TenantId), Completes (.getQosStatus t) s fun d => MediaKept d s.dev) ∧
  (∀ (s : State) (controls : Byte), Completes (.setQosControl controls) s fun d => MediaKept d s.dev) ∧
  (∀ (s : State) (port : PortId), Completes (.setQosAllocatedBw port) s fun d => MediaKept d s.dev) ∧
  (∀ (s : State) (port : PortId) (ld : Nat), Completes (.cxlTableAccess port ld) s fun d => MediaKept d s.dev)

/-- A stored line reads back as stored, other pages keep what they held, and both memories keep their canonical form -/
def Obligations.StoredLinesReadBack : Prop :=
  (∀ (d : Dev) (g l g' l' : Nat) (v : Line) (po : Bool),
    (d.cremaStore g l v po).cremaView g l = (if po then 0 else v, po) ∧
    (cremaKey g' l' ≠ cremaKey g l → (d.cremaStore g l v po).cremaView g' l' = d.cremaView g' l') ∧
    (Memory.wf d.mem.crema = true → Memory.wf (d.cremaStore g l v po).mem.crema = true)) ∧
  (∀ (d : Dev) (c cli : Nat) (v : Line) (po : Bool), d.farLost c = false → d.inSubtree c (cli / 64) = false →
    (d.mem.written.has (pageKey c (cli / 64)) = true → d.lostPage c (cli / 64) = false) →
    (d.farStore c cli v po).farView c cli = (if po then 0 else v, po)) ∧
  (∀ (d : Dev) (c cli c' cli' : Nat) (v : Line) (po : Bool), c < 8 → c' < 8 → cli < 2 ^ 34 → cli' < 2 ^ 34 → (c, cli / 64) ≠ (c', cli' / 64) →
    (d.farStore c cli v po).farView c' cli' = d.farView c' cli') ∧
  (∀ (d : Dev) (c cli : Nat) (v : Line) (po : Bool),
    (d.farLost c = true → d.farStore c cli v po = d) ∧
    (Memory.wf d.mem.far = true → Memory.wf (d.farStore c cli v po).mem.far = true) ∧ (d.farStore c cli v po).mem.crema = d.mem.crema)

/-- Reading GLB_POUR_LO, then GLB_POUR_HI and GLB_POUR_CYC, gives one timestamp; without the first, the last one latched, or zero -/
def Obligations.TheThreePourWordsFormOneTimestamp : Prop :=
  (∀ (s : State) (src : Source), s.dev.canAccess src Off.glbPourLo = true →
    Completes (.glbPourLoRead src) s fun d => d.out.head? = some (.word src (s.dev.clk.pour.setWidth 32 &&& beMask 15)) ∧
      d.reg Off.glbPourHi = (s.dev.clk.pour >>> 32).setWidth 32 ∧ d.reg Off.glbPourCyc = BitVec.ofNat 32 s.dev.clk.cyc.val) ∧
  (∀ (s : State) (src : Source) (off : Nat), s.dev.canAccess src off = true → (off = Off.glbPourHi ∨ off = Off.glbPourCyc) →
    Completes (.rcRead src off 15) s fun d => d.out.head? = some (.word src (s.dev.reg off &&& beMask 15)) ∧
      d.reg Off.glbPourHi = s.dev.reg Off.glbPourHi ∧ d.reg Off.glbPourCyc = s.dev.reg Off.glbPourCyc) ∧
  State.reset.dev.reg Off.glbPourHi = 0 ∧ State.reset.dev.reg Off.glbPourCyc = 0

/-- A KEY write that is not the complement, or that finds no pair armed, sets GLB_KEYFAIL and changes nothing else -/
def Obligations.WrongPairsChangeNothingButKeyfail : Prop :=
  (∀ (s : State) (src : Source) (key : Word) (a : Armed), s.dev.canAccess src Off.glbSealCtl = true → s.dev.armedBy src = some a → a.off = Off.glbSealCtl → a.at_.cyclesTo s.dev.stamp ≤ 256 → key ≠ ~~~a.value →
    Completes (.glbSealCtlOff src key) s fun d => d.reg Off.glbKeyfail = keyfailWord 1 Off.glbSealCtl ∧ d.armedBy src = none ∧ d.reg Off.glbSealCtl = s.dev.reg Off.glbSealCtl ∧ MediaKept d s.dev ∧ d.fuses = s.dev.fuses ∧ d.can = s.dev.can) ∧
  (∀ (s : State) (src : Source) (key : Word), s.dev.canAccess src Off.glbSealCtl = true → s.dev.armedBy src = none →
    Completes (.glbSealCtlOff src key) s fun d => d.reg Off.glbKeyfail = keyfailWord 2 Off.glbSealCtl ∧ d.reg Off.glbSealCtl = s.dev.reg Off.glbSealCtl ∧ MediaKept d s.dev ∧ d.fuses = s.dev.fuses ∧ d.can = s.dev.can ∧ d.acc = s.dev.acc) ∧
  (∀ (s : State) (src : Source) (key : Word) (a : Armed), s.dev.canAccess src Off.glbSealCtl = true → s.dev.armedBy src = some a → a.off = Off.glbSealCtl → a.at_.cyclesTo s.dev.stamp ≤ 256 → key ≠ ~~~a.value →
    Completes (.glbSealCtlEnforce src key) s fun d => d.reg Off.glbKeyfail = keyfailWord 1 Off.glbSealCtl ∧ d.armedBy src = none ∧ d.reg Off.glbSealCtl = s.dev.reg Off.glbSealCtl ∧ MediaKept d s.dev ∧ d.fuses = s.dev.fuses ∧ d.can = s.dev.can) ∧
  (∀ (s : State) (src : Source) (key : Word), s.dev.canAccess src Off.glbSealCtl = true → s.dev.armedBy src = none →
    Completes (.glbSealCtlEnforce src key) s fun d => d.reg Off.glbKeyfail = keyfailWord 2 Off.glbSealCtl ∧ d.reg Off.glbSealCtl = s.dev.reg Off.glbSealCtl ∧ MediaKept d s.dev ∧ d.fuses = s.dev.fuses ∧ d.can = s.dev.can ∧ d.acc = s.dev.acc) ∧
  (∀ (s : State) (src : Source) (key : Word) (a : Armed), s.dev.canAccess src Off.glbSealCtl = true → s.dev.armedBy src = some a → a.off = Off.glbSealCtl → a.at_.cyclesTo s.dev.stamp ≤ 256 → key ≠ ~~~a.value →
    Completes (.glbSealCtlReport src key) s fun d => d.reg Off.glbKeyfail = keyfailWord 1 Off.glbSealCtl ∧ d.armedBy src = none ∧ d.reg Off.glbSealCtl = s.dev.reg Off.glbSealCtl ∧ MediaKept d s.dev ∧ d.fuses = s.dev.fuses ∧ d.can = s.dev.can) ∧
  (∀ (s : State) (src : Source) (key : Word), s.dev.canAccess src Off.glbSealCtl = true → s.dev.armedBy src = none →
    Completes (.glbSealCtlReport src key) s fun d => d.reg Off.glbKeyfail = keyfailWord 2 Off.glbSealCtl ∧ d.reg Off.glbSealCtl = s.dev.reg Off.glbSealCtl ∧ MediaKept d s.dev ∧ d.fuses = s.dev.fuses ∧ d.can = s.dev.can ∧ d.acc = s.dev.acc) ∧
  (∀ (s : State) (src : Source) (key : Word) (a : Armed), s.dev.canAccess src Off.glbLcAdv = true → s.dev.armedBy src = some a → a.off = Off.glbLcAdv → a.at_.cyclesTo s.dev.stamp ≤ 256 → key ≠ ~~~a.value →
    Completes (.glbLcAdv src key) s fun d => d.reg Off.glbKeyfail = keyfailWord 1 Off.glbLcAdv ∧ d.armedBy src = none ∧ d.reg Off.glbLcAdv = s.dev.reg Off.glbLcAdv ∧ MediaKept d s.dev ∧ d.fuses = s.dev.fuses ∧ d.can = s.dev.can) ∧
  (∀ (s : State) (src : Source) (key : Word), s.dev.canAccess src Off.glbLcAdv = true → s.dev.armedBy src = none →
    Completes (.glbLcAdv src key) s fun d => d.reg Off.glbKeyfail = keyfailWord 2 Off.glbLcAdv ∧ d.reg Off.glbLcAdv = s.dev.reg Off.glbLcAdv ∧ MediaKept d s.dev ∧ d.fuses = s.dev.fuses ∧ d.can = s.dev.can ∧ d.acc = s.dev.acc) ∧
  (∀ (s : State) (src : Source) (key : Word) (a : Armed), s.dev.canAccess src Off.rasFuseLo = true → s.dev.armedBy src = some a → a.off = Off.rasFuseLo → a.at_.cyclesTo s.dev.stamp ≤ 256 → key ≠ ~~~a.value →
    Completes (.rasFuseLo src key) s fun d => d.reg Off.glbKeyfail = keyfailWord 1 Off.rasFuseLo ∧ d.armedBy src = none ∧ d.reg Off.rasFuseLo = s.dev.reg Off.rasFuseLo ∧ MediaKept d s.dev ∧ d.fuses = s.dev.fuses ∧ d.can = s.dev.can) ∧
  (∀ (s : State) (src : Source) (key : Word), s.dev.canAccess src Off.rasFuseLo = true → s.dev.armedBy src = none →
    Completes (.rasFuseLo src key) s fun d => d.reg Off.glbKeyfail = keyfailWord 2 Off.rasFuseLo ∧ d.reg Off.rasFuseLo = s.dev.reg Off.rasFuseLo ∧ MediaKept d s.dev ∧ d.fuses = s.dev.fuses ∧ d.can = s.dev.can ∧ d.acc = s.dev.acc) ∧
  (∀ (s : State) (src : Source) (key : Word) (a : Armed), s.dev.canAccess src Off.inlOverride = true → s.dev.armedBy src = some a → a.off = Off.inlOverride → a.at_.cyclesTo s.dev.stamp ≤ 256 → key ≠ ~~~a.value →
    Completes (.inlOverrideOff src key) s fun d => d.reg Off.glbKeyfail = keyfailWord 1 Off.inlOverride ∧ d.armedBy src = none ∧ d.reg Off.inlOverride = s.dev.reg Off.inlOverride ∧ MediaKept d s.dev ∧ d.fuses = s.dev.fuses ∧ d.can = s.dev.can) ∧
  (∀ (s : State) (src : Source) (key : Word), s.dev.canAccess src Off.inlOverride = true → s.dev.armedBy src = none →
    Completes (.inlOverrideOff src key) s fun d => d.reg Off.glbKeyfail = keyfailWord 2 Off.inlOverride ∧ d.reg Off.inlOverride = s.dev.reg Off.inlOverride ∧ MediaKept d s.dev ∧ d.fuses = s.dev.fuses ∧ d.can = s.dev.can ∧ d.acc = s.dev.acc) ∧
  (∀ (s : State) (src : Source) (key : Word) (a : Armed), s.dev.canAccess src Off.inlOverride = true → s.dev.armedBy src = some a → a.off = Off.inlOverride → a.at_.cyclesTo s.dev.stamp ≤ 256 → key ≠ ~~~a.value →
    Completes (.inlOverrideOn src key) s fun d => d.reg Off.glbKeyfail = keyfailWord 1 Off.inlOverride ∧ d.armedBy src = none ∧ d.reg Off.inlOverride = s.dev.reg Off.inlOverride ∧ MediaKept d s.dev ∧ d.fuses = s.dev.fuses ∧ d.can = s.dev.can) ∧
  (∀ (s : State) (src : Source) (key : Word), s.dev.canAccess src Off.inlOverride = true → s.dev.armedBy src = none →
    Completes (.inlOverrideOn src key) s fun d => d.reg Off.glbKeyfail = keyfailWord 2 Off.inlOverride ∧ d.reg Off.inlOverride = s.dev.reg Off.inlOverride ∧ MediaKept d s.dev ∧ d.fuses = s.dev.fuses ∧ d.can = s.dev.can ∧ d.acc = s.dev.acc) ∧
  (∀ (s : State) (src : Source) (key : Word) (a : Armed), s.dev.canAccess src Off.inlOverride = true → s.dev.armedBy src = some a → a.off = Off.inlOverride → a.at_.cyclesTo s.dev.stamp ≤ 256 → key ≠ ~~~a.value →
    Completes (.inlOverrideModel src key) s fun d => d.reg Off.glbKeyfail = keyfailWord 1 Off.inlOverride ∧ d.armedBy src = none ∧ d.reg Off.inlOverride = s.dev.reg Off.inlOverride ∧ MediaKept d s.dev ∧ d.fuses = s.dev.fuses ∧ d.can = s.dev.can) ∧
  (∀ (s : State) (src : Source) (key : Word), s.dev.canAccess src Off.inlOverride = true → s.dev.armedBy src = none →
    Completes (.inlOverrideModel src key) s fun d => d.reg Off.glbKeyfail = keyfailWord 2 Off.inlOverride ∧ d.reg Off.inlOverride = s.dev.reg Off.inlOverride ∧ MediaKept d s.dev ∧ d.fuses = s.dev.fuses ∧ d.can = s.dev.can ∧ d.acc = s.dev.acc) ∧
  (∀ (s : State) (src : Source) (key : Word) (a : Armed), s.dev.canAccess src Off.inlClear = true → s.dev.armedBy src = some a → a.off = Off.inlClear → a.at_.cyclesTo s.dev.stamp ≤ 256 → key ≠ ~~~a.value →
    Completes (.inlClear src key) s fun d => d.reg Off.glbKeyfail = keyfailWord 1 Off.inlClear ∧ d.armedBy src = none ∧ d.reg Off.inlClear = s.dev.reg Off.inlClear ∧ MediaKept d s.dev ∧ d.fuses = s.dev.fuses ∧ d.can = s.dev.can) ∧
  (∀ (s : State) (src : Source) (key : Word), s.dev.canAccess src Off.inlClear = true → s.dev.armedBy src = none →
    Completes (.inlClear src key) s fun d => d.reg Off.glbKeyfail = keyfailWord 2 Off.inlClear ∧ d.reg Off.inlClear = s.dev.reg Off.inlClear ∧ MediaKept d s.dev ∧ d.fuses = s.dev.fuses ∧ d.can = s.dev.can ∧ d.acc = s.dev.acc) ∧
  (∀ (s : State) (src : Source) (key : Word) (a : Armed), s.dev.canAccess src Off.canErase = true → s.dev.armedBy src = some a → a.off = Off.canErase → a.at_.cyclesTo s.dev.stamp ≤ 256 → key ≠ ~~~a.value →
    Completes (.canErase src key) s fun d => d.reg Off.glbKeyfail = keyfailWord 1 Off.canErase ∧ d.armedBy src = none ∧ d.reg Off.canErase = s.dev.reg Off.canErase ∧ MediaKept d s.dev ∧ d.fuses = s.dev.fuses ∧ d.can = s.dev.can) ∧
  (∀ (s : State) (src : Source) (key : Word), s.dev.canAccess src Off.canErase = true → s.dev.armedBy src = none →
    Completes (.canErase src key) s fun d => d.reg Off.glbKeyfail = keyfailWord 2 Off.canErase ∧ d.reg Off.canErase = s.dev.reg Off.canErase ∧ MediaKept d s.dev ∧ d.fuses = s.dev.fuses ∧ d.can = s.dev.can ∧ d.acc = s.dev.acc)
end

