-- ==== Sys2Proof/Laws/Sparse.lean ====
section
/-! SUPPORT. Sys2Proof/Laws/Sparse.lean: what a table of `Sparse` reads after each operation, that every operation keeps
its canonical form, and what the bit-field helpers read after a write. -/

namespace Sys2Proof.Machine

section Tables
variable {α : Type}

@[simp] theorem Sparse.get_nil (d : α) (k : Nat) : Sparse.get d [] k = d := rfl

theorem Sparse.get_erase_same (d : α) (m : Sparse α) (k : Nat) : Sparse.get d (Sparse.erase m k) k = d := by
  induction m with
  | nil => rfl
  | cons e r ih =>
    obtain ⟨k', v⟩ := e
    by_cases h : k = k'
    · simp [Sparse.erase, h] at ih ⊢; exact ih
    · simp [Sparse.erase, Sparse.get, h, ih]

theorem Sparse.get_erase_ne (d : α) (m : Sparse α) {k j : Nat} (h : j ≠ k) :
    Sparse.get d (Sparse.erase m k) j = Sparse.get d m j := by
  induction m with
  | nil => rfl
  | cons e r ih =>
    obtain ⟨k', v⟩ := e
    by_cases hk : k = k'
    · subst hk; simp [Sparse.erase, Sparse.get, h, ih]
    · simp only [Sparse.erase, hk, if_false, Sparse.get]; rw [ih]

theorem Sparse.get_insert_same (d : α) (m : Sparse α) (k : Nat) (v : α) :
    Sparse.get d (Sparse.insert m k v) k = v := by
  induction m with
  | nil => simp [Sparse.insert, Sparse.get]
  | cons e r ih =>
    obtain ⟨k', v'⟩ := e
    simp only [Sparse.insert]
    split
    · simp [Sparse.get]
    · split
      · simp [Sparse.get]
      · rename_i h; simp [Sparse.get, h, ih]

theorem Sparse.get_insert_ne (d : α) (m : Sparse α) {k j : Nat} (v : α) (h : j ≠ k) :
    Sparse.get d (Sparse.insert m k v) j = Sparse.get d m j := by
  induction m with
  | nil => simp [Sparse.insert, Sparse.get, h]
  | cons e r ih =>
    obtain ⟨k', v'⟩ := e
    simp only [Sparse.insert]
    split
    · simp [Sparse.get, h]
    · split
      · rename_i hk; subst hk; simp [Sparse.get, h]
      · simp only [Sparse.get]; rw [ih]

/-- A written key reads what was written, whatever default the table has. -/
theorem Sparse.get_put_same [DecidableEq α] (d : α) (m : Sparse α) (k : Nat) (v : α) :
    Sparse.get d (Sparse.put d m k v) k = v := by
  unfold Sparse.put
  split
  · rename_i h; rw [Sparse.get_erase_same, h]
  · exact Sparse.get_insert_same d m k v

/-- A write leaves every other key alone, also one read under another default. -/
theorem Sparse.get_put_ne [DecidableEq α] (d d' : α) (m : Sparse α) {k j : Nat} (v : α) (h : j ≠ k) :
    Sparse.get d' (Sparse.put d m k v) j = Sparse.get d' m j := by
  unfold Sparse.put
  split
  · exact Sparse.get_erase_ne d' m h
  · exact Sparse.get_insert_ne d' m v h

/-! ### The canonical form -/

/-- `k` lies below every key of the table. -/
def Sparse.below (k : Nat) (m : Sparse α) : Prop := ∀ e ∈ m, k < e.1

theorem Sparse.wf_cons [DecidableEq α] (d : α) (k : Nat) (v : α) (r : Sparse α) :
    Sparse.wf d ((k, v) :: r) = true ↔ v ≠ d ∧ Sparse.below k r ∧ Sparse.wf d r = true := by
  induction r generalizing k v with
  | nil => simp [Sparse.wf, Sparse.below]
  | cons e r ih =>
    obtain ⟨k', v'⟩ := e
    constructor
    · intro h
      simp only [Sparse.wf, Bool.and_eq_true, decide_eq_true_eq] at h
      obtain ⟨⟨hv, hk⟩, hr⟩ := h
      refine ⟨hv, ?_, hr⟩
      intro x hx
      cases hx with
      | head => exact hk
      | tail _ hx => exact Nat.lt_trans hk (((ih k' v').mp hr).2.1 x hx)
    · rintro ⟨hv, hb, hr⟩
      simp only [Sparse.wf, Bool.and_eq_true, decide_eq_true_eq]
      exact ⟨⟨hv, hb (k', v') (List.mem_cons_self ..)⟩, hr⟩

theorem Sparse.below_erase (k j : Nat) (m : Sparse α) (h : Sparse.below k m) : Sparse.below k (Sparse.erase m j) := by
  induction m with
  | nil => exact h
  | cons e r ih =>
    obtain ⟨k', v⟩ := e
    have hr : Sparse.below k (Sparse.erase r j) := ih fun x hx => h x (List.mem_cons_of_mem _ hx)
    by_cases hk : j = k'
    · simpa [Sparse.erase, hk] using (hk ▸ hr)
    · simp only [Sparse.erase, hk, if_false]
      intro x hx
      cases hx with
      | head => exact h _ (List.mem_cons_self ..)
      | tail _ hx => exact hr x hx

theorem Sparse.wf_erase [DecidableEq α] (d : α) (m : Sparse α) (j : Nat) (h : Sparse.wf d m = true) :
    Sparse.wf d (Sparse.erase m j) = true := by
  induction m with
  | nil => exact h
  | cons e r ih =>
    obtain ⟨k', v⟩ := e
    obtain ⟨hv, hb, hr⟩ := (Sparse.wf_cons d k' v r).mp h
    by_cases hk : j = k'
    · simpa [Sparse.erase, hk] using (hk ▸ ih hr)
    · simp only [Sparse.erase, hk, if_false]
      exact (Sparse.wf_cons d k' v _).mpr ⟨hv, Sparse.below_erase k' j r hb, ih hr⟩

theorem Sparse.below_insert (k j : Nat) (v : α) (m : Sparse α) (h : Sparse.below k m) (hj : k < j) :
    Sparse.below k (Sparse.insert m j v) := by
  induction m with
  | nil => intro x hx; simp [Sparse.insert] at hx; subst hx; exact hj
  | cons e r ih =>
    obtain ⟨k', v'⟩ := e
    have hr : Sparse.below k r := fun x hx => h x (List.mem_cons_of_mem _ hx)
    have hk := h (k', v') (List.mem_cons_self ..)
    simp only [Sparse.insert]
    split
    · intro x hx
      cases hx with
      | head => exact hj
      | tail _ hx => exact h x hx
    · split
      · intro x hx
        cases hx with
        | head => exact hj
        | tail _ hx => exact hr x hx
      · intro x hx
        cases hx with
        | head => exact hk
        | tail _ hx => exact ih hr x hx

theorem Sparse.wf_insert [DecidableEq α] (d : α) (m : Sparse α) (j : Nat) (v : α) (hv : v ≠ d)
    (h : Sparse.wf d m = true) : Sparse.wf d (Sparse.insert m j v) = true := by
  induction m with
  | nil => simp [Sparse.insert, Sparse.wf, hv]
  | cons e r ih =>
    obtain ⟨k', v'⟩ := e
    obtain ⟨hv', hb, hr⟩ := (Sparse.wf_cons d k' v' r).mp h
    simp only [Sparse.insert]
    split
    · rename_i hlt
      refine (Sparse.wf_cons d j v _).mpr ⟨hv, ?_, h⟩
      intro x hx
      cases hx with
      | head => exact hlt
      | tail _ hx => exact Nat.lt_trans hlt (hb x hx)
    · split
      · rename_i heq; subst heq
        exact (Sparse.wf_cons d j v r).mpr ⟨hv, hb, hr⟩
      · rename_i h1 h2
        exact (Sparse.wf_cons d k' v' _).mpr
          ⟨hv', Sparse.below_insert k' j v r hb (Nat.lt_of_le_of_ne (Nat.not_lt.mp h1) (Ne.symm h2)), ih hr⟩

/-- A write keeps the canonical form. -/
theorem Sparse.wf_put [DecidableEq α] (d : α) (m : Sparse α) (j : Nat) (v : α) (h : Sparse.wf d m = true) :
    Sparse.wf d (Sparse.put d m j v) = true := by
  unfold Sparse.put
  split
  · exact Sparse.wf_erase d m j h
  · rename_i hv; exact Sparse.wf_insert d m j v hv h

/-- Taking entries away keeps the canonical form. -/
theorem Sparse.wf_filter [DecidableEq α] (d : α) (m : Sparse α) (p : Nat × α → Bool) (h : Sparse.wf d m = true) :
    Sparse.wf d (m.filter p) = true := by
  induction m with
  | nil => exact h
  | cons e r ih =>
    obtain ⟨k, v⟩ := e
    obtain ⟨hv, hb, hr⟩ := (Sparse.wf_cons d k v r).mp h
    by_cases hp : p (k, v) = true
    · rw [List.filter_cons_of_pos hp]
      exact (Sparse.wf_cons d k v _).mpr ⟨hv, fun x hx => hb x (List.mem_filter.mp hx).1, ih hr⟩
    · rw [List.filter_cons_of_neg hp]; exact ih hr

theorem NatSet.has_add_same (m : NatSet) (k : Nat) : (m.add k).has k = true := Sparse.get_put_same false m k true

theorem NatSet.has_add_ne (m : NatSet) {k j : Nat} (h : j ≠ k) : (m.add k).has j = m.has j :=
  Sparse.get_put_ne false false m true h

theorem NatSet.has_del_same (m : NatSet) (k : Nat) : (m.del k).has k = false := Sparse.get_put_same false m k false

theorem NatSet.has_del_ne (m : NatSet) {k j : Nat} (h : j ≠ k) : (m.del k).has j = m.has j :=
  Sparse.get_put_ne false false m false h

end Tables

/-! ### Bit fields -/

theorem testBit_fieldOf (x : Word) (lo w i : Nat) :
    (fieldOf x lo w).testBit i = (decide (i < w) && x.getLsbD (lo + i)) := by
  simp [fieldOf, Nat.testBit_mod_two_pow, Nat.testBit_shiftRight, BitVec.getLsbD]

theorem getLsbD_setFieldOf (x : Word) (lo w v i : Nat) :
    (setFieldOf x lo w v).getLsbD i =
      (decide (i < 32) && ((x.getLsbD i && !(decide (lo ≤ i) && decide (i - lo < w))) ||
        (decide (lo ≤ i) && (decide (i - lo < w) && v.testBit (i - lo))))) := by
  simp only [setFieldOf, BitVec.getLsbD_or, BitVec.getLsbD_and, BitVec.getLsbD_not, BitVec.getLsbD_ofNat,
    Nat.testBit_shiftLeft, Nat.testBit_mod_two_pow, Nat.testBit_two_pow_sub_one, ge_iff_le]
  by_cases h1 : i < 32 <;> by_cases h2 : lo ≤ i <;> by_cases h3 : i - lo < w <;> simp [h1, h2, h3]
  all_goals intro h; exact absurd (BitVec.lt_of_getLsbD h) h1

/-- A written field reads what was written, modulo its width. -/
theorem fieldOf_setFieldOf_same (x : Word) (lo w v : Nat) (h : lo + w ≤ 32) :
    fieldOf (setFieldOf x lo w v) lo w = v % 2 ^ w := by
  apply Nat.eq_of_testBit_eq
  intro i
  rw [testBit_fieldOf, getLsbD_setFieldOf, Nat.testBit_mod_two_pow]
  by_cases hi : i < w
  · have h1 : lo + i < 32 := by omega
    simp [hi, h1]
  · simp [hi]

/-- A write of one field leaves a field that shares no bit with it alone. -/
theorem fieldOf_setFieldOf_disjoint (x : Word) (lo w v lo' w' : Nat) (h : lo + w ≤ lo' ∨ lo' + w' ≤ lo) :
    fieldOf (setFieldOf x lo w v) lo' w' = fieldOf x lo' w' := by
  apply Nat.eq_of_testBit_eq
  intro i
  rw [testBit_fieldOf, testBit_fieldOf, getLsbD_setFieldOf]
  by_cases hi : i < w'
  · have hn : ¬ (lo ≤ lo' + i ∧ lo' + i - lo < w) := by omega
    by_cases h32 : lo' + i < 32
    · by_cases ha : lo ≤ lo' + i
      · have hb : ¬ (lo' + i - lo < w) := fun hb => hn ⟨ha, hb⟩
        simp [hi, h32, ha, hb]
      · simp [hi, h32, ha]
    · have : x.getLsbD (lo' + i) = false := BitVec.getLsbD_of_ge _ _ (by omega)
      simp [h32, this]
  · simp [hi]

/-! ### Vectors -/

/-- An entry reads as changed where it was changed, and as before elsewhere. -/
theorem vget_vmod {α : Type} {n : Nat} (d : α) (v : Vector α n) (i j : Nat) (f : α → α) :
    vget d (vmod v i f) j = if j = i ∧ i < n then f (vget d v i) else vget d v j := by
  unfold vmod vget
  by_cases hi : i < n
  · simp only [hi, dite_true, and_true]
    by_cases hj : j < n
    · simp only [hj, dite_true]
      by_cases h : j = i
      · subst h; simp
      · have h' : ¬ i = j := fun e => h e.symm
        simp [h, h', Vector.getElem_set]
    · have h : ¬ j = i := by omega
      simp [hj, h]
  · simp [hi]

/-- Every entry under `vmap`. -/
theorem vget_vmap {α β : Type} {n : Nat} (d : α) (e : β) (v : Vector α n) (f : α → β) (i : Nat) (h : i < n) :
    vget e (vmap v f) i = f (vget d v i) := by
  simp [vget, vmap, h]

end Sys2Proof.Machine
end

