-- ==== Sys2Proof/Laws/Memory.lean ====
section
/-! SUPPORT. Sys2Proof/Laws/Memory.lean: the byte lists of the two memories: every operation keeps their canonical form, a
byte and a line read back as written, and every other byte stays. -/

namespace Sys2Proof.Machine

/-! ### The canonical form -/

theorem Memory.wf_setByte (m : List Host.Cell) (a : Nat) (b : Byte) (h : Memory.wf m = true) :
    Memory.wf (Memory.setByte m a b) = true := Sparse.wf_put 0 m a b h

theorem Memory.wf_clear (m : List Host.Cell) (p : Nat → Bool) (h : Memory.wf m = true) :
    Memory.wf (Memory.clear m p) = true := Sparse.wf_filter 0 m _ h

/-- Writing bytes one by one, as a line is written, keeps the form. -/
theorem Memory.wf_setBytes (k : Nat) (f : Nat → Byte) (is : List Nat) (m : List Host.Cell) (h : Memory.wf m = true) :
    Memory.wf (is.foldl (fun m i => Memory.setByte m (k * 64 + i) (f i)) m) = true := by
  induction is generalizing m with
  | nil => exact h
  | cons i r ih => exact ih _ (Memory.wf_setByte m _ _ h)

theorem Memory.wf_setLine (m : List Host.Cell) (k : Nat) (l : Line) (h : Memory.wf m = true) :
    Memory.wf (Memory.setLine m k l) = true := Memory.wf_setBytes k (lineByte l) _ m h

/-- Both memories have the form after reset. -/
theorem Memory.wf_reset : Memory.wf State.reset.dev.mem.crema = true ∧ Memory.wf State.reset.dev.mem.far = true := ⟨rfl, rfl⟩

/-! ### Reading a byte -/

@[simp] theorem Memory.byte_nil (a : Nat) : Memory.byte [] a = 0 := rfl

theorem Memory.byte_setByte_same (m : List Host.Cell) (a : Nat) (b : Byte) : Memory.byte (Memory.setByte m a b) a = b :=
  Sparse.get_put_same 0 m a b

theorem Memory.byte_setByte_ne (m : List Host.Cell) {a c : Nat} (b : Byte) (h : c ≠ a) :
    Memory.byte (Memory.setByte m a b) c = Memory.byte m c := Sparse.get_put_ne 0 0 m b h

/-- A byte outside the written offsets stays. -/
theorem Memory.byte_setBytes_ne (k : Nat) (f : Nat → Byte) (is : List Nat) (m : List Host.Cell) (c : Nat)
    (h : ∀ i ∈ is, c ≠ k * 64 + i) :
    Memory.byte (is.foldl (fun m i => Memory.setByte m (k * 64 + i) (f i)) m) c = Memory.byte m c := by
  induction is generalizing m with
  | nil => rfl
  | cons i r ih =>
    rw [List.foldl_cons, ih _ fun j hj => h j (List.mem_cons_of_mem _ hj)]
    exact Memory.byte_setByte_ne m _ (h i (List.mem_cons_self ..))

/-- A written byte reads back. -/
theorem Memory.byte_setBytes_same (k : Nat) (f : Nat → Byte) (is : List Nat) (m : List Host.Cell) (j : Nat)
    (hj : j ∈ is) (hn : is.Nodup) :
    Memory.byte (is.foldl (fun m i => Memory.setByte m (k * 64 + i) (f i)) m) (k * 64 + j) = f j := by
  induction is generalizing m with
  | nil => cases hj
  | cons i r ih =>
    rw [List.foldl_cons]
    rw [List.nodup_cons] at hn
    by_cases h : j ∈ r
    · exact ih _ h hn.2
    · have e : j = i := by simpa [h] using hj
      have away : ∀ x ∈ r, k * 64 + j ≠ k * 64 + x := by
        intro x hx e'
        have : j = x := by omega
        exact h (this ▸ hx)
      rw [Memory.byte_setBytes_ne k f r _ _ away, e]
      exact Memory.byte_setByte_same m _ _

theorem Memory.byte_setLine_same (m : List Host.Cell) (k : Nat) (l : Line) (j : Nat) (h : j < 64) :
    Memory.byte (Memory.setLine m k l) (k * 64 + j) = lineByte l j :=
  Memory.byte_setBytes_same k (lineByte l) _ m j (List.mem_range.2 h) (List.nodup_range ..)

theorem Memory.byte_setLine_ne (m : List Host.Cell) (k : Nat) (l : Line) (c : Nat) (h : c / 64 ≠ k) :
    Memory.byte (Memory.setLine m k l) c = Memory.byte m c :=
  Memory.byte_setBytes_ne k (lineByte l) _ m c fun i hi e => h (by have := List.mem_range.1 hi; omega)

theorem Memory.byte_clear (m : List Host.Cell) (p : Nat → Bool) (a : Nat) :
    Memory.byte (Memory.clear m p) a = if p (a / 64) then 0 else Memory.byte m a := by
  unfold Memory.byte Memory.clear
  induction m with
  | nil => simp
  | cons e r ih =>
    obtain ⟨k, v⟩ := e
    by_cases hk : p (k / 64) = true
    · by_cases ha : a = k
      · subst ha; simp_all
      · simp_all [Sparse.get]
    · by_cases ha : a = k
      · subst ha; simp_all [Sparse.get]
      · simp_all [Sparse.get]

/-! ### Reading a line -/

theorem Memory.line_congr (m m' : List Host.Cell) (k : Nat)
    (h : ∀ i, i < 64 → Memory.byte m (k * 64 + i) = Memory.byte m' (k * 64 + i)) : Memory.line m k = Memory.line m' k := by
  unfold Memory.line
  have go : ∀ (is : List Nat) (acc : Line), (∀ i ∈ is, i < 64) →
      is.foldl (fun acc i => acc ||| ((Memory.byte m (k * 64 + i)).setWidth 512) <<< (8 * i)) acc =
        is.foldl (fun acc i => acc ||| ((Memory.byte m' (k * 64 + i)).setWidth 512) <<< (8 * i)) acc := by
    intro is
    induction is with
    | nil => intro acc _; rfl
    | cons i r ih =>
      intro acc hi
      rw [List.foldl_cons, List.foldl_cons, h i (hi i (List.mem_cons_self ..))]
      exact ih _ fun j hj => hi j (List.mem_cons_of_mem _ hj)
  exact go _ _ fun i hi => List.mem_range.1 hi

theorem Memory.line_setLine_ne (m : List Host.Cell) {k k' : Nat} (l : Line) (h : k' ≠ k) :
    Memory.line (Memory.setLine m k l) k' = Memory.line m k' :=
  Memory.line_congr _ _ _ fun i hi => Memory.byte_setLine_ne m k l _ (by omega)

/-- The bits of bytes put side by side. -/
theorem getLsbD_bytes (f : Nat → Byte) (n j : Nat) (hn : n ≤ 64) :
    ((List.range n).foldl (fun (acc : Line) i => acc ||| ((f i).setWidth 512) <<< (8 * i)) 0).getLsbD j =
      (decide (j < 8 * n) && (f (j / 8)).getLsbD (j % 8)) := by
  induction n with
  | zero => simp
  | succ n ih =>
    rw [List.range_succ, List.foldl_append, List.foldl_cons, List.foldl_nil, BitVec.getLsbD_or, ih (by omega)]
    simp only [BitVec.getLsbD_shiftLeft, BitVec.getLsbD_setWidth]
    by_cases h1 : j < 8 * n
    · simp [h1, show j < 8 * (n + 1) by omega]
    · by_cases h2 : j < 8 * (n + 1)
      · have e1 : j / 8 = n := by omega
        have e2 : j - 8 * n = j % 8 := by omega
        simp [h1, h2, e1, e2, show j < 512 by omega, show j % 8 < 512 by omega]
      · have h3 : ¬ (j - 8 * n < 8) := by omega
        simp [h1, h2, BitVec.getLsbD_of_ge (f n) (j - 8 * n) (by omega)]

/-- A line reads back as it was written. -/
theorem Memory.line_setLine_same (m : List Host.Cell) (k : Nat) (l : Line) : Memory.line (Memory.setLine m k l) k = l := by
  have e : Memory.line (Memory.setLine m k l) k =
      (List.range 64).foldl (fun (acc : Line) i => acc ||| ((lineByte l i).setWidth 512) <<< (8 * i)) 0 := by
    unfold Memory.line
    have go : ∀ (is : List Nat) (acc : Line), (∀ i ∈ is, i < 64) →
        is.foldl (fun acc i => acc ||| ((Memory.byte (Memory.setLine m k l) (k * 64 + i)).setWidth 512) <<< (8 * i)) acc =
          is.foldl (fun acc i => acc ||| ((lineByte l i).setWidth 512) <<< (8 * i)) acc := by
      intro is
      induction is with
      | nil => intro acc _; rfl
      | cons i r ih =>
        intro acc hi
        rw [List.foldl_cons, List.foldl_cons, Memory.byte_setLine_same m k l i (hi i (List.mem_cons_self ..))]
        exact ih _ fun j hj => hi j (List.mem_cons_of_mem _ hj)
    exact go _ _ fun i hi => List.mem_range.1 hi
  rw [e]
  apply BitVec.eq_of_getLsbD_eq
  intro j hj
  rw [getLsbD_bytes (lineByte l) 64 j (by omega)]
  simp only [lineByte, BitVec.getLsbD_setWidth, BitVec.getLsbD_ushiftRight]
  simp [show j < 8 * 64 by omega, show j % 8 < 8 by omega, show 8 * (j / 8) + j % 8 = j by omega]

end Sys2Proof.Machine
end

