-- ==== Sys2Proof/Laws/State.lean ====
section
/-! SUPPORT. Sys2Proof/Laws/State.lean: for each shared operation on the device, which fields it leaves alone: one lemma
per field, and before them one shape lemma that says which fields it can change. Then what registers read after writes. -/

namespace Sys2Proof.Machine

variable (d : Dev)

/-! ### Shapes: everything an operation can do to the device -/

theorem Dev.countAs_shape (n k : Nat) (c : Option (BitVec 16)) (t : Option TenantId) (l : Option Cls) :
    ∃ p, d.countAs n k c t l = { d with pmu := p } := by
  unfold Dev.countAs; split
  · exact ⟨d.pmu, rfl⟩
  · exact ⟨_, rfl⟩

theorem Dev.alert_shape (b : Nat) : ∃ r, d.alert b = { d with regs := r } := by
  unfold Dev.alert; simp only []; split <;> exact ⟨_, rfl⟩

theorem Dev.issueLoc_shape (l : BitVec 64) : ∃ i, d.issueLoc l = { d with issued := i } := by
  unfold Dev.issueLoc; split
  · exact ⟨d.issued, rfl⟩
  · exact ⟨_, rfl⟩

theorem Dev.modLd_shape (p : PortId) (ld : Nat) (f : LdState → LdState) : ∃ l, d.modLd p ld f = { d with lds := l } := by
  unfold Dev.modLd; split
  · exact ⟨_, rfl⟩
  · exact ⟨d.lds, rfl⟩

theorem Dev.bump_shape (f : Fld) (n : Nat) : ∃ r, d.bump f n = { d with regs := r } := ⟨_, rfl⟩

/-- `b` is `a` but for registers, telemetry, the event ring with its merge buffers, and the locators issued. -/
def Dev.logsOf (a b : Dev) : Prop :=
  ∃ r p q i m w, b = { a with regs := r, pmu := p, ras := q, issued := i, merge := m, arrayPoison := w }

theorem Dev.logsOf_refl : d.logsOf d := ⟨_, _, _, _, _, _, rfl⟩

theorem Dev.logsOf_trans {a b c : Dev} (h : a.logsOf b) (k : b.logsOf c) : a.logsOf c := by
  obtain ⟨_, _, _, _, _, _, rfl⟩ := h
  obtain ⟨r, p, q, i, m, w, rfl⟩ := k
  exact ⟨r, p, q, i, m, w, rfl⟩

theorem Dev.logsOf_countAs (n k : Nat) (c : Option (BitVec 16)) (t : Option TenantId) (l : Option Cls) :
    d.logsOf (d.countAs n k c t l) := by
  obtain ⟨p, h⟩ := Dev.countAs_shape d n k c t l; rw [h]; exact ⟨_, _, _, _, _, _, rfl⟩

theorem Dev.logsOf_alert (b : Nat) : d.logsOf (d.alert b) := by
  obtain ⟨r, h⟩ := Dev.alert_shape d b; rw [h]; exact ⟨_, _, _, _, _, _, rfl⟩

theorem Dev.logsOf_issueLoc (l : BitVec 64) : d.logsOf (d.issueLoc l) := by
  unfold Dev.issueLoc; split
  · exact Dev.logsOf_refl d
  · exact ⟨_, _, _, _, _, _, rfl⟩

theorem Dev.logsOf_ras (q : Ras) : d.logsOf { d with ras := q } := ⟨_, _, q, _, _, _, rfl⟩

theorem Dev.logsOf_pushRec (x : EventRec) : d.logsOf (d.pushRec x) := by
  have key : d.logsOf { d.wordWrite .eventRing (ringWordOf { x with loss := x.loss || d.ras.lossFlag, rseq := d.ras.written }) with
      ras := { (d.wordWrite .eventRing (ringWordOf { x with loss := x.loss || d.ras.lossFlag, rseq := d.ras.written })).ras with
        recs := ({ x with loss := x.loss || d.ras.lossFlag, rseq := d.ras.written } :: d.ras.recs).take 512,
        written := d.ras.written + 1, lossFlag := false } } := ⟨_, _, _, _, _, _, rfl⟩
  unfold Dev.pushRec; simp only []; split
  · exact Dev.logsOf_trans key (Dev.logsOf_alert _ _)
  · exact key

theorem Dev.logsOf_writeRec (x : EventRec) : d.logsOf (d.writeRec x) := by
  have first : d.logsOf (if 0 < d.ras.dropped ∧ 64 < d.ras.freeEntries then
      (({ d with ras := { d.ras with dropped := 0 } } : Dev).count 0x1D3 1).pushRec
        ((({ d with ras := { d.ras with dropped := 0 } } : Dev).count 0x1D3 1).recordOf { num := 0x1D3, detail := [word1 d.ras.dropped] })
      else d) := by
    split
    · exact Dev.logsOf_trans (Dev.logsOf_trans (Dev.logsOf_ras d _) (Dev.logsOf_countAs _ _ _ _ _ _)) (Dev.logsOf_pushRec _ _)
    · exact Dev.logsOf_refl d
  have second : ∀ a : Dev, a.logsOf (if (if 2 ≤ x.sev then 0 < a.ras.freeEntries else 64 < a.ras.freeEntries) then a.pushRec x
      else (Dev.bump { a with ras := { a.ras with dropped := a.ras.dropped + 1, lossFlag := true } } Fld.rasRingSts_dropped 1).alert 4) := by
    intro a
    by_cases room : (if 2 ≤ x.sev then 0 < a.ras.freeEntries else 64 < a.ras.freeEntries)
    · rw [if_pos room]; exact Dev.logsOf_pushRec a x
    · rw [if_neg room]
      exact Dev.logsOf_trans (Dev.logsOf_trans (Dev.logsOf_ras a _) ⟨_, _, _, _, _, _, rfl⟩) (Dev.logsOf_alert _ _)
  exact Dev.logsOf_trans first (second _)

theorem Dev.raise_shape (e : Ev) : d.logsOf (d.raise e) := by
  have first : d.logsOf (if e.num = 0x102 then ((d.issueLoc e.loc).countAs e.num 1 e.chid e.tenant e.cls).alert 7
      else (d.issueLoc e.loc).countAs e.num 1 e.chid e.tenant e.cls) := by
    split
    · exact Dev.logsOf_trans (Dev.logsOf_trans (Dev.logsOf_issueLoc _ _) (Dev.logsOf_countAs _ _ _ _ _ _)) (Dev.logsOf_alert _ _)
    · exact Dev.logsOf_trans (Dev.logsOf_issueLoc _ _) (Dev.logsOf_countAs _ _ _ _ _ _)
  have second : ∀ a : Dev, a.logsOf (match a.ras.recs.find? (fun r => sameEvent r a.clk.pour e) with
      | some r => Dev.mergeWrite { a with ras := { a.ras with recs := bumpRepeat a.clk.pour e a.ras.recs } } .eventRing (ringWordOf r) 0x30
      | none => a.writeRec (a.recordOf e)) := by
    intro a; split
    · exact ⟨_, _, _, _, _, _, rfl⟩
    · exact Dev.logsOf_writeRec _ _
  exact Dev.logsOf_trans first (second _)

/-- What `Dev.enter` leaves before it records the change along an edge. -/
def Dev.entered (m : Mode) : Dev :=
  let d1 := Dev.setFld { d with mode := m, due := { d.due with modeAt := some d.now, memActive := d.due.memActive || m == Mode.await } }
    Fld.glbModeSts_prevMode d.mode.code
  let d2 := if d.mode.drains && !m.drains then d1.setFlag Fld.glbModeSts_drained false else d1
  if m = .degraded then d2.alert 1 else d2

theorem Dev.enter_eq (m : Mode) (c k : Nat) (h : modeEdge d.mode m = true) :
    d.enter m c k = (d.entered m).raiseN 0x100 [word1 d.mode.code, word1 m.code, word1 c, word1 k] := by
  unfold Dev.enter; rw [if_pos h]; rfl

theorem Dev.entered_shape (m : Mode) : ∃ r,
    d.entered m = { d with
      mode := m, due := { d.due with modeAt := some d.now, memActive := d.due.memActive || m == Mode.await }, regs := r } := by
  unfold Dev.entered; simp only []
  split <;> split
  all_goals first
    | exact ⟨_, rfl⟩
    | (obtain ⟨r, h⟩ := Dev.alert_shape _ 1; exact ⟨r, h⟩)

theorem Dev.enter_shape (m : Mode) (c k : Nat) :
    ∃ m' u r p q i g w, d.enter m c k =
      { d with mode := m', due := u, regs := r, pmu := p, ras := q, issued := i, merge := g, arrayPoison := w } := by
  by_cases h : modeEdge d.mode m = true
  · rw [Dev.enter_eq d m c k h]
    obtain ⟨r, hr⟩ := Dev.entered_shape d m
    obtain ⟨r', p, q, i, g, w, e⟩ := Dev.raise_shape (d.entered m)
      { num := 0x100, detail := [word1 d.mode.code, word1 m.code, word1 c, word1 k] }
    exact ⟨m, _, r', p, q, i, g, w, by rw [Dev.raiseN, e, hr]⟩
  · unfold Dev.enter; rw [if_neg h]; exact ⟨_, _, _, _, _, _, _, _, rfl⟩

/-- A mode change along an edge of R38 reaches the mode; one off the edges does nothing. -/
theorem Dev.enter_mode (m : Mode) (c k : Nat) : (d.enter m c k).mode = if modeEdge d.mode m then m else d.mode := by
  by_cases h : modeEdge d.mode m = true
  · rw [Dev.enter_eq d m c k h, if_pos h]
    obtain ⟨r, hr⟩ := Dev.entered_shape d m
    obtain ⟨r', p, q, i, g, w, e⟩ := Dev.raise_shape (d.entered m)
      { num := 0x100, detail := [word1 d.mode.code, word1 m.code, word1 c, word1 k] }
    rw [Dev.raiseN, e, hr]
  · unfold Dev.enter; rw [if_neg h, if_neg h]

/-! ### What each operation leaves alone -/

@[simp] theorem Dev.setReg_part (o : Nat) (w : Word) : (d.setReg o w).part = d.part := rfl
@[simp] theorem Dev.setReg_mode (o : Nat) (w : Word) : (d.setReg o w).mode = d.mode := rfl
@[simp] theorem Dev.setReg_clk (o : Nat) (w : Word) : (d.setReg o w).clk = d.clk := rfl
@[simp] theorem Dev.setReg_shadow (o : Nat) (w : Word) : (d.setReg o w).shadow = d.shadow := rfl
@[simp] theorem Dev.setReg_shown (o : Nat) (w : Word) : (d.setReg o w).shown = d.shown := rfl
@[simp] theorem Dev.setReg_acc (o : Nat) (w : Word) : (d.setReg o w).acc = d.acc := rfl
@[simp] theorem Dev.setReg_stg (o : Nat) (w : Word) : (d.setReg o w).stg = d.stg := rfl
@[simp] theorem Dev.setReg_pwr (o : Nat) (w : Word) : (d.setReg o w).pwr = d.pwr := rfl
@[simp] theorem Dev.setReg_can (o : Nat) (w : Word) : (d.setReg o w).can = d.can := rfl
@[simp] theorem Dev.setReg_fuses (o : Nat) (w : Word) : (d.setReg o w).fuses = d.fuses := rfl
@[simp] theorem Dev.setReg_sec (o : Nat) (w : Word) : (d.setReg o w).sec = d.sec := rfl
@[simp] theorem Dev.setReg_spdm (o : Nat) (w : Word) : (d.setReg o w).spdm = d.spdm := rfl
@[simp] theorem Dev.setReg_signQ (o : Nat) (w : Word) : (d.setReg o w).signQ = d.signQ := rfl
@[simp] theorem Dev.setReg_mb (o : Nat) (w : Word) : (d.setReg o w).mb = d.mb := rfl
@[simp] theorem Dev.setReg_bist (o : Nat) (w : Word) : (d.setReg o w).bist = d.bist := rfl
@[simp] theorem Dev.setReg_due (o : Nat) (w : Word) : (d.setReg o w).due = d.due := rfl
@[simp] theorem Dev.setReg_ext (o : Nat) (w : Word) : (d.setReg o w).ext = d.ext := rfl
@[simp] theorem Dev.setReg_extRetire (o : Nat) (w : Word) : (d.setReg o w).extRetire = d.extRetire := rfl
@[simp] theorem Dev.setReg_lds (o : Nat) (w : Word) : (d.setReg o w).lds = d.lds := rfl
@[simp] theorem Dev.setReg_tenants (o : Nat) (w : Word) : (d.setReg o w).tenants = d.tenants := rfl
@[simp] theorem Dev.setReg_mem (o : Nat) (w : Word) : (d.setReg o w).mem = d.mem := rfl
@[simp] theorem Dev.setReg_frames (o : Nat) (w : Word) : (d.setReg o w).frames = d.frames := rfl
@[simp] theorem Dev.setReg_crm (o : Nat) (w : Word) : (d.setReg o w).crm = d.crm := rfl
@[simp] theorem Dev.setReg_thm (o : Nat) (w : Word) : (d.setReg o w).thm = d.thm := rfl
@[simp] theorem Dev.setReg_farCh (o : Nat) (w : Word) : (d.setReg o w).farCh = d.farCh := rfl
@[simp] theorem Dev.setReg_cry (o : Nat) (w : Word) : (d.setReg o w).cry = d.cry := rfl
@[simp] theorem Dev.setReg_prs (o : Nat) (w : Word) : (d.setReg o w).prs = d.prs := rfl
@[simp] theorem Dev.setReg_home (o : Nat) (w : Word) : (d.setReg o w).home = d.home := rfl
@[simp] theorem Dev.setReg_txns (o : Nat) (w : Word) : (d.setReg o w).txns = d.txns := rfl
@[simp] theorem Dev.setReg_nextTxn (o : Nat) (w : Word) : (d.setReg o w).nextTxn = d.nextTxn := rfl
@[simp] theorem Dev.setReg_ports (o : Nat) (w : Word) : (d.setReg o w).ports = d.ports := rfl
@[simp] theorem Dev.setReg_rly (o : Nat) (w : Word) : (d.setReg o w).rly = d.rly := rfl
@[simp] theorem Dev.setReg_chain (o : Nat) (w : Word) : (d.setReg o w).chain = d.chain := rfl
@[simp] theorem Dev.setReg_noc (o : Nat) (w : Word) : (d.setReg o w).noc = d.noc := rfl
@[simp] theorem Dev.setReg_sched (o : Nat) (w : Word) : (d.setReg o w).sched = d.sched := rfl
@[simp] theorem Dev.setReg_merge (o : Nat) (w : Word) : (d.setReg o w).merge = d.merge := rfl
@[simp] theorem Dev.setReg_arrayPoison (o : Nat) (w : Word) : (d.setReg o w).arrayPoison = d.arrayPoison := rfl
@[simp] theorem Dev.setReg_issued (o : Nat) (w : Word) : (d.setReg o w).issued = d.issued := rfl
@[simp] theorem Dev.setReg_pmu (o : Nat) (w : Word) : (d.setReg o w).pmu = d.pmu := rfl
@[simp] theorem Dev.setReg_ras (o : Nat) (w : Word) : (d.setReg o w).ras = d.ras := rfl
@[simp] theorem Dev.setReg_free (o : Nat) (w : Word) : (d.setReg o w).free = d.free := rfl
@[simp] theorem Dev.setReg_out (o : Nat) (w : Word) : (d.setReg o w).out = d.out := rfl
@[simp] theorem Dev.setReg_wire (o : Nat) (w : Word) : (d.setReg o w).wire = d.wire := rfl

@[simp] theorem Dev.setFld_part (f : Fld) (v : Nat) : (d.setFld f v).part = d.part := rfl
@[simp] theorem Dev.setFld_mode (f : Fld) (v : Nat) : (d.setFld f v).mode = d.mode := rfl
@[simp] theorem Dev.setFld_clk (f : Fld) (v : Nat) : (d.setFld f v).clk = d.clk := rfl
@[simp] theorem Dev.setFld_shadow (f : Fld) (v : Nat) : (d.setFld f v).shadow = d.shadow := rfl
@[simp] theorem Dev.setFld_shown (f : Fld) (v : Nat) : (d.setFld f v).shown = d.shown := rfl
@[simp] theorem Dev.setFld_acc (f : Fld) (v : Nat) : (d.setFld f v).acc = d.acc := rfl
@[simp] theorem Dev.setFld_stg (f : Fld) (v : Nat) : (d.setFld f v).stg = d.stg := rfl
@[simp] theorem Dev.setFld_pwr (f : Fld) (v : Nat) : (d.setFld f v).pwr = d.pwr := rfl
@[simp] theorem Dev.setFld_can (f : Fld) (v : Nat) : (d.setFld f v).can = d.can := rfl
@[simp] theorem Dev.setFld_fuses (f : Fld) (v : Nat) : (d.setFld f v).fuses = d.fuses := rfl
@[simp] theorem Dev.setFld_sec (f : Fld) (v : Nat) : (d.setFld f v).sec = d.sec := rfl
@[simp] theorem Dev.setFld_spdm (f : Fld) (v : Nat) : (d.setFld f v).spdm = d.spdm := rfl
@[simp] theorem Dev.setFld_signQ (f : Fld) (v : Nat) : (d.setFld f v).signQ = d.signQ := rfl
@[simp] theorem Dev.setFld_mb (f : Fld) (v : Nat) : (d.setFld f v).mb = d.mb := rfl
@[simp] theorem Dev.setFld_bist (f : Fld) (v : Nat) : (d.setFld f v).bist = d.bist := rfl
@[simp] theorem Dev.setFld_due (f : Fld) (v : Nat) : (d.setFld f v).due = d.due := rfl
@[simp] theorem Dev.setFld_ext (f : Fld) (v : Nat) : (d.setFld f v).ext = d.ext := rfl
@[simp] theorem Dev.setFld_extRetire (f : Fld) (v : Nat) : (d.setFld f v).extRetire = d.extRetire := rfl
@[simp] theorem Dev.setFld_lds (f : Fld) (v : Nat) : (d.setFld f v).lds = d.lds := rfl
@[simp] theorem Dev.setFld_tenants (f : Fld) (v : Nat) : (d.setFld f v).tenants = d.tenants := rfl
@[simp] theorem Dev.setFld_mem (f : Fld) (v : Nat) : (d.setFld f v).mem = d.mem := rfl
@[simp] theorem Dev.setFld_frames (f : Fld) (v : Nat) : (d.setFld f v).frames = d.frames := rfl
@[simp] theorem Dev.setFld_crm (f : Fld) (v : Nat) : (d.setFld f v).crm = d.crm := rfl
@[simp] theorem Dev.setFld_thm (f : Fld) (v : Nat) : (d.setFld f v).thm = d.thm := rfl
@[simp] theorem Dev.setFld_farCh (f : Fld) (v : Nat) : (d.setFld f v).farCh = d.farCh := rfl
@[simp] theorem Dev.setFld_cry (f : Fld) (v : Nat) : (d.setFld f v).cry = d.cry := rfl
@[simp] theorem Dev.setFld_prs (f : Fld) (v : Nat) : (d.setFld f v).prs = d.prs := rfl
@[simp] theorem Dev.setFld_home (f : Fld) (v : Nat) : (d.setFld f v).home = d.home := rfl
@[simp] theorem Dev.setFld_txns (f : Fld) (v : Nat) : (d.setFld f v).txns = d.txns := rfl
@[simp] theorem Dev.setFld_nextTxn (f : Fld) (v : Nat) : (d.setFld f v).nextTxn = d.nextTxn := rfl
@[simp] theorem Dev.setFld_ports (f : Fld) (v : Nat) : (d.setFld f v).ports = d.ports := rfl
@[simp] theorem Dev.setFld_rly (f : Fld) (v : Nat) : (d.setFld f v).rly = d.rly := rfl
@[simp] theorem Dev.setFld_chain (f : Fld) (v : Nat) : (d.setFld f v).chain = d.chain := rfl
@[simp] theorem Dev.setFld_noc (f : Fld) (v : Nat) : (d.setFld f v).noc = d.noc := rfl
@[simp] theorem Dev.setFld_sched (f : Fld) (v : Nat) : (d.setFld f v).sched = d.sched := rfl
@[simp] theorem Dev.setFld_merge (f : Fld) (v : Nat) : (d.setFld f v).merge = d.merge := rfl
@[simp] theorem Dev.setFld_arrayPoison (f : Fld) (v : Nat) : (d.setFld f v).arrayPoison = d.arrayPoison := rfl
@[simp] theorem Dev.setFld_issued (f : Fld) (v : Nat) : (d.setFld f v).issued = d.issued := rfl
@[simp] theorem Dev.setFld_pmu (f : Fld) (v : Nat) : (d.setFld f v).pmu = d.pmu := rfl
@[simp] theorem Dev.setFld_ras (f : Fld) (v : Nat) : (d.setFld f v).ras = d.ras := rfl
@[simp] theorem Dev.setFld_free (f : Fld) (v : Nat) : (d.setFld f v).free = d.free := rfl
@[simp] theorem Dev.setFld_out (f : Fld) (v : Nat) : (d.setFld f v).out = d.out := rfl
@[simp] theorem Dev.setFld_wire (f : Fld) (v : Nat) : (d.setFld f v).wire = d.wire := rfl

@[simp] theorem Dev.setFlag_part (f : Fld) (b : Bool) : (d.setFlag f b).part = d.part := rfl
@[simp] theorem Dev.setFlag_mode (f : Fld) (b : Bool) : (d.setFlag f b).mode = d.mode := rfl
@[simp] theorem Dev.setFlag_clk (f : Fld) (b : Bool) : (d.setFlag f b).clk = d.clk := rfl
@[simp] theorem Dev.setFlag_shadow (f : Fld) (b : Bool) : (d.setFlag f b).shadow = d.shadow := rfl
@[simp] theorem Dev.setFlag_shown (f : Fld) (b : Bool) : (d.setFlag f b).shown = d.shown := rfl
@[simp] theorem Dev.setFlag_acc (f : Fld) (b : Bool) : (d.setFlag f b).acc = d.acc := rfl
@[simp] theorem Dev.setFlag_stg (f : Fld) (b : Bool) : (d.setFlag f b).stg = d.stg := rfl
@[simp] theorem Dev.setFlag_pwr (f : Fld) (b : Bool) : (d.setFlag f b).pwr = d.pwr := rfl
@[simp] theorem Dev.setFlag_can (f : Fld) (b : Bool) : (d.setFlag f b).can = d.can := rfl
@[simp] theorem Dev.setFlag_fuses (f : Fld) (b : Bool) : (d.setFlag f b).fuses = d.fuses := rfl
@[simp] theorem Dev.setFlag_sec (f : Fld) (b : Bool) : (d.setFlag f b).sec = d.sec := rfl
@[simp] theorem Dev.setFlag_spdm (f : Fld) (b : Bool) : (d.setFlag f b).spdm = d.spdm := rfl
@[simp] theorem Dev.setFlag_signQ (f : Fld) (b : Bool) : (d.setFlag f b).signQ = d.signQ := rfl
@[simp] theorem Dev.setFlag_mb (f : Fld) (b : Bool) : (d.setFlag f b).mb = d.mb := rfl
@[simp] theorem Dev.setFlag_bist (f : Fld) (b : Bool) : (d.setFlag f b).bist = d.bist := rfl
@[simp] theorem Dev.setFlag_due (f : Fld) (b : Bool) : (d.setFlag f b).due = d.due := rfl
@[simp] theorem Dev.setFlag_ext (f : Fld) (b : Bool) : (d.setFlag f b).ext = d.ext := rfl
@[simp] theorem Dev.setFlag_extRetire (f : Fld) (b : Bool) : (d.setFlag f b).extRetire = d.extRetire := rfl
@[simp] theorem Dev.setFlag_lds (f : Fld) (b : Bool) : (d.setFlag f b).lds = d.lds := rfl
@[simp] theorem Dev.setFlag_tenants (f : Fld) (b : Bool) : (d.setFlag f b).tenants = d.tenants := rfl
@[simp] theorem Dev.setFlag_mem (f : Fld) (b : Bool) : (d.setFlag f b).mem = d.mem := rfl
@[simp] theorem Dev.setFlag_frames (f : Fld) (b : Bool) : (d.setFlag f b).frames = d.frames := rfl
@[simp] theorem Dev.setFlag_crm (f : Fld) (b : Bool) : (d.setFlag f b).crm = d.crm := rfl
@[simp] theorem Dev.setFlag_thm (f : Fld) (b : Bool) : (d.setFlag f b).thm = d.thm := rfl
@[simp] theorem Dev.setFlag_farCh (f : Fld) (b : Bool) : (d.setFlag f b).farCh = d.farCh := rfl
@[simp] theorem Dev.setFlag_cry (f : Fld) (b : Bool) : (d.setFlag f b).cry = d.cry := rfl
@[simp] theorem Dev.setFlag_prs (f : Fld) (b : Bool) : (d.setFlag f b).prs = d.prs := rfl
@[simp] theorem Dev.setFlag_home (f : Fld) (b : Bool) : (d.setFlag f b).home = d.home := rfl
@[simp] theorem Dev.setFlag_txns (f : Fld) (b : Bool) : (d.setFlag f b).txns = d.txns := rfl
@[simp] theorem Dev.setFlag_nextTxn (f : Fld) (b : Bool) : (d.setFlag f b).nextTxn = d.nextTxn := rfl
@[simp] theorem Dev.setFlag_ports (f : Fld) (b : Bool) : (d.setFlag f b).ports = d.ports := rfl
@[simp] theorem Dev.setFlag_rly (f : Fld) (b : Bool) : (d.setFlag f b).rly = d.rly := rfl
@[simp] theorem Dev.setFlag_chain (f : Fld) (b : Bool) : (d.setFlag f b).chain = d.chain := rfl
@[simp] theorem Dev.setFlag_noc (f : Fld) (b : Bool) : (d.setFlag f b).noc = d.noc := rfl
@[simp] theorem Dev.setFlag_sched (f : Fld) (b : Bool) : (d.setFlag f b).sched = d.sched := rfl
@[simp] theorem Dev.setFlag_merge (f : Fld) (b : Bool) : (d.setFlag f b).merge = d.merge := rfl
@[simp] theorem Dev.setFlag_arrayPoison (f : Fld) (b : Bool) : (d.setFlag f b).arrayPoison = d.arrayPoison := rfl
@[simp] theorem Dev.setFlag_issued (f : Fld) (b : Bool) : (d.setFlag f b).issued = d.issued := rfl
@[simp] theorem Dev.setFlag_pmu (f : Fld) (b : Bool) : (d.setFlag f b).pmu = d.pmu := rfl
@[simp] theorem Dev.setFlag_ras (f : Fld) (b : Bool) : (d.setFlag f b).ras = d.ras := rfl
@[simp] theorem Dev.setFlag_free (f : Fld) (b : Bool) : (d.setFlag f b).free = d.free := rfl
@[simp] theorem Dev.setFlag_out (f : Fld) (b : Bool) : (d.setFlag f b).out = d.out := rfl
@[simp] theorem Dev.setFlag_wire (f : Fld) (b : Bool) : (d.setFlag f b).wire = d.wire := rfl

@[simp] theorem Dev.bump_part (f : Fld) (n : Nat) : (d.bump f n).part = d.part := rfl
@[simp] theorem Dev.bump_mode (f : Fld) (n : Nat) : (d.bump f n).mode = d.mode := rfl
@[simp] theorem Dev.bump_clk (f : Fld) (n : Nat) : (d.bump f n).clk = d.clk := rfl
@[simp] theorem Dev.bump_shadow (f : Fld) (n : Nat) : (d.bump f n).shadow = d.shadow := rfl
@[simp] theorem Dev.bump_shown (f : Fld) (n : Nat) : (d.bump f n).shown = d.shown := rfl
@[simp] theorem Dev.bump_acc (f : Fld) (n : Nat) : (d.bump f n).acc = d.acc := rfl
@[simp] theorem Dev.bump_stg (f : Fld) (n : Nat) : (d.bump f n).stg = d.stg := rfl
@[simp] theorem Dev.bump_pwr (f : Fld) (n : Nat) : (d.bump f n).pwr = d.pwr := rfl
@[simp] theorem Dev.bump_can (f : Fld) (n : Nat) : (d.bump f n).can = d.can := rfl
@[simp] theorem Dev.bump_fuses (f : Fld) (n : Nat) : (d.bump f n).fuses = d.fuses := rfl
@[simp] theorem Dev.bump_sec (f : Fld) (n : Nat) : (d.bump f n).sec = d.sec := rfl
@[simp] theorem Dev.bump_spdm (f : Fld) (n : Nat) : (d.bump f n).spdm = d.spdm := rfl
@[simp] theorem Dev.bump_signQ (f : Fld) (n : Nat) : (d.bump f n).signQ = d.signQ := rfl
@[simp] theorem Dev.bump_mb (f : Fld) (n : Nat) : (d.bump f n).mb = d.mb := rfl
@[simp] theorem Dev.bump_bist (f : Fld) (n : Nat) : (d.bump f n).bist = d.bist := rfl
@[simp] theorem Dev.bump_due (f : Fld) (n : Nat) : (d.bump f n).due = d.due := rfl
@[simp] theorem Dev.bump_ext (f : Fld) (n : Nat) : (d.bump f n).ext = d.ext := rfl
@[simp] theorem Dev.bump_extRetire (f : Fld) (n : Nat) : (d.bump f n).extRetire = d.extRetire := rfl
@[simp] theorem Dev.bump_lds (f : Fld) (n : Nat) : (d.bump f n).lds = d.lds := rfl
@[simp] theorem Dev.bump_tenants (f : Fld) (n : Nat) : (d.bump f n).tenants = d.tenants := rfl
@[simp] theorem Dev.bump_mem (f : Fld) (n : Nat) : (d.bump f n).mem = d.mem := rfl
@[simp] theorem Dev.bump_frames (f : Fld) (n : Nat) : (d.bump f n).frames = d.frames := rfl
@[simp] theorem Dev.bump_crm (f : Fld) (n : Nat) : (d.bump f n).crm = d.crm := rfl
@[simp] theorem Dev.bump_thm (f : Fld) (n : Nat) : (d.bump f n).thm = d.thm := rfl
@[simp] theorem Dev.bump_farCh (f : Fld) (n : Nat) : (d.bump f n).farCh = d.farCh := rfl
@[simp] theorem Dev.bump_cry (f : Fld) (n : Nat) : (d.bump f n).cry = d.cry := rfl
@[simp] theorem Dev.bump_prs (f : Fld) (n : Nat) : (d.bump f n).prs = d.prs := rfl
@[simp] theorem Dev.bump_home (f : Fld) (n : Nat) : (d.bump f n).home = d.home := rfl
@[simp] theorem Dev.bump_txns (f : Fld) (n : Nat) : (d.bump f n).txns = d.txns := rfl
@[simp] theorem Dev.bump_nextTxn (f : Fld) (n : Nat) : (d.bump f n).nextTxn = d.nextTxn := rfl
@[simp] theorem Dev.bump_ports (f : Fld) (n : Nat) : (d.bump f n).ports = d.ports := rfl
@[simp] theorem Dev.bump_rly (f : Fld) (n : Nat) : (d.bump f n).rly = d.rly := rfl
@[simp] theorem Dev.bump_chain (f : Fld) (n : Nat) : (d.bump f n).chain = d.chain := rfl
@[simp] theorem Dev.bump_noc (f : Fld) (n : Nat) : (d.bump f n).noc = d.noc := rfl
@[simp] theorem Dev.bump_sched (f : Fld) (n : Nat) : (d.bump f n).sched = d.sched := rfl
@[simp] theorem Dev.bump_merge (f : Fld) (n : Nat) : (d.bump f n).merge = d.merge := rfl
@[simp] theorem Dev.bump_arrayPoison (f : Fld) (n : Nat) : (d.bump f n).arrayPoison = d.arrayPoison := rfl
@[simp] theorem Dev.bump_issued (f : Fld) (n : Nat) : (d.bump f n).issued = d.issued := rfl
@[simp] theorem Dev.bump_pmu (f : Fld) (n : Nat) : (d.bump f n).pmu = d.pmu := rfl
@[simp] theorem Dev.bump_ras (f : Fld) (n : Nat) : (d.bump f n).ras = d.ras := rfl
@[simp] theorem Dev.bump_free (f : Fld) (n : Nat) : (d.bump f n).free = d.free := rfl
@[simp] theorem Dev.bump_out (f : Fld) (n : Nat) : (d.bump f n).out = d.out := rfl
@[simp] theorem Dev.bump_wire (f : Fld) (n : Nat) : (d.bump f n).wire = d.wire := rfl

@[simp] theorem Dev.setBit_part (f : Fld) (i : Nat) (b : Bool) : (d.setBit f i b).part = d.part := rfl
@[simp] theorem Dev.setBit_mode (f : Fld) (i : Nat) (b : Bool) : (d.setBit f i b).mode = d.mode := rfl
@[simp] theorem Dev.setBit_clk (f : Fld) (i : Nat) (b : Bool) : (d.setBit f i b).clk = d.clk := rfl
@[simp] theorem Dev.setBit_shadow (f : Fld) (i : Nat) (b : Bool) : (d.setBit f i b).shadow = d.shadow := rfl
@[simp] theorem Dev.setBit_shown (f : Fld) (i : Nat) (b : Bool) : (d.setBit f i b).shown = d.shown := rfl
@[simp] theorem Dev.setBit_acc (f : Fld) (i : Nat) (b : Bool) : (d.setBit f i b).acc = d.acc := rfl
@[simp] theorem Dev.setBit_stg (f : Fld) (i : Nat) (b : Bool) : (d.setBit f i b).stg = d.stg := rfl
@[simp] theorem Dev.setBit_pwr (f : Fld) (i : Nat) (b : Bool) : (d.setBit f i b).pwr = d.pwr := rfl
@[simp] theorem Dev.setBit_can (f : Fld) (i : Nat) (b : Bool) : (d.setBit f i b).can = d.can := rfl
@[simp] theorem Dev.setBit_fuses (f : Fld) (i : Nat) (b : Bool) : (d.setBit f i b).fuses = d.fuses := rfl
@[simp] theorem Dev.setBit_sec (f : Fld) (i : Nat) (b : Bool) : (d.setBit f i b).sec = d.sec := rfl
@[simp] theorem Dev.setBit_spdm (f : Fld) (i : Nat) (b : Bool) : (d.setBit f i b).spdm = d.spdm := rfl
@[simp] theorem Dev.setBit_signQ (f : Fld) (i : Nat) (b : Bool) : (d.setBit f i b).signQ = d.signQ := rfl
@[simp] theorem Dev.setBit_mb (f : Fld) (i : Nat) (b : Bool) : (d.setBit f i b).mb = d.mb := rfl
@[simp] theorem Dev.setBit_bist (f : Fld) (i : Nat) (b : Bool) : (d.setBit f i b).bist = d.bist := rfl
@[simp] theorem Dev.setBit_due (f : Fld) (i : Nat) (b : Bool) : (d.setBit f i b).due = d.due := rfl
@[simp] theorem Dev.setBit_ext (f : Fld) (i : Nat) (b : Bool) : (d.setBit f i b).ext = d.ext := rfl
@[simp] theorem Dev.setBit_extRetire (f : Fld) (i : Nat) (b : Bool) : (d.setBit f i b).extRetire = d.extRetire := rfl
@[simp] theorem Dev.setBit_lds (f : Fld) (i : Nat) (b : Bool) : (d.setBit f i b).lds = d.lds := rfl
@[simp] theorem Dev.setBit_tenants (f : Fld) (i : Nat) (b : Bool) : (d.setBit f i b).tenants = d.tenants := rfl
@[simp] theorem Dev.setBit_mem (f : Fld) (i : Nat) (b : Bool) : (d.setBit f i b).mem = d.mem := rfl
@[simp] theorem Dev.setBit_frames (f : Fld) (i : Nat) (b : Bool) : (d.setBit f i b).frames = d.frames := rfl
@[simp] theorem Dev.setBit_crm (f : Fld) (i : Nat) (b : Bool) : (d.setBit f i b).crm = d.crm := rfl
@[simp] theorem Dev.setBit_thm (f : Fld) (i : Nat) (b : Bool) : (d.setBit f i b).thm = d.thm := rfl
@[simp] theorem Dev.setBit_farCh (f : Fld) (i : Nat) (b : Bool) : (d.setBit f i b).farCh = d.farCh := rfl
@[simp] theorem Dev.setBit_cry (f : Fld) (i : Nat) (b : Bool) : (d.setBit f i b).cry = d.cry := rfl
@[simp] theorem Dev.setBit_prs (f : Fld) (i : Nat) (b : Bool) : (d.setBit f i b).prs = d.prs := rfl
@[simp] theorem Dev.setBit_home (f : Fld) (i : Nat) (b : Bool) : (d.setBit f i b).home = d.home := rfl
@[simp] theorem Dev.setBit_txns (f : Fld) (i : Nat) (b : Bool) : (d.setBit f i b).txns = d.txns := rfl
@[simp] theorem Dev.setBit_nextTxn (f : Fld) (i : Nat) (b : Bool) : (d.setBit f i b).nextTxn = d.nextTxn := rfl
@[simp] theorem Dev.setBit_ports (f : Fld) (i : Nat) (b : Bool) : (d.setBit f i b).ports = d.ports := rfl
@[simp] theorem Dev.setBit_rly (f : Fld) (i : Nat) (b : Bool) : (d.setBit f i b).rly = d.rly := rfl
@[simp] theorem Dev.setBit_chain (f : Fld) (i : Nat) (b : Bool) : (d.setBit f i b).chain = d.chain := rfl
@[simp] theorem Dev.setBit_noc (f : Fld) (i : Nat) (b : Bool) : (d.setBit f i b).noc = d.noc := rfl
@[simp] theorem Dev.setBit_sched (f : Fld) (i : Nat) (b : Bool) : (d.setBit f i b).sched = d.sched := rfl
@[simp] theorem Dev.setBit_merge (f : Fld) (i : Nat) (b : Bool) : (d.setBit f i b).merge = d.merge := rfl
@[simp] theorem Dev.setBit_arrayPoison (f : Fld) (i : Nat) (b : Bool) : (d.setBit f i b).arrayPoison = d.arrayPoison := rfl
@[simp] theorem Dev.setBit_issued (f : Fld) (i : Nat) (b : Bool) : (d.setBit f i b).issued = d.issued := rfl
@[simp] theorem Dev.setBit_pmu (f : Fld) (i : Nat) (b : Bool) : (d.setBit f i b).pmu = d.pmu := rfl
@[simp] theorem Dev.setBit_ras (f : Fld) (i : Nat) (b : Bool) : (d.setBit f i b).ras = d.ras := rfl
@[simp] theorem Dev.setBit_free (f : Fld) (i : Nat) (b : Bool) : (d.setBit f i b).free = d.free := rfl
@[simp] theorem Dev.setBit_out (f : Fld) (i : Nat) (b : Bool) : (d.setBit f i b).out = d.out := rfl
@[simp] theorem Dev.setBit_wire (f : Fld) (i : Nat) (b : Bool) : (d.setBit f i b).wire = d.wire := rfl

@[simp] theorem Dev.setPend_part (o : Nat) (w : Word) : (d.setPend o w).part = d.part := rfl
@[simp] theorem Dev.setPend_mode (o : Nat) (w : Word) : (d.setPend o w).mode = d.mode := rfl
@[simp] theorem Dev.setPend_clk (o : Nat) (w : Word) : (d.setPend o w).clk = d.clk := rfl
@[simp] theorem Dev.setPend_regs (o : Nat) (w : Word) : (d.setPend o w).regs = d.regs := rfl
@[simp] theorem Dev.setPend_shown (o : Nat) (w : Word) : (d.setPend o w).shown = d.shown := rfl
@[simp] theorem Dev.setPend_acc (o : Nat) (w : Word) : (d.setPend o w).acc = d.acc := rfl
@[simp] theorem Dev.setPend_stg (o : Nat) (w : Word) : (d.setPend o w).stg = d.stg := rfl
@[simp] theorem Dev.setPend_pwr (o : Nat) (w : Word) : (d.setPend o w).pwr = d.pwr := rfl
@[simp] theorem Dev.setPend_can (o : Nat) (w : Word) : (d.setPend o w).can = d.can := rfl
@[simp] theorem Dev.setPend_fuses (o : Nat) (w : Word) : (d.setPend o w).fuses = d.fuses := rfl
@[simp] theorem Dev.setPend_sec (o : Nat) (w : Word) : (d.setPend o w).sec = d.sec := rfl
@[simp] theorem Dev.setPend_spdm (o : Nat) (w : Word) : (d.setPend o w).spdm = d.spdm := rfl
@[simp] theorem Dev.setPend_signQ (o : Nat) (w : Word) : (d.setPend o w).signQ = d.signQ := rfl
@[simp] theorem Dev.setPend_mb (o : Nat) (w : Word) : (d.setPend o w).mb = d.mb := rfl
@[simp] theorem Dev.setPend_bist (o : Nat) (w : Word) : (d.setPend o w).bist = d.bist := rfl
@[simp] theorem Dev.setPend_due (o : Nat) (w : Word) : (d.setPend o w).due = d.due := rfl
@[simp] theorem Dev.setPend_ext (o : Nat) (w : Word) : (d.setPend o w).ext = d.ext := rfl
@[simp] theorem Dev.setPend_extRetire (o : Nat) (w : Word) : (d.setPend o w).extRetire = d.extRetire := rfl
@[simp] theorem Dev.setPend_lds (o : Nat) (w : Word) : (d.setPend o w).lds = d.lds := rfl
@[simp] theorem Dev.setPend_tenants (o : Nat) (w : Word) : (d.setPend o w).tenants = d.tenants := rfl
@[simp] theorem Dev.setPend_mem (o : Nat) (w : Word) : (d.setPend o w).mem = d.mem := rfl
@[simp] theorem Dev.setPend_frames (o : Nat) (w : Word) : (d.setPend o w).frames = d.frames := rfl
@[simp] theorem Dev.setPend_crm (o : Nat) (w : Word) : (d.setPend o w).crm = d.crm := rfl
@[simp] theorem Dev.setPend_thm (o : Nat) (w : Word) : (d.setPend o w).thm = d.thm := rfl
@[simp] theorem Dev.setPend_farCh (o : Nat) (w : Word) : (d.setPend o w).farCh = d.farCh := rfl
@[simp] theorem Dev.setPend_cry (o : Nat) (w : Word) : (d.setPend o w).cry = d.cry := rfl
@[simp] theorem Dev.setPend_prs (o : Nat) (w : Word) : (d.setPend o w).prs = d.prs := rfl
@[simp] theorem Dev.setPend_home (o : Nat) (w : Word) : (d.setPend o w).home = d.home := rfl
@[simp] theorem Dev.setPend_txns (o : Nat) (w : Word) : (d.setPend o w).txns = d.txns := rfl
@[simp] theorem Dev.setPend_nextTxn (o : Nat) (w : Word) : (d.setPend o w).nextTxn = d.nextTxn := rfl
@[simp] theorem Dev.setPend_ports (o : Nat) (w : Word) : (d.setPend o w).ports = d.ports := rfl
@[simp] theorem Dev.setPend_rly (o : Nat) (w : Word) : (d.setPend o w).rly = d.rly := rfl
@[simp] theorem Dev.setPend_chain (o : Nat) (w : Word) : (d.setPend o w).chain = d.chain := rfl
@[simp] theorem Dev.setPend_noc (o : Nat) (w : Word) : (d.setPend o w).noc = d.noc := rfl
@[simp] theorem Dev.setPend_sched (o : Nat) (w : Word) : (d.setPend o w).sched = d.sched := rfl
@[simp] theorem Dev.setPend_merge (o : Nat) (w : Word) : (d.setPend o w).merge = d.merge := rfl
@[simp] theorem Dev.setPend_arrayPoison (o : Nat) (w : Word) : (d.setPend o w).arrayPoison = d.arrayPoison := rfl
@[simp] theorem Dev.setPend_issued (o : Nat) (w : Word) : (d.setPend o w).issued = d.issued := rfl
@[simp] theorem Dev.setPend_pmu (o : Nat) (w : Word) : (d.setPend o w).pmu = d.pmu := rfl
@[simp] theorem Dev.setPend_ras (o : Nat) (w : Word) : (d.setPend o w).ras = d.ras := rfl
@[simp] theorem Dev.setPend_free (o : Nat) (w : Word) : (d.setPend o w).free = d.free := rfl
@[simp] theorem Dev.setPend_out (o : Nat) (w : Word) : (d.setPend o w).out = d.out := rfl
@[simp] theorem Dev.setPend_wire (o : Nat) (w : Word) : (d.setPend o w).wire = d.wire := rfl

@[simp] theorem Dev.wordWrite_part (a : Array64K) (n : Nat) : (d.wordWrite a n).part = d.part := rfl
@[simp] theorem Dev.wordWrite_mode (a : Array64K) (n : Nat) : (d.wordWrite a n).mode = d.mode := rfl
@[simp] theorem Dev.wordWrite_clk (a : Array64K) (n : Nat) : (d.wordWrite a n).clk = d.clk := rfl
@[simp] theorem Dev.wordWrite_regs (a : Array64K) (n : Nat) : (d.wordWrite a n).regs = d.regs := rfl
@[simp] theorem Dev.wordWrite_shadow (a : Array64K) (n : Nat) : (d.wordWrite a n).shadow = d.shadow := rfl
@[simp] theorem Dev.wordWrite_shown (a : Array64K) (n : Nat) : (d.wordWrite a n).shown = d.shown := rfl
@[simp] theorem Dev.wordWrite_acc (a : Array64K) (n : Nat) : (d.wordWrite a n).acc = d.acc := rfl
@[simp] theorem Dev.wordWrite_stg (a : Array64K) (n : Nat) : (d.wordWrite a n).stg = d.stg := rfl
@[simp] theorem Dev.wordWrite_pwr (a : Array64K) (n : Nat) : (d.wordWrite a n).pwr = d.pwr := rfl
@[simp] theorem Dev.wordWrite_can (a : Array64K) (n : Nat) : (d.wordWrite a n).can = d.can := rfl
@[simp] theorem Dev.wordWrite_fuses (a : Array64K) (n : Nat) : (d.wordWrite a n).fuses = d.fuses := rfl
@[simp] theorem Dev.wordWrite_sec (a : Array64K) (n : Nat) : (d.wordWrite a n).sec = d.sec := rfl
@[simp] theorem Dev.wordWrite_spdm (a : Array64K) (n : Nat) : (d.wordWrite a n).spdm = d.spdm := rfl
@[simp] theorem Dev.wordWrite_signQ (a : Array64K) (n : Nat) : (d.wordWrite a n).signQ = d.signQ := rfl
@[simp] theorem Dev.wordWrite_mb (a : Array64K) (n : Nat) : (d.wordWrite a n).mb = d.mb := rfl
@[simp] theorem Dev.wordWrite_bist (a : Array64K) (n : Nat) : (d.wordWrite a n).bist = d.bist := rfl
@[simp] theorem Dev.wordWrite_due (a : Array64K) (n : Nat) : (d.wordWrite a n).due = d.due := rfl
@[simp] theorem Dev.wordWrite_ext (a : Array64K) (n : Nat) : (d.wordWrite a n).ext = d.ext := rfl
@[simp] theorem Dev.wordWrite_extRetire (a : Array64K) (n : Nat) : (d.wordWrite a n).extRetire = d.extRetire := rfl
@[simp] theorem Dev.wordWrite_lds (a : Array64K) (n : Nat) : (d.wordWrite a n).lds = d.lds := rfl
@[simp] theorem Dev.wordWrite_tenants (a : Array64K) (n : Nat) : (d.wordWrite a n).tenants = d.tenants := rfl
@[simp] theorem Dev.wordWrite_mem (a : Array64K) (n : Nat) : (d.wordWrite a n).mem = d.mem := rfl
@[simp] theorem Dev.wordWrite_frames (a : Array64K) (n : Nat) : (d.wordWrite a n).frames = d.frames := rfl
@[simp] theorem Dev.wordWrite_crm (a : Array64K) (n : Nat) : (d.wordWrite a n).crm = d.crm := rfl
@[simp] theorem Dev.wordWrite_thm (a : Array64K) (n : Nat) : (d.wordWrite a n).thm = d.thm := rfl
@[simp] theorem Dev.wordWrite_farCh (a : Array64K) (n : Nat) : (d.wordWrite a n).farCh = d.farCh := rfl
@[simp] theorem Dev.wordWrite_cry (a : Array64K) (n : Nat) : (d.wordWrite a n).cry = d.cry := rfl
@[simp] theorem Dev.wordWrite_prs (a : Array64K) (n : Nat) : (d.wordWrite a n).prs = d.prs := rfl
@[simp] theorem Dev.wordWrite_home (a : Array64K) (n : Nat) : (d.wordWrite a n).home = d.home := rfl
@[simp] theorem Dev.wordWrite_txns (a : Array64K) (n : Nat) : (d.wordWrite a n).txns = d.txns := rfl
@[simp] theorem Dev.wordWrite_nextTxn (a : Array64K) (n : Nat) : (d.wordWrite a n).nextTxn = d.nextTxn := rfl
@[simp] theorem Dev.wordWrite_ports (a : Array64K) (n : Nat) : (d.wordWrite a n).ports = d.ports := rfl
@[simp] theorem Dev.wordWrite_rly (a : Array64K) (n : Nat) : (d.wordWrite a n).rly = d.rly := rfl
@[simp] theorem Dev.wordWrite_chain (a : Array64K) (n : Nat) : (d.wordWrite a n).chain = d.chain := rfl
@[simp] theorem Dev.wordWrite_noc (a : Array64K) (n : Nat) : (d.wordWrite a n).noc = d.noc := rfl
@[simp] theorem Dev.wordWrite_sched (a : Array64K) (n : Nat) : (d.wordWrite a n).sched = d.sched := rfl
@[simp] theorem Dev.wordWrite_issued (a : Array64K) (n : Nat) : (d.wordWrite a n).issued = d.issued := rfl
@[simp] theorem Dev.wordWrite_pmu (a : Array64K) (n : Nat) : (d.wordWrite a n).pmu = d.pmu := rfl
@[simp] theorem Dev.wordWrite_ras (a : Array64K) (n : Nat) : (d.wordWrite a n).ras = d.ras := rfl
@[simp] theorem Dev.wordWrite_free (a : Array64K) (n : Nat) : (d.wordWrite a n).free = d.free := rfl
@[simp] theorem Dev.wordWrite_out (a : Array64K) (n : Nat) : (d.wordWrite a n).out = d.out := rfl
@[simp] theorem Dev.wordWrite_wire (a : Array64K) (n : Nat) : (d.wordWrite a n).wire = d.wire := rfl

@[simp] theorem Dev.mergeWrite_part (a : Array64K) (n : Nat) (b : BitVec 8) : (d.mergeWrite a n b).part = d.part := rfl
@[simp] theorem Dev.mergeWrite_mode (a : Array64K) (n : Nat) (b : BitVec 8) : (d.mergeWrite a n b).mode = d.mode := rfl
@[simp] theorem Dev.mergeWrite_clk (a : Array64K) (n : Nat) (b : BitVec 8) : (d.mergeWrite a n b).clk = d.clk := rfl
@[simp] theorem Dev.mergeWrite_regs (a : Array64K) (n : Nat) (b : BitVec 8) : (d.mergeWrite a n b).regs = d.regs := rfl
@[simp] theorem Dev.mergeWrite_shadow (a : Array64K) (n : Nat) (b : BitVec 8) : (d.mergeWrite a n b).shadow = d.shadow := rfl
@[simp] theorem Dev.mergeWrite_shown (a : Array64K) (n : Nat) (b : BitVec 8) : (d.mergeWrite a n b).shown = d.shown := rfl
@[simp] theorem Dev.mergeWrite_acc (a : Array64K) (n : Nat) (b : BitVec 8) : (d.mergeWrite a n b).acc = d.acc := rfl
@[simp] theorem Dev.mergeWrite_stg (a : Array64K) (n : Nat) (b : BitVec 8) : (d.mergeWrite a n b).stg = d.stg := rfl
@[simp] theorem Dev.mergeWrite_pwr (a : Array64K) (n : Nat) (b : BitVec 8) : (d.mergeWrite a n b).pwr = d.pwr := rfl
@[simp] theorem Dev.mergeWrite_can (a : Array64K) (n : Nat) (b : BitVec 8) : (d.mergeWrite a n b).can = d.can := rfl
@[simp] theorem Dev.mergeWrite_fuses (a : Array64K) (n : Nat) (b : BitVec 8) : (d.mergeWrite a n b).fuses = d.fuses := rfl
@[simp] theorem Dev.mergeWrite_sec (a : Array64K) (n : Nat) (b : BitVec 8) : (d.mergeWrite a n b).sec = d.sec := rfl
@[simp] theorem Dev.mergeWrite_spdm (a : Array64K) (n : Nat) (b : BitVec 8) : (d.mergeWrite a n b).spdm = d.spdm := rfl
@[simp] theorem Dev.mergeWrite_signQ (a : Array64K) (n : Nat) (b : BitVec 8) : (d.mergeWrite a n b).signQ = d.signQ := rfl
@[simp] theorem Dev.mergeWrite_mb (a : Array64K) (n : Nat) (b : BitVec 8) : (d.mergeWrite a n b).mb = d.mb := rfl
@[simp] theorem Dev.mergeWrite_bist (a : Array64K) (n : Nat) (b : BitVec 8) : (d.mergeWrite a n b).bist = d.bist := rfl
@[simp] theorem Dev.mergeWrite_due (a : Array64K) (n : Nat) (b : BitVec 8) : (d.mergeWrite a n b).due = d.due := rfl
@[simp] theorem Dev.mergeWrite_ext (a : Array64K) (n : Nat) (b : BitVec 8) : (d.mergeWrite a n b).ext = d.ext := rfl
@[simp] theorem Dev.mergeWrite_extRetire (a : Array64K) (n : Nat) (b : BitVec 8) : (d.mergeWrite a n b).extRetire = d.extRetire := rfl
@[simp] theorem Dev.mergeWrite_lds (a : Array64K) (n : Nat) (b : BitVec 8) : (d.mergeWrite a n b).lds = d.lds := rfl
@[simp] theorem Dev.mergeWrite_tenants (a : Array64K) (n : Nat) (b : BitVec 8) : (d.mergeWrite a n b).tenants = d.tenants := rfl
@[simp] theorem Dev.mergeWrite_mem (a : Array64K) (n : Nat) (b : BitVec 8) : (d.mergeWrite a n b).mem = d.mem := rfl
@[simp] theorem Dev.mergeWrite_frames (a : Array64K) (n : Nat) (b : BitVec 8) : (d.mergeWrite a n b).frames = d.frames := rfl
@[simp] theorem Dev.mergeWrite_crm (a : Array64K) (n : Nat) (b : BitVec 8) : (d.mergeWrite a n b).crm = d.crm := rfl
@[simp] theorem Dev.mergeWrite_thm (a : Array64K) (n : Nat) (b : BitVec 8) : (d.mergeWrite a n b).thm = d.thm := rfl
@[simp] theorem Dev.mergeWrite_farCh (a : Array64K) (n : Nat) (b : BitVec 8) : (d.mergeWrite a n b).farCh = d.farCh := rfl
@[simp] theorem Dev.mergeWrite_cry (a : Array64K) (n : Nat) (b : BitVec 8) : (d.mergeWrite a n b).cry = d.cry := rfl
@[simp] theorem Dev.mergeWrite_prs (a : Array64K) (n : Nat) (b : BitVec 8) : (d.mergeWrite a n b).prs = d.prs := rfl
@[simp] theorem Dev.mergeWrite_home (a : Array64K) (n : Nat) (b : BitVec 8) : (d.mergeWrite a n b).home = d.home := rfl
@[simp] theorem Dev.mergeWrite_txns (a : Array64K) (n : Nat) (b : BitVec 8) : (d.mergeWrite a n b).txns = d.txns := rfl
@[simp] theorem Dev.mergeWrite_nextTxn (a : Array64K) (n : Nat) (b : BitVec 8) : (d.mergeWrite a n b).nextTxn = d.nextTxn := rfl
@[simp] theorem Dev.mergeWrite_ports (a : Array64K) (n : Nat) (b : BitVec 8) : (d.mergeWrite a n b).ports = d.ports := rfl
@[simp] theorem Dev.mergeWrite_rly (a : Array64K) (n : Nat) (b : BitVec 8) : (d.mergeWrite a n b).rly = d.rly := rfl
@[simp] theorem Dev.mergeWrite_chain (a : Array64K) (n : Nat) (b : BitVec 8) : (d.mergeWrite a n b).chain = d.chain := rfl
@[simp] theorem Dev.mergeWrite_noc (a : Array64K) (n : Nat) (b : BitVec 8) : (d.mergeWrite a n b).noc = d.noc := rfl
@[simp] theorem Dev.mergeWrite_sched (a : Array64K) (n : Nat) (b : BitVec 8) : (d.mergeWrite a n b).sched = d.sched := rfl
@[simp] theorem Dev.mergeWrite_arrayPoison (a : Array64K) (n : Nat) (b : BitVec 8) : (d.mergeWrite a n b).arrayPoison = d.arrayPoison := rfl
@[simp] theorem Dev.mergeWrite_issued (a : Array64K) (n : Nat) (b : BitVec 8) : (d.mergeWrite a n b).issued = d.issued := rfl
@[simp] theorem Dev.mergeWrite_pmu (a : Array64K) (n : Nat) (b : BitVec 8) : (d.mergeWrite a n b).pmu = d.pmu := rfl
@[simp] theorem Dev.mergeWrite_ras (a : Array64K) (n : Nat) (b : BitVec 8) : (d.mergeWrite a n b).ras = d.ras := rfl
@[simp] theorem Dev.mergeWrite_free (a : Array64K) (n : Nat) (b : BitVec 8) : (d.mergeWrite a n b).free = d.free := rfl
@[simp] theorem Dev.mergeWrite_out (a : Array64K) (n : Nat) (b : BitVec 8) : (d.mergeWrite a n b).out = d.out := rfl
@[simp] theorem Dev.mergeWrite_wire (a : Array64K) (n : Nat) (b : BitVec 8) : (d.mergeWrite a n b).wire = d.wire := rfl

@[simp] theorem Dev.arrayFilled_part (a : Array64K) : (d.arrayFilled a).part = d.part := rfl
@[simp] theorem Dev.arrayFilled_mode (a : Array64K) : (d.arrayFilled a).mode = d.mode := rfl
@[simp] theorem Dev.arrayFilled_clk (a : Array64K) : (d.arrayFilled a).clk = d.clk := rfl
@[simp] theorem Dev.arrayFilled_regs (a : Array64K) : (d.arrayFilled a).regs = d.regs := rfl
@[simp] theorem Dev.arrayFilled_shadow (a : Array64K) : (d.arrayFilled a).shadow = d.shadow := rfl
@[simp] theorem Dev.arrayFilled_shown (a : Array64K) : (d.arrayFilled a).shown = d.shown := rfl
@[simp] theorem Dev.arrayFilled_acc (a : Array64K) : (d.arrayFilled a).acc = d.acc := rfl
@[simp] theorem Dev.arrayFilled_stg (a : Array64K) : (d.arrayFilled a).stg = d.stg := rfl
@[simp] theorem Dev.arrayFilled_pwr (a : Array64K) : (d.arrayFilled a).pwr = d.pwr := rfl
@[simp] theorem Dev.arrayFilled_can (a : Array64K) : (d.arrayFilled a).can = d.can := rfl
@[simp] theorem Dev.arrayFilled_fuses (a : Array64K) : (d.arrayFilled a).fuses = d.fuses := rfl
@[simp] theorem Dev.arrayFilled_sec (a : Array64K) : (d.arrayFilled a).sec = d.sec := rfl
@[simp] theorem Dev.arrayFilled_spdm (a : Array64K) : (d.arrayFilled a).spdm = d.spdm := rfl
@[simp] theorem Dev.arrayFilled_signQ (a : Array64K) : (d.arrayFilled a).signQ = d.signQ := rfl
@[simp] theorem Dev.arrayFilled_mb (a : Array64K) : (d.arrayFilled a).mb = d.mb := rfl
@[simp] theorem Dev.arrayFilled_bist (a : Array64K) : (d.arrayFilled a).bist = d.bist := rfl
@[simp] theorem Dev.arrayFilled_due (a : Array64K) : (d.arrayFilled a).due = d.due := rfl
@[simp] theorem Dev.arrayFilled_ext (a : Array64K) : (d.arrayFilled a).ext = d.ext := rfl
@[simp] theorem Dev.arrayFilled_extRetire (a : Array64K) : (d.arrayFilled a).extRetire = d.extRetire := rfl
@[simp] theorem Dev.arrayFilled_lds (a : Array64K) : (d.arrayFilled a).lds = d.lds := rfl
@[simp] theorem Dev.arrayFilled_tenants (a : Array64K) : (d.arrayFilled a).tenants = d.tenants := rfl
@[simp] theorem Dev.arrayFilled_mem (a : Array64K) : (d.arrayFilled a).mem = d.mem := rfl
@[simp] theorem Dev.arrayFilled_frames (a : Array64K) : (d.arrayFilled a).frames = d.frames := rfl
@[simp] theorem Dev.arrayFilled_crm (a : Array64K) : (d.arrayFilled a).crm = d.crm := rfl
@[simp] theorem Dev.arrayFilled_thm (a : Array64K) : (d.arrayFilled a).thm = d.thm := rfl
@[simp] theorem Dev.arrayFilled_farCh (a : Array64K) : (d.arrayFilled a).farCh = d.farCh := rfl
@[simp] theorem Dev.arrayFilled_cry (a : Array64K) : (d.arrayFilled a).cry = d.cry := rfl
@[simp] theorem Dev.arrayFilled_prs (a : Array64K) : (d.arrayFilled a).prs = d.prs := rfl
@[simp] theorem Dev.arrayFilled_home (a : Array64K) : (d.arrayFilled a).home = d.home := rfl
@[simp] theorem Dev.arrayFilled_txns (a : Array64K) : (d.arrayFilled a).txns = d.txns := rfl
@[simp] theorem Dev.arrayFilled_nextTxn (a : Array64K) : (d.arrayFilled a).nextTxn = d.nextTxn := rfl
@[simp] theorem Dev.arrayFilled_ports (a : Array64K) : (d.arrayFilled a).ports = d.ports := rfl
@[simp] theorem Dev.arrayFilled_rly (a : Array64K) : (d.arrayFilled a).rly = d.rly := rfl
@[simp] theorem Dev.arrayFilled_chain (a : Array64K) : (d.arrayFilled a).chain = d.chain := rfl
@[simp] theorem Dev.arrayFilled_noc (a : Array64K) : (d.arrayFilled a).noc = d.noc := rfl
@[simp] theorem Dev.arrayFilled_sched (a : Array64K) : (d.arrayFilled a).sched = d.sched := rfl
@[simp] theorem Dev.arrayFilled_issued (a : Array64K) : (d.arrayFilled a).issued = d.issued := rfl
@[simp] theorem Dev.arrayFilled_pmu (a : Array64K) : (d.arrayFilled a).pmu = d.pmu := rfl
@[simp] theorem Dev.arrayFilled_ras (a : Array64K) : (d.arrayFilled a).ras = d.ras := rfl
@[simp] theorem Dev.arrayFilled_free (a : Array64K) : (d.arrayFilled a).free = d.free := rfl
@[simp] theorem Dev.arrayFilled_out (a : Array64K) : (d.arrayFilled a).out = d.out := rfl
@[simp] theorem Dev.arrayFilled_wire (a : Array64K) : (d.arrayFilled a).wire = d.wire := rfl

@[simp] theorem Dev.issueLoc_part (l : BitVec 64) : (d.issueLoc l).part = d.part := by
  obtain ⟨_, h⟩ := Dev.issueLoc_shape d l; rw [h]
@[simp] theorem Dev.issueLoc_mode (l : BitVec 64) : (d.issueLoc l).mode = d.mode := by
  obtain ⟨_, h⟩ := Dev.issueLoc_shape d l; rw [h]
@[simp] theorem Dev.issueLoc_clk (l : BitVec 64) : (d.issueLoc l).clk = d.clk := by
  obtain ⟨_, h⟩ := Dev.issueLoc_shape d l; rw [h]
@[simp] theorem Dev.issueLoc_regs (l : BitVec 64) : (d.issueLoc l).regs = d.regs := by
  obtain ⟨_, h⟩ := Dev.issueLoc_shape d l; rw [h]
@[simp] theorem Dev.issueLoc_shadow (l : BitVec 64) : (d.issueLoc l).shadow = d.shadow := by
  obtain ⟨_, h⟩ := Dev.issueLoc_shape d l; rw [h]
@[simp] theorem Dev.issueLoc_shown (l : BitVec 64) : (d.issueLoc l).shown = d.shown := by
  obtain ⟨_, h⟩ := Dev.issueLoc_shape d l; rw [h]
@[simp] theorem Dev.issueLoc_acc (l : BitVec 64) : (d.issueLoc l).acc = d.acc := by
  obtain ⟨_, h⟩ := Dev.issueLoc_shape d l; rw [h]
@[simp] theorem Dev.issueLoc_stg (l : BitVec 64) : (d.issueLoc l).stg = d.stg := by
  obtain ⟨_, h⟩ := Dev.issueLoc_shape d l; rw [h]
@[simp] theorem Dev.issueLoc_pwr (l : BitVec 64) : (d.issueLoc l).pwr = d.pwr := by
  obtain ⟨_, h⟩ := Dev.issueLoc_shape d l; rw [h]
@[simp] theorem Dev.issueLoc_can (l : BitVec 64) : (d.issueLoc l).can = d.can := by
  obtain ⟨_, h⟩ := Dev.issueLoc_shape d l; rw [h]
@[simp] theorem Dev.issueLoc_fuses (l : BitVec 64) : (d.issueLoc l).fuses = d.fuses := by
  obtain ⟨_, h⟩ := Dev.issueLoc_shape d l; rw [h]
@[simp] theorem Dev.issueLoc_sec (l : BitVec 64) : (d.issueLoc l).sec = d.sec := by
  obtain ⟨_, h⟩ := Dev.issueLoc_shape d l; rw [h]
@[simp] theorem Dev.issueLoc_spdm (l : BitVec 64) : (d.issueLoc l).spdm = d.spdm := by
  obtain ⟨_, h⟩ := Dev.issueLoc_shape d l; rw [h]
@[simp] theorem Dev.issueLoc_signQ (l : BitVec 64) : (d.issueLoc l).signQ = d.signQ := by
  obtain ⟨_, h⟩ := Dev.issueLoc_shape d l; rw [h]
@[simp] theorem Dev.issueLoc_mb (l : BitVec 64) : (d.issueLoc l).mb = d.mb := by
  obtain ⟨_, h⟩ := Dev.issueLoc_shape d l; rw [h]
@[simp] theorem Dev.issueLoc_bist (l : BitVec 64) : (d.issueLoc l).bist = d.bist := by
  obtain ⟨_, h⟩ := Dev.issueLoc_shape d l; rw [h]
@[simp] theorem Dev.issueLoc_due (l : BitVec 64) : (d.issueLoc l).due = d.due := by
  obtain ⟨_, h⟩ := Dev.issueLoc_shape d l; rw [h]
@[simp] theorem Dev.issueLoc_ext (l : BitVec 64) : (d.issueLoc l).ext = d.ext := by
  obtain ⟨_, h⟩ := Dev.issueLoc_shape d l; rw [h]
@[simp] theorem Dev.issueLoc_extRetire (l : BitVec 64) : (d.issueLoc l).extRetire = d.extRetire := by
  obtain ⟨_, h⟩ := Dev.issueLoc_shape d l; rw [h]
@[simp] theorem Dev.issueLoc_lds (l : BitVec 64) : (d.issueLoc l).lds = d.lds := by
  obtain ⟨_, h⟩ := Dev.issueLoc_shape d l; rw [h]
@[simp] theorem Dev.issueLoc_tenants (l : BitVec 64) : (d.issueLoc l).tenants = d.tenants := by
  obtain ⟨_, h⟩ := Dev.issueLoc_shape d l; rw [h]
@[simp] theorem Dev.issueLoc_mem (l : BitVec 64) : (d.issueLoc l).mem = d.mem := by
  obtain ⟨_, h⟩ := Dev.issueLoc_shape d l; rw [h]
@[simp] theorem Dev.issueLoc_frames (l : BitVec 64) : (d.issueLoc l).frames = d.frames := by
  obtain ⟨_, h⟩ := Dev.issueLoc_shape d l; rw [h]
@[simp] theorem Dev.issueLoc_crm (l : BitVec 64) : (d.issueLoc l).crm = d.crm := by
  obtain ⟨_, h⟩ := Dev.issueLoc_shape d l; rw [h]
@[simp] theorem Dev.issueLoc_thm (l : BitVec 64) : (d.issueLoc l).thm = d.thm := by
  obtain ⟨_, h⟩ := Dev.issueLoc_shape d l; rw [h]
@[simp] theorem Dev.issueLoc_farCh (l : BitVec 64) : (d.issueLoc l).farCh = d.farCh := by
  obtain ⟨_, h⟩ := Dev.issueLoc_shape d l; rw [h]
@[simp] theorem Dev.issueLoc_cry (l : BitVec 64) : (d.issueLoc l).cry = d.cry := by
  obtain ⟨_, h⟩ := Dev.issueLoc_shape d l; rw [h]
@[simp] theorem Dev.issueLoc_prs (l : BitVec 64) : (d.issueLoc l).prs = d.prs := by
  obtain ⟨_, h⟩ := Dev.issueLoc_shape d l; rw [h]
@[simp] theorem Dev.issueLoc_home (l : BitVec 64) : (d.issueLoc l).home = d.home := by
  obtain ⟨_, h⟩ := Dev.issueLoc_shape d l; rw [h]
@[simp] theorem Dev.issueLoc_txns (l : BitVec 64) : (d.issueLoc l).txns = d.txns := by
  obtain ⟨_, h⟩ := Dev.issueLoc_shape d l; rw [h]
@[simp] theorem Dev.issueLoc_nextTxn (l : BitVec 64) : (d.issueLoc l).nextTxn = d.nextTxn := by
  obtain ⟨_, h⟩ := Dev.issueLoc_shape d l; rw [h]
@[simp] theorem Dev.issueLoc_ports (l : BitVec 64) : (d.issueLoc l).ports = d.ports := by
  obtain ⟨_, h⟩ := Dev.issueLoc_shape d l; rw [h]
@[simp] theorem Dev.issueLoc_rly (l : BitVec 64) : (d.issueLoc l).rly = d.rly := by
  obtain ⟨_, h⟩ := Dev.issueLoc_shape d l; rw [h]
@[simp] theorem Dev.issueLoc_chain (l : BitVec 64) : (d.issueLoc l).chain = d.chain := by
  obtain ⟨_, h⟩ := Dev.issueLoc_shape d l; rw [h]
@[simp] theorem Dev.issueLoc_noc (l : BitVec 64) : (d.issueLoc l).noc = d.noc := by
  obtain ⟨_, h⟩ := Dev.issueLoc_shape d l; rw [h]
@[simp] theorem Dev.issueLoc_sched (l : BitVec 64) : (d.issueLoc l).sched = d.sched := by
  obtain ⟨_, h⟩ := Dev.issueLoc_shape d l; rw [h]
@[simp] theorem Dev.issueLoc_merge (l : BitVec 64) : (d.issueLoc l).merge = d.merge := by
  obtain ⟨_, h⟩ := Dev.issueLoc_shape d l; rw [h]
@[simp] theorem Dev.issueLoc_arrayPoison (l : BitVec 64) : (d.issueLoc l).arrayPoison = d.arrayPoison := by
  obtain ⟨_, h⟩ := Dev.issueLoc_shape d l; rw [h]
@[simp] theorem Dev.issueLoc_pmu (l : BitVec 64) : (d.issueLoc l).pmu = d.pmu := by
  obtain ⟨_, h⟩ := Dev.issueLoc_shape d l; rw [h]
@[simp] theorem Dev.issueLoc_ras (l : BitVec 64) : (d.issueLoc l).ras = d.ras := by
  obtain ⟨_, h⟩ := Dev.issueLoc_shape d l; rw [h]
@[simp] theorem Dev.issueLoc_free (l : BitVec 64) : (d.issueLoc l).free = d.free := by
  obtain ⟨_, h⟩ := Dev.issueLoc_shape d l; rw [h]
@[simp] theorem Dev.issueLoc_out (l : BitVec 64) : (d.issueLoc l).out = d.out := by
  obtain ⟨_, h⟩ := Dev.issueLoc_shape d l; rw [h]
@[simp] theorem Dev.issueLoc_wire (l : BitVec 64) : (d.issueLoc l).wire = d.wire := by
  obtain ⟨_, h⟩ := Dev.issueLoc_shape d l; rw [h]

@[simp] theorem Dev.emit_part (o : Out) : (d.emit o).part = d.part := rfl
@[simp] theorem Dev.emit_mode (o : Out) : (d.emit o).mode = d.mode := rfl
@[simp] theorem Dev.emit_clk (o : Out) : (d.emit o).clk = d.clk := rfl
@[simp] theorem Dev.emit_regs (o : Out) : (d.emit o).regs = d.regs := rfl
@[simp] theorem Dev.emit_shadow (o : Out) : (d.emit o).shadow = d.shadow := rfl
@[simp] theorem Dev.emit_shown (o : Out) : (d.emit o).shown = d.shown := rfl
@[simp] theorem Dev.emit_acc (o : Out) : (d.emit o).acc = d.acc := rfl
@[simp] theorem Dev.emit_stg (o : Out) : (d.emit o).stg = d.stg := rfl
@[simp] theorem Dev.emit_pwr (o : Out) : (d.emit o).pwr = d.pwr := rfl
@[simp] theorem Dev.emit_can (o : Out) : (d.emit o).can = d.can := rfl
@[simp] theorem Dev.emit_fuses (o : Out) : (d.emit o).fuses = d.fuses := rfl
@[simp] theorem Dev.emit_sec (o : Out) : (d.emit o).sec = d.sec := rfl
@[simp] theorem Dev.emit_spdm (o : Out) : (d.emit o).spdm = d.spdm := rfl
@[simp] theorem Dev.emit_signQ (o : Out) : (d.emit o).signQ = d.signQ := rfl
@[simp] theorem Dev.emit_mb (o : Out) : (d.emit o).mb = d.mb := rfl
@[simp] theorem Dev.emit_bist (o : Out) : (d.emit o).bist = d.bist := rfl
@[simp] theorem Dev.emit_due (o : Out) : (d.emit o).due = d.due := rfl
@[simp] theorem Dev.emit_ext (o : Out) : (d.emit o).ext = d.ext := rfl
@[simp] theorem Dev.emit_extRetire (o : Out) : (d.emit o).extRetire = d.extRetire := rfl
@[simp] theorem Dev.emit_lds (o : Out) : (d.emit o).lds = d.lds := rfl
@[simp] theorem Dev.emit_tenants (o : Out) : (d.emit o).tenants = d.tenants := rfl
@[simp] theorem Dev.emit_mem (o : Out) : (d.emit o).mem = d.mem := rfl
@[simp] theorem Dev.emit_frames (o : Out) : (d.emit o).frames = d.frames := rfl
@[simp] theorem Dev.emit_crm (o : Out) : (d.emit o).crm = d.crm := rfl
@[simp] theorem Dev.emit_thm (o : Out) : (d.emit o).thm = d.thm := rfl
@[simp] theorem Dev.emit_farCh (o : Out) : (d.emit o).farCh = d.farCh := rfl
@[simp] theorem Dev.emit_cry (o : Out) : (d.emit o).cry = d.cry := rfl
@[simp] theorem Dev.emit_prs (o : Out) : (d.emit o).prs = d.prs := rfl
@[simp] theorem Dev.emit_home (o : Out) : (d.emit o).home = d.home := rfl
@[simp] theorem Dev.emit_txns (o : Out) : (d.emit o).txns = d.txns := rfl
@[simp] theorem Dev.emit_nextTxn (o : Out) : (d.emit o).nextTxn = d.nextTxn := rfl
@[simp] theorem Dev.emit_ports (o : Out) : (d.emit o).ports = d.ports := rfl
@[simp] theorem Dev.emit_rly (o : Out) : (d.emit o).rly = d.rly := rfl
@[simp] theorem Dev.emit_chain (o : Out) : (d.emit o).chain = d.chain := rfl
@[simp] theorem Dev.emit_noc (o : Out) : (d.emit o).noc = d.noc := rfl
@[simp] theorem Dev.emit_sched (o : Out) : (d.emit o).sched = d.sched := rfl
@[simp] theorem Dev.emit_merge (o : Out) : (d.emit o).merge = d.merge := rfl
@[simp] theorem Dev.emit_arrayPoison (o : Out) : (d.emit o).arrayPoison = d.arrayPoison := rfl
@[simp] theorem Dev.emit_issued (o : Out) : (d.emit o).issued = d.issued := rfl
@[simp] theorem Dev.emit_pmu (o : Out) : (d.emit o).pmu = d.pmu := rfl
@[simp] theorem Dev.emit_ras (o : Out) : (d.emit o).ras = d.ras := rfl
@[simp] theorem Dev.emit_free (o : Out) : (d.emit o).free = d.free := rfl
@[simp] theorem Dev.emit_wire (o : Out) : (d.emit o).wire = d.wire := rfl

@[simp] theorem Dev.countAs_part (n k : Nat) (c : Option (BitVec 16)) (t : Option TenantId) (l : Option Cls) : (d.countAs n k c t l).part = d.part := by
  obtain ⟨_, h⟩ := Dev.countAs_shape d n k c t l; rw [h]
@[simp] theorem Dev.countAs_mode (n k : Nat) (c : Option (BitVec 16)) (t : Option TenantId) (l : Option Cls) : (d.countAs n k c t l).mode = d.mode := by
  obtain ⟨_, h⟩ := Dev.countAs_shape d n k c t l; rw [h]
@[simp] theorem Dev.countAs_clk (n k : Nat) (c : Option (BitVec 16)) (t : Option TenantId) (l : Option Cls) : (d.countAs n k c t l).clk = d.clk := by
  obtain ⟨_, h⟩ := Dev.countAs_shape d n k c t l; rw [h]
@[simp] theorem Dev.countAs_regs (n k : Nat) (c : Option (BitVec 16)) (t : Option TenantId) (l : Option Cls) : (d.countAs n k c t l).regs = d.regs := by
  obtain ⟨_, h⟩ := Dev.countAs_shape d n k c t l; rw [h]
@[simp] theorem Dev.countAs_shadow (n k : Nat) (c : Option (BitVec 16)) (t : Option TenantId) (l : Option Cls) : (d.countAs n k c t l).shadow = d.shadow := by
  obtain ⟨_, h⟩ := Dev.countAs_shape d n k c t l; rw [h]
@[simp] theorem Dev.countAs_shown (n k : Nat) (c : Option (BitVec 16)) (t : Option TenantId) (l : Option Cls) : (d.countAs n k c t l).shown = d.shown := by
  obtain ⟨_, h⟩ := Dev.countAs_shape d n k c t l; rw [h]
@[simp] theorem Dev.countAs_acc (n k : Nat) (c : Option (BitVec 16)) (t : Option TenantId) (l : Option Cls) : (d.countAs n k c t l).acc = d.acc := by
  obtain ⟨_, h⟩ := Dev.countAs_shape d n k c t l; rw [h]
@[simp] theorem Dev.countAs_stg (n k : Nat) (c : Option (BitVec 16)) (t : Option TenantId) (l : Option Cls) : (d.countAs n k c t l).stg = d.stg := by
  obtain ⟨_, h⟩ := Dev.countAs_shape d n k c t l; rw [h]
@[simp] theorem Dev.countAs_pwr (n k : Nat) (c : Option (BitVec 16)) (t : Option TenantId) (l : Option Cls) : (d.countAs n k c t l).pwr = d.pwr := by
  obtain ⟨_, h⟩ := Dev.countAs_shape d n k c t l; rw [h]
@[simp] theorem Dev.countAs_can (n k : Nat) (c : Option (BitVec 16)) (t : Option TenantId) (l : Option Cls) : (d.countAs n k c t l).can = d.can := by
  obtain ⟨_, h⟩ := Dev.countAs_shape d n k c t l; rw [h]
@[simp] theorem Dev.countAs_fuses (n k : Nat) (c : Option (BitVec 16)) (t : Option TenantId) (l : Option Cls) : (d.countAs n k c t l).fuses = d.fuses := by
  obtain ⟨_, h⟩ := Dev.countAs_shape d n k c t l; rw [h]
@[simp] theorem Dev.countAs_sec (n k : Nat) (c : Option (BitVec 16)) (t : Option TenantId) (l : Option Cls) : (d.countAs n k c t l).sec = d.sec := by
  obtain ⟨_, h⟩ := Dev.countAs_shape d n k c t l; rw [h]
@[simp] theorem Dev.countAs_spdm (n k : Nat) (c : Option (BitVec 16)) (t : Option TenantId) (l : Option Cls) : (d.countAs n k c t l).spdm = d.spdm := by
  obtain ⟨_, h⟩ := Dev.countAs_shape d n k c t l; rw [h]
@[simp] theorem Dev.countAs_signQ (n k : Nat) (c : Option (BitVec 16)) (t : Option TenantId) (l : Option Cls) : (d.countAs n k c t l).signQ = d.signQ := by
  obtain ⟨_, h⟩ := Dev.countAs_shape d n k c t l; rw [h]
@[simp] theorem Dev.countAs_mb (n k : Nat) (c : Option (BitVec 16)) (t : Option TenantId) (l : Option Cls) : (d.countAs n k c t l).mb = d.mb := by
  obtain ⟨_, h⟩ := Dev.countAs_shape d n k c t l; rw [h]
@[simp] theorem Dev.countAs_bist (n k : Nat) (c : Option (BitVec 16)) (t : Option TenantId) (l : Option Cls) : (d.countAs n k c t l).bist = d.bist := by
  obtain ⟨_, h⟩ := Dev.countAs_shape d n k c t l; rw [h]
@[simp] theorem Dev.countAs_due (n k : Nat) (c : Option (BitVec 16)) (t : Option TenantId) (l : Option Cls) : (d.countAs n k c t l).due = d.due := by
  obtain ⟨_, h⟩ := Dev.countAs_shape d n k c t l; rw [h]
@[simp] theorem Dev.countAs_ext (n k : Nat) (c : Option (BitVec 16)) (t : Option TenantId) (l : Option Cls) : (d.countAs n k c t l).ext = d.ext := by
  obtain ⟨_, h⟩ := Dev.countAs_shape d n k c t l; rw [h]
@[simp] theorem Dev.countAs_extRetire (n k : Nat) (c : Option (BitVec 16)) (t : Option TenantId) (l : Option Cls) : (d.countAs n k c t l).extRetire = d.extRetire := by
  obtain ⟨_, h⟩ := Dev.countAs_shape d n k c t l; rw [h]
@[simp] theorem Dev.countAs_lds (n k : Nat) (c : Option (BitVec 16)) (t : Option TenantId) (l : Option Cls) : (d.countAs n k c t l).lds = d.lds := by
  obtain ⟨_, h⟩ := Dev.countAs_shape d n k c t l; rw [h]
@[simp] theorem Dev.countAs_tenants (n k : Nat) (c : Option (BitVec 16)) (t : Option TenantId) (l : Option Cls) : (d.countAs n k c t l).tenants = d.tenants := by
  obtain ⟨_, h⟩ := Dev.countAs_shape d n k c t l; rw [h]
@[simp] theorem Dev.countAs_mem (n k : Nat) (c : Option (BitVec 16)) (t : Option TenantId) (l : Option Cls) : (d.countAs n k c t l).mem = d.mem := by
  obtain ⟨_, h⟩ := Dev.countAs_shape d n k c t l; rw [h]
@[simp] theorem Dev.countAs_frames (n k : Nat) (c : Option (BitVec 16)) (t : Option TenantId) (l : Option Cls) : (d.countAs n k c t l).frames = d.frames := by
  obtain ⟨_, h⟩ := Dev.countAs_shape d n k c t l; rw [h]
@[simp] theorem Dev.countAs_crm (n k : Nat) (c : Option (BitVec 16)) (t : Option TenantId) (l : Option Cls) : (d.countAs n k c t l).crm = d.crm := by
  obtain ⟨_, h⟩ := Dev.countAs_shape d n k c t l; rw [h]
@[simp] theorem Dev.countAs_thm (n k : Nat) (c : Option (BitVec 16)) (t : Option TenantId) (l : Option Cls) : (d.countAs n k c t l).thm = d.thm := by
  obtain ⟨_, h⟩ := Dev.countAs_shape d n k c t l; rw [h]
@[simp] theorem Dev.countAs_farCh (n k : Nat) (c : Option (BitVec 16)) (t : Option TenantId) (l : Option Cls) : (d.countAs n k c t l).farCh = d.farCh := by
  obtain ⟨_, h⟩ := Dev.countAs_shape d n k c t l; rw [h]
@[simp] theorem Dev.countAs_cry (n k : Nat) (c : Option (BitVec 16)) (t : Option TenantId) (l : Option Cls) : (d.countAs n k c t l).cry = d.cry := by
  obtain ⟨_, h⟩ := Dev.countAs_shape d n k c t l; rw [h]
@[simp] theorem Dev.countAs_prs (n k : Nat) (c : Option (BitVec 16)) (t : Option TenantId) (l : Option Cls) : (d.countAs n k c t l).prs = d.prs := by
  obtain ⟨_, h⟩ := Dev.countAs_shape d n k c t l; rw [h]
@[simp] theorem Dev.countAs_home (n k : Nat) (c : Option (BitVec 16)) (t : Option TenantId) (l : Option Cls) : (d.countAs n k c t l).home = d.home := by
  obtain ⟨_, h⟩ := Dev.countAs_shape d n k c t l; rw [h]
@[simp] theorem Dev.countAs_txns (n k : Nat) (c : Option (BitVec 16)) (t : Option TenantId) (l : Option Cls) : (d.countAs n k c t l).txns = d.txns := by
  obtain ⟨_, h⟩ := Dev.countAs_shape d n k c t l; rw [h]
@[simp] theorem Dev.countAs_nextTxn (n k : Nat) (c : Option (BitVec 16)) (t : Option TenantId) (l : Option Cls) : (d.countAs n k c t l).nextTxn = d.nextTxn := by
  obtain ⟨_, h⟩ := Dev.countAs_shape d n k c t l; rw [h]
@[simp] theorem Dev.countAs_ports (n k : Nat) (c : Option (BitVec 16)) (t : Option TenantId) (l : Option Cls) : (d.countAs n k c t l).ports = d.ports := by
  obtain ⟨_, h⟩ := Dev.countAs_shape d n k c t l; rw [h]
@[simp] theorem Dev.countAs_rly (n k : Nat) (c : Option (BitVec 16)) (t : Option TenantId) (l : Option Cls) : (d.countAs n k c t l).rly = d.rly := by
  obtain ⟨_, h⟩ := Dev.countAs_shape d n k c t l; rw [h]
@[simp] theorem Dev.countAs_chain (n k : Nat) (c : Option (BitVec 16)) (t : Option TenantId) (l : Option Cls) : (d.countAs n k c t l).chain = d.chain := by
  obtain ⟨_, h⟩ := Dev.countAs_shape d n k c t l; rw [h]
@[simp] theorem Dev.countAs_noc (n k : Nat) (c : Option (BitVec 16)) (t : Option TenantId) (l : Option Cls) : (d.countAs n k c t l).noc = d.noc := by
  obtain ⟨_, h⟩ := Dev.countAs_shape d n k c t l; rw [h]
@[simp] theorem Dev.countAs_sched (n k : Nat) (c : Option (BitVec 16)) (t : Option TenantId) (l : Option Cls) : (d.countAs n k c t l).sched = d.sched := by
  obtain ⟨_, h⟩ := Dev.countAs_shape d n k c t l; rw [h]
@[simp] theorem Dev.countAs_merge (n k : Nat) (c : Option (BitVec 16)) (t : Option TenantId) (l : Option Cls) : (d.countAs n k c t l).merge = d.merge := by
  obtain ⟨_, h⟩ := Dev.countAs_shape d n k c t l; rw [h]
@[simp] theorem Dev.countAs_arrayPoison (n k : Nat) (c : Option (BitVec 16)) (t : Option TenantId) (l : Option Cls) : (d.countAs n k c t l).arrayPoison = d.arrayPoison := by
  obtain ⟨_, h⟩ := Dev.countAs_shape d n k c t l; rw [h]
@[simp] theorem Dev.countAs_issued (n k : Nat) (c : Option (BitVec 16)) (t : Option TenantId) (l : Option Cls) : (d.countAs n k c t l).issued = d.issued := by
  obtain ⟨_, h⟩ := Dev.countAs_shape d n k c t l; rw [h]
@[simp] theorem Dev.countAs_ras (n k : Nat) (c : Option (BitVec 16)) (t : Option TenantId) (l : Option Cls) : (d.countAs n k c t l).ras = d.ras := by
  obtain ⟨_, h⟩ := Dev.countAs_shape d n k c t l; rw [h]
@[simp] theorem Dev.countAs_free (n k : Nat) (c : Option (BitVec 16)) (t : Option TenantId) (l : Option Cls) : (d.countAs n k c t l).free = d.free := by
  obtain ⟨_, h⟩ := Dev.countAs_shape d n k c t l; rw [h]
@[simp] theorem Dev.countAs_out (n k : Nat) (c : Option (BitVec 16)) (t : Option TenantId) (l : Option Cls) : (d.countAs n k c t l).out = d.out := by
  obtain ⟨_, h⟩ := Dev.countAs_shape d n k c t l; rw [h]
@[simp] theorem Dev.countAs_wire (n k : Nat) (c : Option (BitVec 16)) (t : Option TenantId) (l : Option Cls) : (d.countAs n k c t l).wire = d.wire := by
  obtain ⟨_, h⟩ := Dev.countAs_shape d n k c t l; rw [h]

@[simp] theorem Dev.count_part (n k : Nat) : (d.count n k).part = d.part := by
  obtain ⟨_, h⟩ := Dev.countAs_shape d n k none none none; simp only [Dev.count, h]
@[simp] theorem Dev.count_mode (n k : Nat) : (d.count n k).mode = d.mode := by
  obtain ⟨_, h⟩ := Dev.countAs_shape d n k none none none; simp only [Dev.count, h]
@[simp] theorem Dev.count_clk (n k : Nat) : (d.count n k).clk = d.clk := by
  obtain ⟨_, h⟩ := Dev.countAs_shape d n k none none none; simp only [Dev.count, h]
@[simp] theorem Dev.count_regs (n k : Nat) : (d.count n k).regs = d.regs := by
  obtain ⟨_, h⟩ := Dev.countAs_shape d n k none none none; simp only [Dev.count, h]
@[simp] theorem Dev.count_shadow (n k : Nat) : (d.count n k).shadow = d.shadow := by
  obtain ⟨_, h⟩ := Dev.countAs_shape d n k none none none; simp only [Dev.count, h]
@[simp] theorem Dev.count_shown (n k : Nat) : (d.count n k).shown = d.shown := by
  obtain ⟨_, h⟩ := Dev.countAs_shape d n k none none none; simp only [Dev.count, h]
@[simp] theorem Dev.count_acc (n k : Nat) : (d.count n k).acc = d.acc := by
  obtain ⟨_, h⟩ := Dev.countAs_shape d n k none none none; simp only [Dev.count, h]
@[simp] theorem Dev.count_stg (n k : Nat) : (d.count n k).stg = d.stg := by
  obtain ⟨_, h⟩ := Dev.countAs_shape d n k none none none; simp only [Dev.count, h]
@[simp] theorem Dev.count_pwr (n k : Nat) : (d.count n k).pwr = d.pwr := by
  obtain ⟨_, h⟩ := Dev.countAs_shape d n k none none none; simp only [Dev.count, h]
@[simp] theorem Dev.count_can (n k : Nat) : (d.count n k).can = d.can := by
  obtain ⟨_, h⟩ := Dev.countAs_shape d n k none none none; simp only [Dev.count, h]
@[simp] theorem Dev.count_fuses (n k : Nat) : (d.count n k).fuses = d.fuses := by
  obtain ⟨_, h⟩ := Dev.countAs_shape d n k none none none; simp only [Dev.count, h]
@[simp] theorem Dev.count_sec (n k : Nat) : (d.count n k).sec = d.sec := by
  obtain ⟨_, h⟩ := Dev.countAs_shape d n k none none none; simp only [Dev.count, h]
@[simp] theorem Dev.count_spdm (n k : Nat) : (d.count n k).spdm = d.spdm := by
  obtain ⟨_, h⟩ := Dev.countAs_shape d n k none none none; simp only [Dev.count, h]
@[simp] theorem Dev.count_signQ (n k : Nat) : (d.count n k).signQ = d.signQ := by
  obtain ⟨_, h⟩ := Dev.countAs_shape d n k none none none; simp only [Dev.count, h]
@[simp] theorem Dev.count_mb (n k : Nat) : (d.count n k).mb = d.mb := by
  obtain ⟨_, h⟩ := Dev.countAs_shape d n k none none none; simp only [Dev.count, h]
@[simp] theorem Dev.count_bist (n k : Nat) : (d.count n k).bist = d.bist := by
  obtain ⟨_, h⟩ := Dev.countAs_shape d n k none none none; simp only [Dev.count, h]
@[simp] theorem Dev.count_due (n k : Nat) : (d.count n k).due = d.due := by
  obtain ⟨_, h⟩ := Dev.countAs_shape d n k none none none; simp only [Dev.count, h]
@[simp] theorem Dev.count_ext (n k : Nat) : (d.count n k).ext = d.ext := by
  obtain ⟨_, h⟩ := Dev.countAs_shape d n k none none none; simp only [Dev.count, h]
@[simp] theorem Dev.count_extRetire (n k : Nat) : (d.count n k).extRetire = d.extRetire := by
  obtain ⟨_, h⟩ := Dev.countAs_shape d n k none none none; simp only [Dev.count, h]
@[simp] theorem Dev.count_lds (n k : Nat) : (d.count n k).lds = d.lds := by
  obtain ⟨_, h⟩ := Dev.countAs_shape d n k none none none; simp only [Dev.count, h]
@[simp] theorem Dev.count_tenants (n k : Nat) : (d.count n k).tenants = d.tenants := by
  obtain ⟨_, h⟩ := Dev.countAs_shape d n k none none none; simp only [Dev.count, h]
@[simp] theorem Dev.count_mem (n k : Nat) : (d.count n k).mem = d.mem := by
  obtain ⟨_, h⟩ := Dev.countAs_shape d n k none none none; simp only [Dev.count, h]
@[simp] theorem Dev.count_frames (n k : Nat) : (d.count n k).frames = d.frames := by
  obtain ⟨_, h⟩ := Dev.countAs_shape d n k none none none; simp only [Dev.count, h]
@[simp] theorem Dev.count_crm (n k : Nat) : (d.count n k).crm = d.crm := by
  obtain ⟨_, h⟩ := Dev.countAs_shape d n k none none none; simp only [Dev.count, h]
@[simp] theorem Dev.count_thm (n k : Nat) : (d.count n k).thm = d.thm := by
  obtain ⟨_, h⟩ := Dev.countAs_shape d n k none none none; simp only [Dev.count, h]
@[simp] theorem Dev.count_farCh (n k : Nat) : (d.count n k).farCh = d.farCh := by
  obtain ⟨_, h⟩ := Dev.countAs_shape d n k none none none; simp only [Dev.count, h]
@[simp] theorem Dev.count_cry (n k : Nat) : (d.count n k).cry = d.cry := by
  obtain ⟨_, h⟩ := Dev.countAs_shape d n k none none none; simp only [Dev.count, h]
@[simp] theorem Dev.count_prs (n k : Nat) : (d.count n k).prs = d.prs := by
  obtain ⟨_, h⟩ := Dev.countAs_shape d n k none none none; simp only [Dev.count, h]
@[simp] theorem Dev.count_home (n k : Nat) : (d.count n k).home = d.home := by
  obtain ⟨_, h⟩ := Dev.countAs_shape d n k none none none; simp only [Dev.count, h]
@[simp] theorem Dev.count_txns (n k : Nat) : (d.count n k).txns = d.txns := by
  obtain ⟨_, h⟩ := Dev.countAs_shape d n k none none none; simp only [Dev.count, h]
@[simp] theorem Dev.count_nextTxn (n k : Nat) : (d.count n k).nextTxn = d.nextTxn := by
  obtain ⟨_, h⟩ := Dev.countAs_shape d n k none none none; simp only [Dev.count, h]
@[simp] theorem Dev.count_ports (n k : Nat) : (d.count n k).ports = d.ports := by
  obtain ⟨_, h⟩ := Dev.countAs_shape d n k none none none; simp only [Dev.count, h]
@[simp] theorem Dev.count_rly (n k : Nat) : (d.count n k).rly = d.rly := by
  obtain ⟨_, h⟩ := Dev.countAs_shape d n k none none none; simp only [Dev.count, h]
@[simp] theorem Dev.count_chain (n k : Nat) : (d.count n k).chain = d.chain := by
  obtain ⟨_, h⟩ := Dev.countAs_shape d n k none none none; simp only [Dev.count, h]
@[simp] theorem Dev.count_noc (n k : Nat) : (d.count n k).noc = d.noc := by
  obtain ⟨_, h⟩ := Dev.countAs_shape d n k none none none; simp only [Dev.count, h]
@[simp] theorem Dev.count_sched (n k : Nat) : (d.count n k).sched = d.sched := by
  obtain ⟨_, h⟩ := Dev.countAs_shape d n k none none none; simp only [Dev.count, h]
@[simp] theorem Dev.count_merge (n k : Nat) : (d.count n k).merge = d.merge := by
  obtain ⟨_, h⟩ := Dev.countAs_shape d n k none none none; simp only [Dev.count, h]
@[simp] theorem Dev.count_arrayPoison (n k : Nat) : (d.count n k).arrayPoison = d.arrayPoison := by
  obtain ⟨_, h⟩ := Dev.countAs_shape d n k none none none; simp only [Dev.count, h]
@[simp] theorem Dev.count_issued (n k : Nat) : (d.count n k).issued = d.issued := by
  obtain ⟨_, h⟩ := Dev.countAs_shape d n k none none none; simp only [Dev.count, h]
@[simp] theorem Dev.count_ras (n k : Nat) : (d.count n k).ras = d.ras := by
  obtain ⟨_, h⟩ := Dev.countAs_shape d n k none none none; simp only [Dev.count, h]
@[simp] theorem Dev.count_free (n k : Nat) : (d.count n k).free = d.free := by
  obtain ⟨_, h⟩ := Dev.countAs_shape d n k none none none; simp only [Dev.count, h]
@[simp] theorem Dev.count_out (n k : Nat) : (d.count n k).out = d.out := by
  obtain ⟨_, h⟩ := Dev.countAs_shape d n k none none none; simp only [Dev.count, h]
@[simp] theorem Dev.count_wire (n k : Nat) : (d.count n k).wire = d.wire := by
  obtain ⟨_, h⟩ := Dev.countAs_shape d n k none none none; simp only [Dev.count, h]

@[simp] theorem Dev.alert_part (b : Nat) : (d.alert b).part = d.part := by
  obtain ⟨_, h⟩ := Dev.alert_shape d b; rw [h]
@[simp] theorem Dev.alert_mode (b : Nat) : (d.alert b).mode = d.mode := by
  obtain ⟨_, h⟩ := Dev.alert_shape d b; rw [h]
@[simp] theorem Dev.alert_clk (b : Nat) : (d.alert b).clk = d.clk := by
  obtain ⟨_, h⟩ := Dev.alert_shape d b; rw [h]
@[simp] theorem Dev.alert_shadow (b : Nat) : (d.alert b).shadow = d.shadow := by
  obtain ⟨_, h⟩ := Dev.alert_shape d b; rw [h]
@[simp] theorem Dev.alert_shown (b : Nat) : (d.alert b).shown = d.shown := by
  obtain ⟨_, h⟩ := Dev.alert_shape d b; rw [h]
@[simp] theorem Dev.alert_acc (b : Nat) : (d.alert b).acc = d.acc := by
  obtain ⟨_, h⟩ := Dev.alert_shape d b; rw [h]
@[simp] theorem Dev.alert_stg (b : Nat) : (d.alert b).stg = d.stg := by
  obtain ⟨_, h⟩ := Dev.alert_shape d b; rw [h]
@[simp] theorem Dev.alert_pwr (b : Nat) : (d.alert b).pwr = d.pwr := by
  obtain ⟨_, h⟩ := Dev.alert_shape d b; rw [h]
@[simp] theorem Dev.alert_can (b : Nat) : (d.alert b).can = d.can := by
  obtain ⟨_, h⟩ := Dev.alert_shape d b; rw [h]
@[simp] theorem Dev.alert_fuses (b : Nat) : (d.alert b).fuses = d.fuses := by
  obtain ⟨_, h⟩ := Dev.alert_shape d b; rw [h]
@[simp] theorem Dev.alert_sec (b : Nat) : (d.alert b).sec = d.sec := by
  obtain ⟨_, h⟩ := Dev.alert_shape d b; rw [h]
@[simp] theorem Dev.alert_spdm (b : Nat) : (d.alert b).spdm = d.spdm := by
  obtain ⟨_, h⟩ := Dev.alert_shape d b; rw [h]
@[simp] theorem Dev.alert_signQ (b : Nat) : (d.alert b).signQ = d.signQ := by
  obtain ⟨_, h⟩ := Dev.alert_shape d b; rw [h]
@[simp] theorem Dev.alert_mb (b : Nat) : (d.alert b).mb = d.mb := by
  obtain ⟨_, h⟩ := Dev.alert_shape d b; rw [h]
@[simp] theorem Dev.alert_bist (b : Nat) : (d.alert b).bist = d.bist := by
  obtain ⟨_, h⟩ := Dev.alert_shape d b; rw [h]
@[simp] theorem Dev.alert_due (b : Nat) : (d.alert b).due = d.due := by
  obtain ⟨_, h⟩ := Dev.alert_shape d b; rw [h]
@[simp] theorem Dev.alert_ext (b : Nat) : (d.alert b).ext = d.ext := by
  obtain ⟨_, h⟩ := Dev.alert_shape d b; rw [h]
@[simp] theorem Dev.alert_extRetire (b : Nat) : (d.alert b).extRetire = d.extRetire := by
  obtain ⟨_, h⟩ := Dev.alert_shape d b; rw [h]
@[simp] theorem Dev.alert_lds (b : Nat) : (d.alert b).lds = d.lds := by
  obtain ⟨_, h⟩ := Dev.alert_shape d b; rw [h]
@[simp] theorem Dev.alert_tenants (b : Nat) : (d.alert b).tenants = d.tenants := by
  obtain ⟨_, h⟩ := Dev.alert_shape d b; rw [h]
@[simp] theorem Dev.alert_mem (b : Nat) : (d.alert b).mem = d.mem := by
  obtain ⟨_, h⟩ := Dev.alert_shape d b; rw [h]
@[simp] theorem Dev.alert_frames (b : Nat) : (d.alert b).frames = d.frames := by
  obtain ⟨_, h⟩ := Dev.alert_shape d b; rw [h]
@[simp] theorem Dev.alert_crm (b : Nat) : (d.alert b).crm = d.crm := by
  obtain ⟨_, h⟩ := Dev.alert_shape d b; rw [h]
@[simp] theorem Dev.alert_thm (b : Nat) : (d.alert b).thm = d.thm := by
  obtain ⟨_, h⟩ := Dev.alert_shape d b; rw [h]
@[simp] theorem Dev.alert_farCh (b : Nat) : (d.alert b).farCh = d.farCh := by
  obtain ⟨_, h⟩ := Dev.alert_shape d b; rw [h]
@[simp] theorem Dev.alert_cry (b : Nat) : (d.alert b).cry = d.cry := by
  obtain ⟨_, h⟩ := Dev.alert_shape d b; rw [h]
@[simp] theorem Dev.alert_prs (b : Nat) : (d.alert b).prs = d.prs := by
  obtain ⟨_, h⟩ := Dev.alert_shape d b; rw [h]
@[simp] theorem Dev.alert_home (b : Nat) : (d.alert b).home = d.home := by
  obtain ⟨_, h⟩ := Dev.alert_shape d b; rw [h]
@[simp] theorem Dev.alert_txns (b : Nat) : (d.alert b).txns = d.txns := by
  obtain ⟨_, h⟩ := Dev.alert_shape d b; rw [h]
@[simp] theorem Dev.alert_nextTxn (b : Nat) : (d.alert b).nextTxn = d.nextTxn := by
  obtain ⟨_, h⟩ := Dev.alert_shape d b; rw [h]
@[simp] theorem Dev.alert_ports (b : Nat) : (d.alert b).ports = d.ports := by
  obtain ⟨_, h⟩ := Dev.alert_shape d b; rw [h]
@[simp] theorem Dev.alert_rly (b : Nat) : (d.alert b).rly = d.rly := by
  obtain ⟨_, h⟩ := Dev.alert_shape d b; rw [h]
@[simp] theorem Dev.alert_chain (b : Nat) : (d.alert b).chain = d.chain := by
  obtain ⟨_, h⟩ := Dev.alert_shape d b; rw [h]
@[simp] theorem Dev.alert_noc (b : Nat) : (d.alert b).noc = d.noc := by
  obtain ⟨_, h⟩ := Dev.alert_shape d b; rw [h]
@[simp] theorem Dev.alert_sched (b : Nat) : (d.alert b).sched = d.sched := by
  obtain ⟨_, h⟩ := Dev.alert_shape d b; rw [h]
@[simp] theorem Dev.alert_merge (b : Nat) : (d.alert b).merge = d.merge := by
  obtain ⟨_, h⟩ := Dev.alert_shape d b; rw [h]
@[simp] theorem Dev.alert_arrayPoison (b : Nat) : (d.alert b).arrayPoison = d.arrayPoison := by
  obtain ⟨_, h⟩ := Dev.alert_shape d b; rw [h]
@[simp] theorem Dev.alert_issued (b : Nat) : (d.alert b).issued = d.issued := by
  obtain ⟨_, h⟩ := Dev.alert_shape d b; rw [h]
@[simp] theorem Dev.alert_pmu (b : Nat) : (d.alert b).pmu = d.pmu := by
  obtain ⟨_, h⟩ := Dev.alert_shape d b; rw [h]
@[simp] theorem Dev.alert_ras (b : Nat) : (d.alert b).ras = d.ras := by
  obtain ⟨_, h⟩ := Dev.alert_shape d b; rw [h]
@[simp] theorem Dev.alert_free (b : Nat) : (d.alert b).free = d.free := by
  obtain ⟨_, h⟩ := Dev.alert_shape d b; rw [h]
@[simp] theorem Dev.alert_out (b : Nat) : (d.alert b).out = d.out := by
  obtain ⟨_, h⟩ := Dev.alert_shape d b; rw [h]
@[simp] theorem Dev.alert_wire (b : Nat) : (d.alert b).wire = d.wire := by
  obtain ⟨_, h⟩ := Dev.alert_shape d b; rw [h]

@[simp] theorem Dev.raise_part (e : Ev) : (d.raise e).part = d.part := by
  obtain ⟨_, _, _, _, _, _, h⟩ := Dev.raise_shape d e; rw [h]
@[simp] theorem Dev.raise_mode (e : Ev) : (d.raise e).mode = d.mode := by
  obtain ⟨_, _, _, _, _, _, h⟩ := Dev.raise_shape d e; rw [h]
@[simp] theorem Dev.raise_clk (e : Ev) : (d.raise e).clk = d.clk := by
  obtain ⟨_, _, _, _, _, _, h⟩ := Dev.raise_shape d e; rw [h]
@[simp] theorem Dev.raise_shadow (e : Ev) : (d.raise e).shadow = d.shadow := by
  obtain ⟨_, _, _, _, _, _, h⟩ := Dev.raise_shape d e; rw [h]
@[simp] theorem Dev.raise_shown (e : Ev) : (d.raise e).shown = d.shown := by
  obtain ⟨_, _, _, _, _, _, h⟩ := Dev.raise_shape d e; rw [h]
@[simp] theorem Dev.raise_acc (e : Ev) : (d.raise e).acc = d.acc := by
  obtain ⟨_, _, _, _, _, _, h⟩ := Dev.raise_shape d e; rw [h]
@[simp] theorem Dev.raise_stg (e : Ev) : (d.raise e).stg = d.stg := by
  obtain ⟨_, _, _, _, _, _, h⟩ := Dev.raise_shape d e; rw [h]
@[simp] theorem Dev.raise_pwr (e : Ev) : (d.raise e).pwr = d.pwr := by
  obtain ⟨_, _, _, _, _, _, h⟩ := Dev.raise_shape d e; rw [h]
@[simp] theorem Dev.raise_can (e : Ev) : (d.raise e).can = d.can := by
  obtain ⟨_, _, _, _, _, _, h⟩ := Dev.raise_shape d e; rw [h]
@[simp] theorem Dev.raise_fuses (e : Ev) : (d.raise e).fuses = d.fuses := by
  obtain ⟨_, _, _, _, _, _, h⟩ := Dev.raise_shape d e; rw [h]
@[simp] theorem Dev.raise_sec (e : Ev) : (d.raise e).sec = d.sec := by
  obtain ⟨_, _, _, _, _, _, h⟩ := Dev.raise_shape d e; rw [h]
@[simp] theorem Dev.raise_spdm (e : Ev) : (d.raise e).spdm = d.spdm := by
  obtain ⟨_, _, _, _, _, _, h⟩ := Dev.raise_shape d e; rw [h]
@[simp] theorem Dev.raise_signQ (e : Ev) : (d.raise e).signQ = d.signQ := by
  obtain ⟨_, _, _, _, _, _, h⟩ := Dev.raise_shape d e; rw [h]
@[simp] theorem Dev.raise_mb (e : Ev) : (d.raise e).mb = d.mb := by
  obtain ⟨_, _, _, _, _, _, h⟩ := Dev.raise_shape d e; rw [h]
@[simp] theorem Dev.raise_bist (e : Ev) : (d.raise e).bist = d.bist := by
  obtain ⟨_, _, _, _, _, _, h⟩ := Dev.raise_shape d e; rw [h]
@[simp] theorem Dev.raise_due (e : Ev) : (d.raise e).due = d.due := by
  obtain ⟨_, _, _, _, _, _, h⟩ := Dev.raise_shape d e; rw [h]
@[simp] theorem Dev.raise_ext (e : Ev) : (d.raise e).ext = d.ext := by
  obtain ⟨_, _, _, _, _, _, h⟩ := Dev.raise_shape d e; rw [h]
@[simp] theorem Dev.raise_extRetire (e : Ev) : (d.raise e).extRetire = d.extRetire := by
  obtain ⟨_, _, _, _, _, _, h⟩ := Dev.raise_shape d e; rw [h]
@[simp] theorem Dev.raise_lds (e : Ev) : (d.raise e).lds = d.lds := by
  obtain ⟨_, _, _, _, _, _, h⟩ := Dev.raise_shape d e; rw [h]
@[simp] theorem Dev.raise_tenants (e : Ev) : (d.raise e).tenants = d.tenants := by
  obtain ⟨_, _, _, _, _, _, h⟩ := Dev.raise_shape d e; rw [h]
@[simp] theorem Dev.raise_mem (e : Ev) : (d.raise e).mem = d.mem := by
  obtain ⟨_, _, _, _, _, _, h⟩ := Dev.raise_shape d e; rw [h]
@[simp] theorem Dev.raise_frames (e : Ev) : (d.raise e).frames = d.frames := by
  obtain ⟨_, _, _, _, _, _, h⟩ := Dev.raise_shape d e; rw [h]
@[simp] theorem Dev.raise_crm (e : Ev) : (d.raise e).crm = d.crm := by
  obtain ⟨_, _, _, _, _, _, h⟩ := Dev.raise_shape d e; rw [h]
@[simp] theorem Dev.raise_thm (e : Ev) : (d.raise e).thm = d.thm := by
  obtain ⟨_, _, _, _, _, _, h⟩ := Dev.raise_shape d e; rw [h]
@[simp] theorem Dev.raise_farCh (e : Ev) : (d.raise e).farCh = d.farCh := by
  obtain ⟨_, _, _, _, _, _, h⟩ := Dev.raise_shape d e; rw [h]
@[simp] theorem Dev.raise_cry (e : Ev) : (d.raise e).cry = d.cry := by
  obtain ⟨_, _, _, _, _, _, h⟩ := Dev.raise_shape d e; rw [h]
@[simp] theorem Dev.raise_prs (e : Ev) : (d.raise e).prs = d.prs := by
  obtain ⟨_, _, _, _, _, _, h⟩ := Dev.raise_shape d e; rw [h]
@[simp] theorem Dev.raise_home (e : Ev) : (d.raise e).home = d.home := by
  obtain ⟨_, _, _, _, _, _, h⟩ := Dev.raise_shape d e; rw [h]
@[simp] theorem Dev.raise_txns (e : Ev) : (d.raise e).txns = d.txns := by
  obtain ⟨_, _, _, _, _, _, h⟩ := Dev.raise_shape d e; rw [h]
@[simp] theorem Dev.raise_nextTxn (e : Ev) : (d.raise e).nextTxn = d.nextTxn := by
  obtain ⟨_, _, _, _, _, _, h⟩ := Dev.raise_shape d e; rw [h]
@[simp] theorem Dev.raise_ports (e : Ev) : (d.raise e).ports = d.ports := by
  obtain ⟨_, _, _, _, _, _, h⟩ := Dev.raise_shape d e; rw [h]
@[simp] theorem Dev.raise_rly (e : Ev) : (d.raise e).rly = d.rly := by
  obtain ⟨_, _, _, _, _, _, h⟩ := Dev.raise_shape d e; rw [h]
@[simp] theorem Dev.raise_chain (e : Ev) : (d.raise e).chain = d.chain := by
  obtain ⟨_, _, _, _, _, _, h⟩ := Dev.raise_shape d e; rw [h]
@[simp] theorem Dev.raise_noc (e : Ev) : (d.raise e).noc = d.noc := by
  obtain ⟨_, _, _, _, _, _, h⟩ := Dev.raise_shape d e; rw [h]
@[simp] theorem Dev.raise_sched (e : Ev) : (d.raise e).sched = d.sched := by
  obtain ⟨_, _, _, _, _, _, h⟩ := Dev.raise_shape d e; rw [h]
@[simp] theorem Dev.raise_free (e : Ev) : (d.raise e).free = d.free := by
  obtain ⟨_, _, _, _, _, _, h⟩ := Dev.raise_shape d e; rw [h]
@[simp] theorem Dev.raise_out (e : Ev) : (d.raise e).out = d.out := by
  obtain ⟨_, _, _, _, _, _, h⟩ := Dev.raise_shape d e; rw [h]
@[simp] theorem Dev.raise_wire (e : Ev) : (d.raise e).wire = d.wire := by
  obtain ⟨_, _, _, _, _, _, h⟩ := Dev.raise_shape d e; rw [h]

@[simp] theorem Dev.raiseN_part (n : Nat) (l : List Word) : (d.raiseN n l).part = d.part := by
  obtain ⟨_, _, _, _, _, _, h⟩ := Dev.raise_shape d { num := n, detail := l }; simp only [Dev.raiseN, h]
@[simp] theorem Dev.raiseN_mode (n : Nat) (l : List Word) : (d.raiseN n l).mode = d.mode := by
  obtain ⟨_, _, _, _, _, _, h⟩ := Dev.raise_shape d { num := n, detail := l }; simp only [Dev.raiseN, h]
@[simp] theorem Dev.raiseN_clk (n : Nat) (l : List Word) : (d.raiseN n l).clk = d.clk := by
  obtain ⟨_, _, _, _, _, _, h⟩ := Dev.raise_shape d { num := n, detail := l }; simp only [Dev.raiseN, h]
@[simp] theorem Dev.raiseN_shadow (n : Nat) (l : List Word) : (d.raiseN n l).shadow = d.shadow := by
  obtain ⟨_, _, _, _, _, _, h⟩ := Dev.raise_shape d { num := n, detail := l }; simp only [Dev.raiseN, h]
@[simp] theorem Dev.raiseN_shown (n : Nat) (l : List Word) : (d.raiseN n l).shown = d.shown := by
  obtain ⟨_, _, _, _, _, _, h⟩ := Dev.raise_shape d { num := n, detail := l }; simp only [Dev.raiseN, h]
@[simp] theorem Dev.raiseN_acc (n : Nat) (l : List Word) : (d.raiseN n l).acc = d.acc := by
  obtain ⟨_, _, _, _, _, _, h⟩ := Dev.raise_shape d { num := n, detail := l }; simp only [Dev.raiseN, h]
@[simp] theorem Dev.raiseN_stg (n : Nat) (l : List Word) : (d.raiseN n l).stg = d.stg := by
  obtain ⟨_, _, _, _, _, _, h⟩ := Dev.raise_shape d { num := n, detail := l }; simp only [Dev.raiseN, h]
@[simp] theorem Dev.raiseN_pwr (n : Nat) (l : List Word) : (d.raiseN n l).pwr = d.pwr := by
  obtain ⟨_, _, _, _, _, _, h⟩ := Dev.raise_shape d { num := n, detail := l }; simp only [Dev.raiseN, h]
@[simp] theorem Dev.raiseN_can (n : Nat) (l : List Word) : (d.raiseN n l).can = d.can := by
  obtain ⟨_, _, _, _, _, _, h⟩ := Dev.raise_shape d { num := n, detail := l }; simp only [Dev.raiseN, h]
@[simp] theorem Dev.raiseN_fuses (n : Nat) (l : List Word) : (d.raiseN n l).fuses = d.fuses := by
  obtain ⟨_, _, _, _, _, _, h⟩ := Dev.raise_shape d { num := n, detail := l }; simp only [Dev.raiseN, h]
@[simp] theorem Dev.raiseN_sec (n : Nat) (l : List Word) : (d.raiseN n l).sec = d.sec := by
  obtain ⟨_, _, _, _, _, _, h⟩ := Dev.raise_shape d { num := n, detail := l }; simp only [Dev.raiseN, h]
@[simp] theorem Dev.raiseN_spdm (n : Nat) (l : List Word) : (d.raiseN n l).spdm = d.spdm := by
  obtain ⟨_, _, _, _, _, _, h⟩ := Dev.raise_shape d { num := n, detail := l }; simp only [Dev.raiseN, h]
@[simp] theorem Dev.raiseN_signQ (n : Nat) (l : List Word) : (d.raiseN n l).signQ = d.signQ := by
  obtain ⟨_, _, _, _, _, _, h⟩ := Dev.raise_shape d { num := n, detail := l }; simp only [Dev.raiseN, h]
@[simp] theorem Dev.raiseN_mb (n : Nat) (l : List Word) : (d.raiseN n l).mb = d.mb := by
  obtain ⟨_, _, _, _, _, _, h⟩ := Dev.raise_shape d { num := n, detail := l }; simp only [Dev.raiseN, h]
@[simp] theorem Dev.raiseN_bist (n : Nat) (l : List Word) : (d.raiseN n l).bist = d.bist := by
  obtain ⟨_, _, _, _, _, _, h⟩ := Dev.raise_shape d { num := n, detail := l }; simp only [Dev.raiseN, h]
@[simp] theorem Dev.raiseN_due (n : Nat) (l : List Word) : (d.raiseN n l).due = d.due := by
  obtain ⟨_, _, _, _, _, _, h⟩ := Dev.raise_shape d { num := n, detail := l }; simp only [Dev.raiseN, h]
@[simp] theorem Dev.raiseN_ext (n : Nat) (l : List Word) : (d.raiseN n l).ext = d.ext := by
  obtain ⟨_, _, _, _, _, _, h⟩ := Dev.raise_shape d { num := n, detail := l }; simp only [Dev.raiseN, h]
@[simp] theorem Dev.raiseN_extRetire (n : Nat) (l : List Word) : (d.raiseN n l).extRetire = d.extRetire := by
  obtain ⟨_, _, _, _, _, _, h⟩ := Dev.raise_shape d { num := n, detail := l }; simp only [Dev.raiseN, h]
@[simp] theorem Dev.raiseN_lds (n : Nat) (l : List Word) : (d.raiseN n l).lds = d.lds := by
  obtain ⟨_, _, _, _, _, _, h⟩ := Dev.raise_shape d { num := n, detail := l }; simp only [Dev.raiseN, h]
@[simp] theorem Dev.raiseN_tenants (n : Nat) (l : List Word) : (d.raiseN n l).tenants = d.tenants := by
  obtain ⟨_, _, _, _, _, _, h⟩ := Dev.raise_shape d { num := n, detail := l }; simp only [Dev.raiseN, h]
@[simp] theorem Dev.raiseN_mem (n : Nat) (l : List Word) : (d.raiseN n l).mem = d.mem := by
  obtain ⟨_, _, _, _, _, _, h⟩ := Dev.raise_shape d { num := n, detail := l }; simp only [Dev.raiseN, h]
@[simp] theorem Dev.raiseN_frames (n : Nat) (l : List Word) : (d.raiseN n l).frames = d.frames := by
  obtain ⟨_, _, _, _, _, _, h⟩ := Dev.raise_shape d { num := n, detail := l }; simp only [Dev.raiseN, h]
@[simp] theorem Dev.raiseN_crm (n : Nat) (l : List Word) : (d.raiseN n l).crm = d.crm := by
  obtain ⟨_, _, _, _, _, _, h⟩ := Dev.raise_shape d { num := n, detail := l }; simp only [Dev.raiseN, h]
@[simp] theorem Dev.raiseN_thm (n : Nat) (l : List Word) : (d.raiseN n l).thm = d.thm := by
  obtain ⟨_, _, _, _, _, _, h⟩ := Dev.raise_shape d { num := n, detail := l }; simp only [Dev.raiseN, h]
@[simp] theorem Dev.raiseN_farCh (n : Nat) (l : List Word) : (d.raiseN n l).farCh = d.farCh := by
  obtain ⟨_, _, _, _, _, _, h⟩ := Dev.raise_shape d { num := n, detail := l }; simp only [Dev.raiseN, h]
@[simp] theorem Dev.raiseN_cry (n : Nat) (l : List Word) : (d.raiseN n l).cry = d.cry := by
  obtain ⟨_, _, _, _, _, _, h⟩ := Dev.raise_shape d { num := n, detail := l }; simp only [Dev.raiseN, h]
@[simp] theorem Dev.raiseN_prs (n : Nat) (l : List Word) : (d.raiseN n l).prs = d.prs := by
  obtain ⟨_, _, _, _, _, _, h⟩ := Dev.raise_shape d { num := n, detail := l }; simp only [Dev.raiseN, h]
@[simp] theorem Dev.raiseN_home (n : Nat) (l : List Word) : (d.raiseN n l).home = d.home := by
  obtain ⟨_, _, _, _, _, _, h⟩ := Dev.raise_shape d { num := n, detail := l }; simp only [Dev.raiseN, h]
@[simp] theorem Dev.raiseN_txns (n : Nat) (l : List Word) : (d.raiseN n l).txns = d.txns := by
  obtain ⟨_, _, _, _, _, _, h⟩ := Dev.raise_shape d { num := n, detail := l }; simp only [Dev.raiseN, h]
@[simp] theorem Dev.raiseN_nextTxn (n : Nat) (l : List Word) : (d.raiseN n l).nextTxn = d.nextTxn := by
  obtain ⟨_, _, _, _, _, _, h⟩ := Dev.raise_shape d { num := n, detail := l }; simp only [Dev.raiseN, h]
@[simp] theorem Dev.raiseN_ports (n : Nat) (l : List Word) : (d.raiseN n l).ports = d.ports := by
  obtain ⟨_, _, _, _, _, _, h⟩ := Dev.raise_shape d { num := n, detail := l }; simp only [Dev.raiseN, h]
@[simp] theorem Dev.raiseN_rly (n : Nat) (l : List Word) : (d.raiseN n l).rly = d.rly := by
  obtain ⟨_, _, _, _, _, _, h⟩ := Dev.raise_shape d { num := n, detail := l }; simp only [Dev.raiseN, h]
@[simp] theorem Dev.raiseN_chain (n : Nat) (l : List Word) : (d.raiseN n l).chain = d.chain := by
  obtain ⟨_, _, _, _, _, _, h⟩ := Dev.raise_shape d { num := n, detail := l }; simp only [Dev.raiseN, h]
@[simp] theorem Dev.raiseN_noc (n : Nat) (l : List Word) : (d.raiseN n l).noc = d.noc := by
  obtain ⟨_, _, _, _, _, _, h⟩ := Dev.raise_shape d { num := n, detail := l }; simp only [Dev.raiseN, h]
@[simp] theorem Dev.raiseN_sched (n : Nat) (l : List Word) : (d.raiseN n l).sched = d.sched := by
  obtain ⟨_, _, _, _, _, _, h⟩ := Dev.raise_shape d { num := n, detail := l }; simp only [Dev.raiseN, h]
@[simp] theorem Dev.raiseN_free (n : Nat) (l : List Word) : (d.raiseN n l).free = d.free := by
  obtain ⟨_, _, _, _, _, _, h⟩ := Dev.raise_shape d { num := n, detail := l }; simp only [Dev.raiseN, h]
@[simp] theorem Dev.raiseN_out (n : Nat) (l : List Word) : (d.raiseN n l).out = d.out := by
  obtain ⟨_, _, _, _, _, _, h⟩ := Dev.raise_shape d { num := n, detail := l }; simp only [Dev.raiseN, h]
@[simp] theorem Dev.raiseN_wire (n : Nat) (l : List Word) : (d.raiseN n l).wire = d.wire := by
  obtain ⟨_, _, _, _, _, _, h⟩ := Dev.raise_shape d { num := n, detail := l }; simp only [Dev.raiseN, h]

@[simp] theorem Dev.enter_part (m : Mode) (c k : Nat) : (d.enter m c k).part = d.part := by
  obtain ⟨_, _, _, _, _, _, _, _, h⟩ := Dev.enter_shape d m c k; rw [h]
@[simp] theorem Dev.enter_clk (m : Mode) (c k : Nat) : (d.enter m c k).clk = d.clk := by
  obtain ⟨_, _, _, _, _, _, _, _, h⟩ := Dev.enter_shape d m c k; rw [h]
@[simp] theorem Dev.enter_shadow (m : Mode) (c k : Nat) : (d.enter m c k).shadow = d.shadow := by
  obtain ⟨_, _, _, _, _, _, _, _, h⟩ := Dev.enter_shape d m c k; rw [h]
@[simp] theorem Dev.enter_shown (m : Mode) (c k : Nat) : (d.enter m c k).shown = d.shown := by
  obtain ⟨_, _, _, _, _, _, _, _, h⟩ := Dev.enter_shape d m c k; rw [h]
@[simp] theorem Dev.enter_acc (m : Mode) (c k : Nat) : (d.enter m c k).acc = d.acc := by
  obtain ⟨_, _, _, _, _, _, _, _, h⟩ := Dev.enter_shape d m c k; rw [h]
@[simp] theorem Dev.enter_stg (m : Mode) (c k : Nat) : (d.enter m c k).stg = d.stg := by
  obtain ⟨_, _, _, _, _, _, _, _, h⟩ := Dev.enter_shape d m c k; rw [h]
@[simp] theorem Dev.enter_pwr (m : Mode) (c k : Nat) : (d.enter m c k).pwr = d.pwr := by
  obtain ⟨_, _, _, _, _, _, _, _, h⟩ := Dev.enter_shape d m c k; rw [h]
@[simp] theorem Dev.enter_can (m : Mode) (c k : Nat) : (d.enter m c k).can = d.can := by
  obtain ⟨_, _, _, _, _, _, _, _, h⟩ := Dev.enter_shape d m c k; rw [h]
@[simp] theorem Dev.enter_fuses (m : Mode) (c k : Nat) : (d.enter m c k).fuses = d.fuses := by
  obtain ⟨_, _, _, _, _, _, _, _, h⟩ := Dev.enter_shape d m c k; rw [h]
@[simp] theorem Dev.enter_sec (m : Mode) (c k : Nat) : (d.enter m c k).sec = d.sec := by
  obtain ⟨_, _, _, _, _, _, _, _, h⟩ := Dev.enter_shape d m c k; rw [h]
@[simp] theorem Dev.enter_spdm (m : Mode) (c k : Nat) : (d.enter m c k).spdm = d.spdm := by
  obtain ⟨_, _, _, _, _, _, _, _, h⟩ := Dev.enter_shape d m c k; rw [h]
@[simp] theorem Dev.enter_signQ (m : Mode) (c k : Nat) : (d.enter m c k).signQ = d.signQ := by
  obtain ⟨_, _, _, _, _, _, _, _, h⟩ := Dev.enter_shape d m c k; rw [h]
@[simp] theorem Dev.enter_mb (m : Mode) (c k : Nat) : (d.enter m c k).mb = d.mb := by
  obtain ⟨_, _, _, _, _, _, _, _, h⟩ := Dev.enter_shape d m c k; rw [h]
@[simp] theorem Dev.enter_bist (m : Mode) (c k : Nat) : (d.enter m c k).bist = d.bist := by
  obtain ⟨_, _, _, _, _, _, _, _, h⟩ := Dev.enter_shape d m c k; rw [h]
@[simp] theorem Dev.enter_ext (m : Mode) (c k : Nat) : (d.enter m c k).ext = d.ext := by
  obtain ⟨_, _, _, _, _, _, _, _, h⟩ := Dev.enter_shape d m c k; rw [h]
@[simp] theorem Dev.enter_extRetire (m : Mode) (c k : Nat) : (d.enter m c k).extRetire = d.extRetire := by
  obtain ⟨_, _, _, _, _, _, _, _, h⟩ := Dev.enter_shape d m c k; rw [h]
@[simp] theorem Dev.enter_lds (m : Mode) (c k : Nat) : (d.enter m c k).lds = d.lds := by
  obtain ⟨_, _, _, _, _, _, _, _, h⟩ := Dev.enter_shape d m c k; rw [h]
@[simp] theorem Dev.enter_tenants (m : Mode) (c k : Nat) : (d.enter m c k).tenants = d.tenants := by
  obtain ⟨_, _, _, _, _, _, _, _, h⟩ := Dev.enter_shape d m c k; rw [h]
@[simp] theorem Dev.enter_mem (m : Mode) (c k : Nat) : (d.enter m c k).mem = d.mem := by
  obtain ⟨_, _, _, _, _, _, _, _, h⟩ := Dev.enter_shape d m c k; rw [h]
@[simp] theorem Dev.enter_frames (m : Mode) (c k : Nat) : (d.enter m c k).frames = d.frames := by
  obtain ⟨_, _, _, _, _, _, _, _, h⟩ := Dev.enter_shape d m c k; rw [h]
@[simp] theorem Dev.enter_crm (m : Mode) (c k : Nat) : (d.enter m c k).crm = d.crm := by
  obtain ⟨_, _, _, _, _, _, _, _, h⟩ := Dev.enter_shape d m c k; rw [h]
@[simp] theorem Dev.enter_thm (m : Mode) (c k : Nat) : (d.enter m c k).thm = d.thm := by
  obtain ⟨_, _, _, _, _, _, _, _, h⟩ := Dev.enter_shape d m c k; rw [h]
@[simp] theorem Dev.enter_farCh (m : Mode) (c k : Nat) : (d.enter m c k).farCh = d.farCh := by
  obtain ⟨_, _, _, _, _, _, _, _, h⟩ := Dev.enter_shape d m c k; rw [h]
@[simp] theorem Dev.enter_cry (m : Mode) (c k : Nat) : (d.enter m c k).cry = d.cry := by
  obtain ⟨_, _, _, _, _, _, _, _, h⟩ := Dev.enter_shape d m c k; rw [h]
@[simp] theorem Dev.enter_prs (m : Mode) (c k : Nat) : (d.enter m c k).prs = d.prs := by
  obtain ⟨_, _, _, _, _, _, _, _, h⟩ := Dev.enter_shape d m c k; rw [h]
@[simp] theorem Dev.enter_home (m : Mode) (c k : Nat) : (d.enter m c k).home = d.home := by
  obtain ⟨_, _, _, _, _, _, _, _, h⟩ := Dev.enter_shape d m c k; rw [h]
@[simp] theorem Dev.enter_txns (m : Mode) (c k : Nat) : (d.enter m c k).txns = d.txns := by
  obtain ⟨_, _, _, _, _, _, _, _, h⟩ := Dev.enter_shape d m c k; rw [h]
@[simp] theorem Dev.enter_nextTxn (m : Mode) (c k : Nat) : (d.enter m c k).nextTxn = d.nextTxn := by
  obtain ⟨_, _, _, _, _, _, _, _, h⟩ := Dev.enter_shape d m c k; rw [h]
@[simp] theorem Dev.enter_ports (m : Mode) (c k : Nat) : (d.enter m c k).ports = d.ports := by
  obtain ⟨_, _, _, _, _, _, _, _, h⟩ := Dev.enter_shape d m c k; rw [h]
@[simp] theorem Dev.enter_rly (m : Mode) (c k : Nat) : (d.enter m c k).rly = d.rly := by
  obtain ⟨_, _, _, _, _, _, _, _, h⟩ := Dev.enter_shape d m c k; rw [h]
@[simp] theorem Dev.enter_chain (m : Mode) (c k : Nat) : (d.enter m c k).chain = d.chain := by
  obtain ⟨_, _, _, _, _, _, _, _, h⟩ := Dev.enter_shape d m c k; rw [h]
@[simp] theorem Dev.enter_noc (m : Mode) (c k : Nat) : (d.enter m c k).noc = d.noc := by
  obtain ⟨_, _, _, _, _, _, _, _, h⟩ := Dev.enter_shape d m c k; rw [h]
@[simp] theorem Dev.enter_sched (m : Mode) (c k : Nat) : (d.enter m c k).sched = d.sched := by
  obtain ⟨_, _, _, _, _, _, _, _, h⟩ := Dev.enter_shape d m c k; rw [h]
@[simp] theorem Dev.enter_free (m : Mode) (c k : Nat) : (d.enter m c k).free = d.free := by
  obtain ⟨_, _, _, _, _, _, _, _, h⟩ := Dev.enter_shape d m c k; rw [h]
@[simp] theorem Dev.enter_out (m : Mode) (c k : Nat) : (d.enter m c k).out = d.out := by
  obtain ⟨_, _, _, _, _, _, _, _, h⟩ := Dev.enter_shape d m c k; rw [h]
@[simp] theorem Dev.enter_wire (m : Mode) (c k : Nat) : (d.enter m c k).wire = d.wire := by
  obtain ⟨_, _, _, _, _, _, _, _, h⟩ := Dev.enter_shape d m c k; rw [h]

@[simp] theorem Dev.modTenant_part (t : TenantId) (f : Tenant → Tenant) : (d.modTenant t f).part = d.part := rfl
@[simp] theorem Dev.modTenant_mode (t : TenantId) (f : Tenant → Tenant) : (d.modTenant t f).mode = d.mode := rfl
@[simp] theorem Dev.modTenant_clk (t : TenantId) (f : Tenant → Tenant) : (d.modTenant t f).clk = d.clk := rfl
@[simp] theorem Dev.modTenant_regs (t : TenantId) (f : Tenant → Tenant) : (d.modTenant t f).regs = d.regs := rfl
@[simp] theorem Dev.modTenant_shadow (t : TenantId) (f : Tenant → Tenant) : (d.modTenant t f).shadow = d.shadow := rfl
@[simp] theorem Dev.modTenant_shown (t : TenantId) (f : Tenant → Tenant) : (d.modTenant t f).shown = d.shown := rfl
@[simp] theorem Dev.modTenant_acc (t : TenantId) (f : Tenant → Tenant) : (d.modTenant t f).acc = d.acc := rfl
@[simp] theorem Dev.modTenant_stg (t : TenantId) (f : Tenant → Tenant) : (d.modTenant t f).stg = d.stg := rfl
@[simp] theorem Dev.modTenant_pwr (t : TenantId) (f : Tenant → Tenant) : (d.modTenant t f).pwr = d.pwr := rfl
@[simp] theorem Dev.modTenant_can (t : TenantId) (f : Tenant → Tenant) : (d.modTenant t f).can = d.can := rfl
@[simp] theorem Dev.modTenant_fuses (t : TenantId) (f : Tenant → Tenant) : (d.modTenant t f).fuses = d.fuses := rfl
@[simp] theorem Dev.modTenant_sec (t : TenantId) (f : Tenant → Tenant) : (d.modTenant t f).sec = d.sec := rfl
@[simp] theorem Dev.modTenant_spdm (t : TenantId) (f : Tenant → Tenant) : (d.modTenant t f).spdm = d.spdm := rfl
@[simp] theorem Dev.modTenant_signQ (t : TenantId) (f : Tenant → Tenant) : (d.modTenant t f).signQ = d.signQ := rfl
@[simp] theorem Dev.modTenant_mb (t : TenantId) (f : Tenant → Tenant) : (d.modTenant t f).mb = d.mb := rfl
@[simp] theorem Dev.modTenant_bist (t : TenantId) (f : Tenant → Tenant) : (d.modTenant t f).bist = d.bist := rfl
@[simp] theorem Dev.modTenant_due (t : TenantId) (f : Tenant → Tenant) : (d.modTenant t f).due = d.due := rfl
@[simp] theorem Dev.modTenant_ext (t : TenantId) (f : Tenant → Tenant) : (d.modTenant t f).ext = d.ext := rfl
@[simp] theorem Dev.modTenant_extRetire (t : TenantId) (f : Tenant → Tenant) : (d.modTenant t f).extRetire = d.extRetire := rfl
@[simp] theorem Dev.modTenant_lds (t : TenantId) (f : Tenant → Tenant) : (d.modTenant t f).lds = d.lds := rfl
@[simp] theorem Dev.modTenant_mem (t : TenantId) (f : Tenant → Tenant) : (d.modTenant t f).mem = d.mem := rfl
@[simp] theorem Dev.modTenant_frames (t : TenantId) (f : Tenant → Tenant) : (d.modTenant t f).frames = d.frames := rfl
@[simp] theorem Dev.modTenant_crm (t : TenantId) (f : Tenant → Tenant) : (d.modTenant t f).crm = d.crm := rfl
@[simp] theorem Dev.modTenant_thm (t : TenantId) (f : Tenant → Tenant) : (d.modTenant t f).thm = d.thm := rfl
@[simp] theorem Dev.modTenant_farCh (t : TenantId) (f : Tenant → Tenant) : (d.modTenant t f).farCh = d.farCh := rfl
@[simp] theorem Dev.modTenant_cry (t : TenantId) (f : Tenant → Tenant) : (d.modTenant t f).cry = d.cry := rfl
@[simp] theorem Dev.modTenant_prs (t : TenantId) (f : Tenant → Tenant) : (d.modTenant t f).prs = d.prs := rfl
@[simp] theorem Dev.modTenant_home (t : TenantId) (f : Tenant → Tenant) : (d.modTenant t f).home = d.home := rfl
@[simp] theorem Dev.modTenant_txns (t : TenantId) (f : Tenant → Tenant) : (d.modTenant t f).txns = d.txns := rfl
@[simp] theorem Dev.modTenant_nextTxn (t : TenantId) (f : Tenant → Tenant) : (d.modTenant t f).nextTxn = d.nextTxn := rfl
@[simp] theorem Dev.modTenant_ports (t : TenantId) (f : Tenant → Tenant) : (d.modTenant t f).ports = d.ports := rfl
@[simp] theorem Dev.modTenant_rly (t : TenantId) (f : Tenant → Tenant) : (d.modTenant t f).rly = d.rly := rfl
@[simp] theorem Dev.modTenant_chain (t : TenantId) (f : Tenant → Tenant) : (d.modTenant t f).chain = d.chain := rfl
@[simp] theorem Dev.modTenant_noc (t : TenantId) (f : Tenant → Tenant) : (d.modTenant t f).noc = d.noc := rfl
@[simp] theorem Dev.modTenant_sched (t : TenantId) (f : Tenant → Tenant) : (d.modTenant t f).sched = d.sched := rfl
@[simp] theorem Dev.modTenant_merge (t : TenantId) (f : Tenant → Tenant) : (d.modTenant t f).merge = d.merge := rfl
@[simp] theorem Dev.modTenant_arrayPoison (t : TenantId) (f : Tenant → Tenant) : (d.modTenant t f).arrayPoison = d.arrayPoison := rfl
@[simp] theorem Dev.modTenant_issued (t : TenantId) (f : Tenant → Tenant) : (d.modTenant t f).issued = d.issued := rfl
@[simp] theorem Dev.modTenant_pmu (t : TenantId) (f : Tenant → Tenant) : (d.modTenant t f).pmu = d.pmu := rfl
@[simp] theorem Dev.modTenant_ras (t : TenantId) (f : Tenant → Tenant) : (d.modTenant t f).ras = d.ras := rfl
@[simp] theorem Dev.modTenant_free (t : TenantId) (f : Tenant → Tenant) : (d.modTenant t f).free = d.free := rfl
@[simp] theorem Dev.modTenant_out (t : TenantId) (f : Tenant → Tenant) : (d.modTenant t f).out = d.out := rfl
@[simp] theorem Dev.modTenant_wire (t : TenantId) (f : Tenant → Tenant) : (d.modTenant t f).wire = d.wire := rfl

@[simp] theorem Dev.modLd_part (p : PortId) (ld : Nat) (f : LdState → LdState) : (d.modLd p ld f).part = d.part := by
  obtain ⟨_, h⟩ := Dev.modLd_shape d p ld f; rw [h]
@[simp] theorem Dev.modLd_mode (p : PortId) (ld : Nat) (f : LdState → LdState) : (d.modLd p ld f).mode = d.mode := by
  obtain ⟨_, h⟩ := Dev.modLd_shape d p ld f; rw [h]
@[simp] theorem Dev.modLd_clk (p : PortId) (ld : Nat) (f : LdState → LdState) : (d.modLd p ld f).clk = d.clk := by
  obtain ⟨_, h⟩ := Dev.modLd_shape d p ld f; rw [h]
@[simp] theorem Dev.modLd_regs (p : PortId) (ld : Nat) (f : LdState → LdState) : (d.modLd p ld f).regs = d.regs := by
  obtain ⟨_, h⟩ := Dev.modLd_shape d p ld f; rw [h]
@[simp] theorem Dev.modLd_shadow (p : PortId) (ld : Nat) (f : LdState → LdState) : (d.modLd p ld f).shadow = d.shadow := by
  obtain ⟨_, h⟩ := Dev.modLd_shape d p ld f; rw [h]
@[simp] theorem Dev.modLd_shown (p : PortId) (ld : Nat) (f : LdState → LdState) : (d.modLd p ld f).shown = d.shown := by
  obtain ⟨_, h⟩ := Dev.modLd_shape d p ld f; rw [h]
@[simp] theorem Dev.modLd_acc (p : PortId) (ld : Nat) (f : LdState → LdState) : (d.modLd p ld f).acc = d.acc := by
  obtain ⟨_, h⟩ := Dev.modLd_shape d p ld f; rw [h]
@[simp] theorem Dev.modLd_stg (p : PortId) (ld : Nat) (f : LdState → LdState) : (d.modLd p ld f).stg = d.stg := by
  obtain ⟨_, h⟩ := Dev.modLd_shape d p ld f; rw [h]
@[simp] theorem Dev.modLd_pwr (p : PortId) (ld : Nat) (f : LdState → LdState) : (d.modLd p ld f).pwr = d.pwr := by
  obtain ⟨_, h⟩ := Dev.modLd_shape d p ld f; rw [h]
@[simp] theorem Dev.modLd_can (p : PortId) (ld : Nat) (f : LdState → LdState) : (d.modLd p ld f).can = d.can := by
  obtain ⟨_, h⟩ := Dev.modLd_shape d p ld f; rw [h]
@[simp] theorem Dev.modLd_fuses (p : PortId) (ld : Nat) (f : LdState → LdState) : (d.modLd p ld f).fuses = d.fuses := by
  obtain ⟨_, h⟩ := Dev.modLd_shape d p ld f; rw [h]
@[simp] theorem Dev.modLd_sec (p : PortId) (ld : Nat) (f : LdState → LdState) : (d.modLd p ld f).sec = d.sec := by
  obtain ⟨_, h⟩ := Dev.modLd_shape d p ld f; rw [h]
@[simp] theorem Dev.modLd_spdm (p : PortId) (ld : Nat) (f : LdState → LdState) : (d.modLd p ld f).spdm = d.spdm := by
  obtain ⟨_, h⟩ := Dev.modLd_shape d p ld f; rw [h]
@[simp] theorem Dev.modLd_signQ (p : PortId) (ld : Nat) (f : LdState → LdState) : (d.modLd p ld f).signQ = d.signQ := by
  obtain ⟨_, h⟩ := Dev.modLd_shape d p ld f; rw [h]
@[simp] theorem Dev.modLd_mb (p : PortId) (ld : Nat) (f : LdState → LdState) : (d.modLd p ld f).mb = d.mb := by
  obtain ⟨_, h⟩ := Dev.modLd_shape d p ld f; rw [h]
@[simp] theorem Dev.modLd_bist (p : PortId) (ld : Nat) (f : LdState → LdState) : (d.modLd p ld f).bist = d.bist := by
  obtain ⟨_, h⟩ := Dev.modLd_shape d p ld f; rw [h]
@[simp] theorem Dev.modLd_due (p : PortId) (ld : Nat) (f : LdState → LdState) : (d.modLd p ld f).due = d.due := by
  obtain ⟨_, h⟩ := Dev.modLd_shape d p ld f; rw [h]
@[simp] theorem Dev.modLd_ext (p : PortId) (ld : Nat) (f : LdState → LdState) : (d.modLd p ld f).ext = d.ext := by
  obtain ⟨_, h⟩ := Dev.modLd_shape d p ld f; rw [h]
@[simp] theorem Dev.modLd_extRetire (p : PortId) (ld : Nat) (f : LdState → LdState) : (d.modLd p ld f).extRetire = d.extRetire := by
  obtain ⟨_, h⟩ := Dev.modLd_shape d p ld f; rw [h]
@[simp] theorem Dev.modLd_tenants (p : PortId) (ld : Nat) (f : LdState → LdState) : (d.modLd p ld f).tenants = d.tenants := by
  obtain ⟨_, h⟩ := Dev.modLd_shape d p ld f; rw [h]
@[simp] theorem Dev.modLd_mem (p : PortId) (ld : Nat) (f : LdState → LdState) : (d.modLd p ld f).mem = d.mem := by
  obtain ⟨_, h⟩ := Dev.modLd_shape d p ld f; rw [h]
@[simp] theorem Dev.modLd_frames (p : PortId) (ld : Nat) (f : LdState → LdState) : (d.modLd p ld f).frames = d.frames := by
  obtain ⟨_, h⟩ := Dev.modLd_shape d p ld f; rw [h]
@[simp] theorem Dev.modLd_crm (p : PortId) (ld : Nat) (f : LdState → LdState) : (d.modLd p ld f).crm = d.crm := by
  obtain ⟨_, h⟩ := Dev.modLd_shape d p ld f; rw [h]
@[simp] theorem Dev.modLd_thm (p : PortId) (ld : Nat) (f : LdState → LdState) : (d.modLd p ld f).thm = d.thm := by
  obtain ⟨_, h⟩ := Dev.modLd_shape d p ld f; rw [h]
@[simp] theorem Dev.modLd_farCh (p : PortId) (ld : Nat) (f : LdState → LdState) : (d.modLd p ld f).farCh = d.farCh := by
  obtain ⟨_, h⟩ := Dev.modLd_shape d p ld f; rw [h]
@[simp] theorem Dev.modLd_cry (p : PortId) (ld : Nat) (f : LdState → LdState) : (d.modLd p ld f).cry = d.cry := by
  obtain ⟨_, h⟩ := Dev.modLd_shape d p ld f; rw [h]
@[simp] theorem Dev.modLd_prs (p : PortId) (ld : Nat) (f : LdState → LdState) : (d.modLd p ld f).prs = d.prs := by
  obtain ⟨_, h⟩ := Dev.modLd_shape d p ld f; rw [h]
@[simp] theorem Dev.modLd_home (p : PortId) (ld : Nat) (f : LdState → LdState) : (d.modLd p ld f).home = d.home := by
  obtain ⟨_, h⟩ := Dev.modLd_shape d p ld f; rw [h]
@[simp] theorem Dev.modLd_txns (p : PortId) (ld : Nat) (f : LdState → LdState) : (d.modLd p ld f).txns = d.txns := by
  obtain ⟨_, h⟩ := Dev.modLd_shape d p ld f; rw [h]
@[simp] theorem Dev.modLd_nextTxn (p : PortId) (ld : Nat) (f : LdState → LdState) : (d.modLd p ld f).nextTxn = d.nextTxn := by
  obtain ⟨_, h⟩ := Dev.modLd_shape d p ld f; rw [h]
@[simp] theorem Dev.modLd_ports (p : PortId) (ld : Nat) (f : LdState → LdState) : (d.modLd p ld f).ports = d.ports := by
  obtain ⟨_, h⟩ := Dev.modLd_shape d p ld f; rw [h]
@[simp] theorem Dev.modLd_rly (p : PortId) (ld : Nat) (f : LdState → LdState) : (d.modLd p ld f).rly = d.rly := by
  obtain ⟨_, h⟩ := Dev.modLd_shape d p ld f; rw [h]
@[simp] theorem Dev.modLd_chain (p : PortId) (ld : Nat) (f : LdState → LdState) : (d.modLd p ld f).chain = d.chain := by
  obtain ⟨_, h⟩ := Dev.modLd_shape d p ld f; rw [h]
@[simp] theorem Dev.modLd_noc (p : PortId) (ld : Nat) (f : LdState → LdState) : (d.modLd p ld f).noc = d.noc := by
  obtain ⟨_, h⟩ := Dev.modLd_shape d p ld f; rw [h]
@[simp] theorem Dev.modLd_sched (p : PortId) (ld : Nat) (f : LdState → LdState) : (d.modLd p ld f).sched = d.sched := by
  obtain ⟨_, h⟩ := Dev.modLd_shape d p ld f; rw [h]
@[simp] theorem Dev.modLd_merge (p : PortId) (ld : Nat) (f : LdState → LdState) : (d.modLd p ld f).merge = d.merge := by
  obtain ⟨_, h⟩ := Dev.modLd_shape d p ld f; rw [h]
@[simp] theorem Dev.modLd_arrayPoison (p : PortId) (ld : Nat) (f : LdState → LdState) : (d.modLd p ld f).arrayPoison = d.arrayPoison := by
  obtain ⟨_, h⟩ := Dev.modLd_shape d p ld f; rw [h]
@[simp] theorem Dev.modLd_issued (p : PortId) (ld : Nat) (f : LdState → LdState) : (d.modLd p ld f).issued = d.issued := by
  obtain ⟨_, h⟩ := Dev.modLd_shape d p ld f; rw [h]
@[simp] theorem Dev.modLd_pmu (p : PortId) (ld : Nat) (f : LdState → LdState) : (d.modLd p ld f).pmu = d.pmu := by
  obtain ⟨_, h⟩ := Dev.modLd_shape d p ld f; rw [h]
@[simp] theorem Dev.modLd_ras (p : PortId) (ld : Nat) (f : LdState → LdState) : (d.modLd p ld f).ras = d.ras := by
  obtain ⟨_, h⟩ := Dev.modLd_shape d p ld f; rw [h]
@[simp] theorem Dev.modLd_free (p : PortId) (ld : Nat) (f : LdState → LdState) : (d.modLd p ld f).free = d.free := by
  obtain ⟨_, h⟩ := Dev.modLd_shape d p ld f; rw [h]
@[simp] theorem Dev.modLd_out (p : PortId) (ld : Nat) (f : LdState → LdState) : (d.modLd p ld f).out = d.out := by
  obtain ⟨_, h⟩ := Dev.modLd_shape d p ld f; rw [h]
@[simp] theorem Dev.modLd_wire (p : PortId) (ld : Nat) (f : LdState → LdState) : (d.modLd p ld f).wire = d.wire := by
  obtain ⟨_, h⟩ := Dev.modLd_shape d p ld f; rw [h]

@[simp] theorem Dev.modFch_part (c : Nat) (f : FarChan → FarChan) : (d.modFch c f).part = d.part := rfl
@[simp] theorem Dev.modFch_mode (c : Nat) (f : FarChan → FarChan) : (d.modFch c f).mode = d.mode := rfl
@[simp] theorem Dev.modFch_clk (c : Nat) (f : FarChan → FarChan) : (d.modFch c f).clk = d.clk := rfl
@[simp] theorem Dev.modFch_regs (c : Nat) (f : FarChan → FarChan) : (d.modFch c f).regs = d.regs := rfl
@[simp] theorem Dev.modFch_shadow (c : Nat) (f : FarChan → FarChan) : (d.modFch c f).shadow = d.shadow := rfl
@[simp] theorem Dev.modFch_shown (c : Nat) (f : FarChan → FarChan) : (d.modFch c f).shown = d.shown := rfl
@[simp] theorem Dev.modFch_acc (c : Nat) (f : FarChan → FarChan) : (d.modFch c f).acc = d.acc := rfl
@[simp] theorem Dev.modFch_stg (c : Nat) (f : FarChan → FarChan) : (d.modFch c f).stg = d.stg := rfl
@[simp] theorem Dev.modFch_pwr (c : Nat) (f : FarChan → FarChan) : (d.modFch c f).pwr = d.pwr := rfl
@[simp] theorem Dev.modFch_can (c : Nat) (f : FarChan → FarChan) : (d.modFch c f).can = d.can := rfl
@[simp] theorem Dev.modFch_fuses (c : Nat) (f : FarChan → FarChan) : (d.modFch c f).fuses = d.fuses := rfl
@[simp] theorem Dev.modFch_sec (c : Nat) (f : FarChan → FarChan) : (d.modFch c f).sec = d.sec := rfl
@[simp] theorem Dev.modFch_spdm (c : Nat) (f : FarChan → FarChan) : (d.modFch c f).spdm = d.spdm := rfl
@[simp] theorem Dev.modFch_signQ (c : Nat) (f : FarChan → FarChan) : (d.modFch c f).signQ = d.signQ := rfl
@[simp] theorem Dev.modFch_mb (c : Nat) (f : FarChan → FarChan) : (d.modFch c f).mb = d.mb := rfl
@[simp] theorem Dev.modFch_bist (c : Nat) (f : FarChan → FarChan) : (d.modFch c f).bist = d.bist := rfl
@[simp] theorem Dev.modFch_due (c : Nat) (f : FarChan → FarChan) : (d.modFch c f).due = d.due := rfl
@[simp] theorem Dev.modFch_ext (c : Nat) (f : FarChan → FarChan) : (d.modFch c f).ext = d.ext := rfl
@[simp] theorem Dev.modFch_extRetire (c : Nat) (f : FarChan → FarChan) : (d.modFch c f).extRetire = d.extRetire := rfl
@[simp] theorem Dev.modFch_lds (c : Nat) (f : FarChan → FarChan) : (d.modFch c f).lds = d.lds := rfl
@[simp] theorem Dev.modFch_tenants (c : Nat) (f : FarChan → FarChan) : (d.modFch c f).tenants = d.tenants := rfl
@[simp] theorem Dev.modFch_mem (c : Nat) (f : FarChan → FarChan) : (d.modFch c f).mem = d.mem := rfl
@[simp] theorem Dev.modFch_frames (c : Nat) (f : FarChan → FarChan) : (d.modFch c f).frames = d.frames := rfl
@[simp] theorem Dev.modFch_crm (c : Nat) (f : FarChan → FarChan) : (d.modFch c f).crm = d.crm := rfl
@[simp] theorem Dev.modFch_thm (c : Nat) (f : FarChan → FarChan) : (d.modFch c f).thm = d.thm := rfl
@[simp] theorem Dev.modFch_cry (c : Nat) (f : FarChan → FarChan) : (d.modFch c f).cry = d.cry := rfl
@[simp] theorem Dev.modFch_prs (c : Nat) (f : FarChan → FarChan) : (d.modFch c f).prs = d.prs := rfl
@[simp] theorem Dev.modFch_home (c : Nat) (f : FarChan → FarChan) : (d.modFch c f).home = d.home := rfl
@[simp] theorem Dev.modFch_txns (c : Nat) (f : FarChan → FarChan) : (d.modFch c f).txns = d.txns := rfl
@[simp] theorem Dev.modFch_nextTxn (c : Nat) (f : FarChan → FarChan) : (d.modFch c f).nextTxn = d.nextTxn := rfl
@[simp] theorem Dev.modFch_ports (c : Nat) (f : FarChan → FarChan) : (d.modFch c f).ports = d.ports := rfl
@[simp] theorem Dev.modFch_rly (c : Nat) (f : FarChan → FarChan) : (d.modFch c f).rly = d.rly := rfl
@[simp] theorem Dev.modFch_chain (c : Nat) (f : FarChan → FarChan) : (d.modFch c f).chain = d.chain := rfl
@[simp] theorem Dev.modFch_noc (c : Nat) (f : FarChan → FarChan) : (d.modFch c f).noc = d.noc := rfl
@[simp] theorem Dev.modFch_sched (c : Nat) (f : FarChan → FarChan) : (d.modFch c f).sched = d.sched := rfl
@[simp] theorem Dev.modFch_merge (c : Nat) (f : FarChan → FarChan) : (d.modFch c f).merge = d.merge := rfl
@[simp] theorem Dev.modFch_arrayPoison (c : Nat) (f : FarChan → FarChan) : (d.modFch c f).arrayPoison = d.arrayPoison := rfl
@[simp] theorem Dev.modFch_issued (c : Nat) (f : FarChan → FarChan) : (d.modFch c f).issued = d.issued := rfl
@[simp] theorem Dev.modFch_pmu (c : Nat) (f : FarChan → FarChan) : (d.modFch c f).pmu = d.pmu := rfl
@[simp] theorem Dev.modFch_ras (c : Nat) (f : FarChan → FarChan) : (d.modFch c f).ras = d.ras := rfl
@[simp] theorem Dev.modFch_free (c : Nat) (f : FarChan → FarChan) : (d.modFch c f).free = d.free := rfl
@[simp] theorem Dev.modFch_out (c : Nat) (f : FarChan → FarChan) : (d.modFch c f).out = d.out := rfl
@[simp] theorem Dev.modFch_wire (c : Nat) (f : FarChan → FarChan) : (d.modFch c f).wire = d.wire := rfl

@[simp] theorem Dev.modSlots_part (n : Nat) (f : Slots → Slots) : (d.modSlots n f).part = d.part := rfl
@[simp] theorem Dev.modSlots_mode (n : Nat) (f : Slots → Slots) : (d.modSlots n f).mode = d.mode := rfl
@[simp] theorem Dev.modSlots_clk (n : Nat) (f : Slots → Slots) : (d.modSlots n f).clk = d.clk := rfl
@[simp] theorem Dev.modSlots_regs (n : Nat) (f : Slots → Slots) : (d.modSlots n f).regs = d.regs := rfl
@[simp] theorem Dev.modSlots_shadow (n : Nat) (f : Slots → Slots) : (d.modSlots n f).shadow = d.shadow := rfl
@[simp] theorem Dev.modSlots_shown (n : Nat) (f : Slots → Slots) : (d.modSlots n f).shown = d.shown := rfl
@[simp] theorem Dev.modSlots_acc (n : Nat) (f : Slots → Slots) : (d.modSlots n f).acc = d.acc := rfl
@[simp] theorem Dev.modSlots_stg (n : Nat) (f : Slots → Slots) : (d.modSlots n f).stg = d.stg := rfl
@[simp] theorem Dev.modSlots_pwr (n : Nat) (f : Slots → Slots) : (d.modSlots n f).pwr = d.pwr := rfl
@[simp] theorem Dev.modSlots_can (n : Nat) (f : Slots → Slots) : (d.modSlots n f).can = d.can := rfl
@[simp] theorem Dev.modSlots_fuses (n : Nat) (f : Slots → Slots) : (d.modSlots n f).fuses = d.fuses := rfl
@[simp] theorem Dev.modSlots_sec (n : Nat) (f : Slots → Slots) : (d.modSlots n f).sec = d.sec := rfl
@[simp] theorem Dev.modSlots_spdm (n : Nat) (f : Slots → Slots) : (d.modSlots n f).spdm = d.spdm := rfl
@[simp] theorem Dev.modSlots_signQ (n : Nat) (f : Slots → Slots) : (d.modSlots n f).signQ = d.signQ := rfl
@[simp] theorem Dev.modSlots_mb (n : Nat) (f : Slots → Slots) : (d.modSlots n f).mb = d.mb := rfl
@[simp] theorem Dev.modSlots_bist (n : Nat) (f : Slots → Slots) : (d.modSlots n f).bist = d.bist := rfl
@[simp] theorem Dev.modSlots_due (n : Nat) (f : Slots → Slots) : (d.modSlots n f).due = d.due := rfl
@[simp] theorem Dev.modSlots_ext (n : Nat) (f : Slots → Slots) : (d.modSlots n f).ext = d.ext := rfl
@[simp] theorem Dev.modSlots_extRetire (n : Nat) (f : Slots → Slots) : (d.modSlots n f).extRetire = d.extRetire := rfl
@[simp] theorem Dev.modSlots_lds (n : Nat) (f : Slots → Slots) : (d.modSlots n f).lds = d.lds := rfl
@[simp] theorem Dev.modSlots_tenants (n : Nat) (f : Slots → Slots) : (d.modSlots n f).tenants = d.tenants := rfl
@[simp] theorem Dev.modSlots_mem (n : Nat) (f : Slots → Slots) : (d.modSlots n f).mem = d.mem := rfl
@[simp] theorem Dev.modSlots_frames (n : Nat) (f : Slots → Slots) : (d.modSlots n f).frames = d.frames := rfl
@[simp] theorem Dev.modSlots_crm (n : Nat) (f : Slots → Slots) : (d.modSlots n f).crm = d.crm := rfl
@[simp] theorem Dev.modSlots_thm (n : Nat) (f : Slots → Slots) : (d.modSlots n f).thm = d.thm := rfl
@[simp] theorem Dev.modSlots_farCh (n : Nat) (f : Slots → Slots) : (d.modSlots n f).farCh = d.farCh := rfl
@[simp] theorem Dev.modSlots_cry (n : Nat) (f : Slots → Slots) : (d.modSlots n f).cry = d.cry := rfl
@[simp] theorem Dev.modSlots_prs (n : Nat) (f : Slots → Slots) : (d.modSlots n f).prs = d.prs := rfl
@[simp] theorem Dev.modSlots_home (n : Nat) (f : Slots → Slots) : (d.modSlots n f).home = d.home := rfl
@[simp] theorem Dev.modSlots_txns (n : Nat) (f : Slots → Slots) : (d.modSlots n f).txns = d.txns := rfl
@[simp] theorem Dev.modSlots_nextTxn (n : Nat) (f : Slots → Slots) : (d.modSlots n f).nextTxn = d.nextTxn := rfl
@[simp] theorem Dev.modSlots_ports (n : Nat) (f : Slots → Slots) : (d.modSlots n f).ports = d.ports := rfl
@[simp] theorem Dev.modSlots_rly (n : Nat) (f : Slots → Slots) : (d.modSlots n f).rly = d.rly := rfl
@[simp] theorem Dev.modSlots_chain (n : Nat) (f : Slots → Slots) : (d.modSlots n f).chain = d.chain := rfl
@[simp] theorem Dev.modSlots_noc (n : Nat) (f : Slots → Slots) : (d.modSlots n f).noc = d.noc := rfl
@[simp] theorem Dev.modSlots_sched (n : Nat) (f : Slots → Slots) : (d.modSlots n f).sched = d.sched := rfl
@[simp] theorem Dev.modSlots_merge (n : Nat) (f : Slots → Slots) : (d.modSlots n f).merge = d.merge := rfl
@[simp] theorem Dev.modSlots_arrayPoison (n : Nat) (f : Slots → Slots) : (d.modSlots n f).arrayPoison = d.arrayPoison := rfl
@[simp] theorem Dev.modSlots_issued (n : Nat) (f : Slots → Slots) : (d.modSlots n f).issued = d.issued := rfl
@[simp] theorem Dev.modSlots_ras (n : Nat) (f : Slots → Slots) : (d.modSlots n f).ras = d.ras := rfl
@[simp] theorem Dev.modSlots_free (n : Nat) (f : Slots → Slots) : (d.modSlots n f).free = d.free := rfl
@[simp] theorem Dev.modSlots_out (n : Nat) (f : Slots → Slots) : (d.modSlots n f).out = d.out := rfl
@[simp] theorem Dev.modSlots_wire (n : Nat) (f : Slots → Slots) : (d.modSlots n f).wire = d.wire := rfl

@[simp] theorem Dev.modRly_part (p : PortId) (f : RelayPort → RelayPort) : (d.modRly p f).part = d.part := rfl
@[simp] theorem Dev.modRly_mode (p : PortId) (f : RelayPort → RelayPort) : (d.modRly p f).mode = d.mode := rfl
@[simp] theorem Dev.modRly_clk (p : PortId) (f : RelayPort → RelayPort) : (d.modRly p f).clk = d.clk := rfl
@[simp] theorem Dev.modRly_regs (p : PortId) (f : RelayPort → RelayPort) : (d.modRly p f).regs = d.regs := rfl
@[simp] theorem Dev.modRly_shadow (p : PortId) (f : RelayPort → RelayPort) : (d.modRly p f).shadow = d.shadow := rfl
@[simp] theorem Dev.modRly_shown (p : PortId) (f : RelayPort → RelayPort) : (d.modRly p f).shown = d.shown := rfl
@[simp] theorem Dev.modRly_acc (p : PortId) (f : RelayPort → RelayPort) : (d.modRly p f).acc = d.acc := rfl
@[simp] theorem Dev.modRly_stg (p : PortId) (f : RelayPort → RelayPort) : (d.modRly p f).stg = d.stg := rfl
@[simp] theorem Dev.modRly_pwr (p : PortId) (f : RelayPort → RelayPort) : (d.modRly p f).pwr = d.pwr := rfl
@[simp] theorem Dev.modRly_can (p : PortId) (f : RelayPort → RelayPort) : (d.modRly p f).can = d.can := rfl
@[simp] theorem Dev.modRly_fuses (p : PortId) (f : RelayPort → RelayPort) : (d.modRly p f).fuses = d.fuses := rfl
@[simp] theorem Dev.modRly_sec (p : PortId) (f : RelayPort → RelayPort) : (d.modRly p f).sec = d.sec := rfl
@[simp] theorem Dev.modRly_spdm (p : PortId) (f : RelayPort → RelayPort) : (d.modRly p f).spdm = d.spdm := rfl
@[simp] theorem Dev.modRly_signQ (p : PortId) (f : RelayPort → RelayPort) : (d.modRly p f).signQ = d.signQ := rfl
@[simp] theorem Dev.modRly_mb (p : PortId) (f : RelayPort → RelayPort) : (d.modRly p f).mb = d.mb := rfl
@[simp] theorem Dev.modRly_bist (p : PortId) (f : RelayPort → RelayPort) : (d.modRly p f).bist = d.bist := rfl
@[simp] theorem Dev.modRly_due (p : PortId) (f : RelayPort → RelayPort) : (d.modRly p f).due = d.due := rfl
@[simp] theorem Dev.modRly_ext (p : PortId) (f : RelayPort → RelayPort) : (d.modRly p f).ext = d.ext := rfl
@[simp] theorem Dev.modRly_extRetire (p : PortId) (f : RelayPort → RelayPort) : (d.modRly p f).extRetire = d.extRetire := rfl
@[simp] theorem Dev.modRly_lds (p : PortId) (f : RelayPort → RelayPort) : (d.modRly p f).lds = d.lds := rfl
@[simp] theorem Dev.modRly_tenants (p : PortId) (f : RelayPort → RelayPort) : (d.modRly p f).tenants = d.tenants := rfl
@[simp] theorem Dev.modRly_mem (p : PortId) (f : RelayPort → RelayPort) : (d.modRly p f).mem = d.mem := rfl
@[simp] theorem Dev.modRly_frames (p : PortId) (f : RelayPort → RelayPort) : (d.modRly p f).frames = d.frames := rfl
@[simp] theorem Dev.modRly_crm (p : PortId) (f : RelayPort → RelayPort) : (d.modRly p f).crm = d.crm := rfl
@[simp] theorem Dev.modRly_thm (p : PortId) (f : RelayPort → RelayPort) : (d.modRly p f).thm = d.thm := rfl
@[simp] theorem Dev.modRly_farCh (p : PortId) (f : RelayPort → RelayPort) : (d.modRly p f).farCh = d.farCh := rfl
@[simp] theorem Dev.modRly_cry (p : PortId) (f : RelayPort → RelayPort) : (d.modRly p f).cry = d.cry := rfl
@[simp] theorem Dev.modRly_prs (p : PortId) (f : RelayPort → RelayPort) : (d.modRly p f).prs = d.prs := rfl
@[simp] theorem Dev.modRly_home (p : PortId) (f : RelayPort → RelayPort) : (d.modRly p f).home = d.home := rfl
@[simp] theorem Dev.modRly_txns (p : PortId) (f : RelayPort → RelayPort) : (d.modRly p f).txns = d.txns := rfl
@[simp] theorem Dev.modRly_nextTxn (p : PortId) (f : RelayPort → RelayPort) : (d.modRly p f).nextTxn = d.nextTxn := rfl
@[simp] theorem Dev.modRly_ports (p : PortId) (f : RelayPort → RelayPort) : (d.modRly p f).ports = d.ports := rfl
@[simp] theorem Dev.modRly_chain (p : PortId) (f : RelayPort → RelayPort) : (d.modRly p f).chain = d.chain := rfl
@[simp] theorem Dev.modRly_noc (p : PortId) (f : RelayPort → RelayPort) : (d.modRly p f).noc = d.noc := rfl
@[simp] theorem Dev.modRly_sched (p : PortId) (f : RelayPort → RelayPort) : (d.modRly p f).sched = d.sched := rfl
@[simp] theorem Dev.modRly_merge (p : PortId) (f : RelayPort → RelayPort) : (d.modRly p f).merge = d.merge := rfl
@[simp] theorem Dev.modRly_arrayPoison (p : PortId) (f : RelayPort → RelayPort) : (d.modRly p f).arrayPoison = d.arrayPoison := rfl
@[simp] theorem Dev.modRly_issued (p : PortId) (f : RelayPort → RelayPort) : (d.modRly p f).issued = d.issued := rfl
@[simp] theorem Dev.modRly_pmu (p : PortId) (f : RelayPort → RelayPort) : (d.modRly p f).pmu = d.pmu := rfl
@[simp] theorem Dev.modRly_ras (p : PortId) (f : RelayPort → RelayPort) : (d.modRly p f).ras = d.ras := rfl
@[simp] theorem Dev.modRly_free (p : PortId) (f : RelayPort → RelayPort) : (d.modRly p f).free = d.free := rfl
@[simp] theorem Dev.modRly_out (p : PortId) (f : RelayPort → RelayPort) : (d.modRly p f).out = d.out := rfl
@[simp] theorem Dev.modRly_wire (p : PortId) (f : RelayPort → RelayPort) : (d.modRly p f).wire = d.wire := rfl

@[simp] theorem Dev.modTxn_part (n : Nat) (f : Txn → Txn) : (d.modTxn n f).part = d.part := rfl
@[simp] theorem Dev.modTxn_mode (n : Nat) (f : Txn → Txn) : (d.modTxn n f).mode = d.mode := rfl
@[simp] theorem Dev.modTxn_clk (n : Nat) (f : Txn → Txn) : (d.modTxn n f).clk = d.clk := rfl
@[simp] theorem Dev.modTxn_regs (n : Nat) (f : Txn → Txn) : (d.modTxn n f).regs = d.regs := rfl
@[simp] theorem Dev.modTxn_shadow (n : Nat) (f : Txn → Txn) : (d.modTxn n f).shadow = d.shadow := rfl
@[simp] theorem Dev.modTxn_shown (n : Nat) (f : Txn → Txn) : (d.modTxn n f).shown = d.shown := rfl
@[simp] theorem Dev.modTxn_acc (n : Nat) (f : Txn → Txn) : (d.modTxn n f).acc = d.acc := rfl
@[simp] theorem Dev.modTxn_stg (n : Nat) (f : Txn → Txn) : (d.modTxn n f).stg = d.stg := rfl
@[simp] theorem Dev.modTxn_pwr (n : Nat) (f : Txn → Txn) : (d.modTxn n f).pwr = d.pwr := rfl
@[simp] theorem Dev.modTxn_can (n : Nat) (f : Txn → Txn) : (d.modTxn n f).can = d.can := rfl
@[simp] theorem Dev.modTxn_fuses (n : Nat) (f : Txn → Txn) : (d.modTxn n f).fuses = d.fuses := rfl
@[simp] theorem Dev.modTxn_sec (n : Nat) (f : Txn → Txn) : (d.modTxn n f).sec = d.sec := rfl
@[simp] theorem Dev.modTxn_spdm (n : Nat) (f : Txn → Txn) : (d.modTxn n f).spdm = d.spdm := rfl
@[simp] theorem Dev.modTxn_signQ (n : Nat) (f : Txn → Txn) : (d.modTxn n f).signQ = d.signQ := rfl
@[simp] theorem Dev.modTxn_mb (n : Nat) (f : Txn → Txn) : (d.modTxn n f).mb = d.mb := rfl
@[simp] theorem Dev.modTxn_bist (n : Nat) (f : Txn → Txn) : (d.modTxn n f).bist = d.bist := rfl
@[simp] theorem Dev.modTxn_due (n : Nat) (f : Txn → Txn) : (d.modTxn n f).due = d.due := rfl
@[simp] theorem Dev.modTxn_ext (n : Nat) (f : Txn → Txn) : (d.modTxn n f).ext = d.ext := rfl
@[simp] theorem Dev.modTxn_extRetire (n : Nat) (f : Txn → Txn) : (d.modTxn n f).extRetire = d.extRetire := rfl
@[simp] theorem Dev.modTxn_lds (n : Nat) (f : Txn → Txn) : (d.modTxn n f).lds = d.lds := rfl
@[simp] theorem Dev.modTxn_tenants (n : Nat) (f : Txn → Txn) : (d.modTxn n f).tenants = d.tenants := rfl
@[simp] theorem Dev.modTxn_mem (n : Nat) (f : Txn → Txn) : (d.modTxn n f).mem = d.mem := rfl
@[simp] theorem Dev.modTxn_frames (n : Nat) (f : Txn → Txn) : (d.modTxn n f).frames = d.frames := rfl
@[simp] theorem Dev.modTxn_crm (n : Nat) (f : Txn → Txn) : (d.modTxn n f).crm = d.crm := rfl
@[simp] theorem Dev.modTxn_thm (n : Nat) (f : Txn → Txn) : (d.modTxn n f).thm = d.thm := rfl
@[simp] theorem Dev.modTxn_farCh (n : Nat) (f : Txn → Txn) : (d.modTxn n f).farCh = d.farCh := rfl
@[simp] theorem Dev.modTxn_cry (n : Nat) (f : Txn → Txn) : (d.modTxn n f).cry = d.cry := rfl
@[simp] theorem Dev.modTxn_prs (n : Nat) (f : Txn → Txn) : (d.modTxn n f).prs = d.prs := rfl
@[simp] theorem Dev.modTxn_home (n : Nat) (f : Txn → Txn) : (d.modTxn n f).home = d.home := rfl
@[simp] theorem Dev.modTxn_nextTxn (n : Nat) (f : Txn → Txn) : (d.modTxn n f).nextTxn = d.nextTxn := rfl
@[simp] theorem Dev.modTxn_ports (n : Nat) (f : Txn → Txn) : (d.modTxn n f).ports = d.ports := rfl
@[simp] theorem Dev.modTxn_rly (n : Nat) (f : Txn → Txn) : (d.modTxn n f).rly = d.rly := rfl
@[simp] theorem Dev.modTxn_chain (n : Nat) (f : Txn → Txn) : (d.modTxn n f).chain = d.chain := rfl
@[simp] theorem Dev.modTxn_noc (n : Nat) (f : Txn → Txn) : (d.modTxn n f).noc = d.noc := rfl
@[simp] theorem Dev.modTxn_sched (n : Nat) (f : Txn → Txn) : (d.modTxn n f).sched = d.sched := rfl
@[simp] theorem Dev.modTxn_merge (n : Nat) (f : Txn → Txn) : (d.modTxn n f).merge = d.merge := rfl
@[simp] theorem Dev.modTxn_arrayPoison (n : Nat) (f : Txn → Txn) : (d.modTxn n f).arrayPoison = d.arrayPoison := rfl
@[simp] theorem Dev.modTxn_issued (n : Nat) (f : Txn → Txn) : (d.modTxn n f).issued = d.issued := rfl
@[simp] theorem Dev.modTxn_pmu (n : Nat) (f : Txn → Txn) : (d.modTxn n f).pmu = d.pmu := rfl
@[simp] theorem Dev.modTxn_ras (n : Nat) (f : Txn → Txn) : (d.modTxn n f).ras = d.ras := rfl
@[simp] theorem Dev.modTxn_free (n : Nat) (f : Txn → Txn) : (d.modTxn n f).free = d.free := rfl
@[simp] theorem Dev.modTxn_out (n : Nat) (f : Txn → Txn) : (d.modTxn n f).out = d.out := rfl
@[simp] theorem Dev.modTxn_wire (n : Nat) (f : Txn → Txn) : (d.modTxn n f).wire = d.wire := rfl

@[simp] theorem Dev.setExt_part (i : Nat) (w : Word) : (d.setExt i w).part = d.part := rfl
@[simp] theorem Dev.setExt_mode (i : Nat) (w : Word) : (d.setExt i w).mode = d.mode := rfl
@[simp] theorem Dev.setExt_clk (i : Nat) (w : Word) : (d.setExt i w).clk = d.clk := rfl
@[simp] theorem Dev.setExt_regs (i : Nat) (w : Word) : (d.setExt i w).regs = d.regs := rfl
@[simp] theorem Dev.setExt_shadow (i : Nat) (w : Word) : (d.setExt i w).shadow = d.shadow := rfl
@[simp] theorem Dev.setExt_shown (i : Nat) (w : Word) : (d.setExt i w).shown = d.shown := rfl
@[simp] theorem Dev.setExt_acc (i : Nat) (w : Word) : (d.setExt i w).acc = d.acc := rfl
@[simp] theorem Dev.setExt_stg (i : Nat) (w : Word) : (d.setExt i w).stg = d.stg := rfl
@[simp] theorem Dev.setExt_pwr (i : Nat) (w : Word) : (d.setExt i w).pwr = d.pwr := rfl
@[simp] theorem Dev.setExt_can (i : Nat) (w : Word) : (d.setExt i w).can = d.can := rfl
@[simp] theorem Dev.setExt_fuses (i : Nat) (w : Word) : (d.setExt i w).fuses = d.fuses := rfl
@[simp] theorem Dev.setExt_sec (i : Nat) (w : Word) : (d.setExt i w).sec = d.sec := rfl
@[simp] theorem Dev.setExt_spdm (i : Nat) (w : Word) : (d.setExt i w).spdm = d.spdm := rfl
@[simp] theorem Dev.setExt_signQ (i : Nat) (w : Word) : (d.setExt i w).signQ = d.signQ := rfl
@[simp] theorem Dev.setExt_mb (i : Nat) (w : Word) : (d.setExt i w).mb = d.mb := rfl
@[simp] theorem Dev.setExt_bist (i : Nat) (w : Word) : (d.setExt i w).bist = d.bist := rfl
@[simp] theorem Dev.setExt_due (i : Nat) (w : Word) : (d.setExt i w).due = d.due := rfl
@[simp] theorem Dev.setExt_extRetire (i : Nat) (w : Word) : (d.setExt i w).extRetire = d.extRetire := rfl
@[simp] theorem Dev.setExt_lds (i : Nat) (w : Word) : (d.setExt i w).lds = d.lds := rfl
@[simp] theorem Dev.setExt_tenants (i : Nat) (w : Word) : (d.setExt i w).tenants = d.tenants := rfl
@[simp] theorem Dev.setExt_mem (i : Nat) (w : Word) : (d.setExt i w).mem = d.mem := rfl
@[simp] theorem Dev.setExt_frames (i : Nat) (w : Word) : (d.setExt i w).frames = d.frames := rfl
@[simp] theorem Dev.setExt_crm (i : Nat) (w : Word) : (d.setExt i w).crm = d.crm := rfl
@[simp] theorem Dev.setExt_thm (i : Nat) (w : Word) : (d.setExt i w).thm = d.thm := rfl
@[simp] theorem Dev.setExt_farCh (i : Nat) (w : Word) : (d.setExt i w).farCh = d.farCh := rfl
@[simp] theorem Dev.setExt_cry (i : Nat) (w : Word) : (d.setExt i w).cry = d.cry := rfl
@[simp] theorem Dev.setExt_prs (i : Nat) (w : Word) : (d.setExt i w).prs = d.prs := rfl
@[simp] theorem Dev.setExt_home (i : Nat) (w : Word) : (d.setExt i w).home = d.home := rfl
@[simp] theorem Dev.setExt_txns (i : Nat) (w : Word) : (d.setExt i w).txns = d.txns := rfl
@[simp] theorem Dev.setExt_nextTxn (i : Nat) (w : Word) : (d.setExt i w).nextTxn = d.nextTxn := rfl
@[simp] theorem Dev.setExt_ports (i : Nat) (w : Word) : (d.setExt i w).ports = d.ports := rfl
@[simp] theorem Dev.setExt_rly (i : Nat) (w : Word) : (d.setExt i w).rly = d.rly := rfl
@[simp] theorem Dev.setExt_chain (i : Nat) (w : Word) : (d.setExt i w).chain = d.chain := rfl
@[simp] theorem Dev.setExt_noc (i : Nat) (w : Word) : (d.setExt i w).noc = d.noc := rfl
@[simp] theorem Dev.setExt_sched (i : Nat) (w : Word) : (d.setExt i w).sched = d.sched := rfl
@[simp] theorem Dev.setExt_arrayPoison (i : Nat) (w : Word) : (d.setExt i w).arrayPoison = d.arrayPoison := rfl
@[simp] theorem Dev.setExt_issued (i : Nat) (w : Word) : (d.setExt i w).issued = d.issued := rfl
@[simp] theorem Dev.setExt_pmu (i : Nat) (w : Word) : (d.setExt i w).pmu = d.pmu := rfl
@[simp] theorem Dev.setExt_ras (i : Nat) (w : Word) : (d.setExt i w).ras = d.ras := rfl
@[simp] theorem Dev.setExt_free (i : Nat) (w : Word) : (d.setExt i w).free = d.free := rfl
@[simp] theorem Dev.setExt_out (i : Nat) (w : Word) : (d.setExt i w).out = d.out := rfl
@[simp] theorem Dev.setExt_wire (i : Nat) (w : Word) : (d.setExt i w).wire = d.wire := rfl

@[simp] theorem Dev.setDir_part (i : Nat) (e : DirEntry) : (d.setDir i e).part = d.part := rfl
@[simp] theorem Dev.setDir_mode (i : Nat) (e : DirEntry) : (d.setDir i e).mode = d.mode := rfl
@[simp] theorem Dev.setDir_clk (i : Nat) (e : DirEntry) : (d.setDir i e).clk = d.clk := rfl
@[simp] theorem Dev.setDir_regs (i : Nat) (e : DirEntry) : (d.setDir i e).regs = d.regs := rfl
@[simp] theorem Dev.setDir_shadow (i : Nat) (e : DirEntry) : (d.setDir i e).shadow = d.shadow := rfl
@[simp] theorem Dev.setDir_shown (i : Nat) (e : DirEntry) : (d.setDir i e).shown = d.shown := rfl
@[simp] theorem Dev.setDir_acc (i : Nat) (e : DirEntry) : (d.setDir i e).acc = d.acc := rfl
@[simp] theorem Dev.setDir_stg (i : Nat) (e : DirEntry) : (d.setDir i e).stg = d.stg := rfl
@[simp] theorem Dev.setDir_pwr (i : Nat) (e : DirEntry) : (d.setDir i e).pwr = d.pwr := rfl
@[simp] theorem Dev.setDir_can (i : Nat) (e : DirEntry) : (d.setDir i e).can = d.can := rfl
@[simp] theorem Dev.setDir_fuses (i : Nat) (e : DirEntry) : (d.setDir i e).fuses = d.fuses := rfl
@[simp] theorem Dev.setDir_sec (i : Nat) (e : DirEntry) : (d.setDir i e).sec = d.sec := rfl
@[simp] theorem Dev.setDir_spdm (i : Nat) (e : DirEntry) : (d.setDir i e).spdm = d.spdm := rfl
@[simp] theorem Dev.setDir_signQ (i : Nat) (e : DirEntry) : (d.setDir i e).signQ = d.signQ := rfl
@[simp] theorem Dev.setDir_mb (i : Nat) (e : DirEntry) : (d.setDir i e).mb = d.mb := rfl
@[simp] theorem Dev.setDir_bist (i : Nat) (e : DirEntry) : (d.setDir i e).bist = d.bist := rfl
@[simp] theorem Dev.setDir_due (i : Nat) (e : DirEntry) : (d.setDir i e).due = d.due := rfl
@[simp] theorem Dev.setDir_ext (i : Nat) (e : DirEntry) : (d.setDir i e).ext = d.ext := rfl
@[simp] theorem Dev.setDir_extRetire (i : Nat) (e : DirEntry) : (d.setDir i e).extRetire = d.extRetire := rfl
@[simp] theorem Dev.setDir_lds (i : Nat) (e : DirEntry) : (d.setDir i e).lds = d.lds := rfl
@[simp] theorem Dev.setDir_tenants (i : Nat) (e : DirEntry) : (d.setDir i e).tenants = d.tenants := rfl
@[simp] theorem Dev.setDir_mem (i : Nat) (e : DirEntry) : (d.setDir i e).mem = d.mem := rfl
@[simp] theorem Dev.setDir_frames (i : Nat) (e : DirEntry) : (d.setDir i e).frames = d.frames := rfl
@[simp] theorem Dev.setDir_crm (i : Nat) (e : DirEntry) : (d.setDir i e).crm = d.crm := rfl
@[simp] theorem Dev.setDir_thm (i : Nat) (e : DirEntry) : (d.setDir i e).thm = d.thm := rfl
@[simp] theorem Dev.setDir_farCh (i : Nat) (e : DirEntry) : (d.setDir i e).farCh = d.farCh := rfl
@[simp] theorem Dev.setDir_cry (i : Nat) (e : DirEntry) : (d.setDir i e).cry = d.cry := rfl
@[simp] theorem Dev.setDir_prs (i : Nat) (e : DirEntry) : (d.setDir i e).prs = d.prs := rfl
@[simp] theorem Dev.setDir_txns (i : Nat) (e : DirEntry) : (d.setDir i e).txns = d.txns := rfl
@[simp] theorem Dev.setDir_nextTxn (i : Nat) (e : DirEntry) : (d.setDir i e).nextTxn = d.nextTxn := rfl
@[simp] theorem Dev.setDir_ports (i : Nat) (e : DirEntry) : (d.setDir i e).ports = d.ports := rfl
@[simp] theorem Dev.setDir_rly (i : Nat) (e : DirEntry) : (d.setDir i e).rly = d.rly := rfl
@[simp] theorem Dev.setDir_chain (i : Nat) (e : DirEntry) : (d.setDir i e).chain = d.chain := rfl
@[simp] theorem Dev.setDir_noc (i : Nat) (e : DirEntry) : (d.setDir i e).noc = d.noc := rfl
@[simp] theorem Dev.setDir_sched (i : Nat) (e : DirEntry) : (d.setDir i e).sched = d.sched := rfl
@[simp] theorem Dev.setDir_arrayPoison (i : Nat) (e : DirEntry) : (d.setDir i e).arrayPoison = d.arrayPoison := rfl
@[simp] theorem Dev.setDir_issued (i : Nat) (e : DirEntry) : (d.setDir i e).issued = d.issued := rfl
@[simp] theorem Dev.setDir_pmu (i : Nat) (e : DirEntry) : (d.setDir i e).pmu = d.pmu := rfl
@[simp] theorem Dev.setDir_ras (i : Nat) (e : DirEntry) : (d.setDir i e).ras = d.ras := rfl
@[simp] theorem Dev.setDir_free (i : Nat) (e : DirEntry) : (d.setDir i e).free = d.free := rfl
@[simp] theorem Dev.setDir_out (i : Nat) (e : DirEntry) : (d.setDir i e).out = d.out := rfl
@[simp] theorem Dev.setDir_wire (i : Nat) (e : DirEntry) : (d.setDir i e).wire = d.wire := rfl

@[simp] theorem Dev.setFrame_part (a b : Nat) (f : Frame) : (d.setFrame a b f).part = d.part := rfl
@[simp] theorem Dev.setFrame_mode (a b : Nat) (f : Frame) : (d.setFrame a b f).mode = d.mode := rfl
@[simp] theorem Dev.setFrame_clk (a b : Nat) (f : Frame) : (d.setFrame a b f).clk = d.clk := rfl
@[simp] theorem Dev.setFrame_regs (a b : Nat) (f : Frame) : (d.setFrame a b f).regs = d.regs := rfl
@[simp] theorem Dev.setFrame_shadow (a b : Nat) (f : Frame) : (d.setFrame a b f).shadow = d.shadow := rfl
@[simp] theorem Dev.setFrame_shown (a b : Nat) (f : Frame) : (d.setFrame a b f).shown = d.shown := rfl
@[simp] theorem Dev.setFrame_acc (a b : Nat) (f : Frame) : (d.setFrame a b f).acc = d.acc := rfl
@[simp] theorem Dev.setFrame_stg (a b : Nat) (f : Frame) : (d.setFrame a b f).stg = d.stg := rfl
@[simp] theorem Dev.setFrame_pwr (a b : Nat) (f : Frame) : (d.setFrame a b f).pwr = d.pwr := rfl
@[simp] theorem Dev.setFrame_can (a b : Nat) (f : Frame) : (d.setFrame a b f).can = d.can := rfl
@[simp] theorem Dev.setFrame_fuses (a b : Nat) (f : Frame) : (d.setFrame a b f).fuses = d.fuses := rfl
@[simp] theorem Dev.setFrame_sec (a b : Nat) (f : Frame) : (d.setFrame a b f).sec = d.sec := rfl
@[simp] theorem Dev.setFrame_spdm (a b : Nat) (f : Frame) : (d.setFrame a b f).spdm = d.spdm := rfl
@[simp] theorem Dev.setFrame_signQ (a b : Nat) (f : Frame) : (d.setFrame a b f).signQ = d.signQ := rfl
@[simp] theorem Dev.setFrame_mb (a b : Nat) (f : Frame) : (d.setFrame a b f).mb = d.mb := rfl
@[simp] theorem Dev.setFrame_bist (a b : Nat) (f : Frame) : (d.setFrame a b f).bist = d.bist := rfl
@[simp] theorem Dev.setFrame_due (a b : Nat) (f : Frame) : (d.setFrame a b f).due = d.due := rfl
@[simp] theorem Dev.setFrame_ext (a b : Nat) (f : Frame) : (d.setFrame a b f).ext = d.ext := rfl
@[simp] theorem Dev.setFrame_extRetire (a b : Nat) (f : Frame) : (d.setFrame a b f).extRetire = d.extRetire := rfl
@[simp] theorem Dev.setFrame_lds (a b : Nat) (f : Frame) : (d.setFrame a b f).lds = d.lds := rfl
@[simp] theorem Dev.setFrame_tenants (a b : Nat) (f : Frame) : (d.setFrame a b f).tenants = d.tenants := rfl
@[simp] theorem Dev.setFrame_mem (a b : Nat) (f : Frame) : (d.setFrame a b f).mem = d.mem := rfl
@[simp] theorem Dev.setFrame_crm (a b : Nat) (f : Frame) : (d.setFrame a b f).crm = d.crm := rfl
@[simp] theorem Dev.setFrame_thm (a b : Nat) (f : Frame) : (d.setFrame a b f).thm = d.thm := rfl
@[simp] theorem Dev.setFrame_farCh (a b : Nat) (f : Frame) : (d.setFrame a b f).farCh = d.farCh := rfl
@[simp] theorem Dev.setFrame_cry (a b : Nat) (f : Frame) : (d.setFrame a b f).cry = d.cry := rfl
@[simp] theorem Dev.setFrame_prs (a b : Nat) (f : Frame) : (d.setFrame a b f).prs = d.prs := rfl
@[simp] theorem Dev.setFrame_home (a b : Nat) (f : Frame) : (d.setFrame a b f).home = d.home := rfl
@[simp] theorem Dev.setFrame_txns (a b : Nat) (f : Frame) : (d.setFrame a b f).txns = d.txns := rfl
@[simp] theorem Dev.setFrame_nextTxn (a b : Nat) (f : Frame) : (d.setFrame a b f).nextTxn = d.nextTxn := rfl
@[simp] theorem Dev.setFrame_ports (a b : Nat) (f : Frame) : (d.setFrame a b f).ports = d.ports := rfl
@[simp] theorem Dev.setFrame_rly (a b : Nat) (f : Frame) : (d.setFrame a b f).rly = d.rly := rfl
@[simp] theorem Dev.setFrame_chain (a b : Nat) (f : Frame) : (d.setFrame a b f).chain = d.chain := rfl
@[simp] theorem Dev.setFrame_noc (a b : Nat) (f : Frame) : (d.setFrame a b f).noc = d.noc := rfl
@[simp] theorem Dev.setFrame_sched (a b : Nat) (f : Frame) : (d.setFrame a b f).sched = d.sched := rfl
@[simp] theorem Dev.setFrame_merge (a b : Nat) (f : Frame) : (d.setFrame a b f).merge = d.merge := rfl
@[simp] theorem Dev.setFrame_arrayPoison (a b : Nat) (f : Frame) : (d.setFrame a b f).arrayPoison = d.arrayPoison := rfl
@[simp] theorem Dev.setFrame_issued (a b : Nat) (f : Frame) : (d.setFrame a b f).issued = d.issued := rfl
@[simp] theorem Dev.setFrame_pmu (a b : Nat) (f : Frame) : (d.setFrame a b f).pmu = d.pmu := rfl
@[simp] theorem Dev.setFrame_ras (a b : Nat) (f : Frame) : (d.setFrame a b f).ras = d.ras := rfl
@[simp] theorem Dev.setFrame_free (a b : Nat) (f : Frame) : (d.setFrame a b f).free = d.free := rfl
@[simp] theorem Dev.setFrame_out (a b : Nat) (f : Frame) : (d.setFrame a b f).out = d.out := rfl
@[simp] theorem Dev.setFrame_wire (a b : Nat) (f : Frame) : (d.setFrame a b f).wire = d.wire := rfl

/-! Taking a free value. -/

@[simp] theorem Dev.takeFree_part : d.takeFree.2.part = d.part := rfl
@[simp] theorem Dev.takeFree_mode : d.takeFree.2.mode = d.mode := rfl
@[simp] theorem Dev.takeFree_clk : d.takeFree.2.clk = d.clk := rfl
@[simp] theorem Dev.takeFree_regs : d.takeFree.2.regs = d.regs := rfl
@[simp] theorem Dev.takeFree_shadow : d.takeFree.2.shadow = d.shadow := rfl
@[simp] theorem Dev.takeFree_shown : d.takeFree.2.shown = d.shown := rfl
@[simp] theorem Dev.takeFree_acc : d.takeFree.2.acc = d.acc := rfl
@[simp] theorem Dev.takeFree_stg : d.takeFree.2.stg = d.stg := rfl
@[simp] theorem Dev.takeFree_pwr : d.takeFree.2.pwr = d.pwr := rfl
@[simp] theorem Dev.takeFree_can : d.takeFree.2.can = d.can := rfl
@[simp] theorem Dev.takeFree_fuses : d.takeFree.2.fuses = d.fuses := rfl
@[simp] theorem Dev.takeFree_sec : d.takeFree.2.sec = d.sec := rfl
@[simp] theorem Dev.takeFree_spdm : d.takeFree.2.spdm = d.spdm := rfl
@[simp] theorem Dev.takeFree_signQ : d.takeFree.2.signQ = d.signQ := rfl
@[simp] theorem Dev.takeFree_mb : d.takeFree.2.mb = d.mb := rfl
@[simp] theorem Dev.takeFree_bist : d.takeFree.2.bist = d.bist := rfl
@[simp] theorem Dev.takeFree_due : d.takeFree.2.due = d.due := rfl
@[simp] theorem Dev.takeFree_ext : d.takeFree.2.ext = d.ext := rfl
@[simp] theorem Dev.takeFree_extRetire : d.takeFree.2.extRetire = d.extRetire := rfl
@[simp] theorem Dev.takeFree_lds : d.takeFree.2.lds = d.lds := rfl
@[simp] theorem Dev.takeFree_tenants : d.takeFree.2.tenants = d.tenants := rfl
@[simp] theorem Dev.takeFree_mem : d.takeFree.2.mem = d.mem := rfl
@[simp] theorem Dev.takeFree_frames : d.takeFree.2.frames = d.frames := rfl
@[simp] theorem Dev.takeFree_crm : d.takeFree.2.crm = d.crm := rfl
@[simp] theorem Dev.takeFree_thm : d.takeFree.2.thm = d.thm := rfl
@[simp] theorem Dev.takeFree_farCh : d.takeFree.2.farCh = d.farCh := rfl
@[simp] theorem Dev.takeFree_cry : d.takeFree.2.cry = d.cry := rfl
@[simp] theorem Dev.takeFree_prs : d.takeFree.2.prs = d.prs := rfl
@[simp] theorem Dev.takeFree_home : d.takeFree.2.home = d.home := rfl
@[simp] theorem Dev.takeFree_txns : d.takeFree.2.txns = d.txns := rfl
@[simp] theorem Dev.takeFree_nextTxn : d.takeFree.2.nextTxn = d.nextTxn := rfl
@[simp] theorem Dev.takeFree_ports : d.takeFree.2.ports = d.ports := rfl
@[simp] theorem Dev.takeFree_rly : d.takeFree.2.rly = d.rly := rfl
@[simp] theorem Dev.takeFree_chain : d.takeFree.2.chain = d.chain := rfl
@[simp] theorem Dev.takeFree_noc : d.takeFree.2.noc = d.noc := rfl
@[simp] theorem Dev.takeFree_sched : d.takeFree.2.sched = d.sched := rfl
@[simp] theorem Dev.takeFree_merge : d.takeFree.2.merge = d.merge := rfl
@[simp] theorem Dev.takeFree_arrayPoison : d.takeFree.2.arrayPoison = d.arrayPoison := rfl
@[simp] theorem Dev.takeFree_issued : d.takeFree.2.issued = d.issued := rfl
@[simp] theorem Dev.takeFree_pmu : d.takeFree.2.pmu = d.pmu := rfl
@[simp] theorem Dev.takeFree_ras : d.takeFree.2.ras = d.ras := rfl
@[simp] theorem Dev.takeFree_out : d.takeFree.2.out = d.out := rfl
@[simp] theorem Dev.takeFree_wire : d.takeFree.2.wire = d.wire := rfl

/-! `settle` keeps what the command leaves behind, but for part, fuses and mode. -/

@[simp] theorem settle_clk (a b : Dev) : (settle a b).clk = b.clk := rfl
@[simp] theorem settle_regs (a b : Dev) : (settle a b).regs = b.regs := rfl
@[simp] theorem settle_shadow (a b : Dev) : (settle a b).shadow = b.shadow := rfl
@[simp] theorem settle_shown (a b : Dev) : (settle a b).shown = b.shown := rfl
@[simp] theorem settle_acc (a b : Dev) : (settle a b).acc = b.acc := rfl
@[simp] theorem settle_stg (a b : Dev) : (settle a b).stg = b.stg := rfl
@[simp] theorem settle_pwr (a b : Dev) : (settle a b).pwr = b.pwr := rfl
@[simp] theorem settle_can (a b : Dev) : (settle a b).can = b.can := rfl
@[simp] theorem settle_sec (a b : Dev) : (settle a b).sec = b.sec := rfl
@[simp] theorem settle_spdm (a b : Dev) : (settle a b).spdm = b.spdm := rfl
@[simp] theorem settle_signQ (a b : Dev) : (settle a b).signQ = b.signQ := rfl
@[simp] theorem settle_mb (a b : Dev) : (settle a b).mb = b.mb := rfl
@[simp] theorem settle_bist (a b : Dev) : (settle a b).bist = b.bist := rfl
@[simp] theorem settle_due (a b : Dev) : (settle a b).due = b.due := rfl
@[simp] theorem settle_ext (a b : Dev) : (settle a b).ext = b.ext := rfl
@[simp] theorem settle_extRetire (a b : Dev) : (settle a b).extRetire = b.extRetire := rfl
@[simp] theorem settle_lds (a b : Dev) : (settle a b).lds = b.lds := rfl
@[simp] theorem settle_tenants (a b : Dev) : (settle a b).tenants = b.tenants := rfl
@[simp] theorem settle_mem (a b : Dev) : (settle a b).mem = b.mem := rfl
@[simp] theorem settle_frames (a b : Dev) : (settle a b).frames = b.frames := rfl
@[simp] theorem settle_crm (a b : Dev) : (settle a b).crm = b.crm := rfl
@[simp] theorem settle_thm (a b : Dev) : (settle a b).thm = b.thm := rfl
@[simp] theorem settle_farCh (a b : Dev) : (settle a b).farCh = b.farCh := rfl
@[simp] theorem settle_cry (a b : Dev) : (settle a b).cry = b.cry := rfl
@[simp] theorem settle_prs (a b : Dev) : (settle a b).prs = b.prs := rfl
@[simp] theorem settle_home (a b : Dev) : (settle a b).home = b.home := rfl
@[simp] theorem settle_txns (a b : Dev) : (settle a b).txns = b.txns := rfl
@[simp] theorem settle_nextTxn (a b : Dev) : (settle a b).nextTxn = b.nextTxn := rfl
@[simp] theorem settle_ports (a b : Dev) : (settle a b).ports = b.ports := rfl
@[simp] theorem settle_rly (a b : Dev) : (settle a b).rly = b.rly := rfl
@[simp] theorem settle_chain (a b : Dev) : (settle a b).chain = b.chain := rfl
@[simp] theorem settle_noc (a b : Dev) : (settle a b).noc = b.noc := rfl
@[simp] theorem settle_sched (a b : Dev) : (settle a b).sched = b.sched := rfl
@[simp] theorem settle_merge (a b : Dev) : (settle a b).merge = b.merge := rfl
@[simp] theorem settle_arrayPoison (a b : Dev) : (settle a b).arrayPoison = b.arrayPoison := rfl
@[simp] theorem settle_issued (a b : Dev) : (settle a b).issued = b.issued := rfl
@[simp] theorem settle_pmu (a b : Dev) : (settle a b).pmu = b.pmu := rfl
@[simp] theorem settle_ras (a b : Dev) : (settle a b).ras = b.ras := rfl
@[simp] theorem settle_free (a b : Dev) : (settle a b).free = b.free := rfl
@[simp] theorem settle_out (a b : Dev) : (settle a b).out = b.out := rfl
@[simp] theorem settle_wire (a b : Dev) : (settle a b).wire = b.wire := rfl

/-! ### Registers after a write -/

@[simp] theorem Dev.reg_setReg_same (o : Nat) (w : Word) : (d.setReg o w).reg o = w := Sparse.get_put_same _ _ _ _

theorem Dev.reg_setReg_ne {o o' : Nat} (w : Word) (h : o' ≠ o) : (d.setReg o w).reg o' = d.reg o' :=
  Sparse.get_put_ne _ _ _ _ h

theorem Dev.reg_setReg (o o' : Nat) (w : Word) : (d.setReg o w).reg o' = if o' = o then w else d.reg o' := by
  split
  · rename_i h; subst h; exact Dev.reg_setReg_same d o' w
  · rename_i h; exact Dev.reg_setReg_ne d w h

theorem Dev.reg_setFld_ne {f : Fld} {o : Nat} (v : Nat) (h : o ≠ f.off) : (d.setFld f v).reg o = d.reg o :=
  Dev.reg_setReg_ne d _ h

/-- A written field reads what was written, modulo its width. -/
theorem Dev.fld_setFld_same (f : Fld) (v : Nat) (h : f.lo + f.w ≤ 32) : (d.setFld f v).fld f = v % 2 ^ f.w := by
  simp only [Dev.fld, Dev.setFld, Dev.reg_setReg_same]
  exact fieldOf_setFieldOf_same _ _ _ _ h

/-- Two fields that share no bit: in different registers, or apart in one. -/
def Fld.apart (f g : Fld) : Bool :=
  decide (f.off ≠ g.off) || decide (f.lo + f.w ≤ g.lo) || decide (g.lo + g.w ≤ f.lo)

/-- A write of one field leaves a field apart from it alone. -/
theorem Dev.fld_setFld_apart (f g : Fld) (v : Nat) (h : f.apart g = true) : (d.setFld f v).fld g = d.fld g := by
  by_cases ho : g.off = f.off
  · simp only [Dev.fld, Dev.setFld, ho, Dev.reg_setReg_same]
    apply fieldOf_setFieldOf_disjoint
    simp only [Fld.apart, Bool.or_eq_true, decide_eq_true_eq, ho, ne_eq, not_true_eq_false, false_or] at h
    exact h
  · simp only [Dev.fld, Dev.setFld, Dev.reg_setReg_ne d _ ho]

theorem Dev.flag_setFlag_same (f : Fld) (b : Bool) (h : f.lo + f.w ≤ 32) (hw : f.w = 1) : (d.setFlag f b).flag f = b := by
  simp only [Dev.flag, Dev.setFlag, Dev.fld_setFld_same d f _ h, hw]
  cases b <;> decide

/-- A register that an event can touch: the two alert registers and the ring's count of dropped records. -/
def eventReg (o : Nat) : Bool := o == Off.rasAlertSts || o == Off.thmAlert || o == Off.rasRingSts

theorem Dev.alert_reg (b o : Nat) (h : eventReg o = false) : (d.alert b).reg o = d.reg o := by
  simp only [eventReg, Bool.or_eq_false_iff, beq_eq_false_iff_ne] at h
  unfold Dev.alert; simp only []
  split
  · rw [Dev.reg_setReg_ne _ _ h.1.2, Dev.reg_setReg_ne _ _ h.1.1]
  · rw [Dev.reg_setReg_ne _ _ h.1.1]

theorem Dev.pushRec_reg (x : EventRec) (o : Nat) (h : eventReg o = false) : (d.pushRec x).reg o = d.reg o := by
  unfold Dev.pushRec; simp only []; split
  · rw [Dev.alert_reg _ _ _ h]; rfl
  · rfl

theorem Dev.countAs_reg (n k : Nat) (c : Option (BitVec 16)) (t : Option TenantId) (l : Option Cls) (o : Nat) :
    (d.countAs n k c t l).reg o = d.reg o := by
  obtain ⟨p, h⟩ := Dev.countAs_shape d n k c t l
  rw [h]; rfl

theorem Dev.issueLoc_reg (l : BitVec 64) (o : Nat) : (d.issueLoc l).reg o = d.reg o := by
  unfold Dev.issueLoc; split <;> rfl

theorem Dev.writeRec_reg (x : EventRec) (o : Nat) (h : eventReg o = false) : (d.writeRec x).reg o = d.reg o := by
  have second : ∀ a : Dev, a.reg o = d.reg o →
      (if (if 2 ≤ x.sev then 0 < a.ras.freeEntries else 64 < a.ras.freeEntries) then a.pushRec x
      else (Dev.bump { a with ras := { a.ras with dropped := a.ras.dropped + 1, lossFlag := true } } Fld.rasRingSts_dropped 1).alert 4).reg o
        = d.reg o := by
    intro a ha
    by_cases room : (if 2 ≤ x.sev then 0 < a.ras.freeEntries else 64 < a.ras.freeEntries)
    · rw [if_pos room, Dev.pushRec_reg _ _ _ h, ha]
    · rw [if_neg room, Dev.alert_reg _ _ _ h, ← ha]
      have ho : o ≠ Fld.rasRingSts_dropped.off := by
        simp only [eventReg, Bool.or_eq_false_iff, beq_eq_false_iff_ne] at h; exact h.2
      exact Dev.reg_setFld_ne _ _ ho
  apply second
  split
  · rw [Dev.pushRec_reg _ _ _ h]; unfold Dev.count; rw [Dev.countAs_reg]; rfl
  · rfl

/-- An event leaves every register but those three alone. -/
theorem Dev.raise_reg (e : Ev) (o : Nat) (h : eventReg o = false) : (d.raise e).reg o = d.reg o := by
  have first : (if e.num = 0x102 then ((d.issueLoc e.loc).countAs e.num 1 e.chid e.tenant e.cls).alert 7
      else (d.issueLoc e.loc).countAs e.num 1 e.chid e.tenant e.cls).reg o = d.reg o := by
    split
    · rw [Dev.alert_reg _ _ _ h, Dev.countAs_reg, Dev.issueLoc_reg]
    · rw [Dev.countAs_reg, Dev.issueLoc_reg]
  have second : ∀ a : Dev, a.reg o = d.reg o → (match a.ras.recs.find? (fun r => sameEvent r a.clk.pour e) with
      | some r => Dev.mergeWrite { a with ras := { a.ras with recs := bumpRepeat a.clk.pour e a.ras.recs } } .eventRing (ringWordOf r) 0x30
      | none => a.writeRec (a.recordOf e)).reg o = d.reg o := by
    intro a ha; split
    · exact ha
    · rw [Dev.writeRec_reg _ _ _ h, ha]
  exact second _ first

theorem Dev.raiseN_reg (n : Nat) (l : List Word) (o : Nat) (h : eventReg o = false) : (d.raiseN n l).reg o = d.reg o :=
  Dev.raise_reg d _ o h

theorem Dev.raiseN_fld (n : Nat) (l : List Word) (f : Fld) (h : eventReg f.off = false) : (d.raiseN n l).fld f = d.fld f := by
  unfold Dev.fld; rw [Dev.raiseN_reg d n l _ h]

theorem Dev.raise_fld (e : Ev) (f : Fld) (h : eventReg f.off = false) : (d.raise e).fld f = d.fld f := by
  unfold Dev.fld; rw [Dev.raise_reg d e _ h]

/-! ### The frame of a command -/

@[simp] theorem settle_part (a b : Dev) : (settle a b).part = a.part := rfl

/-- `settle` lets through a change of mode along an edge of R38, and no other. -/
theorem settle_mode (a b : Dev) :
    (settle a b).mode = if b.mode = a.mode ∨ modeEdge a.mode b.mode then b.mode else a.mode := rfl

theorem settle_mode_self (a b : Dev) (h : b.mode = a.mode) : (settle a b).mode = a.mode := by
  rw [settle_mode, if_pos (Or.inl h), h]

theorem settle_mode_edge (a b : Dev) (h : modeEdge a.mode b.mode = true) : (settle a b).mode = b.mode := by
  rw [settle_mode, if_pos (Or.inr h)]

theorem settle_reg (a b : Dev) (o : Nat) : (settle a b).reg o = b.reg o := rfl

theorem settle_fld (a b : Dev) (f : Fld) : (settle a b).fld f = b.fld f := rfl

/-- Every command in the frame `State.on` answers a next state and leaves the queue alone. -/
theorem State.on_next (s : State) (f : Dev → Dev) : s.on f = .next { s with dev := settle s.dev (f s.dev) } := rfl

end Sys2Proof.Machine
end

