-- ==== Sys2Proof/Laws/Ops.lean ====
section
/-! SUPPORT. Sys2Proof/Laws/Ops.lean: what the operations that several families share do: the pair of a keyed register, the
mailbox around a command, its completion, and the sending of Relay messages. -/

namespace Sys2Proof.Machine

variable (d : Dev)

/-! ### Keyed pairs -/

/-- A completed pair is used up, and its value acts, or is refused with CAUSE 11 (R414). -/
theorem Dev.keyWrite_pair (src : Source) (off : Nat) (v key : Word) (act : Word → Dev → Option Dev)
    (h : d.pairReady src off v key) :
    d.keyWrite src off key act = (act v (d.setArmed src none)).getD ((d.setArmed src none).keyFail 3 off) := by
  obtain ⟨⟨o, w, at_⟩, h1, ho, hw, h2, h3⟩ := h
  dsimp only at ho hw h2; subst ho; subst hw
  have h1 : d.armedBy src = some ⟨o, w, at_⟩ := h1
  have h4 : ¬ 256 < at_.cyclesTo (d.setArmed src none).stamp := Nat.not_lt.mpr h2
  simp only [Dev.keyWrite, h1, if_true, h4, if_false, h3, ne_eq, not_true_eq_false]
  cases act w (d.setArmed src none) <;> rfl

/-! ### The mailbox -/

/-- A command that its interface takes now runs at once. -/
theorem Dev.mailbox_now (i : Iface) (c : Instr) (op : Nat) (body : Dev → Dev) (h : d.takesNow i op) :
    d.mailbox i c op body = body d := by
  obtain ⟨h1, h2, h3⟩ := h
  simp [Dev.mailbox, h1, h2, h3]

/-- A vendor command for this device runs on the bytes behind its header. -/
theorem Dev.vendor_own (i : Iface) (op : Nat) (p : Payload) (len : Nat) (run : Payload → Dev → Dev)
    (h : d.ownPayload p len) : d.vendor i op p len run = run (p.drop 8) d := by
  obtain ⟨h1, h2, h3⟩ := h
  have h4 : ¬ p.length < 8 + len := Nat.not_lt.mpr h1
  simp [Dev.vendor, h2, h3, h4]

/-! ### Relay messages -/

/-- `b` is `a` but for registers, outputs, flits, telemetry and the Relay ports. -/
def Dev.sendsOf (a b : Dev) : Prop := ∃ r o p l w, b = { a with regs := r, out := o, pmu := p, rly := l, wire := w }

theorem Dev.sendsOf_refl : d.sendsOf d := ⟨_, _, _, _, _, rfl⟩

theorem Dev.sendsOf_trans {a b c : Dev} (h : a.sendsOf b) (k : b.sendsOf c) : a.sendsOf c := by
  obtain ⟨_, _, _, _, _, rfl⟩ := h
  obtain ⟨r, o, p, l, w, rfl⟩ := k
  exact ⟨r, o, p, l, w, rfl⟩

theorem Dev.countAs_sends (n k : Nat) (c : Option (BitVec 16)) (t : Option TenantId) (l : Option Cls) :
    d.sendsOf (d.countAs n k c t l) := by
  obtain ⟨q, hq⟩ := Dev.countAs_shape d n k c t l
  rw [hq]; exact ⟨_, _, _, _, _, rfl⟩

theorem Dev.ctrlOut_shape (p : PortId) (k : Nat) (l : List Nat) : d.sendsOf (d.ctrlOut p k l) := by
  have key : ∀ a : Dev, ∀ w x, a.sendsOf (((a.count 0x03C 1).putFlit p w).emit x) := fun a w x =>
    Dev.sendsOf_trans (Dev.countAs_sends a _ _ _ _ _) ⟨_, _, _, _, _, rfl⟩
  exact Dev.sendsOf_trans (b := d.modRly p fun r => { r with ctrlTx := r.ctrlTx + 1 }) ⟨_, _, _, _, _, rfl⟩ (key _ _ _)

theorem Dev.creditFirst_shape (p : PortId) : d.sendsOf (d.creditFirst p) := by
  unfold Dev.creditFirst Dev.creditOut; split
  · exact Dev.sendsOf_trans (Dev.ctrlOut_shape d p _ _) ⟨_, _, _, _, _, rfl⟩
  · exact Dev.sendsOf_refl d

theorem Dev.transmit_shape (p : PortId) (t : TxMsg) : d.sendsOf (d.transmit p t) := by
  have key : ∀ a : Dev, ∀ f w, a.sendsOf (((a.modRly p f).syncReplay p).emitTx p t w) := fun a f w =>
    Dev.sendsOf_trans (b := (a.modRly p f).syncReplay p) ⟨_, _, _, _, _, rfl⟩
      (Dev.sendsOf_trans (Dev.countAs_sends _ _ _ _ _ _) ⟨_, _, _, _, _, rfl⟩)
  exact Dev.sendsOf_trans (Dev.creditFirst_shape d p) (key _ _ _)

theorem Dev.pumpTx_shape (p : PortId) (n : Nat) : d.sendsOf (d.pumpTx p n) := by
  induction n generalizing d with
  | zero => exact Dev.sendsOf_refl d
  | succ n ih =>
    unfold Dev.pumpTx; split
    · exact Dev.sendsOf_trans (Dev.transmit_shape d p _) (ih _)
    · exact Dev.sendsOf_refl d

theorem Dev.relayPut_shape (p : PortId) (t : TxMsg) : d.sendsOf (d.relayPut p t) := by
  unfold Dev.relayPut Dev.sendQueued; simp only []; split
  · exact Dev.sendsOf_trans ⟨_, _, _, _, _, rfl⟩ (Dev.pumpTx_shape _ p _)
  · exact Dev.sendsOf_refl d

theorem Dev.sendUp_shape (m : RelayMsg) (c : Nat) (l : List (BitVec 128)) : d.sendsOf (d.sendUp m c l) := by
  unfold Dev.sendUp Dev.relaySend; split
  · exact Dev.relayPut_shape d _ _
  · exact Dev.sendsOf_refl d

theorem Dev.sendDown_shape (m : RelayMsg) (c : Nat) (l : List (BitVec 128)) : d.sendsOf (d.sendDown m c l) := by
  unfold Dev.sendDown Dev.relaySend; split
  · exact Dev.relayPut_shape d _ _
  · exact Dev.sendsOf_refl d

/-- The registers that sending on Relay can touch: the two link status registers, whose REPLAY it keeps. -/
def relayReg (o : Nat) : Bool := o == Off.rlyLinkSts 0 || o == Off.rlyLinkSts 1

theorem Dev.putFlit_reg (p : PortId) (w : Payload) (o : Nat) : (d.putFlit p w).reg o = d.reg o := rfl
theorem Dev.modRly_reg (p : PortId) (f : RelayPort → RelayPort) (o : Nat) : (d.modRly p f).reg o = d.reg o := rfl
theorem Dev.emit_reg (x : Out) (o : Nat) : (d.emit x).reg o = d.reg o := rfl

theorem Dev.ctrlOut_reg (p : PortId) (k : Nat) (l : List Nat) (o : Nat) : (d.ctrlOut p k l).reg o = d.reg o := by
  unfold Dev.ctrlOut Dev.count
  simp only [Dev.emit_reg, Dev.putFlit_reg, Dev.countAs_reg, Dev.modRly_reg]

theorem Dev.creditFirst_reg (p : PortId) (o : Nat) : (d.creditFirst p).reg o = d.reg o := by
  unfold Dev.creditFirst Dev.creditOut; split
  · simp only [Dev.modRly_reg, Dev.ctrlOut_reg]
  · rfl

theorem Dev.transmit_reg (p : PortId) (t : TxMsg) (o : Nat) (h : relayReg o = false) : (d.transmit p t).reg o = d.reg o := by
  simp only [relayReg, Bool.or_eq_false_iff, beq_eq_false_iff_ne] at h
  have ho : o ≠ (Fld.rlyLinkSts_replay (portIdx p)).off := by
    cases p
    · exact h.1
    · exact h.2
  unfold Dev.transmit Dev.emitTx Dev.syncReplay Dev.count
  simp only [Dev.emit_reg, Dev.putFlit_reg, Dev.countAs_reg]
  rw [Dev.reg_setFld_ne _ _ ho]
  simp only [Dev.modRly_reg, Dev.creditFirst_reg]

theorem Dev.pumpTx_reg (p : PortId) (n o : Nat) (h : relayReg o = false) : (d.pumpTx p n).reg o = d.reg o := by
  induction n generalizing d with
  | zero => rfl
  | succ n ih =>
    unfold Dev.pumpTx; split
    · rw [ih, Dev.transmit_reg _ _ _ _ h]
    · rfl

theorem Dev.relayPut_reg (p : PortId) (t : TxMsg) (o : Nat) (h : relayReg o = false) : (d.relayPut p t).reg o = d.reg o := by
  unfold Dev.relayPut Dev.sendQueued; simp only []; split
  · rw [Dev.pumpTx_reg _ _ _ _ h]; rfl
  · rfl

theorem Dev.sendUp_reg (m : RelayMsg) (c : Nat) (l : List (BitVec 128)) (o : Nat) (h : relayReg o = false) :
    (d.sendUp m c l).reg o = d.reg o := by
  unfold Dev.sendUp Dev.relaySend; split
  · exact Dev.relayPut_reg d _ _ o h
  · rfl

theorem Dev.sendDown_reg (m : RelayMsg) (c : Nat) (l : List (BitVec 128)) (o : Nat) (h : relayReg o = false) :
    (d.sendDown m c l).reg o = d.reg o := by
  unfold Dev.sendDown Dev.relaySend; split
  · exact Dev.relayPut_reg d _ _ o h
  · rfl

/-! ### Completion of a command (R397) -/

theorem Dev.emit_head (o : Out) : (d.emit o).out.head? = some o := rfl

theorem Dev.freeIface_shape (i : Iface) (op : Nat) : ∃ r m, d.freeIface i op = { d with regs := r, mb := m } := by
  unfold Dev.freeIface; simp only []; split
  · exact ⟨d.regs, _, rfl⟩
  · exact ⟨_, _, rfl⟩

theorem Dev.putAnswer_shape (i : Iface) (op rc : Nat) (out : Payload) :
    ∃ r o p l m w, d.putAnswer i op rc out = { d with regs := r, out := o, pmu := p, rly := l, mb := m, wire := w } := by
  unfold Dev.putAnswer; simp only []; split
  · obtain ⟨r, o, p, l, w, h⟩ := Dev.sendUp_shape d (d.mgmtMsg 0 (ceilDiv (leBytes 2 rc ++ out).length 16)) 0x69
      (byteSlots (leBytes 2 rc ++ out))
    rw [h]; exact ⟨_, _, _, _, _, _, rfl⟩
  · simp only [Dev.emit, Dev.setReg]
    exact ⟨_, _, _, _, _, _, rfl⟩

/-- Completing a command puts its answer out last. -/
theorem Dev.complete_answered (i : Iface) (op rc : Nat) (out : Payload) :
    (d.complete i op rc out).answered i rc op (out.take 8192) := by
  have key : ∀ (a : Dev) (y : Payload), (a.putAnswer i op rc y).out.head? = some (.mbox i rc op y) := by
    intro a y; unfold Dev.putAnswer; simp only []; split
    · exact Dev.emit_head _ _
    · exact Dev.emit_head _ _
  exact key _ _

theorem Dev.complete_shape (i : Iface) (op rc : Nat) (out : Payload) :
    ∃ r o p l m w, d.complete i op rc out = { d with regs := r, out := o, pmu := p, rly := l, mb := m, wire := w } := by
  unfold Dev.complete
  obtain ⟨r, m, h⟩ := Dev.freeIface_shape d i op
  obtain ⟨r', o, p, l, m', w, k⟩ := Dev.putAnswer_shape (d.freeIface i op) i op rc (out.take 8192)
  rw [k, h]; exact ⟨_, _, _, _, _, _, rfl⟩

/-- The registers of the command interfaces. -/
def mboxReg (o : Nat) : Bool := decide (0x380000 ≤ o) && decide (o < 0x38C000)

theorem Dev.complete_reg (i : Iface) (op rc : Nat) (x : Payload) (o : Nat) (h : mboxReg o = false) (k : relayReg o = false) :
    (d.complete i op rc x).reg o = d.reg o := by
  simp only [mboxReg, Bool.and_eq_false_iff, decide_eq_false_iff_not] at h
  have e1 : o ≠ Off.mboxCmdSts (ifaceIdx i) := by cases i <;> simp only [ifaceIdx, Off.mboxCmdSts] <;> omega
  have e2 : o ≠ Off.mboxResultSeq (ifaceIdx i) := by cases i <;> simp only [ifaceIdx, Off.mboxResultSeq] <;> omega
  have e3 : o ≠ Off.mboxResultHdr (ifaceIdx i) := by cases i <;> simp only [ifaceIdx, Off.mboxResultHdr] <;> omega
  have e4 : o ≠ Off.mboxResultLen (ifaceIdx i) := by cases i <;> simp only [ifaceIdx, Off.mboxResultLen] <;> omega
  have emit : ∀ (a : Dev) y, (a.emit y).reg o = a.reg o := fun _ _ => rfl
  have free : (d.freeIface i op).reg o = d.reg o := by
    unfold Dev.freeIface; simp only []; split
    · rfl
    · rw [Dev.reg_setFld_ne _ _ e1, Dev.setFlag, Dev.reg_setFld_ne _ _ e1]; rfl
  have put : ∀ (a : Dev) (y : Payload), (a.putAnswer i op rc y).reg o = a.reg o := by
    intro a y; unfold Dev.putAnswer; simp only []; split
    · rw [emit, Dev.sendUp_reg _ _ _ _ _ k]
    · rw [emit, Dev.reg_setReg_ne _ _ e4, Dev.reg_setReg_ne _ _ e3, Dev.reg_setReg_ne _ _ e2]; rfl
  unfold Dev.complete; rw [put, free]

/-! ### What each operation leaves alone -/

@[simp] theorem Dev.relayPut_part (p : PortId) (t : TxMsg) : (d.relayPut p t).part = d.part := by
  obtain ⟨_, _, _, _, _, h⟩ := Dev.relayPut_shape d p t; rw [h]
@[simp] theorem Dev.relayPut_mode (p : PortId) (t : TxMsg) : (d.relayPut p t).mode = d.mode := by
  obtain ⟨_, _, _, _, _, h⟩ := Dev.relayPut_shape d p t; rw [h]
@[simp] theorem Dev.relayPut_clk (p : PortId) (t : TxMsg) : (d.relayPut p t).clk = d.clk := by
  obtain ⟨_, _, _, _, _, h⟩ := Dev.relayPut_shape d p t; rw [h]
@[simp] theorem Dev.relayPut_shadow (p : PortId) (t : TxMsg) : (d.relayPut p t).shadow = d.shadow := by
  obtain ⟨_, _, _, _, _, h⟩ := Dev.relayPut_shape d p t; rw [h]
@[simp] theorem Dev.relayPut_shown (p : PortId) (t : TxMsg) : (d.relayPut p t).shown = d.shown := by
  obtain ⟨_, _, _, _, _, h⟩ := Dev.relayPut_shape d p t; rw [h]
@[simp] theorem Dev.relayPut_acc (p : PortId) (t : TxMsg) : (d.relayPut p t).acc = d.acc := by
  obtain ⟨_, _, _, _, _, h⟩ := Dev.relayPut_shape d p t; rw [h]
@[simp] theorem Dev.relayPut_stg (p : PortId) (t : TxMsg) : (d.relayPut p t).stg = d.stg := by
  obtain ⟨_, _, _, _, _, h⟩ := Dev.relayPut_shape d p t; rw [h]
@[simp] theorem Dev.relayPut_pwr (p : PortId) (t : TxMsg) : (d.relayPut p t).pwr = d.pwr := by
  obtain ⟨_, _, _, _, _, h⟩ := Dev.relayPut_shape d p t; rw [h]
@[simp] theorem Dev.relayPut_can (p : PortId) (t : TxMsg) : (d.relayPut p t).can = d.can := by
  obtain ⟨_, _, _, _, _, h⟩ := Dev.relayPut_shape d p t; rw [h]
@[simp] theorem Dev.relayPut_fuses (p : PortId) (t : TxMsg) : (d.relayPut p t).fuses = d.fuses := by
  obtain ⟨_, _, _, _, _, h⟩ := Dev.relayPut_shape d p t; rw [h]
@[simp] theorem Dev.relayPut_sec (p : PortId) (t : TxMsg) : (d.relayPut p t).sec = d.sec := by
  obtain ⟨_, _, _, _, _, h⟩ := Dev.relayPut_shape d p t; rw [h]
@[simp] theorem Dev.relayPut_spdm (p : PortId) (t : TxMsg) : (d.relayPut p t).spdm = d.spdm := by
  obtain ⟨_, _, _, _, _, h⟩ := Dev.relayPut_shape d p t; rw [h]
@[simp] theorem Dev.relayPut_signQ (p : PortId) (t : TxMsg) : (d.relayPut p t).signQ = d.signQ := by
  obtain ⟨_, _, _, _, _, h⟩ := Dev.relayPut_shape d p t; rw [h]
@[simp] theorem Dev.relayPut_mb (p : PortId) (t : TxMsg) : (d.relayPut p t).mb = d.mb := by
  obtain ⟨_, _, _, _, _, h⟩ := Dev.relayPut_shape d p t; rw [h]
@[simp] theorem Dev.relayPut_bist (p : PortId) (t : TxMsg) : (d.relayPut p t).bist = d.bist := by
  obtain ⟨_, _, _, _, _, h⟩ := Dev.relayPut_shape d p t; rw [h]
@[simp] theorem Dev.relayPut_due (p : PortId) (t : TxMsg) : (d.relayPut p t).due = d.due := by
  obtain ⟨_, _, _, _, _, h⟩ := Dev.relayPut_shape d p t; rw [h]
@[simp] theorem Dev.relayPut_ext (p : PortId) (t : TxMsg) : (d.relayPut p t).ext = d.ext := by
  obtain ⟨_, _, _, _, _, h⟩ := Dev.relayPut_shape d p t; rw [h]
@[simp] theorem Dev.relayPut_extRetire (p : PortId) (t : TxMsg) : (d.relayPut p t).extRetire = d.extRetire := by
  obtain ⟨_, _, _, _, _, h⟩ := Dev.relayPut_shape d p t; rw [h]
@[simp] theorem Dev.relayPut_lds (p : PortId) (t : TxMsg) : (d.relayPut p t).lds = d.lds := by
  obtain ⟨_, _, _, _, _, h⟩ := Dev.relayPut_shape d p t; rw [h]
@[simp] theorem Dev.relayPut_tenants (p : PortId) (t : TxMsg) : (d.relayPut p t).tenants = d.tenants := by
  obtain ⟨_, _, _, _, _, h⟩ := Dev.relayPut_shape d p t; rw [h]
@[simp] theorem Dev.relayPut_mem (p : PortId) (t : TxMsg) : (d.relayPut p t).mem = d.mem := by
  obtain ⟨_, _, _, _, _, h⟩ := Dev.relayPut_shape d p t; rw [h]
@[simp] theorem Dev.relayPut_frames (p : PortId) (t : TxMsg) : (d.relayPut p t).frames = d.frames := by
  obtain ⟨_, _, _, _, _, h⟩ := Dev.relayPut_shape d p t; rw [h]
@[simp] theorem Dev.relayPut_crm (p : PortId) (t : TxMsg) : (d.relayPut p t).crm = d.crm := by
  obtain ⟨_, _, _, _, _, h⟩ := Dev.relayPut_shape d p t; rw [h]
@[simp] theorem Dev.relayPut_thm (p : PortId) (t : TxMsg) : (d.relayPut p t).thm = d.thm := by
  obtain ⟨_, _, _, _, _, h⟩ := Dev.relayPut_shape d p t; rw [h]
@[simp] theorem Dev.relayPut_farCh (p : PortId) (t : TxMsg) : (d.relayPut p t).farCh = d.farCh := by
  obtain ⟨_, _, _, _, _, h⟩ := Dev.relayPut_shape d p t; rw [h]
@[simp] theorem Dev.relayPut_cry (p : PortId) (t : TxMsg) : (d.relayPut p t).cry = d.cry := by
  obtain ⟨_, _, _, _, _, h⟩ := Dev.relayPut_shape d p t; rw [h]
@[simp] theorem Dev.relayPut_prs (p : PortId) (t : TxMsg) : (d.relayPut p t).prs = d.prs := by
  obtain ⟨_, _, _, _, _, h⟩ := Dev.relayPut_shape d p t; rw [h]
@[simp] theorem Dev.relayPut_home (p : PortId) (t : TxMsg) : (d.relayPut p t).home = d.home := by
  obtain ⟨_, _, _, _, _, h⟩ := Dev.relayPut_shape d p t; rw [h]
@[simp] theorem Dev.relayPut_txns (p : PortId) (t : TxMsg) : (d.relayPut p t).txns = d.txns := by
  obtain ⟨_, _, _, _, _, h⟩ := Dev.relayPut_shape d p t; rw [h]
@[simp] theorem Dev.relayPut_nextTxn (p : PortId) (t : TxMsg) : (d.relayPut p t).nextTxn = d.nextTxn := by
  obtain ⟨_, _, _, _, _, h⟩ := Dev.relayPut_shape d p t; rw [h]
@[simp] theorem Dev.relayPut_ports (p : PortId) (t : TxMsg) : (d.relayPut p t).ports = d.ports := by
  obtain ⟨_, _, _, _, _, h⟩ := Dev.relayPut_shape d p t; rw [h]
@[simp] theorem Dev.relayPut_chain (p : PortId) (t : TxMsg) : (d.relayPut p t).chain = d.chain := by
  obtain ⟨_, _, _, _, _, h⟩ := Dev.relayPut_shape d p t; rw [h]
@[simp] theorem Dev.relayPut_noc (p : PortId) (t : TxMsg) : (d.relayPut p t).noc = d.noc := by
  obtain ⟨_, _, _, _, _, h⟩ := Dev.relayPut_shape d p t; rw [h]
@[simp] theorem Dev.relayPut_ras (p : PortId) (t : TxMsg) : (d.relayPut p t).ras = d.ras := by
  obtain ⟨_, _, _, _, _, h⟩ := Dev.relayPut_shape d p t; rw [h]
@[simp] theorem Dev.relayPut_free (p : PortId) (t : TxMsg) : (d.relayPut p t).free = d.free := by
  obtain ⟨_, _, _, _, _, h⟩ := Dev.relayPut_shape d p t; rw [h]
@[simp] theorem Dev.relayPut_sched (p : PortId) (t : TxMsg) : (d.relayPut p t).sched = d.sched := by
  obtain ⟨_, _, _, _, _, h⟩ := Dev.relayPut_shape d p t; rw [h]
@[simp] theorem Dev.relayPut_merge (p : PortId) (t : TxMsg) : (d.relayPut p t).merge = d.merge := by
  obtain ⟨_, _, _, _, _, h⟩ := Dev.relayPut_shape d p t; rw [h]
@[simp] theorem Dev.relayPut_arrayPoison (p : PortId) (t : TxMsg) : (d.relayPut p t).arrayPoison = d.arrayPoison := by
  obtain ⟨_, _, _, _, _, h⟩ := Dev.relayPut_shape d p t; rw [h]
@[simp] theorem Dev.relayPut_issued (p : PortId) (t : TxMsg) : (d.relayPut p t).issued = d.issued := by
  obtain ⟨_, _, _, _, _, h⟩ := Dev.relayPut_shape d p t; rw [h]

@[simp] theorem Dev.sendUp_part (m : RelayMsg) (c : Nat) (l : List (BitVec 128)) : (d.sendUp m c l).part = d.part := by
  obtain ⟨_, _, _, _, _, h⟩ := Dev.sendUp_shape d m c l; rw [h]
@[simp] theorem Dev.sendUp_mode (m : RelayMsg) (c : Nat) (l : List (BitVec 128)) : (d.sendUp m c l).mode = d.mode := by
  obtain ⟨_, _, _, _, _, h⟩ := Dev.sendUp_shape d m c l; rw [h]
@[simp] theorem Dev.sendUp_clk (m : RelayMsg) (c : Nat) (l : List (BitVec 128)) : (d.sendUp m c l).clk = d.clk := by
  obtain ⟨_, _, _, _, _, h⟩ := Dev.sendUp_shape d m c l; rw [h]
@[simp] theorem Dev.sendUp_shadow (m : RelayMsg) (c : Nat) (l : List (BitVec 128)) : (d.sendUp m c l).shadow = d.shadow := by
  obtain ⟨_, _, _, _, _, h⟩ := Dev.sendUp_shape d m c l; rw [h]
@[simp] theorem Dev.sendUp_shown (m : RelayMsg) (c : Nat) (l : List (BitVec 128)) : (d.sendUp m c l).shown = d.shown := by
  obtain ⟨_, _, _, _, _, h⟩ := Dev.sendUp_shape d m c l; rw [h]
@[simp] theorem Dev.sendUp_acc (m : RelayMsg) (c : Nat) (l : List (BitVec 128)) : (d.sendUp m c l).acc = d.acc := by
  obtain ⟨_, _, _, _, _, h⟩ := Dev.sendUp_shape d m c l; rw [h]
@[simp] theorem Dev.sendUp_stg (m : RelayMsg) (c : Nat) (l : List (BitVec 128)) : (d.sendUp m c l).stg = d.stg := by
  obtain ⟨_, _, _, _, _, h⟩ := Dev.sendUp_shape d m c l; rw [h]
@[simp] theorem Dev.sendUp_pwr (m : RelayMsg) (c : Nat) (l : List (BitVec 128)) : (d.sendUp m c l).pwr = d.pwr := by
  obtain ⟨_, _, _, _, _, h⟩ := Dev.sendUp_shape d m c l; rw [h]
@[simp] theorem Dev.sendUp_can (m : RelayMsg) (c : Nat) (l : List (BitVec 128)) : (d.sendUp m c l).can = d.can := by
  obtain ⟨_, _, _, _, _, h⟩ := Dev.sendUp_shape d m c l; rw [h]
@[simp] theorem Dev.sendUp_fuses (m : RelayMsg) (c : Nat) (l : List (BitVec 128)) : (d.sendUp m c l).fuses = d.fuses := by
  obtain ⟨_, _, _, _, _, h⟩ := Dev.sendUp_shape d m c l; rw [h]
@[simp] theorem Dev.sendUp_sec (m : RelayMsg) (c : Nat) (l : List (BitVec 128)) : (d.sendUp m c l).sec = d.sec := by
  obtain ⟨_, _, _, _, _, h⟩ := Dev.sendUp_shape d m c l; rw [h]
@[simp] theorem Dev.sendUp_spdm (m : RelayMsg) (c : Nat) (l : List (BitVec 128)) : (d.sendUp m c l).spdm = d.spdm := by
  obtain ⟨_, _, _, _, _, h⟩ := Dev.sendUp_shape d m c l; rw [h]
@[simp] theorem Dev.sendUp_signQ (m : RelayMsg) (c : Nat) (l : List (BitVec 128)) : (d.sendUp m c l).signQ = d.signQ := by
  obtain ⟨_, _, _, _, _, h⟩ := Dev.sendUp_shape d m c l; rw [h]
@[simp] theorem Dev.sendUp_mb (m : RelayMsg) (c : Nat) (l : List (BitVec 128)) : (d.sendUp m c l).mb = d.mb := by
  obtain ⟨_, _, _, _, _, h⟩ := Dev.sendUp_shape d m c l; rw [h]
@[simp] theorem Dev.sendUp_bist (m : RelayMsg) (c : Nat) (l : List (BitVec 128)) : (d.sendUp m c l).bist = d.bist := by
  obtain ⟨_, _, _, _, _, h⟩ := Dev.sendUp_shape d m c l; rw [h]
@[simp] theorem Dev.sendUp_due (m : RelayMsg) (c : Nat) (l : List (BitVec 128)) : (d.sendUp m c l).due = d.due := by
  obtain ⟨_, _, _, _, _, h⟩ := Dev.sendUp_shape d m c l; rw [h]
@[simp] theorem Dev.sendUp_ext (m : RelayMsg) (c : Nat) (l : List (BitVec 128)) : (d.sendUp m c l).ext = d.ext := by
  obtain ⟨_, _, _, _, _, h⟩ := Dev.sendUp_shape d m c l; rw [h]
@[simp] theorem Dev.sendUp_extRetire (m : RelayMsg) (c : Nat) (l : List (BitVec 128)) : (d.sendUp m c l).extRetire = d.extRetire := by
  obtain ⟨_, _, _, _, _, h⟩ := Dev.sendUp_shape d m c l; rw [h]
@[simp] theorem Dev.sendUp_lds (m : RelayMsg) (c : Nat) (l : List (BitVec 128)) : (d.sendUp m c l).lds = d.lds := by
  obtain ⟨_, _, _, _, _, h⟩ := Dev.sendUp_shape d m c l; rw [h]
@[simp] theorem Dev.sendUp_tenants (m : RelayMsg) (c : Nat) (l : List (BitVec 128)) : (d.sendUp m c l).tenants = d.tenants := by
  obtain ⟨_, _, _, _, _, h⟩ := Dev.sendUp_shape d m c l; rw [h]
@[simp] theorem Dev.sendUp_mem (m : RelayMsg) (c : Nat) (l : List (BitVec 128)) : (d.sendUp m c l).mem = d.mem := by
  obtain ⟨_, _, _, _, _, h⟩ := Dev.sendUp_shape d m c l; rw [h]
@[simp] theorem Dev.sendUp_frames (m : RelayMsg) (c : Nat) (l : List (BitVec 128)) : (d.sendUp m c l).frames = d.frames := by
  obtain ⟨_, _, _, _, _, h⟩ := Dev.sendUp_shape d m c l; rw [h]
@[simp] theorem Dev.sendUp_crm (m : RelayMsg) (c : Nat) (l : List (BitVec 128)) : (d.sendUp m c l).crm = d.crm := by
  obtain ⟨_, _, _, _, _, h⟩ := Dev.sendUp_shape d m c l; rw [h]
@[simp] theorem Dev.sendUp_thm (m : RelayMsg) (c : Nat) (l : List (BitVec 128)) : (d.sendUp m c l).thm = d.thm := by
  obtain ⟨_, _, _, _, _, h⟩ := Dev.sendUp_shape d m c l; rw [h]
@[simp] theorem Dev.sendUp_farCh (m : RelayMsg) (c : Nat) (l : List (BitVec 128)) : (d.sendUp m c l).farCh = d.farCh := by
  obtain ⟨_, _, _, _, _, h⟩ := Dev.sendUp_shape d m c l; rw [h]
@[simp] theorem Dev.sendUp_cry (m : RelayMsg) (c : Nat) (l : List (BitVec 128)) : (d.sendUp m c l).cry = d.cry := by
  obtain ⟨_, _, _, _, _, h⟩ := Dev.sendUp_shape d m c l; rw [h]
@[simp] theorem Dev.sendUp_prs (m : RelayMsg) (c : Nat) (l : List (BitVec 128)) : (d.sendUp m c l).prs = d.prs := by
  obtain ⟨_, _, _, _, _, h⟩ := Dev.sendUp_shape d m c l; rw [h]
@[simp] theorem Dev.sendUp_home (m : RelayMsg) (c : Nat) (l : List (BitVec 128)) : (d.sendUp m c l).home = d.home := by
  obtain ⟨_, _, _, _, _, h⟩ := Dev.sendUp_shape d m c l; rw [h]
@[simp] theorem Dev.sendUp_txns (m : RelayMsg) (c : Nat) (l : List (BitVec 128)) : (d.sendUp m c l).txns = d.txns := by
  obtain ⟨_, _, _, _, _, h⟩ := Dev.sendUp_shape d m c l; rw [h]
@[simp] theorem Dev.sendUp_nextTxn (m : RelayMsg) (c : Nat) (l : List (BitVec 128)) : (d.sendUp m c l).nextTxn = d.nextTxn := by
  obtain ⟨_, _, _, _, _, h⟩ := Dev.sendUp_shape d m c l; rw [h]
@[simp] theorem Dev.sendUp_ports (m : RelayMsg) (c : Nat) (l : List (BitVec 128)) : (d.sendUp m c l).ports = d.ports := by
  obtain ⟨_, _, _, _, _, h⟩ := Dev.sendUp_shape d m c l; rw [h]
@[simp] theorem Dev.sendUp_chain (m : RelayMsg) (c : Nat) (l : List (BitVec 128)) : (d.sendUp m c l).chain = d.chain := by
  obtain ⟨_, _, _, _, _, h⟩ := Dev.sendUp_shape d m c l; rw [h]
@[simp] theorem Dev.sendUp_noc (m : RelayMsg) (c : Nat) (l : List (BitVec 128)) : (d.sendUp m c l).noc = d.noc := by
  obtain ⟨_, _, _, _, _, h⟩ := Dev.sendUp_shape d m c l; rw [h]
@[simp] theorem Dev.sendUp_ras (m : RelayMsg) (c : Nat) (l : List (BitVec 128)) : (d.sendUp m c l).ras = d.ras := by
  obtain ⟨_, _, _, _, _, h⟩ := Dev.sendUp_shape d m c l; rw [h]
@[simp] theorem Dev.sendUp_free (m : RelayMsg) (c : Nat) (l : List (BitVec 128)) : (d.sendUp m c l).free = d.free := by
  obtain ⟨_, _, _, _, _, h⟩ := Dev.sendUp_shape d m c l; rw [h]
@[simp] theorem Dev.sendUp_sched (m : RelayMsg) (c : Nat) (l : List (BitVec 128)) : (d.sendUp m c l).sched = d.sched := by
  obtain ⟨_, _, _, _, _, h⟩ := Dev.sendUp_shape d m c l; rw [h]
@[simp] theorem Dev.sendUp_merge (m : RelayMsg) (c : Nat) (l : List (BitVec 128)) : (d.sendUp m c l).merge = d.merge := by
  obtain ⟨_, _, _, _, _, h⟩ := Dev.sendUp_shape d m c l; rw [h]
@[simp] theorem Dev.sendUp_arrayPoison (m : RelayMsg) (c : Nat) (l : List (BitVec 128)) : (d.sendUp m c l).arrayPoison = d.arrayPoison := by
  obtain ⟨_, _, _, _, _, h⟩ := Dev.sendUp_shape d m c l; rw [h]
@[simp] theorem Dev.sendUp_issued (m : RelayMsg) (c : Nat) (l : List (BitVec 128)) : (d.sendUp m c l).issued = d.issued := by
  obtain ⟨_, _, _, _, _, h⟩ := Dev.sendUp_shape d m c l; rw [h]

@[simp] theorem Dev.sendDown_part (m : RelayMsg) (c : Nat) (l : List (BitVec 128)) : (d.sendDown m c l).part = d.part := by
  obtain ⟨_, _, _, _, _, h⟩ := Dev.sendDown_shape d m c l; rw [h]
@[simp] theorem Dev.sendDown_mode (m : RelayMsg) (c : Nat) (l : List (BitVec 128)) : (d.sendDown m c l).mode = d.mode := by
  obtain ⟨_, _, _, _, _, h⟩ := Dev.sendDown_shape d m c l; rw [h]
@[simp] theorem Dev.sendDown_clk (m : RelayMsg) (c : Nat) (l : List (BitVec 128)) : (d.sendDown m c l).clk = d.clk := by
  obtain ⟨_, _, _, _, _, h⟩ := Dev.sendDown_shape d m c l; rw [h]
@[simp] theorem Dev.sendDown_shadow (m : RelayMsg) (c : Nat) (l : List (BitVec 128)) : (d.sendDown m c l).shadow = d.shadow := by
  obtain ⟨_, _, _, _, _, h⟩ := Dev.sendDown_shape d m c l; rw [h]
@[simp] theorem Dev.sendDown_shown (m : RelayMsg) (c : Nat) (l : List (BitVec 128)) : (d.sendDown m c l).shown = d.shown := by
  obtain ⟨_, _, _, _, _, h⟩ := Dev.sendDown_shape d m c l; rw [h]
@[simp] theorem Dev.sendDown_acc (m : RelayMsg) (c : Nat) (l : List (BitVec 128)) : (d.sendDown m c l).acc = d.acc := by
  obtain ⟨_, _, _, _, _, h⟩ := Dev.sendDown_shape d m c l; rw [h]
@[simp] theorem Dev.sendDown_stg (m : RelayMsg) (c : Nat) (l : List (BitVec 128)) : (d.sendDown m c l).stg = d.stg := by
  obtain ⟨_, _, _, _, _, h⟩ := Dev.sendDown_shape d m c l; rw [h]
@[simp] theorem Dev.sendDown_pwr (m : RelayMsg) (c : Nat) (l : List (BitVec 128)) : (d.sendDown m c l).pwr = d.pwr := by
  obtain ⟨_, _, _, _, _, h⟩ := Dev.sendDown_shape d m c l; rw [h]
@[simp] theorem Dev.sendDown_can (m : RelayMsg) (c : Nat) (l : List (BitVec 128)) : (d.sendDown m c l).can = d.can := by
  obtain ⟨_, _, _, _, _, h⟩ := Dev.sendDown_shape d m c l; rw [h]
@[simp] theorem Dev.sendDown_fuses (m : RelayMsg) (c : Nat) (l : List (BitVec 128)) : (d.sendDown m c l).fuses = d.fuses := by
  obtain ⟨_, _, _, _, _, h⟩ := Dev.sendDown_shape d m c l; rw [h]
@[simp] theorem Dev.sendDown_sec (m : RelayMsg) (c : Nat) (l : List (BitVec 128)) : (d.sendDown m c l).sec = d.sec := by
  obtain ⟨_, _, _, _, _, h⟩ := Dev.sendDown_shape d m c l; rw [h]
@[simp] theorem Dev.sendDown_spdm (m : RelayMsg) (c : Nat) (l : List (BitVec 128)) : (d.sendDown m c l).spdm = d.spdm := by
  obtain ⟨_, _, _, _, _, h⟩ := Dev.sendDown_shape d m c l; rw [h]
@[simp] theorem Dev.sendDown_signQ (m : RelayMsg) (c : Nat) (l : List (BitVec 128)) : (d.sendDown m c l).signQ = d.signQ := by
  obtain ⟨_, _, _, _, _, h⟩ := Dev.sendDown_shape d m c l; rw [h]
@[simp] theorem Dev.sendDown_mb (m : RelayMsg) (c : Nat) (l : List (BitVec 128)) : (d.sendDown m c l).mb = d.mb := by
  obtain ⟨_, _, _, _, _, h⟩ := Dev.sendDown_shape d m c l; rw [h]
@[simp] theorem Dev.sendDown_bist (m : RelayMsg) (c : Nat) (l : List (BitVec 128)) : (d.sendDown m c l).bist = d.bist := by
  obtain ⟨_, _, _, _, _, h⟩ := Dev.sendDown_shape d m c l; rw [h]
@[simp] theorem Dev.sendDown_due (m : RelayMsg) (c : Nat) (l : List (BitVec 128)) : (d.sendDown m c l).due = d.due := by
  obtain ⟨_, _, _, _, _, h⟩ := Dev.sendDown_shape d m c l; rw [h]
@[simp] theorem Dev.sendDown_ext (m : RelayMsg) (c : Nat) (l : List (BitVec 128)) : (d.sendDown m c l).ext = d.ext := by
  obtain ⟨_, _, _, _, _, h⟩ := Dev.sendDown_shape d m c l; rw [h]
@[simp] theorem Dev.sendDown_extRetire (m : RelayMsg) (c : Nat) (l : List (BitVec 128)) : (d.sendDown m c l).extRetire = d.extRetire := by
  obtain ⟨_, _, _, _, _, h⟩ := Dev.sendDown_shape d m c l; rw [h]
@[simp] theorem Dev.sendDown_lds (m : RelayMsg) (c : Nat) (l : List (BitVec 128)) : (d.sendDown m c l).lds = d.lds := by
  obtain ⟨_, _, _, _, _, h⟩ := Dev.sendDown_shape d m c l; rw [h]
@[simp] theorem Dev.sendDown_tenants (m : RelayMsg) (c : Nat) (l : List (BitVec 128)) : (d.sendDown m c l).tenants = d.tenants := by
  obtain ⟨_, _, _, _, _, h⟩ := Dev.sendDown_shape d m c l; rw [h]
@[simp] theorem Dev.sendDown_mem (m : RelayMsg) (c : Nat) (l : List (BitVec 128)) : (d.sendDown m c l).mem = d.mem := by
  obtain ⟨_, _, _, _, _, h⟩ := Dev.sendDown_shape d m c l; rw [h]
@[simp] theorem Dev.sendDown_frames (m : RelayMsg) (c : Nat) (l : List (BitVec 128)) : (d.sendDown m c l).frames = d.frames := by
  obtain ⟨_, _, _, _, _, h⟩ := Dev.sendDown_shape d m c l; rw [h]
@[simp] theorem Dev.sendDown_crm (m : RelayMsg) (c : Nat) (l : List (BitVec 128)) : (d.sendDown m c l).crm = d.crm := by
  obtain ⟨_, _, _, _, _, h⟩ := Dev.sendDown_shape d m c l; rw [h]
@[simp] theorem Dev.sendDown_thm (m : RelayMsg) (c : Nat) (l : List (BitVec 128)) : (d.sendDown m c l).thm = d.thm := by
  obtain ⟨_, _, _, _, _, h⟩ := Dev.sendDown_shape d m c l; rw [h]
@[simp] theorem Dev.sendDown_farCh (m : RelayMsg) (c : Nat) (l : List (BitVec 128)) : (d.sendDown m c l).farCh = d.farCh := by
  obtain ⟨_, _, _, _, _, h⟩ := Dev.sendDown_shape d m c l; rw [h]
@[simp] theorem Dev.sendDown_cry (m : RelayMsg) (c : Nat) (l : List (BitVec 128)) : (d.sendDown m c l).cry = d.cry := by
  obtain ⟨_, _, _, _, _, h⟩ := Dev.sendDown_shape d m c l; rw [h]
@[simp] theorem Dev.sendDown_prs (m : RelayMsg) (c : Nat) (l : List (BitVec 128)) : (d.sendDown m c l).prs = d.prs := by
  obtain ⟨_, _, _, _, _, h⟩ := Dev.sendDown_shape d m c l; rw [h]
@[simp] theorem Dev.sendDown_home (m : RelayMsg) (c : Nat) (l : List (BitVec 128)) : (d.sendDown m c l).home = d.home := by
  obtain ⟨_, _, _, _, _, h⟩ := Dev.sendDown_shape d m c l; rw [h]
@[simp] theorem Dev.sendDown_txns (m : RelayMsg) (c : Nat) (l : List (BitVec 128)) : (d.sendDown m c l).txns = d.txns := by
  obtain ⟨_, _, _, _, _, h⟩ := Dev.sendDown_shape d m c l; rw [h]
@[simp] theorem Dev.sendDown_nextTxn (m : RelayMsg) (c : Nat) (l : List (BitVec 128)) : (d.sendDown m c l).nextTxn = d.nextTxn := by
  obtain ⟨_, _, _, _, _, h⟩ := Dev.sendDown_shape d m c l; rw [h]
@[simp] theorem Dev.sendDown_ports (m : RelayMsg) (c : Nat) (l : List (BitVec 128)) : (d.sendDown m c l).ports = d.ports := by
  obtain ⟨_, _, _, _, _, h⟩ := Dev.sendDown_shape d m c l; rw [h]
@[simp] theorem Dev.sendDown_chain (m : RelayMsg) (c : Nat) (l : List (BitVec 128)) : (d.sendDown m c l).chain = d.chain := by
  obtain ⟨_, _, _, _, _, h⟩ := Dev.sendDown_shape d m c l; rw [h]
@[simp] theorem Dev.sendDown_noc (m : RelayMsg) (c : Nat) (l : List (BitVec 128)) : (d.sendDown m c l).noc = d.noc := by
  obtain ⟨_, _, _, _, _, h⟩ := Dev.sendDown_shape d m c l; rw [h]
@[simp] theorem Dev.sendDown_ras (m : RelayMsg) (c : Nat) (l : List (BitVec 128)) : (d.sendDown m c l).ras = d.ras := by
  obtain ⟨_, _, _, _, _, h⟩ := Dev.sendDown_shape d m c l; rw [h]
@[simp] theorem Dev.sendDown_free (m : RelayMsg) (c : Nat) (l : List (BitVec 128)) : (d.sendDown m c l).free = d.free := by
  obtain ⟨_, _, _, _, _, h⟩ := Dev.sendDown_shape d m c l; rw [h]
@[simp] theorem Dev.sendDown_sched (m : RelayMsg) (c : Nat) (l : List (BitVec 128)) : (d.sendDown m c l).sched = d.sched := by
  obtain ⟨_, _, _, _, _, h⟩ := Dev.sendDown_shape d m c l; rw [h]
@[simp] theorem Dev.sendDown_merge (m : RelayMsg) (c : Nat) (l : List (BitVec 128)) : (d.sendDown m c l).merge = d.merge := by
  obtain ⟨_, _, _, _, _, h⟩ := Dev.sendDown_shape d m c l; rw [h]
@[simp] theorem Dev.sendDown_arrayPoison (m : RelayMsg) (c : Nat) (l : List (BitVec 128)) : (d.sendDown m c l).arrayPoison = d.arrayPoison := by
  obtain ⟨_, _, _, _, _, h⟩ := Dev.sendDown_shape d m c l; rw [h]
@[simp] theorem Dev.sendDown_issued (m : RelayMsg) (c : Nat) (l : List (BitVec 128)) : (d.sendDown m c l).issued = d.issued := by
  obtain ⟨_, _, _, _, _, h⟩ := Dev.sendDown_shape d m c l; rw [h]

@[simp] theorem Dev.complete_part (i : Iface) (op rc : Nat) (x : Payload) : (d.complete i op rc x).part = d.part := by
  obtain ⟨_, _, _, _, _, _, h⟩ := Dev.complete_shape d i op rc x; rw [h]
@[simp] theorem Dev.complete_mode (i : Iface) (op rc : Nat) (x : Payload) : (d.complete i op rc x).mode = d.mode := by
  obtain ⟨_, _, _, _, _, _, h⟩ := Dev.complete_shape d i op rc x; rw [h]
@[simp] theorem Dev.complete_clk (i : Iface) (op rc : Nat) (x : Payload) : (d.complete i op rc x).clk = d.clk := by
  obtain ⟨_, _, _, _, _, _, h⟩ := Dev.complete_shape d i op rc x; rw [h]
@[simp] theorem Dev.complete_shadow (i : Iface) (op rc : Nat) (x : Payload) : (d.complete i op rc x).shadow = d.shadow := by
  obtain ⟨_, _, _, _, _, _, h⟩ := Dev.complete_shape d i op rc x; rw [h]
@[simp] theorem Dev.complete_shown (i : Iface) (op rc : Nat) (x : Payload) : (d.complete i op rc x).shown = d.shown := by
  obtain ⟨_, _, _, _, _, _, h⟩ := Dev.complete_shape d i op rc x; rw [h]
@[simp] theorem Dev.complete_acc (i : Iface) (op rc : Nat) (x : Payload) : (d.complete i op rc x).acc = d.acc := by
  obtain ⟨_, _, _, _, _, _, h⟩ := Dev.complete_shape d i op rc x; rw [h]
@[simp] theorem Dev.complete_stg (i : Iface) (op rc : Nat) (x : Payload) : (d.complete i op rc x).stg = d.stg := by
  obtain ⟨_, _, _, _, _, _, h⟩ := Dev.complete_shape d i op rc x; rw [h]
@[simp] theorem Dev.complete_pwr (i : Iface) (op rc : Nat) (x : Payload) : (d.complete i op rc x).pwr = d.pwr := by
  obtain ⟨_, _, _, _, _, _, h⟩ := Dev.complete_shape d i op rc x; rw [h]
@[simp] theorem Dev.complete_can (i : Iface) (op rc : Nat) (x : Payload) : (d.complete i op rc x).can = d.can := by
  obtain ⟨_, _, _, _, _, _, h⟩ := Dev.complete_shape d i op rc x; rw [h]
@[simp] theorem Dev.complete_fuses (i : Iface) (op rc : Nat) (x : Payload) : (d.complete i op rc x).fuses = d.fuses := by
  obtain ⟨_, _, _, _, _, _, h⟩ := Dev.complete_shape d i op rc x; rw [h]
@[simp] theorem Dev.complete_sec (i : Iface) (op rc : Nat) (x : Payload) : (d.complete i op rc x).sec = d.sec := by
  obtain ⟨_, _, _, _, _, _, h⟩ := Dev.complete_shape d i op rc x; rw [h]
@[simp] theorem Dev.complete_spdm (i : Iface) (op rc : Nat) (x : Payload) : (d.complete i op rc x).spdm = d.spdm := by
  obtain ⟨_, _, _, _, _, _, h⟩ := Dev.complete_shape d i op rc x; rw [h]
@[simp] theorem Dev.complete_signQ (i : Iface) (op rc : Nat) (x : Payload) : (d.complete i op rc x).signQ = d.signQ := by
  obtain ⟨_, _, _, _, _, _, h⟩ := Dev.complete_shape d i op rc x; rw [h]
@[simp] theorem Dev.complete_bist (i : Iface) (op rc : Nat) (x : Payload) : (d.complete i op rc x).bist = d.bist := by
  obtain ⟨_, _, _, _, _, _, h⟩ := Dev.complete_shape d i op rc x; rw [h]
@[simp] theorem Dev.complete_due (i : Iface) (op rc : Nat) (x : Payload) : (d.complete i op rc x).due = d.due := by
  obtain ⟨_, _, _, _, _, _, h⟩ := Dev.complete_shape d i op rc x; rw [h]
@[simp] theorem Dev.complete_ext (i : Iface) (op rc : Nat) (x : Payload) : (d.complete i op rc x).ext = d.ext := by
  obtain ⟨_, _, _, _, _, _, h⟩ := Dev.complete_shape d i op rc x; rw [h]
@[simp] theorem Dev.complete_extRetire (i : Iface) (op rc : Nat) (x : Payload) : (d.complete i op rc x).extRetire = d.extRetire := by
  obtain ⟨_, _, _, _, _, _, h⟩ := Dev.complete_shape d i op rc x; rw [h]
@[simp] theorem Dev.complete_lds (i : Iface) (op rc : Nat) (x : Payload) : (d.complete i op rc x).lds = d.lds := by
  obtain ⟨_, _, _, _, _, _, h⟩ := Dev.complete_shape d i op rc x; rw [h]
@[simp] theorem Dev.complete_tenants (i : Iface) (op rc : Nat) (x : Payload) : (d.complete i op rc x).tenants = d.tenants := by
  obtain ⟨_, _, _, _, _, _, h⟩ := Dev.complete_shape d i op rc x; rw [h]
@[simp] theorem Dev.complete_mem (i : Iface) (op rc : Nat) (x : Payload) : (d.complete i op rc x).mem = d.mem := by
  obtain ⟨_, _, _, _, _, _, h⟩ := Dev.complete_shape d i op rc x; rw [h]
@[simp] theorem Dev.complete_frames (i : Iface) (op rc : Nat) (x : Payload) : (d.complete i op rc x).frames = d.frames := by
  obtain ⟨_, _, _, _, _, _, h⟩ := Dev.complete_shape d i op rc x; rw [h]
@[simp] theorem Dev.complete_crm (i : Iface) (op rc : Nat) (x : Payload) : (d.complete i op rc x).crm = d.crm := by
  obtain ⟨_, _, _, _, _, _, h⟩ := Dev.complete_shape d i op rc x; rw [h]
@[simp] theorem Dev.complete_thm (i : Iface) (op rc : Nat) (x : Payload) : (d.complete i op rc x).thm = d.thm := by
  obtain ⟨_, _, _, _, _, _, h⟩ := Dev.complete_shape d i op rc x; rw [h]
@[simp] theorem Dev.complete_farCh (i : Iface) (op rc : Nat) (x : Payload) : (d.complete i op rc x).farCh = d.farCh := by
  obtain ⟨_, _, _, _, _, _, h⟩ := Dev.complete_shape d i op rc x; rw [h]
@[simp] theorem Dev.complete_cry (i : Iface) (op rc : Nat) (x : Payload) : (d.complete i op rc x).cry = d.cry := by
  obtain ⟨_, _, _, _, _, _, h⟩ := Dev.complete_shape d i op rc x; rw [h]
@[simp] theorem Dev.complete_prs (i : Iface) (op rc : Nat) (x : Payload) : (d.complete i op rc x).prs = d.prs := by
  obtain ⟨_, _, _, _, _, _, h⟩ := Dev.complete_shape d i op rc x; rw [h]
@[simp] theorem Dev.complete_home (i : Iface) (op rc : Nat) (x : Payload) : (d.complete i op rc x).home = d.home := by
  obtain ⟨_, _, _, _, _, _, h⟩ := Dev.complete_shape d i op rc x; rw [h]
@[simp] theorem Dev.complete_txns (i : Iface) (op rc : Nat) (x : Payload) : (d.complete i op rc x).txns = d.txns := by
  obtain ⟨_, _, _, _, _, _, h⟩ := Dev.complete_shape d i op rc x; rw [h]
@[simp] theorem Dev.complete_nextTxn (i : Iface) (op rc : Nat) (x : Payload) : (d.complete i op rc x).nextTxn = d.nextTxn := by
  obtain ⟨_, _, _, _, _, _, h⟩ := Dev.complete_shape d i op rc x; rw [h]
@[simp] theorem Dev.complete_ports (i : Iface) (op rc : Nat) (x : Payload) : (d.complete i op rc x).ports = d.ports := by
  obtain ⟨_, _, _, _, _, _, h⟩ := Dev.complete_shape d i op rc x; rw [h]
@[simp] theorem Dev.complete_chain (i : Iface) (op rc : Nat) (x : Payload) : (d.complete i op rc x).chain = d.chain := by
  obtain ⟨_, _, _, _, _, _, h⟩ := Dev.complete_shape d i op rc x; rw [h]
@[simp] theorem Dev.complete_noc (i : Iface) (op rc : Nat) (x : Payload) : (d.complete i op rc x).noc = d.noc := by
  obtain ⟨_, _, _, _, _, _, h⟩ := Dev.complete_shape d i op rc x; rw [h]
@[simp] theorem Dev.complete_ras (i : Iface) (op rc : Nat) (x : Payload) : (d.complete i op rc x).ras = d.ras := by
  obtain ⟨_, _, _, _, _, _, h⟩ := Dev.complete_shape d i op rc x; rw [h]
@[simp] theorem Dev.complete_free (i : Iface) (op rc : Nat) (x : Payload) : (d.complete i op rc x).free = d.free := by
  obtain ⟨_, _, _, _, _, _, h⟩ := Dev.complete_shape d i op rc x; rw [h]
@[simp] theorem Dev.complete_sched (i : Iface) (op rc : Nat) (x : Payload) : (d.complete i op rc x).sched = d.sched := by
  obtain ⟨_, _, _, _, _, _, h⟩ := Dev.complete_shape d i op rc x; rw [h]
@[simp] theorem Dev.complete_merge (i : Iface) (op rc : Nat) (x : Payload) : (d.complete i op rc x).merge = d.merge := by
  obtain ⟨_, _, _, _, _, _, h⟩ := Dev.complete_shape d i op rc x; rw [h]
@[simp] theorem Dev.complete_arrayPoison (i : Iface) (op rc : Nat) (x : Payload) : (d.complete i op rc x).arrayPoison = d.arrayPoison := by
  obtain ⟨_, _, _, _, _, _, h⟩ := Dev.complete_shape d i op rc x; rw [h]
@[simp] theorem Dev.complete_issued (i : Iface) (op rc : Nat) (x : Payload) : (d.complete i op rc x).issued = d.issued := by
  obtain ⟨_, _, _, _, _, _, h⟩ := Dev.complete_shape d i op rc x; rw [h]

@[simp] theorem Dev.setArmed_part (src : Source) (a : Option Armed) : (d.setArmed src a).part = d.part := rfl
@[simp] theorem Dev.setArmed_mode (src : Source) (a : Option Armed) : (d.setArmed src a).mode = d.mode := rfl
@[simp] theorem Dev.setArmed_clk (src : Source) (a : Option Armed) : (d.setArmed src a).clk = d.clk := rfl
@[simp] theorem Dev.setArmed_regs (src : Source) (a : Option Armed) : (d.setArmed src a).regs = d.regs := rfl
@[simp] theorem Dev.setArmed_shadow (src : Source) (a : Option Armed) : (d.setArmed src a).shadow = d.shadow := rfl
@[simp] theorem Dev.setArmed_shown (src : Source) (a : Option Armed) : (d.setArmed src a).shown = d.shown := rfl
@[simp] theorem Dev.setArmed_stg (src : Source) (a : Option Armed) : (d.setArmed src a).stg = d.stg := rfl
@[simp] theorem Dev.setArmed_pwr (src : Source) (a : Option Armed) : (d.setArmed src a).pwr = d.pwr := rfl
@[simp] theorem Dev.setArmed_can (src : Source) (a : Option Armed) : (d.setArmed src a).can = d.can := rfl
@[simp] theorem Dev.setArmed_fuses (src : Source) (a : Option Armed) : (d.setArmed src a).fuses = d.fuses := rfl
@[simp] theorem Dev.setArmed_sec (src : Source) (a : Option Armed) : (d.setArmed src a).sec = d.sec := rfl
@[simp] theorem Dev.setArmed_spdm (src : Source) (a : Option Armed) : (d.setArmed src a).spdm = d.spdm := rfl
@[simp] theorem Dev.setArmed_signQ (src : Source) (a : Option Armed) : (d.setArmed src a).signQ = d.signQ := rfl
@[simp] theorem Dev.setArmed_mb (src : Source) (a : Option Armed) : (d.setArmed src a).mb = d.mb := rfl
@[simp] theorem Dev.setArmed_bist (src : Source) (a : Option Armed) : (d.setArmed src a).bist = d.bist := rfl
@[simp] theorem Dev.setArmed_due (src : Source) (a : Option Armed) : (d.setArmed src a).due = d.due := rfl
@[simp] theorem Dev.setArmed_ext (src : Source) (a : Option Armed) : (d.setArmed src a).ext = d.ext := rfl
@[simp] theorem Dev.setArmed_extRetire (src : Source) (a : Option Armed) : (d.setArmed src a).extRetire = d.extRetire := rfl
@[simp] theorem Dev.setArmed_lds (src : Source) (a : Option Armed) : (d.setArmed src a).lds = d.lds := rfl
@[simp] theorem Dev.setArmed_tenants (src : Source) (a : Option Armed) : (d.setArmed src a).tenants = d.tenants := rfl
@[simp] theorem Dev.setArmed_mem (src : Source) (a : Option Armed) : (d.setArmed src a).mem = d.mem := rfl
@[simp] theorem Dev.setArmed_frames (src : Source) (a : Option Armed) : (d.setArmed src a).frames = d.frames := rfl
@[simp] theorem Dev.setArmed_crm (src : Source) (a : Option Armed) : (d.setArmed src a).crm = d.crm := rfl
@[simp] theorem Dev.setArmed_thm (src : Source) (a : Option Armed) : (d.setArmed src a).thm = d.thm := rfl
@[simp] theorem Dev.setArmed_farCh (src : Source) (a : Option Armed) : (d.setArmed src a).farCh = d.farCh := rfl
@[simp] theorem Dev.setArmed_cry (src : Source) (a : Option Armed) : (d.setArmed src a).cry = d.cry := rfl
@[simp] theorem Dev.setArmed_prs (src : Source) (a : Option Armed) : (d.setArmed src a).prs = d.prs := rfl
@[simp] theorem Dev.setArmed_home (src : Source) (a : Option Armed) : (d.setArmed src a).home = d.home := rfl
@[simp] theorem Dev.setArmed_txns (src : Source) (a : Option Armed) : (d.setArmed src a).txns = d.txns := rfl
@[simp] theorem Dev.setArmed_nextTxn (src : Source) (a : Option Armed) : (d.setArmed src a).nextTxn = d.nextTxn := rfl
@[simp] theorem Dev.setArmed_ports (src : Source) (a : Option Armed) : (d.setArmed src a).ports = d.ports := rfl
@[simp] theorem Dev.setArmed_rly (src : Source) (a : Option Armed) : (d.setArmed src a).rly = d.rly := rfl
@[simp] theorem Dev.setArmed_chain (src : Source) (a : Option Armed) : (d.setArmed src a).chain = d.chain := rfl
@[simp] theorem Dev.setArmed_noc (src : Source) (a : Option Armed) : (d.setArmed src a).noc = d.noc := rfl
@[simp] theorem Dev.setArmed_pmu (src : Source) (a : Option Armed) : (d.setArmed src a).pmu = d.pmu := rfl
@[simp] theorem Dev.setArmed_ras (src : Source) (a : Option Armed) : (d.setArmed src a).ras = d.ras := rfl
@[simp] theorem Dev.setArmed_free (src : Source) (a : Option Armed) : (d.setArmed src a).free = d.free := rfl
@[simp] theorem Dev.setArmed_sched (src : Source) (a : Option Armed) : (d.setArmed src a).sched = d.sched := rfl
@[simp] theorem Dev.setArmed_merge (src : Source) (a : Option Armed) : (d.setArmed src a).merge = d.merge := rfl
@[simp] theorem Dev.setArmed_arrayPoison (src : Source) (a : Option Armed) : (d.setArmed src a).arrayPoison = d.arrayPoison := rfl
@[simp] theorem Dev.setArmed_issued (src : Source) (a : Option Armed) : (d.setArmed src a).issued = d.issued := rfl
@[simp] theorem Dev.setArmed_wire (src : Source) (a : Option Armed) : (d.setArmed src a).wire = d.wire := rfl
@[simp] theorem Dev.setArmed_out (src : Source) (a : Option Armed) : (d.setArmed src a).out = d.out := rfl

@[simp] theorem Dev.keyFail_part (c o : Nat) : (d.keyFail c o).part = d.part := rfl
@[simp] theorem Dev.keyFail_mode (c o : Nat) : (d.keyFail c o).mode = d.mode := rfl
@[simp] theorem Dev.keyFail_clk (c o : Nat) : (d.keyFail c o).clk = d.clk := rfl
@[simp] theorem Dev.keyFail_shadow (c o : Nat) : (d.keyFail c o).shadow = d.shadow := rfl
@[simp] theorem Dev.keyFail_shown (c o : Nat) : (d.keyFail c o).shown = d.shown := rfl
@[simp] theorem Dev.keyFail_acc (c o : Nat) : (d.keyFail c o).acc = d.acc := rfl
@[simp] theorem Dev.keyFail_stg (c o : Nat) : (d.keyFail c o).stg = d.stg := rfl
@[simp] theorem Dev.keyFail_pwr (c o : Nat) : (d.keyFail c o).pwr = d.pwr := rfl
@[simp] theorem Dev.keyFail_can (c o : Nat) : (d.keyFail c o).can = d.can := rfl
@[simp] theorem Dev.keyFail_fuses (c o : Nat) : (d.keyFail c o).fuses = d.fuses := rfl
@[simp] theorem Dev.keyFail_sec (c o : Nat) : (d.keyFail c o).sec = d.sec := rfl
@[simp] theorem Dev.keyFail_spdm (c o : Nat) : (d.keyFail c o).spdm = d.spdm := rfl
@[simp] theorem Dev.keyFail_signQ (c o : Nat) : (d.keyFail c o).signQ = d.signQ := rfl
@[simp] theorem Dev.keyFail_mb (c o : Nat) : (d.keyFail c o).mb = d.mb := rfl
@[simp] theorem Dev.keyFail_bist (c o : Nat) : (d.keyFail c o).bist = d.bist := rfl
@[simp] theorem Dev.keyFail_due (c o : Nat) : (d.keyFail c o).due = d.due := rfl
@[simp] theorem Dev.keyFail_ext (c o : Nat) : (d.keyFail c o).ext = d.ext := rfl
@[simp] theorem Dev.keyFail_extRetire (c o : Nat) : (d.keyFail c o).extRetire = d.extRetire := rfl
@[simp] theorem Dev.keyFail_lds (c o : Nat) : (d.keyFail c o).lds = d.lds := rfl
@[simp] theorem Dev.keyFail_tenants (c o : Nat) : (d.keyFail c o).tenants = d.tenants := rfl
@[simp] theorem Dev.keyFail_mem (c o : Nat) : (d.keyFail c o).mem = d.mem := rfl
@[simp] theorem Dev.keyFail_frames (c o : Nat) : (d.keyFail c o).frames = d.frames := rfl
@[simp] theorem Dev.keyFail_crm (c o : Nat) : (d.keyFail c o).crm = d.crm := rfl
@[simp] theorem Dev.keyFail_thm (c o : Nat) : (d.keyFail c o).thm = d.thm := rfl
@[simp] theorem Dev.keyFail_farCh (c o : Nat) : (d.keyFail c o).farCh = d.farCh := rfl
@[simp] theorem Dev.keyFail_cry (c o : Nat) : (d.keyFail c o).cry = d.cry := rfl
@[simp] theorem Dev.keyFail_prs (c o : Nat) : (d.keyFail c o).prs = d.prs := rfl
@[simp] theorem Dev.keyFail_home (c o : Nat) : (d.keyFail c o).home = d.home := rfl
@[simp] theorem Dev.keyFail_txns (c o : Nat) : (d.keyFail c o).txns = d.txns := rfl
@[simp] theorem Dev.keyFail_nextTxn (c o : Nat) : (d.keyFail c o).nextTxn = d.nextTxn := rfl
@[simp] theorem Dev.keyFail_ports (c o : Nat) : (d.keyFail c o).ports = d.ports := rfl
@[simp] theorem Dev.keyFail_rly (c o : Nat) : (d.keyFail c o).rly = d.rly := rfl
@[simp] theorem Dev.keyFail_chain (c o : Nat) : (d.keyFail c o).chain = d.chain := rfl
@[simp] theorem Dev.keyFail_noc (c o : Nat) : (d.keyFail c o).noc = d.noc := rfl
@[simp] theorem Dev.keyFail_pmu (c o : Nat) : (d.keyFail c o).pmu = d.pmu := rfl
@[simp] theorem Dev.keyFail_ras (c o : Nat) : (d.keyFail c o).ras = d.ras := rfl
@[simp] theorem Dev.keyFail_free (c o : Nat) : (d.keyFail c o).free = d.free := rfl
@[simp] theorem Dev.keyFail_sched (c o : Nat) : (d.keyFail c o).sched = d.sched := rfl
@[simp] theorem Dev.keyFail_merge (c o : Nat) : (d.keyFail c o).merge = d.merge := rfl
@[simp] theorem Dev.keyFail_arrayPoison (c o : Nat) : (d.keyFail c o).arrayPoison = d.arrayPoison := rfl
@[simp] theorem Dev.keyFail_issued (c o : Nat) : (d.keyFail c o).issued = d.issued := rfl
@[simp] theorem Dev.keyFail_wire (c o : Nat) : (d.keyFail c o).wire = d.wire := rfl
@[simp] theorem Dev.keyFail_out (c o : Nat) : (d.keyFail c o).out = d.out := rfl

@[simp] theorem Dev.longRun_part (i : Iface) (op : Nat) : (d.longRun i op).part = d.part := rfl
@[simp] theorem Dev.longRun_mode (i : Iface) (op : Nat) : (d.longRun i op).mode = d.mode := rfl
@[simp] theorem Dev.longRun_clk (i : Iface) (op : Nat) : (d.longRun i op).clk = d.clk := rfl
@[simp] theorem Dev.longRun_shadow (i : Iface) (op : Nat) : (d.longRun i op).shadow = d.shadow := rfl
@[simp] theorem Dev.longRun_shown (i : Iface) (op : Nat) : (d.longRun i op).shown = d.shown := rfl
@[simp] theorem Dev.longRun_acc (i : Iface) (op : Nat) : (d.longRun i op).acc = d.acc := rfl
@[simp] theorem Dev.longRun_stg (i : Iface) (op : Nat) : (d.longRun i op).stg = d.stg := rfl
@[simp] theorem Dev.longRun_pwr (i : Iface) (op : Nat) : (d.longRun i op).pwr = d.pwr := rfl
@[simp] theorem Dev.longRun_can (i : Iface) (op : Nat) : (d.longRun i op).can = d.can := rfl
@[simp] theorem Dev.longRun_fuses (i : Iface) (op : Nat) : (d.longRun i op).fuses = d.fuses := rfl
@[simp] theorem Dev.longRun_sec (i : Iface) (op : Nat) : (d.longRun i op).sec = d.sec := rfl
@[simp] theorem Dev.longRun_spdm (i : Iface) (op : Nat) : (d.longRun i op).spdm = d.spdm := rfl
@[simp] theorem Dev.longRun_signQ (i : Iface) (op : Nat) : (d.longRun i op).signQ = d.signQ := rfl
@[simp] theorem Dev.longRun_bist (i : Iface) (op : Nat) : (d.longRun i op).bist = d.bist := rfl
@[simp] theorem Dev.longRun_due (i : Iface) (op : Nat) : (d.longRun i op).due = d.due := rfl
@[simp] theorem Dev.longRun_ext (i : Iface) (op : Nat) : (d.longRun i op).ext = d.ext := rfl
@[simp] theorem Dev.longRun_extRetire (i : Iface) (op : Nat) : (d.longRun i op).extRetire = d.extRetire := rfl
@[simp] theorem Dev.longRun_lds (i : Iface) (op : Nat) : (d.longRun i op).lds = d.lds := rfl
@[simp] theorem Dev.longRun_tenants (i : Iface) (op : Nat) : (d.longRun i op).tenants = d.tenants := rfl
@[simp] theorem Dev.longRun_mem (i : Iface) (op : Nat) : (d.longRun i op).mem = d.mem := rfl
@[simp] theorem Dev.longRun_frames (i : Iface) (op : Nat) : (d.longRun i op).frames = d.frames := rfl
@[simp] theorem Dev.longRun_crm (i : Iface) (op : Nat) : (d.longRun i op).crm = d.crm := rfl
@[simp] theorem Dev.longRun_thm (i : Iface) (op : Nat) : (d.longRun i op).thm = d.thm := rfl
@[simp] theorem Dev.longRun_farCh (i : Iface) (op : Nat) : (d.longRun i op).farCh = d.farCh := rfl
@[simp] theorem Dev.longRun_cry (i : Iface) (op : Nat) : (d.longRun i op).cry = d.cry := rfl
@[simp] theorem Dev.longRun_prs (i : Iface) (op : Nat) : (d.longRun i op).prs = d.prs := rfl
@[simp] theorem Dev.longRun_home (i : Iface) (op : Nat) : (d.longRun i op).home = d.home := rfl
@[simp] theorem Dev.longRun_txns (i : Iface) (op : Nat) : (d.longRun i op).txns = d.txns := rfl
@[simp] theorem Dev.longRun_nextTxn (i : Iface) (op : Nat) : (d.longRun i op).nextTxn = d.nextTxn := rfl
@[simp] theorem Dev.longRun_ports (i : Iface) (op : Nat) : (d.longRun i op).ports = d.ports := rfl
@[simp] theorem Dev.longRun_rly (i : Iface) (op : Nat) : (d.longRun i op).rly = d.rly := rfl
@[simp] theorem Dev.longRun_chain (i : Iface) (op : Nat) : (d.longRun i op).chain = d.chain := rfl
@[simp] theorem Dev.longRun_noc (i : Iface) (op : Nat) : (d.longRun i op).noc = d.noc := rfl
@[simp] theorem Dev.longRun_pmu (i : Iface) (op : Nat) : (d.longRun i op).pmu = d.pmu := rfl
@[simp] theorem Dev.longRun_ras (i : Iface) (op : Nat) : (d.longRun i op).ras = d.ras := rfl
@[simp] theorem Dev.longRun_free (i : Iface) (op : Nat) : (d.longRun i op).free = d.free := rfl
@[simp] theorem Dev.longRun_sched (i : Iface) (op : Nat) : (d.longRun i op).sched = d.sched := rfl
@[simp] theorem Dev.longRun_merge (i : Iface) (op : Nat) : (d.longRun i op).merge = d.merge := rfl
@[simp] theorem Dev.longRun_arrayPoison (i : Iface) (op : Nat) : (d.longRun i op).arrayPoison = d.arrayPoison := rfl
@[simp] theorem Dev.longRun_issued (i : Iface) (op : Nat) : (d.longRun i op).issued = d.issued := rfl
@[simp] theorem Dev.longRun_wire (i : Iface) (op : Nat) : (d.longRun i op).wire = d.wire := rfl
@[simp] theorem Dev.longRun_out (i : Iface) (op : Nat) : (d.longRun i op).out = d.out := rfl

@[simp] theorem Dev.floorMoved_part : (d.floorMoved).part = d.part := rfl
@[simp] theorem Dev.floorMoved_mode : (d.floorMoved).mode = d.mode := rfl
@[simp] theorem Dev.floorMoved_clk : (d.floorMoved).clk = d.clk := rfl
@[simp] theorem Dev.floorMoved_regs : (d.floorMoved).regs = d.regs := rfl
@[simp] theorem Dev.floorMoved_shadow : (d.floorMoved).shadow = d.shadow := rfl
@[simp] theorem Dev.floorMoved_shown : (d.floorMoved).shown = d.shown := rfl
@[simp] theorem Dev.floorMoved_acc : (d.floorMoved).acc = d.acc := rfl
@[simp] theorem Dev.floorMoved_stg : (d.floorMoved).stg = d.stg := rfl
@[simp] theorem Dev.floorMoved_pwr : (d.floorMoved).pwr = d.pwr := rfl
@[simp] theorem Dev.floorMoved_can : (d.floorMoved).can = d.can := rfl
@[simp] theorem Dev.floorMoved_fuses : (d.floorMoved).fuses = d.fuses := rfl
@[simp] theorem Dev.floorMoved_sec : (d.floorMoved).sec = d.sec := rfl
@[simp] theorem Dev.floorMoved_spdm : (d.floorMoved).spdm = d.spdm := rfl
@[simp] theorem Dev.floorMoved_signQ : (d.floorMoved).signQ = d.signQ := rfl
@[simp] theorem Dev.floorMoved_mb : (d.floorMoved).mb = d.mb := rfl
@[simp] theorem Dev.floorMoved_bist : (d.floorMoved).bist = d.bist := rfl
@[simp] theorem Dev.floorMoved_ext : (d.floorMoved).ext = d.ext := rfl
@[simp] theorem Dev.floorMoved_extRetire : (d.floorMoved).extRetire = d.extRetire := rfl
@[simp] theorem Dev.floorMoved_lds : (d.floorMoved).lds = d.lds := rfl
@[simp] theorem Dev.floorMoved_tenants : (d.floorMoved).tenants = d.tenants := rfl
@[simp] theorem Dev.floorMoved_mem : (d.floorMoved).mem = d.mem := rfl
@[simp] theorem Dev.floorMoved_frames : (d.floorMoved).frames = d.frames := rfl
@[simp] theorem Dev.floorMoved_crm : (d.floorMoved).crm = d.crm := rfl
@[simp] theorem Dev.floorMoved_thm : (d.floorMoved).thm = d.thm := rfl
@[simp] theorem Dev.floorMoved_farCh : (d.floorMoved).farCh = d.farCh := rfl
@[simp] theorem Dev.floorMoved_cry : (d.floorMoved).cry = d.cry := rfl
@[simp] theorem Dev.floorMoved_prs : (d.floorMoved).prs = d.prs := rfl
@[simp] theorem Dev.floorMoved_home : (d.floorMoved).home = d.home := rfl
@[simp] theorem Dev.floorMoved_txns : (d.floorMoved).txns = d.txns := rfl
@[simp] theorem Dev.floorMoved_nextTxn : (d.floorMoved).nextTxn = d.nextTxn := rfl
@[simp] theorem Dev.floorMoved_ports : (d.floorMoved).ports = d.ports := rfl
@[simp] theorem Dev.floorMoved_rly : (d.floorMoved).rly = d.rly := rfl
@[simp] theorem Dev.floorMoved_chain : (d.floorMoved).chain = d.chain := rfl
@[simp] theorem Dev.floorMoved_noc : (d.floorMoved).noc = d.noc := rfl
@[simp] theorem Dev.floorMoved_pmu : (d.floorMoved).pmu = d.pmu := rfl
@[simp] theorem Dev.floorMoved_ras : (d.floorMoved).ras = d.ras := rfl
@[simp] theorem Dev.floorMoved_free : (d.floorMoved).free = d.free := rfl
@[simp] theorem Dev.floorMoved_sched : (d.floorMoved).sched = d.sched := rfl
@[simp] theorem Dev.floorMoved_merge : (d.floorMoved).merge = d.merge := rfl
@[simp] theorem Dev.floorMoved_arrayPoison : (d.floorMoved).arrayPoison = d.arrayPoison := rfl
@[simp] theorem Dev.floorMoved_issued : (d.floorMoved).issued = d.issued := rfl
@[simp] theorem Dev.floorMoved_wire : (d.floorMoved).wire = d.wire := rfl
@[simp] theorem Dev.floorMoved_out : (d.floorMoved).out = d.out := rfl

@[simp] theorem Dev.setInlet_part (i : Inlet) : (d.setInlet i).part = d.part := rfl
@[simp] theorem Dev.setInlet_mode (i : Inlet) : (d.setInlet i).mode = d.mode := rfl
@[simp] theorem Dev.setInlet_clk (i : Inlet) : (d.setInlet i).clk = d.clk := rfl
@[simp] theorem Dev.setInlet_shadow (i : Inlet) : (d.setInlet i).shadow = d.shadow := rfl
@[simp] theorem Dev.setInlet_shown (i : Inlet) : (d.setInlet i).shown = d.shown := rfl
@[simp] theorem Dev.setInlet_acc (i : Inlet) : (d.setInlet i).acc = d.acc := rfl
@[simp] theorem Dev.setInlet_stg (i : Inlet) : (d.setInlet i).stg = d.stg := rfl
@[simp] theorem Dev.setInlet_can (i : Inlet) : (d.setInlet i).can = d.can := rfl
@[simp] theorem Dev.setInlet_fuses (i : Inlet) : (d.setInlet i).fuses = d.fuses := rfl
@[simp] theorem Dev.setInlet_sec (i : Inlet) : (d.setInlet i).sec = d.sec := rfl
@[simp] theorem Dev.setInlet_spdm (i : Inlet) : (d.setInlet i).spdm = d.spdm := rfl
@[simp] theorem Dev.setInlet_signQ (i : Inlet) : (d.setInlet i).signQ = d.signQ := rfl
@[simp] theorem Dev.setInlet_mb (i : Inlet) : (d.setInlet i).mb = d.mb := rfl
@[simp] theorem Dev.setInlet_bist (i : Inlet) : (d.setInlet i).bist = d.bist := rfl
@[simp] theorem Dev.setInlet_due (i : Inlet) : (d.setInlet i).due = d.due := rfl
@[simp] theorem Dev.setInlet_ext (i : Inlet) : (d.setInlet i).ext = d.ext := rfl
@[simp] theorem Dev.setInlet_extRetire (i : Inlet) : (d.setInlet i).extRetire = d.extRetire := rfl
@[simp] theorem Dev.setInlet_lds (i : Inlet) : (d.setInlet i).lds = d.lds := rfl
@[simp] theorem Dev.setInlet_tenants (i : Inlet) : (d.setInlet i).tenants = d.tenants := rfl
@[simp] theorem Dev.setInlet_mem (i : Inlet) : (d.setInlet i).mem = d.mem := rfl
@[simp] theorem Dev.setInlet_frames (i : Inlet) : (d.setInlet i).frames = d.frames := rfl
@[simp] theorem Dev.setInlet_crm (i : Inlet) : (d.setInlet i).crm = d.crm := rfl
@[simp] theorem Dev.setInlet_thm (i : Inlet) : (d.setInlet i).thm = d.thm := rfl
@[simp] theorem Dev.setInlet_farCh (i : Inlet) : (d.setInlet i).farCh = d.farCh := rfl
@[simp] theorem Dev.setInlet_cry (i : Inlet) : (d.setInlet i).cry = d.cry := rfl
@[simp] theorem Dev.setInlet_prs (i : Inlet) : (d.setInlet i).prs = d.prs := rfl
@[simp] theorem Dev.setInlet_home (i : Inlet) : (d.setInlet i).home = d.home := rfl
@[simp] theorem Dev.setInlet_txns (i : Inlet) : (d.setInlet i).txns = d.txns := rfl
@[simp] theorem Dev.setInlet_nextTxn (i : Inlet) : (d.setInlet i).nextTxn = d.nextTxn := rfl
@[simp] theorem Dev.setInlet_ports (i : Inlet) : (d.setInlet i).ports = d.ports := rfl
@[simp] theorem Dev.setInlet_rly (i : Inlet) : (d.setInlet i).rly = d.rly := rfl
@[simp] theorem Dev.setInlet_chain (i : Inlet) : (d.setInlet i).chain = d.chain := rfl
@[simp] theorem Dev.setInlet_noc (i : Inlet) : (d.setInlet i).noc = d.noc := rfl
@[simp] theorem Dev.setInlet_pmu (i : Inlet) : (d.setInlet i).pmu = d.pmu := rfl
@[simp] theorem Dev.setInlet_ras (i : Inlet) : (d.setInlet i).ras = d.ras := rfl
@[simp] theorem Dev.setInlet_free (i : Inlet) : (d.setInlet i).free = d.free := rfl
@[simp] theorem Dev.setInlet_sched (i : Inlet) : (d.setInlet i).sched = d.sched := rfl
@[simp] theorem Dev.setInlet_merge (i : Inlet) : (d.setInlet i).merge = d.merge := rfl
@[simp] theorem Dev.setInlet_arrayPoison (i : Inlet) : (d.setInlet i).arrayPoison = d.arrayPoison := rfl
@[simp] theorem Dev.setInlet_issued (i : Inlet) : (d.setInlet i).issued = d.issued := rfl
@[simp] theorem Dev.setInlet_wire (i : Inlet) : (d.setInlet i).wire = d.wire := rfl
@[simp] theorem Dev.setInlet_out (i : Inlet) : (d.setInlet i).out = d.out := rfl

@[simp] theorem Dev.modRecord_part (f : InletRec → InletRec) : (d.modRecord f).part = d.part := rfl
@[simp] theorem Dev.modRecord_mode (f : InletRec → InletRec) : (d.modRecord f).mode = d.mode := rfl
@[simp] theorem Dev.modRecord_clk (f : InletRec → InletRec) : (d.modRecord f).clk = d.clk := rfl
@[simp] theorem Dev.modRecord_regs (f : InletRec → InletRec) : (d.modRecord f).regs = d.regs := rfl
@[simp] theorem Dev.modRecord_shadow (f : InletRec → InletRec) : (d.modRecord f).shadow = d.shadow := rfl
@[simp] theorem Dev.modRecord_shown (f : InletRec → InletRec) : (d.modRecord f).shown = d.shown := rfl
@[simp] theorem Dev.modRecord_acc (f : InletRec → InletRec) : (d.modRecord f).acc = d.acc := rfl
@[simp] theorem Dev.modRecord_stg (f : InletRec → InletRec) : (d.modRecord f).stg = d.stg := rfl
@[simp] theorem Dev.modRecord_pwr (f : InletRec → InletRec) : (d.modRecord f).pwr = d.pwr := rfl
@[simp] theorem Dev.modRecord_fuses (f : InletRec → InletRec) : (d.modRecord f).fuses = d.fuses := rfl
@[simp] theorem Dev.modRecord_sec (f : InletRec → InletRec) : (d.modRecord f).sec = d.sec := rfl
@[simp] theorem Dev.modRecord_spdm (f : InletRec → InletRec) : (d.modRecord f).spdm = d.spdm := rfl
@[simp] theorem Dev.modRecord_signQ (f : InletRec → InletRec) : (d.modRecord f).signQ = d.signQ := rfl
@[simp] theorem Dev.modRecord_mb (f : InletRec → InletRec) : (d.modRecord f).mb = d.mb := rfl
@[simp] theorem Dev.modRecord_bist (f : InletRec → InletRec) : (d.modRecord f).bist = d.bist := rfl
@[simp] theorem Dev.modRecord_due (f : InletRec → InletRec) : (d.modRecord f).due = d.due := rfl
@[simp] theorem Dev.modRecord_ext (f : InletRec → InletRec) : (d.modRecord f).ext = d.ext := rfl
@[simp] theorem Dev.modRecord_extRetire (f : InletRec → InletRec) : (d.modRecord f).extRetire = d.extRetire := rfl
@[simp] theorem Dev.modRecord_lds (f : InletRec → InletRec) : (d.modRecord f).lds = d.lds := rfl
@[simp] theorem Dev.modRecord_tenants (f : InletRec → InletRec) : (d.modRecord f).tenants = d.tenants := rfl
@[simp] theorem Dev.modRecord_mem (f : InletRec → InletRec) : (d.modRecord f).mem = d.mem := rfl
@[simp] theorem Dev.modRecord_frames (f : InletRec → InletRec) : (d.modRecord f).frames = d.frames := rfl
@[simp] theorem Dev.modRecord_crm (f : InletRec → InletRec) : (d.modRecord f).crm = d.crm := rfl
@[simp] theorem Dev.modRecord_thm (f : InletRec → InletRec) : (d.modRecord f).thm = d.thm := rfl
@[simp] theorem Dev.modRecord_farCh (f : InletRec → InletRec) : (d.modRecord f).farCh = d.farCh := rfl
@[simp] theorem Dev.modRecord_cry (f : InletRec → InletRec) : (d.modRecord f).cry = d.cry := rfl
@[simp] theorem Dev.modRecord_prs (f : InletRec → InletRec) : (d.modRecord f).prs = d.prs := rfl
@[simp] theorem Dev.modRecord_home (f : InletRec → InletRec) : (d.modRecord f).home = d.home := rfl
@[simp] theorem Dev.modRecord_txns (f : InletRec → InletRec) : (d.modRecord f).txns = d.txns := rfl
@[simp] theorem Dev.modRecord_nextTxn (f : InletRec → InletRec) : (d.modRecord f).nextTxn = d.nextTxn := rfl
@[simp] theorem Dev.modRecord_ports (f : InletRec → InletRec) : (d.modRecord f).ports = d.ports := rfl
@[simp] theorem Dev.modRecord_rly (f : InletRec → InletRec) : (d.modRecord f).rly = d.rly := rfl
@[simp] theorem Dev.modRecord_chain (f : InletRec → InletRec) : (d.modRecord f).chain = d.chain := rfl
@[simp] theorem Dev.modRecord_noc (f : InletRec → InletRec) : (d.modRecord f).noc = d.noc := rfl
@[simp] theorem Dev.modRecord_pmu (f : InletRec → InletRec) : (d.modRecord f).pmu = d.pmu := rfl
@[simp] theorem Dev.modRecord_ras (f : InletRec → InletRec) : (d.modRecord f).ras = d.ras := rfl
@[simp] theorem Dev.modRecord_free (f : InletRec → InletRec) : (d.modRecord f).free = d.free := rfl
@[simp] theorem Dev.modRecord_sched (f : InletRec → InletRec) : (d.modRecord f).sched = d.sched := rfl
@[simp] theorem Dev.modRecord_merge (f : InletRec → InletRec) : (d.modRecord f).merge = d.merge := rfl
@[simp] theorem Dev.modRecord_arrayPoison (f : InletRec → InletRec) : (d.modRecord f).arrayPoison = d.arrayPoison := rfl
@[simp] theorem Dev.modRecord_issued (f : InletRec → InletRec) : (d.modRecord f).issued = d.issued := rfl
@[simp] theorem Dev.modRecord_wire (f : InletRec → InletRec) : (d.modRecord f).wire = d.wire := rfl
@[simp] theorem Dev.modRecord_out (f : InletRec → InletRec) : (d.modRecord f).out = d.out := rfl

@[simp] theorem Dev.atBoot_part (n : Nat) (l : List Word) : (d.atBoot n l).part = d.part := rfl
@[simp] theorem Dev.atBoot_mode (n : Nat) (l : List Word) : (d.atBoot n l).mode = d.mode := rfl
@[simp] theorem Dev.atBoot_clk (n : Nat) (l : List Word) : (d.atBoot n l).clk = d.clk := rfl
@[simp] theorem Dev.atBoot_regs (n : Nat) (l : List Word) : (d.atBoot n l).regs = d.regs := rfl
@[simp] theorem Dev.atBoot_shadow (n : Nat) (l : List Word) : (d.atBoot n l).shadow = d.shadow := rfl
@[simp] theorem Dev.atBoot_shown (n : Nat) (l : List Word) : (d.atBoot n l).shown = d.shown := rfl
@[simp] theorem Dev.atBoot_acc (n : Nat) (l : List Word) : (d.atBoot n l).acc = d.acc := rfl
@[simp] theorem Dev.atBoot_stg (n : Nat) (l : List Word) : (d.atBoot n l).stg = d.stg := rfl
@[simp] theorem Dev.atBoot_pwr (n : Nat) (l : List Word) : (d.atBoot n l).pwr = d.pwr := rfl
@[simp] theorem Dev.atBoot_fuses (n : Nat) (l : List Word) : (d.atBoot n l).fuses = d.fuses := rfl
@[simp] theorem Dev.atBoot_sec (n : Nat) (l : List Word) : (d.atBoot n l).sec = d.sec := rfl
@[simp] theorem Dev.atBoot_spdm (n : Nat) (l : List Word) : (d.atBoot n l).spdm = d.spdm := rfl
@[simp] theorem Dev.atBoot_signQ (n : Nat) (l : List Word) : (d.atBoot n l).signQ = d.signQ := rfl
@[simp] theorem Dev.atBoot_mb (n : Nat) (l : List Word) : (d.atBoot n l).mb = d.mb := rfl
@[simp] theorem Dev.atBoot_bist (n : Nat) (l : List Word) : (d.atBoot n l).bist = d.bist := rfl
@[simp] theorem Dev.atBoot_due (n : Nat) (l : List Word) : (d.atBoot n l).due = d.due := rfl
@[simp] theorem Dev.atBoot_ext (n : Nat) (l : List Word) : (d.atBoot n l).ext = d.ext := rfl
@[simp] theorem Dev.atBoot_extRetire (n : Nat) (l : List Word) : (d.atBoot n l).extRetire = d.extRetire := rfl
@[simp] theorem Dev.atBoot_lds (n : Nat) (l : List Word) : (d.atBoot n l).lds = d.lds := rfl
@[simp] theorem Dev.atBoot_tenants (n : Nat) (l : List Word) : (d.atBoot n l).tenants = d.tenants := rfl
@[simp] theorem Dev.atBoot_mem (n : Nat) (l : List Word) : (d.atBoot n l).mem = d.mem := rfl
@[simp] theorem Dev.atBoot_frames (n : Nat) (l : List Word) : (d.atBoot n l).frames = d.frames := rfl
@[simp] theorem Dev.atBoot_crm (n : Nat) (l : List Word) : (d.atBoot n l).crm = d.crm := rfl
@[simp] theorem Dev.atBoot_thm (n : Nat) (l : List Word) : (d.atBoot n l).thm = d.thm := rfl
@[simp] theorem Dev.atBoot_farCh (n : Nat) (l : List Word) : (d.atBoot n l).farCh = d.farCh := rfl
@[simp] theorem Dev.atBoot_cry (n : Nat) (l : List Word) : (d.atBoot n l).cry = d.cry := rfl
@[simp] theorem Dev.atBoot_prs (n : Nat) (l : List Word) : (d.atBoot n l).prs = d.prs := rfl
@[simp] theorem Dev.atBoot_home (n : Nat) (l : List Word) : (d.atBoot n l).home = d.home := rfl
@[simp] theorem Dev.atBoot_txns (n : Nat) (l : List Word) : (d.atBoot n l).txns = d.txns := rfl
@[simp] theorem Dev.atBoot_nextTxn (n : Nat) (l : List Word) : (d.atBoot n l).nextTxn = d.nextTxn := rfl
@[simp] theorem Dev.atBoot_ports (n : Nat) (l : List Word) : (d.atBoot n l).ports = d.ports := rfl
@[simp] theorem Dev.atBoot_rly (n : Nat) (l : List Word) : (d.atBoot n l).rly = d.rly := rfl
@[simp] theorem Dev.atBoot_chain (n : Nat) (l : List Word) : (d.atBoot n l).chain = d.chain := rfl
@[simp] theorem Dev.atBoot_noc (n : Nat) (l : List Word) : (d.atBoot n l).noc = d.noc := rfl
@[simp] theorem Dev.atBoot_pmu (n : Nat) (l : List Word) : (d.atBoot n l).pmu = d.pmu := rfl
@[simp] theorem Dev.atBoot_ras (n : Nat) (l : List Word) : (d.atBoot n l).ras = d.ras := rfl
@[simp] theorem Dev.atBoot_free (n : Nat) (l : List Word) : (d.atBoot n l).free = d.free := rfl
@[simp] theorem Dev.atBoot_sched (n : Nat) (l : List Word) : (d.atBoot n l).sched = d.sched := rfl
@[simp] theorem Dev.atBoot_merge (n : Nat) (l : List Word) : (d.atBoot n l).merge = d.merge := rfl
@[simp] theorem Dev.atBoot_arrayPoison (n : Nat) (l : List Word) : (d.atBoot n l).arrayPoison = d.arrayPoison := rfl
@[simp] theorem Dev.atBoot_issued (n : Nat) (l : List Word) : (d.atBoot n l).issued = d.issued := rfl
@[simp] theorem Dev.atBoot_wire (n : Nat) (l : List Word) : (d.atBoot n l).wire = d.wire := rfl
@[simp] theorem Dev.atBoot_out (n : Nat) (l : List Word) : (d.atBoot n l).out = d.out := rfl

end Sys2Proof.Machine
end

