-- ==== Sys2Proof/Laws/Step.lean ====
section
/-! SUPPORT. Sys2Proof/Laws/Step.lean: what a step can do: it answers a next state, in which only the device differs, and the
device has settled. -/

namespace Sys2Proof.Machine

/-- Every command answers a next state: the settled image of the device under some change, the queue as it was. -/
theorem exec_on (c : Instr) (s : State) : ∃ f : Dev → Dev, exec c s = s.on f := by
  cases c with
  | vauxStart smbAddr prsntHigh perstLow => exact ⟨_, (rfl : execVauxStart smbAddr prsntHigh perstLow s = s.on _)⟩
  | vauxLoss => exact ⟨_, (rfl : execVauxLoss s = s.on _)⟩
  | mainRailLoss rail => exact ⟨_, (rfl : execMainRailLoss rail s = s.on _)⟩
  | powerGood => exact ⟨_, (rfl : execPowerGood s = s.on _)⟩
  | perstANAssert => exact ⟨_, (rfl : execPerstANAssert s = s.on _)⟩
  | perstANDeassert straps => exact ⟨_, (rfl : execPerstANDeassert straps s = s.on _)⟩
  | perstBNAssert => exact ⟨_, (rfl : execPerstBNAssert s = s.on _)⟩
  | prsntNHigh => exact ⟨_, (rfl : execPrsntNHigh s = s.on _)⟩
  | prsntNLow => exact ⟨_, (rfl : execPrsntNLow s = s.on _)⟩
  | thermtripNAssert m => exact ⟨_, (rfl : execThermtripNAssert m s = s.on _)⟩
  | thermtripRelease island0 island1 => exact ⟨_, (rfl : execThermtripRelease island0 island1 s = s.on _)⟩
  | glitchDetect nowMs => exact ⟨_, (rfl : execGlitchDetect nowMs s = s.on _)⟩
  | glitchResetRelease => exact ⟨_, (rfl : execGlitchResetRelease s = s.on _)⟩
  | jtagDebugInstruction => exact ⟨_, (rfl : execJtagDebugInstruction s = s.on _)⟩
  | caParityAlert ch txn again => exact ⟨_, (rfl : execCaParityAlert ch txn again s = s.on _)⟩
  | inletCheckPass m diode => exact ⟨_, (rfl : execInletCheckPass m diode s = s.on _)⟩
  | prechargeComplete m => exact ⟨_, (rfl : execPrechargeComplete m s = s.on _)⟩
  | prechargeTimeout m => exact ⟨_, (rfl : execPrechargeTimeout m s = s.on _)⟩
  | rampComplete m => exact ⟨_, (rfl : execRampComplete m s = s.on _)⟩
  | rampNotTracking m => exact ⟨_, (rfl : execRampNotTracking m s = s.on _)⟩
  | currentLimitTimeout m => exact ⟨_, (rfl : execCurrentLimitTimeout m s = s.on _)⟩
  | overcurrentTrip m => exact ⟨_, (rfl : execOvercurrentTrip m s = s.on _)⟩
  | fetOvertemp m => exact ⟨_, (rfl : execFetOvertemp m s = s.on _)⟩
  | powerGoodTimeout m outOfOrder => exact ⟨_, (rfl : execPowerGoodTimeout m outOfOrder s = s.on _)⟩
  | gateRiseTimeout m => exact ⟨_, (rfl : execGateRiseTimeout m s = s.on _)⟩
  | retryWaitExpiry => exact ⟨_, (rfl : execRetryWaitExpiry s = s.on _)⟩
  | failsClearTimeout => exact ⟨_, (rfl : execFailsClearTimeout s = s.on _)⟩
  | fetModelUpdate m => exact ⟨_, (rfl : execFetModelUpdate m s = s.on _)⟩
  | xtInletClear fc p => exact ⟨_, (rfl : execXtInletClear fc p s = s.on _)⟩
  | inlClear src key => exact ⟨_, (rfl : execInlClear src key s = s.on _)⟩
  | clearDelayExpiry => exact ⟨_, (rfl : execClearDelayExpiry s = s.on _)⟩
  | inlOverrideOff src key => exact ⟨_, (rfl : execInlOverrideOff src key s = s.on _)⟩
  | inlOverrideOn src key => exact ⟨_, (rfl : execInlOverrideOn src key s = s.on _)⟩
  | inlOverrideModel src key => exact ⟨_, (rfl : execInlOverrideModel src key s = s.on _)⟩
  | powerCapSample deciWatts => exact ⟨_, (rfl : execPowerCapSample deciWatts s = s.on _)⟩
  | powerCapRelease => exact ⟨_, (rfl : execPowerCapRelease s = s.on _)⟩
  | postedWrite src off value => exact ⟨_, (rfl : execPostedWrite src off value s = s.on _)⟩
  | postingComplete off => exact ⟨_, (rfl : execPostingComplete off s = s.on _)⟩
  | coreClockLock healthOk => exact ⟨_, (rfl : execCoreClockLock healthOk s = s.on _)⟩
  | tsvTrainingComplete results => exact ⟨_, (rfl : execTsvTrainingComplete results s = s.on _)⟩
  | fillComplete arraysOk => exact ⟨_, (rfl : execFillComplete arraysOk s = s.on _)⟩
  | bootComplete sigFailA sigFailB dimms => exact ⟨_, (rfl : execBootComplete sigFailA sigFailB dimms s = s.on _)⟩
  | trainComplete failed => exact ⟨_, (rfl : execTrainComplete failed s = s.on _)⟩
  | awaitTrigger => exact ⟨_, (rfl : execAwaitTrigger s = s.on _)⟩
  | hdmDecoderCommit port ld idx cfg => exact ⟨_, (rfl : execHdmDecoderCommit port ld idx cfg s = s.on _)⟩
  | thermalHoldEnd => exact ⟨_, (rfl : execThermalHoldEnd s = s.on _)⟩
  | modeReqDrainReset => exact ⟨_, (rfl : execModeReqDrainReset s = s.on _)⟩
  | modeReqDrainRemoval => exact ⟨_, (rfl : execModeReqDrainRemoval s = s.on _)⟩
  | modeReqDrainHibernate => exact ⟨_, (rfl : execModeReqDrainHibernate s = s.on _)⟩
  | modeReqWake => exact ⟨_, (rfl : execModeReqWake s = s.on _)⟩
  | modeReqDrainMaint => exact ⟨_, (rfl : execModeReqDrainMaint s = s.on _)⟩
  | modeReqLeaveMaint => exact ⟨_, (rfl : execModeReqLeaveMaint s = s.on _)⟩
  | drainLastTransactionClosed => exact ⟨_, (rfl : execDrainLastTransactionClosed s = s.on _)⟩
  | drainFlushComplete errs => exact ⟨_, (rfl : execDrainFlushComplete s errs = s.on _)⟩
  | drainPauseBoundary => exact ⟨_, (rfl : execDrainPauseBoundary s = s.on _)⟩
  | drainDestinationAction => exact ⟨_, (rfl : execDrainDestinationAction s = s.on _)⟩
  | thermalWakeCountExpiry => exact ⟨_, (rfl : execThermalWakeCountExpiry s = s.on _)⟩
  | wakeComplete => exact ⟨_, (rfl : execWakeComplete s = s.on _)⟩
  | drowseIdleExpiry ch => exact ⟨_, (rfl : execDrowseIdleExpiry ch s = s.on _)⟩
  | channelWake ch => exact ⟨_, (rfl : execChannelWake ch s = s.on _)⟩
  | unitRestored => exact ⟨_, (rfl : execUnitRestored s = s.on _)⟩
  | haltEntry cause chid loc => exact ⟨_, (rfl : execHaltEntry cause chid loc s = s.on _)⟩
  | haltBoundary => exact ⟨_, (rfl : execHaltBoundary s = s.on _)⟩
  | haltRecordWrite => exact ⟨_, (rfl : execHaltRecordWrite s = s.on _)⟩
  | pourBoundary => exact ⟨_, (rfl : execPourBoundary s = s.on _)⟩
  | holdExpiry line => exact ⟨_, (rfl : execHoldExpiry line s = s.on _)⟩
  | guaranteeWindowCheck => exact ⟨_, (rfl : execGuaranteeWindowCheck s = s.on _)⟩
  | stagedRegisterWrite src off value => exact ⟨_, (rfl : execStagedRegisterWrite src off value s = s.on _)⟩
  | xtStageCheck fc p => exact ⟨_, (rfl : execXtStageCheck fc p s = s.on _)⟩
  | xtStageCommit fc p => exact ⟨_, (rfl : execXtStageCommit fc p s = s.on _)⟩
  | commitTakesEffect => exact ⟨_, (rfl : execCommitTakesEffect s = s.on _)⟩
  | xtStageAbort fc p => exact ⟨_, (rfl : execXtStageAbort fc p s = s.on _)⟩
  | registerWrite src off value be => exact ⟨_, (rfl : execRegisterWrite src off value be s = s.on _)⟩
  | rcRead src off be => exact ⟨_, (rfl : execRcRead src off be s = s.on _)⟩
  | glbPourLoRead src => exact ⟨_, (rfl : execGlbPourLoRead src s = s.on _)⟩
  | cryMajorNextLoRead src => exact ⟨_, (rfl : execCryMajorNextLoRead src s = s.on _)⟩
  | stgCommitPourLoRead src => exact ⟨_, (rfl : execStgCommitPourLoRead src s = s.on _)⟩
  | indDataAccess src wr => exact ⟨_, (rfl : execIndDataAccess src wr s = s.on _)⟩
  | snapCtlReq src => exact ⟨_, (rfl : execSnapCtlReq src s = s.on _)⟩
  | keyedValueWrite src off value => exact ⟨_, (rfl : execKeyedValueWrite src off value s = s.on _)⟩
  | keyedPairTimeout src => exact ⟨_, (rfl : execKeyedPairTimeout src s = s.on _)⟩
  | registerParityError off regBad committedBad => exact ⟨_, (rfl : execRegisterParityError off regBad committedBad s = s.on _)⟩
  | glbSealCtlOff src key => exact ⟨_, (rfl : execGlbSealCtlOff src key s = s.on _)⟩
  | glbSealCtlEnforce src key => exact ⟨_, (rfl : execGlbSealCtlEnforce src key s = s.on _)⟩
  | glbSealCtlReport src key => exact ⟨_, (rfl : execGlbSealCtlReport src key s = s.on _)⟩
  | sealCommit src => exact ⟨_, (rfl : execSealCommit src s = s.on _)⟩
  | sealReferenceScanComplete => exact ⟨_, (rfl : execSealReferenceScanComplete s = s.on _)⟩
  | sealScanStart => exact ⟨_, (rfl : execSealScanStart s = s.on _)⟩
  | sealScanComplete err => exact ⟨_, (rfl : execSealScanComplete err s = s.on _)⟩
  | glbLcAdv src key => exact ⟨_, (rfl : execGlbLcAdv src key s = s.on _)⟩
  | lifecycleBurnComplete => exact ⟨_, (rfl : execLifecycleBurnComplete s = s.on _)⟩
  | identityKeygenComplete => exact ⟨_, (rfl : execIdentityKeygenComplete s = s.on _)⟩
  | cryRekeyCtl src key => exact ⟨_, (rfl : execCryRekeyCtl src key s = s.on _)⟩
  | rasFuseLo src key => exact ⟨_, (rfl : execRasFuseLo src key s = s.on _)⟩
  | fuseBurnComplete => exact ⟨_, (rfl : execFuseBurnComplete s = s.on _)⟩
  | canErase src key => exact ⟨_, (rfl : execCanErase src key s = s.on _)⟩
  | pmuCtlFreeze on => exact ⟨_, (rfl : execPmuCtlFreeze on s = s.on _)⟩
  | pmuCtlClrGen => exact ⟨_, (rfl : execPmuCtlClrGen s = s.on _)⟩
  | pmuCtlClrOvf => exact ⟨_, (rfl : execPmuCtlClrOvf s = s.on _)⟩
  | pmuEvselWrite n value => exact ⟨_, (rfl : execPmuEvselWrite n value s = s.on _)⟩
  | pmuScopeWrite n value => exact ⟨_, (rfl : execPmuScopeWrite n value s = s.on _)⟩
  | pmuHistCtlWrite h value => exact ⟨_, (rfl : execPmuHistCtlWrite h value s = s.on _)⟩
  | pmuHistClr mask => exact ⟨_, (rfl : execPmuHistClr mask s = s.on _)⟩
  | mgmtRegisterRead count off => exact ⟨_, (rfl : execMgmtRegisterRead count off s = s.on _)⟩
  | mgmtRegisterWrite count off data => exact ⟨_, (rfl : execMgmtRegisterWrite count off data s = s.on _)⟩
  | smbusAlertResponse => exact ⟨_, (rfl : execSmbusAlertResponse s = s.on _)⟩
  | xtIdentify fc p => exact ⟨_, (rfl : execXtIdentify fc p s = s.on _)⟩
  | xtTenantCreate fc p => exact ⟨_, (rfl : execXtTenantCreate fc p s = s.on _)⟩
  | xtTenantResize fc p => exact ⟨_, (rfl : execXtTenantResize fc p s = s.on _)⟩
  | xtTenantReset fc p => exact ⟨_, (rfl : execXtTenantReset fc p s = s.on _)⟩
  | xtTenantDestroy fc p => exact ⟨_, (rfl : execXtTenantDestroy fc p s = s.on _)⟩
  | tenantSequenceStart t => exact ⟨_, (rfl : execTenantSequenceStart t s = s.on _)⟩
  | tenantSquash t => exact ⟨_, (rfl : execTenantSquash t s = s.on _)⟩
  | tenantSequenceEnd t => exact ⟨_, (rfl : execTenantSequenceEnd t s = s.on _)⟩
  | xtRekeyStart fc p => exact ⟨_, (rfl : execXtRekeyStart fc p s = s.on _)⟩
  | xtRekeyStatus fc p => exact ⟨_, (rfl : execXtRekeyStatus fc p s = s.on _)⟩
  | rekeyStart healthOk => exact ⟨_, (rfl : execRekeyStart healthOk s = s.on _)⟩
  | subkeyDerivationDone => exact ⟨_, (rfl : execSubkeyDerivationDone s = s.on _)⟩
  | rekeyPageCommit ch => exact ⟨_, (rfl : execRekeyPageCommit ch s = s.on _)⟩
  | rekeyPageAdvance ch => exact ⟨_, (rfl : execRekeyPageAdvance ch s = s.on _)⟩
  | rekeyDone => exact ⟨_, (rfl : execRekeyDone s = s.on _)⟩
  | xtBistRun fc p => exact ⟨_, (rfl : execXtBistRun fc p s = s.on _)⟩
  | bistTestEnd result locators pipes => exact ⟨_, (rfl : execBistTestEnd result locators s pipes = s.on _)⟩
  | xtRepairSoft fc p => exact ⟨_, (rfl : execXtRepairSoft fc p s = s.on _)⟩
  | xtRepairFuse fc p => exact ⟨_, (rfl : execXtRepairFuse fc p s = s.on _)⟩
  | softRepairRowSwap flips => exact ⟨_, (rfl : execSoftRepairRowSwap s flips = s.on _)⟩
  | xtCanisterStore fc p => exact ⟨_, (rfl : execXtCanisterStore fc p s = s.on _)⟩
  | xtCanisterLoad fc p => exact ⟨_, (rfl : execXtCanisterLoad fc p s = s.on _)⟩
  | xtCanisterErase fc p => exact ⟨_, (rfl : execXtCanisterErase fc p s = s.on _)⟩
  | xtChainRollcall fc p => exact ⟨_, (rfl : execXtChainRollcall fc p s = s.on _)⟩
  | xtChainMap fc p => exact ⟨_, (rfl : execXtChainMap fc p s = s.on _)⟩
  | xtCremaPin fc p => exact ⟨_, (rfl : execXtCremaPin fc p s = s.on _)⟩
  | xtCremaFlush fc p => exact ⟨_, (rfl : execXtCremaFlush fc p s = s.on _)⟩
  | xtNearSize fc p => exact ⟨_, (rfl : execXtNearSize fc p s = s.on _)⟩
  | nearSizeWalkEnd => exact ⟨_, (rfl : execNearSizeWalkEnd s = s.on _)⟩
  | xtPressPolicy fc p => exact ⟨_, (rfl : execXtPressPolicy fc p s = s.on _)⟩
  | xtPressCompact fc p => exact ⟨_, (rfl : execXtPressCompact fc p s = s.on _)⟩
  | xtFwStage fc p => exact ⟨_, (rfl : execXtFwStage fc p s = s.on _)⟩
  | firmwareVerifyComplete sigFail => exact ⟨_, (rfl : execFirmwareVerifyComplete sigFail s = s.on _)⟩
  | xtFwActivate fc p => exact ⟨_, (rfl : execXtFwActivate fc p s = s.on _)⟩
  | xtBrewAbort fc p => exact ⟨_, (rfl : execXtBrewAbort fc p s = s.on _)⟩
  | brewStepEnd vddInWindow errs => exact ⟨_, (rfl : execBrewStepEnd vddInWindow s errs = s.on _)⟩
  | watchdogExpiry => exact ⟨_, (rfl : execWatchdogExpiry s = s.on _)⟩
  | lockstepMismatch => exact ⟨_, (rfl : execLockstepMismatch s = s.on _)⟩
  | tcmUncorrectableFetch => exact ⟨_, (rfl : execTcmUncorrectableFetch s = s.on _)⟩
  | baristaRestartComplete verifyOk => exact ⟨_, (rfl : execBaristaRestartComplete verifyOk s = s.on _)⟩
  | recordForward => exact ⟨_, (rfl : execRecordForward s = s.on _)⟩
  | sanitize fc ld => exact ⟨_, (rfl : execSanitize fc ld s = s.on _)⟩
  | secureErase fc ld => exact ⟨_, (rfl : execSecureErase fc ld s = s.on _)⟩
  | scanMedia fc ld => exact ⟨_, (rfl : execScanMedia fc ld s = s.on _)⟩
  | injectPoison fc ld dpa => exact ⟨_, (rfl : execInjectPoison fc ld dpa s = s.on _)⟩
  | clearPoison fc ld dpa data => exact ⟨_, (rfl : execClearPoison fc ld dpa data s = s.on _)⟩
  | getPoisonList fc ld => exact ⟨_, (rfl : execGetPoisonList fc ld s = s.on _)⟩
  | requestAbortBackgroundOperation fc => exact ⟨_, (rfl : execRequestAbortBackgroundOperation fc s = s.on _)⟩
  | getFwInfo fc => exact ⟨_, (rfl : execGetFwInfo fc s = s.on _)⟩
  | transferFw fc slot off last bytes => exact ⟨_, (rfl : execTransferFw fc slot off last bytes s = s.on _)⟩
  | activateFw fc slot now => exact ⟨_, (rfl : execActivateFw fc slot now s = s.on _)⟩
  | addDynamicCapacityResponse port ld accepted => exact ⟨_, (rfl : execAddDynamicCapacityResponse port ld accepted s = s.on _)⟩
  | releaseDynamicCapacity port ld blocks => exact ⟨_, (rfl : execReleaseDynamicCapacity port ld blocks s = s.on _)⟩
  | initiateDynamicCapacityAdd t region count tag => exact ⟨_, (rfl : execInitiateDynamicCapacityAdd t region count tag s = s.on _)⟩
  | initiateDynamicCapacityRelease t blocks forced => exact ⟨_, (rfl : execInitiateDynamicCapacityRelease t blocks forced s = s.on _)⟩
  | setDcRegionConfiguration t region blockBytes len => exact ⟨_, (rfl : execSetDcRegionConfiguration t region blockBytes len s = s.on _)⟩
  | getDcRegionExtentLists t => exact ⟨_, (rfl : execGetDcRegionExtentLists t s = s.on _)⟩
  | getLdAllocations port => exact ⟨_, (rfl : execGetLdAllocations port s = s.on _)⟩
  | setLdAllocations port => exact ⟨_, (rfl : execSetLdAllocations port s = s.on _)⟩
  | getQosStatus t => exact ⟨_, (rfl : execGetQosStatus t s = s.on _)⟩
  | setQosControl controls => exact ⟨_, (rfl : execSetQosControl controls s = s.on _)⟩
  | setQosAllocatedBw port => exact ⟨_, (rfl : execSetQosAllocatedBw port s = s.on _)⟩
  | cxlTableAccess port ld => exact ⟨_, (rfl : execCxlTableAccess port ld s = s.on _)⟩
  | getMeasurements tr index signed => exact ⟨_, (rfl : execGetMeasurements tr index signed s = s.on _)⟩
  | getCsr tr => exact ⟨_, (rfl : execGetCsr tr s = s.on _)⟩
  | setCertificate tr leaf issuers => exact ⟨_, (rfl : execSetCertificate tr leaf issuers s = s.on _)⟩
  | negotiateAlgorithms tr composite => exact ⟨_, (rfl : execNegotiateAlgorithms tr composite s = s.on _)⟩
  | keyExchange tr secp384r1Aes256Gcm => exact ⟨_, (rfl : execKeyExchange tr secp384r1Aes256Gcm s = s.on _)⟩
  | challenge tr => exact ⟨_, (rfl : execChallenge tr s = s.on _)⟩
  | signatureComplete => exact ⟨_, (rfl : execSignatureComplete s = s.on _)⟩
  | memrd r md => exact ⟨_, (rfl : execMemrd r md s = s.on _)⟩
  | memrddata r => exact ⟨_, (rfl : execMemrddata r s = s.on _)⟩
  | meminv r md => exact ⟨_, (rfl : execMeminv r md s = s.on _)⟩
  | memwr r md data => exact ⟨_, (rfl : execMemwr r md data s = s.on _)⟩
  | memwrPartial r md data mask => exact ⟨_, (rfl : execMemwrPartial r md data mask s = s.on _)⟩
  | memclnevct r => exact ⟨_, (rfl : execMemclnevct r s = s.on _)⟩
  | uioRead r => exact ⟨_, (rfl : execUioRead r s = s.on _)⟩
  | uioWrite r data mask => exact ⟨_, (rfl : execUioWrite r data mask s = s.on _)⟩
  | atomicop r a toBar => exact ⟨_, (rfl : execAtomicop r a toBar s = s.on _)⟩
  | birspi port hpa => exact ⟨_, (rfl : execBirspi port hpa s = s.on _)⟩
  | birsps port hpa => exact ⟨_, (rfl : execBirsps port hpa s = s.on _)⟩
  | hostBiconflict port hpa tag => exact ⟨_, (rfl : execHostBiconflict port hpa tag s = s.on _)⟩
  | holdRelease t cls => exact ⟨_, (rfl : execHoldRelease t cls s = s.on _)⟩
  | tagDecision txn => exact ⟨_, (rfl : execTagDecision txn s = s.on _)⟩
  | speculativeHoldExpiry txn => exact ⟨_, (rfl : execSpeculativeHoldExpiry txn s = s.on _)⟩
  | retryQueueRetry slice => exact ⟨_, (rfl : execRetryQueueRetry slice s = s.on _)⟩
  | bisnpTimeout line => exact ⟨_, (rfl : execBisnpTimeout line s = s.on _)⟩
  | leaseIdleExpiry line => exact ⟨_, (rfl : execLeaseIdleExpiry line s = s.on _)⟩
  | leaseMaxExpiry line => exact ⟨_, (rfl : execLeaseMaxExpiry line s = s.on _)⟩
  | cremaFillComplete set way => exact ⟨_, (rfl : execCremaFillComplete set way s = s.on _)⟩
  | evictionComplete set way errs => exact ⟨_, (rfl : execEvictionComplete set way s errs = s.on _)⟩
  | farLineReadReturn txn flips chk => exact ⟨_, (rfl : execFarLineReadReturn txn flips chk s = s.on _)⟩
  | cremaLineReadReturn txn flips => exact ⟨_, (rfl : execCremaLineReadReturn txn flips s = s.on _)⟩
  | mergeBufferRetire arr uncorrectable => exact ⟨_, (rfl : execMergeBufferRetire arr uncorrectable s = s.on _)⟩
  | patrolScrubRead ch flips other => exact ⟨_, (rfl : execPatrolScrubRead ch flips s other = s.on _)⟩
  | subtreeReinitEnd => exact ⟨_, (rfl : execSubtreeReinitEnd s = s.on _)⟩
  | cryptoPipeParityMismatch xts unit => exact ⟨_, (rfl : execCryptoPipeParityMismatch xts unit s = s.on _)⟩
  | cremaRefresh pc => exact ⟨_, (rfl : execCremaRefresh pc s = s.on _)⟩
  | temperatureSample stack die => exact ⟨_, (rfl : execTemperatureSample stack die s = s.on _)⟩
  | doubledRefreshRelease => exact ⟨_, (rfl : execDoubledRefreshRelease s = s.on _)⟩
  | stackThrottleRelease => exact ⟨_, (rfl : execStackThrottleRelease s = s.on _)⟩
  | dieThrottleRelease => exact ⟨_, (rfl : execDieThrottleRelease s = s.on _)⟩
  | cremaChannelLoss c => exact ⟨_, (rfl : execCremaChannelLoss c s = s.on _)⟩
  | rebuildWalkEnd => exact ⟨_, (rfl : execRebuildWalkEnd s = s.on _)⟩
  | rotationCopyDone => exact ⟨_, (rfl : execRotationCopyDone s = s.on _)⟩
  | rotationSourceDrained => exact ⟨_, (rfl : execRotationSourceDrained s = s.on _)⟩
  | rotationTestDone result locators => exact ⟨_, (rfl : execRotationTestDone result locators s = s.on _)⟩
  | rotationRetrainDone ok => exact ⟨_, (rfl : execRotationRetrainDone ok s = s.on _)⟩
  | rotationFillDone => exact ⟨_, (rfl : execRotationFillDone s = s.on _)⟩
  | requestPromotion txn => exact ⟨_, (rfl : execRequestPromotion txn s = s.on _)⟩
  | farRefresh ch sub => exact ⟨_, (rfl : execFarRefresh ch sub s = s.on _)⟩
  | mr4Reading ch ranks => exact ⟨_, (rfl : execMr4Reading ch ranks s = s.on _)⟩
  | dimmHotDrain ch => exact ⟨_, (rfl : execDimmHotDrain ch s = s.on _)⟩
  | distWindowEnd ch => exact ⟨_, (rfl : execDistWindowEnd ch s = s.on _)⟩
  | dqsOscillatorReading ch drifts => exact ⟨_, (rfl : execDqsOscillatorReading ch drifts s = s.on _)⟩
  | recentringStepEnd ch => exact ⟨_, (rfl : execRecentringStepEnd ch s = s.on _)⟩
  | recentringFail ch => exact ⟨_, (rfl : execRecentringFail ch s = s.on _)⟩
  | farChannelLoss ch => exact ⟨_, (rfl : execFarChannelLoss ch s = s.on _)⟩
  | softPprStart ch flips => exact ⟨_, (rfl : execSoftPprStart ch s flips = s.on _)⟩
  | softPprEnd ch => exact ⟨_, (rfl : execSoftPprEnd ch s = s.on _)⟩
  | hardPprComplete flips => exact ⟨_, (rfl : execHardPprComplete s flips = s.on _)⟩
  | pressDecodeComplete engine crcOk flips => exact ⟨_, (rfl : execPressDecodeComplete engine crcOk s flips = s.on _)⟩
  | pressCodeComplete engine selfCheckOk => exact ⟨_, (rfl : execPressCodeComplete engine selfCheckOk s = s.on _)⟩
  | sectorRelease => exact ⟨_, (rfl : execSectorRelease s = s.on _)⟩
  | pressEngineLoss engine => exact ⟨_, (rfl : execPressEngineLoss engine s = s.on _)⟩
  | fenceDrainAck d => exact ⟨_, (rfl : execFenceDrainAck d s = s.on _)⟩
  | fenceOff d => exact ⟨_, (rfl : execFenceOff d s = s.on _)⟩
  | fenceStuck d => exact ⟨_, (rfl : execFenceStuck d s = s.on _)⟩
  | domainPowerOnDone d => exact ⟨_, (rfl : execDomainPowerOnDone d s = s.on _)⟩
  | fabricParityError net dataField txn => exact ⟨_, (rfl : execFabricParityError net dataField txn s = s.on _)⟩
  | dlDown port => exact ⟨_, (rfl : execDlDown port s = s.on _)⟩
  | linkDownWritesClosed port => exact ⟨_, (rfl : execLinkDownWritesClosed port s = s.on _)⟩
  | hotReset port => exact ⟨_, (rfl : execHotReset port s = s.on _)⟩
  | flr port ld => exact ⟨_, (rfl : execFlr port ld s = s.on _)⟩
  | cxlReset port ld memClr => exact ⟨_, (rfl : execCxlReset port ld memClr s = s.on _)⟩
  | linkTrainingComplete port res => exact ⟨_, (rfl : execLinkTrainingComplete port res s = s.on _)⟩
  | linkRecovery port width rate replayed => exact ⟨_, (rfl : execLinkRecovery port width rate replayed s = s.on _)⟩
  | l0pWidthChange port width => exact ⟨_, (rfl : execL0pWidthChange port width s = s.on _)⟩
  | ideIntegrityFailure port stream => exact ⟨_, (rfl : execIdeIntegrityFailure port stream s = s.on _)⟩
  | ideKm port stream keys => exact ⟨_, (rfl : execIdeKm port stream keys s = s.on _)⟩
  | viralReceived port => exact ⟨_, (rfl : execViralReceived port s = s.on _)⟩
  | relayLinkTrained port offered rate64 width => exact ⟨_, (rfl : execRelayLinkTrained port offered rate64 width s = s.on _)⟩
  | relayAuthComplete port ok peerLifecycle peerVcs startSeq => exact ⟨_, (rfl : execRelayAuthComplete port ok peerLifecycle peerVcs startSeq s = s.on _)⟩
  | dataFlit port f => exact ⟨_, (rfl : execDataFlit port f s = s.on _)⟩
  | rollFlit port f r => exact ⟨_, (rfl : execRollFlit port f r s = s.on _)⟩
  | ackFlit port f => exact ⟨_, (rfl : execAckFlit port f s = s.on _)⟩
  | snakFlit port f gbn missing => exact ⟨_, (rfl : execSnakFlit port f gbn missing s = s.on _)⟩
  | creditFlit port f vcs => exact ⟨_, (rfl : execCreditFlit port f vcs s = s.on _)⟩
  | idleFlit port f => exact ⟨_, (rfl : execIdleFlit port f s = s.on _)⟩
  | haltFlit port f origin cause => exact ⟨_, (rfl : execHaltFlit port f origin cause s = s.on _)⟩
  | snakRepeatTimer port => exact ⟨_, (rfl : execSnakRepeatTimer port s = s.on _)⟩
  | ackTimer port => exact ⟨_, (rfl : execAckTimer port s = s.on _)⟩
  | replayTimeout port => exact ⟨_, (rfl : execReplayTimeout port s = s.on _)⟩
  | creditTimeout port => exact ⟨_, (rfl : execCreditTimeout port s = s.on _)⟩
  | holdLimitExpiry port => exact ⟨_, (rfl : execHoldLimitExpiry port s = s.on _)⟩
  | creditHoldRefresh port => exact ⟨_, (rfl : execCreditHoldRefresh port s = s.on _)⟩
  | rttMeasurement port cycles => exact ⟨_, (rfl : execRttMeasurement port cycles s = s.on _)⟩
  | recoveryTimeout port => exact ⟨_, (rfl : execRecoveryTimeout port s = s.on _)⟩
  | relayRecoveryExit port width => exact ⟨_, (rfl : execRelayRecoveryExit port width s = s.on _)⟩
  | cutEraseEnd => exact ⟨_, (rfl : execCutEraseEnd s = s.on _)⟩
  | rollCallWaitExpiry => exact ⟨_, (rfl : execRollCallWaitExpiry s = s.on _)⟩
  | rollCallReturnTimeout => exact ⟨_, (rfl : execRollCallReturnTimeout s = s.on _)⟩
  | memberLoss k cause => exact ⟨_, (rfl : execMemberLoss k cause s = s.on _)⟩
  | cmdRspTimeout => exact ⟨_, (rfl : execCmdRspTimeout s = s.on _)⟩
  | memRd m => exact ⟨_, (rfl : execMemRd m s = s.on _)⟩
  | memRdData m => exact ⟨_, (rfl : execMemRdData m s = s.on _)⟩
  | memInv m => exact ⟨_, (rfl : execMemInv m s = s.on _)⟩
  | memWr m data => exact ⟨_, (rfl : execMemWr m data s = s.on _)⟩
  | memWrPtl m data mask => exact ⟨_, (rfl : execMemWrPtl m data mask s = s.on _)⟩
  | memClnEvct m => exact ⟨_, (rfl : execMemClnEvct m s = s.on _)⟩
  | uioRd m => exact ⟨_, (rfl : execUioRd m s = s.on _)⟩
  | uioWr m data => exact ⟨_, (rfl : execUioWr m data s = s.on _)⟩
  | uioWrPtl m data mask => exact ⟨_, (rfl : execUioWrPtl m data mask s = s.on _)⟩
  | uioAtomic m a => exact ⟨_, (rfl : execUioAtomic m a s = s.on _)⟩
  | cmp m => exact ⟨_, (rfl : execCmp m s = s.on _)⟩
  | data m data => exact ⟨_, (rfl : execData m data s = s.on _)⟩
  | atomicData m data => exact ⟨_, (rfl : execAtomicData m data s = s.on _)⟩
  | bisnpData m => exact ⟨_, (rfl : execBisnpData m s = s.on _)⟩
  | bisnpInv m => exact ⟨_, (rfl : execBisnpInv m s = s.on _)⟩
  | birspI m => exact ⟨_, (rfl : execBirspI m s = s.on _)⟩
  | birspS m => exact ⟨_, (rfl : execBirspS m s = s.on _)⟩
  | biconflict m => exact ⟨_, (rfl : execBiconflict m s = s.on _)⟩
  | biconflictAck m => exact ⟨_, (rfl : execBiconflictAck m s = s.on _)⟩
  | spdm m port => exact ⟨_, (rfl : execSpdm m port s = s.on _)⟩
  | keyNext m port atSeq => exact ⟨_, (rfl : execKeyNext m port atSeq s = s.on _)⟩
  | hello m => exact ⟨_, (rfl : execHello m s = s.on _)⟩
  | memberState m rec => exact ⟨_, (rfl : execMemberState m rec s = s.on _)⟩
  | cut m => exact ⟨_, (rfl : execCut m s = s.on _)⟩
  | portReset m sharers => exact ⟨_, (rfl : execPortReset m sharers s = s.on _)⟩
  | viralOn m port => exact ⟨_, (rfl : execViralOn m port s = s.on _)⟩
  | viralOff m port => exact ⟨_, (rfl : execViralOff m port s = s.on _)⟩
  | cmd m opcode p => exact ⟨_, (rfl : execCmd m opcode p s = s.on _)⟩
  | cmdRsp m rc out => exact ⟨_, (rfl : execCmdRsp m rc out s = s.on _)⟩
  | event m record => exact ⟨_, (rfl : execEvent m record s = s.on _)⟩
  | linkBroken m reporter cause => exact ⟨_, (rfl : execLinkBroken m reporter cause s = s.on _)⟩
  | ready m => exact ⟨_, (rfl : execReady m s = s.on _)⟩
  | relayRecoveryEntry port => exact ⟨_, (rfl : execRelayRecoveryEntry port s = s.on _)⟩
  | relayLinkDown port => exact ⟨_, (rfl : execRelayLinkDown port s = s.on _)⟩
  | stageCheckComplete => exact ⟨_, (rfl : execStageCheckComplete s = s.on _)⟩
  | canisterStoreComplete => exact ⟨_, (rfl : execCanisterStoreComplete s = s.on _)⟩
  | canisterEraseComplete => exact ⟨_, (rfl : execCanisterEraseComplete s = s.on _)⟩
  | smbusLowTimeout => exact ⟨_, (rfl : execSmbusLowTimeout s = s.on _)⟩

/-- Every step answers a next state, with the queue one command shorter where it had one. -/
theorem step_on (s : State) : ∃ f : Dev → Dev, step s = .next { pending := s.pending.tail, dev := settle s.dev (f s.dev) } := by
  unfold step
  cases h : s.pending with
  | nil => exact ⟨Dev.tick, by simp [State.on, h]⟩
  | cons c r =>
    obtain ⟨f, e⟩ := exec_on c { s with pending := r }
    exact ⟨f, e⟩

/-! ### Settling -/

@[simp] theorem settle_lc (a b : Dev) : (settle a b).fuses.lc = a.fuses.lc ||| b.fuses.lc := rfl
@[simp] theorem settle_svn (a b : Dev) : (settle a b).fuses.svn = max a.fuses.svn b.fuses.svn := rfl
@[simp] theorem settle_idDisable (a b : Dev) : (settle a b).fuses.idDisable = (a.fuses.idDisable || b.fuses.idDisable) := rfl

/-- The settled mode is the old one, or one edge of the table away. -/
theorem settle_mode_or (a b : Dev) : (settle a b).mode = a.mode ∨ modeEdge a.mode (settle a b).mode = true := by
  simp only [settle]
  split
  · rename_i h
    rcases h with h | h
    · exact .inl h
    · exact .inr h
  · exact .inl rfl

/-- A device settles against itself as it is. -/
@[simp] theorem settle_self (d : Dev) : settle d d = d := by
  simp [settle]

end Sys2Proof.Machine
end

