-- ==== Sys2Proof/Tests/Slice0.lean ====
section
/-! SUPPORT. Sys2Proof/Tests/Slice0.lean: the model's own tests. Terms that are not well formed are refused; the spec's worked
examples come out; and for every statement one theorem shows states and operands that meet its hypotheses. -/

open Sys2Proof Sys2Proof.Machine

set_option maxRecDepth 20000
set_option linter.unusedSimpArgs false

/-! ### Small states -/

/-- A state with its device changed. -/
def onDev (s : State) (f : Dev → Dev) : State := { s with dev := f s.dev }

/-- A state with its island changed. -/
def withPwr (s : State) (f : Power → Power) : State := onDev s fun d => { d with pwr := f d.pwr }

/-- The device in COLD under VAUX with its inlet in a state. -/
def inletAt (i : Inlet) : State := withPwr State.reset fun p => { p with vaux := true, inlet := i }

/-- The same with PRSNT_N low. -/
def present (s : State) : State := withPwr s fun p => { p with prsntLow := true }

/-- A state in which MCTP has just armed a keyed register. -/
def armed (s : State) (off : Nat) (v : Word) : State := onDev s fun d => d.arm .mctp off v

/-- The device in SERVE as a single host, Barista running and free, the island up. -/
def serving : State :=
  onDev (inletAt .on) fun d => { d.setRoles 0 with mode := .serve, clk := ⟨true, 1, 0⟩, mb := { d.mb with state := .running } }

/-- The device in a mode, with power and a running clock where the mode has one. -/
def inMode (m : Mode) : State := onDev serving fun d => { d with mode := m, clk := ⟨m != .cold && m != .fill, 1, 0⟩ }

/-- The first 16 bytes of a firmware image for every lifecycle state: magic, TYPE 1, permission bits. -/
def imageHeader : Payload := [0x58, 0x54, 0x50, 0x46, 0, 0, 0, 0, 0, 0, 0, 0, 1, 0xFF, 0, 0]

/-- A state with what is due changed. -/
def withDue (s : State) (f : Due → Due) : State := onDev s fun d => { d with due := f d.due }

/-- The same with the link of Port A up. -/
def hosted : State := onDev serving fun d => d.setFld (Fld.prtLinkSts_state 0) 2

/-- The same with one valid settings copy. -/
def stored : State :=
  onDev serving fun d => { d with can := { d.can with
    newest := some 0, copies := vmod d.can.copies 0 fun _ => some ⟨1, [(Off.cohCtl, 5)], 2, 8, [], [], true⟩ } }

/-- A device with sixteen far blocks. -/
def withFar : State := onDev hosted fun d => d.setFld Fld.farMapCtl_dataBlocks 16

/-- The same with ACTIVE tenant 3 bound to LD 0 of Port A: one far block, at table entry 8. -/
def bound : State :=
  onDev withFar fun d => ((((d.setReg (Off.tntCtl 3) 0x80000000).setFld (Fld.tntSts_state 3) 1).setFld (Fld.tntExtBase_base 3) 8).setFld
    (Fld.tntExtLen_len 3) 1).setFld (Fld.tntPart_staticBlk 3) 1 |>.setExt 8 (mkExt true false false 0 true 5)

/-- The same in a sequence that began at pour 1, some pours later. -/
def seqAt (k : SeqKind) (after : Nat) : State :=
  onDev bound fun d => { (d.modTenant 3 fun t => { t with seq := some ⟨some 1, k, none, 1, 0⟩ }) with clk := ⟨true, BitVec.ofNat 64 (1 + after), 0⟩ }

/-- A host's read that waits for a far line. -/
def openRead : Txn :=
  { id := 4, org := .host .a 0 7 0, op := .rd, md := .any, tenant := some 3, cls := .g, sharer := none, db := false, comp := false,
    dpa := 0, ma := mkMa 0 true 0, data := 0, mask := 0, atom := none, phase := .far, arrived := ⟨1, 0⟩, looked := some ⟨1, 0⟩,
    poisoned := false, spec := none, snooped := false, tier := 0, route := 0, counted := false, bypass := false }

/-- A page of which every line is held, line 3 with its poison. -/
def heldPage (committed : Bool) : RekeyPage := ⟨5, [(0, 77), (63, 78)], BitVec.allOnes 64, 8, committed⟩

/-- A rekey that holds this page on far channel 2. -/
def collected (committed : Bool) : State :=
  onDev serving fun d => { d with cry := { d.cry with
    key := some 1, rekey := some ⟨.walking, 0, 0, false, vmod (Vector.replicate 8 none) 2 fun _ => some (heldPage committed), 0, 0⟩ } }

/-- A device with an image in slot B, of which the next part starts at 16. -/
def withSlot (valid : Bool) : State :=
  onDev serving fun d => { d with
    can := { d.can with slots := vmod d.can.slots 1 fun _ => ⟨imageHeader, valid⟩ }, mb := { d.mb with fwNext := vmod d.mb.fwNext 1 fun _ => 16 } }

/-- A device whose foreground brew verifies a slot. -/
def verifyOf (n : Fin 2) : State :=
  onDev (withSlot false) fun d => d.startFg 8 (some .mctp) (.fwVerify n) 1

/-- A device on which records wait: the one of tenant 3 at the tail. -/
def recordWaits : State :=
  onDev bound fun d => { d with clk := ⟨true, 9, 0⟩, ras := { d.ras with written := 6, tail := 5, recs := [⟨1, 0, 1, 0x106, 0, some 3, none, false, false, 0, 5, 0, []⟩] } }

/-- Tenant 3 with its one block in the near region: block 1, every Crema channel backed. -/
def nearBound : State :=
  onDev bound fun d => (List.range 31).foldl (fun d k => d.setFlag (Fld.crmLmap_v k) true) ((d.setExt 8 (mkExt true false false 0 false 1)).setFld Fld.crmCfg_nearGib 1)

/-- Tenant 3 with its far block, one far channel in service. -/
def openFar : State :=
  onDev bound fun d => ((d.setFld Fld.farMapCtl_chSet 1).setFld (Fld.farChSts_state 0) 2).setFld Fld.crmCfg_sets 4

/-- Tenant 3 with a second table entry for region 0 of medium far, which holds an extent, offered or accepted. -/
def withDc (accepted : Bool) : State :=
  onDev bound fun d => ((d.setFld (Fld.tntExtLen_len 3) 3).modTenant 3 fun t => { t with
    regions := vmod t.regions 0 fun _ => ⟨2, 0, 2⟩, dc := [⟨9, 0, 77, accepted, none⟩] }).setExt 9 (mkExt accepted false (!accepted) 0 true 6)

/-- The same before any offer. -/
def withRegion : State :=
  onDev bound fun d => ((d.setFld (Fld.tntExtLen_len 3) 3).modTenant 3 fun t => { t with regions := vmod t.regions 0 fun _ => ⟨2, 0, 2⟩, members := 1 })

/-- The signing keys are in place and MCTP is negotiated; a request may already wait. -/
def spdmUp (q : List (Transport × Nat)) : State :=
  onDev serving fun d => { (d.modConn .mctp fun _ => ⟨true, false⟩) with
    sec := { d.sec with signKeys := true }, signQ := q, fuses := { d.fuses with lc := 0xFF } }

/-- One committed decoder of 256 MiB at address 0 on LD 0 of Port A, HDM-H or HDM-DB, and sharer 2 for that LD. -/
def decoded (db : Bool) (s : State) : State :=
  onDev s fun d => (((d.modLd .a 0 fun l => { l with dec := vmod l.dec 0 fun _ => some ⟨⟨0, 2 ^ 28, 0, 1, 256, db, db, 0⟩, none⟩ }).setFlag
    (Fld.cohSharerMap_v 2) true).setFld (Fld.svcTntOtlGl_l 3) 8).setFld (Fld.svcTntOtlBs_b 3) 8 |>.setFld (Fld.svcTntOtlBs_s 3) 8

/-- A host's tenant in the near region, and one in the far tier. -/
def hostNear (db : Bool) : State := decoded db nearBound
def hostFar (db : Bool) : State := decoded db openFar

/-- A request of LD 0 of Port A for 0x1040, and what the decoder makes of it. -/
def req (tag : Nat) : HostReq := ⟨.a, 0, 0x1040, tag⟩
def dcd (dpa : Nat) : Decoded := ⟨0, 0, dpa⟩

/-- A host's request for line 0x1040 of far block 5, in a phase. -/
def farRd (op : Op) (ph : Phase) : Txn := { openRead with op := op, ma := mkMa 0 true 0x50001040, phase := ph, org := .host .a 0 7 0x1040 }

/-- Its line request waits at the scheduler 70, queued at pour 9. -/
def queuedAt (p : Nat) (c : Cls) : State := onDev openFar fun d => { d with
  clk := ⟨true, p, 0⟩, txns := [farRd .wr .far], sched := [(70, ⟨[⟨true, c, false, ⟨9, 0⟩, 5, false, none, false, some 0, none⟩], false⟩)] }

/-- It alone is open on a device with one far channel. -/
def farTxn (op : Op) (ph : Phase) (f : Dev → Dev) : State := onDev openFar fun d => { f d with txns := [farRd op ph] }

/-- The page in way 2 of its set, with that line. -/
def inFrame (d : Dev) : Dev := d.setFrame (d.setOf 0x50001) 2 { Frame.none with st := 1, valid := 2, tag := d.tagOf 0x50001 }

/-- A host's request for a near line, and a device on which it alone is open and the line holds `v`. -/
def nearRd (op : Op) : Txn :=
  { openRead with op := op, ma := mkMa 0 false 0x10001040, phase := .crema, org := .host .a 0 7 0x1040, data := 0x99, mask := 1, atom := if op = .atomic then some ⟨.fetchAdd, 4, 5, 0, 1⟩ else none }
def nearTxn (op : Op) (v : Line) : State := onDev nearBound fun d => { d.cremaStore 0x10001 1 v false with txns := [nearRd op] }

/-- The page of tag 9 in set 3 of a device with four sets. -/
def pg39 : Nat := openFar.dev.pageOf 3 9

/-- The snoop of the far line, sent for transaction 4. -/
def theSnoop : Snoop := ⟨lineKey (mkMa 0 true 0x50001040), 2, true, some ⟨1, 0⟩, some 4, true⟩

/-- It is open, and the line's entry names sharer 2. -/
def snooped (st : DirState) : State :=
  onDev (hostFar true) fun d => { d with
    txns := [{ farRd .uioRd .snooping with db := true, sharer := some 2 }]
    home := { d.home with snoops := [theSnoop], dir := [(dirBase (lineKey (mkMa 0 true 0x50001040)), ⟨dirTag (lineKey (mkMa 0 true 0x50001040)), st, 4, true, false, 0⟩)] } }

/-- A lease of the near line that has changed it, long ago. -/
def theLease : Lease := ⟨lineKey (mkMa 0 false 0x10001040), .a, 4, 0x55, true, 1, ⟨1, 0⟩⟩
def leased : State :=
  onDev (hostNear false) fun d => { d with
    clk := ⟨true, 2000000, 0⟩, home := { d.home with leases := [theLease] }, txns := [{ nearRd .atomic with phase := .leased }] }

/-- Two entries wait in the merge buffer of an array. -/
def merging (a : Nat) : State := onDev serving fun d => { d with merge := [(a, [⟨5, 3, ⟨1, 0⟩⟩, ⟨6, 1, ⟨1, 0⟩⟩])] }

/-- Far channel 0 in service, its scrub at a line of a page written in this start, Crema's at line 70. -/
def scrubbing (pos : Nat) : State :=
  onDev openFar fun d => { ((((d.setFlag (Fld.farChSts_inSet 0) true).setFlag Fld.rasScrubCtl_farEn true).setFlag Fld.rasScrubCtl_crmEn true).setFld
    (Fld.farChSts_raw 0) 1).modFch 0 fun f => { f with scrubPos := pos } with
    mem := { d.mem with written := d.mem.written.add (pageKey 0 (pos / 64)) }, crm := { d.crm with scrubPos := 70 } }

/-- A window of 64 pours in which guaranteed tenant 3 waited and got nothing. -/
def shortAt (taken : Bool) : State :=
  onDev bound fun d => { ((d.setFld (Fld.svcTntGuar_guar 3) 10).setFld Fld.svcScaleSts_factor 65536).modTenant 3 fun t => { t with waitPours := 64 } with
    clk := ⟨true, 64, 0⟩, due := { d.due with gslot := taken } }

/-- A stack's readings: the first die's, and the others'. -/
def temps (a b : Int) : List Reading := ⟨a, true⟩ :: List.replicate (State.reset.dev.dies - 1) ⟨b, true⟩

/-- A device hot once, every release condition met since pour 1. -/
def cooled : State :=
  onDev serving fun d => { (((d.setFlag Fld.crmRefCtl_doubled true).setFlag Fld.crmThermSts_throtStack true).setFlag Fld.crmThermSts_throtDie true) with
    clk := ⟨true, 70000, 0⟩, thm := { d.thm with cool83 := some 1, cool90 := some 1, cool93 := some 1 } }

/-- A far channel in service, in a step or not. -/
def awake (c : Nat) (r : Option Nat) : State :=
  onDev serving fun d => ((d.setFlag (Fld.farChSts_inSet c) true).setFld (Fld.farChSts_state c) 2).modFch c fun f => { f with recentre := r }

/-- A near-size walk to `gib` GiB that has passed every set. -/
def walking (near gib : Nat) : State :=
  onDev serving fun d => { ((d.setFld Fld.crmCfg_nearGib near).setFlag Fld.crmSts_bypass true) with
    crm := { d.crm with bypassWalk := some (gib, 99, 0) }, mb := { d.mb with fg := some ⟨5, some .mctp, .nearSize gib, 0, 9, false, 0⟩ } }

/-- Active channel 4 is declared lost, with a spare or without. -/
def losing (spare : Bool) : State :=
  onDev serving fun d => { (((((d.setFld (Fld.crmChSts_role 4) 0).setFld (Fld.crmChSts_logical 4) 4).setFld Fld.crmSts_spare 31).setFld
    (Fld.crmChSts_role 31) 1).setFlag Fld.crmSts_noSpare (!spare)) with crm := { d.crm with lossDue := [4] } }

/-- Pool 2 in overcommit: map block 4, data blocks 3, 6 and 7, of which 3 and 6 are exposed. -/
def pooled : State :=
  onDev openFar fun d => { (d.setFld Fld.prsSts_engOk 15) with prs := { d.prs with pools := vmod d.prs.pools 2 fun _ => ⟨true, true, [4], [3, 6, 7], [3, 6]⟩ } }

/-- Engine 1 works on page 5 of block 3 for way 2 of set 3. -/
def jobbed (st : Nat) (decode : Bool) : State :=
  onDev pooled fun d => { d.setFrame 3 2 { Frame.none with st := st, c := true, tag := 0 } with
    prs := { d.prs with engines := vmod d.prs.engines 1 fun _ => some ⟨decode, 0x30005, 3, 2, none, [], .b⟩ } }

/-- Domain 7 FENCING, domain 8 POWERING, at pour 90. -/
def fencing : State :=
  onDev serving fun d => { d.setReg Off.nocSts (setFieldOf (setFieldOf (d.reg Off.nocSts) 14 2 1) 16 2 3) with clk := ⟨true, 90, 0⟩ }

/-- The dual-headed mode with the link of Port B up. -/
def dual : State := onDev serving fun d => (d.setRoles 1).setFld Fld.glbPortMode_mode 1 |>.setFld (Fld.prtLinkSts_state 1) 2

/-- Port A may train. -/
def quiet : State := onDev serving fun d => d.setFld (Fld.prtLinkSts_state 0) 0

/-- The last 2,000-odd slots of a Relay link are free: KEYED at x16 with eight VCs. -/
def keyedAt (n : Nat) (d : Dev) : Dev := ((d.setFld (Fld.rlyLinkSts_state n) 3).setFld (Fld.rlyLinkSts_width n) 16).setFld (Fld.rlyLinkSts_vcs n) 8

/-- The head of a chain; a member with ID 2 and both links; a tail with ID 2. -/
def chainHead : State := onDev serving fun d => (keyedAt 1 ((d.setRoles 2).setFld Fld.glbPortMode_mode 2)).setFlag Fld.rlyChainSts_idv true
def member : State :=
  onDev serving fun d => (((keyedAt 1 (keyedAt 0 (d.setRoles 3))).setFld Fld.glbPortMode_mode 3).setFlag Fld.rlyChainSts_idv true).setFld Fld.rlyChainSts_id 2
def tail : State :=
  onDev serving fun d => (((keyedAt 0 (d.setRoles 4)).setFld Fld.glbPortMode_mode 4).setFlag Fld.rlyChainSts_idv true).setFld Fld.rlyChainSts_id 2

/-- Its links went to Recovery at pour 0, `n` pours ago. -/
def recovering (s : State) (n : Nat) : State :=
  onDev s fun d => let r := fun (d : Dev) (p : PortId) => (d.modRly p fun r => { r with recoverySince := some 0, wasKeyed := true }).setFld (Fld.rlyLinkSts_state (portIdx p)) 4
    { r (r d .a) .b with clk := ⟨true, BitVec.ofNat 64 n, 0⟩ }

/-- A message: tag 7 from `src` for `dest`, with `hops` behind it. -/
def msg (src dest hops : Nat) : RelayMsg := ⟨7, dest, src, .l, 3, 2, false, false, false, 0, 0x1400041, 2, hops⟩

/-- A flit as its sender builds it: TYPE, number, acknowledged number, VC, count and control counter; the CRC is right. -/
def flitOf (type n ack cvc ccum ctrl : Nat) : Flit :=
  let f : Flit := ⟨true, false, BitVec.ofNat 16 (n % 4096 + type * 4096), BitVec.ofNat 128 ctrl :: List.replicate 13 0, 0,
    BitVec.ofNat 32 (ack % 4096 + cvc % 8 * 2 ^ 12 + ccum % 65536 * 2 ^ 16), 0, true, true, [(0, 5), (0, 6), (3, 7)]⟩
  { f with crc := crc64 (flitBytes f) }

/-- A DATA flit with number `n` and nothing wrong; a flit of another TYPE with another acknowledgement. -/
def good (n : Nat) : Flit := flitOf 1 n 4095 0 0 1
def acking (type a : Nat) : Flit := flitOf type 0 a 0 0 1

/-- The head waits for its roll call of EPOCH 4, started at pour `t`. -/
def rollingHead (t : Nat) (again : Bool) : State :=
  onDev chainHead fun d => { d.setFld Fld.rlyChainSts_epoch 4 with chain := { d.chain with rolling := some (t, again) }, clk := ⟨true, 3000, 0⟩ }

/-- The record of the first member. -/
def rec1 : MemberRec := ⟨1, 5, false, false, 4, 96, 0, 7⟩

/-- Two flits, 4 and 5, wait for their acknowledgement. -/
def sentTwo : State :=
  onDev member fun d => { d.modRly .a fun r => { r with txNext := 6, replay := [⟨4, ⟨msg 2 0 0, 0x20, [], none⟩, []⟩, ⟨5, ⟨msg 2 0 0, 0x20, [], none⟩, []⟩], lastAck := ⟨1, 0⟩ } with clk := ⟨true, 50, 0⟩ }

/-- A member with ID 2 whose near region is large, and one whose far tier is set up. -/
def onChain (s : State) : State :=
  onDev s fun d => (((keyedAt 1 (keyedAt 0 (d.setRoles 3))).setFld Fld.glbPortMode_mode 3).setFlag Fld.rlyChainSts_idv true).setFld Fld.rlyChainSts_id 2
def memberNear : State := onChain nearBound
def memberFar : State := onChain openFar

/-- The head with a request forwarded to member 1. -/
def theRelayed (op : Op) : Txn := { openRead with op := op, ma := mkMa 1 true 0x50001040, phase := .relayed, org := .host .a 0 7 0x1040, id := 7 }
def relayedAt (op : Op) : State := onDev chainHead fun d => { d with txns := [theRelayed op] }

/-- The head of a chain whose member 1 is up, with a host's decoder and tenant. -/
def headFar : State :=
  onDev (hostFar true) fun d => (((keyedAt 1 (d.setRoles 2)).setFld Fld.glbPortMode_mode 2).setFlag Fld.rlyChainSts_idv true).setFld (Fld.rlyMember_state 1) 2

/-- A message from the head about a far line of member 2; a snoop of that line on its way, for a request or for a victim. -/
def msg2 : RelayMsg := { msg 0 2 1 with line := mkMa 2 true 0x50001040 / 64 }
def upSnoop (x : Option Nat) : Snoop := ⟨lineKey (mkMa 2 true 0x50001040), 2, true, some ⟨1, 0⟩, x, true⟩
def snoopedUp (x : Option Nat) : State :=
  onDev memberFar fun d => { d with
    txns := if x.isSome then [{ farRd .uioRd .snooping with ma := mkMa 2 true 0x50001040, org := .relay 0 7, db := true, sharer := some 2 }] else []
    home := { d.home with snoops := [upSnoop x], dir := [(dirBase (lineKey (mkMa 2 true 0x50001040)), ⟨dirTag (lineKey (mkMa 2 true 0x50001040)), .exclusive, 4, true, false, 0⟩)] } }

/-- The head knows member 1, which serves. -/
def known : State := onDev chainHead fun d => { d.setFld (Fld.rlyMember_state 1) 2 with chain := { d.chain with members := vmod d.chain.members 1 fun _ => some rec1 } }

/-- The head has lost position 1, to which a read was forwarded. -/
def lost2 : State := onDev known fun d => { d with chain := { d.chain with lossDue := some (1, .relayDown) }, txns := [theRelayed .rd, { openRead with id := 9 }] }

/-! ### Well-formedness: each check refuses -/

/-- Offsets off the register space, or not on a word. -/
theorem test_wf_offset : [Instr.postedWrite .mctp (2 ^ 25) 0, .postingComplete 2, .stagedRegisterWrite .mctp 1 0, .registerWrite .portA 3 0 15,
    .rcRead .portA (2 ^ 25) 15, .keyedValueWrite .mctp 5 0, .registerParityError 6 true true].all (fun c => !c.wf) = true := by decide

/-- Management accesses past their fields. -/
theorem test_wf_mgmt : [Instr.mgmtRegisterRead (2 ^ 16) 0, .mgmtRegisterRead 1 (2 ^ 32), .mgmtRegisterWrite (2 ^ 16) 0 [], .mgmtRegisterWrite 1 (2 ^ 32) []].all
    (fun c => !c.wf) = true := by decide

/-- An LD that a port does not have, DPAs past the address space, counts past their field. -/
theorem test_wf_ld : [Instr.sanitize .portA 16, .secureErase .portA 16, .scanMedia .portA 16, .injectPoison .portA 16 0, .injectPoison .portA 0 (2 ^ 48),
    .clearPoison .portA 16 0 0, .clearPoison .portA 0 (2 ^ 48) 0, .getPoisonList .portA 16, .addDynamicCapacityResponse .a 16 [],
    .releaseDynamicCapacity .a 16 [], .cxlTableAccess .a 16, .flr .a 16, .cxlReset .a 16 true,
    .initiateDynamicCapacityAdd 0 0 (2 ^ 16) 0].all (fun c => !c.wf) = true := by decide

/-- Host requests with an LD, address or tag out of range, and snoop answers past the address space. -/
theorem test_wf_host : [Instr.memrd ⟨.a, 16, 0, 0⟩ .any, .memrddata ⟨.a, 0, 2 ^ 52, 0⟩, .meminv ⟨.a, 0, 0, 2 ^ 16⟩ .any, .memwr ⟨.a, 16, 0, 0⟩ .any 0,
    .memwrPartial ⟨.a, 16, 0, 0⟩ .any 0 0, .memclnevct ⟨.a, 16, 0, 0⟩, .uioRead ⟨.a, 16, 0, 0⟩, .uioWrite ⟨.a, 16, 0, 0⟩ 0 0,
    .birspi .a (2 ^ 52), .birsps .a (2 ^ 52), .hostBiconflict .a (2 ^ 52) 0].all (fun c => !c.wf) = true := by decide

/-- AtomicOps of a size that R282 does not list, on both ways in. -/
theorem test_wf_atomic : [Instr.atomicop ⟨.a, 0, 0, 0⟩ ⟨.swap, 2, 0, 0, 0⟩ false, .atomicop ⟨.a, 0, 0, 0⟩ ⟨.swap, 16, 0, 0, 0⟩ false,
    .atomicop ⟨.a, 0, 0, 0⟩ ⟨.cas, 16, 0, 0, 2 ^ 16⟩ false, .uioAtomic (msg 0 2 1) ⟨.swap, 3, 0, 0, 0⟩].all (fun c => !c.wf) = true := by decide

/-- Decoders off their grain, past the address space, or of no way. -/
theorem test_wf_decoder : [(⟨1, 2 ^ 28, 0, 1, 256, false, false, 0⟩ : HdmCfg), ⟨0, 1, 0, 1, 256, false, false, 0⟩, ⟨2 ^ 52, 2 ^ 28, 0, 1, 256, false, false, 0⟩,
    ⟨0, 2 ^ 28, 0, 0, 256, false, false, 0⟩, ⟨0, 2 ^ 28, 0, 17, 256, false, false, 0⟩].all (fun h => !(Instr.hdmDecoderCommit .a 0 0 h).wf) = true ∧
    (Instr.hdmDecoderCommit .a 16 0 ⟨0, 2 ^ 28, 0, 1, 256, false, false, 0⟩).wf = false := by decide

/-- Widths and rates that a port does not have. -/
theorem test_wf_link : [Instr.linkTrainingComplete .a (.cxl true 5 6 true true), .linkTrainingComplete .a (.pcieOnly 8 7), .linkTrainingComplete .a (.pcieOnly 8 0),
    .linkRecovery .a 2 6 0, .linkRecovery .a 8 0 0, .l0pWidthChange .a 3, .relayLinkTrained .a true true 1, .relayRecoveryExit .a 2,
    .relayAuthComplete .a true 0 8 4096].all (fun c => !c.wf) = true := by decide

/-- Flits with too short a payload, too many slots, or a VC past 7, in each row. -/
theorem test_wf_flit : [(fun f => { f with payload := [0] } : Flit → Flit), fun f => { f with slots := List.replicate 15 (0, 0) },
    fun f => { f with slots := [(8, 0)] }].all (fun m =>
    !(Instr.dataFlit .a (m (good 0))).wf && !(Instr.ackFlit .a (m (acking 3 0))).wf && !(Instr.snakFlit .a (m (acking 4 0)) true []).wf &&
    !(Instr.creditFlit .a (m (acking 5 0)) []).wf && !(Instr.idleFlit .a (m (acking 6 0))).wf && !(Instr.haltFlit .a (m (acking 7 0)) 0 0).wf &&
    !(Instr.rollFlit .a (m (acking 2 0)) ⟨true, 0, 1, false, false, false, []⟩).wf) = true := by decide

/-- Flits of a TYPE that is another row's. -/
theorem test_wf_flit_type : (Instr.dataFlit .a (acking 3 0)).wf = false ∧ (Instr.ackFlit .a (good 0)).wf = false ∧ (Instr.snakFlit .a (good 0) true []).wf = false ∧
    (Instr.creditFlit .a (good 0) []).wf = false ∧ (Instr.idleFlit .a (good 0)).wf = false ∧ (Instr.haltFlit .a (good 0) 0 0).wf = false ∧
    (Instr.rollFlit .a (good 0) ⟨true, 0, 1, false, false, false, []⟩).wf = false ∧ (Instr.ackFlit .a (acking 3 0)).wf = true := by decide

/-- ROLL messages and member records out of range. -/
theorem test_wf_roll : [(⟨true, 0, 1, false, false, false, List.replicate 9 rec1⟩ : Roll), ⟨true, 0, 1, false, false, false, [{ rec1 with id := 8 }]⟩,
    ⟨true, 0, 1, false, false, false, [{ rec1 with mode := 12 }]⟩].all (fun r => !(Instr.rollFlit .a (acking 2 0) r).wf) = true ∧
    (Instr.memberState (msg 1 0 0) { rec1 with id := 8 }).wf = false := by decide

/-- Relay messages with a field past its width, in each of its checks. -/
theorem test_wf_message : [{ msg 0 2 1 with tag := 65536 }, msg 0 8 1, msg 8 2 1, { msg 0 2 1 with dslots := 14 }, { msg 0 2 1 with line := 2 ^ 42 },
    { msg 0 2 1 with opx := 2 ^ 35 }, msg 0 2 8].all (fun m => !(Instr.memRd m).wf && !(Instr.cmp m).wf && !(Instr.hello m).wf && !(Instr.keyNext m .a 0).wf) = true ∧
    (Instr.keyNext (msg 0 2 1) .a (2 ^ 128)).wf = false := by decide

/-- Event records past their widths. -/
theorem test_wf_event : [(⟨0, 512, 0, 0, 0, none, none, false, false, 0, 0, 0, []⟩ : EventRec), ⟨0, 0, 4, 0, 0, none, none, false, false, 0, 0, 0, []⟩,
    ⟨0, 0, 0, 65536, 0, none, none, false, false, 0, 0, 0, []⟩, ⟨0, 0, 0, 0, 0, none, none, false, false, 0, 0, 0, List.replicate 9 0⟩].all
    (fun r => !(Instr.event (msg 1 0 0) r).wf) = true := by decide

/-- What they refuse stands beside terms that they take. -/
theorem test_wf_takes : [Instr.registerWrite .portA 0x100 0 15, .memrd (req 3) .any, .dataFlit .a (good 5), .memRd (msg 0 2 1), .keyNext (msg 0 2 1) .a 5000,
    .linkTrainingComplete .a (.cxl true 8 6 true true), .event (msg 1 0 0) ⟨0, 511, 3, 7, 0, none, none, false, false, 0, 0, 0, [1]⟩].all Instr.wf = true := by decide

/-! ### Worked examples of the spec -/

/-- Eight channels of 512 GiB, 8 logical ranks, x4 devices, ORD-A (the worked decode of 03_address_and_tenants.md). -/
def eightChannels : Dev := ((Dev.init.setFld Fld.farMapCtl_chSet 8).setFld (Fld.farChSts_raw 4) 64).setFld (Fld.farChSts_lrank 4) 3

/-- The worked decode: entry and DPA give the media address, it gives channel 4 and its line, and that the DRAM fields. -/
theorem test_worked_decode : maOf 0x80012A51 0x123456780 = 0x12A513456780 ∧ eightChannels.farLoc 0x2A513456780 = ⟨4, 0x15289A29E⟩ ∧
    eightChannels.farFields 4 0x15289A29E = ⟨0, 6, 1, 10, 5, 0x15289⟩ ∧ eightChannels.dataLines 4 = 0x1D5500000 := by decide

/-- The worked frame of 04_crema_hot_tier.md: set 123,456, way 9, with NEAR = 4. -/
theorem test_worked_frame : frameChan (262144 * 4 + 123456 * 16 + 9) = 17 ∧ framePos (262144 * 4 + 123456 * 16 + 9) = 97544 ∧
    Dev.init.setsFor 4 = 917504 := by decide

/-- The worked bookings of 12_internal_fabric.md, and the map blocks of 09_press_compression.md. -/
theorem test_worked_bookings : bookedEntries 400 = 161 ∧ bookedEntries 255 = 103 ∧ bookedEntries 300 = 121 ∧ mapBlocksFor 2048 = 9 := by decide

/-- The worked page of 09_press_compression.md takes 7,943 bits: here its first tokens, zeros, a literal and a partial match. -/
theorem test_worked_tokens : (codeToken Dict.start none (List.replicate 256 0)).1.length = 6 ∧ (codeToken Dict.start none (List.replicate 256 0)).2.1 = 16 ∧
    (codeToken Dict.start none [0x12345600]).1.length = 35 ∧
    (codeToken (Dict.start.push 0x12345600) (some 0x12345600) [0x12345601]).1.length = 15 := by decide

/-- The worked read of 16_register_interface.md: SCRUB is returned and clears. -/
theorem test_worked_rc_read :
    (match exec (.rcRead .mctp Off.glbOvrSts 15) (onDev serving fun d => d.setReg Off.glbOvrSts 4) with
      | .next t => decide (t.dev.reg Off.glbOvrSts = 0) && decide (t.dev.out.head? = some (.word .mctp 4))
      | _ => false) = true := by decide

/-- The worked wrap of 14_relay_chain.md: 4,094 is lost; 4,095 and then 0 are held. -/
theorem test_worked_sequence_wrap :
    let r := ((member.dev.modRly .a fun r => { r with rxNext := 4094, reorder := [⟨4095, [], none⟩], missing := [4094] }).sequenced .a 0 [] none).rlyOf .a
    r.rxNext = 4094 ∧ r.reorder.map (·.seq) = [4095, 4096] ∧ r.missing = [4094] := by decide

/-- The same wrap: the retransmitted 4,094 delivers what was held. -/
theorem test_worked_sequence_heals :
    let r := ((member.dev.modRly .a fun r => { r with rxNext := 4094, reorder := [⟨4095, [], none⟩, ⟨4096, [], none⟩], missing := [4094] }).sequenced .a 4094 [] none).rlyOf .a
    r.rxNext % 4096 = 1 ∧ r.reorder = [] ∧ r.missing = [] := by decide

/-- The flit CRC on the nine bytes "123456789": the check value that catalogues give for this polynomial, start value and final XOR. -/
theorem test_crc64_check : crc64 [0x31, 0x32, 0x33, 0x34, 0x35, 0x36, 0x37, 0x38, 0x39] = 0x62EC59E3F1A4F00A := by decide

/-- The worked inlet of 21_power_thermal_inlet.md: the first pre-charge timeout is cause 0x01, FAILS 1, WAIT 1 s. -/
theorem test_worked_precharge_timeout :
    (match exec (.prechargeTimeout ⟨0, 0, 0, 0, 0⟩) (inletAt .prechg) with
      | .next t => decide (t.dev.can.inlet.cause = 1) && decide (t.dev.fld Fld.inlSts_fails = 1) && decide (t.dev.pwr.inlet = .wait) && decide (t.dev.fld Fld.inlWait_ms = 1000)
      | _ => false) = true := by decide

/-- From reset, with the table's rows spelling no word, nothing waits and the step idles. -/
theorem test_reset_idles : step State.reset = .next State.reset ∧ decodeTableWord 0 0 = none ∧ State.reset.withFetchWord 0 0 = State.reset := by
  exact ⟨rfl, rfl, rfl⟩

/-! ### Hypotheses that can be met -/

/-- The hypotheses of InletAttemptReachesOn can be met. -/
theorem test_meets_InletAttemptReachesOn :
  (∃ (s : State), s.dev.pwr.vaux = true ∧
    s.dev.pwr.inlet = .off ∧
    s.dev.pwr.prsntLow = false ∧
    s.dev.flag Fld.inlOverride_off = false) ∧
  (∃ (s : State) (m : InletMeas), s.dev.pwr.vaux = true ∧
    s.dev.pwr.inlet = .check ∧
    10 * m.vout ≤ m.vin ∧
    1080 ≤ m.vin) ∧
  (∃ (s : State) (m : InletMeas), s.dev.pwr.vaux = true ∧
    s.dev.pwr.inlet = .prechg ∧
    9 * m.vin < 10 * m.vout) ∧
  (∃ (s : State) (m : InletMeas), s.dev.pwr.vaux = true ∧
    s.dev.pwr.inlet = .ramp ∧
    m.vin ≤ m.vout + 15 ∧
    m.vout ≤ m.vin + 15 ∧
    800 ≤ m.gate) ∧
  (∃ (s : State), s.dev.pwr.vaux = true ∧
    s.dev.pwr.inlet = .wait ∧
    s.dev.pwr.clearDue = false ∧
    s.dev.inletOff = false) ∧
  (∃ (s : State), s.dev.pwr.vaux = true ∧
    (s.dev.pwr.inlet = .wait ∨ s.dev.pwr.inlet = .latched) ∧
    s.dev.pwr.clearDue = true ∧
    s.dev.inletOff = false) ∧
  (∃ (s : State), s.dev.pwr.vaux = true ∧
    s.dev.pwr.inlet = .on) ∧
  (∃ (s : State), s.dev.pwr.vaux = true ∧
    (s.dev.pwr.inlet = .check ∨ s.dev.pwr.inlet = .prechg ∨ s.dev.pwr.inlet = .ramp ∨ s.dev.pwr.inlet = .on)) :=
  ⟨⟨inletAt .off, by decide⟩,
   ⟨inletAt .check, ⟨1080, 108, 0, 0, 0⟩, by decide⟩,
   ⟨inletAt .prechg, ⟨1200, 1081, 0, 0, 0⟩, by decide⟩,
   ⟨inletAt .ramp, ⟨1200, 1185, 0, 800, 0⟩, by decide⟩,
   ⟨present (inletAt .wait), by decide⟩,
   ⟨withPwr (present (inletAt .latched)) fun p => { p with clearDue := true }, by decide⟩,
   ⟨inletAt .on, by decide⟩,
   ⟨inletAt .on, by decide⟩⟩

/-- The hypotheses of InletFaultsRetryOrLatch can be met. -/
theorem test_meets_InletFaultsRetryOrLatch :
  (∃ (s : State), s.dev.pwr.vaux = true ∧
    s.dev.pwr.inlet = .prechg) ∧
  (∃ (s : State), s.dev.pwr.vaux = true ∧
    s.dev.pwr.inlet = .ramp) ∧
  (∃ (s : State), s.dev.pwr.vaux = true ∧
    (s.dev.pwr.inlet = .ramp ∨ s.dev.pwr.inlet = .on)) ∧
  (∃ (s : State) (m : InletMeas), s.dev.pwr.vaux = true ∧
    (s.dev.pwr.inlet = .ramp ∨ s.dev.pwr.inlet = .on) ∧
    200 * s.dev.fld Fld.inlCfg_ilim < m.iout) ∧
  (∃ (s : State) (m : InletMeas), s.dev.pwr.vaux = true ∧
    (s.dev.pwr.inlet = .ramp ∨ s.dev.pwr.inlet = .on) ∧
    s.dev.fld Fld.inlFet_tmax ≤ s.dev.fetTemp m) ∧
  (∃ (s : State), s.dev.pwr.vaux = true ∧
    s.dev.pwr.inlet = .on ∧
    s.dev.pwr.powerGood = false) ∧
  (∃ (s : State) (m : InletMeas), s.dev.pwr.vaux = true ∧
    s.dev.pwr.inlet = .ramp ∧
    m.gate < 250) ∧
  (∃ (s : State), s.dev.pwr.vaux = true) :=
  ⟨⟨inletAt .prechg, by decide⟩,
   ⟨inletAt .ramp, by decide⟩,
   ⟨inletAt .on, by decide⟩,
   ⟨inletAt .on, ⟨1200, 1200, 25501, 0, 0⟩, by decide⟩,
   ⟨withPwr (inletAt .on) fun p => { p with modelTemp := 255 * 10 ^ 9 }, ⟨0,0,0,0,0⟩, by decide⟩,
   ⟨inletAt .on, by decide⟩,
   ⟨inletAt .ramp, ⟨0,0,0,249,0⟩, by decide⟩,
   ⟨inletAt .latched, by decide⟩⟩

/-- The hypotheses of PowerAndResetPinsStartAndStop can be met. -/
theorem test_meets_PowerAndResetPinsStartAndStop :
  (∃ (s : State), s.dev.pwr.vaux = false) ∧
  (∃ (s : State), s.dev.pwr.vaux = true) ∧
  (∃ (s : State) (r : Rail), s.dev.pwr.vaux = true ∧
    s.dev.pwr.powerGood = true ∧
    r ≠ .vaux) ∧
  (∃ (s : State), s.dev.pwr.vaux = true ∧
    s.dev.pwr.inlet = .on ∧
    s.dev.pwr.powerGood = false ∧
    s.dev.mode = .cold ∧
    s.dev.pwr.glitchReset = false ∧
    s.dev.pwr.glitchHold = false) ∧
  (∃ (s : State), s.dev.mode = .cold ∧
    s.dev.pwr.powerGood = true ∧
    s.dev.pwr.glitchReset = false ∧
    s.dev.pwr.glitchHold = false) ∧
  (∃ (s : State), s.dev.pwr.glitchReset = true ∧
    s.dev.mode = .cold ∧
    s.dev.pwr.powerGood = true ∧
    s.dev.pwr.perstALow = false ∧
    s.dev.pwr.glitchHold = false) ∧
  (∃ (s : State) (x y : Int), s.dev.pwr.vaux = true ∧
    s.dev.pwr.thermtrip = true ∧
    x < 90 ∧
    y < 90) :=
  ⟨⟨State.reset, by decide⟩,
   ⟨withPwr serving fun p => { p with powerGood := true }, by decide⟩,
   ⟨withPwr serving fun p => { p with powerGood := true }, .vdd, by decide⟩,
   ⟨inletAt .on, by decide⟩,
   ⟨withPwr (inletAt .on) fun p => { p with powerGood := true }, by decide⟩,
   ⟨withPwr (inletAt .on) fun p => { p with powerGood := true, glitchReset := true, perstALow := false }, by decide⟩,
   ⟨withPwr (inletAt .latched) fun p => { p with thermtrip := true }, 89, 89, by decide⟩⟩

/-- The hypotheses of InletClearsAndOverridesAct can be met. -/
theorem test_meets_InletClearsAndOverridesAct :
  (∃ (s : State) (src : Source) (key : Word), s.dev.canAccess src Off.inlClear = true ∧
    s.dev.pairReady src Off.inlClear 0x90 key ∧
    (s.dev.fld Fld.inlSts_cause ≠ 8 ∨ s.dev.pwr.islandTemp < 60)) ∧
  (∃ (s : State) (src : Source) (v key : Word), s.dev.canAccess src Off.inlClear = true ∧
    s.dev.pairReady src Off.inlClear v key ∧
    (v ≠ 0x90 ∨ (s.dev.fld Fld.inlSts_cause = 8 ∧ 60 ≤ s.dev.pwr.islandTemp))) ∧
  (∃ (s : State) (i : Iface) (p : Payload), s.dev.servesNow i 0xC090 ∧
    s.dev.ownPayload p 4 ∧
    leNat p 8 4 = 0xFFFFFF6F ∧
    (s.dev.fld Fld.inlSts_cause ≠ 8 ∨ s.dev.pwr.islandTemp < 60)) ∧
  (∃ (s : State) (i : Iface) (p : Payload), s.dev.servesNow i 0xC090 ∧
    s.dev.ownPayload p 4 ∧
    leNat p 8 4 = 0xFFFFFF6F ∧
    s.dev.fld Fld.inlSts_cause = 8 ∧
    60 ≤ s.dev.pwr.islandTemp) ∧
  (∃ (s : State) (i : Iface) (p : Payload), s.dev.servesNow i 0xC090 ∧
    s.dev.ownPayload p 4 ∧
    leNat p 8 4 ≠ 0xFFFFFF6F) ∧
  (∃ (s : State) (src : Source) (v key : Word), s.dev.canAccess src Off.inlOverride = true ∧
    s.dev.pairReady src Off.inlOverride v key) :=
  ⟨⟨armed (inletAt .wait) Off.inlClear 0x90, .mctp, ~~~0x90, by decide⟩,
   ⟨armed (inletAt .wait) Off.inlClear 0x91, .mctp, 0x91, ~~~0x91, by decide⟩,
   ⟨serving, .mctp, [0, 0, 0, 0, 0, 0, 0, 0, 0x6F, 0xFF, 0xFF, 0xFF], by decide⟩,
   ⟨onDev (serving) fun d => { (d.setFld Fld.inlSts_cause 8) with pwr := { d.pwr with islandTemp := 60 } }, .mctp, [0, 0, 0, 0, 0, 0, 0, 0, 0x6F, 0xFF, 0xFF, 0xFF], by decide⟩,
   ⟨serving, .mctp, [0, 0, 0, 0, 0, 0, 0, 0, 0x6E, 0xFF, 0xFF, 0xFF], by decide⟩,
   ⟨armed (inletAt .on) Off.inlOverride 1, .mctp, 1, ~~~1, by decide⟩⟩

/-- The hypotheses of PostedWritesPowerCapAndFetModel can be met. -/
theorem test_meets_PostedWritesPowerCapAndFetModel :
  (∃ (s : State) (src : Source) (off : Nat), s.dev.canAccess src off = true ∧
    accMask (·.rwp) off ≠ 0 ∧
    (s.dev.reg off).getLsbD 31 = false) ∧
  (∃ (s : State) (src : Source) (off : Nat), s.dev.canAccess src off = true ∧
    accMask (·.rwp) off ≠ 0 ∧
    (s.dev.reg off).getLsbD 31 = true) ∧
  (∃ (s : State) (src : Source) (off : Nat), (s.dev.canAccess src off = false ∨ accMask (·.rwp) off = 0)) ∧
  (∃ (s : State) (off : Nat) (v : Word), s.dev.acc.posting.find? (fun e => e.1 == off) = some (off, v) ∧
    postingOk off v = true) ∧
  (∃ (s : State) (v : Word), s.dev.acc.posting.find? (fun e => e.1 == Off.inlCfg) = some (Off.inlCfg, v) ∧
    postingOk Off.inlCfg v = false) ∧
  (∃ (s : State) (v : Word), s.dev.acc.posting.find? (fun e => e.1 == Off.pwrCap) = some (Off.pwrCap, v) ∧
    postingOk Off.pwrCap v = false) ∧
  (∃ (s : State) (off : Nat), s.dev.acc.posting.find? (fun e => e.1 == off) = none) ∧
  (∃ (s : State) (w : Nat), AtBoundary s.dev ∧
    s.dev.live = true ∧
    s.dev.pwr.capNext ≤ s.dev.now ∧
    s.dev.flag Fld.pwrCap_en = true ∧
    s.dev.flag Fld.pwrSts_capped = false ∧
    s.dev.fld Fld.pwrCap_cap * 10 < w) ∧
  (∃ (s : State) (w : Nat), AtBoundary s.dev ∧
    s.dev.live = true ∧
    s.dev.pwr.capNext ≤ s.dev.now ∧
    s.dev.flag Fld.pwrCap_en = true ∧
    s.dev.flag Fld.pwrSts_capped = false ∧
    w ≤ s.dev.fld Fld.pwrCap_cap * 10) ∧
  (∃ (s : State), AtBoundary s.dev ∧
    s.dev.live = true ∧
    s.dev.pwr.capNext ≤ s.dev.now ∧
    s.dev.flag Fld.pwrCap_en = true ∧
    s.dev.flag Fld.pwrSts_capped = true) ∧
  (∃ (s : State), AtBoundary s.dev ∧
    s.dev.live = true ∧
    s.dev.pwr.capNext ≤ s.dev.now ∧
    s.dev.flag Fld.pwrCap_en = false) ∧
  (∃ (s : State), AtBoundary s.dev ∧
    (s.dev.live = false ∨ s.dev.now < s.dev.pwr.capNext)) ∧
  (∃ (s : State) (p : Nat), AtBoundary s.dev ∧
    s.dev.live = true ∧
    s.dev.flag Fld.pwrSts_capped = true ∧
    s.dev.pwr.capBelow = some p ∧
    p + 65536 ≤ s.dev.now) ∧
  (∃ (s : State), AtBoundary s.dev ∧
    (s.dev.live = false ∨ s.dev.flag Fld.pwrSts_capped = false ∨ ∀ p ∈ s.dev.pwr.capBelow.toList, s.dev.now < p + 65536)) ∧
  (∃ (s : State), s.dev.pwr.vaux = true ∧
    s.dev.fld Fld.inlFet_tau ≠ 0) ∧
  (∃ (s : State), s.dev.pwr.vaux = true ∧
    s.dev.fld Fld.inlFet_tau = 0) ∧
  (∃ (s : State), s.dev.pwr.vaux = false) :=
  ⟨⟨inletAt .on, .mctp, Off.inlCfg, by decide⟩,
   ⟨onDev (inletAt .on) fun d => d.setReg Off.inlCfg 0x80000000, .mctp, Off.inlCfg, by decide⟩,
   ⟨State.reset, .mctp, Off.inlCfg, by decide⟩,
   ⟨onDev (inletAt .on) fun d => { d with acc := { d.acc with posting := [(Off.inlCfg, 0x010A0100)] } }, Off.inlCfg, 0x010A0100, by decide⟩,
   ⟨onDev (inletAt .on) fun d => { d with acc := { d.acc with posting := [(Off.inlCfg, 0x01090100)] } }, 0x01090100, by decide⟩,
   ⟨onDev (inletAt .on) fun d => { d with acc := { d.acc with posting := [(Off.pwrCap, 0x40000063)] } }, 0x40000063, by decide⟩,
   ⟨serving, Off.pwrCap, by decide⟩,
   ⟨onDev serving fun d => { ((d.setFld Fld.pwrCap_cap 4095).setFlag Fld.pwrCap_en true).setFlag Fld.pwrSts_capped false with pwr := { d.pwr with capBelow := none } }, 40951, by decide⟩,
   ⟨onDev serving fun d => { ((d.setFld Fld.pwrCap_cap 4095).setFlag Fld.pwrCap_en true).setFlag Fld.pwrSts_capped false with pwr := { d.pwr with capBelow := none } }, 40950, by decide⟩,
   ⟨onDev serving fun d => { ((d.setFld Fld.pwrCap_cap 4095).setFlag Fld.pwrCap_en true).setFlag Fld.pwrSts_capped true with pwr := { d.pwr with capBelow := none } }, by decide⟩,
   ⟨onDev serving fun d => { ((d.setFld Fld.pwrCap_cap 4095).setFlag Fld.pwrCap_en false).setFlag Fld.pwrSts_capped true with pwr := { d.pwr with capBelow := none } }, by decide⟩,
   ⟨withPwr serving fun p => { p with capNext := 2 }, by decide⟩,
   ⟨onDev serving fun d => { d.setFlag Fld.pwrSts_capped true with pwr := { d.pwr with capBelow := some 0 }, clk := ⟨true, 65536, 0⟩ }, 0, by decide⟩,
   ⟨serving, by decide⟩,
   ⟨inletAt .on, by decide⟩,
   ⟨onDev (inletAt .on) fun d => d.setFld Fld.inlFet_tau 0, by decide⟩,
   ⟨State.reset, by decide⟩⟩

/-- The hypotheses of StartUpSequenceReachesAwait can be met. -/
theorem test_meets_StartUpSequenceReachesAwait :
  (∃ (s : State), s.dev.mode = .fill ∧
    s.dev.clk.running = false) ∧
  (∃ (s : State), InStep s.dev .fill ∧
    s.dev.clk.running = true ∧
    s.dev.due.tsvDone = false) ∧
  (∃ (s : State), s.dev.due.tsvDone = true) ∧
  (∃ (s : State), AtBoundary s.dev ∧
    s.dev.due.tsvDone = false) ∧
  (∃ (s : State), AtBoundary s.dev ∧
    InStep s.dev .fill ∧
    s.dev.clk.running = true ∧
    s.dev.due.tsvDone = true) ∧
  (∃ (s : State) (sigA sigB : Option Nat), AtBoundary s.dev ∧
    InStep s.dev .boot ∧
    s.dev.verifyStep (s.dev.slotBytes s.dev.can.bootSlot) (if s.dev.can.bootSlot = 0 then sigA else sigB) = none) ∧
  (∃ (s : State) (sigA sigB : Option Nat), AtBoundary s.dev ∧
    InStep s.dev .boot ∧
    s.dev.verifyStep (s.dev.slotBytes s.dev.can.bootSlot) (if s.dev.can.bootSlot = 0 then sigA else sigB) ≠ none ∧
    s.dev.verifyStep (s.dev.slotBytes (if s.dev.can.bootSlot = 0 then 1 else 0)) (if s.dev.can.bootSlot = 0 then sigB else sigA) = none) ∧
  (∃ (s : State) (sigA sigB : Option Nat), AtBoundary s.dev ∧
    InStep s.dev .boot ∧
    s.dev.verifyStep (s.dev.slotBytes 0) sigA ≠ none ∧
    s.dev.verifyStep (s.dev.slotBytes 1) sigB ≠ none) ∧
  (∃ (s : State), AtBoundary s.dev ∧
    InStep s.dev .train) ∧
  (∃ (s : State), AtBoundary s.dev ∧
    (∀ q ∈ s.dev.due.modeAt.toList, q < s.dev.now) ∧
    InStep s.dev .await ∧
    s.dev.triggered = true) ∧
  (∃ (s : State) (p : Nat), AtBoundary s.dev ∧
    s.dev.thm.hold = true ∧
    s.dev.thm.wakeCool = some p ∧
    p + 65536 ≤ s.dev.now) :=
  ⟨⟨inMode .fill, by decide⟩,
   ⟨onDev (inMode .fill) fun d => { d with clk := ⟨true, 5, 3⟩ }, by decide⟩,
   ⟨withDue (onDev (inMode .fill) fun d => { d with clk := ⟨true, 5, 0⟩ }) fun x => { x with tsvDone := true }, by decide⟩,
   ⟨onDev (inMode .fill) fun d => { d with clk := ⟨true, 5, 0⟩ }, by decide⟩,
   ⟨withDue (onDev (inMode .fill) fun d => { d with clk := ⟨true, 5, 0⟩ }) fun x => { x with tsvDone := true }, by decide⟩,
   ⟨onDev (inMode .boot) fun d => { d with can := { d.can with slots := Vector.replicate 2 ⟨imageHeader, true⟩ } }, none, none, by decide⟩,
   ⟨onDev (inMode .boot) fun d => { d with can := { d.can with slots := #v[⟨[], true⟩, ⟨imageHeader, true⟩] } }, none, none, by decide⟩,
   ⟨inMode .boot, none, none, by decide⟩,
   ⟨inMode .train, by decide⟩,
   ⟨onDev serving fun d => { (d.modLd .a 0 fun l => { l with dec := vmod l.dec 0 fun _ => some ⟨⟨0, 2 ^ 28, 0, 1, 256, false, false, 0⟩, none⟩ }) with mode := .await }, by decide⟩,
   ⟨onDev (inMode .boot) fun d => { d with clk := ⟨true, 65537, 0⟩, thm := { d.thm with hold := true, wakeCool := some 1 } }, 1, by decide⟩⟩

/-- The hypotheses of ModeRequestsDrainAndReturn can be met. -/
theorem test_meets_ModeRequestsDrainAndReturn :
  (∃ (s : State) (flush : Bool), AtBoundary s.dev ∧
    DrainAsked s.dev 1 flush) ∧
  (∃ (s : State) (flush : Bool), AtBoundary s.dev ∧
    DrainAsked s.dev 2 flush) ∧
  (∃ (s : State) (flush : Bool), AtBoundary s.dev ∧
    DrainAsked s.dev 3 flush) ∧
  (∃ (s : State) (flush : Bool), AtBoundary s.dev ∧
    DrainAsked s.dev 5 flush) ∧
  (∃ (s : State), AtBoundary s.dev ∧
    s.dev.due.drainAt < s.dev.now ∧
    s.dev.mode = .drain ∧
    s.dev.ras.haltAt = none ∧
    s.dev.due.drainStep = 1 ∧
    (∀ x ∈ s.dev.txns, x.phase = .modeHeld)) ∧
  (∃ (s : State), s.dev.mode = .drain ∧
    s.dev.ras.haltAt = none ∧
    s.dev.due.drainStep = 2) ∧
  (∃ (s : State), AtBoundary s.dev ∧
    s.dev.due.drainAt < s.dev.now ∧
    s.dev.mode = .drain ∧
    s.dev.ras.haltAt = none ∧
    s.dev.due.drainStep = 3) ∧
  (∃ (s : State), AtBoundary s.dev ∧
    s.dev.due.drainAt < s.dev.now ∧
    s.dev.mode = .drain ∧
    s.dev.ras.haltAt = none ∧
    s.dev.due.drainStep = 4) ∧
  (∃ (s : State) (flush : Bool), AtBoundary s.dev ∧
    s.dev.mode = .hibernate ∧
    s.dev.ras.haltAt = none ∧
    s.dev.due.target = some (4, flush) ∧
    s.dev.fld Fld.glbModeSts_drainDest = 3) ∧
  (∃ (s : State) (p : Nat), AtBoundary s.dev ∧
    s.dev.mode = .hibernate ∧
    s.dev.ras.haltAt = none ∧
    s.dev.fld Fld.glbModeSts_drainDest = 4 ∧
    s.dev.thm.wakeCool = some p ∧
    p + 65536 ≤ s.dev.now) ∧
  (∃ (s : State) (w : Nat), AtBoundary s.dev ∧
    s.dev.mode = .hibernate ∧
    s.dev.ras.haltAt = none ∧
    s.dev.due.wakeAt = some w ∧
    w + 196 ≤ s.dev.now ∧
    s.dev.due.returnMode ∈ ([.await, .serve, .degraded, .drowse, .maint] : List Mode)) ∧
  (∃ (s : State) (flush : Bool), AtBoundary s.dev ∧
    s.dev.mode = .maint ∧
    s.dev.ras.haltAt = none ∧
    s.dev.due.target = some (6, flush) ∧
    s.dev.flag Fld.rasBistSts_coldReq = false ∧
    s.dev.advancing = false) ∧
  (∃ (s : State), AtBoundary s.dev ∧
    (s.dev.flag Fld.rasBistSts_coldReq = true ∨ s.dev.advancing = true)) :=
  ⟨⟨withDue (serving) fun x => { x with target := some (1, true) }, true, by decide⟩,
   ⟨withDue (inMode .await) fun x => { x with target := some (2, false) }, false, by decide⟩,
   ⟨withDue (inMode .drowse) fun x => { x with target := some (3, false) }, false, by decide⟩,
   ⟨withDue (inMode .degraded) fun x => { x with target := some (5, true) }, true, by decide⟩,
   ⟨withDue (inMode .drain) fun x => { x with drainStep := 1 }, by decide⟩,
   ⟨(withDue (inMode .drain) fun x => { x with drainStep := 2 }), by decide⟩,
   ⟨withDue (inMode .drain) fun x => { x with drainStep := 3 }, by decide⟩,
   ⟨withDue (onDev (inMode .drain) fun d => { d.setFld Fld.glbModeSts_drainDest 2 with pwr := { d.pwr with powerGood := true } }) fun x => { x with drainStep := 4 }, by decide⟩,
   ⟨withDue (onDev (inMode .hibernate) fun d => d.setFld Fld.glbModeSts_drainDest 3) fun x => { x with target := some (4, false) }, false, by decide⟩,
   ⟨onDev (inMode .hibernate) fun d => { d.setFld Fld.glbModeSts_drainDest 4 with clk := ⟨true, 65536, 0⟩, thm := { d.thm with wakeCool := some 0 } }, 0, by decide⟩,
   ⟨withDue (onDev (inMode .hibernate) fun d => { d with clk := ⟨true, 196, 0⟩ }) fun x => { x with wakeAt := some 0, returnMode := .drowse }, 0, by decide⟩,
   ⟨withDue (inMode .maint) fun x => { x with target := some (6, false) }, false, by decide⟩,
   ⟨onDev (inMode .maint) fun d => { d with sec := { d.sec with keygen := true } }, by decide⟩⟩

/-- The hypotheses of DrowseAndDegradedFollowTheUnits can be met. -/
theorem test_meets_DrowseAndDegradedFollowTheUnits :
  (∃ (s : State) (ch : FarCh), AtBoundary s.dev ∧
    (s.dev.mode = .serve ∨ s.dev.mode = .drowse) ∧
    s.dev.ras.haltAt = none ∧
    s.dev.degrading = false ∧
    s.dev.maySleep ch.val = true) ∧
  (∃ (s : State) (ch : FarCh), AtBoundary s.dev ∧
    (s.dev.degrading = true ∨ s.dev.maySleep ch.val = false)) ∧
  (∃ (s : State) (ch : FarCh), AtBoundary s.dev ∧
    Live s.dev ∧
    s.dev.mode ≠ .hibernate ∧
    s.dev.fld (Fld.farChSts_state ch.val) = 3 ∧
    (s.dev.fch ch.val).wakeBy.isSome = true) ∧
  (∃ (s : State), AtBoundary s.dev ∧
    s.dev.mode = .degraded ∧
    s.dev.ras.haltAt = none ∧
    s.dev.unitLost = false) ∧
  (∃ (s : State) (ch : FarCh), s.dev.farAwake ch.val = true) :=
  ⟨⟨onDev serving fun d => ((d.setFld (Fld.farChSts_state 7) 2).setFlag Fld.glbDrowseCtl_en true).setFld Fld.glbDrowseCtl_idle 1, 7, by decide⟩,
   ⟨serving, 7, by decide⟩,
   ⟨onDev (inMode .drowse) fun d => ((d.setFld (Fld.farChSts_state 7) 3).setFld Fld.glbModeSts_sleepCh 0x80).modFch 7 fun f => { f with wakeBy := some 0 }, 7, by decide⟩,
   ⟨onDev (inMode .degraded) fun d => (List.range 31).foldl (fun d k => d.setFlag (Fld.crmLmap_v k) true) d, by decide⟩,
   ⟨onDev serving fun d => (d.setFld (Fld.farChSts_state 7) 2).setFlag (Fld.farChSts_inSet 7) true, 7, by decide⟩⟩

/-- The hypotheses of HaltZeroisesAndRecords can be met. -/
theorem test_meets_HaltZeroisesAndRecords :
  (∃ (s : State), s.dev.mode.mayHalt = true ∧
    s.dev.ras.haltAt = none) ∧
  (∃ (s : State), s.dev.mode ≠ .cold ∧
    s.dev.mode ≠ .fill ∧
    s.dev.ras.haltAt.isSome = true ∧
    s.dev.haltNow = false) ∧
  (∃ (s : State) (code : Nat), s.dev.mode.mayHalt = true ∧
    s.dev.ras.haltAt = some (s.dev.stamp, code)) ∧
  (∃ (s : State), (s.dev.mode = .cold ∨ s.dev.mode = .fill) ∧
    s.dev.ras.haltAt = none) ∧
  (∃ (s : State), Live s.dev ∧
    s.dev.mode.mayHalt = true) ∧
  (∃ (s : State), Live s.dev) ∧
  (∃ (s : State), s.dev.testOpen = false) ∧
  (∃ (s : State), s.dev.testOpen = true ∧
    s.dev.mode.mayHalt = true ∧
    s.dev.ras.haltAt = none ∧
    s.dev.flag Fld.glbLcSts_jtagOpen = false) ∧
  (∃ (s : State) (t : Stamp) (code : Nat), AtBoundary s.dev ∧
    s.dev.mode.mayHalt = true ∧
    s.dev.ras.haltAt = some (t, code) ∧
    t.pour < s.dev.now) ∧
  (∃ (s : State) (t : Stamp) (code : Nat), s.dev.mode = .halt ∧
    s.dev.ras.haltAt = some (t, code) ∧
    s.dev.pwr.vaux = true) :=
  ⟨⟨serving, by decide⟩,
   ⟨onDev serving fun d => { d with ras := { d.ras with haltAt := some (⟨0, 9⟩, 6) } }, by decide⟩,
   ⟨onDev serving fun d => { d with ras := { d.ras with haltAt := some (⟨1, 0⟩, 6) } }, 6, by decide⟩,
   ⟨inMode .fill, by decide⟩,
   ⟨serving, by decide⟩,
   ⟨serving, by decide⟩,
   ⟨serving, by decide⟩,
   ⟨onDev serving fun d => { d with fuses := { d.fuses with lc := 0x0000F } }, by decide⟩,
   ⟨onDev serving fun d => { d with ras := { d.ras with haltAt := some (⟨0, 9⟩, 6) } }, ⟨0, 9⟩, 6, by decide⟩,
   ⟨onDev (inMode .halt) fun d => { d with pwr := { d.pwr with vaux := true}, ras := { d.ras with haltAt := some (⟨1, 0⟩, 6) } }, ⟨1, 0⟩, 6, by decide⟩⟩

/-- The hypotheses of ReadsReturnAndClear can be met. -/
theorem test_meets_ReadsReturnAndClear :
  (∃ (s : State) (src : Source) (off : Nat), s.dev.canAccess src off = true ∧
    PlainRead off) ∧
  (∃ (s : State) (src : Source) (off : Nat), s.dev.canAccess src off = false) ∧
  (∃ (s : State) (src : Source), s.dev.canAccess src Off.glbPourLo = true) ∧
  (∃ (s : State) (src : Source), s.dev.canAccess src Off.cryMajorNextLo = true) ∧
  (∃ (s : State) (src : Source), s.dev.canAccess src Off.stgCommitPourLo = true) ∧
  (∃ (s : State) (src : Source) (a : Word), s.dev.canAccess src Off.indData = true ∧
    s.dev.indAddrOf src = a ∧
    a.getLsbD 30 = false ∧
    PlainRead (indOffset a)) ∧
  (∃ (s : State) (src : Source) (a : Word), s.dev.canAccess src Off.indData = true ∧
    s.dev.indAddrOf src = a ∧
    PlainWrite (indOffset a)) ∧
  (∃ (s : State) (count off : Nat), s.dev.pwr.vaux = true ∧
    s.dev.mgmtRefusal count off false = none) ∧
  (∃ (s : State) (count off st : Nat), s.dev.pwr.vaux = true ∧
    s.dev.mgmtRefusal count off false = some st) ∧
  (∃ (s : State), s.dev.pwr.vaux = true ∧
    s.dev.alertN = true) ∧
  (∃ (s : State), s.dev.pwr.vaux = true) :=
  ⟨⟨onDev serving fun d => d.setFld Fld.glbAccSts_reloads 77, .barista, Off.glbAccSts, by decide⟩,
   ⟨State.reset, .portA, 0, by decide⟩,
   ⟨onDev serving fun d => { d with clk := ⟨true, 0x1234567890, 77⟩ }, .barista, by decide⟩,
   ⟨onDev serving fun d => { d with cry := { d.cry with majorNext := 0x1234567890 } }, .barista, by decide⟩,
   ⟨onDev serving fun d => { d with stg := { d.stg with commitPour := 0x1234567890 } }, .barista, by decide⟩,
   ⟨onDev serving fun d => d.setInd .barista 0x80000044, .barista, 0x80000044, by decide⟩,
   ⟨onDev serving fun d => d.setInd .barista (0x80000000 + BitVec.ofNat 32 Off.rasAlertEn), .barista, (0x80000000 + BitVec.ofNat 32 Off.rasAlertEn), by decide⟩,
   ⟨serving, 3, 0x310000, by decide⟩,
   ⟨serving, 17, 0, 3, by decide⟩,
   ⟨onDev serving fun d => d.alert 2, by decide⟩,
   ⟨serving, by decide⟩⟩

/-- The hypotheses of WritesFollowTheAccessCodes can be met. -/
theorem test_meets_WritesFollowTheAccessCodes :
  (∃ (s : State) (src : Source) (off : Nat), s.dev.canAccess src off = true ∧
    PlainWrite off) ∧
  (∃ (s : State) (src : Source) (off : Nat) (be : BitVec 4), s.dev.canAccess src off = true ∧
    be ≠ 15) ∧
  (∃ (s : State) (src : Source) (i : Iface) (off : Nat), s.dev.canAccess src off = true ∧
    isStaged off = true ∧
    sourceIface src = some i ∧
    s.dev.mayStage i = true ∧
    s.dev.stg.checking = none) ∧
  (∃ (s : State) (src : Source) (i : Iface) (off : Nat), s.dev.canAccess src off = true ∧
    isStaged off = true ∧
    sourceIface src = some i ∧
    s.dev.mayStage i = false) ∧
  (∃ (s : State) (src : Source) (i : Iface) (off : Nat), s.dev.canAccess src off = true ∧
    isStaged off = true ∧
    sourceIface src = some i ∧
    s.dev.mayStage i = true ∧
    s.dev.stg.checking.isSome = true) ∧
  (∃ (s : State) (src : Source) (off : Nat), s.dev.canAccess src off = true ∧
    off % 4 = 0 ∧
    keyedOffsets.contains off = true) ∧
  (∃ (s : State) (src : Source), s.dev.canAccess src Off.snapCtl = true) ∧
  (∃ (s : State) (count off : Nat), s.dev.pwr.vaux = true ∧
    s.dev.mgmtRefusal count off true = none) ∧
  (∃ (s : State) (count off st : Nat), s.dev.pwr.vaux = true ∧
    s.dev.mgmtRefusal count off true = some st) ∧
  (∃ (s : State) (src : Source) (off : Nat), s.dev.canAccess src off = true ∧
    keyedOffsets.contains off = true) ∧
  (∃ (s : State) (src : Source) (a : Armed), s.dev.armedBy src = some a ∧
    256 < a.at_.cyclesTo s.dev.stamp) :=
  ⟨⟨serving, .barista, Off.rasAlertEn, by decide⟩,
   ⟨serving, .barista, Off.rasAlertEn, 7, by decide⟩,
   ⟨serving, .mctp, .mctp, Off.cohCtl, by decide⟩,
   ⟨onDev serving fun d => { d with stg := { d.stg with owner := some .portA } }, .mctp, .mctp, Off.cohCtl, by decide⟩,
   ⟨onDev serving fun d => { d with stg := { d.stg with owner := some .mctp, checking := some .mctp } }, .mctp, .mctp, Off.cohCtl, by decide⟩,
   ⟨serving, .mctp, Off.inlClear, by decide⟩,
   ⟨serving, .mctp, by decide⟩,
   ⟨serving, 1, Off.rasAlertEn, by decide⟩,
   ⟨serving, 1, 2, 3, by decide⟩,
   ⟨serving, .mctp, Off.inlClear, by decide⟩,
   ⟨onDev (armed serving Off.glbSealCtl 5) fun d => { d with clk := ⟨true, 1, 257⟩ }, .mctp, ⟨Off.glbSealCtl, 5, ⟨1, 0⟩⟩, by decide⟩⟩

/-- The hypotheses of PmuControlsActAtTheBoundary can be met. -/
theorem test_meets_PmuControlsActAtTheBoundary :
  (∃ (s : State), s.dev.mode ≠ .cold) ∧
  (∃ (s : State), s.dev.live = false ∧
    s.dev.clk.running = true ∧
    s.dev.acc.snapReq = false) :=
  ⟨⟨serving, by decide⟩,
   ⟨onDev (inMode .halt) fun d => { d.setFlag Fld.pmuCtl_freeze true with pmu := { d.pmu with clrGen := true, clrOvf := true, selDirty := NatSet.add [] 5, histDirty := 8 } }, by decide⟩⟩

/-- The hypotheses of SealFollowsItsPairsAndScans can be met. -/
theorem test_meets_SealFollowsItsPairsAndScans :
  (∃ (s : State) (src : Source) (v key : Word), s.dev.canAccess src Off.glbSealCtl = true ∧
    s.dev.pairReady src Off.glbSealCtl v key ∧
    fieldOf v 0 2 = 0) ∧
  (∃ (s : State) (src : Source) (v key : Word), s.dev.canAccess src Off.glbSealCtl = true ∧
    s.dev.pairReady src Off.glbSealCtl v key ∧
    fieldOf v 0 2 = 1) ∧
  (∃ (s : State) (src : Source) (v key : Word), s.dev.canAccess src Off.glbSealCtl = true ∧
    s.dev.pairReady src Off.glbSealCtl v key ∧
    fieldOf v 0 2 = 2) ∧
  (∃ (s : State) (src : Source), s.dev.canAccess src Off.sealCommit = true) ∧
  (∃ (s : State) (w : Word), s.dev.live = true ∧
    s.dev.ras.sealScan = some (w, true) ∧
    s.dev.flag Fld.glbSealSts_refscan = true) ∧
  (∃ (s : State), AtBoundary s.dev ∧
    s.dev.live = true ∧
    s.dev.flag Fld.glbSealSts_sealed = true ∧
    s.dev.ras.sealScan = none ∧
    s.dev.now % 4096 = 0) ∧
  (∃ (s : State) (w : Word), s.dev.live = true ∧
    s.dev.mode.mayHalt = true ∧
    s.dev.ras.sealScan = some (w, false)) :=
  ⟨⟨onDev (serving) fun d => d.arm .mctp Off.glbSealCtl 4, .mctp, 4, ~~~4, by decide⟩,
   ⟨onDev (serving) fun d => d.arm .mctp Off.glbSealCtl 1, .mctp, 1, ~~~1, by decide⟩,
   ⟨onDev (serving) fun d => d.arm .mctp Off.glbSealCtl 2, .mctp, 2, ~~~2, by decide⟩,
   ⟨serving, .mctp, by decide⟩,
   ⟨onDev serving fun d => { d.setFlag Fld.glbSealSts_refscan true with ras := { d.ras with sealScan := some (0, true) } }, 0, by decide⟩,
   ⟨onDev serving fun d => { d.setFlag Fld.glbSealSts_sealed true with clk := ⟨true, 4096, 0⟩ }, by decide⟩,
   ⟨onDev serving fun d => { d with ras := { d.ras with sealScan := some (0, false) } }, 0, by decide⟩⟩

/-- The hypotheses of LifecycleAndRepairFusesBurn can be met. -/
theorem test_meets_LifecycleAndRepairFusesBurn :
  (∃ (s : State) (src : Source) (v key : Word) (t : Lifecycle), s.dev.canAccess src Off.glbLcAdv = true ∧
    s.dev.pairReady src Off.glbLcAdv v key ∧
    Lifecycle.ofCode (fieldOf v 0 3) = some t ∧
    s.dev.mode = .maint ∧
    s.dev.ras.haltAt = none ∧
    lcEdge s.dev.lifecycle t = true ∧
    s.dev.advancing = false ∧
    s.dev.lcCondition t = true) ∧
  (∃ (s : State) (src : Source) (v key : Word), s.dev.canAccess src Off.glbLcAdv = true ∧
    s.dev.pairReady src Off.glbLcAdv v key ∧
    (s.dev.mode ≠ .maint ∨ s.dev.ras.haltAt.isSome = true ∨ s.dev.advancing = true ∨
      ∀ t ∈ (Lifecycle.ofCode (fieldOf v 0 3)).toList, lcEdge s.dev.lifecycle t = false ∨ s.dev.lcCondition t = false)) ∧
  (∃ (s : State) (t : Lifecycle), s.dev.sec.burn = some t ∧
    s.dev.mode = .maint ∧
    s.dev.ras.haltAt = none ∧
    lcEdge s.dev.lifecycle t = true) ∧
  (∃ (s : State), s.dev.sec.keygen = true ∧
    s.dev.mode = .maint ∧
    s.dev.ras.haltAt = none) ∧
  (∃ (s : State) (src : Source) (v key : Word) (l : BitVec 64), s.dev.canAccess src Off.rasFuseLo = true ∧
    s.dev.pairReady src Off.rasFuseLo v key ∧
    l = BitVec.ofNat 64 (v.toNat + (s.dev.reg Off.rasFuseHi).toNat * 2 ^ 32) ∧
    s.dev.testOpen = true ∧
    s.dev.fuseRefusal l = none) ∧
  (∃ (s : State) (src : Source) (v key : Word), s.dev.canAccess src Off.rasFuseLo = true ∧
    s.dev.pairReady src Off.rasFuseLo v key ∧
    (s.dev.testOpen = false ∨ (s.dev.fuseRefusal (BitVec.ofNat 64 (v.toNat + (s.dev.reg Off.rasFuseHi).toNat * 2 ^ 32))).isSome = true)) ∧
  (∃ (s : State) (l : BitVec 64) (x : Option Iface), s.dev.sec.fuseBurn = some (l, x)) :=
  ⟨⟨onDev (inMode .maint) fun d => d.arm .mctp Off.glbLcAdv 5, .mctp, 5, ~~~5, .scrapped, by decide⟩,
   ⟨onDev (serving) fun d => d.arm .mctp Off.glbLcAdv 5, .mctp, 5, ~~~5, by decide⟩,
   ⟨onDev (onDev (inMode .maint) fun d => { d with fuses := { d.fuses with lc := 15 } }) fun d => { d with sec := { d.sec with burn := some .provisioned } }, .provisioned, by decide⟩,
   ⟨onDev (inMode .maint) fun d => { d with sec := { d.sec with keygen := true } }, by decide⟩,
   ⟨onDev (onDev (onDev (inMode .maint) fun d => { d with fuses := { d.fuses with lc := 15 } }) fun d => { d.setReg Off.rasFuseHi 0x60000000 with issued := NatSet.add [] 0x6000000000000005 }) fun d => d.arm .mctp Off.rasFuseLo 5, .mctp, 5, ~~~5, 0x6000000000000005, by decide⟩,
   ⟨onDev (serving) fun d => d.arm .mctp Off.rasFuseLo 5, .mctp, 5, ~~~5, by decide⟩,
   ⟨onDev serving fun d => { d with sec := { d.sec with fuseBurn := some (5, none) } }, 5, none, by decide⟩⟩

/-- The hypotheses of CanisterStoresLoadsAndErases can be met. -/
theorem test_meets_CanisterStoresLoadsAndErases :
  (∃ (s : State) (i : Iface) (p : Payload), s.dev.takesNow i 0xC050 ∧
    s.dev.ownPayload p 0 ∧
    s.dev.can.storing = none) ∧
  (∃ (s : State) (i : Iface) (p : Payload), s.dev.takesNow i 0xC050 ∧
    s.dev.ownPayload p 0 ∧
    s.dev.can.storing.isSome = true) ∧
  (∃ (s : State) (i : Iface), s.dev.can.storing = some (i, none)) ∧
  (∃ (s : State) (c : Copy) (i : Iface) (p : Payload), s.dev.takesNow i 0xC051 ∧
    s.dev.ownPayload p 0 ∧
    s.dev.mayStage i = true ∧
    s.dev.stg.checking = none ∧
    s.dev.newestCopy = some c) ∧
  (∃ (s : State) (i : Iface) (p : Payload), s.dev.takesNow i 0xC051 ∧
    s.dev.ownPayload p 0 ∧
    s.dev.mayStage i = true ∧
    s.dev.stg.checking = none ∧
    s.dev.newestCopy = none) ∧
  (∃ (s : State) (src : Source) (v key : Word), s.dev.canAccess src Off.canErase = true ∧
    s.dev.pairReady src Off.canErase v key ∧
    s.dev.can.storing = none) ∧
  (∃ (s : State) (i : Iface) (p : Payload), s.dev.takesNow i 0xC052 ∧
    s.dev.ownPayload p 5 ∧
    byteAt (p.drop 8) 0 < 4 ∧
    s.dev.can.storing = none ∧
    leNat (p.drop 8) 1 4 = 2 ^ 32 - 1 - byteAt (p.drop 8) 0) ∧
  (∃ (s : State) (src : Source) (v key : Word), s.dev.canAccess src Off.canErase = true ∧
    s.dev.pairReady src Off.canErase v key ∧
    s.dev.can.storing.isSome = true) ∧
  (∃ (s : State) (i : Iface) (p : Payload), s.dev.takesNow i 0xC052 ∧
    s.dev.ownPayload p 5 ∧
    byteAt (p.drop 8) 0 < 4 ∧
    s.dev.can.storing.isSome = true) ∧
  (∃ (s : State) (i : Iface) (p : Payload), s.dev.takesNow i 0xC052 ∧
    s.dev.ownPayload p 5 ∧
    (4 ≤ byteAt (p.drop 8) 0 ∨ s.dev.can.storing = none) ∧
    leNat (p.drop 8) 1 4 ≠ 2 ^ 32 - 1 - byteAt (p.drop 8) 0) ∧
  (∃ (s : State) (i : Iface) (area : Nat), s.dev.can.storing = some (i, some area)) :=
  ⟨⟨serving, .mctp, [0, 0, 0, 0, 0, 0, 0, 0], by decide⟩,
   ⟨onDev serving fun d => { d with can := { d.can with storing := some (.portA, none) } }, .mctp, [0, 0, 0, 0, 0, 0, 0, 0], by decide⟩,
   ⟨onDev serving fun d => { d with can := { d.can with storing := some (.mctp, none), copies := vmod d.can.copies 0 fun _ => some ⟨1, [], 0, 0, [], [], false⟩ } }, .mctp, by decide⟩,
   ⟨stored, ⟨1, [(Off.cohCtl, 5)], 2, 8, [], [], true⟩, .mctp, [0, 0, 0, 0, 0, 0, 0, 0], by decide⟩,
   ⟨serving, .mctp, [0, 0, 0, 0, 0, 0, 0, 0], by decide⟩,
   ⟨onDev (serving) fun d => d.arm .mctp Off.canErase 3, .mctp, 3, ~~~3, by decide⟩,
   ⟨serving, .mctp, [0, 0, 0, 0, 0, 0, 0, 0, 3, 252, 255, 255, 255], by decide⟩,
   ⟨onDev (onDev serving fun d => { d with can := { d.can with storing := some (.portA, none) } }) fun d => d.arm .mctp Off.canErase 3, .mctp, 3, ~~~3, by decide⟩,
   ⟨onDev serving fun d => { d with can := { d.can with storing := some (.portA, none) } }, .mctp, [0, 0, 0, 0, 0, 0, 0, 0, 3, 252, 255, 255, 255], by decide⟩,
   ⟨serving, .mctp, [0, 0, 0, 0, 0, 0, 0, 0, 3, 253, 255, 255, 255], by decide⟩,
   ⟨onDev stored fun d => { d with can := { d.can with logCount := 77, storing := some (.mctp, some 3) } }, .mctp, 3, by decide⟩⟩

/-- The hypotheses of RepairsTakeEffect can be met. -/
theorem test_meets_RepairsTakeEffect :
  (∃ (s : State) (i : Iface) (p : Payload), s.dev.takesNow i 0xC041 ∧
    s.dev.ownPayload p 8 ∧
    s.dev.softRefusal (locAt (p.drop 8)) = none) ∧
  (∃ (s : State) (rc : Nat) (i : Iface) (p : Payload), s.dev.takesNow i 0xC041 ∧
    s.dev.ownPayload p 8 ∧
    s.dev.softRefusal (locAt (p.drop 8)) = some rc) ∧
  (∃ (s : State) (i : Iface) (p : Payload), s.dev.takesNow i 0xC042 ∧
    s.dev.ownPayload p 12 ∧
    s.dev.fuseRefusal (locAt (p.drop 8)) = none ∧
    leNat (p.drop 8) 8 4 = 2 ^ 32 - 1 - leNat (p.drop 8) 0 4) ∧
  (∃ (s : State) (l : BitVec 64), AtBoundary s.dev ∧
    s.dev.live = true ∧
    s.dev.crm.unitPending.find? (fun l => locKind l == 1 && s.dev.crmRole (locChan l) != 3) = some l) ∧
  (∃ (s : State) (ch : FarCh) (l : BitVec 64) (rest : List (BitVec 64)), AtBoundary s.dev ∧
    s.dev.live = true ∧
    (s.dev.fch ch.val).pprWait = l :: rest ∧
    (s.dev.fch ch.val).ppr = none ∧
    s.dev.fld (Fld.farChSts_state ch.val) = 2 ∧
    s.dev.rowLines ch.val ≤ s.dev.sharedFree) ∧
  (∃ (s : State) (ch : FarCh), AtBoundary s.dev ∧
    s.dev.sharedFree < s.dev.rowLines ch.val) ∧
  (∃ (s : State) (ch : FarCh) (l : BitVec 64) (q : Nat), AtBoundary s.dev ∧
    s.dev.live = true ∧
    (s.dev.fch ch.val).ppr = some (l, q, false) ∧
    q + 48 ≤ s.dev.now) ∧
  (∃ (s : State) (l x : BitVec 64) (rest : List (BitVec 64)) (q : Nat), s.dev.live = true ∧
    s.dev.mb.hppr = l :: rest ∧
    (s.dev.fch (locChan l)).ppr = some (x, q, true)) :=
  ⟨⟨onDev (serving) fun d => { d with issued := NatSet.add [] 0x1000000000000005 }, .mctp, [0, 0, 0, 0, 0, 0, 0, 0, 5, 0, 0, 0, 0, 0, 0, 16], by decide⟩,
   ⟨serving, 2, .mctp, [0, 0, 0, 0, 0, 0, 0, 0, 5, 0, 0, 0, 0, 0, 0, 16], by decide⟩,
   ⟨onDev (onDev serving fun d => { d with fuses := { d.fuses with lc := 15 } }) fun d => { d with issued := NatSet.add [] 0x6000000000000005 }, .mctp, [0, 0, 0, 0, 0, 0, 0, 0, 5, 0, 0, 0, 0, 0, 0, 96, 250, 255, 255, 255], by decide⟩,
   ⟨onDev serving fun d => { d with crm := { d.crm with unitPending := [0x4000000000000000, 0x1000000000000005] } }, 0x1000000000000005, by decide⟩,
   ⟨onDev serving fun d => (d.setFld (Fld.farChSts_state 7) 2).modFch 7 fun f => { f with pprWait := [3, 4] }, 7, 3, [4], by decide⟩,
   ⟨onDev serving fun d => d.modFch 2 fun f => { f with pprBufs := 13800 }, 7, by decide⟩,
   ⟨onDev serving fun d => { (d.modFch 7 fun f => { f with ppr := some (3, 0, false) }) with clk := ⟨true, 48, 0⟩ }, 7, 3, 0, by decide⟩,
   ⟨onDev (inMode .serve) fun d => { (d.modFch 7 fun f => { f with ppr := some (0x2070000000000000, 0, true) }) with mb := { d.mb with hppr := [0x2070000000000000, 0x2070000000000001] } }, 0x2070000000000000, 0x2070000000000000, [0x2070000000000001], 0, by decide⟩⟩

/-- The hypotheses of RotationAndSelfTestsRun can be met. -/
theorem test_meets_RotationAndSelfTestsRun :
  (∃ (s : State) (r : Rotation), AtBoundary s.dev ∧
    s.dev.live = true ∧
    s.dev.crm.rot = some r ∧
    r.phase = 0 ∧
    r.pointer = s.dev.chFrames ∧
    s.dev.fld Fld.crmSts_spare ≠ r.source.val) ∧
  (∃ (s : State) (r : Rotation), AtBoundary s.dev ∧
    s.dev.live = true ∧
    s.dev.crm.rot = some r ∧
    r.phase = 0 ∧
    r.pointer ≠ s.dev.chFrames) ∧
  (∃ (s : State) (r : Rotation), s.dev.live = true ∧
    s.dev.crm.rot = some r ∧
    r.phase = 1 ∧
    s.dev.queueOf (2 * r.source.val) = [] ∧
    s.dev.queueOf (2 * r.source.val + 1) = []) ∧
  (∃ (s : State) (r : Rotation), s.dev.live = true ∧
    s.dev.crm.rot = some r ∧
    r.phase = 1 ∧
    (s.dev.queueOf (2 * r.source.val) ≠ [] ∨ s.dev.queueOf (2 * r.source.val + 1) ≠ [])) ∧
  (∃ (s : State) (r : Rotation), s.dev.live = true ∧
    s.dev.crm.rot = some r ∧
    r.phase = 2 ∧
    s.dev.now < r.since + sixPasses) ∧
  (∃ (s : State) (r : Rotation) (result : BistResult), s.dev.live = true ∧
    s.dev.crm.rot = some r ∧
    r.phase = 2 ∧
    r.since + sixPasses ≤ s.dev.now ∧
    result ≠ .beyondSpares) ∧
  (∃ (s : State) (r : Rotation), s.dev.live = true ∧
    s.dev.crm.rot = some r ∧
    r.phase = 2 ∧
    r.since + sixPasses ≤ s.dev.now ∧
    s.dev.crmRole r.source.val = 3) ∧
  (∃ (s : State) (r : Rotation), s.dev.live = true ∧
    s.dev.crm.rot = some r ∧
    r.phase = 3) ∧
  (∃ (s : State) (r : Rotation), s.dev.live = true ∧
    s.dev.crm.rot = some r ∧
    r.phase = 3 ∧
    s.dev.crmRole r.source.val = 3) ∧
  (∃ (s : State) (r : Rotation), s.dev.live = true ∧
    s.dev.crm.rot = some r ∧
    r.phase = 4) ∧
  (∃ (s : State) (i : Iface) (p : Payload), s.dev.takesNow i 0xC040 ∧
    s.dev.ownPayload p 3 ∧
    byteAt (p.drop 8) 0 = 1 ∧
    s.dev.bistRefusal 1 (byteAt (p.drop 8) 1) (byteAt (p.drop 8) 2) = none ∧
    s.dev.mayStage i = true) ∧
  (∃ (s : State) (k x : Nat) (i : Iface) (p : Payload), s.dev.takesNow i 0xC040 ∧
    s.dev.ownPayload p 3 ∧
    k = byteAt (p.drop 8) 0 ∧
    x = byteAt (p.drop 8) 1 ∧
    k ≠ 1 ∧
    s.dev.bistRefusal k x (byteAt (p.drop 8) 2) = none) ∧
  (∃ (s : State) (rc : Nat) (i : Iface) (p : Payload), s.dev.takesNow i 0xC040 ∧
    s.dev.ownPayload p 3 ∧
    s.dev.bistRefusal (byteAt (p.drop 8) 0) (byteAt (p.drop 8) 1) (byteAt (p.drop 8) 2) = some rc) ∧
  (∃ (s : State) (b : Brew) (k x : Nat) (result : BistResult), s.dev.live = true ∧
    s.dev.mb.fg = some b ∧
    b.work = .test k x ∧
    (k = 3 ∨ (k = 4 ∧ x = 0) ∨ (k = 5 ∧ result = .repairable))) :=
  ⟨⟨onDev serving fun d => { d with crm := { d.crm with rot := some ⟨5, 0, serving.dev.chFrames, none, 0, [], 0⟩ } }, ⟨5, 0, serving.dev.chFrames, none, 0, [], 0⟩, by decide⟩,
   ⟨onDev serving fun d => { d with crm := { d.crm with rot := some ⟨5, 0, 7, none, 0, [], 0⟩ } }, ⟨5, 0, 7, none, 0, [], 0⟩, by decide⟩,
   ⟨onDev serving fun d => { d with crm := { d.crm with rot := some ⟨5, 1, 7, none, 0, [], 0⟩ } }, ⟨5, 1, 7, none, 0, [], 0⟩, by decide⟩,
   ⟨onDev (onDev serving fun d => { d with crm := { d.crm with rot := some ⟨5, 1, 7, none, 0, [], 0⟩ } }) fun d => { d with sched := [(10, ⟨[⟨true, .b, false, ⟨9, 0⟩, 5, false, none, false, some 0, none⟩], false⟩)] }, ⟨5, 1, 7, none, 0, [], 0⟩, by decide⟩,
   ⟨onDev serving fun d => { d with crm := { d.crm with rot := some ⟨5, 2, 7, none, 0, [], 0⟩ } }, ⟨5, 2, 7, none, 0, [], 0⟩, by decide⟩,
   ⟨onDev (onDev serving fun d => { d with clk := ⟨true, 811008, 0⟩ }) fun d => { d with crm := { d.crm with rot := some ⟨5, 2, 7, none, 0, [], 0⟩ } }, ⟨5, 2, 7, none, 0, [], 0⟩, .repairable, by decide⟩,
   ⟨onDev (onDev (onDev serving fun d => { d with clk := ⟨true, 811008, 0⟩ }) fun d => d.setRole 5 3 0) fun d => { d with crm := { d.crm with rot := some ⟨5, 2, 7, none, 0, [], 0⟩ } }, ⟨5, 2, 7, none, 0, [], 0⟩, by decide⟩,
   ⟨onDev serving fun d => { d with crm := { d.crm with rot := some ⟨5, 3, 7, none, 0, [], 0⟩ } }, ⟨5, 3, 7, none, 0, [], 0⟩, by decide⟩,
   ⟨onDev (onDev serving fun d => d.setRole 5 3 0) fun d => { d with crm := { d.crm with rot := some ⟨5, 3, 7, none, 0, [], 0⟩ } }, ⟨5, 3, 7, none, 0, [], 0⟩, by decide⟩,
   ⟨onDev serving fun d => { d with crm := { d.crm with rot := some ⟨5, 4, 7, none, 0, [], 0⟩ } }, ⟨5, 4, 7, none, 0, [], 0⟩, by decide⟩,
   ⟨serving, .mctp, [0, 0, 0, 0, 0, 0, 0, 0, 1, 5, 0], by decide⟩,
   ⟨onDev (inMode .maint) fun d => d, 2, 3, .mctp, [0, 0, 0, 0, 0, 0, 0, 0, 2, 3, 1], by decide⟩,
   ⟨serving, 2, .mctp, [0, 0, 0, 0, 0, 0, 0, 0, 7, 5, 0], by decide⟩,
   ⟨onDev (inMode .maint) fun d => d.startFg 7 (some .mctp) (.test 3 7) 1, ⟨7, some .mctp, .test 3 7, 0, 1, false, 0⟩, 3, 7, .pass, by decide⟩⟩

/-- The hypotheses of StagingChecksCommitsAndAborts can be met. -/
theorem test_meets_StagingChecksCommitsAndAborts :
  (∃ (s : State) (i : Iface) (p : Payload), s.dev.takesNow i 0xC010 ∧
    s.dev.ownPayload p 0 ∧
    s.dev.mayStage i = true ∧
    s.dev.stg.checking = none ∧
    s.dev.stg.commitPend = none) ∧
  (∃ (s : State) (i : Iface) (p : Payload), s.dev.takesNow i 0xC010 ∧
    s.dev.ownPayload p 0 ∧
    (s.dev.mayStage i = false ∨ s.dev.stg.checking.isSome = true ∨ s.dev.stg.commitPend.isSome = true)) ∧
  (∃ (s : State) (i : Iface), s.dev.live = true ∧
    s.dev.stg.checking = some i ∧
    s.dev.stg.heldWrites = []) ∧
  (∃ (s : State) (i : Iface) (p : Payload), s.dev.takesNow i 0xC011 ∧
    s.dev.ownPayload p 0 ∧
    s.dev.mayStage i = true ∧
    s.dev.stg.checking = none ∧
    s.dev.stg.commitPend = none ∧
    s.dev.flag Fld.glbSealSts_refscan = false ∧
    s.dev.stg.checked = true) ∧
  (∃ (s : State) (i : Iface) (p : Payload), s.dev.takesNow i 0xC011 ∧
    s.dev.ownPayload p 0 ∧
    s.dev.mayStage i = true ∧
    s.dev.stg.checking = none ∧
    s.dev.stg.commitPend = none ∧
    s.dev.flag Fld.glbSealSts_refscan = false ∧
    s.dev.stg.checked = false) ∧
  (∃ (s : State), s.dev.stg.commitPend.isSome = true ∧
    s.dev.clk.running = true) ∧
  (∃ (s : State), s.dev.stg.commitPend = none) ∧
  (∃ (s : State) (i : Iface) (f : CheckFail), s.dev.clk.running = false ∧
    s.dev.live = true ∧
    s.dev.stg.commitPend = some i ∧
    (({ s.dev with stg := { s.dev.stg with commitPend := none } } : Dev).setFlag Fld.stgSts_commitPend false).runRechecks = some f) ∧
  (∃ (s : State) (i : Iface) (off : Nat) (w : Word), s.dev.clk.running = false ∧
    s.dev.live = true ∧
    s.dev.stg.commitPend = some i ∧
    (({ s.dev with stg := { s.dev.stg with commitPend := none } } : Dev).setFlag Fld.stgSts_commitPend false).runRechecks = none ∧
    s.dev.stg.cmds = [] ∧
    s.dev.shadow = [(off, w)] ∧
    isStaged off = true ∧
    off ≠ Off.glbPortMode ∧
    s.dev.flag Fld.glbSealSts_sealed = false) ∧
  (∃ (s : State) (i : Iface) (p : Payload), s.dev.takesNow i 0xC012 ∧
    s.dev.ownPayload p 0 ∧
    s.dev.mayStage i = true ∧
    s.dev.stg.checking = none ∧
    s.dev.stg.commitPend = none) :=
  ⟨⟨serving, .mctp, [0, 0, 0, 0, 0, 0, 0, 0], by decide⟩,
   ⟨onDev serving fun d => { d with stg := { d.stg with owner := some .portA } }, .mctp, [0, 0, 0, 0, 0, 0, 0, 0], by decide⟩,
   ⟨onDev serving fun d => { d with stg := { d.stg with checking := some .mctp } }, .mctp, by decide⟩,
   ⟨onDev serving fun d => { d with stg := { d.stg with checked := true } }, .mctp, [0, 0, 0, 0, 0, 0, 0, 0], by decide⟩,
   ⟨serving, .mctp, [0, 0, 0, 0, 0, 0, 0, 0], by decide⟩,
   ⟨onDev serving fun d => { d with stg := { d.stg with commitPend := some .mctp } }, by decide⟩,
   ⟨serving, by decide⟩,
   ⟨onDev serving fun d => { d.setPend Off.glbModeReq 6 with clk := ⟨false, 0, 0⟩, stg := { d.stg with commitPend := some .mctp } }, .mctp, ⟨2, Off.glbModeReq, 0⟩, by decide⟩,
   ⟨onDev serving fun d => { d.setPend Off.cohCtl 0x700 with clk := ⟨false, 9, 0⟩, stg := { d.stg with commitPend := some .mctp } }, .mctp, Off.cohCtl, 0x700, by decide⟩,
   ⟨onDev serving fun d => { d.setPend Off.cohCtl 0x700 with stg := { d.stg with owner := some .mctp, cmds := [.poolDestroy 3] } }, .mctp, [0, 0, 0, 0, 0, 0, 0, 0], by decide⟩⟩

/-- The hypotheses of ReferenceScanMakesCommitBusy can be met. -/
theorem test_meets_ReferenceScanMakesCommitBusy :
  (∃ (s : State) (i : Iface) (p : Payload), s.dev.takesNow i 0xC011 ∧
    s.dev.ownPayload p 0 ∧
    s.dev.flag Fld.glbSealSts_refscan = true) :=
  ⟨onDev serving fun d => d.setFlag Fld.glbSealSts_refscan true, .mctp, [0, 0, 0, 0, 0, 0, 0, 0], by decide⟩

/-- The hypotheses of TenantsAreIdentifiedStagedAndEnded can be met. -/
theorem test_meets_TenantsAreIdentifiedStagedAndEnded :
  (∃ (s : State) (i : Iface) (p : Payload), s.dev.servesNow i 0xC000 ∧
    s.dev.ownPayload p 0) ∧
  (∃ (s : State) (b : TenantBody) (t : TenantId) (base : Nat) (i : Iface) (p : Payload), s.dev.takesNow i 0xC020 ∧
    s.dev.ownPayload p 24 ∧
    b = tenantBody (p.drop 8) ∧
    t = tenantId b.t ∧
    b.ok = true ∧
    s.dev.mayStage i = true ∧
    s.dev.stagedTenant t = false ∧
    s.dev.hostPort (portOf b.port) = true ∧
    s.dev.tenantOf (portOf b.port) b.ld = none ∧
    s.dev.tntState t = 0 ∧
    s.dev.flag (Fld.tntCtl_en t.val) = false ∧
    s.dev.poolsExist b.comp b.pool b.media = true ∧
    (∀ c ∈ s.dev.stg.cmds, StagedLd (portOf b.port) b.ld c = false) ∧
    (createWords s.dev b).length = b.near + b.stat ∧
    s.dev.findRange (b.near + b.stat) = some base) ∧
  (∃ (s : State) (b : TenantBody) (t : TenantId) (ws : List Word) (base : Nat) (i : Iface) (p : Payload), s.dev.takesNow i 0xC021 ∧
    s.dev.ownPayload p 24 ∧
    b = tenantBody (p.drop 8) ∧
    t = tenantId b.t ∧
    ws = resizeWords s.dev t b ∧
    b.t < 32 ∧
    b.near ≤ 128 ∧
    leNat (p.drop 8) 4 4 < 2 ^ 19 ∧
    zeroBytes (p.drop 8) 18 6 = true ∧
    s.dev.mayStage i = true ∧
    s.dev.stagedTenant t = false ∧
    s.dev.tntState t = 1 ∧
    s.dev.poolsExist false 0 b.media = true ∧
    (∀ r ∈ List.range 8, s.dev.regionHolds t r = true →
      b.media.getD r (0, 0) = ((vget (⟨0, 0, 0⟩ : DcRegion) (s.dev.tenant t).regions r).medium,
        (vget (⟨0, 0, 0⟩ : DcRegion) (s.dev.tenant t).regions r).pool)) ∧
    ws.length = b.near + b.stat + (s.dev.extWords t).length - s.dev.fld (Fld.tntPart_nearBlk t.val) - s.dev.fld (Fld.tntPart_staticBlk t.val) ∧
    s.dev.fld (Fld.tntPart_nearBlk t.val) + s.dev.fld (Fld.tntPart_staticBlk t.val) ≤ s.dev.extLen t ∧
    (∀ k ∈ List.range (s.dev.extLen t), extV ((s.dev.extWords t).getD k 0) = true → (s.dev.extWords t).getD k 0 ≠ ws.getD k 0 →
      s.dev.decodedBlock (s.dev.tntPort t) (s.dev.tntLd t) k = false) ∧
    (if ws.take (s.dev.extLen t) = s.dev.extWords t ∧ s.dev.rangeFree (s.dev.extBase t + s.dev.extLen t) (ws.length - s.dev.extLen t) = true
      then some (s.dev.extBase t) else s.dev.findRange ws.length) = some base) ∧
  (∃ (s : State) (t : TenantId) (i : Iface) (p : Payload), s.dev.takesNow i 0xC022 ∧
    s.dev.ownPayload p 1 ∧
    byteAt (p.drop 8) 0 = t.val ∧
    s.dev.namesTenant t = false ∧
    (s.dev.tenant t).seq = none ∧
    s.dev.tntState t = 1) ∧
  (∃ (s : State) (t : TenantId) (i : Iface) (p : Payload), s.dev.takesNow i 0xC023 ∧
    s.dev.ownPayload p 1 ∧
    byteAt (p.drop 8) 0 = t.val ∧
    s.dev.namesTenant t = false ∧
    (s.dev.tenant t).seq = none ∧
    (s.dev.tntState t = 1 ∨ (s.dev.tntState t = 4 ∧ s.dev.sanitising t = false))) ∧
  (∃ (s : State) (t : TenantId) (q : TenantSeq), AtBoundary s.dev ∧
    s.dev.live = true ∧
    (s.dev.tenant t).seq = some q ∧
    q.r = none ∧
    q.kind ≠ .portReset ∧
    (∀ x ∈ s.dev.txns, x.tenant = some t → x.phase.looked = true)) ∧
  (∃ (s : State) (t : TenantId) (q : TenantSeq) (r : Nat), AtBoundary s.dev ∧
    s.dev.live = true ∧
    (s.dev.tenant t).seq = some q ∧
    q.r = some r ∧
    r + 62 ≤ s.dev.now ∧
    s.dev.openOf t = [] ∧
    Quiet s.dev) ∧
  (∃ (s : State) (t : TenantId) (q : TenantSeq) (r : Nat) (x : Txn) (port : PortId) (ld tag hpa : Nat), AtBoundary s.dev ∧
    s.dev.live = true ∧
    (s.dev.tenant t).seq = some q ∧
    q.r = some r ∧
    r + 62 ≤ s.dev.now ∧
    s.dev.txns = [x] ∧
    x.tenant = some t ∧
    x.phase = .far ∧
    x.op = .rd ∧
    x.org = .host port ld tag hpa ∧
    s.dev.isDown port = false) ∧
  (∃ (s : State) (t : TenantId) (q : TenantSeq) (r : Nat), AtBoundary s.dev ∧
    s.dev.live = true ∧
    (s.dev.tenant t).seq = some q ∧
    q.r = some r ∧
    r + 94 ≤ s.dev.now ∧
    q.kind = .reset ∧
    s.dev.tntState t = 2 ∧
    (s.dev.tenant t).memClr = false) ∧
  (∃ (s : State) (t : TenantId) (q : TenantSeq) (r : Nat), AtBoundary s.dev ∧
    s.dev.live = true ∧
    (s.dev.tenant t).seq = some q ∧
    q.r = some r ∧
    r + 94 ≤ s.dev.now ∧
    q.kind = .destroy) :=
  ⟨⟨serving, .mctp, [0, 0, 0, 0, 0, 0, 0, 0], by decide⟩,
   ⟨withFar, tenantBody ([3,0,0,0,2,0,0,0,0,1]++List.replicate 14 0), 3, 0, .mctp, ([0,0,0,0,0,0,0,0,3,0,0,0,2,0,0,0,0,1]++List.replicate 14 0), by decide⟩,
   ⟨bound, tenantBody ([3,0,0,0,2,0,0,0,0,1]++List.replicate 14 0), 3, resizeWords bound.dev 3 (tenantBody ([3,0,0,0,2,0,0,0,0,1]++List.replicate 14 0)), 8, .mctp, ([0,0,0,0,0,0,0,0,3,0,0,0,2,0,0,0,0,1]++List.replicate 14 0), by decide⟩,
   ⟨bound, 3, .mctp, [0, 0, 0, 0, 0, 0, 0, 0, 3], by decide⟩,
   ⟨bound, 3, .mctp, [0, 0, 0, 0, 0, 0, 0, 0, 3], by decide⟩,
   ⟨onDev bound fun d => d.askSequence 3 .destroy none, 3, ⟨none, .destroy, none, 0, 0⟩, by decide⟩,
   ⟨seqAt .destroy 62, 3, ⟨some 1, .destroy, none, 1, 0⟩, 1, by decide⟩,
   ⟨onDev (seqAt .destroy 62) fun d => { d with txns := [openRead] }, 3, ⟨some 1, .destroy, none, 1, 0⟩, 1, openRead, .a, 0, 7, 0, by decide⟩,
   ⟨onDev (seqAt .reset 94) fun d => d.setFld (Fld.tntSts_state 3) 2, 3, ⟨some 1, .reset, none, 1, 0⟩, 1, by decide⟩,
   ⟨seqAt .destroy 94, 3, ⟨some 1, .destroy, none, 1, 0⟩, 1, by decide⟩⟩

/-- The hypotheses of RekeyStartsAndSteps can be met. -/
theorem test_meets_RekeyStartsAndSteps :
  (∃ (s : State) (src : Source) (v key : Word), s.dev.canAccess src Off.cryRekeyCtl = true ∧
    s.dev.pairReady src Off.cryRekeyCtl v key ∧
    Machine.rateOk (fieldOf v 0 7) = true ∧
    v.getLsbD 31 = true ∧
    s.dev.cry.rekey = none) ∧
  (∃ (s : State) (src : Source) (v key : Word), s.dev.canAccess src Off.cryRekeyCtl = true ∧
    s.dev.pairReady src Off.cryRekeyCtl v key ∧
    Machine.rateOk (fieldOf v 0 7) = true ∧
    v.getLsbD 31 = false ∧
    s.dev.cry.rekey = none) ∧
  (∃ (s : State) (r : Rekey) (src : Source) (v key : Word), s.dev.canAccess src Off.cryRekeyCtl = true ∧
    s.dev.pairReady src Off.cryRekeyCtl v key ∧
    Machine.rateOk (fieldOf v 0 7) = true ∧
    s.dev.cry.rekey = some r) ∧
  (∃ (s : State) (src : Source) (v key : Word), s.dev.canAccess src Off.cryRekeyCtl = true ∧
    s.dev.pairReady src Off.cryRekeyCtl v key ∧
    Machine.rateOk (fieldOf v 0 7) = false) ∧
  (∃ (s : State) (i : Iface) (p : Payload), s.dev.takesNow i 0xC030 ∧
    s.dev.ownPayload p 1 ∧
    Machine.rateOk (byteAt (p.drop 8) 0) = true ∧
    s.dev.cry.rekey = none) ∧
  (∃ (s : State) (i : Iface) (p : Payload), s.dev.takesNow i 0xC030 ∧
    s.dev.ownPayload p 1 ∧
    Machine.rateOk (byteAt (p.drop 8) 0) = false) ∧
  (∃ (s : State) (r : Rekey) (i : Iface) (p : Payload), s.dev.takesNow i 0xC031 ∧
    s.dev.ownPayload p 0 ∧
    s.dev.cry.rekey = some r) ∧
  (∃ (s : State) (r : Rekey), AtBoundary s.dev ∧
    s.dev.cry.rekey = some r ∧
    r.phase = .requested ∧
    s.dev.rekeyReady = true) ∧
  (∃ (s : State) (r : Rekey), AtBoundary s.dev ∧
    s.dev.live = true ∧
    s.dev.cry.rekey = some r ∧
    r.phase = .deriving_ ∧
    r.k + 64 ≤ s.dev.now) ∧
  (∃ (s : State) (ch : FarCh) (x : RekeyPage), s.dev.rekeyPage ch.val = some x ∧
    x.got = BitVec.allOnes 64 ∧
    x.committed = false) ∧
  (∃ (s : State) (ch : FarCh) (x : RekeyPage), AtBoundary s.dev ∧
    s.dev.rekeyPage ch.val = some x ∧
    x.committed = true) ∧
  (∃ (s : State) (r : Rekey), AtBoundary s.dev ∧
    s.dev.live = true ∧
    s.dev.cry.rekey = some r ∧
    r.phase = .walking ∧
    r.cremaEnd = true ∧
    (∀ c ∈ List.range 8, s.dev.flag (Fld.cryFarBound_end c) = true)) :=
  ⟨⟨onDev (serving) fun d => d.arm .mctp Off.cryRekeyCtl 0x80000040, .mctp, 0x80000040, ~~~0x80000040, by decide⟩,
   ⟨onDev (serving) fun d => d.arm .mctp Off.cryRekeyCtl 5, .mctp, 5, ~~~5, by decide⟩,
   ⟨onDev (onDev serving fun d => { d with cry := { d.cry with key := some 0, draws := 1, majorNext := 9, rekey := some ⟨.walking, 0, 0, false, Vector.replicate 8 none, 0, 0⟩ } }) fun d => d.arm .mctp Off.cryRekeyCtl 5, ⟨.walking, 0, 0, false, Vector.replicate 8 none, 0, 0⟩, .mctp, 5, ~~~5, by decide⟩,
   ⟨onDev (serving) fun d => d.arm .mctp Off.cryRekeyCtl 0x80000041, .mctp, 0x80000041, ~~~0x80000041, by decide⟩,
   ⟨serving, .mctp, [0, 0, 0, 0, 0, 0, 0, 0, 7], by decide⟩,
   ⟨serving, .mctp, [0, 0, 0, 0, 0, 0, 0, 0, 65], by decide⟩,
   ⟨onDev (onDev serving fun d => { d with cry := { d.cry with key := some 0, draws := 1, majorNext := 9, rekey := some ⟨.walking, 0, 0, false, Vector.replicate 8 none, 0, 0⟩ } }) fun d => d.setReg Off.cryRekeySts 0x77, ⟨.walking, 0, 0, false, Vector.replicate 8 none, 0, 0⟩, .mctp, [0, 0, 0, 0, 0, 0, 0, 0], by decide⟩,
   ⟨onDev serving fun d => { d with cry := { d.cry with key := some 0, draws := 1, majorNext := 9, rekey := some ⟨.requested, 0, 0, false, Vector.replicate 8 none, 0, 0⟩ } }, ⟨.requested, 0, 0, false, Vector.replicate 8 none, 0, 0⟩, by decide⟩,
   ⟨onDev serving fun d => { d with cry := { d.cry with key := some 0, draws := 1, majorNext := 9, rekey := some ⟨.deriving_, 0, 0, false, Vector.replicate 8 none, 0, 0⟩ }, clk := ⟨true, 64, 0⟩ }, ⟨.deriving_, 0, 0, false, Vector.replicate 8 none, 0, 0⟩, by decide⟩,
   ⟨collected false, 2, heldPage false, by decide⟩,
   ⟨collected true, 2, heldPage true, by decide⟩,
   ⟨onDev (onDev serving fun d => { d with cry := { d.cry with key := some 0, draws := 1, majorNext := 9, rekey := some ⟨.walking, 0, 0, true, Vector.replicate 8 none, 0, 0⟩ } }) fun d => (List.range 8).foldl (fun d c => d.setFlag (Fld.cryFarBound_end c) true) d, ⟨.walking, 0, 0, true, Vector.replicate 8 none, 0, 0⟩, by decide⟩⟩

/-- The hypotheses of FirmwareIsStagedVerifiedAndActivated can be met. -/
theorem test_meets_FirmwareIsStagedVerifiedAndActivated :
  (∃ (s : State) (n : Fin 2) (i : Iface) (p : Payload), s.dev.takesNow i 0xC0A0 ∧
    s.dev.ownPayload p 24 ∧
    byteAt p 8 = n.val ∧
    byteAt p 9 = 0 ∧
    zeroBytes p 10 2 = true ∧
    zeroBytes p 20 12 = true ∧
    32 + leNat p 16 4 ≤ p.length ∧
    s.dev.inForce n = false ∧
    s.dev.verifying n = false ∧
    (leNat p 12 4 = 0 ∨ (s.dev.mb.fwNext[n] ≠ 0 ∧ leNat p 12 4 = s.dev.mb.fwNext[n])) ∧
    leNat p 12 4 + leNat p 16 4 ≤ 1572864) ∧
  (∃ (s : State) (n : Fin 2) (i : Iface) (off : Nat) (b : Payload), s.dev.takesNow i 0x0201 ∧
    s.dev.inForce n = false ∧
    s.dev.verifying n = false ∧
    (off = 0 ∨ (s.dev.mb.fwNext[n] ≠ 0 ∧ off = s.dev.mb.fwNext[n])) ∧
    off + b.length ≤ 1572864) ∧
  (∃ (s : State) (n : Fin 2) (i : Iface) (off : Nat) (b : Payload), s.dev.takesNow i 0x0201 ∧
    s.dev.inForce n = false ∧
    s.dev.mb.fg = none ∧
    (off = 0 ∨ (s.dev.mb.fwNext[n] ≠ 0 ∧ off = s.dev.mb.fwNext[n])) ∧
    off + b.length ≤ 1572864) ∧
  (∃ (s : State) (n : Fin 2) (i : Iface) (off : Nat) (b : Payload), s.dev.takesNow i 0x0201 ∧
    (s.dev.inForce n = true ∨ (off ≠ 0 ∧ (s.dev.mb.fwNext[n] = 0 ∨ off ≠ s.dev.mb.fwNext[n])) ∨ 1572864 < off + b.length)) ∧
  (∃ (s : State) (f : Brew) (n : Fin 2), s.dev.live = true ∧
    s.dev.mb.fg = some f ∧
    f.work = .fwVerify n ∧
    s.dev.verifyImage [1, 2] (s.dev.slotBytes n) none = none) ∧
  (∃ (s : State) (f : Brew) (n : Fin 2) (sig : Option Nat), s.dev.live = true ∧
    s.dev.mb.fg = some f ∧
    f.work = .fwVerify n ∧
    s.dev.verifyImage [1, 2] (s.dev.slotBytes n) sig ≠ none) ∧
  (∃ (s : State) (n : Fin 2) (i : Iface) (p : Payload), s.dev.takesNow i 0xC0A1 ∧
    s.dev.ownPayload p 2 ∧
    byteAt p 8 = n.val ∧
    byteAt p 9 = 0 ∧
    (s.dev.can.slots[n]).valid = true ∧
    s.dev.verifyImage [1] (s.dev.slotBytes n) none = none) ∧
  (∃ (s : State) (n : Fin 2) (i : Iface) (p : Payload), s.dev.takesNow i 0xC0A1 ∧
    s.dev.ownPayload p 2 ∧
    byteAt p 8 = n.val ∧
    byteAt p 9 = 1 ∧
    (s.dev.can.slots[n]).valid = true ∧
    s.dev.verifyImage [1] (s.dev.slotBytes n) none = none ∧
    s.dev.mode = .maint ∧
    s.dev.mb.fg = none) ∧
  (∃ (s : State) (n : Fin 2) (i : Iface), s.dev.takesNow i 0x0202 ∧
    (s.dev.can.slots[n]).valid = false) ∧
  (∃ (s : State) (n : Fin 2) (i : Iface), s.dev.takesNow i 0x0202 ∧
    (s.dev.can.slots[n]).valid = true ∧
    s.dev.verifyImage [1] (s.dev.slotBytes n) none = none) ∧
  (∃ (s : State) (i : Iface), s.dev.takesNow i 0x0200) :=
  ⟨⟨serving, 1, .mctp, [0, 0, 0, 0, 0, 0, 0, 0, 1, 0, 0, 0, 0, 0, 0, 0, 2, 0, 0, 0, 0, 0, 0, 0, 0, 0, 0, 0, 0, 0, 0, 0, 7, 9], by decide⟩,
   ⟨serving, 1, .mctp, 0, [7, 9], by decide⟩,
   ⟨withSlot true, 1, .portA, 16, [7, 9], by decide⟩,
   ⟨serving, 0, .mctp, 0, [1], by decide⟩,
   ⟨verifyOf 1, ⟨8, some .mctp, .fwVerify 1, 0, 1, false, 0⟩, 1, by decide⟩,
   ⟨verifyOf 1, ⟨8, some .mctp, .fwVerify 1, 0, 1, false, 0⟩, 1, some 5, by decide⟩,
   ⟨withSlot true, 1, .mctp, [0, 0, 0, 0, 0, 0, 0, 0, 1, 0], by decide⟩,
   ⟨onDev (withSlot true) fun d => { d with mode := .maint }, 1, .mctp, [0, 0, 0, 0, 0, 0, 0, 0, 1, 1], by decide⟩,
   ⟨serving, 1, .mctp, by decide⟩,
   ⟨withSlot true, 1, .mctp, by decide⟩,
   ⟨withSlot true, .mctp, by decide⟩⟩

/-- The hypotheses of BaristaRestartsAndForwards can be met. -/
theorem test_meets_BaristaRestartsAndForwards :
  (∃ (s : State), s.dev.live = true ∧
    s.dev.mb.state = .running ∧
    (s.dev.mb.restarts.filter fun q => decide (s.dev.now ≤ q + 2 ^ 24)).length < 3) ∧
  (∃ (s : State), s.dev.live = true ∧
    s.dev.mb.state = .running ∧
    3 ≤ (s.dev.mb.restarts.filter fun q => decide (s.dev.now ≤ q + 2 ^ 24)).length) ∧
  (∃ (s : State), s.dev.live = true ∧
    s.dev.mb.state = .restarting ∧
    s.dev.mb.activating = none) ∧
  (∃ (s : State) (i : Iface) (op : Nat) (old new : Fin 2), s.dev.live = true ∧
    s.dev.mb.state = .restarting ∧
    s.dev.mb.activating = some (i, op, old, new) ∧
    s.dev.mb.waits = []) ∧
  (∃ (s : State) (r : EventRec) (t : TenantId), s.dev.mode ≠ .cold ∧
    s.dev.mb.state = .running ∧
    s.dev.ras.tail < s.dev.ras.written ∧
    (s.dev.ras.recs.find? fun (x : EventRec) => x.rseq == s.dev.ras.tail) = some r ∧
    (r.fromMember = true ∨ r.pour ≠ s.dev.clk.pour) ∧
    r.tenant = some t ∧
    s.dev.flag (Fld.tntCtl_en t.val) = true) ∧
  (∃ (s : State) (r : EventRec), (s.dev.ras.recs.find? fun (x : EventRec) => x.rseq == s.dev.ras.tail) = some r ∧
    r.fromMember = false ∧
    r.pour = s.dev.clk.pour) :=
  ⟨⟨verifyOf 1, by decide⟩,
   ⟨onDev serving fun d => { d with mb := { d.mb with restarts := [0, 1, 1] } }, by decide⟩,
   ⟨onDev serving fun d => { d with mb := { d.mb with state := .restarting } }, by decide⟩,
   ⟨onDev (withSlot true) fun d => { d with mb := { d.mb with state := .restarting, activating := some (.mctp, 0xC0A1, 0, 1) } }, .mctp, 0xC0A1, 0, 1, by decide⟩,
   ⟨recordWaits, ⟨1, 0, 1, 0x106, 0, some 3, none, false, false, 0, 5, 0, []⟩, 3, by decide⟩,
   ⟨onDev recordWaits fun d => { d with clk := { d.clk with pour := 1 } }, ⟨1, 0, 1, 0x106, 0, some 3, none, false, false, 0, 5, 0, []⟩, by decide⟩⟩

/-- The hypotheses of BrewsStepAndAbort can be met. -/
theorem test_meets_BrewsStepAndAbort :
  (∃ (s : State) (b : Brew) (i : Iface) (p : Payload), s.dev.takesNow i 0xC0F0 ∧
    s.dev.ownPayload p 1 ∧
    s.dev.mb.fg = some b ∧
    b.kind = byteAt p 8 ∧
    b.kind ≠ 9) ∧
  (∃ (s : State) (i : Iface) (p : Payload), s.dev.takesNow i 0xC0F0 ∧
    s.dev.ownPayload p 1 ∧
    (∀ b ∈ s.dev.mb.fg.toList, b.kind = 9 ∨ b.kind ≠ byteAt p 8)) ∧
  (∃ (s : State) (b : Brew) (i : Iface), s.dev.takesNow i 0x0005 ∧
    s.dev.mb.fg = some b ∧
    b.kind ≠ 9) ∧
  (∃ (s : State) (i : Iface) (ld : Nat) (t : TenantId), s.dev.takesNow i 0x4400 ∧
    s.dev.tenantOf (ifacePort i) ld = some t ∧
    s.dev.tntState t ≠ 2 ∧
    s.dev.tntState t ≠ 3 ∧
    (s.dev.tenant t).seq = none ∧
    s.dev.mb.fg = none) ∧
  (∃ (s : State) (i : Iface) (ld : Nat) (t : TenantId), s.dev.takesNow i 0x4400 ∧
    s.dev.tenantOf (ifacePort i) ld = some t ∧
    (s.dev.tntState t = 2 ∨ s.dev.tntState t = 3 ∨ s.dev.sequenceRuns t = true ∨ s.dev.mb.fg.isSome = true)) ∧
  (∃ (s : State) (i : Iface) (ld : Nat), s.dev.takesNow i 0x4400 ∧
    s.dev.tenantOf (ifacePort i) ld = none) ∧
  (∃ (s : State) (i : Iface) (ld : Nat) (t : TenantId), s.dev.takesNow i 0x4401 ∧
    s.dev.tenantOf (ifacePort i) ld = some t ∧
    s.dev.tntState t ≠ 2 ∧
    s.dev.tntState t ≠ 3 ∧
    (s.dev.tenant t).seq = none ∧
    s.dev.mb.fg = none) ∧
  (∃ (s : State) (i : Iface) (ld : Nat) (t : TenantId), s.dev.takesNow i 0x4401 ∧
    s.dev.tenantOf (ifacePort i) ld = some t ∧
    (s.dev.tntState t = 2 ∨ s.dev.tntState t = 3 ∨ s.dev.sequenceRuns t = true ∨ s.dev.mb.fg.isSome = true)) ∧
  (∃ (s : State) (i : Iface) (ld : Nat), s.dev.takesNow i 0x4401 ∧
    s.dev.tenantOf (ifacePort i) ld = none) ∧
  (∃ (s : State) (i : Iface) (ld : Nat) (t : TenantId), s.dev.takesNow i 0x4304 ∧
    s.dev.tenantOf (ifacePort i) ld = some t ∧
    s.dev.mb.fg = none) ∧
  (∃ (s : State) (i : Iface) (ld : Nat) (t : TenantId), s.dev.takesNow i 0x4304 ∧
    s.dev.tenantOf (ifacePort i) ld = some t ∧
    s.dev.mb.fg.isSome = true) ∧
  (∃ (s : State) (b : Brew) (t : TenantId) (sec : Bool) (r : Nat), AtBoundary s.dev ∧
    s.dev.live = true ∧
    s.dev.mb.state = .running ∧
    s.dev.mb.stepDue = true ∧
    (∀ q ∈ s.dev.mb.stepAt.toList, q < s.dev.now) ∧
    s.dev.mb.waits = [] ∧
    s.dev.mb.internal = [] ∧
    s.dev.mb.fg = some b ∧
    b.work = .sanitise t sec (some r) ∧
    b.suspended = false ∧
    s.dev.mode ≠ .drain ∧
    s.dev.mode ≠ .hibernate ∧
    (s.dev.mappedBlocks t).length ≤ b.done + 1) ∧
  (∃ (s : State) (b : Brew) (p : PortId) (ld : Nat), AtBoundary s.dev ∧
    s.dev.live = true ∧
    s.dev.mb.state = .running ∧
    s.dev.mb.stepDue = true ∧
    (∀ q ∈ s.dev.mb.stepAt.toList, q < s.dev.now) ∧
    s.dev.mb.waits = [] ∧
    s.dev.mb.internal = [] ∧
    s.dev.mb.fg = some b ∧
    b.work = .scanMedia p ld ∧
    b.suspended = false ∧
    s.dev.mode ≠ .drain ∧
    s.dev.mode ≠ .hibernate ∧
    b.done + 1 < b.planned) ∧
  (∃ (s : State) (b : Brew) (n : Nat), AtBoundary s.dev ∧
    s.dev.live = true ∧
    s.dev.mb.state = .running ∧
    s.dev.mb.stepDue = true ∧
    (∀ q ∈ s.dev.mb.stepAt.toList, q < s.dev.now) ∧
    s.dev.mb.waits = [] ∧
    s.dev.mb.fg = none ∧
    s.dev.mb.internal = [b] ∧
    b.work = .blockSanitise [(0, n)] ∧
    s.dev.blockIdle (0, n) = true ∧
    s.dev.mode ≠ .hibernate) ∧
  (∃ (s : State) (b : Brew) (ch : FarCh) (level index : Nat), AtBoundary s.dev ∧
    s.dev.live = true ∧
    s.dev.rekeying = false ∧
    s.dev.mb.internal = [b] ∧
    b.work = .subtreeReinit ch level index ∧
    b.done = 8 ^ level) :=
  ⟨⟨onDev (onDev (bound) fun d => { d with mb := { d.mb with fg := some ⟨2, some .mctp, .scanMedia .a 0, 3, 4, false, 0⟩, stepDue := true } }) fun d => { d with mb := { d.mb with stepDue := false } }, ⟨2, some .mctp, .scanMedia .a 0, 3, 4, false, 0⟩, .mctp, [0, 0, 0, 0, 0, 0, 0, 0, 2], by decide⟩,
   ⟨serving, .mctp, [0, 0, 0, 0, 0, 0, 0, 0, 1], by decide⟩,
   ⟨onDev (onDev (bound) fun d => { d with mb := { d.mb with fg := some ⟨8, some .mctp, .fwVerify 1, 0, 4, false, 0⟩, stepDue := true } }) fun d => { d with mb := { d.mb with stepDue := false } }, ⟨8, some .mctp, .fwVerify 1, 0, 4, false, 0⟩, .portA, by decide⟩,
   ⟨bound, .mctp, 0, 3, by decide⟩,
   ⟨onDev bound fun d => { (d.setFld (Fld.tntSts_state 3) 2) with mb := { d.mb with fg := some ⟨2, none, .scanMedia .a 0, 0, 1, false, 0⟩ } }, .mctp, 0, 3, by decide⟩,
   ⟨bound, .portA, 1, by decide⟩,
   ⟨bound, .mctp, 0, 3, by decide⟩,
   ⟨onDev bound fun d => { (d.setFld (Fld.tntSts_state 3) 2) with mb := { d.mb with fg := some ⟨2, none, .scanMedia .a 0, 0, 1, false, 0⟩ } }, .mctp, 0, 3, by decide⟩,
   ⟨bound, .mctp, 2, by decide⟩,
   ⟨bound, .portA, 0, 3, by decide⟩,
   ⟨onDev bound fun d => { (d.setFld (Fld.tntSts_state 3) 2) with mb := { d.mb with fg := some ⟨2, none, .scanMedia .a 0, 0, 1, false, 0⟩ } }, .mctp, 0, 3, by decide⟩,
   ⟨onDev (bound) fun d => { d with mb := { d.mb with fg := some ⟨1, some .mctp, .sanitise 3 true (some 9), 0, 4, false, 0⟩, stepDue := true } }, ⟨1, some .mctp, .sanitise 3 true (some 9), 0, 4, false, 0⟩, 3, true, 9, by decide⟩,
   ⟨onDev (bound) fun d => { d with mb := { d.mb with fg := some ⟨2, some .mctp, .scanMedia .a 0, 1, 4, false, 0⟩, stepDue := true } }, ⟨2, some .mctp, .scanMedia .a 0, 1, 4, false, 0⟩, .a, 0, by decide⟩,
   ⟨onDev bound fun d => { d.putCrema (2 ^ 22 + 5) 77 with mb := { d.mb with stepDue := true, internal := [⟨0x10, none, .blockSanitise [(0, 1)], 0, 1, false, 0⟩] } }, ⟨0x10, none, .blockSanitise [(0, 1)], 0, 1, false, 0⟩, 1, by decide⟩,
   ⟨onDev (bound) fun d => { d.modFch 2 fun f => { f with subtrees := [(1, 7)] } with mb := { d.mb with internal := [⟨0x11, none, .subtreeReinit 2 1 7, 8, 8, false, 0⟩] } }, ⟨0x11, none, .subtreeReinit 2 1 7, 8, 8, false, 0⟩, 2, 1, 7, by decide⟩⟩

/-- The hypotheses of PoisonIsInjectedClearedAndListed can be met. -/
theorem test_meets_PoisonIsInjectedClearedAndListed :
  (∃ (s : State) (i : Iface) (ld dpa : Nat) (ma : Nat), s.dev.takesNow i 0x4301 ∧
    dpa % 64 = 0 ∧
    s.dev.dpaMa (ifacePort i) ld dpa = some (ma, false) ∧
    NearLine s.dev ma) ∧
  (∃ (s : State) (i : Iface) (ld dpa : Nat) (ma : Nat), s.dev.takesNow i 0x4301 ∧
    dpa % 64 = 0 ∧
    s.dev.dpaMa (ifacePort i) ld dpa = some (ma, false) ∧
    FarLine s.dev ma) ∧
  (∃ (s : State) (i : Iface) (ld dpa : Nat) (ma : Nat), s.dev.takesNow i 0x4302 ∧
    dpa % 64 = 0 ∧
    s.dev.dpaMa (ifacePort i) ld dpa = some (ma, false) ∧
    NearLine s.dev ma) ∧
  (∃ (s : State) (i : Iface) (ld dpa : Nat) (ma : Nat), s.dev.takesNow i 0x4302 ∧
    dpa % 64 = 0 ∧
    s.dev.dpaMa (ifacePort i) ld dpa = some (ma, false) ∧
    FarLine s.dev ma) ∧
  (∃ (s : State) (i : Iface) (ld dpa : Nat), s.dev.takesNow i 0x4301 ∧
    (dpa % 64 ≠ 0 ∨ s.dev.dpaMa (ifacePort i) ld dpa = none)) ∧
  (∃ (s : State) (i : Iface) (ld dpa : Nat), s.dev.takesNow i 0x4302 ∧
    (dpa % 64 ≠ 0 ∨ s.dev.dpaMa (ifacePort i) ld dpa = none)) ∧
  (∃ (s : State) (i : Iface) (ld : Nat), s.dev.takesNow i 0x4300 ∧
    ld < 16) :=
  ⟨⟨nearBound, .mctp, 0, 0x1040, mkMa 0 false 0x10001040, by decide⟩,
   ⟨openFar, .mctp, 0, 0x1040, mkMa 0 true 0x50001040, by decide⟩,
   ⟨nearBound, .mctp, 0, 0x1040, mkMa 0 false 0x10001040, by decide⟩,
   ⟨openFar, .mctp, 0, 0x1040, mkMa 0 true 0x50001040, by decide⟩,
   ⟨bound, .mctp, 0, 3, by decide⟩,
   ⟨bound, .mctp, 0, 3, by decide⟩,
   ⟨bound, .portA, 0, by decide⟩⟩

/-- The hypotheses of DynamicCapacityIsOfferedAndReleased can be met. -/
theorem test_meets_DynamicCapacityIsOfferedAndReleased :
  (∃ (s : State) (t : TenantId) (r : Fin 8) (n : Nat) (es : List Nat) (ws : List Word), FmTaken s.dev ∧
    s.dev.flag Fld.glbSecCtl_mctpRo = false ∧
    s.dev.tntState t = 1 ∧
    (dcRegion s.dev t r.val).medium ≠ 0 ∧
    n ≠ 0 ∧
    s.dev.stagedTenant t = false ∧
    es = (s.dev.freeRegionEntries t r.val).take n ∧
    ws = (s.dev.regionWords (dcRegion s.dev t r.val) (s.dev.tenant t).members).take n ∧
    es.length = n ∧
    ws.length = n) ∧
  (∃ (s : State) (t : TenantId) (r : Fin 8) (n : Nat), FmTaken s.dev ∧
    s.dev.flag Fld.glbSecCtl_mctpRo = false ∧
    s.dev.tntState t = 1 ∧
    (dcRegion s.dev t r.val).medium ≠ 0 ∧
    s.dev.stagedTenant t = false ∧
    ((s.dev.freeRegionEntries t r.val).length < n ∨ (s.dev.regionWords (dcRegion s.dev t r.val) (s.dev.tenant t).members).length < n)) ∧
  (∃ (s : State) (p : PortId) (ld : Nat) (acc : List Nat) (t : TenantId), s.dev.takesNow (portIface p) 0x4802 ∧
    s.dev.tenantOf p ld = some t ∧
    (∀ b ∈ acc, ∃ e ∈ (s.dev.tenant t).dc, e.accepted = false ∧ e.answer = none ∧ s.dev.dcBlock t e = b)) ∧
  (∃ (s : State) (p : PortId) (ld b : Nat) (acc : List Nat) (t : TenantId), s.dev.takesNow (portIface p) 0x4802 ∧
    s.dev.tenantOf p ld = some t ∧
    b ∈ acc ∧
    (∀ e ∈ (s.dev.tenant t).dc, e.accepted = false → e.answer = none → s.dev.dcBlock t e ≠ b)) ∧
  (∃ (s : State) (p : PortId) (ld : Nat) (bs : List Nat) (t : TenantId), s.dev.takesNow (portIface p) 0x4803 ∧
    s.dev.tenantOf p ld = some t ∧
    (∀ b ∈ bs, ∃ e ∈ (s.dev.tenant t).dc, e.accepted = true ∧ s.dev.dcBlock t e = b)) ∧
  (∃ (s : State) (p : PortId) (ld b : Nat) (bs : List Nat) (t : TenantId), s.dev.takesNow (portIface p) 0x4803 ∧
    s.dev.tenantOf p ld = some t ∧
    b ∈ bs ∧
    (∀ e ∈ (s.dev.tenant t).dc, e.accepted = true → s.dev.dcBlock t e ≠ b)) ∧
  (∃ (s : State) (t : TenantId) (bs : List Nat), FmTaken s.dev ∧
    s.dev.flag Fld.glbSecCtl_mctpRo = false ∧
    s.dev.tntState t ≠ 0 ∧
    (∀ b ∈ bs, ∃ e ∈ (s.dev.tenant t).dc, s.dev.dcBlock t e = b)) ∧
  (∃ (s : State) (t : TenantId) (b : Nat) (bs : List Nat), FmTaken s.dev ∧
    s.dev.flag Fld.glbSecCtl_mctpRo = false ∧
    b ∈ bs ∧
    (∀ e ∈ (s.dev.tenant t).dc, s.dev.dcBlock t e ≠ b)) ∧
  (∃ (s : State) (t : TenantId) (r : Fin 8) (n : Nat), FmTaken s.dev ∧
    s.dev.flag Fld.glbSecCtl_mctpRo = false ∧
    s.dev.tntState t = 1 ∧
    (dcRegion s.dev t r.val).medium ≠ 0 ∧
    (∀ e ∈ (s.dev.tenant t).dc, e.region < r.val) ∧
    s.dev.stagedTenant t = false ∧
    n ≤ (dcRegion s.dev t r.val).len ∧
    (dcRegion s.dev t r.val).len ≤ s.dev.extLen t) ∧
  (∃ (s : State), FmTaken s.dev ∧
    s.dev.flag Fld.glbSecCtl_mctpRo = true) ∧
  (∃ (s : State), FmTaken s.dev) :=
  ⟨⟨withRegion, 3, 0, 2, [9, 10], [mkExt true false false 0 true 0, mkExt true false false 0 true 1], by decide⟩,
   ⟨withRegion, 3, 0, 3, by decide⟩,
   ⟨withDc false, .a, 0, [1], 3, by decide⟩,
   ⟨withDc true, .a, 0, 1, [1], 3, by decide⟩,
   ⟨withDc true, .a, 0, [1], 3, by decide⟩,
   ⟨withDc false, .a, 0, 1, [1], 3, by decide⟩,
   ⟨withDc false, 3, [1], by decide⟩,
   ⟨withDc false, 3, 2, [1, 2], by decide⟩,
   ⟨withRegion, 3, 0, 1, by decide⟩,
   ⟨onDev (withDc false) fun d => d.setFlag Fld.glbSecCtl_mctpRo true, by decide⟩,
   ⟨withDc true, by decide⟩⟩

/-- The hypotheses of FabricManagerAndTableReadsAnswer can be met. -/
theorem test_meets_FabricManagerAndTableReadsAnswer :
  (∃ (s : State), FmTaken s.dev) ∧
  (∃ (s : State) (p : PortId) (ld : Nat) (t : TenantId), s.dev.hostPort p = true ∧
    s.dev.linkUp p = true ∧
    s.dev.tenantOf p ld = some t) ∧
  (∃ (s : State) (p : PortId) (ld : Nat), s.dev.hostPort p = true ∧
    s.dev.linkUp p = true ∧
    s.dev.tenantOf p ld = none) :=
  ⟨⟨bound, by decide⟩,
   ⟨bound, .a, 0, 3, by decide⟩,
   ⟨bound, .a, 1, by decide⟩⟩

/-- The hypotheses of AttestationAnswersAndSigns can be met. -/
theorem test_meets_AttestationAnswersAndSigns :
  (∃ (s : State) (tr : Transport), s.dev.spdmOpen tr = true) ∧
  (∃ (s : State) (tr : Transport) (n : Byte), s.dev.spdmOpen tr = true ∧
    (s.dev.conn tr).negotiated = true ∧
    (n.toNat ≤ 6 ∨ n.toNat = 255)) ∧
  (∃ (s : State) (tr : Transport) (n : Byte), s.dev.spdmOpen tr = true ∧
    (s.dev.conn tr).negotiated = true ∧
    (n.toNat ≤ 6 ∨ n.toNat = 255) ∧
    s.dev.sec.signKeys = true) ∧
  (∃ (s : State) (tr : Transport), s.dev.spdmOpen tr = true ∧
    (s.dev.conn tr).negotiated = true ∧
    s.dev.sec.signKeys = true) ∧
  (∃ (s : State) (tr : Transport), s.dev.spdmOpen tr = true ∧
    (s.dev.conn tr).negotiated = true ∧
    s.dev.sec.signKeys = true ∧
    s.dev.lifecycle = .provisioned) ∧
  (∃ (s : State) (tr : Transport), s.dev.spdmOpen tr = true ∧
    (s.dev.conn tr).negotiated = true ∧
    s.dev.lifecycle = .provisioned) ∧
  (∃ (s : State) (tr : Transport), s.dev.spdmOpen tr = true ∧
    s.dev.lifecycle ≠ .provisioned) ∧
  (∃ (s : State) (tr : Transport) (k : Nat) (rest : List (Transport × Nat)) (data : List Nat), s.dev.signQ = (tr, k) :: rest ∧
    data = (if k / 256 = 0x60 then s.dev.measurements (k % 256) else if k / 256 = 0x6D then compositeKey.map (·.toNat) else [])) :=
  ⟨⟨spdmUp [], .mctp, by decide⟩,
   ⟨spdmUp [], .mctp, 0, by decide⟩,
   ⟨spdmUp [], .mctp, 3, by decide⟩,
   ⟨spdmUp [], .mctp, by decide⟩,
   ⟨spdmUp [], .mctp, by decide⟩,
   ⟨spdmUp [], .mctp, by decide⟩,
   ⟨onDev (spdmUp []) fun d => { d with fuses := { d.fuses with lc := 0xFFF } }, .mctp, by decide⟩,
   ⟨spdmUp [(.mctp, 0x6401), (.doeA, 3)], .mctp, 0x6401, [(.doeA, 3)], [], by decide⟩⟩

/-- The hypotheses of HostRequestsReachTheirLine can be met. -/
theorem test_meets_HostRequestsReachTheirLine :
  (∃ (s : State) (r : HostReq) (t : TenantId) (x : Decoded) (ma : Nat), Reaches s.dev r t x ma ∧
    (maFar ma = true ∨ NearLine s.dev ma)) ∧
  (∃ (s : State) (r : HostReq) (t : TenantId) (x : Decoded) (ma : Nat) (m : BitVec 64), Reaches s.dev r t x ma ∧
    (maFar ma = true ∨ NearLine s.dev ma) ∧
    m ≠ allBytes) ∧
  (∃ (s : State) (r : HostReq) (t : TenantId) (x : Decoded) (ma : Nat) (a : AtomicArgs), Reaches s.dev r t x ma ∧
    (maFar ma = true ∨ NearLine s.dev ma) ∧
    atomicOk a r.hpa = true) ∧
  (∃ (s : State) (r : HostReq) (t : TenantId) (x : Decoded) (ma : Nat), Reaches s.dev r t x ma ∧
    maFar ma = true) ∧
  (∃ (s : State) (r : HostReq) (t : TenantId) (x : Decoded) (ma : Nat), Reaches s.dev r t x ma ∧
    NearLine s.dev ma) ∧
  (∃ (s : State) (r : HostReq) (t : TenantId) (x : Decoded) (ma : Nat), Reaches s.dev r t x ma) ∧
  (∃ (s : State) (r : HostReq) (a : AtomicArgs) (bar : Bool), s.dev.portOpen r.port = true ∧
    (bar = true ∨ atomicOk a r.hpa = false)) ∧
  (∃ (s : State) (r : HostReq) (t : TenantId) (x : Decoded) (ma : Nat) (sh : Nat), Reaches s.dev r t x ma ∧
    viaDb s.dev r x = true ∧
    s.dev.sharerOf r.port r.ld = some sh) :=
  ⟨⟨hostNear false, req 0, 3, dcd 0x1040, mkMa 0 false 0x10001040, by decide⟩,
   ⟨hostNear false, req 0, 3, dcd 0x1040, mkMa 0 false 0x10001040, 3, by decide⟩,
   ⟨hostNear false, req 0, 3, dcd 0x1040, mkMa 0 false 0x10001040, ⟨.swap, 8, 5, 0, 1⟩, by decide⟩,
   ⟨hostFar true, req 0, 3, dcd 0x1040, mkMa 0 true 0x50001040, by decide⟩,
   ⟨hostNear true, req 0, 3, dcd 0x1040, mkMa 0 false 0x10001040, by decide⟩,
   ⟨hostNear true, req 0, 3, dcd 0x1040, mkMa 0 false 0x10001040, by decide⟩,
   ⟨hostNear true, req 0, ⟨.swap, 8, 5, 0, 1⟩, true, by decide⟩,
   ⟨hostNear true, req 0, 3, dcd 0x1040, mkMa 0 false 0x10001040, 2, by decide⟩⟩

/-- The hypotheses of LinesReturnToTheirRequests can be met. -/
theorem test_meets_LinesReturnToTheirRequests :
  (∃ (s : State) (x : Txn), Only s.dev x .tag ∧
    x.op.isRead = true ∧
    FarLine s.dev x.ma ∧
    x.comp = false ∧
    x.spec = none ∧
    s.dev.farFresh (s.dev.farLoc (maOff x.ma)).ch ((s.dev.farLoc (maOff x.ma)).cli / 64) = true) ∧
  (∃ (s : State) (x : Txn), Only s.dev x .tag ∧
    x.op.isRead = true ∧
    FarLine s.dev x.ma ∧
    x.comp = false ∧
    x.spec = none ∧
    s.dev.farFresh (s.dev.farLoc (maOff x.ma)).ch ((s.dev.farLoc (maOff x.ma)).cli / 64) = false) ∧
  (∃ (s : State) (x : Txn) (w : Nat), Only s.dev x .tag ∧
    x.op.isRead = true ∧
    maFar x.ma = true ∧
    s.dev.farGone x.ma = false ∧
    x.spec = none ∧
    s.dev.findWay (maPage x.ma) x.comp = some w ∧
    (s.dev.frame (s.dev.setOf (maPage x.ma)) w).st = 1 ∧
    (s.dev.frame (s.dev.setOf (maPage x.ma)) w).has (maLine x.ma) = true ∧
    s.dev.lostPending (s.dev.frameOf (s.dev.setOf (maPage x.ma)) w) (maLine x.ma) = false) ∧
  (∃ (s : State) (x : Txn) (t : Stamp), Only s.dev x .tag ∧
    x.spec = some t ∧
    s.dev.fld Fld.crmSpecCtl_hold ≤ t.cyclesTo s.dev.stamp) ∧
  (∃ (s : State) (id n : Nat), s.dev.live = true ∧
    s.dev.schedWith id = some n) ∧
  (∃ (s : State) (x : Txn), Only s.dev x .far ∧
    x.op.isRead = true ∧
    FarLine s.dev x.ma ∧
    x.comp = false) ∧
  (∃ (s : State) (x : Txn), Only s.dev x .far ∧
    FarLine s.dev x.ma ∧
    s.dev.halted = false ∧
    s.dev.mode.mayHalt = true ∧
    (s.dev.farView (s.dev.farLoc (maOff x.ma)).ch (s.dev.farLoc (maOff x.ma)).cli).2 = false) ∧
  (∃ (s : State) (x : Txn), Only s.dev x .crema ∧
    x.op.isRead = true ∧
    NearLine s.dev x.ma) ∧
  (∃ (s : State) (x : Txn), Only s.dev x .crema ∧
    x.op.isMasked = true ∧
    x.poisoned = false ∧
    NearLine s.dev x.ma ∧
    (s.dev.readLine x.ma false).2 = false) ∧
  (∃ (s : State) (x : Txn) (a : AtomicArgs) (p : PortId) (ld tag hpa : Nat), Only s.dev x .crema ∧
    x.op = .atomic ∧
    x.atom = some a ∧
    x.poisoned = false ∧
    x.org = .host p ld tag hpa ∧
    NearLine s.dev x.ma ∧
    s.dev.flag Fld.cohAtomCtl_nearEn = false ∧
    (s.dev.readLine x.ma false).2 = false) ∧
  (∃ (s : State) (set : Nat) (w : Fin 16), s.dev.live = true ∧
    s.dev.txns = [] ∧
    (s.dev.frame set w.val).st = 2 ∧
    s.dev.jobOn set w.val = false ∧
    (s.dev.frame set w.val).valid ≠ 0) ∧
  (∃ (s : State) (set : Nat) (w : Fin 16) (errs : LineErrs) (x : FarLoc), s.dev.live = true ∧
    s.dev.txns = [] ∧
    (s.dev.frame set w.val).st = 3 ∧
    (s.dev.frame set w.val).c = false ∧
    s.dev.jobOn set w.val = false ∧
    Sparse.get 0 s.dev.crm.evictFor (set * 16 + w.val) = 0 ∧
    s.dev.crm.rebuilds = [] ∧
    s.dev.cry.rekey = none ∧
    x = s.dev.farLoc (offOf (s.dev.pageOf set (s.dev.frame set w.val).tag) 0) ∧
    s.dev.farLost x.ch = false ∧
    s.dev.inSubtree x.ch (x.cli / 64) = false ∧
    (errs = [] ∨ s.dev.frameOf set w.val < s.dev.metaFrame)) :=
  ⟨⟨farTxn .rd .tag id, farRd .rd .tag, by decide⟩,
   ⟨farTxn .rd .tag (fun d => d.farStore 0 0x1400041 77 false), farRd .rd .tag, by decide⟩,
   ⟨farTxn .rdData .tag inFrame, farRd .rdData .tag, 2, by decide⟩,
   ⟨onDev (farTxn .rd .tag id) fun d => { d with clk := ⟨true, 70000, 0⟩, txns := [{ farRd .rd .tag with spec := some ⟨1, 0⟩ }] }, { farRd .rd .tag with spec := some ⟨1, 0⟩ }, ⟨1, 0⟩, by decide⟩,
   ⟨queuedAt 70000 .b, 0, 70, by decide⟩,
   ⟨farTxn .rd .far (fun d => d.farStore 0 0x1400041 77 false), farRd .rd .far, by decide⟩,
   ⟨onDev (farTxn .rd .far (fun d => d.farStore 0 0x1400041 77 false)) fun d => { d with cry := { d.cry with key := some 3 } }, farRd .rd .far, by decide⟩,
   ⟨nearTxn .rd 77, nearRd .rd, by decide⟩,
   ⟨nearTxn .wrPtl 77, nearRd .wrPtl, by decide⟩,
   ⟨onDev (nearTxn .atomic 77) fun d => d.setFlag Fld.cohAtomCtl_nearEn false, nearRd .atomic, ⟨.fetchAdd, 4, 5, 0, 1⟩, .a, 0, 7, 0x1040, by decide⟩,
   ⟨onDev openFar fun d => d.setFrame 3 2 { Frame.none with st := 2, c := true, valid := 1, tag := 9 }, 3, 2, by decide⟩,
   ⟨onDev openFar fun d => (d.cremaStore (d.frameOf 3 2) 5 77 false).setFrame 3 2 { Frame.none with st := 3, valid := 33, dirty := 32, tag := 9 }, 3, 2, [], ⟨0, 64 * pg39⟩, by decide⟩⟩

/-- The hypotheses of CoherenceMovesOn can be met. -/
theorem test_meets_CoherenceMovesOn :
  (∃ (s : State) (p : PortId) (hpa ma i : Nat) (sn : Snoop) (x : Txn), s.dev.linkUp p = true ∧
    s.dev.maOfHpa p hpa = some ma ∧
    maMember ma = s.dev.chainId ∧
    maFar ma = true ∧
    s.dev.home.snoops = [sn] ∧
    sn.line = lineKey ma ∧
    sn.sent.isSome = true ∧
    sn.txn = some x.id ∧
    s.dev.txns = [x] ∧
    x.phase = .snooping ∧
    x.op.isUio = true ∧
    lineKey x.ma = sn.line ∧
    maFar x.ma = true ∧
    s.dev.dirFind (lineKey ma) = some i ∧
    s.dev.leaseOf (lineKey ma) = none) ∧
  (∃ (s : State) (p : PortId) (hpa : Nat), s.dev.linkUp p = true ∧
    (∀ ma ∈ (s.dev.maOfHpa p hpa).toList, maMember ma = s.dev.chainId ∧ s.dev.snoopOf (lineKey ma) = none)) ∧
  (∃ (s : State) (p : PortId) (hpa : Nat), s.dev.linkUp p = true ∧
    s.dev.isMember = false ∧
    (∀ ma ∈ (s.dev.maOfHpa p hpa).toList, maMember ma = s.dev.chainId ∧ s.dev.snoopOf (lineKey ma) = none)) ∧
  (∃ (s : State) (sn : Snoop) (t : Stamp) (i : Nat), s.dev.live = true ∧
    s.dev.home.snoops = [sn] ∧
    sn.sent = some t ∧
    t.pour + s.dev.fld Fld.cohCtl_timeout ≤ s.dev.now ∧
    sn.txn = none ∧
    s.dev.txns = [] ∧
    s.dev.dirFind sn.line = some i ∧
    NearLine s.dev (s.dev.maOfKey sn.line) ∧
    sn.sharer < 16) ∧
  (∃ (s : State) (k p : Nat), AtBoundary s.dev ∧
    s.dev.live = true ∧
    s.dev.home.holds = [(k, p)] ∧
    p + 2 ≤ s.dev.now ∧
    s.dev.snoopOf k = none) ∧
  (∃ (s : State) (x : Txn) (sl : Fin 16), s.dev.live = true ∧
    s.dev.txns = [x] ∧
    x.phase = .retry ∧
    sliceOf (lineKey x.ma) = sl.val ∧
    x.op = .rd ∧
    maFar x.ma = true ∧
    Unshared s.dev (lineKey x.ma) ∧
    s.dev.leaseOf (lineKey x.ma) = none) ∧
  (∃ (s : State) (l : Lease) (x : Txn), s.dev.live = true ∧
    s.dev.home.leases = [l] ∧
    s.dev.txns = [x] ∧
    x.id = l.txn ∧
    x.phase = .leased ∧
    l.dirty = true ∧
    NearLine s.dev x.ma ∧
    8 * s.dev.fld Fld.cohAtomCtl_idle ≤ l.lastUse.cyclesTo s.dev.stamp) ∧
  (∃ (s : State) (l : Lease) (x : Txn), s.dev.live = true ∧
    s.dev.home.leases = [l] ∧
    s.dev.txns = [x] ∧
    x.id = l.txn ∧
    x.phase = .leased ∧
    l.dirty = true ∧
    NearLine s.dev x.ma ∧
    l.since + s.dev.fld Fld.cohAtomCtl_maxp ≤ s.dev.now) ∧
  (∃ (s : State) (r : HostReq) (t : TenantId) (y : Decoded) (ma : Nat) (x : Txn), s.dev.txns = [x] ∧
    x.phase = .regHeld ∧
    x.tenant = some t ∧
    x.org = .host r.port r.ld r.tag r.hpa ∧
    x.op = .rd ∧
    Reaches ({ s.dev with txns := [] } : Dev) r t y ma ∧
    (maFar ma = true ∨ NearLine s.dev ma)) :=
  ⟨⟨snooped .exclusive, .a, 0x1040, mkMa 0 true 0x50001040, dirBase (lineKey (mkMa 0 true 0x50001040)), theSnoop, { farRd .uioRd .snooping with db := true, sharer := some 2 }, by decide⟩,
   ⟨hostFar true, .a, 0x1040, by decide⟩,
   ⟨hostFar true, .a, 0x1040, by decide⟩,
   ⟨onDev (hostNear true) fun d => { (d.setDir (dirBase (lineKey (mkMa 0 false 0x10001040))) ⟨dirTag (lineKey (mkMa 0 false 0x10001040)), .exclusive, 4, false, false, 0⟩) with clk := ⟨true, 2000000, 0⟩, home := { d.home with snoops := [⟨lineKey (mkMa 0 false 0x10001040), 2, true, some ⟨1, 0⟩, none, true⟩], dir := [(dirBase (lineKey (mkMa 0 false 0x10001040)), ⟨dirTag (lineKey (mkMa 0 false 0x10001040)), .exclusive, 4, false, false, 0⟩)] } }, ⟨lineKey (mkMa 0 false 0x10001040), 2, true, some ⟨1, 0⟩, none, true⟩, ⟨1, 0⟩, dirBase (lineKey (mkMa 0 false 0x10001040)), by decide⟩,
   ⟨onDev (hostNear true) fun d => { d with clk := ⟨true, 7, 0⟩, home := { d.home with holds := [(lineKey (mkMa 0 false 0x10001040), 4)], dir := [(dirBase (lineKey (mkMa 0 false 0x10001040)), ⟨dirTag (lineKey (mkMa 0 false 0x10001040)), .exclusive, 4, false, true, 0⟩)] } }, lineKey (mkMa 0 false 0x10001040), 4, by decide⟩,
   ⟨farTxn .rd .retry id, farRd .rd .retry, Fin.ofNat 16 (sliceOf (lineKey (mkMa 0 true 0x50001040))), by decide⟩,
   ⟨leased, theLease, { nearRd .atomic with phase := .leased }, by decide⟩,
   ⟨leased, theLease, { nearRd .atomic with phase := .leased }, by decide⟩,
   ⟨onDev (hostFar true) fun d => { d with txns := [{ farRd .rd .regHeld with cls := .l }] }, ⟨.a, 0, 0x1040, 7⟩, 3, dcd 0x1040, mkMa 0 true 0x50001040, { farRd .rd .regHeld with cls := .l }, by decide⟩⟩

/-- The hypotheses of ArraysScrubAndPipelinesReport can be met. -/
theorem test_meets_ArraysScrubAndPipelinesReport :
  (∃ (s : State) (a : Array64K) (e : MergeEntry) (rest : List MergeEntry), s.dev.live = true ∧
    Sparse.get [] s.dev.merge (arrayIdx a) = e :: rest ∧
    a ≠ .metadataCache) ∧
  (∃ (s : State) (a : Array64K) (e : MergeEntry) (rest : List MergeEntry), s.dev.live = true ∧
    Sparse.get [] s.dev.merge (arrayIdx a) = e :: rest) ∧
  (∃ (s : State) (a : Array64K), (s.dev.live = false ∨ Sparse.get [] s.dev.merge (arrayIdx a) = [])) ∧
  (∃ (s : State) (c : FarCh), s.dev.scrubs = true ∧
    s.dev.flag Fld.rasScrubCtl_farEn = true ∧
    s.dev.farServes c.val = true ∧
    s.dev.fld (Fld.farChSts_state c.val) ≠ 3 ∧
    (s.dev.fch c.val).scrubNext ≤ s.dev.now ∧
    s.dev.mem.farPoison = []) ∧
  (∃ (s : State) (c : FarCh) (flips : List (BitVec 80)), s.dev.scrubs = true ∧
    s.dev.flag Fld.rasScrubCtl_farEn = true ∧
    s.dev.farServes c.val = true ∧
    s.dev.fld (Fld.farChSts_state c.val) ≠ 3 ∧
    (s.dev.fch c.val).scrubNext ≤ s.dev.now ∧
    s.dev.metaAt c.val (s.dev.fch c.val).scrubPos = none ∧
    s.dev.mem.written.has (pageKey c.val ((s.dev.fch c.val).scrubPos / 64)) = true ∧
    s.dev.cry.rekey = none ∧
    Code.dt79.decodeLine (s.dev.mem.farPoison.has (farKey c.val (s.dev.fch c.val).scrubPos)) flips = .bad) ∧
  (∃ (s : State), s.dev.scrubs = true ∧
    s.dev.flag Fld.rasScrubCtl_crmEn = true ∧
    s.dev.crm.scrubNext ≤ s.dev.now ∧
    s.dev.mem.cremaPoison = []) ∧
  (∃ (s : State) (u : Fin 64), s.dev.live = true ∧
    s.dev.cry.xtsFailed.has u.val = false ∧
    s.dev.mb.fg = none ∧
    0 < s.dev.fld Fld.cryPipeSts_xtsSpares) ∧
  (∃ (s : State) (u : Fin 64), s.dev.live = true ∧
    s.dev.cry.xtsFailed.has u.val = false ∧
    s.dev.mb.fg = none ∧
    s.dev.fld Fld.cryPipeSts_xtsSpares = 0 ∧
    s.dev.due.degrade = none) ∧
  (∃ (s : State) (u : Fin 64), s.dev.live = true ∧
    s.dev.cry.ctrFailed.has u.val = false ∧
    s.dev.mb.fg = none ∧
    u.val < 32 ∧
    0 < s.dev.fld Fld.cryPipeSts_ctrSpares) ∧
  (∃ (s : State) (u : Fin 64), s.dev.live = true ∧
    s.dev.cry.ctrFailed.has u.val = false ∧
    s.dev.mb.fg = none ∧
    u.val < 32 ∧
    s.dev.fld Fld.cryPipeSts_ctrSpares = 0 ∧
    s.dev.due.degrade = none) :=
  ⟨⟨merging (arrayIdx .tagCache), .tagCache, ⟨5, 3, ⟨1, 0⟩⟩, [⟨6, 1, ⟨1, 0⟩⟩], by decide⟩,
   ⟨merging (arrayIdx .metadataCache), .metadataCache, ⟨5, 3, ⟨1, 0⟩⟩, [⟨6, 1, ⟨1, 0⟩⟩], by decide⟩,
   ⟨merging (arrayIdx .directory), .eventRing, by decide⟩,
   ⟨scrubbing 5, 0, by decide⟩,
   ⟨scrubbing 5, 0, [7], by decide⟩,
   ⟨scrubbing 5, by decide⟩,
   ⟨onDev serving fun d => d.setFld Fld.cryPipeSts_xtsSpares 2, 5, by decide⟩,
   ⟨onDev serving fun d => d.setFld Fld.cryPipeSts_xtsSpares 0, 5, by decide⟩,
   ⟨onDev serving fun d => d.setFld Fld.cryPipeSts_ctrSpares 2, 5, by decide⟩,
   ⟨onDev serving fun d => d.setFld Fld.cryPipeSts_ctrSpares 0, 5, by decide⟩⟩

/-- The hypotheses of RefreshAndGuaranteeChecksCharge can be met. -/
theorem test_meets_RefreshAndGuaranteeChecksCharge :
  (∃ (s : State) (pc : Fin 64), s.dev.cremaRefreshes (pc.val / 2) = true ∧
    (s.dev.slotSet pc.val).refs < s.dev.cremaQuota) ∧
  (∃ (s : State) (ch : FarCh) (sub : Bool) (k : Nat), s.dev.farAwake ch.val = true ∧
    k = 64 + 2 * ch.val + bitOf sub ∧
    (s.dev.slotSet k).refs < s.dev.farQuota ch.val) ∧
  (∃ (s : State) (pc : Fin 64), s.dev.cremaQuota ≤ (s.dev.slotSet pc.val).refs) ∧
  (∃ (s : State) (ch : FarCh) (sub : Bool), s.dev.farQuota ch.val ≤ (s.dev.slotSet (64 + 2 * ch.val + bitOf sub)).refs) ∧
  (∃ (s : State) (ch : FarCh) (rs : List Mr4), s.dev.farAwake ch.val = true ∧
    rs ≠ [] ∧
    (s.dev.fch ch.val).mr4Next ≤ s.dev.now) ∧
  (∃ (s : State), AtBoundary s.dev ∧
    s.dev.live = true ∧
    s.dev.clk.running = true ∧
    s.dev.now % 64 = 0 ∧
    0 < s.dev.now ∧
    s.dev.due.checkedAt ≠ some s.dev.now ∧
    s.dev.shortTenants belowBy0p1 ≠ [] ∧
    s.dev.due.gslot = true) ∧
  (∃ (s : State), AtBoundary s.dev ∧
    s.dev.live = true ∧
    s.dev.clk.running = true ∧
    s.dev.now % 64 = 0 ∧
    0 < s.dev.now ∧
    s.dev.due.checkedAt ≠ some s.dev.now ∧
    s.dev.shortTenants belowTolerance ≠ [] ∧
    s.dev.due.gslot = false ∧
    s.dev.fld Fld.svcScaleSts_factor = 65536) :=
  ⟨⟨onDev serving fun d => { d with clk := ⟨true, 1, 0⟩ }, 5, by decide⟩,
   ⟨onDev openFar fun d => { ((d.setFlag (Fld.farChSts_inSet 0) true).setFld (Fld.farChSts_state 0) 2).modFch 0 fun f => { f with dimms := [⟨true, false, 6400, false, false, true, 2, 1, 64, 195, 115, 0, 0⟩] } with clk := ⟨true, 15, 0⟩ }, 0, true, 65, by decide⟩,
   ⟨onDev serving fun d => { d with clk := ⟨true, 0, 0⟩ }, 5, by decide⟩,
   ⟨onDev (onDev serving fun d => (d.setFlag (Fld.farChSts_inSet 0) true).setFld (Fld.farChSts_state 0) 2) fun d => { d with pmu := { d.pmu with slots := [(65, { Slots.none with refs := 9 })] } }, 0, true, by decide⟩,
   ⟨onDev serving fun d => (d.setFlag (Fld.farChSts_inSet 0) true).setFld (Fld.farChSts_state 0) 2, 0, [.x2, .above], by decide⟩,
   ⟨shortAt true, by decide⟩,
   ⟨shortAt false, by decide⟩⟩

/-- The hypotheses of TemperatureActsAndReleases can be met. -/
theorem test_meets_TemperatureActsAndReleases :
  (∃ (s : State) (st di : List Reading) (hs hd : Int), s.dev.live = true ∧
    s.dev.thm.nextSample ≤ s.dev.now ∧
    s.dev.thm.stackFail = [] ∧
    s.dev.thm.dieFail = [] ∧
    st.length = s.dev.dies ∧
    di.length = 12 ∧
    (∀ r ∈ st ++ di, readingGood r = true) ∧
    hottest (st.map (·.quarters)) = some hs ∧
    hottest (di.map (·.quarters)) = some hd) ∧
  (∃ (s : State), s.dev.now < s.dev.thm.nextSample) ∧
  (∃ (s : State) (p : Nat), AtBoundary s.dev ∧
    s.dev.live = true ∧
    s.dev.flag Fld.crmRefCtl_doubled = true ∧
    s.dev.thm.cool83 = some p ∧
    p + 4096 ≤ s.dev.now ∧
    s.dev.flag Fld.crmThermSts_failsafe = false) ∧
  (∃ (s : State) (p : Nat), AtBoundary s.dev ∧
    s.dev.live = true ∧
    s.dev.flag Fld.crmThermSts_throtStack = true ∧
    s.dev.thm.cool90 = some p ∧
    p + 65536 ≤ s.dev.now) ∧
  (∃ (s : State) (p : Nat), AtBoundary s.dev ∧
    s.dev.live = true ∧
    s.dev.flag Fld.crmThermSts_throtDie = true ∧
    s.dev.thm.cool93 = some p ∧
    p + 65536 ≤ s.dev.now) ∧
  (∃ (s : State) (ch : FarCh) (p : Nat), AtBoundary s.dev ∧
    s.dev.live = true ∧
    (s.dev.mode = .await ∨ s.dev.mode = .serve ∨ s.dev.mode = .degraded ∨ s.dev.mode = .drowse ∨ s.dev.mode = .maint) ∧
    (s.dev.fch ch.val).hotSince = some p ∧
    p + 65536 ≤ s.dev.now) :=
  ⟨⟨serving, temps 100 340, List.replicate 12 ⟨400, true⟩, 340, 400, by decide⟩,
   ⟨onDev serving fun d => { d with thm := { d.thm with nextSample := d.now + 1 } }, by decide⟩,
   ⟨cooled, 1, by decide⟩,
   ⟨cooled, 1, by decide⟩,
   ⟨cooled, 1, by decide⟩,
   ⟨onDev cooled fun d => d.modFch 2 fun f => { f with hotSince := some 1 }, 2, 1, by decide⟩⟩

/-- The hypotheses of DisturbanceAndRecentringStep can be met. -/
theorem test_meets_DisturbanceAndRecentringStep :
  (∃ (s : State) (ch : FarCh), AtBoundary s.dev ∧
    s.dev.live = true ∧
    s.dev.fld (Fld.farChCfg_dist ch.val) = 1 ∧
    s.dev.now % 2 ^ s.dev.fld (Fld.farDistCtl_win ch.val) = 0 ∧
    s.dev.txns = []) ∧
  (∃ (s : State) (ch : FarCh), s.dev.farAwake ch.val = true ∧
    (s.dev.fch ch.val).dqsNext ≤ s.dev.now) ∧
  (∃ (s : State) (ch : FarCh) (p : Nat), AtBoundary s.dev ∧
    s.dev.live = true ∧
    (s.dev.fch ch.val).recentre = some p ∧
    s.dev.now ≤ p + 4096) ∧
  (∃ (s : State) (ch : FarCh), s.dev.live = true ∧
    (s.dev.fch ch.val).recentre.isSome = true) :=
  ⟨⟨onDev serving fun d => { ((d.setFld (Fld.farChCfg_dist 2) 1).setFld (Fld.farDistCtl_win 2) 9).modFch 2 fun f => { f with dist := [(65, 3)], distHeld := [4] } with clk := ⟨true, 1024, 0⟩ }, 2, by decide⟩,
   ⟨awake 2 none, 2, by decide⟩,
   ⟨awake 2 (some 1), 2, 1, by decide⟩,
   ⟨onDev (awake 2 (some 1)) fun d => d.setFld (Fld.farTrackSts_fails 2) 2, 2, by decide⟩⟩

/-- The hypotheses of CremaChannelsAndFramesAreManaged can be met. -/
theorem test_meets_CremaChannelsAndFramesAreManaged :
  (∃ (s : State) (i : Iface) (p : Payload), s.dev.takesNow i 0xC070 ∧
    s.dev.ownPayload p 24 ∧
    rangeBody (p.drop 8) 1 = true ∧
    leNat p 16 8 % 4096 = 0 ∧
    leNat p 24 8 % 4096 = 0 ∧
    (s.dev.tenantOf (portOf (byteAt p 8)) (byteAt p 9)).isSome = true ∧
    s.dev.mayStage i = true) ∧
  (∃ (s : State) (i : Iface) (p : Payload), s.dev.takesNow i 0xC070 ∧
    s.dev.ownPayload p 24 ∧
    (leNat p 16 8 % 4096 ≠ 0 ∨ leNat p 24 8 % 4096 ≠ 0)) ∧
  (∃ (s : State) (i : Iface) (p : Payload), s.dev.takesNow i 0xC071 ∧
    s.dev.ownPayload p 24 ∧
    rangeBody (p.drop 8) 3 = true ∧
    ((byteAt p 10).testBit 0 = true ∨ (s.dev.tenantOf (portOf (byteAt p 8)) (byteAt p 9)).isSome = true) ∧
    s.dev.mayStage i = true) ∧
  (∃ (s : State) (i : Iface) (p : Payload), s.dev.takesNow i 0xC072 ∧
    s.dev.ownPayload p 1 ∧
    s.dev.mayStage i = true) ∧
  (∃ (s : State) (b : Brew) (gib next i g0 : Nat), s.dev.live = true ∧
    s.dev.crm.bypassWalk = some (gib, next, i) ∧
    s.dev.frames = [] ∧
    s.dev.txns = [] ∧
    s.dev.mb.fg = some b ∧
    b.work = .nearSize g0 ∧
    gib ≤ s.dev.maxNear) ∧
  (∃ (s : State) (c : CremaCh) (k sp : Nat), AtBoundary s.dev ∧
    s.dev.live = true ∧
    s.dev.crm.lossDue = [c] ∧
    s.dev.crmRole c.val = 0 ∧
    s.dev.crm.rot = none ∧
    s.dev.mode = .serve ∧
    s.dev.txns = [] ∧
    k = s.dev.fld (Fld.crmChSts_logical c.val) ∧
    sp = s.dev.fld Fld.crmSts_spare ∧
    sp ≠ c.val ∧
    s.dev.flag Fld.crmSts_noSpare = false) ∧
  (∃ (s : State) (c : CremaCh) (k : Nat), AtBoundary s.dev ∧
    s.dev.live = true ∧
    s.dev.crm.lossDue = [c] ∧
    s.dev.crmRole c.val = 0 ∧
    s.dev.crm.rot = none ∧
    s.dev.mode = .serve ∧
    s.dev.txns = [] ∧
    k = s.dev.fld (Fld.crmChSts_logical c.val) ∧
    s.dev.flag Fld.crmSts_noSpare = true) ∧
  (∃ (s : State) (r : Rebuild), AtBoundary s.dev ∧
    s.dev.live = true ∧
    s.dev.crm.rebuilds = [r] ∧
    s.dev.txns = []) ∧
  (∃ (s : State) (ch : FarCh), AtBoundary s.dev ∧
    s.dev.live = true ∧
    (s.dev.fch ch.val).lossDue = true ∧
    s.dev.farLost ch.val = false ∧
    s.dev.mode = .serve ∧
    s.dev.txns = []) :=
  ⟨⟨bound, .mctp, [0, 0, 0, 0, 0, 0, 0, 0, 0, 0, 1, 0, 0, 0, 0, 0, 0, 16, 0, 0, 0, 0, 0, 0, 0, 32, 0, 0, 0, 0, 0, 0], by decide⟩,
   ⟨bound, .mctp, [0, 0, 0, 0, 0, 0, 0, 0, 0, 0, 1, 0, 0, 0, 0, 0, 1, 16, 0, 0, 0, 0, 0, 0, 0, 32, 0, 0, 0, 0, 0, 0], by decide⟩,
   ⟨bound, .mctp, [0, 0, 0, 0, 0, 0, 0, 0, 1, 3, 3, 0, 0, 0, 0, 0, 0, 0, 0, 0, 0, 0, 0, 0, 0, 0, 0, 0, 0, 0, 0, 0], by decide⟩,
   ⟨serving, .mctp, [0, 0, 0, 0, 0, 0, 0, 0, 4], by decide⟩,
   ⟨walking 2 0, ⟨5, some .mctp, .nearSize 0, 0, 9, false, 0⟩, 0, 99, 0, 0, by decide⟩,
   ⟨losing true, 4, 4, 31, by decide⟩,
   ⟨losing false, 4, 4, by decide⟩,
   ⟨onDev serving fun d => { d.setFlag Fld.crmSts_rebuild true with crm := { d.crm with rebuilds := [⟨4, 4, 0, true, 0, 0, [], []⟩] } }, ⟨4, 4, 0, true, 0, 0, [], []⟩, by decide⟩,
   ⟨onDev serving fun d => d.modFch 2 fun f => { f with lossDue := true }, 2, by decide⟩⟩

/-- The hypotheses of PressPoolsJobsAndEngines can be met. -/
theorem test_meets_PressPoolsJobsAndEngines :
  (∃ (s : State) (n : Fin 8) (i : Iface) (p : Payload), s.dev.takesNow i 0xC080 ∧
    s.dev.ownPayload p 12 ∧
    byteAt p 8 = 0 ∧
    byteAt p 9 = n.val ∧
    byteAt p 11 = 0 ∧
    byteAt p 10 ≤ 1 ∧
    (s.dev.pool n.val).used = false ∧
    s.dev.mayStage i = true ∧
    (∀ c ∈ s.dev.stg.cmds, poolNamed c ≠ some n)) ∧
  (∃ (s : State) (n : Fin 8) (i : Iface) (p : Payload), s.dev.takesNow i 0xC080 ∧
    s.dev.ownPayload p 12 ∧
    byteAt p 8 = 1 ∧
    byteAt p 9 = n.val ∧
    byteAt p 11 = 0 ∧
    byteAt p 10 = 0 ∧
    (s.dev.pool n.val).used = true ∧
    leNat p 16 4 = 0 ∧
    s.dev.mayStage i = true ∧
    (∀ c ∈ s.dev.stg.cmds, poolNamed c ≠ some n)) ∧
  (∃ (s : State) (n : Fin 8) (i : Iface) (p : Payload), s.dev.takesNow i 0xC080 ∧
    s.dev.ownPayload p 12 ∧
    byteAt p 8 = 2 ∧
    byteAt p 9 = n.val ∧
    byteAt p 11 = 0 ∧
    byteAt p 10 = 0 ∧
    (s.dev.pool n.val).used = true ∧
    leNat p 12 4 = 0 ∧
    s.dev.mayStage i = true ∧
    (∀ c ∈ s.dev.stg.cmds, poolNamed c ≠ some n)) ∧
  (∃ (s : State) (n : Fin 8) (i : Iface) (p : Payload), s.dev.takesNow i 0xC080 ∧
    s.dev.ownPayload p 12 ∧
    byteAt p 8 = 3 ∧
    byteAt p 9 = n.val ∧
    byteAt p 11 = 0 ∧
    byteAt p 10 = 0 ∧
    (s.dev.pool n.val).used = true ∧
    leNat p 12 4 = 0 ∧
    leNat p 16 4 = 0 ∧
    s.dev.mayStage i = true ∧
    (∀ c ∈ s.dev.stg.cmds, poolNamed c ≠ some n)) ∧
  (∃ (s : State) (ks : List Nat) (i : Iface) (p : Payload), s.dev.takesNow i 0xC081 ∧
    s.dev.ownPayload p 1 ∧
    s.dev.mb.fg = none ∧
    (byteAt p 8 = 0xFF ∨ (byteAt p 8 < 8 ∧ (s.dev.pool (byteAt p 8)).used = true)) ∧
    ks = ((if byteAt p 8 = 0xFF then List.range 8 else [byteAt p 8]).filter fun k => (s.dev.pool k).used && (s.dev.pool k).overcommit) ∧
    ks ≠ []) ∧
  (∃ (s : State) (e : Fin 4) (j : Job) (ls : List (Line × Bool)), s.dev.live = true ∧
    vget none s.dev.prs.engines e.val = some j ∧
    j.decode = true ∧
    j.txn = none ∧
    j.tries = [] ∧
    s.dev.prs.jobs = [] ∧
    (s.dev.frame j.set j.way).st = 2 ∧
    s.dev.decoded j.page = some ls ∧
    ls.length = 64 ∧
    j.way < 16) ∧
  (∃ (s : State) (e : Fin 4) (j : Job), s.dev.live = true ∧
    vget none s.dev.prs.engines e.val = some j ∧
    j.decode = false ∧
    s.dev.prs.jobs = [] ∧
    (s.dev.frame j.set j.way).st = 3 ∧
    (s.dev.storeFrame j.set j.way false).1 ≠ .wait) ∧
  (∃ (s : State), AtBoundary s.dev ∧
    s.dev.live = true) ∧
  (∃ (s : State) (e : Fin 4), AtBoundary s.dev ∧
    s.dev.live = true ∧
    e ∈ s.dev.prs.lossDue ∧
    s.dev.mode = .serve ∧
    s.dev.txns = [] ∧
    s.dev.prs.jobs = []) :=
  ⟨⟨withFar, 2, .mctp, [0, 0, 0, 0, 0, 0, 0, 0, 0, 2, 1, 0, 4, 0, 0, 0, 5, 0, 0, 0], by decide⟩,
   ⟨pooled, 2, .mctp, [0, 0, 0, 0, 0, 0, 0, 0, 1, 2, 0, 0, 4, 0, 0, 0, 0, 0, 0, 0], by decide⟩,
   ⟨pooled, 2, .mctp, [0, 0, 0, 0, 0, 0, 0, 0, 2, 2, 0, 0, 0, 0, 0, 0, 5, 0, 0, 0], by decide⟩,
   ⟨pooled, 2, .mctp, [0, 0, 0, 0, 0, 0, 0, 0, 3, 2, 0, 0, 0, 0, 0, 0, 0, 0, 0, 0], by decide⟩,
   ⟨pooled, [2], .mctp, [0, 0, 0, 0, 0, 0, 0, 0, 2], by decide⟩,
   ⟨jobbed 2 true, 1, ⟨true, 0x30005, 3, 2, none, [], .b⟩, List.replicate 64 (0, false), by decide⟩,
   ⟨jobbed 3 false, 1, ⟨false, 0x30005, 3, 2, none, [], .b⟩, by decide⟩,
   ⟨onDev pooled fun d => { d with prs := { d.prs with releasing := [5], taken := NatSet.add (NatSet.add [] 5) 9 } }, by decide⟩,
   ⟨onDev serving fun d => { d.setFld Fld.prsSts_engOk 2 with prs := { d.prs with lossDue := [1] } }, 1, by decide⟩⟩

/-- The hypotheses of DomainsFenceAndMeshErrorsStop can be met. -/
theorem test_meets_DomainsFenceAndMeshErrorsStop :
  (∃ (s : State) (n : Fin 12), s.dev.live = true ∧
    s.dev.domState n.val = 1) ∧
  (∃ (s : State) (n : Fin 12), AtBoundary s.dev ∧
    s.dev.live = true ∧
    s.dev.domState n.val = 1 ∧
    s.dev.noc.acked.has n.val = true) ∧
  (∃ (s : State) (n : Fin 12) (f : Nat), AtBoundary s.dev ∧
    s.dev.live = true ∧
    s.dev.domState n.val = 1 ∧
    s.dev.noc.acked.has n.val = false ∧
    Sparse.get 0 s.dev.noc.fences n.val = f + 1 ∧
    f + 4 ≤ s.dev.now) ∧
  (∃ (s : State) (n : Fin 12) (u : Nat), AtBoundary s.dev ∧
    s.dev.live = true ∧
    s.dev.domState n.val = 3 ∧
    Sparse.get 0 s.dev.noc.powering n.val = u + 1 ∧
    u + 16 ≤ s.dev.now) ∧
  (∃ (s : State) (x : Txn), s.dev.live = true ∧
    s.dev.txns = [x] ∧
    x.op.isRead = true ∧
    (∀ p ∈ x.port.toList, s.dev.isDown p = false) ∧
    x.port.isSome = true) ∧
  (∃ (s : State) (net : Mesh) (f : Bool), s.dev.live = true ∧
    (net ≠ .dat ∨ f = false) ∧
    s.dev.halted = false ∧
    s.dev.mode.mayHalt = true) :=
  ⟨⟨fencing, 7, by decide⟩,
   ⟨onDev fencing fun d => { d with noc := { d.noc with acked := d.noc.acked.add 7 } }, 7, by decide⟩,
   ⟨onDev fencing fun d => { d with noc := { d.noc with fences := Sparse.put 0 d.noc.fences 7 4 } }, 7, 3, by decide⟩,
   ⟨onDev fencing fun d => { d with noc := { d.noc with powering := Sparse.put 0 d.noc.powering 8 4 } }, 8, 3, by decide⟩,
   ⟨farTxn .rd .far id, farRd .rd .far, by decide⟩,
   ⟨onDev serving fun d => { d with cry := { d.cry with key := some 3 } }, .snp, true, by decide⟩⟩

/-- The hypotheses of LinksGoDownAndReset can be met. -/
theorem test_meets_LinksGoDownAndReset :
  (∃ (s : State) (p : PortId), s.dev.linkUp p = true) ∧
  (∃ (s : State), s.dev.fld Fld.glbPortMode_mode = 1 ∧
    s.dev.linkUp .b = true) ∧
  (∃ (s : State), s.dev.fld Fld.glbPortMode_mode ≠ 1) ∧
  (∃ (s : State) (p : PortId) (l : LinkDown) (dd : Nat), AtBoundary s.dev ∧
    s.dev.live = true ∧
    (s.dev.port p).down = some l ∧
    l.d = some dd ∧
    l.r = none ∧
    s.dev.txns = [] ∧
    s.dev.home.snoops = []) ∧
  (∃ (s : State) (p : PortId) (ld : Nat) (t : TenantId), s.dev.linkUp p = true ∧
    s.dev.tenantOf p ld = some t ∧
    s.dev.tntState t = 1 ∧
    (s.dev.tenant t).seq = none) :=
  ⟨⟨bound, .a, by decide⟩,
   ⟨dual, by decide⟩,
   ⟨bound, by decide⟩,
   ⟨onDev bound fun d => d.modPort .a fun q => { q with down := some ⟨some 1, none, false⟩ }, .a, ⟨some 1, none, false⟩, 1, by decide⟩,
   ⟨bound, .a, 0, 3, by decide⟩⟩

/-- The hypotheses of LinksTrainAndCarryTheirModes can be met. -/
theorem test_meets_LinksTrainAndCarryTheirModes :
  (∃ (s : State) (p : PortId) (w r : Nat), s.dev.linkOpen p = true ∧
    s.dev.isDown p = false ∧
    s.dev.fld (Fld.prtLinkSts_state (portIdx p)) < 2 ∧
    Machine.widthOk w = true ∧
    1 ≤ r ∧
    r ≤ 6) ∧
  (∃ (s : State) (p : PortId), s.dev.linkOpen p = true ∧
    s.dev.isDown p = false ∧
    s.dev.fld (Fld.prtLinkSts_state (portIdx p)) < 2) ∧
  (∃ (s : State) (p : PortId) (w r : Nat), s.dev.linkUp p = true ∧
    Machine.widthOk w = true ∧
    1 ≤ r ∧
    r ≤ 6 ∧
    (s.dev.port p).cxl2 = false) ∧
  (∃ (s : State) (p : PortId) (w : Nat), s.dev.linkUp p = true ∧
    Machine.widthOk w = true ∧
    w ≤ (s.dev.port p).fullWidth) ∧
  (∃ (s : State) (p : PortId), s.dev.linkUp p = true) ∧
  (∃ (s : State) (p : PortId), s.dev.linkUp p = true ∧
    s.dev.flag (Fld.prtViralSts_rx (portIdx p)) = false ∧
    (s.dev.port p).viralDue = false) ∧
  (∃ (s : State) (p : PortId) (ld : Nat), s.dev.live = true ∧
    s.dev.mode ≠ .fill ∧
    s.dev.mode ≠ .boot ∧
    s.dev.hostPort p = true ∧
    s.dev.fld (Fld.prtLinkSts_state (portIdx p)) = 2 ∧
    ld < 16) :=
  ⟨⟨quiet, .a, 8, 6, by decide⟩,
   ⟨quiet, .a, by decide⟩,
   ⟨bound, .a, 8, 3, by decide⟩,
   ⟨onDev bound fun d => d.modPort .a fun q => { q with fullWidth := 16 }, .a, 8, by decide⟩,
   ⟨bound, .a, by decide⟩,
   ⟨bound, .a, by decide⟩,
   ⟨bound, .a, 5, by decide⟩⟩

/-- The hypotheses of RelayLinksTrainKeyAndRecover can be met. -/
theorem test_meets_RelayLinksTrainKeyAndRecover :
  (∃ (s : State) (p : PortId) (w : Nat), s.dev.relayOpen p = true ∧
    (s.dev.rlyState p = 1 ∨ s.dev.rlyState p = 5) ∧
    (w = 8 ∨ w = 16)) ∧
  (∃ (s : State) (p : PortId) (offered rate64 : Bool) (w : Nat), s.dev.relayOpen p = true ∧
    (s.dev.rlyState p = 1 ∨ s.dev.rlyState p = 5) ∧
    (offered = false ∨ rate64 = false ∨ w ≠ 8 ∧ w ≠ 16)) ∧
  (∃ (s : State) (p : PortId) (l : Byte), s.dev.relayOpen p = true ∧
    s.dev.rlyState p = 2 ∧
    (s.dev.lifecycle ≠ .production ∨ l.toNat = Lifecycle.production.code)) ∧
  (∃ (s : State) (p : PortId), s.dev.relayOpen p = true ∧
    s.dev.rlyState p = 2) ∧
  (∃ (s : State) (p : PortId), s.dev.live = true ∧
    (s.dev.rlyState p = 2 ∨ s.dev.rlyState p = 3)) ∧
  (∃ (s : State) (p : PortId) (w : Nat), s.dev.live = true ∧
    s.dev.rlyState p = 4 ∧
    (w = 8 ∨ w = 16) ∧
    s.dev.recoveryLate p = false) ∧
  (∃ (s : State) (p : PortId) (w : Nat), s.dev.live = true ∧
    s.dev.rlyState p = 4 ∧
    (w ≠ 8 ∧ w ≠ 16 ∨ s.dev.recoveryLate p = true)) ∧
  (∃ (s : State) (p : PortId), s.dev.live = true ∧
    s.dev.rlyState p = 4 ∧
    s.dev.recoveryLate p = true) ∧
  (∃ (s : State) (p : PortId), s.dev.live = true ∧
    2 ≤ s.dev.rlyState p ∧
    s.dev.rlyState p ≤ 4) ∧
  (∃ (s : State) (p : PortId), s.dev.keyed p = true ∧
    s.dev.rttDue p = true) ∧
  (∃ (s : State) (p : PortId), s.dev.rttDue p = false) ∧
  (∃ (s : State) (p : PortId), s.dev.keyed p = true ∧
    s.dev.role p = 2) :=
  ⟨⟨onDev member fun d => d.setFld (Fld.rlyLinkSts_state 0) 1, .a, 8, by decide⟩,
   ⟨onDev member fun d => d.setFld (Fld.rlyLinkSts_state 0) 5, .a, true, true, 4, by decide⟩,
   ⟨onDev chainHead fun d => d.setFld (Fld.rlyLinkSts_state 1) 2, .b, 3, by decide⟩,
   ⟨onDev chainHead fun d => d.setFld (Fld.rlyLinkSts_state 1) 2, .b, by decide⟩,
   ⟨member, .a, by decide⟩,
   ⟨recovering member 4, .a, 8, by decide⟩,
   ⟨recovering member 0, .a, 4, by decide⟩,
   ⟨recovering chainHead 15625, .b, by decide⟩,
   ⟨chainHead, .b, by decide⟩,
   ⟨member, .a, by decide⟩,
   ⟨onDev member fun d => d.modRly .a fun r => { r with rttAt := some 1 }, .a, by decide⟩,
   ⟨member, .a, by decide⟩⟩

/-- The hypotheses of RelayFlitsKeepOrderAndCredit can be met. -/
theorem test_meets_RelayFlitsKeepOrderAndCredit :
  (∃ (s : State) (p : PortId) (f : Flit), InOrder s.dev p f ∧
    f.typeOk = true ∧
    (s.dev.rlyOf p).reorder = []) ∧
  (∃ (s : State) (p : PortId) (f : Flit) (o : Nat), s.dev.keyed p = true ∧
    f.fecOk = true ∧
    f.crcOk = true ∧
    f.tagOk = true ∧
    f.typeOk = true ∧
    1 ≤ o ∧
    o ≤ 8 ∧
    f.seq % 4096 = ((s.dev.rlyOf p).rxNext + o) % 4096 ∧
    (s.dev.rlyOf p).reorder = [] ∧
    (s.dev.rlyOf p).gbn = false) ∧
  (∃ (s : State) (p : PortId) (f : Flit), s.dev.keyed p = true ∧
    (f.fecOk = false ∨ f.crcOk = false)) ∧
  (∃ (s : State) (p : PortId) (f : Flit), s.dev.keyed p = true ∧
    s.dev.mode.mayHalt = true ∧
    f.fecOk = true ∧
    f.crcOk = true ∧
    f.tagOk = false) ∧
  (∃ (s : State) (p : PortId) (f : Flit) (r : Roll), InOrder s.dev p f ∧
    f.typeOk = true ∧
    (s.dev.rlyOf p).reorder = [] ∧
    s.dev.role p = 2 ∧
    r.ret = false ∧
    1 ≤ r.next ∧
    r.next ≤ 7 ∧
    r.epoch < 256) ∧
  (∃ (s : State) (p : PortId) (f : Flit) (r : Roll) (x : Nat × Bool), InOrder s.dev p f ∧
    f.typeOk = true ∧
    (s.dev.rlyOf p).reorder = [] ∧
    s.dev.role p = 3 ∧
    s.dev.isHead = true ∧
    r.ret = true ∧
    r.epoch = s.dev.fld Fld.rlyChainSts_epoch ∧
    r.next ≤ 8 ∧
    s.dev.chain.rolling = some x) ∧
  (∃ (s : State) (p : PortId) (f : Flit), InOrder s.dev p f ∧
    Newer s.dev p f ∧
    (s.dev.rlyOf p).queue = []) ∧
  (∃ (s : State) (p : PortId) (f : Flit) (l : List (Nat × Nat)), InOrder s.dev p f ∧
    Newer s.dev p f ∧
    (s.dev.rlyOf p).queue = [] ∧
    l.length ≤ 8) ∧
  (∃ (s : State) (p : PortId) (f : Flit), InOrder s.dev p f ∧
    Newer s.dev p f ∧
    (s.dev.rlyOf p).queue = [] ∧
    s.dev.mode.mayHalt = true ∧
    s.dev.flag Fld.rlyChainCtl_policy = false) ∧
  (∃ (s : State) (p : PortId) (f : Flit), InOrder s.dev p f ∧
    Newer s.dev p f ∧
    (s.dev.rlyOf p).queue = [] ∧
    s.dev.flag Fld.rlyChainCtl_policy = true ∧
    s.dev.role p = 2) ∧
  (∃ (s : State) (p : PortId) (f : Flit), InOrder s.dev p f ∧
    Newer s.dev p f ∧
    (s.dev.rlyOf p).queue = [] ∧
    s.dev.flag Fld.rlyChainCtl_policy = true ∧
    s.dev.role p = 3) :=
  ⟨⟨member, .a, good 0, by (repeat' apply And.intro) <;> first | (simp only [Flit.crcOk, good, acking, flitOf, flitBytes, beq_self_eq_true]; done) | exact Or.inl rfl | decide⟩,
   ⟨member, .a, good 3, 3, by (repeat' apply And.intro) <;> first | (simp only [Flit.crcOk, good, acking, flitOf, flitBytes, beq_self_eq_true]; done) | exact Or.inl rfl | decide⟩,
   ⟨member, .a, { good 0 with fecOk := false }, by (repeat' apply And.intro) <;> first | (simp only [Flit.crcOk, good, acking, flitOf, flitBytes, beq_self_eq_true]; done) | exact Or.inl rfl | decide⟩,
   ⟨member, .a, { good 0 with tagOk := false }, by (repeat' apply And.intro) <;> first | (simp only [Flit.crcOk, good, acking, flitOf, flitBytes, beq_self_eq_true]; done) | exact Or.inl rfl | decide⟩,
   ⟨member, .a, acking 2 4095, ⟨false, 5, 3, true, false, false, []⟩, by (repeat' apply And.intro) <;> first | (simp only [Flit.crcOk, good, acking, flitOf, flitBytes, beq_self_eq_true]; done) | exact Or.inl rfl | decide⟩,
   ⟨rollingHead 0 false, .b, acking 2 4095, ⟨true, 4, 3, true, false, false, [rec1]⟩, (0, false), by (repeat' apply And.intro) <;> first | (simp only [Flit.crcOk, good, acking, flitOf, flitBytes, beq_self_eq_true]; done) | exact Or.inl rfl | decide⟩,
   ⟨sentTwo, .a, acking 3 4, by (repeat' apply And.intro) <;> first | (simp only [Flit.crcOk, good, acking, flitOf, flitBytes, beq_self_eq_true]; done) | exact Or.inl rfl | decide⟩,
   ⟨member, .a, acking 5 4095, [(5, 0), (6, 1), (0, 3)], by (repeat' apply And.intro) <;> first | (simp only [Flit.crcOk, good, acking, flitOf, flitBytes, beq_self_eq_true]; done) | exact Or.inl rfl | decide⟩,
   ⟨member, .a, acking 7 4095, by (repeat' apply And.intro) <;> first | (simp only [Flit.crcOk, good, acking, flitOf, flitBytes, beq_self_eq_true]; done) | exact Or.inl rfl | decide⟩,
   ⟨onDev member fun d => d.setFlag Fld.rlyChainCtl_policy true, .a, acking 7 4095, by (repeat' apply And.intro) <;> first | (simp only [Flit.crcOk, good, acking, flitOf, flitBytes, beq_self_eq_true]; done) | exact Or.inl rfl | decide⟩,
   ⟨onDev member fun d => d.setFlag Fld.rlyChainCtl_policy true, .b, acking 7 4095, by (repeat' apply And.intro) <;> first | (simp only [Flit.crcOk, good, acking, flitOf, flitBytes, beq_self_eq_true]; done) | exact Or.inl rfl | decide⟩⟩

/-- The hypotheses of RelayTimersAct can be met. -/
theorem test_meets_RelayTimersAct :
  (∃ (s : State) (p : PortId) (t : Stamp), s.dev.keyed p = true ∧
    ((s.dev.rlyOf p).gbn = true ∨ (s.dev.rlyOf p).missing ≠ []) ∧
    (s.dev.rlyOf p).lastSnak = some t ∧
    min (2 * s.dev.rtt p) 128 ≤ t.cyclesTo s.dev.stamp ∧
    s.dev.creditDue p = false) ∧
  (∃ (s : State) (p : PortId), (s.dev.rlyOf p).gbn = false ∧
    (s.dev.rlyOf p).missing = []) ∧
  (∃ (s : State) (p : PortId) (t : Stamp), s.dev.keyed p = true ∧
    (s.dev.rlyOf p).ackOwed = some t ∧
    64 ≤ t.cyclesTo s.dev.stamp ∧
    s.dev.creditDue p = false) ∧
  (∃ (s : State) (p : PortId), (∀ t ∈ (s.dev.rlyOf p).ackOwed.toList, t.cyclesTo s.dev.stamp < 64)) ∧
  (∃ (s : State) (p : PortId), s.dev.keyed p = true ∧
    (s.dev.rlyOf p).replay ≠ [] ∧
    4 * s.dev.rtt p + 256 ≤ (s.dev.rlyOf p).lastAck.cyclesTo s.dev.stamp) ∧
  (∃ (s : State) (p : PortId), (s.dev.rlyOf p).replay = []) ∧
  (∃ (s : State) (p : PortId) (t : TxMsg), s.dev.keyed p = true ∧
    t ∈ (s.dev.rlyOf p).queue ∧
    vget 0 (s.dev.rlyOf p).peerHold (s.dev.txVc p t) = 0 ∧
    s.dev.txCredit p (s.dev.txVc p t) < t.slots ∧
    vget 0 (s.dev.rlyOf p).lastCredit (s.dev.txVc p t) + 391 ≤ s.dev.now) ∧
  (∃ (s : State) (p : PortId), (s.dev.rlyOf p).queue = []) ∧
  (∃ (s : State) (p : PortId) (t : Nat), s.dev.keyed p = true ∧
    (s.dev.rlyOf p).holdSince = some t ∧
    t + 131072 ≤ s.dev.now) ∧
  (∃ (s : State) (p : PortId), (s.dev.rlyOf p).holdSince = none) ∧
  (∃ (s : State) (p : PortId), s.dev.live = true ∧
    (s.dev.rlyOf p).ownHold ≠ 0 ∧
    (s.dev.rlyState p = 2 ∨ s.dev.rlyState p = 3)) ∧
  (∃ (s : State) (p : PortId), (s.dev.rlyOf p).ownHold = 0) :=
  ⟨⟨onDev sentTwo fun d => d.modRly .a fun r => { r with missing := [3, 4], lastSnak := some ⟨1, 0⟩ }, .a, ⟨1, 0⟩, by decide⟩,
   ⟨member, .a, by decide⟩,
   ⟨onDev sentTwo fun d => d.modRly .a fun r => { r with ackOwed := some ⟨0, 3⟩ }, .a, ⟨0, 3⟩, by decide⟩,
   ⟨member, .a, by decide⟩,
   ⟨sentTwo, .a, by decide⟩,
   ⟨member, .a, by decide⟩,
   ⟨onDev chainHead fun d => { d.modRly .b fun r => { r with queue := [⟨msg 0 1 0, 1, [], none⟩], sent := Vector.replicate 8 65535 } with clk := ⟨true, 391, 0⟩ }, .b, ⟨msg 0 1 0, 1, [], none⟩, by decide⟩,
   ⟨member, .a, by decide⟩,
   ⟨onDev member fun d => { d.modRly .b fun r => { r with holdSince := some 1 } with clk := ⟨true, 131073, 0⟩ }, .b, 1, by decide⟩,
   ⟨member, .a, by decide⟩,
   ⟨onDev member fun d => d.modRly .a fun r => { r with ownHold := 2 }, .a, by decide⟩,
   ⟨member, .a, by decide⟩⟩

/-- The hypotheses of MembersServeAndForwardRequests can be met. -/
theorem test_meets_MembersServeAndForwardRequests :
  (∃ (s : State) (m : RelayMsg) (ma : Nat), Asks s.dev m ma ∧
    ma = m.line * 64 ∧
    (maFar ma = true ∨ NearLine s.dev ma)) ∧
  (∃ (s : State) (m : RelayMsg) (ma : Nat), Asks s.dev m ma ∧
    ma = m.line * 64 + m.opx / 64 % 64 ∧
    (maFar ma = true ∨ NearLine s.dev ma)) ∧
  (∃ (s : State) (m : RelayMsg) (ma : Nat), Asks s.dev m ma ∧
    ma = m.line * 64 ∧
    maFar ma = true) ∧
  (∃ (s : State) (m : RelayMsg) (ma : Nat) (q : PortId), Asks s.dev m ma ∧
    ma = m.line * 64 ∧
    m.comp = false ∧
    NearLine s.dev ma ∧
    s.dev.relayUp = some q ∧
    Room s.dev q opcCmp m.cls) ∧
  (∃ (s : State) (m : RelayMsg) (ma : Nat) (q : PortId), Asks s.dev m ma ∧
    ma = m.line * 64 ∧
    s.dev.relayUp = some q ∧
    Room s.dev q opcCmp m.cls) ∧
  (∃ (s : State) (m : RelayMsg) (q : PortId), Onward s.dev m q 0x01) ∧
  (∃ (s : State) (m : RelayMsg) (q : PortId), Onward s.dev m q 0x02) ∧
  (∃ (s : State) (m : RelayMsg) (q : PortId), Onward s.dev m q 0x03) ∧
  (∃ (s : State) (m : RelayMsg) (q : PortId), Onward s.dev m q 0x04) ∧
  (∃ (s : State) (m : RelayMsg) (q : PortId), Onward s.dev m q 0x05) ∧
  (∃ (s : State) (m : RelayMsg) (q : PortId), Onward s.dev m q 0x06) ∧
  (∃ (s : State) (m : RelayMsg) (q : PortId), Onward s.dev m q 0x08) ∧
  (∃ (s : State) (m : RelayMsg) (q : PortId), Onward s.dev m q 0x09) ∧
  (∃ (s : State) (m : RelayMsg) (q : PortId), Onward s.dev m q 0x0A) ∧
  (∃ (s : State) (m : RelayMsg) (q : PortId), Onward s.dev m q 0x0B) ∧
  (∃ (s : State) (m : RelayMsg) (q : PortId), s.dev.upBrings = true ∧
    m.hops + 1 ≠ s.dev.chainId ∧
    s.dev.relayUp = some q ∧
    Room s.dev q opcData m.cls) ∧
  (∃ (s : State) (m : RelayMsg), s.dev.upBrings = true ∧
    m.hops + 1 ≠ s.dev.chainId) ∧
  (∃ (s : State) (m : RelayMsg) (q : PortId), ForMe s.dev m ∧
    s.dev.chain.viralPorts ≠ 0 ∧
    s.dev.home.acksDue = [] ∧
    s.dev.relayUp = some q ∧
    Room s.dev q opcCmp m.cls ∧
    s.dev.txns = []) :=
  ⟨⟨memberNear, { msg 0 2 1 with line := mkMa 2 false 0x10001040 / 64 }, mkMa 2 false 0x10001040, by decide⟩,
   ⟨memberNear, { msg 0 2 1 with line := mkMa 2 false 0x10001040 / 64, opx := 512 }, mkMa 2 false 0x10001048, by decide⟩,
   ⟨memberFar, { msg 0 2 1 with line := mkMa 2 true 0x50001040 / 64, db := true }, mkMa 2 true 0x50001040, by decide⟩,
   ⟨memberNear, { msg 0 2 1 with line := mkMa 2 false 0x10001040 / 64 }, mkMa 2 false 0x10001040, .a, by decide⟩,
   ⟨memberNear, { msg 0 2 1 with line := mkMa 2 false 0x10001040 / 64 }, mkMa 2 false 0x10001040, .a, by decide⟩,
   ⟨member, msg 0 3 1, .b, by decide⟩,
   ⟨member, msg 0 3 1, .b, by decide⟩,
   ⟨member, msg 0 3 1, .b, by decide⟩,
   ⟨member, msg 0 3 1, .b, by decide⟩,
   ⟨member, msg 0 3 1, .b, by decide⟩,
   ⟨member, msg 0 3 1, .b, by decide⟩,
   ⟨member, msg 0 3 1, .b, by decide⟩,
   ⟨member, msg 0 3 1, .b, by decide⟩,
   ⟨member, msg 0 3 1, .b, by decide⟩,
   ⟨member, msg 0 3 1, .b, by decide⟩,
   ⟨member, msg 0 2 0, .a, by decide⟩,
   ⟨tail, msg 0 2 2, by decide⟩,
   ⟨onDev member fun d => { d with chain := { d.chain with viralPorts := 1 } }, msg 0 2 1, .a, by decide⟩⟩

/-- The hypotheses of AnswersAndSnoopsTravelTheChain can be met. -/
theorem test_meets_AnswersAndSnoopsTravelTheChain :
  (∃ (s : State) (m : RelayMsg) (x : Txn) (p : PortId) (ld : Nat) (tag hpa : Nat), AtHead s.dev m ∧
    s.dev.txns = [x] ∧
    x.phase = .relayed ∧
    x.id % 65536 = m.tag % 65536 ∧
    maMember x.ma = m.src ∧
    x.org = .host p ld tag hpa ∧
    s.dev.isDown p = false ∧
    s.dev.flag (Fld.prtViralSts_rx (portIdx p)) = false ∧
    m.poison = false ∧
    x.op = .wr) ∧
  (∃ (s : State) (m : RelayMsg) (x : Txn) (p : PortId) (ld : Nat) (tag hpa : Nat), AtHead s.dev m ∧
    s.dev.txns = [x] ∧
    x.phase = .relayed ∧
    x.id % 65536 = m.tag % 65536 ∧
    maMember x.ma = m.src ∧
    x.org = .host p ld tag hpa ∧
    s.dev.isDown p = false ∧
    s.dev.flag (Fld.prtViralSts_rx (portIdx p)) = false ∧
    m.poison = true) ∧
  (∃ (s : State) (m : RelayMsg) (x : Txn) (p : PortId) (ld : Nat) (tag hpa : Nat), AtHead s.dev m ∧
    s.dev.txns = [x] ∧
    x.phase = .relayed ∧
    x.id % 65536 = m.tag % 65536 ∧
    maMember x.ma = m.src ∧
    x.org = .host p ld tag hpa ∧
    s.dev.isDown p = false ∧
    s.dev.flag (Fld.prtViralSts_rx (portIdx p)) = false ∧
    x.op.isRead = true) ∧
  (∃ (s : State) (m : RelayMsg) (x : Txn) (p : PortId) (ld : Nat) (tag hpa : Nat), AtHead s.dev m ∧
    s.dev.txns = [x] ∧
    x.phase = .relayed ∧
    x.id % 65536 = m.tag % 65536 ∧
    maMember x.ma = m.src ∧
    x.org = .host p ld tag hpa ∧
    s.dev.isDown p = false ∧
    s.dev.flag (Fld.prtViralSts_rx (portIdx p)) = false ∧
    x.op = .atomic) ∧
  (∃ (s : State) (m : RelayMsg) (p : PortId) (ld hpa : Nat), AtHead s.dev m ∧
    s.dev.memberGone m.src = false ∧
    s.dev.sharerLd m.sharer.val = some (p, ld) ∧
    s.dev.snoopHpa p ld (m.line * 64) m.comp = some hpa) ∧
  (∃ (s : State) (m : RelayMsg), AtHead s.dev m ∧
    s.dev.memberGone m.src = true) ∧
  (∃ (s : State) (m : RelayMsg) (p : PortId) (ld : Nat), AtHead s.dev m ∧
    s.dev.sharerLd m.sharer.val = some (p, ld)) ∧
  (∃ (s : State) (m : RelayMsg) (q : PortId), Upward s.dev m q opcCmp) ∧
  (∃ (s : State) (m : RelayMsg) (q : PortId), Upward s.dev m q opcData) ∧
  (∃ (s : State) (m : RelayMsg) (q : PortId), Upward s.dev m q opcAtomicData) ∧
  (∃ (s : State) (m : RelayMsg) (q : PortId), Upward s.dev m q 0x41) ∧
  (∃ (s : State) (m : RelayMsg) (i : Nat) (sn : Snoop), ForMe s.dev m ∧
    s.dev.home.snoops = [sn] ∧
    sn.line = lineKey (m.line * 64) ∧
    sn.sent.isSome = true ∧
    sn.txn = none ∧
    s.dev.txns = [] ∧
    s.dev.dirFind sn.line = some i) ∧
  (∃ (s : State) (m : RelayMsg) (x : Txn) (i : Nat) (sn : Snoop), ForMe s.dev m ∧
    s.dev.home.snoops = [sn] ∧
    sn.line = lineKey (m.line * 64) ∧
    sn.sent.isSome = true ∧
    sn.txn = some x.id ∧
    s.dev.txns = [x] ∧
    x.phase = .snooping ∧
    x.op.isUio = true ∧
    lineKey x.ma = sn.line ∧
    maFar x.ma = true ∧
    s.dev.dirFind sn.line = some i ∧
    s.dev.leaseOf sn.line = none) ∧
  (∃ (s : State) (m : RelayMsg), ForMe s.dev m ∧
    s.dev.snoopOf (lineKey (m.line * 64)) = none) ∧
  (∃ (s : State) (m : RelayMsg) (q : PortId), ForMe s.dev m ∧
    s.dev.snoopOf (lineKey (m.line * 64)) = none ∧
    s.dev.relayUp = some q ∧
    Room s.dev q 0x45 .l) :=
  ⟨⟨relayedAt .wr, msg 1 0 0, theRelayed .wr, .a, 0, 7, 0x1040, by decide⟩,
   ⟨relayedAt .atomic, { msg 1 0 0 with poison := true }, theRelayed .atomic, .a, 0, 7, 0x1040, by decide⟩,
   ⟨relayedAt .rd, msg 1 0 0, theRelayed .rd, .a, 0, 7, 0x1040, by decide⟩,
   ⟨relayedAt .atomic, msg 1 0 0, theRelayed .atomic, .a, 0, 7, 0x1040, by decide⟩,
   ⟨headFar, { msg 1 0 0 with line := mkMa 0 true 0x50001040 / 64 }, .a, 0, 0x1040, by decide⟩,
   ⟨chainHead, msg 1 0 0, by decide⟩,
   ⟨headFar, msg 1 0 0, .a, 0, by decide⟩,
   ⟨member, msg 4 0 1, .a, by decide⟩,
   ⟨member, msg 4 0 1, .a, by decide⟩,
   ⟨member, msg 4 0 1, .a, by decide⟩,
   ⟨member, msg 4 0 1, .a, by decide⟩,
   ⟨snoopedUp none, msg2, dirBase (lineKey (mkMa 2 true 0x50001040)), upSnoop none, by decide⟩,
   ⟨snoopedUp (some 4), msg2, { farRd .uioRd .snooping with ma := mkMa 2 true 0x50001040, org := .relay 0 7, db := true, sharer := some 2 }, dirBase (lineKey (mkMa 2 true 0x50001040)), upSnoop (some 4), by decide⟩,
   ⟨memberFar, msg2, by decide⟩,
   ⟨memberFar, msg2, .a, by decide⟩⟩

/-- The hypotheses of ChainManagementMessagesAct can be met. -/
theorem test_meets_ChainManagementMessagesAct :
  (∃ (s : State) (m : RelayMsg), AtHead s.dev m) ∧
  (∃ (s : State) (m : RelayMsg) (o : MemberRec), AtHead s.dev m ∧
    m.src < 8 ∧
    vget none s.dev.chain.members m.src = some o) ∧
  (∃ (s : State) (m : RelayMsg), AtHead s.dev m ∧
    64 < s.dev.ras.freeEntries ∧
    s.dev.ras.dropped = 0) ∧
  (∃ (s : State) (m : RelayMsg) (i : Iface) (o t : Nat), AtHead s.dev m ∧
    s.dev.chain.cmd = some (i, o, t)) ∧
  (∃ (s : State) (i : Iface) (o t : Nat), s.dev.live = true ∧
    s.dev.chain.cmd = some (i, o, t) ∧
    t + 65536 ≤ s.dev.now) ∧
  (∃ (s : State), (∀ x ∈ s.dev.chain.cmd.toList, s.dev.now < x.2.2 + 65536)) ∧
  (∃ (s : State), s.dev.upBrings = true ∧
    s.dev.flag Fld.rlyChainSts_cut = false ∧
    NoTest s.dev) ∧
  (∃ (s : State) (b : Brew), s.dev.live = true ∧
    s.dev.mb.fg = some b ∧
    b.work = .cutErase) ∧
  (∃ (s : State) (m : RelayMsg), ForMe s.dev m ∧
    s.dev.home.snoops = []) ∧
  (∃ (s : State) (m : RelayMsg), ForMe s.dev m) ∧
  (∃ (s : State) (m : RelayMsg) (o : BitVec 16) (p : Payload), ForMe s.dev m ∧
    vendorCmd o.toNat .portA p = none) ∧
  (∃ (s : State) (m : RelayMsg) (p : Payload), ForMe s.dev m ∧
    s.dev.takesNow .portA 0xC031 ∧
    s.dev.ownPayload p 0 ∧
    s.dev.cry.rekey = none) :=
  ⟨⟨chainHead, msg 1 0 0, by decide⟩,
   ⟨known, msg 1 0 0, rec1, by decide⟩,
   ⟨known, msg 1 0 0, by decide⟩,
   ⟨onDev known fun d => { d with chain := { d.chain with cmd := some (.mctp, 0xC031, 3) } }, msg 1 0 0, .mctp, 0xC031, 3, by decide⟩,
   ⟨onDev known fun d => { d with clk := ⟨true, 65540, 0⟩, chain := { d.chain with cmd := some (.portA, 0xC031, 3) } }, .portA, 0xC031, 3, by decide⟩,
   ⟨onDev known fun d => { d with chain := { d.chain with cmd := some (.mctp, 0xC031, 3) } }, by decide⟩,
   ⟨memberFar, by decide⟩,
   ⟨onDev memberFar fun d => { (d.farStore 0 9 77 false).setFlag Fld.rlyChainSts_cut true with mb := { d.mb with fg := some ⟨0x09, none, .cutErase, 0, 1, false, 0⟩ } }, ⟨0x09, none, .cutErase, 0, 1, false, 0⟩, by decide⟩,
   ⟨onDev memberFar fun d => { d with home := { d.home with dir := [(5, ⟨1, .shared, 6, false, false, 0⟩), (8, ⟨1, .exclusive, 4, false, false, 0⟩)] } }, msg 0 2 1, by decide⟩,
   ⟨member, msg 0 2 1, by decide⟩,
   ⟨member, msg 0 2 1, 0xC0FF, [2, 0, 0, 0, 0, 0, 0, 0], by decide⟩,
   ⟨member, msg 0 2 1, [2, 0, 0, 0, 0, 0, 0, 0], by decide⟩⟩

/-- The hypotheses of RollCallsAndLossesMoveTheChain can be met. -/
theorem test_meets_RollCallsAndLossesMoveTheChain :
  (∃ (s : State) (i : Iface) (p : Payload), s.dev.takesNow i 0xC060 ∧
    s.dev.ownPayload p 0 ∧
    s.dev.isHead = false) ∧
  (∃ (s : State) (i : Iface) (p : Payload) (q : PortId), s.dev.takesNow i 0xC060 ∧
    s.dev.ownPayload p 0 ∧
    s.dev.isHead = true ∧
    s.dev.chain.rollCmd = none ∧
    s.dev.chain.rolling = none ∧
    s.dev.relayDown = some q ∧
    s.dev.rlyState q ≠ 3 ∧
    s.dev.rlyState q ≠ 4) ∧
  (∃ (s : State) (i : Iface) (p : Payload), s.dev.takesNow i 0xC060 ∧
    s.dev.ownPayload p 0 ∧
    DownKeyed s.dev ∧
    s.dev.chain.rollCmd = none) ∧
  (∃ (s : State) (i : Iface) (p : Payload), s.dev.takesNow i 0xC061 ∧
    s.dev.ownPayload p 0) ∧
  (∃ (s : State) (t : Nat), s.dev.live = true ∧
    s.dev.chain.waiting = some t ∧
    t ≤ s.dev.now) ∧
  (∃ (s : State), (∀ t ∈ s.dev.chain.waiting.toList, s.dev.now < t)) ∧
  (∃ (s : State) (t : Nat), s.dev.live = true ∧
    DownKeyed s.dev ∧
    s.dev.chain.rolling = some (t, false) ∧
    t + 2048 ≤ s.dev.now) ∧
  (∃ (s : State) (t : Nat), s.dev.live = true ∧
    DownKeyed s.dev ∧
    s.dev.chain.rolling = some (t, true) ∧
    t + 2048 ≤ s.dev.now) ∧
  (∃ (s : State), (∀ x ∈ s.dev.chain.rolling.toList, s.dev.now < x.1 + 2048)) ∧
  (∃ (s : State) (k : Fin 8) (c : LossCause), AtBoundary s.dev ∧
    s.dev.live = true ∧
    DownKeyed s.dev ∧
    s.dev.chain.lossDue = some (k.val, c)) ∧
  (∃ (s : State) (k : Fin 8) (c : LossCause), AtBoundary s.dev ∧
    s.dev.chain.lossDue ≠ some (k.val, c)) :=
  ⟨⟨member, .mctp, [2, 0, 0, 0, 0, 0, 0, 0], by decide⟩,
   ⟨onDev chainHead fun d => d.setFld (Fld.rlyLinkSts_state 1) 5, .portA, [0, 0, 0, 0, 0, 0, 0, 0], .b, by decide⟩,
   ⟨chainHead, .portA, [0, 0, 0, 0, 0, 0, 0, 0], by decide⟩,
   ⟨known, .portA, [0, 0, 0, 0, 0, 0, 0, 0], by decide⟩,
   ⟨onDev member fun d => { d with chain := { d.chain with waiting := some 1 } }, 1, by decide⟩,
   ⟨onDev member fun d => { d with chain := { d.chain with waiting := some 9 } }, by decide⟩,
   ⟨rollingHead 900 false, 900, by decide⟩,
   ⟨rollingHead 900 true, 900, by decide⟩,
   ⟨rollingHead 953 true, by decide⟩,
   ⟨lost2, 1, .relayDown, by decide⟩,
   ⟨lost2, 2, .relayDown, by decide⟩⟩

/-- The hypotheses of AnEmptyQueueLetsOneCycleEnd can be met. -/
theorem test_meets_AnEmptyQueueLetsOneCycleEnd :
  (∃ s : State, s.pending = [] ∧ s.dev.clk.running = false) ∧
  (∃ s : State, s.pending = [] ∧ s.dev.clk.running = true ∧ s.dev.clk.cyc.val < 510) ∧
  (∃ s : State, s.pending = [] ∧ s.dev.clk.running = true ∧ s.dev.clk.cyc.val = 511) ∧
  (∃ (s : State) (c : Instr) (f : Dev → Dev), boundaryChange c = some f ∧ s.dev.clk.running = true ∧ s.dev.clk.cyc ≠ 0) ∧
  (∃ (s : State) (c : Instr), requestRow c = true ∧ s.dev.clk.running = true ∧ s.dev.clk.cyc ≠ 0) :=
  ⟨⟨State.reset, by decide, by decide⟩, ⟨serving, by decide, by decide, by decide⟩,
   ⟨onDev serving fun d => { d with clk := ⟨true, 1, 511⟩ }, by decide, by decide, by decide⟩,
   ⟨onDev serving fun d => { d with clk := ⟨true, 1, 5⟩ }, .unitRestored, _, rfl, by decide, by decide⟩,
   ⟨onDev serving fun d => { d with clk := ⟨true, 1, 5⟩ }, .modeReqWake, rfl, by decide, by decide⟩⟩

/-- The hypotheses of RunsKeepFusesAndPart can be met. -/
theorem test_meets_RunsKeepFusesAndPart :
  ∃ (a : Dev) (s t : State), s.dev.part = a.part ∧ a.fuses.keptBy s.dev.fuses ∧ Machine.step s = .next t :=
  ⟨Dev.init, State.reset, _, rfl, by decide, rfl⟩

/-- The hypotheses of ModesMoveAlongTheTable can be met. -/
theorem test_meets_ModesMoveAlongTheTable :
  ∃ s t : State, Machine.step s = .next t := ⟨State.reset, _, rfl⟩

/-- The hypotheses of EveryQueueDrains can be met. -/
theorem test_meets_EveryQueueDrains :
  ∃ (s : State) (a b : List Instr), s.pending = a ++ b ∧ a ≠ [] :=
  ⟨{ State.reset with pending := [.prsntNLow] }, [.prsntNLow], [], rfl, by decide⟩

/-- The hypotheses of VendorCommandsAreGatedAndWait can be met. -/
theorem test_meets_VendorCommandsAreGatedAndWait :
  (∃ (s : State) (i : Iface) (p : Payload) (o : Nat) (c : Instr), vendorCmd o i p = some c ∧
    s.dev.gate i o = .drop) ∧
  (∃ (s : State) (i : Iface) (p : Payload) (o : Nat) (c : Instr) (rc : Nat), vendorCmd o i p = some c ∧
    s.dev.gate i o = .answer rc) ∧
  (∃ (s : State) (p : Payload) (o : Nat) (c : Instr), vendorCmd o .mctp p = some c ∧
    s.dev.gate .mctp o = .take ∧
    s.dev.ifaceBusy .mctp = true) ∧
  (∃ (s : State) (i : Iface) (p : Payload) (o : Nat) (c : Instr), vendorCmd o i p = some c ∧
    s.dev.gate i o = .take ∧
    i ≠ .mctp ∧
    s.dev.ifaceBusy i = true) ∧
  (∃ (s : State) (i : Iface) (p : Payload) (o : Nat) (c : Instr), vendorCmd o i p = some c ∧
    s.dev.gate i o = .take ∧
    s.dev.ifaceBusy i = false ∧
    s.dev.baristaFree = false) :=
  ⟨⟨serving, .portB, [], 0xC031, .xtRekeyStatus .portB [], by decide⟩,
   ⟨onDev serving fun d => { d with mode := .halt }, .mctp, [], 0xC031, .xtRekeyStatus .mctp [], rcMediaDisabled, by decide⟩,
   ⟨onDev serving fun d => { d with mb := { d.mb with running := [(.mctp, 0xC010)] } }, [], 0xC031, .xtRekeyStatus .mctp [], by decide⟩,
   ⟨onDev hosted fun d => { d with mb := { d.mb with running := [(.portA, 0xC010)] } }, .portA, [], 0xC031, .xtRekeyStatus .portA [], by decide⟩,
   ⟨onDev hosted fun d => { d with mb := { d.mb with stepDue := true } }, .portA, [], 0xC031, .xtRekeyStatus .portA [], by decide⟩⟩

/-- The hypotheses of StoredLinesReadBack can be met. -/
theorem test_meets_StoredLinesReadBack :
  (∃ (d : Dev) (c cli : Nat), d.farLost c = false ∧ d.inSubtree c (cli / 64) = false ∧ (d.mem.written.has (pageKey c (cli / 64)) = true → d.lostPage c (cli / 64) = false)) ∧
  (∃ (d : Dev) (c cli c' cli' : Nat), c < 8 ∧ c' < 8 ∧ cli < 2 ^ 34 ∧ cli' < 2 ^ 34 ∧ (c, cli / 64) ≠ (c', cli' / 64) ∧ Memory.wf d.mem.far = true) :=
  ⟨⟨openFar.dev, 0, 5, by decide, by decide, by decide⟩, ⟨openFar.dev, 0, 5, 0, 69, by decide, by decide, by decide, by decide, by decide, by decide⟩⟩

/-- The hypotheses of TheThreePourWordsFormOneTimestamp can be met. -/
theorem test_meets_TheThreePourWordsFormOneTimestamp :
  (∃ (s : State) (src : Source), s.dev.canAccess src Off.glbPourLo = true) ∧
  (∃ (s : State) (src : Source) (off : Nat), s.dev.canAccess src off = true ∧
    (off = Off.glbPourHi ∨ off = Off.glbPourCyc)) :=
  ⟨⟨onDev serving fun d => { d with clk := ⟨true, 0x700000003, 44⟩ }, .mctp, by decide⟩,
   ⟨serving, .mctp, Off.glbPourHi, by decide⟩⟩

/-- The hypotheses of WrongPairsChangeNothingButKeyfail can be met. -/
theorem test_meets_WrongPairsChangeNothingButKeyfail :
  (∃ (s : State) (src : Source) (key : Word) (a : Armed), s.dev.canAccess src Off.glbSealCtl = true ∧
    s.dev.armedBy src = some a ∧
    a.off = Off.glbSealCtl ∧
    a.at_.cyclesTo s.dev.stamp ≤ 256 ∧
    key ≠ ~~~a.value) ∧
  (∃ (s : State) (src : Source), s.dev.canAccess src Off.glbSealCtl = true ∧
    s.dev.armedBy src = none) ∧
  (∃ (s : State) (src : Source) (key : Word) (a : Armed), s.dev.canAccess src Off.glbLcAdv = true ∧
    s.dev.armedBy src = some a ∧
    a.off = Off.glbLcAdv ∧
    a.at_.cyclesTo s.dev.stamp ≤ 256 ∧
    key ≠ ~~~a.value) ∧
  (∃ (s : State) (src : Source), s.dev.canAccess src Off.glbLcAdv = true ∧
    s.dev.armedBy src = none) ∧
  (∃ (s : State) (src : Source) (key : Word) (a : Armed), s.dev.canAccess src Off.rasFuseLo = true ∧
    s.dev.armedBy src = some a ∧
    a.off = Off.rasFuseLo ∧
    a.at_.cyclesTo s.dev.stamp ≤ 256 ∧
    key ≠ ~~~a.value) ∧
  (∃ (s : State) (src : Source), s.dev.canAccess src Off.rasFuseLo = true ∧
    s.dev.armedBy src = none) ∧
  (∃ (s : State) (src : Source) (key : Word) (a : Armed), s.dev.canAccess src Off.inlOverride = true ∧
    s.dev.armedBy src = some a ∧
    a.off = Off.inlOverride ∧
    a.at_.cyclesTo s.dev.stamp ≤ 256 ∧
    key ≠ ~~~a.value) ∧
  (∃ (s : State) (src : Source), s.dev.canAccess src Off.inlOverride = true ∧
    s.dev.armedBy src = none) ∧
  (∃ (s : State) (src : Source) (key : Word) (a : Armed), s.dev.canAccess src Off.inlClear = true ∧
    s.dev.armedBy src = some a ∧
    a.off = Off.inlClear ∧
    a.at_.cyclesTo s.dev.stamp ≤ 256 ∧
    key ≠ ~~~a.value) ∧
  (∃ (s : State) (src : Source), s.dev.canAccess src Off.inlClear = true ∧
    s.dev.armedBy src = none) ∧
  (∃ (s : State) (src : Source) (key : Word) (a : Armed), s.dev.canAccess src Off.canErase = true ∧
    s.dev.armedBy src = some a ∧
    a.off = Off.canErase ∧
    a.at_.cyclesTo s.dev.stamp ≤ 256 ∧
    key ≠ ~~~a.value) ∧
  (∃ (s : State) (src : Source), s.dev.canAccess src Off.canErase = true ∧
    s.dev.armedBy src = none) :=
  ⟨⟨onDev (armed serving Off.glbSealCtl 5) id, .mctp, 77, ⟨Off.glbSealCtl, 5, ⟨1, 0⟩⟩, by decide⟩,
   ⟨serving, .mctp, by decide⟩,
   ⟨onDev (armed serving Off.glbLcAdv 5) id, .mctp, 77, ⟨Off.glbLcAdv, 5, ⟨1, 0⟩⟩, by decide⟩,
   ⟨serving, .mctp, by decide⟩,
   ⟨onDev (armed serving Off.rasFuseLo 5) id, .mctp, 77, ⟨Off.rasFuseLo, 5, ⟨1, 0⟩⟩, by decide⟩,
   ⟨serving, .mctp, by decide⟩,
   ⟨onDev (armed serving Off.inlOverride 5) id, .mctp, 77, ⟨Off.inlOverride, 5, ⟨1, 0⟩⟩, by decide⟩,
   ⟨serving, .mctp, by decide⟩,
   ⟨onDev (armed serving Off.inlClear 5) id, .mctp, 77, ⟨Off.inlClear, 5, ⟨1, 0⟩⟩, by decide⟩,
   ⟨serving, .mctp, by decide⟩,
   ⟨onDev (armed serving Off.canErase 5) id, .mctp, 77, ⟨Off.canErase, 5, ⟨1, 0⟩⟩, by decide⟩,
   ⟨serving, .mctp, by decide⟩⟩
end

