-- ==== Sys2Proof/Proofs/HostRequests.lean ====
section
/-! SUPPORT. Sys2Proof/Proofs/HostRequests.lean: host requests on their way to their line (O29). -/

namespace Sys2Proof.Machine

/-- A command in the frame `State.on` that completes with `P` has a settled effect of which `P` holds. -/
theorem Completes.settled {c : Instr} {s : State} {P : Dev → Prop} {f : Dev → Dev} (h : Completes c s P)
    (hc : exec c s = s.on f) : P (settle s.dev (f s.dev)) := by
  obtain ⟨t, ht, -, hP⟩ := h
  rw [hc, State.on_next] at ht
  cases ht
  exact hP

theorem exec_memrd (r : HostReq) (md : Meta) (s : State) :
    exec (.memrd r md) s = s.on fun d => d.arrive r .rd md 0 0 none := rfl

/-- The media address of DPA 0x1040 of the tenant of `hostNear`. -/
def hostNearMa : Nat := mkMa 0 false 0x10001040

set_option maxRecDepth 20000 in
/-- MERGE_BUFFER_RETIRE can find the extent-table word of a tenant uncorrectable, and stores it poisoned (R180, R181). The entry in it
keeps V = 1, so a request still `Reaches` its line; but the lookup reads a poisoned word as V = 0 (R186, R71): MEMRD is answered
poisoned at once and opens no transaction. -/
theorem memrd_poisoned_after_extentWord_retired :
    ∃ s, exec (.mergeBufferRetire .extentTable true) (hostNear false) = .next s ∧
      Reaches s.dev (req 0) 3 (dcd 0x1040) hostNearMa ∧ NearLine s.dev hostNearMa ∧
      (s.dev.arrive (req 0) .rd .any 0 0 none).txns = [] ∧
      (s.dev.arrive (req 0) .rd .any 0 0 none).out.head? = some (.cxlData .a 0 0 0 true .any 0) :=
  ⟨_, rfl, by decide, by decide, by decide, by decide⟩

/-- Refutes O29, in its first clause: `Reaches` reads the entry of the extent table and does not ask that its word is sound. In the
state that MERGE_BUFFER_RETIRE leaves when it finds that word uncorrectable, MEMRD of a near line does not wait for the line. -/
theorem not_hostRequestsReachTheirLine : ¬ Obligations.HostRequestsReachTheirLine := by
  unfold Obligations.HostRequestsReachTheirLine
  rintro ⟨memrd_waits, -⟩
  obtain ⟨s, -, reaches, near, no_txn, -⟩ := memrd_poisoned_after_extentWord_retired
  obtain ⟨waits, -, -⟩ := (memrd_waits s (req 0) 3 (dcd 0x1040) hostNearMa .any reaches (.inr near)).settled (exec_memrd _ _ s)
  rw [Waits, settle_txns, no_txn] at waits
  exact absurd waits (List.cons_ne_nil _ _).symm

end Sys2Proof.Machine
end

/-! SUPPORT. The statements about the architecture (O6, O10, O12, O33, O49, O50, O59) and the lemmas behind them. -/

namespace Sys2Proof.Machine

/-! ### Commands in the frame `State.on` -/

/-- A command in the frame `State.on` completes with whatever holds of its settled effect. -/
theorem Completes.of_settle {c : Instr} {s : State} {P : Dev → Prop} {f : Dev → Dev} (hc : exec c s = s.on f)
    (h : P (settle s.dev (f s.dev))) : Completes c s P :=
  ⟨_, hc, rfl, h⟩

theorem exec_rcRead (src : Source) (off : Nat) (be : BitVec 4) (s : State) :
    exec (.rcRead src off be) s = s.on fun d => d.readOut src off be := rfl

theorem exec_glbPourLoRead (src : Source) (s : State) :
    exec (.glbPourLoRead src) s = s.on fun d => d.readOut src Off.glbPourLo 15 := rfl

/-! ### Reads of registers (R31, R32, R413) -/

/-- A read that reaches a sound word sends out the word that the bus read returns. -/
theorem Dev.readOut_reached {d : Dev} {src : Source} {o : Nat} (be : BitVec 4) (reached : d.canAccess src o = true)
    (sound : d.ringBad o = false) :
    d.readOut src o be = (d.busRead src o be).2.emit (.word src (d.busRead src o be).1) := by
  simp [Dev.readOut, reached, sound]

/-- A read of GLB_POUR_LO returns the low pour word and latches the high word and the cycle (R31). -/
theorem Dev.busRead_glbPourLo (d : Dev) (src : Source) (be : BitVec 4) :
    d.busRead src Off.glbPourLo be = (d.clk.pour.setWidth 32 &&& beMask be,
      (d.setReg Off.glbPourHi ((d.clk.pour >>> 32).setWidth 32)).setReg Off.glbPourCyc (BitVec.ofNat 32 d.clk.cyc.val)) := rfl

/-- GLB_POUR_HI and GLB_POUR_CYC are plain words: a read returns what they hold and changes nothing (R32). -/
theorem Dev.busRead_glbPourLatched {d : Dev} {o : Nat} (src : Source) (be : BitVec 4) (latched : o = Off.glbPourHi ∨ o = Off.glbPourCyc) :
    d.busRead src o be = (d.reg o &&& beMask be, d) := by
  have no_rc : accMask (·.rc) o = 0 := by rcases latched with rfl | rfl <;> decide
  have word : d.view o = d.reg o := by rcases latched with rfl | rfl <;> rfl
  have same : d.busRead src o be = (d.view o &&& beMask be, d.readClear o (d.view o &&& beMask be)) := by
    rcases latched with rfl | rfl <;> rfl
  have keeps : ∀ w, d.readClear o w = d := by
    intro w
    have no_ovf : ¬ (o = Off.pmuOvfLo ∨ o = Off.pmuOvfHi) := by rcases latched with rfl | rfl <;> decide
    simp [Dev.readClear, no_ovf, no_rc]
  rw [same, keeps, word]

/-- Settles O50: every clause is the reset state's own value. -/
theorem resetIsAColdDevice : Obligations.ResetIsAColdDevice := by
  unfold Obligations.ResetIsAColdDevice
  refine ⟨rfl, rfl, rfl, rfl, rfl, rfl, rfl, rfl, rfl, rfl, rfl, rfl, rfl, rfl, rfl, rfl, fun _ => ⟨rfl, rfl⟩, ?_⟩
  decide

/-- GLB_POUR_LO_READ by a source that reaches the page latches the moment's high pour word and cycle (R31). -/
theorem glbPourLoRead_latches (s : State) (src : Source) (reached : s.dev.canAccess src Off.glbPourLo = true) :
    Completes (.glbPourLoRead src) s fun d =>
      d.out.head? = some (.word src (s.dev.clk.pour.setWidth 32 &&& beMask 15)) ∧
      d.reg Off.glbPourHi = (s.dev.clk.pour >>> 32).setWidth 32 ∧ d.reg Off.glbPourCyc = BitVec.ofNat 32 s.dev.clk.cyc.val := by
  refine .of_settle (exec_glbPourLoRead src s) ?_
  rw [Dev.readOut_reached 15 reached rfl, Dev.busRead_glbPourLo, settle_reg, settle_reg, Dev.emit_reg, Dev.emit_reg,
    Dev.reg_setReg_same, Dev.reg_setReg_ne _ _ (by decide), Dev.reg_setReg_same]
  exact ⟨rfl, rfl, rfl⟩

/-- Settles O59: the first word's read latches the other two, whose own reads leave them alone (R32). -/
theorem theThreePourWordsFormOneTimestamp : Obligations.TheThreePourWordsFormOneTimestamp := by
  unfold Obligations.TheThreePourWordsFormOneTimestamp
  refine ⟨glbPourLoRead_latches, fun s src off reached latched => ?_, rfl, rfl⟩
  have sound : s.dev.ringBad off = false := by rcases latched with rfl | rfl <;> rfl
  refine .of_settle (exec_rcRead src off 15 s) ?_
  rw [Dev.readOut_reached 15 reached sound, Dev.busRead_glbPourLatched src 15 latched]
  exact ⟨rfl, rfl, rfl⟩

end Sys2Proof.Machine

namespace Sys2Proof.Machine


/-- The device serves and has raised an event twice in one pour: the ring's merge buffer holds the word with the record's REPEAT. -/
def repeatedEvent : State := onDev serving fun d => (d.raiseN 0x1D2 []).raiseN 0x1D2 []

/-- MERGE_BUFFER_RETIRE can find the ring's word uncorrectable and stores it poisoned (R180, R181). A read of that word is aborted
(R186), although it reaches the page and its offset is a `PlainRead`. -/
theorem ringRead_aborted_after_ringWord_retired :
    ∃ s, exec (.mergeBufferRetire .eventRing true) repeatedEvent = .next s ∧ s.dev.canAccess .mctp 0x308018 = true ∧
      PlainRead 0x308018 ∧ (s.dev.readOut .mctp 0x308018 15).out.head? = some (.abort .mctp) :=
  ⟨_, rfl, by decide, by decide, by decide⟩

/-- Refutes O10, in its first clause: `PlainRead` lets the window of the event ring in, where a word can be stored poisoned. In the
state that MERGE_BUFFER_RETIRE leaves when it finds such a word uncorrectable, RC_READ of it returns no word. -/
theorem not_readsReturnAndClear : ¬ Obligations.ReadsReturnAndClear := by
  unfold Obligations.ReadsReturnAndClear
  rintro ⟨read_returns, -⟩
  obtain ⟨s, -, reached, plain, aborted⟩ := ringRead_aborted_after_ringWord_retired
  obtain ⟨returned, -, -, -⟩ := (read_returns s .mctp 0x308018 15 reached plain).settled (exec_rcRead _ _ _ s)
  rw [settle_out, aborted] at returned
  cases returned

end Sys2Proof.Machine

namespace Sys2Proof.Machine

/-! ### The pour boundary after a HALT (R24, R487) -/

theorem exec_pourBoundary (s : State) : exec .pourBoundary s = s.on fun d => d.passPour id := rfl

/-- HALT in the last cycle of a pour. The test of the lost far channel 5 is in the foreground, and the Request Abort of Port A waits,
while the OPCODE of its interface names XT_IDENTIFY, which HALT accepts. -/
def abortWaitsInHalt : State := onDev (inMode .halt) fun d =>
  { (d.setFld (Fld.mboxCmdSts_opcode 0) 0xC000).setFld (Fld.farChSts_state 5) 4 with
    clk := ⟨true, 1, 511⟩
    mb := { d.mb with
      waits := [(.portA, .requestAbortBackgroundOperation .portA)]
      fg := some ⟨3, none, .test 3 5, 0, 1, false, 0⟩ } }

set_option maxRecDepth 20000 in
/-- The boundary runs the waiting command, and the aborted test leaves its channel's pages lost (R485, R496). -/
theorem abortWaitsInHalt_loses_pages :
    (abortWaitsInHalt.dev.passPour id).mem.lostFresh ≠ abortWaitsInHalt.dev.mem.lostFresh := by decide

/-- Refutes O12, in its last clause: the boundary of a halted device still runs the commands that wait, and tells those that HALT
accepts (R392) by the OPCODE of their interface alone. In `abortWaitsInHalt` the two disagree, and the contents change. -/
theorem not_pmuControlsActAtTheBoundary : ¬ Obligations.PmuControlsActAtTheBoundary := by
  unfold Obligations.PmuControlsActAtTheBoundary
  rintro ⟨-, -, -, -, -, -, -, boundary_after_halt⟩
  have kept := (boundary_after_halt abortWaitsInHalt 0 (by decide) (by decide) (by decide)).settled (exec_pourBoundary _)
  obtain ⟨-, -, -, -, -, -, mem_kept, -⟩ := kept
  rw [settle_mem] at mem_kept
  exact abortWaitsInHalt_loses_pages (congrArg (·.lostFresh) mem_kept)

end Sys2Proof.Machine

namespace Sys2Proof.Machine

/-! ### Refresh commands and their slots (R130, R151, R442) -/

theorem exec_cremaRefresh (pc : Fin 64) (s : State) : exec (.cremaRefresh pc) s = s.on fun d =>
    if d.cremaRefreshes (pc.val / 2) && decide ((d.slotSet pc.val).refs < d.cremaQuota) then d.cremaRefreshCmd pc.val else d := rfl

theorem exec_farRefresh (ch : FarCh) (sub : Bool) (s : State) : exec (.farRefresh ch sub) s = s.on fun d =>
    if d.farAwake ch.val && decide ((d.slotSet (64 + 2 * ch.val + bitOf sub)).refs < d.farQuota ch.val) then
      d.farRefreshCmd ch.val (bitOf sub)
    else d := rfl

theorem settle_slotSet (a b : Dev) (n : Nat) : (settle a b).slotSet n = b.slotSet n := rfl

theorem Dev.slotSet_modSlots_same (d : Dev) (n : Nat) (f : Slots → Slots) : (d.modSlots n f).slotSet n = f (d.slotSet n) :=
  Sparse.get_put_same _ _ _ _

/-- A wasted charge stands behind the charges before it; one of no slots is none. -/
theorem Dev.slotSet_waste_charges (d : Dev) (s ev n : Nat) :
    ((d.waste s ev n).slotSet s).charges = (d.slotSet s).charges ++ (if n = 0 then [] else [⟨ev, n, false⟩]) := by
  unfold Dev.waste
  split
  · simp
  · rw [Dev.slotSet_modSlots_same]

theorem Dev.slotSet_waste_refs (d : Dev) (s ev n : Nat) : ((d.waste s ev n).slotSet s).refs = (d.slotSet s).refs := by
  unfold Dev.waste
  split
  · rfl
  · rw [Dev.slotSet_modSlots_same]

/-- A wasted charge is an entry of the slot accounts alone. -/
theorem Dev.waste_shape (d : Dev) (s ev n : Nat) : ∃ p, d.waste s ev n = { d with pmu := p } := by
  unfold Dev.waste
  split
  · exact ⟨d.pmu, rfl⟩
  · exact ⟨_, rfl⟩

theorem Dev.waste_mem (d : Dev) (s ev n : Nat) : (d.waste s ev n).mem = d.mem := by
  obtain ⟨p, h⟩ := d.waste_shape s ev n; rw [h]
theorem Dev.waste_regs (d : Dev) (s ev n : Nat) : (d.waste s ev n).regs = d.regs := by
  obtain ⟨p, h⟩ := d.waste_shape s ev n; rw [h]
theorem Dev.waste_crm (d : Dev) (s ev n : Nat) : (d.waste s ev n).crm = d.crm := by
  obtain ⟨p, h⟩ := d.waste_shape s ev n; rw [h]

theorem Dev.cremaRefreshCmd_effect (d : Dev) (pc : Nat) :
    Sparse.get 0 (d.cremaRefreshCmd pc).crm.refreshes pc = (Sparse.get 0 d.crm.refreshes pc + 1) % (4096 * d.bankGroups) ∧
    ((d.cremaRefreshCmd pc).slotSet pc).charges = (d.slotSet pc).charges ++ [⟨0x018, 8, false⟩] ∧
    ((d.cremaRefreshCmd pc).slotSet pc).refs = (d.slotSet pc).refs + 1 ∧ (d.cremaRefreshCmd pc).mem = d.mem := by
  simp only [Dev.cremaRefreshCmd, Dev.slotSet_waste_charges, Dev.slotSet_waste_refs, Dev.slotSet_modSlots_same, Dev.waste_mem,
    Dev.waste_crm, Dev.modSlots_crm, Dev.modSlots_mem, Sparse.get_put_same]
  exact ⟨trivial, rfl, rfl, trivial⟩

theorem Dev.farRefreshCmd_effect (d : Dev) (c sub : Nat) :
    ((d.farRefreshCmd c sub).slotSet (64 + 2 * c + sub)).charges = (d.slotSet (64 + 2 * c + sub)).charges ++
      (if (Config.freeValue d.free).toNat = 0 then [] else [⟨0x018, (Config.freeValue d.free).toNat, false⟩]) ∧
    ((d.farRefreshCmd c sub).slotSet (64 + 2 * c + sub)).refs = (d.slotSet (64 + 2 * c + sub)).refs + 1 ∧
    (d.farRefreshCmd c sub).regs = d.regs ∧ (d.farRefreshCmd c sub).mem = d.mem := by
  simp only [Dev.farRefreshCmd, Dev.slotSet_waste_charges, Dev.slotSet_waste_refs, Dev.slotSet_modSlots_same, Dev.waste_mem,
    Dev.waste_regs, Dev.modSlots_regs, Dev.modSlots_mem]
  exact ⟨rfl, rfl, rfl, rfl⟩

/-! ### Readings of MR4 (R152) -/

theorem exec_mr4Reading (ch : FarCh) (rs : List Mr4) (s : State) : exec (.mr4Reading ch rs) s = execMr4Reading ch rs s := rfl

theorem settle_fch (a b : Dev) (c : Nat) : (settle a b).fch c = b.fch c := rfl

theorem Dev.raise_fch (d : Dev) (e : Ev) (c : Nat) : (d.raise e).fch c = d.fch c := by
  unfold Dev.fch; rw [Dev.raise_farCh]

theorem Dev.fch_modFch_same (d : Dev) (ch : FarCh) (f : FarChan → FarChan) : (d.modFch ch.val f).fch ch.val = f (d.fch ch.val) := by
  have := ch.isLt
  simp [Dev.fch, Dev.modFch, vget, vmod]

theorem farChSts_not_eventReg (ch : FarCh) : eventReg (Off.farChSts ch.val) = false := by
  revert ch; decide

/-- A rank above 2×, or one with the high-temperature flag, asks for mode 2, else one at 2× for mode 1. -/
theorem mr4Mode_eq (rs : List Mr4) : mr4Mode rs = if .above ∈ rs ∨ .hotFlag ∈ rs then 2 else if .x2 ∈ rs then 1 else 0 := by
  have hot : rs.any mr4Hot = true ↔ .above ∈ rs ∨ .hotFlag ∈ rs := by
    rw [List.any_eq_true]
    constructor
    · rintro ⟨m, member, is_hot⟩
      cases m <;> simp_all [mr4Hot]
    · rintro (member | member)
      · exact ⟨_, member, rfl⟩
      · exact ⟨_, member, rfl⟩
  simp only [mr4Mode, hot, List.contains_iff_mem]

/-- What a reading leaves in the channel's record. -/
def mr4Noted (now : Nat) (rs : List Mr4) (f : FarChan) : FarChan :=
  { f with mr4 := some (mr4Mode rs), hotSince := since now f.hotSince (rs.contains .above), mr4Next := now + 65536 }

/-- A reading of an awake channel whose interval is over is noted; a hot one also raises an event. -/
theorem mr4Reading_noted (s : State) (ch : FarCh) (rs : List Mr4) (awake : s.dev.farAwake ch.val = true) (some_rank : rs ≠ [])
    (interval : (s.dev.fch ch.val).mr4Next ≤ s.dev.now) :
    Completes (.mr4Reading ch rs) s fun d => d.fch ch.val = mr4Noted s.dev.now rs (s.dev.fch ch.val) ∧
      d.reg (Off.farChSts ch.val) = s.dev.reg (Off.farChSts ch.val) ∧ d.mem = s.dev.mem := by
  refine .of_settle (exec_mr4Reading ch rs s) ?_
  have ranks : rs.isEmpty = false := by simpa using some_rank
  simp only [awake, ranks, interval, Bool.not_false, Bool.and_true, decide_true, if_true]
  rw [settle_fch, settle_reg, settle_mem]
  split
  · rw [Dev.raise_fch, Dev.raise_reg _ _ _ (farChSts_not_eventReg ch), Dev.raise_mem, Dev.fch_modFch_same]
    exact ⟨rfl, rfl, rfl⟩
  · rw [Dev.fch_modFch_same]
    exact ⟨rfl, rfl, rfl⟩

/-! ### The check of a window's guarantees (R30, R301) -/

theorem exec_guaranteeWindowCheck (s : State) : exec .guaranteeWindowCheck s = s.on fun d => d.atEdge Dev.edgeGuaranteeWindowCheck := rfl

/-- At a boundary a change takes effect at once. -/
theorem Dev.atEdge_atBoundary {d : Dev} (f : Dev → Dev) (h : AtBoundary d) : d.atEdge f = f d := by
  unfold Dev.atEdge
  split
  · rfl
  · simp_all

theorem Dev.lowest_isSome (d : Dev) {l : List TenantId} (h : l ≠ []) : ∃ t, d.lowest l = some t := by
  cases l with
  | nil => exact absurd rfl h
  | cons t l =>
    unfold Dev.lowest
    split
    · split
      · exact ⟨_, rfl⟩
      · exact ⟨_, rfl⟩
    · exact ⟨t, rfl⟩

theorem Dev.setFld_flag_apart (d : Dev) {f g : Fld} (v : Nat) (h : f.apart g = true) : (d.setFld f v).flag g = d.flag g := by
  unfold Dev.flag; rw [Dev.fld_setFld_apart d f g v h]

theorem Dev.setFlag_flag_apart (d : Dev) {f g : Fld} (b : Bool) (h : f.apart g = true) : (d.setFlag f b).flag g = d.flag g :=
  d.setFld_flag_apart _ h

theorem Dev.raise_flag (d : Dev) (e : Ev) (f : Fld) (h : eventReg f.off = false) : (d.raise e).flag f = d.flag f := by
  unfold Dev.flag; rw [Dev.raise_fld d e f h]

/-- The breach of a window with a tenant short names resource 7 and keeps contents. -/
theorem Dev.overrunBreach_of_short {d : Dev} (short : d.shortTenants belowBy0p1 ≠ []) :
    d.overrunBreach.flag Fld.svcScaleSts_breach = true ∧ d.overrunBreach.fld Fld.svcScaleSts_resource = 7 ∧
    d.overrunBreach.due = d.due ∧ d.overrunBreach.mem = d.mem := by
  obtain ⟨t, worst⟩ := d.lowest_isSome short
  simp only [Dev.overrunBreach, worst]
  refine ⟨?_, ?_, by simp, by simp⟩
  · rw [Dev.setFld_flag_apart _ _ (by decide), Dev.flag_setFlag_same _ _ _ (by decide) rfl]
  · rw [Dev.fld_setFld_same _ _ _ (by decide)]; rfl

/-- One tenant's event of a short window (R301). -/
def Dev.shortEvent (d : Dev) (t : TenantId) : Dev :=
  (d.raise { num := 0x104, tenant := some t, detail := [word1 (d.windowLines t)] }).setFlag Fld.svcScaleSts_short true

theorem Dev.shortEvent_effect (d : Dev) (t : TenantId) :
    (d.shortEvent t).flag Fld.svcScaleSts_short = true ∧ (d.shortEvent t).flag Fld.svcScaleSts_breach = d.flag Fld.svcScaleSts_breach ∧
    (d.shortEvent t).mem = d.mem := by
  unfold Dev.shortEvent
  refine ⟨?_, ?_, by simp⟩
  · rw [Dev.flag_setFlag_same _ _ _ (by decide) rfl]
  · rw [Dev.setFlag_flag_apart _ _ (by decide), Dev.raise_flag _ _ _ (by decide)]

theorem Dev.foldl_shortEvent (l : List TenantId) (d : Dev) :
    (l.foldl Dev.shortEvent d).flag Fld.svcScaleSts_short = (!l.isEmpty || d.flag Fld.svcScaleSts_short) ∧
    (l.foldl Dev.shortEvent d).flag Fld.svcScaleSts_breach = d.flag Fld.svcScaleSts_breach ∧ (l.foldl Dev.shortEvent d).mem = d.mem := by
  induction l generalizing d with
  | nil => exact ⟨rfl, rfl, rfl⟩
  | cons t l ih =>
    obtain ⟨short, breach, mem⟩ := ih (d.shortEvent t)
    obtain ⟨short_t, breach_t, mem_t⟩ := d.shortEvent_effect t
    rw [List.foldl_cons, short, breach, mem, short_t, breach_t, mem_t]
    simp

theorem Dev.reportShort_of_short {d : Dev} (short : d.shortTenants belowTolerance ≠ []) :
    d.reportShort.flag Fld.svcScaleSts_short = true ∧
    d.reportShort.flag Fld.svcScaleSts_breach = d.flag Fld.svcScaleSts_breach ∧ d.reportShort.mem = d.mem := by
  have folded : d.reportShort = (d.shortTenants belowTolerance).foldl Dev.shortEvent d := rfl
  obtain ⟨flag, kept⟩ := d.foldl_shortEvent (d.shortTenants belowTolerance)
  rw [folded]
  exact ⟨by simp [flag, short], kept⟩

/-- The device whose window has been checked. -/
def Dev.checkDone (d : Dev) : Dev := { d with due := { d.due with gslot := false, checkedAt := some d.now } }

/-- A check that is due runs once: a breach where carried work took class-G slots, else a report at a FACTOR of 1.0. -/
theorem Dev.edgeGuaranteeWindowCheck_due {d : Dev} (live : d.live = true) (running : d.clk.running = true) (window : d.now % 64 = 0)
    (later : 0 < d.now) (once : d.due.checkedAt ≠ some d.now) :
    d.edgeGuaranteeWindowCheck = if d.due.gslot then d.checkDone.overrunBreach
      else if d.fld Fld.svcScaleSts_factor = 65536 then d.checkDone.reportShort else d.checkDone := by
  have unchecked : (d.due.checkedAt != some d.now) = true := by simpa using once
  simp only [Dev.edgeGuaranteeWindowCheck, live, running, window, later, unchecked, Bool.and_true, decide_true, if_true]
  rfl

/-- Settles O33: the refresh commands, the reading and the two outcomes of the check, each from the lemma on its own function. -/
theorem refreshAndGuaranteeChecksCharge : Obligations.RefreshAndGuaranteeChecksCharge := by
  unfold Obligations.RefreshAndGuaranteeChecksCharge
  refine ⟨fun s pc refreshes room => ?crema, fun s ch sub k awake scheduler room => ?far, fun s pc full => ?cremaFull,
    fun s ch sub full => ?farFull, fun s ch rs awake some_rank interval => ?mr4,
    fun s boundary live running window later once short taken => ?breach,
    fun s boundary live running window later once short taken factor => ?short⟩
  case crema =>
    refine .of_settle (exec_cremaRefresh pc s) ?_
    simpa only [refreshes, room, decide_true, Bool.and_self, if_true, settle_slotSet, settle_crm, settle_mem] using s.dev.cremaRefreshCmd_effect pc.val
  case far =>
    subst scheduler
    refine .of_settle (exec_farRefresh ch sub s) ?_
    simpa only [awake, room, decide_true, Bool.and_self, if_true, settle_slotSet, settle_regs, settle_mem] using s.dev.farRefreshCmd_effect ch.val (bitOf sub)
  case cremaFull =>
    refine .of_settle (exec_cremaRefresh pc s) ?_
    simp [Nat.not_lt.mpr full]
  case farFull =>
    refine .of_settle (exec_farRefresh ch sub s) ?_
    simp [Nat.not_lt.mpr full]
  case mr4 =>
    obtain ⟨t, next, queue, channel, kept⟩ := mr4Reading_noted s ch rs awake some_rank interval
    refine ⟨t, next, queue, ?_, ?_, ?_, kept⟩
    · rw [channel]; rfl
    · rw [channel]; exact congrArg some (mr4Mode_eq rs)
    · rw [channel]; simp [mr4Noted, since]
  case breach =>
    refine .of_settle (exec_guaranteeWindowCheck s) ?_
    rw [Dev.atEdge_atBoundary _ boundary, Dev.edgeGuaranteeWindowCheck_due live running window later once, if_pos taken]
    obtain ⟨breach, resource, due, mem⟩ := Dev.overrunBreach_of_short (d := s.dev.checkDone) short
    exact ⟨breach, resource, congrArg (·.gslot) due, mem⟩
  case short =>
    refine .of_settle (exec_guaranteeWindowCheck s) ?_
    rw [Dev.atEdge_atBoundary _ boundary, Dev.edgeGuaranteeWindowCheck_due live running window later once, if_neg (by simp [taken]),
      if_pos factor]
    exact Dev.reportShort_of_short (d := s.dev.checkDone) short

end Sys2Proof.Machine

namespace Sys2Proof.Machine

/-! ### What tells the time

Of all that a pour boundary runs, only a change of mode (`Dev.enter`, R38) and the cut of the main power (`Dev.cold`) touch the clock, the
mode or the pour of the last change of mode. Here stands, for each function of the boundary that is not such a change, that it keeps the
three; the order is that of the model, callees first. -/


/-- What tells the time: the clock, the mode, and the pour of the last change of mode. -/
abbrev Beat := Clock × Mode × Option Nat
def Dev.beat (d : Dev) : Beat := (d.clk, d.mode, d.due.modeAt)

/-- A fold keeps what each of its steps keeps. -/
theorem foldl_keeps {α β γ : Type} (get : β → γ) (f : β → α → β) (l : List α) (p : β) (h : ∀ p x, get (f p x) = get p) :
    get (l.foldl f p) = get p := by
  induction l generalizing p with
  | nil => rfl
  | cons x l ih => rw [List.foldl_cons, ih, h]

theorem foldl_beat {α : Type} (d : Dev) (f : Dev → α → Dev) (l : List α) (h : ∀ d x, (f d x).beat = d.beat) : (l.foldl f d).beat = d.beat :=
  foldl_keeps Dev.beat f l d h

theorem ite_beat {c : Prop} [Decidable c] {a b : Dev} {t : Beat} (ha : a.beat = t) (hb : b.beat = t) :
    (if c then a else b).beat = t := by
  split
  · exact ha
  · exact hb

section
variable (d : Dev)


/-- An update of a field that tells no time. -/
theorem Dev.beat_withCry (x) : Dev.beat { d with cry := x } = d.beat := rfl

theorem Dev.beat_withPrs (x) : Dev.beat { d with prs := x } = d.beat := rfl

theorem Dev.beat_withMb (x) : Dev.beat { d with mb := x } = d.beat := rfl

theorem Dev.beat_withRas (x) : Dev.beat { d with ras := x } = d.beat := rfl

theorem Dev.beat_withCrm (x) : Dev.beat { d with crm := x } = d.beat := rfl

theorem Dev.beat_withChain (x) : Dev.beat { d with chain := x } = d.beat := rfl

theorem Dev.show_beat : d.show.beat = d.beat := by
  grind [Dev.show, Dev.beat]

theorem Dev.modSlots_beat (s : Nat) (f : Slots → Slots) : (d.modSlots s f).beat = d.beat := by
  simp [Dev.beat]

theorem Dev.beats_beat (s : Nat) (g : Bool) (n : Nat) : (d.beats s g n).beat = d.beat := by
  grind [Dev.beats, Dev.beat, Dev.modSlots_beat]

theorem Dev.countAs_beat (num n : Nat) (chid : Option (BitVec 16)) (t : Option TenantId) (k : Option Cls) :
    (d.countAs num n chid t k).beat = d.beat := by
  simp [Dev.beat]

theorem Dev.cremaActivate_beat (pc bank row : Nat) : (d.cremaActivate pc bank row).beat = d.beat := by
  grind [Dev.cremaActivate, Dev.beat, Dev.countAs_beat]

theorem Dev.setReg_beat (o : Nat) (w : Word) : (d.setReg o w).beat = d.beat := by
  simp [Dev.beat]

theorem Dev.setFld_beat (f : Fld) (v : Nat) : (d.setFld f v).beat = d.beat := by
  simp [Dev.beat]

theorem Dev.modRot_beat (f : Rotation → Rotation) : (d.modRot f).beat = d.beat := by
  grind [Dev.modRot, Dev.beat]

theorem Dev.copyFrame_beat : d.copyFrame.beat = d.beat := by
  grind [Dev.copyFrame, Dev.beat, foldl_beat, Dev.beats_beat, Dev.cremaActivate_beat, Dev.setFld_beat, Dev.modRot_beat]

theorem Dev.modSched_beat (s : Nat) (f : Sched → Sched) : (d.modSched s f).beat = d.beat := by
  grind [Dev.modSched, Dev.beat]

theorem Dev.promote_beat (s : Nat) : (d.promote s).beat = d.beat := by
  grind [Dev.promote, Dev.beat, Dev.modSched_beat]

theorem Dev.activateCrema_beat (pc g l : Nat) : (d.activateCrema pc g l).beat = d.beat := by
  grind [Dev.activateCrema, Dev.beat, Dev.cremaActivate_beat]

theorem Dev.modFch_beat (c : Nat) (f : FarChan → FarChan) : (d.modFch c f).beat = d.beat := by
  simp [Dev.beat]

theorem Dev.queueNbr_beat (c sub bank row : Nat) (rfm : Bool) : (d.queueNbr c sub bank row rfm).beat = d.beat := by
  grind [Dev.queueNbr, Dev.beat, Dev.modFch_beat, Dev.countAs_beat]

theorem Dev.issueLoc_beat (l : BitVec 64) : (d.issueLoc l).beat = d.beat := by
  simp [Dev.beat]

theorem Dev.alert_beat (bit : Nat) : (d.alert bit).beat = d.beat := by
  simp [Dev.beat]

theorem Dev.mergeWrite_beat (arr : Array64K) (word : Nat) (bytes : BitVec 8) : (d.mergeWrite arr word bytes).beat = d.beat := by
  simp [Dev.beat]

theorem Dev.count_beat (num n : Nat) : (d.count num n).beat = d.beat := by
  simp [Dev.beat]

theorem Dev.wordWrite_beat (arr : Array64K) (word : Nat) : (d.wordWrite arr word).beat = d.beat := by
  simp [Dev.beat]

theorem Dev.bump_beat (f : Fld) (n : Nat) : (d.bump f n).beat = d.beat := by
  simp [Dev.beat]

theorem Dev.raise_beat (e : Ev) : (d.raise e).beat = d.beat := by
  simp [Dev.beat]

theorem Dev.countDist_beat (c bank : Nat) (t : Option TenantId) (relay : Bool) : (d.countDist c bank t relay).beat = d.beat := by
  unfold Dev.countDist
  exact ite_beat (Dev.raise_beat _ _) rfl

theorem Dev.activate_beat (c cli : Nat) (t : Option TenantId) (relay : Bool) : (d.activate c cli t relay).beat = d.beat := by
  grind [Dev.activate, Dev.beat, Dev.modFch_beat, Dev.queueNbr_beat, Dev.countDist_beat]

theorem Dev.fillBufs_beat (s : Nat) : (d.fillBufs s).beat = d.beat := by
  grind [Dev.fillBufs, Dev.beat, foldl_beat, Dev.modSched_beat]

theorem Dev.issue_beat (s : Nat) (r : Req) : (d.issue s r).beat = d.beat := by
  grind [Dev.issue, Dev.beat, Dev.modSched_beat, Dev.beats_beat, Dev.activateCrema_beat, Dev.activate_beat, Dev.fillBufs_beat]

theorem Dev.issueWhile_beat (s : Nat) (more : Dev → Bool) (n : Nat) : (d.issueWhile s more n).beat = d.beat := by
  induction n generalizing d with
  | zero => rfl
  | succ n ih => grind [Dev.issueWhile, Dev.promote_beat, Dev.issue_beat]

theorem Dev.issueAll_beat : d.issueAll.beat = d.beat := by
  grind [Dev.issueAll, Dev.beat, foldl_beat, Dev.issueWhile_beat]

theorem Dev.wasteNbr_beat (s n : Nat) : (d.wasteNbr s n).beat = d.beat := by
  grind [Dev.wasteNbr, Dev.beat, Dev.modSlots_beat]

theorem Dev.serveCremaNbr_beat (pc : Nat) : (d.serveCremaNbr pc).beat = d.beat := by
  grind [Dev.serveCremaNbr, Dev.beat, Dev.modSlots_beat, Dev.wasteNbr_beat]

theorem Dev.serveFarNbr_beat (c sub : Nat) : (d.serveFarNbr c sub).beat = d.beat := by
  grind [Dev.serveFarNbr, Dev.beat, foldl_beat, Dev.modFch_beat, Dev.wasteNbr_beat, Dev.modSlots_beat]

theorem Dev.waste_beat (s ev n : Nat) : (d.waste s ev n).beat = d.beat := by
  grind [Dev.waste, Dev.beat, Dev.modSlots_beat]

theorem Dev.backgroundPour_beat : d.backgroundPour.beat = d.beat := by
  grind [Dev.backgroundPour, Dev.beat, foldl_beat, Dev.serveCremaNbr_beat, Dev.serveFarNbr_beat, Dev.waste_beat]

theorem Dev.cremaRefreshCmd_beat (pc : Nat) : (d.cremaRefreshCmd pc).beat = d.beat := by
  grind [Dev.cremaRefreshCmd, Dev.beat, Dev.waste_beat, Dev.modSlots_beat]

theorem Dev.takeFree_beat : d.takeFree.2.beat = d.beat := by
  grind [Dev.takeFree, Dev.beat]

theorem Dev.farRefreshCmd_beat (c sub : Nat) : (d.farRefreshCmd c sub).beat = d.beat := by
  grind [Dev.farRefreshCmd, Dev.beat, Dev.takeFree_beat, Dev.waste_beat, Dev.modSlots_beat]

theorem Dev.issueRefresh_beat : d.issueRefresh.beat = d.beat := by
  grind [Dev.issueRefresh, Dev.beat, foldl_beat, Dev.cremaRefreshCmd_beat, Dev.farRefreshCmd_beat]

theorem Dev.overrun_beat (bit n : Nat) : (d.overrun bit n).beat = d.beat := by
  grind [Dev.overrun, Dev.beat, Dev.count_beat, Dev.setReg_beat]

theorem Dev.slotPour_beat (s : Nat) : (d.slotPour s).beat = d.beat := by
  grind [Dev.slotPour, Dev.beat, foldl_beat, Dev.modSlots_beat, Dev.countAs_beat, Dev.overrun_beat]

theorem Dev.snapshot_beat : d.snapshot.beat = d.beat := by
  grind [Dev.snapshot, Dev.beat, Dev.setFld_beat, Dev.setReg_beat]

theorem Dev.modTenant_beat (t : TenantId) (f : Tenant → Tenant) : (d.modTenant t f).beat = d.beat := by
  simp [Dev.beat]

theorem Dev.closeCounts_beat : d.closeCounts.beat = d.beat := by
  grind [Dev.closeCounts, Dev.beat, foldl_beat, Dev.setReg_beat, Dev.modTenant_beat]

theorem Dev.closeBw_beat : d.closeBw.beat = d.beat := by
  grind [Dev.closeBw, Dev.beat, foldl_beat, Dev.closeCounts_beat]

theorem Dev.lastCycle_beat : d.lastCycle.beat = d.beat := by
  grind [Dev.lastCycle, Dev.beat, foldl_beat, Dev.copyFrame_beat, Dev.issueAll_beat, Dev.backgroundPour_beat, Dev.issueRefresh_beat,
    Dev.slotPour_beat, Dev.snapshot_beat, Dev.closeBw_beat, Dev.count_beat]

theorem Dev.retireAged_beat : d.retireAged.beat = d.beat := by
  grind [Dev.retireAged, Dev.beat, foldl_beat]

theorem Dev.setFlag_beat (f : Fld) (b : Bool) : (d.setFlag f b).beat = d.beat := by
  simp [Dev.beat]

theorem Dev.raiseN_beat (num : Nat) (detail : List Word) : (d.raiseN num detail).beat = d.beat := by
  simp [Dev.beat]

theorem Dev.emit_beat (o : Out) : (d.emit o).beat = d.beat := by
  simp [Dev.beat]

theorem Dev.modRly_beat (p : PortId) (f : RelayPort → RelayPort) : (d.modRly p f).beat = d.beat := by
  simp [Dev.beat]

theorem Dev.putFlit_beat (p : PortId) (w : Payload) : (d.putFlit p w).beat = d.beat := by
  grind [Dev.putFlit, Dev.beat, Dev.modRly_beat]

theorem Dev.ctrlOut_beat (p : PortId) (kind : Nat) (words : List Nat) : (d.ctrlOut p kind words).beat = d.beat := by
  grind [Dev.ctrlOut, Dev.beat, Dev.modRly_beat, Dev.emit_beat, Dev.putFlit_beat, Dev.count_beat]

theorem Dev.creditOut_beat (p : PortId) : (d.creditOut p).beat = d.beat := by
  grind [Dev.creditOut, Dev.beat, Dev.ctrlOut_beat, Dev.modRly_beat]

theorem Dev.relayPut_beat (p : PortId) (t : TxMsg) : (d.relayPut p t).beat = d.beat := by
  simp [Dev.beat]

theorem Dev.relaySend_beat (p : PortId) (m : RelayMsg) (opc : Nat) (payload : List (BitVec 128)) :
    (d.relaySend p m opc payload).beat = d.beat := by
  grind [Dev.relaySend, Dev.beat, Dev.relayPut_beat]

theorem Dev.sendUp_beat (m : RelayMsg) (opc : Nat) (payload : List (BitVec 128)) : (d.sendUp m opc payload).beat = d.beat := by
  simp [Dev.beat]

theorem Dev.complete_beat (i : Iface) (opcode rc : Nat) (out : Payload) : (d.complete i opcode rc out).beat = d.beat := by
  simp [Dev.beat]

theorem Dev.haltCommands_beat : d.haltCommands.beat = d.beat := by
  grind [Dev.haltCommands, Dev.beat, foldl_beat, Dev.complete_beat]

theorem Dev.setBit_beat (f : Fld) (i : Nat) (b : Bool) : (d.setBit f i b).beat = d.beat := by
  simp [Dev.beat]

theorem Dev.sleepChannel_beat (c : Nat) : (d.sleepChannel c).beat = d.beat := by
  grind [Dev.sleepChannel, Dev.beat, Dev.modFch_beat, Dev.setBit_beat, Dev.setFld_beat]

theorem Dev.wakeChannel_beat (c : Nat) : (d.wakeChannel c).beat = d.beat := by
  grind [Dev.wakeChannel, Dev.beat, foldl_beat, Dev.setBit_beat, Dev.setFld_beat, Dev.modFch_beat, Dev.farRefreshCmd_beat]

theorem Dev.allSleep_beat (on : Bool) : (d.allSleep on).beat = d.beat := by
  grind [Dev.allSleep, Dev.beat, foldl_beat, Dev.sleepChannel_beat, Dev.wakeChannel_beat]

theorem Dev.selectCtr_beat (n : Nat) : (d.selectCtr n).beat = d.beat := by
  grind [Dev.selectCtr, Dev.beat]

theorem Dev.pmuBoundary_beat : d.pmuBoundary.beat = d.beat := by
  grind [Dev.pmuBoundary, Dev.beat, foldl_beat, Dev.selectCtr_beat]

theorem Dev.sendDown_beat (m : RelayMsg) (opc : Nat) (payload : List (BitVec 128)) : (d.sendDown m opc payload).beat = d.beat := by
  simp [Dev.beat]

theorem Dev.longRun_beat (i : Iface) (opcode : Nat) : (d.longRun i opcode).beat = d.beat := by
  simp [Dev.beat]

theorem Dev.vendor_beat (i : Iface) (opcode : Nat) (p : Payload) (len : Nat) {run : Payload → Dev → Dev}
    (h : ∀ q d, (run q d).beat = d.beat) : (d.vendor i opcode p len run).beat = d.beat := by
  unfold Dev.vendor
  dsimp only
  split_ifs
  · rw [Dev.complete_beat]
  · rw [h]
  · rw [Dev.longRun_beat]
    exact Dev.sendDown_beat d _ _ _
  · rw [Dev.complete_beat]

theorem bodyIdentify_beat (i : Iface) (p : Payload) : (bodyIdentify i p d).beat = d.beat := by
  grind [bodyIdentify, Dev.beat, Dev.vendor_beat, Dev.complete_beat]

theorem Dev.ownStaging_beat (i : Iface) : (d.ownStaging i).beat = d.beat := by
  grind [Dev.ownStaging, Dev.beat, Dev.setFlag_beat, Dev.setFld_beat]

theorem Dev.syncStaging_beat : d.syncStaging.beat = d.beat := by
  grind [Dev.syncStaging, Dev.beat, Dev.setFlag_beat, Dev.setFld_beat]

theorem bodyStageCheck_beat (i : Iface) (p : Payload) : (bodyStageCheck i p d).beat = d.beat := by
  grind [bodyStageCheck, Dev.beat, Dev.vendor_beat, Dev.complete_beat, Dev.ownStaging_beat, Dev.longRun_beat, Dev.syncStaging_beat]

theorem bodyStageCommit_beat (i : Iface) (p : Payload) : (bodyStageCommit i p d).beat = d.beat := by
  grind [bodyStageCommit, Dev.beat, Dev.vendor_beat, Dev.complete_beat, Dev.longRun_beat, Dev.setFlag_beat]

theorem Dev.emptyStaging_beat : d.emptyStaging.beat = d.beat := by
  grind [Dev.emptyStaging, Dev.beat, Dev.setFlag_beat, Dev.syncStaging_beat, Dev.setFld_beat]

theorem bodyStageAbort_beat (i : Iface) (p : Payload) : (bodyStageAbort i p d).beat = d.beat := by
  grind [bodyStageAbort, Dev.beat, Dev.vendor_beat, Dev.complete_beat, Dev.setFlag_beat, Dev.emptyStaging_beat]

theorem Dev.setExt_beat (i : Nat) (w : Word) : (d.setExt i w).beat = d.beat := by
  simp [Dev.beat]

theorem Dev.staged_beat (i : Iface) : (d.staged i).beat = d.beat := by
  grind [Dev.staged, Dev.beat, Dev.ownStaging_beat, Dev.syncStaging_beat]

theorem Dev.stage_beat (i : Iface) (c : StagedCmd) : (d.stage i c).beat = d.beat := by
  grind [Dev.stage, Dev.beat, Dev.staged_beat]

theorem Dev.stageTenant_beat (i : Iface) (opcode : Nat) (c : StagedCmd) (base from_ : Nat) (words : List Word) :
    (d.stageTenant i opcode c base from_ words).beat = d.beat := by
  grind [Dev.stageTenant, Dev.beat, foldl_beat, Dev.setExt_beat, Dev.complete_beat, Dev.stage_beat]

theorem bodyTenantCreate_beat (i : Iface) (p : Payload) : (bodyTenantCreate i p d).beat = d.beat := by
  grind [bodyTenantCreate, Dev.beat, Dev.vendor_beat, Dev.complete_beat, Dev.stageTenant_beat]

theorem bodyTenantResize_beat (i : Iface) (p : Payload) : (bodyTenantResize i p d).beat = d.beat := by
  grind [bodyTenantResize, Dev.beat, Dev.vendor_beat, Dev.complete_beat, Dev.stageTenant_beat]

theorem Dev.askSequence_beat (t : TenantId) (k : SeqKind) (i : Option Iface) : (d.askSequence t k i).beat = d.beat := by
  grind [Dev.askSequence, Dev.beat, Dev.modTenant_beat]

theorem bodyTenantEnd_beat (destroy : Bool) (i : Iface) (p : Payload) : (bodyTenantEnd destroy i p d).beat = d.beat := by
  grind [bodyTenantEnd, Dev.beat, Dev.vendor_beat, Dev.complete_beat, Dev.longRun_beat, Dev.askSequence_beat]

theorem Dev.wakeAll_beat (pours : Nat) : (d.wakeAll pours).beat = d.beat := by
  grind [Dev.wakeAll, Dev.beat, foldl_beat, Dev.modFch_beat]

theorem Dev.askRekey_beat (rate : Nat) : (d.askRekey rate).beat = d.beat := by
  grind [Dev.askRekey, Dev.beat, Dev.wakeAll_beat, Dev.setFlag_beat, Dev.setFld_beat]

theorem bodyRekeyStart_beat (i : Iface) (p : Payload) : (bodyRekeyStart i p d).beat = d.beat := by
  grind [bodyRekeyStart, Dev.beat, Dev.vendor_beat, Dev.complete_beat, Dev.askRekey_beat, Dev.setFlag_beat]

theorem bodyRekeyStatus_beat (i : Iface) (p : Payload) : (bodyRekeyStatus i p d).beat = d.beat := by
  grind [bodyRekeyStatus, Dev.beat, Dev.vendor_beat, Dev.complete_beat]

theorem Dev.syncBrew_beat : d.syncBrew.beat = d.beat := by
  grind [Dev.syncBrew, Dev.beat, foldl_beat, Dev.setFld_beat]

theorem Dev.startFg_beat (kind : Nat) (i : Option Iface) (w : Work) (planned : Nat) : (d.startFg kind i w planned).beat = d.beat := by
  grind [Dev.startFg, Dev.beat, Dev.syncBrew_beat]

theorem Dev.setDom_beat (n st : Nat) : (d.setDom n st).beat = d.beat := by
  grind [Dev.setDom, Dev.beat, Dev.raiseN_beat, Dev.setReg_beat]

theorem Dev.fence_beat (n : Nat) : (d.fence n).beat = d.beat := by
  grind [Dev.fence, Dev.beat, Dev.setDom_beat]

theorem Dev.sendSnoop_beat (k sh : Nat) (inv comp : Bool) : (d.sendSnoop k sh inv comp).beat = d.beat := by
  grind [Dev.sendSnoop, Dev.beat, Dev.count_beat, Dev.sendUp_beat, Dev.emit_beat]

theorem Dev.openSnoop_beat (k sh : Nat) (inv : Bool) (id : Option Nat) (excl comp : Bool) : (d.openSnoop k sh inv id excl comp).beat = d.beat := by
  grind [Dev.openSnoop, Dev.beat, Dev.sendSnoop_beat]

theorem Dev.snoopAll_beat : d.snoopAll.beat = d.beat := by
  grind [Dev.snoopAll, Dev.beat, foldl_beat, Dev.openSnoop_beat]

theorem Dev.bistPrepare_beat (kind index : Nat) : (d.bistPrepare kind index).beat = d.beat := by
  grind [Dev.bistPrepare, Dev.beat, Dev.setFlag_beat, Dev.fence_beat, Dev.snoopAll_beat]

theorem Dev.startTest_beat (kind index : Nat) (i : Iface) : (d.startTest kind index i).beat = d.beat := by
  grind [Dev.startTest, Dev.beat, Dev.setFld_beat, Dev.setFlag_beat, Dev.startFg_beat, Dev.bistPrepare_beat]

theorem bodyBistRun_beat (i : Iface) (p : Payload) : (bodyBistRun i p d).beat = d.beat := by
  grind [bodyBistRun, Dev.beat, Dev.vendor_beat, Dev.complete_beat, Dev.stage_beat, Dev.startTest_beat]

theorem Dev.placeRepaired_beat (l : BitVec 64) : (d.placeRepaired l).beat = d.beat := by
  grind [Dev.placeRepaired, Dev.beat, Dev.setFld_beat]

theorem Dev.syncRepairs_beat : d.syncRepairs.beat = d.beat := by
  grind [Dev.syncRepairs, Dev.beat, foldl_beat, Dev.setFld_beat]

theorem Dev.repairFar_beat (l : BitVec 64) : (d.repairFar l).beat = d.beat := by
  grind [Dev.repairFar, Dev.beat, Dev.syncRepairs_beat, Dev.modFch_beat]

theorem Dev.repairDone_beat (l : BitVec 64) : (d.repairDone l).beat = d.beat := by
  grind [Dev.repairDone, Dev.beat, Dev.raise_beat, Dev.syncRepairs_beat]

theorem Dev.startRotation_beat (c : CremaCh) (i : Option Iface) : (d.startRotation c i).beat = d.beat := by
  grind [Dev.startRotation, Dev.beat, Dev.setFld_beat, Dev.setFlag_beat, Dev.startFg_beat]

theorem Dev.applyCrema_beat (l : BitVec 64) : (d.applyCrema l).beat = d.beat := by
  grind [Dev.applyCrema, Dev.beat, Dev.placeRepaired_beat, Dev.repairDone_beat, Dev.syncRepairs_beat, Dev.startRotation_beat]

theorem Dev.repairCrema_beat (l : BitVec 64) : (d.repairCrema l).beat = d.beat := by
  grind [Dev.repairCrema, Dev.beat, Dev.applyCrema_beat]

theorem Dev.repairSoft_beat (l : BitVec 64) : (d.repairSoft l).beat = d.beat := by
  grind [Dev.repairSoft, Dev.beat, Dev.placeRepaired_beat, Dev.repairFar_beat, Dev.repairCrema_beat]

theorem bodyRepairSoft_beat (i : Iface) (p : Payload) : (bodyRepairSoft i p d).beat = d.beat := by
  grind [bodyRepairSoft, Dev.beat, Dev.vendor_beat, Dev.complete_beat, Dev.repairSoft_beat]

theorem Dev.setArmed_beat (src : Source) (a : Option Armed) : (d.setArmed src a).beat = d.beat := by
  simp [Dev.beat]

theorem Dev.keyFail_beat (cause off : Nat) : (d.keyFail cause off).beat = d.beat := by
  simp [Dev.beat]

theorem Dev.arm_beat (src : Source) (off : Nat) (value : Word) : (d.arm src off value).beat = d.beat := by
  grind [Dev.arm, Dev.beat, Dev.keyFail_beat, Dev.setArmed_beat]

theorem Dev.drivePair_beat (i : Iface) (off : Nat) (value confirm : Word) {act : Word → Dev → Option Dev}
    (h : ∀ {v d e}, act v d = some e → e.beat = d.beat) : (d.drivePair i off value confirm act).1.beat = d.beat := by
  grind [Dev.drivePair, Dev.arm_beat, Dev.setArmed_beat, Dev.keyFail_beat]

theorem Dev.startHppr_beat : d.startHppr.beat = d.beat := by
  grind [Dev.startHppr, Dev.beat, Dev.modFch_beat]

theorem Dev.repairWithFuse_beat (l : BitVec 64) : (d.repairWithFuse l).beat = d.beat := by
  grind [Dev.repairWithFuse, Dev.beat, Dev.placeRepaired_beat, Dev.repairCrema_beat, Dev.applyCrema_beat]

theorem fuseAct_beat (v : Word) {e : Dev} (h : fuseAct v d = some e) : e.beat = d.beat := by
  grind [fuseAct, Dev.beat, Dev.setReg_beat, Dev.setFld_beat, Dev.startHppr_beat, Dev.setFlag_beat, Dev.repairWithFuse_beat]

theorem bodyRepairFuse_beat (i : Iface) (p : Payload) : (bodyRepairFuse i p d).beat = d.beat := by
  grind [bodyRepairFuse, Dev.beat, Dev.vendor_beat, Dev.complete_beat, Dev.setReg_beat, Dev.drivePair_beat, fuseAct_beat]

theorem bodyCanisterStore_beat (i : Iface) (p : Payload) : (bodyCanisterStore i p d).beat = d.beat := by
  grind [bodyCanisterStore, Dev.beat, Dev.vendor_beat, Dev.complete_beat, Dev.longRun_beat, Dev.setFlag_beat]

theorem Dev.setPend_beat (o : Nat) (w : Word) : (d.setPend o w).beat = d.beat := by
  simp [Dev.beat]

theorem Dev.pendWrite_beat (o : Nat) (value : Word) : (d.pendWrite o value).beat = d.beat := by
  grind [Dev.pendWrite, Dev.beat, Dev.setPend_beat]

theorem Dev.stageCopy_beat (i : Iface) (c : Copy) : (d.stageCopy i c).beat = d.beat := by
  grind [Dev.stageCopy, Dev.beat, foldl_beat, Dev.staged_beat, Dev.pendWrite_beat, Dev.setPend_beat, Dev.stage_beat]

theorem bodyCanisterLoad_beat (i : Iface) (p : Payload) : (bodyCanisterLoad i p d).beat = d.beat := by
  grind [bodyCanisterLoad, Dev.beat, Dev.vendor_beat, Dev.complete_beat, Dev.stageCopy_beat]

theorem eraseAct_beat (v : Word) {e : Dev} (h : eraseAct v d = some e) : e.beat = d.beat := by
  grind [eraseAct, Dev.beat, Dev.setFld_beat, Dev.setFlag_beat]

theorem bodyCanisterErase_beat (i : Iface) (p : Payload) : (bodyCanisterErase i p d).beat = d.beat := by
  grind [bodyCanisterErase, Dev.beat, Dev.vendor_beat, Dev.complete_beat, Dev.drivePair_beat, eraseAct_beat, Dev.longRun_beat]

theorem Dev.endRoll_beat : d.endRoll.beat = d.beat := by
  grind [Dev.endRoll, Dev.beat, Dev.complete_beat]

theorem Dev.sendRoll_beat (p : PortId) (r : Roll) : (d.sendRoll p r).beat = d.beat := by
  grind [Dev.sendRoll, Dev.beat, Dev.relayPut_beat]

theorem Dev.rollDone_beat (count : Nat) (tooMany : Bool) (recs : List MemberRec) : (d.rollDone count tooMany recs).beat = d.beat := by
  grind [Dev.rollDone, Dev.beat, Dev.setFlag_beat, Dev.setFld_beat, Dev.raiseN_beat]

theorem Dev.rollCall_beat (again : Bool) : (d.rollCall again).beat = d.beat := by
  grind [Dev.rollCall, Dev.beat, Dev.setFlag_beat, Dev.setFld_beat, Dev.sendRoll_beat, Dev.rollDone_beat]

theorem bodyChainRollcall_beat (i : Iface) (p : Payload) : (bodyChainRollcall i p d).beat = d.beat := by
  grind [bodyChainRollcall, Dev.beat, Dev.vendor_beat, Dev.complete_beat, Dev.endRoll_beat, Dev.rollCall_beat, Dev.longRun_beat]

theorem bodyChainMap_beat (i : Iface) (p : Payload) : (bodyChainMap i p d).beat = d.beat := by
  grind [bodyChainMap, Dev.beat, Dev.vendor_beat, Dev.complete_beat]

theorem bodyCremaPin_beat (i : Iface) (p : Payload) : (bodyCremaPin i p d).beat = d.beat := by
  grind [bodyCremaPin, Dev.beat, Dev.vendor_beat, Dev.complete_beat, Dev.stage_beat]

theorem bodyCremaFlush_beat (i : Iface) (p : Payload) : (bodyCremaFlush i p d).beat = d.beat := by
  grind [bodyCremaFlush, Dev.beat, Dev.vendor_beat, Dev.complete_beat, Dev.stage_beat]

theorem bodyNearSize_beat (i : Iface) (p : Payload) : (bodyNearSize i p d).beat = d.beat := by
  grind [bodyNearSize, Dev.beat, Dev.vendor_beat, Dev.complete_beat, Dev.stage_beat]

theorem bodyPressPolicy_beat (i : Iface) (p : Payload) : (bodyPressPolicy i p d).beat = d.beat := by
  grind [bodyPressPolicy, Dev.beat, Dev.vendor_beat, Dev.complete_beat, Dev.stage_beat]

theorem Dev.startCompaction_beat (i : Option Iface) (pools : List Nat) : (d.startCompaction i pools).beat = d.beat := by
  grind [Dev.startCompaction, Dev.beat, Dev.setFlag_beat, Dev.startFg_beat]

theorem Dev.endFg_beat (rc : Nat) (out : Payload) : (d.endFg rc out).beat = d.beat := by
  grind [Dev.endFg, Dev.beat, Dev.syncBrew_beat, Dev.complete_beat]

theorem bodyPressCompact_beat (i : Iface) (p : Payload) : (bodyPressCompact i p d).beat = d.beat := by
  grind [bodyPressCompact, Dev.beat, Dev.vendor_beat, Dev.complete_beat, Dev.startCompaction_beat, Dev.endFg_beat, Dev.setFlag_beat]

theorem Dev.modRecord_beat (f : InletRec → InletRec) : (d.modRecord f).beat = d.beat := by
  simp [Dev.beat]

theorem Dev.setFails_beat (n : Nat) : (d.setFails n).beat = d.beat := by
  grind [Dev.setFails, Dev.beat, Dev.modRecord_beat, Dev.setFld_beat]

theorem Dev.atBoot_beat (num : Nat) (detail : List Word) : (d.atBoot num detail).beat = d.beat := by
  simp [Dev.beat]

theorem Dev.raiseOrKeep_beat (num : Nat) (detail : List Word) : (d.raiseOrKeep num detail).beat = d.beat := by
  grind [Dev.raiseOrKeep, Dev.beat, Dev.atBoot_beat, Dev.raiseN_beat]

theorem inletClear_beat (v : Word) {e : Dev} (h : inletClear v d = some e) : e.beat = d.beat := by
  grind [inletClear, Dev.beat, Dev.setFails_beat, Dev.setReg_beat, Dev.modRecord_beat, Dev.raiseOrKeep_beat]

theorem bodyInletClear_beat (i : Iface) (p : Payload) : (bodyInletClear i p d).beat = d.beat := by
  grind [bodyInletClear, Dev.beat, Dev.vendor_beat, Dev.drivePair_beat, inletClear_beat, Dev.complete_beat]

theorem Dev.syncCanister_beat : d.syncCanister.beat = d.beat := by
  grind [Dev.syncCanister, Dev.beat, Dev.setFlag_beat, Dev.setFld_beat]

theorem Dev.takePart_beat (i : Iface) (opcode : Nat) (n : Fin 2) (off : Nat) (last : Bool) (bytes : Payload) :
    (d.takePart i opcode n off last bytes).beat = d.beat := by
  grind [Dev.takePart, Dev.beat, Dev.complete_beat, Dev.syncCanister_beat, Dev.startFg_beat]

theorem bodyFwStage_beat (i : Iface) (p : Payload) : (bodyFwStage i p d).beat = d.beat := by
  grind [bodyFwStage, Dev.beat, Dev.vendor_beat, Dev.complete_beat, Dev.takePart_beat]

theorem Dev.landHeld_beat : d.landHeld.beat = d.beat := by
  grind [Dev.landHeld, Dev.beat, foldl_beat, Dev.staged_beat, Dev.pendWrite_beat]

theorem Dev.dropSanitise_beat (t : TenantId) : (d.dropSanitise t).beat = d.beat := by
  grind [Dev.dropSanitise, Dev.beat, Dev.modTenant_beat]

theorem Dev.dropRotation_beat : d.dropRotation.beat = d.beat := by
  grind [Dev.dropRotation, Dev.beat, Dev.setReg_beat, Dev.setFld_beat]

theorem Dev.powerOn_beat (n : Nat) : (d.powerOn n).beat = d.beat := by
  grind [Dev.powerOn, Dev.beat, Dev.setDom_beat]

theorem Dev.countPinned_beat : d.countPinned.beat = d.beat := by
  grind [Dev.countPinned, Dev.beat, Dev.setFld_beat]

theorem Dev.quadrantCleared_beat (q : Nat) : (d.quadrantCleared q).beat = d.beat := by
  grind [Dev.quadrantCleared, Dev.beat, Dev.countPinned_beat]

theorem Dev.floorMoved_beat : d.floorMoved.beat = d.beat := rfl

theorem Dev.conflictAck_beat (port : PortId) (tag sharer : Nat) : (d.conflictAck port tag sharer).beat = d.beat := by
  grind [Dev.conflictAck, Dev.beat, Dev.sendUp_beat, Dev.emit_beat]

theorem Dev.sendAcks_beat (id : Nat) : (d.sendAcks id).beat = d.beat := by
  grind [Dev.sendAcks, Dev.beat, foldl_beat, Dev.conflictAck_beat]

theorem Dev.answerHost_beat (p : PortId) (ld tag : Nat) (uio : Bool) (md : Meta) (load : Nat) (r : Reply) :
    (d.answerHost p ld tag uio md load r).beat = d.beat := by
  grind [Dev.answerHost, Dev.beat, Dev.emit_beat]

theorem Dev.histogram_beat (x : Txn) : (d.histogram x).beat = d.beat := by
  grind [Dev.histogram, Dev.beat]

theorem Dev.delivered_beat (x : Txn) : (d.delivered x).beat = d.beat := by
  grind [Dev.delivered, Dev.beat, Dev.countAs_beat, Dev.modTenant_beat]

theorem Dev.answerRelay_beat (x : Txn) (src tag : Nat) (r : Reply) : (d.answerRelay x src tag r).beat = d.beat := by
  cases r <;> exact Dev.sendUp_beat d _ _ _

theorem Dev.finish_beat (x : Txn) (r : Reply) : (d.finish x r).beat = d.beat := by
  grind [Dev.finish, Dev.beat, Dev.sendAcks_beat, Dev.bump_beat, Dev.answerHost_beat, Dev.histogram_beat, Dev.delivered_beat,
    Dev.answerRelay_beat]

theorem Dev.setDir_beat (i : Nat) (e : DirEntry) : (d.setDir i e).beat = d.beat := by
  simp [Dev.beat]

theorem Dev.dirAfter_beat (x : Txn) : (d.dirAfter x).beat = d.beat := by
  grind [Dev.dirAfter, Dev.beat, Dev.setDir_beat]

theorem Dev.close_beat (x : Txn) (r : Reply) : (d.close x r).beat = d.beat := by
  grind [Dev.close, Dev.beat, Dev.finish_beat, Dev.dirAfter_beat]

theorem Dev.closePoisoned_beat (x : Txn) : (d.closePoisoned x).beat = d.beat := by
  grind [Dev.closePoisoned, Dev.beat, Dev.close_beat]

theorem Dev.logDrop_beat (chid : BitVec 16) (ma : Nat) : (d.logDrop chid ma).beat = d.beat := by
  grind [Dev.logDrop, Dev.beat, Dev.emit_beat]

theorem Dev.dropInFlight_beat (c : Nat) : (d.dropInFlight c).2.beat = d.beat := by
  refine foldl_keeps (·.2.beat) _ _ (0, d) fun p x => ?_
  dsimp only
  split
  · rw [Dev.closePoisoned_beat, Dev.logDrop_beat]
  · rw [Dev.closePoisoned_beat]

theorem Dev.enqueue_beat (s line : Nat) (w : Who) : (d.enqueue s line w).beat = d.beat := by
  grind [Dev.enqueue, Dev.beat, Dev.modSched_beat]

theorem Dev.cremaAccess_beat (g l : Nat) (w : Who) : (d.cremaAccess g l w).beat = d.beat := by
  grind [Dev.cremaAccess, Dev.beat, Dev.enqueue_beat]

theorem Dev.reserveAccess_beat (w : Who) (p : Nat × Nat) : (d.reserveAccess w p).beat = d.beat := by
  grind [Dev.reserveAccess, Dev.beat, Dev.cremaAccess_beat]

theorem Dev.tagLine_beat (w : Who) (n : Nat) : (d.tagLine w n).beat = d.beat := by
  grind [Dev.tagLine, Dev.beat, foldl_beat, Dev.reserveAccess_beat, Dev.wordWrite_beat]

theorem Dev.tagWrite_beat (w : Who) (set : Nat) (way : Option Nat) : (d.tagWrite w set way).beat = d.beat := by
  unfold Dev.tagWrite
  dsimp only
  rw [foldl_beat _ _ _ fun d n => by rw [Dev.reserveAccess_beat, Dev.reserveAccess_beat, Dev.tagLine_beat]]
  split
  · rw [Dev.mergeWrite_beat]
  · rfl

theorem Dev.cremaDrop_beat (g : Nat) : (d.cremaDrop g).beat = d.beat := by
  grind [Dev.cremaDrop, Dev.beat]

theorem Dev.setFrame_beat (set way : Nat) (f : Frame) : (d.setFrame set way f).beat = d.beat := by
  simp [Dev.beat]

theorem Dev.dropFrame_beat (set way : Nat) : (d.dropFrame set way).beat = d.beat := by
  grind [Dev.dropFrame, Dev.beat, Dev.countPinned_beat, Dev.tagWrite_beat, Dev.cremaDrop_beat, Dev.setFrame_beat]

theorem Dev.dropFrames_beat (c : Nat) : (d.dropFrames c).2.beat = d.beat := by
  refine foldl_keeps (·.2.beat) _ _ (0, d) fun p e => ?_
  dsimp only
  split
  · exact Dev.dropFrame_beat p.2 _ _
  · rfl

theorem Dev.dropMaps_beat (c : Nat) : (d.dropMaps c).beat = d.beat := by
  grind [Dev.dropMaps, Dev.beat]

theorem Dev.dropQueues_beat (s : Nat) : (d.dropQueues s).beat = d.beat := by
  grind [Dev.dropQueues, Dev.beat]

theorem Dev.dispatchJobs_beat : d.dispatchJobs.beat = d.beat := by
  grind [Dev.dispatchJobs, Dev.beat, foldl_beat, Dev.setFld_beat]

theorem Dev.dropJobs_beat (c : Nat) : (d.dropJobs c).beat = d.beat := by
  grind [Dev.dropJobs, Dev.beat, Dev.dispatchJobs_beat]

theorem Dev.modLd_beat (p : PortId) (ld : Nat) (f : LdState → LdState) : (d.modLd p ld f).beat = d.beat := by
  simp [Dev.beat]

theorem Dev.poisonOverflow_beat (p : PortId) (ld : Nat) : (d.poisonOverflow p ld).beat = d.beat := by
  grind [Dev.poisonOverflow, Dev.beat, Dev.modLd_beat, Dev.setBit_beat, Dev.raise_beat]

theorem Dev.listPoison_beat (p : PortId) (ld line : Nat) (src : PoisonSrc) : (d.listPoison p ld line src).beat = d.beat := by
  grind [Dev.listPoison, Dev.beat, Dev.modLd_beat, Dev.poisonOverflow_beat]

theorem Dev.listLines_beat (p : PortId) (ld first len : Nat) (src : PoisonSrc) : (d.listLines p ld first len src).beat = d.beat := by
  grind [Dev.listLines, Dev.beat, foldl_beat, Dev.listPoison_beat]

theorem Dev.listChannel_beat (c : Nat) : (d.listChannel c).beat = d.beat := by
  grind [Dev.listChannel, Dev.beat, foldl_beat, Dev.listLines_beat]

theorem Dev.modTxn_beat (id : Nat) (f : Txn → Txn) : (d.modTxn id f).beat = d.beat := by
  simp [Dev.beat]

theorem Dev.predictAtomic_beat (k req : Nat) : (d.predictAtomic k req).2.beat = d.beat := by
  grind [Dev.predictAtomic, Dev.beat]

theorem Dev.takeIn_beat (x : Txn) : (d.takeIn x).beat = d.beat := by
  grind [Dev.takeIn, Dev.beat, Dev.modTxn_beat, Dev.predictAtomic_beat]

theorem Dev.dirSetLost_beat (set : Nat) : (d.dirSetLost set).beat = d.beat := by
  grind [Dev.dirSetLost, Dev.beat, foldl_beat, Dev.wordWrite_beat, Dev.raise_beat, Dev.bump_beat]

theorem Dev.dirLookup_beat (k : Nat) : (d.dirLookup k).beat = d.beat := by
  grind [Dev.dirLookup, Dev.beat, Dev.dirSetLost_beat]

theorem Dev.park_beat (id : Nat) (ph : Phase) : (d.park id ph).beat = d.beat := by
  grind [Dev.park, Dev.beat, Dev.modTxn_beat]

theorem Dev.dirAnswer_beat (k : Nat) (shared : Bool) : (d.dirAnswer k shared).beat = d.beat := by
  grind [Dev.dirAnswer, Dev.beat, Dev.setDir_beat]

theorem Dev.putCrema_beat (k : Nat) (l : Line) : (d.putCrema k l).beat = d.beat := by
  grind [Dev.putCrema, Dev.beat]

theorem Dev.cremaStore_beat (g l : Nat) (data : Line) (poison : Bool) : (d.cremaStore g l data poison).beat = d.beat := by
  grind [Dev.cremaStore, Dev.beat, Dev.putCrema_beat]

theorem Dev.markSeen_beat (g l : Nat) : (d.markSeen g l).beat = d.beat := by
  grind [Dev.markSeen, Dev.beat]

theorem Dev.cremaPut_beat (g l : Nat) (data : Line) (poison : Bool) : (d.cremaPut g l data poison).beat = d.beat := by
  grind [Dev.cremaPut, Dev.beat, Dev.cremaStore_beat, Dev.markSeen_beat]

theorem Dev.poisonFound_beat (owner : Option (TenantId × Nat)) (chid : BitVec 16) (loc : BitVec 64) (src : PoisonSrc) :
    (d.poisonFound owner chid loc src).beat = d.beat := by
  unfold Dev.poisonFound
  split
  · rw [Dev.listPoison_beat, Dev.raise_beat]
  · rw [Dev.raise_beat]

theorem Dev.firstPoison_beat (ma : Nat) (comp : Bool) (chid : BitVec 16) (loc : BitVec 64) (src : PoisonSrc) :
    (d.firstPoison ma comp chid loc src).beat = d.beat := by
  grind [Dev.firstPoison, Dev.beat, Dev.poisonFound_beat]

theorem Dev.unlistPoison_beat (p : PortId) (ld line : Nat) : (d.unlistPoison p ld line).beat = d.beat := by
  grind [Dev.unlistPoison, Dev.beat, Dev.modLd_beat, Dev.poisonOverflow_beat]

theorem Dev.poisonGone_beat (ma : Nat) (comp : Bool) : (d.poisonGone ma comp).beat = d.beat := by
  grind [Dev.poisonGone, Dev.beat, Dev.unlistPoison_beat]

theorem Dev.setFresh_beat (c cli : Nat) (b : Bool) : (d.setFresh c cli b).beat = d.beat := by
  grind [Dev.setFresh, Dev.beat]

theorem Dev.haltFlit_beat (p : PortId) (origin cause : Nat) : (d.haltFlit p origin cause).beat = d.beat := by
  grind [Dev.haltFlit, Dev.beat, Dev.putFlit_beat, Dev.modRly_beat]

theorem Dev.haltOut_beat (origin cause : Nat) : (d.haltOut origin cause).beat = d.beat := by
  grind [Dev.haltOut, Dev.beat, foldl_beat, Dev.emit_beat, Dev.setFlag_beat, Dev.haltFlit_beat]

theorem Dev.recordHalt_beat (cause : HaltCause) (origin : Nat) (chid : BitVec 16) (loc : BitVec 64) :
    (d.recordHalt cause origin chid loc).beat = d.beat := by
  grind [Dev.recordHalt, Dev.beat, Dev.setReg_beat]

theorem Dev.zeroise_beat : d.zeroise.beat = d.beat := by
  grind [Dev.zeroise, Dev.beat, Dev.setFlag_beat]

theorem Dev.finishPoisoned_beat (x : Txn) : (d.finishPoisoned x).beat = d.beat := by
  grind [Dev.finishPoisoned, Dev.beat, Dev.finish_beat]

theorem Dev.dropAll_beat : d.dropAll.beat = d.beat := by
  grind [Dev.dropAll, Dev.beat, foldl_beat, Dev.finishPoisoned_beat]

theorem Dev.haltFrom_beat (cause : HaltCause) (origin : Nat) (chid : BitVec 16) (loc : BitVec 64) :
    (d.haltFrom cause origin chid loc).beat = d.beat := by
  grind [Dev.haltFrom, Dev.beat, Dev.haltOut_beat, Dev.recordHalt_beat, Dev.setFld_beat, Dev.zeroise_beat, Dev.setFlag_beat,
    Dev.dropAll_beat]

theorem Dev.haltBy_beat (cause : HaltCause) (chid : BitVec 16) (loc : BitVec 64) : (d.haltBy cause chid loc).beat = d.beat := by
  grind [Dev.haltBy, Dev.beat, Dev.haltFrom_beat]

theorem Dev.integrityFail_beat (cause : HaltCause) (chid : BitVec 16) (loc : BitVec 64) (detail : List Word) :
    (d.integrityFail cause chid loc detail).beat = d.beat := by
  grind [Dev.integrityFail, Dev.beat, Dev.haltBy_beat, Dev.raise_beat]

theorem Dev.setMajorNext_beat (new : Bool) (n : Nat) : (d.setMajorNext new n).beat = d.beat := by
  grind [Dev.setMajorNext, Dev.beat, Dev.integrityFail_beat, Dev.setFlag_beat]

theorem Dev.setCtr_beat (c pg : Nat) (b : Line) : (d.setCtr c pg b).beat = d.beat := by
  grind [Dev.setCtr, Dev.beat]

theorem Dev.freshCtr_beat (c pg : Nat) (new : Bool) : (d.freshCtr c pg new).beat = d.beat := by
  grind [Dev.freshCtr, Dev.beat, Dev.setMajorNext_beat, Dev.setCtr_beat]

theorem Dev.setFarPoison_beat (c cli : Nat) (b : Bool) : (d.setFarPoison c cli b).beat = d.beat := by
  grind [Dev.setFarPoison, Dev.beat]

theorem Dev.initPage_beat (c cli : Nat) : (d.initPage c cli).beat = d.beat := by
  grind [Dev.initPage, Dev.beat, foldl_beat, Dev.freshCtr_beat, Dev.firstPoison_beat, Dev.setFarPoison_beat, Dev.setFresh_beat]

theorem Dev.modHeldPage_beat (c : Nat) (f : RekeyPage → RekeyPage) : (d.modHeldPage c f).beat = d.beat := by
  grind [Dev.modHeldPage, Dev.beat]

theorem Dev.putFar_beat (k : Nat) (l : Line) : (d.putFar k l).beat = d.beat := by
  grind [Dev.putFar, Dev.beat]

theorem Dev.countWrite_beat (c pg j : Nat) : (d.countWrite c pg j).beat = d.beat := by
  grind [Dev.countWrite, Dev.beat, Dev.setCtr_beat, Dev.countAs_beat, Dev.setMajorNext_beat]

theorem Dev.farStore_beat (c cli : Nat) (data : Line) (poison : Bool) : (d.farStore c cli data poison).beat = d.beat := by
  grind [Dev.farStore, Dev.beat, Dev.raise_beat, Dev.setFresh_beat, Dev.initPage_beat, Dev.modHeldPage_beat, Dev.putFar_beat,
    Dev.setFarPoison_beat, Dev.countWrite_beat]

theorem Dev.writeSectors_beat (c : Nat) (secs : List Nat) (lines : List (Line × Bool)) : (d.writeSectors c secs lines).beat = d.beat := by
  grind [Dev.writeSectors, Dev.beat, foldl_beat, Dev.farStore_beat, Dev.countAs_beat]

theorem Dev.bitmapWrite_beat (w : Who) (page : Nat) : (d.bitmapWrite w page).beat = d.beat := by
  grind [Dev.bitmapWrite, Dev.beat, Dev.reserveAccess_beat]

theorem Dev.farQueue_beat (c cli : Nat) (w : Who) : (d.farQueue c cli w).beat = d.beat := by
  grind [Dev.farQueue, Dev.beat, Dev.modFch_beat, Dev.enqueue_beat]

theorem Dev.farLines_beat (c : Nat) (l : List Nat) (w : Who) : (d.farLines c l w).beat = d.beat := by
  grind [Dev.farLines, Dev.beat, foldl_beat, Dev.farQueue_beat]

theorem Dev.metaCopies_beat (w : Who) (r : MetaRef) (all : Bool) : (d.metaCopies w r all).beat = d.beat := by
  grind [Dev.metaCopies, Dev.beat, foldl_beat, Dev.farQueue_beat]

theorem Dev.metaEvict_beat (w : Who) (r : MetaRef) (dirty : Bool) : (d.metaEvict w r dirty).beat = d.beat := by
  have copies : (if dirty then d.metaCopies { w with wr := true } r true else d).beat = d.beat := by
    split
    · rw [Dev.metaCopies_beat]
    · rfl
  unfold Dev.metaEvict
  dsimp only
  split
  · exact (Dev.beat_withCry _ _).trans ((Dev.reserveAccess_beat _ _ _).trans copies)
  · exact copies

theorem Dev.metaUse_beat (w : Who) (r : MetaRef) (dirty : Bool) (n : Nat) : (d.metaUse w r dirty n).beat = d.beat := by
  induction n generalizing d r dirty with
  | zero => rfl
  | succ n ih =>
    have parent (d : Dev) (p : Option MetaRef) (b : Bool) :
        (match p with | some p => Dev.metaUse d w p b n | none => d).beat = d.beat := by
      cases p with
      | none => rfl
      | some p => exact ih d p b
    unfold Dev.metaUse
    split
    · rfl
    dsimp only
    split
    · rfl
    have read (c : Bool) : (if c = true then
        (match r with | .ctr c pg => d.reserveAccess { w with wr := false } (d.sharedPlace 2 (d.spillSlot c pg).1) | _ => d)
        else match (d.metaCopies { w with wr := false } r false).metaParent r with
          | some p => Dev.metaUse (d.metaCopies { w with wr := false } r false) w p false n
          | none => d.metaCopies { w with wr := false } r false).beat = d.beat := by
      refine ite_beat ?_ ?_
      · split
        · exact Dev.reserveAccess_beat _ _ _
        · rfl
      · exact (parent _ _ _).trans (Dev.metaCopies_beat _ _ _ _)
    have stale (e : Dev) : (match r with
          | .ctr c pg => if (dirty && Sparse.get 0 e.cry.spill (e.spillSlot c pg).1 == (e.spillSlot c pg).2) = true then { e with cry := { e.cry with spill := Sparse.put 0 e.cry.spill (e.spillSlot c pg).1 0 } } else e
          | _ => e).beat = e.beat := by
      split
      · exact ite_beat rfl rfl
      · rfl
    split
    · refine ite_beat ((parent _ _ _).trans ?_) ?_
      all_goals
        refine (Dev.metaEvict_beat _ _ _ _).trans ((Dev.beat_withCry _ _).trans ?_)
        exact (stale _).trans (read _)
    · refine ((Dev.beat_withCry _ _).trans ?_)
      exact (stale _).trans (read _)

theorem Dev.minorWrite_beat (c cli : Nat) : (d.minorWrite c cli).beat = d.beat := by
  grind [Dev.minorWrite, Dev.beat, foldl_beat, Dev.mergeWrite_beat]

theorem Dev.metaFor_beat (c cli : Nat) (w : Who) : (d.metaFor c cli w).beat = d.beat := by
  grind [Dev.metaFor, Dev.beat, Dev.metaUse_beat, Dev.minorWrite_beat]

theorem Dev.farAccess_beat (c cli : Nat) (w : Who) : (d.farAccess c cli w).beat = d.beat := by
  grind [Dev.farAccess, Dev.beat, Dev.bitmapWrite_beat, Dev.farLines_beat, Dev.metaFor_beat, Dev.farQueue_beat]

theorem Dev.sectorAccess_beat (c : Nat) (secs : List Nat) (w : Who) : (d.sectorAccess c secs w).beat = d.beat := by
  grind [Dev.sectorAccess, Dev.beat, foldl_beat, Dev.farAccess_beat]

theorem Dev.storeSectors_beat (c : Nat) (secs : List Nat) (lines : List (Line × Bool)) : (d.storeSectors c secs lines).beat = d.beat := by
  grind [Dev.storeSectors, Dev.beat, Dev.writeSectors_beat, Dev.sectorAccess_beat]

theorem Dev.mapRead_beat (w : Who) (c cli : Nat) {far : Dev → Dev} (h : ∀ d, (far d).beat = d.beat) :
    (d.mapRead w c cli far).beat = d.beat := by
  unfold Dev.mapRead
  dsimp only
  split
  · rw [Dev.reserveAccess_beat]
  · exact (Dev.beat_withPrs _ _).trans ((Dev.reserveAccess_beat _ _ _).trans (h d))

theorem Dev.setMapEntry_beat (pl : PagePlace) (m : MapEntry) : (d.setMapEntry pl m).beat = d.beat := by
  grind [Dev.setMapEntry, Dev.beat, Dev.mapRead_beat, Dev.farAccess_beat, Dev.farStore_beat]

theorem Dev.releaseSectors_beat (c s n : Nat) : (d.releaseSectors c s n).beat = d.beat := by
  grind [Dev.releaseSectors, Dev.beat]

theorem Dev.countChain_beat (n : Nat) (was is : Bool) : (d.countChain n was is).beat = d.beat := by
  grind [Dev.countChain, Dev.beat, Dev.setFld_beat]

theorem Dev.takeSectors_beat (c s n : Nat) : (d.takeSectors c s n).beat = d.beat := by
  grind [Dev.takeSectors, Dev.beat, foldl_beat]

theorem Dev.releaseEntry_beat (pl : PagePlace) (m : MapEntry) : (d.releaseEntry pl m).beat = d.beat := by
  grind [Dev.releaseEntry, Dev.beat, Dev.releaseSectors_beat]

theorem Dev.listPage_beat (page : Nat) (src : PoisonSrc) : (d.listPage page src).beat = d.beat := by
  grind [Dev.listPage, Dev.beat, foldl_beat, Dev.firstPoison_beat]

theorem Dev.poisonPage_beat (page : Nat) (src : PoisonSrc) : (d.poisonPage page src).beat = d.beat := by
  grind [Dev.poisonPage, Dev.beat, Dev.releaseEntry_beat, Dev.setMapEntry_beat, Dev.listPage_beat]

theorem Dev.storePage_beat (page : Nat) (lines : List (Line × Bool)) (raw : Bool) : (d.storePage page lines raw).2.beat = d.beat := by
  grind [Dev.storePage, Dev.beat, Dev.storeSectors_beat, Dev.setMapEntry_beat, Dev.releaseSectors_beat, Dev.countChain_beat,
    Dev.takeSectors_beat, Dev.releaseEntry_beat, Dev.poisonPage_beat, Dev.bump_beat, Dev.raise_beat]

theorem Dev.storeDirect_beat (page : Nat) (lines : List (Line × Bool)) : (d.storeDirect page lines).beat = d.beat := by
  grind [Dev.storeDirect, Dev.beat, Dev.storePage_beat, Dev.poisonPage_beat]

theorem Dev.writeBeside_beat (set way l : Nat) (data : Line) (poison : Bool) : (d.writeBeside set way l data poison).beat = d.beat := by
  grind [Dev.writeBeside, Dev.beat, Dev.setFrame_beat, Dev.storeDirect_beat, Dev.farStore_beat]

theorem Dev.dropLate_beat (p l : Nat) : (d.dropLate p l).beat = d.beat := by
  grind [Dev.dropLate, Dev.beat]

theorem Dev.writeLine_beat (ma : Nat) (comp : Bool) (data : Line) (poison : Bool) (src : PoisonSrc) :
    (d.writeLine ma comp data poison src).beat = d.beat := by
  grind [Dev.writeLine, Dev.beat, Dev.logDrop_beat, Dev.cremaPut_beat, Dev.firstPoison_beat, Dev.poisonGone_beat, Dev.setFrame_beat,
    Dev.writeBeside_beat, Dev.storeDirect_beat, Dev.farStore_beat, Dev.dropLate_beat]

/-- The definition is unfolded as a function: unfolded where it is applied, the kernel would evaluate the state that its match looks into. -/
theorem Dev.biTimeout_beat (k sh : Nat) : (d.biTimeout k sh).beat = d.beat := by
  have marked : ((((d.dirAnswer k false).writeLine (d.maOfKey k) (d.maComp (d.maOfKey k)) 0 true .internal).setBit
      Fld.cohSuspect_host sh true)).beat = d.beat :=
    (Dev.setBit_beat _ _ _ _).trans ((Dev.writeLine_beat _ _ _ _ _ _).trans (Dev.dirAnswer_beat _ _ _))
  obtain ⟨f, as_function⟩ : ∃ f, f = Dev.biTimeout := ⟨_, rfl⟩
  rw [← as_function]
  delta Dev.biTimeout at as_function
  rw [as_function]
  dsimp only
  generalize Dev.ownerOf _ _ _ = owner
  cases owner with
  | some o => exact (Dev.raise_beat _ _).trans marked
  | none => exact (Dev.raise_beat _ _).trans marked

theorem Dev.notePeak_beat (slice : Nat) : (d.notePeak slice).beat = d.beat := by
  grind [Dev.notePeak, Dev.beat, Dev.setFld_beat]

theorem Dev.speculate_beat (x : Txn) : (d.speculate x).beat = d.beat := by
  grind [Dev.speculate, Dev.beat, Dev.takeFree_beat, Dev.countAs_beat, Dev.modTxn_beat, Dev.activateCrema_beat]

theorem Dev.countLost_beat (g : Nat) (near : Bool) : (d.countLost g near).beat = d.beat := by
  grind [Dev.countLost, Dev.beat]

theorem Dev.poisonCrema_beat (g l : Nat) (comp : Bool) (ma : Nat) (src : PoisonSrc) : (d.poisonCrema g l comp ma src).beat = d.beat := by
  grind [Dev.poisonCrema, Dev.beat, Dev.firstPoison_beat, Dev.cremaStore_beat]

theorem Dev.settleNear_beat (g l : Nat) : (d.settleNear g l).beat = d.beat := by
  grind [Dev.settleNear, Dev.beat, Dev.markSeen_beat, Dev.countLost_beat, Dev.poisonCrema_beat, Dev.listPoison_beat, Dev.cremaStore_beat]

theorem Dev.retry_beat (n : Nat) : (d.retry n).beat = d.beat := by
  grind [Dev.retry, Dev.beat, Dev.setBit_beat]

theorem Dev.putAccess_beat (x : Txn) : (d.putAccess x).beat = d.beat := by
  grind [Dev.putAccess, Dev.beat, Dev.farAccess_beat, Dev.cremaAccess_beat, Dev.tagWrite_beat]

theorem Dev.putTxn_beat (x : Txn) (data : Line) (poison : Bool) : (d.putTxn x data poison).beat = d.beat := by
  grind [Dev.putTxn, Dev.beat, Dev.writeLine_beat, Dev.putAccess_beat]

theorem Dev.toCrema_beat (x : Txn) (g l : Nat) : (d.toCrema x g l).beat = d.beat := by
  grind [Dev.toCrema, Dev.beat, Dev.modTxn_beat, Dev.cremaAccess_beat]

theorem Dev.nearAccess_beat (x : Txn) : (d.nearAccess x).beat = d.beat := by
  grind [Dev.nearAccess, Dev.beat, Dev.settleNear_beat, Dev.retry_beat, Dev.logDrop_beat, Dev.closePoisoned_beat, Dev.close_beat,
    Dev.putTxn_beat, Dev.toCrema_beat]

theorem Dev.access_beat (x : Txn) : (d.access x).beat = d.beat := by
  grind [Dev.access, Dev.beat, Dev.close_beat, Dev.speculate_beat, Dev.park_beat, Dev.nearAccess_beat]

theorem Dev.ageSet_beat (base : Nat) : (d.ageSet base).beat = d.beat := by
  grind [Dev.ageSet, Dev.beat, foldl_beat, Dev.setDir_beat]

theorem Dev.lockEntry_beat (i k : Nat) : (d.lockEntry i k).beat = d.beat := by
  grind [Dev.lockEntry, Dev.beat, Dev.setDir_beat, Dev.ageSet_beat]

theorem Dev.homeStep_beat (x : Txn) : (d.homeStep x).beat = d.beat := by
  grind [Dev.homeStep, Dev.beat, Dev.dirLookup_beat, Dev.park_beat, Dev.openSnoop_beat, Dev.modTxn_beat, Dev.biTimeout_beat,
    Dev.dirAnswer_beat, Dev.count_beat, Dev.notePeak_beat, Dev.bump_beat, Dev.access_beat, Dev.lockEntry_beat, Dev.setDir_beat]

theorem Dev.atomicOnLease_beat (x : Txn) (a : AtomicArgs) (l : Lease) : (d.atomicOnLease x a l).beat = d.beat := by
  grind [Dev.atomicOnLease, Dev.beat, Dev.finish_beat, Dev.count_beat]

theorem Dev.endLease_beat (l : Lease) : (d.endLease l).beat = d.beat := by
  grind [Dev.endLease, Dev.beat, Dev.writeLine_beat, Dev.dirAfter_beat]

theorem Dev.predictRecall_beat (k : Nat) : (d.predictRecall k).beat = d.beat := by
  grind [Dev.predictRecall, Dev.beat]

theorem Dev.turn_beat {e : Dev} (h : d.turn = some e) : e.beat = d.beat := by
  unfold Dev.turn at h
  split at h
  · cases h
    exact Dev.takeIn_beat d _
  split at h
  · cases h
    exact Dev.homeStep_beat d _
  split at h
  · split at h
    · have recalled (l : Lease) : (((d.count 0x033 1).predictRecall l.line).endLease l).beat = d.beat := by
        rw [Dev.endLease_beat, Dev.predictRecall_beat, Dev.count_beat]
      split at h
      · split at h
        · cases h
          exact Dev.atomicOnLease_beat d _ _ _
        · cases h
          exact recalled _
      · cases h
        exact recalled _
    · cases h
  · cases h

theorem Dev.pump_beat (n : Nat) : (d.pump n).beat = d.beat := by
  induction n generalizing d with
  | zero => rfl
  | succ n ih =>
    unfold Dev.pump
    split
    · next turned => exact (ih _).trans (Dev.turn_beat d turned)
    · rfl

theorem Dev.run_beat : d.run.beat = d.beat := by
  grind [Dev.run, Dev.beat, Dev.pump_beat]

theorem Dev.takeTarget_beat : d.takeTarget.beat = d.beat := by
  grind [Dev.takeTarget, Dev.beat]

theorem Dev.returnUnit_beat : d.returnUnit.beat = d.beat := by
  grind [Dev.returnUnit, Dev.beat, Dev.dispatchJobs_beat, Dev.setBit_beat]

theorem Dev.arrayFilled_beat (arr : Array64K) : (d.arrayFilled arr).beat = d.beat := by
  simp [Dev.beat]

theorem Dev.arraysCleared_beat (index : Nat) : (d.arraysCleared index).beat = d.beat := by
  unfold Dev.arraysCleared
  split
  case h_7 => rfl
  all_goals exact Dev.arrayFilled_beat _ _

theorem Dev.bistResult_beat (result : Nat) (locs : List (BitVec 64)) : (d.bistResult result locs).beat = d.beat := by
  grind [Dev.bistResult, Dev.beat, foldl_beat, Dev.issueLoc_beat, Dev.setFld_beat, Dev.setFlag_beat, Dev.raiseN_beat]

theorem Dev.startSanitise_beat (t : TenantId) (secure : Bool) (i : Option Iface) : (d.startSanitise t secure i).beat = d.beat := by
  grind [Dev.startSanitise, Dev.beat, Dev.askSequence_beat, Dev.startFg_beat]

theorem Dev.sanitiseLd_beat (i : Iface) (opcode ld : Nat) (secure : Bool) : (d.sanitiseLd i opcode ld secure).beat = d.beat := by
  grind [Dev.sanitiseLd, Dev.beat, Dev.complete_beat, Dev.startSanitise_beat]

theorem bodySanitize_beat (i : Iface) (ld : Nat) : (bodySanitize i ld d).beat = d.beat := by
  grind [bodySanitize, Dev.beat, Dev.sanitiseLd_beat]

theorem bodySecureErase_beat (i : Iface) (ld : Nat) : (bodySecureErase i ld d).beat = d.beat := by
  grind [bodySecureErase, Dev.beat, Dev.sanitiseLd_beat]

theorem bodyScanMedia_beat (i : Iface) (ld : Nat) : (bodyScanMedia i ld d).beat = d.beat := by
  grind [bodyScanMedia, Dev.beat, Dev.complete_beat, Dev.startFg_beat]

theorem Dev.writeDpa_beat (p : PortId) (ld dpa ma : Nat) (comp : Bool) (data : Line) (poison : Bool) :
    (d.writeDpa p ld dpa ma comp data poison).beat = d.beat := by
  grind [Dev.writeDpa, Dev.beat, Dev.writeLine_beat, Dev.sendDown_beat, Dev.listPoison_beat, Dev.unlistPoison_beat]

theorem bodyInjectPoison_beat (i : Iface) (ld dpa : Nat) : (bodyInjectPoison i ld dpa d).beat = d.beat := by
  grind [bodyInjectPoison, Dev.beat, Dev.complete_beat, Dev.writeDpa_beat]

theorem bodyClearPoison_beat (i : Iface) (ld dpa : Nat) (data : Line) : (bodyClearPoison i ld dpa data d).beat = d.beat := by
  grind [bodyClearPoison, Dev.beat, Dev.complete_beat, Dev.writeDpa_beat]

theorem bodyGetPoisonList_beat (i : Iface) (ld : Nat) : (bodyGetPoisonList i ld d).beat = d.beat := by
  grind [bodyGetPoisonList, Dev.beat, Dev.complete_beat, Dev.emit_beat]

theorem bodyGetFwInfo_beat (i : Iface) : (bodyGetFwInfo i d).beat = d.beat := by
  grind [bodyGetFwInfo, Dev.beat, Dev.complete_beat]

theorem bodyTransferFw_beat (i : Iface) (slot off : Nat) (last : Bool) (bytes : Payload) :
    (bodyTransferFw i slot off last bytes d).beat = d.beat := by
  grind [bodyTransferFw, Dev.beat, Dev.takePart_beat, Dev.complete_beat]

theorem Dev.answerDc_beat (t : TenantId) (pick : DcExtent → Option Bool) : (d.answerDc t pick).beat = d.beat := by
  grind [Dev.answerDc, Dev.beat, Dev.modTenant_beat]

theorem bodyAddResponse_beat (port : PortId) (ld : Nat) (accepted : List Nat) : (bodyAddResponse port ld accepted d).beat = d.beat := by
  grind [bodyAddResponse, Dev.beat, Dev.complete_beat, Dev.answerDc_beat]

theorem bodyReleaseDc_beat (port : PortId) (ld : Nat) (blocks : List Nat) : (bodyReleaseDc port ld blocks d).beat = d.beat := by
  grind [bodyReleaseDc, Dev.beat, Dev.complete_beat, Dev.answerDc_beat]

theorem Dev.completeRunning_beat (opcode rc : Nat) (out : Payload) : (d.completeRunning opcode rc out).beat = d.beat := by
  grind [Dev.completeRunning, Dev.beat, Dev.complete_beat]

theorem Dev.startInternal_beat (kind : Nat) (w : Work) (planned : Nat) : (d.startInternal kind w planned).beat = d.beat := by
  grind [Dev.startInternal, Dev.beat, Dev.setBit_beat]

theorem Dev.queueWipe_beat (blocks : List (Nat × Nat)) : (d.queueWipe blocks).beat = d.beat := by
  grind [Dev.queueWipe, Dev.beat, Dev.syncBrew_beat, Dev.startInternal_beat]

theorem Dev.cdatChanged_beat (p : PortId) (ld : Nat) : (d.cdatChanged p ld).beat = d.beat := by
  grind [Dev.cdatChanged, Dev.beat, Dev.modLd_beat]

theorem Dev.commitTenant_beat (create : Bool) (t : TenantId) (port : PortId) (ld base len : Nat) (part : Word) (pool members : Nat) (media : List (Nat × Nat)) (removed : List Word) :
    (d.commitTenant create t port ld base len part pool members media removed).beat = d.beat := by
  grind [Dev.commitTenant, Dev.beat, foldl_beat, Dev.setReg_beat, Dev.modTenant_beat, Dev.setFld_beat, Dev.setExt_beat,
    Dev.queueWipe_beat, Dev.cdatChanged_beat, Dev.raise_beat]

theorem Dev.modPool_beat (n : Nat) (f : Pool → Pool) : (d.modPool n f).beat = d.beat := by
  grind [Dev.modPool, Dev.beat]

theorem Dev.askRelease_beat (n : Nat) : (d.askRelease n).beat = d.beat := by
  grind [Dev.askRelease, Dev.beat, foldl_beat, Dev.emit_beat]

theorem Dev.syncPool_beat (n : Nat) : (d.syncPool n).beat = d.beat := by
  grind [Dev.syncPool, Dev.beat, foldl_beat, Dev.setReg_beat, Dev.raise_beat, Dev.askRelease_beat]

theorem Dev.setPool_beat (n : Nat) (p : Pool) (e : Nat) : (d.setPool n p e).beat = d.beat := by
  grind [Dev.setPool, Dev.beat, Dev.modPool_beat, Dev.floorMoved_beat, Dev.syncPool_beat]

theorem Dev.createPool_beat (n : Nat) (overcommit : Bool) (storage : List Nat) (e : Nat) :
    (d.createPool n overcommit storage e).beat = d.beat := by
  grind [Dev.createPool, Dev.beat, Dev.powerOn_beat, Dev.setPool_beat]

theorem Dev.growPool_beat (n : Nat) (storage : List Nat) (e : Nat) : (d.growPool n storage e).beat = d.beat := by
  grind [Dev.growPool, Dev.beat, Dev.setPool_beat]

theorem Dev.zeroSectors_beat (c s n : Nat) : (d.zeroSectors c s n).beat = d.beat := by
  grind [Dev.zeroSectors, Dev.beat]

/-- Unfolded as a function for the same reason: its match looks into the state behind 65,536 steps. -/
theorem Dev.releaseExposed_beat (b : Nat) (zero : Bool) : (d.releaseExposed b zero).beat = d.beat := by
  obtain ⟨f, as_function⟩ : ∃ f, f = Dev.releaseExposed := ⟨_, rfl⟩
  rw [← as_function]
  delta Dev.releaseExposed at as_function
  rw [as_function]
  generalize List.range 65536 = pages
  have freed {f : Dev → Nat → Dev} (h : ∀ d i, (f d i).beat = d.beat) : (match (pages.foldl f d).poolOf b with
      | some n => (pages.foldl f d).syncPool n
      | none => pages.foldl f d).beat = d.beat := by
    split
    · exact (Dev.syncPool_beat _ _).trans (foldl_beat _ _ _ h)
    · exact foldl_beat _ _ _ h
  refine freed fun d i => ?_
  split
  · split
    · refine ite_beat rfl ?_
      rw [Dev.releaseEntry_beat, Dev.setMapEntry_beat]
      refine ite_beat ?_ (Dev.countChain_beat _ _ _ _)
      rw [Dev.zeroSectors_beat, Dev.zeroSectors_beat, Dev.countChain_beat]
    · exact Dev.setMapEntry_beat _ _ _
  · rfl

theorem Dev.destroyPool_beat (n : Nat) : (d.destroyPool n).beat = d.beat := by
  grind [Dev.destroyPool, Dev.beat, foldl_beat, Dev.releaseExposed_beat, Dev.modPool_beat, Dev.setReg_beat, Dev.syncPool_beat,
    Dev.queueWipe_beat, Dev.floorMoved_beat, Dev.fence_beat]

theorem Dev.applyMedia_beat : d.applyMedia.beat = d.beat := by
  grind [Dev.applyMedia, Dev.beat, foldl_beat, Dev.commitTenant_beat, Dev.createPool_beat, Dev.growPool_beat, Dev.setPool_beat,
    Dev.destroyPool_beat]

theorem Dev.applyRegs_beat : d.applyRegs.beat = d.beat := by
  grind [Dev.applyRegs, Dev.beat, foldl_beat, Dev.setReg_beat, Dev.setFld_beat]

theorem Dev.setRoles_beat (mode : Nat) : (d.setRoles mode).beat = d.beat := by
  unfold Dev.setRoles
  simp only [Dev.setFld_beat]

theorem Dev.modPort_beat (p : PortId) (f : Port → Port) : (d.modPort p f).beat = d.beat := by
  grind [Dev.modPort, Dev.beat]

theorem Dev.linkDown_beat (p : PortId) (clearDecoders : Bool) : (d.linkDown p clearDecoders).beat = d.beat := by
  grind [Dev.linkDown, Dev.beat, Dev.modPort_beat, Dev.setReg_beat, Dev.bump_beat, Dev.setFlag_beat, Dev.setFld_beat, Dev.floorMoved_beat]

theorem Dev.dropDecoders_beat (p : PortId) : (d.dropDecoders p).beat = d.beat := by
  grind [Dev.dropDecoders, Dev.beat, foldl_beat, Dev.modLd_beat]

theorem Dev.changePorts_beat (old new : Nat) : (d.changePorts old new).beat = d.beat := by
  grind [Dev.changePorts, Dev.beat, foldl_beat, Dev.setRoles_beat, Dev.linkDown_beat, Dev.dropDecoders_beat, Dev.setReg_beat,
    Dev.modRly_beat, Dev.fence_beat, Dev.powerOn_beat, Dev.floorMoved_beat]

theorem Dev.derate_beat (c : Nat) : (d.derate c).beat = d.beat := by
  grind [Dev.derate, Dev.beat, foldl_beat, Dev.setReg_beat]

theorem Dev.derateAll_beat : d.derateAll.beat = d.beat := by
  grind [Dev.derateAll, Dev.beat, foldl_beat, Dev.derate_beat]

theorem Dev.clearDist_beat (old : Dev) : (d.clearDist old).beat = d.beat := by
  grind [Dev.clearDist, Dev.beat, foldl_beat, Dev.modFch_beat]

theorem Dev.startPin_beat (port : PortId) (ld : Nat) (pin : Bool) (dpa len : Nat) (i : Iface) :
    (d.startPin port ld pin dpa len i).beat = d.beat := by
  grind [Dev.startPin, Dev.beat, Dev.complete_beat, Dev.startFg_beat]

theorem Dev.startFlush_beat (port : PortId) (ld : Nat) (whole inval : Bool) (dpa len : Nat) (i : Iface) :
    (d.startFlush port ld whole inval dpa len i).beat = d.beat := by
  grind [Dev.startFlush, Dev.beat, Dev.complete_beat, Dev.startFg_beat]

theorem Dev.startNearSize_beat (gib : Nat) (i : Iface) : (d.startNearSize gib i).beat = d.beat := by
  grind [Dev.startNearSize, Dev.beat, Dev.complete_beat, Dev.setFlag_beat, Dev.startFg_beat]

theorem Dev.applyBrews_beat (cmds : List StagedCmd) : (d.applyBrews cmds).beat = d.beat := by
  grind [Dev.applyBrews, Dev.beat, foldl_beat, Dev.startPin_beat, Dev.startFlush_beat, Dev.startNearSize_beat, Dev.complete_beat,
    Dev.startRotation_beat]

theorem Dev.applyCommit_beat : d.applyCommit.beat = d.beat := by
  grind [Dev.applyCommit, Dev.beat, Dev.applyMedia_beat, Dev.applyRegs_beat, Dev.setFlag_beat, Dev.changePorts_beat, Dev.floorMoved_beat,
    Dev.derateAll_beat, Dev.clearDist_beat, Dev.applyBrews_beat, Dev.emptyStaging_beat, Dev.setReg_beat]

theorem Dev.edgeCommitTakesEffect_beat : d.edgeCommitTakesEffect.beat = d.beat := by
  grind [Dev.edgeCommitTakesEffect, Dev.beat, Dev.setFlag_beat, Dev.completeRunning_beat, Dev.syncStaging_beat, Dev.applyCommit_beat,
    Dev.setReg_beat]

theorem Dev.cdatBoundary_beat : d.cdatBoundary.beat = d.beat := by
  grind [Dev.cdatBoundary, Dev.beat, foldl_beat, Dev.modLd_beat]

theorem Dev.carryAt_beat (s : Nat) : (d.carryAt s).beat = d.beat := by
  grind [Dev.carryAt, Dev.beat, foldl_beat, Dev.modSlots_beat, Dev.overrun_beat]

theorem Dev.carry_beat : d.carry.beat = d.beat := by
  grind [Dev.carry, Dev.beat, foldl_beat, Dev.carryAt_beat]

theorem Dev.refactor_beat : d.refactor.beat = d.beat := by
  grind [Dev.refactor, Dev.beat, foldl_beat, Dev.setReg_beat, Dev.setFld_beat, Dev.setFlag_beat, Dev.raiseN_beat]

theorem Dev.accrueAll_beat : d.accrueAll.beat = d.beat := by
  grind [Dev.accrueAll, Dev.beat, foldl_beat, Dev.modTenant_beat]

theorem Dev.serviceChanges_beat : d.serviceChanges.beat = d.beat := by
  grind [Dev.serviceChanges, Dev.beat, Dev.refactor_beat, Dev.accrueAll_beat]

theorem Dev.unlistBlock_beat (t : TenantId) (dpaBlock : Nat) : (d.unlistBlock t dpaBlock).beat = d.beat := by
  grind [Dev.unlistBlock, Dev.beat, Dev.modLd_beat]

theorem Dev.walkBlock_beat (t : TenantId) (w : Word) : (d.walkBlock t w).beat = d.beat := by
  grind [Dev.walkBlock, Dev.beat]

theorem Dev.dropExtent_beat (t : TenantId) (e : DcExtent) : (d.dropExtent t e).beat = d.beat := by
  grind [Dev.dropExtent, Dev.beat, Dev.unlistBlock_beat, Dev.walkBlock_beat, Dev.queueWipe_beat, Dev.modTenant_beat, Dev.setExt_beat]

theorem Dev.dcBoundary_beat : d.dcBoundary.beat = d.beat := by
  grind [Dev.dcBoundary, Dev.beat, foldl_beat, Dev.setExt_beat, Dev.floorMoved_beat, Dev.modTenant_beat, Dev.dropExtent_beat]

theorem Dev.hold_beat (x : Txn) : (d.hold x).beat = d.beat := by
  grind [Dev.hold, Dev.beat, Dev.modTxn_beat]

theorem Dev.keepPosition_beat (p : PortId) (ld : Nat) (x : Decoded) : (d.keepPosition p ld x).beat = d.beat := by
  grind [Dev.keepPosition, Dev.beat, Dev.modLd_beat]

theorem Dev.setPred_beat (p : Nat) (e : Pred) : (d.setPred p e).beat = d.beat := by
  grind [Dev.setPred, Dev.beat]

theorem Dev.predFound_beat (p way : Nat) : (d.predFound p way).beat = d.beat := by
  grind [Dev.predFound, Dev.beat, Dev.setPred_beat]

theorem Dev.touch_beat (set way : Nat) : (d.touch set way).beat = d.beat := by
  grind [Dev.touch, Dev.beat, Dev.setFrame_beat]

theorem Dev.countTag_beat (x : Txn) (num : Nat) : (d.countTag x num).beat = d.beat := by
  grind [Dev.countTag, Dev.beat, Dev.modTxn_beat, Dev.countAs_beat]

theorem Dev.ageWays_beat (set : Nat) (ways : List Nat) : (d.ageWays set ways).beat = d.beat := by
  grind [Dev.ageWays, Dev.beat, foldl_beat, Dev.setFrame_beat]

theorem Dev.victimIn_beat (set : Nat) (ways : List Nat) (n : Nat) {e : Nat × Dev} (h : d.victimIn set ways n = some e) : e.2.beat = d.beat := by
  induction n generalizing d with
  | zero => simp [Dev.victimIn] at h
  | succ n ih =>
    unfold Dev.victimIn at h
    split at h
    · cases h; rfl
    split at h
    · cases h; rfl
    · exact (ih _ h).trans (Dev.ageWays_beat _ _ _)

theorem Dev.victim_beat (set : Nat) {e : Nat × Dev} (h : d.victim set = some e) : e.2.beat = d.beat := by
  grind [Dev.victim, Dev.beat, Dev.victimIn_beat]

theorem Dev.poisonFar_beat (c cli : Nat) (comp : Bool) (ma : Nat) (src : PoisonSrc) : (d.poisonFar c cli comp ma src).beat = d.beat := by
  grind [Dev.poisonFar, Dev.beat, Dev.farStore_beat, Dev.firstPoison_beat]

theorem Dev.settleCached_beat (set way l page : Nat) : (d.settleCached set way l page).beat = d.beat := by
  grind [Dev.settleCached, Dev.beat, Dev.markSeen_beat, Dev.setFrame_beat, Dev.countLost_beat, Dev.firstPoison_beat,
    Dev.storeDirect_beat, Dev.poisonFar_beat]

theorem Dev.settleFrame_beat (set way : Nat) : (d.settleFrame set way).beat = d.beat := by
  grind [Dev.settleFrame, Dev.beat, foldl_beat, Dev.settleCached_beat]

theorem Dev.queueJob_beat (j : Job) : (d.queueJob j).beat = d.beat := by
  grind [Dev.queueJob, Dev.beat, Dev.dispatchJobs_beat]

theorem Dev.startFill_beat (set way page : Nat) (pin : Bool) (c : Cls) : (d.startFill set way page pin c).beat = d.beat := by
  grind [Dev.startFill, Dev.beat, Dev.tagWrite_beat, Dev.setFrame_beat, Dev.setPred_beat, Dev.queueJob_beat]

theorem Dev.installFrame_beat (set way page : Nat) : (d.installFrame set way page).beat = d.beat := by
  grind [Dev.installFrame, Dev.beat, Dev.setPred_beat, Dev.tagWrite_beat, Dev.setFrame_beat]

theorem Dev.storeFrame_beat (set way : Nat) (raw : Bool) : (d.storeFrame set way raw).2.beat = d.beat := by
  grind [Dev.storeFrame, Dev.beat, Dev.settleFrame_beat, Dev.storePage_beat, Dev.setFrame_beat, Dev.count_beat]

theorem Dev.takeWay_beat (set way page : Nat) (comp : Bool) (c : Cls) : (d.takeWay set way page comp c).2.beat = d.beat := by
  grind [Dev.takeWay, Dev.beat, Dev.settleFrame_beat, Dev.dropFrame_beat, Dev.startFill_beat, Dev.installFrame_beat, Dev.storeFrame_beat,
    Dev.setFrame_beat, Dev.queueJob_beat]

theorem Dev.placeWrite_beat (x : Txn) : (d.placeWrite x).beat = d.beat := by
  have missed (q) : ((d.countTag x 0x023).setPred (maPage x.ma) q).beat = d.beat := by
    rw [Dev.setPred_beat, Dev.countTag_beat]
  unfold Dev.placeWrite
  dsimp only
  refine ite_beat rfl ?_
  split
  · refine ite_beat ?_ rfl
    rw [Dev.predFound_beat, Dev.tagWrite_beat, Dev.touch_beat, Dev.countTag_beat]
  · refine ite_beat (missed _) ?_
    split
    · next found => exact ite_beat ((Dev.takeWay_beat _ _ _ _ _ _).trans ((Dev.victim_beat _ _ found).trans (missed _))) (missed _)
    · exact (Dev.countAs_beat _ _ _ _ _ _).trans (missed _)

theorem Dev.acquireLease_beat (x : Txn) (a : AtomicArgs) (data : Line) (p : PortId) : (d.acquireLease x a data p).beat = d.beat := by
  grind [Dev.acquireLease, Dev.beat, Dev.finish_beat, Dev.count_beat]

theorem Dev.withData_beat (x : Txn) (data : Line) (poison : Bool) : (d.withData x data poison).beat = d.beat := by
  grind [Dev.withData, Dev.beat, Dev.close_beat, Dev.acquireLease_beat, Dev.putTxn_beat, Dev.count_beat, Dev.closePoisoned_beat,
    Dev.raise_beat]

theorem Dev.meetSnoop_beat (x : Txn) {e : Dev} (h : d.meetSnoop x = some e) : e.beat = d.beat := by
  grind [Dev.meetSnoop, Dev.beat, Dev.close_beat, Dev.putTxn_beat, Dev.placeWrite_beat, Dev.withData_beat]

theorem Dev.atHomeTracker_beat (x : Txn) : (d.atHomeTracker x).beat = d.beat := by
  grind [Dev.atHomeTracker, Dev.beat, Dev.meetSnoop_beat, Dev.hold_beat, Dev.run_beat]

theorem Dev.forward_beat (x : Txn) : (d.forward x).beat = d.beat := by
  grind [Dev.forward, Dev.beat, Dev.sendDown_beat]

theorem Dev.lookup_beat (x : Txn) (p : PortId) (ld : Nat) (t : TenantId) (db : Bool) : (d.lookup x p ld t db).beat = d.beat := by
  grind [Dev.lookup, Dev.beat, Dev.wordWrite_beat, Dev.finishPoisoned_beat, Dev.raise_beat, Dev.atHomeTracker_beat, Dev.logDrop_beat,
    Dev.forward_beat, Dev.hold_beat]

theorem Dev.holdBack_beat (x : Txn) (p : PortId) (t : TenantId) : (d.holdBack x p t).beat = d.beat := by
  grind [Dev.holdBack, Dev.beat, Dev.hold_beat, Dev.countAs_beat, Dev.raise_beat]

theorem Dev.regulate_beat (x : Txn) (p : PortId) (ld : Nat) (t : TenantId) (db : Bool) : (d.regulate x p ld t db).beat = d.beat := by
  grind [Dev.regulate, Dev.beat, Dev.holdBack_beat, Dev.modTenant_beat, Dev.lookup_beat]

theorem Dev.ingress_beat (x : Txn) (p : PortId) (ld hpa : Nat) (free : Bool) : (d.ingress x p ld hpa free).beat = d.beat := by
  grind [Dev.ingress, Dev.beat, Dev.finish_beat, Dev.bump_beat, Dev.finishPoisoned_beat, Dev.raise_beat, Dev.hold_beat,
    Dev.keepPosition_beat, Dev.lookup_beat, Dev.regulate_beat]

theorem Dev.reenter_beat (x : Txn) (free : Bool) : (d.reenter x free).beat = d.beat := by
  grind [Dev.reenter, Dev.beat, Dev.ingress_beat, Dev.atHomeTracker_beat]

theorem Dev.linkDownStart_beat (p : PortId) : (d.linkDownStart p).beat = d.beat := by
  grind [Dev.linkDownStart, Dev.beat, foldl_beat, Dev.modPort_beat, Dev.run_beat, Dev.finishPoisoned_beat, Dev.bump_beat, Dev.reenter_beat]

theorem Dev.walkDirectory_beat (sh : Nat) : (d.walkDirectory sh).beat = d.beat := by
  grind [Dev.walkDirectory, Dev.beat]

theorem Dev.dropBlockFrames_beat (b : Nat) (comp : Bool) : (d.dropBlockFrames b comp).beat = d.beat := by
  grind [Dev.dropBlockFrames, Dev.beat, foldl_beat, Dev.dropFrame_beat]

theorem Dev.sanitiseReady_beat (t : TenantId) : (d.sanitiseReady t).beat = d.beat := by
  grind [Dev.sanitiseReady, Dev.beat, foldl_beat, Dev.countPinned_beat, Dev.dropBlockFrames_beat]

theorem Dev.clearTenant_beat (t : TenantId) : (d.clearTenant t).beat = d.beat := by
  grind [Dev.clearTenant, Dev.beat, foldl_beat, Dev.queueWipe_beat, Dev.setExt_beat, Dev.setFlag_beat, Dev.modLd_beat, Dev.setBit_beat,
    Dev.setReg_beat, Dev.modTenant_beat, Dev.floorMoved_beat, Dev.cdatChanged_beat]

theorem Dev.endDestroy_beat (t : TenantId) (q : TenantSeq) : (d.endDestroy t q).beat = d.beat := by
  grind [Dev.endDestroy, Dev.beat, Dev.raise_beat, Dev.clearTenant_beat, Dev.complete_beat]

theorem Dev.clearAfterReset_beat (t : TenantId) : (d.clearAfterReset t).beat = d.beat := by
  grind [Dev.clearAfterReset, Dev.beat, Dev.startSanitise_beat, Dev.modTenant_beat]

theorem Dev.endReset_beat (t : TenantId) (q : TenantSeq) : (d.endReset t q).beat = d.beat := by
  grind [Dev.endReset, Dev.beat, Dev.setFld_beat, Dev.raise_beat, Dev.complete_beat, Dev.clearAfterReset_beat]

theorem Dev.endSequence_beat (t : TenantId) (q : TenantSeq) : (d.endSequence t q).beat = d.beat := by
  grind [Dev.endSequence, Dev.beat, Dev.walkDirectory_beat, Dev.modTenant_beat, Dev.sanitiseReady_beat, Dev.endDestroy_beat,
    Dev.endReset_beat]

theorem Dev.clearSuspects_beat (p : PortId) : (d.clearSuspects p).beat = d.beat := by
  grind [Dev.clearSuspects, Dev.beat, foldl_beat, Dev.setBit_beat]

theorem Dev.tellMembers_beat (opc : Nat) (slot : BitVec 128) : (d.tellMembers opc slot).beat = d.beat := by
  grind [Dev.tellMembers, Dev.beat, foldl_beat, Dev.sendDown_beat]

theorem Dev.viralEnd_beat (p : PortId) : (d.viralEnd p).beat = d.beat := by
  grind [Dev.viralEnd, Dev.beat, Dev.tellMembers_beat, Dev.setFlag_beat]

theorem Dev.linkDownEnd_beat (p : PortId) : (d.linkDownEnd p).beat = d.beat := by
  have ended (l : List TenantId) : (l.foldl (fun (d : Dev) t => match (d.tenant t).seq with
      | some q => if q.kind = .portReset ∧ q.r.isSome then d.endSequence t q else d
      | none => d) d).beat = d.beat := by
    refine foldl_beat _ _ _ fun d t => ?_
    split
    · exact ite_beat (Dev.endSequence_beat _ _ _) rfl
    · rfl
  have dropped (b : Bool) (d : Dev) : (if b = true then
      (List.range 16).foldl (fun (d : Dev) ld => d.modLd p ld fun l => { l with dec := Vector.replicate 8 none, decPend := [] }) d
      else d).beat = d.beat :=
    ite_beat (foldl_beat _ _ _ fun _ _ => Dev.modLd_beat _ _ _ _) rfl
  unfold Dev.linkDownEnd
  split
  · split
    · refine ite_beat ?_ rfl
      dsimp only
      rw [Dev.raiseN_beat, Dev.setFlag_beat, Dev.modPort_beat, Dev.viralEnd_beat]
      exact (dropped _ _).trans ((Dev.clearSuspects_beat _ _).trans (ended _))
    · rfl
  · rfl

theorem Dev.portBoundary_beat (p : PortId) : (d.portBoundary p).beat = d.beat := by
  grind [Dev.portBoundary, Dev.beat, Dev.setFlag_beat, Dev.modPort_beat, Dev.linkDownStart_beat, Dev.linkDownEnd_beat]

theorem Dev.tellFreed_beat (p : PortId) : (d.tellFreed p).beat = d.beat := by
  grind [Dev.tellFreed, Dev.beat, Dev.modRly_beat]

theorem Dev.sendCredit_beat (p : PortId) : (d.sendCredit p).beat = d.beat := by
  grind [Dev.sendCredit, Dev.beat, Dev.creditOut_beat]

theorem Dev.holdBoundary_beat (p : PortId) : (d.holdBoundary p).beat = d.beat := by
  grind [Dev.holdBoundary, Dev.beat, Dev.setFld_beat, Dev.tellFreed_beat, Dev.modRly_beat, Dev.sendCredit_beat]

theorem Dev.showMember_beat (m : Nat) (r : MemberRec) : (d.showMember m r).beat = d.beat := by
  grind [Dev.showMember, Dev.beat, Dev.setFld_beat, Dev.setFlag_beat]

theorem Dev.cdatPort_beat (p : PortId) : (d.cdatPort p).beat = d.beat := by
  grind [Dev.cdatPort, Dev.beat, foldl_beat, Dev.cdatChanged_beat]

theorem Dev.offer_beat (t : TenantId) (region tag : Nat) (entries : List Nat) (words : List Word) :
    (d.offer t region tag entries words).beat = d.beat := by
  grind [Dev.offer, Dev.beat, foldl_beat, Dev.setExt_beat, Dev.modTenant_beat, Dev.emit_beat]

theorem Dev.appear_beat (m : Nat) : (d.appear m).beat = d.beat := by
  grind [Dev.appear, Dev.beat, Dev.raiseN_beat, Dev.cdatPort_beat, Dev.floorMoved_beat, Dev.offer_beat]

theorem Dev.memberBoundary_beat (m : Nat) : (d.memberBoundary m).beat = d.beat := by
  grind [Dev.memberBoundary, Dev.beat, Dev.showMember_beat, Dev.setFld_beat, Dev.appear_beat]

theorem Dev.findLoss_beat (k : Nat) (cause : LossCause) : (d.findLoss k cause).beat = d.beat := by
  grind [Dev.findLoss, Dev.beat]

theorem Dev.rollPosition_beat (recs : List MemberRec) (m : Nat) : (d.rollPosition recs m).beat = d.beat := by
  grind [Dev.rollPosition, Dev.beat, Dev.showMember_beat, Dev.floorMoved_beat, Dev.setFld_beat, Dev.findLoss_beat]

theorem Dev.rollResult_beat : d.rollResult.beat = d.beat := by
  grind [Dev.rollResult, Dev.beat, foldl_beat, Dev.rollPosition_beat]

theorem Dev.newLinkKeys_beat : d.newLinkKeys.beat = d.beat := by
  grind [Dev.newLinkKeys, Dev.beat, Dev.modRly_beat, Dev.relaySend_beat]

theorem Dev.keysDue_beat : d.keysDue.beat = d.beat := by
  grind [Dev.keysDue, Dev.beat, Dev.newLinkKeys_beat]

theorem Dev.pruneLost_beat : d.pruneLost.beat = d.beat := by
  grind [Dev.pruneLost, Dev.beat]

theorem Dev.reportState_beat : d.reportState.beat = d.beat := by
  grind [Dev.reportState, Dev.beat, Dev.sendUp_beat]

theorem Dev.relayBoundary_beat : d.relayBoundary.beat = d.beat := by
  grind [Dev.relayBoundary, Dev.beat, foldl_beat, Dev.holdBoundary_beat, Dev.memberBoundary_beat, Dev.rollResult_beat, Dev.keysDue_beat,
    Dev.pruneLost_beat, Dev.reportState_beat]

theorem Dev.afterSnoop_beat (s : Snoop) : (d.afterSnoop s).beat = d.beat := by
  grind [Dev.afterSnoop, Dev.beat, Dev.run_beat, Dev.modTxn_beat]

theorem Dev.dropSnoop_beat (k : Nat) : (d.dropSnoop k).beat = d.beat := by
  grind [Dev.dropSnoop, Dev.beat]

theorem Dev.snoopTimeout_beat (s : Snoop) : (d.snoopTimeout s).beat = d.beat := by
  grind [Dev.snoopTimeout, Dev.beat, Dev.afterSnoop_beat, Dev.biTimeout_beat, Dev.dropSnoop_beat]

theorem Dev.snoopReset_beat (s : Snoop) : (d.snoopReset s).beat = d.beat := by
  grind [Dev.snoopReset, Dev.beat, Dev.snoopTimeout_beat, Dev.afterSnoop_beat, Dev.dirAnswer_beat, Dev.dropSnoop_beat]

theorem Dev.startSequence_beat (t : TenantId) (q : TenantSeq) : (d.startSequence t q).beat = d.beat := by
  grind [Dev.startSequence, Dev.beat, foldl_beat, Dev.setFld_beat, Dev.reenter_beat, Dev.run_beat, Dev.snoopReset_beat, Dev.modTenant_beat]

theorem Dev.portReset_beat (p : PortId) : (d.portReset p).beat = d.beat := by
  grind [Dev.portReset, Dev.beat, foldl_beat, Dev.startSequence_beat, Dev.tellMembers_beat]

theorem Dev.edgeLinkDownWritesClosed_beat (port : PortId) : (Dev.edgeLinkDownWritesClosed port d).beat = d.beat := by
  grind [Dev.edgeLinkDownWritesClosed, Dev.beat, Dev.portReset_beat, Dev.modPort_beat]

theorem Dev.dropForwarded_beat (k : Nat) : (d.dropForwarded k).2.2.beat = d.beat := by
  refine foldl_keeps (·.2.2.beat) _ _ (0, 0, d) fun p x => ?_
  dsimp only
  split
  · exact (Dev.finish_beat _ _ _).trans (Dev.logDrop_beat _ _ _)
  · exact Dev.finishPoisoned_beat _ _

theorem Dev.dropMemberExtents_beat (k : Nat) : (d.dropMemberExtents k).2.beat = d.beat := by
  unfold Dev.dropMemberExtents
  generalize allTenants = tenants
  refine foldl_keeps (·.2.beat) _ _ (0, d) fun ⟨n, d⟩ t => ?_
  have dropped (l : List DcExtent) : (l.foldl (fun d e => d.dropExtent t e) d).beat = d.beat :=
    foldl_beat _ _ _ fun _ _ => Dev.dropExtent_beat _ _ _
  dsimp only
  exact ite_beat (dropped _) ((Dev.emit_beat _ _).trans (dropped _))

theorem Dev.loseStatic_beat (k : Nat) : (d.loseStatic k).2.beat = d.beat := by
  unfold Dev.loseStatic
  generalize allTenants = tenants
  refine foldl_keeps (·.2.beat) _ _ (0, d) fun ⟨n, d⟩ t => ?_
  refine foldl_keeps (·.2.beat) _ _ (n, d) fun ⟨n, d⟩ e => ?_
  dsimp only
  rw [Dev.listLines_beat]
  rfl

/-- Unfolded as a function, with the three drops opaque, for the same reason. -/
theorem Dev.edgeMemberLoss_beat (k : Fin 8) (cause : LossCause) : (Dev.edgeMemberLoss k cause d).beat = d.beat := by
  obtain ⟨f, as_function⟩ : ∃ f, f = Dev.edgeMemberLoss := ⟨_, rfl⟩
  rw [← as_function]
  delta Dev.edgeMemberLoss at as_function
  have forwarded := Dev.dropForwarded_beat
  have extents := Dev.dropMemberExtents_beat
  have static := Dev.loseStatic_beat
  generalize Dev.dropForwarded = dropForwarded at as_function forwarded
  generalize Dev.dropMemberExtents = dropMemberExtents at as_function extents
  generalize Dev.loseStatic = loseStatic at as_function static
  rw [as_function]
  beta_reduce
  refine ite_beat ?_ rfl
  have told : Dev.beat { d with chain := { d.chain with lossDue := none } } = d.beat := rfl
  generalize ({ d with chain := { d.chain with lossDue := none } } : Dev) = e at told ⊢
  generalize List.filter _ _ = gone
  extract_lets _ _
  have told := (forwarded e (max 1 k.val)).trans told
  split
  next reads writes e₁ first =>
  rw [first] at told
  have told := (extents e₁ (max 1 k.val)).trans told
  split
  next exts e₂ second =>
  rw [second] at told
  have told := (static e₂ (max 1 k.val)).trans told
  split
  next blocks e₃ third =>
  rw [third] at told
  have marked : (gone.foldl (fun d m => d.setFld (Fld.rlyMember_state m) 3) e₃).beat = d.beat :=
    (foldl_beat _ _ _ fun _ _ => Dev.setFld_beat _ _ _).trans told
  generalize gone.foldl (fun d m => d.setFld (Fld.rlyMember_state m) 3) e₃ = e₄ at marked ⊢
  rw [Dev.endRoll_beat, Dev.rollCall_beat, Dev.cdatPort_beat, Dev.floorMoved_beat]
  exact ite_beat ((Dev.beat_withChain _ _).trans marked) ((Dev.raiseN_beat _ _ _).trans ((Dev.beat_withChain _ _).trans marked))

theorem Dev.linkChanges_beat : d.linkChanges.beat = d.beat := by
  grind [Dev.linkChanges, Dev.beat, foldl_beat, Dev.dcBoundary_beat, Dev.portBoundary_beat, Dev.relayBoundary_beat, Dev.setExt_beat,
    Dev.edgeLinkDownWritesClosed_beat, Dev.edgeMemberLoss_beat]

theorem Dev.resumeBackground_beat : d.resumeBackground.beat = d.beat := by
  grind [Dev.resumeBackground, Dev.beat, Dev.setFlag_beat]

theorem Dev.atAwait_beat : d.atAwait.beat = d.beat := by
  grind [Dev.atAwait, Dev.beat, foldl_beat, Dev.fence_beat, Dev.rollCall_beat]

theorem Dev.populate_beat : d.populate.beat = d.beat := by
  grind [Dev.populate, Dev.beat, foldl_beat, Dev.raise_beat, Dev.modFch_beat, Dev.setReg_beat, Dev.setFld_beat]

theorem Dev.edgeModeReqWake_beat : d.edgeModeReqWake.beat = d.beat := by
  grind [Dev.edgeModeReqWake, Dev.beat, Dev.takeTarget_beat]

theorem Dev.mr4Boundary_beat : d.mr4Boundary.beat = d.beat := by
  grind [Dev.mr4Boundary, Dev.beat, foldl_beat, Dev.modFch_beat, Dev.floorMoved_beat, Dev.setFlag_beat]

theorem Dev.thermalBoundary_beat : d.thermalBoundary.beat = d.beat := by
  grind [Dev.thermalBoundary, Dev.beat, Dev.floorMoved_beat, Dev.raiseN_beat, Dev.setFlag_beat, Dev.alert_beat]

theorem Dev.commitDecoder_beat (p : PortId) (ld : Nat) (i : Fin 8) (c : HdmCfg) : (d.commitDecoder p ld i c).beat = d.beat := by
  grind [Dev.commitDecoder, Dev.beat, Dev.modLd_beat, Dev.setReg_beat]

theorem Dev.commitDecoders_beat : d.commitDecoders.beat = d.beat := by
  grind [Dev.commitDecoders, Dev.beat, foldl_beat, Dev.modLd_beat, Dev.commitDecoder_beat]

theorem Dev.uncap_beat : d.uncap.beat = d.beat := by
  grind [Dev.uncap, Dev.beat, Dev.floorMoved_beat, Dev.raiseOrKeep_beat, Dev.setFlag_beat]

theorem Dev.edgePowerCapRelease_beat : d.edgePowerCapRelease.beat = d.beat := by
  grind [Dev.edgePowerCapRelease, Dev.beat, Dev.uncap_beat]

theorem Dev.thermalRelease_beat (f : Fld) (held : Option Nat) (pours : Nat) (keep : Bool) :
    (d.thermalRelease f held pours keep).beat = d.beat := by
  unfold Dev.thermalRelease
  split
  · refine ite_beat ?_ rfl
    rw [Dev.floorMoved_beat, Dev.raiseN_beat, Dev.setFlag_beat]
  · rfl

theorem Dev.edgeDieThrottleRelease_beat : d.edgeDieThrottleRelease.beat = d.beat := by
  grind [Dev.edgeDieThrottleRelease, Dev.beat, Dev.thermalRelease_beat]

theorem Dev.edgeStackThrottleRelease_beat : d.edgeStackThrottleRelease.beat = d.beat := by
  grind [Dev.edgeStackThrottleRelease, Dev.beat, Dev.thermalRelease_beat]

theorem Dev.edgeDoubledRefreshRelease_beat : d.edgeDoubledRefreshRelease.beat = d.beat := by
  grind [Dev.edgeDoubledRefreshRelease, Dev.beat, Dev.thermalRelease_beat]

theorem Dev.setRole_beat (c role logical : Nat) : (d.setRole c role logical).beat = d.beat := by
  grind [Dev.setRole, Dev.beat, Dev.setFld_beat]

theorem Dev.fenceQuadrant_beat (c : Nat) : (d.fenceQuadrant c).beat = d.beat := by
  grind [Dev.fenceQuadrant, Dev.beat, Dev.fence_beat]

theorem Dev.dropReserve_beat (k : Nat) : (d.dropReserve k).beat = d.beat := by
  grind [Dev.dropReserve, Dev.beat]

theorem Dev.dropCrema_beat (k : Nat) : (d.dropCrema k).beat = d.beat := by
  grind [Dev.dropCrema, Dev.beat, foldl_beat, Dev.withData_beat]

theorem Dev.freeEngine_beat (e : Nat) : (d.freeEngine e).beat = d.beat := by
  grind [Dev.freeEngine, Dev.beat]

theorem Dev.closeUndecoded_beat (x : Txn) : (d.closeUndecoded x).beat = d.beat := by
  grind [Dev.closeUndecoded, Dev.beat, Dev.retry_beat, Dev.logDrop_beat, Dev.closePoisoned_beat]

theorem Dev.tagRead_beat (w : Who) (set : Nat) (way : Option Nat) : (d.tagRead w set way).beat = d.beat := by
  grind [Dev.tagRead, Dev.beat, foldl_beat, Dev.tagLine_beat]

theorem Dev.countUe_beat : d.countUe.beat = d.beat := by
  grind [Dev.countUe, Dev.beat, Dev.bump_beat]

theorem Dev.ueOn_beat (far : Bool) (ch : Nat) : (d.ueOn far ch).beat = d.beat := by
  grind [Dev.ueOn, Dev.beat, Dev.countUe_beat, Dev.modFch_beat, Dev.raise_beat]

theorem Dev.rewriteFar_beat (c cli : Nat) : (d.rewriteFar c cli).beat = d.beat := by
  grind [Dev.rewriteFar, Dev.beat, Dev.waste_beat, Dev.activate_beat]

theorem Dev.entriesLost_beat (n c o : Nat) : (d.entriesLost n c o).beat = d.beat := by
  grind [Dev.entriesLost, Dev.beat, foldl_beat, Dev.setMapEntry_beat, Dev.listPage_beat, Dev.raise_beat]

theorem Dev.mapLineLost_beat (n c o : Nat) (both : Bool) : (d.mapLineLost n c o both).beat = d.beat := by
  grind [Dev.mapLineLost, Dev.beat, foldl_beat, Dev.ueOn_beat, Dev.rewriteFar_beat, Dev.reserveAccess_beat, Dev.entriesLost_beat,
    Dev.takeSectors_beat]

theorem Dev.meetMap_beat (page : Nat) : (d.meetMap page).beat = d.beat := by
  grind [Dev.meetMap, Dev.beat, Dev.mapLineLost_beat]

theorem Dev.toFar_beat (x : Txn) (cli : FarLoc) : (d.toFar x cli).beat = d.beat := by
  grind [Dev.toFar, Dev.beat, Dev.farAccess_beat, Dev.modTxn_beat]

theorem Dev.missWrite_beat (x : Txn) : (d.missWrite x).beat = d.beat := by
  grind [Dev.missWrite, Dev.beat, Dev.withData_beat, Dev.toFar_beat, Dev.close_beat, Dev.putTxn_beat]

theorem Dev.bypass_beat (x : Txn) : (d.bypass x).beat = d.beat := by
  grind [Dev.bypass, Dev.beat, Dev.queueJob_beat, Dev.park_beat, Dev.withData_beat, Dev.toFar_beat, Dev.missWrite_beat]

theorem Dev.waitWay_beat (x : Txn) (ready : Bool) : (d.waitWay x ready).beat = d.beat := by
  grind [Dev.waitWay, Dev.beat, Dev.park_beat, Dev.toFar_beat, Dev.missWrite_beat]

theorem Dev.missPage_beat (x : Txn) : (d.missPage x).beat = d.beat := by
  have seen (q) : (if x.comp = true then ((d.countTag x 0x023).setPred (maPage x.ma) q).meetMap (maPage x.ma)
      else (d.countTag x 0x023).setPred (maPage x.ma) q).beat = d.beat := by
    have missed : ((d.countTag x 0x023).setPred (maPage x.ma) q).beat = d.beat := by
      rw [Dev.setPred_beat, Dev.countTag_beat]
    exact ite_beat ((Dev.meetMap_beat _ _).trans missed) missed
  unfold Dev.missPage
  dsimp only
  refine ite_beat ((Dev.withData_beat _ _ _ _).trans (seen _)) ?_
  refine ite_beat ((Dev.closeUndecoded_beat _ _).trans (seen _)) ?_
  refine ite_beat ((Dev.bypass_beat _ _).trans (seen _)) ?_
  refine ite_beat ((Dev.waitWay_beat _ _ _).trans (seen _)) ?_
  split
  · rw [Dev.bypass_beat]
    refine ite_beat (seen _) ?_
    rw [Dev.modTxn_beat, Dev.countAs_beat, seen]
  · next found =>
    rw [Dev.waitWay_beat, Dev.takeWay_beat]
    exact (Dev.victim_beat _ _ found).trans (seen _)

theorem Dev.giveUpFrame_beat (set way : Nat) : (d.giveUpFrame set way).beat = d.beat := by
  grind [Dev.giveUpFrame, Dev.beat, foldl_beat, Dev.dropFrame_beat, Dev.settleCached_beat]

theorem Dev.hitPage_beat (x : Txn) (set way : Nat) : (d.hitPage x set way).beat = d.beat := by
  grind [Dev.hitPage, Dev.beat, Dev.predFound_beat, Dev.tagWrite_beat, Dev.touch_beat, Dev.countTag_beat, Dev.settleCached_beat,
    Dev.park_beat, Dev.close_beat, Dev.putTxn_beat, Dev.toCrema_beat, Dev.withData_beat, Dev.toFar_beat]

theorem Dev.jobClass_beat (set way : Nat) (c : Cls) : (d.jobClass set way c).beat = d.beat := by
  grind [Dev.jobClass, Dev.beat]

theorem Dev.meetEviction_beat (x : Txn) (set way : Nat) : (d.meetEviction x set way).beat = d.beat := by
  grind [Dev.meetEviction, Dev.beat, Dev.settleCached_beat, Dev.jobClass_beat, Dev.park_beat, Dev.close_beat, Dev.putTxn_beat,
    Dev.toCrema_beat, Dev.withData_beat, Dev.toFar_beat]

theorem Dev.decideTag_beat (x : Txn) : (d.decideTag x).beat = d.beat := by
  have read (way) : (d.tagRead (x.who false) (d.setOf (maPage x.ma)) way).beat = d.beat := Dev.tagRead_beat _ _ _ _
  unfold Dev.decideTag
  dsimp only
  refine ite_beat ?_ ?_
  · rw [Dev.closePoisoned_beat]
    exact ite_beat ((Dev.logDrop_beat _ _ _).trans (Dev.retry_beat _ _)) (Dev.retry_beat _ _)
  · split
    · exact (Dev.missPage_beat _ _).trans (read _)
    · refine ite_beat ?_ ?_
      · exact (Dev.missPage_beat _ _).trans ((Dev.giveUpFrame_beat _ _ _).trans (read _))
      · split
        · exact (Dev.hitPage_beat _ _ _ _).trans (read _)
        · exact (Dev.park_beat _ _ _).trans (read _)
        · exact (Dev.meetEviction_beat _ _ _ _).trans (read _)

theorem Dev.wakeSet_beat (set : Nat) : (d.wakeSet set).beat = d.beat := by
  grind [Dev.wakeSet, Dev.beat, foldl_beat, Dev.run_beat, Dev.decideTag_beat]

theorem Dev.syncSpare_beat (c : Nat) : (d.syncSpare c).beat = d.beat := by
  unfold Dev.syncSpare
  exact ite_beat ((Dev.raise_beat _ _).trans (Dev.setReg_beat _ _ _)) (Dev.setReg_beat _ _ _)

theorem Dev.syncPlace_beat (page : Nat) : (d.syncPlace page).beat = d.beat := by
  grind [Dev.syncPlace, Dev.beat, Dev.syncSpare_beat, Dev.syncPool_beat]

theorem Dev.dropLates_beat (set way : Nat) : (d.dropLates set way).beat = d.beat := by
  grind [Dev.dropLates, Dev.beat]

theorem Dev.askCompaction_beat : d.askCompaction.beat = d.beat := by
  grind [Dev.askCompaction, Dev.beat, Dev.startCompaction_beat]

theorem Dev.codeFrame_beat (set way : Nat) (raw : Bool) : (d.codeFrame set way raw).beat = d.beat := by
  grind [Dev.codeFrame, Dev.beat, Dev.storeFrame_beat, Dev.dropLates_beat, Dev.askCompaction_beat, Dev.wakeSet_beat]

theorem Dev.withoutEngines_beat : d.withoutEngines.beat = d.beat := by
  grind [Dev.withoutEngines, Dev.beat, foldl_beat, Dev.closeUndecoded_beat, Dev.wakeSet_beat, Dev.dropFrame_beat, Dev.syncPlace_beat,
    Dev.codeFrame_beat]

theorem Dev.sameMode_beat (cause discard : Nat) : (d.sameMode cause discard).beat = d.beat := by
  grind [Dev.sameMode, Dev.beat, Dev.raiseN_beat]

theorem Dev.edgeThermalHoldEnd_beat : d.edgeThermalHoldEnd.beat = d.beat := by
  grind [Dev.edgeThermalHoldEnd, Dev.beat, Dev.raiseN_beat]

theorem Dev.edgeDrainLastTransactionClosed_beat : d.edgeDrainLastTransactionClosed.beat = d.beat := by
  grind [Dev.edgeDrainLastTransactionClosed, Dev.beat]

theorem Dev.edgeDrainPauseBoundary_beat : d.edgeDrainPauseBoundary.beat = d.beat := by
  grind [Dev.edgeDrainPauseBoundary, Dev.beat, Dev.setFlag_beat]

theorem Dev.setInlet_beat (s : Inlet) : (d.setInlet s).beat = d.beat := by
  simp [Dev.beat]

theorem Dev.releaseHeld_beat : d.releaseHeld.beat = d.beat := by
  grind [Dev.releaseHeld, Dev.beat, foldl_beat, Dev.reenter_beat]

theorem Dev.atMaint_beat : d.atMaint.beat = d.beat := by
  grind [Dev.atMaint, Dev.beat, Dev.startHppr_beat, Dev.releaseHeld_beat]

theorem Dev.suspendFg_beat (on : Bool) : (d.suspendFg on).beat = d.beat := by
  grind [Dev.suspendFg, Dev.beat]

theorem Dev.wakeStep_beat : d.wakeStep.beat = d.beat := by
  grind [Dev.wakeStep, Dev.beat, Dev.allSleep_beat, Dev.resumeBackground_beat]

theorem Dev.edgeThermalWakeCountExpiry_beat : d.edgeThermalWakeCountExpiry.beat = d.beat := by
  grind [Dev.edgeThermalWakeCountExpiry, Dev.beat]

theorem Dev.recentreFail_beat (c : Nat) : (d.recentreFail c).beat = d.beat := by
  grind [Dev.recentreFail, Dev.beat, Dev.bump_beat, Dev.modFch_beat, Dev.raise_beat]

theorem Dev.recentreLate_beat (c : Nat) : (d.recentreLate c).beat = d.beat := by
  grind [Dev.recentreLate, Dev.beat, Dev.recentreFail_beat]

theorem Dev.startStep_beat : d.startStep.beat = d.beat := by
  grind [Dev.startStep, Dev.beat]

theorem Dev.overrunBreach_beat : d.overrunBreach.beat = d.beat := by
  grind [Dev.overrunBreach, Dev.beat, Dev.raise_beat, Dev.setFld_beat, Dev.setFlag_beat]

theorem Dev.reportShort_beat : d.reportShort.beat = d.beat := by
  grind [Dev.reportShort, Dev.beat, foldl_beat, Dev.setFlag_beat, Dev.raise_beat]

theorem Dev.edgeGuaranteeWindowCheck_beat : d.edgeGuaranteeWindowCheck.beat = d.beat := by
  grind [Dev.edgeGuaranteeWindowCheck, Dev.beat, Dev.overrunBreach_beat, Dev.reportShort_beat]

theorem Dev.edgeTenantSequenceStart_beat (t : TenantId) : (Dev.edgeTenantSequenceStart t d).beat = d.beat := by
  grind [Dev.edgeTenantSequenceStart, Dev.beat, Dev.startSequence_beat]

theorem Dev.squash_beat (x : Txn) : (d.squash x).beat = d.beat := by
  grind [Dev.squash, Dev.beat, Dev.endLease_beat, Dev.closePoisoned_beat, Dev.logDrop_beat]

theorem Dev.edgeTenantSquash_beat (t : TenantId) : (Dev.edgeTenantSquash t d).beat = d.beat := by
  grind [Dev.edgeTenantSquash, Dev.beat, foldl_beat, Dev.run_beat, Dev.squash_beat, Dev.modTenant_beat]

theorem Dev.edgeTenantSequenceEnd_beat (t : TenantId) : (Dev.edgeTenantSequenceEnd t d).beat = d.beat := by
  grind [Dev.edgeTenantSequenceEnd, Dev.beat, Dev.endSequence_beat]

theorem Dev.sequences_beat : d.sequences.beat = d.beat := by
  grind [Dev.sequences, Dev.beat, foldl_beat, Dev.edgeTenantSequenceStart_beat, Dev.edgeTenantSquash_beat, Dev.edgeTenantSequenceEnd_beat]

theorem Dev.clearHold_beat (k : Nat) : (d.clearHold k).beat = d.beat := by
  grind [Dev.clearHold, Dev.beat, Dev.setDir_beat, Dev.sendSnoop_beat]

theorem Dev.edgeHoldExpiry_beat (line : Nat) : (Dev.edgeHoldExpiry line d).beat = d.beat := by
  grind [Dev.edgeHoldExpiry, Dev.beat, Dev.clearHold_beat]

theorem Dev.activateRow_beat (l : BitVec 64) : (d.activateRow l).beat = d.beat := by
  grind [Dev.activateRow, Dev.beat, Dev.activate_beat]

theorem Dev.edgeSoftPprEnd_beat (ch : FarCh) : (Dev.edgeSoftPprEnd ch d).beat = d.beat := by
  grind [Dev.edgeSoftPprEnd, Dev.beat, Dev.modFch_beat, Dev.activateRow_beat, Dev.repairDone_beat, Dev.raise_beat, Dev.startHppr_beat]

theorem Dev.edgeDistWindowEnd_beat (ch : FarCh) : (Dev.edgeDistWindowEnd ch d).beat = d.beat := by
  grind [Dev.edgeDistWindowEnd, Dev.beat, foldl_beat, Dev.modFch_beat, Dev.reenter_beat]

theorem Dev.edgeDomainPowerOnDone_beat (n : Fin 12) : (Dev.edgeDomainPowerOnDone n d).beat = d.beat := by
  grind [Dev.edgeDomainPowerOnDone, Dev.beat, Dev.setDom_beat]

theorem Dev.edgeFenceStuck_beat (n : Fin 12) : (Dev.edgeFenceStuck n d).beat = d.beat := by
  grind [Dev.edgeFenceStuck, Dev.beat, Dev.raiseN_beat, Dev.setBit_beat]

theorem Dev.edgeFenceOff_beat (n : Fin 12) : (Dev.edgeFenceOff n d).beat = d.beat := by
  grind [Dev.edgeFenceOff, Dev.beat, Dev.setDom_beat, Dev.powerOn_beat]

theorem Dev.startBurn_beat : d.startBurn.beat = d.beat := by
  grind [Dev.startBurn, Dev.beat]

theorem Dev.edgeSealScanStart_beat : d.edgeSealScanStart.beat = d.beat := by
  grind [Dev.edgeSealScanStart, Dev.beat]

theorem Dev.releaseDue_beat : d.releaseDue.beat = d.beat := by
  grind [Dev.releaseDue, Dev.beat, foldl_beat, Dev.syncPool_beat, Dev.syncSpare_beat]

theorem Dev.edgeSectorRelease_beat : d.edgeSectorRelease.beat = d.beat := by
  grind [Dev.edgeSectorRelease, Dev.beat, Dev.releaseDue_beat]

theorem Dev.modRekey_beat (f : Rekey → Rekey) : (d.modRekey f).beat = d.beat := by
  grind [Dev.modRekey, Dev.beat]

theorem Dev.retag_beat (w : Who) (r : MetaRef) (n : Nat) : (d.retag w r n).beat = d.beat := by
  induction n generalizing d r with
  | zero => rfl
  | succ n ih =>
    unfold Dev.retag
    refine ite_beat ?_ rfl
    split
    · exact (ih _ _).trans (Dev.metaUse_beat _ _ _ _ _)
    · rfl

theorem Dev.edgeRekeyPageAdvance_beat (ch : FarCh) : (Dev.edgeRekeyPageAdvance ch d).beat = d.beat := by
  grind [Dev.edgeRekeyPageAdvance, Dev.beat, Dev.modRekey_beat, Dev.retag_beat, Dev.setFld_beat]

theorem Dev.syncRekey_beat : d.syncRekey.beat = d.beat := by
  grind [Dev.syncRekey, Dev.beat, Dev.setFld_beat]

theorem Dev.skipFresh_beat (c : Nat) (pg : Option Nat) : (d.skipFresh c pg).beat = d.beat := by
  have marked : (match pg with
      | some p => d.setFld (Fld.cryFarBound_page c) p
      | none => d.setFlag (Fld.cryFarBound_end c) true).beat = d.beat := by
    cases pg with
    | some p => exact Dev.setFld_beat _ _ _
    | none => exact Dev.setFlag_beat _ _ _
  unfold Dev.skipFresh
  refine ite_beat rfl ?_
  dsimp only
  generalize List.getLast? _ = last
  cases last with
  | some e => exact (Dev.retag_beat _ _ _ _).trans marked
  | none => exact marked

theorem Dev.farUnit_beat (c : Nat) : (d.farUnit c).2.beat = d.beat := by
  grind [Dev.farUnit, Dev.beat, Dev.metaFor_beat, Dev.waste_beat, Dev.activate_beat, Dev.modRekey_beat, Dev.skipFresh_beat]

theorem Dev.cremaUnit_beat : d.cremaUnit.2.beat = d.beat := by
  grind [Dev.cremaUnit, Dev.beat, Dev.waste_beat, Dev.activateCrema_beat, Dev.modRekey_beat, Dev.setFld_beat]

theorem Dev.rekeyTurn_beat (n : Nat) : (d.rekeyTurn n).2.beat = d.beat := by
  induction n generalizing d with
  | zero => rfl
  | succ n ih =>
    unfold Dev.rekeyTurn
    split
    · next r _ =>
      have moved := Dev.modRekey_beat d fun r => { r with next := (r.next + 1) % 9 }
      generalize Dev.modRekey _ _ = e at moved ⊢
      have unit : (if r.next < 8 then e.farUnit r.next else e.cremaUnit).2.beat = d.beat := by
        split
        · exact (Dev.farUnit_beat _ _).trans moved
        · exact (Dev.cremaUnit_beat _).trans moved
      dsimp only
      generalize (if r.next < 8 then e.farUnit r.next else e.cremaUnit) = q at unit ⊢
      obtain ⟨took, e⟩ := q
      cases took with
      | true => exact unit
      | false => exact (ih e).trans unit
    · rfl

theorem Dev.rekeyUnits_beat (n : Nat) : (d.rekeyUnits n).beat = d.beat := by
  induction n generalizing d with
  | zero => rfl
  | succ n ih =>
    have turned := Dev.rekeyTurn_beat d 9
    unfold Dev.rekeyUnits
    generalize d.rekeyTurn 9 = q at turned ⊢
    obtain ⟨took, e⟩ := q
    cases took with
    | true => exact (ih e).trans turned
    | false => exact turned

theorem Dev.rekeyPour_beat : d.rekeyPour.beat = d.beat := by
  grind [Dev.rekeyPour, Dev.beat, Dev.setFld_beat, Dev.syncRekey_beat, Dev.rekeyUnits_beat]

theorem Dev.edgeSubkeyDerivationDone_beat : d.edgeSubkeyDerivationDone.beat = d.beat := by
  grind [Dev.edgeSubkeyDerivationDone, Dev.beat, Dev.modRekey_beat]

theorem Dev.edgeRekeyDone_beat : d.edgeRekeyDone.beat = d.beat := by
  grind [Dev.edgeRekeyDone, Dev.beat, Dev.bump_beat, Dev.setFlag_beat, Dev.setFld_beat, Dev.newLinkKeys_beat, Dev.syncBrew_beat,
    Dev.raiseN_beat]

theorem Dev.rebuildFrame_beat (g : Nat) : (d.rebuildFrame g).beat = d.beat := by
  grind [Dev.rebuildFrame, Dev.beat, foldl_beat, Dev.settleNear_beat, Dev.giveUpFrame_beat, Dev.settleCached_beat]

theorem Dev.rebuildEnd_beat (r : Rebuild) : (d.rebuildEnd r).beat = d.beat := by
  grind [Dev.rebuildEnd, Dev.beat, foldl_beat, Dev.rebuildFrame_beat, Dev.setFlag_beat, Dev.raise_beat]

theorem Dev.edgeRebuildWalkEnd_beat : d.edgeRebuildWalkEnd.beat = d.beat := by
  grind [Dev.edgeRebuildWalkEnd, Dev.beat, Dev.run_beat, Dev.floorMoved_beat, Dev.rebuildEnd_beat]

theorem Dev.rebuildStep_beat (r : Rebuild) : (d.rebuildStep r).beat = d.beat := by
  grind [Dev.rebuildStep, Dev.beat, Dev.rebuildFrame_beat]

theorem Dev.edgeRotationCopyDone_beat : d.edgeRotationCopyDone.beat = d.beat := by
  grind [Dev.edgeRotationCopyDone, Dev.beat, Dev.setFlag_beat, Dev.setRole_beat, Dev.setFld_beat, Dev.modRot_beat]

theorem Dev.sourceDrained_beat : d.sourceDrained.beat = d.beat := by
  grind [Dev.sourceDrained, Dev.beat, Dev.modRot_beat, Dev.setRole_beat]

theorem Dev.walks_beat : d.walks.beat = d.beat := by
  grind [Dev.walks, Dev.beat, foldl_beat, Dev.edgeRekeyPageAdvance_beat, Dev.rekeyPour_beat, Dev.edgeSubkeyDerivationDone_beat,
    Dev.edgeRekeyDone_beat, Dev.edgeRebuildWalkEnd_beat, Dev.rebuildStep_beat, Dev.edgeRotationCopyDone_beat, Dev.sourceDrained_beat]

end

end Sys2Proof.Machine

namespace Sys2Proof.Machine

/-! ### What a change of mode can do to the time -/

/-- What the changes of mode at one boundary can do: the clock stays, COLD stays, and a mode that moved is noted under this pour. -/
structure Beat.Moves (a b : Beat) : Prop where
  clk : b.1 = a.1
  cold : a.2.1 = .cold → b.2.1 = .cold
  noted : b.2 = a.2 ∨ b.2.2 = some a.1.pour.toNat

namespace Beat.Moves

theorem refl (a : Beat) : a.Moves a := ⟨rfl, id, .inl rfl⟩

theorem trans {a b c : Beat} (hab : a.Moves b) (hbc : b.Moves c) : a.Moves c where
  clk := hbc.clk.trans hab.clk
  cold := hbc.cold ∘ hab.cold
  noted := by
    rcases hbc.noted with same | now
    · rw [same]; exact hab.noted
    · exact .inr (by rw [now, hab.clk])

theorem foldl {α : Type} {t : Beat} {f : Dev → α → Dev} (l : List α) {d : Dev} (h : t.Moves d.beat)
    (step : ∀ (d : Dev) x, t.Moves d.beat → t.Moves (f d x).beat) : t.Moves (l.foldl f d).beat := by
  induction l generalizing d with
  | nil => exact h
  | cons x l ih => exact ih (step d x h)

theorem ite {p : Prop} [Decidable p] {t : Beat} {a b : Dev} (ha : p → t.Moves a.beat) (hb : ¬ p → t.Moves b.beat) :
    t.Moves (if p then a else b).beat := by
  split
  · next h => exact ha h
  · next h => exact hb h

end Beat.Moves

section
variable {d : Dev} {t : Beat}

/-- From COLD nothing but FILL is entered, and no boundary enters FILL. -/
theorem Dev.enter_moves {m : Mode} (cause discard : Nat) (h : t.Moves d.beat) (filled : d.mode = .cold → m ≠ .fill) :
    t.Moves (d.enter m cause discard).beat := by
  refine h.trans ?_
  by_cases edge : modeEdge d.mode m = true
  · refine ⟨by simp [Dev.beat], fun cold => ?_, .inr ?_⟩
    · replace cold : d.mode = .cold := cold
      show (d.enter m cause discard).mode = .cold
      rw [Dev.enter_mode, if_pos edge]
      rw [cold] at edge
      cases m <;> simp_all [modeEdge]
    · obtain ⟨r, entered⟩ := d.entered_shape m
      show (d.enter m cause discard).due.modeAt = _
      rw [Dev.enter_eq d m _ _ edge, Dev.raiseN_due, entered]
      rfl
  · rw [Dev.enter, if_neg edge]
    exact .refl _

theorem Dev.hwEnter_moves {m : Mode} (cause : Nat) (h : t.Moves d.beat) (filled : d.mode = .cold → m ≠ .fill) :
    t.Moves (d.hwEnter m cause).beat := by
  refine .ite (fun _ => ?_) (fun _ => h)
  have same := Dev.takeTarget_beat d
  have mode : d.takeTarget.mode = d.mode := congrArg (·.2.1) same
  exact Dev.enter_moves _ _ (same ▸ h) (mode ▸ filled)

theorem Dev.degrade_moves (num : Nat) (h : t.Moves d.beat) : t.Moves (d.degrade num).beat := by
  unfold Dev.degrade
  dsimp only
  split
  · exact Dev.hwEnter_moves _ h (by simp)
  · rw [Dev.wakeAll_beat]
    exact h
  iterate 3 exact .ite (fun _ => h) (fun _ => h)
  · exact h

theorem Dev.loseFar_moves (c : Nat) (h : t.Moves d.beat) : t.Moves (d.loseFar c).beat := by
  grind [Dev.loseFar, Dev.beat, Dev.degrade_moves, Dev.run_beat, Dev.floorMoved_beat, Dev.raise_beat, Dev.modFch_beat, Dev.setFlag_beat,
    Dev.listChannel_beat, Dev.countPinned_beat, Dev.dropMaps_beat, Dev.dropQueues_beat, Dev.dropJobs_beat, Dev.dropFrames_beat,
    Dev.dropInFlight_beat, Dev.fence_beat, Dev.setBit_beat, Dev.setFld_beat]

theorem Dev.farTested_moves (c : Nat) (pass : Bool) (h : t.Moves d.beat) : t.Moves (d.farTested c pass).beat := by
  unfold Dev.farTested
  refine .ite (fun _ => ?_) (fun _ => .ite (fun _ => ?_) (fun _ => Dev.loseFar_moves _ ?_))
  · rw [Dev.floorMoved_beat, Dev.powerOn_beat, Dev.modFch_beat, Dev.modFch_beat, Dev.setFld_beat, Dev.modFch_beat]
    exact h
  · rw [Dev.modFch_beat]
    exact h
  · rw [Dev.modFch_beat]
    exact h

theorem Dev.abandonTest_moves (kind index : Nat) (h : t.Moves d.beat) : t.Moves (d.abandonTest kind index).beat := by
  grind [Dev.abandonTest, Dev.farTested_moves, Dev.powerOn_beat, Dev.quadrantCleared_beat, Dev.returnUnit_beat, Dev.arraysCleared_beat]

theorem Dev.stopTest_moves (kind index result : Nat) (h : t.Moves d.beat) : t.Moves (d.stopTest kind index result).beat := by
  grind [Dev.stopTest, Dev.beat, Dev.abandonTest_moves, Dev.dropRotation_beat, Dev.bistResult_beat]

theorem Dev.abortWork_moves (w : Work) (h : t.Moves d.beat) : t.Moves (d.abortWork w).beat := by
  unfold Dev.abortWork
  split
  · rw [Dev.dropSanitise_beat]
    exact h
  · rw [Dev.setFlag_beat, Dev.setFlag_beat]
    exact h
  · exact Dev.stopTest_moves _ _ _ h
  · rw [Dev.setFlag_beat]
    exact h
  · rw [Dev.syncCanister_beat]
    exact h
  · exact h

theorem Dev.abortFg_moves (rc : Nat) (h : t.Moves d.beat) : t.Moves (d.abortFg rc).beat := by
  grind [Dev.abortFg, Dev.abortWork_moves, Dev.endFg_beat]

theorem Dev.dropCommands_moves (h : t.Moves d.beat) : t.Moves d.dropCommands.beat := by
  unfold Dev.dropCommands
  dsimp only
  rw [Dev.landHeld_beat]
  refine Dev.abortFg_moves _ ?_
  rw [foldl_beat _ _ _ fun d r => Dev.complete_beat d _ _ _ _, Dev.syncStaging_beat, Dev.setFlag_beat]
  exact h

theorem Dev.restart_moves (cause : Nat) (h : t.Moves d.beat) : t.Moves (d.restart cause).beat := by
  unfold Dev.restart
  dsimp only
  rw [Dev.bump_beat, Dev.setFld_beat, Dev.beat_withMb]
  exact Dev.dropCommands_moves h

theorem Dev.activateSlot_moves (i : Iface) (opcode : Nat) (n : Fin 2) (now : Bool) (h : t.Moves d.beat) :
    t.Moves (d.activateSlot i opcode n now).beat := by
  unfold Dev.activateSlot
  refine .ite (fun _ => ?_) (fun _ => .ite (fun _ => ?_) (fun _ => .ite (fun _ => ?_) (fun _ => ?_)))
  · rw [Dev.complete_beat]
    exact h
  · rw [Dev.complete_beat]
    exact h
  · rw [Dev.longRun_beat, Dev.beat_withMb]
    refine Dev.restart_moves _ ?_
    rw [Dev.syncCanister_beat]
    exact h
  · rw [Dev.complete_beat, Dev.syncCanister_beat]
    exact h

theorem Dev.vendor_moves (i : Iface) (opcode : Nat) (p : Payload) (len : Nat) {run : Payload → Dev → Dev} (h : t.Moves d.beat)
    (moves : ∀ q (d : Dev), t.Moves d.beat → t.Moves (run q d).beat) : t.Moves (d.vendor i opcode p len run).beat := by
  unfold Dev.vendor
  dsimp only
  split_ifs
  · rw [Dev.complete_beat]
    exact h
  · exact moves _ d h
  · rw [Dev.longRun_beat]
    rw [← Dev.sendDown_beat d] at h
    exact h
  · rw [Dev.complete_beat]
    exact h

theorem bodyFwActivate_moves (i : Iface) (p : Payload) (h : t.Moves d.beat) : t.Moves (bodyFwActivate i p d).beat := by
  refine Dev.vendor_moves _ _ _ _ h fun q d h => ?_
  grind [Dev.activateSlot_moves, Dev.complete_beat]

theorem Dev.abortBrew_moves (i : Iface) (opcode : Nat) (kind : Option Nat) (h : t.Moves d.beat) :
    t.Moves (d.abortBrew i opcode kind).beat := by
  grind [Dev.abortBrew, Dev.abortFg_moves, Dev.complete_beat]

theorem bodyBrewAbort_moves (i : Iface) (p : Payload) (h : t.Moves d.beat) : t.Moves (bodyBrewAbort i p d).beat :=
  Dev.vendor_moves _ _ _ _ h fun _ _ h => Dev.abortBrew_moves _ _ _ h

theorem bodyRequestAbort_moves (i : Iface) (h : t.Moves d.beat) : t.Moves (bodyRequestAbort i d).beat := Dev.abortBrew_moves _ _ _ h

theorem bodyActivateFw_moves (i : Iface) (slot : Nat) (now : Bool) (h : t.Moves d.beat) : t.Moves (bodyActivateFw i slot now d).beat := by
  grind [bodyActivateFw, Dev.activateSlot_moves, Dev.complete_beat]

theorem runCmd_moves (c : Instr) (h : t.Moves d.beat) : t.Moves (runCmd c d).beat := by
  have kept {e : Dev} (same : e.beat = d.beat) : t.Moves e.beat := same ▸ h
  unfold runCmd
  split
  · exact kept (bodyIdentify_beat _ _ _)
  · exact kept (bodyStageCheck_beat _ _ _)
  · exact kept (bodyStageCommit_beat _ _ _)
  · exact kept (bodyStageAbort_beat _ _ _)
  · exact kept (bodyTenantCreate_beat _ _ _)
  · exact kept (bodyTenantResize_beat _ _ _)
  · exact kept (bodyTenantEnd_beat _ _ _ _)
  · exact kept (bodyTenantEnd_beat _ _ _ _)
  · exact kept (bodyRekeyStart_beat _ _ _)
  · exact kept (bodyRekeyStatus_beat _ _ _)
  · exact kept (bodyBistRun_beat _ _ _)
  · exact kept (bodyRepairSoft_beat _ _ _)
  · exact kept (bodyRepairFuse_beat _ _ _)
  · exact kept (bodyCanisterStore_beat _ _ _)
  · exact kept (bodyCanisterLoad_beat _ _ _)
  · exact kept (bodyCanisterErase_beat _ _ _)
  · exact kept (bodyChainRollcall_beat _ _ _)
  · exact kept (bodyChainMap_beat _ _ _)
  · exact kept (bodyCremaPin_beat _ _ _)
  · exact kept (bodyCremaFlush_beat _ _ _)
  · exact kept (bodyNearSize_beat _ _ _)
  · exact kept (bodyPressPolicy_beat _ _ _)
  · exact kept (bodyPressCompact_beat _ _ _)
  · exact kept (bodyInletClear_beat _ _ _)
  · exact kept (bodyFwStage_beat _ _ _)
  · exact bodyFwActivate_moves _ _ h
  · exact bodyBrewAbort_moves _ _ h
  · exact kept (bodySanitize_beat _ _ _)
  · exact kept (bodySecureErase_beat _ _ _)
  · exact kept (bodyScanMedia_beat _ _ _)
  · exact kept (bodyInjectPoison_beat _ _ _ _)
  · exact kept (bodyClearPoison_beat _ _ _ _ _)
  · exact kept (bodyGetPoisonList_beat _ _ _)
  · exact bodyRequestAbort_moves _ h
  · exact kept (bodyGetFwInfo_beat _ _)
  · exact kept (bodyTransferFw_beat _ _ _ _ _ _)
  · exact bodyActivateFw_moves _ _ _ h
  · exact kept (bodyAddResponse_beat _ _ _ _)
  · exact kept (bodyReleaseDc_beat _ _ _ _)
  · exact h

theorem Dev.runWaits_moves (n : Nat) (h : t.Moves d.beat) : t.Moves (d.runWaits n).beat := by
  induction n generalizing d with
  | zero => exact h
  | succ n ih =>
    unfold Dev.runWaits
    split
    · exact h
    · refine .ite (fun _ => ih (.ite (fun _ => ?_) (fun _ => runCmd_moves _ ?_))) (fun _ => h)
      · rw [Dev.complete_beat, Dev.setFlag_beat]
        exact h
      · rw [Dev.setFlag_beat]
        exact h

end
end Sys2Proof.Machine

namespace Sys2Proof.Machine

/-! ### The changes of a boundary that can move the mode -/

section
variable {d : Dev} {t : Beat}

theorem Dev.beat_withDue (d : Dev) (u : Due) (same : u.modeAt = d.due.modeAt) : Dev.beat { d with due := u } = d.beat := by
  simp only [Dev.beat, same]

theorem Beat.Moves.withDue {u : Due} (h : t.Moves d.beat) (same : u.modeAt = d.due.modeAt) : t.Moves (Dev.beat { d with due := u }) := by
  rw [Dev.beat_withDue d u same]
  exact h

theorem Dev.edgeHaltBoundary_moves (h : t.Moves d.beat) : t.Moves d.edgeHaltBoundary.beat := by
  unfold Dev.edgeHaltBoundary
  split
  · refine .ite (fun _ => ?_) (fun _ => h)
    dsimp only
    rw [Dev.beat_withRas, Dev.haltCommands_beat, Dev.allSleep_beat, Dev.alert_beat, Dev.raise_beat]
    exact Dev.enter_moves _ _ h (by simp)
  · exact h

theorem Dev.startDrain_moves (dest : Nat) (flush : Bool) (cause discard : Nat) (h : t.Moves d.beat) :
    t.Moves (d.startDrain dest flush cause discard).beat := by
  have started (u : Due) (same : u.modeAt = (((d.enter .drain cause discard).setFld Fld.glbModeSts_drainDest dest).setFlag
      Fld.glbModeSts_drained false).due.modeAt) : t.Moves (Dev.beat
      { ((d.enter .drain cause discard).setFld Fld.glbModeSts_drainDest dest).setFlag Fld.glbModeSts_drained false with due := u }) := by
    rw [Dev.beat_withDue _ _ same, Dev.setFlag_beat, Dev.setFld_beat]
    exact Dev.enter_moves _ _ h (by simp)
  unfold Dev.startDrain
  dsimp only
  split
  · split
    · exact .ite (fun _ => Dev.abortFg_moves _ (started _ rfl)) (fun _ => started _ rfl)
    · exact started _ rfl
  · exact started _ rfl

theorem Dev.modeRequest_moves (dest : Nat) (cause discard : Nat) (h : t.Moves d.beat) :
    t.Moves (d.takeTarget.startDrain dest d.targetFlush cause discard).beat :=
  Dev.startDrain_moves _ _ _ _ (by rw [Dev.takeTarget_beat]; exact h)

theorem Dev.edgeModeReqDrainReset_moves (h : t.Moves d.beat) : t.Moves d.edgeModeReqDrainReset.beat :=
  .ite (fun _ => Dev.modeRequest_moves _ _ _ h) (fun _ => h)

theorem Dev.edgeModeReqDrainRemoval_moves (h : t.Moves d.beat) : t.Moves d.edgeModeReqDrainRemoval.beat :=
  .ite (fun _ => Dev.modeRequest_moves _ _ _ h) (fun _ => h)

theorem Dev.edgeModeReqDrainHibernate_moves (h : t.Moves d.beat) : t.Moves d.edgeModeReqDrainHibernate.beat :=
  .ite (fun _ => Dev.modeRequest_moves _ _ _ h) (fun _ => h)

theorem Dev.edgeModeReqDrainMaint_moves (h : t.Moves d.beat) : t.Moves d.edgeModeReqDrainMaint.beat :=
  .ite (fun _ => Dev.modeRequest_moves _ _ _ h) (fun _ => h)

theorem Dev.edgeModeReqLeaveMaint_moves (h : t.Moves d.beat) : t.Moves d.edgeModeReqLeaveMaint.beat := by
  have resumed : t.Moves d.takeTarget.resumeBackground.beat := by
    rw [Dev.resumeBackground_beat, Dev.takeTarget_beat]
    exact h
  unfold Dev.edgeModeReqLeaveMaint
  refine .ite (fun _ => .ite (fun _ => ?_) (fun _ => ?_)) (fun _ => h)
  · rw [Dev.atAwait_beat]
    exact Dev.enter_moves _ _ resumed (by simp)
  · rw [Dev.populate_beat]
    exact Dev.enter_moves _ _ resumed (by simp)

theorem Dev.edgeFarChannelLoss_moves (ch : FarCh) (h : t.Moves d.beat) : t.Moves (d.edgeFarChannelLoss ch).beat :=
  .ite (fun _ => Dev.loseFar_moves _ h) (fun _ => h)

theorem Dev.loseCrema_moves (c : Nat) (h : t.Moves d.beat) : t.Moves (d.loseCrema c).beat := by
  have rotated (p : Prop) [Decidable p] (d : Dev) : (if p then d.dropRotation else d).beat = d.beat := ite_beat (Dev.dropRotation_beat d) rfl
  unfold Dev.loseCrema
  refine .ite (fun _ => h) (fun _ => .ite (fun _ => ?_) (fun _ => Dev.degrade_moves _ ?_))
  · dsimp only
    rw [Dev.run_beat]
    refine Dev.degrade_moves _ ?_
    rw [Dev.floorMoved_beat, Dev.dropReserve_beat, Dev.dropQueues_beat, Dev.dropCrema_beat, Dev.fenceQuadrant_beat, Dev.setFlag_beat,
      Dev.beat_withCrm]
    refine .ite (fun _ => ?_) (fun _ => ?_)
    · rw [Dev.setFlag_beat, Dev.setRole_beat, Dev.setFld_beat, Dev.setRole_beat, rotated, Dev.bump_beat]
      exact h
    · rw [Dev.raise_beat, Dev.setFlag_beat, Dev.setRole_beat, rotated, Dev.bump_beat]
      exact h
  · rw [Dev.raise_beat, Dev.fenceQuadrant_beat, Dev.dropQueues_beat, Dev.setFlag_beat, Dev.setRole_beat]
    refine .ite (fun _ => ?_) (fun _ => ?_)
    · rw [Dev.dropRotation_beat, Dev.bump_beat]
      exact h
    · rw [Dev.setReg_beat, Dev.beat_withCrm, Dev.bump_beat]
      exact h

theorem Dev.edgeCremaChannelLoss_moves (c : CremaCh) (h : t.Moves d.beat) : t.Moves (d.edgeCremaChannelLoss c).beat :=
  .ite (fun _ => Dev.loseCrema_moves _ h) (fun _ => h)

theorem Dev.stopEngineTest_moves (h : t.Moves d.beat) : t.Moves d.stopEngineTest.beat := by
  unfold Dev.stopEngineTest
  split
  · split
    · exact Dev.abortFg_moves _ h
    · exact h
  · exact h

theorem Dev.edgePressEngineLoss_moves (engine : Fin 4) (h : t.Moves d.beat) : t.Moves (d.edgePressEngineLoss engine).beat := by
  grind [Dev.edgePressEngineLoss, Dev.beat, Dev.stopEngineTest_moves, Dev.degrade_moves, Dev.setBit_beat, Dev.raise_beat,
    Dev.freeEngine_beat, Dev.floorMoved_beat, Dev.withoutEngines_beat, Dev.run_beat, Dev.fence_beat, Dev.dispatchJobs_beat]

theorem Dev.losses_moves (h : t.Moves d.beat) : t.Moves d.losses.beat := by
  unfold Dev.losses
  dsimp only
  refine .foldl _ (.foldl _ ?_ fun d e => Dev.edgePressEngineLoss_moves e) fun d c => Dev.edgeFarChannelLoss_moves _
  have lost : t.Moves (d.crm.lossDue.foldl (fun d c => d.edgeCremaChannelLoss c) d).beat := .foldl _ h fun d c => Dev.edgeCremaChannelLoss_moves c
  split
  · exact Dev.degrade_moves _ (lost.withDue rfl)
  · exact lost

theorem Dev.thermalTrip_moves (h : t.Moves d.beat) : t.Moves d.thermalTrip.beat := by
  grind [Dev.thermalTrip, Dev.beat, Dev.startDrain_moves, Dev.takeTarget_beat, Dev.raiseN_beat, Dev.alert_beat, Dev.setFld_beat,
    Dev.sameMode_beat, Dev.allSleep_beat]

theorem Dev.edgeDimmHotDrain_moves (ch : FarCh) (h : t.Moves d.beat) : t.Moves (d.edgeDimmHotDrain ch).beat := by
  grind [Dev.edgeDimmHotDrain, Dev.startDrain_moves, Dev.takeTarget_beat, Dev.raise_beat, Dev.alert_beat]

theorem Dev.leaveDrowse_moves (h : t.Moves d.beat) : t.Moves d.leaveDrowse.beat := by
  unfold Dev.leaveDrowse
  refine .ite (fun _ => ?_) (fun _ => h)
  split
  · exact Dev.hwEnter_moves _ (h.withDue rfl) (by simp)
  · exact Dev.hwEnter_moves _ h (by simp)

theorem Dev.edgeChannelWake_moves (ch : FarCh) (h : t.Moves d.beat) : t.Moves (d.edgeChannelWake ch).beat := by
  have woken : t.Moves (d.wakeChannel ch.val).beat := by
    rw [Dev.wakeChannel_beat]; exact h
  exact .ite (fun _ => .ite (fun _ => woken) (fun _ => Dev.leaveDrowse_moves woken)) (fun _ => h)

theorem Dev.edgeDrowseIdleExpiry_moves (ch : FarCh) (h : t.Moves d.beat) : t.Moves (d.edgeDrowseIdleExpiry ch).beat := by
  have slept : t.Moves (d.sleepChannel ch.val).beat := by
    rw [Dev.sleepChannel_beat]; exact h
  exact .ite (fun _ => .ite (fun _ => Dev.hwEnter_moves _ slept (by simp)) (fun _ => slept)) (fun _ => h)

theorem Dev.unlessMoved_moves {f : Dev → Dev} (h : t.Moves d.beat) (moves : ∀ {d : Dev}, t.Moves d.beat → t.Moves (f d).beat) :
    t.Moves (d.unlessMoved f).beat :=
  .ite (fun _ => h) (fun _ => moves h)

theorem Dev.sleepChanges_moves (h : t.Moves d.beat) : t.Moves d.sleepChanges.beat := by
  unfold Dev.sleepChanges
  dsimp only
  refine .foldl _ (Dev.unlessMoved_moves ?_ Dev.leaveDrowse_moves) fun d c h =>
    Dev.unlessMoved_moves (.ite (fun _ => Dev.edgeChannelWake_moves _ h) (fun _ => h)) (Dev.edgeDrowseIdleExpiry_moves _)
  split
  · refine .ite (fun _ => ?_) (fun _ => h)
    rw [Dev.wakeAll_beat]
    exact h
  · exact h

theorem Dev.edgeWakeComplete_moves (h : t.Moves d.beat) : t.Moves d.edgeWakeComplete.beat := by
  unfold Dev.edgeWakeComplete
  split
  · refine .ite (fun asleep => ?_) (fun _ => h)
    have from_hibernate : d.mode = .hibernate := by simp_all
    have woken (e : Dev) (back : Mode) (same : e.beat = d.beat) : t.Moves ((e.hwEnter back 0).suspendFg false).beat := by
      have mode : e.mode = d.mode := congrArg (·.2.1) same
      rw [Dev.suspendFg_beat]
      exact Dev.hwEnter_moves _ (same ▸ h) (by simp [mode, from_hibernate])
    have released : ((if d.fld Fld.glbModeSts_drainDest == 4 then
        ({ d with due := { d.due with wakeAt := none, wake := false, drainStep := 0 } }).raiseN 0x1C1 []
        else { d with due := { d.due with wakeAt := none, wake := false, drainStep := 0 } }).allSleep false).beat = d.beat :=
      (Dev.allSleep_beat _ _).trans (ite_beat ((Dev.raiseN_beat _ _ _).trans (Dev.beat_withDue _ _ rfl)) (Dev.beat_withDue _ _ rfl))
    have resumed := (Dev.resumeBackground_beat _).trans released
    refine .ite (fun _ => ?_) (fun _ => .ite (fun _ => woken _ _ (ite_beat released resumed)) (fun _ => ?_))
    · rw [Dev.atMaint_beat]
      exact woken _ _ (ite_beat released resumed)
    · rw [Dev.releaseHeld_beat]
      exact woken _ _ (ite_beat released resumed)
  · exact h

theorem Dev.wakeChanges_moves (h : t.Moves d.beat) : t.Moves d.wakeChanges.beat := by
  unfold Dev.wakeChanges
  dsimp only
  refine Dev.edgeWakeComplete_moves ?_
  rw [Dev.wakeStep_beat, Dev.edgeThermalWakeCountExpiry_beat]
  exact .ite (fun _ => h.withDue rfl) (fun _ => h)

theorem Dev.edgeUnitRestored_moves (h : t.Moves d.beat) : t.Moves d.edgeUnitRestored.beat := by
  refine .ite (fun _ => Dev.hwEnter_moves _ ?_ (by simp)) (fun _ => h)
  rw [Dev.raiseN_beat]
  exact h

theorem Dev.edgeAwaitTrigger_moves (h : t.Moves d.beat) : t.Moves d.edgeAwaitTrigger.beat := by
  refine .ite (fun _ => ?_) (fun _ => h)
  rw [Dev.releaseHeld_beat]
  exact Dev.enter_moves _ _ h fun _ => by split <;> simp

theorem Dev.stepEdge_moves (h : t.Moves d.beat) : t.Moves d.stepEdge.beat := by
  grind [Dev.stepEdge, Dev.runWaits_moves, Dev.startStep_beat, Dev.overrun_beat]

theorem Dev.mapTested_moves (h : t.Moves d.beat) : t.Moves d.mapTested.beat := by
  have marked (n : Nat) : t.Moves (d.setBit Fld.prsSts_engOk n false).beat := by
    rw [Dev.setBit_beat]; exact h
  unfold Dev.mapTested
  split
  · refine .ite (fun _ => h) (fun _ => .ite (fun _ => Dev.stopEngineTest_moves h) (fun _ => ?_))
    dsimp only
    split
    · rw [Dev.dispatchJobs_beat, Dev.beat_withPrs]
      exact marked _
    · exact marked _
  · exact h

theorem Dev.modeRequests_moves (h : t.Moves d.beat) : t.Moves d.modeRequests.beat := by
  have asked : t.Moves (d.unlessMoved fun d => d.edgeModeReqDrainReset.edgeModeReqDrainRemoval.edgeModeReqDrainHibernate.edgeModeReqWake.edgeModeReqDrainMaint.edgeModeReqLeaveMaint).beat :=
    Dev.unlessMoved_moves h fun h => Dev.edgeModeReqLeaveMaint_moves (Dev.edgeModeReqDrainMaint_moves (by
      rw [Dev.edgeModeReqWake_beat]
      exact Dev.edgeModeReqDrainHibernate_moves (Dev.edgeModeReqDrainRemoval_moves (Dev.edgeModeReqDrainReset_moves h))))
  refine .ite (fun _ => asked) (fun _ => ?_)
  rw [Dev.takeTarget_beat]
  exact asked

end
end Sys2Proof.Machine

namespace Sys2Proof.Machine

/-! ### The pour boundary ends in the next pour, or in COLD (R24, R56) -/

/-- Where a boundary ends: the time has moved as changes of mode move it, or a DRAIN towards removal has cut the power. -/
def Beat.Ends (a b : Beat) : Prop := a.Moves b ∨ a.2.1 = .drain ∧ b.2.1 = .cold

theorem Beat.Ends.moves {a b c : Beat} (h : a.Ends b) (later : b.Moves c) : a.Ends c := by
  rcases h with moved | ⟨drained, cold⟩
  · exact .inl (moved.trans later)
  · exact .inr ⟨drained, later.cold cold⟩

section
variable {d : Dev} {t : Beat}

theorem Dev.leaveForRemoval_ends : d.beat.Moves d.leaveForRemoval.beat ∨ d.leaveForRemoval.mode = .cold := by
  have left : d.beat.Moves ((((d.abortFg rcAborted).setFlag Fld.inlSts_removal true).modRecord fun r => { r with marker := false }).setInlet
      .off).beat := by
    rw [Dev.setInlet_beat, Dev.modRecord_beat, Dev.setFlag_beat]
    exact Dev.abortFg_moves _ (.refl _)
  unfold Dev.leaveForRemoval Dev.mainGone
  dsimp only
  split
  · exact .inr rfl
  · rw [Dev.setFld_beat]
    exact .inl left

theorem Dev.leaveForSleep_moves (h : t.Moves d.beat) : t.Moves d.leaveForSleep.beat := by
  have asleep : t.Moves ((d.suspendFg true).allSleep true).beat := by
    rw [Dev.allSleep_beat, Dev.suspendFg_beat]
    exact h
  unfold Dev.leaveForSleep
  refine .withDue (d := { ((d.suspendFg true).allSleep true).enter .hibernate 0 0 with thm := _ }) ?_ rfl
  exact Dev.enter_moves 0 0 asleep (by simp)

theorem Dev.edgeDrainDestinationAction_ends : d.beat.Ends d.edgeDrainDestinationAction.beat := by
  unfold Dev.edgeDrainDestinationAction
  dsimp only
  split
  case isFalse => exact .inl (.refl _)
  case isTrue guard =>
    have draining : d.mode = .drain := by simp_all
    have stepped (p : Prop) [Decidable p] : (if p then d else { d with due := { d.due with drainStep := 5 } }).beat = d.beat :=
      ite_beat rfl (Dev.beat_withDue _ _ rfl)
    replace stepped := stepped (((d.fld Fld.glbModeSts_drainDest == 3 || d.fld Fld.glbModeSts_drainDest == 4) && !d.allQuiet) = true)
    generalize (if ((d.fld Fld.glbModeSts_drainDest == 3 || d.fld Fld.glbModeSts_drainDest == 4) && !d.allQuiet) = true then d
      else { d with due := { d.due with drainStep := 5 } }) = e at stepped ⊢
    have still : d.beat.Moves e.beat := by rw [stepped]; exact .refl _
    split
    · exact .inl still
    split
    · exact .inl (Dev.abortFg_moves _ still)
    split
    · rcases Dev.leaveForRemoval_ends (d := e) with moved | cold
      · exact .inl (still.trans moved)
      · exact .inr ⟨draining, cold⟩
    split
    · rw [Dev.atMaint_beat]
      exact .inl (Dev.enter_moves _ _ (.ite (fun _ => still) (fun _ => Dev.abortFg_moves _ still)) (by simp))
    · exact .inl (Dev.leaveForSleep_moves still)

theorem Dev.drainStepDue_ends : d.beat.Ends d.drainStepDue.beat := by
  unfold Dev.drainStepDue
  split
  · split
    · rw [Dev.edgeDrainLastTransactionClosed_beat]
      exact .inl (.refl _)
    · rw [Dev.edgeDrainPauseBoundary_beat]
      exact .inl (.refl _)
    · exact Dev.edgeDrainDestinationAction_ends
    · exact .inl (.refl _)
  · exact .inl (.refl _)

/-- A mode that has not moved in this pour is still the one that the boundary found. -/
theorem Beat.Moves.unlessMoved_ends {f : Dev → Dev} (h : t.Moves d.beat) (ends : ∀ d : Dev, d.beat.Ends (f d).beat) :
    t.Ends (d.unlessMoved f).beat := by
  unfold Dev.unlessMoved
  split
  · exact .inl h
  · next still =>
    have same : d.mode = t.2.1 := by
      rcases h.noted with same | now
      · exact congrArg Prod.fst same
      · refine absurd (now.trans ?_) still
        rw [← h.clk]
        rfl
    rcases ends d with moved | ⟨drained, cold⟩
    · exact .inl (h.trans moved)
    · exact .inr ⟨same ▸ drained, cold⟩

theorem Dev.otherChanges_moves (h : t.Moves d.beat) : t.Moves d.otherChanges.beat := by
  unfold Dev.otherChanges
  dsimp only
  refine Dev.mapTested_moves ?_
  rw [Dev.startBurn_beat, Dev.askCompaction_beat, Dev.edgeSealScanStart_beat, Dev.edgeSectorRelease_beat]
  rw [foldl_beat _ _ _ fun d n => by
    rw [Dev.edgeDomainPowerOnDone_beat, Dev.edgeFenceStuck_beat, Dev.edgeFenceOff_beat]]
  rw [foldl_beat _ _ _ fun d c => by rw [Dev.edgeSoftPprEnd_beat, Dev.edgeDistWindowEnd_beat]]
  rw [foldl_beat _ _ _ fun d h => by rw [Dev.edgeHoldExpiry_beat]]
  rw [foldl_beat _ _ _ fun d t =>
    ite_beat (Dev.clearAfterReset_beat _ _) ((Dev.modTenant_beat _ _ _).trans (Dev.clearAfterReset_beat _ _))]
  rw [Dev.sequences_beat]
  have spare (e : Dev) (same : e.beat = d.beat) : t.Moves e.beat := same ▸ h
  split
  · rw [Dev.setFlag_beat]
    exact .ite (fun _ => spare _ ((Dev.setFlag_beat _ _ _).trans (Dev.beat_withCrm _ _))) (fun _ => h)
  · exact .ite (fun _ => spare _ ((Dev.setFlag_beat _ _ _).trans (Dev.beat_withCrm _ _))) (fun _ => h)

/-- The changes from hardware before DRAIN's step. -/
def Dev.beforeDrain (d : Dev) : Dev :=
  let d := d.commitDecoders.thermalBoundary.mr4Boundary
  let d := d.edgeDoubledRefreshRelease.edgeStackThrottleRelease.edgeDieThrottleRelease.edgePowerCapRelease
  let d := d.losses
  let d := if d.due.thermal then d.unlessMoved fun d => ({ d with due := { d.due with thermal := false } }).thermalTrip else d
  (List.range 8).foldl (fun d c => d.unlessMoved fun d => d.edgeDimmHotDrain (Fin.ofNat 8 c)) d

/-- The changes from hardware behind it. -/
def Dev.afterDrain (d : Dev) : Dev :=
  let d := ((d.unlessMoved Dev.wakeChanges).edgeThermalHoldEnd).sleepChanges
  let d := (List.range 8).foldl (fun d c => d.recentreLate c) d
  ((d.unlessMoved Dev.edgeUnitRestored).unlessMoved Dev.edgeAwaitTrigger)

theorem Dev.hardwareChanges_eq (d : Dev) : d.hardwareChanges = (d.beforeDrain.unlessMoved Dev.drainStepDue).afterDrain := rfl

theorem Dev.beforeDrain_moves (h : t.Moves d.beat) : t.Moves d.beforeDrain.beat := by
  unfold Dev.beforeDrain
  dsimp only
  refine .foldl _ ?_ fun d c h => Dev.unlessMoved_moves h (Dev.edgeDimmHotDrain_moves _)
  have lost (e : Dev) (same : e.beat = d.beat) : t.Moves e.losses.beat := Dev.losses_moves (same ▸ h)
  have settled : t.Moves (d.commitDecoders.thermalBoundary.mr4Boundary.edgeDoubledRefreshRelease.edgeStackThrottleRelease.edgeDieThrottleRelease.edgePowerCapRelease).losses.beat := by
    refine lost _ ?_
    rw [Dev.edgePowerCapRelease_beat, Dev.edgeDieThrottleRelease_beat, Dev.edgeStackThrottleRelease_beat, Dev.edgeDoubledRefreshRelease_beat,
      Dev.mr4Boundary_beat, Dev.thermalBoundary_beat, Dev.commitDecoders_beat]
  exact .ite (fun _ => Dev.unlessMoved_moves settled fun h => Dev.thermalTrip_moves (h.withDue rfl)) (fun _ => settled)

theorem Dev.afterDrain_moves (h : t.Moves d.beat) : t.Moves d.afterDrain.beat := by
  unfold Dev.afterDrain
  dsimp only
  refine Dev.unlessMoved_moves (Dev.unlessMoved_moves ?_ Dev.edgeUnitRestored_moves) Dev.edgeAwaitTrigger_moves
  rw [foldl_beat _ _ _ fun d c => Dev.recentreLate_beat d c]
  refine Dev.sleepChanges_moves ?_
  rw [Dev.edgeThermalHoldEnd_beat]
  exact Dev.unlessMoved_moves h Dev.wakeChanges_moves

theorem Dev.hardwareChanges_ends : d.beat.Ends d.hardwareChanges.beat := by
  rw [Dev.hardwareChanges_eq]
  exact ((Dev.beforeDrain_moves (.refl _)).unlessMoved_ends fun _ => Dev.drainStepDue_ends).moves (Dev.afterDrain_moves (.refl _))

/-- The device at cycle 0 of the next pour, before what the boundary runs. -/
def Dev.nextPour (d : Dev) : Dev := { d with clk := { d.clk with pour := d.clk.pour + 1, cyc := 0 } }

/-- What a boundary runs without a change of a command's own. -/
def Dev.runBoundary (d : Dev) : Dev :=
  if !d.live then
    let d := d.pmuBoundary.edgeHaltBoundary
    d.runWaits d.mb.waits.length
  else
    let d := d.carry.pmuBoundary.cdatBoundary.edgeCommitTakesEffect
    let d := d.hardwareChanges.modeRequests.linkChanges.serviceChanges
    d.walks.otherChanges.edgeGuaranteeWindowCheck.stepEdge

theorem Dev.boundary_id_eq (d : Dev) : d.boundary id = d.nextPour.runBoundary := by
  unfold Dev.boundary Dev.runBoundary
  simp only [id_eq]
  rfl

theorem Dev.runBoundary_ends : d.beat.Ends d.runBoundary.beat := by
  unfold Dev.runBoundary
  split
  · refine .inl (Dev.runWaits_moves _ (Dev.edgeHaltBoundary_moves ?_))
    rw [Dev.pmuBoundary_beat]
    exact .refl _
  · have began : d.carry.pmuBoundary.cdatBoundary.edgeCommitTakesEffect.beat = d.beat := by
      rw [Dev.edgeCommitTakesEffect_beat, Dev.cdatBoundary_beat, Dev.pmuBoundary_beat, Dev.carry_beat]
    dsimp only
    generalize d.carry.pmuBoundary.cdatBoundary.edgeCommitTakesEffect = e at began ⊢
    rw [← began]
    refine Dev.hardwareChanges_ends.moves (Dev.stepEdge_moves ?_)
    rw [Dev.edgeGuaranteeWindowCheck_beat]
    refine Dev.otherChanges_moves ?_
    rw [Dev.walks_beat, Dev.serviceChanges_beat, Dev.linkChanges_beat]
    exact Dev.modeRequests_moves (.refl _)

end
end Sys2Proof.Machine

namespace Sys2Proof.Machine

/-! ### A step with no command waiting (R13, R22, R24) -/

theorem step_idle (s : State) (idle : s.pending = []) : Machine.step s = s.on Dev.tick := by
  simp only [Machine.step, idle]

/-- A cycle within a pour, before what the last one closes: the boundary registers are shown, and aged merge entries retire. -/
def Dev.nextCycle (d : Dev) : Dev :=
  ({ (if d.clk.cyc = 0 then d.show else d) with clk := { d.clk with cyc := d.clk.cyc + 1 } }).retireAged

theorem Dev.nextCycle_shape (d : Dev) : ∃ w m, d.nextCycle = { d with clk := { d.clk with cyc := d.clk.cyc + 1 }, shown := w, merge := m } ∧
    (d.merge = [] → m = []) := by
  unfold Dev.nextCycle Dev.retireAged
  split
  all_goals exact ⟨_, _, rfl, fun none => by simp [none, Dev.show, Sparse.keys]⟩

theorem Dev.nextCycle_clk (d : Dev) : d.nextCycle.clk = { d.clk with cyc := d.clk.cyc + 1 } := by
  obtain ⟨w, m, shape, -⟩ := d.nextCycle_shape
  rw [shape]

theorem Dev.tick_within {d : Dev} (running : d.clk.running = true) (within : d.clk.cyc ≠ 511) :
    d.tick = if d.clk.cyc + 1 = 511 then d.nextCycle.lastCycle else d.nextCycle := by
  have cycle : d.tick = if d.nextCycle.clk.cyc = 511 then d.nextCycle.lastCycle else d.nextCycle := by
    simp only [Dev.tick, running, within, Bool.not_true, Bool.false_eq_true, if_false]
    unfold Dev.nextCycle
    split <;> rfl
  rw [cycle, Dev.nextCycle_clk]

theorem Dev.tick_clk_within {d : Dev} (running : d.clk.running = true) (within : d.clk.cyc ≠ 511) :
    d.tick.clk = { d.clk with cyc := d.clk.cyc + 1 } := by
  rw [Dev.tick_within running within, ← Dev.nextCycle_clk]
  have closed : d.nextCycle.lastCycle.clk = d.nextCycle.clk := congrArg (·.1) (Dev.lastCycle_beat d.nextCycle)
  split
  · exact closed
  · rfl

theorem Dev.tick_last {d : Dev} (running : d.clk.running = true) (last : d.clk.cyc = 511) : d.tick = d.boundary id := by
  simp [Dev.tick, running, last]

/-- What a boundary leaves, settled: the next pour, or COLD out of DRAIN. -/
theorem settle_boundary {s d : Dev} (running : s.clk.running = true) (same : d.clk.pour = s.clk.pour ∧ d.clk.running = s.clk.running ∧ d.mode = s.mode) :
    NextPour (settle s (d.boundary id)) s ∨ s.mode = .drain ∧ (settle s (d.boundary id)).mode = .cold := by
  obtain ⟨pour, still_running, mode⟩ := same
  rw [Dev.boundary_id_eq]
  rcases Dev.runBoundary_ends (d := d.nextPour) with moved | ⟨drained, cold⟩
  · left
    rw [NextPour, settle_clk]
    exact moved.clk.trans (by simp [Dev.beat, Dev.nextPour, pour, still_running, running])
  · right
    have draining : s.mode = .drain := mode ▸ drained
    replace cold : d.nextPour.runBoundary.mode = .cold := cold
    refine ⟨draining, ?_⟩
    rw [settle_mode_edge _ _ (by rw [draining, cold]; rfl), cold]

theorem Dev.toLast_keeps (d : Dev) : d.toLast.clk.pour = d.clk.pour ∧ d.toLast.clk.running = d.clk.running ∧ d.toLast.mode = d.mode := by
  unfold Dev.toLast
  split
  · exact ⟨rfl, rfl, rfl⟩
  · have shown : (if d.clk.cyc = 0 then d.show else d).beat = d.beat := ite_beat (Dev.show_beat d) rfl
    generalize (if d.clk.cyc = 0 then d.show else d) = e at shown ⊢
    have last := (Dev.lastCycle_beat _).trans (Dev.retireAged_beat { e with clk := { e.clk with cyc := 511 } })
    simp only [Dev.beat, Prod.mk.injEq] at shown last
    obtain ⟨clk, mode, -⟩ := shown
    obtain ⟨last_clk, last_mode, -⟩ := last
    rw [last_clk, last_mode]
    exact ⟨congrArg (·.pour) clk, congrArg (·.running) clk, mode⟩

/-! ### Commands that name a change at a boundary, given within a pour (R14, R15) -/

theorem Dev.atEdge_within {d : Dev} (f : Dev → Dev) (running : d.clk.running = true) (within : d.clk.cyc ≠ 0) : d.atEdge f = d.passPour f := by
  simp [Dev.atEdge, running, within]

theorem Dev.atEdgeAfter_within {d : Dev} (p : Nat) (f : Dev → Dev) (running : d.clk.running = true) (within : d.clk.cyc ≠ 0) :
    d.atEdgeAfter p f = d.passPour f := by
  simp [Dev.atEdgeAfter, Dev.atEdge_within f running within]

theorem Dev.atRequest_within {d : Dev} (f : Dev → Dev) (running : d.clk.running = true) (within : d.clk.cyc ≠ 0) : d.atRequest f = d.passPour id := by
  simp [Dev.atRequest, running, within]

/-- A command with a change at a boundary lets the rest of the pour pass, and the change is part of the boundary. -/
theorem boundaryChange_within {s : State} {c : Instr} {f : Dev → Dev} (change : boundaryChange c = some f)
    (running : s.dev.clk.running = true) (within : s.dev.clk.cyc ≠ 0) : exec c s = s.on fun _ => s.dev.passPour f := by
  have at_edge {g : Dev → Dev} (h : exec c s = s.on (Dev.atEdge g)) : exec c s = s.on fun _ => s.dev.passPour g := by
    rw [h, State.on_next, State.on_next, Dev.atEdge_within g running within]
  have at_edge_after {p : Nat} {g : Dev → Dev} (h : exec c s = s.on fun _ => s.dev.atEdgeAfter p g) :
      exec c s = s.on fun _ => s.dev.passPour g := by
    rw [h, Dev.atEdgeAfter_within p g running within]
  unfold boundaryChange at change
  split at change
  case h_4 =>
    cases change
    cases moved : s.dev.due.modeAt with
    | some p => exact at_edge_after (p := p) (by rw [show exec .awaitTrigger s = execAwaitTrigger s from rfl, execAwaitTrigger]; simp only [State.on, moved])
    | none => exact at_edge (by rw [show exec .awaitTrigger s = execAwaitTrigger s from rfl, execAwaitTrigger]; simp only [State.on, moved])
  case h_6 | h_7 | h_8 =>
    cases change
    exact at_edge_after rfl
  case h_47 => cases change
  all_goals
    cases change
    exact at_edge rfl

theorem requestRow_within {s : State} {c : Instr} (request : requestRow c = true) (running : s.dev.clk.running = true)
    (within : s.dev.clk.cyc ≠ 0) : exec c s = s.on fun _ => s.dev.passPour id := by
  have at_request {g : Dev → Dev} (h : exec c s = s.on (Dev.atRequest g)) : exec c s = s.on fun _ => s.dev.passPour id := by
    rw [h, State.on_next, State.on_next, Dev.atRequest_within g running within]
  unfold requestRow at request
  split at request
  case h_7 => cases request
  all_goals exact at_request rfl

/-- Settles O49: the clock's cycles from the shape of a tick, the boundary from what its changes can do to the time. -/
theorem anEmptyQueueLetsOneCycleEnd : Obligations.AnEmptyQueueLetsOneCycleEnd := by
  unfold Obligations.AnEmptyQueueLetsOneCycleEnd
  refine ⟨fun s idle stands => ?stands, fun s idle running before => ?cycle, fun s idle running last => ?last, fun s running => ?boundary,
    fun s c f change running within => ?change, fun s c request running within => ?request⟩
  case stands =>
    have kept : s.dev.tick = s.dev := by simp [Dev.tick, stands]
    rw [step_idle s idle, State.on_next, kept, settle_self]
  case cycle =>
    have within : s.dev.clk.cyc ≠ 511 := fun last => by simp [last] at before
    have next : (s.dev.clk.cyc + 1).val = s.dev.clk.cyc.val + 1 := by
      rw [Fin.val_add]; simp; omega
    refine ⟨_, step_idle s idle, idle, ?_, ?_, fun early => ?_⟩
    · rw [settle_clk, Dev.tick_clk_within running within]
    · rw [settle_clk, Dev.tick_clk_within running within]
      exact next
    · have not_last : s.dev.clk.cyc + 1 ≠ 511 := fun last => by
        have := congrArg Fin.val last
        rw [next] at this
        simp at this
        omega
      obtain ⟨w, m, shape, retired⟩ := s.dev.nextCycle_shape
      rw [Dev.tick_within running within, if_neg not_last, shape]
      exact ⟨by simp [settle], retired⟩
  case last =>
    refine ⟨_, step_idle s idle, idle, ?_⟩
    rw [Dev.tick_last running (Fin.ext last)]
    exact settle_boundary running ⟨rfl, rfl, rfl⟩
  case boundary =>
    refine .of_settle (exec_pourBoundary s) ?_
    rw [Dev.passPour, if_pos running]
    exact settle_boundary running s.dev.toLast_keeps
  case change => exact .of_settle (boundaryChange_within change running within) rfl
  case request => exact .of_settle (requestRow_within request running within) rfl

end Sys2Proof.Machine

namespace Sys2Proof.Machine

/-! ### What BOOT and the steps around it keep (R38, R47, R401) -/

/-- What the start-up steps decide by: the time, a fatal FILL failure, Barista's slot, and what an image is verified with. -/
def Dev.start (d : Dev) : (Clock × Mode × Bool) × (BaristaState × Fin 2) × (Fin 2 × Vector Slot 2 × Fuses) :=
  ((d.clk, d.mode, d.due.fatalFill), (d.mb.state, d.mb.slot), (d.can.bootSlot, d.can.slots, d.fuses))

section
variable (d : Dev)

theorem Dev.setFld_start (f : Fld) (v : Nat) : (d.setFld f v).start = d.start := rfl
theorem Dev.setFlag_start (f : Fld) (b : Bool) : (d.setFlag f b).start = d.start := rfl
theorem Dev.setReg_start (o : Nat) (w : Word) : (d.setReg o w).start = d.start := rfl
theorem Dev.modFch_start (c : Nat) (f : FarChan → FarChan) : (d.modFch c f).start = d.start := rfl
theorem Dev.floorMoved_start : d.floorMoved.start = d.start := rfl
theorem Dev.setNear_start (gib : Nat) : (d.setNear gib).start = d.start := rfl

theorem Dev.raise_start (e : Ev) : (d.raise e).start = d.start := by
  simp [Dev.start]
theorem Dev.raiseN_start (n : Nat) (l : List Word) : (d.raiseN n l).start = d.start := Dev.raise_start d _

theorem ite_start {p : Prop} [Decidable p] {a b : Dev} {t} (ha : a.start = t) (hb : b.start = t) : (if p then a else b).start = t := by
  split
  · exact ha
  · exact hb

theorem foldl_start {α : Type} (f : Dev → α → Dev) (l : List α) (h : ∀ d x, (f d x).start = d.start) : (l.foldl f d).start = d.start :=
  foldl_keeps Dev.start f l d h

theorem Dev.setDom_start (n st : Nat) : (d.setDom n st).start = d.start := by
  rw [Dev.setDom, Dev.raiseN_start, Dev.setReg_start]

theorem Dev.fence_start (n : Nat) : (d.fence n).start = d.start :=
  ite_start (Dev.setDom_start _ _ _) rfl

theorem Dev.powerOn_start (n : Nat) : (d.powerOn n).start = d.start :=
  ite_start (Dev.setDom_start _ _ _) (ite_start rfl rfl)

theorem Dev.portDomains_start : d.portDomains.start = d.start :=
  foldl_start _ _ _ fun d _ => ite_start (Dev.fence_start d _) (Dev.powerOn_start d _)

theorem Dev.withCan_start (c : Canister) (slot : c.bootSlot = d.can.bootSlot) (slots : c.slots = d.can.slots) :
    Dev.start { d with can := c } = d.start := by
  simp only [Dev.start, slot, slots]

theorem Dev.bootEvents_start : d.bootEvents.start = d.start := by
  have raised := foldl_start d (fun d (e : Nat × List Word) => d.raiseN e.1 e.2) d.can.atBoot fun d e => Dev.raiseN_start d _ _
  unfold Dev.bootEvents
  dsimp only
  rw [Dev.withCan_start _ _ rfl rfl]
  exact ite_start ((Dev.raiseN_start _ _ _).trans raised) raised

theorem Dev.loadHalt_start : d.loadHalt.start = d.start := by
  unfold Dev.loadHalt
  split
  · rw [Dev.setReg_start, Dev.setReg_start, Dev.setReg_start, Dev.setReg_start, Dev.setReg_start, Dev.setReg_start]
  · rfl

theorem Dev.fit_start (dimms : List (List Dimm)) : (d.fit dimms).start = d.start :=
  foldl_start _ _ _ fun d _ => Dev.modFch_start d _ _

theorem Dev.syncCanister_start : d.syncCanister.start = d.start := by
  unfold Dev.syncCanister
  dsimp only
  split
  · split
    · rw [Dev.setFld_start, Dev.setFld_start, Dev.setFld_start, Dev.setFld_start, Dev.setFlag_start, Dev.setFlag_start]
    · rw [Dev.setFld_start, Dev.setFld_start, Dev.setFlag_start, Dev.setFlag_start]
  · rw [Dev.setFld_start, Dev.setFld_start, Dev.setFld_start, Dev.setFld_start, Dev.setFlag_start, Dev.setFlag_start]

theorem Dev.unwrapKeys_start : d.unwrapKeys.start = d.start := rfl

theorem Dev.setRoles_start (mode : Nat) : (d.setRoles mode).start = d.start := by
  unfold Dev.setRoles
  simp only [Dev.setFld_start]

theorem Dev.syncRepairs_start : d.syncRepairs.start = d.start :=
  foldl_start _ _ _ fun d _ => Dev.setFld_start d _ _

theorem Dev.withMb_start (m : Mbox) (state : m.state = d.mb.state) (slot : m.slot = d.mb.slot) :
    Dev.start { d with mb := m } = d.start := by
  simp only [Dev.start, state, slot]

theorem Dev.applyCopy_start (c : Copy) : (d.applyCopy c).start = d.start := by
  have written := foldl_start d (fun d (e : Nat × Word) => if d.fieldOk e.1 e.2 then
    d.setReg e.1 ((d.reg e.1 &&& ~~~accMask (·.rws) e.1) ||| (e.2 &&& accMask (·.rws) e.1)) else d) c.regs
      fun d e => ite_start (Dev.setReg_start d _ _) rfl
  unfold Dev.applyCopy
  dsimp only
  refine (Dev.syncRepairs_start _).trans ((Dev.setFld_start _ _ _).trans ((Dev.withMb_start _ _ rfl rfl).trans
    ((Dev.setNear_start _ _).trans (ite_start ?_ written))))
  rw [Dev.setRoles_start, Dev.setFlag_start, Dev.setFld_start]
  exact written

theorem Dev.populate_start : d.populate.start = d.start := by
  grind [Dev.populate, foldl_start, Dev.raise_start, Dev.modFch_start, Dev.setReg_start, Dev.setFld_start]

/-- What of it stays when the security version moves on. -/
theorem Dev.advanceSvn_keeps (n : Fin 2) : (d.advanceSvn n).mode = d.mode ∧ (d.advanceSvn n).mb = d.mb := by
  unfold Dev.advanceSvn
  dsimp only
  split
  · exact ⟨Dev.raiseN_mode _ _ _, Dev.raiseN_mb _ _ _⟩
  · exact ⟨rfl, rfl⟩

end
end Sys2Proof.Machine

namespace Sys2Proof.Machine

/-! ### The steps of start-up (R38) -/

theorem Dev.inMode_of_inStep {d : Dev} {m : Mode} (h : InStep d m) (live : m ≠ .halt) : d.inMode m = true := by
  obtain ⟨mode, no_halt, no_hold⟩ := h
  simp [Dev.inMode, Dev.halted, mode, no_halt, no_hold, live]

/-! #### FILL -/

theorem exec_coreClockLock (ok : Bool) (s : State) : exec (.coreClockLock ok) s = execCoreClockLock ok s := rfl
theorem exec_tsvTrainingComplete (r : List TsvResult) (s : State) :
    exec (.tsvTrainingComplete r) s = execTsvTrainingComplete r s := rfl
theorem exec_fillComplete (ok : Bool) (s : State) : exec (.fillComplete ok) s = s.on (Dev.atEdge (Dev.edgeFillComplete ok)) := rfl

/-- What TSV training's map leaves alone: it writes registers and raises events. -/
def Dev.filling (d : Dev) : Mode × Due × Crema := (d.mode, d.due, d.crm)

theorem Dev.setFld_filling (d : Dev) (f : Fld) (v : Nat) : (d.setFld f v).filling = d.filling := rfl
theorem Dev.setFlag_filling (d : Dev) (f : Fld) (b : Bool) : (d.setFlag f b).filling = d.filling := rfl
theorem Dev.setRole_filling (d : Dev) (c role logical : Nat) : (d.setRole c role logical).filling = d.filling := rfl
theorem Dev.raise_filling (d : Dev) (e : Ev) : (d.raise e).filling = d.filling := by
  simp [Dev.filling]

theorem Dev.mapTrained_filling (d : Dev) (failed : BitVec 32) : (d.mapTrained failed).filling = d.filling := by
  unfold Dev.mapTrained
  dsimp only
  refine (foldl_keeps Dev.filling _ _ _ fun d c => Dev.raise_filling d _).trans ((Dev.setFlag_filling _ _ _).trans ?_)
  refine (foldl_keeps Dev.filling _ _ _ fun d c => Dev.setRole_filling d _ _ _).trans ?_
  refine (foldl_keeps Dev.filling _ _ _ fun d c => (Dev.raise_filling _ _).trans (Dev.setFlag_filling d _ _)).trans ?_
  refine (foldl_keeps Dev.filling _ _ _ fun d c => (Dev.setRole_filling _ _ _ _).trans (Dev.setFld_filling d _ _)).trans ?_
  refine (Dev.setFld_filling _ _ _).trans ((Dev.setRole_filling _ _ _ _).trans ?_)
  exact foldl_keeps Dev.filling _ _ _ fun d c => Dev.setRole_filling d _ _ _

theorem Dev.enter_fatalFill (d : Dev) (m : Mode) (cause discard : Nat) : (d.enter m cause discard).due.fatalFill = d.due.fatalFill := by
  by_cases edge : modeEdge d.mode m = true
  · obtain ⟨r, entered⟩ := d.entered_shape m
    rw [Dev.enter_eq d m _ _ edge, Dev.raiseN_due, entered]
  · rw [Dev.enter, if_neg edge]

theorem Dev.enter_mode_edge {d : Dev} {m : Mode} (cause discard : Nat) (edge : modeEdge d.mode m = true) : (d.enter m cause discard).mode = m := by
  rw [Dev.enter_mode, if_pos edge]

/-- FILL_COMPLETE behind TSV training enters BOOT (R47). -/
theorem Dev.edgeFillComplete_effect {d : Dev} (ok : Bool) (fill : d.inMode .fill = true) (running : d.clk.running = true)
    (trained : d.due.tsvDone = true) : (d.edgeFillComplete ok).mode = .boot ∧ (d.edgeFillComplete ok).clk = d.clk ∧
      (d.edgeFillComplete ok).due.fatalFill = (d.due.fatalFill || !ok) := by
  have mode : d.mode = .fill := by simp_all [Dev.inMode]
  have recorded (e : Dev) (l : List Word) : Dev.start { ({ e with clk := ⟨true, 0, 0⟩ } : Dev).raiseN 0x100 l with clk := e.clk } = e.start := by
    simp [Dev.start]
  have strapped (p : Prop) [Decidable p] (e : Dev) : (if p then e.raiseN 0x101 [] else e).start = e.start :=
    ite_start (Dev.raiseN_start e _ _) rfl
  obtain ⟨e, began, entered⟩ : ∃ e : Dev, e.start = Dev.start { d with due := { d.due with fatalFill := d.due.fatalFill || !ok } } ∧
      d.edgeFillComplete ok = (e.enter .boot 0 0).portDomains := by
    unfold Dev.edgeFillComplete
    rw [if_pos (by simp [fill, running, trained])]
    refine ⟨_, ?_, rfl⟩
    exact (strapped _ _).trans (recorded { d with due := { d.due with fatalFill := d.due.fatalFill || !ok } } _)
  have fenced := Dev.portDomains_start (e.enter .boot 0 0)
  rw [← entered] at fenced
  simp only [Dev.start, Prod.mk.injEq] at began fenced
  obtain ⟨⟨clk, e_mode, fatal⟩, -⟩ := began
  obtain ⟨⟨f_clk, f_mode, f_fatal⟩, -⟩ := fenced
  rw [f_clk, f_mode, f_fatal, Dev.enter_clk, Dev.enter_mode_edge 0 0 (by rw [e_mode, mode]; rfl), Dev.enter_fatalFill]
  exact ⟨rfl, clk, fatal⟩

/-! #### BOOT -/

theorem exec_bootComplete (sigA sigB : Option Nat) (l : List (List Dimm)) (s : State) :
    exec (.bootComplete sigA sigB l) s = s.on (Dev.atEdge (Dev.edgeBootComplete sigA sigB l)) := rfl

theorem Dev.withPwr_start (d : Dev) (p : Power) : Dev.start { d with pwr := p } = d.start := rfl
theorem Dev.withSec_start (d : Dev) (s : Secure) : Dev.start { d with sec := s } = d.start := rfl

/-- The device that a slot's verified image starts Barista on, before the mode changes. -/
def Dev.bootApplied (d : Dev) (n : Fin 2) : Dev :=
  let d := { d with mb := { d.mb with state := .running, slot := n } }
  let d := d.setFld Fld.mboxBaristaSts_slot n.val
  let d := match d.newestCopy with
    | some c => { (d.applyCopy c).portDomains with sec := { d.sec with bootCopy := some c } }
    | none => (d.setNear 0).raiseN 0x1B2 []
  ({ d with pwr := { d.pwr with mctpRo := d.flag Fld.glbSecCtl_mctpRo } }).floorMoved

theorem Dev.bootVerified_eq (d : Dev) (n : Fin 2) : d.bootVerified n = if (d.bootApplied n).due.fatalFill then (d.bootApplied n).enter .maint 0 0
    else (((d.bootApplied n).advanceSvn n).enter .train 0 0).populate := rfl

theorem Dev.bootApplied_start (d : Dev) (n : Fin 2) :
    (d.bootApplied n).start = ({ d with mb := { d.mb with state := .running, slot := n } } : Dev).start := by
  unfold Dev.bootApplied
  dsimp only
  rw [Dev.floorMoved_start]
  generalize ({ d with mb := { d.mb with state := .running, slot := n } } : Dev) = e
  refine (Dev.withPwr_start _ _).trans ?_
  split
  · refine (Dev.withSec_start _ _).trans ?_
    rw [Dev.portDomains_start, Dev.applyCopy_start, Dev.setFld_start]
  · rw [Dev.raiseN_start, Dev.setNear_start, Dev.setFld_start]

theorem Dev.bootVerified_effect {d : Dev} (n : Fin 2) (boot : d.mode = .boot) : (d.bootVerified n).mb.state = .running ∧
    (d.bootVerified n).mb.slot = n ∧ (d.bootVerified n).mode = if d.due.fatalFill then .maint else .train := by
  have applied := d.bootApplied_start n
  rw [Dev.bootVerified_eq]
  generalize d.bootApplied n = e at applied ⊢
  simp only [Dev.start, Prod.mk.injEq] at applied
  obtain ⟨⟨-, mode, fatal⟩, ⟨state, slot⟩, -⟩ := applied
  rw [boot] at mode
  rw [fatal]
  obtain ⟨svn_mode, svn_mb⟩ := e.advanceSvn_keeps n
  split
  · rw [Dev.enter_mb, Dev.enter_mode_edge 0 0 (by rw [mode]; rfl)]
    exact ⟨state, slot, rfl⟩
  · have populated := Dev.populate_start ((e.advanceSvn n).enter .train 0 0)
    simp only [Dev.start, Prod.mk.injEq] at populated
    obtain ⟨⟨-, p_mode, -⟩, ⟨p_state, p_slot⟩, -⟩ := populated
    rw [p_mode, p_state, p_slot, Dev.enter_mb, Dev.enter_mode_edge 0 0 (by rw [svn_mode, mode]; rfl), svn_mb]
    exact ⟨state, slot, rfl⟩

/-- The device behind BOOT's own work, before a slot is tried. -/
def Dev.bootReady (d : Dev) (dimms : List (List Dimm)) : Dev := ((d.bootEvents.loadHalt.fit dimms).syncCanister).unwrapKeys

theorem Dev.bootReady_start (d : Dev) (dimms : List (List Dimm)) : (d.bootReady dimms).start = d.start := by
  rw [Dev.bootReady, Dev.unwrapKeys_start, Dev.syncCanister_start, Dev.fit_start, Dev.loadHalt_start, Dev.bootEvents_start]

/-- Devices that agree on the start-up's facts verify a slot alike. -/
theorem Dev.verifyStep_congr {d e : Dev} (same : e.start = d.start) (n : Fin 2) (sig : Option Nat) :
    e.verifyStep (e.slotBytes n) sig = d.verifyStep (d.slotBytes n) sig := by
  simp only [Dev.start, Prod.mk.injEq] at same
  obtain ⟨-, -, -, slots, fuses⟩ := same
  simp only [Dev.verifyStep, Dev.verifyImage, Dev.slotBytes, Dev.lifecycle, slots, fuses]
  rfl

theorem Dev.trySlot_verified {d : Dev} {n : Fin 2} {sig : Option Nat} (ok : d.verifyStep (d.slotBytes n) sig = none) :
    d.trySlot n sig = (true, d) := by
  rw [Dev.trySlot, ok]

theorem Dev.trySlot_failed {d : Dev} {n : Fin 2} {sig : Option Nat} (bad : d.verifyStep (d.slotBytes n) sig ≠ none) :
    ∃ l, d.trySlot n sig = (false, d.raiseN 0x1F1 l) := by
  obtain ⟨k, step⟩ := Option.ne_none_iff_exists'.mp bad
  exact ⟨_, by rw [Dev.trySlot, step]⟩

/-- The slot that BOOT tries second, and the signature's result for a slot. -/
def otherSlot (n : Fin 2) : Fin 2 := if n = 0 then 1 else 0
def bootSig (sigA sigB : Option Nat) (n : Fin 2) : Option Nat := if n = 0 then sigA else sigB

/-- Recovery: Barista runs, from no slot (R401). -/
def Dev.recovered (d : Dev) : Dev :=
  ({ d with mb := { d.mb with state := .running, recovery := true }, pwr := { d.pwr with mctpRo := false } }).setFlag
    Fld.glbModeSts_recovery true

section
variable {d : Dev} {sigA sigB : Option Nat} {dimms : List (List Dimm)}

/-- BOOT starts Barista from its boot slot where that verifies (R401). -/
theorem Dev.edgeBootComplete_first (boot : d.inMode .boot = true)
    (ok : d.verifyStep (d.slotBytes d.can.bootSlot) (bootSig sigA sigB d.can.bootSlot) = none) :
    ∃ e : Dev, e.start = d.start ∧ d.edgeBootComplete sigA sigB dimms = e.bootVerified d.can.bootSlot := by
  have same := d.bootReady_start dimms
  have slot : (d.bootReady dimms).can.bootSlot = d.can.bootSlot := congrArg (·.2.2.1) same
  refine ⟨_, same, ?_⟩
  rw [← Dev.verifyStep_congr same, ← slot] at ok
  rw [← slot]
  unfold Dev.edgeBootComplete
  rw [if_pos boot]
  extract_lets e sig first second
  have tried : e.trySlot first (sig first) = (true, e) := Dev.trySlot_verified ok
  rw [tried]
  rfl

/-- With the boot slot refused, it starts from the other one where that verifies. -/
theorem Dev.edgeBootComplete_second (boot : d.inMode .boot = true)
    (bad : d.verifyStep (d.slotBytes d.can.bootSlot) (bootSig sigA sigB d.can.bootSlot) ≠ none)
    (ok : d.verifyStep (d.slotBytes (otherSlot d.can.bootSlot)) (bootSig sigA sigB (otherSlot d.can.bootSlot)) = none) :
    ∃ e : Dev, e.start = d.start ∧ d.edgeBootComplete sigA sigB dimms = e.bootVerified (otherSlot d.can.bootSlot) := by
  have same := d.bootReady_start dimms
  have slot : (d.bootReady dimms).can.bootSlot = d.can.bootSlot := congrArg (·.2.2.1) same
  rw [← Dev.verifyStep_congr same, ← slot] at bad
  obtain ⟨l, failed⟩ := Dev.trySlot_failed bad
  have told := (Dev.raiseN_start (d.bootReady dimms) 0x1F1 l).trans same
  refine ⟨_, told, ?_⟩
  rw [← Dev.verifyStep_congr told, ← slot] at ok
  rw [← slot]
  unfold Dev.edgeBootComplete
  rw [if_pos boot]
  extract_lets e sig first second
  replace failed : e.trySlot first (sig first) = (false, e.raiseN 0x1F1 l) := failed
  have tried : (e.raiseN 0x1F1 l).trySlot second (sig second) = (true, e.raiseN 0x1F1 l) := Dev.trySlot_verified ok
  rw [failed]
  simp only [Bool.false_eq_true, if_false]
  rw [tried]
  rfl

/-- With neither verified it enters MAINT in recovery. -/
theorem Dev.edgeBootComplete_neither (boot : d.inMode .boot = true)
    (badFirst : d.verifyStep (d.slotBytes d.can.bootSlot) (bootSig sigA sigB d.can.bootSlot) ≠ none)
    (badOther : d.verifyStep (d.slotBytes (otherSlot d.can.bootSlot)) (bootSig sigA sigB (otherSlot d.can.bootSlot)) ≠ none) :
    ∃ e : Dev, e.start = d.start ∧ d.edgeBootComplete sigA sigB dimms = e.recovered.enter .maint 0 0 := by
  have same := d.bootReady_start dimms
  have slot : (d.bootReady dimms).can.bootSlot = d.can.bootSlot := congrArg (·.2.2.1) same
  rw [← Dev.verifyStep_congr same, ← slot] at badFirst
  obtain ⟨l, failed⟩ := Dev.trySlot_failed badFirst
  have told := (Dev.raiseN_start (d.bootReady dimms) 0x1F1 l).trans same
  rw [← Dev.verifyStep_congr told, ← slot] at badOther
  obtain ⟨k, failedToo⟩ := Dev.trySlot_failed badOther
  refine ⟨_, (Dev.raiseN_start _ 0x1F1 k).trans told, ?_⟩
  unfold Dev.edgeBootComplete
  rw [if_pos boot]
  extract_lets e sig first second
  replace failed : e.trySlot first (sig first) = (false, e.raiseN 0x1F1 l) := failed
  replace failedToo : (e.raiseN 0x1F1 l).trySlot second (sig second) = (false, (e.raiseN 0x1F1 l).raiseN 0x1F1 k) := failedToo
  rw [failed]
  simp only [Bool.false_eq_true, if_false]
  rw [failedToo]
  rfl

end

/-- A change of mode keeps the flags of GLB_MODE_STS but the two that it writes. -/
theorem Dev.enter_recovery (d : Dev) (m : Mode) (cause discard : Nat) (plain : m ≠ .degraded) :
    (d.enter m cause discard).flag Fld.glbModeSts_recovery = d.flag Fld.glbModeSts_recovery := by
  have noted (e : Dev) (p : Prop) [Decidable p] : (if p then e.setFlag Fld.glbModeSts_drained false else e).flag Fld.glbModeSts_recovery =
      e.flag Fld.glbModeSts_recovery := by
    split
    · exact Dev.setFlag_flag_apart _ _ (by decide)
    · rfl
  by_cases edge : modeEdge d.mode m = true
  · rw [Dev.enter_eq d m _ _ edge, Dev.raiseN, Dev.raise_flag _ _ _ (by decide), Dev.entered]
    dsimp only
    rw [if_neg plain, noted, Dev.setFld_flag_apart _ _ (by decide)]
    rfl
  · rw [Dev.enter, if_neg edge]

theorem Dev.recovered_enter_maint {d : Dev} (boot : d.mode = .boot) : (d.recovered.enter .maint 0 0).mode = .maint ∧
    (d.recovered.enter .maint 0 0).flag Fld.glbModeSts_recovery = true ∧ (d.recovered.enter .maint 0 0).mb.recovery = true := by
  have mode : d.recovered.mode = .boot := boot
  rw [Dev.enter_mode_edge 0 0 (by rw [mode]; rfl), Dev.enter_recovery _ _ _ _ (by decide), Dev.enter_mb]
  exact ⟨rfl, Dev.flag_setFlag_same _ _ _ (by decide) rfl, rfl⟩

/-! #### TRAIN -/

theorem exec_trainComplete (failed : BitVec 8) (s : State) :
    exec (.trainComplete failed) s = s.on (Dev.atEdge (Dev.edgeTrainComplete failed)) := rfl

section
variable {d : Dev} {t : Beat}

/-- A loss in TRAIN changes no mode (R483). -/
theorem Dev.degrade_beat_train (num : Nat) (train : t.2.1 = .train) (h : d.beat = t) : (d.degrade num).beat = t := by
  have mode : d.mode = .train := (congrArg (·.2.1) h).trans train
  simp only [Dev.degrade, mode]
  exact h

theorem Dev.loseFar_beat_train (c : Nat) (train : t.2.1 = .train) (h : d.beat = t) : (d.loseFar c).beat = t := by
  grind [Dev.loseFar, Dev.beat, Dev.degrade_beat_train, Dev.run_beat, Dev.floorMoved_beat, Dev.raise_beat, Dev.modFch_beat, Dev.setFlag_beat,
    Dev.listChannel_beat, Dev.countPinned_beat, Dev.dropMaps_beat, Dev.dropQueues_beat, Dev.dropJobs_beat, Dev.dropFrames_beat,
    Dev.dropInFlight_beat, Dev.fence_beat, Dev.setBit_beat, Dev.setFld_beat]

end

end Sys2Proof.Machine

namespace Sys2Proof.Machine

theorem Dev.mode_of_beat {d e : Dev} (h : e.beat = d.beat) : e.mode = d.mode := congrArg (·.2.1) h

theorem Dev.edgeTrainComplete_decides {d : Dev} (failed : BitVec 8) (train : d.inMode .train = true) : ∃ e : Dev, e.beat = d.beat ∧
    d.edgeTrainComplete failed = if (interleave d.ileave).any (fun c => !failed.getLsbD c) then
      (({ e with due := { e.due with trained := true } }).enter .await 0 0).atAwait
    else e.enter .maint 0 0 := by
  have mode : d.mode = .train := by simp_all [Dev.inMode]
  unfold Dev.edgeTrainComplete
  rw [if_pos train]
  refine ⟨_, ?_, rfl⟩
  rw [Dev.floorMoved_beat, Dev.syncRepairs_beat, foldl_beat _ _ _ fun d c => Dev.syncSpare_beat d c]
  refine List.foldlRecOn (motive := fun e : Dev => e.beat = d.beat) _ _ ?_ fun e h c _ => Dev.loseFar_beat_train c mode h
  rw [Dev.derateAll_beat]
  exact foldl_beat _ _ _ fun d c => (Dev.modFch_beat _ _ _).trans (Dev.setFld_beat _ _ _)

theorem Dev.edgeTrainComplete_mode {d : Dev} (failed : BitVec 8) (train : d.inMode .train = true) :
    (d.edgeTrainComplete failed).mode = if (interleave d.ileave).any (fun c => !failed.getLsbD c) then .await else .maint := by
  have mode : d.mode = .train := by simp_all [Dev.inMode]
  obtain ⟨e, kept, decided⟩ := Dev.edgeTrainComplete_decides failed train
  replace kept : e.mode = .train := (Dev.mode_of_beat kept).trans mode
  rw [decided]
  split
  · rw [Dev.mode_of_beat (Dev.atAwait_beat _)]
    exact Dev.enter_mode_edge 0 0 (by rw [kept]; rfl)
  · exact Dev.enter_mode_edge 0 0 (by rw [kept]; rfl)

/-! #### AWAIT -/

/-- Behind the pour of the last change of mode, the trigger acts at the boundary that the device stands at. -/
theorem exec_awaitTrigger (s : State) (boundary : AtBoundary s.dev) (later : ∀ q ∈ s.dev.due.modeAt.toList, q < s.dev.now) :
    exec .awaitTrigger s = s.on fun _ => s.dev.edgeAwaitTrigger := by
  show execAwaitTrigger s = _
  unfold execAwaitTrigger
  simp only [State.on]
  split
  · next q at_ =>
    rw [Dev.atEdgeAfter, if_pos (later q (by simp [at_])), Dev.atEdge_atBoundary _ boundary]
  · rw [Dev.atEdge_atBoundary _ boundary]

theorem Dev.edgeAwaitTrigger_mode {d : Dev} (await : d.inMode .await = true) (triggered : d.triggered = true) :
    d.edgeAwaitTrigger.mode = if d.unitLost then .degraded else .serve := by
  have mode : d.mode = .await := by simp_all [Dev.inMode]
  rw [Dev.edgeAwaitTrigger, if_pos (by simp [await, triggered]), Dev.mode_of_beat (Dev.releaseHeld_beat _)]
  exact Dev.enter_mode_edge 0 0 (by rw [mode]; split <;> rfl)

/-! #### The end of a thermal hold -/

theorem exec_thermalHoldEnd (s : State) : exec .thermalHoldEnd s = s.on (Dev.atEdge Dev.edgeThermalHoldEnd) := rfl

theorem Dev.edgeThermalHoldEnd_due {d : Dev} {p : Nat} (hold : d.thm.hold = true) (cool : d.thm.wakeCool = some p) (past : p + 65536 ≤ d.now) :
    d.edgeThermalHoldEnd = ({ d with thm := { d.thm with hold := false, wakeCool := none } } : Dev).raiseN 0x1C1 [] := by
  simp only [Dev.edgeThermalHoldEnd, cool, hold, past, Bool.true_and, decide_true, if_true]

/-! #### The statement -/

/-- A step that moves the mode along an edge of R38 ends in the mode that its meaning computes. -/
theorem settle_mode_moved {a b : Dev} {m n : Mode} (before : a.mode = m) (after : b.mode = n) (edge : modeEdge m n = true) :
    (settle a b).mode = n := by
  rw [settle_mode_edge a b (by rw [before, after]; exact edge), after]

theorem settle_mode_kept {a b : Dev} {m : Mode} (before : a.mode = m) (after : b.mode = m) : (settle a b).mode = m := by
  rw [settle_mode_self a b (by rw [before, after]), before]

theorem coreClockLock_effect (s : State) (ok : Bool) (fill : s.dev.mode = .fill) (stands : s.dev.clk.running = false) :
    Completes (.coreClockLock ok) s fun d => d.clk = ⟨true, 0, 0⟩ ∧ d.mode = .fill ∧
      (ok = true → d.cry.key = some s.dev.cry.draws ∧ d.cry.draws = s.dev.cry.draws + 1 ∧ d.cry.majorNext = 0 ∧
        d.flag Fld.crySts_keyValid = true ∧ d.due = s.dev.due) ∧
      (ok = false → d.due.fatalFill = true ∧ d.cry = s.dev.cry) := by
  refine .of_settle (exec_coreClockLock ok s) ?_
  have guard : (s.dev.mode == .fill && !s.dev.clk.running) = true := by simp [fill, stands]
  dsimp only
  rw [if_pos guard]
  cases ok with
  | true =>
    rw [if_pos rfl]
    refine ⟨rfl, settle_mode_kept fill fill, fun _ => ⟨rfl, rfl, rfl, ?_, rfl⟩, by simp⟩
    exact Dev.flag_setFlag_same _ _ _ (by decide) rfl
  | false =>
    rw [if_neg (by decide)]
    exact ⟨rfl, settle_mode_kept fill fill, by simp, fun _ => ⟨rfl, rfl⟩⟩

theorem tsvTrainingComplete_effect (s : State) (r : List TsvResult) (fill : InStep s.dev .fill) (running : s.dev.clk.running = true)
    (first : s.dev.due.tsvDone = false) :
    Completes (.tsvTrainingComplete r) s fun d => d.due.fillFailed = tsvFailed r ∧ d.crm.lanes = tsvLanes r ∧ d.mode = .fill ∧
      d.due.tsvDone = true ∧
      d.due.fatalFill = (s.dev.due.fatalFill || decide (2 < (rangeWhere 32 fun c => (tsvFailed r).getLsbD c).length)) := by
  refine .of_settle (exec_tsvTrainingComplete r s) ?_
  have guard : (s.dev.inMode .fill && s.dev.clk.running && !s.dev.due.tsvDone) = true := by
    simp [Dev.inMode_of_inStep fill (by decide), running, first]
  dsimp only
  rw [if_pos guard]
  have mapped := Dev.mapTrained_filling { s.dev with
    due := { s.dev.due with fillFailed := tsvFailed r, fatalFill := s.dev.due.fatalFill || decide (2 < (rangeWhere 32 fun c => (tsvFailed r).getLsbD c).length), tsvDone := true }
    crm := { s.dev.crm with lanes := tsvLanes r } } (tsvFailed r)
  simp only [Dev.filling, Prod.mk.injEq] at mapped
  obtain ⟨mode, due, crm⟩ := mapped
  exact ⟨congrArg (·.fillFailed) due, congrArg (·.lanes) crm, settle_mode_kept fill.1 (mode.trans fill.1), congrArg (·.tsvDone) due,
    congrArg (·.fatalFill) due⟩

theorem bootSig_otherSlot (sigA sigB : Option Nat) (n : Fin 2) : bootSig sigA sigB (otherSlot n) = if n = 0 then sigB else sigA := by
  by_cases zero : n = 0 <;> simp [bootSig, otherSlot, zero]

/-- BOOT_COMPLETE that starts Barista from slot `n`: TRAIN, or MAINT behind a fatal FILL failure. -/
theorem bootComplete_verified {s : State} {sigA sigB : Option Nat} {l : List (List Dimm)} {n : Fin 2} (boundary : AtBoundary s.dev)
    (boot : s.dev.mode = .boot) (verified : ∃ e : Dev, e.start = s.dev.start ∧ s.dev.edgeBootComplete sigA sigB l = e.bootVerified n) :
    Completes (.bootComplete sigA sigB l) s fun d => d.mb.state = .running ∧ d.mb.slot = n ∧
      d.mode = if s.dev.due.fatalFill then .maint else .train := by
  obtain ⟨e, same, result⟩ := verified
  refine .of_settle (exec_bootComplete sigA sigB l s) ?_
  rw [Dev.atEdge_atBoundary _ boundary, result]
  simp only [Dev.start, Prod.mk.injEq] at same
  obtain ⟨⟨-, mode, fatal⟩, -⟩ := same
  obtain ⟨state, slot, entered⟩ := Dev.bootVerified_effect n (mode.trans boot)
  rw [fatal] at entered
  exact ⟨state, slot, settle_mode_moved boot entered (by split <;> rfl)⟩

/-- Settles O6: each step's own change, and the edge of R38 that its change of mode takes. -/
theorem startUpSequenceReachesAwait : Obligations.StartUpSequenceReachesAwait := by
  unfold Obligations.StartUpSequenceReachesAwait
  refine ⟨coreClockLock_effect, tsvTrainingComplete_effect, fun s r done => ?again, fun s ok boundary untrained => ?early,
    fun s ok boundary fill running trained => ?filled, fun s sigA sigB l boundary boot ok => ?first,
    fun s sigA sigB l boundary boot bad ok => ?second, fun s sigA sigB l boundary boot badA badB => ?neither,
    fun s failed boundary train => ?trained, fun s boundary later await triggered => ?await,
    fun s p boundary hold cool past => ?cooled⟩
  case again =>
    refine .of_settle (exec_tsvTrainingComplete r s) ?_
    simp [done]
  case early =>
    refine .of_settle (exec_fillComplete ok s) ?_
    simp [Dev.atEdge_atBoundary _ boundary, Dev.edgeFillComplete, untrained]
  case filled =>
    refine .of_settle (exec_fillComplete ok s) ?_
    obtain ⟨mode, clk, fatal⟩ := Dev.edgeFillComplete_effect ok (Dev.inMode_of_inStep fill (by decide)) running trained
    rw [Dev.atEdge_atBoundary _ boundary]
    exact ⟨settle_mode_moved fill.1 mode rfl, clk, fatal⟩
  case first =>
    exact bootComplete_verified boundary boot.1 (Dev.edgeBootComplete_first (Dev.inMode_of_inStep boot (by decide)) ok)
  case second =>
    rw [← bootSig_otherSlot sigA sigB] at ok
    exact bootComplete_verified boundary boot.1 (Dev.edgeBootComplete_second (Dev.inMode_of_inStep boot (by decide)) bad ok)
  case neither =>
    have bad : ∀ n : Fin 2, s.dev.verifyStep (s.dev.slotBytes n) (bootSig sigA sigB n) ≠ none := Fin.forall_fin_two.mpr ⟨badA, badB⟩
    obtain ⟨e, same, result⟩ := Dev.edgeBootComplete_neither (dimms := l) (Dev.inMode_of_inStep boot (by decide))
      (bad s.dev.can.bootSlot) (bad (otherSlot s.dev.can.bootSlot))
    refine .of_settle (exec_bootComplete sigA sigB l s) ?_
    rw [Dev.atEdge_atBoundary _ boundary, result]
    have mode : e.mode = .boot := (congrArg (·.1.2.1) same).trans boot.1
    obtain ⟨entered, flag, recovery⟩ := Dev.recovered_enter_maint mode
    exact ⟨settle_mode_moved boot.1 entered rfl, flag, recovery⟩
  case trained =>
    refine .of_settle (exec_trainComplete failed s) ?_
    rw [Dev.atEdge_atBoundary _ boundary]
    have mode := Dev.edgeTrainComplete_mode failed (Dev.inMode_of_inStep train (by decide))
    exact settle_mode_moved train.1 mode (by split <;> rfl)
  case await =>
    refine .of_settle (f := fun _ => s.dev.edgeAwaitTrigger) (exec_awaitTrigger s boundary later) ?_
    have mode := Dev.edgeAwaitTrigger_mode (Dev.inMode_of_inStep await (by decide)) triggered
    exact settle_mode_moved await.1 mode (by split <;> rfl)
  case cooled =>
    refine .of_settle (exec_thermalHoldEnd s) ?_
    rw [Dev.atEdge_atBoundary _ boundary, Dev.edgeThermalHoldEnd_due hold cool past]
    refine ⟨?_, settle_mode_self _ _ ?_, ?_, ?_, ?_⟩
    all_goals simp

end Sys2Proof.Machine

/-! SUPPORT. The statements about addresses and tenants (O20, O24, O26, O58) and the lemmas behind them. -/

namespace Sys2Proof.Machine

/-! ### Registers that a write of the far tier may not move -/

/-- The head of a register page from the far channels on: FAR_CH_STS of every channel and FAR_MAP_CTL stand at such an offset. -/
def pageHead (o : Nat) : Bool := decide (0x180000 ≤ o) && o % 16384 == 0

theorem pageHead_iff (o : Nat) : pageHead o = true ↔ 0x180000 ≤ o ∧ o % 16384 = 0 := by
  simp [pageHead]

theorem pageHead_farChSts (c : Nat) : pageHead (Off.farChSts c) = true := by
  rw [pageHead_iff, Off.farChSts]; omega

theorem eventReg_of_pageHead {o : Nat} (h : pageHead o = true) : eventReg o = false := by
  rw [pageHead_iff] at h
  simp only [eventReg, Bool.or_eq_false_iff, beq_eq_false_iff_ne, Off.rasAlertSts, Off.thmAlert, Off.rasRingSts]
  omega

theorem relayReg_of_pageHead {o : Nat} (h : pageHead o = true) : relayReg o = false := by
  rw [pageHead_iff] at h
  simp only [relayReg, Bool.or_eq_false_iff, beq_eq_false_iff_ne, Off.rlyLinkSts]
  omega

/-! ### What the far tier reads from, but for counters -/

/-- `b` is `a` as far as a reader of the far tier can tell: contents, poison, freshness, channels and held pages are the same, the
registers that give a channel's state and geometry read the same, and no channel became lost. Counter blocks may differ (R208). -/
structure FarKept (a b : Dev) : Prop where
  mem : ∃ ctr, b.mem = { a.mem with ctr := ctr }
  farCh : b.farCh = a.farCh
  held : ∀ c pg, b.heldPage c pg = a.heldPage c pg
  reg : ∀ o, 0x180000 ≤ o → o ≤ 0x1A0000 → o % 16384 = 0 → b.reg o = a.reg o
  lost : ∀ c, a.farLost c = false → b.farLost c = false

theorem FarKept.refl (a : Dev) : FarKept a a :=
  ⟨⟨_, rfl⟩, rfl, fun _ _ => rfl, fun _ _ _ _ => rfl, fun _ h => h⟩

theorem FarKept.trans {a b c : Dev} (h : FarKept a b) (k : FarKept b c) : FarKept a c := by
  obtain ⟨x, hx⟩ := h.mem
  obtain ⟨y, hy⟩ := k.mem
  exact ⟨⟨y, by rw [hy, hx]⟩, k.farCh.trans h.farCh, fun c pg => (k.held c pg).trans (h.held c pg),
    fun o lo hi al => (k.reg o lo hi al).trans (h.reg o lo hi al), fun c hc => k.lost c (h.lost c hc)⟩

theorem Dev.heldPage_congr {a b : Dev} (h : b.cry.rekey = a.cry.rekey) (c pg : Nat) : b.heldPage c pg = a.heldPage c pg := by
  simp only [Dev.heldPage, h]

theorem Dev.farLost_congr {a b : Dev} {c : Nat} (h : b.reg (Off.farChSts c) = a.reg (Off.farChSts c)) : b.farLost c = a.farLost c := by
  simp only [Dev.farLost, Dev.fld, Fld.farChSts_state, h]

/-- A change that leaves memory, channels, the rekey and the page heads alone. -/
theorem FarKept.of_same {a b : Dev} (mem : b.mem = a.mem) (farCh : b.farCh = a.farCh) (rekey : b.cry.rekey = a.cry.rekey)
    (reg : ∀ o, pageHead o = true → b.reg o = a.reg o) : FarKept a b where
  mem := ⟨a.mem.ctr, mem⟩
  farCh := farCh
  held := Dev.heldPage_congr rekey
  reg o lo _ al := reg o ((pageHead_iff o).2 ⟨lo, al⟩)
  lost c h := (Dev.farLost_congr (reg _ (pageHead_farChSts c))).trans h

/-- A step before which nothing of this changed. -/
theorem FarKept.since {a b c : Dev} (k : FarKept b c) (mem : b.mem = a.mem) (farCh : b.farCh = a.farCh) (cry : b.cry.rekey = a.cry.rekey)
    (regs : b.regs = a.regs) : FarKept a c :=
  (FarKept.of_same mem farCh cry fun o _ => by simp only [Dev.reg, regs]).trans k

theorem FarKept.foldl {α : Type} (f : Dev → α → Dev) (l : List α) (d : Dev) (h : ∀ d x, FarKept d (f d x)) :
    FarKept d (l.foldl f d) := by
  induction l generalizing d with
  | nil => exact .refl d
  | cons x l ih => exact (h d x).trans (ih _)

section
variable (d : Dev)

theorem Dev.setReg_farKept {o : Nat} (w : Word) (h : pageHead o = false) : FarKept d (d.setReg o w) :=
  .of_same rfl rfl rfl fun _ ho => d.reg_setReg_ne w (by rintro rfl; simp [h] at ho)

theorem Dev.setFld_farKept {f : Fld} (v : Nat) (h : pageHead f.off = false) : FarKept d (d.setFld f v) := d.setReg_farKept _ h

theorem Dev.emit_farKept (x : Out) : FarKept d (d.emit x) := .of_same rfl rfl rfl fun _ _ => rfl

theorem Dev.countAs_farKept (n k : Nat) (c : Option (BitVec 16)) (t : Option TenantId) (l : Option Cls) :
    FarKept d (d.countAs n k c t l) :=
  .of_same (by simp) (by simp) (by simp) fun o _ => d.countAs_reg n k c t l o

theorem Dev.raise_farKept (e : Ev) : FarKept d (d.raise e) :=
  .of_same (by simp) (by simp) (by simp) fun o h => d.raise_reg e o (eventReg_of_pageHead h)

theorem Dev.sendUp_farKept (m : RelayMsg) (c : Nat) (l : List (BitVec 128)) : FarKept d (d.sendUp m c l) :=
  .of_same (by simp) (by simp) (by simp) fun o h => d.sendUp_reg m c l o (relayReg_of_pageHead h)

theorem Dev.modLd_farKept (p : PortId) (ld : Nat) (f : LdState → LdState) : FarKept d (d.modLd p ld f) :=
  .of_same (by simp) (by simp) (by simp) fun o _ => by simp [Dev.reg]

/-! ### Poison lists -/

theorem portIdx_le (p : PortId) : portIdx p ≤ 1 := by cases p <;> decide

theorem pageHead_below {o : Nat} (h : o < 0x180000) : pageHead o = false := by
  simp only [pageHead, Bool.and_eq_false_iff, decide_eq_false_iff_not]; omega

theorem Dev.poisonOverflow_farKept (p : PortId) (ld : Nat) : FarKept d (d.poisonOverflow p ld) := by
  have low : pageHead (Off.prtPoisonOvf (portIdx p)) = false :=
    pageHead_below (by have := portIdx_le p; simp only [Off.prtPoisonOvf]; omega)
  unfold Dev.poisonOverflow
  split
  · exact .refl d
  · exact ((d.modLd_farKept p ld _).trans (Dev.setFld_farKept _ _ low)).trans (Dev.raise_farKept _ _)

theorem Dev.listPoison_farKept (p : PortId) (ld line : Nat) (src : PoisonSrc) : FarKept d (d.listPoison p ld line src) := by
  unfold Dev.listPoison
  dsimp only
  split
  · exact .refl d
  · split
    · exact d.modLd_farKept _ _ _
    · exact d.poisonOverflow_farKept _ _

theorem Dev.firstPoison_farKept (ma : Nat) (comp : Bool) (chid : BitVec 16) (loc : BitVec 64) (src : PoisonSrc) :
    FarKept d (d.firstPoison ma comp chid loc src) := by
  unfold Dev.firstPoison Dev.poisonFound
  split
  · exact (d.raise_farKept _).trans (Dev.listPoison_farKept _ _ _ _ _)
  · exact d.raise_farKept _

/-! ### A HALT, which the counters can bring about (R220) -/

theorem Dev.conflictAck_farKept (port : PortId) (tag sharer : Nat) : FarKept d (d.conflictAck port tag sharer) := by
  unfold Dev.conflictAck
  split
  · exact d.sendUp_farKept _ _ _
  · exact d.emit_farKept _

theorem Dev.sendAcks_farKept (id : Nat) : FarKept d (d.sendAcks id) := by
  unfold Dev.sendAcks
  dsimp only
  split
  · exact .refl d
  · exact .since (.foldl _ _ _ fun d x => d.conflictAck_farKept _ _ _) rfl rfl rfl rfl

theorem Dev.answerHost_farKept (p : PortId) (ld tag : Nat) (uio : Bool) (md : Meta) (load : Nat) (r : Reply) :
    FarKept d (d.answerHost p ld tag uio md load r) := by
  unfold Dev.answerHost
  split
  · exact .refl d
  · exact d.emit_farKept _

theorem Dev.answerRelay_farKept (x : Txn) (src tag : Nat) (r : Reply) : FarKept d (d.answerRelay x src tag r) := by
  cases r <;> exact d.sendUp_farKept _ _ _

theorem Dev.delivered_farKept (x : Txn) : FarKept d (d.delivered x) := by
  unfold Dev.delivered
  split
  · exact .refl d
  · split
    · exact .refl d
    · exact (d.countAs_farKept _ _ _ _ _).trans (.of_same rfl rfl rfl fun _ _ => rfl)

theorem Dev.histogram_farKept (x : Txn) : FarKept d (d.histogram x) := .of_same rfl rfl rfl fun _ _ => rfl

theorem Dev.bumpDown_farKept (p : PortId) (rd : Bool) : FarKept d
    (if rd then d.bump (Fld.prtDownCnt_reads (portIdx p)) 1 else d.bump (Fld.prtDownCnt_writes (portIdx p)) 1) := by
  have low : pageHead (Off.prtDownCnt (portIdx p)) = false :=
    pageHead_below (by have := portIdx_le p; simp only [Off.prtDownCnt]; omega)
  split <;> exact d.setFld_farKept _ low

theorem FarKept.ite {c : Prop} [Decidable c] {a b e : Dev} (h : FarKept a b) (k : FarKept a e) : FarKept a (if c then b else e) := by
  split
  · exact h
  · exact k

theorem Dev.finish_farKept (x : Txn) (r : Reply) : FarKept d (d.finish x r) := by
  have out : FarKept d (({ d with txns := d.txns.filter (·.id != x.id) } : Dev).sendAcks x.id) :=
    .since (Dev.sendAcks_farKept _ _) rfl rfl rfl rfl
  unfold Dev.finish
  dsimp only
  split
  · refine .trans ?_ (.ite ((Dev.delivered_farKept _ _).trans (Dev.histogram_farKept _ _)) (.refl _))
    refine .trans ?_ (Dev.answerHost_farKept _ _ _ _ _ _ _ _)
    exact out.trans (.ite (Dev.bumpDown_farKept _ _ _) (.refl _))
  · exact out.trans (Dev.answerRelay_farKept _ _ _ _ _)

theorem Dev.dropAll_farKept : FarKept d d.dropAll := by
  refine (FarKept.foldl _ d.txns d fun d x => ?_).trans (.of_same rfl rfl rfl fun _ _ => rfl)
  exact .ite (d.finish_farKept x _) (.refl d)

theorem Dev.haltFlit_farKept (p : PortId) (origin cause : Nat) : FarKept d (d.haltFlit p origin cause) := by
  unfold Dev.haltFlit
  split
  · exact .of_same rfl rfl rfl fun _ _ => rfl
  · exact .refl d

theorem Dev.haltOut_farKept (origin cause : Nat) : FarKept d (d.haltOut origin cause) := by
  refine .foldl _ _ d fun d p => ?_
  have low : pageHead (Off.prtViralSts (portIdx p)) = false :=
    pageHead_below (by have := portIdx_le p; simp only [Off.prtViralSts]; omega)
  split
  · exact (d.setFld_farKept _ low).trans (Dev.emit_farKept _ _)
  · exact (d.haltFlit_farKept _ _ _).trans (Dev.emit_farKept _ _)
  · exact (d.haltFlit_farKept _ _ _).trans (Dev.emit_farKept _ _)
  · exact .refl d

theorem Dev.recordHalt_farKept (cause : HaltCause) (origin : Nat) (chid : BitVec 16) (loc : BitVec 64) :
    FarKept d (d.recordHalt cause origin chid loc) := by
  unfold Dev.recordHalt
  iterate 6 (refine .trans ?_ (Dev.setReg_farKept _ _ ?_); on_goal 2 => decide)
  exact .since (.refl _) rfl rfl rfl rfl

/-- A flag that clears makes no channel lost, at whatever offset it stands: STATE 4 would need it set, or does not see it. -/
theorem Dev.clearFlag_farKept {f : Fld} (away : 0x1A0000 < f.off) (one : f.w = 1) (bit : f.lo = 31 ∨ f.lo + 1 ≤ 29) :
    FarKept d (d.setFlag f false) where
  mem := ⟨d.mem.ctr, rfl⟩
  farCh := rfl
  held _ _ := rfl
  reg o _ hi _ := d.reg_setFld_ne _ (by omega)
  lost c h := by
    by_cases here : Off.farChSts c = f.off
    · rcases bit with top | below
      · have clear : ((d.setFlag f false).fld (Fld.farChSts_state c)).testBit 2 = false := by
          simp only [Dev.fld, Dev.setFlag, Dev.setFld, Fld.farChSts_state, here, Dev.reg_setReg_same, top, one, testBit_fieldOf,
            getLsbD_setFieldOf, bitOf]
          simp
        simp only [Dev.farLost, beq_eq_false_iff_ne]
        intro lost
        rw [lost] at clear
        exact absurd clear (by decide)
      · have apart : f.apart (Fld.farChSts_state c) = true := by
          simp [Fld.apart, Fld.farChSts_state, one, below]
        rwa [Dev.farLost, Dev.setFlag, Dev.fld_setFld_apart d _ _ _ apart]
    · exact (Dev.farLost_congr (d.reg_setFld_ne _ here)).trans h

theorem Dev.zeroise_farKept : FarKept d d.zeroise :=
  .since (Dev.clearFlag_farKept _ (f := Fld.crySts_keyValid) (by decide) rfl (.inl rfl)) rfl rfl rfl rfl

theorem Dev.haltFrom_farKept (cause : HaltCause) (origin : Nat) (chid : BitVec 16) (loc : BitVec 64) :
    FarKept d (d.haltFrom cause origin chid loc) := by
  unfold Dev.haltFrom
  split
  · split
    · exact .ite ((d.recordHalt_farKept _ _ _ _).trans (Dev.haltOut_farKept _ _ _)) (.refl d)
    · exact .refl d
  · refine .ite ?later (.ite ?first (.refl d))
    case later => exact .since (Dev.setFld_farKept _ (f := Fld.rasHaltCause_later) _ (by decide)) rfl rfl rfl rfl
    case first =>
      refine (d.recordHalt_farKept cause origin chid loc).trans ?_
      refine .trans ?_ (((Dev.zeroise_farKept _).trans (Dev.haltOut_farKept _ _ _)).trans (Dev.dropAll_farKept _))
      exact .since (Dev.clearFlag_farKept _ (f := Fld.canSts_store) (by decide) rfl (.inr (by decide))) rfl rfl rfl rfl

theorem Dev.integrityFail_farKept (cause : HaltCause) (chid : BitVec 16) (loc : BitVec 64) (detail : List Word) :
    FarKept d (d.integrityFail cause chid loc detail) := by
  unfold Dev.integrityFail Dev.haltBy
  exact .ite (d.haltFrom_farKept _ _ _ _) ((d.raise_farKept _).trans (Dev.haltFrom_farKept _ _ _ _ _))

/-! ### Counters -/

theorem Dev.setCtr_farKept (c pg : Nat) (b : Line) : FarKept d (d.setCtr c pg b) :=
  ⟨⟨_, rfl⟩, rfl, fun _ _ => rfl, fun _ _ _ _ => rfl, fun _ h => h⟩

/-- A rekey that is only asked for holds no page. -/
theorem Dev.askRekey_farKept (h : d.cry.rekey = none) (rate : Option Nat) :
    FarKept d { d with cry := { d.cry with rekey := some ⟨.requested, 0, 0, false, Vector.replicate 8 none, 0, 0⟩, rateNext := rate } } where
  mem := ⟨_, rfl⟩
  farCh := rfl
  held c pg := by simp [Dev.heldPage, h, vget]
  reg _ _ _ _ := rfl
  lost _ h := h

theorem Dev.setMajorNext_farKept (new : Bool) (n : Nat) : FarKept d (d.setMajorNext new n) := by
  unfold Dev.setMajorNext
  extract_lets v q e
  have counted : FarKept d e := .ite (.since (.refl _) rfl rfl rfl rfl) (.since (.refl _) rfl rfl rfl rfl)
  refine counted.trans (.ite (e.integrityFail_farKept _ _ _ _) ?_)
  split
  · rename_i auto
    simp only [Bool.and_eq_true, Option.isNone_iff_eq_none] at auto
    exact (e.askRekey_farKept auto.2 _).trans (Dev.setFld_farKept _ _ (by decide))
  · exact .refl e

theorem Dev.freshCtr_farKept (c pg : Nat) (new : Bool) : FarKept d (d.freshCtr c pg new) :=
  (d.setCtr_farKept _ _ _).trans (Dev.setMajorNext_farKept _ _ _)

theorem Dev.countWrite_farKept (c pg j : Nat) : FarKept d (d.countWrite c pg j) := by
  unfold Dev.countWrite
  refine .ite (d.setCtr_farKept _ _ _) ?_
  exact ((d.setCtr_farKept _ _ _).trans (Dev.countAs_farKept _ _ _ _ _ _)).trans (.ite (Dev.setMajorNext_farKept _ _ _) (.refl _))

end

end Sys2Proof.Machine

namespace Sys2Proof.Machine

/-! ### The geometry of a channel -/

theorem lt_of_mem_interleave {n x : Nat} (h : x ∈ interleave n) : x < 8 := by
  unfold interleave at h
  split at h <;> simp at h <;> omega

theorem interleave_getD_lt (n k : Nat) : (interleave n).getD k 0 < 8 := by
  rcases Nat.lt_or_ge k (interleave n).length with inside | outside
  · rw [List.getD_eq_getElem _ _ inside]
    exact lt_of_mem_interleave (List.getElem_mem inside)
  · rw [List.getD_eq_default _ _ outside]
    decide

theorem Dev.served_lt (d : Dev) {c : Nat} (h : c < 8) : d.served c < 8 := by
  unfold Dev.served
  dsimp only
  split
  · exact h
  · exact interleave_getD_lt _ _

/-- The registers of the far channels and of the mapping read the same. -/
def FarRegs (a b : Dev) : Prop := ∀ o, 0x180000 ≤ o → o ≤ 0x1A0000 → o % 16384 = 0 → b.reg o = a.reg o

section
variable {a b : Dev} (h : FarRegs a b)
include h

theorem FarRegs.channel {c : Nat} (hc : c < 8) : b.reg (Off.farChSts c) = a.reg (Off.farChSts c) :=
  h _ (by simp only [Off.farChSts]; omega) (by simp only [Off.farChSts]; omega) (by simp only [Off.farChSts]; omega)

theorem FarRegs.ileave : b.ileave = a.ileave := by
  simp only [Dev.ileave, Dev.fld, Fld.farMapCtl_chSet, h Off.farMapCtl (by decide) (by decide) (by decide)]

theorem FarRegs.served (c : Nat) : b.served c = a.served c := by
  simp only [Dev.served, Dev.chPos, h.ileave]

theorem FarRegs.dataLines {c : Nat} (hc : c < 8) : b.dataLines c = a.dataLines c := by
  simp only [Dev.dataLines, Dev.chLines, Dev.fld, Fld.farChSts_raw, h.ileave, h.channel hc]

theorem FarRegs.dataTree {c : Nat} (hc : c < 8) : b.dataTree c = a.dataTree c := by
  simp only [Dev.dataTree, h.dataLines hc]

theorem FarRegs.storedPages {c : Nat} (hc : c < 8) : b.storedPages c = a.storedPages c := by
  simp only [Dev.storedPages, Dev.spareSectors, Dev.macBase, Dev.trainLines, Dev.chLines, Dev.fld, Fld.farChSts_raw, Fld.farChSts_lrank,
    h.channel hc, h.dataLines hc, h.served c, h.dataTree (a.served_lt hc)]

theorem FarRegs.subtreePages {c : Nat} (hc : c < 8) (level index : Nat) : b.subtreePages c level index = a.subtreePages c level index := by
  simp only [Dev.subtreePages, h.dataLines hc, h.storedPages hc]

theorem FarRegs.inSubtree (farCh : b.farCh = a.farCh) (c pg : Nat) : b.inSubtree c pg = a.inSubtree c pg := by
  have same : b.fch c = a.fch c := by simp only [Dev.fch, farCh]
  rcases Nat.lt_or_ge c 8 with hc | hc
  · simp only [Dev.inSubtree, same, h.subtreePages hc]
  · have none : a.fch c = FarChan.reset := by simp [Dev.fch, vget, Nat.not_lt.mpr hc]
    simp [Dev.inSubtree, same, none, FarChan.reset]

theorem FarRegs.farLost {c : Nat} (hc : c < 8) : b.farLost c = a.farLost c := Dev.farLost_congr (h.channel hc)

end

/-! ### What a write of one far page leaves alone -/

/-- `b` is `a` but for what the far page of key `P` holds: the other pages read as before, Crema is untouched, and the far bytes keep
their canonical form. -/
structure PageKept (P : Nat) (a b : Dev) : Prop where
  farCh : b.farCh = a.farCh
  reg : FarRegs a b
  crema : b.mem.crema = a.mem.crema
  wf : Memory.wf a.mem.far = true → Memory.wf b.mem.far = true
  line : ∀ k, k / 64 ≠ P → Memory.line b.mem.far k = Memory.line a.mem.far k
  poison : ∀ k, k / 64 ≠ P → b.mem.farPoison.has k = a.mem.farPoison.has k
  written : ∀ k, k ≠ P → b.mem.written.has k = a.mem.written.has k
  lostFresh : ∀ k, k ≠ P → b.mem.lostFresh.has k = a.mem.lostFresh.has k
  held : ∀ c pg, pageKey c pg ≠ P → b.heldPage c pg = a.heldPage c pg

theorem PageKept.refl (P : Nat) (a : Dev) : PageKept P a a :=
  ⟨rfl, fun _ _ _ _ => rfl, rfl, id, fun _ _ => rfl, fun _ _ => rfl, fun _ _ => rfl, fun _ _ => rfl, fun _ _ _ => rfl⟩

theorem PageKept.trans {P : Nat} {a b c : Dev} (h : PageKept P a b) (k : PageKept P b c) : PageKept P a c where
  farCh := k.farCh.trans h.farCh
  reg o lo hi al := (k.reg o lo hi al).trans (h.reg o lo hi al)
  crema := k.crema.trans h.crema
  wf w := k.wf (h.wf w)
  line x hx := (k.line x hx).trans (h.line x hx)
  poison x hx := (k.poison x hx).trans (h.poison x hx)
  written x hx := (k.written x hx).trans (h.written x hx)
  lostFresh x hx := (k.lostFresh x hx).trans (h.lostFresh x hx)
  held c pg hx := (k.held c pg hx).trans (h.held c pg hx)

theorem FarKept.pageKept {a b : Dev} (h : FarKept a b) (P : Nat) : PageKept P a b := by
  obtain ⟨ctr, mem⟩ := h.mem
  refine ⟨h.farCh, h.reg, ?_, ?_, ?_, ?_, ?_, ?_, fun c pg _ => h.held c pg⟩
  all_goals (intros; simp_all)

/-- The key of a far line lies in the page of its channel line index. -/
theorem farKey_div (c cli : Nat) : farKey c cli / 64 = pageKey c (cli / 64) := by
  simp only [farKey, pageKey]; omega

theorem ne_farKey_of_page {c cli k P : Nat} (h : P = pageKey c (cli / 64)) (hk : k / 64 ≠ P) : k ≠ farKey c cli := by
  rintro rfl
  exact hk ((farKey_div c cli).trans h.symm)

section
variable (d : Dev) (c cli : Nat)

theorem Dev.setFarPoison_pageKept (po : Bool) : PageKept (pageKey c (cli / 64)) d (d.setFarPoison c cli po) :=
  { PageKept.refl _ d with poison := fun _ hk => Sparse.get_put_ne _ _ _ _ (ne_farKey_of_page rfl hk) }

theorem Dev.setFresh_pageKept (fr : Bool) : PageKept (pageKey c (cli / 64)) d (d.setFresh c cli fr) :=
  ⟨rfl, fun _ _ _ _ => rfl, rfl, id, fun _ _ => rfl, fun _ _ => rfl, fun _ _ => rfl, fun _ _ => rfl, fun _ _ _ => rfl⟩

theorem Dev.putFar_pageKept (l : Line) : PageKept (pageKey c (cli / 64)) d (d.putFar (farKey c cli) l) :=
  { PageKept.refl _ d with
    wf := fun w => Memory.wf_setLine _ _ _ w
    line := fun _ hk => Memory.line_setLine_ne _ _ (ne_farKey_of_page rfl hk) }

/-- A channel holds one page at a time. -/
theorem Dev.heldPage_other {h : RekeyPage} {pg pg' : Nat} (held : d.heldPage c pg = some h) (other : pg' ≠ pg) :
    d.heldPage c pg' = none := by
  simp only [Dev.heldPage] at held ⊢
  cases asked : d.cry.rekey with
  | none => rfl
  | some r =>
    cases page : vget none r.pages c with
    | none => simp [page]
    | some p =>
      simp [asked, page] at held
      simp [page, held.1.1, Ne.symm other]

/-- The page held on a channel after a change of it that leaves page and commit alone. -/
theorem Dev.heldPage_modHeldPage (f : RekeyPage → RekeyPage) (same : ∀ h, (f h).page = h.page ∧ (f h).committed = h.committed)
    (c' pg : Nat) : (d.modHeldPage c f).heldPage c' pg = if c' = c then (d.heldPage c' pg).map f else d.heldPage c' pg := by
  simp only [Dev.heldPage, Dev.modHeldPage]
  cases d.cry.rekey with
  | none => simp
  | some r =>
    simp only [Option.map_some, vget_vmod]
    by_cases mine : c' = c
    · subst mine
      by_cases inside : c' < 8
      · cases held : vget none r.pages c' with
        | none => simp
        | some p => by_cases here : p.page = pg ∧ p.committed = false <;> simp_all
      · simp [inside, vget]
    · simp [mine]

theorem Dev.modHeldPage_pageKept (f : RekeyPage → RekeyPage) (same : ∀ h, (f h).page = h.page ∧ (f h).committed = h.committed)
    {h : RekeyPage} {pg : Nat} (held : d.heldPage c pg = some h) : PageKept (pageKey c pg) d (d.modHeldPage c f) :=
  { PageKept.refl _ d with
    held := fun c' pg' other => by
      rw [d.heldPage_modHeldPage c f same]
      split
      · subst c'
        have pages : pg' ≠ pg := by rintro rfl; exact other rfl
        simp [d.heldPage_other c held pages]
      · rfl }

end

end Sys2Proof.Machine

namespace Sys2Proof.Machine

/-! ### Page initialisation and the page alone -/

theorem Sparse.get_drop {α : Type} (dflt : α) (m : Sparse α) (p : Nat → Bool) (k : Nat) :
    Sparse.get dflt (Sparse.drop m p) k = if p k then dflt else Sparse.get dflt m k := by
  unfold Sparse.drop
  induction m with
  | nil => simp
  | cons e r ih =>
    obtain ⟨j, v⟩ := e
    by_cases hj : p j <;> by_cases hk : k = j <;> simp_all [Sparse.get]

/-- A line of another page than the one cleared keeps its bytes. -/
theorem Memory.line_clear (m : List Host.Cell) (p : Nat → Bool) (k : Nat) (h : p k = false) :
    Memory.line (Memory.clear m p) k = Memory.line m k :=
  Memory.line_congr _ _ _ fun i hi => by
    rw [Memory.byte_clear, show (k * 64 + i) / 64 = k by omega, h]
    rfl

theorem mem_pageOthers {cli x : Nat} (h : x ∈ pageOthers cli) : x / 64 = cli / 64 ∧ x ≠ cli := by
  simp only [pageOthers, List.mem_map, List.mem_filter, List.mem_range, bne_iff_ne] at h
  obtain ⟨i, ⟨inside, other⟩, rfl⟩ := h
  omega

/-- A fold whose steps each keep a relation that composes. -/
theorem PageKept.foldl {α : Type} {P : Nat} (f : Dev → α → Dev) (l : List α) (d : Dev) (h : ∀ d, ∀ x ∈ l, PageKept P d (f d x)) :
    PageKept P d (l.foldl f d) := by
  induction l generalizing d with
  | nil => exact .refl P d
  | cons x l ih => exact (h d x (by simp)).trans (ih _ fun d y hy => h d y (by simp [hy]))

/-- Is this the key of a line of the page? -/
def ofPage (c pg k : Nat) : Bool := k / 64 == farKey c (pg * 64) / 64

theorem ofPage_of_ne {c pg k : Nat} (h : k / 64 ≠ pageKey c pg) : ofPage c pg k = false := by
  rw [ofPage, farKey_div, Nat.mul_div_cancel pg (by decide : 0 < 64)]
  exact beq_eq_false_iff_ne.2 h

/-- The page of a line cleared, written, and no longer lost-fresh. -/
def Dev.clearPage (d : Dev) (c pg : Nat) : Dev :=
  { d with mem := { d.mem with
    far := Memory.clear d.mem.far (ofPage c pg)
    farPoison := d.mem.farPoison.drop (ofPage c pg)
    written := d.mem.written.add (pageKey c pg)
    lostFresh := setLost d.mem.lostFresh c pg false } }

/-- What initialisation leaves in another line of its page. -/
def Dev.initOther (d : Dev) (lost : Bool) (c x : Nat) : Dev :=
  if lost then (d.setFarPoison c x true).firstPoison (d.farMa c x) false (d.farChid c) (d.farLocator c x) .internal
  else d.setFresh c x true

theorem Dev.initPage_eq (d : Dev) (c cli : Nat) : d.initPage c cli =
    (pageOthers cli).foldl (fun e x => e.initOther (d.lostPage c (cli / 64)) c x)
      ((d.freshCtr c (cli / 64) (d.pageNew c (cli / 64))).clearPage c (cli / 64)) := rfl

section
variable (d : Dev) (c cli : Nat)

theorem Dev.clearPage_pageKept (pg : Nat) : PageKept (pageKey c pg) d (d.clearPage c pg) where
  farCh := rfl
  reg _ _ _ _ := rfl
  crema := rfl
  wf := Memory.wf_clear _ _
  line k hk := Memory.line_clear _ _ _ (ofPage_of_ne hk)
  poison k hk := by
    simp only [NatSet.has, Dev.clearPage, Sparse.get_drop, ofPage_of_ne hk, Bool.false_eq_true, if_false]
  written k hk := NatSet.has_add_ne _ hk
  lostFresh k hk := Sparse.get_put_ne _ _ _ _ hk
  held _ _ _ := rfl

theorem Dev.initOther_pageKept (lost : Bool) {x : Nat} (same : x / 64 = cli / 64) :
    PageKept (pageKey c (cli / 64)) d (d.initOther lost c x) := by
  rw [← same, Dev.initOther]
  split
  · exact (d.setFarPoison_pageKept c x true).trans ((Dev.firstPoison_farKept _ _ _ _ _ _).pageKept _)
  · exact d.setFresh_pageKept c x true

theorem Dev.initPage_pageKept : PageKept (pageKey c (cli / 64)) d (d.initPage c cli) := by
  rw [d.initPage_eq]
  refine .trans (((d.freshCtr_farKept _ _ _).pageKept _).trans (Dev.clearPage_pageKept _ _ _)) (.foldl _ _ _ fun e x hx => ?_)
  exact e.initOther_pageKept c cli _ (mem_pageOthers hx).1

/-! ### A page that stands open to a store -/

/-- A page whose lines read as what DRAM or the rekey holds of them. -/
structure PageOpen (c pg : Nat) (d : Dev) : Prop where
  present : d.farLost c = false
  clean : d.inSubtree c pg = false
  written : d.mem.written.has (pageKey c pg) = true
  kept : d.lostPage c pg = false

theorem FarKept.pageOpen {a b : Dev} (h : FarKept a b) {c pg : Nat} (k : PageOpen c pg a) : PageOpen c pg b := by
  obtain ⟨ctr, mem⟩ := h.mem
  refine ⟨h.lost c k.present, (FarRegs.inSubtree h.reg h.farCh c pg).trans k.clean, ?_, ?_⟩
  · rw [mem]; exact k.written
  · have kept := k.kept
    simpa only [Dev.lostPage, mem] using kept

theorem setLost_kept (m : NatSet) (c pg : Nat) :
    ((setLost m c pg false).has (pageKey c pg) != (setLost m c pg false).has (lostBase c)) = false := by
  by_cases same : lostBase c = pageKey c pg
  · rw [same, bne_self_eq_false]
  · simp only [setLost, NatSet.has, Sparse.get_put_same, Sparse.get_put_ne _ _ _ _ same]
    simp

theorem Dev.clearPage_pageOpen {pg : Nat} (present : d.farLost c = false) (clean : d.inSubtree c pg = false) :
    PageOpen c pg (d.clearPage c pg) :=
  ⟨present, clean, NatSet.has_add_same _ _, setLost_kept _ _ _⟩

theorem Dev.setFarPoison_pageOpen {pg : Nat} (x : Nat) (po : Bool) (h : PageOpen c pg d) : PageOpen c pg (d.setFarPoison c x po) :=
  ⟨h.present, h.clean, h.written, h.kept⟩

theorem Dev.setFresh_pageOpen {pg : Nat} (x : Nat) (fr : Bool) (h : PageOpen c pg d) : PageOpen c pg (d.setFresh c x fr) :=
  ⟨h.present, h.clean, h.written, h.kept⟩

theorem Dev.putFar_pageOpen {pg : Nat} (k : Nat) (l : Line) (h : PageOpen c pg d) : PageOpen c pg (d.putFar k l) :=
  ⟨h.present, h.clean, h.written, h.kept⟩

theorem Dev.modHeldPage_pageOpen {pg : Nat} (f : RekeyPage → RekeyPage) (h : PageOpen c pg d) : PageOpen c pg (d.modHeldPage c f) :=
  ⟨h.present, h.clean, h.written, h.kept⟩

theorem Dev.initOther_pageOpen {pg : Nat} (lost : Bool) (x : Nat) (h : PageOpen c pg d) : PageOpen c pg (d.initOther lost c x) := by
  unfold Dev.initOther
  split
  · exact (Dev.firstPoison_farKept _ _ _ _ _ _).pageOpen (d.setFarPoison_pageOpen c x true h)
  · exact d.setFresh_pageOpen c x true h

theorem Dev.initPage_pageOpen (present : d.farLost c = false) (clean : d.inSubtree c (cli / 64) = false) :
    PageOpen c (cli / 64) (d.initPage c cli) := by
  have counted := d.freshCtr_farKept c (cli / 64) (d.pageNew c (cli / 64))
  rw [d.initPage_eq]
  refine List.foldlRecOn (pageOthers cli) _ (Dev.clearPage_pageOpen _ _ (counted.lost c present)
    ((FarRegs.inSubtree counted.reg counted.farCh _ _).trans clean)) fun e h x _ => e.initOther_pageOpen c _ x h

/-! ### A store in its two parts -/

/-- The first part of a store: its page stands written, and the line is no longer FRESH. -/
def Dev.openPage : Dev := (if d.mem.written.has (pageKey c (cli / 64)) then d else d.initPage c cli).setFresh c cli false

/-- A store of a line that DRAM holds. -/
def Dev.putPlain (v : Line) (po : Bool) : Dev :=
  if po then (d.setFarPoison c cli true).putFar (farKey c cli) 0
  else ((d.countWrite c (cli / 64) (cli % 64)).setFarPoison c cli false).putFar (farKey c cli) v

/-- A store of line `k` of a held page (R228). -/
def mergeHeld (k : Nat) (v : Line) (po : Bool) (h : RekeyPage) : RekeyPage :=
  { h with
    held := Sparse.put 0 h.held k (if po then 0 else v)
    poison := if po then h.poison ||| BitVec.ofNat 64 (2 ^ k) else h.poison &&& ~~~(BitVec.ofNat 64 (2 ^ k)) }

/-- The second part of a store: the line goes to where its reader finds it. -/
def Dev.putLine (v : Line) (po : Bool) : Dev :=
  match d.heldPage c (cli / 64) with
  | some h => if h.got.getLsbD (cli % 64) then d.modHeldPage c (mergeHeld (cli % 64) v po) else d.putPlain c cli v po
  | none => d.putPlain c cli v po

/-- The record of a store dropped in a poisoned subtree (R222). -/
def Dev.dropStore : Dev := d.raise { num := 0x153, chid := some (d.farChid c), loc := d.farLocator c cli }

theorem Dev.farStore_eq (v : Line) (po : Bool) : d.farStore c cli v po =
    if d.farLost c then d else if d.inSubtree c (cli / 64) then d.dropStore c cli else (d.openPage c cli).putLine c cli v po := rfl

theorem Dev.farStore_lost (v : Line) (po : Bool) (lost : d.farLost c = true) : d.farStore c cli v po = d := by
  rw [d.farStore_eq, if_pos lost]

theorem Dev.farStore_open (v : Line) (po : Bool) (present : d.farLost c = false) (clean : d.inSubtree c (cli / 64) = false) :
    d.farStore c cli v po = (d.openPage c cli).putLine c cli v po := by
  rw [d.farStore_eq, present, clean]
  rfl

theorem Dev.openPage_pageKept : PageKept (pageKey c (cli / 64)) d (d.openPage c cli) := by
  refine .trans ?_ (Dev.setFresh_pageKept _ c cli false)
  split
  · exact .refl _ d
  · exact d.initPage_pageKept c cli

theorem Dev.openPage_pageOpen (present : d.farLost c = false) (clean : d.inSubtree c (cli / 64) = false)
    (kept : d.mem.written.has (pageKey c (cli / 64)) = true → d.lostPage c (cli / 64) = false) :
    PageOpen c (cli / 64) (d.openPage c cli) := by
  refine Dev.setFresh_pageOpen _ c cli false ?_
  split
  · next written => exact ⟨present, clean, written, kept written⟩
  · exact d.initPage_pageOpen c cli present clean

theorem Dev.putPlain_pageKept (v : Line) (po : Bool) : PageKept (pageKey c (cli / 64)) d (d.putPlain c cli v po) := by
  unfold Dev.putPlain
  split
  · exact (d.setFarPoison_pageKept c cli true).trans (Dev.putFar_pageKept _ c cli 0)
  · exact (((d.countWrite_farKept _ _ _).pageKept _).trans (Dev.setFarPoison_pageKept _ c cli false)).trans (Dev.putFar_pageKept _ c cli v)

theorem Dev.putLine_pageKept (v : Line) (po : Bool) : PageKept (pageKey c (cli / 64)) d (d.putLine c cli v po) := by
  unfold Dev.putLine
  split
  · next h held =>
    split
    · exact d.modHeldPage_pageKept c (mergeHeld (cli % 64) v po) (fun _ => ⟨rfl, rfl⟩) held
    · exact d.putPlain_pageKept c cli v po
  · exact d.putPlain_pageKept c cli v po

/-- A store leaves alone all that its own page does not hold, whatever becomes of it. -/
theorem Dev.farStore_pageKept (v : Line) (po : Bool) : PageKept (pageKey c (cli / 64)) d (d.farStore c cli v po) := by
  rw [d.farStore_eq]
  split
  · exact .refl _ d
  · split
    · exact (d.raise_farKept _).pageKept _
    · exact (d.openPage_pageKept c cli).trans (Dev.putLine_pageKept _ c cli v po)

/-! ### Reading a line of an open page -/

/-- What DRAM holds of a line. -/
def Dev.plainView : Line × Bool :=
  if d.mem.farPoison.has (farKey c cli) then (0, true) else (Memory.line d.mem.far (farKey c cli), false)

/-- What the rekey holds of a line of its page (R228). -/
def heldView (h : RekeyPage) (k : Nat) : Line × Bool := if h.poison.getLsbD k then (0, true) else (Sparse.get 0 h.held k, false)

variable {d c cli} in
theorem PageOpen.farView (h : PageOpen c (cli / 64) d) : d.farView c cli =
    match d.heldPage c (cli / 64) with
    | some p => if p.got.getLsbD (cli % 64) then heldView p (cli % 64) else d.plainView c cli
    | none => d.plainView c cli := by
  simp only [Dev.farView, Dev.farFresh, h.present, h.clean, h.written, h.kept]
  rfl

theorem Dev.putPlain_poison (v : Line) (po : Bool) : (d.putPlain c cli v po).mem.farPoison.has (farKey c cli) = po := by
  cases po with
  | true => exact Sparse.get_put_same false d.mem.farPoison (farKey c cli) true
  | false => exact Sparse.get_put_same false _ (farKey c cli) false

theorem Dev.putPlain_line (v : Line) : Memory.line (d.putPlain c cli v false).mem.far (farKey c cli) = v :=
  Memory.line_setLine_same _ _ _

theorem Dev.plainView_putPlain (v : Line) (po : Bool) : (d.putPlain c cli v po).plainView c cli = (if po then 0 else v, po) := by
  rw [Dev.plainView, d.putPlain_poison]
  cases po with
  | true => rfl
  | false => rw [d.putPlain_line]; rfl

theorem Dev.putPlain_heldPage (v : Line) (po : Bool) (c' pg : Nat) : (d.putPlain c cli v po).heldPage c' pg = d.heldPage c' pg := by
  unfold Dev.putPlain
  split
  · simp only [Dev.heldPage, Dev.putFar, Dev.setFarPoison]
  · exact (d.countWrite_farKept c (cli / 64) (cli % 64)).held c' pg

theorem Dev.putPlain_pageOpen (v : Line) (po : Bool) {pg : Nat} (h : PageOpen c pg d) : PageOpen c pg (d.putPlain c cli v po) := by
  unfold Dev.putPlain
  split
  · exact Dev.putFar_pageOpen _ c _ _ (d.setFarPoison_pageOpen c _ _ h)
  · exact Dev.putFar_pageOpen _ c _ _ (Dev.setFarPoison_pageOpen _ c _ _ ((d.countWrite_farKept _ _ _).pageOpen h))

theorem getLsbD_oneBit (k : Nat) (h : k < 64) : (BitVec.ofNat 64 (2 ^ k)).getLsbD k = true := by
  rw [BitVec.getLsbD_ofNat, Nat.testBit_two_pow_self, decide_eq_true h, Bool.and_self]

theorem heldView_mergeHeld (k : Nat) (inside : k < 64) (v : Line) (po : Bool) (h : RekeyPage) :
    heldView (mergeHeld k v po h) k = (if po then 0 else v, po) := by
  cases po with
  | true =>
    refine if_pos ?_
    simp only [mergeHeld, if_true, BitVec.getLsbD_or, getLsbD_oneBit k inside, Bool.or_true]
  | false =>
    refine (if_neg ?_).trans (congrArg (·, false) (Sparse.get_put_same _ _ _ _))
    simp only [mergeHeld, Bool.false_eq_true, if_false, BitVec.getLsbD_and, BitVec.getLsbD_not, getLsbD_oneBit k inside, Bool.not_true,
      Bool.and_false, not_false_eq_true]

theorem Dev.farView_putLine (v : Line) (po : Bool) (h : PageOpen c (cli / 64) d) :
    (d.putLine c cli v po).farView c cli = (if po then 0 else v, po) := by
  have plain := d.plainView_putPlain c cli v po
  have still := (d.putPlain_pageOpen c cli v po h).farView
  rw [d.putPlain_heldPage] at still
  unfold Dev.putLine
  cases held : d.heldPage c (cli / 64) with
  | none => simpa only [held, plain] using still
  | some p =>
    rw [held] at still
    dsimp only at still ⊢
    split
    · next got =>
      rw [(d.modHeldPage_pageOpen c _ h).farView, d.heldPage_modHeldPage c (mergeHeld (cli % 64) v po) fun _ => ⟨rfl, rfl⟩, if_pos rfl, held]
      simp only [Option.map_some, heldView_mergeHeld _ (Nat.mod_lt cli (by decide : 0 < 64))]
      exact if_pos got
    · next absent => rw [still, if_neg absent, plain]

/-- A page that a store elsewhere leaves alone reads as before. -/
theorem PageKept.farView {a b : Dev} {P : Nat} (h : PageKept P a b) {c cli : Nat} (hc : c < 8) (page : pageKey c (cli / 64) ≠ P)
    (base : lostBase c ≠ P) : b.farView c cli = a.farView c cli := by
  have key : farKey c cli / 64 ≠ P := farKey_div c cli ▸ page
  simp only [Dev.farView, Dev.farFresh, Dev.lostPage, h.line _ key, h.poison _ key, h.written _ page, h.lostFresh _ page, h.lostFresh _ base,
    h.held _ _ page, FarRegs.farLost h.reg hc, FarRegs.inSubtree h.reg h.farCh]
  rfl

/-! ### Crema lines -/

theorem Dev.cremaView_cremaStore_same (g l : Nat) (v : Line) (po : Bool) :
    (d.cremaStore g l v po).cremaView g l = (if po then 0 else v, po) := by
  have poison : (d.cremaStore g l v po).mem.cremaPoison.has (cremaKey g l) = po := Sparse.get_put_same false d.mem.cremaPoison _ po
  have line : Memory.line (d.cremaStore g l v po).mem.crema (cremaKey g l) = if po then 0 else v := Memory.line_setLine_same _ _ _
  rw [Dev.cremaView, poison, line]
  cases po <;> rfl

theorem Dev.cremaView_cremaStore_ne {g l g' l' : Nat} (v : Line) (po : Bool) (other : cremaKey g' l' ≠ cremaKey g l) :
    (d.cremaStore g l v po).cremaView g' l' = d.cremaView g' l' := by
  simp only [Dev.cremaView, Dev.cremaStore, Dev.putCrema, NatSet.has, Sparse.get_put_ne _ _ _ _ other, Memory.line_setLine_ne _ _ other]
  rfl

end

/-- The stored pages of a channel have keys of their own. -/
theorem pageKey_ne {c c' pg pg' : Nat} (h : pg < 2 ^ 28) (h' : pg' < 2 ^ 28) (other : (c, pg) ≠ (c', pg')) :
    pageKey c' pg' ≠ pageKey c pg := by
  intro same
  simp only [pageKey] at same
  exact other (by rw [Prod.mk.injEq]; omega)

theorem lostBase_ne_pageKey {c pg : Nat} (hc : c < 8) (h : pg < 2 ^ 28) (c' : Nat) : lostBase c' ≠ pageKey c pg := by
  simp only [lostBase, pageKey]; omega

/-- Settles O58: a store opens its page and then puts the line where its reader looks for it; both parts stay within the page. -/
theorem storedLinesReadBack : Obligations.StoredLinesReadBack := by
  refine ⟨fun d g l g' l' v po => ⟨?same, ?other, ?crema⟩, fun d c cli v po present clean kept => ?back,
    fun d c cli c' cli' v po hc hc' hl hl' other => ?pages, fun d c cli v po => ⟨?lost, ?wf, ?near⟩⟩
  case same => exact d.cremaView_cremaStore_same g l v po
  case other => exact d.cremaView_cremaStore_ne v po
  case crema => exact Memory.wf_setLine _ _ _
  case back =>
    rw [d.farStore_open c cli v po present clean]
    exact Dev.farView_putLine _ c cli v po (d.openPage_pageOpen c cli present clean kept)
  case pages =>
    have page : cli / 64 < 2 ^ 28 := by omega
    exact (d.farStore_pageKept c cli v po).farView hc' (pageKey_ne page (by omega) other) (lostBase_ne_pageKey hc page c')
  case lost => exact d.farStore_lost c cli v po
  case wf => exact (d.farStore_pageKept c cli v po).wf
  case near => exact (d.farStore_pageKept c cli v po).crema

end Sys2Proof.Machine

namespace Sys2Proof.Machine

/-! ### Commands of the fabric manager (R342, R468) -/

section
variable {d : Dev}

theorem Dev.fmCommand_taken (run : Dev → Dev) (taken : FmTaken d) : d.fmCommand run = run d := by
  obtain ⟨cold, fill, boot, halt, halted, running, recovery⟩ := taken
  simp [Dev.fmCommand, cold, fill, boot, halt, halted, running, recovery]

theorem Dev.fmChange_taken (run : Dev → Dev) (taken : FmTaken d) (writable : d.flag Fld.glbSecCtl_mctpRo = false) :
    d.fmChange run = run d := by
  rw [Dev.fmChange, Dev.fmCommand_taken _ taken, writable]
  rfl

theorem Dev.fmChange_readOnly (run : Dev → Dev) (taken : FmTaken d) (readOnly : d.flag Fld.glbSecCtl_mctpRo = true) :
    d.fmChange run = d.emit (.fmapi rcSecurity []) := by
  rw [Dev.fmChange, Dev.fmCommand_taken _ taken, if_pos readOnly]

end

/-- A command of the manager that only answers. -/
theorem Completes.only_answers {c : Instr} {s : State} {f : Dev → Dev} (o : Out) (hc : exec c s = s.on f) (answers : f s.dev = s.dev.emit o) :
    Completes c s fun d => d.out.head? = some o ∧ d.tenants = s.dev.tenants ∧ d.ext = s.dev.ext ∧ d.regs = s.dev.regs :=
  .of_settle hc (by rw [answers]; exact ⟨rfl, rfl, rfl, rfl⟩)

/-- With MCTP read-only, a command of the manager that would change state is refused. -/
theorem Completes.readOnly_refused {c : Instr} {s : State} {run : Dev → Dev} (hc : exec c s = s.on fun d => d.fmChange run)
    (taken : FmTaken s.dev) (readOnly : s.dev.flag Fld.glbSecCtl_mctpRo = true) :
    Completes c s fun d => d.out.head? = some (.fmapi rcSecurity []) ∧ d.tenants = s.dev.tenants ∧ d.ext = s.dev.ext ∧ d.regs = s.dev.regs :=
  .only_answers _ hc (Dev.fmChange_readOnly run taken readOnly)

theorem Completes.imp {c : Instr} {s : State} {P Q : Dev → Prop} (h : Completes c s P) (weaker : ∀ d, P d → Q d) : Completes c s Q := by
  obtain ⟨t, ht, empty, hP⟩ := h
  exact ⟨t, ht, empty, weaker _ hP⟩

/-! ### The record of a tenant -/

theorem Dev.tenant_modTenant_same (d : Dev) (t : TenantId) (f : Tenant → Tenant) : (d.modTenant t f).tenant t = f (d.tenant t) := by
  simp [Dev.tenant, Dev.modTenant, vmod]

theorem Dev.tenant_of_tenants {a b : Dev} (h : b.tenants = a.tenants) (t : TenantId) : b.tenant t = a.tenant t := by
  simp only [Dev.tenant, h]

/-! ### An entry of the extent table (R66) -/

theorem bitOf_le (b : Bool) : bitOf b ≤ 1 := by cases b <;> decide

theorem bitOf_eq_one (b : Bool) : decide (bitOf b = 1) = b := by cases b <;> decide

section
variable (v c pend far : Bool) (member block : Nat)

theorem extV_mkExt : extV (mkExt v c pend member far block) = v := by
  have hc := bitOf_le c
  have hp := bitOf_le pend
  have hf := bitOf_le far
  have hv := bitOf_le v
  rw [extV, mkExt, BitVec.getLsbD_ofNat, Nat.testBit_eq_decide_div_mod_eq]
  refine .trans ?_ (bitOf_eq_one v)
  simp only [Nat.reduceLT, decide_true, Bool.true_and]
  congr 2
  omega

theorem extPend_mkExt : extPend (mkExt v c pend member far block) = pend := by
  have hf := bitOf_le far
  have hp := bitOf_le pend
  rw [extPend, mkExt, BitVec.getLsbD_ofNat, Nat.testBit_eq_decide_div_mod_eq]
  refine .trans ?_ (bitOf_eq_one pend)
  simp only [Nat.reduceLT, decide_true, Bool.true_and]
  congr 2
  omega

theorem extBlock_mkExt : extBlock (mkExt v c pend member far block) = block % 2 ^ 16 := by
  simp only [extBlock, mkExt, fieldOf, BitVec.toNat_ofNat]
  omega

end

end Sys2Proof.Machine

namespace Sys2Proof.Machine

/-! ### Offers (R89) -/

/-- The entry of a block that is offered: PEND = 1 and V = 0. -/
def offeredEntry (w : Word) : Word := mkExt false (extC w) true (extMember w) (extFar w) (extBlock w)

theorem extBlock_offeredEntry (w : Word) : extBlock (offeredEntry w) = extBlock w := by
  rw [offeredEntry, extBlock_mkExt]
  exact Nat.mod_eq_of_lt (Nat.mod_lt _ (by decide))

/-- Words written as offered into entries. -/
def Dev.offerEntries (d : Dev) (pairs : List (Nat × Word)) : Dev := pairs.foldl (fun d x => d.setExt x.1 (offeredEntry x.2)) d

theorem Dev.offer_eq (d : Dev) (t : TenantId) (region tag : Nat) (entries : List Nat) (words : List Word) :
    d.offer t region tag entries words =
      let e := d.offerEntries (entries.zip words)
      (e.modTenant t fun s => { s with dc := s.dc ++ (entries.zip words).map fun (x : Nat × Word) => (⟨x.1, region, tag, false, none⟩ : DcExtent) }).emit
        (.dcEvent (e.tntPort t) (e.tntLd t) 0 ((entries.zip words).map fun (x : Nat × Word) => x.1 - e.extBase t)) := rfl

section
variable (d : Dev) (pairs : List (Nat × Word))

/-- Only the extent table and its merge buffer change. -/
theorem Dev.offerEntries_frame : (d.offerEntries pairs).regs = d.regs ∧ (d.offerEntries pairs).tenants = d.tenants ∧
    (d.offerEntries pairs).mem = d.mem := by
  induction pairs generalizing d with
  | nil => exact ⟨rfl, rfl, rfl⟩
  | cons x rest ih =>
    obtain ⟨regs, tenants, mem⟩ := ih (d.setExt x.1 (offeredEntry x.2))
    exact ⟨regs.trans (d.setExt_regs _ _), tenants.trans (d.setExt_tenants _ _), mem.trans (d.setExt_mem _ _)⟩

theorem Dev.extAt_setExt_same (i : Nat) (w : Word) : (d.setExt i w).extAt i = w := Sparse.get_put_same (0 : Word) d.ext i w

theorem Dev.extAt_setExt_ne {i j : Nat} (w : Word) (h : j ≠ i) : (d.setExt i w).extAt j = d.extAt j :=
  Sparse.get_put_ne (0 : Word) 0 d.ext w h

theorem Dev.offerEntries_extAt_of_notMem {i : Nat} (h : i ∉ pairs.map Prod.fst) : (d.offerEntries pairs).extAt i = d.extAt i := by
  induction pairs generalizing d with
  | nil => rfl
  | cons x rest ih =>
    rw [List.map_cons, List.mem_cons, not_or] at h
    exact (ih _ h.2).trans (d.extAt_setExt_ne _ h.1)

/-- Where the entries are distinct, each holds the offer of its own word. -/
theorem Dev.offerEntries_extAt (distinct : (pairs.map Prod.fst).Nodup) {i : Nat} {w : Word} (h : (i, w) ∈ pairs) :
    (d.offerEntries pairs).extAt i = offeredEntry w := by
  induction pairs generalizing d with
  | nil => cases h
  | cons x rest ih =>
    rw [List.map_cons, List.nodup_cons] at distinct
    obtain rfl | later := List.mem_cons.1 h
    · exact (Dev.offerEntries_extAt_of_notMem _ rest distinct.1).trans (d.extAt_setExt_same _ _)
    · exact ih _ distinct.2 later

end

theorem Dev.freeRegionEntries_nodup (d : Dev) (t : TenantId) (r : Nat) : (d.freeRegionEntries t r).Nodup :=
  ((List.nodup_range).map fun _ _ same => Nat.add_left_cancel same).filter _

/-! ### Answers that wait for the next boundary (R89, R90) -/

/-- The extents that `pick` names get their answers, and nothing else of the tenant changes. -/
theorem Dev.answerDc_dc (d : Dev) (t : TenantId) (pick answer : DcExtent → Bool) :
    ((d.answerDc t fun e => if pick e then some (answer e) else none).tenant t).dc =
      (d.tenant t).dc.map fun e => if pick e then { e with answer := some (answer e) } else e := by
  rw [Dev.answerDc, Dev.tenant_modTenant_same]
  refine List.map_congr_left fun e _ => ?_
  cases pick e <;> rfl

/-- Blocks are known when each stands behind one of the extents picked out. -/
theorem all_any_filter_iff {α β : Type} [BEq β] [LawfulBEq β] (p : α → Bool) (key : α → β) (l : List α) (bs : List β) :
    (bs.all fun b => (l.filter p).any fun e => key e == b) = true ↔ ∀ b ∈ bs, ∃ e ∈ l, p e = true ∧ key e = b := by
  simp

section
variable {d : Dev} {t : TenantId} {p : PortId} {ld : Nat}

theorem bodyAddResponse_known (acc : List Nat) (owner : d.tenantOf p ld = some t)
    (known : ∀ b ∈ acc, ∃ e ∈ (d.tenant t).dc, e.accepted = false ∧ e.answer = none ∧ d.dcBlock t e = b) :
    bodyAddResponse p ld acc d = (d.answerDc t fun e =>
      if !e.accepted && e.answer.isNone then some (acc.contains (d.dcBlock t e)) else none).complete (portIface p) 0x4802 rcSuccess [] := by
  have all := (all_any_filter_iff (fun e : DcExtent => !e.accepted && e.answer.isNone) (d.dcBlock t) _ acc).2 (by simpa [and_assoc] using known)
  simp only [bodyAddResponse, owner, all, if_true]
  rfl

theorem bodyAddResponse_unknown {acc : List Nat} {b : Nat} (owner : d.tenantOf p ld = some t) (named : b ∈ acc)
    (unknown : ∀ e ∈ (d.tenant t).dc, e.accepted = false → e.answer = none → d.dcBlock t e ≠ b) :
    bodyAddResponse p ld acc d = d.complete (portIface p) 0x4802 rcExtents [] := by
  have notAll := mt (all_any_filter_iff (fun e : DcExtent => !e.accepted && e.answer.isNone) (d.dcBlock t) _ acc).1 fun known => by
    obtain ⟨e, mem, offered, here⟩ := known b named
    simp only [Bool.and_eq_true, Bool.not_eq_true', Option.isNone_iff_eq_none] at offered
    exact unknown e mem offered.1 offered.2 here
  simp only [bodyAddResponse, owner, notAll]
  rfl

theorem bodyReleaseDc_known (bs : List Nat) (owner : d.tenantOf p ld = some t)
    (known : ∀ b ∈ bs, ∃ e ∈ (d.tenant t).dc, e.accepted = true ∧ d.dcBlock t e = b) :
    bodyReleaseDc p ld bs d = (d.answerDc t fun e =>
      if e.accepted && bs.contains (d.dcBlock t e) then some false else none).complete (portIface p) 0x4803 rcSuccess [] := by
  have all := (all_any_filter_iff (fun e : DcExtent => e.accepted) (d.dcBlock t) _ bs).2 known
  simp only [bodyReleaseDc, owner, all, if_true]
  rfl

theorem bodyReleaseDc_unknown {bs : List Nat} {b : Nat} (owner : d.tenantOf p ld = some t) (named : b ∈ bs)
    (unknown : ∀ e ∈ (d.tenant t).dc, e.accepted = true → d.dcBlock t e ≠ b) :
    bodyReleaseDc p ld bs d = d.complete (portIface p) 0x4803 rcExtents [] := by
  have notAll := mt (all_any_filter_iff (fun e : DcExtent => e.accepted) (d.dcBlock t) _ bs).1 fun known => by
    obtain ⟨e, mem, held, here⟩ := known b named
    exact unknown e mem held here
  simp only [bodyReleaseDc, owner, notAll]
  rfl

end

/-! ### The length of a region (R88) -/

theorem Dev.extLen_lt (d : Dev) (t : TenantId) : d.extLen t < 2 ^ 19 := Nat.mod_lt _ (Nat.two_pow_pos 19)

theorem Dev.resizeRange_shrunk {d : Dev} {t : TenantId} {len : Nat} (h : len ≤ d.extLen t) : ∃ retired,
    d.resizeRange t len = some ({ d with extRetire := retired }.setFld (Fld.tntExtLen_len t.val) len) := by
  simp only [Dev.resizeRange, h, if_true]
  exact ⟨_, rfl⟩

/-- The registers alone decide what a field reads. -/
theorem Dev.fld_of_regs {a b : Dev} (h : b.regs = a.regs) (f : Fld) : b.fld f = a.fld f := by
  simp only [Dev.fld, Dev.reg, h]

/-- A region of a tenant with its length changed. -/
def Dev.setRegionLen (d : Dev) (t : TenantId) (r len : Nat) : Dev :=
  d.modTenant t fun s => { s with regions := vmod s.regions r fun (r : DcRegion) => { r with len := len } }

theorem Dev.dcRegion_setRegionLen (d : Dev) (t : TenantId) (r : Fin 8) (len : Nat) :
    dcRegion (d.setRegionLen t r.val len) t r.val = { dcRegion d t r.val with len := len } := by
  rw [dcRegion, Dev.setRegionLen, Dev.tenant_modTenant_same, vget_vmod, if_pos ⟨rfl, r.isLt⟩]
  rfl

theorem dcRegion_of_tenants {a b : Dev} (h : b.tenants = a.tenants) (t : TenantId) (r : Nat) : dcRegion b t r = dcRegion a t r := by
  simp only [dcRegion, Dev.tenant, h]

/-- A tenant with its table range `len` entries long and a region of it `n` blocks long, of which the CDAT of its LD is to tell. -/
def Dev.resizeRegion (d : Dev) (t : TenantId) (r len n : Nat) (p : PortId) (ld : Nat) : Dev :=
  ((d.setFld (Fld.tntExtLen_len t.val) len).setRegionLen t r n).cdatChanged p ld

theorem Dev.resizeRegion_reads (d : Dev) (t : TenantId) (r : Fin 8) (len n : Nat) (fits : len < 2 ^ 19) (p : PortId) (ld : Nat) :
    (dcRegion (d.resizeRegion t r.val len n p ld) t r.val).len = n ∧ (d.resizeRegion t r.val len n p ld).extLen t = len ∧
      (d.resizeRegion t r.val len n p ld).extBase t = d.extBase t := by
  have regs : (d.resizeRegion t r.val len n p ld).regs = (d.setFld (Fld.tntExtLen_len t.val) len).regs := Dev.modLd_regs _ _ _ _
  have tenants : (d.resizeRegion t r.val len n p ld).tenants = _ := Dev.modLd_tenants _ _ _ _
  refine ⟨?_, ?_, ?_⟩
  · exact congrArg DcRegion.len ((dcRegion_of_tenants tenants t r.val).trans (Dev.dcRegion_setRegionLen _ t r n))
  · exact ((Dev.fld_of_regs regs _).trans (d.fld_setFld_same _ _ (by simp [Fld.tntExtLen_len]))).trans (Nat.mod_eq_of_lt fits)
  · exact (Dev.fld_of_regs regs _).trans (d.fld_setFld_apart _ _ _
      (by simp [Fld.apart, Fld.tntExtLen_len, Fld.tntExtBase_base, Off.tntExtLen, Off.tntExtBase]))

/-! ### The commands themselves -/

section
variable (s : State) (t : TenantId)

theorem exec_initiateDynamicCapacityAdd (r : Fin 8) (n tag : Nat) : exec (.initiateDynamicCapacityAdd t r n tag) s = s.on fun d => d.fmChange fun d =>
    let reg := dcRegion d t r.val
    if d.tntState t ≠ 1 ∨ reg.medium = 0 ∨ n = 0 then d.emit (.fmapi rcInvalidInput [])
    else if d.stagedTenant t then d.emit (.fmapi rcBusy [])
    else
      let entries := (d.freeRegionEntries t r.val).take n
      let words := (d.regionWords reg (d.tenant t).members).take n
      if entries.length < n ∨ words.length < n then d.emit (.fmapi rcResources [])
      else (d.offer t r.val tag entries words).emit (.fmapi rcSuccess []) := rfl

theorem exec_addDynamicCapacityResponse (p : PortId) (ld : Nat) (acc : List Nat) : exec (.addDynamicCapacityResponse p ld acc) s =
    s.on fun d => d.mailbox (portIface p) (.addDynamicCapacityResponse p ld acc) 0x4802 (bodyAddResponse p ld acc) := rfl

theorem exec_releaseDynamicCapacity (p : PortId) (ld : Nat) (bs : List Nat) : exec (.releaseDynamicCapacity p ld bs) s =
    s.on fun d => d.mailbox (portIface p) (.releaseDynamicCapacity p ld bs) 0x4803 (bodyReleaseDc p ld bs) := rfl

theorem exec_initiateDynamicCapacityRelease (bs : List Nat) (forced : Bool) : exec (.initiateDynamicCapacityRelease t bs forced) s =
    s.on fun d => d.fmChange fun d =>
    let named := (d.tenant t).dc.filter fun (e : DcExtent) => bs.contains (d.dcBlock t e)
    let known := bs.all fun b => named.any fun (e : DcExtent) => d.dcBlock t e == b
    if d.tntState t = 0 ∨ !known then d.emit (.fmapi rcExtents [])
    else
      if forced then
        let e := named.foldl (fun d e => d.dropExtent t e) d
        ((e.emit (.dcEvent (d.tntPort t) (d.tntLd t) 2 bs)).floorMoved).emit (.fmapi rcSuccess [])
      else
        let ask := (named.filter fun (e : DcExtent) => e.accepted).map (d.dcBlock t)
        let a := d.answerDc t fun e => if !e.accepted && bs.contains (d.dcBlock t e) then some false else none
        (if ask.isEmpty then a else a.emit (.dcEvent (d.tntPort t) (d.tntLd t) 1 ask)).emit (.fmapi rcSuccess []) := rfl

theorem exec_setDcRegionConfiguration (r : Fin 8) (blockBytes len : Nat) : exec (.setDcRegionConfiguration t r blockBytes len) s =
    s.on fun d => d.fmChange fun d =>
    let reg := dcRegion d t r.val
    let holds := (d.tenant t).dc.any fun (e : DcExtent) => decide (r.val ≤ e.region)
    if d.tntState t ≠ 1 ∨ reg.medium = 0 ∨ blockBytes ≠ 2 ^ 28 ∨ holds then d.emit (.fmapi rcInvalidInput [])
    else if d.stagedTenant t then d.emit (.fmapi rcBusy [])
    else match d.resizeRange t (d.extLen t - reg.len + len) with
      | none => d.emit (.fmapi rcResources [])
      | some d => ((d.setRegionLen t r.val len).cdatChanged (d.tntPort t) (d.tntLd t)).emit (.fmapi rcSuccess []) := rfl

theorem exec_getDcRegionExtentLists : exec (.getDcRegionExtentLists t) s = s.on fun d => d.fmCommand fun d =>
    d.emit (.fmapi rcSuccess (((d.tenant t).dc.filter fun (e : DcExtent) => e.accepted).flatMap fun (e : DcExtent) => [e.region, d.dcBlock t e, e.tag])) := rfl

end

end Sys2Proof.Machine

namespace Sys2Proof.Machine

/-! ### Dynamic capacity, command by command (R88 to R90, R342) -/

theorem mem_zip_of_getD {es : List Nat} {ws : List Word} {k : Nat} (he : k < es.length) (hw : k < ws.length) :
    (es.getD k 0, ws.getD k 0) ∈ es.zip ws := by
  rw [List.getD_eq_getElem _ _ he, List.getD_eq_getElem _ _ hw, ← List.getElem_zip (h := by simp [he, hw])]
  exact List.getElem_mem _

/-- What an offer does, for as many entries as words. -/
theorem Dev.offer_offers (d : Dev) (t : TenantId) (r tag : Nat) {es : List Nat} {ws : List Word} (distinct : es.Nodup)
    (same : ws.length = es.length) :
    ((d.offer t r tag es ws).tenant t).dc = (d.tenant t).dc ++ es.map (fun e => (⟨e, r, tag, false, none⟩ : DcExtent)) ∧
      .dcEvent (d.tntPort t) (d.tntLd t) 0 (es.map fun e => e - d.extBase t) ∈ (d.offer t r tag es ws).out ∧
      (∀ k < es.length, (d.offer t r tag es ws).extAt (es.getD k 0) = offeredEntry (ws.getD k 0)) ∧
      (d.offer t r tag es ws).mem = d.mem := by
  obtain ⟨regs, tenants, mem⟩ := d.offerEntries_frame (es.zip ws)
  have firsts : (es.zip ws).map Prod.fst = es := List.map_fst_zip (Nat.le_of_eq same.symm)
  have each {β : Type} (f : Nat → β) : (es.zip ws).map (fun x => f x.1) = es.map f := by
    rw [← congrArg (List.map f) firsts, List.map_map]
    rfl
  rw [Dev.offer_eq]
  refine ⟨?dc, ?event, fun k hk => ?entry, ?mem⟩
  case dc =>
    have offered := Dev.tenant_modTenant_same (d.offerEntries (es.zip ws)) t fun s =>
      { s with dc := s.dc ++ (es.zip ws).map fun (x : Nat × Word) => (⟨x.1, r, tag, false, none⟩ : DcExtent) }
    refine (congrArg Tenant.dc offered).trans ?_
    rw [Dev.tenant_of_tenants tenants t]
    exact congrArg ((d.tenant t).dc ++ ·) (each fun e => (⟨e, r, tag, false, none⟩ : DcExtent))
  case event =>
    refine List.mem_cons.2 (.inl ?_)
    simp only [Dev.tntPort, Dev.tntLd, Dev.extBase, Dev.fld_of_regs regs]
    exact congrArg _ (each fun e => e - d.fld (Fld.tntExtBase_base t.val)).symm
  case entry => exact Dev.offerEntries_extAt _ _ (firsts.symm ▸ distinct) (mem_zip_of_getD hk (same ▸ hk))
  case mem => exact mem

section
variable {s : State} {t : TenantId}

theorem initiateDynamicCapacityAdd_offers (r : Fin 8) (n tag : Nat) (es : List Nat) (ws : List Word) (taken : FmTaken s.dev)
    (writable : s.dev.flag Fld.glbSecCtl_mctpRo = false) (active : s.dev.tntState t = 1) (medium : (dcRegion s.dev t r.val).medium ≠ 0)
    (nonzero : n ≠ 0) (unstaged : s.dev.stagedTenant t = false) (entries : es = (s.dev.freeRegionEntries t r.val).take n)
    (words : ws = (s.dev.regionWords (dcRegion s.dev t r.val) (s.dev.tenant t).members).take n) (he : es.length = n) (hw : ws.length = n) :
    Completes (.initiateDynamicCapacityAdd t r n tag) s fun d => d.out.head? = some (.fmapi rcSuccess []) ∧
      (d.tenant t).dc = (s.dev.tenant t).dc ++ es.map (fun e => (⟨e, r.val, tag, false, none⟩ : DcExtent)) ∧
      .dcEvent (s.dev.tntPort t) (s.dev.tntLd t) 0 (es.map fun e => e - s.dev.extBase t) ∈ d.out ∧
      (∀ k ∈ List.range n, extV (d.extAt (es.getD k 0)) = false ∧ extPend (d.extAt (es.getD k 0)) = true ∧
        extBlock (d.extAt (es.getD k 0)) = extBlock (ws.getD k 0)) ∧ d.mem = s.dev.mem := by
  refine .of_settle (exec_initiateDynamicCapacityAdd s t r n tag) ?_
  have distinct : es.Nodup := entries ▸ (s.dev.freeRegionEntries_nodup t r.val).take
  obtain ⟨dc, event, entry, mem⟩ := s.dev.offer_offers t r.val tag distinct (hw.trans he.symm)
  rw [Dev.fmChange_taken _ taken writable]
  simp only [← entries, ← words, he, hw, active, medium, nonzero, unstaged, Nat.lt_irrefl, ne_eq, not_true_eq_false, or_self, if_false,
    Bool.false_eq_true]
  refine ⟨rfl, dc, List.mem_cons_of_mem _ event, fun k hk => ?_, mem⟩
  have offered := entry k (he ▸ List.mem_range.1 hk)
  refine (congrArg (fun w => extV w = false ∧ extPend w = true ∧ extBlock w = extBlock (ws.getD k 0)) offered).mpr ?_
  exact ⟨extV_mkExt .., extPend_mkExt .., extBlock_offeredEntry _⟩

theorem initiateDynamicCapacityAdd_exhausted (r : Fin 8) (n tag : Nat) (taken : FmTaken s.dev)
    (writable : s.dev.flag Fld.glbSecCtl_mctpRo = false) (active : s.dev.tntState t = 1) (medium : (dcRegion s.dev t r.val).medium ≠ 0)
    (unstaged : s.dev.stagedTenant t = false) (short : (s.dev.freeRegionEntries t r.val).length < n ∨
      (s.dev.regionWords (dcRegion s.dev t r.val) (s.dev.tenant t).members).length < n) :
    Completes (.initiateDynamicCapacityAdd t r n tag) s fun d => d.out.head? = some (.fmapi rcResources []) ∧ d.tenants = s.dev.tenants ∧
      d.ext = s.dev.ext ∧ d.regs = s.dev.regs := by
  refine .only_answers _ (exec_initiateDynamicCapacityAdd s t r n tag) ?_
  have nonzero : n ≠ 0 := by rintro rfl; omega
  have few : ((s.dev.freeRegionEntries t r.val).take n).length < n ∨
      ((s.dev.regionWords (dcRegion s.dev t r.val) (s.dev.tenant t).members).take n).length < n := by
    simp only [List.length_take]
    omega
  rw [Dev.fmChange_taken _ taken writable]
  simp only [active, medium, nonzero, unstaged, ne_eq, not_true_eq_false, or_self, if_false, Bool.false_eq_true, if_pos few]

theorem initiateDynamicCapacityRelease_withdraws (bs : List Nat) (taken : FmTaken s.dev)
    (writable : s.dev.flag Fld.glbSecCtl_mctpRo = false) (present : s.dev.tntState t ≠ 0)
    (known : ∀ b ∈ bs, ∃ e ∈ (s.dev.tenant t).dc, s.dev.dcBlock t e = b) :
    Completes (.initiateDynamicCapacityRelease t bs false) s fun d => d.out.head? = some (.fmapi rcSuccess []) ∧ d.ext = s.dev.ext ∧
      (d.tenant t).dc = (s.dev.tenant t).dc.map fun e =>
        if e.accepted = false ∧ s.dev.dcBlock t e ∈ bs then { e with answer := some false } else e := by
  refine .of_settle (exec_initiateDynamicCapacityRelease s t bs false) ?_
  have all := (all_any_filter_iff (fun e : DcExtent => bs.contains (s.dev.dcBlock t e)) (s.dev.dcBlock t) _ bs).2 fun b hb => by
    obtain ⟨e, mem, here⟩ := known b hb
    exact ⟨e, mem, by simpa [here] using hb, here⟩
  rw [Dev.fmChange_taken _ taken writable]
  simp only [all, present, Bool.not_true, Bool.false_eq_true, or_self, if_false]
  have answered := s.dev.answerDc_dc t (fun e => !e.accepted && bs.contains (s.dev.dcBlock t e)) fun _ => false
  simp only [Bool.and_eq_true, Bool.not_eq_true', List.contains_iff_mem] at answered ⊢
  split
  · exact ⟨rfl, rfl, answered⟩
  · exact ⟨rfl, rfl, answered⟩

theorem initiateDynamicCapacityRelease_unknown {b : Nat} {bs : List Nat} (forced : Bool) (taken : FmTaken s.dev)
    (writable : s.dev.flag Fld.glbSecCtl_mctpRo = false) (named : b ∈ bs) (unknown : ∀ e ∈ (s.dev.tenant t).dc, s.dev.dcBlock t e ≠ b) :
    Completes (.initiateDynamicCapacityRelease t bs forced) s fun d => d.out.head? = some (.fmapi rcExtents []) ∧ d.tenants = s.dev.tenants ∧
      d.ext = s.dev.ext ∧ d.regs = s.dev.regs := by
  refine .only_answers _ (exec_initiateDynamicCapacityRelease s t bs forced) ?_
  have notAll := mt (all_any_filter_iff (fun e : DcExtent => bs.contains (s.dev.dcBlock t e)) (s.dev.dcBlock t) _ bs).1 fun known => by
    obtain ⟨e, mem, -, here⟩ := known b named
    exact unknown e mem here
  rw [Dev.fmChange_taken _ taken writable]
  simp only [notAll, Bool.not_false, or_true, if_true]

theorem setDcRegionConfiguration_shrinks (r : Fin 8) (n : Nat) (taken : FmTaken s.dev)
    (writable : s.dev.flag Fld.glbSecCtl_mctpRo = false) (active : s.dev.tntState t = 1) (medium : (dcRegion s.dev t r.val).medium ≠ 0)
    (before : ∀ e ∈ (s.dev.tenant t).dc, e.region < r.val) (unstaged : s.dev.stagedTenant t = false)
    (shorter : n ≤ (dcRegion s.dev t r.val).len) (inside : (dcRegion s.dev t r.val).len ≤ s.dev.extLen t) :
    Completes (.setDcRegionConfiguration t r (2 ^ 28) n) s fun d => d.out.head? = some (.fmapi rcSuccess []) ∧
      (dcRegion d t r.val).len = n ∧ d.extLen t = s.dev.extLen t - (dcRegion s.dev t r.val).len + n ∧ d.extBase t = s.dev.extBase t := by
  refine .of_settle (exec_setDcRegionConfiguration s t r (2 ^ 28) n) ?_
  have free : ((s.dev.tenant t).dc.any fun e => decide (r.val ≤ e.region)) = false := by simpa using before
  have within : s.dev.extLen t - (dcRegion s.dev t r.val).len + n ≤ s.dev.extLen t := by omega
  obtain ⟨retired, resized⟩ := Dev.resizeRange_shrunk within
  rw [Dev.fmChange_taken _ taken writable]
  simp only [active, medium, free, unstaged, resized, ne_eq, not_true_eq_false, or_self, if_false, Bool.false_eq_true]
  exact ⟨rfl, Dev.resizeRegion_reads _ t r _ n (Nat.lt_of_le_of_lt within (s.dev.extLen_lt t)) _ _⟩

theorem getDcRegionExtentLists_lists (taken : FmTaken s.dev) :
    Completes (.getDcRegionExtentLists t) s fun d => d.out.head? =
      some (.fmapi rcSuccess (((s.dev.tenant t).dc.filter fun e => e.accepted).flatMap fun e => [e.region, s.dev.dcBlock t e, e.tag])) ∧
      d.tenants = s.dev.tenants ∧ d.ext = s.dev.ext ∧ d.regs = s.dev.regs :=
  .only_answers _ (exec_getDcRegionExtentLists s t) (Dev.fmCommand_taken _ taken)

theorem addDynamicCapacityResponse_known {p : PortId} {ld : Nat} (acc : List Nat) (taken : s.dev.takesNow (portIface p) 0x4802)
    (owner : s.dev.tenantOf p ld = some t)
    (known : ∀ b ∈ acc, ∃ e ∈ (s.dev.tenant t).dc, e.accepted = false ∧ e.answer = none ∧ s.dev.dcBlock t e = b) :
    Completes (.addDynamicCapacityResponse p ld acc) s fun d => d.answered (portIface p) rcSuccess 0x4802 [] ∧ d.ext = s.dev.ext ∧
      (d.tenant t).dc = (s.dev.tenant t).dc.map fun e =>
        if e.accepted = false ∧ e.answer = none then { e with answer := some (acc.contains (s.dev.dcBlock t e)) } else e := by
  refine .of_settle (exec_addDynamicCapacityResponse s p ld acc) ?_
  have answered := s.dev.answerDc_dc t (fun e => !e.accepted && e.answer.isNone) fun e => acc.contains (s.dev.dcBlock t e)
  rw [Dev.mailbox_now _ _ _ _ _ taken, bodyAddResponse_known acc owner known]
  refine ⟨Dev.complete_answered _ _ _ _ _, Dev.complete_ext _ _ _ _ _, ?_⟩
  simp only [Bool.and_eq_true, Bool.not_eq_true', Option.isNone_iff_eq_none] at answered ⊢
  exact (congrArg Tenant.dc (Dev.tenant_of_tenants (Dev.complete_tenants _ _ _ _ _) t)).trans answered

theorem addDynamicCapacityResponse_unknown {p : PortId} {ld b : Nat} {acc : List Nat} (taken : s.dev.takesNow (portIface p) 0x4802)
    (owner : s.dev.tenantOf p ld = some t) (named : b ∈ acc)
    (unknown : ∀ e ∈ (s.dev.tenant t).dc, e.accepted = false → e.answer = none → s.dev.dcBlock t e ≠ b) :
    Completes (.addDynamicCapacityResponse p ld acc) s fun d => d.answered (portIface p) rcExtents 0x4802 [] ∧ d.ext = s.dev.ext ∧
      d.tenants = s.dev.tenants := by
  refine .of_settle (exec_addDynamicCapacityResponse s p ld acc) ?_
  rw [Dev.mailbox_now _ _ _ _ _ taken, bodyAddResponse_unknown owner named unknown]
  exact ⟨Dev.complete_answered _ _ _ _ _, Dev.complete_ext _ _ _ _ _, Dev.complete_tenants _ _ _ _ _⟩

theorem releaseDynamicCapacity_known {p : PortId} {ld : Nat} (bs : List Nat) (taken : s.dev.takesNow (portIface p) 0x4803)
    (owner : s.dev.tenantOf p ld = some t) (known : ∀ b ∈ bs, ∃ e ∈ (s.dev.tenant t).dc, e.accepted = true ∧ s.dev.dcBlock t e = b) :
    Completes (.releaseDynamicCapacity p ld bs) s fun d => d.answered (portIface p) rcSuccess 0x4803 [] ∧ d.ext = s.dev.ext ∧
      (d.tenant t).dc = (s.dev.tenant t).dc.map fun e =>
        if e.accepted = true ∧ s.dev.dcBlock t e ∈ bs then { e with answer := some false } else e := by
  refine .of_settle (exec_releaseDynamicCapacity s p ld bs) ?_
  have answered := s.dev.answerDc_dc t (fun e => e.accepted && bs.contains (s.dev.dcBlock t e)) fun _ => false
  rw [Dev.mailbox_now _ _ _ _ _ taken, bodyReleaseDc_known bs owner known]
  refine ⟨Dev.complete_answered _ _ _ _ _, Dev.complete_ext _ _ _ _ _, ?_⟩
  simp only [Bool.and_eq_true, List.contains_iff_mem] at answered ⊢
  exact (congrArg Tenant.dc (Dev.tenant_of_tenants (Dev.complete_tenants _ _ _ _ _) t)).trans answered

theorem releaseDynamicCapacity_unknown {p : PortId} {ld b : Nat} {bs : List Nat} (taken : s.dev.takesNow (portIface p) 0x4803)
    (owner : s.dev.tenantOf p ld = some t) (named : b ∈ bs)
    (unknown : ∀ e ∈ (s.dev.tenant t).dc, e.accepted = true → s.dev.dcBlock t e ≠ b) :
    Completes (.releaseDynamicCapacity p ld bs) s fun d => d.answered (portIface p) rcExtents 0x4803 [] ∧ d.ext = s.dev.ext ∧
      d.tenants = s.dev.tenants := by
  refine .of_settle (exec_releaseDynamicCapacity s p ld bs) ?_
  rw [Dev.mailbox_now _ _ _ _ _ taken, bodyReleaseDc_unknown owner named unknown]
  exact ⟨Dev.complete_answered _ _ _ _ _, Dev.complete_ext _ _ _ _ _, Dev.complete_tenants _ _ _ _ _⟩

end

/-- Settles O26, command by command: what the manager or a host asks for is taken or refused as a whole, and what waits for the next
boundary is noted in the tenant's extents. -/
theorem dynamicCapacityIsOfferedAndReleased : Obligations.DynamicCapacityIsOfferedAndReleased := by
  refine ⟨?offered, ?exhausted, ?responded, ?badResponse, ?released, ?badRelease, ?withdrawn, ?badWithdrawal, ?shrunk, ?addRefused,
    ?releaseRefused, ?regionRefused, ?listed⟩
  case offered =>
    intro s t r n tag es ws taken writable active medium nonzero unstaged entries words he hw
    exact initiateDynamicCapacityAdd_offers r n tag es ws taken writable active medium nonzero unstaged entries words he hw
  case exhausted =>
    intro s t r n tag taken writable active medium unstaged short
    exact (initiateDynamicCapacityAdd_exhausted r n tag taken writable active medium unstaged short).imp fun _ ⟨answer, tenants, ext, _⟩ =>
      ⟨answer, tenants, ext⟩
  case responded =>
    intro s p ld acc t taken owner known
    exact addDynamicCapacityResponse_known acc taken owner known
  case badResponse =>
    intro s p ld b acc t taken owner named unknown
    exact addDynamicCapacityResponse_unknown taken owner named unknown
  case released =>
    intro s p ld bs t taken owner known
    exact releaseDynamicCapacity_known bs taken owner known
  case badRelease =>
    intro s p ld b bs t taken owner named unknown
    exact releaseDynamicCapacity_unknown taken owner named unknown
  case withdrawn =>
    intro s t bs taken writable present known
    exact initiateDynamicCapacityRelease_withdraws bs taken writable present known
  case badWithdrawal =>
    intro s t b bs forced taken writable named unknown
    exact (initiateDynamicCapacityRelease_unknown forced taken writable named unknown).imp fun _ ⟨answer, tenants, ext, _⟩ =>
      ⟨answer, ext, tenants⟩
  case shrunk =>
    intro s t r n taken writable active medium before unstaged shorter inside
    exact setDcRegionConfiguration_shrinks r n taken writable active medium before unstaged shorter inside
  case addRefused => exact fun s t r n tag => .readOnly_refused (exec_initiateDynamicCapacityAdd s t r n tag)
  case releaseRefused => exact fun s t bs forced => .readOnly_refused (exec_initiateDynamicCapacityRelease s t bs forced)
  case regionRefused => exact fun s t r n tag => .readOnly_refused (exec_setDcRegionConfiguration s t r n tag)
  case listed =>
    exact fun s t taken => (getDcRegionExtentLists_lists taken).imp fun _ ⟨answer, tenants, _⟩ => ⟨tenants, answer⟩

end Sys2Proof.Machine

namespace Sys2Proof.Machine

/-! ### An abort of a sanitise whose sequence has not begun (R91, R399) -/

theorem exec_xtBrewAbort (i : Iface) (p : Payload) (s : State) :
    exec (.xtBrewAbort i p) s = s.on fun d => d.mailbox i (.xtBrewAbort i p) 0xC0F0 (bodyBrewAbort i p) := rfl

/-- XT_BREW_ABORT of brew kind 1, sent to chain member 0. -/
def abortSanitise : Payload := [0, 0, 0, 0, 0, 0, 0, 0, 1]

/-- The brew that SANITIZE of LD 0 of Port A starts in `bound`. -/
def sanitiseBrew : Brew := ⟨1, some .mctp, .sanitise 3 false none, 0, 1, false, 0⟩

set_option maxRecDepth 20000 in
/-- SANITIZE starts its brew and leaves the tenant a sequence that waits to begin. An abort ends the brew and drops that sequence. -/
theorem abort_after_sanitize_drops_sequence :
    ∃ s, exec (.sanitize .mctp 0) bound = .next s ∧
      s.dev.takesNow .mctp 0xC0F0 ∧ s.dev.ownPayload abortSanitise 1 ∧ s.dev.mb.fg = some sanitiseBrew ∧
      (s.dev.tenant 3).seq.isSome = true ∧
      ((s.dev.mailbox .mctp (.xtBrewAbort .mctp abortSanitise) 0xC0F0 (bodyBrewAbort .mctp abortSanitise)).tenant 3).seq = none :=
  ⟨_, rfl, by decide, by decide, by decide, by decide, by decide⟩

/-- Refutes O24, in its first clause: the abort of a sanitise takes the sequence that SANITIZE gave its tenant back again as long as it
has not begun, so the tenants do not stay as they were. -/
theorem not_brewsStepAndAbort : ¬ Obligations.BrewsStepAndAbort := by
  unfold Obligations.BrewsStepAndAbort
  rintro ⟨abort_ends, -⟩
  obtain ⟨s, -, taken, own, brew, due, dropped⟩ := abort_after_sanitize_drops_sequence
  have ended := (abort_ends s sanitiseBrew .mctp abortSanitise taken own brew (by decide) (by decide)).settled (exec_xtBrewAbort _ _ _)
  obtain ⟨-, -, -, kept, -⟩ := ended
  rw [settle_tenants] at kept
  rw [← Dev.tenant_of_tenants kept, dropped] at due
  exact absurd due (by decide)

end Sys2Proof.Machine

namespace Sys2Proof.Machine

/-! ### A resize that moves a decoded block of a region without extents (R82, R396) -/

theorem exec_xtTenantResize (i : Iface) (p : Payload) (s : State) :
    exec (.xtTenantResize i p) s = s.on fun d => d.mailbox i (.xtTenantResize i p) 0xC021 (bodyTenantResize i p) := rfl

/-- ACTIVE tenant 3 with one static far block and a region of two blocks behind it, in which no extent stands yet, so that their entries
have V = 0; a decoder of its LD already maps the static block and the first block of the region. -/
def regionDecoded : State :=
  onDev withRegion fun d => d.modLd .a 0 fun l => { l with dec := vmod l.dec 0 fun _ => some ⟨⟨0, 2 ^ 29, 0, 1, 256, false, false, 0⟩, none⟩ }

/-- The body of XT_TENANT_RESIZE of tenant 3 to two static far blocks, from the members in mask 1; region 0 keeps its medium. -/
def growStatic : Payload := [3, 0, 0, 0, 2, 0, 0, 0, 0, 1, 2] ++ List.replicate 13 0

/-- The same sent to chain member 0. -/
def growStaticPayload : Payload := List.replicate 8 0 ++ growStatic

set_option maxRecDepth 20000 in
/-- Growing the static capacity moves the region by one block, and with it a decoded block: the command is refused. -/
theorem growStatic_refused :
    (regionDecoded.dev.mailbox .mctp (.xtTenantResize .mctp growStaticPayload) 0xC021 (bodyTenantResize .mctp growStaticPayload)).out.head? =
      some (.mbox .mctp rcInvalidInput 0xC021 []) := by decide

set_option maxRecDepth 20000 in
/-- Block 1 of the LD is decoded and its entry has V = 0; the decoded block whose entry has V = 1 keeps its word. -/
theorem regionDecoded_blocks :
    regionDecoded.dev.decodedBlock .a 0 1 = true ∧ extV ((regionDecoded.dev.extWords 3).getD 1 0) = false ∧
      (∀ k ∈ List.range (regionDecoded.dev.extLen 3), extV ((regionDecoded.dev.extWords 3).getD k 0) = true →
        (regionDecoded.dev.extWords 3).getD k 0 ≠ (resizeWords regionDecoded.dev 3 (tenantBody growStatic)).getD k 0 →
        regionDecoded.dev.decodedBlock (regionDecoded.dev.tntPort 3) (regionDecoded.dev.tntLd 3) k = false) := by decide

/-- Refutes O20, in its clause of XT_TENANT_RESIZE: it looks for a decoded block only among the entries with V = 1, while the command
refuses every resize that moves a decoded block, whatever its entry holds. -/
theorem not_tenantsAreIdentifiedStagedAndEnded : ¬ Obligations.TenantsAreIdentifiedStagedAndEnded := by
  unfold Obligations.TenantsAreIdentifiedStagedAndEnded
  rintro ⟨-, -, resize_stages, -⟩
  obtain ⟨-, -, undecoded⟩ := regionDecoded_blocks
  have staged := (resize_stages regionDecoded (tenantBody growStatic) 3 _ 0 .mctp growStaticPayload (by decide) (by decide) (by decide)
    (by decide) rfl (by decide) (by decide) (by decide) (by decide) (by decide) (by decide) (by decide) (by decide) (by decide) (by decide)
    (by decide) undecoded (by decide)).settled (exec_xtTenantResize _ _ _)
  obtain ⟨answered, -⟩ := staged
  rw [Dev.answered, settle_out, growStatic_refused] at answered
  injection answered with output
  injection output with _ code
  exact absurd code (by decide)

end Sys2Proof.Machine

/-! SUPPORT. The statements about the Crema hot tier (O30, O36) and the lemmas behind them. -/

namespace Sys2Proof.Machine

/-! ### A cached line that stands on an unbacked channel (R118, R124) -/

theorem exec_tagDecision (id : Nat) (s : State) : exec (.tagDecision id) s = execTagDecision id s := rfl

/-- TAG_DECISION of the only open transaction, which has no speculation, decides its tag and lets the home work. -/
theorem exec_tagDecision_only {s : State} {x : Txn} (only : Only s.dev x .tag) (no_spec : x.spec = none) :
    exec (.tagDecision x.id) s = s.on fun _ => (s.dev.decideTag x).run := by
  obtain ⟨live, alone, phase, -, -⟩ := only
  have found : s.dev.txn x.id = some x := by simp [Dev.txn, alone]
  simp [exec_tagDecision, execTagDecision, State.on, found, live, phase, no_spec]

/-- The frame that holds page 0x50001 in `inFrame`. -/
def heldFrame : Nat := openFar.dev.frameOf (openFar.dev.setOf 0x50001) 2

/-- The channel of a page's frame was lost without a spare, and its rebuild has not reached the frame. The last step of a pin of that page
runs, and a host's read of the page waits for its tag decision. -/
def pinOnLostChannel : State :=
  onDev openFar fun d => { ((inFrame d).setFlag (Fld.crmLmap_v (frameChan heldFrame)) false) with
    txns := [farRd .rd .tag]
    crm := { d.crm with rebuilds := [⟨4, frameChan heldFrame, 0, false, 0, 0, [], []⟩] }
    mb := { d.mb with stepDue := true, stepAt := some 0, fg := some ⟨3, some .mctp, .pin .a 0 true 0x1000 1 0 0, 0, 1, false, 0⟩ } }

/-- Way `w` holds the line of a transaction for an uncompressed page: its frame is Valid, and the line is present and not lost. -/
abbrev HeldIn (d : Dev) (x : Txn) (w : Nat) : Prop :=
  d.findWay (maPage x.ma) false = some w ∧ (d.frame (d.setOf (maPage x.ma)) w).st = 1 ∧
    (d.frame (d.setOf (maPage x.ma)) w).has (maLine x.ma) = true ∧
    d.lostPending (d.frameOf (d.setOf (maPage x.ma)) w) (maLine x.ma) = false

set_option maxRecDepth 20000 in
/-- BREW_STEP_END fills the frame of a page that it pins, on an unbacked channel too, so its lines are present and no longer lost. The tag
decision gives that frame up (R124), and the read of the fresh page is answered. -/
theorem pinned_on_lost_channel_is_given_up :
    ∃ s, exec (.brewStepEnd true []) pinOnLostChannel = .next s ∧ Only s.dev (farRd .rd .tag) .tag ∧
      s.dev.farGone (farRd .rd .tag).ma = false ∧ HeldIn s.dev (farRd .rd .tag) 2 ∧ s.dev.unbacked heldFrame = true ∧
      (s.dev.decideTag (farRd .rd .tag)).run.txns = [] :=
  ⟨_, rfl, by decide, by decide, by decide, by decide, by decide⟩

/-- Refutes O30, in its clause of TAG_DECISION for a line that a frame holds: it does not ask that a channel backs the frame. A pin can
fill a frame on an unbacked channel, and the tag decision then gives the frame up instead of reading it. -/
theorem not_linesReturnToTheirRequests : ¬ Obligations.LinesReturnToTheirRequests := by
  unfold Obligations.LinesReturnToTheirRequests
  rintro ⟨-, -, hit_reads_crema, -⟩
  obtain ⟨s, -, only, present, ⟨way, valid, line, reached⟩, -, answered⟩ := pinned_on_lost_channel_is_given_up
  obtain ⟨waits, -, -⟩ := (hit_reads_crema s _ 2 only rfl rfl present rfl way valid line reached).settled (exec_tagDecision_only only rfl)
  rw [Now, settle_txns, answered] at waits
  exact absurd waits (List.cons_ne_nil _ _).symm

/-! ### What a lost channel's rebuild knows of near blocks (R122) -/

theorem exec_cremaChannelLoss (c : CremaCh) (s : State) : exec (.cremaChannelLoss c) s = s.on (Dev.atEdge (Dev.edgeCremaChannelLoss c)) := rfl

/-- Tenant 3 has its block 1 in the near region, channel 31 stands by, and active channel 4 is declared lost. -/
def nearLosing : State :=
  onDev nearBound fun d => { (d.setFld (Fld.crmChSts_logical 4) 4).setFld (Fld.crmChSts_role 31) 1 with crm := { d.crm with lossDue := [4] } }

set_option maxRecDepth 20000 in
/-- The rebuild that the loss starts notes the near blocks held at that moment, whose lines it will poison (R122). -/
theorem nearLosing_rebuild_names_held_block :
    (nearLosing.dev.edgeCremaChannelLoss 4).crm.rebuilds = [⟨4, 4, 0, true, 0, 0, [], [1]⟩] := by decide

set_option maxRecDepth 20000 in
/-- Refutes O36, in its clause of CREMA_CHANNEL_LOSS with a spare: it demands a rebuild that notes no near block, while the rebuild notes
every near block that a tenant holds. -/
theorem not_cremaChannelsAndFramesAreManaged : ¬ Obligations.CremaChannelsAndFramesAreManaged := by
  unfold Obligations.CremaChannelsAndFramesAreManaged
  rintro ⟨-, -, -, -, -, spare_takes_over, -⟩
  have boundary : AtBoundary nearLosing.dev := by decide
  have lost := (spare_takes_over nearLosing 4 4 31 boundary (by decide) rfl (by decide) rfl rfl rfl (by decide) (by decide) (by decide)
    (by decide)).settled (exec_cremaChannelLoss _ _)
  obtain ⟨-, -, -, -, -, -, -, -, rebuilds, -⟩ := lost
  rw [settle_crm, Dev.atEdge_atBoundary _ boundary, nearLosing_rebuild_names_held_block] at rebuilds
  exact absurd rebuilds (by decide)

end Sys2Proof.Machine


/-! SUPPORT. Stack and base die: the lifecycle, repairs, rotation and self-tests (O14, O16, O17). -/

namespace Sys2Proof.Machine

/-! ### Keyed pairs that act or are refused (R414) -/

section
variable {d e : Dev} {src : Source} {off : Nat} {v key : Word} {act : Word → Dev → Option Dev}

theorem Dev.keyWrite_taken (ready : d.pairReady src off v key) (taken : act v (d.setArmed src none) = some e) :
    d.keyWrite src off key act = e := by
  rw [Dev.keyWrite_pair d src off v key act ready, taken, Option.getD_some]

theorem Dev.keyWrite_refused (ready : d.pairReady src off v key) (refused : act v (d.setArmed src none) = none) :
    d.keyWrite src off key act = (d.setArmed src none).keyFail 3 off := by
  rw [Dev.keyWrite_pair d src off v key act ready, refused, Option.getD_none]

end

theorem srcIdx_lt (src : Source) : srcIdx src < 4 := by cases src <;> decide

theorem Dev.armedBy_setArmed (d : Dev) (src : Source) (a : Option Armed) : (d.setArmed src a).armedBy src = a := by
  simp [Dev.armedBy, Dev.setArmed, vget_vmod, srcIdx_lt]

/-! ### The lifecycle (R450 to R453) -/

/-- Fuses that only add to the old ones settle as they are. -/
theorem settle_fuses {a b : Dev} (kept : a.fuses.keptBy b.fuses) : (settle a b).fuses = b.fuses := by
  obtain ⟨lc, svn, idDisable⟩ := kept
  have id_or : (a.fuses.idDisable || b.fuses.idDisable) = b.fuses.idDisable := by
    cases h : a.fuses.idDisable
    · rfl
    · exact (idDisable h).symm
  simp only [settle, lc, Nat.max_eq_right svn, id_or]

theorem Fuses.keptBy_refl (f : Fuses) : f.keptBy f := ⟨BitVec.or_self, le_refl _, id⟩

theorem settle_fuses_same {a b : Dev} (same : b.fuses = a.fuses) : (settle a b).fuses = a.fuses := by
  rw [settle_fuses (same ▸ a.fuses.keptBy_refl), same]

theorem lcFuses_getLsbD (t : Lifecycle) (n : Fin 5) (i : Fin 4) :
    (lcFuses t).getLsbD (4 * n.val + i.val) = decide (n.val + 1 = t.code) := by
  revert n i; cases t <;> decide

/-- Blowing the four bits of a state reaches its group and moves no other. -/
theorem Fuses.reached_blown (f : Fuses) (t : Lifecycle) (n : Fin 5) :
    Fuses.reached { f with lc := f.lc ||| lcFuses t } n.val = (f.reached n.val || decide (n.val + 1 = t.code)) := by
  have bit : ∀ i ∈ List.range 4, (f.lc ||| lcFuses t).getLsbD (4 * n.val + i) =
      (f.lc.getLsbD (4 * n.val + i) || decide (n.val + 1 = t.code)) := by
    intro i hi
    rw [BitVec.getLsbD_or, lcFuses_getLsbD t n ⟨i, List.mem_range.1 hi⟩]
  unfold Fuses.reached rangeWhere
  rw [List.filter_congr bit]
  by_cases group : n.val + 1 = t.code
  · simp [group]
  · simp [group]

/-- A burn along an edge of the table puts its target in force. -/
theorem Fuses.state_blown (f : Fuses) (t : Lifecycle) (edge : lcEdge f.state t = true) :
    Fuses.state { f with lc := f.lc ||| lcFuses t } = t := by
  have r0 := f.reached_blown t 0
  have r1 := f.reached_blown t 1
  have r2 := f.reached_blown t 2
  have r3 := f.reached_blown t 3
  have r4 := f.reached_blown t 4
  simp only [Fin.isValue, Fin.val_zero, Fin.val_one, Fin.val_two, show (3 : Fin 5).val = 3 from rfl, show (4 : Fin 5).val = 4 from rfl] at r0 r1 r2 r3 r4
  unfold Fuses.state at edge ⊢
  rw [r0, r1, r2, r3, r4]
  generalize f.reached 0 = g0 at edge ⊢
  generalize f.reached 1 = g1 at edge ⊢
  generalize f.reached 2 = g2 at edge ⊢
  generalize f.reached 3 = g3 at edge ⊢
  generalize f.reached 4 = g4 at edge ⊢
  revert g0 g1 g2 g3 g4
  cases t <;> decide

theorem exec_glbLcAdv (src : Source) (key : Word) (s : State) : exec (.glbLcAdv src key) s = s.on fun d =>
    if d.canAccess src Off.glbLcAdv then d.keyWrite src Off.glbLcAdv key lcAct else d := rfl

/-- The pair of `GLB_LC_ADV` that asks for an advance of the table in MAINT makes its burn due. -/
theorem lcAct_due {d : Dev} {v : Word} {t : Lifecycle} (target : Lifecycle.ofCode (fieldOf v 0 3) = some t) (maint : d.mode = .maint)
    (no_halt : d.ras.haltAt = none) (edge : lcEdge d.lifecycle t = true) (idle : d.advancing = false) (met : d.lcCondition t = true) :
    lcAct v d = some { d with sec := { d.sec with burnDue := some t } } := by
  simp [lcAct, target, maint, edge, idle, met, Dev.halted, no_halt]

/-- Any other pair is refused. -/
theorem lcAct_refused {d : Dev} {v : Word} (no : d.mode ≠ .maint ∨ d.ras.haltAt.isSome = true ∨ d.advancing = true ∨
    ∀ t ∈ (Lifecycle.ofCode (fieldOf v 0 3)).toList, lcEdge d.lifecycle t = false ∨ d.lcCondition t = false) : lcAct v d = none := by
  unfold lcAct
  split
  · next t target =>
    rw [if_neg]
    intro all
    simp only [Bool.and_eq_true, beq_iff_eq, Bool.not_eq_true', Dev.halted, Bool.or_eq_false_iff] at all
    obtain ⟨⟨⟨⟨maint, no_halt, -⟩, edge⟩, idle⟩, met⟩ := all
    rcases no with other_mode | halt | busy | unmet
    · exact other_mode maint
    · simp [no_halt] at halt
    · simp [idle] at busy
    · rcases unmet t (by simp [target]) with no_edge | not_met
      · simp [edge] at no_edge
      · simp [met] at not_met
  · rfl

/-- What every burn leaves: the bits of its target are blown, the change is logged. -/
def Dev.burnt (d : Dev) (t : Lifecycle) : Dev :=
  ({ d with sec := { d.sec with burn := none }, fuses := { d.fuses with lc := d.fuses.lc ||| lcFuses t },
            can := { d.can with lcLog := (d.lifecycle.code, t.code) :: d.can.lcLog } } : Dev).raiseN 0x1F0
    [word1 d.lifecycle.code, word1 t.code]

/-- What the target itself brings with it (R452, R453). -/
def Dev.advanced (d : Dev) (t : Lifecycle) : Dev :=
  match t with
  | .provisioned => { d with sec := { d.sec with keygen := true } }
  | .rma => ({ d with fuses := { d.fuses with idDisable := true }, sec := { d.sec with signKeys := false } }).eraseAreas 3
  | .scrapped => { d with fuses := { d.fuses with identity := false }, sec := { d.sec with signKeys := false } }
  | _ => d

theorem Dev.burnt_fuses (d : Dev) (t : Lifecycle) : (d.burnt t).fuses = { d.fuses with lc := d.fuses.lc ||| lcFuses t } := by
  simp [Dev.burnt]
theorem Dev.burnt_sec (d : Dev) (t : Lifecycle) : (d.burnt t).sec = { d.sec with burn := none } := by simp [Dev.burnt]
theorem Dev.burnt_can (d : Dev) (t : Lifecycle) :
    (d.burnt t).can = { d.can with lcLog := (d.lifecycle.code, t.code) :: d.can.lcLog } := by simp [Dev.burnt]

/-- `b` is `a` but for registers. -/
def Dev.regsOf (a b : Dev) : Prop := ∃ r, b = { a with regs := r }

theorem Dev.regsOf_refl (d : Dev) : d.regsOf d := ⟨d.regs, rfl⟩

theorem Dev.regsOf.setFld {a b : Dev} (h : a.regsOf b) (f : Fld) (v : Nat) : a.regsOf (b.setFld f v) := by
  obtain ⟨r, rfl⟩ := h
  exact ⟨_, rfl⟩

theorem Dev.regsOf.setFlag {a b : Dev} (h : a.regsOf b) (f : Fld) (v : Bool) : a.regsOf (b.setFlag f v) := h.setFld f _

theorem Dev.regsOf.foldl {α : Type} {a : Dev} (f : Dev → α → Dev) (l : List α) (h : ∀ b x, a.regsOf b → a.regsOf (f b x)) :
    ∀ {b : Dev}, a.regsOf b → a.regsOf (l.foldl f b) := by
  induction l with
  | nil => exact id
  | cons x xs ih => exact fun hb => ih (h _ x hb)

theorem Dev.syncCanister_regsOf (d : Dev) : d.regsOf d.syncCanister := by
  have bits := ((((d.regsOf_refl.setFlag Fld.canSts_aOk (d.can.slots[0]).valid).setFlag Fld.canSts_bOk (d.can.slots[1]).valid).setFld
    Fld.canSts_bootSlot d.can.bootSlot.val).setFld Fld.canLogSts_next (d.can.logCount % 8192))
  unfold Dev.syncCanister
  dsimp only
  split
  · split
    · exact (bits.setFld _ _).setFld _ _
    · exact bits
  · exact (bits.setFld _ _).setFld _ _

theorem Dev.syncRepairs_regsOf (d : Dev) : d.regsOf d.syncRepairs :=
  Dev.regsOf.foldl _ _ (fun _ _ h => h.setFld _ _) ((d.regsOf_refl.setFld _ _).setFld _ _)

theorem Dev.syncBrew_regsOf (d : Dev) : d.regsOf d.syncBrew := by
  unfold Dev.syncBrew
  dsimp only
  split
  · exact ((d.regsOf_refl.setFld _ _).setFld _ _).setFld _ _
  · exact ((d.regsOf_refl.setFld _ _).setFld _ _).setFld _ _

/-- A Canister whose settings and event log are erased. -/
def Canister.erased (c : Canister) : Canister := { c with copies := Vector.replicate 16 none, newest := none, log := [], logCount := 0 }

/-- The erase of both areas changes the Canister and registers, nothing more. -/
theorem Dev.eraseAreas_both (d : Dev) : Dev.regsOf { d with can := d.can.erased } (d.eraseAreas 3) := by
  have settings : bitAt 3 0 = true := by decide
  have log : bitAt 3 1 = true := by decide
  unfold Dev.eraseAreas
  simp only [settings, log, if_true]
  exact (Dev.syncCanister_regsOf _).setFld _ _

/-- The fuses after what the target brings: RMA disables the identity, SCRAPPED takes it away. -/
theorem Dev.advanced_fuses (d : Dev) (t : Lifecycle) : (d.advanced t).fuses =
    { d.fuses with idDisable := d.fuses.idDisable || decide (t = .rma), identity := d.fuses.identity && decide (t ≠ .scrapped) } := by
  cases t
  case rma =>
    obtain ⟨r, erased⟩ := Dev.eraseAreas_both { d with fuses := { d.fuses with idDisable := true }, sec := { d.sec with signKeys := false } }
    simp [Dev.advanced, erased]
  all_goals
    simp [Dev.advanced]

/-- Key generation begins with PROVISIONED; RMA and SCRAPPED take the keys out of the signing engine. -/
theorem Dev.advanced_sec (d : Dev) (t : Lifecycle) : (d.advanced t).sec =
    { d.sec with keygen := d.sec.keygen || decide (t = .provisioned), signKeys := d.sec.signKeys && decide (t ≠ .rma ∧ t ≠ .scrapped) } := by
  cases t
  case rma =>
    obtain ⟨r, erased⟩ := Dev.eraseAreas_both { d with fuses := { d.fuses with idDisable := true }, sec := { d.sec with signKeys := false } }
    simp [Dev.advanced, erased]
  all_goals
    simp [Dev.advanced]

/-- RMA erases the Canister's areas; no target touches the rest of it. -/
theorem Dev.advanced_can (d : Dev) (t : Lifecycle) : (d.advanced t).can = if t = .rma then d.can.erased else d.can := by
  cases t
  case rma =>
    obtain ⟨r, erased⟩ := Dev.eraseAreas_both { d with fuses := { d.fuses with idDisable := true }, sec := { d.sec with signKeys := false } }
    simp [Dev.advanced, erased]
  all_goals
    simp [Dev.advanced]

theorem execLifecycleBurnComplete_eq (s : State) : exec .lifecycleBurnComplete s = s.on fun d =>
    match d.sec.burn with
    | some t => if d.mode == .maint && !d.halted then (d.burnt t).advanced t else d
    | none => d := rfl

/-- Blowing the bits of the target and adding to the other fuses keeps what was blown. -/
theorem Dev.burnt_advanced_keptBy (d : Dev) (t : Lifecycle) : d.fuses.keptBy ((d.burnt t).advanced t).fuses := by
  rw [Dev.advanced_fuses, Dev.burnt_fuses]
  exact ⟨by simp [← BitVec.or_assoc], le_refl _, fun blown => by simp [blown]⟩

theorem Dev.maint_unhalted {d : Dev} (maint : d.mode = .maint) (no_halt : d.ras.haltAt = none) : (d.mode == .maint && !d.halted) = true := by
  simp [Dev.halted, maint, no_halt]

theorem completes_lifecycleBurnComplete {s : State} {t : Lifecycle} (burn : s.dev.sec.burn = some t) (maint : s.dev.mode = .maint)
    (no_halt : s.dev.ras.haltAt = none) (edge : lcEdge s.dev.lifecycle t = true) :
    Completes .lifecycleBurnComplete s fun d => d.fuses.lc = s.dev.fuses.lc ||| lcFuses t ∧ d.lifecycle = t ∧ d.sec.burn = none ∧
      d.can.lcLog = (s.dev.lifecycle.code, t.code) :: s.dev.can.lcLog ∧
      (t = .provisioned → d.sec.keygen = true) ∧
      (t = .rma → d.fuses.idDisable = true ∧ d.can.newest = none ∧ d.can.log = [] ∧ d.fuses.svn = s.dev.fuses.svn) ∧
      (t = .scrapped → d.fuses.identity = false ∧ d.sec.signKeys = false) := by
  refine Completes.of_settle (execLifecycleBurnComplete_eq s) ?_
  simp only [burn, Dev.maint_unhalted maint no_halt, if_true]
  have fuses := settle_fuses (s.dev.burnt_advanced_keptBy t)
  rw [Dev.advanced_fuses, Dev.burnt_fuses] at fuses
  have in_force : (settle s.dev ((s.dev.burnt t).advanced t)).lifecycle = t := by
    rw [Dev.lifecycle, fuses]
    exact s.dev.fuses.state_blown t edge
  rw [in_force, fuses, settle_sec, settle_can, Dev.advanced_sec, Dev.advanced_can, Dev.burnt_sec, Dev.burnt_can]
  refine ⟨rfl, rfl, rfl, ?_, ?_, ?_, ?_⟩
  · split <;> rfl
  · rintro rfl
    simp
  · rintro rfl
    simp [Canister.erased]
  · rintro rfl
    simp

/-! ### Key generation (R453, R459) -/

theorem completes_identityKeygenComplete {s : State} (keygen : s.dev.sec.keygen = true) (maint : s.dev.mode = .maint) (no_halt : s.dev.ras.haltAt = none) :
    Completes .identityKeygenComplete s fun d => d.sec.keygen = false ∧ d.sec.signKeys = true ∧ d.fuses.identity = true ∧
      d.fuses.lc = s.dev.fuses.lc := by
  have generated : exec .identityKeygenComplete s = s.on fun d => if d.sec.keygen && d.mode == .maint && !d.halted then
      { d with sec := { d.sec with keygen := false, signKeys := true }, fuses := { d.fuses with identity := true } } else d := rfl
  refine Completes.of_settle generated ?_
  simp [keygen, maint, Dev.halted, no_halt, settle]
end Sys2Proof.Machine


namespace Sys2Proof.Machine

/-! ### Repair lists and fuse registers (R135, R136, R164, R501) -/

/-- What a repair is held in: the fuses, the burn under way, memory, the lists of repairs and the registers of the fuse pair. -/
structure RepairRecords where
  fuses : Fuses
  sec : Secure
  mem : Mem
  hppr : List (BitVec 64)
  softCrema : List (BitVec 64)
  softFar : List (BitVec 64)
  fuseLo : Word
  fuseHi : Word
  burn : Bool

/-- The repair records of a device. -/
def Dev.repairRecords (d : Dev) : RepairRecords :=
  ⟨d.fuses, d.sec, d.mem, d.mb.hppr, d.mb.softCrema, d.mb.softFar, d.reg Off.rasFuseLo, d.reg Off.rasFuseHi, d.flag Fld.rasFuseSts_burn⟩

/-- A register that holds none of the repair records. -/
abbrev besideFuseRegs (o : Nat) : Prop := o ≠ Off.rasFuseLo ∧ o ≠ Off.rasFuseHi ∧ o ≠ Off.rasFuseSts

section
variable (d : Dev)

theorem Dev.setReg_repairRecords {o : Nat} (v : Word) (beside : besideFuseRegs o) : (d.setReg o v).repairRecords = d.repairRecords := by
  obtain ⟨lo, hi, sts⟩ := beside
  have burn : (d.setReg o v).flag Fld.rasFuseSts_burn = d.flag Fld.rasFuseSts_burn := by
    simp only [Dev.flag, Dev.fld, Fld.rasFuseSts_burn, Dev.reg_setReg_ne d v sts.symm]
  simp [Dev.repairRecords, burn, Dev.reg_setReg_ne d v lo.symm, Dev.reg_setReg_ne d v hi.symm]

theorem Dev.setFld_repairRecords {f : Fld} (v : Nat) (beside : besideFuseRegs f.off) : (d.setFld f v).repairRecords = d.repairRecords :=
  d.setReg_repairRecords _ beside

theorem Dev.setFlag_repairRecords {f : Fld} (b : Bool) (beside : besideFuseRegs f.off) : (d.setFlag f b).repairRecords = d.repairRecords :=
  d.setReg_repairRecords _ beside

/-- The other fields of the register that shows BURN. -/
theorem Dev.setFld_fuseSts_repairRecords {f : Fld} (v : Nat) (off : f.off = Off.rasFuseSts) (apart : f.apart Fld.rasFuseSts_burn = true) :
    (d.setFld f v).repairRecords = d.repairRecords := by
  have lo : Off.rasFuseLo ≠ f.off := by rw [off]; decide
  have hi : Off.rasFuseHi ≠ f.off := by rw [off]; decide
  simp [Dev.repairRecords, Dev.setFld_flag_apart d v apart, Dev.reg_setFld_ne d v lo, Dev.reg_setFld_ne d v hi]

theorem Dev.raise_repairRecords (e : Ev) : (d.raise e).repairRecords = d.repairRecords := by
  have lo := d.raise_reg e Off.rasFuseLo (by decide)
  have hi := d.raise_reg e Off.rasFuseHi (by decide)
  have burn := d.raise_flag e Fld.rasFuseSts_burn (by decide)
  simp [Dev.repairRecords, lo, hi, burn]

theorem Dev.freeIface_mb (i : Iface) (op : Nat) : ∃ r, (d.freeIface i op).mb = { d.mb with running := r } := by
  unfold Dev.freeIface
  dsimp only
  split
  · exact ⟨_, rfl⟩
  · exact ⟨_, rfl⟩

theorem Dev.putAnswer_mb (i : Iface) (op rc : Nat) (out : Payload) : ∃ w, (d.putAnswer i op rc out).mb = { d.mb with window := w } := by
  unfold Dev.putAnswer
  dsimp only
  split
  · exact ⟨d.mb.window, by simp⟩
  · exact ⟨_, rfl⟩

/-- A completed command leaves the mailbox alone, but for what runs and the answers. -/
theorem Dev.complete_mb (i : Iface) (op rc : Nat) (out : Payload) :
    ∃ r w, (d.complete i op rc out).mb = { d.mb with running := r, window := w } := by
  obtain ⟨r, freed⟩ := d.freeIface_mb i op
  obtain ⟨w, put⟩ := (d.freeIface i op).putAnswer_mb i op rc (out.take 8192)
  exact ⟨r, w, by rw [Dev.complete, put, freed]⟩

theorem Dev.complete_repairRecords (i : Iface) (op rc : Nat) (out : Payload) : (d.complete i op rc out).repairRecords = d.repairRecords := by
  have lo := d.complete_reg i op rc out Off.rasFuseLo (by decide) (by decide)
  have hi := d.complete_reg i op rc out Off.rasFuseHi (by decide) (by decide)
  have sts := d.complete_reg i op rc out Off.rasFuseSts (by decide) (by decide)
  obtain ⟨r, w, mb⟩ := d.complete_mb i op rc out
  simp [Dev.repairRecords, lo, hi, Dev.flag, Dev.fld, show Fld.rasFuseSts_burn.off = Off.rasFuseSts from rfl, sts, mb]

theorem farPprSts_besideFuseRegs (c : Nat) : besideFuseRegs (Off.farPprSts c) := by
  unfold besideFuseRegs Off.farPprSts Off.rasFuseLo Off.rasFuseHi Off.rasFuseSts
  omega

theorem crmChSts_besideFuseRegs (c : Nat) : besideFuseRegs (Off.crmChSts c) := by
  unfold besideFuseRegs Off.crmChSts Off.rasFuseLo Off.rasFuseHi Off.rasFuseSts
  omega

theorem Dev.syncRepairs_repairRecords : d.syncRepairs.repairRecords = d.repairRecords := by
  unfold Dev.syncRepairs
  dsimp only
  rw [foldl_keeps Dev.repairRecords _ _ _ fun d c => d.setFld_repairRecords _ (farPprSts_besideFuseRegs c),
    Dev.setFld_repairRecords _ _ (by decide), Dev.setFld_fuseSts_repairRecords _ _ rfl (by decide)]

theorem Dev.syncBrew_repairRecords : d.syncBrew.repairRecords = d.repairRecords := by
  unfold Dev.syncBrew
  dsimp only
  split
  · rw [Dev.setFld_repairRecords _ _ (by decide), Dev.setFld_repairRecords _ _ (by decide), Dev.setFld_repairRecords _ _ (by decide)]
  · rw [Dev.setFld_repairRecords _ _ (by decide), Dev.setFld_repairRecords _ _ (by decide), Dev.setFld_repairRecords _ _ (by decide)]

theorem Dev.startFg_repairRecords (kind : Nat) (i : Option Iface) (w : Work) (planned : Nat) : (d.startFg kind i w planned).repairRecords = d.repairRecords :=
  Dev.syncBrew_repairRecords _

theorem Dev.repairDone_repairRecords (l : BitVec 64) : (d.repairDone l).repairRecords = d.repairRecords :=
  (Dev.raise_repairRecords _ _).trans d.syncRepairs_repairRecords

theorem Dev.placeRepaired_repairRecords (l : BitVec 64) : (d.placeRepaired l).repairRecords = d.repairRecords := by
  have shown : ∀ (a : List (BitVec 64)) n, (({ d with bist := { d.bist with awaiting := a } } : Dev).setFld Fld.rasBistSts_pending n).repairRecords = d.repairRecords :=
    fun a n => Dev.setFld_repairRecords _ _ (by decide)
  unfold Dev.placeRepaired
  dsimp only
  split
  · split
    · exact shown _ _
    · exact shown _ _
  · rfl

theorem Dev.startRotation_repairRecords (c : CremaCh) (i : Option Iface) : (d.startRotation c i).repairRecords = d.repairRecords := by
  unfold Dev.startRotation
  dsimp only
  rw [Dev.startFg_repairRecords, Dev.setFld_repairRecords _ _ (by decide), Dev.setFld_repairRecords _ _ (by decide),
    Dev.setFlag_repairRecords _ _ (by decide), Dev.setFld_repairRecords _ _ (by decide), Dev.setFld_repairRecords _ _ (by decide),
    Dev.setFlag_repairRecords _ _ (by decide), Dev.setFld_repairRecords _ _ (crmChSts_besideFuseRegs _)]
  rfl

theorem Dev.applyCrema_repairRecords (l : BitVec 64) : (d.applyCrema l).repairRecords = d.repairRecords := by
  have queued := Dev.syncRepairs_repairRecords { d with crm := { d.crm with unitPending := d.crm.unitPending ++ [l] } }
  unfold Dev.applyCrema
  dsimp only
  split
  · exact (Dev.placeRepaired_repairRecords _ _).trans (d.repairDone_repairRecords l)
  · split
    · exact (Dev.startRotation_repairRecords _ _ _).trans queued
    · exact queued

theorem Dev.startHppr_repairRecords : d.startHppr.repairRecords = d.repairRecords := by
  unfold Dev.startHppr
  split
  · rfl
  · dsimp only
    split
    · rfl
    · rfl

theorem Dev.repairCrema_repairRecords (l : BitVec 64) :
    (d.repairCrema l).repairRecords = { d.repairRecords with softCrema := d.mb.softCrema ++ [l] } :=
  Dev.applyCrema_repairRecords _ _

/-- The repair that comes with a fuse adds at most its place to the soft list. -/
theorem Dev.repairWithFuse_repairRecords (l : BitVec 64) :
    ∃ soft, (d.repairWithFuse l).repairRecords = { d.repairRecords with softCrema := soft } := by
  unfold Dev.repairWithFuse
  split
  · exact ⟨d.mb.softCrema, d.placeRepaired_repairRecords l⟩
  · split
    · exact ⟨_, d.repairCrema_repairRecords l⟩
    · exact ⟨d.mb.softCrema, d.applyCrema_repairRecords l⟩

end

theorem Dev.keyFail_reg (d : Dev) (cause off : Nat) : (d.keyFail cause off).reg Off.glbKeyfail = keyfailWord cause off :=
  Dev.reg_setReg_same _ _ _

theorem settle_flag (a b : Dev) (f : Fld) : (settle a b).flag f = b.flag f := rfl

/-! ### RAS_FUSE_LO and the burn of a fuse (R136, R500, R501) -/

theorem exec_rasFuseLo (src : Source) (key : Word) (s : State) : exec (.rasFuseLo src key) s = s.on fun d =>
    if d.canAccess src Off.rasFuseLo then d.keyWrite src Off.rasFuseLo key fuseActDirect else d := rfl

/-- The locator that a value of the pair names with what RAS_FUSE_HI holds. -/
def Dev.fuseLoc (d : Dev) (v : Word) : BitVec 64 := BitVec.ofNat 64 (v.toNat + (d.reg Off.rasFuseHi).toNat * 2 ^ 32)

theorem Dev.setReg_fuseLo_repairRecords (d : Dev) (v : Word) :
    (d.setReg Off.rasFuseLo v).repairRecords = { d.repairRecords with fuseLo := v } := by
  have hi := d.reg_setReg_ne (o := Off.rasFuseLo) (o' := Off.rasFuseHi) v (by decide)
  have sts := d.reg_setReg_ne (o := Off.rasFuseLo) (o' := Fld.rasFuseSts_burn.off) v (by decide)
  simp [Dev.repairRecords, Dev.flag, Dev.fld, hi, sts]

theorem Dev.setReg_fuseHi_repairRecords (d : Dev) (v : Word) :
    (d.setReg Off.rasFuseHi v).repairRecords = { d.repairRecords with fuseHi := v } := by
  have lo := d.reg_setReg_ne (o := Off.rasFuseHi) (o' := Off.rasFuseLo) v (by decide)
  have sts := d.reg_setReg_ne (o := Off.rasFuseHi) (o' := Fld.rasFuseSts_burn.off) v (by decide)
  simp [Dev.repairRecords, Dev.flag, Dev.fld, lo, sts]

theorem Dev.setFlag_burn_repairRecords (d : Dev) (b : Bool) :
    (d.setFlag Fld.rasFuseSts_burn b).repairRecords = { d.repairRecords with burn := b } := by
  have lo : (d.setFlag Fld.rasFuseSts_burn b).reg Off.rasFuseLo = d.reg Off.rasFuseLo := d.reg_setFld_ne _ (by decide)
  have hi : (d.setFlag Fld.rasFuseSts_burn b).reg Off.rasFuseHi = d.reg Off.rasFuseHi := d.reg_setFld_ne _ (by decide)
  simp [Dev.repairRecords, Dev.flag_setFlag_same d Fld.rasFuseSts_burn b (by decide) rfl, lo, hi]

/-- A far row enters the queue of hard repairs. -/
def Dev.hpprQueued (d : Dev) (l : BitVec 64) : Dev :=
  let d := { d with mb := { d.mb with hppr := d.mb.hppr ++ [l] } }
  let d := d.setFld Fld.rasFuseSts_hpprQ d.mb.hppr.length
  if d.mode = .maint then d.startHppr else d

/-- The burn of a fuse for another place starts. -/
def Dev.burnStarted (d : Dev) (l : BitVec 64) : Dev :=
  let d := ({ d with sec := { d.sec with fuseBurn := some (l, none) } }).setFlag Fld.rasFuseSts_burn true
  if locKind l = 6 then d else d.repairWithFuse l

theorem Dev.hpprQueued_repairRecords (d : Dev) (l : BitVec 64) :
    (d.hpprQueued l).repairRecords = { d.repairRecords with hppr := d.mb.hppr ++ [l] } := by
  have queued := Dev.setFld_fuseSts_repairRecords { d with mb := { d.mb with hppr := d.mb.hppr ++ [l] } } (f := Fld.rasFuseSts_hpprQ)
    (d.mb.hppr ++ [l]).length rfl (by decide)
  unfold Dev.hpprQueued
  dsimp only
  split
  · exact (Dev.startHppr_repairRecords _).trans queued
  · exact queued

theorem Dev.burnStarted_repairRecords (d : Dev) (l : BitVec 64) : ∃ soft, (d.burnStarted l).repairRecords =
    { d.repairRecords with sec := { d.sec with fuseBurn := some (l, none) }, burn := true, softCrema := soft } := by
  have started := Dev.setFlag_burn_repairRecords { d with sec := { d.sec with fuseBurn := some (l, none) } } true
  unfold Dev.burnStarted
  dsimp only
  split
  · exact ⟨d.mb.softCrema, started⟩
  · obtain ⟨soft, repaired⟩ := Dev.repairWithFuse_repairRecords
      (({ d with sec := { d.sec with fuseBurn := some (l, none) } } : Dev).setFlag Fld.rasFuseSts_burn true) l
    exact ⟨soft, by rw [repaired, started]; rfl⟩

theorem fuseAct_taken {d : Dev} {v : Word} (taken : d.fuseRefusal (d.fuseLoc v) = none) : fuseAct v d =
    some (if locKind (d.fuseLoc v) = 2 then (d.setReg Off.rasFuseLo v).hpprQueued (d.fuseLoc v) else (d.setReg Off.rasFuseLo v).burnStarted (d.fuseLoc v)) := by
  change (match d.fuseRefusal (d.fuseLoc v) with
    | some _ => none
    | none => if locKind (d.fuseLoc v) = 2 then some ((d.setReg Off.rasFuseLo v).hpprQueued (d.fuseLoc v))
      else some ((d.setReg Off.rasFuseLo v).burnStarted (d.fuseLoc v))) = _
  rw [taken]
  exact (apply_ite some _ _ _).symm

theorem fuseAct_refused {d : Dev} {v : Word} (refused : (d.fuseRefusal (d.fuseLoc v)).isSome = true) : fuseAct v d = none := by
  obtain ⟨rc, refused⟩ := Option.isSome_iff_exists.1 refused
  change (match d.fuseRefusal (d.fuseLoc v) with
    | some _ => none
    | none => _) = _
  rw [refused]

section
variable (d : Dev) (src : Source) (a : Option Armed)

theorem Dev.setArmed_fuseLoc (v : Word) : (d.setArmed src a).fuseLoc v = d.fuseLoc v := rfl
theorem Dev.setArmed_repairRecords : (d.setArmed src a).repairRecords = d.repairRecords := rfl
theorem Dev.setArmed_testOpen : (d.setArmed src a).testOpen = d.testOpen := rfl

theorem Dev.setArmed_fuseRefusal (l : BitVec 64) : (d.setArmed src a).fuseRefusal l = d.fuseRefusal l := by
  unfold Dev.fuseRefusal
  rfl

end

/-- A value of the pair that is not refused acts in TEST and RMA. -/
theorem Dev.keyWrite_fuseLo_taken {d : Dev} {src : Source} {v key : Word} (ready : d.pairReady src Off.rasFuseLo v key)
    (testOpen : d.testOpen = true) (taken : d.fuseRefusal (d.fuseLoc v) = none) : d.keyWrite src Off.rasFuseLo key fuseActDirect =
      if locKind (d.fuseLoc v) = 2 then ((d.setArmed src none).setReg Off.rasFuseLo v).hpprQueued (d.fuseLoc v)
      else ((d.setArmed src none).setReg Off.rasFuseLo v).burnStarted (d.fuseLoc v) := by
  rw [Dev.keyWrite_taken ready]
  rw [fuseActDirect, Dev.setArmed_testOpen, if_pos testOpen]
  exact fuseAct_taken (by rw [Dev.setArmed_fuseLoc, Dev.setArmed_fuseRefusal, taken])

theorem Dev.keyWrite_fuseLo_refused {d : Dev} {src : Source} {v key : Word} (ready : d.pairReady src Off.rasFuseLo v key)
    (no : d.testOpen = false ∨ (d.fuseRefusal (d.fuseLoc v)).isSome = true) :
    d.keyWrite src Off.rasFuseLo key fuseActDirect = (d.setArmed src none).keyFail 3 Off.rasFuseLo := by
  refine Dev.keyWrite_refused ready ?_
  rw [fuseActDirect, Dev.setArmed_testOpen]
  rcases no with closed | refused
  · rw [if_neg (by simp [closed])]
  · rw [fuseAct_refused (by rw [Dev.setArmed_fuseLoc, Dev.setArmed_fuseRefusal, refused]), ite_self]

/-- A pair of RAS_FUSE_LO in TEST or RMA for a locator that is not refused. -/
theorem completes_rasFuseLo_taken {s : State} {src : Source} {v key : Word} (access : s.dev.canAccess src Off.rasFuseLo = true)
    (ready : s.dev.pairReady src Off.rasFuseLo v key) (testOpen : s.dev.testOpen = true) (taken : s.dev.fuseRefusal (s.dev.fuseLoc v) = none) :
    Completes (.rasFuseLo src key) s fun d => d.reg Off.rasFuseLo = v ∧ d.fuses = s.dev.fuses ∧
      (locKind (s.dev.fuseLoc v) = 2 → d.mb.hppr = s.dev.mb.hppr ++ [s.dev.fuseLoc v] ∧ d.sec.fuseBurn = s.dev.sec.fuseBurn) ∧
      (locKind (s.dev.fuseLoc v) ≠ 2 → d.sec.fuseBurn = some (s.dev.fuseLoc v, none) ∧ d.flag Fld.rasFuseSts_burn = true ∧
        d.mb.hppr = s.dev.mb.hppr) := by
  refine Completes.of_settle (exec_rasFuseLo src key s) ?_
  simp only [access, if_true, Dev.keyWrite_fuseLo_taken ready testOpen taken]
  have written := (s.dev.setArmed src none).setReg_fuseLo_repairRecords v
  rw [Dev.setArmed_repairRecords] at written
  split
  case isTrue far =>
    have records := Dev.hpprQueued_repairRecords ((s.dev.setArmed src none).setReg Off.rasFuseLo v) (s.dev.fuseLoc v)
    rw [written, Dev.repairRecords, RepairRecords.mk.injEq] at records
    obtain ⟨fuses, sec, -, hppr, -, -, lo, -, -⟩ := records
    rw [settle_reg, settle_fuses_same fuses, settle_mb, settle_sec, lo, hppr, sec]
    exact ⟨rfl, rfl, fun _ => ⟨rfl, rfl⟩, fun other => absurd far other⟩
  case isFalse other =>
    obtain ⟨soft, records⟩ := Dev.burnStarted_repairRecords ((s.dev.setArmed src none).setReg Off.rasFuseLo v) (s.dev.fuseLoc v)
    rw [written, Dev.repairRecords, RepairRecords.mk.injEq] at records
    obtain ⟨fuses, sec, -, hppr, -, -, lo, -, burn⟩ := records
    rw [settle_reg, settle_fuses_same fuses, settle_mb, settle_sec, settle_flag, lo, hppr, sec, burn]
    exact ⟨rfl, rfl, fun far => absurd far other, fun _ => ⟨rfl, rfl, rfl⟩⟩

/-- A pair outside TEST and RMA, or for a locator that is refused. -/
theorem completes_rasFuseLo_refused {s : State} {src : Source} {v key : Word} (access : s.dev.canAccess src Off.rasFuseLo = true)
    (ready : s.dev.pairReady src Off.rasFuseLo v key) (no : s.dev.testOpen = false ∨ (s.dev.fuseRefusal (s.dev.fuseLoc v)).isSome = true) :
    Completes (.rasFuseLo src key) s fun d => d.sec = s.dev.sec ∧ d.mb = s.dev.mb ∧ d.fuses = s.dev.fuses ∧
      d.reg Off.glbKeyfail = keyfailWord 3 Off.rasFuseLo := by
  refine Completes.of_settle (exec_rasFuseLo src key s) ?_
  simp only [access, if_true, Dev.keyWrite_fuseLo_refused ready no]
  exact ⟨rfl, rfl, settle_fuses_same rfl, by rw [settle_reg, Dev.keyFail_reg]⟩

/-- The fuses once the burn of a place is done: the arrays' own list or the base die's takes the entry. -/
def Fuses.withEntry (f : Fuses) (l : BitVec 64) : Fuses :=
  if locKind l = 6 then { f with arrays := f.arrays ++ [l] } else { f with repairs := f.repairs ++ [l] }

theorem exec_fuseBurnComplete (s : State) : exec .fuseBurnComplete s = s.on fun d =>
    match d.sec.fuseBurn with
    | some (l, _) => ((({ d with sec := { d.sec with fuseBurn := none }, fuses := d.fuses.withEntry l } : Dev).setFlag Fld.rasFuseSts_burn false).syncRepairs).raise
        { num := 0x1FC, loc := l }
    | none => d := rfl

theorem Fuses.withEntry_keptBy (f : Fuses) (l : BitVec 64) : f.keptBy (f.withEntry l) := by
  unfold Fuses.withEntry
  split
  · exact f.keptBy_refl
  · exact f.keptBy_refl

theorem completes_fuseBurnComplete {s : State} {l : BitVec 64} {x : Option Iface} (burning : s.dev.sec.fuseBurn = some (l, x)) :
    Completes .fuseBurnComplete s fun d => d.fuses = s.dev.fuses.withEntry l ∧ d.sec.fuseBurn = none ∧ d.flag Fld.rasFuseSts_burn = false := by
  refine Completes.of_settle (exec_fuseBurnComplete s) ?_
  simp only [burning]
  have records := (Dev.raise_repairRecords _ { num := 0x1FC, loc := l }).trans ((Dev.syncRepairs_repairRecords _).trans
    (Dev.setFlag_burn_repairRecords { s.dev with sec := { s.dev.sec with fuseBurn := none }, fuses := s.dev.fuses.withEntry l } false))
  have fuses : Dev.fuses _ = s.dev.fuses.withEntry l := congrArg RepairRecords.fuses records
  refine ⟨?_, congrArg (·.sec.fuseBurn) records, congrArg RepairRecords.burn records⟩
  rw [settle_fuses (by rw [fuses]; exact s.dev.fuses.withEntry_keptBy l), fuses]

/-- Settles O14: the pairs and completions act on the fuses, the lists and the security unit as their lemmas above say. -/
theorem lifecycleAndRepairFusesBurn : Obligations.LifecycleAndRepairFusesBurn := by
  unfold Obligations.LifecycleAndRepairFusesBurn
  refine ⟨?pair_due, ?pair_refused, ?burn, ?keygen, ?fuse_taken, ?fuse_refused, ?fuse_burnt⟩
  case pair_due =>
    intro s src v key t access ready target maint no_halt edge idle met
    refine Completes.of_settle (exec_glbLcAdv src key s) ?_
    have due := lcAct_due (d := s.dev.setArmed src none) target maint no_halt edge idle met
    simp only [access, if_true, Dev.keyWrite_taken ready due]
    exact ⟨rfl, settle_fuses_same rfl, rfl, s.dev.armedBy_setArmed src none⟩
  case pair_refused =>
    intro s src v key access ready no
    refine Completes.of_settle (exec_glbLcAdv src key s) ?_
    have refused := lcAct_refused (d := s.dev.setArmed src none) no
    simp only [access, if_true, Dev.keyWrite_refused ready refused]
    exact ⟨rfl, settle_fuses_same rfl, by rw [settle_reg, Dev.keyFail_reg]⟩
  case burn =>
    intro s t burn maint no_halt edge
    exact completes_lifecycleBurnComplete burn maint no_halt edge
  case keygen =>
    intro s keygen maint no_halt
    exact completes_identityKeygenComplete keygen maint no_halt
  case fuse_taken =>
    rintro s src v key l access ready rfl testOpen taken
    exact completes_rasFuseLo_taken access ready testOpen taken
  case fuse_refused =>
    intro s src v key access ready no
    exact completes_rasFuseLo_refused access ready no
  case fuse_burnt =>
    intro s l x burning
    exact completes_fuseBurnComplete burning

end Sys2Proof.Machine


namespace Sys2Proof.Machine

/-! ### What requests and errors leave to test and repair

A repair copies a row and a rotation drains its source, and the accesses and losses in that run through most of the device.
None of it touches `Dev.bench`, so each operation has one lemma that says so, in the order of the model's definitions. -/

/-- A register of a Crema channel or a far channel, or the one that shows a self-test. -/
def benchReg (o : Nat) : Bool :=
  (decide (0x100000 ≤ o) && decide (o < 0x140000)) || (decide (0x180000 ≤ o) && decide (o < 0x1A0000)) || o == Off.rasBistSts

theorem benchReg_false {o : Nat} (crema : o < 0x100000 ∨ 0x140000 ≤ o) (far : o < 0x180000 ∨ 0x1A0000 ≤ o) (bist : o ≠ Off.rasBistSts) :
    benchReg o = false := by
  simp only [benchReg, Bool.or_eq_false_iff, Bool.and_eq_false_iff, decide_eq_false_iff_not, beq_eq_false_iff_ne, Nat.not_le, Nat.not_lt]
  exact ⟨⟨crema, far⟩, bist⟩

theorem benchReg_prsPoolLoss (n : Nat) : benchReg (Off.prsPoolLoss n) = false := by
  refine benchReg_false ?_ ?_ ?_
  all_goals
    simp only [Off.prsPoolLoss, Off.rasBistSts]
    omega

/-- What the service of requests and errors leaves to the commands of test and repair. -/
structure Bench where
  mode : Mode
  fuses : Fuses
  hppr : List (BitVec 64)
  bist : Bist
  rot : Option Rotation
  unitPending : List (BitVec 64)
  repairs : Nat → Option (BitVec 64 × Nat × Bool) × List (BitVec 64) × Nat
  regs : Nat → Word

/-- The repairs of the far channels: the one under way, those that wait, and the line buffers held. -/
def farRepairs (v : Vector FarChan 8) (c : Nat) : Option (BitVec 64 × Nat × Bool) × List (BitVec 64) × Nat :=
  let f := vget FarChan.reset v c
  (f.ppr, f.pprWait, f.pprBufs)

/-- The words of the registers named. -/
def benchRegs (m : Sparse Word) (o : Nat) : Word := if benchReg o then Sparse.get (resetWord o) m o else 0

/-- The parts of a device that its test and repair commands go by. -/
def Dev.bench (d : Dev) : Bench :=
  ⟨d.mode, d.fuses, d.mb.hppr, d.bist, d.crm.rot, d.crm.unitPending, farRepairs d.farCh, benchRegs d.regs⟩

theorem foldl_bench {α : Type} (d : Dev) (f : Dev → α → Dev) (l : List α) (h : ∀ d x, (f d x).bench = d.bench) : (l.foldl f d).bench = d.bench :=
  foldl_keeps Dev.bench f l d h

theorem ite_bench {c : Prop} [Decidable c] {a b : Dev} {t : Bench} (ha : a.bench = t) (hb : b.bench = t) :
    (if c then a else b).bench = t := by
  split
  · exact ha
  · exact hb

section
variable (d : Dev)

theorem Dev.bench_of {d e : Dev} (mode : e.mode = d.mode) (fuses : e.fuses = d.fuses) (mb : e.mb = d.mb) (bist : e.bist = d.bist)
    (crm : e.crm = d.crm) (farCh : e.farCh = d.farCh) (reg : ∀ o, benchReg o = true → e.reg o = d.reg o) : e.bench = d.bench := by
  have regs : benchRegs e.regs = benchRegs d.regs := by
    funext o
    unfold benchRegs
    split
    · next h => exact reg o h
    · rfl
  simp only [Dev.bench, mode, fuses, mb, bist, crm, farCh, regs]

theorem Dev.setReg_bench {o : Nat} (w : Word) (h : benchReg o = false) : (d.setReg o w).bench = d.bench := by
  refine Dev.bench_of rfl rfl rfl rfl rfl rfl fun o' h' => d.reg_setReg_ne w ?_
  rintro rfl
  rw [h'] at h
  cases h

theorem Dev.setFld_bench {f : Fld} (v : Nat) (h : benchReg f.off = false) : (d.setFld f v).bench = d.bench := d.setReg_bench _ h
theorem Dev.setFlag_bench {f : Fld} (b : Bool) (h : benchReg f.off = false) : (d.setFlag f b).bench = d.bench := d.setReg_bench _ h
theorem Dev.bump_bench {f : Fld} (n : Nat) (h : benchReg f.off = false) : (d.bump f n).bench = d.bench := d.setReg_bench _ h
theorem Dev.setBit_bench {f : Fld} (i : Nat) (b : Bool) (h : benchReg f.off = false) : (d.setBit f i b).bench = d.bench := d.setReg_bench _ h

theorem eventReg_of_benchReg {o : Nat} (h : benchReg o = true) : eventReg o = false := by
  simp only [eventReg, Bool.or_eq_false_iff, beq_eq_false_iff_ne]
  refine ⟨⟨?_, ?_⟩, ?_⟩
  all_goals
    rintro rfl
    exact absurd h (by decide)

theorem relayReg_of_benchReg {o : Nat} (h : benchReg o = true) : relayReg o = false := by
  simp only [relayReg, Bool.or_eq_false_iff, beq_eq_false_iff_ne]
  refine ⟨?_, ?_⟩
  all_goals
    rintro rfl
    exact absurd h (by decide)

theorem Dev.raise_bench (e : Ev) : (d.raise e).bench = d.bench := by
  refine Dev.bench_of ?_ ?_ ?_ ?_ ?_ ?_ fun o h => d.raise_reg e o (eventReg_of_benchReg h)
  all_goals simp

theorem Dev.sendUp_bench (m : RelayMsg) (c : Nat) (l : List (BitVec 128)) : (d.sendUp m c l).bench = d.bench := by
  refine Dev.bench_of ?_ ?_ ?_ ?_ ?_ ?_ fun o h => d.sendUp_reg m c l o (relayReg_of_benchReg h)
  all_goals simp

theorem Dev.modFch_bench (c : Nat) {f : FarChan → FarChan} (h : ∀ x, (f x).ppr = x.ppr ∧ (f x).pprWait = x.pprWait ∧ (f x).pprBufs = x.pprBufs) :
    (d.modFch c f).bench = d.bench := by
  have repairs : farRepairs (d.modFch c f).farCh = farRepairs d.farCh := by
    funext x
    obtain ⟨ppr, wait, bufs⟩ := h (vget FarChan.reset d.farCh x)
    unfold farRepairs Dev.modFch
    dsimp only
    rw [vget_vmod]
    split
    · next same =>
      obtain ⟨rfl, -⟩ := same
      rw [ppr, wait, bufs]
    · rfl
  simp only [Dev.bench, repairs]
  rfl

theorem Dev.countAs_bench (num n : Nat) (chid : Option (BitVec 16)) (t : Option TenantId) (k : Option Cls) :
    (d.countAs num n chid t k).bench = d.bench := by
  simp [Dev.bench]

theorem Dev.queueNbr_bench (c sub bank row : Nat) (rfm : Bool) : (d.queueNbr c sub bank row rfm).bench = d.bench := by
  grind [Dev.queueNbr, Dev.bench, Dev.modFch_bench, Dev.countAs_bench]

theorem Dev.zeroise_bench : d.zeroise.bench = d.bench := by
  grind [Dev.zeroise, Dev.bench, Dev.setFlag_bench, benchReg, Fld.crySts_keyValid, Off.crySts, Off.rasBistSts]

theorem Dev.count_bench (num n : Nat) : (d.count num n).bench = d.bench := by
  simp [Dev.bench]

end

end Sys2Proof.Machine


namespace Sys2Proof.Machine

section
variable (d : Dev)

theorem mboxReg_of_benchReg {o : Nat} (h : benchReg o = true) : mboxReg o = false := by
  simp only [benchReg, Bool.or_eq_true, Bool.and_eq_true, decide_eq_true_eq, beq_iff_eq, Off.rasBistSts] at h
  simp only [mboxReg, Bool.and_eq_false_iff, decide_eq_false_iff_not]
  omega

theorem Dev.bench_withCry (x) : Dev.bench { d with cry := x } = d.bench := rfl

theorem Dev.bench_withErrs (err lossDue) : Dev.bench { d with crm := { d.crm with err := err, lossDue := lossDue } } = d.bench := rfl

theorem Dev.bench_withPrs (x) : Dev.bench { d with prs := x } = d.bench := rfl

theorem Dev.mergeWrite_bench (arr : Array64K) (word : Nat) (bytes : BitVec 8) : (d.mergeWrite arr word bytes).bench = d.bench := by
  simp [Dev.bench]

theorem Dev.wordWrite_bench (arr : Array64K) (word : Nat) : (d.wordWrite arr word).bench = d.bench := by
  simp [Dev.bench]

theorem Dev.countDist_bench (c bank : Nat) (t : Option TenantId) (relay : Bool) : (d.countDist c bank t relay).bench = d.bench := by
  unfold Dev.countDist
  simp only [apply_ite Dev.bench, Dev.raise_bench, Dev.modFch_bench, ite_self, and_self, implies_true]

theorem Dev.activate_bench (c cli : Nat) (t : Option TenantId) (relay : Bool) : (d.activate c cli t relay).bench = d.bench := by
  unfold Dev.activate
  simp only [apply_ite Dev.bench, Dev.countDist_bench, Dev.queueNbr_bench, Dev.modFch_bench, ite_self, and_self, implies_true]

theorem Dev.activateRow_bench (l : BitVec 64) : (d.activateRow l).bench = d.bench := by
  grind [Dev.activateRow, Dev.bench, Dev.activate_bench]

theorem Dev.setFresh_bench (c cli : Nat) (b : Bool) : (d.setFresh c cli b).bench = d.bench := by
  grind [Dev.setFresh, Dev.bench]

theorem Dev.checkState_bench (c cli : Nat) (flips : List (BitVec 80)) : (d.checkState c cli flips).2.bench = d.bench := by
  grind [Dev.checkState, Dev.setFresh_bench]

theorem Dev.countCe_bench : d.countCe.bench = d.bench := d.bump_bench 1 (by decide)

theorem Dev.correctedOn_bench (far : Bool) (ch : Nat) (loc : BitVec 64) : (d.correctedOn far ch loc).bench = d.bench := by
  unfold Dev.correctedOn
  simp only [apply_ite Dev.bench, Dev.raise_bench, Dev.modFch_bench, Dev.bench_withErrs, Dev.countCe_bench, ite_self, and_self, implies_true]

theorem Dev.setCtr_bench (c pg : Nat) (b : Line) : (d.setCtr c pg b).bench = d.bench := by
  grind [Dev.setCtr, Dev.bench]

theorem Dev.emit_bench (o : Out) : (d.emit o).bench = d.bench := by
  simp [Dev.bench]

theorem Dev.answerHost_bench (p : PortId) (ld tag : Nat) (uio : Bool) (md : Meta) (load : Nat) (r : Reply) :
    (d.answerHost p ld tag uio md load r).bench = d.bench := by
  grind [Dev.answerHost, Dev.bench, Dev.emit_bench]

theorem Dev.modRly_bench (p : PortId) (f : RelayPort → RelayPort) : (d.modRly p f).bench = d.bench := by
  simp [Dev.bench]

theorem Dev.putFlit_bench (p : PortId) (w : Payload) : (d.putFlit p w).bench = d.bench := by
  grind [Dev.putFlit, Dev.bench, Dev.modRly_bench]

theorem Dev.answerRelay_bench (x : Txn) (src tag : Nat) (r : Reply) : (d.answerRelay x src tag r).bench = d.bench := by
  cases r <;> exact Dev.sendUp_bench d _ _ _

theorem Dev.modTenant_bench (t : TenantId) (f : Tenant → Tenant) : (d.modTenant t f).bench = d.bench := by
  simp [Dev.bench]

theorem Dev.delivered_bench (x : Txn) : (d.delivered x).bench = d.bench := by
  grind [Dev.delivered, Dev.bench, Dev.countAs_bench, Dev.modTenant_bench]

theorem Dev.histogram_bench (x : Txn) : (d.histogram x).bench = d.bench := by
  grind [Dev.histogram, Dev.bench]

theorem Dev.conflictAck_bench (port : PortId) (tag sharer : Nat) : (d.conflictAck port tag sharer).bench = d.bench := by
  grind [Dev.conflictAck, Dev.bench, Dev.sendUp_bench, Dev.emit_bench]

theorem Dev.sendAcks_bench (id : Nat) : (d.sendAcks id).bench = d.bench := by
  grind [Dev.sendAcks, Dev.bench, foldl_bench, Dev.conflictAck_bench]

theorem Dev.finish_bench (x : Txn) (r : Reply) : (d.finish x r).bench = d.bench := by
  have reads : ∀ (d : Dev) p, (d.bump (Fld.prtDownCnt_reads (portIdx p)) 1).bench = d.bench :=
    fun d p => d.bump_bench 1 (by cases p <;> decide)
  have writes : ∀ (d : Dev) p, (d.bump (Fld.prtDownCnt_writes (portIdx p)) 1).bench = d.bench :=
    fun d p => d.bump_bench 1 (by cases p <;> decide)
  grind [Dev.finish, Dev.bench, Dev.sendAcks_bench, Dev.answerHost_bench, Dev.histogram_bench, Dev.delivered_bench,
    Dev.answerRelay_bench]

theorem Dev.finishPoisoned_bench (x : Txn) : (d.finishPoisoned x).bench = d.bench := by
  grind [Dev.finishPoisoned, Dev.bench, Dev.finish_bench]

theorem Dev.dropAll_bench : d.dropAll.bench = d.bench := by
  grind [Dev.dropAll, Dev.bench, foldl_bench, Dev.finishPoisoned_bench]

theorem Dev.haltFlit_bench (p : PortId) (origin cause : Nat) : (d.haltFlit p origin cause).bench = d.bench := by
  grind [Dev.haltFlit, Dev.bench, Dev.putFlit_bench, Dev.modRly_bench]

theorem Dev.haltOut_bench (origin cause : Nat) : (d.haltOut origin cause).bench = d.bench := by
  refine foldl_bench d _ _ fun d p => ?_
  have viral : ∀ b, (d.setFlag (Fld.prtViralSts_tx (portIdx p)) b).bench = d.bench :=
    fun b => d.setFlag_bench b (by cases p <;> decide)
  split
  · rw [Dev.emit_bench, viral]
  · rw [Dev.emit_bench, Dev.haltFlit_bench]
  · rw [Dev.emit_bench, Dev.haltFlit_bench]
  · rfl

theorem Dev.recordHalt_bench (cause : HaltCause) (origin : Nat) (chid : BitVec 16) (loc : BitVec 64) :
    (d.recordHalt cause origin chid loc).bench = d.bench := by
  grind [Dev.recordHalt, Dev.bench, Dev.setReg_bench, benchReg, Off.rasBistSts, Off.rasHaltCause, Off.rasHaltPourLo, Off.rasHaltPourHi, Off.rasHaltDetail, Off.rasHaltLocLo, Off.rasHaltLocHi]

theorem Dev.haltFrom_bench (cause : HaltCause) (origin : Nat) (chid : BitVec 16) (loc : BitVec 64) :
    (d.haltFrom cause origin chid loc).bench = d.bench := by
  grind [Dev.haltFrom, Dev.bench, Dev.haltOut_bench, Dev.recordHalt_bench, Dev.setFld_bench, Dev.zeroise_bench, Dev.setFlag_bench,
    Dev.dropAll_bench, benchReg, Off.rasBistSts, Fld.canSts_store, Fld.rasHaltCause_later, Off.canSts, Off.rasHaltCause]

theorem Dev.haltBy_bench (cause : HaltCause) (chid : BitVec 16) (loc : BitVec 64) : (d.haltBy cause chid loc).bench = d.bench := by
  grind [Dev.haltBy, Dev.bench, Dev.haltFrom_bench]

theorem Dev.integrityFail_bench (cause : HaltCause) (chid : BitVec 16) (loc : BitVec 64) (detail : List Word) :
    (d.integrityFail cause chid loc detail).bench = d.bench := by
  grind [Dev.integrityFail, Dev.bench, Dev.haltBy_bench, Dev.raise_bench]

theorem Dev.setMajorNext_bench (new : Bool) (n : Nat) : (d.setMajorNext new n).bench = d.bench := by
  grind [Dev.setMajorNext, Dev.bench, Dev.integrityFail_bench, Dev.setFlag_bench, benchReg, Off.rasBistSts, Fld.cryRekeySts_auto, Off.cryRekeySts]

theorem Dev.countWrite_bench (c pg j : Nat) : (d.countWrite c pg j).bench = d.bench := by
  grind [Dev.countWrite, Dev.bench, Dev.setCtr_bench, Dev.countAs_bench, Dev.setMajorNext_bench]

theorem Dev.modLd_bench (p : PortId) (ld : Nat) (f : LdState → LdState) : (d.modLd p ld f).bench = d.bench := by
  simp [Dev.bench]

theorem Dev.poisonOverflow_bench (p : PortId) (ld : Nat) : (d.poisonOverflow p ld).bench = d.bench := by
  have shown : ∀ (d : Dev) b, (d.setBit (Fld.prtPoisonOvf_ovf (portIdx p)) ld b).bench = d.bench :=
    fun d b => d.setBit_bench ld b (by cases p <;> decide)
  grind [Dev.poisonOverflow, Dev.bench, Dev.modLd_bench, Dev.raise_bench]

theorem Dev.listPoison_bench (p : PortId) (ld line : Nat) (src : PoisonSrc) : (d.listPoison p ld line src).bench = d.bench := by
  grind [Dev.listPoison, Dev.bench, Dev.modLd_bench, Dev.poisonOverflow_bench]

theorem Dev.poisonFound_bench (owner : Option (TenantId × Nat)) (chid : BitVec 16) (loc : BitVec 64) (src : PoisonSrc) :
    (d.poisonFound owner chid loc src).bench = d.bench := by
  unfold Dev.poisonFound
  split
  · rw [Dev.listPoison_bench, Dev.raise_bench]
  · rw [Dev.raise_bench]

theorem Dev.firstPoison_bench (ma : Nat) (comp : Bool) (chid : BitVec 16) (loc : BitVec 64) (src : PoisonSrc) :
    (d.firstPoison ma comp chid loc src).bench = d.bench := by
  grind [Dev.firstPoison, Dev.bench, Dev.poisonFound_bench]

theorem Dev.freshCtr_bench (c pg : Nat) (new : Bool) : (d.freshCtr c pg new).bench = d.bench := by
  grind [Dev.freshCtr, Dev.bench, Dev.setMajorNext_bench, Dev.setCtr_bench]

theorem Dev.setFarPoison_bench (c cli : Nat) (b : Bool) : (d.setFarPoison c cli b).bench = d.bench := by
  grind [Dev.setFarPoison, Dev.bench]

theorem Dev.initPage_bench (c cli : Nat) : (d.initPage c cli).bench = d.bench := by
  grind [Dev.initPage, Dev.bench, foldl_bench, Dev.freshCtr_bench, Dev.firstPoison_bench, Dev.setFarPoison_bench, Dev.setFresh_bench]

theorem Dev.modHeldPage_bench (c : Nat) (f : RekeyPage → RekeyPage) : (d.modHeldPage c f).bench = d.bench := by
  grind [Dev.modHeldPage, Dev.bench]

theorem Dev.putFar_bench (k : Nat) (l : Line) : (d.putFar k l).bench = d.bench := by
  grind [Dev.putFar, Dev.bench]

theorem Dev.farStore_bench (c cli : Nat) (data : Line) (poison : Bool) : (d.farStore c cli data poison).bench = d.bench := by
  grind [Dev.farStore, Dev.bench, Dev.raise_bench, Dev.setFresh_bench, Dev.initPage_bench, Dev.modHeldPage_bench, Dev.putFar_bench,
    Dev.setFarPoison_bench, Dev.countWrite_bench]

theorem Dev.listPage_bench (page : Nat) (src : PoisonSrc) : (d.listPage page src).bench = d.bench := by
  grind [Dev.listPage, Dev.bench, foldl_bench, Dev.firstPoison_bench]

theorem Dev.modSched_bench (s : Nat) (f : Sched → Sched) : (d.modSched s f).bench = d.bench := by
  grind [Dev.modSched, Dev.bench]

theorem Dev.enqueue_bench (s line : Nat) (w : Who) : (d.enqueue s line w).bench = d.bench := by
  grind [Dev.enqueue, Dev.bench, Dev.modSched_bench]

theorem Dev.cremaAccess_bench (g l : Nat) (w : Who) : (d.cremaAccess g l w).bench = d.bench := by
  grind [Dev.cremaAccess, Dev.bench, Dev.enqueue_bench]

theorem Dev.reserveAccess_bench (w : Who) (p : Nat × Nat) : (d.reserveAccess w p).bench = d.bench := by
  grind [Dev.reserveAccess, Dev.bench, Dev.cremaAccess_bench]

theorem Dev.bitmapWrite_bench (w : Who) (page : Nat) : (d.bitmapWrite w page).bench = d.bench := by
  grind [Dev.bitmapWrite, Dev.bench, Dev.reserveAccess_bench]

theorem Dev.farQueue_bench (c cli : Nat) (w : Who) : (d.farQueue c cli w).bench = d.bench := by
  grind [Dev.farQueue, Dev.bench, Dev.modFch_bench, Dev.enqueue_bench]

theorem Dev.farLines_bench (c : Nat) (l : List Nat) (w : Who) : (d.farLines c l w).bench = d.bench := by
  grind [Dev.farLines, Dev.bench, foldl_bench, Dev.farQueue_bench]

theorem Dev.metaCopies_bench (w : Who) (r : MetaRef) (all : Bool) : (d.metaCopies w r all).bench = d.bench := by
  grind [Dev.metaCopies, Dev.bench, foldl_bench, Dev.farQueue_bench]

theorem Dev.metaEvict_bench (w : Who) (r : MetaRef) (dirty : Bool) : (d.metaEvict w r dirty).bench = d.bench := by
  have copies : (if dirty then d.metaCopies { w with wr := true } r true else d).bench = d.bench := by
    split
    · rw [Dev.metaCopies_bench]
    · rfl
  unfold Dev.metaEvict
  dsimp only
  split
  · exact (Dev.bench_withCry _ _).trans ((Dev.reserveAccess_bench _ _ _).trans copies)
  · exact copies

theorem Dev.metaUse_bench (w : Who) (r : MetaRef) (dirty : Bool) (n : Nat) : (d.metaUse w r dirty n).bench = d.bench := by
  induction n generalizing d r dirty with
  | zero => rfl
  | succ n ih =>
    have parent (d : Dev) (p : Option MetaRef) (b : Bool) :
        (match p with | some p => Dev.metaUse d w p b n | none => d).bench = d.bench := by
      cases p with
      | none => rfl
      | some p => exact ih d p b
    unfold Dev.metaUse
    split
    · rfl
    dsimp only
    split
    · rfl
    have read (c : Bool) : (if c = true then
        (match r with | .ctr c pg => d.reserveAccess { w with wr := false } (d.sharedPlace 2 (d.spillSlot c pg).1) | _ => d)
        else match (d.metaCopies { w with wr := false } r false).metaParent r with
          | some p => Dev.metaUse (d.metaCopies { w with wr := false } r false) w p false n
          | none => d.metaCopies { w with wr := false } r false).bench = d.bench := by
      refine ite_bench ?_ ?_
      · split
        · exact Dev.reserveAccess_bench _ _ _
        · rfl
      · exact (parent _ _ _).trans (Dev.metaCopies_bench _ _ _ _)
    have stale (e : Dev) : (match r with
          | .ctr c pg => if (dirty && Sparse.get 0 e.cry.spill (e.spillSlot c pg).1 == (e.spillSlot c pg).2) = true then { e with cry := { e.cry with spill := Sparse.put 0 e.cry.spill (e.spillSlot c pg).1 0 } } else e
          | _ => e).bench = e.bench := by
      split
      · exact ite_bench rfl rfl
      · rfl
    split
    · refine ite_bench ((parent _ _ _).trans ?_) ?_
      all_goals
        refine (Dev.metaEvict_bench _ _ _ _).trans ((Dev.bench_withCry _ _).trans ?_)
        exact (stale _).trans (read _)
    · refine ((Dev.bench_withCry _ _).trans ?_)
      exact (stale _).trans (read _)

theorem Dev.minorWrite_bench (c cli : Nat) : (d.minorWrite c cli).bench = d.bench := by
  grind [Dev.minorWrite, Dev.bench, foldl_bench, Dev.mergeWrite_bench]

theorem Dev.metaFor_bench (c cli : Nat) (w : Who) : (d.metaFor c cli w).bench = d.bench := by
  grind [Dev.metaFor, Dev.bench, Dev.metaUse_bench, Dev.minorWrite_bench]

theorem Dev.farAccess_bench (c cli : Nat) (w : Who) : (d.farAccess c cli w).bench = d.bench := by
  grind [Dev.farAccess, Dev.bench, Dev.bitmapWrite_bench, Dev.farLines_bench, Dev.metaFor_bench, Dev.farQueue_bench]

theorem Dev.mapRead_bench (w : Who) (c cli : Nat) {far : Dev → Dev} (h : ∀ d, (far d).bench = d.bench) :
    (d.mapRead w c cli far).bench = d.bench := by
  unfold Dev.mapRead
  dsimp only
  split
  · rw [Dev.reserveAccess_bench]
  · exact (Dev.bench_withPrs _ _).trans ((Dev.reserveAccess_bench _ _ _).trans (h d))

theorem Dev.setMapEntry_bench (pl : PagePlace) (m : MapEntry) : (d.setMapEntry pl m).bench = d.bench := by
  grind [Dev.setMapEntry, Dev.bench, Dev.mapRead_bench, Dev.farAccess_bench, Dev.farStore_bench]

theorem Dev.entriesLost_bench (n c o : Nat) : (d.entriesLost n c o).bench = d.bench := by
  grind [Dev.entriesLost, Dev.bench, foldl_bench, Dev.setMapEntry_bench, Dev.listPage_bench, Dev.raise_bench]

theorem Dev.modSlots_bench (s : Nat) (f : Slots → Slots) : (d.modSlots s f).bench = d.bench := by
  simp [Dev.bench]

theorem Dev.waste_bench (s ev n : Nat) : (d.waste s ev n).bench = d.bench := by
  grind [Dev.waste, Dev.bench, Dev.modSlots_bench]

theorem Dev.rewriteFar_bench (c cli : Nat) : (d.rewriteFar c cli).bench = d.bench := by
  grind [Dev.rewriteFar, Dev.bench, Dev.waste_bench, Dev.activate_bench]

theorem Dev.takeSectors_bench (c s n : Nat) : (d.takeSectors c s n).bench = d.bench := by
  grind [Dev.takeSectors, Dev.bench, foldl_bench]

theorem Dev.countUe_bench : d.countUe.bench = d.bench := d.bump_bench 1 (by decide)

theorem Dev.ueOn_bench (far : Bool) (ch : Nat) : (d.ueOn far ch).bench = d.bench := by
  unfold Dev.ueOn
  simp only [apply_ite Dev.bench, Dev.raise_bench, Dev.modFch_bench, Dev.bench_withErrs, Dev.countUe_bench, ite_self, and_self, implies_true]

theorem Dev.mapLineLost_bench (n c o : Nat) (both : Bool) : (d.mapLineLost n c o both).bench = d.bench := by
  grind [Dev.mapLineLost, Dev.bench, foldl_bench, Dev.ueOn_bench, Dev.rewriteFar_bench, Dev.reserveAccess_bench, Dev.entriesLost_bench,
    Dev.takeSectors_bench]

theorem Dev.poisonStored_bench (c cli : Nat) (src : PoisonSrc) : (d.poisonStored c cli src).bench = d.bench := by
  grind [Dev.poisonStored, Dev.farStore_bench, Dev.firstPoison_bench, Dev.listPage_bench, Dev.poisonFound_bench]

theorem Dev.poisonLines_bench (c : Nat) (lines : List Nat) : (d.poisonLines c lines).bench = d.bench :=
  foldl_bench d _ _ fun d _ => d.poisonStored_bench _ _ _

theorem Dev.counterLost_bench (c pg : Nat) : (d.counterLost c pg).bench = d.bench := by
  grind [Dev.counterLost, Dev.bench, Dev.poisonLines_bench, Dev.freshCtr_bench]

theorem Dev.startInternal_bench (kind : Nat) (w : Work) (planned : Nat) : (d.startInternal kind w planned).bench = d.bench :=
  ite_bench rfl (Dev.setBit_bench _ _ _ (by decide))

theorem Dev.subtreeLost_bench (c cli : Nat) (spare : Bool) (level index : Nat) : (d.subtreeLost c cli spare level index).bench = d.bench := by
  unfold Dev.subtreeLost
  dsimp only
  rw [Dev.startInternal_bench, Dev.raise_bench, Dev.bump_bench _ _ (by decide)]
  exact d.modFch_bench c fun _ => ⟨rfl, rfl, rfl⟩

theorem Dev.metaLost_bench (c cli : Nat) (chk : FarCheck) : (d.metaLost c cli chk).bench = d.bench := by
  unfold Dev.metaLost
  cases chk
  case counterUe => rw [Dev.raise_bench, Dev.counterLost_bench, Dev.bump_bench _ _ (by decide), Dev.ueOn_bench]
  case macLineUe => rw [Dev.raise_bench, Dev.poisonLines_bench, Dev.ueOn_bench]
  case nodeUe => rw [Dev.bump_bench _ _ (by decide), Dev.ueOn_bench]
  case nodeBothUe => rw [Dev.subtreeLost_bench, Dev.ueOn_bench]
  all_goals rfl

theorem Dev.ueLine_bench (far : Bool) (ch : Nat) (loc : BitVec 64) : (d.ueLine far ch loc).bench = d.bench :=
  (Dev.raise_bench _ _).trans (d.ueOn_bench far ch)

theorem Dev.lineLost_bench (c cli : Nat) (both : Bool) : (d.lineLost c cli both).bench = d.bench := by
  have rewritten := d.rewriteFar_bench c cli
  obtain ⟨f, as_function⟩ : ∃ f, f = Dev.lineLost := ⟨_, rfl⟩
  rw [← as_function]
  delta Dev.lineLost at as_function
  rw [as_function]
  dsimp only
  split
  · exact (Dev.metaLost_bench _ _ _ _).trans rewritten
  · exact (Dev.metaLost_bench _ _ _ _).trans rewritten
  · exact ite_bench ((Dev.subtreeLost_bench _ _ _ _ _ _).trans ((Dev.ueOn_bench _ _ _).trans rewritten))
      ((Dev.metaLost_bench _ _ _ _).trans rewritten)
  · refine ite_bench ((Dev.ueOn_bench _ _ _).trans rewritten) ?_
    split
    · exact (Dev.mapLineLost_bench _ _ _ _ _).trans rewritten
    · exact (Dev.poisonStored_bench _ _ _ _).trans ((Dev.ueLine_bench _ _ _ _).trans rewritten)

theorem Dev.copyFarLine_bench (c cli : Nat) (flips : List (BitVec 80)) : (d.copyFarLine c cli flips).bench = d.bench := by
  have checked (e : Dev) (b : Bool) : (if b = true then e.correctedOn true c (e.farLocator c cli) else e).bench = e.bench :=
    ite_bench (e.correctedOn_bench _ _ _) rfl
  unfold Dev.copyFarLine
  dsimp only
  split
  · exact ite_bench (d.lineLost_bench c cli false) (ite_bench rfl (d.farStore_bench c cli 0 true))
  · exact d.lineLost_bench c cli false
  · exact (checked _ _).trans (d.checkState_bench c cli flips)

theorem Dev.copyFarRow_bench (l : BitVec 64) (flips : List (List (BitVec 80))) : (d.copyFarRow l flips).bench = d.bench :=
  (foldl_bench _ _ _ fun d _ => d.copyFarLine_bench _ _ _).trans (d.activateRow_bench l)

theorem Dev.atomicOnLease_bench (x : Txn) (a : AtomicArgs) (l : Lease) : (d.atomicOnLease x a l).bench = d.bench := by
  grind [Dev.atomicOnLease, Dev.bench, Dev.finish_bench, Dev.count_bench]

theorem Dev.modTxn_bench (id : Nat) (f : Txn → Txn) : (d.modTxn id f).bench = d.bench := by
  simp [Dev.bench]

theorem Dev.setDir_bench (i : Nat) (e : DirEntry) : (d.setDir i e).bench = d.bench := by
  simp [Dev.bench]

theorem Dev.dirAfter_bench (x : Txn) : (d.dirAfter x).bench = d.bench := by
  grind [Dev.dirAfter, Dev.bench, Dev.setDir_bench]

theorem Dev.putCrema_bench (k : Nat) (l : Line) : (d.putCrema k l).bench = d.bench := by
  grind [Dev.putCrema, Dev.bench]

theorem Dev.cremaStore_bench (g l : Nat) (data : Line) (poison : Bool) : (d.cremaStore g l data poison).bench = d.bench := by
  grind [Dev.cremaStore, Dev.bench, Dev.putCrema_bench]

theorem Dev.markSeen_bench (g l : Nat) : (d.markSeen g l).bench = d.bench := by
  grind [Dev.markSeen, Dev.bench]

theorem Dev.cremaPut_bench (g l : Nat) (data : Line) (poison : Bool) : (d.cremaPut g l data poison).bench = d.bench := by
  grind [Dev.cremaPut, Dev.bench, Dev.cremaStore_bench, Dev.markSeen_bench]

theorem Dev.dropLate_bench (p l : Nat) : (d.dropLate p l).bench = d.bench := by
  grind [Dev.dropLate, Dev.bench]

theorem Dev.logDrop_bench (chid : BitVec 16) (ma : Nat) : (d.logDrop chid ma).bench = d.bench := by
  grind [Dev.logDrop, Dev.bench, Dev.emit_bench]

theorem Dev.unlistPoison_bench (p : PortId) (ld line : Nat) : (d.unlistPoison p ld line).bench = d.bench := by
  grind [Dev.unlistPoison, Dev.bench, Dev.modLd_bench, Dev.poisonOverflow_bench]

theorem Dev.poisonGone_bench (ma : Nat) (comp : Bool) : (d.poisonGone ma comp).bench = d.bench := by
  grind [Dev.poisonGone, Dev.bench, Dev.unlistPoison_bench]

theorem Dev.setFrame_bench (set way : Nat) (f : Frame) : (d.setFrame set way f).bench = d.bench := by
  simp [Dev.bench]

theorem Dev.releaseSectors_bench (c s n : Nat) : (d.releaseSectors c s n).bench = d.bench := by
  grind [Dev.releaseSectors, Dev.bench]

theorem Dev.releaseEntry_bench (pl : PagePlace) (m : MapEntry) : (d.releaseEntry pl m).bench = d.bench := by
  grind [Dev.releaseEntry, Dev.bench, Dev.releaseSectors_bench]

theorem Dev.poisonPage_bench (page : Nat) (src : PoisonSrc) : (d.poisonPage page src).bench = d.bench := by
  grind [Dev.poisonPage, Dev.bench, Dev.releaseEntry_bench, Dev.setMapEntry_bench, Dev.listPage_bench]

theorem Dev.countChain_bench (n : Nat) (was is : Bool) : (d.countChain n was is).bench = d.bench := by
  grind [Dev.countChain, Dev.bench, Dev.setFld_bench, benchReg, Off.rasBistSts, Fld.prsPoolChain_chained, Off.prsPoolChain]

theorem Dev.sectorAccess_bench (c : Nat) (secs : List Nat) (w : Who) : (d.sectorAccess c secs w).bench = d.bench := by
  grind [Dev.sectorAccess, Dev.bench, foldl_bench, Dev.farAccess_bench]

theorem Dev.writeSectors_bench (c : Nat) (secs : List Nat) (lines : List (Line × Bool)) : (d.writeSectors c secs lines).bench = d.bench := by
  grind [Dev.writeSectors, Dev.bench, foldl_bench, Dev.farStore_bench, Dev.countAs_bench]

theorem Dev.storeSectors_bench (c : Nat) (secs : List Nat) (lines : List (Line × Bool)) : (d.storeSectors c secs lines).bench = d.bench := by
  grind [Dev.storeSectors, Dev.bench, Dev.writeSectors_bench, Dev.sectorAccess_bench]

theorem Dev.storePage_bench (page : Nat) (lines : List (Line × Bool)) (raw : Bool) : (d.storePage page lines raw).2.bench = d.bench := by
  have lost : ∀ (d : Dev) n, (d.bump (Fld.prsPoolLoss_lost n) 1).bench = d.bench := fun d n => d.bump_bench 1 (benchReg_prsPoolLoss n)
  grind [Dev.storePage, Dev.bench, Dev.storeSectors_bench, Dev.setMapEntry_bench, Dev.releaseSectors_bench, Dev.countChain_bench,
    Dev.takeSectors_bench, Dev.releaseEntry_bench, Dev.poisonPage_bench, Dev.raise_bench]

theorem Dev.storeDirect_bench (page : Nat) (lines : List (Line × Bool)) : (d.storeDirect page lines).bench = d.bench := by
  grind [Dev.storeDirect, Dev.bench, Dev.storePage_bench, Dev.poisonPage_bench]

theorem Dev.writeBeside_bench (set way l : Nat) (data : Line) (poison : Bool) : (d.writeBeside set way l data poison).bench = d.bench := by
  grind [Dev.writeBeside, Dev.bench, Dev.setFrame_bench, Dev.storeDirect_bench, Dev.farStore_bench]

theorem Dev.writeLine_bench (ma : Nat) (comp : Bool) (data : Line) (poison : Bool) (src : PoisonSrc) :
    (d.writeLine ma comp data poison src).bench = d.bench := by
  grind [Dev.writeLine, Dev.bench, Dev.logDrop_bench, Dev.cremaPut_bench, Dev.firstPoison_bench, Dev.poisonGone_bench, Dev.setFrame_bench,
    Dev.writeBeside_bench, Dev.storeDirect_bench, Dev.farStore_bench, Dev.dropLate_bench]

theorem Dev.endLease_bench (l : Lease) : (d.endLease l).bench = d.bench := by
  grind [Dev.endLease, Dev.bench, Dev.writeLine_bench, Dev.dirAfter_bench]

theorem Dev.close_bench (x : Txn) (r : Reply) : (d.close x r).bench = d.bench := by
  grind [Dev.close, Dev.bench, Dev.finish_bench, Dev.dirAfter_bench]

theorem Dev.closePoisoned_bench (x : Txn) : (d.closePoisoned x).bench = d.bench := by
  grind [Dev.closePoisoned, Dev.bench, Dev.close_bench]

theorem Dev.tagLine_bench (w : Who) (n : Nat) : (d.tagLine w n).bench = d.bench := by
  grind [Dev.tagLine, Dev.bench, foldl_bench, Dev.reserveAccess_bench, Dev.wordWrite_bench]

theorem Dev.tagWrite_bench (w : Who) (set : Nat) (way : Option Nat) : (d.tagWrite w set way).bench = d.bench := by
  unfold Dev.tagWrite
  dsimp only
  rw [foldl_bench _ _ _ fun d n => by rw [Dev.reserveAccess_bench, Dev.reserveAccess_bench, Dev.tagLine_bench]]
  split
  · rw [Dev.mergeWrite_bench]
  · rfl

theorem Dev.putAccess_bench (x : Txn) : (d.putAccess x).bench = d.bench := by
  grind [Dev.putAccess, Dev.bench, Dev.farAccess_bench, Dev.cremaAccess_bench, Dev.tagWrite_bench]

theorem Dev.putTxn_bench (x : Txn) (data : Line) (poison : Bool) : (d.putTxn x data poison).bench = d.bench := by
  grind [Dev.putTxn, Dev.bench, Dev.writeLine_bench, Dev.putAccess_bench]

theorem Dev.retry_bench (n : Nat) : (d.retry n).bench = d.bench := by
  grind [Dev.retry, Dev.bench, Dev.setBit_bench, benchReg, Off.rasBistSts, Fld.nocFenceSts_retried, Off.nocFenceSts]

theorem Dev.countLost_bench (g : Nat) (near : Bool) : (d.countLost g near).bench = d.bench := by
  grind [Dev.countLost, Dev.bench]

theorem Dev.poisonCrema_bench (g l : Nat) (comp : Bool) (ma : Nat) (src : PoisonSrc) : (d.poisonCrema g l comp ma src).bench = d.bench := by
  grind [Dev.poisonCrema, Dev.bench, Dev.firstPoison_bench, Dev.cremaStore_bench]

theorem Dev.settleNear_bench (g l : Nat) : (d.settleNear g l).bench = d.bench := by
  grind [Dev.settleNear, Dev.bench, Dev.markSeen_bench, Dev.countLost_bench, Dev.poisonCrema_bench, Dev.listPoison_bench, Dev.cremaStore_bench]

theorem Dev.toCrema_bench (x : Txn) (g l : Nat) : (d.toCrema x g l).bench = d.bench := by
  grind [Dev.toCrema, Dev.bench, Dev.modTxn_bench, Dev.cremaAccess_bench]

theorem Dev.nearAccess_bench (x : Txn) : (d.nearAccess x).bench = d.bench := by
  grind [Dev.nearAccess, Dev.bench, Dev.settleNear_bench, Dev.retry_bench, Dev.logDrop_bench, Dev.closePoisoned_bench, Dev.close_bench,
    Dev.putTxn_bench, Dev.toCrema_bench]

theorem Dev.park_bench (id : Nat) (ph : Phase) : (d.park id ph).bench = d.bench := by
  grind [Dev.park, Dev.bench, Dev.modTxn_bench]

theorem Dev.cremaActivate_bench (pc bank row : Nat) : (d.cremaActivate pc bank row).bench = d.bench := by
  grind [Dev.cremaActivate, Dev.bench, Dev.countAs_bench]

theorem Dev.activateCrema_bench (pc g l : Nat) : (d.activateCrema pc g l).bench = d.bench := by
  grind [Dev.activateCrema, Dev.bench, Dev.cremaActivate_bench]

theorem Dev.takeFree_bench : d.takeFree.2.bench = d.bench := by
  grind [Dev.takeFree, Dev.bench]

theorem Dev.speculate_bench (x : Txn) : (d.speculate x).bench = d.bench := by
  grind [Dev.speculate, Dev.bench, Dev.takeFree_bench, Dev.countAs_bench, Dev.modTxn_bench, Dev.activateCrema_bench]

theorem Dev.access_bench (x : Txn) : (d.access x).bench = d.bench := by
  grind [Dev.access, Dev.bench, Dev.close_bench, Dev.speculate_bench, Dev.park_bench, Dev.nearAccess_bench]

theorem Dev.dirAnswer_bench (k : Nat) (shared : Bool) : (d.dirAnswer k shared).bench = d.bench := by
  grind [Dev.dirAnswer, Dev.bench, Dev.setDir_bench]

theorem Dev.biTimeout_bench (k sh : Nat) : (d.biTimeout k sh).bench = d.bench := by
  have marked : ((((d.dirAnswer k false).writeLine (d.maOfKey k) (d.maComp (d.maOfKey k)) 0 true .internal).setBit
      Fld.cohSuspect_host sh true)).bench = d.bench :=
    (Dev.setBit_bench _ _ _ (by decide)).trans ((Dev.writeLine_bench _ _ _ _ _ _).trans (Dev.dirAnswer_bench _ _ _))
  obtain ⟨f, as_function⟩ : ∃ f, f = Dev.biTimeout := ⟨_, rfl⟩
  rw [← as_function]
  delta Dev.biTimeout at as_function
  rw [as_function]
  dsimp only
  generalize Dev.ownerOf _ _ _ = owner
  cases owner with
  | some o => exact (Dev.raise_bench _ _).trans marked
  | none => exact (Dev.raise_bench _ _).trans marked

theorem Dev.dirSetLost_bench (set : Nat) : (d.dirSetLost set).bench = d.bench := by
  grind [Dev.dirSetLost, Dev.bench, foldl_bench, Dev.wordWrite_bench, Dev.raise_bench, Dev.bump_bench, benchReg, Off.rasBistSts, Fld.cohSts_imprecise, Off.cohSts]

theorem Dev.dirLookup_bench (k : Nat) : (d.dirLookup k).bench = d.bench := by
  grind [Dev.dirLookup, Dev.bench, Dev.dirSetLost_bench]

theorem Dev.ageSet_bench (base : Nat) : (d.ageSet base).bench = d.bench := by
  grind [Dev.ageSet, Dev.bench, foldl_bench, Dev.setDir_bench]

theorem Dev.lockEntry_bench (i k : Nat) : (d.lockEntry i k).bench = d.bench := by
  grind [Dev.lockEntry, Dev.bench, Dev.setDir_bench, Dev.ageSet_bench]

theorem Dev.notePeak_bench (slice : Nat) : (d.notePeak slice).bench = d.bench := by
  grind [Dev.notePeak, Dev.bench, Dev.setFld_bench, benchReg, Off.rasBistSts, Fld.cohRetrySts_peak, Fld.cohRetrySts_slice, Off.cohRetrySts]

theorem Dev.sendSnoop_bench (k sh : Nat) (inv comp : Bool) : (d.sendSnoop k sh inv comp).bench = d.bench := by
  grind [Dev.sendSnoop, Dev.bench, Dev.count_bench, Dev.sendUp_bench, Dev.emit_bench]

theorem Dev.openSnoop_bench (k sh : Nat) (inv : Bool) (id : Option Nat) (excl comp : Bool) : (d.openSnoop k sh inv id excl comp).bench = d.bench := by
  grind [Dev.openSnoop, Dev.bench, Dev.sendSnoop_bench]

theorem Dev.homeStep_bench (x : Txn) : (d.homeStep x).bench = d.bench := by
  grind [Dev.homeStep, Dev.bench, Dev.dirLookup_bench, Dev.park_bench, Dev.openSnoop_bench, Dev.modTxn_bench, Dev.biTimeout_bench,
    Dev.dirAnswer_bench, Dev.count_bench, Dev.notePeak_bench, Dev.bump_bench, Dev.access_bench, Dev.lockEntry_bench, Dev.setDir_bench, benchReg, Off.rasBistSts, Fld.cohRetrySts_waits, Off.cohRetrySts]

theorem Dev.predictRecall_bench (k : Nat) : (d.predictRecall k).bench = d.bench := by
  grind [Dev.predictRecall, Dev.bench]

theorem Dev.predictAtomic_bench (k req : Nat) : (d.predictAtomic k req).2.bench = d.bench := by
  grind [Dev.predictAtomic, Dev.bench]

theorem Dev.takeIn_bench (x : Txn) : (d.takeIn x).bench = d.bench := by
  grind [Dev.takeIn, Dev.bench, Dev.modTxn_bench, Dev.predictAtomic_bench]

theorem Dev.turn_bench {e : Dev} (h : d.turn = some e) : e.bench = d.bench := by
  unfold Dev.turn at h
  split at h
  · cases h
    exact Dev.takeIn_bench d _
  split at h
  · cases h
    exact Dev.homeStep_bench d _
  split at h
  · split at h
    · have recalled (l : Lease) : (((d.count 0x033 1).predictRecall l.line).endLease l).bench = d.bench := by
        rw [Dev.endLease_bench, Dev.predictRecall_bench, Dev.count_bench]
      split at h
      · split at h
        · cases h
          exact Dev.atomicOnLease_bench d _ _ _
        · cases h
          exact recalled _
      · cases h
        exact recalled _
    · cases h
  · cases h

theorem Dev.pump_bench (n : Nat) : (d.pump n).bench = d.bench := by
  induction n generalizing d with
  | zero => rfl
  | succ n ih =>
    unfold Dev.pump
    split
    · next turned => exact (ih _).trans (Dev.turn_bench d turned)
    · rfl

theorem Dev.run_bench : d.run.bench = d.bench := by
  grind [Dev.run, Dev.bench, Dev.pump_bench]

theorem Dev.dropInFlight_bench (c : Nat) : (d.dropInFlight c).2.bench = d.bench := by
  refine foldl_keeps (·.2.bench) _ _ (0, d) fun p x => ?_
  dsimp only
  split
  · rw [Dev.closePoisoned_bench, Dev.logDrop_bench]
  · rw [Dev.closePoisoned_bench]

theorem Dev.countPinned_bench : d.countPinned.bench = d.bench := by
  grind [Dev.countPinned, Dev.bench, Dev.setFld_bench, benchReg, Off.rasBistSts, Fld.crmPinSts_pinned, Off.crmPinSts]

theorem Dev.cremaDrop_bench (g : Nat) : (d.cremaDrop g).bench = d.bench := by
  grind [Dev.cremaDrop, Dev.bench]

theorem Dev.dropFrame_bench (set way : Nat) : (d.dropFrame set way).bench = d.bench := by
  grind [Dev.dropFrame, Dev.bench, Dev.countPinned_bench, Dev.tagWrite_bench, Dev.cremaDrop_bench, Dev.setFrame_bench]

theorem Dev.dropFrames_bench (c : Nat) : (d.dropFrames c).2.bench = d.bench := by
  refine foldl_keeps (·.2.bench) _ _ (0, d) fun p e => ?_
  have dropped := p.2.dropFrame_bench (e.1 / 16) (e.1 % 16)
  dsimp only
  split
  · simp only [Dev.bench, Bench.mk.injEq] at dropped ⊢
    obtain ⟨mode, fuses, hppr, bist, -, -, repairs, regs⟩ := dropped
    exact ⟨mode, fuses, hppr, bist, trivial, trivial, repairs, regs⟩
  · rfl

theorem Dev.dispatchJobs_bench : d.dispatchJobs.bench = d.bench := by
  grind [Dev.dispatchJobs, Dev.bench, foldl_bench, Dev.setFld_bench, benchReg, Off.rasBistSts, Fld.prsSts_jobs, Off.prsSts]

theorem Dev.listLines_bench (p : PortId) (ld first len : Nat) (src : PoisonSrc) : (d.listLines p ld first len src).bench = d.bench := by
  grind [Dev.listLines, Dev.bench, foldl_bench, Dev.listPoison_bench]

theorem Dev.listChannel_bench (c : Nat) : (d.listChannel c).bench = d.bench := by
  grind [Dev.listChannel, Dev.bench, foldl_bench, Dev.listLines_bench]

theorem Dev.raiseN_bench (num : Nat) (detail : List Word) : (d.raiseN num detail).bench = d.bench := d.raise_bench _

theorem Dev.setDom_bench (n st : Nat) : (d.setDom n st).bench = d.bench := by
  grind [Dev.setDom, Dev.bench, Dev.raiseN_bench, Dev.setReg_bench, benchReg, Off.rasBistSts, Off.nocSts]

theorem Dev.fence_bench (n : Nat) : (d.fence n).bench = d.bench := by
  grind [Dev.fence, Dev.bench, Dev.setDom_bench]

theorem Dev.floorMoved_bench : d.floorMoved.bench = d.bench := rfl

theorem Dev.wakeAll_bench (pours : Nat) : (d.wakeAll pours).bench = d.bench :=
  foldl_bench d _ _ fun d _ => ite_bench (d.modFch_bench _ fun _ => ⟨rfl, rfl, rfl⟩) rfl

theorem Dev.rewriteCrema_bench (g l : Nat) : (d.rewriteCrema g l).bench = d.bench := by
  grind [Dev.rewriteCrema, Dev.activateCrema_bench, Dev.waste_bench]

/-- A Crema line found lost whose other copy, if it is one of the reserve, is sound. -/
theorem Dev.cremaLineLost_bench (g l : Nat) : (d.cremaLineLost g l false).bench = d.bench := by
  have reserve : (d.reserveLost g l false).bench = d.bench := by
    grind [Dev.reserveLost, Dev.bench, Dev.ueOn_bench, Dev.reserveAccess_bench]
  have stored (comp : Bool) (ma : Nat) : (((d.ueLine false (d.framePhys g) (d.cremaLoc g l)).poisonCrema g l comp ma .internal).rewriteCrema g l).bench = d.bench := by
    rw [Dev.rewriteCrema_bench, Dev.poisonCrema_bench, Dev.ueLine_bench]
  delta Dev.cremaLineLost
  dsimp only
  refine ite_bench reserve (ite_bench (stored _ _) (ite_bench rfl (ite_bench (stored _ _) ?_)))
  rw [Dev.setFrame_bench, Dev.raise_bench, Dev.ueOn_bench]

theorem Dev.checkCremaLine_bench (g l : Nat) (flips : List (BitVec 80)) : (d.checkCremaLine g l flips).bench = d.bench := by
  unfold Dev.checkCremaLine
  dsimp only
  split
  · exact ite_bench rfl (d.cremaStore_bench g l 0 true)
  · exact d.cremaLineLost_bench g l
  · exact ite_bench (d.cremaLineLost_bench g l) (ite_bench (d.correctedOn_bench _ _ _) rfl)

theorem Dev.copyCremaLine_bench (g l : Nat) (flips : List (BitVec 80)) : (d.copyCremaLine g l flips).bench = d.bench := by
  rw [Dev.copyCremaLine, Dev.checkCremaLine_bench, Dev.cremaAccess_bench, Dev.cremaAccess_bench]

theorem Dev.snoopAll_bench : d.snoopAll.bench = d.bench := by
  grind [Dev.snoopAll, Dev.bench, foldl_bench, Dev.openSnoop_bench]

theorem Dev.dropQueues_bench (s : Nat) : (d.dropQueues s).bench = d.bench := by
  grind [Dev.dropQueues, Dev.bench]

theorem Dev.fenceQuadrant_bench (c : Nat) : (d.fenceQuadrant c).bench = d.bench := by
  grind [Dev.fenceQuadrant, Dev.bench, Dev.fence_bench]

theorem Dev.dropJobs_bench (c : Nat) : (d.dropJobs c).bench = d.bench := by
  grind [Dev.dropJobs, Dev.bench, Dev.dispatchJobs_bench]

theorem Dev.dropMaps_bench (c : Nat) : (d.dropMaps c).bench = d.bench := by
  grind [Dev.dropMaps, Dev.bench]

end

end Sys2Proof.Machine


namespace Sys2Proof.Machine

/-! ### Modes that a loss moves (R41, R484) -/

section
variable (d : Dev)

theorem Dev.alert_bench (bit : Nat) : (d.alert bit).bench = d.bench := by
  obtain ⟨r, shape⟩ := d.alert_shape bit
  refine Dev.bench_of ?_ ?_ ?_ ?_ ?_ ?_ fun o h => d.alert_reg bit o (eventReg_of_benchReg h)
  all_goals rw [shape]

theorem Dev.enter_bench (m : Mode) (cause discard : Nat) : ∃ k, (d.enter m cause discard).bench = { d.bench with mode := k } := by
  by_cases edge : modeEdge d.mode m = true
  · refine ⟨m, ?_⟩
    rw [Dev.enter_eq d m cause discard edge, Dev.raiseN_bench]
    unfold Dev.entered
    simp only [apply_ite Dev.bench, Dev.alert_bench, Dev.setFlag_bench _ _ (show benchReg Fld.glbModeSts_drained.off = false by decide),
      Dev.setFld_bench _ _ (show benchReg Fld.glbModeSts_prevMode.off = false by decide), ite_self]
    rfl
  · exact ⟨d.mode, by rw [Dev.enter, if_neg edge]; rfl⟩

/-- A loss moves at most the mode. -/
theorem Dev.degrade_bench (num : Nat) : ∃ k, (d.degrade num).bench = { d.bench with mode := k } := by
  have unmoved : ∃ k, d.bench = { d.bench with mode := k } := ⟨d.mode, rfl⟩
  unfold Dev.degrade
  dsimp only
  split
  · unfold Dev.hwEnter
    split
    · exact d.takeTarget.enter_bench _ _ _
    · exact unmoved
  · rw [Dev.wakeAll_bench]
    exact unmoved
  · exact ⟨d.mode, ite_bench rfl rfl⟩
  · exact ⟨d.mode, ite_bench rfl rfl⟩
  · exact ⟨d.mode, ite_bench rfl rfl⟩
  · exact unmoved

end

/-! ### Registers read alike -/

theorem Dev.reg_of_bench {a b : Dev} {o : Nat} (same : a.bench.regs = b.bench.regs) (shown : benchReg o = true) : a.reg o = b.reg o := by
  have at_o : benchRegs a.regs o = benchRegs b.regs o := congrFun same o
  unfold benchRegs at at_o
  rwa [if_pos shown, if_pos shown] at at_o

theorem Dev.fld_of_bench {a b : Dev} {f : Fld} (same : a.bench.regs = b.bench.regs) (shown : benchReg f.off = true) : a.fld f = b.fld f := by
  rw [Dev.fld, Dev.fld, Dev.reg_of_bench same shown]

theorem benchReg_crmChSts {c : Nat} (hc : c < 32) : benchReg (Off.crmChSts c) = true := by
  have lo : 0x100000 ≤ Off.crmChSts c := by unfold Off.crmChSts; omega
  have hi : Off.crmChSts c < 0x140000 := by unfold Off.crmChSts; omega
  simp [benchReg, lo, hi]

theorem benchReg_farChSts {c : Nat} (hc : c < 8) : benchReg (Off.farChSts c) = true := by
  have lo : 0x180000 ≤ Off.farChSts c := by unfold Off.farChSts; omega
  have hi : Off.farChSts c < 0x1A0000 := by unfold Off.farChSts; omega
  simp [benchReg, lo, hi]

/-! ### Commands of a rotation (R137, R138) -/

theorem exec_rotationCopyDone (s : State) : exec .rotationCopyDone s = s.on (Dev.atEdge Dev.edgeRotationCopyDone) := rfl
theorem exec_rotationSourceDrained (s : State) : exec .rotationSourceDrained s = s.on Dev.sourceDrained := rfl

/-- A rotation is in its phase and no other while the device is live. -/
theorem Dev.rotIn_iff {d : Dev} {r : Rotation} (live : d.live = true) (rot : d.crm.rot = some r) (phase : Nat) :
    d.rotIn phase = (r.phase == phase) := by
  simp [Dev.rotIn, live, rot]

theorem Dev.fld_lt (d : Dev) (f : Fld) : d.fld f < 2 ^ f.w := Nat.mod_lt _ (Nat.two_pow_pos _)

theorem Dev.setRole_role (d : Dev) (c role logical : Nat) : (d.setRole c role logical).crmRole c = role % 8 := by
  have apart : (Fld.crmChSts_logical c).apart (Fld.crmChSts_role c) = true := by simp [Fld.apart, Fld.crmChSts_logical, Fld.crmChSts_role]
  rw [Dev.crmRole, Dev.setRole, Dev.fld_setFld_apart _ _ _ _ apart, Dev.fld_setFld_same _ _ _ (by simp [Fld.crmChSts_role])]
  rfl

theorem Dev.setRole_reg {d : Dev} {c o : Nat} (role logical : Nat) (other : o ≠ Off.crmChSts c) : (d.setRole c role logical).reg o = d.reg o := by
  have outer : o ≠ (Fld.crmChSts_logical c).off := other
  have inner : o ≠ (Fld.crmChSts_role c).off := other
  rw [Dev.setRole, Dev.reg_setFld_ne _ _ outer, Dev.reg_setFld_ne _ _ inner]

/-- The spare takes a logical number, and no spare is left (R137). -/
def Dev.spareTaken (d : Dev) (k : Nat) : Dev :=
  ((d.setFld (Fld.crmLmap_phys k) (d.fld Fld.crmSts_spare)).setRole (d.fld Fld.crmSts_spare) 0 k).setFlag Fld.crmSts_noSpare true

theorem Dev.spareTaken_lmap (d : Dev) (k : Nat) : (d.spareTaken k).fld (Fld.crmLmap_phys k) = d.fld Fld.crmSts_spare := by
  have spare : d.fld Fld.crmSts_spare < 32 := d.fld_lt _
  have own : Off.crmLmap k ≠ Fld.crmSts_noSpare.off := by
    change 0x140100 + 4 * k ≠ 0x140004
    omega
  have other : Off.crmLmap k ≠ Off.crmChSts (d.fld Fld.crmSts_spare) := by
    unfold Off.crmLmap Off.crmChSts
    omega
  have kept : (d.spareTaken k).reg (Off.crmLmap k) = (d.setFld (Fld.crmLmap_phys k) (d.fld Fld.crmSts_spare)).reg (Off.crmLmap k) := by
    rw [Dev.spareTaken, Dev.setFlag, Dev.reg_setFld_ne _ _ own, Dev.setRole_reg _ _ other]
  rw [show (d.spareTaken k).fld (Fld.crmLmap_phys k) = (d.setFld (Fld.crmLmap_phys k) (d.fld Fld.crmSts_spare)).fld (Fld.crmLmap_phys k) from
    congrArg (fieldOf · 0 5) kept]
  rw [Dev.fld_setFld_same _ _ _ (by simp [Fld.crmLmap_phys])]
  exact Nat.mod_eq_of_lt spare

theorem Dev.edgeRotationCopyDone_done {d : Dev} {r : Rotation} (live : d.live = true) (rot : d.crm.rot = some r) (copying : r.phase = 0)
    (all : r.pointer = d.chFrames) : d.edgeRotationCopyDone =
      (d.spareTaken (d.fld (Fld.crmChSts_logical r.source.val))).modRot fun r => { r with phase := 1 } := by
  simp only [Dev.edgeRotationCopyDone, rot, Dev.rotIn_iff live rot, copying, all, beq_self_eq_true, Bool.and_self, if_true]
  rfl

theorem Dev.edgeRotationCopyDone_early {d : Dev} {r : Rotation} (rot : d.crm.rot = some r) (early : r.pointer ≠ d.chFrames) :
    d.edgeRotationCopyDone = d := by
  simp [Dev.edgeRotationCopyDone, rot, early]

theorem Dev.sourceDrained_done {d : Dev} {r : Rotation} (live : d.live = true) (rot : d.crm.rot = some r) (draining : r.phase = 1)
    (even : d.queueOf (2 * r.source.val) = []) (odd : d.queueOf (2 * r.source.val + 1) = []) :
    d.sourceDrained = (d.setRole r.source.val 3 0).modRot fun r => { r with phase := 2, since := d.now } := by
  simp [Dev.sourceDrained, rot, Dev.rotIn_iff live rot, draining, even, odd]

theorem Dev.sourceDrained_early {d : Dev} {r : Rotation} (rot : d.crm.rot = some r)
    (queued : d.queueOf (2 * r.source.val) ≠ [] ∨ d.queueOf (2 * r.source.val + 1) ≠ []) : d.sourceDrained = d := by
  have busy : ((d.queueOf (2 * r.source.val)).isEmpty && (d.queueOf (2 * r.source.val + 1)).isEmpty) = false := by
    rcases queued with even | odd
    · simp [even]
    · simp [odd]
  simp [Dev.sourceDrained, rot, busy]

theorem completes_rotationCopyDone {s : State} {r : Rotation} (boundary : AtBoundary s.dev) (live : s.dev.live = true)
    (rot : s.dev.crm.rot = some r) (copying : r.phase = 0) (all : r.pointer = s.dev.chFrames) :
    Completes .rotationCopyDone s fun d => d.crm.rot = some { r with phase := 1 } ∧
      d.fld (Fld.crmLmap_phys (s.dev.fld (Fld.crmChSts_logical r.source.val))) = s.dev.fld Fld.crmSts_spare ∧
      d.flag Fld.crmSts_noSpare = true ∧ d.mem = s.dev.mem := by
  refine .of_settle (exec_rotationCopyDone s) ?_
  rw [Dev.atEdge_atBoundary _ boundary, Dev.edgeRotationCopyDone_done live rot copying all]
  refine ⟨?_, s.dev.spareTaken_lmap _, Dev.flag_setFlag_same _ _ _ (by decide) rfl, rfl⟩
  exact congrArg (Option.map _) rot

theorem completes_rotationSourceDrained {s : State} {r : Rotation} (live : s.dev.live = true) (rot : s.dev.crm.rot = some r)
    (draining : r.phase = 1) (even : s.dev.queueOf (2 * r.source.val) = []) (odd : s.dev.queueOf (2 * r.source.val + 1) = []) :
    Completes .rotationSourceDrained s fun d => d.crm.rot = some { r with phase := 2, since := s.dev.now } ∧
      d.crmRole r.source.val = 3 ∧ d.mem = s.dev.mem := by
  refine .of_settle (exec_rotationSourceDrained s) ?_
  rw [Dev.sourceDrained_done live rot draining even odd]
  exact ⟨congrArg (Option.map _) rot, s.dev.setRole_role _ 3 0, rfl⟩

/-! ### Tests of a rotation's source (R495, R499) -/

theorem exec_rotationTestDone (result : BistResult) (l : List (BitVec 64)) (s : State) :
    exec (.rotationTestDone result l) s = execRotationTestDone result l s := rfl

/-- A repair that is done changes registers, telemetry and the event ring, nothing more. -/
theorem Dev.repairDone_logsOf (d : Dev) (l : BitVec 64) : d.logsOf (d.repairDone l) := by
  obtain ⟨r, synced⟩ := d.syncRepairs_regsOf
  refine Dev.logsOf_trans ?_ (Dev.raise_shape _ _)
  rw [synced]
  exact ⟨_, _, _, _, _, _, rfl⟩

theorem Dev.foldl_logsOf {α : Type} (f : Dev → α → Dev) (l : List α) (h : ∀ d x, Dev.logsOf d (f d x)) (d : Dev) : d.logsOf (l.foldl f d) := by
  induction l generalizing d with
  | nil => exact d.logsOf_refl
  | cons x xs ih => exact Dev.logsOf_trans (h d x) (ih (f d x))

/-- The queued repairs of a channel leave the queue, and change what a done repair changes. -/
theorem Dev.applyQueued_logsOf (d : Dev) (c : Nat) :
    Dev.logsOf { d with crm := { d.crm with unitPending := d.crm.unitPending.filter fun l => locChan l != c } } (d.applyQueued c) := by
  obtain ⟨r, synced⟩ := Dev.syncRepairs_regsOf { d with crm := { d.crm with unitPending := d.crm.unitPending.filter fun l => locChan l != c } }
  refine Dev.logsOf_trans ?_ (Dev.foldl_logsOf _ _ (fun d l => d.repairDone_logsOf l) _)
  rw [synced]
  exact ⟨_, _, _, _, _, _, rfl⟩

/-- Showing the repairs anew changes only the three kinds of register that show them. -/
theorem Dev.syncRepairs_reg {d : Dev} {o : Nat} (fuse : o ≠ Off.rasFuseSts) (count : o ≠ Off.crmRepairSts) (ppr : ∀ c, o ≠ Off.farPprSts c) :
    d.syncRepairs.reg o = d.reg o := by
  unfold Dev.syncRepairs
  dsimp only
  rw [foldl_keeps (Dev.reg · o) _ _ _ fun d c => d.reg_setFld_ne _ (ppr c), Dev.reg_setFld_ne _ _ count, Dev.reg_setFld_ne _ _ fuse]

theorem Dev.applyQueued_role (d : Dev) (q : Nat) {c : Nat} (hc : c < 32) : (d.applyQueued q).crmRole c = d.crmRole c := by
  have fuse : Off.crmChSts c ≠ Off.rasFuseSts := by unfold Off.crmChSts Off.rasFuseSts; omega
  have count : Off.crmChSts c ≠ Off.crmRepairSts := by unfold Off.crmChSts Off.crmRepairSts; omega
  have ppr : ∀ x, Off.crmChSts c ≠ Off.farPprSts x := fun x => by unfold Off.crmChSts Off.farPprSts; omega
  have event : eventReg (Off.crmChSts c) = false := eventReg_of_benchReg (benchReg_crmChSts hc)
  have repaired : ∀ (d : Dev) l, (d.repairDone l).reg (Off.crmChSts c) = d.reg (Off.crmChSts c) :=
    fun d l => (d.syncRepairs.raise_reg _ _ event).trans (Dev.syncRepairs_reg fuse count ppr)
  have kept : (d.applyQueued q).reg (Off.crmChSts c) = d.reg (Off.crmChSts c) := by
    unfold Dev.applyQueued
    dsimp only
    rw [foldl_keeps (Dev.reg · (Off.crmChSts c)) _ _ _ repaired, Dev.syncRepairs_reg fuse count ppr]
    rfl
  exact congrArg (fieldOf · 0 3) kept

theorem Dev.applyQueued_repaired (d : Dev) (q : Nat) (l : BitVec 64) : (d.applyQueued q).repaired l = d.repaired l := by
  obtain ⟨_, _, _, _, _, _, shape⟩ := d.applyQueued_logsOf q
  rw [shape]
  rfl

theorem Dev.rotationTest_early {d : Dev} {r : Rotation} (rot : d.crm.rot = some r) (early : d.now < r.since + sixPasses) : d.passesDone = false := by
  simpa [Dev.passesDone, rot] using early

theorem Dev.rotationTest_due {d : Dev} {r : Rotation} (rot : d.crm.rot = some r) (due : r.since + sixPasses ≤ d.now) : d.passesDone = true := by
  simpa [Dev.passesDone, rot] using due

theorem completes_rotationTestDone_early {s : State} {r : Rotation} (result : BistResult) (l : List (BitVec 64)) (rot : s.dev.crm.rot = some r)
    (early : s.dev.now < r.since + sixPasses) : Completes (.rotationTestDone result l) s fun d => d = s.dev := by
  refine .of_settle (exec_rotationTestDone result l s) ?_
  simp [rot, Dev.rotationTest_early rot early]

/-- The rotation goes on to training with the result of its test. -/
theorem completes_rotationTestDone_passed {s : State} {r : Rotation} {result : BistResult} (l : List (BitVec 64)) (live : s.dev.live = true)
    (rot : s.dev.crm.rot = some r) (testing : r.phase = 2) (due : r.since + sixPasses ≤ s.dev.now) (result_within : result ≠ .beyondSpares) :
    Completes (.rotationTestDone result l) s fun d => (d.crm.rot.map (·.phase)) = some 3 ∧
      (d.crm.unitPending = s.dev.crm.unitPending.filter fun x => locChan x != r.source.val) ∧ d.mem = s.dev.mem := by
  refine .of_settle (exec_rotationTestDone result l s) ?_
  obtain ⟨_, _, _, _, _, _, shape⟩ := s.dev.applyQueued_logsOf r.source.val
  simp only [rot, Dev.rotIn_iff live rot, testing, beq_self_eq_true, Dev.rotationTest_due rot due, Bool.and_self, if_true, result_within, if_false]
  simp [Dev.modRot, shape, rot]

theorem exec_rotationRetrainDone (ok : Bool) (s : State) : exec (.rotationRetrainDone ok) s = execRotationRetrainDone ok s := rfl

theorem completes_rotationRetrainDone_ok {s : State} {r : Rotation} (live : s.dev.live = true) (rot : s.dev.crm.rot = some r) (training : r.phase = 3) :
    Completes (.rotationRetrainDone true) s fun d => d.crm.rot = some { r with phase := 4 } ∧ d.mem = s.dev.mem := by
  refine .of_settle (exec_rotationRetrainDone true s) ?_
  obtain ⟨_, _, _, _, _, _, shape⟩ := s.dev.applyQueued_logsOf r.source.val
  simp only [rot, Dev.rotIn_iff live rot, training, beq_self_eq_true, if_true]
  simp [Dev.modRot, shape, rot]

/-! ### The end of the foreground brew (R399, R498) -/

section
variable (d : Dev)

theorem Dev.syncBrew_reg {o : Nat} (other : o ≠ Off.mboxBrewSts) : d.syncBrew.reg o = d.reg o := by
  unfold Dev.syncBrew
  dsimp only
  split
  · rw [Dev.reg_setFld_ne _ _ other, Dev.reg_setFld_ne _ _ other, Dev.reg_setFld_ne _ _ other]
  · rw [Dev.reg_setFld_ne _ _ other, Dev.reg_setFld_ne _ _ other, Dev.reg_setFld_ne _ _ other]

theorem Dev.endFg_reg (rc : Nat) (out : Payload) {o : Nat} (mbox : mboxReg o = false) (relay : relayReg o = false) : (d.endFg rc out).reg o = d.reg o := by
  have other : o ≠ Off.mboxBrewSts := by
    rintro rfl
    exact absurd mbox (by decide)
  unfold Dev.endFg
  split
  · rfl
  · dsimp only
    split
    · split
      · exact Dev.syncBrew_reg _ other
      · rw [Dev.complete_reg _ _ _ _ _ _ mbox relay, Dev.syncBrew_reg _ other]
        rfl
    · exact Dev.syncBrew_reg _ other

/-- The end of a brew changes the command interfaces, nothing more. -/
theorem Dev.endFg_shape (rc : Nat) (out : Payload) :
    ∃ r o p l m w, d.endFg rc out = { d with regs := r, out := o, pmu := p, rly := l, mb := m, wire := w } := by
  unfold Dev.endFg
  split
  · exact ⟨d.regs, d.out, d.pmu, d.rly, d.mb, d.wire, rfl⟩
  · next b _ =>
    obtain ⟨r, synced⟩ := Dev.syncBrew_regsOf { d with mb := { d.mb with fg := none, bg := rc } }
    dsimp only
    rw [synced]
    split
    · split
      · exact ⟨_, _, _, _, _, _, rfl⟩
      · next i _ _ =>
        obtain ⟨_, _, _, _, _, _, completed⟩ := Dev.complete_shape { d with mb := { d.mb with fg := none, bg := rc }, regs := r } i (workOpcode b.work) rc out
        rw [completed]
        exact ⟨_, _, _, _, _, _, rfl⟩
    · exact ⟨_, _, _, _, _, _, rfl⟩

/-- No foreground brew runs after its end. -/
theorem Dev.endFg_fg (rc : Nat) (out : Payload) : (d.endFg rc out).mb.fg = none := by
  unfold Dev.endFg
  split
  · next idle => exact idle
  · next b _ =>
    obtain ⟨r, synced⟩ := Dev.syncBrew_regsOf { d with mb := { d.mb with fg := none, bg := rc } }
    dsimp only
    rw [synced]
    split
    · split
      · rfl
      · next i _ _ =>
        obtain ⟨_, _, mb⟩ := Dev.complete_mb { d with mb := { d.mb with fg := none, bg := rc }, regs := r } i (workOpcode b.work) rc out
        rw [mb]
    · rfl

theorem Dev.foldl_issueLoc_shape (locs : List (BitVec 64)) : ∃ q, locs.foldl Dev.issueLoc d = { d with issued := q } := by
  induction locs generalizing d with
  | nil => exact ⟨d.issued, rfl⟩
  | cons l ls ih =>
    obtain ⟨p, issued⟩ := d.issueLoc_shape l
    obtain ⟨q, rest⟩ := ih (d.issueLoc l)
    exact ⟨q, by rw [List.foldl_cons, rest, issued]⟩

/-- A test's result ends its run and shows in the register of tests. -/
theorem Dev.bistResult_logsOf (result : Nat) (locs : List (BitVec 64)) :
    Dev.logsOf { d with bist := { d.bist with run := none } } (d.bistResult result locs) := by
  obtain ⟨q, issued⟩ := Dev.foldl_issueLoc_shape { d with bist := { d.bist with run := none } } locs
  refine Dev.logsOf_trans ?_ (Dev.raise_shape _ _)
  rw [issued]
  exact ⟨_, _, _, _, _, _, rfl⟩

theorem Dev.bistResult_reg (result : Nat) (locs : List (BitVec 64)) {o : Nat} (event : eventReg o = false) (other : o ≠ Off.rasBistSts) :
    (d.bistResult result locs).reg o = d.reg o := by
  obtain ⟨q, issued⟩ := Dev.foldl_issueLoc_shape { d with bist := { d.bist with run := none } } locs
  unfold Dev.bistResult
  dsimp only
  rw [Dev.raiseN_reg _ _ _ _ event, Dev.reg_setFld_ne _ _ other, Dev.setFlag, Dev.reg_setFld_ne _ _ other, issued]
  rfl

theorem Dev.bistResult_result {result : Nat} (locs : List (BitVec 64)) (small : result < 8) :
    (d.bistResult result locs).fld Fld.rasBistSts_result = result ∧ (d.bistResult result locs).flag Fld.rasBistSts_run = false := by
  unfold Dev.bistResult
  dsimp only
  rw [Dev.raiseN, Dev.raise_fld _ _ _ (by decide), Dev.raise_flag _ _ _ (by decide), Dev.fld_setFld_same _ _ _ (by decide),
    Dev.setFld_flag_apart _ _ (by decide), Dev.flag_setFlag_same _ _ _ (by decide) rfl]
  exact ⟨Nat.mod_eq_of_lt small, rfl⟩

/-- The registers of Crema, which the end of a rotation's brew leaves alone. -/
theorem Dev.endRotationBrew_reg (result : Nat) (locs : List (BitVec 64)) {o : Nat} (lo : 0x100000 ≤ o) (hi : o < 0x180000) :
    (d.endRotationBrew result locs).reg o = d.reg o := by
  have mbox : mboxReg o = false := by
    have below : ¬ 0x380000 ≤ o := by omega
    simp [mboxReg, below]
  have relay : relayReg o = false := by
    simp only [relayReg, Bool.or_eq_false_iff, beq_eq_false_iff_ne, Off.rlyLinkSts]
    omega
  have event : eventReg o = false := by
    simp only [eventReg, Bool.or_eq_false_iff, beq_eq_false_iff_ne, Off.rasAlertSts, Off.thmAlert, Off.rasRingSts]
    omega
  have bist : o ≠ Off.rasBistSts := by
    unfold Off.rasBistSts
    omega
  unfold Dev.endRotationBrew
  split
  · split
    · rw [Dev.endFg_reg _ _ _ mbox relay, Dev.bistResult_reg _ _ _ event bist]
    · rfl
  · rfl

end

end Sys2Proof.Machine


namespace Sys2Proof.Machine

/-! ### A rotation's brew ends (R137, R138) -/

section
variable (d : Dev)

/-- The end of a rotation's brew leaves Crema, memory and the places that await repair alone. -/
theorem Dev.endRotationBrew_kept (result : Nat) (locs : List (BitVec 64)) : (d.endRotationBrew result locs).crm = d.crm ∧
    (d.endRotationBrew result locs).mem = d.mem ∧ (d.endRotationBrew result locs).bist.awaiting = d.bist.awaiting := by
  unfold Dev.endRotationBrew
  split
  · split
    · obtain ⟨_, _, _, _, _, _, ended⟩ := (d.bistResult result locs).endFg_shape (if result = 4 then rcAborted else rcSuccess) (bistOut result locs)
      obtain ⟨_, _, _, _, _, _, shown⟩ := d.bistResult_logsOf result locs
      rw [ended, shown]
      exact ⟨rfl, rfl, rfl⟩
    · exact ⟨rfl, rfl, rfl⟩
  · exact ⟨rfl, rfl, rfl⟩

/-- An isolated channel's record of its rotation goes, and its role is Lost. -/
def Dev.isolatedGone (d : Dev) (c : Nat) : Dev :=
  let d := ({ d with crm := { d.crm with lossDue := d.crm.lossDue.filter (·.val != c) } } : Dev).bump Fld.crmSts_lost 1
  (({ d with crm := { d.crm with rot := none } } : Dev).setReg Off.crmRotSts 0).setRole c 4 0

theorem Dev.loseCrema_isolated_eq {c : Nat} (isolated : d.crmRole c = 3) : ∃ e : Dev, e.bench = (d.isolatedGone c).bench ∧
    d.loseCrema c = e.degrade 0x120 := by
  refine ⟨((((d.isolatedGone c).setFlag Fld.crmSts_noSpare true).dropQueues (2 * c)).fenceQuadrant c).raise
    { num := 0x120, chid := some (((((d.isolatedGone c).setFlag Fld.crmSts_noSpare true).dropQueues (2 * c)).fenceQuadrant c).cremaChid c), detail := [0, 0] }, ?_, ?_⟩
  · rw [Dev.raise_bench, Dev.fenceQuadrant_bench, Dev.dropQueues_bench, Dev.setFlag_bench _ _ (by decide)]
  · unfold Dev.loseCrema
    simp only [isolated]
    rfl

/-- The loss of an isolated channel ends its rotation, and the channel's role is Lost (R138). -/
theorem Dev.loseCrema_isolated (c : CremaCh) (isolated : d.crmRole c.val = 3) :
    (d.loseCrema c.val).crm.rot = none ∧ (d.loseCrema c.val).crmRole c.val = 4 := by
  obtain ⟨e, gone, lost⟩ := d.loseCrema_isolated_eq isolated
  obtain ⟨k, moved⟩ := e.degrade_bench 0x120
  rw [gone] at moved
  rw [lost]
  refine ⟨congrArg Bench.rot moved, ?_⟩
  have regs : (e.degrade 0x120).bench.regs = (d.isolatedGone c.val).bench.regs := by rw [moved]
  have role : (e.degrade 0x120).crmRole c.val = (d.isolatedGone c.val).crmRole c.val := Dev.fld_of_bench regs (benchReg_crmChSts c.isLt)
  exact role.trans (Dev.setRole_role _ c.val 4 0)

theorem Dev.setReg_crmRotSts_role (c : Nat) : (d.setReg Off.crmRotSts 0).crmRole c = d.crmRole c := by
  have other : Off.crmChSts c ≠ Off.crmRotSts := by unfold Off.crmChSts Off.crmRotSts; omega
  exact congrArg (fieldOf · 0 3) (d.reg_setReg_ne _ other)

theorem Dev.endRotationBrew_role (result : Nat) (locs : List (BitVec 64)) (c : CremaCh) :
    (d.endRotationBrew result locs).crmRole c.val = d.crmRole c.val := by
  have lo : 0x100000 ≤ Off.crmChSts c.val := by unfold Off.crmChSts; omega
  have hi : Off.crmChSts c.val < 0x180000 := by unfold Off.crmChSts; omega
  exact congrArg (fieldOf · 0 3) (d.endRotationBrew_reg result locs lo hi)

/-- A rotation whose isolated source is lost ends, with the channel in the Lost role. -/
theorem Dev.source_lost (c : CremaCh) (locs : List (BitVec 64)) (isolated : d.crmRole c.val = 3) :
    (((d.loseCrema c.val).setReg Off.crmRotSts 0).endRotationBrew 2 locs).crm.rot = none ∧
      (((d.loseCrema c.val).setReg Off.crmRotSts 0).endRotationBrew 2 locs).reg Off.crmRotSts = 0 ∧
      (((d.loseCrema c.val).setReg Off.crmRotSts 0).endRotationBrew 2 locs).crmRole c.val = 4 := by
  obtain ⟨rot, role⟩ := d.loseCrema_isolated c isolated
  obtain ⟨crm, -, -⟩ := ((d.loseCrema c.val).setReg Off.crmRotSts 0).endRotationBrew_kept 2 locs
  rw [crm, Dev.endRotationBrew_reg _ _ _ (by decide) (by decide), Dev.reg_setReg_same, Dev.endRotationBrew_role, Dev.setReg_crmRotSts_role]
  exact ⟨rot, rfl, role⟩

end

theorem completes_rotationTestDone_beyond {s : State} {r : Rotation} (l : List (BitVec 64)) (live : s.dev.live = true)
    (rot : s.dev.crm.rot = some r) (testing : r.phase = 2) (due : r.since + sixPasses ≤ s.dev.now) (isolated : s.dev.crmRole r.source.val = 3) :
    Completes (.rotationTestDone .beyondSpares l) s fun d => d.crm.rot = none ∧ d.reg Off.crmRotSts = 0 ∧ d.crmRole r.source.val = 4 := by
  refine .of_settle (exec_rotationTestDone .beyondSpares l s) ?_
  simp only [rot, Dev.rotIn_iff live rot, testing, beq_self_eq_true, Dev.rotationTest_due rot due, Bool.and_self, if_true]
  exact Dev.source_lost _ r.source _ ((s.dev.applyQueued_role _ r.source.isLt).trans isolated)

theorem completes_rotationRetrainDone_failed {s : State} {r : Rotation} (live : s.dev.live = true) (rot : s.dev.crm.rot = some r)
    (training : r.phase = 3) (isolated : s.dev.crmRole r.source.val = 3) :
    Completes (.rotationRetrainDone false) s fun d => d.crm.rot = none ∧ d.reg Off.crmRotSts = 0 ∧ d.crmRole r.source.val = 4 := by
  refine .of_settle (exec_rotationRetrainDone false s) ?_
  simp only [rot, Dev.rotIn_iff live rot, training, beq_self_eq_true, if_true, Bool.false_eq_true, if_false]
  exact Dev.source_lost _ r.source _ isolated

/-! ### The fill ends (R137, R499) -/

theorem exec_rotationFillDone (s : State) : exec .rotationFillDone s = execRotationFillDone s := rfl

/-- The source returns as the spare; with places still to repair no spare is left. -/
def Dev.sourceReturned (d : Dev) (c : Nat) (left : List (BitVec 64)) : Dev :=
  let d := { d with crm := { d.crm with rot := none }, bist := { d.bist with awaiting := left } }
  let d := ((d.setRole c 1 0).setFld Fld.crmSts_spare c).setReg Off.crmRotSts 0
  (d.setFlag Fld.crmSts_noSpare (0 < left.length)).setFld Fld.rasBistSts_pending left.length

section
variable (d : Dev) (c : CremaCh) (left : List (BitVec 64))

theorem Dev.sourceReturned_role : (d.sourceReturned c.val left).crmRole c.val = 1 := by
  have pending : Off.crmChSts c.val ≠ Fld.rasBistSts_pending.off := by
    change 0x100000 + 8192 * c.val ≠ 0x300820
    omega
  have sts : Off.crmChSts c.val ≠ Off.crmSts := by unfold Off.crmChSts Off.crmSts; omega
  have rot : Off.crmChSts c.val ≠ Off.crmRotSts := by unfold Off.crmChSts Off.crmRotSts; omega
  have kept : (d.sourceReturned c.val left).reg (Off.crmChSts c.val) =
      (Dev.setRole { d with crm := { d.crm with rot := none }, bist := { d.bist with awaiting := left } } c.val 1 0).reg (Off.crmChSts c.val) := by
    rw [Dev.sourceReturned, Dev.reg_setFld_ne _ _ pending, Dev.setFlag, Dev.reg_setFld_ne (f := Fld.crmSts_noSpare) _ _ sts, Dev.reg_setReg_ne _ _ rot,
      Dev.reg_setFld_ne (f := Fld.crmSts_spare) _ _ sts]
  exact (congrArg (fieldOf · 0 3) kept).trans (Dev.setRole_role _ c.val 1 0)

theorem Dev.sourceReturned_spare : (d.sourceReturned c.val left).fld Fld.crmSts_spare = c.val := by
  have apart : Fld.crmSts_noSpare.apart Fld.crmSts_spare = true := by decide
  have rot : Fld.crmSts_spare.off ≠ Off.crmRotSts := by decide
  have kept (e : Dev) : (e.setReg Off.crmRotSts 0).fld Fld.crmSts_spare = e.fld Fld.crmSts_spare :=
    congrArg (fieldOf · 16 5) (e.reg_setReg_ne _ rot)
  rw [Dev.sourceReturned, Dev.fld_setFld_apart _ _ _ _ (by decide), Dev.setFlag, Dev.fld_setFld_apart _ _ _ _ apart, kept,
    Dev.fld_setFld_same _ _ _ (by decide)]
  exact Nat.mod_eq_of_lt c.isLt

theorem Dev.sourceReturned_rotSts : (d.sourceReturned c.val left).reg Off.crmRotSts = 0 := by
  rw [Dev.sourceReturned, Dev.reg_setFld_ne _ _ (by decide), Dev.setFlag, Dev.reg_setFld_ne _ _ (by decide), Dev.reg_setReg_same]

theorem Dev.sourceReturned_noSpare : (d.sourceReturned c.val left).flag Fld.crmSts_noSpare = !left.isEmpty := by
  rw [Dev.sourceReturned, Dev.setFld_flag_apart _ _ (by decide), Dev.flag_setFlag_same _ _ _ (by decide) rfl]
  cases left <;> simp

end

theorem completes_rotationFillDone {s : State} {r : Rotation} (live : s.dev.live = true) (rot : s.dev.crm.rot = some r) (filling : r.phase = 4) :
    Completes .rotationFillDone s fun d => d.crm.rot = none ∧ d.crmRole r.source.val = 1 ∧ d.fld Fld.crmSts_spare = r.source.val ∧
      d.reg Off.crmRotSts = 0 ∧ d.mem = s.dev.mem ∧ d.flag Fld.crmSts_noSpare = !d.bist.awaiting.isEmpty ∧
      d.bist.awaiting = if r.result = 1 then (listedLocs r.locators).filter fun l => !s.dev.repaired l else [] := by
  refine .of_settle (exec_rotationFillDone s) ?_
  simp only [rot, Dev.rotIn_iff live rot, filling, beq_self_eq_true, if_true, Dev.applyQueued_repaired]
  obtain ⟨_, _, _, _, _, _, applied⟩ := s.dev.applyQueued_logsOf r.source.val
  generalize awaiting : (if r.result = 1 then (listedLocs r.locators).filter fun l => !s.dev.repaired l else []) = left
  have ended := ((s.dev.applyQueued r.source.val).sourceReturned r.source.val left).endRotationBrew_kept r.result r.locators
  obtain ⟨crm, mem, places⟩ := ended
  have shown {o : Nat} (lo : 0x100000 ≤ o) (hi : o < 0x180000) :=
    ((s.dev.applyQueued r.source.val).sourceReturned r.source.val left).endRotationBrew_reg r.result r.locators lo hi
  refine ⟨congrArg Crema.rot crm, ?_, ?_, ?_, ?_, ?_, places⟩
  · exact (Dev.endRotationBrew_role _ _ _ _).trans (Dev.sourceReturned_role _ _ _)
  · exact (congrArg (fieldOf · 16 5) (shown (o := Off.crmSts) (by decide) (by decide))).trans (Dev.sourceReturned_spare _ _ _)
  · exact (shown (by decide) (by decide)).trans (Dev.sourceReturned_rotSts _ _ _)
  · refine mem.trans ?_
    rw [applied]
    rfl
  · have noSpare : Dev.flag _ Fld.crmSts_noSpare = Dev.flag _ Fld.crmSts_noSpare :=
      congrArg (fun w => fieldOf w 24 1 == 1) (shown (o := Off.crmSts) (by decide) (by decide))
    exact (noSpare.trans (Dev.sourceReturned_noSpare _ _ _)).trans (congrArg (fun l => !List.isEmpty l) places.symm)

end Sys2Proof.Machine


namespace Sys2Proof.Machine

/-! ### XT_BIST_RUN (R491, R492) -/

theorem exec_xtBistRun (i : Iface) (p : Payload) (s : State) :
    exec (.xtBistRun i p) s = s.on fun d => d.mailbox i (.xtBistRun i p) 0xC040 (bodyBistRun i p) := rfl

/-- What the command does with its three bytes. -/
def Dev.bistRun (d : Dev) (i : Iface) (kind index option : Nat) : Dev :=
  match d.bistRefusal kind index option with
  | some rc => d.complete i 0xC040 rc []
  | none =>
    if kind = 1 then
      if d.mayStage i then (d.stage i (.rotation (Fin.ofNat 32 index) i)).complete i 0xC040 rcSuccess []
      else d.complete i 0xC040 rcBusy []
    else (d.complete i 0xC040 rcBackground []).startTest kind index i

theorem xtBistRun_runs {d : Dev} {i : Iface} {p : Payload} (takes : d.takesNow i 0xC040) (own : d.ownPayload p 3) :
    d.mailbox i (.xtBistRun i p) 0xC040 (bodyBistRun i p) = d.bistRun i (byteAt (p.drop 8) 0) (byteAt (p.drop 8) 1) (byteAt (p.drop 8) 2) := by
  rw [Dev.mailbox_now d i _ _ _ takes, bodyBistRun, Dev.vendor_own d i _ p 3 _ own]
  rfl

section
variable (d : Dev)

theorem Dev.complete_fg (i : Iface) (op rc : Nat) (out : Payload) : (d.complete i op rc out).mb.fg = d.mb.fg := by
  obtain ⟨r, w, mb⟩ := d.complete_mb i op rc out
  rw [mb]

/-- Staging changes the staging area and registers, nothing more. -/
theorem Dev.stage_kept (i : Iface) (c : StagedCmd) : (d.stage i c).crm = d.crm ∧ (d.stage i c).mb = d.mb ∧
    (d.stage i c).stg.cmds = d.stg.cmds ++ [c] := by
  simp [Dev.stage, Dev.staged, Dev.ownStaging, Dev.syncStaging]

/-- A test that is not refused is one of the table's. -/
theorem Dev.bistListed_of_refusal {kind index option : Nat} (taken : d.bistRefusal kind index option = none) :
    bistListed kind index option = true := by
  by_contra other
  rw [Dev.bistRefusal, if_pos other] at taken
  cases taken

theorem bistListed_small {kind index option : Nat} (listed : bistListed kind index option = true) : kind < 16 ∧ index < 32 := by
  unfold bistListed at listed
  split at listed
  all_goals simp only [Bool.and_eq_true, Bool.or_eq_true, decide_eq_true_eq, beq_iff_eq, Bool.false_eq_true] at listed
  all_goals omega

/-- What a self-test shows of itself while it runs. -/
structure TestShown (a b : Dev) : Prop where
  bist : b.bist = a.bist
  run : b.flag Fld.rasBistSts_run = a.flag Fld.rasBistSts_run
  kind : b.fld Fld.rasBistSts_kind = a.fld Fld.rasBistSts_kind
  index : b.fld Fld.rasBistSts_index = a.fld Fld.rasBistSts_index

theorem TestShown.of_bench {a b : Dev} (same : b.bench = a.bench) : TestShown a b where
  bist := congrArg Bench.bist same
  run := congrArg (fun w => fieldOf w 31 1 == 1) (Dev.reg_of_bench (o := Off.rasBistSts) (by rw [same]) (by decide))
  kind := Dev.fld_of_bench (by rw [same]) (by decide)
  index := Dev.fld_of_bench (by rw [same]) (by decide)

theorem TestShown.setFlag {a b : Dev} (shown : TestShown a b) {f : Fld} (v : Bool) (run : f.apart Fld.rasBistSts_run = true)
    (kind : f.apart Fld.rasBistSts_kind = true) (index : f.apart Fld.rasBistSts_index = true) : TestShown a (b.setFlag f v) where
  bist := shown.bist
  run := (b.setFlag_flag_apart v run).trans shown.run
  kind := (b.fld_setFld_apart _ _ _ kind).trans shown.kind
  index := (b.fld_setFld_apart _ _ _ index).trans shown.index

/-- Preparing the target leaves what the test shows of itself. -/
theorem Dev.bistPrepare_shown (kind index : Nat) : TestShown d (d.bistPrepare kind index) := by
  unfold Dev.bistPrepare
  split
  · exact (TestShown.of_bench ((Dev.fence_bench _ _).trans d.snoopAll_bench)).setFlag true (by decide) (by decide) (by decide)
  split
  · exact (TestShown.of_bench d.snoopAll_bench).setFlag true (by decide) (by decide) (by decide)
  split
  · exact TestShown.of_bench (ite_bench (d.fence_bench _) rfl)
  split
  · exact TestShown.of_bench rfl
  · exact TestShown.of_bench rfl

theorem TestShown.startFg {a b : Dev} (shown : TestShown a b) (k : Nat) (i : Option Iface) (w : Work) (planned : Nat) :
    TestShown a (b.startFg k i w planned) := by
  have started : TestShown a { b with mb := { b.mb with fg := some ⟨k, i, w, 0, planned, false, 0⟩, bg := 0 } } :=
    ⟨shown.bist, shown.run, shown.kind, shown.index⟩
  have same := Dev.syncBrew_reg { b with mb := { b.mb with fg := some ⟨k, i, w, 0, planned, false, 0⟩, bg := 0 } } (o := Off.rasBistSts) (by decide)
  obtain ⟨r, synced⟩ := Dev.syncBrew_regsOf { b with mb := { b.mb with fg := some ⟨k, i, w, 0, planned, false, 0⟩, bg := 0 } }
  refine ⟨?_, ?_, ?_, ?_⟩
  · rw [Dev.startFg, synced]
    exact started.bist
  · exact (congrArg (fun w => fieldOf w 31 1 == 1) same).trans started.run
  · exact (congrArg (fieldOf · 20 4) same).trans started.kind
  · exact (congrArg (fieldOf · 15 5) same).trans started.index

theorem Dev.startFg_fg (k : Nat) (i : Option Iface) (w : Work) (planned : Nat) :
    (d.startFg k i w planned).mb.fg = some ⟨k, i, w, 0, planned, false, 0⟩ := by
  obtain ⟨r, synced⟩ := Dev.syncBrew_regsOf { d with mb := { d.mb with fg := some ⟨k, i, w, 0, planned, false, 0⟩, bg := 0 } }
  rw [Dev.startFg, synced]

/-- The test to run, shown as running. -/
def Dev.testNamed (d : Dev) (kind index : Nat) (i : Iface) : Dev :=
  let d := { d with bist := { d.bist with run := some (kind, index, some i) } }
  ((d.setFlag Fld.rasBistSts_run true).setFld Fld.rasBistSts_kind kind).setFld Fld.rasBistSts_index index

theorem Dev.testNamed_shown {kind index : Nat} (i : Iface) (kind_small : kind < 16) (index_small : index < 32) :
    (d.testNamed kind index i).flag Fld.rasBistSts_run = true ∧ (d.testNamed kind index i).fld Fld.rasBistSts_kind = kind ∧
      (d.testNamed kind index i).fld Fld.rasBistSts_index = index := by
  unfold Dev.testNamed
  dsimp only
  rw [Dev.setFld_flag_apart _ _ (by decide), Dev.setFld_flag_apart _ _ (by decide), Dev.flag_setFlag_same _ _ _ (by decide) rfl,
    Dev.fld_setFld_apart _ _ _ _ (by decide), Dev.fld_setFld_same _ _ _ (by decide), Dev.fld_setFld_same _ _ _ (by decide)]
  exact ⟨rfl, Nat.mod_eq_of_lt kind_small, Nat.mod_eq_of_lt index_small⟩

/-- A test that starts runs as the foreground brew, and shows its kind and index. -/
theorem Dev.startTest_started {kind index : Nat} (i : Iface) (kind_small : kind < 16) (index_small : index < 32) :
    (d.startTest kind index i).bist.run = some (kind, index, some i) ∧ (d.startTest kind index i).flag Fld.rasBistSts_run = true ∧
    (d.startTest kind index i).fld Fld.rasBistSts_kind = kind ∧ (d.startTest kind index i).fld Fld.rasBistSts_index = index ∧
    (d.startTest kind index i).mb.fg = some ⟨7, some i, .test kind index, 0, if kind = 2 ∨ kind = 3 then 6 * 528 else 1, false, 0⟩ := by
  obtain ⟨run, kind_shown, index_shown⟩ := d.testNamed_shown i kind_small index_small
  have shown := ((d.testNamed kind index i).bistPrepare_shown kind index).startFg 7 (some i) (.test kind index)
    (if kind = 2 ∨ kind = 3 then 6 * 528 else 1)
  exact ⟨congrArg Bist.run shown.bist, shown.run.trans run, shown.kind.trans kind_shown, shown.index.trans index_shown,
    Dev.startFg_fg _ _ _ _ _⟩

end

theorem completes_xtBistRun_rotation {s : State} {i : Iface} {p : Payload} (takes : s.dev.takesNow i 0xC040) (own : s.dev.ownPayload p 3)
    (kind : byteAt (p.drop 8) 0 = 1) (taken : s.dev.bistRefusal 1 (byteAt (p.drop 8) 1) (byteAt (p.drop 8) 2) = none)
    (stages : s.dev.mayStage i = true) : Completes (.xtBistRun i p) s fun d => d.answered i rcSuccess 0xC040 [] ∧ d.mb.fg = s.dev.mb.fg ∧
      d.crm = s.dev.crm ∧ d.stg.cmds = s.dev.stg.cmds ++ [.rotation (Fin.ofNat 32 (byteAt (p.drop 8) 1)) i] := by
  refine .of_settle (exec_xtBistRun i p s) ?_
  obtain ⟨crm, mb, cmds⟩ := s.dev.stage_kept i (.rotation (Fin.ofNat 32 (byteAt (p.drop 8) 1)) i)
  rw [xtBistRun_runs takes own, kind]
  simp only [Dev.bistRun, taken, stages, if_true]
  refine ⟨Dev.complete_answered _ _ _ _ _, ?_, ?_, ?_⟩
  · rw [settle_mb, Dev.complete_fg, mb]
  · rw [settle_crm, Dev.complete_crm, crm]
  · rw [settle_stg, Dev.complete_stg, cmds]

theorem completes_xtBistRun_test {s : State} {i : Iface} {p : Payload} (takes : s.dev.takesNow i 0xC040) (own : s.dev.ownPayload p 3)
    (kind : byteAt (p.drop 8) 0 ≠ 1) (taken : s.dev.bistRefusal (byteAt (p.drop 8) 0) (byteAt (p.drop 8) 1) (byteAt (p.drop 8) 2) = none) :
    Completes (.xtBistRun i p) s fun d => d.bist.run = some (byteAt (p.drop 8) 0, byteAt (p.drop 8) 1, some i) ∧
      d.flag Fld.rasBistSts_run = true ∧ d.fld Fld.rasBistSts_kind = byteAt (p.drop 8) 0 ∧ d.fld Fld.rasBistSts_index = byteAt (p.drop 8) 1 ∧
      d.mb.fg = some ⟨7, some i, .test (byteAt (p.drop 8) 0) (byteAt (p.drop 8) 1), 0,
        if byteAt (p.drop 8) 0 = 2 ∨ byteAt (p.drop 8) 0 = 3 then 6 * 528 else 1, false, 0⟩ := by
  refine .of_settle (exec_xtBistRun i p s) ?_
  obtain ⟨kind_small, index_small⟩ := bistListed_small (s.dev.bistListed_of_refusal taken)
  rw [xtBistRun_runs takes own]
  simp only [Dev.bistRun, taken, kind, if_false]
  exact Dev.startTest_started _ i kind_small index_small

theorem completes_xtBistRun_refused {s : State} {rc : Nat} {i : Iface} {p : Payload} (takes : s.dev.takesNow i 0xC040) (own : s.dev.ownPayload p 3)
    (refused : s.dev.bistRefusal (byteAt (p.drop 8) 0) (byteAt (p.drop 8) 1) (byteAt (p.drop 8) 2) = some rc) :
    Completes (.xtBistRun i p) s fun d => d.answered i rc 0xC040 [] ∧ d.bist = s.dev.bist ∧ d.mb.fg = s.dev.mb.fg := by
  refine .of_settle (exec_xtBistRun i p s) ?_
  rw [xtBistRun_runs takes own]
  simp only [Dev.bistRun, refused]
  refine ⟨Dev.complete_answered _ _ _ _ _, ?_, ?_⟩
  · rw [settle_bist, Dev.complete_bist]
  · rw [settle_mb, Dev.complete_fg]

/-! ### BIST_TEST_END (R494 to R498) -/

theorem exec_bistTestEnd (result : BistResult) (l : List (BitVec 64)) (pipes : List (Bool × Fin 66)) (s : State) :
    exec (.bistTestEnd result l pipes) s = execBistTestEnd result l s pipes := rfl

/-- A test's result is recorded and its brew ended. -/
def Dev.testEnded (d : Dev) (result : BistResult) (locs : List (BitVec 64)) : Dev :=
  (d.bistResult (bistCode result) locs).endFg (if result = .aborted then rcAborted else rcSuccess) (bistOut (bistCode result) locs)

theorem bistCode_lt (result : BistResult) : bistCode result < 8 := by cases result <;> decide

section
variable (d : Dev) (result : BistResult) (locs : List (BitVec 64))

theorem Dev.testEnded_shown : (d.testEnded result locs).mb.fg = none ∧ (d.testEnded result locs).bist.run = none ∧
    (d.testEnded result locs).flag Fld.rasBistSts_run = false ∧ (d.testEnded result locs).fld Fld.rasBistSts_result = bistCode result := by
  have same := (d.bistResult (bistCode result) locs).endFg_reg (if result = .aborted then rcAborted else rcSuccess) (bistOut (bistCode result) locs)
    (o := Off.rasBistSts) (by decide) (by decide)
  obtain ⟨code, run⟩ := d.bistResult_result locs (bistCode_lt result)
  obtain ⟨_, _, _, _, _, _, recorded⟩ := d.bistResult_logsOf (bistCode result) locs
  obtain ⟨_, _, _, _, _, _, ended⟩ := (d.bistResult (bistCode result) locs).endFg_shape
    (if result = .aborted then rcAborted else rcSuccess) (bistOut (bistCode result) locs)
  refine ⟨Dev.endFg_fg _ _ _, ?_, ?_, ?_⟩
  · rw [Dev.testEnded, ended, recorded]
  · exact (congrArg (fun w => fieldOf w 31 1 == 1) same).trans run
  · exact (congrArg (fieldOf · 12 3) same).trans code

theorem Dev.testEnded_prs : (d.testEnded result locs).prs = d.prs := by
  obtain ⟨_, _, _, _, _, _, recorded⟩ := d.bistResult_logsOf (bistCode result) locs
  obtain ⟨_, _, _, _, _, _, ended⟩ := (d.bistResult (bistCode result) locs).endFg_shape
    (if result = .aborted then rcAborted else rcSuccess) (bistOut (bistCode result) locs)
  rw [Dev.testEnded, ended, recorded]

theorem Dev.testEnded_farState {c : Nat} (hc : c < 8) : (d.testEnded result locs).fld (Fld.farChSts_state c) = d.fld (Fld.farChSts_state c) := by
  have shown := benchReg_farChSts hc
  have other : Off.farChSts c ≠ Off.rasBistSts := by unfold Off.farChSts Off.rasBistSts; omega
  have ended := (d.bistResult (bistCode result) locs).endFg_reg (if result = .aborted then rcAborted else rcSuccess) (bistOut (bistCode result) locs)
    (mboxReg_of_benchReg shown) (relayReg_of_benchReg shown)
  exact congrArg (fieldOf · 29 3) (ended.trans (d.bistResult_reg _ _ (eventReg_of_benchReg shown) other))

end

end Sys2Proof.Machine


namespace Sys2Proof.Machine

/-! ### A far channel after its test (R479, R496) -/

section
variable (d : Dev)

theorem Dev.degrade_regs (num : Nat) : (d.degrade num).bench.regs = d.bench.regs := by
  obtain ⟨k, moved⟩ := d.degrade_bench num
  rw [moved]

theorem Dev.modFch_regs_bench (c : Nat) (f : FarChan → FarChan) : (d.modFch c f).bench.regs = d.bench.regs := rfl

theorem benchReg_cryFarBound {c : Nat} (hc : c < 8) : benchReg (Off.cryFarBound c) = false := by
  refine benchReg_false ?_ ?_ ?_
  all_goals
    simp only [Off.cryFarBound, Off.rasBistSts]
    omega

/-- A far channel that is lost shows it. -/
theorem Dev.loseFar_state {c : Nat} (hc : c < 8) : (d.loseFar c).fld (Fld.farChSts_state c) = 4 := by
  have marked : (d.setFld (Fld.farChSts_state c) 4).fld (Fld.farChSts_state c) = 4 := Dev.fld_setFld_same _ _ _ (by simp [Fld.farChSts_state])
  unfold Dev.loseFar
  split
  · next lost => exact beq_iff_eq.1 lost
  · refine (Dev.fld_of_bench (b := d.setFld (Fld.farChSts_state c) 4) ?_ (benchReg_farChSts hc)).trans marked
    have ended (e : Dev) (r : Option Rekey) : Dev.bench { (e.setFlag (Fld.cryFarBound_end c) true) with
        cry := { (e.setFlag (Fld.cryFarBound_end c) true).cry with rekey := r } } = e.bench :=
      e.setFlag_bench true (benchReg_cryFarBound hc)
    have asleep (e : Dev) (b : Bool) : (e.setBit Fld.glbModeSts_sleepCh c b).bench = e.bench := e.setBit_bench c b (by decide)
    simp only [Dev.run_bench, Dev.degrade_regs, Dev.floorMoved_bench, Dev.raise_bench, apply_ite Dev.bench, Dev.modFch_bench, and_self, implies_true,
      ended, ite_self, Dev.listChannel_bench, Dev.countPinned_bench, Dev.dropMaps_bench, Dev.dropQueues_bench, Dev.dropJobs_bench,
      Dev.dropFrames_bench, Dev.dropInFlight_bench, Dev.fence_bench, asleep, Dev.modFch_regs_bench]

theorem Dev.powerOn_bench (n : Nat) : (d.powerOn n).bench = d.bench :=
  ite_bench (Dev.setDom_bench _ _ _) (ite_bench rfl rfl)

theorem Dev.farServes_state {c : Nat} (hc : c < 8) (f g : FarChan → FarChan) (k n : Nat) :
    ((((((d.setFld (Fld.farChSts_state c) 2).modFch c f).modFch k g).powerOn n).floorMoved).fld (Fld.farChSts_state c)) = 2 := by
  have same : (((((d.setFld (Fld.farChSts_state c) 2).modFch c f).modFch k g).powerOn n).floorMoved).bench.regs =
      (d.setFld (Fld.farChSts_state c) 2).bench.regs := by
    rw [Dev.floorMoved_bench, Dev.powerOn_bench, Dev.modFch_regs_bench, Dev.modFch_regs_bench]
  rw [Dev.fld_of_bench same (benchReg_farChSts hc), Dev.fld_setFld_same _ _ _ (by simp [Fld.farChSts_state])]
  rfl

/-- A far channel is Active again once it passed its test, and Lost otherwise. -/
theorem Dev.farTested_state {c : Nat} (hc : c < 8) (pass : Bool) : (d.farTested c pass).fld (Fld.farChSts_state c) = if pass = true then 2 else 4 := by
  unfold Dev.farTested
  dsimp only
  split
  · exact Dev.farServes_state _ hc _ _ _ _
  · split
    · next lost => exact beq_iff_eq.1 lost
    · exact Dev.loseFar_state _ hc

end

/-- What a test that ends does to its target (R494 to R497). -/
def Dev.targetTested (d : Dev) (kind index : Nat) (result : BistResult) (locs : List (BitVec 64)) (pipes : List (Bool × Fin 66)) : Dev :=
  let fail := result = .repairable ∨ result = .beyondSpares
  if kind = 2 then
    let d := (d.quadrantCleared index).powerOn (2 + index)
    if result = .beyondSpares then
      ((List.range 32).filter fun i => quadrantOf i == index && locs.any fun l => locChan l == i).foldl (fun d i => d.loseCrema i) d
    else d
  else if kind = 3 then d.farTested index (result = .pass)
  else if kind = 4 then
    let d := if fail then d.mapOutPipes (index == 1) pipes else d
    if index = 1 then d.powerOn 11 else d
  else if kind = 5 then
    if fail then { d with prs := { d.prs with underTest := none, lossDue := d.prs.lossDue ++ [Fin.ofNat 4 index] } }
    else d.returnUnit
  else d.arraysCleared index

/-- A test that no snoop holds back ends with its result. -/
theorem execBistTestEnd_ends {s : State} {b : Brew} {kind index : Nat} (result : BistResult) (l : List (BitVec 64)) (pipes : List (Bool × Fin 66))
    (live : s.dev.live = true) (fg : s.dev.mb.fg = some b) (work : b.work = .test kind index) (alone : kind = 3 ∨ kind = 4 ∨ kind = 5) :
    exec (.bistTestEnd result l pipes) s =
      .next { s with dev := settle s.dev ((s.dev.targetTested kind index result l pipes).testEnded result (if kind = 4 ∨ kind = 5 then [] else l)) } := by
  have runs : ¬ (kind = 1 ∨ ¬ s.dev.live = true ∨ ((kind = 2 ∨ kind = 6) ∧ ¬ s.dev.home.snoops.isEmpty = true)) := by
    rintro (one | dead | ⟨destructive, -⟩)
    · omega
    · exact dead live
    · omega
  rw [exec_bistTestEnd, execBistTestEnd, State.on_next]
  simp only [fg, work, if_neg runs]
  rfl

theorem completes_bistTestEnd {s : State} {b : Brew} {k x : Nat} {result : BistResult} {l : List (BitVec 64)} {pipes : List (Bool × Fin 66)}
    (live : s.dev.live = true) (fg : s.dev.mb.fg = some b) (work : b.work = .test k x)
    (listed : k = 3 ∨ (k = 4 ∧ x = 0) ∨ (k = 5 ∧ result = .repairable)) :
    Completes (.bistTestEnd result l pipes) s fun d => d.mb.fg = none ∧ d.bist.run = none ∧ d.flag Fld.rasBistSts_run = false ∧
      d.fld Fld.rasBistSts_result = bistCode result ∧
      (k = 3 → x < 8 → d.fld (Fld.farChSts_state x) = if result = .pass then 2 else 4) ∧
      (k = 5 → d.prs.lossDue = s.dev.prs.lossDue ++ [Fin.ofNat 4 x]) := by
  have alone : k = 3 ∨ k = 4 ∨ k = 5 := by omega
  refine ⟨_, execBistTestEnd_ends result l pipes live fg work alone, rfl, ?_⟩
  obtain ⟨idle, no_run, run, code⟩ := (s.dev.targetTested k x result l pipes).testEnded_shown result (if k = 4 ∨ k = 5 then [] else l)
  refine ⟨idle, no_run, run, code, ?_, ?_⟩
  · rintro rfl hx
    rw [settle_fld, Dev.testEnded_farState _ _ _ hx]
    refine (s.dev.farTested_state hx (result = .pass)).trans ?_
    simp only [decide_eq_true_eq]
  · rintro rfl
    have failed : result = .repairable := by
      rcases listed with three | ⟨four, -⟩ | ⟨-, failed⟩
      · cases three
      · cases four
      · exact failed
    rw [settle_prs, Dev.testEnded_prs]
    simp [Dev.targetTested, failed]

theorem completes_unchanged {c : Instr} {s : State} {f : Dev → Dev} (exec_c : exec c s = s.on f) (same : f s.dev = s.dev) :
    Completes c s fun d => d = s.dev :=
  .of_settle exec_c (by rw [same, settle_self])

/-- Settles O17: a rotation's phases by the lemma of each command, the tests by what starts and ends the foreground brew. -/
theorem rotationAndSelfTestsRun : Obligations.RotationAndSelfTestsRun := by
  unfold Obligations.RotationAndSelfTestsRun
  refine ⟨?copied, ?copying, ?drained, ?draining, ?testing, ?tested, ?beyond, ?trained, ?untrained, ?filled, ?rotation, ?test, ?refused, ?ended⟩
  case copied =>
    intro s r boundary live rot phase all _
    exact completes_rotationCopyDone boundary live rot phase all
  case copying =>
    intro s r boundary _ rot _ early
    refine completes_unchanged (exec_rotationCopyDone s) ?_
    rw [Dev.atEdge_atBoundary _ boundary, Dev.edgeRotationCopyDone_early rot early]
  case drained =>
    intro s r live rot phase even odd
    exact completes_rotationSourceDrained live rot phase even odd
  case draining =>
    intro s r _ rot _ queued
    exact completes_unchanged (exec_rotationSourceDrained s) (Dev.sourceDrained_early rot queued)
  case testing =>
    intro s r result l _ rot _ early
    exact completes_rotationTestDone_early result l rot early
  case tested =>
    intro s r result l live rot phase due within
    exact completes_rotationTestDone_passed l live rot phase due within
  case beyond =>
    intro s r l live rot phase due isolated
    exact completes_rotationTestDone_beyond l live rot phase due isolated
  case trained =>
    intro s r live rot phase
    exact completes_rotationRetrainDone_ok live rot phase
  case untrained =>
    intro s r live rot phase isolated
    exact completes_rotationRetrainDone_failed live rot phase isolated
  case filled =>
    intro s r live rot phase
    exact completes_rotationFillDone live rot phase
  case rotation =>
    intro s i p takes own kind taken stages
    exact completes_xtBistRun_rotation takes own kind taken stages
  case test =>
    rintro s k x i p takes own rfl rfl kind taken
    exact completes_xtBistRun_test takes own kind taken
  case refused =>
    intro s rc i p takes own refused
    exact completes_xtBistRun_refused takes own refused
  case ended =>
    intro s b k x result l pipes live fg work listed
    exact completes_bistTestEnd live fg work listed

end Sys2Proof.Machine


namespace Sys2Proof.Machine

/-! ### Lines read without an error (R175, R176, R182) -/

set_option maxRecDepth 20000 in
theorem decodeLine_dt79_sound : Code.dt79.decodeLine false [] = .good false 0 := rfl

set_option maxRecDepth 20000 in
theorem decodeLine_d78_sound : Code.d78.decodeLine false [] = .good false 0 := rfl

set_option maxRecDepth 20000 in
theorem decodeLine_d78_poison : Code.d78.decodeLine true [] = .poisoned := rfl

/-- The CRC of zeros from zero is zero. -/
theorem crcMsb_zero {bytes : Payload} (zero : ∀ b ∈ bytes, b = 0) : crcMsb 16 0x8BB7 0 bytes = 0 := by
  have one : (List.range 8).foldl (fun r i =>
      let top := (r >>> 15) % 2 == 1
      let inb := (0 : Byte).getLsbD (7 - i)
      let r' := (r <<< 1) % 2 ^ 16
      if top != inb then r' ^^^ 0x8BB7 else r') 0 = 0 := by decide
  unfold crcMsb
  induction bytes with
  | nil => rfl
  | cons b bs ih =>
    obtain ⟨rfl, rest⟩ := List.forall_mem_cons.1 zero
    rw [List.foldl_cons]
    exact (congrArg (fun r => bs.foldl _ r) one).trans (ih rest)

theorem lineCheck_sound : lineCheckFails 0 [] = false := by
  have check : lineCheck 0 0 = 0 := by
    unfold lineCheck
    rw [crcMsb_zero]
    · rfl
    · intro b hb
      rcases List.mem_append.1 hb with line | tweak
      · obtain ⟨i, -, rfl⟩ := List.mem_map.1 line
        simp [lineByte]
      · obtain ⟨i, -, rfl⟩ := List.mem_map.1 tweak
        simp
  unfold lineCheckFails
  rw [check]
  decide

theorem lineState_fresh (a b c : Bool) : (BitVec.ofNat 8 (17 * (bitOf a + 2 * bitOf b + 4 * bitOf c))).getLsbD 2 =
    (BitVec.ofNat 8 (17 * (bitOf a + 2 * bitOf b + 4 * bitOf c))).getLsbD 6 := by
  revert a b c
  decide

theorem readState_sound (stored : BitVec 8) : readState stored [] = stored := by
  have none_flipped : BitVec.ofNat 8 (((List.range 8).map fun w => bitOf ((([] : List (BitVec 80)).getD w 0).getLsbD 79) * 2 ^ w).sum) = 0 := by decide
  rw [readState, none_flipped]
  exact BitVec.xor_zero

/-- The state bits of a line that is read without an error need no correction of FRESH. -/
theorem Dev.checkState_sound (d : Dev) (c cli : Nat) : (d.checkState c cli []).2 = d := by
  unfold Dev.checkState
  have same : ((d.lineState c cli).getLsbD 2 != (d.lineState c cli).getLsbD 6) = false := by
    rw [Dev.lineState, lineState_fresh, bne_self_eq_false]
  simp only [readState_sound, same, Bool.false_eq_true, if_false]

/-! ### Memory under an access and under a correction -/

section
variable (d : Dev)

theorem Dev.modSched_mem (s : Nat) (f : Sched → Sched) : (d.modSched s f).mem = d.mem := rfl

theorem Dev.enqueue_mem (s line : Nat) (w : Who) : (d.enqueue s line w).mem = d.mem := by
  grind [Dev.enqueue, Dev.modSched_mem]

theorem Dev.cremaAccess_mem (g l : Nat) (w : Who) : (d.cremaAccess g l w).mem = d.mem := by
  grind [Dev.cremaAccess, Dev.enqueue_mem]

theorem Dev.correctedOn_mem (far : Bool) (ch : Nat) (loc : BitVec 64) : (d.correctedOn far ch loc).mem = d.mem := by
  unfold Dev.correctedOn
  simp only [apply_ite Dev.mem, Dev.raise_mem, Dev.modFch_mem, Dev.countCe, Dev.bump_mem, ite_self]

theorem Dev.queueNbr_mem (c sub bank row : Nat) (rfm : Bool) : (d.queueNbr c sub bank row rfm).mem = d.mem := by
  unfold Dev.queueNbr
  simp only [apply_ite Dev.mem, Dev.countAs_mem, Dev.modFch_mem, ite_self]

theorem Dev.countDist_mem (c bank : Nat) (t : Option TenantId) (relay : Bool) : (d.countDist c bank t relay).mem = d.mem := by
  unfold Dev.countDist
  simp only [apply_ite Dev.mem, Dev.raise_mem, Dev.modFch_mem, ite_self]

theorem Dev.activate_mem (c cli : Nat) (t : Option TenantId) (relay : Bool) : (d.activate c cli t relay).mem = d.mem := by
  unfold Dev.activate
  simp only [apply_ite Dev.mem, Dev.countDist_mem, Dev.queueNbr_mem, Dev.modFch_mem, ite_self]

theorem Dev.activateRow_mem (l : BitVec 64) : (d.activateRow l).mem = d.mem := by
  unfold Dev.activateRow
  split
  · exact d.activate_mem _ _ _ _
  · rfl

/-- The copy of a Crema line that is read without an error leaves memory as it was. -/
theorem Dev.copyCremaLine_mem (g l : Nat) : (d.copyCremaLine g l []).mem = d.mem := by
  have read : (((d.cremaAccess g l {}).cremaAccess g l { wr := true })).mem = d.mem := by
    rw [Dev.cremaAccess_mem, Dev.cremaAccess_mem]
  unfold Dev.copyCremaLine Dev.checkCremaLine
  dsimp only
  cases ((d.cremaAccess g l {}).cremaAccess g l { wr := true }).mem.cremaPoison.has (cremaKey g l)
  case true => simp only [decodeLine_d78_poison, Bool.true_or, if_true, read]
  case false => simp only [decodeLine_d78_sound, lineCheck_sound, Bool.false_eq_true, if_false, read]

/-- The copy of a far line that is read without an error and not poisoned leaves memory as it was. -/
theorem Dev.copyFarLine_mem (c cli : Nat) (sound : d.mem.farPoison = []) : (d.copyFarLine c cli []).mem = d.mem := by
  have unpoisoned : d.mem.farPoison.has (farKey c cli) = false := by rw [sound]; rfl
  have checked := d.checkState_sound c cli
  unfold Dev.copyFarLine
  simp only [unpoisoned, decodeLine_dt79_sound, Bool.false_or]
  split
  · rw [Dev.correctedOn_mem, checked]
  · rw [checked]

theorem foldl_copyFarLine_mem (c : Nat) (l : List (Nat × Nat)) (sound : d.mem.farPoison = []) :
    (l.foldl (fun d (e : Nat × Nat) => d.copyFarLine c e.1 []) d).mem = d.mem := by
  induction l generalizing d with
  | nil => rfl
  | cons e l ih =>
    have copied := d.copyFarLine_mem c e.1 sound
    rw [List.foldl_cons, ih _ (by rw [copied, sound]), copied]

theorem Dev.copyFarRow_mem (l : BitVec 64) (sound : d.mem.farPoison = []) : (d.copyFarRow l []).mem = d.mem := by
  unfold Dev.copyFarRow
  simp only [List.getD_nil]
  rw [foldl_copyFarLine_mem _ _ _ (by rw [Dev.activateRow_mem, sound]), Dev.activateRow_mem]

end

end Sys2Proof.Machine


namespace Sys2Proof.Machine

/-! ### Numbers in payloads -/

theorem leBytes_length (n v : Nat) : (leBytes n v).length = n := by
  induction n generalizing v with
  | zero => rfl
  | succ n ih => exact congrArg Nat.succ (ih _)

theorem leBytes_take {n k : Nat} (v : Nat) (small : n ≤ k) : (leBytes n v).take k = leBytes n v :=
  List.take_of_length_le (by rw [leBytes_length]; exact small)

/-- The number that bytes spell, byte 0 first. -/
theorem foldr_take_add (l : Payload) (m n : Nat) :
    (l.take (m + n)).foldr (fun b acc => b.toNat + 256 * acc) 0 =
      (l.take m).foldr (fun b acc => b.toNat + 256 * acc) 0 + 256 ^ m * ((l.drop m).take n).foldr (fun b acc => b.toNat + 256 * acc) 0 := by
  induction m generalizing l with
  | zero => simp
  | succ m ih =>
    cases l with
    | nil => simp
    | cons b l =>
      rw [Nat.add_right_comm, List.take_succ_cons, List.take_succ_cons, List.drop_succ_cons, List.foldr_cons, List.foldr_cons, ih l]
      ring

/-- A number of more bytes is its low bytes and its high ones. -/
theorem leNat_add (p : Payload) (at_ m n : Nat) : leNat p at_ (m + n) = leNat p at_ m + 256 ^ m * leNat p (at_ + m) n := by
  unfold leNat
  rw [foldr_take_add, List.drop_drop]

theorem foldr_take_lt (l : Payload) (n : Nat) : (l.take n).foldr (fun b acc => b.toNat + 256 * acc) 0 < 256 ^ n := by
  induction n generalizing l with
  | zero => simp
  | succ n ih =>
    cases l with
    | nil => simp
    | cons b l =>
      have := ih l
      have := b.isLt
      rw [List.take_succ_cons, List.foldr_cons, pow_succ]
      omega

theorem leNat_lt (p : Payload) (at_ n : Nat) : leNat p at_ n < 256 ^ n := foldr_take_lt _ n

/-- The locator of a payload is what its two words spell. -/
theorem locAt_words (q : Payload) : BitVec.ofNat 64 ((BitVec.ofNat 32 (leNat q 0 4)).toNat + (BitVec.ofNat 32 (leNat q 4 4)).toNat * 2 ^ 32) = locAt q := by
  have lo : leNat q 0 4 < 2 ^ 32 := leNat_lt q 0 4
  have hi : leNat q 4 4 < 2 ^ 32 := leNat_lt q 4 4
  rw [locAt, leNat_add q 0 4 4, BitVec.toNat_ofNat, BitVec.toNat_ofNat, Nat.mod_eq_of_lt lo, Nat.mod_eq_of_lt hi]
  congr 1
  ring

/-- A CONFIRM that is the complement of the low word is its inverse. -/
theorem confirm_inverse {a b : Nat} (low : a < 2 ^ 32) (confirm : b = 2 ^ 32 - 1 - a) : BitVec.ofNat 32 b = ~~~BitVec.ofNat 32 a := by
  apply BitVec.eq_of_toNat_eq
  rw [BitVec.toNat_not, BitVec.toNat_ofNat, BitVec.toNat_ofNat, Nat.mod_eq_of_lt low, confirm]
  exact Nat.mod_eq_of_lt (by omega)

/-! ### Lists of repairs (R133, R135) -/

/-- The places that are repaired or queued stand in the records. -/
theorem Dev.repairs_of_records {a b : Dev} (same : a.repairRecords = b.repairRecords) : a.repairs = b.repairs := by
  simp only [Dev.repairRecords, RepairRecords.mk.injEq] at same
  obtain ⟨fuses, -, -, hppr, crema, far, -, -, -⟩ := same
  rw [Dev.repairs, Dev.repairs, fuses, hppr, crema, far]

theorem Dev.sparesLeft_of_records {a b : Dev} (same : a.repairRecords = b.repairRecords) (l : BitVec 64) : a.sparesLeft l = b.sparesLeft l := by
  rw [Dev.sparesLeft, Dev.sparesLeft, Dev.repairs_of_records same]

theorem Dev.repaired_of_records {a b : Dev} (same : a.repairRecords = b.repairRecords) (l : BitVec 64) : a.repaired l = b.repaired l := by
  rw [Dev.repaired, Dev.repaired, Dev.repairs_of_records same]

theorem settle_sparesLeft (a b : Dev) (l : BitVec 64) : (settle a b).sparesLeft l = b.sparesLeft l := rfl
theorem settle_repaired (a b : Dev) (l : BitVec 64) : (settle a b).repaired l = b.repaired l := rfl

theorem Dev.repaired_iff (d : Dev) (l : BitVec 64) : d.repaired l = true ↔
    l ∈ d.fuses.repairs ++ d.fuses.hard ++ d.mb.hppr ++ d.mb.softCrema ++ d.mb.softFar := by
  rw [Dev.repaired, Dev.repairs, List.contains_iff_mem, List.mem_eraseDups]

theorem Dev.modFch_repairRecords (d : Dev) (c : Nat) (f : FarChan → FarChan) : (d.modFch c f).repairRecords = d.repairRecords := rfl

/-- A soft repair of a far row enters its list. -/
theorem Dev.repairFar_repairRecords (d : Dev) (l : BitVec 64) :
    (d.repairFar l).repairRecords = { d.repairRecords with softFar := d.mb.softFar ++ [l] } := by
  have listed := Dev.syncRepairs_repairRecords { d with mb := { d.mb with softFar := d.mb.softFar ++ [l] } }
  unfold Dev.repairFar
  dsimp only
  split
  · exact listed
  · exact (Dev.modFch_repairRecords _ _ _).trans listed

/-- A soft repair lists its place, and leaves memory alone. -/
theorem Dev.repairSoft_lists (d : Dev) (l : BitVec 64) : (d.repairSoft l).repaired l = true ∧ (d.repairSoft l).mem = d.mem := by
  unfold Dev.repairSoft
  split
  · next repaired =>
    have records := d.placeRepaired_repairRecords l
    exact ⟨(Dev.repaired_of_records records l).trans repaired, congrArg RepairRecords.mem records⟩
  · split
    · have records := d.repairFar_repairRecords l
      have listed : (d.repairFar l).mb.softFar = d.mb.softFar ++ [l] := congrArg RepairRecords.softFar records
      exact ⟨(Dev.repaired_iff _ l).2 (by simp [listed]), congrArg RepairRecords.mem records⟩
    · have records := d.repairCrema_repairRecords l
      have listed : (d.repairCrema l).mb.softCrema = d.mb.softCrema ++ [l] := congrArg RepairRecords.softCrema records
      exact ⟨(Dev.repaired_iff _ l).2 (by simp [listed]), congrArg RepairRecords.mem records⟩

/-! ### XT_REPAIR_SOFT (R135, R164, R500) -/

theorem exec_xtRepairSoft (i : Iface) (p : Payload) (s : State) :
    exec (.xtRepairSoft i p) s = s.on fun d => d.mailbox i (.xtRepairSoft i p) 0xC041 (bodyRepairSoft i p) := rfl

/-- What the command does with its locator. -/
def Dev.repairSoftBy (d : Dev) (i : Iface) (l : BitVec 64) : Dev :=
  match d.softRefusal l with
  | some rc => d.complete i 0xC041 rc []
  | none => (d.repairSoft l).complete i 0xC041 rcSuccess (leBytes 2 ((d.repairSoft l).sparesLeft l))

theorem xtRepairSoft_runs {d : Dev} {i : Iface} {p : Payload} (takes : d.takesNow i 0xC041) (own : d.ownPayload p 8) :
    d.mailbox i (.xtRepairSoft i p) 0xC041 (bodyRepairSoft i p) = d.repairSoftBy i (locAt (p.drop 8)) := by
  rw [Dev.mailbox_now d i _ _ _ takes, bodyRepairSoft, Dev.vendor_own d i _ p 8 _ own]
  rfl

theorem completes_xtRepairSoft_taken {s : State} {i : Iface} {p : Payload} (takes : s.dev.takesNow i 0xC041) (own : s.dev.ownPayload p 8)
    (taken : s.dev.softRefusal (locAt (p.drop 8)) = none) :
    Completes (.xtRepairSoft i p) s fun d => d.repaired (locAt (p.drop 8)) = true ∧ d.mem = s.dev.mem ∧
      d.answered i rcSuccess 0xC041 (leBytes 2 (d.sparesLeft (locAt (p.drop 8)))) := by
  refine .of_settle (exec_xtRepairSoft i p s) ?_
  rw [xtRepairSoft_runs takes own]
  simp only [Dev.repairSoftBy, taken]
  obtain ⟨listed, mem⟩ := s.dev.repairSoft_lists (locAt (p.drop 8))
  have records := (s.dev.repairSoft (locAt (p.drop 8))).complete_repairRecords i 0xC041 rcSuccess
    (leBytes 2 ((s.dev.repairSoft (locAt (p.drop 8))).sparesLeft (locAt (p.drop 8))))
  have answered := (s.dev.repairSoft (locAt (p.drop 8))).complete_answered i 0xC041 rcSuccess
    (leBytes 2 ((s.dev.repairSoft (locAt (p.drop 8))).sparesLeft (locAt (p.drop 8))))
  rw [leBytes_take _ (by decide)] at answered
  rw [settle_repaired, settle_sparesLeft, settle_mem, Dev.sparesLeft_of_records records, Dev.repaired_of_records records, Dev.complete_mem]
  exact ⟨listed, mem, answered⟩

theorem completes_xtRepairSoft_refused {s : State} {rc : Nat} {i : Iface} {p : Payload} (takes : s.dev.takesNow i 0xC041) (own : s.dev.ownPayload p 8)
    (refused : s.dev.softRefusal (locAt (p.drop 8)) = some rc) :
    Completes (.xtRepairSoft i p) s fun d => d.mb.softCrema = s.dev.mb.softCrema ∧ d.mb.softFar = s.dev.mb.softFar ∧ d.mem = s.dev.mem ∧
      d.answered i rc 0xC041 [] := by
  refine .of_settle (exec_xtRepairSoft i p s) ?_
  rw [xtRepairSoft_runs takes own]
  simp only [Dev.repairSoftBy, refused]
  obtain ⟨_, _, mb⟩ := s.dev.complete_mb i 0xC041 rc []
  rw [settle_mb, mb, settle_mem, Dev.complete_mem]
  exact ⟨rfl, rfl, rfl, Dev.complete_answered _ _ _ _ _⟩

end Sys2Proof.Machine


namespace Sys2Proof.Machine

/-! ### XT_REPAIR_FUSE (R136, R501) -/

theorem exec_xtRepairFuse (i : Iface) (p : Payload) (s : State) :
    exec (.xtRepairFuse i p) s = s.on fun d => d.mailbox i (.xtRepairFuse i p) 0xC042 (bodyRepairFuse i p) := rfl

section
variable (d : Dev)

/-- Barista's own pair of a register, armed and taken off again. -/
def Dev.paired (d : Dev) (i : Iface) (off : Nat) (value : Word) : Dev := (d.arm (ifaceSource i) off value).setArmed (ifaceSource i) none

theorem Dev.drivePair_taken {i : Iface} {off : Nat} {value confirm : Word} {act : Word → Dev → Option Dev} {e : Dev}
    (inverse : confirm = ~~~value) (taken : act value (d.paired i off value) = some e) : d.drivePair i off value confirm act = (e, true, true) := by
  unfold Dev.paired at taken
  simp only [Dev.drivePair, inverse, ne_eq, not_true_eq_false, if_false, taken]

/-- The pair changes the record of armed pairs, and GLB_KEYFAIL where it replaced another one. -/
theorem Dev.paired_shape (i : Iface) (off : Nat) (value : Word) : ∃ e : Dev, (e = d ∨ ∃ other, e = d.keyFail 0 other) ∧
    ∃ a, d.paired i off value = { e with acc := a } := by
  unfold Dev.paired Dev.arm
  dsimp only
  split
  · next a _ => exact ⟨d.keyFail 0 a.off, .inr ⟨a.off, rfl⟩, _, rfl⟩
  · exact ⟨d, .inl rfl, _, rfl⟩

theorem Dev.keyFail_repairRecords (cause off : Nat) : (d.keyFail cause off).repairRecords = d.repairRecords :=
  d.setReg_repairRecords _ (by decide)

theorem Dev.paired_repairRecords (i : Iface) (off : Nat) (value : Word) : (d.paired i off value).repairRecords = d.repairRecords := by
  obtain ⟨e, kept, a, shape⟩ := d.paired_shape i off value
  have same : e.repairRecords = d.repairRecords := by
    rcases kept with rfl | ⟨other, rfl⟩
    · rfl
    · exact d.keyFail_repairRecords 0 other
  rw [shape]
  exact same

/-- Whether a fuse repair is refused does not turn on registers or armed pairs. -/
theorem Dev.fuseRefusal_with (r : Sparse Word) (a : Access) (l : BitVec 64) : Dev.fuseRefusal { d with regs := r, acc := a } l = d.fuseRefusal l := by
  unfold Dev.fuseRefusal
  rfl

theorem Dev.paired_fuseRefusal (i : Iface) (off : Nat) (value hi : Word) (l : BitVec 64) :
    ((d.setReg Off.rasFuseHi hi).paired i off value).fuseRefusal l = d.fuseRefusal l := by
  obtain ⟨e, kept, a, shape⟩ := (d.setReg Off.rasFuseHi hi).paired_shape i off value
  rw [shape]
  rcases kept with rfl | ⟨other, rfl⟩
  · exact d.fuseRefusal_with _ _ l
  · exact d.fuseRefusal_with _ _ l

end

/-- The device once a fuse repair by command has been taken: its pair driven, and its place queued or its burn started. -/
def Dev.fuseRepaired (d : Dev) (i : Iface) (q : Payload) : Dev :=
  let d := ((d.setReg Off.rasFuseHi (BitVec.ofNat 32 (leNat q 4 4))).paired i Off.rasFuseLo (BitVec.ofNat 32 (leNat q 0 4))).setReg
    Off.rasFuseLo (BitVec.ofNat 32 (leNat q 0 4))
  if locKind (locAt q) = 2 then d.hpprQueued (locAt q) else d.burnStarted (locAt q)

theorem xtRepairFuse_taken {d : Dev} {i : Iface} {p : Payload} (takes : d.takesNow i 0xC042) (own : d.ownPayload p 12)
    (taken : d.fuseRefusal (locAt (p.drop 8)) = none) (confirm : leNat (p.drop 8) 8 4 = 2 ^ 32 - 1 - leNat (p.drop 8) 0 4) :
    d.mailbox i (.xtRepairFuse i p) 0xC042 (bodyRepairFuse i p) = (d.fuseRepaired i (p.drop 8)).complete i 0xC042 rcSuccess
      (leBytes 2 ((d.fuseRepaired i (p.drop 8)).sparesLeft (locAt (p.drop 8)))) := by
  rw [Dev.mailbox_now d i _ _ _ takes, bodyRepairFuse, Dev.vendor_own d i _ p 12 _ own]
  generalize p.drop 8 = q at taken confirm
  have inverse := confirm_inverse (leNat_lt q 0 4) confirm
  have loc : ((d.setReg Off.rasFuseHi (BitVec.ofNat 32 (leNat q 4 4))).paired i Off.rasFuseLo (BitVec.ofNat 32 (leNat q 0 4))).fuseLoc
      (BitVec.ofNat 32 (leNat q 0 4)) = locAt q := by
    have hi : ((d.setReg Off.rasFuseHi (BitVec.ofNat 32 (leNat q 4 4))).paired i Off.rasFuseLo (BitVec.ofNat 32 (leNat q 0 4))).reg Off.rasFuseHi =
        BitVec.ofNat 32 (leNat q 4 4) := by
      have records := (d.setReg Off.rasFuseHi (BitVec.ofNat 32 (leNat q 4 4))).paired_repairRecords i Off.rasFuseLo (BitVec.ofNat 32 (leNat q 0 4))
      rw [Dev.setReg_fuseHi_repairRecords] at records
      exact congrArg RepairRecords.fuseHi records
    rw [Dev.fuseLoc, hi, locAt_words]
  have acted := fuseAct_taken (d := (d.setReg Off.rasFuseHi (BitVec.ofNat 32 (leNat q 4 4))).paired i Off.rasFuseLo (BitVec.ofNat 32 (leNat q 0 4)))
    (v := BitVec.ofNat 32 (leNat q 0 4)) (by rw [loc, Dev.paired_fuseRefusal, taken])
  rw [loc] at acted
  simp only [taken, Dev.drivePair_taken _ inverse acted, Bool.and_self, if_true]
  rfl

theorem Dev.fuseRepaired_repairRecords (d : Dev) (i : Iface) (q : Payload) : ∃ soft, (d.fuseRepaired i q).repairRecords =
    if locKind (locAt q) = 2 then
      { d.repairRecords with fuseLo := BitVec.ofNat 32 (leNat q 0 4), fuseHi := BitVec.ofNat 32 (leNat q 4 4), hppr := d.mb.hppr ++ [locAt q] }
    else { d.repairRecords with
      fuseLo := BitVec.ofNat 32 (leNat q 0 4), fuseHi := BitVec.ofNat 32 (leNat q 4 4), burn := true, sec := { d.sec with fuseBurn := some (locAt q, none) }, softCrema := soft } := by
  have paired := (d.setReg Off.rasFuseHi (BitVec.ofNat 32 (leNat q 4 4))).paired_repairRecords i Off.rasFuseLo (BitVec.ofNat 32 (leNat q 0 4))
  have written := ((d.setReg Off.rasFuseHi (BitVec.ofNat 32 (leNat q 4 4))).paired i Off.rasFuseLo
    (BitVec.ofNat 32 (leNat q 0 4))).setReg_fuseLo_repairRecords (BitVec.ofNat 32 (leNat q 0 4))
  rw [paired, Dev.setReg_fuseHi_repairRecords] at written
  unfold Dev.fuseRepaired
  dsimp only
  generalize ((d.setReg Off.rasFuseHi (BitVec.ofNat 32 (leNat q 4 4))).paired i Off.rasFuseLo (BitVec.ofNat 32 (leNat q 0 4))).setReg
    Off.rasFuseLo (BitVec.ofNat 32 (leNat q 0 4)) = e at written ⊢
  have hppr : e.mb.hppr = d.mb.hppr := congrArg RepairRecords.hppr written
  have sec : e.sec = d.sec := congrArg RepairRecords.sec written
  split
  · exact ⟨[], by rw [Dev.hpprQueued_repairRecords, written, hppr]⟩
  · obtain ⟨soft, started⟩ := e.burnStarted_repairRecords (locAt q)
    exact ⟨soft, by rw [started, written, sec]⟩

theorem completes_xtRepairFuse_taken {s : State} {i : Iface} {p : Payload} (takes : s.dev.takesNow i 0xC042) (own : s.dev.ownPayload p 12)
    (taken : s.dev.fuseRefusal (locAt (p.drop 8)) = none) (confirm : leNat (p.drop 8) 8 4 = 2 ^ 32 - 1 - leNat (p.drop 8) 0 4) :
    Completes (.xtRepairFuse i p) s fun d => d.mem = s.dev.mem ∧ d.reg Off.rasFuseHi = BitVec.ofNat 32 (leNat (p.drop 8) 4 4) ∧
      d.answered i rcSuccess 0xC042 (leBytes 2 (d.sparesLeft (locAt (p.drop 8)))) ∧
      (locKind (locAt (p.drop 8)) = 2 → d.mb.hppr = s.dev.mb.hppr ++ [locAt (p.drop 8)]) ∧
      (locKind (locAt (p.drop 8)) ≠ 2 → d.sec.fuseBurn = some (locAt (p.drop 8), none)) := by
  refine .of_settle (exec_xtRepairFuse i p s) ?_
  rw [xtRepairFuse_taken takes own taken confirm]
  generalize p.drop 8 = q
  generalize left : (s.dev.fuseRepaired i q).sparesLeft (locAt q) = n
  have completed := (s.dev.fuseRepaired i q).complete_repairRecords i 0xC042 rcSuccess (leBytes 2 n)
  have spares := (Dev.sparesLeft_of_records completed (locAt q)).trans left
  have answered := (s.dev.fuseRepaired i q).complete_answered i 0xC042 rcSuccess (leBytes 2 n)
  rw [leBytes_take _ (by decide)] at answered
  obtain ⟨soft, records⟩ := s.dev.fuseRepaired_repairRecords i q
  rw [records] at completed
  generalize (s.dev.fuseRepaired i q).complete i 0xC042 rcSuccess (leBytes 2 n) = e at completed answered spares ⊢
  rw [settle_mem, settle_reg, settle_sparesLeft, settle_mb, settle_sec, spares]
  split at completed
  case isTrue far =>
    simp only [Dev.repairRecords, RepairRecords.mk.injEq] at completed
    obtain ⟨-, -, mem, hppr, -, -, -, hi, -⟩ := completed
    exact ⟨mem, hi, answered, fun _ => hppr, fun other => absurd far other⟩
  case isFalse other =>
    simp only [Dev.repairRecords, RepairRecords.mk.injEq] at completed
    obtain ⟨-, sec, mem, -, -, -, -, hi, -⟩ := completed
    exact ⟨mem, hi, answered, fun far => absurd far other, fun _ => congrArg Secure.fuseBurn sec⟩

/-! ### SOFT_REPAIR_ROW_SWAP (R135) -/

theorem exec_softRepairRowSwap (flips : List (List (BitVec 80))) (s : State) :
    exec (.softRepairRowSwap flips) s = s.on (Dev.atEdge (Dev.edgeSoftRepairRowSwap flips)) := rfl

/-- The lines of a Crema row copied to its spare row. -/
def Dev.rowCopied (d : Dev) (l : BitVec 64) (flips : List (List (BitVec 80))) : Dev :=
  (d.cremaRowLines l).zipIdx.foldl (fun d (e : (Nat × Nat) × Nat) => d.copyCremaLine e.1.1 e.1.2 (flips.getD e.2 [])) d

theorem Dev.rowCopied_bench (d : Dev) (l : BitVec 64) (flips : List (List (BitVec 80))) : (d.rowCopied l flips).bench = d.bench :=
  foldl_bench d _ _ fun d _ => d.copyCremaLine_bench _ _ _

theorem Dev.rowCopied_mem (d : Dev) (l : BitVec 64) : (d.rowCopied l []).mem = d.mem :=
  foldl_keeps Dev.mem _ _ d fun d e => by rw [List.getD_nil, Dev.copyCremaLine_mem]

theorem completes_softRepairRowSwap {s : State} {l : BitVec 64} (flips : List (List (BitVec 80))) (boundary : AtBoundary s.dev) (live : s.dev.live = true)
    (oldest : s.dev.crm.unitPending.find? (fun l => locKind l == 1 && s.dev.crmRole (locChan l) != 3) = some l) :
    Completes (.softRepairRowSwap flips) s fun d => d.crm.unitPending = s.dev.crm.unitPending.erase l ∧ (flips = [] → d.mem = s.dev.mem) := by
  refine .of_settle (exec_softRepairRowSwap flips s) ?_
  have swapped : s.dev.edgeSoftRepairRowSwap flips = Dev.repairDone { s.dev.rowCopied l flips with
      crm := { (s.dev.rowCopied l flips).crm with unitPending := (s.dev.rowCopied l flips).crm.unitPending.erase l } } l := by
    simp only [Dev.edgeSoftRepairRowSwap, oldest, live, if_true]
    rfl
  rw [Dev.atEdge_atBoundary _ boundary, swapped]
  have waiting : (s.dev.rowCopied l flips).crm.unitPending = s.dev.crm.unitPending := congrArg Bench.unitPending (s.dev.rowCopied_bench l flips)
  obtain ⟨_, _, _, _, _, _, done⟩ := Dev.repairDone_logsOf { s.dev.rowCopied l flips with
      crm := { (s.dev.rowCopied l flips).crm with unitPending := (s.dev.rowCopied l flips).crm.unitPending.erase l } } l
  rw [done]
  refine ⟨congrArg (List.erase · l) waiting, ?_⟩
  rintro rfl
  exact s.dev.rowCopied_mem l

end Sys2Proof.Machine


namespace Sys2Proof.Machine

/-! ### Post-package repair (R165, R502) -/

theorem exec_softPprStart (ch : FarCh) (flips : List (List (BitVec 80))) (s : State) :
    exec (.softPprStart ch flips) s = s.on (Dev.atEdge (Dev.edgeSoftPprStart ch flips)) := rfl
theorem exec_softPprEnd (ch : FarCh) (s : State) : exec (.softPprEnd ch) s = s.on (Dev.atEdge (Dev.edgeSoftPprEnd ch)) := rfl
theorem exec_hardPprComplete (flips : List (List (BitVec 80))) (s : State) : exec (.hardPprComplete flips) s = execHardPprComplete s flips := rfl

/-- The repairs of a far channel read alike. -/
theorem Dev.fch_of_bench {a b : Dev} (same : a.bench = b.bench) (c : Nat) :
    (a.fch c).ppr = (b.fch c).ppr ∧ (a.fch c).pprWait = (b.fch c).pprWait ∧ (a.fch c).pprBufs = (b.fch c).pprBufs := by
  have at_c : farRepairs a.farCh c = farRepairs b.farCh c := congrFun (congrArg Bench.repairs same) c
  simp only [farRepairs, Prod.mk.injEq] at at_c
  exact at_c

section
variable {d : Dev} {ch : FarCh} {l : BitVec 64} {rest : List (BitVec 64)}

theorem Dev.edgeSoftPprStart_starts (flips : List (List (BitVec 80))) (live : d.live = true) (waits : (d.fch ch.val).pprWait = l :: rest)
    (free : (d.fch ch.val).ppr = none) (active : d.fld (Fld.farChSts_state ch.val) = 2) (room : d.rowLines ch.val ≤ d.sharedFree) :
    d.edgeSoftPprStart ch flips = (d.modFch ch.val fun f =>
      { f with ppr := some (l, d.now, false), pprWait := rest, pprBufs := d.rowLines ch.val }).copyFarRow l flips := by
  simp [Dev.edgeSoftPprStart, waits, live, free, active, room]

theorem Dev.edgeSoftPprStart_waits (flips : List (List (BitVec 80))) (full : d.sharedFree < d.rowLines ch.val) : d.edgeSoftPprStart ch flips = d := by
  have no_room : decide (d.rowLines ch.val ≤ d.sharedFree) = false := decide_eq_false (Nat.not_le.2 full)
  unfold Dev.edgeSoftPprStart
  dsimp only
  split
  · simp [no_room]
  · rfl

end

theorem completes_softPprStart {s : State} {ch : FarCh} {l : BitVec 64} {rest : List (BitVec 64)} (flips : List (List (BitVec 80)))
    (boundary : AtBoundary s.dev) (live : s.dev.live = true) (waits : (s.dev.fch ch.val).pprWait = l :: rest)
    (free : (s.dev.fch ch.val).ppr = none) (active : s.dev.fld (Fld.farChSts_state ch.val) = 2) (room : s.dev.rowLines ch.val ≤ s.dev.sharedFree) :
    Completes (.softPprStart ch flips) s fun d => (d.fch ch.val).ppr = some (l, s.dev.now, false) ∧ (d.fch ch.val).pprWait = rest ∧
      (d.fch ch.val).pprBufs = s.dev.rowLines ch.val ∧ (flips = [] → s.dev.mem.farPoison = [] → d.mem = s.dev.mem) := by
  refine .of_settle (exec_softPprStart ch flips s) ?_
  rw [Dev.atEdge_atBoundary _ boundary, Dev.edgeSoftPprStart_starts flips live waits free active room, settle_fch, settle_mem]
  obtain ⟨ppr, wait, bufs⟩ := Dev.fch_of_bench (Dev.copyFarRow_bench (s.dev.modFch ch.val fun f =>
    { f with ppr := some (l, s.dev.now, false), pprWait := rest, pprBufs := s.dev.rowLines ch.val }) l flips) ch.val
  rw [ppr, wait, bufs, Dev.fch_modFch_same]
  refine ⟨rfl, rfl, rfl, ?_⟩
  rintro rfl sound
  exact Dev.copyFarRow_mem _ l sound

/-! #### The end of a soft repair -/

section
variable (d : Dev)

theorem Dev.startHppr_idle (idle : d.mb.hppr = []) : d.startHppr = d := by
  unfold Dev.startHppr
  rw [idle]

/-- The next hard repair takes its channel's bank and line buffers, nothing more. -/
theorem Dev.startHppr_eq : d.startHppr = d ∨ ∃ c l, d.startHppr = d.modFch c fun f => { f with ppr := some (l, d.now, true), pprBufs := d.rowLines c } := by
  unfold Dev.startHppr
  split
  · exact .inl rfl
  · dsimp only
    split
    · exact .inl rfl
    · exact .inr ⟨_, _, rfl⟩

theorem Dev.startHppr_wait (ch : FarCh) : (d.startHppr.fch ch.val).pprWait = (d.fch ch.val).pprWait := by
  rcases d.startHppr_eq with same | ⟨c, l, started⟩
  · rw [same]
  · rw [started, Dev.fch, Dev.modFch, vget_vmod]
    split
    · next at_c =>
      obtain ⟨rfl, -⟩ := at_c
      rfl
    · rfl

/-- In MAINT the next hard repair begins. -/
def Dev.nextHppr (d : Dev) : Dev := if d.mode = .maint then d.startHppr else d

theorem Dev.nextHppr_idle (idle : d.mode ≠ .maint ∨ d.mb.hppr = []) : d.nextHppr = d := by
  unfold Dev.nextHppr
  rcases idle with other | idle
  · rw [if_neg other]
  · rw [d.startHppr_idle idle, ite_self]

theorem Dev.nextHppr_repairRecords : d.nextHppr.repairRecords = d.repairRecords := by
  unfold Dev.nextHppr
  split
  · exact d.startHppr_repairRecords
  · rfl

theorem Dev.nextHppr_regs : d.nextHppr.regs = d.regs := by
  unfold Dev.nextHppr
  split
  · rcases d.startHppr_eq with same | ⟨c, l, started⟩
    · rw [same]
    · rw [started]
      rfl
  · rfl

theorem Dev.nextHppr_fld (f : Fld) : d.nextHppr.fld f = d.fld f := by
  simp only [Dev.fld, Dev.reg, Dev.nextHppr_regs]

theorem Dev.nextHppr_wait (ch : FarCh) : (d.nextHppr.fch ch.val).pprWait = (d.fch ch.val).pprWait := by
  unfold Dev.nextHppr
  split
  · exact d.startHppr_wait ch
  · rfl

/-- A row's bank and line buffers are released. -/
def Dev.bankFreed (d : Dev) (c : Nat) : Dev := d.modFch c fun f => { f with ppr := none, pprBufs := 0 }

theorem Dev.bankFreed_ppr {c : Nat} (hc : c < 8) : ((d.bankFreed c).fch c).ppr = none := by
  rw [Dev.bankFreed, Dev.fch_modFch_same d ⟨c, hc⟩]

end

theorem Dev.edgeSoftPprEnd_ends {d : Dev} {ch : FarCh} {l : BitVec 64} {q : Nat} (live : d.live = true) (under_way : (d.fch ch.val).ppr = some (l, q, false))
    (due : q + 48 ≤ d.now) : ∃ e, ((d.activateRow l).bankFreed ch.val).logsOf e ∧ d.edgeSoftPprEnd ch = e.nextHppr := by
  refine ⟨_, Dev.logsOf_trans (Dev.raise_shape _ { num := 0x135, chid := some (((d.activateRow l).bankFreed ch.val).farChid ch.val), loc := l })
    (Dev.repairDone_logsOf _ l), ?_⟩
  simp only [Dev.edgeSoftPprEnd, under_way, live, due, decide_true, Bool.and_self, if_true]
  rfl

theorem completes_softPprEnd {s : State} {ch : FarCh} {l : BitVec 64} {q : Nat} (boundary : AtBoundary s.dev) (live : s.dev.live = true)
    (under_way : (s.dev.fch ch.val).ppr = some (l, q, false)) (due : q + 48 ≤ s.dev.now) :
    Completes (.softPprEnd ch) s fun d => (s.dev.mode ≠ .maint ∨ s.dev.mb.hppr = [] → (d.fch ch.val).ppr = none ∧ (d.fch ch.val).pprBufs = 0) ∧
      (d.fch ch.val).pprWait = (s.dev.fch ch.val).pprWait ∧ d.mem = s.dev.mem := by
  refine .of_settle (exec_softPprEnd ch s) ?_
  obtain ⟨e, ⟨_, _, _, _, _, _, released⟩, ended⟩ := Dev.edgeSoftPprEnd_ends live under_way due
  have activated := s.dev.activateRow_bench l
  have mode : e.mode = s.dev.mode := by
    rw [released]
    exact congrArg Bench.mode activated
  have hppr : e.mb.hppr = s.dev.mb.hppr := by
    rw [released]
    exact congrArg Bench.hppr activated
  have freed : e.fch ch.val = { (s.dev.activateRow l).fch ch.val with ppr := none, pprBufs := 0 } := by
    rw [released]
    exact Dev.fch_modFch_same _ _ _
  rw [Dev.atEdge_atBoundary _ boundary, ended, settle_fch, settle_mem]
  refine ⟨fun idle => ?_, ?_, ?_⟩
  · rw [e.nextHppr_idle (by rwa [mode, hppr]), freed]
    exact ⟨rfl, rfl⟩
  · rw [Dev.nextHppr_wait, freed]
    exact (Dev.fch_of_bench activated ch.val).2.1
  · refine (congrArg RepairRecords.mem e.nextHppr_repairRecords).trans ?_
    change e.mem = s.dev.mem
    rw [released]
    exact s.dev.activateRow_mem l

/-! #### The end of a hard repair -/

theorem benchReg_farPprSts {c : Nat} (hc : c < 8) : benchReg (Off.farPprSts c) = true := by
  have lo : 0x180000 ≤ Off.farPprSts c := by unfold Off.farPprSts; omega
  have hi : Off.farPprSts c < 0x1A0000 := by unfold Off.farPprSts; omega
  simp [benchReg, lo, hi]

theorem Dev.fch_beyond (d : Dev) {c : Nat} (beyond : 8 ≤ c) : d.fch c = FarChan.reset := by
  simp [Dev.fch, vget, Nat.not_lt.2 beyond]

theorem Dev.channel_of_ppr {d : Dev} {c : Nat} {x : BitVec 64 × Nat × Bool} (under_way : (d.fch c).ppr = some x) : c < 8 := by
  by_contra beyond
  rw [d.fch_beyond (Nat.not_lt.1 beyond)] at under_way
  cases under_way

section
variable (d : Dev) (l : BitVec 64) (rest : List (BitVec 64))

/-- The place is in the fuses, its channel's bank is free and its repair counted. -/
theorem Dev.hardDone_logsOf : Dev.logsOf { d.bankFreed (locChan l) with
    mb := { d.mb with hppr := rest }, fuses := { d.fuses with hard := d.fuses.hard ++ [l] } } (d.hardDone l rest) :=
  Dev.logsOf_trans ⟨_, _, _, _, _, _, rfl⟩ (Dev.logsOf_trans (Dev.raise_shape _ _) (Dev.raise_shape _ _))

theorem Dev.hardDone_queue : (d.hardDone l rest).fld Fld.rasFuseSts_hpprQ = rest.length % 2 ^ Fld.rasFuseSts_hpprQ.w := by
  unfold Dev.hardDone
  dsimp only
  rw [Dev.raise_fld _ _ _ (by decide), Dev.raise_fld _ _ _ (by decide), Dev.fld_setFld_same _ _ _ (by decide)]

theorem Dev.hardDone_count {c : Nat} (hc : locChan l = c) (small : c < 8) : (d.hardDone l rest).fld (Fld.farPprSts_hard c) =
    min (2 ^ (Fld.farPprSts_hard c).w - 1) (d.fld (Fld.farPprSts_hard c) + 1) := by
  have event : eventReg (Fld.farPprSts_hard c).off = false := eventReg_of_benchReg (benchReg_farPprSts small)
  have apart : Fld.rasFuseSts_hpprQ.apart (Fld.farPprSts_hard c) = true := by
    have other : Fld.rasFuseSts_hpprQ.off ≠ (Fld.farPprSts_hard c).off := by
      change 0x300810 ≠ 0x180014 + 16384 * c
      omega
    simp [Fld.apart, other]
  subst hc
  unfold Dev.hardDone
  dsimp only
  rw [Dev.raise_fld _ _ _ event, Dev.raise_fld _ _ _ event, Dev.fld_setFld_apart _ _ _ _ apart]
  have counted := Dev.fld_setFld_same (d.bankFreed (locChan l)) (Fld.farPprSts_hard (locChan l)) (satN 8 (d.fld (Fld.farPprSts_hard (locChan l)) + 1))
    (by simp [Fld.farPprSts_hard])
  refine counted.trans ?_
  rw [satN, Nat.min_comm]
  exact Nat.mod_eq_of_lt (lt_of_le_of_lt (Nat.min_le_left _ _) (by simp [Fld.farPprSts_hard]))

end

/-- The row of a hard repair, copied under its errors and written. -/
def Dev.hardCopied (d : Dev) (l : BitVec 64) (flips : List (List (BitVec 80))) : Dev := (d.copyFarRow l flips).activateRow l

theorem Dev.hardCopied_bench (d : Dev) (l : BitVec 64) (flips : List (List (BitVec 80))) : (d.hardCopied l flips).bench = d.bench :=
  (Dev.activateRow_bench _ l).trans (d.copyFarRow_bench l flips)

theorem execHardPprComplete_done {s : State} {l x : BitVec 64} {rest : List (BitVec 64)} {q : Nat} (flips : List (List (BitVec 80)))
    (live : s.dev.live = true) (queue : s.dev.mb.hppr = l :: rest) (under_way : (s.dev.fch (locChan l)).ppr = some (x, q, true)) :
    exec (.hardPprComplete flips) s = .next { s with dev := settle s.dev (((s.dev.hardCopied l flips).hardDone l rest).nextHppr) } := by
  rw [exec_hardPprComplete, execHardPprComplete, State.on_next]
  simp only [queue, under_way, live, if_true]
  rfl

theorem completes_hardPprComplete {s : State} {l x : BitVec 64} {rest : List (BitVec 64)} {q : Nat} (flips : List (List (BitVec 80)))
    (live : s.dev.live = true) (queue : s.dev.mb.hppr = l :: rest) (under_way : (s.dev.fch (locChan l)).ppr = some (x, q, true)) :
    Completes (.hardPprComplete flips) s fun d => d.mb.hppr = rest ∧ d.fuses = { s.dev.fuses with hard := s.dev.fuses.hard ++ [l] } ∧
      d.fld Fld.rasFuseSts_hpprQ = rest.length % 2 ^ Fld.rasFuseSts_hpprQ.w ∧
      (flips = [] → s.dev.mem.farPoison = [] → d.mem = s.dev.mem) ∧ (s.dev.mode ≠ .maint ∨ rest = [] → (d.fch (locChan l)).ppr = none) ∧
      d.fld (Fld.farPprSts_hard (locChan l)) = min (2 ^ (Fld.farPprSts_hard (locChan l)).w - 1) (s.dev.fld (Fld.farPprSts_hard (locChan l)) + 1) := by
  refine ⟨_, execHardPprComplete_done flips live queue under_way, rfl, ?_⟩
  have channel := Dev.channel_of_ppr under_way
  have copied := s.dev.hardCopied_bench l flips
  have counted := (s.dev.hardCopied l flips).hardDone_count l rest rfl channel
  have counted_before : (s.dev.hardCopied l flips).fld (Fld.farPprSts_hard (locChan l)) = s.dev.fld (Fld.farPprSts_hard (locChan l)) :=
    Dev.fld_of_bench (by rw [copied]) (benchReg_farPprSts channel)
  have queued := (s.dev.hardCopied l flips).hardDone_queue l rest
  obtain ⟨_, _, _, _, _, _, done⟩ := (s.dev.hardCopied l flips).hardDone_logsOf l rest
  generalize (s.dev.hardCopied l flips).hardDone l rest = e at counted queued done ⊢
  have records := e.nextHppr_repairRecords
  have hppr : e.nextHppr.mb.hppr = rest := (congrArg RepairRecords.hppr records).trans (by rw [done]; rfl)
  have fuses : e.nextHppr.fuses = { s.dev.fuses with hard := s.dev.fuses.hard ++ [l] } := by
    have before : (s.dev.hardCopied l flips).fuses = s.dev.fuses := congrArg Bench.fuses copied
    refine (congrArg RepairRecords.fuses records).trans ?_
    rw [← before, done]
    rfl
  have kept : s.dev.fuses.keptBy e.nextHppr.fuses := by
    rw [fuses]
    exact s.dev.fuses.keptBy_refl
  beta_reduce
  rw [settle_mb, settle_fuses kept, settle_fld, settle_fld, settle_mem, settle_fch, Dev.nextHppr_fld, Dev.nextHppr_fld, counted, counted_before]
  refine ⟨hppr, fuses, queued, ?_, ?_, rfl⟩
  · rintro rfl sound
    refine (congrArg RepairRecords.mem records).trans ?_
    change e.mem = s.dev.mem
    rw [done]
    exact (Dev.activateRow_mem _ l).trans (s.dev.copyFarRow_mem l sound)
  · intro idle
    have mode : e.mode = s.dev.mode := by
      rw [done]
      exact congrArg Bench.mode copied
    have left : e.mb.hppr = rest := by rw [done]
    rw [e.nextHppr_idle (by rwa [mode, left]), done]
    exact (s.dev.hardCopied l flips).bankFreed_ppr channel

/-- Settles O16: each repair by the lemma of its command, what it copies by what the copy of a row keeps. -/
theorem repairsTakeEffect : Obligations.RepairsTakeEffect := by
  unfold Obligations.RepairsTakeEffect
  refine ⟨?soft, ?soft_refused, ?fuse, ?swap, ?start, ?waits, ?end_, ?hard⟩
  case soft =>
    intro s i p takes own taken
    exact completes_xtRepairSoft_taken takes own taken
  case soft_refused =>
    intro s rc i p takes own refused
    exact completes_xtRepairSoft_refused takes own refused
  case fuse =>
    intro s i p takes own taken confirm
    exact completes_xtRepairFuse_taken takes own taken confirm
  case swap =>
    intro s l flips boundary live oldest
    exact completes_softRepairRowSwap flips boundary live oldest
  case start =>
    intro s ch l rest flips boundary live waits free active room
    exact completes_softPprStart flips boundary live waits free active room
  case waits =>
    intro s ch flips boundary full
    refine completes_unchanged (exec_softPprStart ch flips s) ?_
    rw [Dev.atEdge_atBoundary _ boundary, Dev.edgeSoftPprStart_waits flips full]
  case end_ =>
    intro s ch l q boundary live under_way due
    exact completes_softPprEnd boundary live under_way due
  case hard =>
    intro s l x rest q flips live queue under_way
    exact completes_hardPprComplete flips live queue under_way

end Sys2Proof.Machine

/-! SUPPORT. The disturbance windows and the re-centring of a far channel (O35) and the lemmas behind them. -/

namespace Sys2Proof.Machine

theorem exec_distWindowEnd (ch : FarCh) (s : State) : exec (.distWindowEnd ch) s = s.on (Dev.atEdge (Dev.edgeDistWindowEnd ch)) := rfl
theorem exec_dqsOscillatorReading (ch : FarCh) (drifts : List Nat) (s : State) :
    exec (.dqsOscillatorReading ch drifts) s = execDqsOscillatorReading ch drifts s := rfl
theorem exec_recentringStepEnd (ch : FarCh) (s : State) :
    exec (.recentringStepEnd ch) s = s.on (Dev.atEdge (Dev.edgeRecentringStepEnd ch)) := rfl
theorem exec_recentringFail (ch : FarCh) (s : State) :
    exec (.recentringFail ch) s = s.on fun d => if d.live && (d.fch ch.val).recentre.isSome then d.recentreFail ch.val else d := rfl

/-! ### Fields and records of a far channel -/

/-- What saturates at a width is a value of that width. -/
theorem satN_mod (w n : Nat) : satN w n % 2 ^ w = satN w n :=
  Nat.mod_eq_of_lt ((Nat.min_le_right _ _).trans_lt (Nat.sub_one_lt_of_lt (Nat.two_pow_pos w)))

/-- A saturating count moves up by what is added, as far as its field goes. -/
theorem Dev.fld_bump_same (d : Dev) (f : Fld) (n : Nat) (h : f.lo + f.w ≤ 32) : (d.bump f n).fld f = satN f.w (d.fld f + n) := by
  rw [Dev.bump, Dev.fld_setFld_same d f _ h, satN_mod]

theorem Dev.modFch_fld (d : Dev) (c : Nat) (f : FarChan → FarChan) (g : Fld) : (d.modFch c f).fld g = d.fld g := rfl

theorem farTrackSts_not_eventReg (ch : FarCh) : eventReg (Off.farTrackSts ch.val) = false := by
  revert ch; decide

/-- STEPS and FAILS share no bit. -/
theorem farTrackSts_fails_apart_steps (c : Nat) : (Fld.farTrackSts_fails c).apart (Fld.farTrackSts_steps c) = true := by
  simp [Fld.apart, Fld.farTrackSts_fails, Fld.farTrackSts_steps]

theorem farTrackSts_drift_apart_thresh (ch : FarCh) : (Fld.farTrackSts_drift ch.val).apart Fld.farTrackCtl_thresh = true := by
  revert ch; decide

/-! ### Disturbance windows (R156) -/

/-- A window that ends while no request is open releases none. -/
theorem Dev.edgeDistWindowEnd_idle {d : Dev} {ch : FarCh} (live : d.live = true) (throttle : d.fld (Fld.farChCfg_dist ch.val) = 1)
    (aligned : d.now % 2 ^ d.fld (Fld.farDistCtl_win ch.val) = 0) (idle : d.txns = []) :
    Dev.edgeDistWindowEnd ch d = d.modFch ch.val fun f => { f with dist := [], distIn := [], distHeld := [], distShared := false } := by
  simp only [Dev.edgeDistWindowEnd, live, throttle, aligned, idle, BEq.rfl, Bool.and_self, decide_true, if_true, List.filter_nil,
    List.foldl_nil]

theorem completes_distWindowEnd {s : State} {ch : FarCh} (boundary : AtBoundary s.dev) (live : s.dev.live = true)
    (throttle : s.dev.fld (Fld.farChCfg_dist ch.val) = 1) (aligned : s.dev.now % 2 ^ s.dev.fld (Fld.farDistCtl_win ch.val) = 0)
    (idle : s.dev.txns = []) :
    Completes (.distWindowEnd ch) s fun d => (d.fch ch.val).dist = [] ∧ (d.fch ch.val).distIn = [] ∧ (d.fch ch.val).distHeld = [] ∧
      (d.fch ch.val).distShared = false ∧ d.mem = s.dev.mem := by
  refine .of_settle (exec_distWindowEnd ch s) ?_
  rw [settle_fch, settle_mem, Dev.atEdge_atBoundary _ boundary, Dev.edgeDistWindowEnd_idle live throttle aligned idle,
    Dev.fch_modFch_same]
  exact ⟨rfl, rfl, rfl, rfl, rfl⟩

/-! ### Oscillator readings (R159) -/

/-- A due reading of an awake channel, before it starts a step: the next one is noted and the highest drift shown. -/
def Dev.driftShown (d : Dev) (c top : Nat) : Dev :=
  (d.modFch c fun f => { f with dqsNext := d.now + 2 ^ d.fld Fld.farTrackCtl_interval }).setFld (Fld.farTrackSts_drift c) (satN 7 top)

theorem Dev.driftShown_fch (d : Dev) (ch : FarCh) (top : Nat) :
    (d.driftShown ch.val top).fch ch.val = { d.fch ch.val with dqsNext := d.now + 2 ^ d.fld Fld.farTrackCtl_interval } :=
  d.fch_modFch_same ch _

theorem Dev.driftShown_drift (d : Dev) (c top : Nat) : (d.driftShown c top).fld (Fld.farTrackSts_drift c) = satN 7 top :=
  (Dev.fld_setFld_same _ _ _ (by simp [Fld.farTrackSts_drift])).trans (satN_mod 7 top)

theorem Dev.driftShown_thresh (d : Dev) (ch : FarCh) (top : Nat) :
    (d.driftShown ch.val top).fld Fld.farTrackCtl_thresh = d.fld Fld.farTrackCtl_thresh :=
  Dev.fld_setFld_apart _ _ _ _ (farTrackSts_drift_apart_thresh ch)

/-- The start of a re-centring step. -/
def Dev.stepStarted (d : Dev) (c now : Nat) : Dev := d.modFch c fun f => { f with recentre := some now, repeatDue := false }

/-- Does a reading with this highest drift ask for a step: beyond THRESH, or with a failed step to repeat (R159, R161)? -/
abbrev Dev.wantsStep (d : Dev) (c top : Nat) : Prop := d.fld Fld.farTrackCtl_thresh < top ∨ (d.fch c).repeatDue = true

/-- Does it start one: none runs yet? -/
def Dev.startsStep (d : Dev) (c top : Nat) : Bool :=
  (decide (d.fld Fld.farTrackCtl_thresh < top) || (d.fch c).repeatDue) && (d.fch c).recentre.isNone

theorem Dev.startsStep_iff (d : Dev) (c top : Nat) : d.startsStep c top = true ↔ d.wantsStep c top ∧ (d.fch c).recentre = none := by
  simp only [Dev.startsStep, Bool.and_eq_true, Bool.or_eq_true, decide_eq_true_eq, Option.isNone_iff_eq_none]

theorem Dev.driftShown_startsStep (d : Dev) (ch : FarCh) (top : Nat) :
    (d.driftShown ch.val top).startsStep ch.val top = d.startsStep ch.val top := by
  rw [Dev.startsStep, Dev.driftShown_thresh, Dev.driftShown_fch]
  rfl

/-- What a due reading does. -/
def Dev.driftsRead (d : Dev) (c top : Nat) : Dev :=
  if d.startsStep c top then (d.driftShown c top).stepStarted c d.now else d.driftShown c top

theorem exec_dqsOscillatorReading_due {s : State} {ch : FarCh} (drifts : List Nat) (awake : s.dev.farAwake ch.val = true)
    (due : (s.dev.fch ch.val).dqsNext ≤ s.dev.now) :
    exec (.dqsOscillatorReading ch drifts) s = s.on fun d => d.driftsRead ch.val (drifts.foldl max 0) := by
  rw [exec_dqsOscillatorReading, execDqsOscillatorReading, State.on, State.on, Dev.driftsRead, ← Dev.driftShown_startsStep]
  simp only [awake, due, decide_true, Bool.and_self, if_true]
  rfl

/-- A reading that asks for a step leaves one under way: the one that ran, or one that starts now. -/
theorem Dev.driftsRead_effect (d : Dev) (ch : FarCh) (top : Nat) :
    (d.driftsRead ch.val top).fld (Fld.farTrackSts_drift ch.val) = satN 7 top ∧ (d.driftsRead ch.val top).mem = d.mem ∧
    ((d.driftsRead ch.val top).fch ch.val).dqsNext = d.now + 2 ^ d.fld Fld.farTrackCtl_interval ∧
    ((d.driftsRead ch.val top).fch ch.val).recentre =
      if d.wantsStep ch.val top then some ((d.fch ch.val).recentre.getD d.now) else (d.fch ch.val).recentre := by
  rw [Dev.driftsRead]
  split
  case isTrue starts =>
    obtain ⟨wanted, none_runs⟩ := (d.startsStep_iff ch.val top).mp starts
    rw [if_pos wanted, none_runs, Dev.stepStarted, Dev.modFch_fld, Dev.fch_modFch_same, Dev.driftShown_fch, Dev.driftShown_drift]
    exact ⟨rfl, rfl, rfl, rfl⟩
  case isFalse no_start =>
    rw [Dev.driftShown_fch, Dev.driftShown_drift]
    refine ⟨rfl, rfl, rfl, ?_⟩
    split
    case isTrue wanted =>
      obtain ⟨p, runs⟩ := Option.ne_none_iff_exists'.mp fun none_runs => no_start ((d.startsStep_iff ch.val top).mpr ⟨wanted, none_runs⟩)
      exact runs.trans (by rw [runs]; rfl)
    case isFalse => rfl

theorem completes_dqsOscillatorReading {s : State} {ch : FarCh} (drifts : List Nat) (awake : s.dev.farAwake ch.val = true)
    (due : (s.dev.fch ch.val).dqsNext ≤ s.dev.now) :
    Completes (.dqsOscillatorReading ch drifts) s fun d => d.fld (Fld.farTrackSts_drift ch.val) = satN 7 (drifts.foldl max 0) ∧
      d.mem = s.dev.mem ∧ (d.fch ch.val).dqsNext = s.dev.now + 2 ^ s.dev.fld Fld.farTrackCtl_interval ∧
      (d.fch ch.val).recentre = if s.dev.wantsStep ch.val (drifts.foldl max 0) then some ((s.dev.fch ch.val).recentre.getD s.dev.now)
        else (s.dev.fch ch.val).recentre :=
  .of_settle (exec_dqsOscillatorReading_due drifts awake due) (s.dev.driftsRead_effect ch (drifts.foldl max 0))

/-! ### Re-centring steps (R160, R161) -/

/-- The end of a step that succeeds, before its event: no step runs, one more is counted, and the failures in a row are over. -/
def Dev.stepCentred (d : Dev) (c : Nat) : Dev :=
  ((d.modFch c fun f => { f with recentre := none }).bump (Fld.farTrackSts_steps c) 1).setFld (Fld.farTrackSts_fails c) 0

theorem Dev.stepCentred_recentre (d : Dev) (ch : FarCh) : ((d.stepCentred ch.val).fch ch.val).recentre = none :=
  congrArg FarChan.recentre (d.fch_modFch_same ch _)

theorem Dev.stepCentred_fails (d : Dev) (c : Nat) : (d.stepCentred c).fld (Fld.farTrackSts_fails c) = 0 :=
  (Dev.fld_setFld_same _ _ _ (by simp [Fld.farTrackSts_fails])).trans (Nat.zero_mod _)

theorem Dev.stepCentred_steps (d : Dev) (c : Nat) :
    (d.stepCentred c).fld (Fld.farTrackSts_steps c) = satN (Fld.farTrackSts_steps c).w (d.fld (Fld.farTrackSts_steps c) + 1) :=
  (Dev.fld_setFld_apart _ _ _ _ (farTrackSts_fails_apart_steps c)).trans (Dev.fld_bump_same _ _ _ (by simp [Fld.farTrackSts_steps]))

/-- A step that ends in time succeeds. -/
theorem Dev.edgeRecentringStepEnd_inTime {d : Dev} {ch : FarCh} {p : Nat} (live : d.live = true) (runs : (d.fch ch.val).recentre = some p)
    (in_time : d.now ≤ p + 4096) :
    Dev.edgeRecentringStepEnd ch d =
      (d.stepCentred ch.val).raise { num := 0x133, chid := some ((d.stepCentred ch.val).farChid ch.val) } := by
  simp only [Dev.edgeRecentringStepEnd, runs, live, in_time, decide_true, Bool.and_self, if_true, Dev.stepCentred]

theorem completes_recentringStepEnd {s : State} {ch : FarCh} {p : Nat} (boundary : AtBoundary s.dev) (live : s.dev.live = true)
    (runs : (s.dev.fch ch.val).recentre = some p) (in_time : s.dev.now ≤ p + 4096) :
    Completes (.recentringStepEnd ch) s fun d => (d.fch ch.val).recentre = none ∧ d.fld (Fld.farTrackSts_fails ch.val) = 0 ∧
      d.fld (Fld.farTrackSts_steps ch.val) = satN (Fld.farTrackSts_steps ch.val).w (s.dev.fld (Fld.farTrackSts_steps ch.val) + 1) ∧
      d.mem = s.dev.mem := by
  refine .of_settle (exec_recentringStepEnd ch s) ?_
  have event := farTrackSts_not_eventReg ch
  rw [settle_fch, settle_fld, settle_fld, settle_mem, Dev.atEdge_atBoundary _ boundary, Dev.edgeRecentringStepEnd_inTime live runs in_time,
    Dev.raise_fch, Dev.raise_fld _ _ _ event, Dev.raise_fld _ _ _ event, Dev.raise_mem]
  exact ⟨s.dev.stepCentred_recentre ch, s.dev.stepCentred_fails _, s.dev.stepCentred_steps _, rfl⟩

/-- A failed step is counted and left to repeat; the third in a row marks the channel to be lost. -/
theorem Dev.recentreFail_effect (d : Dev) (ch : FarCh) :
    ((d.recentreFail ch.val).fch ch.val).recentre = none ∧ ((d.recentreFail ch.val).fch ch.val).repeatDue = true ∧
    (d.recentreFail ch.val).fld (Fld.farTrackSts_fails ch.val) =
      satN (Fld.farTrackSts_fails ch.val).w (d.fld (Fld.farTrackSts_fails ch.val) + 1) ∧
    ((d.recentreFail ch.val).fch ch.val).lossDue =
      ((d.fch ch.val).lossDue || decide (3 ≤ (d.recentreFail ch.val).fld (Fld.farTrackSts_fails ch.val))) ∧
    (d.recentreFail ch.val).mem = d.mem := by
  rw [Dev.recentreFail, Dev.raise_fch, Dev.raise_fld _ _ _ (farTrackSts_not_eventReg ch), Dev.raise_mem, Dev.fch_modFch_same, Dev.modFch_fld,
    Dev.fld_bump_same _ _ _ (by simp [Fld.farTrackSts_fails])]
  exact ⟨rfl, rfl, rfl, rfl, rfl⟩

theorem completes_recentringFail {s : State} {ch : FarCh} (live : s.dev.live = true) (runs : (s.dev.fch ch.val).recentre.isSome = true) :
    Completes (.recentringFail ch) s fun d => (d.fch ch.val).recentre = none ∧ (d.fch ch.val).repeatDue = true ∧
      d.fld (Fld.farTrackSts_fails ch.val) = satN (Fld.farTrackSts_fails ch.val).w (s.dev.fld (Fld.farTrackSts_fails ch.val) + 1) ∧
      (d.fch ch.val).lossDue = ((s.dev.fch ch.val).lossDue || decide (3 ≤ d.fld (Fld.farTrackSts_fails ch.val))) ∧ d.mem = s.dev.mem := by
  refine .of_settle (exec_recentringFail ch s) ?_
  rw [live, runs, Bool.and_self, if_pos rfl]
  exact s.dev.recentreFail_effect ch

/-- Settles O35: each command by what it does where its hypotheses let it act. -/
theorem disturbanceAndRecentringStep : Obligations.DisturbanceAndRecentringStep := by
  unfold Obligations.DisturbanceAndRecentringStep
  refine ⟨?window, ?reading, ?succeeds, ?fails⟩
  case window =>
    intro s ch boundary live throttle aligned idle
    exact completes_distWindowEnd boundary live throttle aligned idle
  case reading =>
    intro s ch drifts awake due
    exact completes_dqsOscillatorReading drifts awake due
  case succeeds =>
    intro s ch p boundary live runs in_time
    exact completes_recentringStepEnd boundary live runs in_time
  case fails =>
    intro s ch live runs
    exact completes_recentringFail live runs

end Sys2Proof.Machine

/-! SUPPORT. The statements about codes and poison (O25, O32) and the lemmas behind them. -/

namespace Sys2Proof.Machine

/-! ### A lost-fresh page that counts as written (R198, R221) -/

/-- The media address of DPA 0x1040 of the tenant of `openFar`. -/
def openFarMa : Nat := mkMa 0 true 0x50001040

/-- A far channel of 2^27 lines is in service. The bitmap line of page 0x50001 has been lost, which made the page lost-fresh, while its
counter block stands dirty in the metadata cache and a write of that block waits in the cache's merge buffer. -/
def lostPageCounterCached : State :=
  onDev openFar fun d =>
    let d := d.setFld (Fld.farChSts_raw 0) 1
    { d with
      mem := { d.mem with lostFresh := d.mem.lostFresh.add (pageKey 0 0x50001) }
      cry := { d.cry with cache := [(0, [(.ctr 0 0x50001, true)])] }
      merge := [(arrayIdx .metadataCache, [⟨farKey 0 (d.ctrBase 0 + 0x50001) * 8, 1, ⟨1, 0⟩⟩])] }

set_option maxRecDepth 20000 in
/-- MERGE_BUFFER_RETIRE can find the cached counter block uncorrectable. The page takes a new one and counts as written (R221), but it
stays lost-fresh. A store of a written page initialises nothing, so nothing takes the page's loss away: Clear Poison answers, and the line
still reads as poison. -/
theorem clearPoison_of_lostPage_reads_poison :
    ∃ s, exec (.mergeBufferRetire .metadataCache true) lostPageCounterCached = .next s ∧ s.dev.takesNow .mctp 0x4302 ∧
      s.dev.dpaMa (ifacePort .mctp) 0 0x1040 = some (openFarMa, false) ∧ FarLine s.dev openFarMa ∧
      ∃ t, exec (.clearPoison .mctp 0 0x1040 7) s = .next t ∧ (t.dev.readLine openFarMa false).2 = true :=
  ⟨_, rfl, by decide, by decide, by decide, _, rfl, by decide⟩

/-- Refutes O25, in its fourth clause: `FarLine` does not ask that a written page is no longer lost-fresh. In the state that
MERGE_BUFFER_RETIRE leaves when it finds the counter block of a lost-fresh page uncorrectable, CLEAR_POISON of a line of that page leaves
poison in it. -/
theorem not_poisonIsInjectedClearedAndListed : ¬ Obligations.PoisonIsInjectedClearedAndListed := by
  unfold Obligations.PoisonIsInjectedClearedAndListed
  rintro ⟨-, -, -, clear_far, -⟩
  obtain ⟨s, -, takes, mapped, far, t, cleared, poisoned⟩ := clearPoison_of_lostPage_reads_poison
  obtain ⟨t', answered, -, clean, -⟩ := clear_far s .mctp 0 0x1040 7 openFarMa takes (by decide) mapped far
  obtain rfl : t = t' := Host.Outcome.next.inj (cleared.symm.trans answered)
  rw [clean] at poisoned
  cases poisoned

/-! ### The record of an uncorrectable word of the event ring (R180, R474) -/

/-- Event 0x1D2 occurs once more in the pour. -/
def repeatedAgain (s : State) : State := onDev s fun d => d.raiseN 0x1D2 []

/-- The record of an uncorrectable word is itself written to the event ring. Where the word is one of the ring's own and was found
uncorrectable in this pour before, the record's REPEAT is raised (R474), and that write takes an entry of the merge buffer that has just been
emptied. -/
theorem ringWord_retired_again_leaves_entry :
    ∃ s, exec (.mergeBufferRetire .eventRing true) repeatedEvent = .next s ∧ (repeatedAgain s).dev.live = true ∧
      (∃ e, Sparse.get [] (repeatedAgain s).dev.merge (arrayIdx .eventRing) = [e]) ∧
      ∃ t, exec (.mergeBufferRetire .eventRing true) (repeatedAgain s) = .next t ∧ Sparse.get [] t.dev.merge (arrayIdx .eventRing) ≠ [] :=
  ⟨_, rfl, by decide, ⟨_, rfl⟩, _, rfl, by decide⟩

/-- Refutes O32, in its first clause: of the arrays it excepts only the metadata cache, not the event ring, to which the retirement's own
record goes. An event repeats, its word of the ring is found uncorrectable, and the same happens once more in that pour: the buffer, of
which nothing should be left, holds the word of the repeated record. -/
theorem not_arraysScrubAndPipelinesReport : ¬ Obligations.ArraysScrubAndPipelinesReport := by
  unfold Obligations.ArraysScrubAndPipelinesReport
  rintro ⟨retires_oldest, -⟩
  obtain ⟨s, -, live, ⟨e, waits⟩, t, retired, left⟩ := ringWord_retired_again_leaves_entry
  obtain ⟨t', next, -, emptied, -⟩ := retires_oldest (repeatedAgain s) .eventRing e [] live waits (by decide)
  obtain rfl : t = t' := Host.Outcome.next.inj (retired.symm.trans next)
  exact left emptied

end Sys2Proof.Machine


/-! SUPPORT. Press's engines (O37): the loss of the last serving one while another is under test (R259, R494). -/

namespace Sys2Proof.Machine

/-- Two engines are in service, 0 and 1; engine 1 codes the page of an Evicting frame. -/
def twoEngines : State := onDev (jobbed 3 false) fun d => d.setFld Fld.prsSts_engOk 3

/-- The payload of XT_BIST_RUN for the in-service test of engine 0: the header, then kind 5, index 0 and option 0 (R491). -/
def testEngineZero : Payload := List.replicate 8 0 ++ [5, 0, 0]

/-- What the statement on PRESS_ENGINE_LOSS asks of a state and a faulty engine. -/
abbrev LossDue (d : Dev) (e : Fin 4) : Prop :=
  AtBoundary d ∧ d.live = true ∧ e ∈ d.prs.lossDue ∧ d.mode = .serve ∧ d.txns = [] ∧ d.prs.jobs = []

set_option maxRecDepth 20000 in
/-- XT_BIST_RUN starts the test of engine 0, which the next boundary maps out, and engine 1 fails its self-check: the last serving engine is
to be lost while the other one is under test. -/
theorem engineTest_then_failed_selfCheck :
    ∃ started mapped faulty, exec (.xtBistRun .mctp testEngineZero) twoEngines = .next started ∧ exec .pourBoundary started = .next mapped ∧
      exec (.pressCodeComplete 1 false) mapped = .next faulty ∧ LossDue faulty.dev 1 ∧ faulty.dev.enginesOk = [1] ∧
      ∃ t, exec (.pressEngineLoss 1) faulty = .next t ∧ t.dev.enginesOk = [0] ∧ t.dev.mode = .serve :=
  ⟨_, _, _, rfl, rfl, rfl, by decide, by decide, _, rfl, by decide, by decide⟩

/-- Refutes O37, in its clause of PRESS_ENGINE_LOSS: where no other engine is in service it demands DEGRADED, and it does not ask that none
is under test. When the last serving engine fails beside a test, the test stops and the engine under test serves again at once (R494), so
the device stays in SERVE (R259). -/
theorem not_pressPoolsJobsAndEngines : ¬ Obligations.PressPoolsJobsAndEngines := by
  unfold Obligations.PressPoolsJobsAndEngines
  rintro ⟨-, -, -, -, -, -, -, -, last_loss_degrades⟩
  obtain ⟨-, -, s, -, -, -, ⟨boundary, live, due, serving, no_txn, no_job⟩, only_one, t, lost, -, serves⟩ := engineTest_then_failed_selfCheck
  obtain ⟨t', next, -, -, -, mode⟩ := last_loss_degrades s 1 boundary live due serving no_txn no_job
  obtain rfl : t = t' := Host.Outcome.next.inj (lost.symm.trans next)
  have none_left : s.dev.enginesOk.filter (· != (1 : Fin 4).val) = [] := by rw [only_one]; rfl
  rw [serves, if_pos none_left] at mode
  cases mode

end Sys2Proof.Machine


/-! SUPPORT. The statements on the coherence home, the answers and messages of the chain, and the frame of link and fabric commands (O31, O45,
O46, O57), with the lemmas behind them. -/

namespace Sys2Proof.Machine

/-! ### A snoop's answer that finds its directory set lost (R180, R273, R280) -/

/-- The directory has just freed way 1 of a line's set: that write waits in the directory's merge buffer (R180). -/
def dirMerging (k : Nat) (s : State) : State := onDev s fun d => d.setDir (dirBase k + 1) DirEntry.none

/-- The one open snoop has been sent for the one open request, a UIO one for the same far line, whose directory entry is number `i`. -/
abbrev AwaitsAnswer (d : Dev) (i : Nat) (sn : Snoop) (x : Txn) : Prop :=
  d.home.snoops = [sn] ∧ sn.sent.isSome = true ∧ sn.txn = some x.id ∧ d.txns = [x] ∧ x.phase = .snooping ∧ x.op.isUio = true ∧
    lineKey x.ma = sn.line ∧ maFar x.ma = true ∧ d.dirFind sn.line = some i ∧ d.leaseOf sn.line = none

/-- The far line of `theSnoop`, the request that waits in `snooped`, and the same of the member's `upSnoop` in `snoopedUp`. -/
def hostFarMa : Nat := mkMa 0 true 0x50001040
def hostUio : Txn := { farRd .uioRd .snooping with db := true, sharer := some 2 }
def upFarMa : Nat := mkMa 2 true 0x50001040
def upUio : Txn := { farRd .uioRd .snooping with ma := upFarMa, org := .relay 0 7, db := true, sharer := some 2 }

theorem exec_birsps (p : PortId) (hpa : Nat) (s : State) : exec (.birsps p hpa) s = s.on fun d => d.hostBirsp p hpa true := rfl

theorem exec_birspS (m : RelayMsg) (s : State) :
    exec (.birspS m) s = s.on fun d => d.fromUp m 0x43 [] id fun d => d.birsp (lineKey (m.line * 64)) true := rfl

set_option maxRecDepth 20000 in
/-- MERGE_BUFFER_RETIRE finds the waiting word uncorrectable and stores it poisoned. The entry of the snooped line still stands, so BIRSPS
leaves it Shared; but the request that goes on looks its set up, meets the poisoned word, and all 16 ways become Invalid (R280). -/
theorem birsps_after_directoryWord_retired :
    ∃ s, exec (.mergeBufferRetire .directory true) (dirMerging theSnoop.line (snooped .exclusive)) = .next s ∧
      (s.dev.linkUp .a = true ∧ s.dev.maOfHpa .a 0x1040 = some hostFarMa ∧ maMember hostFarMa = s.dev.chainId) ∧
      AwaitsAnswer s.dev (dirBase theSnoop.line) theSnoop hostUio ∧
      ((s.dev.hostBirsp .a 0x1040 true).dirAt (dirBase theSnoop.line)).st = .invalid :=
  ⟨_, rfl, by decide, by decide, by decide⟩

/-- Refutes O31, in its clause of BIRSPS: it does not ask that the words of the line's directory set are sound. In the state that
MERGE_BUFFER_RETIRE leaves when it finds one of them uncorrectable, the entry ends Invalid instead of Shared. -/
theorem not_coherenceMovesOn : ¬ Obligations.CoherenceMovesOn := by
  unfold Obligations.CoherenceMovesOn
  rintro ⟨-, -, birsps_leaves_shared, -⟩
  obtain ⟨s, -, ⟨up, mapped, own⟩, ⟨unanswered, sent, serves, alone, phase, uio, same, far, entry, unleased⟩, lost⟩ :=
    birsps_after_directoryWord_retired
  obtain ⟨-, shared, -⟩ := (birsps_leaves_shared s .a 0x1040 hostFarMa (dirBase theSnoop.line) theSnoop hostUio up mapped own rfl unanswered rfl
    sent serves alone phase uio same far entry unleased).settled (exec_birsps _ _ s)
  rw [Dev.dirAt, settle_home, ← Dev.dirAt, lost] at shared
  cases shared

set_option maxRecDepth 20000 in
/-- The same at a member of a chain: the head's BIRSP_S for a request that waits there. -/
theorem birspS_after_directoryWord_retired :
    ∃ s, exec (.mergeBufferRetire .directory true) (dirMerging (upSnoop (some 4)).line (snoopedUp (some 4))) = .next s ∧
      ForMe s.dev msg2 ∧ AwaitsAnswer s.dev (dirBase (upSnoop (some 4)).line) (upSnoop (some 4)) upUio ∧
      ((s.dev.fromUp msg2 0x43 [] id fun d => d.birsp (lineKey (msg2.line * 64)) true).dirAt (dirBase (upSnoop (some 4)).line)).st = .invalid :=
  ⟨_, rfl, by decide, by decide, by decide⟩

/-- Refutes O45, in its clause of BIRSP_S for an open UIO request: as in O31, a poisoned word in the line's directory set makes the entry
Invalid when the request goes on (R280), where the clause demands Shared. -/
theorem not_answersAndSnoopsTravelTheChain : ¬ Obligations.AnswersAndSnoopsTravelTheChain := by
  unfold Obligations.AnswersAndSnoopsTravelTheChain
  rintro ⟨-, -, -, -, -, -, -, -, -, -, -, -, -, -, -, -, -, birspS_leaves_shared, -⟩
  obtain ⟨s, -, mine, ⟨unanswered, sent, serves, alone, phase, uio, same, far, entry, unleased⟩, lost⟩ := birspS_after_directoryWord_retired
  obtain ⟨-, shared, -⟩ := (birspS_leaves_shared s msg2 upUio _ (upSnoop (some 4)) mine unanswered (by decide) sent serves alone phase uio same
    far entry unleased).settled (exec_birspS _ s)
  rw [Dev.dirAt, settle_home, ← Dev.dirAt, lost] at shared
  cases shared

/-! ### A record of a member on a ring that has been filled once (R378, R475) -/

theorem exec_event (m : RelayMsg) (e : EventRec) (s : State) :
    exec (.event m e) s = s.on fun d => d.fromDown m 0x6A (recordSlots e) id fun d => d.writeRec { e with fromMember := true } := rfl

/-- A message of a member with the HOPS of its position acts at the head (R377). -/
theorem Dev.fromDown_atHead {d : Dev} {m : RelayMsg} (atHead : AtHead d m) (opc : Nat) (payload : List (BitVec 128)) (wrong take : Dev → Dev) :
    d.fromDown m opc payload wrong take = take d := by
  obtain ⟨brings, head, hops⟩ := atHead
  simp [Dev.fromDown, brings, head, hops]

/-- The ring holds 512 records: the oldest makes room for the next one (R475). -/
theorem Dev.pushRec_length_le (d : Dev) (r : EventRec) : (d.pushRec r).ras.recs.length ≤ 512 := by
  simp only [Dev.pushRec, apply_ite Dev.ras, Dev.alert_ras, ite_self]
  exact List.length_take_le _ _

/-- With room for every severity and no loss to report, a record is put at HEAD (R475). -/
theorem Dev.writeRec_room {d : Dev} (r : EventRec) (room : 64 < d.ras.freeEntries) (none_lost : d.ras.dropped = 0) :
    d.writeRec r = d.pushRec r := by
  have taken : (if 2 ≤ r.sev then 0 < d.ras.freeEntries else 64 < d.ras.freeEntries) := by split <;> omega
  simp [Dev.writeRec, none_lost, taken]

/-- A record of an Advisory event of pour 0. -/
def advisory : EventRec := ⟨0, 0, 1, 0x4106, 0, none, none, false, false, 0, 0, 0, []⟩

/-- A head whose ring holds its 512 records 511 to 0, newest first, of which Barista has forwarded 64: it is full for Advisory events. -/
def ringOnceFilled : State :=
  onDev chainHead fun d => { d with ras := { d.ras with
    written := 512, tail := 64, recs := (List.range 512).map fun n => { advisory with rseq := 511 - n } } }

set_option maxRecDepth 20000 in
/-- RECORD_FORWARD of one more record makes room; what is forwarded stays readable, so the ring still holds 512 records. -/
theorem ringOnceFilled_after_forward :
    ∃ s, exec .recordForward ringOnceFilled = .next s ∧ AtHead s.dev (msg 1 0 0) ∧ 64 < s.dev.ras.freeEntries ∧ s.dev.ras.dropped = 0 ∧
      s.dev.ras.recs.length = 512 :=
  ⟨_, rfl, by decide, by decide, by decide, by decide⟩

/-- Refutes O46, in its clause of EVENT: it demands one record more than before. Once 512 records have been written, the ring that has room
for a record holds 512 before it and 512 after it, since HEAD overwrites the oldest, forwarded one (R475). -/
theorem not_chainManagementMessagesAct : ¬ Obligations.ChainManagementMessagesAct := by
  unfold Obligations.ChainManagementMessagesAct
  rintro ⟨-, -, -, -, event_adds_record, -⟩
  obtain ⟨s, -, atHead, room, none_lost, holds_all⟩ := ringOnceFilled_after_forward
  obtain ⟨-, one_more, -⟩ := (event_adds_record s (msg 1 0 0) advisory atHead room none_lost).settled (exec_event _ advisory s)
  rw [settle_ras, Dev.fromDown_atHead atHead, Dev.writeRec_room _ room none_lost, holds_all] at one_more
  exact absurd (one_more.symm.le.trans (s.dev.pushRec_length_le _)) (by decide)

/-! ### What link and fabric commands leave alone -/

/-- The contents and requests of a device that `MediaKept` compares. -/
def Dev.media (d : Dev) : Mem × Sparse Frame × List Txn × Home × Vector Tenant 32 × Sparse Word × Crema × Press :=
  (d.mem, d.frames, d.txns, d.home, d.tenants, d.ext, d.crm, d.prs)

theorem mediaKept_of_media {d e : Dev} (same : d.media = e.media) : MediaKept d e := by
  simpa only [Dev.media, Prod.mk.injEq] using same

/-- A command whose effect leaves contents and requests alone. -/
theorem Completes.media_kept {c : Instr} {s : State} {f : Dev → Dev} (hc : exec c s = s.on f) (same : (f s.dev).media = s.dev.media) :
    Completes c s fun d => MediaKept d s.dev :=
  .of_settle hc (mediaKept_of_media same)

/-- A command given at the pour boundary at which its change takes effect. -/
theorem Completes.media_kept_atEdge {c : Instr} {s : State} {f : Dev → Dev} (hc : exec c s = s.on (Dev.atEdge f)) (boundary : AtBoundary s.dev)
    (same : (f s.dev).media = s.dev.media) : Completes c s fun d => MediaKept d s.dev :=
  .media_kept hc (by rwa [Dev.atEdge_atBoundary f boundary])

/-- At a boundary behind pour `p` a change that falls due there takes effect at once. -/
theorem Dev.atEdgeAfter_atBoundary {d : Dev} {p : Nat} (f : Dev → Dev) (boundary : AtBoundary d) (later : p < d.now) :
    d.atEdgeAfter p f = f d := by
  rw [Dev.atEdgeAfter, if_pos later, Dev.atEdge_atBoundary f boundary]

/-- At a boundary a committed request takes effect at once. -/
theorem Dev.atRequest_atBoundary {d : Dev} (f : Dev → Dev) (boundary : AtBoundary d) : d.atRequest f = f d := by
  unfold Dev.atRequest
  split
  · rfl
  · simp_all

section
variable (d : Dev)

/-! #### Shared operations -/

@[simp] theorem Dev.setReg_media (o : Nat) (w : Word) : (d.setReg o w).media = d.media := rfl
@[simp] theorem Dev.setFld_media (f : Fld) (v : Nat) : (d.setFld f v).media = d.media := rfl
@[simp] theorem Dev.setFlag_media (f : Fld) (b : Bool) : (d.setFlag f b).media = d.media := rfl
@[simp] theorem Dev.setBit_media (f : Fld) (i : Nat) (b : Bool) : (d.setBit f i b).media = d.media := rfl
@[simp] theorem Dev.bump_media (f : Fld) (n : Nat) : (d.bump f n).media = d.media := rfl
@[simp] theorem Dev.emit_media (o : Out) : (d.emit o).media = d.media := rfl
@[simp] theorem Dev.floorMoved_media : d.floorMoved.media = d.media := rfl
@[simp] theorem Dev.takeTarget_media : d.takeTarget.media = d.media := rfl
@[simp] theorem Dev.modPort_media (p : PortId) (f : Port → Port) : (d.modPort p f).media = d.media := rfl
@[simp] theorem Dev.modFch_media (c : Nat) (f : FarChan → FarChan) : (d.modFch c f).media = d.media := rfl
@[simp] theorem Dev.modRly_media (p : PortId) (f : RelayPort → RelayPort) : (d.modRly p f).media = d.media := rfl

@[simp] theorem Dev.modLd_media (p : PortId) (ld : Nat) (f : LdState → LdState) : (d.modLd p ld f).media = d.media := by
  obtain ⟨lds, shape⟩ := d.modLd_shape p ld f
  rw [shape]
  rfl

@[simp] theorem Dev.raise_media (e : Ev) : (d.raise e).media = d.media := by
  obtain ⟨r, p, q, i, m, w, shape⟩ := d.raise_shape e
  rw [shape]
  rfl

@[simp] theorem Dev.raiseN_media (n : Nat) (detail : List Word) : (d.raiseN n detail).media = d.media := d.raise_media _

@[simp] theorem Dev.enter_media (m : Mode) (cause discard : Nat) : (d.enter m cause discard).media = d.media := by
  obtain ⟨m', u, r, p, q, i, g, w, shape⟩ := d.enter_shape m cause discard
  rw [shape]
  rfl

@[simp] theorem Dev.hwEnter_media (m : Mode) (cause : Nat) : (d.hwEnter m cause).media = d.media := by
  unfold Dev.hwEnter
  split
  · simp
  · rfl

/-! #### Host links and their decoders (R62, R331 to R338, R345 to R349) -/

@[simp] theorem Dev.cdatPort_media (p : PortId) : (d.cdatPort p).media = d.media :=
  foldl_keeps Dev.media _ _ d fun d _ => d.modLd_media p _ _

@[simp] theorem Dev.setLink_media (p : PortId) (width rate : Nat) : (d.setLink p width rate).media = d.media := by
  unfold Dev.setLink
  dsimp only
  split
  · rfl
  · simp

@[simp] theorem Dev.linkDown_media (p : PortId) (clearDecoders : Bool) : (d.linkDown p clearDecoders).media = d.media := by
  unfold Dev.linkDown
  split
  · rfl
  · simp

@[simp] theorem Dev.setStream_media (p : PortId) (stream : IdeStream) (v : Nat) : (d.setStream p stream v).media = d.media := by
  cases stream <;> rfl

/-! #### Power domains (R324 to R326) -/

@[simp] theorem Dev.setDom_media (n st : Nat) : (d.setDom n st).media = d.media := by
  simp [Dev.setDom]

@[simp] theorem Dev.powerOn_media (n : Nat) : (d.powerOn n).media = d.media := by
  unfold Dev.powerOn
  split
  · exact Dev.setDom_media _ _ _
  · split <;> rfl

theorem Dev.edgeFenceOff_media (x : Fin 12) : (d.edgeFenceOff x).media = d.media := by
  unfold Dev.edgeFenceOff
  split
  · dsimp only
    split
    · rw [Dev.powerOn_media, Dev.setDom_media]
      rfl
    · exact Dev.setDom_media _ _ _
  · rfl

theorem Dev.edgeFenceStuck_media (x : Fin 12) : (d.edgeFenceStuck x).media = d.media := by
  unfold Dev.edgeFenceStuck
  dsimp only
  split
  · simp
  · rfl

theorem Dev.edgeDomainPowerOnDone_media (x : Fin 12) : (d.edgeDomainPowerOnDone x).media = d.media := by
  unfold Dev.edgeDomainPowerOnDone
  dsimp only
  split
  · exact Dev.setDom_media _ _ _
  · rfl

/-! #### Modes, channels and checks (R30, R52, R55, R59, R160, R301) -/

theorem Dev.edgeRecentringStepEnd_media (ch : FarCh) : (d.edgeRecentringStepEnd ch).media = d.media := by
  unfold Dev.edgeRecentringStepEnd
  dsimp only
  split
  · split
    · simp
    · rfl
  · rfl

theorem Dev.edgeModeReqWake_media : d.edgeModeReqWake.media = d.media := by
  unfold Dev.edgeModeReqWake
  split <;> rfl

theorem Dev.edgeDrainLastTransactionClosed_media : d.edgeDrainLastTransactionClosed.media = d.media := by
  unfold Dev.edgeDrainLastTransactionClosed
  split <;> rfl

theorem Dev.edgeDrainPauseBoundary_media : d.edgeDrainPauseBoundary.media = d.media := by
  unfold Dev.edgeDrainPauseBoundary
  split <;> rfl

@[simp] theorem Dev.sleepChannel_media (c : Nat) : (d.sleepChannel c).media = d.media := rfl

theorem Dev.edgeDrowseIdleExpiry_media (ch : FarCh) : (d.edgeDrowseIdleExpiry ch).media = d.media := by
  unfold Dev.edgeDrowseIdleExpiry
  split
  · dsimp only
    split
    · simp
    · rfl
  · rfl

theorem Dev.overrunBreach_media : d.overrunBreach.media = d.media := by
  unfold Dev.overrunBreach
  split
  · simp
  · rfl

theorem Dev.reportShort_media : d.reportShort.media = d.media :=
  foldl_keeps Dev.media _ _ d fun d _ => by simp

theorem Dev.edgeGuaranteeWindowCheck_media : d.edgeGuaranteeWindowCheck.media = d.media := by
  unfold Dev.edgeGuaranteeWindowCheck
  dsimp only
  split
  · split
    · exact Dev.overrunBreach_media _
    · split
      · exact Dev.reportShort_media _
      · rfl
  · rfl

/-! #### The fabric manager (R342) -/

/-- A query of the fabric manager is refused or answered, and only the answer leaves. -/
theorem Dev.fmCommand_media (o : Dev → Out) : (d.fmCommand fun d => d.emit (o d)).media = d.media := by
  unfold Dev.fmCommand
  dsimp only
  split
  · rfl
  · split
    · rfl
    · split <;> rfl

end

/-- A query of the fabric manager. -/
theorem Completes.media_kept_fmQuery {c : Instr} {s : State} {o : Dev → Out} (hc : exec c s = s.on fun d => d.fmCommand fun d => d.emit (o d)) :
    Completes c s fun d => MediaKept d s.dev :=
  .media_kept hc (s.dev.fmCommand_media o)

section
variable (s : State) (port : PortId)

/-! #### Commands with a body of their own -/

theorem hdmDecoderCommit_keeps_media (ld : Nat) (idx : Fin 8) (cfg : HdmCfg) :
    Completes (.hdmDecoderCommit port ld idx cfg) s fun d => MediaKept d s.dev := by
  refine .media_kept (rfl : execHdmDecoderCommit port ld idx cfg s = s.on _) ?_
  split
  · exact Dev.modLd_media _ _ _ _
  · rfl

theorem perstBNAssert_keeps_media : Completes .perstBNAssert s fun d => MediaKept d s.dev := by
  refine .media_kept (rfl : execPerstBNAssert s = s.on _) ?_
  split
  · exact Dev.linkDown_media _ _ _
  · rfl

/-- Training that fails, or forms a link with or without CXL, writes the port's registers and record. -/
theorem linkTrainingComplete_keeps_media (res : LinkResult) : Completes (.linkTrainingComplete port res) s fun d => MediaKept d s.dev := by
  refine .media_kept (rfl : execLinkTrainingComplete port res s = s.on _) ?_
  dsimp only
  split
  · rfl
  · cases res with
    | noX4 => simp
    | pcieOnly width rate =>
      dsimp only
      split <;> simp
    | cxl gen3 width rate mld lopt =>
      dsimp only
      split <;> simp

theorem linkRecovery_keeps_media (width rate replayed : Nat) :
    Completes (.linkRecovery port width rate replayed) s fun d => MediaKept d s.dev := by
  refine .media_kept (rfl : execLinkRecovery port width rate replayed s = s.on _) ?_
  dsimp only
  split
  · rw [Dev.setLink_media]
    split <;> simp
  · rfl

theorem l0pWidthChange_keeps_media (width : Nat) : Completes (.l0pWidthChange port width) s fun d => MediaKept d s.dev := by
  refine .media_kept (rfl : execL0pWidthChange port width s = s.on _) ?_
  split
  · simp
  · rfl

theorem ideIntegrityFailure_keeps_media (stream : IdeStream) : Completes (.ideIntegrityFailure port stream) s fun d => MediaKept d s.dev := by
  refine .media_kept (rfl : execIdeIntegrityFailure port stream s = s.on _) ?_
  dsimp only
  split
  · simp
  · rfl

theorem ideKm_keeps_media (stream : IdeStream) (keys : Bool) : Completes (.ideKm port stream keys) s fun d => MediaKept d s.dev := by
  refine .media_kept (rfl : execIdeKm port stream keys s = s.on _) ?_
  split
  · exact Dev.setStream_media _ _ _ _
  · rfl

theorem rttMeasurement_keeps_media (cycles : Nat) : Completes (.rttMeasurement port cycles) s fun d => MediaKept d s.dev := by
  refine .media_kept (rfl : execRttMeasurement port cycles s = s.on _) ?_
  dsimp only
  split <;> rfl

theorem fenceDrainAck_keeps_media (x : Fin 12) : Completes (.fenceDrainAck x) s fun d => MediaKept d s.dev := by
  refine .media_kept (rfl : execFenceDrainAck x s = s.on _) ?_
  dsimp only
  split <;> rfl

/-- A table of an LD goes out, or Unsupported Request where none is bound (R336, R340). -/
theorem cxlTableAccess_keeps_media (ld : Nat) : Completes (.cxlTableAccess port ld) s fun d => MediaKept d s.dev := by
  refine .media_kept (rfl : execCxlTableAccess port ld s = s.on _) ?_
  split
  · rfl
  · split <;> rfl

/-! #### Commands at a boundary of their own kind -/

theorem modeReqWake_keeps_media (boundary : AtBoundary s.dev) : Completes .modeReqWake s fun d => MediaKept d s.dev :=
  .media_kept (f := Dev.atRequest Dev.edgeModeReqWake) rfl
    (by rw [Dev.atRequest_atBoundary _ boundary, Dev.edgeModeReqWake_media])

theorem drainLastTransactionClosed_keeps_media (boundary : AtBoundary s.dev) (later : s.dev.due.drainAt < s.dev.now) :
    Completes .drainLastTransactionClosed s fun d => MediaKept d s.dev :=
  .media_kept (f := fun d => d.atEdgeAfter d.due.drainAt Dev.edgeDrainLastTransactionClosed) rfl
    (by rw [Dev.atEdgeAfter_atBoundary _ boundary later, Dev.edgeDrainLastTransactionClosed_media])

theorem drainPauseBoundary_keeps_media (boundary : AtBoundary s.dev) (later : s.dev.due.drainAt < s.dev.now) :
    Completes .drainPauseBoundary s fun d => MediaKept d s.dev :=
  .media_kept (f := fun d => d.atEdgeAfter d.due.drainAt Dev.edgeDrainPauseBoundary) rfl
    (by rw [Dev.atEdgeAfter_atBoundary _ boundary later, Dev.edgeDrainPauseBoundary_media])

end

/-- Settles O57, clause by clause: what each command does lies in registers, links, records, modes, channels, domains and answers. -/
theorem linkAndFabricCommandsKeepTheMedia : Obligations.LinkAndFabricCommandsKeepTheMedia := by
  unfold Obligations.LinkAndFabricCommandsKeepTheMedia
  refine ⟨hdmDecoderCommit_keeps_media, perstBNAssert_keeps_media, ?dlDown, ?hotReset, ?flr, linkTrainingComplete_keeps_media,
    linkRecovery_keeps_media, l0pWidthChange_keeps_media, ideIntegrityFailure_keeps_media, ideKm_keeps_media, rttMeasurement_keeps_media,
    ?spdm, fenceDrainAck_keeps_media, ?fenceOff, ?fenceStuck, ?powerOn, ?recentring, modeReqWake_keeps_media,
    drainLastTransactionClosed_keeps_media, drainPauseBoundary_keeps_media, ?drowse, ?guarantee, ?extentLists, ?getLd, ?setLd, ?qosStatus,
    ?qosControl, ?qosBw, cxlTableAccess_keeps_media⟩
  case dlDown => exact fun s port => .media_kept (rfl : execDlDown port s = s.on _) (s.dev.linkDown_media port false)
  case hotReset => exact fun s port => .media_kept (rfl : execHotReset port s = s.on _) (s.dev.linkDown_media port true)
  case flr => exact fun s port ld => .media_kept (rfl : execFlr port ld s = s.on _) rfl
  case spdm => exact fun s m port => .media_kept (rfl : execSpdm m port s = s.on _) rfl
  case fenceOff => exact fun s x boundary => .media_kept_atEdge rfl boundary (s.dev.edgeFenceOff_media x)
  case fenceStuck => exact fun s x boundary => .media_kept_atEdge rfl boundary (s.dev.edgeFenceStuck_media x)
  case powerOn => exact fun s x boundary => .media_kept_atEdge rfl boundary (s.dev.edgeDomainPowerOnDone_media x)
  case recentring => exact fun s ch boundary => .media_kept_atEdge rfl boundary (s.dev.edgeRecentringStepEnd_media ch)
  case drowse => exact fun s ch boundary => .media_kept_atEdge rfl boundary (s.dev.edgeDrowseIdleExpiry_media ch)
  case guarantee => exact fun s boundary => .media_kept_atEdge rfl boundary s.dev.edgeGuaranteeWindowCheck_media
  case extentLists => exact fun s t => .media_kept_fmQuery (rfl : execGetDcRegionExtentLists t s = s.on _)
  case getLd => exact fun s port => .media_kept_fmQuery (rfl : execGetLdAllocations port s = s.on _)
  case setLd => exact fun s port => .media_kept_fmQuery (rfl : execSetLdAllocations port s = s.on _)
  case qosStatus => exact fun s t => .media_kept_fmQuery (rfl : execGetQosStatus t s = s.on _)
  case qosControl => exact fun s controls => .media_kept_fmQuery (rfl : execSetQosControl controls s = s.on _)
  case qosBw => exact fun s port => .media_kept_fmQuery (rfl : execSetQosAllocatedBw port s = s.on _)

end Sys2Proof.Machine


/-! SUPPORT. The power domains of the network (O38): a domain whose power-on falls due while its fence still drains (R325, R326). -/

namespace Sys2Proof.Machine

/-- The payload of XT_BIST_RUN for the offline test of the crypto block: the header, then kind 4, index 1 and option 1 (R491). -/
def testCrypto : Payload := List.replicate 8 0 ++ [4, 1, 1]

/-- What the statement on FENCE_OFF asks of a state and a domain. -/
abbrev DrainedFence (d : Dev) (n : Fin 12) : Prop :=
  AtBoundary d ∧ d.live = true ∧ d.domState n.val = 1 ∧ d.noc.acked.has n.val = true

theorem exec_fenceOff (n : Fin 12) (s : State) : exec (.fenceOff n) s = s.on (Dev.atEdge (Dev.edgeFenceOff n)) := rfl

set_option maxRecDepth 20000 in
/-- In MAINT, XT_BIST_RUN fences the crypto domain for its test. The test passes in the next pour, before the domain has drained: its power-on
waits for the end of the fence, which FENCE_OFF brings after the acknowledgement. -/
theorem cryptoTest_passed_before_fence_drained :
    ∃ started later passed drained, exec (.xtBistRun .mctp testCrypto) (inMode .maint) = .next started ∧
      exec .pourBoundary started = .next later ∧ exec (.bistTestEnd .pass []) later = .next passed ∧
      exec (.fenceDrainAck 11) passed = .next drained ∧ DrainedFence drained.dev 11 ∧ (drained.dev.edgeFenceOff 11).domState 11 = 3 :=
  ⟨_, _, _, _, rfl, rfl, rfl, rfl, by decide, by decide⟩

/-- Refutes O38, in its clause of FENCE_OFF: it demands OFF and does not ask that no power-on waits for the domain. A domain that is to
power up again as soon as it is OFF is POWERING at the end of the same step (R326, log entry 86). -/
theorem not_domainsFenceAndMeshErrorsStop : ¬ Obligations.DomainsFenceAndMeshErrorsStop := by
  unfold Obligations.DomainsFenceAndMeshErrorsStop
  rintro ⟨-, fenceOff_leaves_off, -⟩
  obtain ⟨-, -, -, s, -, -, -, -, ⟨boundary, live, fencing, drained⟩, powering⟩ := cryptoTest_passed_before_fence_drained
  obtain ⟨off, -, -⟩ := (fenceOff_leaves_off s 11 boundary live fencing drained).settled (exec_fenceOff 11 s)
  rw [Dev.domState, settle_reg, ← Dev.domState, Dev.atEdge_atBoundary _ boundary] at off
  exact absurd (powering.symm.trans off) (by decide)

end Sys2Proof.Machine


/-! SUPPORT. Steps and queues (O48, O53): a step takes the command in front, and a queue empties in as many steps as commands wait. -/

namespace Sys2Proof.Machine

/-- Settles O48: a queue with a command in front takes the second branch of `step`. -/
theorem aStepRunsTheCommandInFront : Obligations.AStepRunsTheCommandInFront :=
  fun _ _ _ => rfl

/-- A step answers a next state with the rest of the queue, whatever command was in front (log entry 1). -/
theorem step_pops (s : State) : ∃ t, step s = .next t ∧ t.pending = s.pending.tail := by
  obtain ⟨_, e⟩ := step_on s
  exact ⟨_, e, rfl⟩

/-- A run of one step more goes on from the state that the first step answers. -/
theorem run_succ (M : Host.Core) {s t : M.State} (n : Nat) (first : M.step s = .next t) : M.run (n + 1) s = M.run n t := by
  rw [Host.Core.run, first]

/-- The run of as many steps as the front part of the queue has commands leaves the rest of the queue. -/
theorem run_drains_front (front rest : List Instr) (s : State) (queue : s.pending = front ++ rest) :
    ∃ t, core.run front.length s = .next t ∧ t.pending = rest := by
  induction front generalizing s with
  | nil => exact ⟨s, rfl, queue⟩
  | cons c front ih =>
    obtain ⟨t, first, popped⟩ := step_pops s
    obtain ⟨u, run, left⟩ := ih t (by rw [popped, queue]; rfl)
    exact ⟨u, (run_succ core front.length first).trans run, left⟩

/-- Settles O53, by induction on the front part of the queue; the whole queue is its own front part. -/
theorem everyQueueDrains : Obligations.EveryQueueDrains :=
  ⟨fun s => run_drains_front s.pending [] s s.pending.append_nil.symm, fun s front rest => run_drains_front front rest s⟩

end Sys2Proof.Machine


/-! SUPPORT. Keyed pairs that fail (O60): the key is wrong, or no pair is armed (R414 to R416). -/

namespace Sys2Proof.Machine

section
variable {d : Dev} {src : Source} {off : Nat} {key : Word} {act : Word → Dev → Option Dev} {a : Armed}

theorem Dev.setArmed_stamp (d : Dev) (src : Source) (a : Option Armed) : (d.setArmed src a).stamp = d.stamp := rfl

/-- A KEY write in time that is not the complement uses the pair up (R414). -/
theorem Dev.keyWrite_wrongKey (armed : d.armedBy src = some a) (same : a.off = off) (inTime : a.at_.cyclesTo d.stamp ≤ 256)
    (wrong : key ≠ ~~~a.value) : d.keyWrite src off key act = (d.setArmed src none).keyFail 1 off := by
  simp only [Dev.keyWrite, armed, same, if_true, Dev.setArmed_stamp, if_neg (Nat.not_lt.mpr inTime), if_pos wrong]

theorem Dev.keyWrite_unarmed (unarmed : d.armedBy src = none) : d.keyWrite src off key act = d.keyFail 2 off := by
  simp only [Dev.keyWrite, unarmed]

end

section
variable {c : Instr} {s : State} {src : Source} {off : Nat} {key : Word} {act : Word → Dev → Option Dev}
  (hc : exec c s = s.on fun d => if d.canAccess src off then d.keyWrite src off key act else d) (access : s.dev.canAccess src off = true)
  (other : off ≠ Off.glbKeyfail)
include hc access other

/-- A KEY write that is not the complement changes GLB_KEYFAIL and takes the pair off, and nothing else. -/
theorem completes_wrongKey {a : Armed} (armed : s.dev.armedBy src = some a) (same : a.off = off)
    (inTime : a.at_.cyclesTo s.dev.stamp ≤ 256) (wrong : key ≠ ~~~a.value) :
    Completes c s fun d => d.reg Off.glbKeyfail = keyfailWord 1 off ∧ d.armedBy src = none ∧ d.reg off = s.dev.reg off ∧
      MediaKept d s.dev ∧ d.fuses = s.dev.fuses ∧ d.can = s.dev.can := by
  refine .of_settle hc ?_
  simp only [access, if_true, Dev.keyWrite_wrongKey armed same inTime wrong]
  exact ⟨Dev.keyFail_reg _ _ _, s.dev.armedBy_setArmed src none, Dev.reg_setReg_ne _ _ other, ⟨rfl, rfl, rfl, rfl, rfl, rfl, rfl, rfl⟩,
    settle_fuses_same rfl, rfl⟩

/-- A KEY write with no pair armed changes GLB_KEYFAIL and nothing else. -/
theorem completes_unarmedKey (unarmed : s.dev.armedBy src = none) :
    Completes c s fun d => d.reg Off.glbKeyfail = keyfailWord 2 off ∧ d.reg off = s.dev.reg off ∧
      MediaKept d s.dev ∧ d.fuses = s.dev.fuses ∧ d.can = s.dev.can ∧ d.acc = s.dev.acc := by
  refine .of_settle hc ?_
  simp only [access, if_true, Dev.keyWrite_unarmed unarmed]
  exact ⟨Dev.keyFail_reg _ _ _, Dev.reg_setReg_ne _ _ other, ⟨rfl, rfl, rfl, rfl, rfl, rfl, rfl, rfl⟩, settle_fuses_same rfl, rfl, rfl⟩

end

section
variable (src : Source) (key : Word) (s : State)

theorem exec_glbSealCtlOff : exec (.glbSealCtlOff src key) s = s.on fun d =>
    if d.canAccess src Off.glbSealCtl then d.keyWrite src Off.glbSealCtl key sealAct else d := rfl

theorem exec_glbSealCtlEnforce : exec (.glbSealCtlEnforce src key) s = s.on fun d =>
    if d.canAccess src Off.glbSealCtl then d.keyWrite src Off.glbSealCtl key sealAct else d := rfl

theorem exec_glbSealCtlReport : exec (.glbSealCtlReport src key) s = s.on fun d =>
    if d.canAccess src Off.glbSealCtl then d.keyWrite src Off.glbSealCtl key sealAct else d := rfl

theorem exec_inlOverrideOff : exec (.inlOverrideOff src key) s = s.on fun d =>
    if d.canAccess src Off.inlOverride then d.keyWrite src Off.inlOverride key inletOverride else d := rfl

theorem exec_inlOverrideOn : exec (.inlOverrideOn src key) s = s.on fun d =>
    if d.canAccess src Off.inlOverride then d.keyWrite src Off.inlOverride key inletOverride else d := rfl

theorem exec_inlOverrideModel : exec (.inlOverrideModel src key) s = s.on fun d =>
    if d.canAccess src Off.inlOverride then d.keyWrite src Off.inlOverride key inletOverride else d := rfl

theorem exec_inlClear : exec (.inlClear src key) s = s.on fun d =>
    if d.canAccess src Off.inlClear then d.keyWrite src Off.inlClear key inletClear else d := rfl

theorem exec_canErase : exec (.canErase src key) s = s.on fun d =>
    if d.canAccess src Off.canErase then d.keyWrite src Off.canErase key eraseAct else d := rfl

end

/-- Settles O60: each keyed register's command is the KEY write of its pair. -/
theorem wrongPairsChangeNothingButKeyfail : Obligations.WrongPairsChangeNothingButKeyfail := by
  unfold Obligations.WrongPairsChangeNothingButKeyfail
  refine ⟨?off_wrong, ?off_none, ?enforce_wrong, ?enforce_none, ?report_wrong, ?report_none, ?lc_wrong, ?lc_none, ?fuse_wrong, ?fuse_none,
    ?ovOff_wrong, ?ovOff_none, ?ovOn_wrong, ?ovOn_none, ?ovModel_wrong, ?ovModel_none, ?clear_wrong, ?clear_none, ?erase_wrong, ?erase_none⟩
  case off_wrong => exact fun s src key _ access => completes_wrongKey (exec_glbSealCtlOff src key s) access (by decide)
  case off_none => exact fun s src key access => completes_unarmedKey (exec_glbSealCtlOff src key s) access (by decide)
  case enforce_wrong => exact fun s src key _ access => completes_wrongKey (exec_glbSealCtlEnforce src key s) access (by decide)
  case enforce_none => exact fun s src key access => completes_unarmedKey (exec_glbSealCtlEnforce src key s) access (by decide)
  case report_wrong => exact fun s src key _ access => completes_wrongKey (exec_glbSealCtlReport src key s) access (by decide)
  case report_none => exact fun s src key access => completes_unarmedKey (exec_glbSealCtlReport src key s) access (by decide)
  case lc_wrong => exact fun s src key _ access => completes_wrongKey (exec_glbLcAdv src key s) access (by decide)
  case lc_none => exact fun s src key access => completes_unarmedKey (exec_glbLcAdv src key s) access (by decide)
  case fuse_wrong => exact fun s src key _ access => completes_wrongKey (exec_rasFuseLo src key s) access (by decide)
  case fuse_none => exact fun s src key access => completes_unarmedKey (exec_rasFuseLo src key s) access (by decide)
  case ovOff_wrong => exact fun s src key _ access => completes_wrongKey (exec_inlOverrideOff src key s) access (by decide)
  case ovOff_none => exact fun s src key access => completes_unarmedKey (exec_inlOverrideOff src key s) access (by decide)
  case ovOn_wrong => exact fun s src key _ access => completes_wrongKey (exec_inlOverrideOn src key s) access (by decide)
  case ovOn_none => exact fun s src key access => completes_unarmedKey (exec_inlOverrideOn src key s) access (by decide)
  case ovModel_wrong => exact fun s src key _ access => completes_wrongKey (exec_inlOverrideModel src key s) access (by decide)
  case ovModel_none => exact fun s src key access => completes_unarmedKey (exec_inlOverrideModel src key s) access (by decide)
  case clear_wrong => exact fun s src key _ access => completes_wrongKey (exec_inlClear src key s) access (by decide)
  case clear_none => exact fun s src key access => completes_unarmedKey (exec_inlClear src key s) access (by decide)
  case erase_wrong => exact fun s src key _ access => completes_wrongKey (exec_canErase src key s) access (by decide)
  case erase_none => exact fun s src key access => completes_unarmedKey (exec_canErase src key s) access (by decide)

end Sys2Proof.Machine


/-! SUPPORT. The inlet (O1, O2): its states, its record, its faults, and the main rail that goes with them (R507 to R521). -/

namespace Sys2Proof.Machine

theorem settle_mode_cold {a b : Dev} (cold : b.mode = .cold) : (settle a b).mode = .cold := by
  have edge : modeEdge a.mode .cold = true := by cases a.mode <;> rfl
  simp [settle, cold, edge]

section
variable (d : Dev)

/-! ### The inlet's state and record -/

@[simp] theorem Dev.setInlet_pwr (x : Inlet) :
    (d.setInlet x).pwr = { d.pwr with inlet := x, gates := x == .prechg || x == .ramp || x == .on } := rfl
@[simp] theorem Dev.modRecord_inlet (f : InletRec → InletRec) : (d.modRecord f).can.inlet = f d.can.inlet := rfl
@[simp] theorem Dev.modRecord_atBoot (f : InletRec → InletRec) : (d.modRecord f).can.atBoot = d.can.atBoot := rfl
@[simp] theorem Dev.modRecord_fld (f : InletRec → InletRec) (x : Fld) : (d.modRecord f).fld x = d.fld x := rfl
@[simp] theorem Dev.atBoot_inlet (n : Nat) (l : List Word) : (d.atBoot n l).can.inlet = d.can.inlet := rfl
@[simp] theorem Dev.atBoot_atBoot (n : Nat) (l : List Word) : (d.atBoot n l).can.atBoot = d.can.atBoot ++ [(n, l)] := rfl
@[simp] theorem Dev.atBoot_fld (n : Nat) (l : List Word) (x : Fld) : (d.atBoot n l).fld x = d.fld x := rfl
@[simp] theorem Dev.setFails_pwr (n : Nat) : (d.setFails n).pwr = d.pwr := rfl
@[simp] theorem Dev.setFails_inlet (n : Nat) : (d.setFails n).can.inlet = { d.can.inlet with fails := n } := rfl
@[simp] theorem Dev.measure_pwr (m : InletMeas) : (d.measure m).pwr = d.pwr := rfl
@[simp] theorem Dev.measure_can (m : InletMeas) : (d.measure m).can = d.can := rfl

/-- The measurements stand in registers of their own (R524). -/
theorem Dev.measure_reg {o : Nat} (m : InletMeas) (first : o ≠ Off.inlMeas) (second : o ≠ Off.inlMeas2) : (d.measure m).reg o = d.reg o := by
  unfold Dev.measure
  dsimp only
  rw [Dev.reg_setFld_ne _ _ second, Dev.reg_setFld_ne _ _ second, Dev.reg_setFld_ne _ _ first, Dev.reg_setFld_ne _ _ first]

/-! ### The main rail goes (R61) -/

@[simp] theorem Dev.cold_pwr : d.cold.pwr = { d.pwr with capBelow := none, capNext := 0 } := rfl
@[simp] theorem Dev.cold_can : d.cold.can = { d.can with storing := none } := rfl

@[simp] theorem Dev.mainGone_powerGood : d.mainGone.pwr.powerGood = false := by
  unfold Dev.mainGone
  split
  · rfl
  · next no => simpa using no

@[simp] theorem Dev.mainGone_gates : d.mainGone.pwr.gates = d.pwr.gates := by
  unfold Dev.mainGone
  split <;> rfl

@[simp] theorem Dev.mainGone_inlet : d.mainGone.pwr.inlet = d.pwr.inlet := by
  unfold Dev.mainGone
  split <;> rfl

@[simp] theorem Dev.mainGone_prsntLow : d.mainGone.pwr.prsntLow = d.pwr.prsntLow := by
  unfold Dev.mainGone
  split <;> rfl

@[simp] theorem Dev.mainGone_thermtrip : d.mainGone.pwr.thermtrip = d.pwr.thermtrip := by
  unfold Dev.mainGone
  split <;> rfl

@[simp] theorem Dev.mainGone_record : d.mainGone.can.inlet = d.can.inlet := by
  unfold Dev.mainGone
  split <;> rfl

@[simp] theorem Dev.mainGone_atBoot : d.mainGone.can.atBoot = d.can.atBoot := by
  unfold Dev.mainGone
  split <;> rfl

theorem Dev.mainGone_cold (good : d.pwr.powerGood = true) : d.mainGone.mode = .cold := by
  rw [Dev.mainGone, if_pos good]
  rfl

/-! ### A fault (R514, R515) -/

@[simp] theorem Dev.afterFail_gates (n : Nat) : (d.afterFail n).pwr.gates = false := by
  unfold Dev.afterFail
  split <;> rfl

@[simp] theorem Dev.afterFail_powerGood (n : Nat) : (d.afterFail n).pwr.powerGood = d.pwr.powerGood := by
  unfold Dev.afterFail
  split <;> rfl

theorem Dev.afterFail_inlet (n : Nat) : (d.afterFail n).pwr.inlet = if 3 ≤ n then .latched else .wait := by
  unfold Dev.afterFail
  split <;> rfl

/-- After a failure the record is as before, but for its latch. -/
theorem Dev.afterFail_record (n : Nat) : ∃ latched, (d.afterFail n).can.inlet = { d.can.inlet with latched := latched } := by
  unfold Dev.afterFail
  split
  · exact ⟨true, rfl⟩
  · exact ⟨_, rfl⟩

/-- A fault as it stands before the state that follows from it: measured, told, and recorded (R514). -/
def Dev.faultTold (d : Dev) (cause : Nat) (m : InletMeas) : Dev :=
  ((((d.measure m).setFld Fld.inlSts_cause cause).alert 5).modRecord fun r => { r with cause := cause, marker := false }).atBoot 0x1E1 []

theorem Dev.faultTold_fails (cause : Nat) (m : InletMeas) : (d.faultTold cause m).fld Fld.inlSts_fails = d.fld Fld.inlSts_fails := by
  rw [Dev.faultTold, Dev.atBoot_fld, Dev.modRecord_fld, Dev.fld, Dev.alert_reg _ _ _ (by decide), ← Dev.fld,
    Dev.fld_setFld_apart _ _ _ _ (by decide), Dev.fld, Dev.measure_reg _ _ (by decide) (by decide), ← Dev.fld]

theorem Dev.faultTold_pwr (cause : Nat) (m : InletMeas) : (d.faultTold cause m).pwr = d.pwr := by
  rw [Dev.faultTold, Dev.atBoot_pwr, Dev.modRecord_pwr, Dev.alert_pwr, Dev.setFld_pwr, Dev.measure_pwr]

theorem Dev.faultTold_record (cause : Nat) (m : InletMeas) :
    (d.faultTold cause m).can.inlet = { d.can.inlet with cause := cause, marker := false } := by
  simp [Dev.faultTold]

/-- A fault of the retried kind. -/
theorem Dev.inletFault_retried {cause : Nat} (m : InletMeas) (retried : ¬ (cause = 6 ∨ cause = 7 ∨ cause = 8)) :
    ∃ entry, d.inletFault cause m = ((((d.faultTold cause m).setFails (min 3 (d.fld Fld.inlSts_fails + 1))).afterFail
      (min 3 (d.fld Fld.inlSts_fails + 1))).modRecord fun r => { r with entry := entry }).mainGone := by
  rw [← d.faultTold_fails cause m]
  unfold Dev.inletFault
  simp only [if_neg retried]
  exact ⟨_, rfl⟩

/-- A device whose inlet is latched and whose record takes a fault's entry. -/
def Dev.latching (d : Dev) (entry : Option InletEntry) : Dev :=
  (((d.modRecord fun r => { r with latched := true }).setInlet .latched).atBoot 0x1E2 []).modRecord fun r => { r with entry := entry }

theorem Dev.latching_pwr (entry : Option InletEntry) : (d.latching entry).pwr = { d.pwr with inlet := .latched, gates := false } := by
  rw [Dev.latching, Dev.modRecord_pwr, Dev.atBoot_pwr, Dev.setInlet_pwr, Dev.modRecord_pwr]
  rfl

theorem Dev.latching_inlet (entry : Option InletEntry) :
    (d.latching entry).can.inlet = { d.can.inlet with latched := true, entry := entry } := rfl

/-- A fault that latches at once. -/
theorem Dev.inletFault_latched {cause : Nat} (m : InletMeas) (latches : cause = 6 ∨ cause = 7 ∨ cause = 8) :
    ∃ entry, d.inletFault cause m = ((d.faultTold cause m).latching entry).mainGone := by
  unfold Dev.inletFault
  simp only [if_pos latches]
  exact ⟨_, rfl⟩

theorem Dev.inletFault_thermtrip (cause : Nat) (m : InletMeas) (latches : cause = 6 ∨ cause = 7 ∨ cause = 8) :
    (d.inletFault cause m).pwr.thermtrip = d.pwr.thermtrip := by
  obtain ⟨entry, shape⟩ := d.inletFault_latched m latches
  rw [shape, Dev.mainGone_thermtrip, Dev.latching_pwr, Dev.faultTold_pwr]

/-! ### The presence pin (R507, R519) -/

/-- PRSNT_N is low again: the board is there, and no removal holds the inlet. -/
def Dev.seated (d : Dev) : Dev := ({ d with pwr := { d.pwr with prsntLow := true } } : Dev).setFlag Fld.inlSts_removal false

theorem Dev.seated_pwr : d.seated.pwr = { d.pwr with prsntLow := true } := rfl
theorem Dev.seated_can : d.seated.can = d.can := rfl

theorem Dev.seated_inletOff : d.seated.inletOff = d.flag Fld.inlOverride_off := by
  have removal : d.seated.flag Fld.inlSts_removal = false := Dev.flag_setFlag_same _ _ _ (by decide) rfl
  have override : d.seated.flag Fld.inlOverride_off = d.flag Fld.inlOverride_off := Dev.setFlag_flag_apart _ _ (by decide)
  simp [Dev.inletOff, Dev.seated_pwr, removal, override]

theorem exec_prsntNLow (s : State) : exec .prsntNLow s = s.on fun d =>
    let e := if d.pwr.prsntLow then { d with pwr := { d.pwr with prsntLow := true } } else d.seated
    if e.inletIn [.off] && !e.inletOff then e.setInlet .check else e := rfl

end

/-- What a fault of the retried kind does to a device that shows the power and the failure count of `a`. -/
theorem inletFault_failed {a d : Dev} {cause : Nat} (m : InletMeas) (retried : ¬ (cause = 6 ∨ cause = 7 ∨ cause = 8)) (pwr : d.pwr = a.pwr)
    (fails : d.fld Fld.inlSts_fails = a.fld Fld.inlSts_fails) : Failed a (settle a (d.inletFault cause m)) cause := by
  obtain ⟨entry, shape⟩ := d.inletFault_retried m retried
  rw [fails] at shape
  have told := (d.faultTold_pwr cause m).trans pwr
  have told_record := d.faultTold_record cause m
  generalize d.faultTold cause m = b at shape told told_record
  have failed_pwr : (b.setFails (min 3 (a.fld Fld.inlSts_fails + 1))).pwr = a.pwr := (b.setFails_pwr _).trans told
  have failed_record := b.setFails_inlet (min 3 (a.fld Fld.inlSts_fails + 1))
  rw [told_record] at failed_record
  generalize b.setFails (min 3 (a.fld Fld.inlSts_fails + 1)) = e at shape failed_pwr failed_record
  obtain ⟨latched, record⟩ := e.afterFail_record (min 3 (a.fld Fld.inlSts_fails + 1))
  rw [failed_record] at record
  have gates := e.afterFail_gates (min 3 (a.fld Fld.inlSts_fails + 1))
  have good := e.afterFail_powerGood (min 3 (a.fld Fld.inlSts_fails + 1))
  have inlet := e.afterFail_inlet (min 3 (a.fld Fld.inlSts_fails + 1))
  have third : (3 ≤ min 3 (a.fld Fld.inlSts_fails + 1)) = (3 ≤ a.fld Fld.inlSts_fails + 1) :=
    propext (le_min_iff.trans (and_iff_right le_rfl))
  simp only [third] at inlet
  generalize e.afterFail (min 3 (a.fld Fld.inlSts_fails + 1)) = h at shape record gates good inlet
  have kept : ∀ f, (h.modRecord f).pwr = h.pwr := fun _ => rfl
  have entered : (h.modRecord fun r => { r with entry := entry }).can.inlet = { h.can.inlet with entry := entry } := rfl
  rw [record] at entered
  have pwr' := kept fun r => { r with entry := entry }
  generalize h.modRecord (fun r => { r with entry := entry }) = g at shape entered pwr'
  rw [← pwr'] at gates good inlet
  have cold : a.pwr.powerGood = true → g.mainGone.mode = .cold := fun before =>
    g.mainGone_cold (good.trans ((congrArg Power.powerGood failed_pwr).trans before))
  have record' := g.mainGone_record.trans entered
  have gates' := g.mainGone_gates.trans gates
  have inlet' := g.mainGone_inlet.trans inlet
  have off := g.mainGone_powerGood
  generalize g.mainGone = y at shape cold record' gates' inlet' off
  rw [shape]
  exact ⟨gates', off, congrArg InletRec.cause record', congrArg InletRec.marker record', congrArg InletRec.fails record', inlet',
    fun before => settle_mode_cold (cold before)⟩

/-- What a fault that latches does. -/
theorem inletFault_latched {a d : Dev} {cause : Nat} (m : InletMeas) (latches : cause = 6 ∨ cause = 7 ∨ cause = 8)
    (good : d.pwr.powerGood = a.pwr.powerGood) (record : d.can.inlet = a.can.inlet) : Latched a (settle a (d.inletFault cause m)) cause := by
  obtain ⟨entry, shape⟩ := d.inletFault_latched m latches
  have pwr := (d.faultTold cause m).latching_pwr entry
  have inlet := (d.faultTold cause m).latching_inlet entry
  rw [d.faultTold_pwr] at pwr
  rw [d.faultTold_record, record] at inlet
  generalize (d.faultTold cause m).latching entry = e at shape pwr inlet
  have goes_cold : a.pwr.powerGood = true → (settle a (d.inletFault cause m)).mode = .cold := fun before => by
    refine settle_mode_cold ?_
    rw [shape]
    exact Dev.mainGone_cold _ (by simp [pwr, good, before])
  refine ⟨?_, ?_, ?_, ?_, ?_, ?_, ?_, goes_cold⟩ <;>
    simp [shape, pwr, inlet]

section
variable {c : Instr} {s : State} {p : Dev → Bool} {cause : Nat} {m : InletMeas}

/-- A command that reports a fault of the retried kind where it may. -/
theorem completes_failed (hc : exec c s = s.on fun d => if p d then d.inletFault cause m else d) (may : p s.dev = true)
    (retried : ¬ (cause = 6 ∨ cause = 7 ∨ cause = 8)) : Completes c s fun d => Failed s.dev d cause := by
  refine .of_settle hc ?_
  rw [if_pos may]
  exact inletFault_failed m retried rfl rfl

end

/-- Settles O2: every fault is `inletFault` with its cause; no other step lies between the command and it but what it shows or holds. -/
theorem inletFaultsRetryOrLatch : Obligations.InletFaultsRetryOrLatch := by
  unfold Obligations.InletFaultsRetryOrLatch
  refine ⟨?precharge, ?ramp, ?limit, ?trip, ?fet, ?powerGood, ?gate, ?thermtrip⟩
  case precharge =>
    intro s m vaux inlet
    exact completes_failed (p := (·.inletIn [.prechg])) rfl (by simp [Dev.inletIn, vaux, inlet]) (by decide)
  case ramp =>
    intro s m vaux inlet
    exact completes_failed (p := (·.inletIn [.ramp])) rfl (by simp [Dev.inletIn, vaux, inlet]) (by decide)
  case limit =>
    intro s m vaux inlet
    exact completes_failed (p := (·.inletIn [.ramp, .on])) rfl (by simp [Dev.inletIn, vaux, inlet]) (by decide)
  case trip =>
    intro s m vaux inlet above
    exact completes_failed (p := fun d => d.inletIn [.ramp, .on] && decide (200 * d.fld Fld.inlCfg_ilim < m.iout)) rfl
      (by simp [Dev.inletIn, vaux, inlet, above]) (by decide)
  case fet =>
    intro s m vaux inlet hot
    exact completes_failed (p := fun d => d.inletIn [.ramp, .on] && decide (d.fld Fld.inlFet_tmax ≤ d.fetTemp m)) rfl
      (by simp [Dev.inletIn, vaux, inlet, hot]) (by decide)
  case powerGood =>
    intro s m r vaux inlet down
    refine .of_settle (rfl : execPowerGoodTimeout m r s = s.on _) ?_
    have may : (s.dev.inletIn [.on] && !s.dev.pwr.powerGood) = true := by simp [Dev.inletIn, vaux, inlet, down]
    simp only [may, if_true]
    refine inletFault_failed m (by decide) ?_ ?_
    · split <;> rfl
    · split
      · exact Dev.fld_setFld_apart _ _ _ _ (by decide)
      · exact Dev.fld_setFld_apart _ _ _ _ (by decide)
      · rfl
  case gate =>
    intro s m vaux inlet low
    refine .of_settle (rfl : execGateRiseTimeout m s = s.on _) ?_
    have may : (s.dev.inletIn [.ramp] && decide (m.gate < 250)) = true := by simp [Dev.inletIn, vaux, inlet, low]
    simp only [may, if_true]
    exact inletFault_latched m (by decide) rfl rfl
  case thermtrip =>
    intro s m vaux
    refine .of_settle (rfl : execThermtripNAssert m s = s.on _) ?_
    simp only [vaux, if_true]
    exact ⟨inletFault_latched m (by decide) (by simp) (by simp), by simp [Dev.inletFault_thermtrip]⟩

/-- Settles O1: each event of the attempt ends in `setInlet`, with the marker, the delay or the main rail as its rule says. -/
theorem inletAttemptReachesOn : Obligations.InletAttemptReachesOn := by
  unfold Obligations.InletAttemptReachesOn
  refine ⟨?present, ?check, ?precharge, ?ramp, ?retry, ?clear, ?fails, ?removed⟩
  case present =>
    intro s vaux off absent no_override
    refine .of_settle (exec_prsntNLow s) ?_
    have may : (s.dev.seated.inletIn [.off] && !s.dev.seated.inletOff) = true := by
      simp [Dev.seated_inletOff, no_override, Dev.inletIn, Dev.seated_pwr, vaux, off]
    simp [absent, may, Dev.seated_pwr, Dev.seated_can]
  case check =>
    intro s m diode vaux check low present
    refine .of_settle (rfl : execInletCheckPass m diode s = s.on _) ?_
    have may : s.dev.inletIn [.check] = true := by simp [Dev.inletIn, vaux, check]
    simp [may, Nat.not_lt.mpr low, Nat.not_lt.mpr present, Dev.attempt]
  case precharge =>
    intro s m vaux prechg above
    refine .of_settle (rfl : execPrechargeComplete m s = s.on _) ?_
    have may : s.dev.inletIn [.prechg] = true := by simp [Dev.inletIn, vaux, prechg]
    simp [may, above]
  case ramp =>
    intro s m vaux ramp below above gate
    refine .of_settle (rfl : execRampComplete m s = s.on _) ?_
    have may : s.dev.inletIn [.ramp] = true := by simp [Dev.inletIn, vaux, ramp]
    simp [may, below, above, gate]
  case retry =>
    intro s vaux wait no_clear on
    refine .of_settle (rfl : execRetryWaitExpiry s = s.on _) ?_
    have may : (s.dev.inletIn [.wait] && !s.dev.pwr.clearDue) = true := by simp [Dev.inletIn, vaux, wait, no_clear]
    simp [may, on, Dev.attempt]
  case clear =>
    intro s vaux stands due on
    refine .of_settle (rfl : execClearDelayExpiry s = s.on _) ?_
    have may : Dev.inletIn { s.dev with pwr := { s.dev.pwr with clearDue := false } } [.wait, .latched] = true := by
      simp [Dev.inletIn, vaux, stands]
    have goes_on : Dev.inletOff { s.dev with pwr := { s.dev.pwr with clearDue := false } } = false := on
    simp [due, may, goes_on]
  case fails =>
    intro s vaux on
    refine .of_settle (rfl : execFailsClearTimeout s = s.on _) ?_
    have may : s.dev.inletIn [.on] = true := by simp [Dev.inletIn, vaux, on]
    simp only [may, if_true]
    exact ⟨rfl, Dev.fld_setFld_same _ _ _ (by decide), rfl⟩
  case removed =>
    intro s vaux stands
    refine .of_settle (rfl : execPrsntNHigh s = s.on _) ?_
    have may : Dev.inletIn { s.dev with pwr := { s.dev.pwr with prsntLow := false } } [.check, .prechg, .ramp, .on] = true := by
      simpa [Dev.inletIn, vaux] using stands
    simp [may]

end Sys2Proof.Machine


/-! SUPPORT. Clears and overrides of the inlet (O4), by keyed pair and by command (R517, R518). -/

namespace Sys2Proof.Machine

/-- A field of one bit is that bit. -/
theorem fieldOf_one (x : Word) (lo : Nat) : (fieldOf x lo 1 == 1) = x.getLsbD lo := by
  rw [fieldOf, Nat.shiftRight_eq_div_pow, BitVec.getLsbD, Nat.testBit_eq_decide_div_mod_eq]
  rfl

section
variable (d : Dev)

/-! ### What a cold reset keeps of the registers (R411) -/

/-- The island's pages keep their words through a cold reset (R61). -/
theorem Dev.cold_reg {o : Nat} (low : 0x310000 ≤ o) (high : o < 0x330000) : d.cold.reg o = d.reg o := by
  have other : o ≠ Off.rasAlertSts := by unfold Off.rasAlertSts; omega
  have pages : (d.regs.filter fun e => decide (0x310000 ≤ e.1) && decide (e.1 < 0x330000)) =
      Sparse.drop d.regs fun k => !(decide (0x310000 ≤ k) && decide (k < 0x330000)) := by simp [Sparse.drop]
  have held : d.cold.reg o = Sparse.get (resetWord o) (islandRegs d.regs) o := rfl
  rw [held, islandRegs, Sparse.get_put_ne _ _ _ _ other, pages, Sparse.get_drop]
  simp [low, high, Dev.reg]

theorem Dev.mainGone_inlOverride : d.mainGone.reg Off.inlOverride = d.reg Off.inlOverride := by
  unfold Dev.mainGone
  split
  · rw [Dev.cold_reg _ (by decide) (by decide), Dev.reg_setFld_ne _ _ (by decide)]
    rfl
  · exact Dev.reg_setFld_ne _ _ (by decide)

theorem Dev.mainGone_armedBy {src : Source} (unarmed : d.armedBy src = none) : d.mainGone.armedBy src = none := by
  unfold Dev.mainGone
  split
  · cases src <;> rfl
  · exact unarmed

/-! ### The clear -/

/-- A clear that acts, up to the delay it starts. -/
def Dev.inletCleared (d : Dev) : Dev :=
  (((d.setReg Off.inlClear 0x90).setFails 0).modRecord fun r => { r with fails := 0, cause := 0, latched := false }).raiseOrKeep 0x1E3 []

theorem Dev.raiseOrKeep_pwr (n : Nat) (l : List Word) : (d.raiseOrKeep n l).pwr = d.pwr := by
  unfold Dev.raiseOrKeep
  split <;> simp

theorem Dev.raiseOrKeep_acc (n : Nat) (l : List Word) : (d.raiseOrKeep n l).acc = d.acc := by
  unfold Dev.raiseOrKeep
  split <;> simp

theorem Dev.raiseOrKeep_inlet (n : Nat) (l : List Word) : (d.raiseOrKeep n l).can.inlet = d.can.inlet := by
  unfold Dev.raiseOrKeep
  split <;> simp

theorem Dev.raiseOrKeep_fld {f : Fld} (n : Nat) (l : List Word) (other : eventReg f.off = false) : (d.raiseOrKeep n l).fld f = d.fld f := by
  unfold Dev.raiseOrKeep
  split
  · rfl
  · exact d.raiseN_fld n l f other

theorem Dev.inletCleared_pwr : d.inletCleared.pwr = d.pwr := by
  rw [Dev.inletCleared, Dev.raiseOrKeep_pwr]
  rfl

theorem Dev.inletCleared_acc : d.inletCleared.acc = d.acc := by
  rw [Dev.inletCleared, Dev.raiseOrKeep_acc]
  rfl

theorem Dev.inletCleared_record : d.inletCleared.can.inlet = { d.can.inlet with fails := 0, cause := 0, latched := false } := by
  rw [Dev.inletCleared, Dev.raiseOrKeep_inlet]
  rfl

theorem Dev.inletCleared_fails : d.inletCleared.fld Fld.inlSts_fails = 0 := by
  rw [Dev.inletCleared, Dev.raiseOrKeep_fld _ _ _ (by decide), Dev.modRecord_fld, Dev.setFails, Dev.modRecord_fld,
    Dev.fld_setFld_same _ _ _ (by decide)]
  rfl

theorem Dev.inletCleared_atBoot (cold : d.mode = .cold) : d.inletCleared.can.atBoot = d.can.atBoot ++ [(0x1E3, [])] := by
  unfold Dev.inletCleared Dev.raiseOrKeep
  rw [if_pos (by rw [Dev.modRecord_mode]; exact beq_iff_eq.mpr cold)]
  rfl

/-- A cleared inlet with its delay running, where one starts. -/
def Dev.clearStarted (d : Dev) : Dev :=
  { d.inletCleared with pwr := { d.pwr with clearDue := d.pwr.clearDue || d.inletIn [.wait, .latched] } }

/-- The pair's value is accepted while no trip is hot. -/
theorem inletClear_taken (cool : d.fld Fld.inlSts_cause ≠ 8 ∨ d.pwr.islandTemp < 60) : inletClear 0x90 d = some d.clearStarted := by
  have passes : ¬ (d.fld Fld.inlSts_cause = 8 ∧ 60 ≤ d.pwr.islandTemp) := by omega
  have same : d.inletCleared.inletIn [.wait, .latched] = d.inletIn [.wait, .latched] := by
    rw [Dev.inletIn, Dev.inletIn, Dev.inletCleared_pwr]
  have shape : inletClear 0x90 d = some (if d.inletCleared.inletIn [.wait, .latched] then
      { d.inletCleared with pwr := { d.inletCleared.pwr with clearDue := true } } else d.inletCleared) := by
    rw [inletClear, if_neg (by decide), if_neg passes]
    rfl
  rw [shape, same, Dev.inletCleared_pwr, Dev.clearStarted]
  split
  · next starts => rw [starts, Bool.or_true]
  · next stays =>
    rw [Bool.not_eq_true] at stays
    rw [stays, Bool.or_false, ← d.inletCleared_pwr]

theorem inletClear_refused {v : Word} (no : v ≠ 0x90 ∨ (d.fld Fld.inlSts_cause = 8 ∧ 60 ≤ d.pwr.islandTemp)) : inletClear v d = none := by
  rw [inletClear]
  split
  · rfl
  · next value => rw [if_pos (no.resolve_left value)]

/-! ### The override (R518) -/

/-- OFF with an attempt or ON under way. -/
def Dev.overrideOff (d : Dev) (v : Word) : Dev :=
  (((d.setReg Off.inlOverride v).modRecord fun r => { r with marker := false }).setInlet .off).mainGone

theorem Dev.setReg_inletIn (o : Nat) (w : Word) (l : List Inlet) : (d.setReg o w).inletIn l = d.inletIn l := rfl

theorem Dev.setReg_inletOff (v : Word) : (d.setReg Off.inlOverride (v &&& 3)).inletOff =
    (!d.pwr.prsntLow || d.flag Fld.inlSts_removal || v.getLsbD 0) := by
  have removal : (d.setReg Off.inlOverride (v &&& 3)).flag Fld.inlSts_removal = d.flag Fld.inlSts_removal := by
    rw [Dev.flag, Dev.flag, Dev.fld, Dev.fld, Dev.reg_setReg_ne _ _ (by decide)]
  have off : (d.setReg Off.inlOverride (v &&& 3)).flag Fld.inlOverride_off = v.getLsbD 0 := by
    have bit : (d.setReg Off.inlOverride (v &&& 3)).fld Fld.inlOverride_off = fieldOf (v &&& 3) 0 1 :=
      congrArg (fieldOf · 0 1) (Dev.reg_setReg_same _ _ _)
    rw [Dev.flag, bit, fieldOf_one, BitVec.getLsbD_and]
    exact Bool.and_true _
  rw [Dev.inletOff, removal, off]
  rfl

/-- What a completed pair of INL_OVERRIDE leaves. -/
def Dev.inletOverridden (d : Dev) (v : Word) : Dev :=
  if v.getLsbD 0 then if d.inletIn [.check, .prechg, .ramp, .on] then d.overrideOff (v &&& 3) else d.setReg Off.inlOverride (v &&& 3)
  else if d.inletIn [.off] && (d.pwr.prsntLow && !d.flag Fld.inlSts_removal) then (d.setReg Off.inlOverride (v &&& 3)).setInlet .check
  else d.setReg Off.inlOverride (v &&& 3)

theorem inletOverride_taken (v : Word) : inletOverride v d = some (d.inletOverridden v) := by
  unfold inletOverride Dev.inletOverridden
  dsimp only
  congr 1
  split
  · rfl
  · next clear =>
    rw [Dev.setReg_inletOff, Dev.setReg_inletIn]
    rw [Bool.not_eq_true] at clear
    rw [clear, Bool.or_false, Bool.not_or, Bool.not_not]

theorem Dev.inletOverridden_reg (v : Word) : (d.inletOverridden v).reg Off.inlOverride = v &&& 3 := by
  unfold Dev.inletOverridden
  split
  · split
    · rw [Dev.overrideOff, Dev.mainGone_inlOverride, Dev.setInlet, Dev.reg_setFld_ne _ _ (by decide)]
      exact Dev.reg_setReg_same _ _ _
    · exact Dev.reg_setReg_same _ _ _
  · split
    · rw [Dev.setInlet, Dev.reg_setFld_ne _ _ (by decide)]
      exact Dev.reg_setReg_same _ _ _
    · exact Dev.reg_setReg_same _ _ _

theorem Dev.inletOverridden_armedBy {src : Source} (v : Word) (unarmed : d.armedBy src = none) : (d.inletOverridden v).armedBy src = none := by
  unfold Dev.inletOverridden
  split
  · split
    · exact Dev.mainGone_armedBy _ unarmed
    · exact unarmed
  · split <;> exact unarmed

end

/-- What the override does to a device that shows the inlet and the record of `a`. -/
theorem inletOverridden_acts {a d : Dev} (v : Word) (pwr : d.pwr = a.pwr) (can : d.can = a.can)
    (removal : d.flag Fld.inlSts_removal = a.flag Fld.inlSts_removal) : Overridden a (settle a (d.inletOverridden v)) v := by
  have inside : ∀ l, d.inletIn l = a.inletIn l := fun l => by rw [Dev.inletIn, Dev.inletIn, pwr]
  refine ⟨(settle_reg _ _ _).trans (d.inletOverridden_reg v), ?stops, ?stays_off, ?checks, ?stays_on⟩
  case stops =>
    intro off attempt
    have shape : d.inletOverridden v = d.overrideOff (v &&& 3) := by
      rw [Dev.inletOverridden, if_pos off, if_pos ((inside _).trans attempt)]
    rw [shape, Dev.overrideOff, settle_pwr, settle_can]
    refine ⟨by simp, by simp, by simp, by simp [can], by simp [can], fun good => settle_mode_cold (Dev.mainGone_cold _ ?_)⟩
    simp [pwr, good]
  case stays_off =>
    intro off idle
    have shape : d.inletOverridden v = d.setReg Off.inlOverride (v &&& 3) := by
      rw [Dev.inletOverridden, if_pos off, if_neg (by rw [inside, idle]; exact Bool.false_ne_true)]
    rw [shape, settle_pwr, settle_can]
    exact ⟨pwr, can⟩
  case checks =>
    intro on off present free
    have shape : d.inletOverridden v = (d.setReg Off.inlOverride (v &&& 3)).setInlet .check := by
      rw [Dev.inletOverridden, if_neg (by rw [on]; exact Bool.false_ne_true), if_pos (by rw [inside, off, pwr, present, removal, free]; rfl)]
    rw [shape, settle_pwr, settle_can]
    exact ⟨by simp [pwr], can⟩
  case stays_on =>
    intro on held
    have no : (d.inletIn [.off] && (d.pwr.prsntLow && !d.flag Fld.inlSts_removal)) = false := by
      rw [inside, pwr, removal]
      rcases held with held | held | held <;> simp [held]
    have shape : d.inletOverridden v = d.setReg Off.inlOverride (v &&& 3) := by
      rw [Dev.inletOverridden, if_neg (by rw [on]; exact Bool.false_ne_true), if_neg (by rw [no]; exact Bool.false_ne_true)]
    rw [shape, settle_pwr, settle_can]
    exact ⟨pwr, can⟩

/-- What the clear does to a device that shows the inlet and the record of `a`. -/
theorem clearStarted_clears {a d e : Dev} (pwr : d.pwr = a.pwr) (can : d.can = a.can) (mode : d.mode = a.mode)
    (shown : e.pwr = d.clearStarted.pwr ∧ e.can = d.clearStarted.can) (fails : e.fld Fld.inlSts_fails = d.clearStarted.fld Fld.inlSts_fails) :
    Cleared a (settle a e) := by
  obtain ⟨ePwr, eCan⟩ := shown
  have record : e.can.inlet = { a.can.inlet with fails := 0, cause := 0, latched := false } := by
    rw [eCan, ← can]
    exact d.inletCleared_record
  have inside : d.inletIn [.wait, .latched] = a.inletIn [.wait, .latched] := by rw [Dev.inletIn, Dev.inletIn, pwr]
  refine ⟨congrArg InletRec.fails record, congrArg InletRec.cause record, congrArg InletRec.latched record,
    fails.trans d.inletCleared_fails, ?_, fun cold => ?_⟩
  · rw [settle_pwr, ePwr, ← pwr, ← inside]
    rfl
  · rw [settle_can, eCan, ← can]
    exact d.inletCleared_atBoot (mode.trans cold)

/-! ### The command (R394) -/

theorem exec_xtInletClear (i : Iface) (p : Payload) (s : State) :
    exec (.xtInletClear i p) s = s.on fun d => d.mailbox i (.xtInletClear i p) 0xC090 (bodyInletClear i p) := rfl

/-- A command that its interface takes now, or that the island serves, runs at once (R392). -/
theorem Dev.mailbox_served {d : Dev} {i : Iface} {op : Nat} (c : Instr) (body : Dev → Dev) (served : d.servesNow i op) :
    d.mailbox i c op body = body d := by
  rcases served with island | takes
  · simp [Dev.mailbox, island]
  · exact d.mailbox_now i c op body takes

section
variable (d : Dev) (i : Iface) (off : Nat) (value : Word)

/-- A driven pair moves registers and the record of armed pairs. -/
theorem Dev.paired_regs_acc : ∃ r a, d.paired i off value = { d with regs := r, acc := a } := by
  obtain ⟨e, rfl | ⟨other, rfl⟩, a, shape⟩ := d.paired_shape i off value
  · exact ⟨_, a, shape⟩
  · exact ⟨_, a, shape⟩

theorem Dev.paired_pwr : (d.paired i off value).pwr = d.pwr := by
  obtain ⟨_, _, shape⟩ := d.paired_regs_acc i off value
  rw [shape]

theorem Dev.paired_can : (d.paired i off value).can = d.can := by
  obtain ⟨_, _, shape⟩ := d.paired_regs_acc i off value
  rw [shape]

theorem Dev.paired_mode : (d.paired i off value).mode = d.mode := by
  obtain ⟨_, _, shape⟩ := d.paired_regs_acc i off value
  rw [shape]

theorem Dev.paired_reg {o : Nat} (other : o ≠ Off.glbKeyfail) : (d.paired i off value).reg o = d.reg o := by
  obtain ⟨e, rfl | ⟨before, rfl⟩, a, shape⟩ := d.paired_shape i off value
  · rw [shape]
    rfl
  · rw [shape]
    exact d.reg_setReg_ne _ other

variable {off value} {confirm : Word} {act : Word → Dev → Option Dev}

theorem Dev.drivePair_wrong (wrong : confirm ≠ ~~~value) :
    d.drivePair i off value confirm act = ((d.paired i off value).keyFail 1 off, false, false) := by
  rw [Dev.drivePair, if_pos wrong]
  rfl

theorem Dev.drivePair_refused (inverse : confirm = ~~~value) (refused : act value (d.paired i off value) = none) :
    d.drivePair i off value confirm act = ((d.paired i off value).keyFail 3 off, true, false) := by
  unfold Dev.paired at refused
  simp only [Dev.drivePair, inverse, ne_eq, not_true_eq_false, if_false, refused]
  rfl

end

/-- The pair that Barista drives for XT_INLET_CLEAR. -/
def Dev.clearPaired (d : Dev) (i : Iface) : Dev := d.paired i Off.inlClear 0x90

section
variable {s : State} {i : Iface} {p : Payload}

theorem clearPaired_fld (d : Dev) {f : Fld} (other : f.off ≠ Off.glbKeyfail) : (d.clearPaired i).fld f = d.fld f :=
  congrArg (fieldOf · f.lo f.w) (d.paired_reg i _ _ other)

theorem leNat_drop (p : Payload) (k at_ n : Nat) : leNat (p.drop k) at_ n = leNat p (k + at_) n := by
  rw [leNat, leNat, List.drop_drop]

/-- CONFIRM is the complement of 0x90 where its four bytes spell 0xFFFFFF6F. -/
theorem clearConfirm_iff (p : Payload) : BitVec.ofNat 32 (leNat (p.drop 8) 0 4) = ~~~(0x90 : Word) ↔ leNat p 8 4 = 0xFFFFFF6F := by
  have small : leNat p 8 4 < 2 ^ 32 := leNat_lt p 8 4
  rw [leNat_drop, ← BitVec.toNat_inj, BitVec.toNat_ofNat, Nat.mod_eq_of_lt small]
  rfl

/-- XT_INLET_CLEAR, once served, drives the pair of INL_CLEAR and answers. -/
theorem xtInletClear_runs {e : Dev} {okKey ok : Bool} {rc : Nat} (d : Dev) (served : d.servesNow i 0xC090) (own : d.ownPayload p 4)
    (driven : d.drivePair i Off.inlClear 0x90 (BitVec.ofNat 32 (leNat (p.drop 8) 0 4)) inletClear = (e, okKey, ok))
    (answer : (if ¬ okKey then rcInvalidInput else if ok then rcSuccess else rcRetry) = rc) :
    d.mailbox i (.xtInletClear i p) 0xC090 (bodyInletClear i p) = e.complete i 0xC090 rc [] := by
  rw [Dev.mailbox_served _ _ served, bodyInletClear, Dev.vendor_own d i _ p 4 _ own, driven, ← answer]

/-- The two refusals of XT_INLET_CLEAR: GLB_KEYFAIL names the register, and nothing of the inlet moves. -/
theorem xtInletClear_refused {cause rc : Nat}
    (runs : s.dev.mailbox i (.xtInletClear i p) 0xC090 (bodyInletClear i p) = ((s.dev.clearPaired i).keyFail cause Off.inlClear).complete i 0xC090 rc []) :
    Completes (.xtInletClear i p) s fun d => d.reg Off.glbKeyfail = keyfailWord cause Off.inlClear ∧ d.can = s.dev.can ∧ d.pwr = s.dev.pwr ∧
      d.answered i rc 0xC090 [] := by
  refine .of_settle (exec_xtInletClear i p s) ?_
  rw [runs]
  refine ⟨?_, ?_, ?_, Dev.complete_answered _ i _ _ _⟩
  · rw [settle_reg, Dev.complete_reg _ _ _ _ _ _ (by decide) (by decide), Dev.keyFail_reg]
  · rw [settle_can, Dev.complete_can]
    exact s.dev.paired_can i Off.inlClear 0x90
  · rw [settle_pwr, Dev.complete_pwr]
    exact s.dev.paired_pwr i Off.inlClear 0x90

end

/-- The KEY write of a pair of INL_OVERRIDE, under each of its names. -/
theorem completes_inlOverride {c : Instr} {s : State} {src : Source} {v key : Word}
    (hc : exec c s = s.on fun d => if d.canAccess src Off.inlOverride then d.keyWrite src Off.inlOverride key inletOverride else d)
    (access : s.dev.canAccess src Off.inlOverride = true) (ready : s.dev.pairReady src Off.inlOverride v key) :
    Completes c s fun d => Overridden s.dev d v ∧ d.armedBy src = none := by
  refine .of_settle hc ?_
  rw [if_pos access, Dev.keyWrite_taken ready (inletOverride_taken _ v)]
  exact ⟨inletOverridden_acts v rfl rfl rfl, Dev.inletOverridden_armedBy _ v (s.dev.armedBy_setArmed src none)⟩

theorem completes_inlClear_taken {s : State} {src : Source} {key : Word} (access : s.dev.canAccess src Off.inlClear = true)
    (ready : s.dev.pairReady src Off.inlClear 0x90 key) (cool : s.dev.fld Fld.inlSts_cause ≠ 8 ∨ s.dev.pwr.islandTemp < 60) :
    Completes (.inlClear src key) s fun d => Cleared s.dev d ∧ d.armedBy src = none := by
  refine .of_settle (exec_inlClear src key s) ?_
  rw [if_pos access, Dev.keyWrite_taken ready (inletClear_taken _ cool)]
  refine ⟨clearStarted_clears (d := s.dev.setArmed src none) rfl rfl rfl ⟨rfl, rfl⟩ rfl, ?_⟩
  have unarmed := s.dev.armedBy_setArmed src none
  rw [Dev.armedBy, ← Dev.inletCleared_acc] at unarmed
  exact unarmed

theorem completes_inlClear_refused {s : State} {src : Source} {v key : Word} (access : s.dev.canAccess src Off.inlClear = true)
    (ready : s.dev.pairReady src Off.inlClear v key) (no : v ≠ 0x90 ∨ (s.dev.fld Fld.inlSts_cause = 8 ∧ 60 ≤ s.dev.pwr.islandTemp)) :
    Completes (.inlClear src key) s fun d => d.reg Off.glbKeyfail = keyfailWord 3 Off.inlClear ∧ d.can = s.dev.can ∧ d.pwr = s.dev.pwr ∧
      d.fld Fld.inlSts_fails = s.dev.fld Fld.inlSts_fails ∧ d.armedBy src = none := by
  refine .of_settle (exec_inlClear src key s) ?_
  rw [if_pos access, Dev.keyWrite_refused ready (inletClear_refused _ no)]
  refine ⟨?_, rfl, rfl, ?_, s.dev.armedBy_setArmed src none⟩
  · rw [settle_reg, Dev.keyFail_reg]
  · rw [settle_fld, Dev.fld, Dev.keyFail, Dev.reg_setReg_ne _ _ (by decide)]
    rfl

/-- XT_INLET_CLEAR with the right CONFIRM while no trip is hot. -/
theorem completes_xtInletClear_taken {s : State} {i : Iface} {p : Payload} (served : s.dev.servesNow i 0xC090) (own : s.dev.ownPayload p 4)
    (confirm : leNat p 8 4 = 0xFFFFFF6F) (cool : s.dev.fld Fld.inlSts_cause ≠ 8 ∨ s.dev.pwr.islandTemp < 60) :
    Completes (.xtInletClear i p) s fun d => Cleared s.dev d ∧ d.answered i rcSuccess 0xC090 [] := by
  refine .of_settle (exec_xtInletClear i p s) ?_
  have cool_paired : (s.dev.clearPaired i).fld Fld.inlSts_cause ≠ 8 ∨ (s.dev.clearPaired i).pwr.islandTemp < 60 := by
    rwa [clearPaired_fld _ (by decide), Dev.clearPaired, Dev.paired_pwr]
  have driven := Dev.drivePair_taken s.dev ((clearConfirm_iff p).mpr confirm) (inletClear_taken (s.dev.clearPaired i) cool_paired)
  rw [xtInletClear_runs s.dev served own driven (rc := rcSuccess) rfl]
  refine ⟨clearStarted_clears (d := s.dev.clearPaired i) (s.dev.paired_pwr i _ _) (s.dev.paired_can i _ _) (s.dev.paired_mode i _ _)
    ⟨Dev.complete_pwr _ _ _ _ _, Dev.complete_can _ _ _ _ _⟩ ?_, Dev.complete_answered _ i _ _ _⟩
  rw [Dev.fld, Dev.complete_reg _ _ _ _ _ _ (by decide) (by decide), ← Dev.fld]

/-- Settles O4: a pair's value acts or is refused, by key and by command. -/
theorem inletClearsAndOverridesAct : Obligations.InletClearsAndOverridesAct := by
  unfold Obligations.InletClearsAndOverridesAct
  refine ⟨fun s src key => completes_inlClear_taken, fun s src v key => completes_inlClear_refused, fun s i p => completes_xtInletClear_taken,
    ?hot, ?wrong, fun s src _ key => completes_inlOverride (exec_inlOverrideOff src key s),
    fun s src _ key => completes_inlOverride (exec_inlOverrideOn src key s), fun s src _ key => completes_inlOverride (exec_inlOverrideModel src key s)⟩
  case hot =>
    intro s i p served own confirm trip hot
    have refused : inletClear 0x90 (s.dev.clearPaired i) = none :=
      inletClear_refused _ (.inr ⟨(clearPaired_fld s.dev (by decide)).trans trip, by rwa [Dev.clearPaired, Dev.paired_pwr]⟩)
    have driven := Dev.drivePair_refused s.dev i ((clearConfirm_iff p).mpr confirm) refused
    exact xtInletClear_refused (xtInletClear_runs s.dev served own driven (rc := rcRetry) rfl)
  case wrong =>
    intro s i p served own wrong
    have driven := Dev.drivePair_wrong s.dev i (off := Off.inlClear) (act := inletClear) (mt (clearConfirm_iff p).mp wrong)
    exact xtInletClear_refused (xtInletClear_runs s.dev served own driven (rc := rcInvalidInput) rfl)

end Sys2Proof.Machine


/-! SUPPORT. Posted writes, the power cap and the energy model of the FET (O5) (R417, R512, R516, R523, R524). -/

namespace Sys2Proof.Machine

/-! ### Postings -/

section
variable (src : Source) (off : Nat) (v : Word) (s : State)

theorem exec_postedWrite : exec (.postedWrite src off v) s = s.on fun d => if d.canAccess src off then d.post off v else d := rfl

/-- A posting leaves the table, and the register takes its value or stays but for PEND. -/
def Dev.posted (d : Dev) (off : Nat) (v : Word) : Dev :=
  let d := { d with acc := { d.acc with posting := Sparse.erase d.acc.posting off } }
  let old := d.reg off &&& 0x7FFFFFFF
  if postingOk off v then
    let w := Dev.rwpBits off old v
    let d := d.setReg off w
    if off = Off.inlCfg then d.modRecord fun r => { r with cfg := some w }
    else if off = Off.inlFet then d.modRecord fun r => { r with fet := some w }
    else d
  else
    let d := d.setReg off old
    if off = Off.pwrCap then d.setFlag Fld.pwrSts_cfgerr true else d.setFlag Fld.inlSts_cfgerr true

theorem exec_postingComplete : exec (.postingComplete off) s = s.on fun d =>
    match d.acc.posting.find? (fun (e : Nat × Word) => e.1 == off) with
    | none => d
    | some (_, v) => d.posted off v := rfl

end

/-- A posted write that finds PEND clear keeps its value until the posting completes. -/
theorem completes_postedWrite_taken {s : State} {src : Source} {off : Nat} (v : Word) (access : s.dev.canAccess src off = true)
    (rwp : accMask (·.rwp) off ≠ 0) (idle : (s.dev.reg off).getLsbD 31 = false) :
    Completes (.postedWrite src off v) s fun d => d.reg off = s.dev.reg off ||| 0x80000000 ∧ Sparse.get 0 d.acc.posting off = v := by
  refine .of_settle (exec_postedWrite src off v s) ?_
  rw [if_pos access, Dev.post, if_neg rwp, if_neg (by rw [idle]; exact Bool.false_ne_true)]
  exact ⟨Dev.reg_setReg_same _ _ _, Sparse.get_insert_same _ _ _ _⟩

/-- GLB_ACC_STS holds no RWP bits, so no posting is for it. -/
theorem rwp_not_glbAccSts {off : Nat} (rwp : accMask (·.rwp) off ≠ 0) : off ≠ Fld.glbAccSts_postdrop.off := by
  rintro rfl
  exact rwp (by decide)

theorem completes_postedWrite_dropped {s : State} {src : Source} {off : Nat} (v : Word) (access : s.dev.canAccess src off = true)
    (rwp : accMask (·.rwp) off ≠ 0) (pend : (s.dev.reg off).getLsbD 31 = true) :
    Completes (.postedWrite src off v) s fun d => d.reg off = s.dev.reg off ∧ d.flag Fld.glbAccSts_postdrop = true ∧ d.acc = s.dev.acc := by
  refine .of_settle (exec_postedWrite src off v s) ?_
  rw [if_pos access, Dev.post, if_neg rwp, if_pos pend]
  exact ⟨Dev.reg_setFld_ne _ _ (rwp_not_glbAccSts rwp), Dev.flag_setFlag_same _ _ _ (by decide) rfl, rfl⟩

theorem completes_postedWrite_unreached {s : State} {src : Source} {off : Nat} (v : Word)
    (no : s.dev.canAccess src off = false ∨ accMask (·.rwp) off = 0) : Completes (.postedWrite src off v) s fun d => d = s.dev := by
  refine completes_unchanged (exec_postedWrite src off v s) ?_
  rcases no with closed | none
  · rw [if_neg (by rw [closed]; exact Bool.false_ne_true)]
  · rw [Dev.post, if_pos none, ite_self]

section
variable {s : State} {off : Nat} {v : Word}
  (posting : s.dev.acc.posting.find? (fun e => e.1 == off) = some (off, v))
include posting

/-- The command on the posting that is under way. -/
theorem completes_posted {P : Dev → Prop} (done : P (settle s.dev (s.dev.posted off v))) : Completes (.postingComplete off) s P := by
  refine .of_settle (exec_postingComplete off s) ?_
  rw [posting]
  exact done

theorem completes_postingComplete_ok (ok : postingOk off v = true) :
    Completes (.postingComplete off) s fun d => d.reg off = Dev.rwpBits off (s.dev.reg off &&& 0x7FFFFFFF) v ∧
      d.acc.posting = Sparse.erase s.dev.acc.posting off ∧
      d.can.inlet.cfg = (if off = Off.inlCfg then some (Dev.rwpBits off (s.dev.reg off &&& 0x7FFFFFFF) v) else s.dev.can.inlet.cfg) ∧
      d.can.inlet.fet = (if off = Off.inlFet then some (Dev.rwpBits off (s.dev.reg off &&& 0x7FFFFFFF) v) else s.dev.can.inlet.fet) := by
  refine completes_posted posting ?_
  unfold Dev.posted
  simp only [ok, if_true]
  split
  · next cfg =>
    subst cfg
    exact ⟨Dev.reg_setReg_same _ _ _, rfl, rfl, rfl⟩
  · split
    · exact ⟨Dev.reg_setReg_same _ _ _, rfl, rfl, rfl⟩
    · exact ⟨Dev.reg_setReg_same _ _ _, rfl, rfl, rfl⟩

/-- An unacceptable value: the register keeps what it held but for PEND, and an error flag of another register is set. -/
theorem completes_postingComplete_bad {f : Fld} (bad : postingOk off v = false)
    (page : f = if off = Off.pwrCap then Fld.pwrSts_cfgerr else Fld.inlSts_cfgerr) (other : off ≠ f.off) :
    Completes (.postingComplete off) s fun d => d.reg off = s.dev.reg off &&& 0x7FFFFFFF ∧ d.flag f = true ∧ d.can = s.dev.can ∧
      d.acc.posting = Sparse.erase s.dev.acc.posting off := by
  refine completes_posted posting ?_
  have shape : s.dev.posted off v = Dev.setFlag (Dev.setReg { s.dev with acc := { s.dev.acc with posting := Sparse.erase s.dev.acc.posting off } } off
      (s.dev.reg off &&& 0x7FFFFFFF)) f true := by
    unfold Dev.posted
    rw [page]
    simp only [bad, Bool.false_eq_true, if_false]
    split <;> rfl
  have set : f.lo + f.w ≤ 32 ∧ f.w = 1 := by
    rw [page]
    split <;> decide
  obtain ⟨fits, one⟩ := set
  rw [shape]
  exact ⟨(Dev.reg_setFld_ne _ _ other).trans (Dev.reg_setReg_same _ _ _), Dev.flag_setFlag_same _ _ _ fits one, rfl, rfl⟩

end

/-! ### The power cap (R523) -/

section
variable (d : Dev)

theorem Dev.uncap_capBelow : d.uncap.pwr.capBelow = none := by
  have kept := Dev.raiseOrKeep_pwr (({ d with pwr := { d.pwr with capBelow := none } } : Dev).setFlag Fld.pwrSts_capped false) 0x1E5 []
  exact congrArg Power.capBelow kept

theorem Dev.uncap_capped : d.uncap.flag Fld.pwrSts_capped = false := by
  have kept := Dev.raiseOrKeep_fld (({ d with pwr := { d.pwr with capBelow := none } } : Dev).setFlag Fld.pwrSts_capped false)
    (f := Fld.pwrSts_capped) 0x1E5 [] (by decide)
  exact (congrArg (· == 1) kept).trans (Dev.flag_setFlag_same _ _ _ (by decide) rfl)

theorem Dev.uncap_power : d.uncap.fld Fld.pwrSts_power = d.fld Fld.pwrSts_power := by
  have kept := Dev.raiseOrKeep_fld (({ d with pwr := { d.pwr with capBelow := none } } : Dev).setFlag Fld.pwrSts_capped false)
    (f := Fld.pwrSts_power) 0x1E5 [] (by decide)
  exact kept.trans (Dev.fld_setFld_apart _ _ _ _ (by decide))

/-- A sample shown: the next one is due 4,096 pours later. -/
def Dev.powerShown (d : Dev) (w : Nat) : Dev :=
  ({ d with pwr := { d.pwr with capNext := d.now + 4096 } } : Dev).setFld Fld.pwrSts_power (satN 16 w)

theorem Dev.powerShown_power (w : Nat) : (d.powerShown w).fld Fld.pwrSts_power = satN 16 w :=
  (Dev.fld_setFld_same _ _ _ (by decide)).trans (satN_mod 16 w)

theorem Dev.powerShown_capped (w : Nat) : (d.powerShown w).flag Fld.pwrSts_capped = d.flag Fld.pwrSts_capped :=
  Dev.setFld_flag_apart _ _ (by decide)

theorem Dev.powerShown_en (w : Nat) : (d.powerShown w).flag Fld.pwrCap_en = d.flag Fld.pwrCap_en :=
  Dev.setFld_flag_apart _ _ (by decide)

theorem Dev.powerShown_cap (w : Nat) : (d.powerShown w).fld Fld.pwrCap_cap = d.fld Fld.pwrCap_cap :=
  Dev.fld_setFld_apart _ _ _ _ (by decide)

/-- What a sample does that is due (R523). -/
theorem Dev.edgePowerCapSample_due (w : Nat) (live : d.live = true) (due : d.pwr.capNext ≤ d.now) : d.edgePowerCapSample w =
    if d.flag Fld.pwrCap_en = false then if d.flag Fld.pwrSts_capped then (d.powerShown w).uncap else d.powerShown w
    else if d.flag Fld.pwrSts_capped = false then
      if d.fld Fld.pwrCap_cap * 10 < w then (((d.powerShown w).setFlag Fld.pwrSts_capped true).raiseN 0x1E5 []).floorMoved else d.powerShown w
    else { d.powerShown w with pwr := { (d.powerShown w).pwr with
      capBelow := if 100 * w < 95 * (d.fld Fld.pwrCap_cap * 10) then some (d.pwr.capBelow.getD d.now) else none } } := by
  have acts : (d.live && decide (d.pwr.capNext ≤ d.now)) = true := by rw [live, decide_eq_true due]; rfl
  have shape : d.edgePowerCapSample w =
      if ¬ (d.powerShown w).flag Fld.pwrCap_en then (if (d.powerShown w).flag Fld.pwrSts_capped then (d.powerShown w).uncap else d.powerShown w)
      else if (d.powerShown w).fld Fld.pwrCap_cap * 10 < w ∧ ¬ (d.powerShown w).flag Fld.pwrSts_capped then
        (((d.powerShown w).setFlag Fld.pwrSts_capped true).raiseN 0x1E5 []).floorMoved
      else if (d.powerShown w).flag Fld.pwrSts_capped then
        { d.powerShown w with pwr := { (d.powerShown w).pwr with
          capBelow := if 100 * w < 95 * ((d.powerShown w).fld Fld.pwrCap_cap * 10) then some (d.pwr.capBelow.getD d.now) else none } }
      else d.powerShown w := by
    rw [Dev.edgePowerCapSample, if_pos acts]
    rfl
  rw [shape, Dev.powerShown_en, Dev.powerShown_capped, Dev.powerShown_cap]
  cases d.flag Fld.pwrCap_en with
  | false => rfl
  | true => cases d.flag Fld.pwrSts_capped with
    | false => simp
    | true => simp

theorem Dev.edgePowerCapSample_idle (w : Nat) (no : d.live = false ∨ d.now < d.pwr.capNext) : d.edgePowerCapSample w = d := by
  have idle : ¬ (d.live && decide (d.pwr.capNext ≤ d.now)) = true := by
    rcases no with down | early
    · simp [down]
    · simp [early]
  rw [Dev.edgePowerCapSample, if_neg idle]

end

/-- The command at a boundary, through what the sample does there. -/
theorem completes_powerCapSample {s : State} {w : Nat} {P : Dev → Prop} (boundary : AtBoundary s.dev)
    (done : P (settle s.dev (s.dev.edgePowerCapSample w))) : Completes (.powerCapSample w) s P := by
  refine .of_settle (rfl : execPowerCapSample w s = s.on (Dev.atEdge (Dev.edgePowerCapSample w))) ?_
  rwa [Dev.atEdge_atBoundary _ boundary]

theorem completes_powerCapRelease {s : State} {P : Dev → Prop} (boundary : AtBoundary s.dev)
    (done : P (settle s.dev s.dev.edgePowerCapRelease)) : Completes .powerCapRelease s P := by
  refine .of_settle (rfl : execPowerCapRelease s = s.on (Dev.atEdge Dev.edgePowerCapRelease)) ?_
  rwa [Dev.atEdge_atBoundary _ boundary]

theorem Dev.edgePowerCapRelease_due {d : Dev} {p : Nat} (live : d.live = true) (capped : d.flag Fld.pwrSts_capped = true)
    (below : d.pwr.capBelow = some p) (due : p + 65536 ≤ d.now) : d.edgePowerCapRelease = d.uncap := by
  simp only [Dev.edgePowerCapRelease, below, live, capped, decide_eq_true due, Bool.and_self, if_true]

theorem Dev.edgePowerCapRelease_idle {d : Dev}
    (no : d.live = false ∨ d.flag Fld.pwrSts_capped = false ∨ ∀ p ∈ d.pwr.capBelow.toList, d.now < p + 65536) : d.edgePowerCapRelease = d := by
  unfold Dev.edgePowerCapRelease
  split
  · next p below =>
    rw [below] at no
    refine if_neg ?_
    rcases no with down | uncapped | early
    · simp [down]
    · simp [uncapped]
    · have later : d.now < p + 65536 := early p (by simp)
      simp [later]
  · rfl

/-! ### The energy model (R512) -/

/-- The end of a step: whether the FET is near TMAX is noted, and told where it was not so before. -/
def Dev.fetShown (d : Dev) (m : InletMeas) : Dev :=
  let hot := decide (d.fld Fld.inlFet_tmax ≤ d.fetTemp m + 20)
  let e : Dev := { d with pwr := { d.pwr with fetHot := hot } }
  if hot && !d.pwr.fetHot then e.raiseOrKeep 0x1E6 [] else e

/-- One step of the model that ends at the temperature `t`. -/
def Dev.fetModelled (d : Dev) (t : Nat) (m : InletMeas) : Dev :=
  (Dev.measure { d with pwr := { d.pwr with modelTemp := t } } m).fetShown m

/-- The temperature of a step with TAU not 0. -/
def Dev.fetNext (d : Dev) (m : InletMeas) : Nat :=
  ((d.pwr.modelTemp : Int) +
    ((m.iout : Int) * ((m.vin : Int) - m.vout) * (d.fld Fld.inlFet_rth : Int) * 25000 -
      ((d.pwr.modelTemp : Int) - (d.fld Fld.inlFet_tamb : Int) * 10 ^ 9)) / ((1000 * d.fld Fld.inlFet_tau : Nat) : Int)).toNat

theorem exec_fetModelUpdate (m : InletMeas) (s : State) : exec (.fetModelUpdate m) s = s.on fun d =>
    if d.pwr.vaux then
      if d.fld Fld.inlFet_tau = 0 then Dev.fetModelled { d with free := d.free + 1 } (Config.freeValue d.free).toNat m else d.fetModelled (d.fetNext m) m
    else d := by
  have unfolded : exec (.fetModelUpdate m) s = execFetModelUpdate m s := rfl
  rw [unfolded, execFetModelUpdate]
  congr 1
  funext d
  by_cases tau : d.fld Fld.inlFet_tau = 0
  · simp only [tau, if_true]
    rfl
  · simp only [tau, if_false]
    rfl

section
variable (d : Dev) (t : Nat) (m : InletMeas)

theorem Dev.raiseOrKeep_free (n : Nat) (l : List Word) : (d.raiseOrKeep n l).free = d.free := by
  unfold Dev.raiseOrKeep
  split <;> simp

/-- Whether the FET is near TMAX, by what the step before measured. -/
def Dev.fetNear (d : Dev) (t : Nat) (m : InletMeas) : Bool :=
  decide (d.fld Fld.inlFet_tmax ≤ Dev.fetTemp { d with pwr := { d.pwr with modelTemp := t } } m + 20)

theorem Dev.measure_fld {f : Fld} (first : f.off ≠ Off.inlMeas) (second : f.off ≠ Off.inlMeas2) : (d.measure m).fld f = d.fld f := by
  rw [Dev.fld, Dev.measure_reg _ _ first second, ← Dev.fld]

theorem Dev.measure_flag {f : Fld} (first : f.off ≠ Off.inlMeas) (second : f.off ≠ Off.inlMeas2) : (d.measure m).flag f = d.flag f := by
  rw [Dev.flag, Dev.measure_fld _ _ first second, ← Dev.flag]

theorem Dev.fetTemp_measure : (d.measure m).fetTemp m = d.fetTemp m := by
  rw [Dev.fetTemp, Dev.measure_flag _ _ (by decide) (by decide), Dev.measure_flag _ _ (by decide) (by decide), Dev.measure_pwr]
  rfl

theorem Dev.fetShown_pwr : (d.fetShown m).pwr = { d.pwr with fetHot := decide (d.fld Fld.inlFet_tmax ≤ d.fetTemp m + 20) } := by
  unfold Dev.fetShown
  generalize decide (d.fld Fld.inlFet_tmax ≤ d.fetTemp m + 20) = hot
  dsimp only
  split
  · rw [Dev.raiseOrKeep_pwr]
  · rfl

theorem Dev.fetShown_free : (d.fetShown m).free = d.free := by
  unfold Dev.fetShown
  generalize decide (d.fld Fld.inlFet_tmax ≤ d.fetTemp m + 20) = hot
  dsimp only
  split
  · rw [Dev.raiseOrKeep_free]
  · rfl

theorem Dev.fetShown_fld {f : Fld} (event : eventReg f.off = false) : (d.fetShown m).fld f = d.fld f := by
  unfold Dev.fetShown
  generalize decide (d.fld Fld.inlFet_tmax ≤ d.fetTemp m + 20) = hot
  dsimp only
  split
  · rw [Dev.raiseOrKeep_fld _ _ _ event]
    exact Dev.fld_of_regs rfl f
  · exact Dev.fld_of_regs rfl f

theorem Dev.fetModelled_pwr : (d.fetModelled t m).pwr = { d.pwr with modelTemp := t, fetHot := d.fetNear t m } := by
  rw [Dev.fetModelled, Dev.fetShown_pwr, Dev.fetTemp_measure, Dev.measure_fld _ _ (by decide) (by decide), Dev.measure_pwr]
  rfl

theorem Dev.fetModelled_free : (d.fetModelled t m).free = d.free := by
  rw [Dev.fetModelled, Dev.fetShown_free]
  rfl

/-- A step leaves the inlet's state and gates alone. -/
theorem Dev.fetModelled_inlet : (d.fetModelled t m).pwr.inlet = d.pwr.inlet ∧ (d.fetModelled t m).pwr.gates = d.pwr.gates ∧
    (d.fetModelled t m).pwr.modelTemp = t := by
  rw [Dev.fetModelled_pwr]
  exact ⟨rfl, rfl, rfl⟩

theorem Dev.fetModelled_fld {f : Fld} (event : eventReg f.off = false) (first : f.off ≠ Off.inlMeas) (second : f.off ≠ Off.inlMeas2) :
    (d.fetModelled t m).fld f = d.fld f := by
  rw [Dev.fetModelled, Dev.fetShown_fld _ _ event, Dev.measure_fld _ _ first second]
  exact Dev.fld_of_regs rfl f

theorem Dev.fetModelled_flag {f : Fld} (event : eventReg f.off = false) (first : f.off ≠ Off.inlMeas) (second : f.off ≠ Off.inlMeas2) :
    (d.fetModelled t m).flag f = d.flag f := by
  rw [Dev.flag, Dev.fetModelled_fld _ _ _ event first second, ← Dev.flag]

/-- The note on the FET speaks of the temperature that the step leaves. -/
theorem Dev.fetModelled_hot : (d.fetModelled t m).pwr.fetHot = decide (d.fld Fld.inlFet_tmax ≤ (d.fetModelled t m).fetTemp m + 20) := by
  rw [Dev.fetTemp, Dev.fetModelled_flag _ _ _ (by decide) (by decide) (by decide), Dev.fetModelled_flag _ _ _ (by decide) (by decide) (by decide),
    Dev.fetModelled_pwr]
  rfl

end

/-- Settles O5: postings, samples, releases and model steps, each through the lemma on what it does. -/
theorem postedWritesPowerCapAndFetModel : Obligations.PostedWritesPowerCapAndFetModel := by
  unfold Obligations.PostedWritesPowerCapAndFetModel
  refine ⟨fun s src off v => completes_postedWrite_taken v, fun s src off v => completes_postedWrite_dropped v,
    fun s src off v => completes_postedWrite_unreached v, fun s off v => completes_postingComplete_ok,
    fun s v posting bad => completes_postingComplete_bad posting bad rfl (by decide),
    fun s v posting bad => completes_postingComplete_bad posting bad rfl (by decide), ?no_posting, ?above, ?below, ?capped, ?disabled, ?idle, ?release,
    ?stays, ?model, ?free, ?unpowered⟩
  case no_posting =>
    intro s off none
    exact completes_unchanged (exec_postingComplete off s) (by rw [none])
  case above =>
    intro s w boundary live due en uncapped above
    refine completes_powerCapSample boundary ?_
    rw [Dev.edgePowerCapSample_due _ w live due, if_neg (by rw [en]; decide), if_pos uncapped, if_pos above]
    refine ⟨?_, rfl, ?_⟩
    · exact (Dev.raise_flag _ _ _ (by decide)).trans (Dev.flag_setFlag_same _ _ _ (by decide) rfl)
    · exact (Dev.raiseN_fld _ _ _ _ (by decide)).trans ((Dev.fld_setFld_apart _ _ _ _ (by decide)).trans (s.dev.powerShown_power w))
  case below =>
    intro s w boundary live due en uncapped below
    refine completes_powerCapSample boundary ?_
    rw [Dev.edgePowerCapSample_due _ w live due, if_neg (by rw [en]; decide), if_pos uncapped, if_neg (Nat.not_lt.mpr below)]
    exact ⟨(s.dev.powerShown_capped w).trans uncapped, rfl, s.dev.powerShown_power w⟩
  case capped =>
    intro s w boundary live due en capped
    refine completes_powerCapSample boundary ?_
    rw [Dev.edgePowerCapSample_due _ w live due, if_neg (by rw [en]; decide), if_neg (by rw [capped]; decide)]
    exact ⟨(s.dev.powerShown_capped w).trans capped, rfl, s.dev.powerShown_power w, rfl⟩
  case disabled =>
    intro s w boundary live due off
    refine completes_powerCapSample boundary ?_
    rw [Dev.edgePowerCapSample_due _ w live due, if_pos off]
    cases capped : s.dev.flag Fld.pwrSts_capped with
    | false => exact ⟨(s.dev.powerShown_capped w).trans capped, s.dev.powerShown_power w, (Bool.or_false _).symm⟩
    | true =>
      exact ⟨Dev.uncap_capped _, (Dev.uncap_power _).trans (s.dev.powerShown_power w), (Bool.or_true _).symm⟩
  case idle =>
    intro s w boundary no
    refine completes_powerCapSample boundary ?_
    rw [Dev.edgePowerCapSample_idle _ w no, settle_self]
  case release =>
    intro s p boundary live capped below due
    refine completes_powerCapRelease boundary ?_
    rw [Dev.edgePowerCapRelease_due live capped below due]
    exact ⟨Dev.uncap_capped _, rfl, Dev.uncap_capBelow _⟩
  case stays =>
    intro s boundary no
    refine completes_powerCapRelease boundary ?_
    rw [Dev.edgePowerCapRelease_idle no, settle_self]
  case model =>
    intro s m vaux tau
    refine .of_settle (exec_fetModelUpdate m s) ?_
    rw [if_pos vaux, if_neg tau]
    obtain ⟨inlet, gates, temp⟩ := s.dev.fetModelled_inlet (s.dev.fetNext m) m
    exact ⟨inlet, gates, temp, s.dev.fetModelled_hot _ m⟩
  case free =>
    intro s m vaux tau
    refine .of_settle (exec_fetModelUpdate m s) ?_
    rw [if_pos vaux, if_pos tau]
    obtain ⟨inlet, gates, temp⟩ := Dev.fetModelled_inlet { s.dev with free := s.dev.free + 1 } (Config.freeValue s.dev.free).toNat m
    exact ⟨inlet, gates, temp, Dev.fetModelled_free _ _ m, Dev.fetModelled_hot { s.dev with free := s.dev.free + 1 } _ m⟩
  case unpowered =>
    intro s m off
    exact completes_unchanged (exec_fetModelUpdate m s) (if_neg (by rw [off]; decide))

end Sys2Proof.Machine


/-! SUPPORT. The other commands of the fabric manager, and reads of a CDAT (O27) (R336, R340, R342). -/

namespace Sys2Proof.Machine

/-- A command that Barista takes from the fabric manager and that only answers. -/
theorem Completes.fm_answers {c : Instr} {s : State} {answer : Dev → Out} (o : Out) (hc : exec c s = s.on fun d => d.fmCommand fun d => d.emit (answer d))
    (taken : FmTaken s.dev) (same : answer s.dev = o) :
    Completes c s fun d => d.regs = s.dev.regs ∧ d.tenants = s.dev.tenants ∧ d.mem = s.dev.mem ∧ d.out.head? = some o := by
  refine .of_settle hc ?_
  rw [Dev.fmCommand_taken _ taken, same]
  exact ⟨rfl, rfl, rfl, rfl⟩

/-- The answer to a read of an LD's table (R336, R340). -/
def Dev.tableAnswer (d : Dev) (p : PortId) (ld : Nat) : Out :=
  match d.tenantOf p ld with
  | some _ => .doeTable p ld (d.ldOf p ld).cdatSeq (d.ldOf p ld).cdat
  | none => .unsupported p ld 0

theorem exec_cxlTableAccess (p : PortId) (ld : Nat) (s : State) : exec (.cxlTableAccess p ld) s = s.on fun d =>
    if d.hostPort p && d.linkUp p then d.emit (d.tableAnswer p ld) else d := by
  have unfolded : exec (.cxlTableAccess p ld) s = execCxlTableAccess p ld s := rfl
  rw [unfolded, execCxlTableAccess]
  congr 1
  funext d
  unfold Dev.tableAnswer
  cases d.hostPort p && d.linkUp p with
  | false => rfl
  | true => cases d.tenantOf p ld <;> rfl

/-- A read of a CDAT on a host port with its link up only answers. -/
theorem Completes.table_answers {s : State} {p : PortId} {ld : Nat} (host : s.dev.hostPort p = true) (up : s.dev.linkUp p = true) :
    Completes (.cxlTableAccess p ld) s fun d => d.lds = s.dev.lds ∧ d.regs = s.dev.regs ∧ d.mem = s.dev.mem ∧
      d.out.head? = some (s.dev.tableAnswer p ld) := by
  refine .of_settle (exec_cxlTableAccess p ld s) ?_
  rw [if_pos (by rw [host, up]; rfl)]
  exact ⟨rfl, rfl, rfl, rfl⟩

/-- Settles O27: each command emits its answer and does nothing else. -/
theorem fabricManagerAndTableReadsAnswer : Obligations.FabricManagerAndTableReadsAnswer := by
  unfold Obligations.FabricManagerAndTableReadsAnswer
  refine ⟨?allocations, ?status, ?control, ?setAllocations, ?bandwidth, ?table, ?unbound⟩
  case allocations =>
    intro s p taken
    refine .fm_answers _ (rfl : execGetLdAllocations p s = s.on _) taken ?_
    congr 2
    funext ld
    cases s.dev.tenantOf p ld <;> rfl
  case status =>
    intro s t taken
    refine .fm_answers _ (rfl : execGetQosStatus t s = s.on _) taken ?_
    simp only [List.isEmpty_iff]
  case control => exact fun s c taken => .fm_answers _ (rfl : execSetQosControl c s = s.on _) taken rfl
  case setAllocations => exact fun s p taken => .fm_answers _ (rfl : execSetLdAllocations p s = s.on _) taken rfl
  case bandwidth => exact fun s p taken => .fm_answers _ (rfl : execSetQosAllocatedBw p s = s.on _) taken rfl
  case table =>
    intro s p ld t host up bound
    have answer := Completes.table_answers (ld := ld) host up
    rwa [Dev.tableAnswer, bound] at answer
  case unbound =>
    intro s p ld host up unbound
    have answer := Completes.table_answers (ld := ld) host up
    rwa [Dev.tableAnswer, unbound] at answer

end Sys2Proof.Machine


/-! SUPPORT. Writes by access code (O11): RW, staged and keyed registers, snapshots, and the management bus (R410 to R427). -/

namespace Sys2Proof.Machine

/-- An effect that leaves part, fuses and mode alone settles as it is. -/
theorem settle_kept {a b : Dev} (part : b.part = a.part) (fuses : b.fuses = a.fuses) (mode : b.mode = a.mode) : settle a b = b := by
  have fuses' : (settle a b).fuses = b.fuses := (settle_fuses_same fuses).trans fuses.symm
  have mode' : (settle a b).mode = b.mode := if_pos (Or.inl mode)
  calc settle a b = { b with part := a.part, fuses := (settle a b).fuses, mode := (settle a b).mode } := rfl
    _ = b := by rw [fuses', mode', ← part]

theorem settle_pendReg (a b : Dev) (o : Nat) : (settle a b).pendReg o = b.pendReg o := rfl

/-! ### Offsets of the register pages -/

theorem offset_aligned {o : Nat} (aligned : o % 4 = 0) : o / 4 * 4 = o := Nat.div_mul_cancel (Nat.dvd_of_mod_eq_zero aligned)

/-- A write of four bytes below 4 MiB that is none of the window's own goes to its register. -/
theorem Dev.busWrite_low (d : Dev) (src : Source) {o : Nat} (v : Word) (aligned : o % 4 = 0) (low : o < 0x400000)
    (addr : o ≠ Off.indAddr) (data : o ≠ Off.indData) : d.busWrite src o v 15 = d.regWrite src o v := by
  unfold Dev.busWrite
  rw [offset_aligned aligned]
  exact (if_neg (not_not.mpr rfl)).trans ((if_neg addr).trans ((if_neg data).trans ((if_neg fun h => low.not_ge h.1).trans
    ((if_neg fun h => low.not_ge (le_trans (by decide) h.1)).trans (if_neg fun h => low.not_ge (le_trans (by decide) h))))))

/-- A plain offset is neither a window nor a control of its own. -/
theorem Dev.busWrite_plain (d : Dev) (src : Source) {o : Nat} (v : Word) (plain : PlainWrite o) :
    d.busWrite src o v 15 = if accMask (·.rw) o = 0 then d else d.setReg o (rwWord d o v) := by
  obtain ⟨aligned, low, own, pmu, hist, keyed, twin, posted, staged⟩ := plain
  simp only [List.mem_cons, List.not_mem_nil, or_false, not_or] at own
  obtain ⟨indAddr, indData, snap, commit, pmuCtl, histClr⟩ := own
  have no_key : ¬ keyedOffsets.contains o = true := ne_true_of_eq_false keyed
  have no_twin : ¬ (4 ≤ o ∧ keyedOffsets.contains (o - 4) = true) := fun h => ne_true_of_eq_false twin h.2
  refine (d.busWrite_low src v aligned low indAddr indData).trans ?_
  refine (if_neg snap).trans ((if_neg commit).trans ((if_neg pmuCtl).trans ((if_neg histClr).trans ?_)))
  refine (if_neg fun h => pmu ⟨h.1, h.2.trans (by decide)⟩).trans ((if_neg fun h => pmu ⟨le_trans (by decide) h.1, h.2⟩).trans ?_)
  refine (if_neg hist).trans ((if_neg no_key).trans ((if_neg no_twin).trans ((if_neg (not_not.mpr posted)).trans ?_)))
  exact if_neg (ne_true_of_eq_false staged)

/-- With no RW bits a register keeps its word. -/
theorem rwWord_none {d : Dev} {o : Nat} (v : Word) (none : accMask (·.rw) o = 0) : rwWord d o v = d.reg o := by
  have every : ~~~(0 : Word) = BitVec.allOnes 32 := by decide
  have no_bits : v &&& 0 = 0#32 := BitVec.and_zero
  rw [rwWord, none, every, no_bits, BitVec.or_zero, BitVec.and_allOnes]

theorem Dev.busWrite_plain_reg (d : Dev) (src : Source) {o : Nat} (v : Word) (plain : PlainWrite o) :
    (d.busWrite src o v 15).reg o = rwWord d o v := by
  rw [Dev.busWrite_plain d src v plain]
  split
  · next none => exact (rwWord_none v none).symm
  · exact Dev.reg_setReg_same _ _ _

theorem Dev.busWrite_plain_shape (d : Dev) (src : Source) {o : Nat} (v : Word) (plain : PlainWrite o) :
    ∃ r, d.busWrite src o v 15 = { d with regs := r } := by
  rw [Dev.busWrite_plain d src v plain]
  split
  · exact ⟨d.regs, rfl⟩
  · exact ⟨_, rfl⟩

theorem Dev.busWrite_plain_ne (d : Dev) (src : Source) {o k : Nat} (v : Word) (plain : PlainWrite o) (other : k ≠ o) :
    (d.busWrite src o v 15).reg k = d.reg k := by
  rw [Dev.busWrite_plain d src v plain]
  split
  · rfl
  · exact Dev.reg_setReg_ne _ _ other

/-- A write of a keyed register arms its pair (R414). -/
theorem Dev.busWrite_keyed (d : Dev) (src : Source) {o : Nat} (v : Word) (keyed : keyedOffsets.contains o = true) :
    d.busWrite src o v 15 = d.arm src o v := by
  have named : o ∈ keyedOffsets := List.contains_iff_mem.mp keyed
  simp only [keyedOffsets, List.mem_cons, List.not_mem_nil, or_false] at named
  rcases named with rfl | rfl | rfl | rfl | rfl | rfl | rfl <;> rfl

theorem exec_registerWrite (src : Source) (off : Nat) (v : Word) (be : BitVec 4) (s : State) : exec (.registerWrite src off v be) s = s.on fun d =>
    if d.canAccess src off then d.busWrite src off v be else d := rfl

theorem exec_keyedValueWrite (src : Source) (off : Nat) (v : Word) (s : State) : exec (.keyedValueWrite src off v) s = s.on fun d =>
    if d.canAccess src off && keyedOffsets.contains off then d.arm src off v else d := rfl

/-! ### The staging set (R391, R422) -/

theorem exec_stagedRegisterWrite (src : Source) (off : Nat) (v : Word) (s : State) : exec (.stagedRegisterWrite src off v) s = s.on fun d =>
    if d.canAccess src off && isStaged off then d.stageWrite src off v else d := rfl

/-- A register with staged fields is none that staging itself writes. -/
theorem staged_other {o : Nat} (i : Iface) (staged : isStaged o = true) : o ≠ Off.stgSts ∧ o ≠ Off.mboxCmdSts (ifaceIdx i) := by
  constructor
  · rintro rfl
    exact absurd staged (by decide)
  · rintro rfl
    cases i <;> exact absurd staged (by decide)

section
variable (d : Dev) (i : Iface)

theorem Dev.syncStaging_shape : ∃ r, d.syncStaging = { d with regs := r } :=
  (((d.regsOf_refl.setFlag _ _).setFlag _ _).setFld _ _).setFlag _ _

theorem Dev.syncStaging_reg {o : Nat} (other : o ≠ Off.stgSts) : d.syncStaging.reg o = d.reg o := by
  unfold Dev.syncStaging Dev.setFlag
  dsimp only
  rw [Dev.reg_setFld_ne (f := Fld.stgSts_checking) _ _ other, Dev.reg_setFld_ne (f := Fld.stgSts_writes) _ _ other,
    Dev.reg_setFld_ne (f := Fld.stgSts_checked) _ _ other, Dev.reg_setFld_ne (f := Fld.stgSts_dirty) _ _ other]

theorem Dev.syncStaging_checked : d.syncStaging.flag Fld.stgSts_checked = d.stg.checked := by
  unfold Dev.syncStaging
  dsimp only
  rw [Dev.setFlag_flag_apart _ _ (by decide), Dev.setFld_flag_apart _ _ (by decide), Dev.flag_setFlag_same _ _ _ (by decide) rfl]

/-- A staged change: the interface is the owner, CHECKED is clear, one more write is counted. -/
theorem Dev.staged_stg : (d.staged i).stg = { d.stg with owner := some i, checked := false, writes := d.stg.writes + 1 } := by
  simp [Dev.staged, Dev.syncStaging, Dev.ownStaging]

theorem Dev.staged_shadow : (d.staged i).shadow = d.shadow := by simp [Dev.staged, Dev.syncStaging, Dev.ownStaging]

theorem Dev.staged_mem : (d.staged i).mem = d.mem := by simp [Dev.staged, Dev.syncStaging, Dev.ownStaging]

theorem Dev.pendWrite_reg (o : Nat) (v : Word) (k : Nat) : (d.pendWrite o v).reg k = d.reg k := by
  simp only [Dev.reg, Dev.pendWrite, Dev.setPend_regs]

theorem Dev.pendWrite_shadow (o : Nat) (v : Word) : (d.pendWrite o v).shadow =
    Sparse.put (d.reg o) d.shadow o ((d.pendReg o &&& ~~~(accMask (·.rws) o)) ||| (v &&& accMask (·.rws) o)) := by
  rw [Dev.pendWrite, Dev.setPend]

theorem Dev.pendWrite_stg (o : Nat) (v : Word) : (d.pendWrite o v).stg = d.stg := by
  rw [Dev.pendWrite, Dev.setPend_stg]

theorem Dev.pendWrite_mem (o : Nat) (v : Word) : (d.pendWrite o v).mem = d.mem := by
  rw [Dev.pendWrite, Dev.setPend_mem]

theorem Dev.stg_reg (x : Staging) (o : Nat) : Dev.reg { d with stg := x } o = d.reg o := rfl

theorem Dev.ownStaging_reg {o : Nat} (sts : o ≠ Off.stgSts) (cmd : o ≠ Off.mboxCmdSts (ifaceIdx i)) : (d.ownStaging i).reg o = d.reg o := by
  have owner := Dev.reg_setFld_ne (f := Fld.stgSts_owner) { d with stg := { d.stg with owner := some i } } (ifaceIdx i) sts
  have shown := Dev.reg_setFld_ne (f := Fld.mboxCmdSts_owner (ifaceIdx i))
    (({ d with stg := { d.stg with owner := some i } } : Dev).setFld Fld.stgSts_owner (ifaceIdx i)) (bitOf true) cmd
  exact (shown.trans owner).trans (d.stg_reg _ o)

theorem Dev.staged_reg {o : Nat} (sts : o ≠ Off.stgSts) (cmd : o ≠ Off.mboxCmdSts (ifaceIdx i)) : (d.staged i).reg o = d.reg o := by
  have synced := Dev.syncStaging_reg { d.ownStaging i with
    stg := { (d.ownStaging i).stg with checked := false, writes := (d.ownStaging i).stg.writes + 1 } } sts
  exact (synced.trans ((d.ownStaging i).stg_reg _ o)).trans (d.ownStaging_reg i sts cmd)

theorem Dev.staged_checked : (d.staged i).flag Fld.stgSts_checked = false := Dev.syncStaging_checked _

end

section
variable {s : State} {src : Source} {i : Iface} {off : Nat} {v : Word} (access : s.dev.canAccess src off = true) (staged : isStaged off = true)
  (from_i : sourceIface src = some i)
include access staged from_i

/-- A staged write that is the interface's to make, with no check under way. -/
theorem completes_staged (may : s.dev.mayStage i = true) (free : s.dev.stg.checking = none) : Completes (.stagedRegisterWrite src off v) s fun d =>
      d.pendReg off = ((s.dev.pendReg off &&& ~~~(accMask (·.rws) off)) ||| (v &&& accMask (·.rws) off)) ∧
      d.reg off = s.dev.reg off ∧ d.stg.owner = some i ∧ d.stg.checked = false ∧ d.stg.writes = s.dev.stg.writes + 1 ∧
      d.flag Fld.stgSts_checked = false ∧ d.mem = s.dev.mem := by
  refine .of_settle (exec_stagedRegisterWrite src off v s) ?_
  obtain ⟨sts, cmd⟩ := staged_other i staged
  have shape : s.dev.stageWrite src off v = (s.dev.pendWrite off v).staged i := by simp [Dev.stageWrite, from_i, may, free]
  have word : ((s.dev.pendWrite off v).staged i).reg off = s.dev.reg off :=
    (Dev.staged_reg _ i sts cmd).trans (s.dev.pendWrite_reg off v off)
  rw [if_pos (by rw [access, staged]; rfl), shape]
  have pending : ((s.dev.pendWrite off v).staged i).pendReg off =
      (s.dev.pendReg off &&& ~~~(accMask (·.rws) off)) ||| (v &&& accMask (·.rws) off) := by
    rw [Dev.pendReg, word, Dev.staged_shadow, Dev.pendWrite_shadow, Sparse.get_put_same]
  rw [settle_pendReg, settle_reg, settle_flag, settle_stg, settle_mem, Dev.staged_stg, Dev.staged_mem, Dev.pendWrite_stg, Dev.pendWrite_mem]
  exact ⟨pending, word, rfl, rfl, rfl, Dev.staged_checked _ i, rfl⟩

/-- A staged write from another interface than the owner's is counted. -/
theorem completes_foreign (may : s.dev.mayStage i = false) : Completes (.stagedRegisterWrite src off v) s fun d =>
      d.shadow = s.dev.shadow ∧ d.stg = s.dev.stg ∧ d.fld (Fld.mboxCmdSts_foreign (ifaceIdx i)) =
        min (2 ^ (Fld.mboxCmdSts_foreign (ifaceIdx i)).w - 1) (s.dev.fld (Fld.mboxCmdSts_foreign (ifaceIdx i)) + 1) := by
  refine .of_settle (exec_stagedRegisterWrite src off v s) ?_
  have shape : s.dev.stageWrite src off v = s.dev.bump (Fld.mboxCmdSts_foreign (ifaceIdx i)) 1 := by simp [Dev.stageWrite, from_i, may]
  rw [if_pos (by rw [access, staged]; rfl), shape]
  exact ⟨rfl, rfl, (Dev.fld_bump_same _ _ _ (by simp [Fld.mboxCmdSts_foreign])).trans (Nat.min_comm _ _)⟩

/-- A staged write while a check runs is held. -/
theorem completes_held (may : s.dev.mayStage i = true) (checks : s.dev.stg.checking.isSome = true) :
    Completes (.stagedRegisterWrite src off v) s fun d => d.stg.heldWrites = s.dev.stg.heldWrites ++ [(off, v)] ∧
      d.shadow = s.dev.shadow ∧ d.regs = s.dev.regs := by
  refine .of_settle (exec_stagedRegisterWrite src off v s) ?_
  have shape : s.dev.stageWrite src off v = { s.dev with stg := { s.dev.stg with heldWrites := s.dev.stg.heldWrites ++ [(off, v)] } } := by
    simp [Dev.stageWrite, from_i, may, checks]
  rw [if_pos (by rw [access, staged]; rfl), shape]
  exact ⟨rfl, rfl, rfl⟩

end

/-! ### The management bus (R420) -/

/-- A message that writes, once VAUX is there. -/
def Dev.mgmtWritten (d : Dev) (count off : Nat) (data : List Word) : Dev :=
  match d.mgmtRefusal count off true with
  | some st => (d.mgmtLocked st off).emit (.mgmt st [])
  | none => (d.mgmtWrites off ((List.range count).map fun i => data.getD i 0)).emit (.mgmt 0 [])

theorem exec_mgmtRegisterWrite (count off : Nat) (data : List Word) (s : State) : exec (.mgmtRegisterWrite count off data) s = s.on fun d =>
    if !d.pwr.vaux then d else d.mgmtWritten count off data := rfl

theorem completes_mgmtWritten {s : State} {count off : Nat} {data : List Word} {P : Dev → Prop} (vaux : s.dev.pwr.vaux = true)
    (done : P (settle s.dev (s.dev.mgmtWritten count off data))) : Completes (.mgmtRegisterWrite count off data) s P := by
  refine .of_settle (exec_mgmtRegisterWrite count off data s) ?_
  rw [if_neg (by rw [vaux]; decide)]
  exact done

/-- A taken message writes its words and answers STATUS 0. -/
theorem Dev.mgmtWritten_taken {d : Dev} {count off : Nat} {data : List Word} (taken : d.mgmtRefusal count off true = none) :
    d.mgmtWritten count off data = (d.mgmtWrites off ((List.range count).map fun i => data.getD i 0)).emit (.mgmt 0 []) := by
  rw [Dev.mgmtWritten, taken]

/-- Of one word, the write is the bus's. -/
theorem Dev.mgmtWrites_one (d : Dev) (off : Nat) (data : List Word) :
    d.mgmtWrites off ((List.range 1).map fun i => data.getD i 0) = d.busWrite .mctp off (data.getD 0 0) 15 := rfl

/-! ### The armed pair (R414) -/

section
variable (d : Dev) (src : Source)

theorem Dev.arm_armedBy (off : Nat) (v : Word) : (d.arm src off v).armedBy src = some ⟨off, v, d.stamp⟩ := by
  unfold Dev.arm
  dsimp only
  split <;> exact Dev.armedBy_setArmed _ _ _

theorem Dev.arm_reg (off : Nat) (v : Word) (o : Nat) : (d.arm src off v).reg o =
    match d.armedBy src with
    | some a => if o = Off.glbKeyfail then keyfailWord 0 a.off else d.reg o
    | none => d.reg o := by
  unfold Dev.arm
  cases d.armedBy src with
  | none => rfl
  | some a => exact Dev.reg_setReg d _ _ _

end

/-- Settles O11: each write goes where the access code of its offset sends it. -/
theorem writesFollowTheAccessCodes : Obligations.WritesFollowTheAccessCodes := by
  unfold Obligations.WritesFollowTheAccessCodes
  refine ⟨?plain, ?bytes, fun s src i off v => completes_staged, fun s src i off v => completes_foreign, fun s src i off v => completes_held, ?keyed,
    ?snapshot, ?mgmt, ?mgmt_refused, ?arms, ?timeout⟩
  case plain =>
    intro s src off v access plain
    refine .of_settle (exec_registerWrite src off v 15 s) ?_
    rw [if_pos access]
    have word := s.dev.busWrite_plain_reg src v plain
    have others := fun o => s.dev.busWrite_plain_ne src (k := o) v plain
    obtain ⟨r, shape⟩ := s.dev.busWrite_plain_shape src v plain
    rw [shape] at word others ⊢
    exact ⟨word, others, rfl, settle_mode_self _ _ rfl, rfl, rfl⟩
  case bytes =>
    intro s src off v be access part
    refine .of_settle (exec_registerWrite src off v be s) ?_
    rw [if_pos access, Dev.busWrite, if_pos part]
    exact ⟨settle_kept rfl rfl rfl, Dev.flag_setFlag_same _ _ _ (by decide) rfl⟩
  case keyed =>
    intro s src off v access _ keyed
    refine .of_settle (exec_registerWrite src off v 15 s) ?_
    rw [if_pos access, s.dev.busWrite_keyed src v keyed, exec_keyedValueWrite, State.on, if_pos (by rw [access, keyed]; rfl)]
  case snapshot =>
    intro s src access
    refine .of_settle (rfl : execSnapCtlReq src s = s.on _) ?_
    rw [if_pos access]
    exact settle_kept rfl rfl rfl
  case mgmt =>
    intro s count off data vaux taken
    refine completes_mgmtWritten vaux ?_
    rw [Dev.mgmtWritten_taken taken]
    refine ⟨rfl, fun one plain => ?_⟩
    rw [one, Dev.mgmtWrites_one, settle_reg, Dev.emit_reg, Dev.busWrite_plain_reg _ _ _ plain]
  case mgmt_refused =>
    intro s count off st data vaux refused
    refine completes_mgmtWritten vaux ?_
    rw [Dev.mgmtWritten, refused]
    refine ⟨rfl, ?_⟩
    have kept : (s.dev.mgmtLocked st off).mem = s.dev.mem := by
      unfold Dev.mgmtLocked
      split <;> rfl
    exact kept
  case arms =>
    intro s src off v access keyed
    refine .of_settle (exec_keyedValueWrite src off v s) ?_
    rw [if_pos (by rw [access, keyed]; rfl)]
    refine ⟨s.dev.arm_armedBy src off v, fun o other => ?_, ?_⟩
    · rw [settle_reg, Dev.arm_reg]
      split
      · exact if_neg other
      · rfl
    · rw [settle_reg, Dev.arm_reg]
      cases s.dev.armedBy src with
      | none => rfl
      | some a => exact if_pos rfl
  case timeout =>
    intro s src a armed late
    refine .of_settle (rfl : execKeyedPairTimeout src s = s.on _) ?_
    rw [armed]
    dsimp only
    rw [if_pos late]
    exact ⟨s.dev.armedBy_setArmed src none, Dev.keyFail_reg _ _ _, fun o other => Dev.reg_setReg_ne _ _ other⟩

end Sys2Proof.Machine


/-! SUPPORT. Effects that settle as they are: part, fuses and mode stay. -/

namespace Sys2Proof.Machine

/-- What settling could change of an effect. -/
def Dev.standing (d : Dev) : Part × Fuses × Mode := (d.part, d.fuses, d.mode)

theorem settle_standing {a b : Dev} (same : b.standing = a.standing) : settle a b = b := by
  obtain ⟨part, fuses, mode⟩ : b.part = a.part ∧ b.fuses = a.fuses ∧ b.mode = a.mode := by
    simpa only [Dev.standing, Prod.mk.injEq] using same
  exact settle_kept part fuses mode

/-- A command whose effect is `e`, which stands as the device did, completes with what holds of `e`. -/
theorem Completes.of_standing {c : Instr} {s : State} {P : Dev → Prop} {f : Dev → Dev} {e : Dev} (hc : exec c s = s.on f) (effect : f s.dev = e)
    (same : e.standing = s.dev.standing) (h : P e) : Completes c s P :=
  .of_settle hc (by rwa [effect, settle_standing same])

section
variable (d : Dev)

@[simp] theorem Dev.setReg_standing (o : Nat) (w : Word) : (d.setReg o w).standing = d.standing := rfl
@[simp] theorem Dev.setFld_standing (f : Fld) (v : Nat) : (d.setFld f v).standing = d.standing := rfl
@[simp] theorem Dev.setFlag_standing (f : Fld) (b : Bool) : (d.setFlag f b).standing = d.standing := rfl
@[simp] theorem Dev.setBit_standing (f : Fld) (i : Nat) (b : Bool) : (d.setBit f i b).standing = d.standing := rfl
@[simp] theorem Dev.bump_standing (f : Fld) (n : Nat) : (d.bump f n).standing = d.standing := rfl
@[simp] theorem Dev.emit_standing (o : Out) : (d.emit o).standing = d.standing := rfl
@[simp] theorem Dev.floorMoved_standing : d.floorMoved.standing = d.standing := rfl
@[simp] theorem Dev.modPort_standing (p : PortId) (f : Port → Port) : (d.modPort p f).standing = d.standing := rfl
@[simp] theorem Dev.modRly_standing (p : PortId) (f : RelayPort → RelayPort) : (d.modRly p f).standing = d.standing := rfl

@[simp] theorem Dev.modLd_standing (p : PortId) (ld : Nat) (f : LdState → LdState) : (d.modLd p ld f).standing = d.standing := by
  obtain ⟨lds, shape⟩ := d.modLd_shape p ld f
  rw [shape]
  rfl

@[simp] theorem Dev.raise_standing (e : Ev) : (d.raise e).standing = d.standing := by
  obtain ⟨r, p, q, i, m, w, shape⟩ := d.raise_shape e
  rw [shape]
  rfl

@[simp] theorem Dev.raiseN_standing (n : Nat) (detail : List Word) : (d.raiseN n detail).standing = d.standing := d.raise_standing _

@[simp] theorem Dev.cdatPort_standing (p : PortId) : (d.cdatPort p).standing = d.standing :=
  foldl_keeps Dev.standing _ _ d fun d _ => d.modLd_standing p _ _

@[simp] theorem Dev.setLink_standing (p : PortId) (w r : Nat) : (d.setLink p w r).standing = d.standing := by
  unfold Dev.setLink
  dsimp only
  split
  · rfl
  · simp

@[simp] theorem Dev.setStream_standing (p : PortId) (stream : IdeStream) (v : Nat) : (d.setStream p stream v).standing = d.standing := by
  cases stream <;> rfl

@[simp] theorem Dev.complete_standing (i : Iface) (op rc : Nat) (x : Payload) : (d.complete i op rc x).standing = d.standing := by
  obtain ⟨_, _, _, _, _, _, shape⟩ := d.complete_shape i op rc x
  rw [shape]
  rfl

end

end Sys2Proof.Machine


/-! SUPPORT. Host links (O40): training, recovery, width, IDE streams, viral, and decoder commits (R331 to R348). -/

namespace Sys2Proof.Machine

/-! ### A port's record, an LD's record, a bit of a field -/

theorem portIdx_lt (p : PortId) : portIdx p < 2 := by cases p <;> decide

theorem ldIdx_lt {ld : Nat} (p : PortId) (small : ld < 16) : ldIdx p ld < 32 := by
  have port := portIdx_lt p
  unfold ldIdx
  omega

section
variable (d : Dev) (p : PortId)

theorem Dev.port_modPort (f : Port → Port) : (d.modPort p f).port p = f (d.port p) := by
  simp only [Dev.port, Dev.modPort, vget_vmod, portIdx_lt, and_self, if_true]

theorem Dev.ldOf_modLd {ld : Nat} (small : ld < 16) (f : LdState → LdState) : (d.modLd p ld f).ldOf p ld = f (d.ldOf p ld) := by
  simp [Dev.ldOf, Dev.modLd, small, vget_vmod, ldIdx_lt]

theorem Dev.port_of_ports {a b : Dev} (same : b.ports = a.ports) (p : PortId) : b.port p = a.port p := by
  rw [Dev.port, Dev.port, same]

/-- A bit set in a field of one bit per unit. -/
theorem Dev.testBit_setBit {f : Fld} {i : Nat} (b : Bool) (fits : f.lo + f.w ≤ 32) (inside : i < f.w) :
    ((d.setBit f i b).fld f).testBit i = b := by
  rw [Dev.setBit, Dev.fld_setFld_same _ _ _ fits, Nat.testBit_mod_two_pow, decide_eq_true inside, Bool.true_and]
  cases b with
  | true => simp
  | false =>
    have removed : (2 ^ f.w - 1 - 2 ^ i).testBit i = false := by
      have below : 2 ^ i ≤ 2 ^ f.w - 1 := Nat.le_sub_one_of_lt (Nat.pow_lt_pow_right (by decide) inside)
      have shape : 2 ^ f.w - 1 - 2 ^ i = 2 ^ f.w - (2 ^ i + 1) := by omega
      rw [shape, Nat.testBit_two_pow_sub_succ (Nat.pow_lt_pow_right (by decide) inside), Nat.testBit_two_pow_self]
      simp
    simp [Nat.testBit_and, removed]

/-! ### Width and rate -/

theorem Dev.cdatPort_regs : (d.cdatPort p).regs = d.regs := foldl_keeps Dev.regs _ _ d fun d ld => d.modLd_regs p ld _
theorem Dev.cdatPort_mem : (d.cdatPort p).mem = d.mem := foldl_keeps Dev.mem _ _ d fun d ld => d.modLd_mem p ld _

variable (w r : Nat)

theorem Dev.setLink_mem : (d.setLink p w r).mem = d.mem := by
  unfold Dev.setLink
  dsimp only
  split
  · rfl
  · rw [Dev.cdatPort_mem]
    rfl

/-- The registers of a link that is set anew. -/
theorem Dev.setLink_fld (f : Fld) : (d.setLink p w r).fld f =
    if w = d.fld (Fld.prtLinkSts_width (portIdx p)) ∧ r = d.fld (Fld.prtLinkSts_rate (portIdx p)) then d.fld f
    else ((d.setFld (Fld.prtLinkSts_width (portIdx p)) w).setFld (Fld.prtLinkSts_rate (portIdx p)) r).fld f := by
  have shown : ∀ e : Dev, (e.floorMoved.cdatPort p).fld f = e.fld f := fun e =>
    Dev.fld_of_regs ((e.floorMoved.cdatPort_regs p).trans e.floorMoved_regs) f
  unfold Dev.setLink
  dsimp only
  split
  · rfl
  · exact shown _

theorem prtLinkSts_rate_width_apart : (Fld.prtLinkSts_rate (portIdx p)).apart (Fld.prtLinkSts_width (portIdx p)) = true := by
  cases p <;> rfl

theorem prtLinkSts_rate_fits : (Fld.prtLinkSts_rate (portIdx p)).lo + (Fld.prtLinkSts_rate (portIdx p)).w ≤ 32 :=
  (by decide : 8 + 4 ≤ 32)

theorem Dev.setLink_width (small : w < 32) : (d.setLink p w r).fld (Fld.prtLinkSts_width (portIdx p)) = w := by
  rw [Dev.setLink_fld]
  split
  · next same => exact same.1.symm
  · rw [Dev.fld_setFld_apart _ _ _ _ (prtLinkSts_rate_width_apart p), Dev.fld_setFld_same _ _ _ (by simp [Fld.prtLinkSts_width])]
    exact Nat.mod_eq_of_lt small

theorem Dev.setLink_rate (small : r < 16) : (d.setLink p w r).fld (Fld.prtLinkSts_rate (portIdx p)) = r := by
  rw [Dev.setLink_fld]
  split
  · next same => exact same.2.symm
  · rw [Dev.fld_setFld_same _ _ _ (prtLinkSts_rate_fits p)]
    exact Nat.mod_eq_of_lt small

theorem Dev.setLink_fld_apart {f : Fld} (width : (Fld.prtLinkSts_width (portIdx p)).apart f = true)
    (rate : (Fld.prtLinkSts_rate (portIdx p)).apart f = true) : (d.setLink p w r).fld f = d.fld f := by
  rw [Dev.setLink_fld]
  split
  · rfl
  · simp only [Dev.fld_setFld_apart _ _ _ _ rate, Dev.fld_setFld_apart _ _ _ _ width]

end

/-! ### Training (R331, R334) -/

section
variable (d : Dev) (p : PortId) (f : Port → Port)

theorem Dev.modPort_fld (x : Fld) : (d.modPort p f).fld x = d.fld x := rfl
theorem Dev.modPort_mem : (d.modPort p f).mem = d.mem := rfl

theorem Dev.setFld_port (x : Fld) (v : Nat) : (d.setFld x v).port p = d.port p := by
  simp only [Dev.port, Dev.setFld_ports]

end

theorem widthOk_small {w : Nat} (ok : Machine.widthOk w = true) : w < 32 := by
  simp only [Machine.widthOk, Bool.or_eq_true, beq_iff_eq] at ok
  omega

/-- A CXL link that training forms: width and rate, the port's record, then the link's own fields. -/
def Dev.trainedCxl (d : Dev) (p : PortId) (g3 mld lo : Bool) (w r : Nat) : Dev :=
  let n := portIdx p
  let d := (d.setLink p w r).modPort p fun s => { s with cxl2 := !g3, mld := mld, fullWidth := w }
  let d := ((d.setFld (Fld.prtLinkSts_state n) 2).setFlag (Fld.prtLinkSts_flit n) g3).setFlag (Fld.prtLinkSts_lopt n) (g3 && lo)
  (d.setFld (Fld.prtLinkSts_cxlver n) (if g3 then 2 else 1)).setFlag (Fld.prtLinkSts_mld n) mld

/-- A PCIe link that training forms. -/
def Dev.trainedPcie (d : Dev) (p : PortId) (w r : Nat) : Dev :=
  let d := (d.setLink p w r).modPort p fun s => { s with cxl2 := false, mld := false, fullWidth := w }
  (d.setFld (Fld.prtLinkSts_state (portIdx p)) 3).setFlag (Fld.prtLinkSts_flit (portIdx p)) (r == 6)

/-- A training that fails. -/
def Dev.trainedNot (d : Dev) (p : PortId) : Dev := (d.setFld (Fld.prtLinkSts_state (portIdx p)) 1).raiseN 0x190 []

/-- The outcome of a training (R331). -/
def Dev.trained (d : Dev) (p : PortId) : LinkResult → Dev
  | .noX4 => d.trainedNot p
  | .pcieOnly w r => if !Machine.widthOk w || r == 0 || 6 < r then d.trainedNot p else d.trainedPcie p w r
  | .cxl g3 w r mld lo =>
    if !Machine.widthOk w || r == 0 || 6 < r then d.trainedNot p else d.trainedCxl p g3 mld lo w (if g3 then r else min 5 r)

theorem exec_linkTrainingComplete (p : PortId) (res : LinkResult) (s : State) : exec (.linkTrainingComplete p res) s = s.on fun d =>
    if !d.linkOpen p || d.isDown p || 2 ≤ d.fld (Fld.prtLinkSts_state (portIdx p)) then d else d.trained p res := by
  have unfolded : exec (.linkTrainingComplete p res) s = execLinkTrainingComplete p res s := rfl
  rw [unfolded, execLinkTrainingComplete]
  cases res <;> rfl

section
variable (d : Dev) (p : PortId) (g3 mld lo : Bool) {w r : Nat} (width : w < 32) (rate : r < 16)

include width rate in
theorem Dev.trainedCxl_link : (d.trainedCxl p g3 mld lo w r).fld (Fld.prtLinkSts_width (portIdx p)) = w ∧
    (d.trainedCxl p g3 mld lo w r).fld (Fld.prtLinkSts_rate (portIdx p)) = r := by
  cases p <;> simp (disch := first | decide | assumption) only [Dev.trainedCxl, Dev.setFlag, Dev.fld_setFld_apart, Dev.modPort_fld,
    Dev.setLink_width, Dev.setLink_rate, and_self]

theorem Dev.trainedCxl_state : (d.trainedCxl p g3 mld lo w r).fld (Fld.prtLinkSts_state (portIdx p)) = 2 := by
  cases p <;> simp (disch := decide) only [Dev.trainedCxl, Dev.setFlag, Dev.fld_setFld_apart, Dev.fld_setFld_same] <;> rfl

theorem Dev.trainedCxl_version : (d.trainedCxl p g3 mld lo w r).fld (Fld.prtLinkSts_cxlver (portIdx p)) = if g3 then 2 else 1 := by
  cases p <;> simp (disch := decide) only [Dev.trainedCxl, Dev.setFlag, Dev.fld_setFld_apart, Dev.fld_setFld_same] <;> cases g3 <;> rfl

theorem Dev.trainedCxl_mld : (d.trainedCxl p g3 mld lo w r).flag (Fld.prtLinkSts_mld (portIdx p)) = mld :=
  Dev.flag_setFlag_same _ _ _ (by cases p <;> decide) rfl

theorem Dev.trainedCxl_flit : (d.trainedCxl p g3 mld lo w r).flag (Fld.prtLinkSts_flit (portIdx p)) = g3 := by
  cases p <;> simp (disch := first | decide | rfl) only [Dev.trainedCxl, Dev.setFlag_flag_apart, Dev.setFld_flag_apart, Dev.flag_setFlag_same]

theorem Dev.trainedCxl_port : ((d.trainedCxl p g3 mld lo w r).port p).cxl2 = !g3 :=
  by simp only [Dev.trainedCxl, Dev.setFlag, Dev.setFld_port, Dev.port_modPort]

theorem Dev.trainedCxl_standing : (d.trainedCxl p g3 mld lo w r).standing = d.standing := by simp [Dev.trainedCxl]

theorem Dev.trainedPcie_standing : (d.trainedPcie p w r).standing = d.standing := by simp [Dev.trainedPcie]

theorem Dev.trainedCxl_mem : (d.trainedCxl p g3 mld lo w r).mem = d.mem := by
  simp [Dev.trainedCxl, Dev.setLink_mem, Dev.modPort_mem]

include width rate in
theorem Dev.trainedPcie_link : (d.trainedPcie p w r).fld (Fld.prtLinkSts_state (portIdx p)) = 3 ∧
    (d.trainedPcie p w r).fld (Fld.prtLinkSts_width (portIdx p)) = w ∧ (d.trainedPcie p w r).fld (Fld.prtLinkSts_rate (portIdx p)) = r := by
  cases p <;> simp (disch := first | decide | assumption) only [Dev.trainedPcie, Dev.setFlag, Dev.fld_setFld_apart, Dev.fld_setFld_same, Dev.modPort_fld,
    Dev.setLink_width, Dev.setLink_rate, and_self, and_true] <;> rfl

theorem Dev.trainedPcie_mem : (d.trainedPcie p w r).mem = d.mem := by
  simp [Dev.trainedPcie, Dev.setLink_mem, Dev.modPort_mem]

end

section
variable {s : State} {p : PortId} (opened : s.dev.linkOpen p = true) (up : s.dev.isDown p = false) (quiet : s.dev.fld (Fld.prtLinkSts_state (portIdx p)) < 2)
include opened up quiet

/-- A port that may train does. -/
theorem completes_trained {res : LinkResult} {P : Dev → Prop} {e : Dev} (effect : s.dev.trained p res = e) (same : e.standing = s.dev.standing) (done : P e) :
    Completes (.linkTrainingComplete p res) s P := by
  have may : ¬ (!s.dev.linkOpen p || s.dev.isDown p || decide (2 ≤ s.dev.fld (Fld.prtLinkSts_state (portIdx p)))) = true := by
    simp [opened, up, Nat.not_le.mpr quiet]
  exact .of_standing (exec_linkTrainingComplete p res s) ((if_neg may).trans effect) same done

omit opened up quiet in
/-- A width and a rate that a link has. -/
theorem formable {w r : Nat} (width : Machine.widthOk w = true) (low : 1 ≤ r) (high : r ≤ 6) :
    ¬ (!Machine.widthOk w || r == 0 || decide (6 < r)) = true := by
  have some_rate : r ≠ 0 := by omega
  simp [width, some_rate, high]

theorem completes_trained_cxl (g3 mld lo : Bool) {w r : Nat} (width : Machine.widthOk w = true) (low : 1 ≤ r) (high : r ≤ 6) :
    Completes (.linkTrainingComplete p (.cxl g3 w r mld lo)) s fun d => d.fld (Fld.prtLinkSts_state (portIdx p)) = 2 ∧
      d.fld (Fld.prtLinkSts_width (portIdx p)) = w ∧ d.fld (Fld.prtLinkSts_rate (portIdx p)) = (if g3 then r else min 5 r) ∧
      d.fld (Fld.prtLinkSts_cxlver (portIdx p)) = (if g3 then 2 else 1) ∧ d.flag (Fld.prtLinkSts_mld (portIdx p)) = mld ∧
      d.flag (Fld.prtLinkSts_flit (portIdx p)) = g3 ∧ (d.port p).cxl2 = !g3 ∧ d.mem = s.dev.mem := by
  have effect : s.dev.trained p (.cxl g3 w r mld lo) = s.dev.trainedCxl p g3 mld lo w (if g3 then r else min 5 r) :=
    if_neg (formable width low high)
  have rate : (if g3 then r else min 5 r) < 16 := by split <;> omega
  obtain ⟨w_shown, r_shown⟩ := s.dev.trainedCxl_link p g3 mld lo (widthOk_small width) rate
  exact completes_trained opened up quiet effect (s.dev.trainedCxl_standing p g3 mld lo) ⟨s.dev.trainedCxl_state p g3 mld lo, w_shown, r_shown,
    s.dev.trainedCxl_version p g3 mld lo, s.dev.trainedCxl_mld p g3 mld lo, s.dev.trainedCxl_flit p g3 mld lo, s.dev.trainedCxl_port p g3 mld lo,
    s.dev.trainedCxl_mem p g3 mld lo⟩

theorem completes_trained_pcie {w r : Nat} (width : Machine.widthOk w = true) (low : 1 ≤ r) (high : r ≤ 6) :
    Completes (.linkTrainingComplete p (.pcieOnly w r)) s fun d => d.fld (Fld.prtLinkSts_state (portIdx p)) = 3 ∧
      d.fld (Fld.prtLinkSts_width (portIdx p)) = w ∧ d.fld (Fld.prtLinkSts_rate (portIdx p)) = r ∧ d.mem = s.dev.mem := by
  have effect : s.dev.trained p (.pcieOnly w r) = s.dev.trainedPcie p w r := if_neg (formable width low high)
  obtain ⟨state, w_shown, r_shown⟩ := s.dev.trainedPcie_link p (widthOk_small width) (show r < 16 by omega)
  exact completes_trained opened up quiet effect (s.dev.trainedPcie_standing p) ⟨state, w_shown, r_shown, s.dev.trainedPcie_mem p⟩

theorem completes_trained_not : Completes (.linkTrainingComplete p .noX4) s fun d =>
    d.fld (Fld.prtLinkSts_state (portIdx p)) = 1 ∧ d.mem = s.dev.mem := by
  have shown : (s.dev.trainedNot p).fld (Fld.prtLinkSts_state (portIdx p)) = 1 := by
    cases p <;> simp (disch := decide) only [Dev.trainedNot, Dev.raiseN_fld, Dev.fld_setFld_same] <;> rfl
  have mem : (s.dev.trainedNot p).mem = s.dev.mem := by simp [Dev.trainedNot]
  exact completes_trained opened up quiet (e := s.dev.trainedNot p) rfl (by simp [Dev.trainedNot]) ⟨shown, mem⟩

end

/-! ### Recovery and width changes (R332, R348) -/

/-- What Recovery counts, and the full width that it leaves. -/
def Dev.linkRecovered (d : Dev) (p : PortId) (w replayed : Nat) : Dev :=
  let n := portIdx p
  let d := (d.bump (Fld.prtRetryCnt_recov n) 1).bump (Fld.prtRetryCnt_replays n) replayed
  if w = d.fld (Fld.prtLinkSts_width n) then d
  else (d.modPort p fun s => { s with fullWidth := w }).setFlag (Fld.prtLinkSts_l0p n) false

theorem exec_linkRecovery (p : PortId) (w r n : Nat) (s : State) : exec (.linkRecovery p w r n) s = s.on fun d =>
    if d.linkUp p && Machine.widthOk w && r != 0 && r ≤ 6 then
      (d.linkRecovered p w n).setLink p w (if ((d.linkRecovered p w n).port p).cxl2 then min 5 r else r)
    else d := rfl

section
variable (d : Dev) (p : PortId) (w n : Nat)

theorem Dev.linkRecovered_standing : (d.linkRecovered p w n).standing = d.standing := by
  unfold Dev.linkRecovered
  dsimp only
  split <;> simp

theorem Dev.linkRecovered_mem : (d.linkRecovered p w n).mem = d.mem := by
  unfold Dev.linkRecovered
  dsimp only
  split <;> simp [Dev.modPort_mem]

theorem Dev.linkRecovered_cxl2 : ((d.linkRecovered p w n).port p).cxl2 = (d.port p).cxl2 := by
  unfold Dev.linkRecovered
  dsimp only
  split <;> simp only [Dev.bump, Dev.setFlag, Dev.setFld_port, Dev.port_modPort]

theorem Dev.linkRecovered_state : (d.linkRecovered p w n).fld (Fld.prtLinkSts_state (portIdx p)) = d.fld (Fld.prtLinkSts_state (portIdx p)) := by
  unfold Dev.linkRecovered
  dsimp only
  split <;> cases p <;> simp (disch := decide) only [Dev.bump, Dev.setFlag, Dev.fld_setFld_apart, Dev.modPort_fld]

theorem Dev.linkRecovered_recov : (d.linkRecovered p w n).fld (Fld.prtRetryCnt_recov (portIdx p)) =
    satN (Fld.prtRetryCnt_recov (portIdx p)).w (d.fld (Fld.prtRetryCnt_recov (portIdx p)) + 1) := by
  have counted : ((d.bump (Fld.prtRetryCnt_recov (portIdx p)) 1).bump (Fld.prtRetryCnt_replays (portIdx p)) n).fld (Fld.prtRetryCnt_recov (portIdx p)) =
      satN (Fld.prtRetryCnt_recov (portIdx p)).w (d.fld (Fld.prtRetryCnt_recov (portIdx p)) + 1) := by
    cases p <;> simp (disch := decide) only [Dev.bump, Dev.fld_setFld_apart, Dev.fld_setFld_same, satN_mod]
  rw [← counted]
  unfold Dev.linkRecovered
  dsimp only
  split
  · rfl
  · cases p <;> simp (disch := decide) only [Dev.setFlag, Dev.fld_setFld_apart, Dev.modPort_fld]

theorem Dev.linkRecovered_replays : (d.linkRecovered p w n).fld (Fld.prtRetryCnt_replays (portIdx p)) =
    satN (Fld.prtRetryCnt_replays (portIdx p)).w (d.fld (Fld.prtRetryCnt_replays (portIdx p)) + n) := by
  have counted : ((d.bump (Fld.prtRetryCnt_recov (portIdx p)) 1).bump (Fld.prtRetryCnt_replays (portIdx p)) n).fld (Fld.prtRetryCnt_replays (portIdx p)) =
      satN (Fld.prtRetryCnt_replays (portIdx p)).w (d.fld (Fld.prtRetryCnt_replays (portIdx p)) + n) := by
    cases p <;> simp (disch := decide) only [Dev.bump, Dev.fld_setFld_apart, Dev.fld_setFld_same, satN_mod]
  rw [← counted]
  unfold Dev.linkRecovered
  dsimp only
  split
  · rfl
  · cases p <;> simp (disch := decide) only [Dev.setFlag, Dev.fld_setFld_apart, Dev.modPort_fld]

end

/-- A register field that is no part of width and rate keeps its value when the link is set. -/
theorem Dev.setLink_keeps (d : Dev) (p : PortId) (w r : Nat) {f : Fld} (other : (Fld.prtLinkSts_width (portIdx p)).apart f = true ∧
    (Fld.prtLinkSts_rate (portIdx p)).apart f = true) : (d.setLink p w r).fld f = d.fld f :=
  d.setLink_fld_apart p w r other.1 other.2

theorem completes_recovered {s : State} {p : PortId} {w r n : Nat} (up : s.dev.linkUp p = true) (width : Machine.widthOk w = true) (low : 1 ≤ r)
    (high : r ≤ 6) (v3 : (s.dev.port p).cxl2 = false) : Completes (.linkRecovery p w r n) s fun d =>
      d.fld (Fld.prtLinkSts_width (portIdx p)) = w ∧ d.fld (Fld.prtLinkSts_rate (portIdx p)) = r ∧
      d.fld (Fld.prtLinkSts_state (portIdx p)) = s.dev.fld (Fld.prtLinkSts_state (portIdx p)) ∧ d.mem = s.dev.mem ∧
      d.fld (Fld.prtRetryCnt_recov (portIdx p)) = satN (Fld.prtRetryCnt_recov (portIdx p)).w (s.dev.fld (Fld.prtRetryCnt_recov (portIdx p)) + 1) ∧
      d.fld (Fld.prtRetryCnt_replays (portIdx p)) = satN (Fld.prtRetryCnt_replays (portIdx p)).w (s.dev.fld (Fld.prtRetryCnt_replays (portIdx p)) + n) := by
  have some_rate : r ≠ 0 := by omega
  have may : (s.dev.linkUp p && Machine.widthOk w && r != 0 && decide (r ≤ 6)) = true := by simp [up, width, some_rate, high]
  have old : ((s.dev.linkRecovered p w n).port p).cxl2 = false := (s.dev.linkRecovered_cxl2 p w n).trans v3
  have rate : (if ((s.dev.linkRecovered p w n).port p).cxl2 then min 5 r else r) = r := if_neg (by rw [old]; decide)
  have effect : (if (s.dev.linkUp p && Machine.widthOk w && r != 0 && decide (r ≤ 6)) = true then
      (s.dev.linkRecovered p w n).setLink p w (if ((s.dev.linkRecovered p w n).port p).cxl2 then min 5 r else r) else s.dev) =
      (s.dev.linkRecovered p w n).setLink p w r := (if_pos may).trans (by rw [rate])
  refine .of_standing (exec_linkRecovery p w r n s) effect (((s.dev.linkRecovered p w n).setLink_standing p w r).trans (s.dev.linkRecovered_standing p w n))
    ⟨Dev.setLink_width _ p w r (widthOk_small width), Dev.setLink_rate _ p w r (by omega), ?_, ?_, ?_, ?_⟩
  · exact (Dev.setLink_keeps _ p w r (by cases p <;> decide)).trans (s.dev.linkRecovered_state p w n)
  · exact (Dev.setLink_mem _ p w r).trans (s.dev.linkRecovered_mem p w n)
  · exact (Dev.setLink_keeps _ p w r (by cases p <;> decide)).trans (s.dev.linkRecovered_recov p w n)
  · exact (Dev.setLink_keeps _ p w r (by cases p <;> decide)).trans (s.dev.linkRecovered_replays p w n)

theorem exec_l0pWidthChange (p : PortId) (w : Nat) (s : State) : exec (.l0pWidthChange p w) s = s.on fun d =>
    if d.linkUp p && Machine.widthOk w && w ≤ (d.port p).fullWidth then
      (d.setLink p w (d.fld (Fld.prtLinkSts_rate (portIdx p)))).setFlag (Fld.prtLinkSts_l0p (portIdx p)) (decide (w < (d.port p).fullWidth))
    else d := rfl

theorem completes_l0p {s : State} {p : PortId} {w : Nat} (up : s.dev.linkUp p = true) (width : Machine.widthOk w = true)
    (full : w ≤ (s.dev.port p).fullWidth) : Completes (.l0pWidthChange p w) s fun d => d.fld (Fld.prtLinkSts_width (portIdx p)) = w ∧
      d.flag (Fld.prtLinkSts_l0p (portIdx p)) = decide (w < (s.dev.port p).fullWidth) ∧
      d.fld (Fld.prtLinkSts_rate (portIdx p)) = s.dev.fld (Fld.prtLinkSts_rate (portIdx p)) ∧ d.mem = s.dev.mem := by
  have may : (s.dev.linkUp p && Machine.widthOk w && decide (w ≤ (s.dev.port p).fullWidth)) = true := by simp [up, width, full]
  have rate : s.dev.fld (Fld.prtLinkSts_rate (portIdx p)) < 16 := Nat.mod_lt _ (by decide : 0 < 2 ^ 4)
  refine .of_standing (exec_l0pWidthChange p w s) (if_pos may) (by simp) ⟨?_, ?_, ?_, ?_⟩
  · exact (Dev.fld_setFld_apart _ _ _ _ (by cases p <;> decide)).trans (Dev.setLink_width _ p w _ (widthOk_small width))
  · exact Dev.flag_setFlag_same _ _ _ (by cases p <;> decide) rfl
  · exact (Dev.fld_setFld_apart _ _ _ _ (by cases p <;> decide)).trans (Dev.setLink_rate _ p w _ rate)
  · exact (Dev.setFlag_mem _ _ _).trans (Dev.setLink_mem _ p w _)

/-! ### IDE streams (R345, R346) -/

theorem exec_ideKm (p : PortId) (stream : IdeStream) (keys : Bool) (s : State) : exec (.ideKm p stream keys) s = s.on fun d =>
    if d.linkUp p then d.setStream p stream (if keys then 1 else 0) else d := rfl

section
variable (d : Dev) (p : PortId)

/-- A stream that does not become insecure leaves the list of the insecure ones. -/
theorem Dev.setStream_insecure (stream : IdeStream) (k : Bool) : stream ∉ ((d.setStream p stream (if k then 1 else 0)).port p).insecure := by
  have listed : ((d.setStream p stream (if k then 1 else 0)).port p).insecure = (d.port p).insecure.filter fun x => x != stream := by
    cases stream <;> cases k <;>
      simp only [Dev.setStream, Dev.setBit, Dev.setFld_port, Dev.port_modPort, Bool.false_eq_true, if_false, if_true, List.append_nil, OfNat.one_ne_ofNat,
        OfNat.zero_ne_ofNat]
  rw [listed]
  simp

theorem Dev.setStream_mem (stream : IdeStream) (v : Nat) : (d.setStream p stream v).mem = d.mem := by cases stream <;> rfl

end

theorem completes_ideKm {s : State} {p : PortId} {stream : IdeStream} {k : Bool} {P : Dev → Prop} (up : s.dev.linkUp p = true)
    (shown : P (s.dev.setStream p stream (if k then 1 else 0))) :
    Completes (.ideKm p stream k) s fun d => P d ∧ stream ∉ (d.port p).insecure ∧ d.mem = s.dev.mem :=
  .of_standing (exec_ideKm p stream k s) (if_pos up) (Dev.setStream_standing _ _ _ _)
    ⟨shown, s.dev.setStream_insecure p stream k, s.dev.setStream_mem p stream _⟩

/-! ### Viral (R347) -/

section
variable (d : Dev) (opc : Nat) (slot : BitVec 128)

/-- What the head tells its members leaves all alone but what sending itself changes. -/
theorem Dev.tellMembers_keeps {α : Type} (proj : Dev → α) (kept : ∀ (d : Dev) (m : RelayMsg) (l : List (BitVec 128)), proj (d.sendDown m opc l) = proj d) :
    proj (d.tellMembers opc slot) = proj d := by
  unfold Dev.tellMembers
  split
  · exact foldl_keeps proj _ _ d fun d _ => kept d _ _
  · rfl

theorem Dev.sendDown_standing (m : RelayMsg) (l : List (BitVec 128)) : (d.sendDown m opc l).standing = d.standing := by
  simp only [Dev.standing, Dev.sendDown_part, Dev.sendDown_fuses, Dev.sendDown_mode]

end

/-- A port that viral containment will take at the next boundary. -/
def Dev.viralNoted (d : Dev) (p : PortId) : Dev := (d.modPort p fun s => { s with viralDue := true }).raiseN 0x193 []

theorem exec_viralReceived (p : PortId) (s : State) : exec (.viralReceived p) s = s.on fun d =>
    if d.linkUp p && !d.flag (Fld.prtViralSts_rx (portIdx p)) && !(d.port p).viralDue then (d.viralNoted p).tellMembers 0x66 (BitVec.ofNat 128 (portIdx p))
    else d := rfl

theorem completes_viral {s : State} {p : PortId} (up : s.dev.linkUp p = true) (clear : s.dev.flag (Fld.prtViralSts_rx (portIdx p)) = false)
    (idle : (s.dev.port p).viralDue = false) : Completes (.viralReceived p) s fun d => (d.port p).viralDue = true ∧
      d.flag (Fld.prtViralSts_rx (portIdx p)) = false ∧ d.mode = s.dev.mode ∧ d.mem = s.dev.mem := by
  have may : (s.dev.linkUp p && !s.dev.flag (Fld.prtViralSts_rx (portIdx p)) && !(s.dev.port p).viralDue) = true := by simp [up, clear, idle]
  have tells := fun {α : Type} (proj : Dev → α) => (s.dev.viralNoted p).tellMembers_keeps 0x66 (BitVec.ofNat 128 (portIdx p)) proj
  refine .of_standing (exec_viralReceived p s) (if_pos may) ?_ ⟨?_, ?_, ?_, ?_⟩
  · exact (tells Dev.standing fun d m l => d.sendDown_standing 0x66 m l).trans (by simp [Dev.viralNoted])
  · have ports := (tells Dev.ports fun d m l => d.sendDown_ports m 0x66 l).trans (Dev.raiseN_ports _ _ _)
    rw [Dev.port_of_ports ports, Dev.port_modPort]
  · have rx : ((s.dev.viralNoted p).tellMembers 0x66 (BitVec.ofNat 128 (portIdx p))).flag (Fld.prtViralSts_rx (portIdx p)) =
        (s.dev.viralNoted p).flag (Fld.prtViralSts_rx (portIdx p)) := tells (fun d => d.flag (Fld.prtViralSts_rx (portIdx p))) fun d m l => by
      rw [Dev.flag, Dev.flag, Dev.fld, Dev.fld, Dev.sendDown_reg _ _ _ _ _ (by cases p <;> decide)]
    have noted : (s.dev.viralNoted p).flag (Fld.prtViralSts_rx (portIdx p)) = s.dev.flag (Fld.prtViralSts_rx (portIdx p)) :=
      Dev.raise_flag _ _ _ (by cases p <;> decide)
    exact (rx.trans noted).trans clear
  · exact (tells Dev.mode fun d m l => d.sendDown_mode m 0x66 l).trans (Dev.raiseN_mode _ _ _)
  · exact (tells Dev.mem fun d m l => d.sendDown_mem m 0x66 l).trans (Dev.raiseN_mem _ _ _)

/-! ### Decoder commits (R338) -/

/-- A decoder of an LD waits for the boundary. -/
def LdState.decoderQueued (l : LdState) (i : Fin 8) (c : HdmCfg) : LdState :=
  { l with decError := l.decError &&& ~~~(BitVec.ofNat 8 (2 ^ i.val)), decPend := l.decPend.filter (·.1 != i) ++ [(i, c)] }

/-- The error of the queued decoder is cleared. -/
theorem decError_bit (e : BitVec 8) (i : Fin 8) (j : Nat) (small : j < 8) :
    (e &&& ~~~(BitVec.ofNat 8 (2 ^ i.val))).getLsbD j = (e.getLsbD j && !decide (j = i.val)) := by
  have bit : (BitVec.ofNat 8 (2 ^ i.val)).getLsbD j = decide (j = i.val) := by
    rw [BitVec.getLsbD_ofNat, decide_eq_true small, Bool.true_and, Nat.testBit_two_pow]
    exact decide_eq_decide.mpr eq_comm
  rw [BitVec.getLsbD_and, BitVec.getLsbD_not, decide_eq_true small, bit, Bool.true_and]

theorem completes_decoderCommit {s : State} {p : PortId} {ld : Nat} (i : Fin 8) (c : HdmCfg) (live : s.dev.live = true) (fill : s.dev.mode ≠ .fill)
    (boot : s.dev.mode ≠ .boot) (host : s.dev.hostPort p = true) (cxl : s.dev.fld (Fld.prtLinkSts_state (portIdx p)) = 2) (small : ld < 16) :
    Completes (.hdmDecoderCommit p ld i c) s fun d => (d.ldOf p ld).decPend = (s.dev.ldOf p ld).decPend.filter (·.1 != i) ++ [(i, c)] ∧
      (d.ldOf p ld).dec = (s.dev.ldOf p ld).dec ∧ (d.ldOf p ld).decError.getLsbD i.val = false ∧
      (∀ j ∈ List.range 8, j ≠ i.val → (d.ldOf p ld).decError.getLsbD j = (s.dev.ldOf p ld).decError.getLsbD j) ∧
      d.regs = s.dev.regs ∧ d.mem = s.dev.mem := by
  have may : (s.dev.live && s.dev.mode != .fill && s.dev.mode != .boot && s.dev.hostPort p && s.dev.fld (Fld.prtLinkSts_state (portIdx p)) == 2) = true := by
    simp [live, fill, boot, host, cxl]
  have queued := s.dev.ldOf_modLd p small fun l => l.decoderQueued i c
  refine .of_standing (e := s.dev.modLd p ld fun l => l.decoderQueued i c) (rfl : execHdmDecoderCommit p ld i c s = s.on _) (if_pos may)
    (Dev.modLd_standing _ _ _ _) ?_
  rw [queued, Dev.modLd_regs, Dev.modLd_mem]
  refine ⟨rfl, rfl, ?_, fun j inside other => ?_, rfl, rfl⟩
  · exact (decError_bit _ i i.val i.isLt).trans (by simp)
  · exact (decError_bit _ i j (List.mem_range.mp inside)).trans (by simp [other])

/-- Settles O40: each event of a host link, by its own lemma. -/
theorem linksTrainAndCarryTheirModes : Obligations.LinksTrainAndCarryTheirModes := by
  unfold Obligations.LinksTrainAndCarryTheirModes
  refine ⟨fun s p g3 w r mld lo opened up quiet => completes_trained_cxl opened up quiet g3 mld lo,
    fun s p w r opened up quiet => completes_trained_pcie opened up quiet, fun s p => completes_trained_not, fun s p w r n => completes_recovered,
    fun s p w => completes_l0p, fun s p k up => completes_ideKm up ?cxl, fun s p k up => completes_ideKm up ?link, fun s p n k up => completes_ideKm up ?sel,
    fun s p => completes_viral, fun s p ld i c => completes_decoderCommit i c⟩
  case cxl => exact (Dev.fld_setFld_same _ _ _ (by cases p <;> decide)).trans (by cases k <;> rfl)
  case link => exact (Dev.fld_setFld_same _ _ _ (by cases p <;> decide)).trans (by cases k <;> rfl)
  case sel => exact (Dev.testBit_setBit _ _ (by cases p <;> decide) n.isLt).trans (by cases k <;> rfl)

end Sys2Proof.Machine


/-! SUPPORT. What inlet, pin, heat, posting, register and security commands leave alone (O55, O56), in the terms of `Dev.media`. -/

namespace Sys2Proof.Machine

section
variable (d : Dev)

/-! ### The parts of a device that hold no media -/

@[simp] theorem Dev.regs_media (x : Sparse Word) : ({ d with regs := x } : Dev).media = d.media := rfl
@[simp] theorem Dev.stg_media (x : Staging) : ({ d with stg := x } : Dev).media = d.media := rfl
@[simp] theorem Dev.pwr_media (x : Power) : ({ d with pwr := x } : Dev).media = d.media := rfl
@[simp] theorem Dev.can_media (x : Canister) : ({ d with can := x } : Dev).media = d.media := rfl
@[simp] theorem Dev.thm_media (x : Thermal) : ({ d with thm := x } : Dev).media = d.media := rfl
@[simp] theorem Dev.due_media (x : Due) : ({ d with due := x } : Dev).media = d.media := rfl
@[simp] theorem Dev.sec_media (x : Secure) : ({ d with sec := x } : Dev).media = d.media := rfl
@[simp] theorem Dev.fuses_media (x : Fuses) : ({ d with fuses := x } : Dev).media = d.media := rfl
@[simp] theorem Dev.ras_media (x : Ras) : ({ d with ras := x } : Dev).media = d.media := rfl
@[simp] theorem Dev.signQ_media (x : List (Transport × Nat)) : ({ d with signQ := x } : Dev).media = d.media := rfl

/-! ### Inlet, supplies and start -/

@[simp] theorem Dev.setInlet_media (i : Inlet) : (d.setInlet i).media = d.media := rfl
@[simp] theorem Dev.modRecord_media (f : InletRec → InletRec) : (d.modRecord f).media = d.media := rfl
@[simp] theorem Dev.atBoot_media (num : Nat) (detail : List Word) : (d.atBoot num detail).media = d.media := rfl
@[simp] theorem Dev.setFails_media (n : Nat) : (d.setFails n).media = d.media := rfl
@[simp] theorem Dev.measure_media (m : InletMeas) : (d.measure m).media = d.media := rfl
@[simp] theorem Dev.attempt_media : d.attempt.media = d.media := rfl
@[simp] theorem Dev.setRoles_media (mode : Nat) : (d.setRoles mode).media = d.media := rfl
@[simp] theorem Dev.alert_media (bit : Nat) : (d.alert bit).media = d.media := by
  unfold Dev.alert
  split <;> rfl
@[simp] theorem Dev.keyFail_media (cause off : Nat) : (d.keyFail cause off).media = d.media := rfl
@[simp] theorem Dev.setArmed_media (src : Source) (a : Option Armed) : (d.setArmed src a).media = d.media := rfl

@[simp] theorem Dev.raiseOrKeep_media (num : Nat) (detail : List Word) : (d.raiseOrKeep num detail).media = d.media := by
  unfold Dev.raiseOrKeep
  split
  · rfl
  · simp

theorem Dev.fetShown_media (m : InletMeas) : (d.fetShown m).media = d.media := by
  unfold Dev.fetShown
  generalize decide (d.fld Fld.inlFet_tmax ≤ d.fetTemp m + 20) = hot
  dsimp only
  split
  · rw [Dev.raiseOrKeep_media, Dev.pwr_media]
  · rw [Dev.pwr_media]

@[simp] theorem Dev.fetModelled_media (t : Nat) (m : InletMeas) : (d.fetModelled t m).media = d.media := by
  rw [Dev.fetModelled, Dev.fetShown_media, Dev.measure_media, Dev.pwr_media]

@[simp] theorem Dev.tryStart_media : d.tryStart.media = d.media := by
  unfold Dev.tryStart
  split <;> rfl

@[simp] theorem Dev.afterFail_media (fails : Nat) : (d.afterFail fails).media = d.media := by
  unfold Dev.afterFail
  split <;> rfl

@[simp] theorem Dev.post_media (off : Nat) (value : Word) : (d.post off value).media = d.media := by
  unfold Dev.post
  split
  · rfl
  · split <;> rfl

@[simp] theorem Dev.uncap_media : d.uncap.media = d.media := by
  unfold Dev.uncap
  rw [Dev.floorMoved_media, Dev.raiseOrKeep_media]
  rfl

theorem Dev.edgePowerCapSample_media (deciWatts : Nat) : (d.edgePowerCapSample deciWatts).media = d.media := by
  unfold Dev.edgePowerCapSample
  dsimp only
  split
  · split
    · split
      · rw [Dev.uncap_media]; rfl
      · rfl
    · split
      · rw [Dev.floorMoved_media, Dev.raiseN_media]; rfl
      · split <;> rfl
  · rfl

theorem Dev.edgePowerCapRelease_media : d.edgePowerCapRelease.media = d.media := by
  unfold Dev.edgePowerCapRelease
  split
  · split
    · exact d.uncap_media
    · rfl
  · rfl

/-! ### Temperature -/

theorem Dev.edgeThermalHoldEnd_media : d.edgeThermalHoldEnd.media = d.media := by
  unfold Dev.edgeThermalHoldEnd
  split
  · split
    · exact Dev.raiseN_media _ _ _
    · rfl
  · rfl

theorem Dev.edgeThermalWakeCountExpiry_media : d.edgeThermalWakeCountExpiry.media = d.media := by
  unfold Dev.edgeThermalWakeCountExpiry
  split
  · split <;> rfl
  · rfl

@[simp] theorem Dev.failSensors_media (die : Bool) (n : Nat) (l : List Reading) : (d.failSensors die n l).media = d.media := by
  refine foldl_keeps Dev.media _ _ d fun d i => ?_
  cases die
  case false => cases known : d.thm.stackFail.has i <;> simp [known]
  case true => cases known : d.thm.dieFail.has i <;> simp [known]

@[simp] theorem Dev.thermalRelease_media (f : Fld) (held : Option Nat) (pours : Nat) (keep : Bool) :
    (d.thermalRelease f held pours keep).media = d.media := by
  unfold Dev.thermalRelease
  split
  · split
    · simp
    · rfl
  · rfl

@[simp] theorem Dev.recentreFail_media (c : Nat) : (d.recentreFail c).media = d.media := by
  unfold Dev.recentreFail
  simp

/-! ### Keyed pairs -/

/-- What a completed pair does keeps the media; so the KEY write does, refusals included. -/
theorem Dev.keyWrite_media (src : Source) (off : Nat) (key : Word) {act : Word → Dev → Option Dev}
    (kept : ∀ v e e', act v e = some e' → e'.media = e.media) : (d.keyWrite src off key act).media = d.media := by
  unfold Dev.keyWrite
  split
  · split
    · dsimp only
      split
      · rfl
      · split
        · rfl
        · split
          · next taken => exact kept _ (d.setArmed src none) _ taken
          · rfl
    · rfl
  · rfl

theorem inletClear_media (v : Word) (e e' : Dev) (taken : inletClear v e = some e') : e'.media = e.media := by
  unfold inletClear at taken
  split at taken
  · cases taken
  · split at taken
    · cases taken
    · cases taken
      split
      · rw [Dev.pwr_media, Dev.raiseOrKeep_media, Dev.modRecord_media, Dev.setFails_media, Dev.setReg_media]
      · rw [Dev.raiseOrKeep_media, Dev.modRecord_media, Dev.setFails_media, Dev.setReg_media]

theorem sealAct_media (v : Word) (e e' : Dev) (taken : sealAct v e = some e') : e'.media = e.media := by
  unfold sealAct at taken
  dsimp only at taken
  split at taken
  · cases taken
  · split at taken <;> cases taken <;> rfl

theorem lcAct_media (v : Word) (e e' : Dev) (taken : lcAct v e = some e') : e'.media = e.media := by
  unfold lcAct at taken
  split at taken
  · split at taken <;> cases taken
    rfl
  · cases taken

theorem eraseAct_media (v : Word) (e e' : Dev) (taken : eraseAct v e = some e') : e'.media = e.media := by
  unfold eraseAct at taken
  split at taken <;> cases taken
  rfl

@[simp] theorem Dev.wakeAll_media (pours : Nat) : (d.wakeAll pours).media = d.media :=
  foldl_keeps Dev.media _ _ d fun d c => by split <;> rfl

@[simp] theorem Dev.askRekey_media (rate : Nat) : (d.askRekey rate).media = d.media := by
  unfold Dev.askRekey
  split
  · rfl
  · exact Dev.wakeAll_media _ _

theorem rekeyAct_media (v : Word) (e e' : Dev) (taken : rekeyAct v e = some e') : e'.media = e.media := by
  unfold rekeyAct at taken
  dsimp only at taken
  split at taken
  · cases taken
  · split at taken
    · cases taken
      exact e.askRekey_media _
    · split at taken <;> cases taken <;> rfl

@[simp] theorem Dev.arm_media (src : Source) (off : Nat) (value : Word) : (d.arm src off value).media = d.media := by
  unfold Dev.arm
  rw [Dev.setArmed_media]
  split <;> rfl

@[simp] theorem Dev.rekeyKey_media (src : Source) (key : Word) : (d.rekeyKey src key).media = d.media := by
  unfold Dev.rekeyKey
  have kept := d.keyWrite_media src Off.cryRekeyCtl key rekeyAct_media
  dsimp only
  split
  · split <;> exact kept
  · exact kept

/-! ### Staged writes -/

@[simp] theorem Dev.pendWrite_media (o : Nat) (v : Word) : (d.pendWrite o v).media = d.media := rfl
@[simp] theorem Dev.staged_media (i : Iface) : (d.staged i).media = d.media := by
  simp only [Dev.staged, Dev.syncStaging, Dev.ownStaging, Dev.setFlag_media, Dev.setFld_media, Dev.stg_media]

@[simp] theorem Dev.stageWrite_media (src : Source) (o : Nat) (v : Word) : (d.stageWrite src o v).media = d.media := by
  unfold Dev.stageWrite
  split
  · rfl
  · split
    · rfl
    · split
      · rfl
      · rw [Dev.staged_media, Dev.pendWrite_media]

/-! ### Reads and their effects -/

@[simp] theorem Dev.readClear_media (o : Nat) (returned : Word) : (d.readClear o returned).media = d.media := by
  unfold Dev.readClear
  dsimp only
  split
  · rfl
  · split
    · rfl
    · split
      · rfl
      · split <;> rfl

@[simp] theorem Dev.readWord_media (o : Nat) (be : BitVec 4) : (d.readWord o be).2.media = d.media := by
  unfold Dev.readWord
  dsimp only
  split
  · split <;> rfl
  · split
    · rfl
    · split
      · rfl
      · split
        · rfl
        · split
          · rfl
          · exact d.readClear_media _ _

@[simp] theorem Dev.indStep_media (src : Source) : (d.indStep src).media = d.media := by
  unfold Dev.indStep
  dsimp only
  split <;> rfl

@[simp] theorem Dev.busRead_media (src : Source) (o : Nat) (be : BitVec 4) : (d.busRead src o be).2.media = d.media := by
  unfold Dev.busRead
  dsimp only
  split
  · rfl
  · split
    · simp
    · simp

@[simp] theorem Dev.readOut_media (src : Source) (o : Nat) (be : BitVec 4) : (d.readOut src o be).media = d.media := by
  unfold Dev.readOut
  split
  · exact d.busRead_media src o be
  · rfl

@[simp] theorem Dev.mgmtReads_media (n : Nat) : ∀ (d : Dev) (off : Nat), (d.mgmtReads off n).2.media = d.media := by
  induction n with
  | zero => exact fun _ _ => rfl
  | succ n ih => exact fun d off => (ih _ _).trans (d.busRead_media .mctp off 15)

@[simp] theorem Dev.mgmtLocked_media (st off : Nat) : (d.mgmtLocked st off).media = d.media := by
  unfold Dev.mgmtLocked
  split <;> rfl

/-! ### The seal, the Canister, the fuses -/

@[simp] theorem Dev.askReference_media : d.askReference.media = d.media := by
  unfold Dev.askReference
  split <;> rfl

theorem Dev.edgeSealScanStart_media : d.edgeSealScanStart.media = d.media := by
  unfold Dev.edgeSealScanStart
  split <;> rfl

@[simp] theorem Dev.syncCanister_media : d.syncCanister.media = d.media := by
  unfold Dev.syncCanister
  dsimp only
  split
  · split <;> simp only [Dev.setFld_media, Dev.setFlag_media]
  · simp only [Dev.setFld_media, Dev.setFlag_media]

@[simp] theorem Dev.syncLog_media : d.syncLog.media = d.media := rfl

@[simp] theorem Dev.eraseAreas_media (area : Nat) : (d.eraseAreas area).media = d.media := by
  unfold Dev.eraseAreas
  rw [Dev.syncLog_media, Dev.syncCanister_media]
  split <;> split <;> rfl

@[simp] theorem Dev.syncRepairs_media : d.syncRepairs.media = d.media :=
  foldl_keeps Dev.media _ _ _ fun _ _ => rfl

theorem Dev.edgeSubkeyDerivationDone_media : d.edgeSubkeyDerivationDone.media = d.media := by
  unfold Dev.edgeSubkeyDerivationDone
  split
  · split <;> rfl
  · rfl

/-! ### SPDM -/

@[simp] theorem Dev.spdmError_media (tr : Transport) (l : List Nat) : (d.spdmError tr l).media = d.media := rfl
@[simp] theorem Dev.modConn_media (tr : Transport) (f : SpdmConn → SpdmConn) : (d.modConn tr f).media = d.media := rfl

@[simp] theorem Dev.askSignature_media (tr : Transport) (code : Nat) : (d.askSignature tr code).media = d.media := by
  unfold Dev.askSignature
  split
  · rfl
  · dsimp only
    split <;> rfl

end

/-- A KEY write whose register its source reaches, or one that changes nothing. -/
theorem Completes.media_kept_key {c : Instr} {s : State} (src : Source) (off : Nat) (key : Word) {act : Word → Dev → Option Dev}
    (hc : exec c s = s.on fun d => if d.canAccess src off then d.keyWrite src off key act else d)
    (kept : ∀ v e e', act v e = some e' → e'.media = e.media) : Completes c s fun d => MediaKept d s.dev :=
  .media_kept hc (by
    split
    · exact s.dev.keyWrite_media src off key kept
    · rfl)

section
variable (s : State)

/-! ### Pins, inlet and heat, command by command -/

theorem vauxStart_keeps_media (smbAddr : BitVec 2) (prsntHigh perstLow : Bool) :
    Completes (.vauxStart smbAddr prsntHigh perstLow) s fun d => MediaKept d s.dev := by
  refine .media_kept (rfl : execVauxStart smbAddr prsntHigh perstLow s = s.on _) ?_
  split
  · rfl
  · extract_lets r power reset configured fets railed power modelled fails cause counted booted
    have configured_media : configured.media = s.dev.media := by
      simp only [configured]
      split <;> rfl
    clear_value configured
    have fets_media : fets.media = s.dev.media := by
      rw [← configured_media]
      simp only [fets]
      split <;> rfl
    clear_value fets
    have counted_media : counted.media = s.dev.media := (Dev.setFails_media _ _).trans fets_media
    clear_value counted
    have booted_media : booted.media = s.dev.media := by
      simp only [booted, apply_ite Dev.media, Dev.atBoot_media, Dev.alert_media, Dev.modRecord_media, counted_media, ite_self]
    clear_value booted
    split
    · exact booted_media
    · split
      · exact (Dev.afterFail_media _ _).trans booted_media
      · exact booted_media

theorem powerGood_keeps_media : Completes .powerGood s fun d => MediaKept d s.dev := by
  refine .media_kept (rfl : execPowerGood s = s.on _) ?_
  split
  · simp
  · rfl

theorem prsntNLow_keeps_media : Completes .prsntNLow s fun d => MediaKept d s.dev := by
  refine .media_kept (rfl : execPrsntNLow s = s.on _) ?_
  simp [apply_ite Dev.media]

theorem thermtripRelease_keeps_media (a b : Int) : Completes (.thermtripRelease a b) s fun d => MediaKept d s.dev := by
  refine .media_kept (rfl : execThermtripRelease a b s = s.on _) ?_
  dsimp only
  split
  · split <;> rfl
  · rfl

theorem glitchResetRelease_keeps_media : Completes .glitchResetRelease s fun d => MediaKept d s.dev := by
  refine .media_kept (rfl : execGlitchResetRelease s = s.on _) ?_
  simp [apply_ite Dev.media]

theorem prechargeComplete_keeps_media (m : InletMeas) : Completes (.prechargeComplete m) s fun d => MediaKept d s.dev := by
  refine .media_kept (rfl : execPrechargeComplete m s = s.on _) ?_
  simp [apply_ite Dev.media]

theorem rampComplete_keeps_media (m : InletMeas) : Completes (.rampComplete m) s fun d => MediaKept d s.dev := by
  refine .media_kept (rfl : execRampComplete m s = s.on _) ?_
  simp [apply_ite Dev.media]

theorem retryWaitExpiry_keeps_media : Completes .retryWaitExpiry s fun d => MediaKept d s.dev := by
  refine .media_kept (rfl : execRetryWaitExpiry s = s.on _) ?_
  simp [apply_ite Dev.media]

theorem failsClearTimeout_keeps_media : Completes .failsClearTimeout s fun d => MediaKept d s.dev := by
  refine .media_kept (rfl : execFailsClearTimeout s = s.on _) ?_
  simp [apply_ite Dev.media]

theorem clearDelayExpiry_keeps_media : Completes .clearDelayExpiry s fun d => MediaKept d s.dev := by
  refine .media_kept (rfl : execClearDelayExpiry s = s.on _) ?_
  simp [apply_ite Dev.media]

theorem fetModelUpdate_keeps_media (m : InletMeas) : Completes (.fetModelUpdate m) s fun d => MediaKept d s.dev := by
  refine .media_kept (exec_fetModelUpdate m s) ?_
  split
  · split
    · exact Dev.fetModelled_media _ _ _
    · exact Dev.fetModelled_media _ _ _
  · rfl

theorem postedWrite_keeps_media (src : Source) (off : Nat) (value : Word) :
    Completes (.postedWrite src off value) s fun d => MediaKept d s.dev := by
  refine .media_kept (rfl : execPostedWrite src off value s = s.on _) ?_
  simp [apply_ite Dev.media]

theorem postingComplete_keeps_media (off : Nat) : Completes (.postingComplete off) s fun d => MediaKept d s.dev := by
  refine .media_kept (rfl : execPostingComplete off s = s.on _) ?_
  split
  · rfl
  · dsimp only
    split
    · split
      · rfl
      · split <;> rfl
    · split <;> rfl

theorem temperatureSample_keeps_media (stack die : List Reading) : Completes (.temperatureSample stack die) s fun d => MediaKept d s.dev := by
  refine .media_kept (rfl : execTemperatureSample stack die s = s.on _) ?_
  dsimp only
  split
  · rfl
  · have failed : ((s.dev.failSensors false s.dev.dies stack).failSensors true 12 die).media = s.dev.media := by simp
    generalize (s.dev.failSensors false s.dev.dies stack).failSensors true 12 die = e at failed ⊢
    rw [Dev.setFld_media, Dev.setFld_media]
    split <;> exact failed

theorem mr4Reading_keeps_media (ch : FarCh) (ranks : List Mr4) : Completes (.mr4Reading ch ranks) s fun d => MediaKept d s.dev := by
  refine .media_kept (rfl : execMr4Reading ch ranks s = s.on _) ?_
  simp [apply_ite Dev.media]

theorem dqsOscillatorReading_keeps_media (ch : FarCh) (drifts : List Nat) :
    Completes (.dqsOscillatorReading ch drifts) s fun d => MediaKept d s.dev := by
  refine .media_kept (rfl : execDqsOscillatorReading ch drifts s = s.on _) ?_
  simp [apply_ite Dev.media]

theorem recentringFail_keeps_media (ch : FarCh) : Completes (.recentringFail ch) s fun d => MediaKept d s.dev := by
  refine .media_kept (rfl : execRecentringFail ch s = s.on _) ?_
  simp [apply_ite Dev.media]

end

/-- Settles O55, clause by clause: what each event does lies in registers, records, the inlet, the temperatures and the far channels. -/
theorem pinPowerAndHeatEventsKeepTheMedia : Obligations.PinPowerAndHeatEventsKeepTheMedia := by
  unfold Obligations.PinPowerAndHeatEventsKeepTheMedia
  refine ⟨vauxStart_keeps_media, powerGood_keeps_media, ?deassert, prsntNLow_keeps_media, thermtripRelease_keeps_media,
    glitchResetRelease_keeps_media, prechargeComplete_keeps_media, rampComplete_keeps_media, retryWaitExpiry_keeps_media,
    failsClearTimeout_keeps_media, fetModelUpdate_keeps_media, ?clear, clearDelayExpiry_keeps_media, ?capSample, ?capRelease,
    postedWrite_keeps_media, postingComplete_keeps_media, ?holdEnd, ?wakeCount, temperatureSample_keeps_media, ?refresh, ?stack, ?die,
    mr4Reading_keeps_media, dqsOscillatorReading_keeps_media, recentringFail_keeps_media⟩
  case deassert => exact fun s straps => .media_kept (rfl : execPerstANDeassert straps s = s.on _) (Dev.tryStart_media _)
  case clear => exact fun s src key => .media_kept_key src Off.inlClear key (rfl : execInlClear src key s = s.on _) inletClear_media
  case capSample => exact fun s w boundary => .media_kept_atEdge rfl boundary (s.dev.edgePowerCapSample_media w)
  case capRelease => exact fun s boundary => .media_kept_atEdge rfl boundary s.dev.edgePowerCapRelease_media
  case holdEnd => exact fun s boundary => .media_kept_atEdge rfl boundary s.dev.edgeThermalHoldEnd_media
  case wakeCount => exact fun s boundary => .media_kept_atEdge rfl boundary s.dev.edgeThermalWakeCountExpiry_media
  case refresh => exact fun s boundary => .media_kept_atEdge rfl boundary (s.dev.thermalRelease_media _ _ _ _)
  case stack => exact fun s boundary => .media_kept_atEdge rfl boundary (s.dev.thermalRelease_media _ _ _ _)
  case die => exact fun s boundary => .media_kept_atEdge rfl boundary (s.dev.thermalRelease_media _ _ _ _)

end Sys2Proof.Machine


/-! SUPPORT. Register and security commands leave contents and requests alone (O56). -/

namespace Sys2Proof.Machine

section
variable (s : State)

theorem stagedRegisterWrite_keeps_media (src : Source) (off : Nat) (value : Word) :
    Completes (.stagedRegisterWrite src off value) s fun d => MediaKept d s.dev := by
  refine .media_kept (rfl : execStagedRegisterWrite src off value s = s.on _) ?_
  split
  · exact Dev.stageWrite_media _ _ _ _
  · rfl

theorem keyedValueWrite_keeps_media (src : Source) (off : Nat) (value : Word) :
    Completes (.keyedValueWrite src off value) s fun d => MediaKept d s.dev := by
  refine .media_kept (rfl : execKeyedValueWrite src off value s = s.on _) ?_
  split
  · exact Dev.arm_media _ _ _ _
  · rfl

theorem keyedPairTimeout_keeps_media (src : Source) : Completes (.keyedPairTimeout src) s fun d => MediaKept d s.dev := by
  refine .media_kept (rfl : execKeyedPairTimeout src s = s.on _) ?_
  split
  · split <;> rfl
  · rfl

theorem cryRekeyCtl_keeps_media (src : Source) (key : Word) : Completes (.cryRekeyCtl src key) s fun d => MediaKept d s.dev := by
  refine .media_kept (rfl : execCryRekeyCtl src key s = s.on _) ?_
  split
  · exact Dev.rekeyKey_media _ _ _
  · rfl

/-! ### The seal, the lifecycle and the fuses -/

theorem sealCommit_keeps_media (src : Source) : Completes (.sealCommit src) s fun d => MediaKept d s.dev := by
  refine .media_kept (rfl : execSealCommit src s = s.on _) ?_
  split
  · exact Dev.askReference_media _
  · rfl

theorem sealReferenceScanComplete_keeps_media : Completes .sealReferenceScanComplete s fun d => MediaKept d s.dev := by
  refine .media_kept (rfl : execSealReferenceScanComplete s = s.on _) ?_
  split
  · split
    · generalize s.dev.configCrc = crc
      rw [Dev.setReg_media, Dev.setReg_media, Dev.setFlag_media, Dev.setFlag_media]
      rfl
    · rfl
  · rfl

/-- A burn sets fuse bits and clears keys or areas of the Canister, as the new state asks (R451 to R453). -/
theorem lifecycleBurnComplete_keeps_media : Completes .lifecycleBurnComplete s fun d => MediaKept d s.dev := by
  refine .media_kept (rfl : execLifecycleBurnComplete s = s.on _) ?_
  split
  · split
    · extract_lets old sec fuses can burnt raised
      have kept : raised.media = s.dev.media := Dev.raiseN_media _ _ _
      clear_value raised
      split
      · exact kept
      · exact (Dev.eraseAreas_media _ _).trans kept
      · exact kept
      · exact kept
    · rfl
  · rfl

theorem identityKeygenComplete_keeps_media : Completes .identityKeygenComplete s fun d => MediaKept d s.dev := by
  refine .media_kept (rfl : execIdentityKeygenComplete s = s.on _) ?_
  split <;> rfl

theorem fuseBurnComplete_keeps_media : Completes .fuseBurnComplete s fun d => MediaKept d s.dev := by
  refine .media_kept (rfl : execFuseBurnComplete s = s.on _) ?_
  split
  · dsimp only
    rw [Dev.raise_media, Dev.syncRepairs_media]
    rfl
  · rfl

theorem haltRecordWrite_keeps_media : Completes .haltRecordWrite s fun d => MediaKept d s.dev := by
  refine .media_kept (rfl : execHaltRecordWrite s = s.on _) ?_
  split
  · split <;> rfl
  · rfl

/-! ### Counters and histograms -/

theorem pmuCtlFreeze_keeps_media (on : Bool) : Completes (.pmuCtlFreeze on) s fun d => MediaKept d s.dev := by
  refine .media_kept (rfl : execPmuCtlFreeze on s = s.on _) ?_
  split <;> rfl

theorem pmuCtlClrGen_keeps_media : Completes .pmuCtlClrGen s fun d => MediaKept d s.dev := by
  refine .media_kept (rfl : execPmuCtlClrGen s = s.on _) ?_
  split <;> rfl

theorem pmuCtlClrOvf_keeps_media : Completes .pmuCtlClrOvf s fun d => MediaKept d s.dev := by
  refine .media_kept (rfl : execPmuCtlClrOvf s = s.on _) ?_
  split <;> rfl

theorem pmuEvselWrite_keeps_media (n : Fin 64) (value : Word) : Completes (.pmuEvselWrite n value) s fun d => MediaKept d s.dev := by
  refine .media_kept (rfl : execPmuEvselWrite n value s = s.on _) ?_
  split <;> rfl

theorem pmuScopeWrite_keeps_media (n : Fin 64) (value : Word) : Completes (.pmuScopeWrite n value) s fun d => MediaKept d s.dev := by
  refine .media_kept (rfl : execPmuScopeWrite n value s = s.on _) ?_
  split <;> rfl

theorem pmuHistCtlWrite_keeps_media (h : Fin 4) (value : Word) : Completes (.pmuHistCtlWrite h value) s fun d => MediaKept d s.dev := by
  refine .media_kept (rfl : execPmuHistCtlWrite h value s = s.on _) ?_
  split <;> rfl

theorem pmuHistClr_keeps_media (mask : BitVec 4) : Completes (.pmuHistClr mask) s fun d => MediaKept d s.dev := by
  refine .media_kept (rfl : execPmuHistClr mask s = s.on _) ?_
  split <;> rfl

/-! ### The management bus -/

theorem mgmtRegisterRead_keeps_media (count off : Nat) : Completes (.mgmtRegisterRead count off) s fun d => MediaKept d s.dev := by
  refine .media_kept (rfl : execMgmtRegisterRead count off s = s.on _) ?_
  split
  · rfl
  · split
    · exact Dev.mgmtLocked_media _ _ _
    · exact Dev.mgmtReads_media _ _ _

theorem smbusAlertResponse_keeps_media : Completes .smbusAlertResponse s fun d => MediaKept d s.dev := by
  refine .media_kept (rfl : execSmbusAlertResponse s = s.on _) ?_
  split <;> rfl

theorem smbusLowTimeout_keeps_media : Completes .smbusLowTimeout s fun d => MediaKept d s.dev := by
  refine .media_kept (rfl : execSmbusLowTimeout s = s.on _) ?_
  split <;> rfl

/-! ### SPDM -/

theorem getMeasurements_keeps_media (tr : Transport) (index : Byte) (signed : Bool) :
    Completes (.getMeasurements tr index signed) s fun d => MediaKept d s.dev := by
  refine .media_kept (rfl : execGetMeasurements tr index signed s = s.on _) ?_
  simp [apply_ite Dev.media]

theorem getCsr_keeps_media (tr : Transport) : Completes (.getCsr tr) s fun d => MediaKept d s.dev := by
  refine .media_kept (rfl : execGetCsr tr s = s.on _) ?_
  simp [apply_ite Dev.media]

theorem setCertificate_keeps_media (tr : Transport) (leaf : Cert) (issuers : List Cert) :
    Completes (.setCertificate tr leaf issuers) s fun d => MediaKept d s.dev := by
  refine .media_kept (rfl : execSetCertificate tr leaf issuers s = s.on _) ?_
  simp [apply_ite Dev.media]

theorem negotiateAlgorithms_keeps_media (tr : Transport) (composite : Bool) :
    Completes (.negotiateAlgorithms tr composite) s fun d => MediaKept d s.dev := by
  refine .media_kept (rfl : execNegotiateAlgorithms tr composite s = s.on _) ?_
  simp [apply_ite Dev.media]

theorem keyExchange_keeps_media (tr : Transport) (suite : Bool) : Completes (.keyExchange tr suite) s fun d => MediaKept d s.dev := by
  refine .media_kept (rfl : execKeyExchange tr suite s = s.on _) ?_
  simp [apply_ite Dev.media]

theorem challenge_keeps_media (tr : Transport) : Completes (.challenge tr) s fun d => MediaKept d s.dev := by
  refine .media_kept (rfl : execChallenge tr s = s.on _) ?_
  simp [apply_ite Dev.media]

theorem signatureComplete_keeps_media : Completes .signatureComplete s fun d => MediaKept d s.dev := by
  refine .media_kept (rfl : execSignatureComplete s = s.on _) ?_
  split
  · dsimp only
    rw [Dev.emit_media]
    split <;> rfl
  · rfl

end

/-- Settles O56, clause by clause: what each command does lies in registers, pairs, scans, fuses, the Canister, counters and answers. -/
theorem registerAndSecurityCommandsKeepTheMedia : Obligations.RegisterAndSecurityCommandsKeepTheMedia := by
  unfold Obligations.RegisterAndSecurityCommandsKeepTheMedia
  refine ⟨stagedRegisterWrite_keeps_media, ?read, ?pour, ?major, ?commitPour, keyedValueWrite_keeps_media, keyedPairTimeout_keeps_media,
    ?off, ?enforce, ?report, sealCommit_keeps_media, sealReferenceScanComplete_keeps_media, ?scanStart, ?lifecycle,
    lifecycleBurnComplete_keeps_media, identityKeygenComplete_keeps_media, cryRekeyCtl_keeps_media, fuseBurnComplete_keeps_media, ?erase,
    pmuCtlFreeze_keeps_media, pmuCtlClrGen_keeps_media, pmuCtlClrOvf_keeps_media, pmuEvselWrite_keeps_media, pmuScopeWrite_keeps_media,
    pmuHistCtlWrite_keeps_media, pmuHistClr_keeps_media, mgmtRegisterRead_keeps_media, smbusAlertResponse_keeps_media,
    smbusLowTimeout_keeps_media, ?subkeys, haltRecordWrite_keeps_media, getMeasurements_keeps_media, getCsr_keeps_media,
    setCertificate_keeps_media, negotiateAlgorithms_keeps_media, keyExchange_keeps_media, challenge_keeps_media, signatureComplete_keeps_media⟩
  case read => exact fun s src off be => .media_kept (rfl : execRcRead src off be s = s.on _) (s.dev.readOut_media src off be)
  case pour => exact fun s src => .media_kept (rfl : execGlbPourLoRead src s = s.on _) (s.dev.readOut_media src _ 15)
  case major => exact fun s src => .media_kept (rfl : execCryMajorNextLoRead src s = s.on _) (s.dev.readOut_media src _ 15)
  case commitPour => exact fun s src => .media_kept (rfl : execStgCommitPourLoRead src s = s.on _) (s.dev.readOut_media src _ 15)
  case off => exact fun s src key => .media_kept_key src Off.glbSealCtl key (rfl : execGlbSealCtlOff src key s = s.on _) sealAct_media
  case enforce => exact fun s src key => .media_kept_key src Off.glbSealCtl key (rfl : execGlbSealCtlEnforce src key s = s.on _) sealAct_media
  case report => exact fun s src key => .media_kept_key src Off.glbSealCtl key (rfl : execGlbSealCtlReport src key s = s.on _) sealAct_media
  case lifecycle => exact fun s src key => .media_kept_key src Off.glbLcAdv key (rfl : execGlbLcAdv src key s = s.on _) lcAct_media
  case erase => exact fun s src key => .media_kept_key src Off.canErase key (rfl : execCanErase src key s = s.on _) eraseAct_media
  case scanStart => exact fun s boundary => .media_kept_atEdge rfl boundary s.dev.edgeSealScanStart_media
  case subkeys => exact fun s boundary => .media_kept_atEdge rfl boundary s.dev.edgeSubkeyDerivationDone_media

end Sys2Proof.Machine


/-! SUPPORT. The seal (O13, R430, R431), and what the detection of a HALT cause leaves (R486, R487). -/

namespace Sys2Proof.Machine

/-! ### What the answers of a HALT leave alone -/

/-- What the lemmas below follow through the answers of a HALT. -/
abbrev Vault := Part × Mode × Clock × Fuses × Mem × Crypto × Canister × Ras × Word × Word

/-- What answers, acknowledgements and HALT flits leave alone: everything that a HALT cause and a seal scan have written by then. -/
def Dev.vault (d : Dev) : Vault :=
  (d.part, d.mode, d.clk, d.fuses, d.mem, d.cry, d.can, d.ras, d.reg Off.rasHaltCause, d.reg Off.glbSealLast)

section
variable (d : Dev)

theorem Dev.setReg_vault {o : Nat} (w : Word) (h : o ≠ Off.rasHaltCause ∧ o ≠ Off.glbSealLast) : (d.setReg o w).vault = d.vault := by
  have halt : (d.setReg o w).reg Off.rasHaltCause = d.reg Off.rasHaltCause := d.reg_setReg_ne w h.1.symm
  have last : (d.setReg o w).reg Off.glbSealLast = d.reg Off.glbSealLast := d.reg_setReg_ne w h.2.symm
  simp only [Dev.vault, halt, last]
  rfl

theorem Dev.bump_vault {f : Fld} (n : Nat) (h : f.off ≠ Off.rasHaltCause ∧ f.off ≠ Off.glbSealLast) : (d.bump f n).vault = d.vault :=
  d.setReg_vault _ h

@[simp] theorem Dev.emit_vault (o : Out) : (d.emit o).vault = d.vault := rfl
@[simp] theorem Dev.modRly_vault (p : PortId) (f : RelayPort → RelayPort) : (d.modRly p f).vault = d.vault := rfl
@[simp] theorem Dev.putFlit_vault (p : PortId) (w : Payload) : (d.putFlit p w).vault = d.vault := rfl
@[simp] theorem Dev.modTenant_vault (t : TenantId) (f : Tenant → Tenant) : (d.modTenant t f).vault = d.vault := rfl
@[simp] theorem Dev.histogram_vault (x : Txn) : (d.histogram x).vault = d.vault := rfl

@[simp] theorem Dev.sendUp_vault (m : RelayMsg) (c : Nat) (l : List (BitVec 128)) : (d.sendUp m c l).vault = d.vault := by
  simp only [Dev.vault, Dev.sendUp_part, Dev.sendUp_mode, Dev.sendUp_clk, Dev.sendUp_fuses, Dev.sendUp_mem, Dev.sendUp_cry, Dev.sendUp_can,
    Dev.sendUp_ras, d.sendUp_reg m c l Off.rasHaltCause (by decide), d.sendUp_reg m c l Off.glbSealLast (by decide)]

@[simp] theorem Dev.countAs_vault (n k : Nat) (c : Option (BitVec 16)) (t : Option TenantId) (l : Option Cls) :
    (d.countAs n k c t l).vault = d.vault := by
  simp [Dev.vault, Dev.reg]

@[simp] theorem Dev.answerHost_vault (p : PortId) (ld tag : Nat) (uio : Bool) (md : Meta) (load : Nat) (r : Reply) :
    (d.answerHost p ld tag uio md load r).vault = d.vault := by
  unfold Dev.answerHost
  split <;> rfl

@[simp] theorem Dev.answerRelay_vault (x : Txn) (src tag : Nat) (r : Reply) : (d.answerRelay x src tag r).vault = d.vault := by
  cases r <;> exact d.sendUp_vault _ _ _

@[simp] theorem Dev.delivered_vault (x : Txn) : (d.delivered x).vault = d.vault := by
  unfold Dev.delivered
  split
  · rfl
  · split
    · rfl
    · exact d.countAs_vault _ _ _ _ _

@[simp] theorem Dev.conflictAck_vault (port : PortId) (tag sharer : Nat) : (d.conflictAck port tag sharer).vault = d.vault := by
  unfold Dev.conflictAck
  split
  · exact d.sendUp_vault _ _ _
  · rfl

@[simp] theorem Dev.sendAcks_vault (id : Nat) : (d.sendAcks id).vault = d.vault := by
  unfold Dev.sendAcks
  dsimp only
  split
  · rfl
  · exact foldl_keeps Dev.vault _ _ _ fun d _ => d.conflictAck_vault _ _ _

@[simp] theorem Dev.finish_vault (x : Txn) (r : Reply) : (d.finish x r).vault = d.vault := by
  have acked : (Dev.sendAcks { d with txns := d.txns.filter (·.id != x.id) } x.id).vault = d.vault := Dev.sendAcks_vault _ _
  unfold Dev.finish
  dsimp only
  generalize Dev.sendAcks { d with txns := d.txns.filter (·.id != x.id) } x.id = e at acked ⊢
  split
  · next p _ _ _ _ =>
    have reads : (e.bump (Fld.prtDownCnt_reads (portIdx p)) 1).vault = e.vault := e.bump_vault 1 (by cases p <;> decide)
    have writes : (e.bump (Fld.prtDownCnt_writes (portIdx p)) 1).vault = e.vault := e.bump_vault 1 (by cases p <;> decide)
    simp [apply_ite Dev.vault, reads, writes, acked]
  · rw [Dev.answerRelay_vault, acked]

@[simp] theorem Dev.haltFlit_vault (p : PortId) (origin cause : Nat) : (d.haltFlit p origin cause).vault = d.vault := by
  unfold Dev.haltFlit
  split
  · dsimp only
    rw [Dev.putFlit_vault, Dev.modRly_vault]
  · rfl

@[simp] theorem Dev.haltOut_vault (origin cause : Nat) : (d.haltOut origin cause).vault = d.vault := by
  refine foldl_keeps Dev.vault _ _ d fun d p => ?_
  have viral : (d.setFlag (Fld.prtViralSts_tx (portIdx p)) true).vault = d.vault := d.setReg_vault _ (by cases p <;> decide)
  split
  · exact viral
  · exact d.haltFlit_vault _ _ _
  · exact d.haltFlit_vault _ _ _
  · rfl

@[simp] theorem Dev.dropAll_vault : d.dropAll.vault = d.vault :=
  foldl_keeps Dev.vault _ _ d fun d x => by
    split
    · exact d.finish_vault _ _
    · rfl

end

/-! ### The detection of a HALT cause -/

/-- The word of `RAS_HALT_CAUSE` (R490): valid, the origin, the mode left, the cause. -/
def haltWord (origin mode cause : Nat) : Word := BitVec.ofNat 32 (2 ^ 31 + origin % 256 * 2 ^ 16 + mode * 2 ^ 8 + cause)

theorem byte_at_zero (a : Nat) {b : Nat} (h : b < 256) : (a * 256 + b) % 256 = b := by
  rw [Nat.mul_add_mod', Nat.mod_eq_of_lt h]

theorem bytes_above (a : Nat) {b : Nat} (h : b < 256) : (a * 256 + b) / 256 = a := by
  rw [Nat.add_comm, Nat.add_mul_div_right _ _ (by decide), Nat.div_eq_of_lt h, Nat.zero_add]

theorem haltWord_toNat (origin : Nat) {m c : Nat} (mode : m < 256) (cause : c < 256) :
    (haltWord origin m c).toNat = ((32768 + origin % 256) * 256 + m) * 256 + c := by
  have shape : 2 ^ 31 + origin % 256 * 2 ^ 16 + m * 2 ^ 8 + c = ((32768 + origin % 256) * 256 + m) * 256 + c := by ring
  rw [haltWord, shape, BitVec.toNat_ofNat, Nat.mod_eq_of_lt]
  have own : origin % 256 < 256 := Nat.mod_lt _ (by decide)
  omega

theorem haltWord_fields (origin : Nat) (m : Mode) (c : HaltCause) :
    fieldOf (haltWord origin m.code (haltCode c)) 0 8 = haltCode c ∧ fieldOf (haltWord origin m.code (haltCode c)) 8 8 = m.code ∧
      fieldOf (haltWord origin m.code (haltCode c)) 31 1 = 1 := by
  have mode : m.code < 256 := by cases m <;> decide
  have cause : haltCode c < 256 := by cases c <;> decide
  have own : (32768 + origin % 256) / 32768 = 1 := by
    rw [Nat.add_div_left _ (by decide), Nat.div_eq_of_lt ((Nat.mod_lt _ (by decide)).trans (by decide : 256 < 32768))]
  simp only [fieldOf, haltWord_toNat origin mode cause, Nat.shiftRight_eq_div_pow]
  refine ⟨?_, ?_, ?_⟩
  · exact (congrArg (· % 256) (Nat.div_one _)).trans (byte_at_zero _ cause)
  · exact (congrArg (· % 256) (bytes_above _ cause)).trans (byte_at_zero _ mode)
  · rw [show 2 ^ 31 = 256 * (256 * 32768) by rfl, ← Nat.div_div_eq_div_mul, bytes_above _ cause, ← Nat.div_div_eq_div_mul, bytes_above _ mode, own]
    rfl

section
variable (d : Dev) (cause : HaltCause) (origin : Nat) (chid : BitVec 16) (loc : BitVec 64)

/-- `RAS_HALTCAUSE` is the one register of the vault that the record of a HALT writes. -/
theorem Dev.setHaltCause_vault (word : Word) : (d.setReg Off.rasHaltCause word).vault =
    (d.part, d.mode, d.clk, d.fuses, d.mem, d.cry, d.can, d.ras, word, d.reg Off.glbSealLast) := by
  simp only [Dev.vault, Dev.reg_setReg_same, Dev.reg_setReg_ne _ _ (show Off.glbSealLast ≠ Off.rasHaltCause by decide)]
  rfl

theorem Dev.recordHalt_vault : (d.recordHalt cause origin chid loc).vault =
    (d.part, d.mode, d.clk, d.fuses, d.mem, d.cry, d.can, { d.ras with haltAt := some (d.stamp, haltCode cause), later := 0 },
      haltWord origin d.mode.code (haltCode cause), d.reg Off.glbSealLast) := by
  unfold Dev.recordHalt
  repeat rw [Dev.setReg_vault _ _ (by decide)]
  rw [Dev.setHaltCause_vault]
  rfl

end

/-- The keys and a store under way, which a HALT takes out of the vault (R487, R488). -/
def Vault.forget : Vault → Vault
  | (part, mode, clk, fuses, mem, cry, can, ras, word, last) =>
    (part, mode, clk, fuses, mem, { cry with key := none, oldKey := none, majorNext := 0, majorNextOld := 0 },
      { can with storing := none }, ras, word, last)

theorem Dev.zeroise_vault (d : Dev) :
    ((Dev.setFlag { d with can := { d.can with storing := none } } Fld.canSts_store false).zeroise).vault = d.vault.forget :=
  (Dev.setReg_vault _ _ (by decide)).trans (congrArg Vault.forget (Dev.setReg_vault d _ (by decide)))

/-- What a HALT cause leaves where none was detected before, in a mode that may halt (R487). -/
theorem Dev.haltBy_detects {d : Dev} {cause : HaltCause} {chid : BitVec 16} {loc : BitVec 64} (first : d.ras.haltAt = none)
    (may : d.mode.mayHalt = true) : (d.haltBy cause chid loc).txns = [] ∧ (d.haltBy cause chid loc).vault =
      Vault.forget (d.part, d.mode, d.clk, d.fuses, d.mem, d.cry, d.can, { d.ras with haltAt := some (d.stamp, haltCode cause), later := 0 },
        haltWord d.chainId d.mode.code (haltCode cause), d.reg Off.glbSealLast) := by
  have notNow : d.haltNow = false := by simp only [Dev.haltNow, first]
  have notHalted : d.halted = false := by
    have : d.mode ≠ .halt := by
      rintro halt
      rw [halt] at may
      cases may
    simpa [Dev.halted, first] using this
  have recorded := d.recordHalt_vault cause d.chainId chid loc
  simp only [Dev.haltBy, Dev.haltFrom, notNow, notHalted, may, Bool.false_eq_true, if_false, if_true]
  exact ⟨rfl, by rw [Dev.dropAll_vault, Dev.haltOut_vault, Dev.zeroise_vault, recorded]⟩

/-- The cause found is the one that the registers show, with nothing outstanding and no key left. -/
theorem haltDetected_of_haltBy {a d : Dev} {cause : HaltCause} {chid : BitVec 16} {loc : BitVec 64} (first : d.ras.haltAt = none)
    (may : d.mode.mayHalt = true) (mode : d.mode = a.mode) (stamp : d.stamp = a.stamp) (mem : d.mem = a.mem) :
    HaltDetected a (d.haltBy cause chid loc) (haltCode cause) := by
  obtain ⟨empty, kept⟩ := Dev.haltBy_detects (chid := chid) (loc := loc) (cause := cause) first may
  simp only [Dev.vault, Vault.forget, Prod.mk.injEq] at kept
  obtain ⟨-, mode', -, -, mem', cry, can, ras, word, -⟩ := kept
  obtain ⟨code, from_, valid⟩ := haltWord_fields d.chainId d.mode cause
  refine ⟨by rw [ras, stamp], by rw [cry], by rw [cry], by rw [cry], empty, ?_, ?_, ?_, mode'.trans mode, mem'.trans mem, by rw [can]⟩
  · exact (congrArg (fieldOf · 0 8) word).trans code
  · exact (congrArg (fieldOf · 8 8) word).trans (from_.trans (congrArg Mode.code mode))
  · exact congrArg (· == 1) ((congrArg (fieldOf · 31 1) word).trans valid)

end Sys2Proof.Machine


/-! SUPPORT. The seal's pairs and scans, and the theorem that settles O13 (R414, R430, R431). -/

namespace Sys2Proof.Machine

/-! ### Pairs -/

section
variable {c : Instr} {s : State} {src : Source} {off : Nat} {v key : Word} {act : Word → Dev → Option Dev} {P : Dev → Prop}
  (hc : exec c s = s.on fun d => if d.canAccess src off then d.keyWrite src off key act else d) (access : s.dev.canAccess src off = true)
  (ready : s.dev.pairReady src off v key)
include hc access ready

/-- A completed pair whose value is taken. -/
theorem Completes.of_keyTaken {e : Dev} (taken : act v (s.dev.setArmed src none) = some e) (same : e.standing = s.dev.standing) (h : P e) :
    Completes c s P :=
  .of_standing hc (by rw [if_pos access, Dev.keyWrite_taken ready taken]) same h

/-- A completed pair whose value is refused. -/
theorem Completes.of_keyRefused (refused : act v (s.dev.setArmed src none) = none) (h : P ((s.dev.setArmed src none).keyFail 3 off)) :
    Completes c s P :=
  .of_standing (e := (s.dev.setArmed src none).keyFail 3 off) hc (by rw [if_pos access, Dev.keyWrite_refused ready refused]) rfl h

end

/-- The seal OFF (R431): no seal, no scan, no reference. -/
def Dev.unsealed (d : Dev) : Dev :=
  (((Dev.setFld { d with ras := { d.ras with sealScan := none } } Fld.glbSealCtl_mode 0).setFlag Fld.glbSealSts_sealed false).setFlag
    Fld.glbSealSts_refscan false).setReg Off.glbSealRef 0

section
variable {v : Word} (d : Dev)

theorem sealAct_off (value : fieldOf v 0 2 = 0) : sealAct v d = some d.unsealed := by
  simp only [sealAct, value]
  rfl

theorem sealAct_enforce (value : fieldOf v 0 2 = 1) : sealAct v d = some (d.setFld Fld.glbSealCtl_mode 1) := by
  simp [sealAct, value]

theorem sealAct_report (value : fieldOf v 0 2 = 2) :
    sealAct v d = if d.lifecycle = .test then some (d.setFld Fld.glbSealCtl_mode 2) else none := by
  by_cases test : d.lifecycle = .test <;> simp [sealAct, value, test]

theorem Dev.unsealed_standing : d.unsealed.standing = d.standing := rfl
theorem Dev.unsealed_scan : d.unsealed.ras.sealScan = none := rfl
theorem Dev.unsealed_armedBy (src : Source) : d.unsealed.armedBy src = d.armedBy src := rfl

theorem Dev.unsealed_mode : d.unsealed.fld Fld.glbSealCtl_mode = 0 := by
  unfold Dev.unsealed
  simp (disch := decide) only [Dev.setFlag, Dev.fld, Dev.reg_setReg_ne, Dev.reg_setFld_ne]
  exact Dev.fld_setFld_same _ _ _ (by decide)

theorem Dev.unsealed_status : d.unsealed.flag Fld.glbSealSts_sealed = false ∧ d.unsealed.flag Fld.glbSealSts_refscan = false := by
  unfold Dev.unsealed
  generalize Dev.setFld _ Fld.glbSealCtl_mode 0 = e
  have kept : ∀ g : Dev, (g.setReg Off.glbSealRef 0).reg Off.glbSealSts = g.reg Off.glbSealSts := fun g => g.reg_setReg_ne _ (by decide)
  have sealed : ((e.setFlag Fld.glbSealSts_sealed false).setFlag Fld.glbSealSts_refscan false).flag Fld.glbSealSts_sealed = false := by
    simp (disch := decide) only [Dev.setFlag, Dev.flag, Dev.fld_setFld_apart, Dev.fld_setFld_same]
    rfl
  have scan := (e.setFlag Fld.glbSealSts_sealed false).flag_setFlag_same Fld.glbSealSts_refscan false (by decide) (by decide)
  simp only [Dev.flag, Dev.fld] at sealed scan ⊢
  constructor
  · exact (congrArg (fun w => fieldOf w _ _ == 1) (kept _)).trans sealed
  · exact (congrArg (fun w => fieldOf w _ _ == 1) (kept _)).trans scan

theorem Dev.unsealed_ref : d.unsealed.reg Off.glbSealRef = 0 := Dev.reg_setReg_same _ _ _

end

section
variable {s : State} {src : Source} {v key : Word} (access : s.dev.canAccess src Off.glbSealCtl = true)
  (ready : s.dev.pairReady src Off.glbSealCtl v key)
include access ready

theorem completes_glbSealCtlOff (value : fieldOf v 0 2 = 0) : Completes (.glbSealCtlOff src key) s fun d =>
    d.fld Fld.glbSealCtl_mode = 0 ∧ d.flag Fld.glbSealSts_sealed = false ∧ d.flag Fld.glbSealSts_refscan = false ∧
      d.reg Off.glbSealRef = 0 ∧ d.ras.sealScan = none ∧ d.armedBy src = none := by
  refine .of_keyTaken (exec_glbSealCtlOff src key s) access ready (sealAct_off _ value) (Dev.unsealed_standing _) ?_
  obtain ⟨sealed, scan⟩ := (s.dev.setArmed src none).unsealed_status
  exact ⟨Dev.unsealed_mode _, sealed, scan, Dev.unsealed_ref _, Dev.unsealed_scan _,
    (Dev.unsealed_armedBy _ src).trans (s.dev.armedBy_setArmed src none)⟩

theorem completes_glbSealCtlEnforce (value : fieldOf v 0 2 = 1) : Completes (.glbSealCtlEnforce src key) s fun d =>
    d.fld Fld.glbSealCtl_mode = 1 ∧ d.armedBy src = none ∧ d.ras = s.dev.ras ∧ d.reg Off.glbSealRef = s.dev.reg Off.glbSealRef ∧
      d.reg Off.glbSealSts = s.dev.reg Off.glbSealSts := by
  refine .of_keyTaken (exec_glbSealCtlEnforce src key s) access ready (sealAct_enforce _ value) rfl ?_
  exact ⟨Dev.fld_setFld_same _ _ _ (by decide), s.dev.armedBy_setArmed src none, rfl, Dev.reg_setFld_ne _ _ (by decide),
    Dev.reg_setFld_ne _ _ (by decide)⟩

theorem completes_glbSealCtlReport (value : fieldOf v 0 2 = 2) : Completes (.glbSealCtlReport src key) s fun d => d.armedBy src = none ∧
    (s.dev.lifecycle = .test → d.fld Fld.glbSealCtl_mode = 2 ∧ d.reg Off.glbKeyfail = s.dev.reg Off.glbKeyfail) ∧
    (s.dev.lifecycle ≠ .test → d.fld Fld.glbSealCtl_mode = s.dev.fld Fld.glbSealCtl_mode ∧
      d.reg Off.glbKeyfail = keyfailWord 3 Off.glbSealCtl) := by
  have report := sealAct_report (s.dev.setArmed src none) value
  by_cases test : s.dev.lifecycle = .test
  · refine .of_keyTaken (exec_glbSealCtlReport src key s) access ready (report.trans (if_pos test)) rfl ?_
    exact ⟨s.dev.armedBy_setArmed src none, fun _ => ⟨Dev.fld_setFld_same _ _ _ (by decide), Dev.reg_setFld_ne _ _ (by decide)⟩,
      fun other => absurd test other⟩
  · refine .of_keyRefused (exec_glbSealCtlReport src key s) access ready (report.trans (if_neg test)) ?_
    have kept : ((s.dev.setArmed src none).keyFail 3 Off.glbSealCtl).reg Off.glbSealCtl = s.dev.reg Off.glbSealCtl :=
      Dev.reg_setReg_ne _ _ (by decide)
    exact ⟨s.dev.armedBy_setArmed src none, fun other => absurd other test,
      fun _ => ⟨congrArg (fieldOf · _ _) kept, Dev.keyFail_reg _ _ _⟩⟩

end

/-! ### Scans -/

theorem completes_sealCommit {s : State} {src : Source} (access : s.dev.canAccess src Off.sealCommit = true) :
    Completes (.sealCommit src) s fun d => d.regs = s.dev.regs ∧
      d.ras.sealScan = if s.dev.fld Fld.glbSealCtl_mode = 0 then s.dev.ras.sealScan else some (0, true) := by
  have hc : exec (.sealCommit src) s = s.on fun d => if d.canAccess src Off.sealCommit then d.askReference else d := rfl
  by_cases off : s.dev.fld Fld.glbSealCtl_mode = 0
  · exact .of_standing hc ((if_pos access).trans (if_pos off)) rfl ⟨rfl, (if_pos off).symm⟩
  · exact .of_standing hc ((if_pos access).trans (if_neg off)) rfl ⟨rfl, (if_neg off).symm⟩

/-- A device whose reference scan has ended with a CRC. -/
def Dev.referenceTaken (d : Dev) (crc : Word) : Dev :=
  (((Dev.setFlag { d with ras := { d.ras with sealScan := none } } Fld.glbSealSts_sealed true).setFlag Fld.glbSealSts_refscan false).setReg
    Off.glbSealRef crc).setReg Off.glbSealLast crc

theorem Dev.referenceTaken_standing (d : Dev) (crc : Word) : (d.referenceTaken crc).standing = d.standing := rfl

theorem Dev.referenceTaken_status (d : Dev) (crc : Word) : (d.referenceTaken crc).flag Fld.glbSealSts_sealed = true ∧
    (d.referenceTaken crc).flag Fld.glbSealSts_refscan = false := by
  unfold Dev.referenceTaken
  generalize ({ d with ras := { d.ras with sealScan := none } } : Dev) = e
  have kept : ∀ g : Dev, ((g.setReg Off.glbSealRef crc).setReg Off.glbSealLast crc).reg Off.glbSealSts = g.reg Off.glbSealSts := fun g =>
    (Dev.reg_setReg_ne _ _ (by decide)).trans (g.reg_setReg_ne _ (by decide))
  have sealed : ((e.setFlag Fld.glbSealSts_sealed true).setFlag Fld.glbSealSts_refscan false).flag Fld.glbSealSts_sealed = true := by
    simp (disch := decide) only [Dev.setFlag, Dev.flag, Dev.fld_setFld_apart, Dev.fld_setFld_same]
    rfl
  have scan := (e.setFlag Fld.glbSealSts_sealed true).flag_setFlag_same Fld.glbSealSts_refscan false (by decide) (by decide)
  simp only [Dev.flag, Dev.fld] at sealed scan ⊢
  constructor
  · exact (congrArg (fun w => fieldOf w _ _ == 1) (kept _)).trans sealed
  · exact (congrArg (fun w => fieldOf w _ _ == 1) (kept _)).trans scan

theorem completes_sealReferenceScanComplete {s : State} {w : Word} (live : s.dev.live = true) (scan : s.dev.ras.sealScan = some (w, true))
    (refscan : s.dev.flag Fld.glbSealSts_refscan = true) : Completes .sealReferenceScanComplete s fun d =>
    d.flag Fld.glbSealSts_sealed = true ∧ d.flag Fld.glbSealSts_refscan = false ∧ d.reg Off.glbSealRef = s.dev.configCrc ∧
      d.reg Off.glbSealLast = s.dev.configCrc ∧ d.ras.sealScan = none := by
  refine .of_standing (e := s.dev.referenceTaken s.dev.configCrc) (rfl : execSealReferenceScanComplete s = s.on _) ?_ (s.dev.referenceTaken_standing _) ?_
  · dsimp only
    generalize s.dev.configCrc = crc
    simp only [scan, live, refscan, Bool.and_self, if_true]
    rfl
  · generalize s.dev.configCrc = crc
    obtain ⟨sealed, ended⟩ := s.dev.referenceTaken_status crc
    exact ⟨sealed, ended, (Dev.reg_setReg_ne _ _ (by decide)).trans (Dev.reg_setReg_same _ _ _), Dev.reg_setReg_same _ _ _, rfl⟩

theorem completes_sealScanStart {s : State} (boundary : AtBoundary s.dev) (live : s.dev.live = true)
    (sealed : s.dev.flag Fld.glbSealSts_sealed = true) (idle : s.dev.ras.sealScan = none) (due : s.dev.now % 4096 = 0) :
    Completes .sealScanStart s fun d => d.ras.sealScan = some (0, false) ∧ d.regs = s.dev.regs := by
  refine .of_standing (e := { s.dev with ras := { s.dev.ras with sealScan := some (0, false) } })
    (rfl : execSealScanStart s = s.on _) ?_ rfl ⟨rfl, rfl⟩
  rw [Dev.atEdge_atBoundary _ boundary, Dev.edgeSealScanStart, if_pos (by simp [live, sealed, idle, due])]

/-- A device whose check scan has ended with a CRC. -/
def Dev.sealScanned (d : Dev) (crc : Word) : Dev := Dev.setReg { d with ras := { d.ras with sealScan := none } } Off.glbSealLast crc

/-- A mismatch in REPORT. -/
def Dev.mismatched (d : Dev) : Dev := (d.setFlag Fld.glbSealSts_mismatch true).raiseN 0x1B4 []

/-- What events leave of the records of faults: a HALT cause and a seal scan. -/
def Dev.watch (d : Dev) : Option (Stamp × Nat) × Option (Word × Bool) := (d.ras.haltAt, d.ras.sealScan)

section
variable (d : Dev)

theorem Dev.watch_of {d e : Dev} (same : e.ras = d.ras) : e.watch = d.watch := by
  rw [Dev.watch, same, ← Dev.watch]

@[simp] theorem Dev.alert_watch (b : Nat) : (d.alert b).watch = d.watch := Dev.watch_of (d.alert_ras b)
@[simp] theorem Dev.countAs_watch (n k : Nat) (c : Option (BitVec 16)) (t : Option TenantId) (l : Option Cls) :
    (d.countAs n k c t l).watch = d.watch := Dev.watch_of (d.countAs_ras n k c t l)
@[simp] theorem Dev.count_watch (n k : Nat) : (d.count n k).watch = d.watch := Dev.watch_of (d.count_ras n k)
@[simp] theorem Dev.issueLoc_watch (l : BitVec 64) : (d.issueLoc l).watch = d.watch := Dev.watch_of (d.issueLoc_ras l)
@[simp] theorem Dev.mergeWrite_watch (a : Array64K) (n : Nat) (b : BitVec 8) : (d.mergeWrite a n b).watch = d.watch := rfl

@[simp] theorem Dev.pushRec_watch (r : EventRec) : (d.pushRec r).watch = d.watch := by
  unfold Dev.pushRec
  dsimp only
  split
  · exact Dev.alert_watch _ _
  · rfl

@[simp] theorem Dev.writeRec_watch (r : EventRec) : (d.writeRec r).watch = d.watch := by
  have lossReported : (if 0 < d.ras.dropped ∧ 64 < d.ras.freeEntries then
      (Dev.count { d with ras := { d.ras with dropped := 0 } } 0x1D3 1).pushRec
        ((Dev.count { d with ras := { d.ras with dropped := 0 } } 0x1D3 1).recordOf { num := 0x1D3, detail := [word1 d.ras.dropped] })
      else d).watch = d.watch := by
    split
    · rw [Dev.pushRec_watch, Dev.count_watch]
      rfl
    · rfl
  unfold Dev.writeRec
  dsimp only
  generalize (if 0 < d.ras.dropped ∧ 64 < d.ras.freeEntries then _ else d) = e at lossReported ⊢
  have kept : (e.pushRec r).watch = d.watch := (e.pushRec_watch r).trans lossReported
  split <;> split
  · exact kept
  · exact (Dev.alert_watch _ _).trans lossReported
  · exact kept
  · exact (Dev.alert_watch _ _).trans lossReported

@[simp] theorem Dev.raise_watch (e : Ev) : (d.raise e).watch = d.watch := by
  have counted : (if e.num = 0x102 then ((d.issueLoc e.loc).countAs e.num 1 e.chid e.tenant e.cls).alert 7
      else (d.issueLoc e.loc).countAs e.num 1 e.chid e.tenant e.cls).watch = d.watch := by
    split <;> simp
  unfold Dev.raise
  dsimp only
  generalize (if e.num = 0x102 then _ else _) = g at counted ⊢
  split
  · exact counted
  · exact (g.writeRec_watch _).trans counted

theorem Dev.raiseN_watch (num : Nat) (detail : List Word) : (d.raiseN num detail).watch = d.watch := d.raise_watch _

end

/-- How a check scan ends (R431): counted, noted in REPORT, or with the seal HALT. -/
theorem exec_sealScanComplete_running {s : State} {w : Word} (err : Word) (live : s.dev.live = true)
    (scan : s.dev.ras.sealScan = some (w, false)) : ∃ f, exec (.sealScanComplete err) s = s.on f ∧ f s.dev =
      if s.dev.configCrc ^^^ err = s.dev.reg Off.glbSealRef then (s.dev.sealScanned (s.dev.configCrc ^^^ err)).bump Fld.glbSealSts_scans 1
      else if s.dev.fld Fld.glbSealCtl_mode = 2 then (s.dev.sealScanned (s.dev.configCrc ^^^ err)).mismatched
      else (s.dev.sealScanned (s.dev.configCrc ^^^ err)).haltBy .seal 0 0 := by
  refine ⟨_, (rfl : execSealScanComplete err s = s.on _), ?_⟩
  dsimp only
  generalize s.dev.configCrc ^^^ err = crc
  have ref : (s.dev.sealScanned crc).reg Off.glbSealRef = s.dev.reg Off.glbSealRef := Dev.reg_setReg_ne _ _ (by decide)
  have mode : (s.dev.sealScanned crc).fld Fld.glbSealCtl_mode = s.dev.fld Fld.glbSealCtl_mode :=
    congrArg (fieldOf · _ _) (Dev.reg_setReg_ne _ _ (by decide))
  rw [← ref, ← mode]
  simp only [scan, live, if_true]
  rfl

section
variable (d : Dev) (crc : Word)

theorem Dev.sealScanned_standing : (d.sealScanned crc).standing = d.standing := rfl
theorem Dev.sealScanned_watch : (d.sealScanned crc).watch = (d.ras.haltAt, none) := rfl
theorem Dev.sealScanned_last : (d.sealScanned crc).reg Off.glbSealLast = crc := Dev.reg_setReg_same _ _ _
theorem Dev.sealScanned_scans : (d.sealScanned crc).fld Fld.glbSealSts_scans = d.fld Fld.glbSealSts_scans :=
  congrArg (fieldOf · _ _) (Dev.reg_setReg_ne _ _ (by decide))

theorem Dev.bump_watch (f : Fld) (n : Nat) : (d.bump f n).watch = d.watch := rfl
theorem Dev.reg_bump_ne {f : Fld} {o : Nat} (n : Nat) (h : o ≠ f.off) : (d.bump f n).reg o = d.reg o := d.reg_setFld_ne _ h

theorem Dev.mismatched_standing : d.mismatched.standing = d.standing := Dev.raiseN_standing _ _ _
theorem Dev.mismatched_watch : d.mismatched.watch = d.watch := Dev.raiseN_watch _ _ _
theorem Dev.mismatched_last : d.mismatched.reg Off.glbSealLast = d.reg Off.glbSealLast :=
  (Dev.raiseN_reg _ _ _ _ (by decide)).trans (Dev.reg_setFld_ne _ _ (by decide))
theorem Dev.mismatched_set : d.mismatched.flag Fld.glbSealSts_mismatch = true :=
  (congrArg (· == 1) (Dev.raiseN_fld _ _ _ _ (by decide))).trans (d.flag_setFlag_same _ true (by decide) (by decide))

end

theorem Dev.not_halted_of_live {d : Dev} (live : d.live = true) : d.ras.haltAt = none := by
  rw [Dev.live, Dev.halted] at live
  cases h : d.ras.haltAt
  · rfl
  · simp [h] at live

/-- What the three ends of a check scan leave, for the CRC that it found. -/
theorem completes_checkScan {c : Instr} {s : State} {f : Dev → Dev} {crc : Word} (hc : exec c s = s.on f) (live : s.dev.live = true)
    (may : s.dev.mode.mayHalt = true) (effect : f s.dev =
      if crc = s.dev.reg Off.glbSealRef then (s.dev.sealScanned crc).bump Fld.glbSealSts_scans 1
      else if s.dev.fld Fld.glbSealCtl_mode = 2 then (s.dev.sealScanned crc).mismatched
      else (s.dev.sealScanned crc).haltBy .seal 0 0) : Completes c s fun d => d.ras.sealScan = none ∧
      d.reg Off.glbSealLast = crc ∧
      (crc = s.dev.reg Off.glbSealRef → d.fld Fld.glbSealSts_scans =
          min (2 ^ Fld.glbSealSts_scans.w - 1) (s.dev.fld Fld.glbSealSts_scans + 1) ∧ d.ras.haltAt = none) ∧
      (crc ≠ s.dev.reg Off.glbSealRef → s.dev.fld Fld.glbSealCtl_mode = 2 →
          d.flag Fld.glbSealSts_mismatch = true ∧ d.ras.haltAt = none) ∧
      (crc ≠ s.dev.reg Off.glbSealRef → s.dev.fld Fld.glbSealCtl_mode ≠ 2 → HaltDetected s.dev d 6) := by
  have unhalted := Dev.not_halted_of_live live
  have watched := s.dev.sealScanned_watch crc
  have last := s.dev.sealScanned_last crc
  have scans := s.dev.sealScanned_scans crc
  have stands := s.dev.sealScanned_standing crc
  by_cases good : crc = s.dev.reg Off.glbSealRef
  · have watch := (Dev.bump_watch _ Fld.glbSealSts_scans 1).trans watched
    simp only [Dev.watch, Prod.mk.injEq] at watch
    refine .of_standing hc (effect.trans (if_pos good)) ((Dev.bump_standing _ _ _).trans stands) ⟨watch.2, ?_,
      fun _ => ⟨?_, watch.1.trans unhalted⟩, fun bad => absurd good bad, fun bad => absurd good bad⟩
    · exact (Dev.reg_bump_ne _ 1 (by decide)).trans last
    · rw [Dev.fld_bump_same _ _ _ (by decide), scans, satN, min_comm]
  · by_cases report : s.dev.fld Fld.glbSealCtl_mode = 2
    · have watch := (Dev.mismatched_watch _).trans watched
      simp only [Dev.watch, Prod.mk.injEq] at watch
      refine .of_standing hc (effect.trans ((if_neg good).trans (if_pos report))) ((Dev.mismatched_standing _).trans stands) ?_
      exact ⟨watch.2, (Dev.mismatched_last _).trans last, fun same => absurd same good,
        fun _ _ => ⟨Dev.mismatched_set _, watch.1.trans unhalted⟩, fun _ other => absurd report other⟩
    · obtain ⟨-, kept⟩ := Dev.haltBy_detects (d := s.dev.sealScanned crc) (cause := .seal) (chid := 0) (loc := 0) unhalted may
      have detected := haltDetected_of_haltBy (a := s.dev) (d := s.dev.sealScanned crc) (cause := .seal) (chid := 0) (loc := 0) unhalted may
        rfl rfl rfl
      generalize (s.dev.sealScanned crc).haltBy .seal 0 0 = e at effect kept detected
      simp only [Dev.vault, Vault.forget, Prod.mk.injEq] at kept
      obtain ⟨part, mode, -, fuses, -, -, -, ras, -, kept⟩ := kept
      refine .of_standing hc (effect.trans ((if_neg good).trans (if_neg report))) ?_ ⟨?_, kept.trans last, fun same => absurd same good,
        fun _ other => absurd other report, fun _ _ => detected⟩
      · rw [Dev.standing, part, mode, fuses]
        rfl
      · rw [ras]
        rfl

/-- A check scan keeps its CRC, and counts, reports or halts. -/
theorem completes_sealScanComplete {s : State} {w : Word} (err : Word) (live : s.dev.live = true) (may : s.dev.mode.mayHalt = true)
    (scan : s.dev.ras.sealScan = some (w, false)) : Completes (.sealScanComplete err) s fun d => d.ras.sealScan = none ∧
      d.reg Off.glbSealLast = s.dev.configCrc ^^^ err ∧
      (s.dev.configCrc ^^^ err = s.dev.reg Off.glbSealRef → d.fld Fld.glbSealSts_scans =
          min (2 ^ Fld.glbSealSts_scans.w - 1) (s.dev.fld Fld.glbSealSts_scans + 1) ∧ d.ras.haltAt = none) ∧
      (s.dev.configCrc ^^^ err ≠ s.dev.reg Off.glbSealRef → s.dev.fld Fld.glbSealCtl_mode = 2 →
          d.flag Fld.glbSealSts_mismatch = true ∧ d.ras.haltAt = none) ∧
      (s.dev.configCrc ^^^ err ≠ s.dev.reg Off.glbSealRef → s.dev.fld Fld.glbSealCtl_mode ≠ 2 → HaltDetected s.dev d 6) := by
  obtain ⟨f, hc, effect⟩ := exec_sealScanComplete_running err live scan
  exact completes_checkScan hc live may effect

/-- Settles O13, one lemma for each pair and each scan. -/
theorem sealFollowsItsPairsAndScans : Obligations.SealFollowsItsPairsAndScans := by
  unfold Obligations.SealFollowsItsPairsAndScans
  refine ⟨?off, ?enforce, ?report, ?ask, ?reference, ?start, ?check⟩
  case off => exact fun s src v key access ready value => completes_glbSealCtlOff access ready value
  case enforce => exact fun s src v key access ready value => completes_glbSealCtlEnforce access ready value
  case report => exact fun s src v key access ready value => completes_glbSealCtlReport access ready value
  case ask => exact fun s src access => completes_sealCommit access
  case reference => exact fun s w live scan refscan => completes_sealReferenceScanComplete live scan refscan
  case start => exact fun s boundary live sealed idle due => completes_sealScanStart boundary live sealed idle due
  case check => exact fun s w err live may scan => completes_sealScanComplete err live may scan

end Sys2Proof.Machine


/-! SUPPORT. The SPDM responder (O28): connections, the signing queue, certificates and signatures (R459 to R464). -/

namespace Sys2Proof.Machine

section
variable (d : Dev) (tr : Transport)

theorem transportIdx_lt : transportIdx tr < 3 := by cases tr <;> decide

theorem Dev.conn_modConn (f : SpdmConn → SpdmConn) : (d.modConn tr f).conn tr = f (d.conn tr) := by
  simp [Dev.conn, Dev.modConn, vget_vmod, transportIdx_lt]

/-- A request that joins the signing queue, told to wait where the engine is busy (R464). -/
def Dev.queued (d : Dev) (tr : Transport) (code : Nat) : Dev :=
  if d.signQ.isEmpty then { d with signQ := d.signQ ++ [(tr, code)] }
  else Dev.spdmError { d with signQ := d.signQ ++ [(tr, code)] } tr [0x42, 14]

theorem Dev.askSignature_queued {code : Nat} (keys : d.sec.signKeys = true) : d.askSignature tr code = d.queued tr code := by
  simp only [Dev.askSignature, keys, Bool.not_true, Bool.false_eq_true, if_false]
  rfl

/-- Joining the queue changes the queue, and what leaves. -/
theorem Dev.queued_keeps (code : Nat) : (d.queued tr code).standing = d.standing ∧ (d.queued tr code).signQ = d.signQ ++ [(tr, code)] ∧
    (d.queued tr code).mem = d.mem ∧ (d.queued tr code).regs = d.regs ∧ (d.queued tr code).spdm = d.spdm := by
  unfold Dev.queued
  split
  · exact ⟨rfl, rfl, rfl, rfl, rfl⟩
  · exact ⟨rfl, rfl, rfl, rfl, rfl⟩

/-- What a response carries does not depend on the connections and the queue. -/
theorem Dev.signedData_connections (x : Vector SpdmConn 3) (q : List (Transport × Nat)) (code : Nat) :
    Dev.signedData { d with spdm := x, signQ := q } code = d.signedData code := by
  have block : ∀ n, Dev.measurement { d with spdm := x, signQ := q } n = d.measurement n := by
    intro n
    unfold Dev.measurement
    split <;> rfl
  simp only [Dev.signedData, Dev.measurements, block]

end

section
variable {s : State} {tr : Transport} (served : s.dev.spdmOpen tr = true)
include served

theorem completes_negotiateAlgorithms (c : Bool) : Completes (.negotiateAlgorithms tr c) s fun d => d.conn tr = ⟨c, false⟩ ∧
    d.signQ = s.dev.signQ ∧ d.mem = s.dev.mem ∧ d.regs = s.dev.regs ∧ d.out.head? = some (.spdm tr (if c then 0x63 else 0x7F) [1]) := by
  refine .of_standing (e := (s.dev.modConn tr fun _ => ⟨c, false⟩).emit (.spdm tr (if c then 0x63 else 0x7F) [1]))
    (rfl : execNegotiateAlgorithms tr c s = s.on _) ?_ rfl ⟨s.dev.conn_modConn tr _, rfl, rfl, rfl, rfl⟩
  simp only [served, Bool.not_true, Bool.false_eq_true, if_false]
  cases c <;> rfl

theorem completes_setCertificate_refused (leaf : Cert) (issuers : List Cert) (other : s.dev.lifecycle ≠ .provisioned) :
    Completes (.setCertificate tr leaf issuers) s fun d => d.can = s.dev.can ∧ d.regs = s.dev.regs ∧ d.mem = s.dev.mem ∧
      d.out.head? = some (.spdm tr 0x7F [7]) := by
  refine .of_standing (e := s.dev.spdmError tr [7]) (rfl : execSetCertificate tr leaf issuers s = s.on _) ?_ rfl ⟨rfl, rfl, rfl, rfl⟩
  simp only [served, Bool.not_true, Bool.false_eq_true, if_false, if_pos other]

variable (negotiated : (s.dev.conn tr).negotiated = true)
include negotiated

theorem completes_getMeasurements_unsigned {n : Byte} (known : n.toNat ≤ 6 ∨ n.toNat = 255) :
    Completes (.getMeasurements tr n false) s fun d => d.out.head? = some (.spdm tr 0x60 (s.dev.measurements n.toNat)) ∧
      d.signQ = s.dev.signQ ∧ d.mem = s.dev.mem ∧ d.regs = s.dev.regs := by
  refine .of_standing (e := s.dev.emit (.spdm tr 0x60 (s.dev.measurements n.toNat)))
    (rfl : execGetMeasurements tr n false s = s.on _) ?_ (s.dev.emit_standing _) ⟨rfl, rfl, rfl, rfl⟩
  have inRange : ¬ (6 < n.toNat ∧ n.toNat ≠ 0xFF) := by omega
  simp only [served, negotiated, inRange, Bool.not_true, Bool.false_eq_true, if_false]

theorem completes_setCertificate (leaf : Cert) (issuers : List Cert) (lifecycle : s.dev.lifecycle = .provisioned) :
    Completes (.setCertificate tr leaf issuers) s fun d =>
      d.can = { s.dev.can with cert := s.dev.can.cert || chainAccepted leaf issuers } ∧
      d.flag Fld.glbLcSts_certOk = (s.dev.flag Fld.glbLcSts_certOk || chainAccepted leaf issuers) ∧ d.mem = s.dev.mem ∧
      d.out.head? = some (if chainAccepted leaf issuers then .spdm tr 0x6E [] else .spdm tr 0x7F [1]) := by
  have effect : ∃ f, exec (.setCertificate tr leaf issuers) s = s.on f ∧ f s.dev = if chainAccepted leaf issuers then
      (Dev.setFlag { s.dev with can := { s.dev.can with cert := true } } Fld.glbLcSts_certOk true).emit (.spdm tr 0x6E [])
      else s.dev.spdmError tr [1] := by
    refine ⟨_, (rfl : execSetCertificate tr leaf issuers s = s.on _), ?_⟩
    have here : ¬ s.dev.lifecycle ≠ .provisioned := fun other => other lifecycle
    simp only [served, negotiated, if_neg here, Bool.not_true, Bool.false_eq_true, if_false]
  obtain ⟨f, hc, effect⟩ := effect
  generalize chainAccepted leaf issuers = accepted at effect ⊢
  cases accepted
  · rw [if_neg Bool.false_ne_true] at effect
    refine .of_standing hc effect rfl ⟨?_, ?_, rfl, rfl⟩
    · simp only [Bool.or_false]
      rfl
    · rw [Bool.or_false]
      rfl
  · rw [if_pos rfl] at effect
    refine .of_standing hc effect rfl ⟨?_, ?_, rfl, rfl⟩
    · simp only [Bool.or_true]
      rfl
    · rw [Bool.or_true]
      generalize ({ s.dev with can := { s.dev.can with cert := true } } : Dev) = e
      exact (congrArg (fieldOf · _ _ == 1) (Dev.emit_reg _ _ _)).trans (e.flag_setFlag_same _ true (by decide) (by decide))

/-! ### Requests for a signature -/

variable (keys : s.dev.sec.signKeys = true)
include keys

theorem completes_getMeasurements_signed {n : Byte} (known : n.toNat ≤ 6 ∨ n.toNat = 255) :
    Completes (.getMeasurements tr n true) s fun d => d.signQ = s.dev.signQ ++ [(tr, 0x6000 + n.toNat)] ∧ d.mem = s.dev.mem ∧
      d.regs = s.dev.regs := by
  obtain ⟨stands, queue, mem, regs, -⟩ := s.dev.queued_keeps tr (0x6000 + n.toNat)
  refine .of_standing (e := s.dev.queued tr (0x6000 + n.toNat)) (rfl : execGetMeasurements tr n true s = s.on _) ?_ stands ⟨queue, mem, regs⟩
  have inRange : ¬ (6 < n.toNat ∧ n.toNat ≠ 0xFF) := by omega
  simp only [served, negotiated, inRange, Bool.not_true, Bool.false_eq_true, if_false, if_true]
  exact s.dev.askSignature_queued tr keys

theorem completes_challenge : Completes (.challenge tr) s fun d => d.signQ = s.dev.signQ ++ [(tr, 0x300)] ∧ d.mem = s.dev.mem ∧
    d.regs = s.dev.regs := by
  obtain ⟨stands, queue, mem, regs, -⟩ := s.dev.queued_keeps tr 0x300
  refine .of_standing (e := s.dev.queued tr 0x300) (rfl : execChallenge tr s = s.on _) ?_ stands ⟨queue, mem, regs⟩
  simp only [served, negotiated, Bool.not_true, Bool.false_eq_true, if_false]
  exact s.dev.askSignature_queued tr keys

theorem completes_keyExchange : Completes (.keyExchange tr true) s fun d => d.signQ = s.dev.signQ ++ [(tr, 0x6400)] ∧
    d.conn tr = s.dev.conn tr ∧ d.mem = s.dev.mem ∧ d.regs = s.dev.regs := by
  obtain ⟨stands, queue, mem, regs, spdm⟩ := s.dev.queued_keeps tr 0x6400
  refine .of_standing (e := s.dev.queued tr 0x6400) (rfl : execKeyExchange tr true s = s.on _) ?_ stands ⟨queue, ?_, mem, regs⟩
  · simp only [served, negotiated, Bool.not_true, Bool.false_eq_true, if_false]
    exact s.dev.askSignature_queued tr keys
  · rw [Dev.conn, spdm, ← Dev.conn]

theorem completes_getCsr (lifecycle : s.dev.lifecycle = .provisioned) : Completes (.getCsr tr) s fun d =>
    d.signQ = s.dev.signQ ++ [(tr, 0x6D00)] ∧ d.mem = s.dev.mem ∧ d.regs = s.dev.regs := by
  obtain ⟨stands, queue, mem, regs, -⟩ := s.dev.queued_keeps tr 0x6D00
  refine .of_standing (e := s.dev.queued tr 0x6D00) (rfl : execGetCsr tr s = s.on _) ?_ stands ⟨queue, mem, regs⟩
  have here : ¬ s.dev.lifecycle ≠ .provisioned := fun other => other lifecycle
  simp only [served, negotiated, if_neg here, Bool.not_true, Bool.false_eq_true, if_false]
  exact s.dev.askSignature_queued tr keys

end

/-! ### Signatures -/

/-- The oldest request leaves the queue; a key exchange opens its session. -/
def Dev.dequeued (d : Dev) (tr : Transport) (kind : Nat) (rest : List (Transport × Nat)) : Dev :=
  if kind = 0x64 then Dev.modConn { d with signQ := rest } tr fun c => { c with session := true } else { d with signQ := rest }

theorem Dev.dequeued_signedData (d : Dev) (tr : Transport) (kind : Nat) (rest : List (Transport × Nat)) (code : Nat) :
    (d.dequeued tr kind rest).signedData code = d.signedData code := by
  unfold Dev.dequeued
  split
  · exact d.signedData_connections _ rest code
  · exact d.signedData_connections d.spdm rest code

theorem completes_signatureComplete {s : State} {tr : Transport} {k : Nat} {rest : List (Transport × Nat)} {data : List Nat}
    (first : s.dev.signQ = (tr, k) :: rest)
    (carried : data = (if k / 256 = 0x60 then s.dev.measurements (k % 256) else if k / 256 = 0x6D then compositeKey.map (·.toNat) else [])) :
    Completes .signatureComplete s fun d => d.signQ = rest ∧ d.mem = s.dev.mem ∧ d.regs = s.dev.regs ∧
      d.out.head? = some (.signed tr (k / 256) data (compositeSign (Config.transcript (transportIdx tr) (k / 256) data))) ∧
      (k / 256 = 0x64 → (d.conn tr).session = true) ∧ (k / 256 ≠ 0x64 → d.spdm = s.dev.spdm) := by
  have effect : ∃ f, exec .signatureComplete s = s.on f ∧ f s.dev = (s.dev.dequeued tr (k / 256) rest).emit (.signed tr (k / 256)
      ((s.dev.dequeued tr (k / 256) rest).signedData k) (compositeSign (Config.transcript (transportIdx tr) (k / 256)
        ((s.dev.dequeued tr (k / 256) rest).signedData k)))) := by
    refine ⟨_, (rfl : execSignatureComplete s = s.on _), ?_⟩
    simp only [first]
    rfl
  obtain ⟨f, hc, effect⟩ := effect
  have same : s.dev.signedData k = data := carried.symm
  rw [Dev.dequeued_signedData, same] at effect
  generalize compositeSign (Config.transcript (transportIdx tr) (k / 256) data) = sig at effect ⊢
  by_cases exchange : k / 256 = 0x64
  · rw [Dev.dequeued, if_pos exchange] at effect
    refine .of_standing hc effect rfl ⟨rfl, rfl, rfl, rfl, fun _ => ?_, fun other => absurd exchange other⟩
    exact congrArg SpdmConn.session (Dev.conn_modConn { s.dev with signQ := rest } tr fun c => { c with session := true })
  · rw [Dev.dequeued, if_neg exchange] at effect
    exact .of_standing hc effect rfl ⟨rfl, rfl, rfl, rfl, fun same => absurd same exchange, fun _ => rfl⟩

/-- Settles O28, one lemma for each request and one for the signature. -/
theorem attestationAnswersAndSigns : Obligations.AttestationAnswersAndSigns := by
  unfold Obligations.AttestationAnswersAndSigns
  refine ⟨?negotiate, ?unsigned, ?signed, ?challenge, ?exchange, ?csr, ?certificate, ?refused, ?signature⟩
  case negotiate => exact fun s tr c served => completes_negotiateAlgorithms served c
  case unsigned => exact fun s tr n served negotiated known => completes_getMeasurements_unsigned served negotiated known
  case signed => exact fun s tr n served negotiated known keys => completes_getMeasurements_signed served negotiated keys known
  case challenge => exact fun s tr served negotiated keys => completes_challenge served negotiated keys
  case exchange => exact fun s tr served negotiated keys => completes_keyExchange served negotiated keys
  case csr => exact fun s tr served negotiated keys lifecycle => completes_getCsr served negotiated keys lifecycle
  case certificate => exact fun s tr leaf issuers served negotiated lifecycle => completes_setCertificate served negotiated leaf issuers lifecycle
  case refused => exact fun s tr leaf issuers served other => completes_setCertificate_refused served leaf issuers other
  case signature => exact fun s tr k rest data first carried => completes_signatureComplete first carried

end Sys2Proof.Machine


/-! SUPPORT. XT_STAGE_COMMIT while a reference scan runs (O19, R425, R432). -/

namespace Sys2Proof.Machine

/-- The page of the command interfaces holds no staged field. -/
theorem isStaged_mbox {o : Nat} (page : mboxReg o = true) : isStaged o = false := by
  simp only [mboxReg, Bool.and_eq_true, decide_eq_true_eq] at page
  obtain ⟨low, high⟩ := page
  have above {k : Nat} (h : k ≤ 0x380000) : ¬ o < k := (h.trans low).not_gt
  have table : regDefsAt o = regDefsMbox := by
    unfold regDefsAt
    iterate 19 refine (if_neg (above (by decide))).trans ?_
    exact if_pos (high.trans (by decide))
  have plain : ∀ r ∈ regDefsMbox, r.rws = 0 := by decide
  rw [isStaged, accMask, regDef?, table]
  cases found : regDefsMbox.find? fun r => r.covers o with
  | none => rfl
  | some r => simp [plain r (List.mem_of_find?_eq_some found)]

/-- An answer leaves every register with staged fields alone. -/
theorem Dev.complete_staged (d : Dev) (i : Iface) (op rc : Nat) (x : Payload) {o : Nat} (staged : isStaged o = true) :
    (d.complete i op rc x).reg o = d.reg o := by
  have mbox : mboxReg o = false := by
    cases page : mboxReg o
    · rfl
    · rw [isStaged_mbox page] at staged
      cases staged
  have relay : relayReg o = false := by
    simp only [relayReg, Bool.or_eq_false_iff, beq_eq_false_iff_ne]
    constructor
    · rintro rfl
      exact absurd staged (by decide)
    · rintro rfl
      exact absurd staged (by decide)
  exact d.complete_reg i op rc x o mbox relay

/-- Settles O19: the body of the command answers Busy before it looks at anything else. -/
theorem referenceScanMakesCommitBusy : Obligations.ReferenceScanMakesCommitBusy := by
  unfold Obligations.ReferenceScanMakesCommitBusy
  intro s i p takes own scanning
  refine .of_standing (e := s.dev.complete i 0xC011 rcBusy []) (rfl : execXtStageCommit i p s = s.on _) ?_ (s.dev.complete_standing _ _ _ _) ?_
  · rw [Dev.mailbox_now _ _ _ _ _ takes, bodyStageCommit, Dev.vendor_own _ _ _ _ _ _ own]
    simp only [scanning, Bool.or_true, if_true]
  · exact ⟨Dev.complete_answered _ _ _ _ _, Dev.complete_stg _ _ _ _ _, Dev.complete_shadow _ _ _ _ _,
      fun o staged => s.dev.complete_staged _ _ _ _ staged⟩

end Sys2Proof.Machine


/-! SUPPORT. The VCs of a Relay link whose configuration changed behind its training (O41, R355, R368). -/

namespace Sys2Proof.Machine

/-- A tail in AUTH whose link trained with 4 VCs; `RLY_VC_CFG`.COUNT has stood at 8 VCs since. -/
def trainedWithFour : State :=
  onDev tail fun d => (d.setFld (Fld.rlyLinkSts_state 0) 2).setFld (Fld.rlyLinkSts_vcs 0) 4

set_option maxRecDepth 20000 in
/-- Its link becomes KEYED with the 4 VCs it trained with. -/
theorem trainedWithFour_keyed : ∃ s, exec (.relayAuthComplete .a true 3 8 0) trainedWithFour = .next s ∧
    s.dev.fld (Fld.rlyLinkSts_vcs (portIdx .a)) = 4 :=
  ⟨_, rfl, by decide⟩

set_option maxRecDepth 20000 in
/-- Refutes O41, in its clause of RELAY_AUTH_COMPLETE: it demands the smaller of the peer's VCs and those of `RLY_VC_CFG`.COUNT at that
moment. The link goes by the VCs it trained with (R353), so a COUNT that a commit has changed since does not count. -/
theorem not_relayLinksTrainKeyAndRecover : ¬ Obligations.RelayLinksTrainKeyAndRecover := by
  unfold Obligations.RelayLinksTrainKeyAndRecover
  rintro ⟨-, -, authenticated, -⟩
  obtain ⟨s, runs, -, -, -, -, smaller, -⟩ := authenticated trainedWithFour .a 3 8 0 (by decide) (by decide) (.inr rfl)
  obtain ⟨t, runs', four⟩ := trainedWithFour_keyed
  obtain rfl : t = s := Host.Outcome.next.inj (runs'.symm.trans runs)
  rw [four] at smaller
  exact absurd smaller (by decide)

end Sys2Proof.Machine


/-! SUPPORT. A DATA flit whose credit lets a queued message leave (O42, R366, R369). -/

namespace Sys2Proof.Machine

/-- A member that owes an acknowledgement since cycle 0 of pour 1; a message waits on Relay-up, whose VC has spent all of its credit. -/
def creditSpent : State :=
  onDev member fun d => { d.modRly .a fun r => { r with
    ackOwed := some ⟨1, 0⟩, queue := [⟨msg 2 0 0, 0x20, [], none⟩], sent := vmod r.sent 1 fun _ => 512 } with clk := ⟨true, 50, 0⟩ }

/-- A DATA flit with number 0 that returns one slot of that VC. -/
def returnsCredit : Flit := flitOf 1 0 4095 1 1 1

set_option maxRecDepth 20000 in
theorem creditSpent_inOrder : InOrder creditSpent.dev .a returnsCredit := by
  have crc : returnsCredit.crcOk = true := by
    simp only [Flit.crcOk, returnsCredit, flitOf, flitBytes, beq_self_eq_true]
  exact ⟨by decide, rfl, crc, rfl, by decide⟩

theorem exec_dataFlit (p : PortId) (f : Flit) (s : State) : exec (.dataFlit p f) s = s.on fun d => d.seqFlit p f none f.slots := rfl

theorem settle_rlyOf (a b : Dev) (p : PortId) : (settle a b).rlyOf p = b.rlyOf p := rfl

/-- A flit in order passes its checks as it is: what it acknowledges and returns comes first, then its number. -/
theorem Dev.seqFlit_inOrder {d : Dev} {p : PortId} {f : Flit} (inOrder : InOrder d p f) (type : f.typeOk = true) (clean : f.fecCorrected = false)
    (roll : Option Roll) (slots : List (Nat × BitVec 128)) :
    d.seqFlit p f roll slots = (d.piggy p f).sequenced p f.seq slots roll := by
  obtain ⟨keyed, fec, crc, tag, -⟩ := inOrder
  simp only [Dev.keyed, Bool.and_eq_true, beq_iff_eq] at keyed
  obtain ⟨live, keyed⟩ := keyed
  have checked : d.flitChecks p f = (d, true) := by
    simp [Dev.flitChecks, live, keyed, fec, crc, tag, clean]
  simp [Dev.seqFlit, checked, type]

set_option maxRecDepth 20000 in
/-- The queued message leaves first and carries the acknowledgement; the flit delivered behind it owes a new one. -/
theorem creditSpent_delivers :
    (((creditSpent.dev.piggy .a returnsCredit).sequenced .a returnsCredit.seq returnsCredit.slots none).rlyOf .a).ackOwed = some ⟨50, 0⟩ := by
  decide

set_option maxRecDepth 20000 in
/-- Refutes O42, in its clause of DATA_FLIT: it demands that an acknowledgement owed before stays owed from its old moment. The credit that
the flit returns lets a queued message leave, which carries the acknowledgement (R358), so the one owed behind it is of this cycle. -/
theorem not_relayFlitsKeepOrderAndCredit : ¬ Obligations.RelayFlitsKeepOrderAndCredit := by
  unfold Obligations.RelayFlitsKeepOrderAndCredit
  rintro ⟨delivered, -⟩
  obtain ⟨-, owed, -⟩ := (delivered creditSpent .a returnsCredit creditSpent_inOrder (by decide) (by decide)).settled
    (exec_dataFlit .a returnsCredit creditSpent)
  rw [settle_rlyOf, Dev.seqFlit_inOrder creditSpent_inOrder (by decide) rfl, creditSpent_delivers] at owed
  exact absurd owed (by decide)

end Sys2Proof.Machine


/-! SUPPORT. The Canister's settings area (O15, R403, R404): stores, loads and erases. -/

namespace Sys2Proof.Machine

section
variable (d : Dev) (i : Iface)

@[simp] theorem Dev.longRun_standing (op : Nat) : (d.longRun i op).standing = d.standing := rfl

/-- The command that ends is answered, where one with its opcode runs. -/
theorem Dev.completeRunning_shape (op rc : Nat) (out : Payload) : d.completeRunning op rc out = d ∨
    ∃ j, d.completeRunning op rc out = d.complete j op rc out := by
  unfold Dev.completeRunning
  split
  · exact .inr ⟨_, rfl⟩
  · exact .inl rfl

section
variable (op rc : Nat) (out : Payload)

@[simp] theorem Dev.completeRunning_standing : (d.completeRunning op rc out).standing = d.standing := by
  obtain same | ⟨j, same⟩ := d.completeRunning_shape op rc out
  · rw [same]
  · rw [same, Dev.complete_standing]

@[simp] theorem Dev.completeRunning_can : (d.completeRunning op rc out).can = d.can := by
  obtain same | ⟨j, same⟩ := d.completeRunning_shape op rc out
  · rw [same]
  · rw [same, Dev.complete_can]

theorem Dev.completeRunning_reg {o : Nat} (mbox : mboxReg o = false) (relay : relayReg o = false) :
    (d.completeRunning op rc out).reg o = d.reg o := by
  obtain same | ⟨j, same⟩ := d.completeRunning_shape op rc out
  · rw [same]
  · rw [same, Dev.complete_reg _ _ _ _ _ _ mbox relay]

theorem Dev.completeRunning_softCrema : (d.completeRunning op rc out).mb.softCrema = d.mb.softCrema := by
  obtain same | ⟨j, same⟩ := d.completeRunning_shape op rc out
  · rw [same]
  · obtain ⟨_, _, mb⟩ := d.complete_mb j op rc out
    rw [same, mb]

end

/-! ### Stores -/

/-- The copy that a store writes: it stands without its CRC until the store ends. -/
def Dev.storedCopy (d : Dev) : Copy :=
  { gen := d.nextCopy.2, regs := d.settings, portMode := d.fld Fld.glbPortMode_mode, near := d.near, cremaRepairs := d.mb.softCrema,
    farRepairs := d.mb.softFar, crcOk := false }

/-- A device that stores its settings for a command. -/
def Dev.storing (d : Dev) (i : Iface) : Dev :=
  (Dev.setFlag { d with can := { d.can with
    copies := vmod d.can.copies d.nextCopy.1.val fun _ => some d.storedCopy, storing := some (i, none) } } Fld.canSts_store true).longRun i 0xC050

end

theorem vget_vmod_fin {α : Type} {n : Nat} (x : α) (v : Vector α n) (i : Fin n) (f : α → α) : vget x (vmod v i.val f) i.val = f (vget x v i.val) := by
  rw [vget_vmod, if_pos ⟨rfl, i.isLt⟩]

section
variable {s : State} {i : Iface} {p : Payload}

theorem xtCanisterStore_runs (takes : s.dev.takesNow i 0xC050) (own : s.dev.ownPayload p 0) : ∃ f, exec (.xtCanisterStore i p) s = s.on f ∧
    f s.dev = if s.dev.can.storing.isSome then s.dev.complete i 0xC050 rcBusy [] else s.dev.storing i := by
  refine ⟨_, (rfl : execXtCanisterStore i p s = s.on _), ?_⟩
  rw [Dev.mailbox_now _ _ _ _ _ takes, bodyCanisterStore, Dev.vendor_own _ _ _ _ _ _ own]
  rfl

theorem completes_xtCanisterStore (takes : s.dev.takesNow i 0xC050) (own : s.dev.ownPayload p 0) (idle : s.dev.can.storing = none) :
    Completes (.xtCanisterStore i p) s fun d => d.can.storing = some (i, none) ∧ d.can.newest = s.dev.can.newest ∧
      vget none d.can.copies s.dev.nextCopy.1.val = some s.dev.storedCopy ∧ d.mb.running = s.dev.mb.running ++ [(i, 0xC050)] := by
  obtain ⟨f, hc, effect⟩ := xtCanisterStore_runs takes own
  rw [if_neg (by simp [idle])] at effect
  exact .of_standing hc effect rfl ⟨rfl, rfl, vget_vmod_fin _ _ _ _, rfl⟩

theorem completes_xtCanisterStore_busy (takes : s.dev.takesNow i 0xC050) (own : s.dev.ownPayload p 0) (busy : s.dev.can.storing.isSome = true) :
    Completes (.xtCanisterStore i p) s fun d => d.answered i rcBusy 0xC050 [] ∧ d.can = s.dev.can := by
  obtain ⟨f, hc, effect⟩ := xtCanisterStore_runs takes own
  rw [if_pos busy] at effect
  exact .of_standing hc effect (Dev.complete_standing _ _ _ _ _) ⟨Dev.complete_answered _ _ _ _ _, Dev.complete_can _ _ _ _ _⟩

/-- The end of a store makes its copy valid and the newest one. -/
def Canister.stored (c : Canister) (n : Fin 16) : Canister :=
  { c with storing := none, newest := some n, copies := vmod c.copies n.val fun o => o.map fun (x : Copy) => { x with crcOk := true } }

theorem completes_canisterStoreComplete (under : s.dev.can.storing = some (i, none)) : Completes .canisterStoreComplete s fun d =>
    d.can.storing = none ∧ d.can.newest = some s.dev.nextCopy.1 ∧ vget none d.can.copies s.dev.nextCopy.1.val =
      (vget none s.dev.can.copies s.dev.nextCopy.1.val).map fun c => { c with crcOk := true } := by
  have effect : ∃ f out, exec .canisterStoreComplete s = s.on f ∧ f s.dev = ((Dev.setFlag { s.dev with can := s.dev.can.stored s.dev.nextCopy.1 }
      Fld.canSts_store false).syncCanister).completeRunning 0xC050 rcSuccess out := by
    refine ⟨_, leBytes 8 s.dev.nextCopy.2 ++ [BitVec.ofNat 8 s.dev.nextCopy.1.val], (rfl : execCanisterStoreComplete s = s.on _), ?_⟩
    simp only [under]
    rfl
  obtain ⟨f, out, hc, effect⟩ := effect
  obtain ⟨r, synced⟩ := Dev.syncCanister_regsOf (Dev.setFlag { s.dev with can := s.dev.can.stored s.dev.nextCopy.1 } Fld.canSts_store false)
  rw [synced] at effect
  refine .of_standing hc effect (Dev.completeRunning_standing _ _ _ _) ?_
  rw [Dev.completeRunning_can]
  exact ⟨rfl, rfl, vget_vmod_fin _ _ _ _⟩

end

/-! ### Loads -/

/-- What staging a copy leaves alone. -/
def Dev.unstaged (d : Dev) : (Part × Fuses × Mode) × Canister × Mbox × Word := (d.standing, d.can, d.mb, d.reg Off.glbPortMode)

section
variable (d : Dev) (i : Iface)

theorem Dev.ownStaging_shape : ∃ r g, d.ownStaging i = { d with regs := r, stg := g } := ⟨_, _, rfl⟩

theorem Dev.staged_shape : ∃ r g, d.staged i = { d with regs := r, stg := g } := by
  obtain ⟨r, g, owned⟩ := d.ownStaging_shape i
  unfold Dev.staged
  dsimp only
  rw [owned]
  obtain ⟨r', synced⟩ := Dev.syncStaging_shape { d with regs := r, stg := { g with checked := false, writes := g.writes + 1 } }
  exact ⟨r', _, synced⟩

theorem Dev.staged_unstaged : (d.staged i).unstaged = d.unstaged := by
  have port : (d.staged i).reg Off.glbPortMode = d.reg Off.glbPortMode := d.staged_reg i (by decide) (by cases i <;> decide)
  unfold Dev.unstaged
  rw [port]
  obtain ⟨r, g, shape⟩ := d.staged_shape i
  rw [shape]
  rfl

theorem Dev.setPend_unstaged (o : Nat) (w : Word) : (d.setPend o w).unstaged = d.unstaged := rfl

theorem Dev.pendWrite_unstaged (o : Nat) (v : Word) : (d.pendWrite o v).unstaged = d.unstaged := Dev.setPend_unstaged _ _ _

theorem Dev.stage_unstaged (c : StagedCmd) : (d.stage i c).unstaged = d.unstaged := Dev.staged_unstaged _ i

/-- A staged change makes its interface the owner and clears CHECKED. -/
theorem Dev.staged_owner : (d.staged i).stg.owner = some i ∧ (d.staged i).stg.checked = false := by
  rw [d.staged_stg i]
  exact ⟨rfl, rfl⟩

theorem Dev.stageCopy_unstaged (c : Copy) : (d.stageCopy i c).unstaged = d.unstaged := by
  have regs : (c.regs.foldl (fun d (e : Nat × Word) => (d.pendWrite e.1 e.2).staged i) d).unstaged = d.unstaged :=
    foldl_keeps Dev.unstaged _ _ d fun d e => (Dev.staged_unstaged _ i).trans (d.pendWrite_unstaged _ _)
  unfold Dev.stageCopy
  dsimp only
  generalize c.regs.foldl (fun d (e : Nat × Word) => (d.pendWrite e.1 e.2).staged i) d = e at regs ⊢
  split
  · rw [Dev.staged_unstaged, Dev.setPend_unstaged, regs]
  · rw [Dev.stage_unstaged, Dev.staged_unstaged, Dev.setPend_unstaged, regs]

theorem Dev.stageCopy_owner (c : Copy) : (d.stageCopy i c).stg.owner = some i ∧ (d.stageCopy i c).stg.checked = false := by
  unfold Dev.stageCopy
  dsimp only
  split
  · exact Dev.staged_owner _ i
  · exact Dev.staged_owner _ i

end

section
variable {s : State} {i : Iface} {p : Payload} (takes : s.dev.takesNow i 0xC051) (own : s.dev.ownPayload p 0) (may : s.dev.mayStage i = true)
  (idle : s.dev.stg.checking = none)
include takes own may idle

theorem completes_xtCanisterLoad {c : Copy} (newest : s.dev.newestCopy = some c) : Completes (.xtCanisterLoad i p) s fun d =>
    d.answered i rcSuccess 0xC051 (leBytes 8 c.gen) ∧ d.stg.owner = some i ∧ d.stg.checked = false ∧ d.can = s.dev.can ∧
      d.mb.softCrema = s.dev.mb.softCrema ∧ d.mb.softFar = s.dev.mb.softFar ∧ d.reg Off.glbPortMode = s.dev.reg Off.glbPortMode := by
  have effect : ∃ f, exec (.xtCanisterLoad i p) s = s.on f ∧ f s.dev = (s.dev.stageCopy i c).complete i 0xC051 rcSuccess (leBytes 8 c.gen) := by
    refine ⟨_, (rfl : execXtCanisterLoad i p s = s.on _), ?_⟩
    rw [Dev.mailbox_now _ _ _ _ _ takes, bodyCanisterLoad, Dev.vendor_own _ _ _ _ _ _ own]
    simp only [may, idle, newest, Option.isSome_none, Bool.not_true, Bool.or_self, Bool.false_eq_true, if_false]
  obtain ⟨f, hc, effect⟩ := effect
  have kept := s.dev.stageCopy_unstaged i c
  have owner := s.dev.stageCopy_owner i c
  generalize s.dev.stageCopy i c = e at effect kept owner
  simp only [Dev.unstaged, Prod.mk.injEq] at kept
  obtain ⟨stands, can, mb, port⟩ := kept
  refine .of_standing hc effect ((e.complete_standing _ _ _ _).trans stands) ?_
  obtain ⟨_, _, mb'⟩ := e.complete_mb i 0xC051 rcSuccess (leBytes 8 c.gen)
  rw [Dev.complete_stg, Dev.complete_can, mb', Dev.complete_reg _ _ _ _ _ _ (by decide) (by decide)]
  exact ⟨Dev.complete_answered _ _ _ _ _, owner.1, owner.2, can, (congrArg Mbox.softCrema mb : e.mb.softCrema = _), (congrArg Mbox.softFar mb : e.mb.softFar = _), port⟩

theorem completes_xtCanisterLoad_none (newest : s.dev.newestCopy = none) : Completes (.xtCanisterLoad i p) s fun d =>
    d.answered i rcInvalidInput 0xC051 [] ∧ d.stg = s.dev.stg ∧ d.shadow = s.dev.shadow := by
  refine .of_standing (e := s.dev.complete i 0xC051 rcInvalidInput []) (rfl : execXtCanisterLoad i p s = s.on _) ?_
    (Dev.complete_standing _ _ _ _ _) ⟨Dev.complete_answered _ _ _ _ _, Dev.complete_stg _ _ _ _ _, Dev.complete_shadow _ _ _ _ _⟩
  rw [Dev.mailbox_now _ _ _ _ _ takes, bodyCanisterLoad, Dev.vendor_own _ _ _ _ _ _ own]
  simp only [may, idle, newest, Option.isSome_none, Bool.not_true, Bool.or_self, Bool.false_eq_true, if_false]

end

/-! ### Erases -/

/-- An erase of some areas has begun. -/
def Dev.erasing (d : Dev) (area : Nat) : Dev :=
  Dev.setFlag { d.setFld Fld.canErase_area area with can := { d.can with storing := some (.mctp, some area) } } Fld.canSts_store true

theorem eraseAct_taken {d : Dev} {v : Word} (idle : d.can.storing = none) : eraseAct v d = some (d.erasing (fieldOf v 0 2)) := by
  simp only [eraseAct, idle, Option.isSome_none, Bool.false_eq_true, if_false]
  rfl

theorem eraseAct_refused {d : Dev} {v : Word} (busy : d.can.storing.isSome = true) : eraseAct v d = none := by
  simp only [eraseAct, busy, if_true]

theorem Dev.erasing_area (d : Dev) (v : Word) : (d.erasing (fieldOf v 0 2)).fld Fld.canErase_area = fieldOf v 0 2 := by
  unfold Dev.erasing Dev.setFlag
  rw [Dev.fld_setFld_apart _ _ _ _ (by decide)]
  exact (d.fld_setFld_same Fld.canErase_area (fieldOf v 0 2) (by decide)).trans (Nat.mod_mod _ _)

section
variable {s : State} {src : Source} {v key : Word} (access : s.dev.canAccess src Off.canErase = true)
  (ready : s.dev.pairReady src Off.canErase v key)
include access ready

theorem completes_canErase (idle : s.dev.can.storing = none) : Completes (.canErase src key) s fun d =>
    d.can = { s.dev.can with storing := some (.mctp, some (fieldOf v 0 2)) } ∧ d.fld Fld.canErase_area = fieldOf v 0 2 ∧
      d.flag Fld.canSts_store = true :=
  .of_keyTaken (exec_canErase src key s) access ready (eraseAct_taken (d := s.dev.setArmed src none) idle) rfl
    ⟨rfl, Dev.erasing_area _ v, Dev.flag_setFlag_same _ _ _ (by decide) (by decide)⟩

theorem completes_canErase_busy (busy : s.dev.can.storing.isSome = true) : Completes (.canErase src key) s fun d =>
    d.can = s.dev.can ∧ d.reg Off.glbKeyfail = keyfailWord 3 Off.canErase :=
  .of_keyRefused (exec_canErase src key s) access ready (eraseAct_refused (d := s.dev.setArmed src none) busy) ⟨rfl, Dev.keyFail_reg _ _ _⟩

end

section
variable {s : State} {i : Iface} {p : Payload}

/-- The pair that Barista drives for XT_CANISTER_ERASE. -/
def Dev.erasePaired (d : Dev) (i : Iface) (area : Nat) : Dev := d.paired i Off.canErase (BitVec.ofNat 32 area)

theorem byteAt_lt (q : Payload) (n : Nat) : byteAt q n < 256 := (q.getD n 0).isLt

/-- CONFIRM is the complement of AREA where its four bytes say so. -/
theorem eraseConfirm_iff (q : Payload) :
    BitVec.ofNat 32 (leNat q 1 4) = ~~~(BitVec.ofNat 32 (byteAt q 0)) ↔ leNat q 1 4 = 2 ^ 32 - 1 - byteAt q 0 := by
  have area : byteAt q 0 < 2 ^ 32 := (byteAt_lt q 0).trans (by decide)
  have small : leNat q 1 4 < 2 ^ 32 := leNat_lt q 1 4
  refine ⟨fun same => ?_, confirm_inverse area⟩
  have nat := congrArg BitVec.toNat same
  rwa [BitVec.toNat_not, BitVec.toNat_ofNat, BitVec.toNat_ofNat, Nat.mod_eq_of_lt area, Nat.mod_eq_of_lt small] at nat

/-- How XT_CANISTER_ERASE, once taken, goes on. -/
theorem xtCanisterErase_runs (takes : s.dev.takesNow i 0xC052) (own : s.dev.ownPayload p 5) {e : Dev} {okKey ok : Bool}
    (driven : s.dev.drivePair i Off.canErase (BitVec.ofNat 32 (byteAt (p.drop 8) 0)) (BitVec.ofNat 32 (leNat (p.drop 8) 1 4)) eraseAct =
      (e, okKey, ok)) : ∃ f, exec (.xtCanisterErase i p) s = s.on f ∧ f s.dev =
        if 4 ≤ byteAt (p.drop 8) 0 then s.dev.complete i 0xC052 rcInvalidInput []
        else if s.dev.can.storing.isSome then s.dev.complete i 0xC052 rcBusy []
        else if okKey then e.longRun i 0xC052 else e.complete i 0xC052 rcInvalidInput [] := by
  refine ⟨_, (rfl : execXtCanisterErase i p s = s.on _), ?_⟩
  rw [Dev.mailbox_now _ _ _ _ _ takes, bodyCanisterErase, Dev.vendor_own _ _ _ _ _ _ own, driven]

variable (takes : s.dev.takesNow i 0xC052) (own : s.dev.ownPayload p 5)
include takes own

theorem completes_xtCanisterErase (known : byteAt (p.drop 8) 0 < 4) (idle : s.dev.can.storing = none)
    (confirm : leNat (p.drop 8) 1 4 = 2 ^ 32 - 1 - byteAt (p.drop 8) 0) : Completes (.xtCanisterErase i p) s fun d =>
    d.can = { s.dev.can with storing := some (.mctp, some (byteAt (p.drop 8) 0)) } ∧ d.mb.running = s.dev.mb.running ++ [(i, 0xC052)] := by
  have idle' : (s.dev.erasePaired i (byteAt (p.drop 8) 0)).can.storing = none := by rw [Dev.erasePaired, Dev.paired_can, idle]
  have driven := Dev.drivePair_taken s.dev ((eraseConfirm_iff (p.drop 8)).mpr confirm) (eraseAct_taken (v := BitVec.ofNat 32 (byteAt (p.drop 8) 0)) idle')
  obtain ⟨f, hc, effect⟩ := xtCanisterErase_runs takes own driven
  have area : fieldOf (BitVec.ofNat 32 (byteAt (p.drop 8) 0)) 0 2 = byteAt (p.drop 8) 0 := by
    rw [fieldOf, BitVec.toNat_ofNat, Nat.shiftRight_zero, Nat.mod_eq_of_lt (b := 2 ^ 32) (known.trans (by decide)),
      Nat.mod_eq_of_lt (b := 2 ^ 2) known]
  rw [if_neg (Nat.not_le.mpr known), if_neg (by simp [idle]), if_pos rfl, area] at effect
  obtain ⟨r, a, paired⟩ := s.dev.paired_regs_acc i Off.canErase (BitVec.ofNat 32 (byteAt (p.drop 8) 0))
  rw [paired] at effect
  exact .of_standing hc effect rfl ⟨rfl, rfl⟩

theorem completes_xtCanisterErase_busy (known : byteAt (p.drop 8) 0 < 4) (busy : s.dev.can.storing.isSome = true) :
    Completes (.xtCanisterErase i p) s fun d => d.answered i rcBusy 0xC052 [] ∧ d.can = s.dev.can := by
  obtain ⟨f, hc, effect⟩ := xtCanisterErase_runs takes own rfl
  rw [if_neg (Nat.not_le.mpr known), if_pos busy] at effect
  exact .of_standing hc effect (Dev.complete_standing _ _ _ _ _) ⟨Dev.complete_answered _ _ _ _ _, Dev.complete_can _ _ _ _ _⟩

theorem completes_xtCanisterErase_wrong (free : 4 ≤ byteAt (p.drop 8) 0 ∨ s.dev.can.storing = none)
    (wrong : leNat (p.drop 8) 1 4 ≠ 2 ^ 32 - 1 - byteAt (p.drop 8) 0) :
    Completes (.xtCanisterErase i p) s fun d => d.answered i rcInvalidInput 0xC052 [] ∧ d.can = s.dev.can := by
  have driven := Dev.drivePair_wrong s.dev i (off := Off.canErase) (act := eraseAct) (mt (eraseConfirm_iff (p.drop 8)).mp wrong)
  obtain ⟨f, hc, effect⟩ := xtCanisterErase_runs takes own driven
  by_cases known : 4 ≤ byteAt (p.drop 8) 0
  · rw [if_pos known] at effect
    exact .of_standing hc effect (Dev.complete_standing _ _ _ _ _) ⟨Dev.complete_answered _ _ _ _ _, Dev.complete_can _ _ _ _ _⟩
  · have idle : s.dev.can.storing = none := free.resolve_left known
    rw [if_neg known, if_neg (by simp [idle]), if_neg (by decide)] at effect
    obtain ⟨r, a, paired⟩ := s.dev.paired_regs_acc i Off.canErase (BitVec.ofNat 32 (byteAt (p.drop 8) 0))
    rw [paired] at effect
    refine .of_standing hc effect (Dev.complete_standing _ _ _ _ _) ⟨Dev.complete_answered _ _ _ _ _, ?_⟩
    rw [Dev.complete_can]
    rfl

end

/-- The Canister after an erase of the areas of a mask. -/
def Canister.erasedBy (c : Canister) (area : Nat) : Canister :=
  let c := if bitAt area 0 then { c with copies := Vector.replicate 16 none, newest := none } else c
  if bitAt area 1 then { c with log := [], logCount := 0 } else c

theorem Canister.erasedBy_keeps (c : Canister) (area : Nat) : (c.erasedBy area).storing = c.storing ∧ (c.erasedBy area).slots = c.slots ∧
    (c.erasedBy area).lcLog = c.lcLog ∧ (c.erasedBy area).halt = c.halt := by
  unfold Canister.erasedBy
  dsimp only
  split <;> split <;> exact ⟨rfl, rfl, rfl, rfl⟩

theorem Canister.erasedBy_settings {area : Nat} (c : Canister) (settings : bitAt area 0 = true) :
    (c.erasedBy area).copies = Vector.replicate 16 none ∧ (c.erasedBy area).newest = none := by
  unfold Canister.erasedBy
  rw [if_pos settings]
  dsimp only
  split <;> exact ⟨rfl, rfl⟩

theorem Canister.erasedBy_log {area : Nat} (c : Canister) (log : bitAt area 1 = true) :
    (c.erasedBy area).log = [] ∧ (c.erasedBy area).logCount = 0 := by
  unfold Canister.erasedBy
  dsimp only
  rw [if_pos log]
  exact ⟨rfl, rfl⟩

/-- The device with another Canister. -/
def Dev.withCan (d : Dev) (c : Canister) : Dev := { d with can := c }

/-- The second half of an erase: the log, and what the registers show. -/
def Dev.eraseLog (area : Nat) (d : Dev) : Dev :=
  (if bitAt area 1 then { d with can := { d.can with log := [], logCount := 0 } } else d).syncCanister.syncLog

/-- An erase changes the Canister and shows it; NEXT counts the log that is left. -/
theorem Dev.eraseAreas_shape (d : Dev) (area : Nat) : (∃ r, d.eraseAreas area = { d with can := d.can.erasedBy area, regs := r }) ∧
    (d.eraseAreas area).fld Fld.canLogSts_next = (d.can.erasedBy area).logCount % 8192 := by
  have erased : d.eraseAreas area = (Dev.syncCanister { d with can := d.can.erasedBy area }).syncLog := by
    have first := (apply_ite d.withCan (bitAt area 0 = true) { d.can with copies := Vector.replicate 16 none, newest := none } d.can).symm
    have second (c : Canister) := (apply_ite d.withCan (bitAt area 1 = true) { c with log := [], logCount := 0 } c).symm
    exact (congrArg (Dev.eraseLog area) first).trans (congrArg (·.syncCanister.syncLog) (second _))
  obtain ⟨r, synced⟩ := Dev.syncCanister_regsOf { d with can := d.can.erasedBy area }
  rw [erased, synced]
  exact ⟨⟨_, rfl⟩, (Dev.fld_setFld_same _ _ _ (by decide)).trans (Nat.mod_mod _ _)⟩

theorem completes_canisterEraseComplete {s : State} {i : Iface} {area : Nat} (under : s.dev.can.storing = some (i, some area)) :
    Completes .canisterEraseComplete s fun d => d.can.storing = none ∧ d.can.slots = s.dev.can.slots ∧ d.can.lcLog = s.dev.can.lcLog ∧
      d.can.halt = s.dev.can.halt ∧ d.mb.softCrema = s.dev.mb.softCrema ∧
      (bitAt area 0 = true → d.can.copies = Vector.replicate 16 none ∧ d.can.newest = none) ∧
      (bitAt area 1 = true → d.can.log = [] ∧ d.can.logCount = 0 ∧ d.fld Fld.canLogSts_next = 0) := by
  have effect : ∃ f, exec .canisterEraseComplete s = s.on f ∧ f s.dev = ((Dev.setFlag { s.dev with can := { s.dev.can with storing := none } }
      Fld.canSts_store false).eraseAreas area).completeRunning 0xC052 rcSuccess [] := by
    refine ⟨_, (rfl : execCanisterEraseComplete s = s.on _), ?_⟩
    simp only [under]
  obtain ⟨f, hc, effect⟩ := effect
  obtain ⟨⟨r, shape⟩, next⟩ := Dev.eraseAreas_shape (Dev.setFlag { s.dev with can := { s.dev.can with storing := none } } Fld.canSts_store false) area
  obtain ⟨storing, slots, lcLog, halt⟩ := Canister.erasedBy_keeps { s.dev.can with storing := none } area
  rw [shape] at effect next
  refine .of_standing hc effect (Dev.completeRunning_standing _ _ _ _) ?_
  rw [Dev.completeRunning_can, Dev.completeRunning_softCrema]
  refine ⟨storing, slots, lcLog, halt, rfl, fun settings => Canister.erasedBy_settings _ settings, fun log => ?_⟩
  obtain ⟨empty, count⟩ := Canister.erasedBy_log { s.dev.can with storing := none } log
  refine ⟨empty, count, (congrArg (fieldOf · _ _) (Dev.completeRunning_reg _ _ _ _ (by decide) (by decide))).trans (next.trans ?_)⟩
  exact congrArg (· % 8192) count

/-- Settles O15: stores, loads and erases, each from its start to its end. -/
theorem canisterStoresLoadsAndErases : Obligations.CanisterStoresLoadsAndErases := by
  unfold Obligations.CanisterStoresLoadsAndErases
  refine ⟨?store, ?storeBusy, ?storeEnd, ?load, ?loadNone, ?pair, ?erase, ?pairBusy, ?eraseBusy, ?eraseWrong, ?eraseEnd⟩
  case store => exact fun s i p takes own idle => completes_xtCanisterStore takes own idle
  case storeBusy => exact fun s i p takes own busy => completes_xtCanisterStore_busy takes own busy
  case storeEnd => exact fun s i under => completes_canisterStoreComplete under
  case load => exact fun s c i p takes own may idle newest => completes_xtCanisterLoad takes own may idle newest
  case loadNone => exact fun s i p takes own may idle newest => completes_xtCanisterLoad_none takes own may idle newest
  case pair => exact fun s src v key access ready idle => completes_canErase access ready idle
  case erase => exact fun s i p takes own known idle confirm => completes_xtCanisterErase takes own known idle confirm
  case pairBusy => exact fun s src v key access ready busy => completes_canErase_busy access ready busy
  case eraseBusy => exact fun s i p takes own known busy => completes_xtCanisterErase_busy takes own known busy
  case eraseWrong => exact fun s i p takes own free wrong => completes_xtCanisterErase_wrong takes own free wrong
  case eraseEnd => exact fun s i area under => completes_canisterEraseComplete under

end Sys2Proof.Machine


/-! SUPPORT. The gate of a command interface and the commands that wait (O54, R388 to R398). -/

namespace Sys2Proof.Machine

/-- What holds of the one answer of the first branch and of every answer of the second holds of every answer. -/
theorem forall_some_dite {α : Type} {q : Prop} [Decidable q] {a : q → Option α} {b : ¬ q → Option α} {P : α → Prop}
    (yes : ∀ h, ∃ c, a h = some c ∧ P c) (no : ∀ h c, b h = some c → P c) : ∀ c, dite q a b = some c → P c := by
  split
  · next h =>
    obtain ⟨c, known, holds⟩ := yes h
    simpa [known] using holds
  · exact no _

/-- The command goes through the gate of its interface under its opcode, which is one of 16 bits. -/
def Gated (i : Iface) (s : State) (o : Nat) (c : Instr) : Prop :=
  o < 2 ^ 16 ∧ ∃ body, exec c s = s.on fun d => d.mailbox i c o body

theorem Gated.of_exec {i : Iface} {s : State} {o : Nat} {c : Instr} {body : Dev → Dev} (small : o.blt (2 ^ 16) = true)
    (e : exec c s = s.on fun d => d.mailbox i c o body) : Gated i s o c :=
  ⟨Nat.blt_eq.mp small, body, e⟩

set_option linter.auxLemma false in
/-- The match on the opcode is a chain of 27 tests, and each that succeeds names one command. -/
theorem gated_of_vendorCmd {o : Nat} {i : Iface} {p : Payload} {s : State} : ∀ c, vendorCmd o i p = some c → Gated i s o c := by
  delta vendorCmd vendorCmd.match_1
  iterate 27
    refine forall_some_dite ?known fun _ => ?_
    case known =>
      rintro rfl
      exact ⟨_, rfl, .of_exec rfl rfl⟩
  exact fun _ none => nomatch none

section
variable {d : Dev} {i : Iface} {c : Instr} {o : Nat} {body : Dev → Dev}

theorem Dev.mailbox_drop (gate : d.gate i o = .drop) : d.mailbox i c o body = d := by
  simp only [Dev.mailbox, gate]

theorem Dev.mailbox_answer {rc : Nat} (gate : d.gate i o = .answer rc) : d.mailbox i c o body = d.complete i o rc [] := by
  simp only [Dev.mailbox, gate]

theorem Dev.mailbox_busy (gate : d.gate i o = .take) (busy : d.ifaceBusy i = true) :
    d.mailbox i c o body = if i = .mctp then d.emit (.mbox i rcBusy o []) else d := by
  simp only [Dev.mailbox, gate, busy, if_true]

/-- A command that waits behind others, in doorbell order (R390, R398). -/
def Dev.waiting (d : Dev) (i : Iface) (c : Instr) (o : Nat) : Dev :=
  (Dev.setFlag { d with mb := { d.mb with waits := d.mb.waits ++ [(i, c)] } } (Fld.mboxCmdSts_queued (ifaceIdx i)) true).setFld
    (Fld.mboxCmdSts_opcode (ifaceIdx i)) o

theorem Dev.mailbox_waits (gate : d.gate i o = .take) (free : d.ifaceBusy i = false) (barista : d.baristaFree = false) :
    d.mailbox i c o body = d.waiting i c o := by
  simp only [Dev.mailbox, gate, free, barista, Bool.false_eq_true, if_false]
  rfl

end

/-- What a waiting command shows of itself. -/
theorem Dev.waiting_shown (d : Dev) (i : Iface) (c : Instr) {o : Nat} (small : o < 2 ^ 16) :
    (d.waiting i c o).flag (Fld.mboxCmdSts_queued (ifaceIdx i)) = true ∧ (d.waiting i c o).fld (Fld.mboxCmdSts_opcode (ifaceIdx i)) = o := by
  unfold Dev.waiting
  generalize ({ d with mb := { d.mb with waits := d.mb.waits ++ [(i, c)] } } : Dev) = e
  constructor
  · have apart : ((e.setFlag (Fld.mboxCmdSts_queued (ifaceIdx i)) true).setFld (Fld.mboxCmdSts_opcode (ifaceIdx i)) o).fld
        (Fld.mboxCmdSts_queued (ifaceIdx i)) = (e.setFlag (Fld.mboxCmdSts_queued (ifaceIdx i)) true).fld (Fld.mboxCmdSts_queued (ifaceIdx i)) :=
      Dev.fld_setFld_apart _ _ _ _ (by cases i <;> decide)
    exact (congrArg (· == 1) apart).trans (e.flag_setFlag_same _ true (by cases i <;> decide) (by cases i <;> decide))
  · rw [Dev.fld_setFld_same _ _ _ (by cases i <;> decide)]
    exact Nat.mod_eq_of_lt (by cases i <;> exact small)

/-- Settles O54: the branches of the gate, for every vendor command. -/
theorem vendorCommandsAreGatedAndWait : Obligations.VendorCommandsAreGatedAndWait := by
  unfold Obligations.VendorCommandsAreGatedAndWait
  refine ⟨?dropped, ?answered, ?busy, ?noDoorbell, ?waits⟩
  case dropped =>
    intro s i p o c vendor gate
    obtain ⟨-, body, hc⟩ := gated_of_vendorCmd (s := s) c vendor
    exact .of_standing hc (Dev.mailbox_drop gate) rfl rfl
  case answered =>
    intro s i p o c rc vendor gate
    obtain ⟨-, body, hc⟩ := gated_of_vendorCmd (s := s) c vendor
    exact .of_standing hc (Dev.mailbox_answer gate) (Dev.complete_standing _ _ _ _ _) ⟨Dev.complete_answered _ _ _ _ _,
      ⟨Dev.complete_mem _ _ _ _ _, Dev.complete_txns _ _ _ _ _, Dev.complete_tenants _ _ _ _ _, Dev.complete_mode _ _ _ _ _⟩,
      Dev.complete_stg _ _ _ _ _⟩
  case busy =>
    intro s p o c vendor gate busy
    obtain ⟨-, body, hc⟩ := gated_of_vendorCmd (s := s) c vendor
    exact .of_standing hc ((Dev.mailbox_busy gate busy).trans (if_pos rfl)) (Dev.emit_standing _ _) ⟨rfl, rfl, rfl, rfl, rfl, rfl, rfl⟩
  case noDoorbell =>
    intro s i p o c vendor gate mailbox busy
    obtain ⟨-, body, hc⟩ := gated_of_vendorCmd (s := s) c vendor
    exact .of_standing hc ((Dev.mailbox_busy gate busy).trans (if_neg mailbox)) rfl rfl
  case waits =>
    intro s i p o c vendor gate free barista
    obtain ⟨small, body, hc⟩ := gated_of_vendorCmd (s := s) c vendor
    obtain ⟨queued, opcode⟩ := s.dev.waiting_shown i c small
    exact .of_standing hc (Dev.mailbox_waits gate free barista) rfl ⟨rfl, queued, opcode, rfl, rfl, rfl, rfl, rfl, rfl, rfl⟩

end Sys2Proof.Machine



/-! REFUTATION. Barista's restart and the test that it ends (O23, R388, R399, R496). -/

namespace Sys2Proof.Machine

/-- A device in MAINT whose foreground brew tests far channel 0, which is Lost. -/
def testingFar : State :=
  onDev (inMode .maint) fun d => (d.setFld (Fld.farChSts_state 0) 4).startFg 7 (some .mctp) (.test 3 0) (6 * 528)

set_option maxRecDepth 20000 in
theorem testingFar_runs : testingFar.dev.live = true ∧ testingFar.dev.mb.state = .running ∧ testingFar.dev.mb.restarts = [] := by
  decide

set_option maxRecDepth 20000 in
/-- The restart ends the test, and what the test has overwritten is lost-fresh (R496). -/
theorem testingFar_restarts : (testingFar.dev.failRestart 1).mem.lostFresh ≠ testingFar.dev.mem.lostFresh := by
  decide

theorem exec_watchdogExpiry (s : State) : exec .watchdogExpiry s = s.on fun d => d.failRestart 1 := rfl

/-- Refutes O23, in its clause of WATCHDOG_EXPIRY: it demands that contents stay whatever foreground brew the restart ends. Ending a test
of a far channel loses the pages that the test has overwritten (R496), so memory does not stay. -/
theorem not_baristaRestartsAndForwards : ¬ Obligations.BaristaRestartsAndForwards := by
  unfold Obligations.BaristaRestartsAndForwards
  rintro ⟨restarts, -⟩
  obtain ⟨live, running, none_before⟩ := testingFar_runs
  obtain ⟨-, -, -, -, -, -, -, kept⟩ :=
    (restarts testingFar live running (by rw [none_before]; decide)).settled (exec_watchdogExpiry testingFar)
  rw [settle_mem] at kept
  exact testingFar_restarts (congrArg Mem.lostFresh kept)

end Sys2Proof.Machine


/-! SUPPORT. Firmware slots (O22, R400, R401, R456): staging an image, its verify brew, and activation. -/

namespace Sys2Proof.Machine

theorem getElem_vmod_fin {α : Type} {n : Nat} (v : Vector α n) (i : Fin n) (f : α → α) : (vmod v i.val f)[i] = f v[i] := by
  simp [vmod]

/-! ### Answers and the brew's register -/

section
variable (d : Dev)

/-- An answer leaves MBOX_BREW_STS alone: it is no register of one interface. -/
theorem Dev.complete_brewSts (i : Iface) (op rc : Nat) (out : Payload) :
    (d.complete i op rc out).reg Off.mboxBrewSts = d.reg Off.mboxBrewSts := by
  have status : Off.mboxBrewSts ≠ Off.mboxCmdSts (ifaceIdx i) := by cases i <;> decide
  have seq : Off.mboxBrewSts ≠ Off.mboxResultSeq (ifaceIdx i) := by cases i <;> decide
  have hdr : Off.mboxBrewSts ≠ Off.mboxResultHdr (ifaceIdx i) := by cases i <;> decide
  have len : Off.mboxBrewSts ≠ Off.mboxResultLen (ifaceIdx i) := by cases i <;> decide
  have emit : ∀ (a : Dev) y, (a.emit y).reg Off.mboxBrewSts = a.reg Off.mboxBrewSts := fun _ _ => rfl
  have freed : (d.freeIface i op).reg Off.mboxBrewSts = d.reg Off.mboxBrewSts := by
    unfold Dev.freeIface
    dsimp only
    split
    · rfl
    · rw [Dev.reg_setFld_ne _ _ status, Dev.setFlag, Dev.reg_setFld_ne _ _ status]
      rfl
  have put : ∀ a : Dev, (a.putAnswer i op rc (out.take 8192)).reg Off.mboxBrewSts = a.reg Off.mboxBrewSts := by
    intro a
    unfold Dev.putAnswer
    dsimp only
    split
    · rw [emit, Dev.sendUp_reg _ _ _ _ _ (by decide)]
    · rw [emit, Dev.reg_setReg_ne _ _ len, Dev.reg_setReg_ne _ _ hdr, Dev.reg_setReg_ne _ _ seq]
      rfl
  rw [Dev.complete, put, freed]

/-- MBOX_BREW_STS shows the kind of the foreground brew. -/
theorem Dev.syncBrew_kind {b : Brew} (fg : d.mb.fg = some b) : d.syncBrew.fld Fld.mboxBrewSts_kind = b.kind % 256 := by
  unfold Dev.syncBrew
  simp only [fg]
  rw [Dev.fld_setFld_apart _ _ _ _ (by decide), Dev.fld_setFld_apart _ _ _ _ (by decide), Dev.fld_setFld_same _ _ _ (by decide)]
  rfl

end

/-! ### Parts of an image -/

section
variable {d : Dev} {n : Fin 2} {off : Nat} {b : Payload}

/-- A part that may extend a slot: the slot is not in force, and the part begins where the one before ended, or anew. -/
def Dev.partFits (d : Dev) (n : Fin 2) (off : Nat) (b : Payload) : Prop :=
  d.inForce n = false ∧ (off = 0 ∨ (d.mb.fwNext[n] ≠ 0 ∧ off = d.mb.fwNext[n])) ∧ off + b.length ≤ 1572864

/-- A device that has taken a part into a slot, the next one due at `next`. -/
def Dev.withPart (d : Dev) (n : Fin 2) (off : Nat) (b : Payload) (next : Nat) : Dev :=
  { d with can := { d.can with slots := vmod d.can.slots n.val fun _ => ⟨(if off = 0 then [] else d.slotBytes n) ++ b, false⟩ }
           mb := { d.mb with fwNext := vmod d.mb.fwNext n.val fun _ => next } }

theorem Dev.withPart_slot (d : Dev) (n : Fin 2) (off : Nat) (b : Payload) (next : Nat) :
    (d.withPart n off b next).can.slots[n] = ⟨(if off = 0 then [] else d.slotBytes n) ++ b, false⟩ := getElem_vmod_fin _ _ _

theorem Dev.withPart_next (d : Dev) (n : Fin 2) (off : Nat) (b : Payload) (next : Nat) :
    (d.withPart n off b next).mb.fwNext[n] = next := getElem_vmod_fin _ _ _

/-- The check of a part before its brew. -/
theorem Dev.partFits_check (fits : d.partFits n off b) :
    (d.inForce n || (off != 0 && (d.mb.fwNext[n] == 0 || off != d.mb.fwNext[n])) || decide (slotSize < off + b.length)) = false := by
  obtain ⟨aside, place, room⟩ := fits
  rw [aside, decide_eq_false (Nat.not_lt.mpr room : ¬ slotSize < off + b.length)]
  obtain start | ⟨-, behind⟩ := place
  · simp [start]
  · simp [← behind]

variable (i : Iface) (op : Nat)

theorem Dev.takePart_refused (last : Bool) (refused : d.inForce n = true ∨ (off ≠ 0 ∧ (d.mb.fwNext[n] = 0 ∨ off ≠ d.mb.fwNext[n])) ∨
    1572864 < off + b.length) : d.takePart i op n off last b = d.complete i op rcInvalidInput [] := by
  unfold Dev.takePart
  refine if_pos ?_
  obtain force | ⟨later, apart⟩ | long := refused
  · simp [force]
  · have behind : (d.mb.fwNext[n] == 0 || off != d.mb.fwNext[n]) = true := by rwa [Bool.or_eq_true, beq_iff_eq, bne_iff_ne]
    rw [behind, bne_iff_ne.mpr later, Bool.and_self, Bool.or_true, Bool.true_or]
  · simp [slotSize, long]

theorem Dev.takePart_taken (fits : d.partFits n off b) (quiet : d.verifying n = false) :
    d.takePart i op n off false b = (d.withPart n off b (off + b.length)).syncCanister.complete i op rcSuccess [] := by
  unfold Dev.takePart
  dsimp only
  rw [Dev.partFits_check fits, quiet]
  rfl

theorem Dev.takePart_last (fits : d.partFits n off b) (idle : d.mb.fg = none) :
    d.takePart i op n off true b = ((d.withPart n off b 0).syncCanister.startFg 8 (some i) (.fwVerify n) 1).complete i op rcBackground [] := by
  have free : (true && d.mb.fg.isSome || d.verifying n) = false := by rw [Dev.verifying, idle]; rfl
  unfold Dev.takePart
  dsimp only
  rw [Dev.partFits_check fits, free]
  rfl

end

section
variable {s : State} {c : Instr} {f : Dev → Dev} {n : Fin 2} {off : Nat} {b : Payload} {i : Iface} {op : Nat} (hc : exec c s = s.on f)
include hc

theorem Completes.of_takenPart (effect : f s.dev = s.dev.takePart i op n off false b) (fits : s.dev.partFits n off b)
    (quiet : s.dev.verifying n = false) : Completes c s fun d =>
      d.slotBytes n = (if off = 0 then [] else s.dev.slotBytes n) ++ b ∧ (d.can.slots[n]).valid = false ∧
        d.mb.fwNext[n] = off + b.length ∧ d.mb.fg = s.dev.mb.fg ∧ d.answered i rcSuccess op [] := by
  obtain ⟨r, synced⟩ := Dev.syncCanister_regsOf (s.dev.withPart n off b (off + b.length))
  rw [Dev.takePart_taken i op fits quiet, synced] at effect
  refine .of_standing hc effect (Dev.complete_standing _ _ _ _ _) ?_
  have slot := s.dev.withPart_slot n off b (off + b.length)
  have next := s.dev.withPart_next n off b (off + b.length)
  have fg : (s.dev.withPart n off b (off + b.length)).mb.fg = s.dev.mb.fg := rfl
  generalize s.dev.withPart n off b (off + b.length) = e at slot next fg ⊢
  obtain ⟨_, _, mb⟩ := Dev.complete_mb { e with regs := r } i op rcSuccess []
  rw [Dev.slotBytes, Dev.complete_can, mb]
  exact ⟨congrArg Slot.bytes slot, congrArg Slot.valid slot, next, fg, Dev.complete_answered _ _ _ _ _⟩

theorem Completes.of_lastPart (effect : f s.dev = s.dev.takePart i op n off true b) (fits : s.dev.partFits n off b)
    (idle : s.dev.mb.fg = none) : Completes c s fun d =>
      d.slotBytes n = (if off = 0 then [] else s.dev.slotBytes n) ++ b ∧ (d.can.slots[n]).valid = false ∧
        d.mb.fg = some ⟨8, some i, .fwVerify n, 0, 1, false, 0⟩ ∧ d.fld Fld.mboxBrewSts_kind = 8 ∧ d.answered i rcBackground op [] := by
  obtain ⟨r, synced⟩ := Dev.syncCanister_regsOf (s.dev.withPart n off b 0)
  rw [Dev.takePart_last i op fits idle, synced] at effect
  have slot := s.dev.withPart_slot n off b 0
  have stands : (s.dev.withPart n off b 0).standing = s.dev.standing := rfl
  generalize s.dev.withPart n off b 0 = e at effect slot stands
  have kind := Dev.syncBrew_kind { e with regs := r, mb := { e.mb with fg := some ⟨8, some i, .fwVerify n, 0, 1, false, 0⟩, bg := 0 } } rfl
  obtain ⟨r', started⟩ := Dev.syncBrew_regsOf { e with regs := r, mb := { e.mb with fg := some ⟨8, some i, .fwVerify n, 0, 1, false, 0⟩, bg := 0 } }
  rw [started] at kind
  rw [Dev.startFg, started] at effect
  refine .of_standing hc effect ((Dev.complete_standing _ _ _ _ _).trans stands) ?_
  rw [Dev.slotBytes, Dev.complete_can, Dev.complete_fg]
  exact ⟨congrArg Slot.bytes slot, congrArg Slot.valid slot, rfl, (congrArg (fieldOf · _ _) (Dev.complete_brewSts _ _ _ _ _)).trans kind,
    Dev.complete_answered _ _ _ _ _⟩

end

theorem byteAt_drop (p : Payload) (k n : Nat) : byteAt (p.drop k) n = byteAt p (k + n) := by simp [byteAt]

theorem zeroBytes_drop (p : Payload) (k at_ n : Nat) : zeroBytes (p.drop k) at_ n = zeroBytes p (k + at_) n := by
  simp [zeroBytes, byteAt_drop, Nat.add_assoc]

section
variable {s : State} {n : Fin 2} {i : Iface}

theorem completes_xtFwStage {p : Payload} (takes : s.dev.takesNow i 0xC0A0) (own : s.dev.ownPayload p 24) (slot : byteAt p 8 = n.val)
    (more : byteAt p 9 = 0) (clean : zeroBytes p 10 2 = true) (clean' : zeroBytes p 20 12 = true) (whole : 32 + leNat p 16 4 ≤ p.length)
    (fits : s.dev.partFits n (leNat p 12 4) ((p.drop 32).take (leNat p 16 4))) (quiet : s.dev.verifying n = false) :
    Completes (.xtFwStage i p) s fun d =>
      d.slotBytes n = (if leNat p 12 4 = 0 then [] else s.dev.slotBytes n) ++ (p.drop 32).take (leNat p 16 4) ∧
        (d.can.slots[n]).valid = false ∧ d.mb.fwNext[n] = leNat p 12 4 + leNat p 16 4 ∧ d.mb.fg = s.dev.mb.fg ∧
        d.answered i rcSuccess 0xC0A0 [] := by
  have named : Fin.ofNat 2 n.val = n := Fin.ofNat_val_eq_self n
  have known : ¬ 1 < n.val := by omega
  have enough : ¬ p.length - 8 < 24 + leNat p 16 4 := by omega
  have effect : ∃ f, exec (.xtFwStage i p) s = s.on f ∧
      f s.dev = s.dev.takePart i 0xC0A0 n (leNat p 12 4) false ((p.drop 32).take (leNat p 16 4)) := by
    refine ⟨_, (rfl : execXtFwStage i p s = s.on _), ?_⟩
    rw [Dev.mailbox_now _ _ _ _ _ takes, bodyFwStage, Dev.vendor_own _ _ _ _ _ _ own]
    simp only [byteAt_drop, zeroBytes_drop, leNat_drop, List.drop_drop, List.length_drop, slot, more, clean, clean', known, enough, named]
    rfl
  obtain ⟨f, hc, effect⟩ := effect
  have length : ((p.drop 32).take (leNat p 16 4)).length = leNat p 16 4 := by
    rw [List.length_take, List.length_drop]
    omega
  have taken := Completes.of_takenPart hc effect fits quiet
  rwa [length] at taken

/-- TRANSFER_FW, once taken, takes its part into the slot it names. -/
theorem transferFw_runs (off : Nat) (last : Bool) (b : Payload) (takes : s.dev.takesNow i 0x0201) : ∃ f,
    exec (.transferFw i (n.val + 1) off last b) s = s.on f ∧ f s.dev = s.dev.takePart i 0x0201 n off last b := by
  refine ⟨_, (rfl : execTransferFw i (n.val + 1) off last b s = s.on _), ?_⟩
  rw [Dev.mailbox_now _ _ _ _ _ takes, bodyTransferFw, if_pos (by omega), Nat.add_sub_cancel, Fin.ofNat_val_eq_self]

theorem completes_transferFw_refused {off : Nat} {last : Bool} {b : Payload} (takes : s.dev.takesNow i 0x0201)
    (refused : s.dev.inForce n = true ∨ (off ≠ 0 ∧ (s.dev.mb.fwNext[n] = 0 ∨ off ≠ s.dev.mb.fwNext[n])) ∨ 1572864 < off + b.length) :
    Completes (.transferFw i (n.val + 1) off last b) s fun d => d.answered i rcInvalidInput 0x0201 [] ∧ d.can = s.dev.can ∧
      d.mb.fwNext = s.dev.mb.fwNext ∧ d.mb.fg = s.dev.mb.fg := by
  obtain ⟨f, hc, effect⟩ := transferFw_runs (n := n) off last b takes
  rw [Dev.takePart_refused i 0x0201 last refused] at effect
  obtain ⟨_, _, mb⟩ := Dev.complete_mb s.dev i 0x0201 rcInvalidInput []
  exact .of_standing hc effect (Dev.complete_standing _ _ _ _ _)
    ⟨Dev.complete_answered _ _ _ _ _, Dev.complete_can _ _ _ _ _, by rw [mb], by rw [mb]⟩

end

/-! ### The verify brew -/

/-- A device whose slot `n` is valid. -/
def Dev.verified (d : Dev) (n : Fin 2) : Dev :=
  { d with can := { d.can with slots := vmod d.can.slots n.val fun (x : Slot) => { x with valid := true } } }

section
variable {s : State} {w : Brew} {n : Fin 2} (live : s.dev.live = true) (fg : s.dev.mb.fg = some w) (work : w.work = .fwVerify n)
include live fg work

/-- How the end of a verify goes on. -/
theorem firmwareVerifyComplete_runs (sig : Option Nat) : ∃ f, exec (.firmwareVerifyComplete sig) s = s.on f ∧ f s.dev =
    match s.dev.verifyImage [1, 2] (s.dev.slotBytes n) sig with
    | none => (s.dev.verified n).syncCanister.endFg rcSuccess []
    | some k => (s.dev.raiseN 0x1F1 [word1 n.val, word1 k]).endFg rcFwVerify [] := by
  refine ⟨_, (rfl : execFirmwareVerifyComplete sig s = s.on _), ?_⟩
  simp only [fg, work, live, if_true]
  rfl

end

/-- The end of a verify brew: its command was answered when the brew began, so nothing more is sent. -/
theorem Dev.endFg_verify {d : Dev} {w : Brew} {n : Fin 2} (fg : d.mb.fg = some w) (work : w.work = .fwVerify n) (rc : Nat) (out : Payload) :
    d.endFg rc out = Dev.syncBrew { d with mb := { d.mb with fg := none, bg := rc } } := by
  unfold Dev.endFg
  simp only [fg, work, workOpcode, if_true]
  split <;> rfl

section
variable {s : State} {w : Brew} {n : Fin 2} (live : s.dev.live = true) (fg : s.dev.mb.fg = some w) (work : w.work = .fwVerify n)
include live fg work

theorem completes_firmwareVerifyComplete_passed (passed : s.dev.verifyImage [1, 2] (s.dev.slotBytes n) none = none) :
    Completes (.firmwareVerifyComplete none) s fun d => (d.can.slots[n]).valid = true ∧ d.slotBytes n = s.dev.slotBytes n ∧ d.mb.fg = none ∧
      d.mb.bg = rcSuccess ∧ d.mb.slot = s.dev.mb.slot := by
  obtain ⟨f, hc, effect⟩ := firmwareVerifyComplete_runs live fg work none
  obtain ⟨r, synced⟩ := Dev.syncCanister_regsOf (s.dev.verified n)
  rw [passed] at effect
  dsimp only at effect
  rw [synced] at effect
  have slot : (s.dev.verified n).can.slots[n] = { s.dev.can.slots[n] with valid := true } := getElem_vmod_fin _ _ _
  have stands : (s.dev.verified n).standing = s.dev.standing := rfl
  have mb : (s.dev.verified n).mb = s.dev.mb := rfl
  generalize s.dev.verified n = e at effect slot stands mb
  rw [Dev.endFg_verify (mb ▸ fg) work] at effect
  obtain ⟨r', brew⟩ := Dev.syncBrew_regsOf { e with regs := r, mb := { e.mb with fg := none, bg := rcSuccess } }
  rw [brew] at effect
  refine .of_standing hc effect stands ?_
  unfold Dev.slotBytes
  dsimp only
  rw [slot, mb]
  exact ⟨rfl, rfl, rfl, rfl, rfl⟩

theorem completes_firmwareVerifyComplete_failed {sig : Option Nat} (failed : s.dev.verifyImage [1, 2] (s.dev.slotBytes n) sig ≠ none) :
    Completes (.firmwareVerifyComplete sig) s fun d => d.can.slots = s.dev.can.slots ∧ d.mb.fg = none ∧ d.mb.bg = rcFwVerify ∧
      d.mb.slot = s.dev.mb.slot := by
  obtain ⟨f, hc, effect⟩ := firmwareVerifyComplete_runs live fg work sig
  obtain ⟨k, step⟩ := Option.ne_none_iff_exists'.mp failed
  rw [step] at effect
  dsimp only at effect
  have stands := s.dev.raiseN_standing 0x1F1 [word1 n.val, word1 k]
  have can := s.dev.raiseN_can 0x1F1 [word1 n.val, word1 k]
  have mb := s.dev.raiseN_mb 0x1F1 [word1 n.val, word1 k]
  generalize s.dev.raiseN 0x1F1 [word1 n.val, word1 k] = e at effect stands can mb
  rw [Dev.endFg_verify (mb ▸ fg) work] at effect
  obtain ⟨r, brew⟩ := Dev.syncBrew_regsOf { e with mb := { e.mb with fg := none, bg := rcFwVerify } }
  rw [brew] at effect
  refine .of_standing hc effect stands ?_
  dsimp only
  rw [can, mb]
  exact ⟨rfl, rfl, rfl, rfl⟩

end

/-! ### A restart with nothing in progress -/

section
variable (d : Dev)

theorem Dev.landHeld_unstaged : d.landHeld.unstaged = d.unstaged := by
  unfold Dev.landHeld
  dsimp only
  split
  · exact foldl_keeps Dev.unstaged _ _ _ fun d e => (Dev.staged_unstaged _ _).trans (d.pendWrite_unstaged _ _)
  · rfl

theorem Dev.syncStaging_unstaged : d.syncStaging.unstaged = d.unstaged := by
  have port := d.syncStaging_reg (o := Off.glbPortMode) (by decide)
  unfold Dev.unstaged
  rw [port]
  obtain ⟨r, shape⟩ := d.syncStaging_shape
  rw [shape]
  rfl

theorem Dev.setFlag_unstaged {f : Fld} (v : Bool) (other : Off.glbPortMode ≠ f.off) : (d.setFlag f v).unstaged = d.unstaged := by
  unfold Dev.unstaged
  rw [Dev.setFlag, Dev.reg_setFld_ne _ _ other]
  rfl

variable {d}

theorem Dev.abortFg_idle (rc : Nat) (fg : d.mb.fg = none) : d.abortFg rc = d := by
  rw [Dev.abortFg, fg]

/-- A restart with no command and no brew in progress leaves the Canister and the mailboxes as they are. -/
theorem Dev.dropCommands_unstaged (running : d.mb.running = []) (fg : d.mb.fg = none) : d.dropCommands.unstaged = d.unstaged := by
  unfold Dev.dropCommands
  simp only [running, List.foldl_nil]
  rw [Dev.landHeld_unstaged]
  generalize hb : Dev.setFlag _ Fld.stgSts_commitPend false = b
  have same : b.unstaged = d.unstaged := hb ▸ (Dev.setFlag_unstaged _ false (by decide)).trans rfl
  have synced := b.syncStaging_unstaged.trans same
  rw [Dev.abortFg_idle rcInternal ((congrArg (fun u => u.2.2.1.fg) synced).trans fg), synced]

end

/-- A restart changes only what the mailboxes note of Barista, beside what it drops. -/
theorem Dev.restart_notes (d : Dev) (cause : Nat) : (d.restart cause).standing = d.dropCommands.standing ∧
    (d.restart cause).can = d.dropCommands.can ∧
    (d.restart cause).mb = { d.dropCommands.mb with state := .restarting, restartCause := cause, stepDue := false } := by
  unfold Dev.restart Dev.bump
  generalize d.dropCommands = b
  dsimp only
  rw [Dev.setFld_standing, Dev.setFld_standing, Dev.setFld_can, Dev.setFld_can, Dev.setFld_mb, Dev.setFld_mb]
  exact ⟨rfl, rfl, rfl⟩

/-! ### Activation -/

section
variable {d : Dev} {n : Fin 2} (i : Iface) (op : Nat)

/-- A device whose boot slot is `n`. -/
def Dev.booting (d : Dev) (n : Fin 2) : Dev := { d with can := { d.can with bootSlot := n } }

/-- A restarting device that an activation waits for. -/
def Dev.awaiting (d : Dev) (a : Iface × Nat × Fin 2 × Fin 2) : Dev := { d with mb := { d.mb with activating := some a } }

theorem Dev.awaiting_standing (d : Dev) (a : Iface × Nat × Fin 2 × Fin 2) : (d.awaiting a).standing = d.standing := rfl
theorem Dev.awaiting_can (d : Dev) (a : Iface × Nat × Fin 2 × Fin 2) : (d.awaiting a).can = d.can := rfl

theorem Dev.longRun_mb (d : Dev) (i : Iface) (op : Nat) : (d.longRun i op).mb = { d.mb with running := d.mb.running ++ [(i, op)] } := by
  unfold Dev.longRun
  dsimp only
  rw [Dev.setFld_mb, Dev.setFlag_mb]

theorem Dev.activateSlot_invalid (now : Bool) (invalid : (d.can.slots[n]).valid = false) :
    d.activateSlot i op n now = d.complete i op rcInvalidInput [] := by
  unfold Dev.activateSlot
  dsimp only
  rw [invalid]
  rfl

variable (valid : (d.can.slots[n]).valid = true) (image : d.verifyImage [1] (d.slotBytes n) none = none)
include valid image

theorem Dev.activateSlot_later :
    d.activateSlot i op n false = (d.booting n).syncCanister.complete i op rcSuccess (leBytes 1 d.mb.slot.val) := by
  unfold Dev.activateSlot
  dsimp only
  rw [valid, Dev.verifyStep, image]
  rfl

theorem Dev.activateSlot_now (maint : d.mode = .maint) (idle : d.mb.fg = none) :
    d.activateSlot i op n true = (((d.booting n).syncCanister.restart 4).awaiting (i, op, d.can.bootSlot, n)).longRun i op := by
  have outside : (d.mode != .maint) = false := by rw [maint]; rfl
  have free : (true && d.mb.fg.isSome) = false := by rw [idle]; rfl
  unfold Dev.activateSlot
  dsimp only
  rw [valid, Dev.verifyStep, image, outside, free, Bool.and_false]
  rfl

end

section
variable {s : State} {n : Fin 2} {i : Iface}

theorem Completes.of_activated {c : Instr} {f : Dev → Dev} {op : Nat} (hc : exec c s = s.on f) (effect : f s.dev = s.dev.activateSlot i op n false)
    (valid : (s.dev.can.slots[n]).valid = true) (image : s.dev.verifyImage [1] (s.dev.slotBytes n) none = none) : Completes c s fun d =>
      d.can.bootSlot = n ∧ d.can.slots = s.dev.can.slots ∧ d.mb.slot = s.dev.mb.slot ∧ d.mb.state = s.dev.mb.state ∧
        d.answered i rcSuccess op (leBytes 1 s.dev.mb.slot.val) := by
  obtain ⟨r, synced⟩ := Dev.syncCanister_regsOf (s.dev.booting n)
  rw [Dev.activateSlot_later i op valid image, synced] at effect
  have can : (s.dev.booting n).can = { s.dev.can with bootSlot := n } := rfl
  have stands : (s.dev.booting n).standing = s.dev.standing := rfl
  have mb : (s.dev.booting n).mb = s.dev.mb := rfl
  generalize s.dev.booting n = e at effect can stands mb
  refine .of_standing hc effect ((Dev.complete_standing _ _ _ _ _).trans stands) ?_
  obtain ⟨_, _, answered⟩ := Dev.complete_mb { e with regs := r } i op rcSuccess (leBytes 1 s.dev.mb.slot.val)
  rw [Dev.complete_can, answered]
  dsimp only
  rw [can, mb]
  exact ⟨rfl, rfl, rfl, rfl, Dev.complete_answered _ _ _ _ _⟩

/-- XT_FW_ACTIVATE, once taken, activates the slot it names. -/
theorem xtFwActivate_runs {p : Payload} (takes : s.dev.takesNow i 0xC0A1) (own : s.dev.ownPayload p 2) (slot : byteAt p 8 = n.val)
    (known : byteAt p 9 ≤ 1) : ∃ f, exec (.xtFwActivate i p) s = s.on f ∧ f s.dev = s.dev.activateSlot i 0xC0A1 n (byteAt p 9 == 1) := by
  have named : Fin.ofNat 2 n.val = n := Fin.ofNat_val_eq_self n
  refine ⟨_, (rfl : execXtFwActivate i p s = s.on _), ?_⟩
  rw [Dev.mailbox_now _ _ _ _ _ takes, bodyFwActivate, Dev.vendor_own _ _ _ _ _ _ own]
  simp only [byteAt_drop, Nat.add_zero, Nat.reduceAdd, slot, named]
  exact if_neg (by omega)

theorem activateFw_runs (now : Bool) (takes : s.dev.takesNow i 0x0202) : ∃ f,
    exec (.activateFw i (n.val + 1) now) s = s.on f ∧ f s.dev = s.dev.activateSlot i 0x0202 n now := by
  refine ⟨_, (rfl : execActivateFw i (n.val + 1) now s = s.on _), ?_⟩
  rw [Dev.mailbox_now _ _ _ _ _ takes, bodyActivateFw, if_pos (by omega), Nat.add_sub_cancel, Fin.ofNat_val_eq_self]

theorem completes_xtFwActivate_now {p : Payload} (takes : s.dev.takesNow i 0xC0A1) (own : s.dev.ownPayload p 2) (slot : byteAt p 8 = n.val)
    (now : byteAt p 9 = 1) (valid : (s.dev.can.slots[n]).valid = true) (image : s.dev.verifyImage [1] (s.dev.slotBytes n) none = none)
    (maint : s.dev.mode = .maint) (idle : s.dev.mb.fg = none) : Completes (.xtFwActivate i p) s fun d =>
      d.can.bootSlot = n ∧ d.mb.state = .restarting ∧ d.mb.activating = some (i, 0xC0A1, s.dev.can.bootSlot, n) ∧
        d.mb.slot = s.dev.mb.slot ∧ d.mb.restarts = s.dev.mb.restarts := by
  obtain ⟨f, hc, effect⟩ := xtFwActivate_runs takes own slot now.le
  rw [now, beq_self_eq_true, Dev.activateSlot_now i 0xC0A1 valid image maint idle] at effect
  have free : s.dev.mb.running = [] := by
    obtain ⟨-, -, free⟩ := takes
    simp only [Dev.baristaFree, Bool.and_eq_true, List.isEmpty_iff] at free
    exact free.1.1
  obtain ⟨r, synced⟩ := Dev.syncCanister_regsOf (s.dev.booting n)
  have kept : (s.dev.booting n).syncCanister.dropCommands.unstaged = (s.dev.booting n).syncCanister.unstaged :=
    Dev.dropCommands_unstaged (by rw [synced]; exact free) (by rw [synced]; exact idle)
  have stands : (s.dev.booting n).syncCanister.standing = s.dev.standing := by rw [synced]; rfl
  have can : (s.dev.booting n).syncCanister.can = { s.dev.can with bootSlot := n } := by rw [synced]; rfl
  have mb : (s.dev.booting n).syncCanister.mb = s.dev.mb := by rw [synced]; rfl
  simp only [Dev.unstaged, Prod.mk.injEq] at kept
  obtain ⟨stands', can', mb', -⟩ := kept
  obtain ⟨stands'', can'', mb''⟩ := (s.dev.booting n).syncCanister.restart_notes 4
  rw [mb', mb] at mb''
  generalize (s.dev.booting n).syncCanister.restart 4 = b at effect stands'' can'' mb''
  have awaits : (b.awaiting (i, 0xC0A1, s.dev.can.bootSlot, n)).mb = { b.mb with activating := some (i, 0xC0A1, s.dev.can.bootSlot, n) } := rfl
  refine .of_standing hc effect ((Dev.longRun_standing _ _ _).trans ((b.awaiting_standing _).trans (stands''.trans (stands'.trans stands)))) ?_
  rw [Dev.longRun_can, Dev.awaiting_can, Dev.longRun_mb, awaits, mb'', can'', can', can]
  exact ⟨rfl, rfl, rfl, rfl, rfl⟩

theorem completes_activateFw_invalid {now : Bool} (takes : s.dev.takesNow i 0x0202) (invalid : (s.dev.can.slots[n]).valid = false) :
    Completes (.activateFw i (n.val + 1) now) s fun d => d.answered i rcInvalidInput 0x0202 [] ∧ d.can = s.dev.can ∧ d.mb.state = s.dev.mb.state := by
  obtain ⟨f, hc, effect⟩ := activateFw_runs (n := n) now takes
  rw [Dev.activateSlot_invalid i 0x0202 now invalid] at effect
  obtain ⟨_, _, mb⟩ := Dev.complete_mb s.dev i 0x0202 rcInvalidInput []
  exact .of_standing hc effect (Dev.complete_standing _ _ _ _ _) ⟨Dev.complete_answered _ _ _ _ _, Dev.complete_can _ _ _ _ _, by rw [mb]⟩

theorem completes_getFwInfo (takes : s.dev.takesNow i 0x0200) : Completes (.getFwInfo i) s fun d =>
    d.can = s.dev.can ∧ d.mem = s.dev.mem ∧ d.shadow = s.dev.shadow ∧ d.tenants = s.dev.tenants ∧
      d.answered i rcSuccess 0x0200 ([2, BitVec.ofNat 8 ((if s.dev.mb.recovery then 0 else s.dev.mb.slot.val + 1) + 8 * (s.dev.can.bootSlot.val + 1)), 1] ++
        List.replicate 13 0 ++ leBytes 16 (s.dev.slotVersion 0) ++ leBytes 16 (s.dev.slotVersion 1)) :=
  .of_standing (rfl : execGetFwInfo i s = s.on _) (Dev.mailbox_now _ _ _ _ _ takes) (Dev.complete_standing _ _ _ _ _)
    ⟨Dev.complete_can _ _ _ _ _, Dev.complete_mem _ _ _ _ _, Dev.complete_shadow _ _ _ _ _, Dev.complete_tenants _ _ _ _ _,
      Dev.complete_answered _ _ _ _ _⟩

end

/-- Settles O22: the parts of an image, their verify, and activation, each with what refuses it. -/
theorem firmwareIsStagedVerifiedAndActivated : Obligations.FirmwareIsStagedVerifiedAndActivated := by
  unfold Obligations.FirmwareIsStagedVerifiedAndActivated
  refine ⟨?stage, ?transfer, ?transferLast, ?transferRefused, ?passed, ?failed, ?activate, ?activateNow, ?activateInvalid, ?activateLater, ?info⟩
  case stage =>
    intro s n i p takes own slot more clean clean' whole aside quiet place room
    have length : ((p.drop 32).take (leNat p 16 4)).length = leNat p 16 4 := by
      rw [List.length_take, List.length_drop]
      omega
    exact completes_xtFwStage takes own slot more clean clean' whole ⟨aside, place, by rwa [length]⟩ quiet
  case transfer =>
    intro s n i off b takes aside quiet place room
    obtain ⟨f, hc, effect⟩ := transferFw_runs (n := n) off false b takes
    exact .of_takenPart hc effect ⟨aside, place, room⟩ quiet
  case transferLast =>
    intro s n i off b takes aside idle place room
    obtain ⟨f, hc, effect⟩ := transferFw_runs (n := n) off true b takes
    exact .of_lastPart hc effect ⟨aside, place, room⟩ idle
  case transferRefused => exact fun s n i off last b takes refused => completes_transferFw_refused takes refused
  case passed => exact fun s w n live fg work passed => completes_firmwareVerifyComplete_passed live fg work passed
  case failed => exact fun s w n sig live fg work failed => completes_firmwareVerifyComplete_failed live fg work failed
  case activate =>
    intro s n i p takes own slot later valid image
    obtain ⟨f, hc, effect⟩ := xtFwActivate_runs takes own slot (by omega)
    rw [later] at effect
    refine (Completes.of_activated hc effect valid image).imp ?_
    rintro d ⟨boot, -, -, state, answered⟩
    exact ⟨boot, state, answered⟩
  case activateNow =>
    exact fun s n i p takes own slot now valid image maint idle => completes_xtFwActivate_now takes own slot now valid image maint idle
  case activateInvalid => exact fun s n i now takes invalid => completes_activateFw_invalid takes invalid
  case activateLater =>
    intro s n i takes valid image
    obtain ⟨f, hc, effect⟩ := activateFw_runs (n := n) false takes
    exact .of_activated hc effect valid image
  case info => exact fun s i takes => completes_getFwInfo takes

end Sys2Proof.Machine


/-! SUPPORT. Roll calls at the head and at a member (O47, R372 to R378). -/

namespace Sys2Proof.Machine

/-! ### What sending on Relay leaves alone -/

section
variable (d : Dev)

/-- What a device stores and has under way, beside its part, fuses and mode. -/
def Dev.calm (d : Dev) : (Part × Fuses × Mode) × Mem × List Txn × Vector Tenant 32 := (d.standing, d.mem, d.txns, d.tenants)

variable {d} in
theorem undisturbed_of_calm {e : Dev} (same : e.calm = d.calm) : e.standing = d.standing ∧ Undisturbed e d := by
  simp only [Dev.calm, Prod.mk.injEq] at same
  obtain ⟨stands, mem, txns, tenants⟩ := same
  exact ⟨stands, mem, txns, tenants, (Prod.mk.inj (Prod.mk.inj stands).2).2⟩

theorem Dev.setReg_calm (o : Nat) (w : Word) : (d.setReg o w).calm = d.calm := rfl
theorem Dev.setFld_calm (f : Fld) (v : Nat) : (d.setFld f v).calm = d.calm := rfl
theorem Dev.modRly_calm (p : PortId) (f : RelayPort → RelayPort) : (d.modRly p f).calm = d.calm := rfl
theorem Dev.floorMoved_calm : d.floorMoved.calm = d.calm := rfl

theorem Dev.relayPut_calm (p : PortId) (t : TxMsg) : (d.relayPut p t).calm = d.calm := by
  obtain ⟨_, _, _, _, _, shape⟩ := d.relayPut_shape p t
  rw [shape]
  rfl

theorem Dev.raiseN_calm (n : Nat) (l : List Word) : (d.raiseN n l).calm = d.calm := by
  obtain ⟨_, _, _, _, _, _, shape⟩ := d.raise_shape { num := n, detail := l }
  rw [Dev.raiseN, shape]
  rfl

theorem Dev.complete_calm (i : Iface) (op rc : Nat) (out : Payload) : (d.complete i op rc out).calm = d.calm := by
  obtain ⟨_, _, _, _, _, _, shape⟩ := d.complete_shape i op rc out
  rw [shape]
  rfl

theorem Dev.transmit_rlyState (p q : PortId) (t : TxMsg) : (d.transmit p t).rlyState q = d.rlyState q := by
  have apart : (Fld.rlyLinkSts_replay (portIdx p)).apart (Fld.rlyLinkSts_state (portIdx q)) = true := by cases p <;> cases q <;> decide
  have credit : (d.creditFirst p).fld (Fld.rlyLinkSts_state (portIdx q)) = d.fld (Fld.rlyLinkSts_state (portIdx q)) :=
    congrArg (fieldOf · _ _) (d.creditFirst_reg p _)
  unfold Dev.rlyState Dev.transmit Dev.emitTx Dev.syncReplay Dev.count
  dsimp only
  rw [← credit, Dev.fld, Dev.emit_reg, Dev.putFlit_reg, Dev.countAs_reg, ← Dev.fld, Dev.fld_setFld_apart _ _ _ _ apart]
  rfl

theorem Dev.pumpTx_rlyState (p q : PortId) (n : Nat) : (d.pumpTx p n).rlyState q = d.rlyState q := by
  induction n generalizing d with
  | zero => rfl
  | succ n ih =>
    unfold Dev.pumpTx
    split
    · rw [ih, Dev.transmit_rlyState]
    · rfl

/-- A message changes no link's state. -/
theorem Dev.relayPut_rlyState (p q : PortId) (t : TxMsg) : (d.relayPut p t).rlyState q = d.rlyState q := by
  unfold Dev.relayPut Dev.sendQueued
  dsimp only
  split
  · rw [Dev.pumpTx_rlyState]
    rfl
  · rfl

theorem Dev.complete_rlyState (i : Iface) (op rc : Nat) (out : Payload) (q : PortId) : (d.complete i op rc out).rlyState q = d.rlyState q := by
  have apart : ∀ o, mboxReg o = true → (Fld.rlyLinkSts_state (portIdx q)).off ≠ o := by
    rintro o mbox rfl
    exact absurd mbox (by cases q <;> decide)
  have freed : (d.freeIface i op).rlyState q = d.rlyState q := by
    unfold Dev.freeIface
    dsimp only
    split
    · rfl
    · have status := apart (Off.mboxCmdSts (ifaceIdx i)) (by cases i <;> decide)
      refine (congrArg (fieldOf · _ _) ?_ : _ = fieldOf (d.reg _) _ _)
      rw [Dev.reg_setFld_ne _ _ status, Dev.setFlag, Dev.reg_setFld_ne _ _ status]
      rfl
  have put : ∀ (a : Dev) y, (a.putAnswer i op rc y).rlyState q = a.rlyState q := by
    intro a y
    unfold Dev.putAnswer
    dsimp only
    split
    · refine (?_ : (Dev.sendUp _ _ _ _).rlyState q = _)
      unfold Dev.sendUp Dev.relaySend
      split
      · exact Dev.relayPut_rlyState _ _ _ _
      · rfl
    · refine (congrArg (fieldOf · _ _) ?_ : _ = fieldOf (a.reg _) _ _)
      rw [Dev.emit_reg, Dev.reg_setReg_ne _ _ (apart _ (by cases i <;> decide)), Dev.reg_setReg_ne _ _ (apart _ (by cases i <;> decide)),
        Dev.reg_setReg_ne _ _ (apart _ (by cases i <;> decide))]
      rfl
  rw [Dev.complete, put, freed]

end

/-! ### The head's roll call -/

section
variable {d : Dev} {p : PortId}

/-- A device that numbers a new roll call. -/
def Dev.numbered (d : Dev) : Dev :=
  (d.setFld Fld.rlyChainSts_epoch ((d.fld Fld.rlyChainSts_epoch + 1) % 256)).setFlag Fld.rlyChainSts_idv true

theorem Dev.numbered_reg (d : Dev) {o : Nat} (other : o ≠ Off.rlyChainSts) : d.numbered.reg o = d.reg o := by
  rw [Dev.numbered, Dev.setFlag, Dev.reg_setFld_ne _ _ other, Dev.reg_setFld_ne _ _ other]

theorem Dev.numbered_calm (d : Dev) : d.numbered.calm = d.calm := by
  rw [Dev.numbered, Dev.setFlag, Dev.setFld_calm, Dev.setFld_calm]

theorem Dev.numbered_epoch (d : Dev) : d.numbered.fld Fld.rlyChainSts_epoch = (d.fld Fld.rlyChainSts_epoch + 1) % 256 := by
  rw [Dev.numbered, Dev.setFlag, Dev.fld_setFld_apart _ _ _ _ (by decide), Dev.fld_setFld_same _ _ _ (by decide)]
  exact Nat.mod_mod _ _

theorem Dev.role_of_regs {d e : Dev} (same : ∀ p, e.reg (Off.prtLinkSts (portIdx p)) = d.reg (Off.prtLinkSts (portIdx p))) (p : PortId) :
    e.role p = d.role p := congrArg (fieldOf · _ _) (same p)

/-- The place in the chain goes by the roles of the ports. -/
theorem Dev.place_of_roles {d e : Dev} (same : ∀ p, e.role p = d.role p) :
    e.isHead = d.isHead ∧ e.relayDown = d.relayDown ∧ e.relayUp = d.relayUp := by
  have down : e.relayDown = d.relayDown := by unfold Dev.relayDown; simp only [same]
  have up : e.relayUp = d.relayUp := by unfold Dev.relayUp; simp only [same]
  exact ⟨by unfold Dev.isHead Dev.hostPort; rw [down, same], down, up⟩

theorem Dev.numbered_place (d : Dev) : d.numbered.relayDown = d.relayDown ∧ ∀ p, d.numbered.rlyState p = d.rlyState p := by
  obtain ⟨-, down, -⟩ := Dev.place_of_roles (Dev.role_of_regs fun p => d.numbered_reg (o := Off.prtLinkSts (portIdx p)) (by cases p <;> decide))
  exact ⟨down, fun p => congrArg (fieldOf · _ _) (d.numbered_reg (by cases p <;> decide))⟩

/-- A device that waits for the return of a roll call from now on. -/
def Dev.rollsFrom (d : Dev) (again : Bool) : Dev := { d with chain := { d.chain with rolling := some (d.now, again) } }

theorem Dev.rollCall_sends (again : Bool) (head : d.isHead = true) (down : d.relayDown = some p) (runs : d.rlyState p = 3) :
    ∃ r, d.rollCall again = (d.numbered.rollsFrom again).sendRoll p r := by
  obtain ⟨down', state⟩ := d.numbered_place
  unfold Dev.rollCall
  simp only [head, Bool.not_true, Bool.false_eq_true, if_false]
  rw [show (d.setFld Fld.rlyChainSts_epoch ((d.fld Fld.rlyChainSts_epoch + 1) % 256)).setFlag Fld.rlyChainSts_idv true = d.numbered from rfl,
    down', down]
  dsimp only
  rw [state, if_pos (.inl runs)]
  exact ⟨_, rfl⟩

theorem Dev.rollCall_ends (again : Bool) (head : d.isHead = true) (down : d.relayDown = some p) (quiet : d.rlyState p ≠ 3)
    (well : d.rlyState p ≠ 4) : d.rollCall again = d.numbered.rollDone 1 false [] := by
  obtain ⟨down', state⟩ := d.numbered_place
  unfold Dev.rollCall
  simp only [head, Bool.not_true, Bool.false_eq_true, if_false]
  rw [show (d.setFld Fld.rlyChainSts_epoch ((d.fld Fld.rlyChainSts_epoch + 1) % 256)).setFlag Fld.rlyChainSts_idv true = d.numbered from rfl,
    down', down]
  dsimp only
  rw [state, if_neg (not_or.mpr ⟨quiet, well⟩)]

/-- A roll call sent: its number, its start, and what it leaves alone. -/
theorem Dev.rollCall_keyed (again : Bool) (keyed : DownKeyed d) : (d.rollCall again).endRoll = d.rollCall again ∧
    Rolling (d.rollCall again) d again ∧ (d.rollCall again).calm = d.calm ∧
    (d.rollCall again).chain = { d.chain with rolling := some (d.now, again) } ∧ (d.rollCall again).mb = d.mb ∧
    ∀ o, o ≠ Off.rlyChainSts → relayReg o = false → (d.rollCall again).reg o = d.reg o := by
  obtain ⟨head, p, down, runs⟩ := keyed
  obtain ⟨r, sent⟩ := Dev.rollCall_sends again head (Option.mem_toList.mp down) runs
  rw [sent, Dev.sendRoll]
  generalize hm : (⟨(d.numbered.rollsFrom again).mgmtMsg 0 0, opcRoll, [], some r⟩ : TxMsg) = m
  have chain : ((d.numbered.rollsFrom again).relayPut p m).chain = { d.chain with rolling := some (d.now, again) } :=
    (Dev.relayPut_chain _ _ _).trans rfl
  have reg : ∀ o, relayReg o = false → ((d.numbered.rollsFrom again).relayPut p m).reg o = d.numbered.reg o := fun o relay =>
    (Dev.relayPut_reg _ _ _ _ relay).trans rfl
  refine ⟨?_, ⟨?_, ?_⟩, (Dev.relayPut_calm _ _ _).trans rfl, chain, (Dev.relayPut_mb _ _ _).trans rfl, fun o other relay => ?_⟩
  · rw [Dev.endRoll, chain]
    rfl
  · exact (congrArg (fieldOf · _ _) (reg Off.rlyChainSts (by decide))).trans d.numbered_epoch
  · rw [chain]
  · rw [reg o relay, d.numbered_reg other]

end

/-- A device in which no command waits for a roll call. -/
def Dev.rollUnasked (d : Dev) : Dev := { d with chain := { d.chain with rollCmd := none } }

/-- The command that waits for a roll call is answered with EPOCH and COUNT. -/
theorem Dev.endRoll_answers {d : Dev} {i : Iface} (ended : d.chain.rolling = none) (asked : d.chain.rollCmd = some i) : d.endRoll =
    d.rollUnasked.complete i 0xC060 rcSuccess [BitVec.ofNat 8 (d.fld Fld.rlyChainSts_epoch), BitVec.ofNat 8 (d.fld Fld.rlyChainSts_count)] := by
  rw [Dev.endRoll, if_neg (by simp [ended])]
  split
  · next j found =>
    obtain rfl : j = i := Option.some.inj (found.symm.trans asked)
    rfl
  · next absent => rw [asked] at absent; cases absent

/-! ### XT_CHAIN_ROLLCALL -/

section
variable (d : Dev) (i : Iface)

/-- A device in which XT_CHAIN_ROLLCALL runs. -/
def Dev.rollAsked (d : Dev) (i : Iface) : Dev := Dev.longRun { d with chain := { d.chain with rollCmd := some i } } i 0xC060

theorem Dev.rollAsked_reg {o : Nat} (mbox : mboxReg o = false) : (d.rollAsked i).reg o = d.reg o := by
  have other : o ≠ Off.mboxCmdSts (ifaceIdx i) := by
    rintro rfl
    exact absurd mbox (by cases i <;> decide)
  unfold Dev.rollAsked Dev.longRun Dev.setFlag
  dsimp only
  rw [Dev.reg_setFld_ne _ _ other, Dev.reg_setFld_ne _ _ other]
  rfl

theorem Dev.rollAsked_calm : (d.rollAsked i).calm = d.calm := by
  unfold Dev.rollAsked Dev.longRun Dev.setFlag
  dsimp only
  rw [Dev.setFld_calm, Dev.setFld_calm]
  rfl

theorem Dev.rollAsked_place : (d.rollAsked i).isHead = d.isHead ∧ (d.rollAsked i).relayDown = d.relayDown ∧
    ∀ p, (d.rollAsked i).rlyState p = d.rlyState p := by
  obtain ⟨head, down, -⟩ := Dev.place_of_roles (Dev.role_of_regs fun p => d.rollAsked_reg i (o := Off.prtLinkSts (portIdx p)) (by cases p <;> decide))
  exact ⟨head, down, fun p => congrArg (fieldOf · _ _) (d.rollAsked_reg i (by cases p <;> decide))⟩

theorem Dev.rollAsked_epoch : (d.rollAsked i).fld Fld.rlyChainSts_epoch = d.fld Fld.rlyChainSts_epoch :=
  congrArg (fieldOf · _ _) (d.rollAsked_reg i (by decide))

/-- The end of a roll call in which nothing but the head was found: EPOCH, COUNT, and the result that the next boundary takes. -/
theorem Dev.rollDone_alone : (d.rollDone 1 false []).calm = d.calm ∧
    (d.rollDone 1 false []).chain = { d.chain with rolling := none, result := some [] } ∧
    (d.rollDone 1 false []).fld Fld.rlyChainSts_count = 1 ∧
    (d.rollDone 1 false []).fld Fld.rlyChainSts_epoch = d.fld Fld.rlyChainSts_epoch := by
  unfold Dev.rollDone
  dsimp only
  generalize hb : (d.setFld Fld.rlyChainSts_count 1).setFlag Fld.rlyChainSts_overlong false = b
  have count : b.fld Fld.rlyChainSts_count = 1 := by
    rw [← hb, Dev.setFlag, Dev.fld_setFld_apart _ _ _ _ (by decide), Dev.fld_setFld_same _ _ _ (by decide)]
    rfl
  have epoch : b.fld Fld.rlyChainSts_epoch = d.fld Fld.rlyChainSts_epoch := by
    rw [← hb, Dev.setFlag, Dev.fld_setFld_apart _ _ _ _ (by decide), Dev.fld_setFld_apart _ _ _ _ (by decide)]
  have calm : b.calm = d.calm := hb ▸ rfl
  have chain : b.chain = d.chain := hb ▸ rfl
  have reg : ∀ n l, (Dev.raiseN { b with chain := { b.chain with rolling := none, result := some [] } } n l).reg Off.rlyChainSts = b.reg Off.rlyChainSts :=
    fun n l => (Dev.raiseN_reg _ n l _ (by decide)).trans rfl
  exact ⟨(Dev.raiseN_calm _ _ _).trans calm, (Dev.raiseN_chain _ _ _).trans (by rw [chain]),
    (congrArg (fieldOf · _ _) (reg _ _)).trans count, (congrArg (fieldOf · _ _) (reg _ _)).trans epoch⟩

end

section
variable {s : State} {i : Iface} {p : Payload} (takes : s.dev.takesNow i 0xC060) (own : s.dev.ownPayload p 0)
include takes own

theorem completes_xtChainRollcall_aside (aside : s.dev.isHead = false) :
    Completes (.xtChainRollcall i p) s fun d => d.answered i rcInvalidInput 0xC060 [] ∧ Undisturbed d s.dev := by
  have effect : ∃ f, exec (.xtChainRollcall i p) s = s.on f ∧ f s.dev = s.dev.complete i 0xC060 rcInvalidInput [] := by
    refine ⟨_, (rfl : execXtChainRollcall i p s = s.on _), ?_⟩
    rw [Dev.mailbox_now _ _ _ _ _ takes, bodyChainRollcall, Dev.vendor_own _ _ _ _ _ _ own, aside]
    rfl
  obtain ⟨f, hc, effect⟩ := effect
  obtain ⟨stands, still⟩ := undisturbed_of_calm (s.dev.complete_calm i 0xC060 rcInvalidInput [])
  exact .of_standing hc effect stands ⟨Dev.complete_answered _ _ _ _ _, still⟩

/-- How XT_CHAIN_ROLLCALL goes on at a head. -/
theorem xtChainRollcall_runs (head : s.dev.isHead = true) (none_asked : s.dev.chain.rollCmd = none) : ∃ f,
    exec (.xtChainRollcall i p) s = s.on f ∧ f s.dev = ((s.dev.rollAsked i).rollCall false).endRoll := by
  refine ⟨_, (rfl : execXtChainRollcall i p s = s.on _), ?_⟩
  rw [Dev.mailbox_now _ _ _ _ _ takes, bodyChainRollcall, Dev.vendor_own _ _ _ _ _ _ own, head, none_asked]
  rfl

theorem completes_xtChainRollcall_keyed (keyed : DownKeyed s.dev) (none_asked : s.dev.chain.rollCmd = none) :
    Completes (.xtChainRollcall i p) s fun d =>
      Rolling d s.dev false ∧ d.chain.rollCmd = some i ∧ (i, 0xC060) ∈ d.mb.running ∧ Undisturbed d s.dev := by
  obtain ⟨f, hc, effect⟩ := xtChainRollcall_runs takes own keyed.1 none_asked
  obtain ⟨head, down, state⟩ := s.dev.rollAsked_place i
  have keyed' : DownKeyed (s.dev.rollAsked i) := by rwa [DownKeyed, head, down, funext state]
  obtain ⟨quiet, ⟨epoch, rolling⟩, calm, chain, mb, -⟩ := Dev.rollCall_keyed false keyed'
  rw [quiet] at effect
  rw [Dev.rollAsked_epoch] at epoch
  obtain ⟨stands, still⟩ := undisturbed_of_calm (calm.trans (s.dev.rollAsked_calm i))
  refine .of_standing hc effect stands ⟨⟨epoch, rolling⟩, by rw [chain]; rfl, ?_, still⟩
  rw [mb]
  exact List.mem_append_right _ (List.mem_singleton.mpr rfl)

theorem completes_xtChainRollcall_alone {q : PortId} (head : s.dev.isHead = true) (none_asked : s.dev.chain.rollCmd = none)
    (down : s.dev.relayDown = some q) (quiet : s.dev.rlyState q ≠ 3) (well : s.dev.rlyState q ≠ 4) : Completes (.xtChainRollcall i p) s fun d =>
      d.answered i rcSuccess 0xC060 [BitVec.ofNat 8 (s.dev.fld Fld.rlyChainSts_epoch + 1), 1] ∧ d.fld Fld.rlyChainSts_count = 1 ∧
        d.chain.result = some [] ∧ Undisturbed d s.dev := by
  obtain ⟨f, hc, effect⟩ := xtChainRollcall_runs takes own head none_asked
  obtain ⟨head', down', state⟩ := s.dev.rollAsked_place i
  rw [Dev.rollCall_ends false (head'.trans head) (down'.trans down) (by rwa [state]) (by rwa [state])] at effect
  obtain ⟨calm, chain, count, epoch⟩ := (s.dev.rollAsked i).numbered.rollDone_alone
  have asked : (s.dev.rollAsked i).numbered.chain = { s.dev.chain with rollCmd := some i } := rfl
  rw [Dev.numbered_epoch, Dev.rollAsked_epoch] at epoch
  rw [asked] at chain
  have calm' := calm.trans ((Dev.numbered_calm _).trans (s.dev.rollAsked_calm i))
  generalize (s.dev.rollAsked i).numbered.rollDone 1 false [] = b at effect calm' chain count epoch
  have number : BitVec.ofNat 8 ((s.dev.fld Fld.rlyChainSts_epoch + 1) % 256) = BitVec.ofNat 8 (s.dev.fld Fld.rlyChainSts_epoch + 1) :=
    BitVec.eq_of_toNat_eq (by rw [BitVec.toNat_ofNat, BitVec.toNat_ofNat, Nat.mod_mod])
  rw [Dev.endRoll_answers (by rw [chain]) (by rw [chain]), epoch, count, number] at effect
  obtain ⟨stands, still⟩ := undisturbed_of_calm (d := s.dev) ((b.rollUnasked.complete_calm i 0xC060 rcSuccess _).trans calm')
  refine .of_standing hc effect stands ⟨Dev.complete_answered _ _ _ _ _, ?_, ?_, still⟩
  · exact (congrArg (fieldOf · _ _) (b.rollUnasked.complete_reg _ _ _ _ _ (by decide) (by decide))).trans count
  · rw [Dev.complete_chain, Dev.rollUnasked, chain]

end

/-! ### XT_CHAIN_MAP -/

theorem getD_flatMap_of_length {α β : Type} {f : α → List β} {n : Nat} (uniform : ∀ x, (f x).length = n) (b : β) (l : List α) (k : Nat)
    {x : α} (at_k : l[k]? = some x) {j : Nat} (inside : j < n) : (l.flatMap f).getD (n * k + j) b = (f x).getD j b := by
  induction l generalizing k with
  | nil => simp at at_k
  | cons y l ih =>
    rw [List.flatMap_cons]
    cases k with
    | zero =>
      obtain rfl : y = x := by simpa using at_k
      rw [Nat.mul_zero, Nat.zero_add, List.getD_append _ _ _ _ (by rwa [uniform])]
    | succ k =>
      have behind : n * (k + 1) + j = (f y).length + (n * k + j) := by rw [uniform, Nat.mul_succ]; omega
      rw [behind, List.getD_append_right _ _ _ _ (Nat.le_add_right _ _), Nat.add_sub_cancel_left]
      exact ih k (by simpa using at_k)

theorem length_memberBytes (r : MemberRec) : (memberBytes r).length = 24 := by
  simp [memberBytes, leBytes_length]

/-- What XT_CHAIN_MAP tells of the position `k + 1`. -/
def Dev.positionEntry (d : Dev) (k : Nat) : Payload :=
  BitVec.ofNat 8 (d.fld (Fld.rlyMember_state (k + 1))) :: List.replicate 7 0 ++
    (match vget none d.chain.members (k + 1) with
      | some r => memberBytes r
      | none => List.replicate 24 0)

theorem Dev.length_positionEntry (d : Dev) (k : Nat) : (d.positionEntry k).length = 32 := by
  unfold Dev.positionEntry
  split
  · simp [length_memberBytes]
  · simp

theorem completes_xtChainMap {s : State} {i : Iface} {p : Payload} (takes : s.dev.takesNow i 0xC061) (own : s.dev.ownPayload p 0) :
    Completes (.xtChainMap i p) s fun d => Undisturbed d s.dev ∧ d.chain = s.dev.chain ∧
      (∃ out ∈ (d.out.head?.toList.map fun o => match o with | .mbox j rc op l => if j = i ∧ rc = rcSuccess ∧ op = 0xC061 then l else [] | _ => []),
        out.length = 224 ∧ (∀ k ∈ List.range 7, out.getD (32 * k) 0 = BitVec.ofNat 8 (s.dev.fld (Fld.rlyMember_state (k + 1))))) := by
  have effect : ∃ f, exec (.xtChainMap i p) s = s.on f ∧
      f s.dev = s.dev.complete i 0xC061 rcSuccess ((List.range 7).flatMap s.dev.positionEntry) := by
    refine ⟨_, (rfl : execXtChainMap i p s = s.on _), ?_⟩
    rw [Dev.mailbox_now _ _ _ _ _ takes, bodyChainMap, Dev.vendor_own _ _ _ _ _ _ own]
    rfl
  obtain ⟨f, hc, effect⟩ := effect
  have length : ((List.range 7).flatMap s.dev.positionEntry).length = 224 := by
    simp [List.length_flatMap, Dev.length_positionEntry]
  have answered := s.dev.complete_answered i 0xC061 rcSuccess ((List.range 7).flatMap s.dev.positionEntry)
  rw [List.take_of_length_le (by rw [length]; decide)] at answered
  obtain ⟨stands, still⟩ := undisturbed_of_calm (s.dev.complete_calm i 0xC061 rcSuccess ((List.range 7).flatMap s.dev.positionEntry))
  refine .of_standing hc effect stands ⟨still, Dev.complete_chain _ _ _ _ _, (List.range 7).flatMap s.dev.positionEntry, ?_, length, fun k known => ?_⟩
  · rw [answered]
    simp
  · have entry : (List.range 7)[k]? = some k := List.getElem?_range (List.mem_range.mp known)
    exact getD_flatMap_of_length s.dev.length_positionEntry 0 (List.range 7) k entry (j := 0) (by decide)

/-! ### The waits -/

section
variable {s : State}

/-- A member's roll call returned: its wait is over and its record is the last one sent. -/
theorem Dev.returnRoll_ends (d : Dev) (r : Roll) : (d.returnRoll r).calm = d.calm ∧
    (d.returnRoll r).chain = { d.chain with waiting := none, stateSent := some d.ownRecord } := by
  unfold Dev.returnRoll
  dsimp only
  split
  · exact ⟨(Dev.relayPut_calm _ _ _).trans rfl, (Dev.relayPut_chain _ _ _).trans rfl⟩
  · exact ⟨rfl, rfl⟩

/-- The return of a member that its neighbour did not answer. -/
def Dev.breakRoll (d : Dev) : Roll := ⟨true, d.fld Fld.rlyChainSts_epoch, d.chainId + 1, d.flag Fld.rlyChainCtl_policy, true, false, []⟩

theorem completes_rollCallWaitExpiry {t : Nat} (live : s.dev.live = true) (waits : s.dev.chain.waiting = some t) (due : t ≤ s.dev.now) :
    Completes .rollCallWaitExpiry s fun d => d.chain.waiting = none ∧ d.chain.stateSent = some s.dev.ownRecord ∧ Undisturbed d s.dev := by
  obtain ⟨calm, chain⟩ := s.dev.returnRoll_ends s.dev.breakRoll
  obtain ⟨stands, still⟩ := undisturbed_of_calm calm
  refine .of_standing (e := s.dev.returnRoll s.dev.breakRoll) (rfl : execRollCallWaitExpiry s = s.on _) ?_ stands
    ⟨by rw [chain], by rw [chain], still⟩
  simp only [waits, live, due, decide_true, Bool.and_self, if_true]
  rfl

theorem completes_rollCallWaitExpiry_early (early : ∀ t ∈ s.dev.chain.waiting.toList, s.dev.now < t) :
    Completes .rollCallWaitExpiry s fun d => d = s.dev := by
  refine .of_standing (e := s.dev) (rfl : execRollCallWaitExpiry s = s.on _) ?_ rfl rfl
  split
  · next t waits =>
    have later := early t (by rw [waits]; exact List.mem_singleton.mpr rfl)
    exact if_neg (by simp [later])
  · rfl

theorem completes_rollCallReturnTimeout_early (early : ∀ x ∈ s.dev.chain.rolling.toList, s.dev.now < x.1 + 2048) :
    Completes .rollCallReturnTimeout s fun d => d = s.dev := by
  refine .of_standing (e := s.dev) (rfl : execRollCallReturnTimeout s = s.on _) ?_ rfl rfl
  split
  · next t again rolls =>
    have later := early (t, again) (by rw [rolls]; exact List.mem_singleton.mpr rfl)
    exact if_neg (by simp [later])
  · rfl

variable {t : Nat} (live : s.dev.live = true) (keyed : DownKeyed s.dev) (due : t + 2048 ≤ s.dev.now)
include live keyed due

theorem completes_rollCallReturnTimeout_first (rolls : s.dev.chain.rolling = some (t, false)) :
    Completes .rollCallReturnTimeout s fun d => Rolling d s.dev true ∧ Undisturbed d s.dev := by
  obtain ⟨quiet, rolling, calm, -⟩ := Dev.rollCall_keyed true keyed
  obtain ⟨stands, still⟩ := undisturbed_of_calm calm
  refine .of_standing (e := s.dev.rollCall true) (rfl : execRollCallReturnTimeout s = s.on _) ?_ stands ⟨rolling, still⟩
  simp only [rolls, live, due, decide_true, Bool.and_self, if_true, Bool.not_false]
  exact quiet

end

/-! ### A roll call that does not return -/

section
variable (d : Dev)

/-- A device in which no roll call is under way. -/
def Dev.unrolled (d : Dev) : Dev := { d with chain := { d.chain with rolling := none } }

/-- A head that gives a roll call up, with Internal Error for the command that waits for it. -/
def Dev.rollGivenUp (d : Dev) : Dev :=
  match d.unrolled.chain.rollCmd with
  | some i => d.unrolled.rollUnasked.complete i 0xC060 rcInternal []
  | none => d.unrolled

theorem Dev.rollGivenUp_keeps : d.rollGivenUp.calm = d.calm ∧ d.rollGivenUp.chain = { d.chain with rolling := none, rollCmd := none } ∧
    (∀ p, d.rollGivenUp.role p = d.role p) ∧ ∀ p, d.rollGivenUp.rlyState p = d.rlyState p := by
  unfold Dev.rollGivenUp
  split
  · refine ⟨(Dev.complete_calm _ _ _ _ _).trans rfl, (Dev.complete_chain _ _ _ _ _).trans rfl, fun p => ?_, fun p => ?_⟩
    · exact congrArg (fieldOf · _ _) (Dev.complete_reg _ _ _ _ _ _ (by cases p <;> decide) (by cases p <;> decide))
    · exact Dev.complete_rlyState _ _ _ _ _ _
  · next absent =>
    have absent' : d.chain.rollCmd = none := absent
    exact ⟨rfl, by rw [Dev.unrolled, ← absent'], fun _ => rfl, fun _ => rfl⟩

/-- A device whose link at a port is BROKEN, with nothing left of it. -/
def Dev.linkBroken (d : Dev) (p : PortId) : Dev :=
  Dev.floorMoved (Dev.raiseN (Dev.setReg (Dev.setFld (Dev.setReg (d.modRly p fun _ => RelayPort.reset) (Off.rlyLinkSts (portIdx p)) 0)
    (Fld.rlyLinkSts_state (portIdx p)) 5) (Off.rlyHoldSts (portIdx p)) 0) 0x1A2 [])

theorem Dev.linkBroken_keeps (p : PortId) : (d.linkBroken p).calm = d.calm ∧ (d.linkBroken p).chain = d.chain ∧
    (∀ q, (d.linkBroken p).role q = d.role q) ∧ (d.linkBroken p).rlyState p = 5 ∧ (d.linkBroken p).rlyOf p = RelayPort.reset := by
  have reg : ∀ o, eventReg o = false → o ≠ Off.rlyHoldSts (portIdx p) → (d.linkBroken p).reg o =
      (Dev.setFld (Dev.setReg (d.modRly p fun _ => RelayPort.reset) (Off.rlyLinkSts (portIdx p)) 0) (Fld.rlyLinkSts_state (portIdx p)) 5).reg o :=
    fun o event hold => (Dev.raiseN_reg _ _ _ _ event).trans (Dev.reg_setReg_ne _ _ hold)
  refine ⟨?_, ?_, fun q => ?_, ?_, ?_⟩
  · rw [Dev.linkBroken, Dev.floorMoved_calm, Dev.raiseN_calm, Dev.setReg_calm, Dev.setFld_calm, Dev.setReg_calm, Dev.modRly_calm]
  · rw [Dev.linkBroken, Dev.floorMoved_chain, Dev.raiseN_chain, Dev.setReg_chain, Dev.setFld_chain, Dev.setReg_chain, Dev.modRly_chain]
  · refine (congrArg (fieldOf · _ _) ?_ : _ = fieldOf (d.reg _) _ _)
    rw [reg _ (by cases q <;> decide) (by cases p <;> cases q <;> decide),
      Dev.reg_setFld_ne _ _ (by cases p <;> cases q <;> decide), Dev.reg_setReg_ne _ _ (by cases p <;> cases q <;> decide)]
    rfl
  · refine (congrArg (fieldOf · _ _) (reg _ (by cases p <;> decide) (by cases p <;> decide))).trans ?_
    exact (Dev.fld_setFld_same _ _ _ (by cases p <;> decide)).trans rfl
  · have rly : (d.linkBroken p).rly = (d.modRly p fun _ => RelayPort.reset).rly := by
      rw [Dev.linkBroken, Dev.floorMoved_rly, Dev.raiseN_rly, Dev.setReg_rly, Dev.setFld_rly, Dev.setReg_rly]
    refine (?_ : _ = (d.modRly p fun _ => RelayPort.reset).rlyOf p).trans ?_
    · unfold Dev.rlyOf
      rw [rly]
    · exact (vget_vmod _ _ _ _ _).trans (if_pos ⟨rfl, portIdx_lt p⟩)

variable {d} {p : PortId}

/-- A Relay-down link of the head that breaks is a loss at position 1. -/
theorem Dev.breakLink_lost (cause : Nat) (head : d.isHead = true) (down : d.role p = 3) (runs : d.rlyState p = 3) :
    d.breakLink p cause = (d.linkBroken p).findLoss 1 .relayDown := by
  obtain ⟨-, -, role, -⟩ := d.linkBroken_keeps p
  obtain ⟨head', -⟩ := Dev.place_of_roles role
  have aside : ¬ (d.linkBroken p).role p = 2 := by rw [role, down]; decide
  unfold Dev.breakLink
  dsimp only
  rw [if_neg (by rw [runs]; decide)]
  refine (if_neg aside : _ = _).trans ?_
  exact if_pos (head'.trans head)

/-- The loss that is due lies no higher than the one just found. -/
theorem Dev.findLoss_lowest (d : Dev) (k : Nat) (cause : LossCause) : ∃ x ∈ (d.findLoss k cause).chain.lossDue.toList, x.1 ≤ k := by
  unfold Dev.findLoss
  split
  · next k' c' _ =>
    by_cases lower : k' ≤ k
    · exact ⟨(k', c'), by simp [lower], lower⟩
    · exact ⟨(k, cause), by simp [lower], le_rfl⟩
  · exact ⟨(k, cause), by simp, le_rfl⟩

/-- Relay-down is the port of that role. -/
theorem Dev.role_relayDown (down : d.relayDown = some p) : d.role p = 3 := by
  simpa using List.find?_some down

end

theorem completes_rollCallReturnTimeout_again {s : State} {t : Nat} (live : s.dev.live = true) (keyed : DownKeyed s.dev)
    (rolls : s.dev.chain.rolling = some (t, true)) (due : t + 2048 ≤ s.dev.now) : Completes .rollCallReturnTimeout s fun d =>
      d.chain.rolling = none ∧ d.chain.rollCmd = none ∧ (∃ x ∈ d.chain.lossDue.toList, x.1 ≤ 1) ∧ Undisturbed d s.dev ∧
        (∀ q ∈ s.dev.relayDown.toList, d.rlyState q = 5 ∧ d.rlyOf q = RelayPort.reset) := by
  obtain ⟨head, p, found, runs⟩ := keyed
  have down : s.dev.relayDown = some p := Option.mem_toList.mp found
  obtain ⟨calm, chain, role, state⟩ := s.dev.rollGivenUp_keeps
  obtain ⟨head', down', -⟩ := Dev.place_of_roles role
  have lost := Dev.breakLink_lost 0 (head'.trans head) ((role p).trans (Dev.role_relayDown down)) ((state p).trans runs)
  obtain ⟨calm', chain', -, broken, reset⟩ := s.dev.rollGivenUp.linkBroken_keeps p
  have effect : ∃ f, exec .rollCallReturnTimeout s = s.on f ∧ f s.dev = (s.dev.rollGivenUp.linkBroken p).findLoss 1 .relayDown := by
    refine ⟨_, (rfl : execRollCallReturnTimeout s = s.on _), ?_⟩
    simp only [rolls, live, due, decide_true, Bool.and_self, if_true, Bool.not_true, Bool.false_eq_true, if_false]
    rw [← lost]
    exact (congrArg (fun o : Option PortId => match o with | some p => s.dev.rollGivenUp.breakLink p 0 | none => s.dev.rollGivenUp)
      (down'.trans down) :)
  obtain ⟨f, hc, effect⟩ := effect
  generalize s.dev.rollGivenUp.linkBroken p = e at effect calm' chain' broken reset
  obtain ⟨stands, still⟩ := undisturbed_of_calm (d := s.dev) (calm'.trans calm)
  refine .of_standing hc effect stands ⟨?_, ?_, ?_, still, ?_⟩
  · exact (congrArg Chain.rolling (chain'.trans chain) : e.chain.rolling = _)
  · exact (congrArg Chain.rollCmd (chain'.trans chain) : e.chain.rollCmd = _)
  · exact e.findLoss_lowest 1 .relayDown
  · intro q other
    obtain rfl : q = p := Option.some.inj ((Option.mem_toList.mp other).symm.trans down)
    exact ⟨broken, reset⟩

end Sys2Proof.Machine


/-! SUPPORT. The loss of a chain member (O47, R382): what the head's clean-up leaves alone. -/

namespace Sys2Proof.Machine

/-! ### The head's place and its chain -/

/-- The registers of the ports' roles, the Relay links, and the chain. -/
def hubReg (o : Nat) : Bool :=
  o == Off.prtLinkSts 0 || o == Off.prtLinkSts 1 || relayReg o || o == Off.rlyChainSts || (decide (0x41100 ≤ o) && decide (o < 0x41120))

/-- What the clean-up behind a loss goes by: contents, requests, the ports and their links, and the chain but for its list of lost blocks. -/
structure Hub where
  stands : Part × Fuses × Mode
  clk : Clock
  mem : Mem
  txns : List Txn
  chain : Chain
  chainSts : Word
  ports : PortId → Nat × Nat
  members : Fin 8 → Word

def Dev.hub (d : Dev) : Hub :=
  ⟨d.standing, d.clk, d.mem, d.txns, { d.chain with lost := [] }, d.reg Off.rlyChainSts, fun p => (d.role p, d.rlyState p),
    fun m => d.reg (Off.rlyMember m.val)⟩

section
variable (d : Dev)

variable {d} in
theorem Dev.hub_of_reg {e : Dev} (same : (e.standing, e.clk, e.mem, e.txns, e.chain) = (d.standing, d.clk, d.mem, d.txns, d.chain))
    (reg : ∀ o, hubReg o = true → e.reg o = d.reg o) : e.hub = d.hub := by
  simp only [Prod.mk.injEq] at same
  obtain ⟨stands, clk, mem, txns, chain⟩ := same
  have ports : ∀ p, (e.role p, e.rlyState p) = (d.role p, d.rlyState p) := fun p => congrArg₂ Prod.mk
    (congrArg (fieldOf · _ _) (reg (Off.prtLinkSts (portIdx p)) (by cases p <;> decide)))
    (congrArg (fieldOf · _ _) (reg (Off.rlyLinkSts (portIdx p)) (by cases p <;> decide)))
  have members : ∀ m : Fin 8, e.reg (Off.rlyMember m.val) = d.reg (Off.rlyMember m.val) := fun m =>
    reg (Off.rlyMember m.val) (by revert m; decide)
  rw [Dev.hub, Dev.hub, stands, clk, mem, txns, chain, reg Off.rlyChainSts (by decide), funext ports, funext members]

theorem Dev.setReg_hub {o : Nat} (w : Word) (other : hubReg o = false) : (d.setReg o w).hub = d.hub :=
  Dev.hub_of_reg rfl fun x hub => Dev.reg_setReg_ne _ _ (by rintro rfl; rw [other] at hub; cases hub)

theorem Dev.setFld_hub {f : Fld} (v : Nat) (other : hubReg f.off = false) : (d.setFld f v).hub = d.hub := d.setReg_hub _ other

theorem Dev.emit_hub (o : Out) : (d.emit o).hub = d.hub := rfl

theorem Dev.modTenant_hub (t : TenantId) (f : Tenant → Tenant) : (d.modTenant t f).hub = d.hub := rfl

theorem Dev.modLd_hub (p : PortId) (ld : Nat) (f : LdState → LdState) : (d.modLd p ld f).hub = d.hub := by
  unfold Dev.modLd
  split <;> rfl

theorem Dev.countAs_hub (n k : Nat) (c : Option (BitVec 16)) (t : Option TenantId) (l : Option Cls) : (d.countAs n k c t l).hub = d.hub := by
  obtain ⟨q, shape⟩ := d.countAs_shape n k c t l
  rw [shape]
  rfl

theorem Dev.raise_hub (e : Ev) : (d.raise e).hub = d.hub := by
  refine Dev.hub_of_reg ?_ fun o hub => d.raise_reg e o ?_
  · obtain ⟨_, _, _, _, _, _, shape⟩ := d.raise_shape e
    rw [shape]
    rfl
  · by_contra event
    simp only [eventReg, Bool.not_eq_false, Bool.or_eq_true, beq_iff_eq] at event
    obtain (rfl | rfl) | rfl := event <;> exact absurd hub (by decide)

theorem Dev.relayPut_hub (p : PortId) (t : TxMsg) : (d.relayPut p t).hub = d.hub := by
  have reg : ∀ o, relayReg o = false → (d.relayPut p t).reg o = d.reg o := d.relayPut_reg p t
  have ports : ∀ q, ((d.relayPut p t).role q, (d.relayPut p t).rlyState q) = (d.role q, d.rlyState q) := fun q => congrArg₂ Prod.mk
    (congrArg (fieldOf · _ _) (reg (Off.prtLinkSts (portIdx q)) (by cases q <;> decide))) (d.relayPut_rlyState p q t)
  have members : ∀ m : Fin 8, (d.relayPut p t).reg (Off.rlyMember m.val) = d.reg (Off.rlyMember m.val) := fun m =>
    reg (Off.rlyMember m.val) (by revert m; decide)
  rw [Dev.hub, Dev.hub, reg Off.rlyChainSts (by decide), funext ports, funext members]
  obtain ⟨_, _, _, _, _, shape⟩ := d.relayPut_shape p t
  rw [shape]
  rfl

theorem Dev.sendUp_hub (m : RelayMsg) (c : Nat) (l : List (BitVec 128)) : (d.sendUp m c l).hub = d.hub := by
  unfold Dev.sendUp Dev.relaySend
  split
  · exact d.relayPut_hub _ _
  · rfl

/-! ### Answers -/

theorem Dev.answerHost_hub (p : PortId) (ld tag : Nat) (uio : Bool) (md : Meta) (load : Nat) (r : Reply) :
    (d.answerHost p ld tag uio md load r).hub = d.hub := by
  unfold Dev.answerHost
  split
  · rfl
  · exact Dev.emit_hub _ _

theorem Dev.answerRelay_hub (x : Txn) (src tag : Nat) (r : Reply) : (d.answerRelay x src tag r).hub = d.hub := by
  cases r <;> exact d.sendUp_hub _ _ _

theorem Dev.delivered_hub (x : Txn) : (d.delivered x).hub = d.hub := by
  unfold Dev.delivered
  split
  · rfl
  · dsimp only
    split
    · rfl
    · exact (Dev.modTenant_hub _ _ _).trans (d.countAs_hub _ _ _ _ _)

theorem Dev.histogram_hub (x : Txn) : (d.histogram x).hub = d.hub := rfl

theorem Dev.sendAcks_hub (id : Nat) : (d.sendAcks id).hub = d.hub := by
  have one : ∀ (d : Dev) port tag sharer, (d.conflictAck port tag sharer).hub = d.hub := by
    intro d port tag sharer
    unfold Dev.conflictAck
    split
    · exact d.sendUp_hub _ _ _
    · rfl
  unfold Dev.sendAcks
  dsimp only
  split
  · rfl
  · exact foldl_keeps Dev.hub _ _ _ fun d a => one d _ _ _

/-- A device without a transaction. -/
def Dev.without (d : Dev) (x : Txn) : Dev := { d with txns := d.txns.filter (·.id != x.id) }

/-- A transaction that completes leaves the table, and nothing else of the hub changes. -/
theorem Dev.finish_hub (x : Txn) (r : Reply) : (d.finish x r).hub = (d.without x).hub := by
  have reads : ∀ (d : Dev) p, (d.bump (Fld.prtDownCnt_reads (portIdx p)) 1).hub = d.hub := fun d p => d.setFld_hub _ (by cases p <;> decide)
  have writes : ∀ (d : Dev) p, (d.bump (Fld.prtDownCnt_writes (portIdx p)) 1).hub = d.hub := fun d p => d.setFld_hub _ (by cases p <;> decide)
  unfold Dev.finish
  dsimp only
  rw [show ({ d with txns := d.txns.filter (·.id != x.id) } : Dev) = d.without x from rfl, ← (d.without x).sendAcks_hub x.id]
  generalize (d.without x).sendAcks x.id = c
  split
  · simp only [apply_ite Dev.hub, Dev.histogram_hub, Dev.delivered_hub, Dev.answerHost_hub, reads, writes, ite_self]
  · exact c.answerRelay_hub _ _ _ _

theorem Dev.finishPoisoned_hub (x : Txn) : (d.finishPoisoned x).hub = (d.without x).hub := d.finish_hub x _

end

/-! ### Requests to the lost members -/

/-- A device without the transactions of a list. -/
def Dev.withoutAll (d : Dev) (l : List Txn) : Dev := l.foldl Dev.without d

theorem Dev.without_hub {d e : Dev} (same : e.hub = d.hub) (x : Txn) : (e.without x).hub = (d.without x).hub := by
  have filtered : ∀ d : Dev, (d.without x).hub = { d.hub with txns := d.hub.txns.filter (·.id != x.id) } := fun _ => rfl
  rw [filtered, filtered, same]

theorem Dev.mem_withoutAll (l : List Txn) (d : Dev) (y : Txn) : y ∈ (d.withoutAll l).txns ↔ y ∈ d.txns ∧ ∀ x ∈ l, y.id ≠ x.id := by
  induction l generalizing d with
  | nil => simp [Dev.withoutAll]
  | cons x l ih =>
    refine (ih (d.without x)).trans ?_
    simp [Dev.without, and_assoc]

/-- The requests that were forwarded to the members from position k on. -/
def Dev.forwarded (d : Dev) (k : Nat) : List Txn := d.txns.filter fun x => x.phase == .relayed && decide (k ≤ maMember x.ma)

theorem Dev.dropForwarded_hub (d : Dev) (k : Nat) : (d.dropForwarded k).2.2.hub = (d.withoutAll (d.forwarded k)).hub := by
  unfold Dev.dropForwarded
  rw [← Dev.forwarded]
  generalize d.forwarded k = l
  suffices all : ∀ (l : List Txn) (acc : Nat × Nat × Dev) (d : Dev), acc.2.2.hub = d.hub → (l.foldl (fun (r, w, d) x =>
      if x.op.isWrite then (r, w + 1, (d.logDrop (BitVec.ofNat 16 (maMember x.ma * 2 ^ 13)) x.ma).finish x .cmp)
      else (r + 1, w, d.finishPoisoned x)) acc).2.2.hub = (d.withoutAll l).hub from all l (0, 0, d) d rfl
  intro l
  induction l with
  | nil => exact fun _ _ same => same
  | cons x l ih =>
    intro ⟨r, w, e⟩ d same
    rw [List.foldl_cons]
    refine ih _ (d.without x) ?_
    dsimp only
    split
    · exact (Dev.finish_hub _ x .cmp).trans (Dev.without_hub ((e.emit_hub _).trans same) x)
    · exact (e.finishPoisoned_hub x).trans (Dev.without_hub same x)

/-! ### Extents and blocks on the lost members -/

section
variable (d : Dev)

theorem Dev.syncBrew_hub : d.syncBrew.hub = d.hub := by
  have reg : ∀ o, hubReg o = true → d.syncBrew.reg o = d.reg o := fun o hub => d.syncBrew_reg (by rintro rfl; exact absurd hub (by decide))
  refine Dev.hub_of_reg ?_ reg
  obtain ⟨r, synced⟩ := d.syncBrew_regsOf
  rw [synced]
  rfl

theorem Dev.startInternal_hub (kind : Nat) (w : Work) (planned : Nat) : (d.startInternal kind w planned).hub = d.hub := by
  unfold Dev.startInternal
  split
  · rfl
  · exact (Dev.setFld_hub _ _ (by decide)).trans rfl

theorem Dev.queueWipe_hub (blocks : List (Nat × Nat)) : (d.queueWipe blocks).hub = d.hub := by
  unfold Dev.queueWipe
  split
  · rfl
  · dsimp only
    split
    · exact (Dev.syncBrew_hub _).trans rfl
    · exact (Dev.syncBrew_hub _).trans (d.startInternal_hub _ _ _)

theorem Dev.walkBlock_hub (t : TenantId) (w : Word) : (d.walkBlock t w).hub = d.hub := by
  unfold Dev.walkBlock
  split <;> rfl

theorem Dev.setExt_hub (i : Nat) (w : Word) : (d.setExt i w).hub = d.hub := rfl

theorem Dev.dropExtent_hub (t : TenantId) (e : DcExtent) : (d.dropExtent t e).hub = d.hub := by
  unfold Dev.dropExtent
  dsimp only
  rw [Dev.modTenant_hub, Dev.setExt_hub]
  split
  · rw [Dev.queueWipe_hub]
    exact (Dev.modLd_hub _ _ _ _).trans (d.walkBlock_hub t _)
  · rfl

theorem Dev.dropMemberExtents_hub (k : Nat) : (d.dropMemberExtents k).2.hub = d.hub := by
  refine foldl_keeps (fun q : Nat × Dev => q.2.hub) _ _ (0, d) fun (n, d) t => ?_
  dsimp only
  split
  · exact foldl_keeps Dev.hub _ _ d fun d e => d.dropExtent_hub t e
  · exact (Dev.emit_hub _ _).trans (foldl_keeps Dev.hub _ _ d fun d e => d.dropExtent_hub t e)

theorem Dev.listPoison_hub (p : PortId) (ld line : Nat) (src : PoisonSrc) : (d.listPoison p ld line src).hub = d.hub := by
  unfold Dev.listPoison
  dsimp only
  split
  · rfl
  · split
    · exact d.modLd_hub _ _ _
    · unfold Dev.poisonOverflow
      split
      · rfl
      · dsimp only
        rw [Dev.raise_hub]
        exact (Dev.setFld_hub _ _ (by cases p <;> decide)).trans (d.modLd_hub _ _ _)

theorem Dev.listLines_hub (p : PortId) (ld first len : Nat) (src : PoisonSrc) : (d.listLines p ld first len src).hub = d.hub :=
  foldl_keeps Dev.hub _ _ d fun d _ => d.listPoison_hub _ _ _ _

theorem Dev.loseStatic_hub (k : Nat) : (d.loseStatic k).2.hub = d.hub := by
  refine foldl_keeps (fun q : Nat × Dev => q.2.hub) _ _ (0, d) fun (n, d) t => ?_
  refine foldl_keeps (fun q : Nat × Dev => q.2.hub) _ _ (n, d) fun (n, d) e => ?_
  dsimp only
  rw [Dev.listLines_hub]
  rfl

theorem Dev.cdatPort_hub (p : PortId) : (d.cdatPort p).hub = d.hub := foldl_keeps Dev.hub _ _ d fun d ld => d.modLd_hub p ld _

end

/-! ### The positions that are lost -/

section
variable (d : Dev)

/-- A device whose positions of a list show STATE 3. -/
def Dev.markGone (d : Dev) (gone : List Nat) : Dev := gone.foldl (fun d m => d.setFld (Fld.rlyMember_state m) 3) d

theorem Dev.markGone_rest (gone : List Nat) : ((d.markGone gone).standing, (d.markGone gone).clk, (d.markGone gone).mem,
    (d.markGone gone).txns, (d.markGone gone).chain) = (d.standing, d.clk, d.mem, d.txns, d.chain) :=
  foldl_keeps (fun d : Dev => (d.standing, d.clk, d.mem, d.txns, d.chain)) _ _ d fun _ _ => rfl

theorem Dev.markGone_reg (gone : List Nat) {o : Nat} (below : o < 0x41100) : (d.markGone gone).reg o = d.reg o :=
  foldl_keeps (fun d : Dev => d.reg o) _ _ d fun d m => Dev.reg_setFld_ne _ _ (show o ≠ 0x41100 + 4 * m by omega)

theorem Dev.markGone_state (gone : List Nat) (m : Nat) :
    (d.markGone gone).fld (Fld.rlyMember_state m) = if m ∈ gone then 3 else d.fld (Fld.rlyMember_state m) := by
  induction gone generalizing d with
  | nil => rfl
  | cons x gone ih =>
    refine (ih (d.setFld (Fld.rlyMember_state x) 3)).trans ?_
    by_cases same : m = x
    · subst same
      rw [Dev.fld_setFld_same _ _ _ (show 29 + 3 ≤ 32 by decide)]
      simp [Fld.rlyMember_state]
    · have apart : (Fld.rlyMember_state m).off ≠ (Fld.rlyMember_state x).off :=
        (show 0x41100 + 4 * m ≠ 0x41100 + 4 * x by omega)
      have kept : (d.setFld (Fld.rlyMember_state x) 3).fld (Fld.rlyMember_state m) = d.fld (Fld.rlyMember_state m) :=
        congrArg (fieldOf · _ _) (Dev.reg_setFld_ne _ _ apart)
      simp [same, kept]

/-- A device without records of the positions of a list. -/
def Dev.forgetGone (d : Dev) (gone : List Nat) : Dev := { d with chain := { d.chain with
  members := Vector.ofFn fun (m : Fin 8) => if gone.contains m.val then none else d.chain.members[m]
  pendingUp := Vector.ofFn fun (m : Fin 8) => if gone.contains m.val then false else d.chain.pendingUp[m] } }

theorem Dev.forgetGone_member (gone : List Nat) {m : Nat} (known : m < 8) :
    vget none (d.forgetGone gone).chain.members m = if m ∈ gone then none else vget none d.chain.members m := by
  simp [Dev.forgetGone, vget, known]

/-! ### MEMBER_LOSS -/

/-- A device in which no loss is due. -/
def Dev.lossTaken (d : Dev) : Dev := { d with chain := { d.chain with lossDue := none } }

/-- The end of the clean-up: the positions, the event, and the new roll call. -/
def Dev.lossTold (d : Dev) (gone : List Nat) (told : List Word) : Dev :=
  if gone.isEmpty then (d.markGone gone).forgetGone gone else ((d.markGone gone).forgetGone gone).raiseN 0x1A7 told

theorem Dev.lossTold_hub (gone : List Nat) (told : List Word) : (d.lossTold gone told).hub = ((d.markGone gone).forgetGone gone).hub := by
  unfold Dev.lossTold
  split
  · rfl
  · exact Dev.raise_hub _ _

variable {d}

/-- The loss that is due, unfolded as a function with the three drops opaque: none of them is to be computed. -/
theorem Dev.edgeMemberLoss_due {k : Fin 8} {cause : LossCause} (live : d.live = true) (head : d.isHead = true)
    (due : d.chain.lossDue = some (k.val, cause)) : ∃ e b : Dev, e.hub = (d.lossTaken.withoutAll (d.forwarded (max 1 k.val))).hub ∧
      b.hub = ((e.markGone (presentFrom d k.val)).forgetGone (presentFrom d k.val)).hub ∧
      Dev.edgeMemberLoss k cause d = (b.rollCall false).endRoll := by
  obtain ⟨f, as_function⟩ : ∃ f, f = Dev.edgeMemberLoss := ⟨_, rfl⟩
  rw [← as_function]
  delta Dev.edgeMemberLoss at as_function
  have dropped := Dev.dropForwarded_hub d.lossTaken (max 1 k.val)
  have extents := Dev.dropMemberExtents_hub
  have static := Dev.loseStatic_hub
  generalize Dev.dropForwarded = dropForwarded at as_function dropped
  generalize Dev.dropMemberExtents = dropMemberExtents at as_function extents
  generalize Dev.loseStatic = loseStatic at as_function static
  rw [as_function]
  beta_reduce
  rw [if_pos (by simp [live, head, due])]
  rw [show ({ d with chain := { d.chain with lossDue := none } } : Dev) = d.lossTaken from rfl]
  extract_lets gone e
  have same : (dropForwarded e (max 1 k.val)).2.2.hub = (d.lossTaken.withoutAll (d.forwarded (max 1 k.val))).hub := dropped
  rw [show presentFrom d k.val = gone from rfl]
  clear_value gone e
  split
  next reads writes e₁ first =>
  rw [first] at same
  have same := (extents e₁ (max 1 k.val)).trans same
  split
  next exts e₂ second =>
  rw [second] at same
  have same := (static e₂ (max 1 k.val)).trans same
  split
  next blocks e₃ third =>
  rw [third] at same
  generalize [word1 k.val, word1 (lossCode cause), word1 reads, word1 writes, word1 exts, word1 blocks] = told
  exact ⟨e₃, (e₃.lossTold gone told).floorMoved.cdatPort .a, same, (Dev.cdatPort_hub _ .a).trans (Dev.lossTold_hub e₃ gone told),
    congrArg (fun b : Dev => ((b.floorMoved.cdatPort .a).rollCall false).endRoll) (rfl : _ = e₃.lossTold gone told)⟩

end

section
variable {d e : Dev}

/-- What a loss leaves alone: the ports, their links, and the rest of the chain's status. -/
def Dev.place (d : Dev) : (Part × Fuses × Mode) × Clock × Mem × Option (Nat × LossCause) × Nat × (PortId → Nat × Nat) :=
  (d.standing, d.clk, d.mem, d.chain.lossDue, d.fld Fld.rlyChainSts_epoch, fun p => (d.role p, d.rlyState p))

theorem Dev.hub_place (same : e.hub = d.hub) : e.place = d.place :=
  congrArg (fun h : Hub => (h.stands, h.clk, h.mem, h.chain.lossDue, 
    fieldOf h.chainSts Fld.rlyChainSts_epoch.lo Fld.rlyChainSts_epoch.w, h.ports)) same

theorem Dev.hub_member (same : e.hub = d.hub) {m : Nat} (small : m < 8) : e.fld (Fld.rlyMember_state m) = d.fld (Fld.rlyMember_state m) :=
  congrArg (fieldOf · _ _) (congrFun (congrArg Hub.members same) ⟨m, small⟩)

theorem Dev.withoutAll_keeps (d : Dev) (l : List Txn) :
    (d.withoutAll l).place = d.place ∧ (d.withoutAll l).regs = d.regs ∧ (d.withoutAll l).chain = d.chain := by
  induction l generalizing d with
  | nil => exact ⟨rfl, rfl, rfl⟩
  | cons x l ih => exact ih (d.without x)

theorem Dev.marked_place (d : Dev) (gone : List Nat) : ((d.markGone gone).forgetGone gone).place = d.place ∧
    ((d.markGone gone).forgetGone gone).txns = d.txns := by
  have rest := d.markGone_rest gone
  simp only [Prod.mk.injEq] at rest
  obtain ⟨stands, clk, mem, txns, chain⟩ := rest
  have due : ((d.markGone gone).forgetGone gone).chain.lossDue = d.chain.lossDue :=
    show (d.markGone gone).chain.lossDue = _ by rw [chain]
  have epoch : ((d.markGone gone).forgetGone gone).fld Fld.rlyChainSts_epoch = d.fld Fld.rlyChainSts_epoch :=
    congrArg (fieldOf · _ _) (d.markGone_reg gone (by decide))
  have role : ∀ p, ((d.markGone gone).forgetGone gone).role p = d.role p := fun p =>
    congrArg (fieldOf · _ _) (d.markGone_reg gone (by cases p <;> decide))
  have state : ∀ p, ((d.markGone gone).forgetGone gone).rlyState p = d.rlyState p := fun p =>
    congrArg (fieldOf · _ _) (d.markGone_reg gone (by cases p <;> decide))
  refine ⟨?_, txns⟩
  unfold Dev.place
  simp only [due, epoch, role, state]
  rw [show ((d.markGone gone).forgetGone gone).standing = d.standing from stands,
    show ((d.markGone gone).forgetGone gone).clk = d.clk from clk, show ((d.markGone gone).forgetGone gone).mem = d.mem from mem]

/-- A position marked is lost and has no record; another one stays. -/
theorem Dev.marked_member (d : Dev) (gone : List Nat) {m : Nat} (small : m < 8) :
    ((d.markGone gone).forgetGone gone).fld (Fld.rlyMember_state m) = (if m ∈ gone then 3 else d.fld (Fld.rlyMember_state m)) ∧
      vget none ((d.markGone gone).forgetGone gone).chain.members m = if m ∈ gone then none else vget none d.chain.members m := by
  refine ⟨d.markGone_state _ m, (Dev.forgetGone_member _ _ small).trans ?_⟩
  have rest := d.markGone_rest gone
  simp only [Prod.mk.injEq] at rest
  obtain ⟨-, -, -, -, chain⟩ := rest
  rw [chain]

theorem rlyMember_apart {m : Nat} (small : m < 8) : Off.rlyMember m ≠ Off.rlyChainSts ∧ relayReg (Off.rlyMember m) = false := by
  revert m
  decide

/-- What the loss leaves before its roll call. -/
theorem Dev.edgeMemberLoss_leaves {k : Fin 8} {cause : LossCause} (live : d.live = true) (head : d.isHead = true)
    (due : d.chain.lossDue = some (k.val, cause)) : ∃ b : Dev, Dev.edgeMemberLoss k cause d = (b.rollCall false).endRoll ∧ b.place = d.lossTaken.place ∧
      (∀ x ∈ b.txns, x ∈ d.txns ∧ ∀ y ∈ d.forwarded (max 1 k.val), x.id ≠ y.id) ∧
      ∀ m < 8, b.fld (Fld.rlyMember_state m) = (if m ∈ presentFrom d k.val then 3 else d.fld (Fld.rlyMember_state m)) ∧
        vget none b.chain.members m = if m ∈ presentFrom d k.val then none else vget none d.chain.members m := by
  obtain ⟨e, b, cleared, shown, effect⟩ := Dev.edgeMemberLoss_due live head due
  obtain ⟨same, regs, chain⟩ := d.lossTaken.withoutAll_keeps (d.forwarded (max 1 k.val))
  have requests := Dev.mem_withoutAll (d.forwarded (max 1 k.val)) d.lossTaken
  generalize d.lossTaken.withoutAll (d.forwarded (max 1 k.val)) = w at cleared same regs chain requests
  obtain ⟨place, txns⟩ := e.marked_place (presentFrom d k.val)
  refine ⟨b, effect, (Dev.hub_place shown).trans (place.trans ((Dev.hub_place cleared).trans same)), fun x here => ?_, fun m small => ?_⟩
  · have left : b.txns = w.txns := (congrArg Hub.txns shown : b.txns = _).trans (txns.trans (congrArg Hub.txns cleared : e.txns = _))
    exact (requests x).mp (left ▸ here)
  · obtain ⟨state, record⟩ := e.marked_member (presentFrom d k.val) small
    have before : e.fld (Fld.rlyMember_state m) = d.fld (Fld.rlyMember_state m) :=
      (Dev.hub_member cleared small).trans (Dev.fld_of_regs regs _)
    have members : e.chain.members = d.chain.members := (congrArg (·.chain.members) cleared : e.chain.members = w.chain.members).trans
      (congrArg Chain.members chain :)
    rw [before] at state
    rw [members] at record
    exact ⟨(Dev.hub_member shown small).trans state,
      (congrArg (fun h : Hub => vget none h.chain.members m) shown : vget none b.chain.members m = _).trans record⟩

end

section
variable {s : State} {k : Fin 8} {cause : LossCause} (boundary : AtBoundary s.dev)
include boundary

theorem completes_memberLoss (live : s.dev.live = true) (keyed : DownKeyed s.dev) (due : s.dev.chain.lossDue = some (k.val, cause)) :
    Completes (.memberLoss k cause) s fun d => d.chain.lossDue = none ∧ Rolling d s.dev false ∧ d.mem = s.dev.mem ∧ d.mode = s.dev.mode ∧
      (∀ x ∈ d.txns, ¬ (x.phase = .relayed ∧ max 1 k.val ≤ maMember x.ma)) ∧
      (∀ m ∈ List.range 8, if m ∈ presentFrom s.dev k.val then d.fld (Fld.rlyMember_state m) = 3 ∧ vget none d.chain.members m = none
        else d.fld (Fld.rlyMember_state m) = s.dev.fld (Fld.rlyMember_state m) ∧ vget none d.chain.members m = vget none s.dev.chain.members m) := by
  obtain ⟨b, effect, place, requests, members⟩ := Dev.edgeMemberLoss_leaves live keyed.1 due
  simp only [Dev.place, Prod.mk.injEq] at place
  obtain ⟨stands, clk, mem, lossDue, epoch, ports⟩ := place
  obtain ⟨head, down, -⟩ := Dev.place_of_roles fun p => congrArg Prod.fst (congrFun ports p)
  have keyed' : DownKeyed b := by
    rw [DownKeyed, head, down, show b.rlyState = s.dev.rlyState from funext fun p => congrArg Prod.snd (congrFun ports p)]
    exact keyed
  obtain ⟨quiet, ⟨epoch', rolling⟩, calm, chain, -, reg⟩ := Dev.rollCall_keyed false keyed'
  obtain ⟨stands', mem', txns, -⟩ := undisturbed_of_calm calm
  have now : b.now = s.dev.now := congrArg (·.pour.toNat) clk
  refine .of_standing (e := b.rollCall false) (rfl : _ = s.on (Dev.atEdge (Dev.edgeMemberLoss k cause)))
    ((Dev.atEdge_atBoundary _ boundary).trans (effect.trans quiet)) (stands'.trans stands)
    ⟨by rw [chain]; exact lossDue, ⟨by rw [epoch', epoch]; rfl, by rw [rolling, now]⟩, mem'.trans mem,
      congrArg (·.2.2) (stands'.trans stands), ?_, ?_⟩
  · rintro x here ⟨relayed, behind⟩
    rw [txns] at here
    obtain ⟨before, other⟩ := requests x here
    exact other x (List.mem_filter.mpr ⟨before, by simp [relayed, behind]⟩) rfl
  · intro m known
    have small : m < 8 := List.mem_range.mp known
    obtain ⟨state, record⟩ := members m small
    obtain ⟨other, relay⟩ := rlyMember_apart small
    have state' : (b.rollCall false).fld (Fld.rlyMember_state m) = _ := (congrArg (fieldOf · _ _) (reg _ other relay)).trans state
    have record' : vget none (b.rollCall false).chain.members m = _ := (congrArg (vget none ·.members m) chain).trans record
    rw [state', record']
    split
    · exact ⟨rfl, rfl⟩
    · exact ⟨rfl, rfl⟩

theorem completes_memberLoss_other (other : s.dev.chain.lossDue ≠ some (k.val, cause)) :
    Completes (.memberLoss k cause) s fun d => d = s.dev := by
  refine .of_standing (e := s.dev) (rfl : _ = s.on (Dev.atEdge (Dev.edgeMemberLoss k cause))) ?_ rfl rfl
  rw [Dev.atEdge_atBoundary _ boundary, Dev.edgeMemberLoss, if_neg (by simp [other])]

end

/-- Settles O47: the commands of the chain, the two waits of a roll call, and the loss of members. -/
theorem rollCallsAndLossesMoveTheChain : Obligations.RollCallsAndLossesMoveTheChain := by
  unfold Obligations.RollCallsAndLossesMoveTheChain
  refine ⟨?aside, ?alone, ?keyed, ?map, ?wait, ?waitEarly, ?first, ?again, ?early, ?loss, ?other⟩
  case aside => exact fun s i p takes own aside => completes_xtChainRollcall_aside takes own aside
  case alone => exact fun s i p q takes own head unasked _ down quiet well => completes_xtChainRollcall_alone takes own head unasked down quiet well
  case keyed => exact fun s i p takes own keyed unasked => completes_xtChainRollcall_keyed takes own keyed unasked
  case map => exact fun s i p takes own => completes_xtChainMap takes own
  case wait => exact fun s t live waits due => completes_rollCallWaitExpiry live waits due
  case waitEarly => exact fun s early => completes_rollCallWaitExpiry_early early
  case first => exact fun s t live keyed rolls due => completes_rollCallReturnTimeout_first live keyed due rolls
  case again => exact fun s t live keyed rolls due => completes_rollCallReturnTimeout_again live keyed rolls due
  case early => exact fun s early => completes_rollCallReturnTimeout_early early
  case loss => exact fun s k c boundary live keyed due => completes_memberLoss boundary live keyed due
  case other => exact fun s k c boundary other => completes_memberLoss_other boundary other

end Sys2Proof.Machine
